-- ==== Sys2Proof/Word.lean ====
section
/-! DEFINITION. Word.lean: the word types of the 9640 and the sparse tables every numbered
collection is held in. Only types stand here; every helper over them is in Machine/Bits.lean. -/
namespace Sys2Proof

/-- A byte as registers, descriptors, frames and memories hold it. -/
abbrev Byte := BitVec 8

/-- A 32-bit register or descriptor word (R3, R40). -/
abbrev Word := BitVec 32

/-- A hoop number: 32 bits, wrapping (Table 0-5). -/
abbrev Hoop := BitVec 32

/-- A collection numbered by naturals, held as the list of its entries that differ from what an
unlisted number reads as, in rising order of number. -/
abbrev Table (α : Type) := List (Nat × α)

end Sys2Proof
end

