-- ==== Sys2Proof/Machine/Bits.lean ====
section
/-! DEFINITION. Machine/Bits.lean: bit fields, fixed point and rounding (R4 to R8), byte order
(R3), serial comparison of hoop numbers (R11), and the operations of the sparse tables. -/
namespace Sys2Proof.Machine

/-! ### Fields of a word (R4) -/

/-- Bits `hi:lo` of `w`, both ends included. -/
def bits (w hi lo : Nat) : Nat := (w / 2 ^ lo) % 2 ^ (hi + 1 - lo)

/-- Bit `k` of `w`. -/
def bitOf (w k : Nat) : Bool := decide ((w / 2 ^ k) % 2 = 1)

/-- Field `hi:lo` of a register word. -/
def fld (w : Word) (hi lo : Nat) : Nat := bits w.toNat hi lo

/-- Bit `k` of a register word. -/
def bitW (w : Word) (k : Nat) : Bool := bitOf w.toNat k

/-- `w` with field `hi:lo` replaced by the low bits of `v`. -/
def setFld (w : Word) (hi lo v : Nat) : Word :=
  let m := (2 ^ (hi + 1 - lo) - 1) * 2 ^ lo
  (w &&& ~~~(BitVec.ofNat 32 m)) ||| (BitVec.ofNat 32 (v * 2 ^ lo) &&& BitVec.ofNat 32 m)

/-- The value of a Bool as a bit. -/
def b2n (b : Bool) : Nat := if b then 1 else 0

/-- The low `n` bits of `v` read as two's complement (R5). -/
def sext (n v : Nat) : Int :=
  let u := v % 2 ^ n
  if u < 2 ^ (n - 1) then (u : Int) else (u : Int) - (2 ^ n : Nat)

/-- The low `n` bits of a signed value. -/
def toBits (n : Nat) (v : Int) : Nat := (v % ((2 ^ n : Nat) : Int)).toNat

/-- A natural as a register word, wrapping. -/
def w32 (n : Nat) : Word := BitVec.ofNat 32 n

/-! ### Rounding (R6, R7) -/

/-- RHU: add half, then shift right by `k` (arithmetic). -/
def rhu (k : Nat) (v : Int) : Int := if k = 0 then v else (v + (2 ^ (k - 1) : Nat)) / ((2 ^ k : Nat) : Int)

/-- TRN: shift right by `k` (arithmetic). -/
def trn (k : Nat) (v : Int) : Int := v / ((2 ^ k : Nat) : Int)

/-- SAT to an unsigned format of `n` bits. -/
def satU (n : Nat) (v : Int) : Nat := min v.toNat (2 ^ n - 1)

/-- SAT to a range of integers. -/
def clampI (lo hi v : Int) : Int := if v < lo then lo else if hi < v then hi else v

/-- A count that stops at `2^n - 1` instead of wrapping. -/
def satInc (n c : Nat) : Nat := min (c + 1) (2 ^ n - 1)

/-! ### Hoop numbers (R11) -/

/-- `later a b`: hoop `b` is later than hoop `a` (0 < d < 2^31). -/
def later (a b : Hoop) : Bool := decide (0 < (b - a).toNat ∧ (b - a).toNat < 2 ^ 31)

/-- `earlier a b`: hoop `b` is earlier than hoop `a`; a distance of 2^31 counts as earlier. -/
def earlier (a b : Hoop) : Bool := decide (2 ^ 31 ≤ (b - a).toNat)

/-! ### Byte order (R3) -/

/-- The little-endian value of a byte list. -/
def leNat : List Byte → Nat
  | [] => 0
  | b :: bs => b.toNat + 256 * leNat bs

/-- The big-endian (network order) value of a byte list. -/
def beNat (bs : List Byte) : Nat := leNat bs.reverse

/-- `n` bytes of `v`, little-endian. -/
def leBytes : Nat → Nat → List Byte
  | 0, _ => []
  | n + 1, v => BitVec.ofNat 8 v :: leBytes n (v / 256)

/-- `n` bytes of `v` in network order. -/
def beBytes (n v : Nat) : List Byte := (leBytes n v).reverse

/-- `n` bytes of `bs` from `off`, zero beyond the end. -/
def slice (bs : List Byte) (off n : Nat) : List Byte :=
  let t := (bs.drop off).take n
  t ++ List.replicate (n - t.length) 0

/-- Byte `i` of `bs`, zero beyond the end. -/
def byteAt (bs : List Byte) (i : Nat) : Nat := ((bs[i]?).getD 0).toNat

/-- Little-endian field of `n` bytes at `off`. -/
def le (bs : List Byte) (off n : Nat) : Nat := leNat (slice bs off n)

/-- Network-order field of `n` bytes at `off`. -/
def be (bs : List Byte) (off n : Nat) : Nat := beNat (slice bs off n)

/-- `bs` with the bytes at `off` replaced by `new`, for a range inside `bs`. -/
def splice (bs : List Byte) (off : Nat) (new : List Byte) : List Byte :=
  bs.take off ++ new ++ bs.drop (off + new.length)

/-! ### Sparse tables -/

/-- What number `k` of a table holds; `d k` where it is not listed. -/
def tget {α : Type} (d : Nat → α) : Table α → Nat → α
  | [], k => d k
  | (a, v) :: m, k => if k = a then v else if k < a then d k else tget d m k

/-- The table with number `k` holding `v`, in canonical form: rising numbers, and no entry equal
to what an unlisted number reads as. -/
def tput {α : Type} [DecidableEq α] (d : Nat → α) : Table α → Nat → α → Table α
  | [], k, v => if v = d k then [] else [(k, v)]
  | (a, w) :: m, k, v =>
    if k < a then (if v = d k then (a, w) :: m else (k, v) :: (a, w) :: m)
    else if k = a then (if v = d k then m else (k, v) :: m)
    else (a, w) :: tput d m k v

/-- The canonical form of a table: the numbers rise strictly from `lo` on, and no entry holds its default. -/
def twfFrom {α : Type} [DecidableEq α] (d : Nat → α) : Nat → Table α → Bool
  | _, [] => true
  | lo, (a, v) :: m => decide (lo ≤ a) && !decide (v = d a) && twfFrom d (a + 1) m

/-- The canonical form of a table. -/
def twf {α : Type} [DecidableEq α] (d : Nat → α) (m : Table α) : Bool := twfFrom d 0 m

/-- Number `k` changed by `f`. -/
def tmod {α : Type} [DecidableEq α] (d : Nat → α) (m : Table α) (k : Nat) (f : α → α) : Table α :=
  tput d m k (f (tget d m k))

/-- Every listed number changed by `f`. -/
def tmap {α : Type} [DecidableEq α] (d : Nat → α) (m : Table α) (f : α → α) : Table α :=
  m.foldl (fun acc x => tput d acc x.1 (f x.2)) m

/-- A table of `n` consecutive values from number `base`. -/
def tputList {α : Type} [DecidableEq α] (d : Nat → α) (m : Table α) (base : Nat) : List α → Table α
  | [] => m
  | v :: vs => tputList d (tput d m base v) (base + 1) vs

/-- The values at `n` consecutive numbers from `base`. -/
def tgetList {α : Type} (d : Nat → α) (m : Table α) (base n : Nat) : List α :=
  (List.range n).map fun i => tget d m (base + i)

/-! ### Small list helpers -/

/-- The first element that passes `p` changed by `f`. -/
def modFirst {α : Type} (p : α → Bool) (f : α → α) : List α → List α
  | [] => []
  | x :: xs => if p x then f x :: xs else x :: modFirst p f xs

/-- The sum of a list of naturals. -/
def sumNat (l : List Nat) : Nat := l.foldl (· + ·) 0

/-- The first of `n` numbers after `start`, in a circle of `n`, that passes `p`: round robin. -/
def roundRobin (n start : Nat) (p : Nat → Bool) : Option Nat :=
  ((List.range n).map fun i => (start + 1 + i) % n).find? p

end Sys2Proof.Machine
end

