-- ==== Sys2Proof/Machine/Desc.lean ====
section
/-! DEFINITION. Machine/Desc.lean: the data a command carries: the 64-byte descriptor (R51), who
writes a register, sensor reads, notices (Table 2-8), and what the 9640 sends to the host and to its ports. -/
namespace Sys2Proof

/-- A descriptor (Table 2-4), its bytes read little-endian. -/
structure Desc where
  opcode : Nat
  flags : Nat
  tag : Nat
  target : Hoop
  hostAddr : Nat
  length : Nat
  object : Nat
  args : List Word
  deriving DecidableEq, Repr

/-- Who makes a register access: the host over PCIe, or firmware on control core `c`. -/
inductive Source where
  | host
  | core (c : Fin 8)
  deriving DecidableEq, Repr

/-- An image data unit read from package memory, a die store or the keep, as ECC leaves it. -/
inductive EccRead where
  | clean
  | corrected
  | uncorrectable
  deriving DecidableEq, Repr

/-- The operations of an atomic memory operation of RV32A (R354). -/
inductive AmoOp where
  | swap
  | add
  | xor
  | and
  | or
  | min
  | max
  | minu
  | maxu
  deriving DecidableEq, Repr

/-- How a control core reads a word (Table 13-1, R355): a fetch; a load of 2^size bytes; load-reserve; a
store-conditional or an atomic operation with its operand. -/
inductive CoreAccess where
  | fetch
  | load (size : Fin 3)
  | lr
  | sc (v : Word)
  | amo (op : AmoOp) (v : Word)
  deriving DecidableEq, Repr

/-- An access of a control core, and what ECC makes of the words it meets (R356). -/
structure CoreTry where
  kind : CoreAccess
  ecc : EccRead
  deriving DecidableEq, Repr

/-- The ranges of the cores' address map (Table 13-1). -/
inductive Area where
  | imem
  | dmem
  | shared
  | blocks
  | port
  | package
  | nothing
  deriving DecidableEq, Repr

/-- How a lamp-board sensor answers a read of its temperature register (R253): the two data bytes in
the order they arrive, or its failure. -/
inductive SensorRead where
  | word (first second : Nat)
  | noAck
  | clockLow
  | stuck
  deriving DecidableEq, Repr

namespace Machine

/-- FLAGS bit 0: AT_HOOP (Table 2-5). -/
def Desc.atHoop (d : Sys2Proof.Desc) : Bool := bitOf d.flags 0
/-- FLAGS bit 1: ORDERED. -/
def Desc.ordered (d : Sys2Proof.Desc) : Bool := bitOf d.flags 1
/-- FLAGS bit 2: SILENT. -/
def Desc.silent (d : Sys2Proof.Desc) : Bool := bitOf d.flags 2
/-- FLAGS bit 3: URGENT_IRQ. -/
def Desc.urgent (d : Sys2Proof.Desc) : Bool := bitOf d.flags 3

/-- ARG`i` of a descriptor; words beyond ARG9 do not exist and read zero. -/
def darg (d : Sys2Proof.Desc) (i : Nat) : Nat := ((d.args[i]?).getD 0).toNat

/-- A notice as its block raises it (Table 2-8); DETAIL is bytes 8 to 15, little-endian. -/
structure Notice where
  code : Nat
  inst : Nat
  hoop : Hoop
  detail : Nat
  deriving DecidableEq, Repr

/-- The 16 bytes of a notice record with `byte3` as its phase and kind byte. -/
def Notice.bytes (n : Notice) (byte3 : Nat) : List Byte :=
  leBytes 2 n.code ++ leBytes 1 n.inst ++ leBytes 1 byte3 ++ leBytes 4 n.hoop.toNat ++
    leBytes 8 n.detail

/-- What a step of a stitch program drives on the balls of a lane (Table 9-5), times in ticks of 5 ns. -/
inductive LaneEvent where
  /-- bits shifted, first bit first, one in each shift clock period of `div` ticks (R251) -/
  | data (bits : List Bool) (div : Nat)
  /-- LAT asserted for `ticks`, with `clks` shift clock periods of `div` ticks in which DATA is 0 -/
  | lat (ticks clks div : Nat)
  /-- BLANK at the enable level for `ticks` -/
  | lit (ticks : Nat)
  /-- GCLK pulses on BLANK, each with a period of `gdiv` ticks -/
  | pulses (count gdiv : Nat)
  deriving DecidableEq, Repr

/-- What leaves the 9640: HIF's read requests, posted writes to host memory, messages, and frames (R45, R57,
R48, R79, R58, R303). -/
inductive HostWrite where
  /-- a completion record: its ring, its position, its host address and its bytes (R43, R57) -/
  | completion (cq pos addr : Nat) (record : List Byte)
  | notice (cq pos addr : Nat) (record : List Byte)
  /-- HEAD(n) written to the head page at a host address (R48) -/
  | head (ring addr : Nat) (value : Word)
  /-- HIF's own read request: descriptor slots or the doorbell and release block (R45, R50) -/
  | read (addr len : Nat)
  | message (vector : Nat)
  | data (addr : Nat) (bytes : List Byte)
  /-- a frame that left port `port`, from destination MAC through its FCS, with any inserted tag -/
  | wire (port : Nat) (bytes : List Byte)
  /-- ball TOUT`unit` changes to a level at an elapsed instant in quarter-ns (R101) -/
  | tout (unit : Nat) (level : Bool) (instant : Nat)
  /-- what the balls of a bobbin lane carry from an elapsed instant in quarter-ns on (R236) -/
  | lane (lane instant : Nat) (event : LaneEvent)
  /-- the address lines of lane group `group` change at an elapsed instant (R236) -/
  | row (group instant addr : Nat)
  /-- a read word on the SMBus of lane group `group`, at 400 kHz or 100 kHz: START, address with write, command,
  repeated START, address with read (R253) -/
  | smbus (group : Nat) (fast : Bool) (addr command : Nat)
  deriving DecidableEq, Repr

end Machine
end Sys2Proof
end

