-- ==== Sys2Proof/Config.lean ====
section
/-! DEFINITION. Config.lean: what the spec leaves to the unit or leaves open: constants without a
body, so that no proof can see their values. Each is named in a log entry. -/
namespace Sys2Proof.Config

/-- Supply of fresh free values; the state's counter picks the next (log 2). -/
opaque freeValue : Nat → Nat

/-- Curve RAM after a device reset, by slot and entry (R153, log 3). -/
opaque curveInit : Nat → Nat → Nat

/-- The notice queue that receives HIF's firmware notices, where the spec names no NQ
field for the block (log 4). -/
opaque blockQueue : Nat → Nat

/-- What firmware makes of the pc and registers a core loaded, until the scheduler saves them: byte of the
TCB, its value as loaded, number of the save (R357, log 5). -/
opaque coreContext : Nat → Nat → Nat → Nat

/-- The 64-bit device serial number of the unit (R429, GLB_SERIAL). -/
opaque serial : Nat

/-- GLB_IDENT.GRADE of the unit: its ordering code (R469). -/
opaque grade : Nat

/-- GLB_PCI_IDS.VENDOR_ID: the maker's assigned identifier, which the spec does not print (R37). -/
opaque vendorId : Nat

/-- Where package memory address `a` lies: the object that holds it (0 to 6 the staging area of a part, 7 the
staged image, 8 the pixels of handles, 8 bytes each; any other number none of these) and the byte of it.
The spec gives no map of package memory (R42, log 58). -/
opaque packagePlace : Nat → Nat × Nat

/-- The byte at a package memory address that no object named above covers (log 58). -/
opaque packageByte : Nat → Nat

/-- The package memory stack, 0 or 1, that holds an address (R42, log 58). -/
opaque packageStack : Nat → Nat

/-- Which record a part 6 image whose CRC fails is reported at (R222, log 61). -/
opaque crcEntry : Nat → Nat

end Sys2Proof.Config
end

