-- ==== Sys2Proof/Machine/Regs.lean ====
section
/-! DEFINITION. Machine/Regs.lean: the registers of BAR0 (Table 2-2 and the field tables of every
chapter): each register's offset, its reset value (R15) and which of its bits are Set, Latch and
Kick (R12). A Live or Fixed field has no bit here: it is computed from the state that gives it. -/
namespace Sys2Proof.Machine

/-! ### Offsets in BAR0 -/

abbrev GLB_PCI_IDS : Nat := 0x0
abbrev HIF_CTRL : Nat := 0x10000
abbrev HIF_STATUS : Nat := 0x10004
abbrev HIF_ERR : Nat := 0x10008
abbrev HIF_PAGE_LO : Nat := 0x10010
abbrev HIF_PAGE_HI : Nat := 0x10014
abbrev HIF_HEADPG_LO : Nat := 0x10018
abbrev HIF_HEADPG_HI : Nat := 0x1001C
abbrev HIF_POLL : Nat := 0x10020
abbrev HIF_INFLIGHT : Nat := 0x10024
abbrev HIF_WINDOW : Nat := 0x10028
abbrev HIF_SQ_BASE_LO (i : Nat) : Nat := 0x11000 + 0x20 * i
abbrev HIF_SQ_BASE_HI (i : Nat) : Nat := 0x11004 + 0x20 * i
abbrev HIF_SQ_CTRL (i : Nat) : Nat := 0x11008 + 0x20 * i
abbrev HIF_SQ_STAT (i : Nat) : Nat := 0x1100C + 0x20 * i
abbrev HIF_SQ_HEAD (i : Nat) : Nat := 0x11010 + 0x20 * i
abbrev HIF_CQ_BASE_LO (i : Nat) : Nat := 0x11800 + 0x20 * i
abbrev HIF_CQ_BASE_HI (i : Nat) : Nat := 0x11804 + 0x20 * i
abbrev HIF_CQ_CTRL (i : Nat) : Nat := 0x11808 + 0x20 * i
abbrev HIF_CQ_STAT (i : Nat) : Nat := 0x1180C + 0x20 * i
abbrev HIF_CQ_POS (i : Nat) : Nat := 0x11810 + 0x20 * i
abbrev HIF_VEC_MOD (i : Nat) : Nat := 0x12000 + 0x8 * i
abbrev TIM_CTRL : Nat := 0x80000
abbrev TIM_STATUS : Nat := 0x80004
abbrev TIM_RATE : Nat := 0x80008
abbrev TIM_ADJ : Nat := 0x8000C
abbrev TIM_STEP : Nat := 0x80010
abbrev TIM_TIME_HI : Nat := 0x80014
abbrev TIM_SET_LO : Nat := 0x80018
abbrev TIM_SET_NSQ : Nat := 0x8001C
abbrev TIM_SNAP_LO : Nat := 0x80020
abbrev TIM_SNAP_NSQ : Nat := 0x80024
abbrev TIM_PORT_ASYM_RX (i : Nat) : Nat := 0x80400 + 0x10 * i
abbrev TIM_PORT_ASYM_TX (i : Nat) : Nat := 0x80404 + 0x10 * i
abbrev TIM_PORT_TS (i : Nat) : Nat := 0x80408 + 0x10 * i
abbrev TIM_MASTER_CTRL : Nat := 0x80040
abbrev TIM_MASTER_ID_HI : Nat := 0x80044
abbrev TIM_MASTER_ID_LO : Nat := 0x80048
abbrev TIM_PULSE_CTRL (i : Nat) : Nat := 0x80800 + 0x20 * i
abbrev TIM_PULSE_START_LO (i : Nat) : Nat := 0x80804 + 0x20 * i
abbrev TIM_PULSE_START_NSQ (i : Nat) : Nat := 0x80808 + 0x20 * i
abbrev TIM_PULSE_PERIOD (i : Nat) : Nat := 0x8080C + 0x20 * i
abbrev TIM_PULSE_WIDTH (i : Nat) : Nat := 0x80810 + 0x20 * i
abbrev TIM_CAP_CTRL (i : Nat) : Nat := 0x80A00 + 0x4 * i
abbrev TIM_WCLK_CTRL : Nat := 0x80B00
abbrev TIM_WCLK_STAT : Nat := 0x80B04
abbrev HOOP_CTRL : Nat := 0xA0000
abbrev HOOP_MODE : Nat := 0xA0004
abbrev HOOP_RATE : Nat := 0xA0008
abbrev HOOP_ALIGN : Nat := 0xA000C
abbrev HOOP_WORD : Nat := 0xA0010
abbrev HOOP_START_NUM : Nat := 0xA0014
abbrev HOOP_LEAD (i : Nat) : Nat := 0xA0020 + 0x4 * i
abbrev HOOP_STATUS : Nat := 0xA0040
abbrev HOOP_NUM : Nat := 0xA0044
abbrev HOOP_NEXT_SEC : Nat := 0xA0048
abbrev HOOP_NEXT_NSQ : Nat := 0xA004C
abbrev HOOP_PHASE_ERR : Nat := 0xA0050
abbrev HOOP_LTR : Nat := 0xA0060
abbrev HOOP_LTR_CFG : Nat := 0xA0064
abbrev HOOP_ABORTS : Nat := 0xA0070
abbrev ING_CTRL : Nat := 0x100000
abbrev ING_STATUS : Nat := 0x100004
abbrev ING_CURVE_ADDR : Nat := 0x100010
abbrev ING_CURVE_DATA : Nat := 0x100014
abbrev ING_PORT_STAT (i : Nat) : Nat := 0x100100 + 0x10 * i
abbrev ING_SESS_STAT (i : Nat) : Nat := 0x101000 + 0x20 * i
abbrev ING_SESS_FRAMES (i : Nat) : Nat := 0x101004 + 0x20 * i
abbrev ING_SESS_DROPS (i : Nat) : Nat := 0x101008 + 0x20 * i
abbrev ING_SESS_SSRC (i : Nat) : Nat := 0x10100C + 0x20 * i
abbrev ING_LAYER_SRC (i : Nat) : Nat := 0x103000 + 0x10 * i
abbrev LAY_CTRL : Nat := 0x140000
abbrev LAY_POOL : Nat := 0x140004
abbrev LAY_CANVAS : Nat := 0x140010
abbrev LAY_BG_RG : Nat := 0x140014
abbrev LAY_BG_B : Nat := 0x140018
abbrev LAY_COMP_BOUND : Nat := 0x140020
abbrev LAY_COMP_LAST : Nat := 0x140024
abbrev LAY_PRK_WAIT : Nat := 0x140028
abbrev LAY_HSTAT (i : Nat) : Nat := 0x141000 + 0x10 * i
abbrev LAY_HSIZE (i : Nat) : Nat := 0x141004 + 0x10 * i
abbrev LAY_HFENCE (i : Nat) : Nat := 0x141008 + 0x10 * i
abbrev LAY_LCFG (i : Nat) : Nat := 0x146000 + 0x20 * i
abbrev LAY_LOPACITY (i : Nat) : Nat := 0x146004 + 0x20 * i
abbrev LAY_LCROP_XY (i : Nat) : Nat := 0x146008 + 0x20 * i
abbrev LAY_LCROP_WH (i : Nat) : Nat := 0x14600C + 0x20 * i
abbrev LAY_LDST (i : Nat) : Nat := 0x146010 + 0x20 * i
abbrev LAY_LVIS (i : Nat) : Nat := 0x146014 + 0x20 * i
abbrev PRK_CTRL : Nat := 0x180000
abbrev PRK_STAGE (i : Nat) : Nat := 0x180010 + 0x8 * i
abbrev PRK_STAGE_BYTES (i : Nat) : Nat := 0x180014 + 0x8 * i
abbrev PRK_BAD_ENTRY : Nat := 0x180020
abbrev PRK_ACTIVE_COUNT : Nat := 0x180030
abbrev PRK_ACTIVE_TAG : Nat := 0x180034
abbrev PRK_MOTIF_TAG : Nat := 0x180038
abbrev PRK_ACTIVE_CANVAS : Nat := 0x18003C
abbrev PRK_ACTIVE_FIX : Nat := 0x180040
abbrev PRK_WALK : Nat := 0x180044
abbrev PRK_MOTIFS : Nat := 0x180048
abbrev COL_CTRL : Nat := 0x1C0000
abbrev COL_STATUS : Nat := 0x1C0004
abbrev COL_BRIGHT : Nat := 0x1C0010
abbrev COL_FIX_BRIGHT : Nat := 0x1C0014
abbrev COL_T_STALE : Nat := 0x1C0018
abbrev COL_STALE_HOOPS : Nat := 0x1C001C
abbrev COL_T_ALARM : Nat := 0x1C0020
abbrev COL_STAGE : Nat := 0x1C0030
abbrev COL_STAGE_BYTES : Nat := 0x1C0034
abbrev COL_BAD_ENTRY : Nat := 0x1C0038
abbrev COL_ACTIVE_TAG : Nat := 0x1C003C
abbrev COL_UCOUNT : Nat := 0x1C0040
abbrev COL_STALE : Nat := 0x1C0050
abbrev COL_HOT : Nat := 0x1C0054
abbrev COL_CLIP : Nat := 0x1C0058
abbrev COL_EST_SEL : Nat := 0x1C0060
abbrev COL_EST_T (i : Nat) : Nat := 0x1C0064 + 0x4 * i
abbrev COL_EST_GAIN (i : Nat) : Nat := 0x1C0074 + 0x4 * i
abbrev COL_EST_HOOP : Nat := 0x1C0084
abbrev COL_STALE_MAP (i : Nat) : Nat := 0x1C0400 + 0x4 * i
abbrev STI_CTRL : Nat := 0x200000
abbrev STI_STAGE (i : Nat) : Nat := 0x200010 + 0x8 * i
abbrev STI_STAGE_BYTES (i : Nat) : Nat := 0x200014 + 0x8 * i
abbrev STI_BAD_ENTRY : Nat := 0x200020
abbrev STI_BAD_STEP : Nat := 0x200024
abbrev STI_PROFILE_TAG : Nat := 0x200030
abbrev STI_PROGRAM_TAG : Nat := 0x200034
abbrev STI_LANE_CTRL (i : Nat) : Nat := 0x200100 + 0x20 * i
abbrev STI_LANE_STAT (i : Nat) : Nat := 0x200104 + 0x20 * i
abbrev STI_LANE_PASSES (i : Nat) : Nat := 0x200108 + 0x20 * i
abbrev STI_LANE_PASS_LEN (i : Nat) : Nat := 0x20010C + 0x20 * i
abbrev STI_SMB_CTRL (i : Nat) : Nat := 0x200110 + 0x20 * i
abbrev STI_SMB_ADDR (i : Nat) : Nat := 0x200114 + 0x20 * i
abbrev STI_SMB_OFFSET (i : Nat) : Nat := 0x200118 + 0x20 * i
abbrev STI_SMB_STAT (i : Nat) : Nat := 0x20011C + 0x20 * i
abbrev EGR_CTRL : Nat := 0x240000
abbrev EGR_STATUS : Nat := 0x240004
abbrev EGR_CID : Nat := 0x240008
abbrev EGR_TIRUM : Nat := 0x24000C
abbrev EGR_AUTH : Nat := 0x240010
abbrev EGR_MARK_MAC_HI : Nat := 0x240014
abbrev EGR_MARK_MAC_LO : Nat := 0x240018
abbrev EGR_RET_MAC_HI : Nat := 0x24001C
abbrev EGR_RET_MAC_LO : Nat := 0x240020
abbrev EGR_IP : Nat := 0x240024
abbrev EGR_PROG : Nat := 0x240028
abbrev EGR_LATE : Nat := 0x24002C
abbrev EGR_STAGE (i : Nat) : Nat := 0x240030 + 0x8 * i
abbrev EGR_STAGE_BYTES (i : Nat) : Nat := 0x240034 + 0x8 * i
abbrev EGR_BAD_ENTRY : Nat := 0x240040
abbrev EGR_SCHED_TAG : Nat := 0x240044
abbrev EGR_FIX_TAG : Nat := 0x240048
abbrev EGR_DIGEST_HOOP : Nat := 0x24004C
abbrev EGR_PORT_IP (i : Nat) : Nat := 0x240400 + 0x40 * i
abbrev EGR_PORT_DST (i : Nat) : Nat := 0x240404 + 0x40 * i
abbrev EGR_RET_RATE (i : Nat) : Nat := 0x240408 + 0x40 * i
abbrev EGR_TX_LATE (i : Nat) : Nat := 0x24040C + 0x40 * i
abbrev EGR_RX_ACCEPT (i : Nat) : Nat := 0x240410 + 0x40 * i
abbrev EGR_RX_DROP (i : Nat) : Nat := 0x240414 + 0x40 * i
abbrev EGR_RX_BAD (i : Nat) : Nat := 0x240418 + 0x40 * i
abbrev EGR_RX_LIMIT (i : Nat) : Nat := 0x24041C + 0x40 * i
abbrev EGR_PROG_PEND (i : Nat) : Nat := 0x240420 + 0x40 * i
abbrev MAC_CTRL (i : Nat) : Nat := 0x280000 + 0x1000 * i
abbrev MAC_CFG (i : Nat) : Nat := 0x280004 + 0x1000 * i
abbrev MAC_ADDR_HI (i : Nat) : Nat := 0x280008 + 0x1000 * i
abbrev MAC_ADDR_LO (i : Nat) : Nat := 0x28000C + 0x1000 * i
abbrev MAC_VLAN (i : Nat) : Nat := 0x280010 + 0x1000 * i
abbrev MAC_VLAN_PCP (i : Nat) : Nat := 0x280014 + 0x1000 * i
abbrev MAC_PAUSE_TX (i : Nat) : Nat := 0x280018 + 0x1000 * i
abbrev MAC_STATUS (i : Nat) : Nat := 0x280020 + 0x1000 * i
abbrev MAC_FW_TX_ADDR (i : Nat) : Nat := 0x280028 + 0x1000 * i
abbrev MAC_FW_TX_CTRL (i : Nat) : Nat := 0x28002C + 0x1000 * i
abbrev MAC_FW_RX_BASE (i : Nat) : Nat := 0x280030 + 0x1000 * i
abbrev MAC_FW_RX_REL (i : Nat) : Nat := 0x280034 + 0x1000 * i
abbrev MAC_STAT_CTRL (i : Nat) : Nat := 0x280040 + 0x1000 * i
abbrev TWN_CTRL : Nat := 0x300000
abbrev TWN_STATUS : Nat := 0x300004
abbrev TWN_LINK : Nat := 0x300008
abbrev TWN_BOOT : Nat := 0x30000C
abbrev TWN_SETS : Nat := 0x300010
abbrev TWN_DIVERGE : Nat := 0x300014
abbrev TWN_DIVERGE_HOOP : Nat := 0x300018
abbrev TWN_DIVERGE_PORTS : Nat := 0x30001C
abbrev TWN_SAMPLER : Nat := 0x300020
abbrev TWN_SYNC : Nat := 0x300024
abbrev TWN_RX_DROP : Nat := 0x300028
abbrev CCS_CTRL : Nat := 0x340000
abbrev CCS_STATUS : Nat := 0x340004
abbrev CCS_CORE_STAT (i : Nat) : Nat := 0x340100 + 0x10 * i
abbrev CCS_PKG_WIN (i : Nat) : Nat := 0x340104 + 0x10 * i
abbrev CCS_WDOG (i : Nat) : Nat := 0x340108 + 0x10 * i
abbrev CCS_LOAD (i : Nat) : Nat := 0x34010C + 0x10 * i
abbrev CCS_OBS_CTRL : Nat := 0x340200
abbrev CCS_OBS_SEQ : Nat := 0x340204
abbrev CCS_DISPATCH : Nat := 0x340208
abbrev CCS_RDY (i : Nat) : Nat := 0x340280 + 0x4 * i
abbrev CCS_WAITT (i : Nat) : Nat := 0x340300 + 0x4 * i
abbrev NQ_CTRL (i : Nat) : Nat := 0x341000 + 0x20 * i
abbrev NQ_STAT (i : Nat) : Nat := 0x341004 + 0x20 * i
abbrev NQ_WM (i : Nat) : Nat := 0x341008 + 0x20 * i
abbrev NQ_CNT (i : Nat) : Nat := 0x34100C + 0x20 * i
abbrev NQ_POP (i : Nat) : Nat := 0x341010 + 0x20 * i
abbrev NQ_TAG (i : Nat) : Nat := 0x341014 + 0x20 * i
abbrev CCS_SRC_DROP (i : Nat) : Nat := 0x343000 + 0x4 * i
abbrev CCS_THR_CTRL (i : Nat) : Nat := 0x344000 + 0x10 * i
abbrev CCS_THR_EV (i : Nat) : Nat := 0x344004 + 0x10 * i
abbrev CCS_THR_CNT (i : Nat) : Nat := 0x344008 + 0x10 * i
abbrev CCS_THR_STAT (i : Nat) : Nat := 0x34400C + 0x10 * i
abbrev CVU_CFG (i : Nat) : Nat := 0x360000 + 0x100 * i
abbrev CVU_CTRL (i : Nat) : Nat := 0x36001C + 0x100 * i
abbrev CVU_STAT (i : Nat) : Nat := 0x360038 + 0x100 * i
abbrev CVU_BYTES (i : Nat) : Nat := 0x36003C + 0x100 * i
abbrev BOOT_STATUS : Nat := 0x20000
abbrev BOOT_CTRL : Nat := 0x20004
abbrev BOOT_ADDR_LO : Nat := 0x20008
abbrev BOOT_ADDR_HI : Nat := 0x2000C
abbrev BOOT_OFFSET : Nat := 0x20010
abbrev BOOT_LEN : Nat := 0x20014
abbrev BOOT_ACCEPTED : Nat := 0x20018
abbrev BOOT_FW_VERSION : Nat := 0x2001C
abbrev BOOT_CAUSE : Nat := 0x20020
abbrev BOOT_RESET : Nat := 0x20024
abbrev BOOT_FW_STATUS : Nat := 0x20028
abbrev BOOT_SQUELCH : Nat := 0x20030
abbrev BOOT_LIFTED_LO : Nat := 0x20034
abbrev BOOT_LIFTED_HI : Nat := 0x20038
abbrev BOOT_SQ_DROP (i : Nat) : Nat := 0x20100 + 0x4 * i
abbrev UPD_CTRL : Nat := 0x3A0000
abbrev UPD_STATUS : Nat := 0x3A0004
abbrev UPD_STAGED : Nat := 0x3A0008
abbrev UPD_STAGE_FW : Nat := 0x3A000C
abbrev UPD_ACT_HOOP : Nat := 0x3A0010
abbrev UPD_CONFIRM_LEFT : Nat := 0x3A0014
abbrev UPD_STORE_FW : Nat := 0x3A0018
abbrev UPD_STORE_GEN : Nat := 0x3A001C
abbrev UPD_TRIAL_GEN : Nat := 0x3A0020
abbrev UPD_WEAR : Nat := 0x3A0024
abbrev UPD_FW_ADDR : Nat := 0x3A0030
abbrev UPD_FW_CMD : Nat := 0x3A0034
abbrev UPD_FW_STAT : Nat := 0x3A0038
abbrev KEY_CTRL : Nat := 0x380000
abbrev KEY_STATUS : Nat := 0x380004
abbrev KEY_ATTR : Nat := 0x380008
abbrev KEY_CMD : Nat := 0x38000C
abbrev KEY_CMD_STAT : Nat := 0x380010
abbrev KEY_DATA (i : Nat) : Nat := 0x380020 + 0x4 * i
abbrev KEY_CTX (i : Nat) : Nat := 0x380040 + 0x4 * i
abbrev KEY_PROVE_CHAL (i : Nat) : Nat := 0x380080 + 0x4 * i
abbrev KEY_PROVE_NONCE (i : Nat) : Nat := 0x3800A0 + 0x4 * i
abbrev KEY_PROVE_RESP (i : Nat) : Nat := 0x3800C0 + 0x4 * i
abbrev KEY_SLOT_STAT (i : Nat) : Nat := 0x380100 + 0x4 * i
abbrev GLB_IDENT : Nat := 0x4
abbrev GLB_SERIAL_LO : Nat := 0x8
abbrev GLB_SERIAL_HI : Nat := 0xC
abbrev GLB_BEHAV : Nat := 0x10
abbrev GLB_CTRL : Nat := 0x14
abbrev GLB_FAULT : Nat := 0x20
abbrev MEM_ECC_COUNT : Nat := 0x3E0010
abbrev MEM_ECC_ADDR_LO : Nat := 0x3E0014
abbrev MEM_ECC_ADDR_HI : Nat := 0x3E0018
abbrev PSM_CTRL : Nat := 0x40000
abbrev PSM_STATUS : Nat := 0x40004
abbrev PSM_REFUSALS : Nat := 0x40008
abbrev PSM_TEMP : Nat := 0x40010
abbrev PSM_HBM_TEMP (i : Nat) : Nat := 0x40014 + 0x4 * i
abbrev PSM_TEMP_HIGH : Nat := 0x4001C
abbrev PSM_RAIL (i : Nat) : Nat := 0x40100 + 0x4 * i
abbrev CVU_POLY_LO (i : Nat) : Nat := 0x360004 + 0x100 * i
abbrev CVU_POLY_HI (i : Nat) : Nat := 0x360008 + 0x100 * i
abbrev CVU_INIT_LO (i : Nat) : Nat := 0x36000C + 0x100 * i
abbrev CVU_INIT_HI (i : Nat) : Nat := 0x360010 + 0x100 * i
abbrev CVU_XOR_LO (i : Nat) : Nat := 0x360014 + 0x100 * i
abbrev CVU_XOR_HI (i : Nat) : Nat := 0x360018 + 0x100 * i
abbrev CVU_FEED_B (i : Nat) : Nat := 0x360020 + 0x100 * i
abbrev CVU_FEED_H (i : Nat) : Nat := 0x360024 + 0x100 * i
abbrev CVU_FEED_W (i : Nat) : Nat := 0x360028 + 0x100 * i
abbrev CVU_RESULT_LO (i : Nat) : Nat := 0x360030 + 0x100 * i
abbrev CVU_RESULT_HI (i : Nat) : Nat := 0x360034 + 0x100 * i
abbrev MSIX_ADDR_LO (i : Nat) : Nat := 0x8000 + 0x10 * i
abbrev MSIX_ADDR_HI (i : Nat) : Nat := 0x8004 + 0x10 * i
abbrev MSIX_DATA (i : Nat) : Nat := 0x8008 + 0x10 * i
abbrev MSIX_CTRL (i : Nat) : Nat := 0x800C + 0x10 * i

/-- One row of the register tables: `count` registers of one layout from `base`, `stride` bytes
apart, the first of them number `first`. `set`, `latch` and `kick` are the masks of the Set, the
one-bit Latch and the Kick fields; `counts` lists the (high, low) bits of the Latch fields that
carry a count (R13). -/
structure RegRow where
  base : Nat
  stride : Nat
  first : Nat
  count : Nat
  reset : Nat
  set : Nat
  latch : Nat
  counts : List (Nat × Nat)
  kick : Nat
  deriving DecidableEq, Repr

/-- Whether the row holds the register at `a`. -/
def RegRow.holds (r : RegRow) (a : Nat) : Bool :=
  if r.count = 1 && r.stride = 0 then decide (a = r.base)
  else decide (r.base + r.stride * r.first ≤ a) && decide ((a - r.base) % r.stride = 0)
    && decide ((a - r.base) / r.stride < r.first + r.count)

/-- The register rows of block GLB. -/
def regRowsGlb : List RegRow :=
  [⟨0x0, 0x0, 0, 1, 0x0, 0x0, 0x0, [], 0x0⟩,
   ⟨0x4, 0x0, 0, 1, 0x0, 0x0, 0x0, [], 0x0⟩,
   ⟨0x8, 0x0, 0, 1, 0x0, 0x0, 0x0, [], 0x0⟩,
   ⟨0xC, 0x0, 0, 1, 0x0, 0x0, 0x0, [], 0x0⟩,
   ⟨0x10, 0x0, 0, 1, 0x2, 0xFF, 0x0, [], 0x0⟩,
   ⟨0x14, 0x0, 0, 1, 0x0, 0xF00000, 0x0, [], 0x0⟩,
   ⟨0x20, 0x0, 0, 1, 0x0, 0x0, 0x60000000, [], 0x0⟩]

/-- The register rows of block HIF. -/
def regRowsHif : List RegRow :=
  [⟨0x10000, 0x0, 0, 1, 0x0, 0x3, 0x0, [], 0x0⟩,
   ⟨0x10004, 0x0, 0, 1, 0x0, 0x0, 0x0, [], 0x0⟩,
   ⟨0x10008, 0x0, 0, 1, 0x0, 0x0, 0xFF, [], 0x0⟩,
   ⟨0x10010, 0x0, 0, 1, 0x0, 0xFFFFFE00, 0x0, [], 0x0⟩,
   ⟨0x10014, 0x0, 0, 1, 0x0, 0xFFFFFFFF, 0x0, [], 0x0⟩,
   ⟨0x10018, 0x0, 0, 1, 0x0, 0xFFFFFF00, 0x0, [], 0x0⟩,
   ⟨0x1001C, 0x0, 0, 1, 0x0, 0xFFFFFFFF, 0x0, [], 0x0⟩,
   ⟨0x10020, 0x0, 0, 1, 0x4, 0xFF, 0x0, [], 0x0⟩,
   ⟨0x10024, 0x0, 0, 1, 0x0, 0x0, 0x0, [(9, 0)], 0x0⟩,
   ⟨0x10028, 0x0, 0, 1, 0x0, 0x7, 0x0, [], 0x0⟩,
   ⟨0x11000, 0x20, 0, 64, 0x0, 0xFFFFF000, 0x0, [], 0x0⟩,
   ⟨0x11004, 0x20, 0, 64, 0x0, 0xFFFFFFFF, 0x0, [], 0x0⟩,
   ⟨0x11008, 0x20, 0, 64, 0x4, 0xE03F0F1F, 0x0, [], 0x0⟩,
   ⟨0x1100C, 0x20, 0, 64, 0x0, 0x0, 0x0, [], 0x0⟩,
   ⟨0x11010, 0x20, 0, 64, 0x0, 0x0, 0x0, [], 0x0⟩,
   ⟨0x11800, 0x20, 0, 64, 0x0, 0xFFFFF000, 0x0, [], 0x0⟩,
   ⟨0x11804, 0x20, 0, 64, 0x0, 0xFFFFFFFF, 0x0, [], 0x0⟩,
   ⟨0x11808, 0x20, 0, 64, 0x4, 0xC03F001F, 0x0, [], 0x0⟩,
   ⟨0x1180C, 0x20, 0, 64, 0x0, 0x0, 0x0, [(15, 0)], 0x0⟩,
   ⟨0x11810, 0x20, 0, 64, 0x0, 0x0, 0x0, [], 0x0⟩,
   ⟨0x12000, 0x8, 0, 64, 0x1, 0x3FF00FF, 0x0, [], 0x0⟩]

/-- The register rows of block TIM. -/
def regRowsTim : List RegRow :=
  [⟨0x80000, 0x0, 0, 1, 0x4, 0xF0000F, 0x0, [], 0xF8000000⟩,
   ⟨0x80004, 0x0, 0, 1, 0x0, 0x0, 0x1F000000, [], 0x0⟩,
   ⟨0x80008, 0x0, 0, 1, 0x0, 0xFFFFFFFF, 0x0, [], 0x0⟩,
   ⟨0x8000C, 0x0, 0, 1, 0x0, 0xFFFFFF, 0x0, [], 0x0⟩,
   ⟨0x80010, 0x0, 0, 1, 0x0, 0xFFFFFFFF, 0x0, [], 0x0⟩,
   ⟨0x80014, 0x0, 0, 1, 0x0, 0xFFFF, 0x0, [], 0x0⟩,
   ⟨0x80018, 0x0, 0, 1, 0x0, 0xFFFFFFFF, 0x0, [], 0x0⟩,
   ⟨0x8001C, 0x0, 0, 1, 0x0, 0xFFFFFFFF, 0x0, [], 0x0⟩,
   ⟨0x80020, 0x0, 0, 1, 0x0, 0x0, 0x0, [], 0x0⟩,
   ⟨0x80024, 0x0, 0, 1, 0x0, 0x0, 0x0, [], 0x0⟩,
   ⟨0x80400, 0x10, 0, 38, 0x0, 0xFFFFFFFF, 0x0, [], 0x0⟩,
   ⟨0x80404, 0x10, 0, 38, 0x0, 0xFFFFFFFF, 0x0, [], 0x0⟩,
   ⟨0x80408, 0x10, 0, 38, 0x0, 0x0, 0x0, [(31, 16)], 0x0⟩,
   ⟨0x80040, 0x0, 0, 1, 0x300007F, 0x8FF03FFF, 0x0, [], 0x0⟩,
   ⟨0x80044, 0x0, 0, 1, 0x0, 0xFFFFFFFF, 0x0, [], 0x0⟩,
   ⟨0x80048, 0x0, 0, 1, 0x0, 0xFFFFFFFF, 0x0, [], 0x0⟩,
   ⟨0x80800, 0x20, 0, 8, 0x0, 0x1C00FFFF, 0x2000000, [], 0xC0000000⟩,
   ⟨0x80804, 0x20, 0, 8, 0x0, 0xFFFFFFFF, 0x0, [], 0x0⟩,
   ⟨0x80808, 0x20, 0, 8, 0x0, 0xFFFFFFFF, 0x0, [], 0x0⟩,
   ⟨0x8080C, 0x20, 0, 8, 0x0, 0xFFFFFFFF, 0x0, [], 0x0⟩,
   ⟨0x80810, 0x20, 0, 8, 0x0, 0xFFFFFFFF, 0x0, [], 0x0⟩,
   ⟨0x80A00, 0x4, 0, 7, 0x0, 0xE0000000, 0x0, [(23, 8)], 0x0⟩,
   ⟨0x80A1C, 0x0, 0, 1, 0x0, 0xF0000000, 0x0, [(23, 8)], 0x0⟩,
   ⟨0x80B00, 0x0, 0, 1, 0x1, 0xC000FFFF, 0x0, [], 0x0⟩,
   ⟨0x80B04, 0x0, 0, 1, 0x0, 0x0, 0x0, [], 0x0⟩]

/-- The register rows of block HOOP. -/
def regRowsHoop : List RegRow :=
  [⟨0xA0000, 0x0, 0, 1, 0x30000, 0xA0FF0000, 0x0, [], 0x40000000⟩,
   ⟨0xA0004, 0x0, 0, 1, 0x140000, 0xF71F0000, 0x0, [], 0x0⟩,
   ⟨0xA0008, 0x0, 0, 1, 0x3C001, 0xFFFFFFFF, 0x0, [], 0x0⟩,
   ⟨0xA000C, 0x0, 0, 1, 0x0, 0xFFFFFFFF, 0x0, [], 0x0⟩,
   ⟨0xA0010, 0x0, 0, 1, 0x10320, 0xFFFFFFFF, 0x0, [], 0x0⟩,
   ⟨0xA0014, 0x0, 0, 1, 0x0, 0xFFFFFFFF, 0x0, [], 0x0⟩,
   ⟨0xA0020, 0x0, 0, 1, 0x0, 0x1FFFFF, 0x0, [], 0x0⟩,
   ⟨0xA0024, 0x0, 0, 1, 0x3D090, 0x1FFFFF, 0x0, [], 0x0⟩,
   ⟨0xA0028, 0x0, 0, 1, 0x249F0, 0x1FFFFF, 0x0, [], 0x0⟩,
   ⟨0xA002C, 0x0, 0, 1, 0x186A0, 0x1FFFFF, 0x0, [], 0x0⟩,
   ⟨0xA0030, 0x0, 0, 1, 0x4E20, 0x1FFFFF, 0x0, [], 0x0⟩,
   ⟨0xA0040, 0x0, 0, 1, 0x0, 0x0, 0x1000000, [], 0x0⟩,
   ⟨0xA0044, 0x0, 0, 1, 0x0, 0x0, 0x0, [], 0x0⟩,
   ⟨0xA0048, 0x0, 0, 1, 0x0, 0x0, 0x0, [], 0x0⟩,
   ⟨0xA004C, 0x0, 0, 1, 0x0, 0x0, 0x0, [], 0x0⟩,
   ⟨0xA0050, 0x0, 0, 1, 0x0, 0x0, 0x0, [], 0x0⟩,
   ⟨0xA0060, 0x0, 0, 1, 0x0, 0x0, 0x0, [], 0x0⟩,
   ⟨0xA0064, 0x0, 0, 1, 0x8000000A, 0x800000FF, 0x0, [], 0x0⟩,
   ⟨0xA0070, 0x0, 0, 1, 0x0, 0x0, 0x0, [(31, 16)], 0x0⟩]

/-- The register rows of block ING. -/
def regRowsIng : List RegRow :=
  [⟨0x100000, 0x0, 0, 1, 0x0, 0xF00000, 0x0, [], 0x0⟩,
   ⟨0x100004, 0x0, 0, 1, 0x0, 0x0, 0x80000000, [], 0x0⟩,
   ⟨0x100010, 0x0, 0, 1, 0x0, 0xF07FF, 0x0, [], 0x0⟩,
   ⟨0x100014, 0x0, 0, 1, 0x0, 0xFFFF, 0x0, [], 0x0⟩,
   ⟨0x100100, 0x10, 0, 4, 0x0, 0x0, 0x0, [(31, 16)], 0x0⟩,
   ⟨0x101000, 0x20, 1, 255, 0x0, 0x0, 0x0, [(15, 0)], 0x0⟩,
   ⟨0x101004, 0x20, 1, 255, 0x0, 0x0, 0x0, [], 0x0⟩,
   ⟨0x101008, 0x20, 1, 255, 0x0, 0x0, 0x0, [(31, 16), (15, 0)], 0x0⟩,
   ⟨0x10100C, 0x20, 1, 255, 0x0, 0x0, 0x0, [], 0x0⟩,
   ⟨0x103000, 0x10, 0, 32, 0x0, 0x0, 0x0, [(15, 0)], 0x0⟩]

/-- The register rows of block LAY. -/
def regRowsLay : List RegRow :=
  [⟨0x140000, 0x0, 0, 1, 0x0, 0xF03FFF, 0x0, [], 0x0⟩,
   ⟨0x140004, 0x0, 0, 1, 0x0, 0x0, 0x0, [], 0x0⟩,
   ⟨0x140010, 0x0, 0, 1, 0x0, 0x0, 0x0, [], 0x0⟩,
   ⟨0x140014, 0x0, 0, 1, 0x0, 0x0, 0x0, [], 0x0⟩,
   ⟨0x140018, 0x0, 0, 1, 0x0, 0x0, 0x0, [], 0x0⟩,
   ⟨0x140020, 0x0, 0, 1, 0x0, 0x0, 0x0, [], 0x0⟩,
   ⟨0x140024, 0x0, 0, 1, 0x0, 0x0, 0x0, [], 0x0⟩,
   ⟨0x140028, 0x0, 0, 1, 0x0, 0x0, 0x0, [], 0x0⟩,
   ⟨0x141000, 0x10, 0, 1024, 0x0, 0x0, 0x0, [], 0x0⟩,
   ⟨0x141004, 0x10, 0, 1024, 0x0, 0x0, 0x0, [], 0x0⟩,
   ⟨0x141008, 0x10, 0, 1024, 0x0, 0x0, 0x0, [], 0x0⟩,
   ⟨0x146000, 0x20, 0, 32, 0x0, 0x0, 0x0, [], 0x0⟩,
   ⟨0x146004, 0x20, 0, 32, 0x0, 0x0, 0x0, [], 0x0⟩,
   ⟨0x146008, 0x20, 0, 32, 0x0, 0x0, 0x0, [], 0x0⟩,
   ⟨0x14600C, 0x20, 0, 32, 0x0, 0x0, 0x0, [], 0x0⟩,
   ⟨0x146010, 0x20, 0, 32, 0x0, 0x0, 0x0, [], 0x0⟩,
   ⟨0x146014, 0x20, 0, 32, 0x0, 0x0, 0x0, [], 0x0⟩]

/-- The register rows of block PRK. -/
def regRowsPrk : List RegRow :=
  [⟨0x180000, 0x0, 0, 1, 0x0, 0xF00000, 0x0, [], 0x0⟩,
   ⟨0x180010, 0x8, 0, 2, 0x0, 0x0, 0x0, [], 0x0⟩,
   ⟨0x180014, 0x8, 0, 2, 0x0, 0x0, 0x0, [], 0x0⟩,
   ⟨0x180020, 0x0, 0, 1, 0x0, 0x0, 0x0, [], 0x0⟩,
   ⟨0x180030, 0x0, 0, 1, 0x0, 0x0, 0x0, [], 0x0⟩,
   ⟨0x180034, 0x0, 0, 1, 0x0, 0x0, 0x0, [], 0x0⟩,
   ⟨0x180038, 0x0, 0, 1, 0x0, 0x0, 0x0, [], 0x0⟩,
   ⟨0x18003C, 0x0, 0, 1, 0x0, 0x0, 0x0, [], 0x0⟩,
   ⟨0x180040, 0x0, 0, 1, 0x0, 0x0, 0x0, [], 0x0⟩,
   ⟨0x180044, 0x0, 0, 1, 0x0, 0x0, 0x0, [], 0x0⟩,
   ⟨0x180048, 0x0, 0, 1, 0x0, 0x0, 0x0, [], 0x0⟩]

/-- The register rows of block COL. -/
def regRowsCol : List RegRow :=
  [⟨0x1C0000, 0x0, 0, 1, 0x0, 0xF00000, 0x0, [], 0x0⟩,
   ⟨0x1C0004, 0x0, 0, 1, 0x0, 0x0, 0x0, [], 0x0⟩,
   ⟨0x1C0010, 0x0, 0, 1, 0x0, 0x0, 0x0, [], 0x0⟩,
   ⟨0x1C0014, 0x0, 0, 1, 0x0, 0x0, 0x0, [], 0x0⟩,
   ⟨0x1C0018, 0x0, 0, 1, 0x0, 0x0, 0x0, [], 0x0⟩,
   ⟨0x1C001C, 0x0, 0, 1, 0x0, 0x0, 0x0, [], 0x0⟩,
   ⟨0x1C0020, 0x0, 0, 1, 0x0, 0x0, 0x0, [], 0x0⟩,
   ⟨0x1C0030, 0x0, 0, 1, 0x0, 0x0, 0x0, [], 0x0⟩,
   ⟨0x1C0034, 0x0, 0, 1, 0x0, 0x0, 0x0, [], 0x0⟩,
   ⟨0x1C0038, 0x0, 0, 1, 0x0, 0x0, 0x0, [], 0x0⟩,
   ⟨0x1C003C, 0x0, 0, 1, 0x0, 0x0, 0x0, [], 0x0⟩,
   ⟨0x1C0040, 0x0, 0, 1, 0x0, 0x0, 0x0, [], 0x0⟩,
   ⟨0x1C0050, 0x0, 0, 1, 0x0, 0x0, 0x0, [], 0x0⟩,
   ⟨0x1C0054, 0x0, 0, 1, 0x0, 0x0, 0x0, [], 0x0⟩,
   ⟨0x1C0058, 0x0, 0, 1, 0x0, 0x0, 0x0, [], 0x0⟩,
   ⟨0x1C0060, 0x0, 0, 1, 0x0, 0x3FFF, 0x0, [], 0x0⟩,
   ⟨0x1C0064, 0x4, 0, 4, 0x0, 0x0, 0x0, [], 0x0⟩,
   ⟨0x1C0074, 0x4, 0, 4, 0x0, 0x0, 0x0, [], 0x0⟩,
   ⟨0x1C0084, 0x0, 0, 1, 0x0, 0x0, 0x0, [], 0x0⟩,
   ⟨0x1C0400, 0x4, 0, 512, 0x0, 0x0, 0x0, [], 0x0⟩]

/-- The register rows of block STI. -/
def regRowsSti : List RegRow :=
  [⟨0x200000, 0x0, 0, 1, 0x0, 0xF00000, 0x0, [], 0x0⟩,
   ⟨0x200010, 0x8, 0, 2, 0x0, 0x0, 0x0, [], 0x0⟩,
   ⟨0x200014, 0x8, 0, 2, 0x0, 0x0, 0x0, [], 0x0⟩,
   ⟨0x200020, 0x0, 0, 1, 0x0, 0x0, 0x0, [], 0x0⟩,
   ⟨0x200024, 0x0, 0, 1, 0x0, 0x0, 0x0, [], 0x0⟩,
   ⟨0x200030, 0x0, 0, 1, 0x0, 0x0, 0x0, [], 0x0⟩,
   ⟨0x200034, 0x0, 0, 1, 0x0, 0x0, 0x0, [], 0x0⟩,
   ⟨0x200100, 0x20, 0, 4, 0x20000000, 0xF0000000, 0x0, [], 0x0⟩,
   ⟨0x200104, 0x20, 0, 4, 0x0, 0x0, 0x0, [], 0x0⟩,
   ⟨0x200108, 0x20, 0, 4, 0x0, 0x0, 0x0, [], 0x0⟩,
   ⟨0x20010C, 0x20, 0, 4, 0x0, 0x0, 0x0, [], 0x0⟩,
   ⟨0x200110, 0x20, 0, 4, 0xA00, 0xE000FFFF, 0x0, [], 0x0⟩,
   ⟨0x200114, 0x20, 0, 4, 0x0, 0xFFFFFFFF, 0x0, [], 0x0⟩,
   ⟨0x200118, 0x20, 0, 4, 0x0, 0xFFFFFFFF, 0x0, [], 0x0⟩,
   ⟨0x20011C, 0x20, 0, 4, 0x0, 0x0, 0x0, [], 0x0⟩]

/-- The register rows of block EGR. -/
def regRowsEgr : List RegRow :=
  [⟨0x240000, 0x0, 0, 1, 0x40000000, 0xC0F00000, 0x0, [], 0x0⟩,
   ⟨0x240004, 0x0, 0, 1, 0x0, 0x0, 0x20000000, [], 0x0⟩,
   ⟨0x240008, 0x0, 0, 1, 0x0, 0x0, 0x0, [], 0x0⟩,
   ⟨0x24000C, 0x0, 0, 1, 0x88B5A000, 0xFFFFFFFF, 0x0, [], 0x0⟩,
   ⟨0x240010, 0x0, 0, 1, 0x0, 0x8000003F, 0x0, [], 0x0⟩,
   ⟨0x240014, 0x0, 0, 1, 0x3A10000, 0xFFFFFFFF, 0x0, [], 0x0⟩,
   ⟨0x240018, 0x0, 0, 1, 0x10000, 0xFFFF0000, 0x0, [], 0x0⟩,
   ⟨0x24001C, 0x0, 0, 1, 0x3A10000, 0xFFFFFFFF, 0x0, [], 0x0⟩,
   ⟨0x240020, 0x0, 0, 1, 0x20000, 0xFFFF0000, 0x0, [], 0x0⟩,
   ⟨0x240024, 0x0, 0, 1, 0x40000000, 0xFFFC0000, 0x0, [], 0x0⟩,
   ⟨0x240028, 0x0, 0, 1, 0x400, 0xFFFF, 0x0, [], 0x0⟩,
   ⟨0x24002C, 0x0, 0, 1, 0x2710, 0xFFFFFFFF, 0x0, [], 0x0⟩,
   ⟨0x240030, 0x8, 0, 2, 0x0, 0x0, 0x0, [], 0x0⟩,
   ⟨0x240034, 0x8, 0, 2, 0x0, 0x0, 0x0, [], 0x0⟩,
   ⟨0x240040, 0x0, 0, 1, 0x0, 0x0, 0x0, [], 0x0⟩,
   ⟨0x240044, 0x0, 0, 1, 0x0, 0x0, 0x0, [], 0x0⟩,
   ⟨0x240048, 0x0, 0, 1, 0x0, 0x0, 0x0, [], 0x0⟩,
   ⟨0x24004C, 0x0, 0, 1, 0x0, 0x0, 0x0, [], 0x0⟩,
   ⟨0x240400, 0x40, 0, 32, 0x0, 0xFFFFFFFF, 0x0, [], 0x0⟩,
   ⟨0x240404, 0x40, 0, 32, 0x0, 0xFFFFFFFF, 0x0, [], 0x0⟩,
   ⟨0x240408, 0x40, 0, 32, 0x400100, 0xFFF0FFF, 0x0, [], 0x0⟩,
   ⟨0x24040C, 0x40, 0, 32, 0x0, 0x0, 0x0, [(31, 16), (15, 0)], 0x0⟩,
   ⟨0x240410, 0x40, 0, 32, 0x0, 0x0, 0x0, [(31, 16), (15, 8), (7, 0)], 0x0⟩,
   ⟨0x240414, 0x40, 0, 32, 0x0, 0x0, 0x0, [(31, 16), (15, 0)], 0x0⟩,
   ⟨0x240418, 0x40, 0, 32, 0x0, 0x0, 0x0, [(31, 16), (15, 0)], 0x0⟩,
   ⟨0x24041C, 0x40, 0, 32, 0x0, 0x0, 0x0, [(31, 16), (15, 0)], 0x0⟩,
   ⟨0x240420, 0x40, 0, 32, 0x0, 0x0, 0x0, [], 0x0⟩]

/-- The register rows of block MAC. -/
def regRowsMac : List RegRow :=
  [⟨0x280000, 0x1000, 0, 38, 0x0, 0x80F00000, 0x40000000, [], 0x0⟩,
   ⟨0x280004, 0x1000, 0, 38, 0x80002400, 0xF8003FFF, 0x0, [], 0x0⟩,
   ⟨0x280008, 0x1000, 0, 38, 0x0, 0xFFFFFFFF, 0x0, [], 0x0⟩,
   ⟨0x28000C, 0x1000, 0, 38, 0x0, 0xFFFF0000, 0x0, [], 0x0⟩,
   ⟨0x280010, 0x1000, 0, 38, 0x0, 0xFFF, 0x0, [], 0x0⟩,
   ⟨0x280014, 0x1000, 0, 38, 0xFAC688, 0xFFFFFF, 0x0, [], 0x0⟩,
   ⟨0x280018, 0x1000, 0, 38, 0x804FFFF, 0xFFFFFFFF, 0x0, [], 0x0⟩,
   ⟨0x280020, 0x1000, 0, 38, 0x0, 0x0, 0x0, [], 0x0⟩,
   ⟨0x280028, 0x1000, 0, 38, 0x0, 0xFFFFFFFF, 0x0, [], 0x0⟩,
   ⟨0x28002C, 0x1000, 0, 38, 0x0, 0x380007FF, 0x0, [], 0x80000000⟩,
   ⟨0x280030, 0x1000, 0, 38, 0x0, 0xFFFF8000, 0x0, [], 0x0⟩,
   ⟨0x280034, 0x1000, 0, 38, 0x0, 0x0, 0x0, [], 0xFFFF⟩,
   ⟨0x280040, 0x1000, 0, 38, 0x0, 0x0, 0x0, [], 0x80000000⟩]

/-- The register rows of block TWN. -/
def regRowsTwn : List RegRow :=
  [⟨0x300000, 0x0, 0, 1, 0x80020000, 0xC0FF0000, 0x0, [], 0x0⟩,
   ⟨0x300004, 0x0, 0, 1, 0x0, 0x0, 0x0, [], 0x0⟩,
   ⟨0x300008, 0x0, 0, 1, 0x88B60000, 0xFFFF003F, 0x0, [], 0x0⟩,
   ⟨0x30000C, 0x0, 0, 1, 0x0, 0xFFFFFFFF, 0x0, [], 0x0⟩,
   ⟨0x300010, 0x0, 0, 1, 0x0, 0x0, 0x0, [], 0x0⟩,
   ⟨0x300014, 0x0, 0, 1, 0x0, 0x0, 0x0, [(31, 16), (15, 0)], 0x0⟩,
   ⟨0x300018, 0x0, 0, 1, 0x0, 0x0, 0x0, [], 0x0⟩,
   ⟨0x30001C, 0x0, 0, 1, 0x0, 0x0, 0x0, [], 0x0⟩,
   ⟨0x300020, 0x0, 0, 1, 0x0, 0x0, 0x0, [(15, 8)], 0x0⟩,
   ⟨0x300024, 0x0, 0, 1, 0x0, 0x0, 0x0, [], 0x0⟩,
   ⟨0x300028, 0x0, 0, 1, 0x0, 0x0, 0x0, [(31, 16), (15, 0)], 0x0⟩]

/-- The register rows of block CCS. -/
def regRowsCcs : List RegRow :=
  [⟨0x340000, 0x0, 0, 1, 0x0, 0xF00000, 0x0, [], 0x0⟩,
   ⟨0x340004, 0x0, 0, 1, 0x0, 0x0, 0x80000000, [], 0x0⟩,
   ⟨0x340100, 0x10, 0, 8, 0x0, 0x0, 0x40000000, [(15, 0)], 0x0⟩,
   ⟨0x340104, 0x10, 0, 8, 0x0, 0xF, 0x0, [], 0x0⟩,
   ⟨0x340108, 0x10, 0, 8, 0xA, 0x800000FF, 0x40000000, [], 0x0⟩,
   ⟨0x34010C, 0x10, 0, 8, 0x0, 0x0, 0x0, [], 0x0⟩,
   ⟨0x340200, 0x0, 0, 1, 0x64, 0x3FF, 0x0, [], 0x0⟩,
   ⟨0x340204, 0x0, 0, 1, 0x0, 0x0, 0x0, [], 0x0⟩,
   ⟨0x340208, 0x0, 0, 1, 0x0, 0x0, 0x0, [], 0x0⟩,
   ⟨0x340280, 0x4, 0, 16, 0x0, 0x0, 0x0, [], 0x0⟩,
   ⟨0x340300, 0x4, 0, 32, 0x0, 0x0, 0x0, [], 0x0⟩,
   ⟨0x343000, 0x4, 0, 128, 0x0, 0x0, 0x0, [(15, 0)], 0x0⟩,
   ⟨0x344000, 0x10, 0, 256, 0xFF00, 0x1FFF01, 0x0, [], 0x18000000⟩,
   ⟨0x344004, 0x10, 0, 256, 0x0, 0xFFFFFFFF, 0x0, [], 0x0⟩,
   ⟨0x344008, 0x10, 0, 256, 0x0, 0x0, 0x0, [], 0x0⟩,
   ⟨0x34400C, 0x10, 0, 256, 0x0, 0x0, 0x80000000, [], 0x0⟩]

/-- The register rows of block NQ. -/
def regRowsNq : List RegRow :=
  [⟨0x341000, 0x20, 0, 16, 0x0, 0x80000000, 0x0, [], 0x0⟩,
   ⟨0x341004, 0x20, 0, 16, 0x0, 0x0, 0xC0000000, [], 0x0⟩,
   ⟨0x341008, 0x20, 0, 16, 0x0, 0xFFFF, 0x0, [(31, 24), (23, 16)], 0x0⟩,
   ⟨0x34100C, 0x20, 0, 16, 0x0, 0x0, 0x0, [(31, 16), (15, 0)], 0x0⟩,
   ⟨0x341010, 0x20, 0, 16, 0x0, 0x0, 0x0, [], 0x0⟩,
   ⟨0x341014, 0x20, 0, 16, 0x0, 0x0, 0x0, [], 0x0⟩]

/-- The register rows of block CVU. -/
def regRowsCvu : List RegRow :=
  [⟨0x360000, 0x100, 0, 4, 0x20000020, 0xF800007F, 0x0, [], 0x0⟩,
   ⟨0x36001C, 0x100, 0, 4, 0x0, 0x0, 0x0, [], 0xE0000000⟩,
   ⟨0x360038, 0x100, 0, 4, 0x0, 0x0, 0x60000000, [], 0x0⟩,
   ⟨0x36003C, 0x100, 0, 4, 0x0, 0x0, 0x0, [], 0x0⟩,
   ⟨0x360004, 0x100, 0, 4, 0x0, 0xFFFFFFFF, 0x0, [], 0x0⟩,
   ⟨0x360008, 0x100, 0, 4, 0x0, 0xFFFFFFFF, 0x0, [], 0x0⟩,
   ⟨0x36000C, 0x100, 0, 4, 0x0, 0xFFFFFFFF, 0x0, [], 0x0⟩,
   ⟨0x360010, 0x100, 0, 4, 0x0, 0xFFFFFFFF, 0x0, [], 0x0⟩,
   ⟨0x360014, 0x100, 0, 4, 0x0, 0xFFFFFFFF, 0x0, [], 0x0⟩,
   ⟨0x360018, 0x100, 0, 4, 0x0, 0xFFFFFFFF, 0x0, [], 0x0⟩,
   ⟨0x360020, 0x100, 0, 4, 0x0, 0x0, 0x0, [], 0xFFFFFFFF⟩,
   ⟨0x360024, 0x100, 0, 4, 0x0, 0x0, 0x0, [], 0xFFFFFFFF⟩,
   ⟨0x360028, 0x100, 0, 4, 0x0, 0x0, 0x0, [], 0xFFFFFFFF⟩,
   ⟨0x360030, 0x100, 0, 4, 0x0, 0x0, 0x0, [], 0x0⟩,
   ⟨0x360034, 0x100, 0, 4, 0x0, 0x0, 0x0, [], 0x0⟩]

/-- The register rows of block BOOT. -/
def regRowsBoot : List RegRow :=
  [⟨0x20000, 0x0, 0, 1, 0x0, 0x0, 0x0, [], 0x0⟩,
   ⟨0x20004, 0x0, 0, 1, 0x0, 0x0, 0x0, [], 0xE0000000⟩,
   ⟨0x20008, 0x0, 0, 1, 0x0, 0xFFFFFFFC, 0x0, [], 0x0⟩,
   ⟨0x2000C, 0x0, 0, 1, 0x0, 0xFFFFFFFF, 0x0, [], 0x0⟩,
   ⟨0x20010, 0x0, 0, 1, 0x0, 0xFFFFFFFF, 0x0, [], 0x0⟩,
   ⟨0x20014, 0x0, 0, 1, 0x0, 0x7FFFFF, 0x0, [], 0x0⟩,
   ⟨0x20018, 0x0, 0, 1, 0x0, 0x0, 0x0, [], 0x0⟩,
   ⟨0x2001C, 0x0, 0, 1, 0x0, 0x0, 0x0, [], 0x0⟩,
   ⟨0x20020, 0x0, 0, 1, 0x0, 0x0, 0x0, [], 0x0⟩,
   ⟨0x20024, 0x0, 0, 1, 0x0, 0x0, 0x0, [], 0xFFFF0001⟩,
   ⟨0x20028, 0x0, 0, 1, 0x0, 0xFFFFFFFF, 0x0, [], 0x0⟩,
   ⟨0x20030, 0x0, 0, 1, 0x80000014, 0x80F000FF, 0x0, [], 0x40000000⟩,
   ⟨0x20034, 0x0, 0, 1, 0x0, 0x0, 0x0, [], 0x0⟩,
   ⟨0x20038, 0x0, 0, 1, 0x0, 0x0, 0x0, [], 0x0⟩,
   ⟨0x20100, 0x4, 0, 38, 0x0, 0x0, 0x0, [(15, 0)], 0x0⟩]

/-- The register rows of block UPD. -/
def regRowsUpd : List RegRow :=
  [⟨0x3A0000, 0x0, 0, 1, 0x1E, 0xF00FFF, 0x0, [], 0x0⟩,
   ⟨0x3A0004, 0x0, 0, 1, 0x0, 0x0, 0x0, [], 0x0⟩,
   ⟨0x3A0008, 0x0, 0, 1, 0x0, 0x0, 0x0, [], 0x0⟩,
   ⟨0x3A000C, 0x0, 0, 1, 0x0, 0x0, 0x0, [], 0x0⟩,
   ⟨0x3A0010, 0x0, 0, 1, 0x0, 0x0, 0x0, [], 0x0⟩,
   ⟨0x3A0014, 0x0, 0, 1, 0x0, 0x0, 0x0, [], 0x0⟩,
   ⟨0x3A0018, 0x0, 0, 1, 0x0, 0x0, 0x0, [], 0x0⟩,
   ⟨0x3A001C, 0x0, 0, 1, 0x0, 0x0, 0x0, [], 0x0⟩,
   ⟨0x3A0020, 0x0, 0, 1, 0x0, 0x0, 0x0, [], 0x0⟩,
   ⟨0x3A0024, 0x0, 0, 1, 0x0, 0x0, 0x0, [], 0x0⟩,
   ⟨0x3A0030, 0x0, 0, 1, 0x0, 0xFFFFFFFF, 0x0, [], 0x0⟩,
   ⟨0x3A0034, 0x0, 0, 1, 0x0, 0x20FFFFFF, 0x0, [], 0xC0000000⟩,
   ⟨0x3A0038, 0x0, 0, 1, 0x0, 0x0, 0x0, [], 0x0⟩]

/-- The register rows of block KEY. -/
def regRowsKey : List RegRow :=
  [⟨0x380000, 0x0, 0, 1, 0x0, 0x80F00000, 0x0, [], 0x0⟩,
   ⟨0x380004, 0x0, 0, 1, 0x0, 0x0, 0x20000000, [], 0x0⟩,
   ⟨0x380008, 0x0, 0, 1, 0x0, 0x8000001F, 0x0, [], 0x0⟩,
   ⟨0x38000C, 0x0, 0, 1, 0x0, 0x703F003F, 0x0, [], 0x80000000⟩,
   ⟨0x380010, 0x0, 0, 1, 0x0, 0x0, 0x0, [], 0x0⟩,
   ⟨0x380020, 0x4, 0, 8, 0x0, 0xFFFFFFFF, 0x0, [], 0x0⟩,
   ⟨0x380040, 0x4, 0, 4, 0x0, 0xFFFFFFFF, 0x0, [], 0x0⟩,
   ⟨0x380080, 0x4, 0, 8, 0x0, 0xFFFFFFFF, 0x0, [], 0x0⟩,
   ⟨0x3800A0, 0x4, 0, 4, 0x0, 0x0, 0x0, [], 0x0⟩,
   ⟨0x3800C0, 0x4, 0, 8, 0x0, 0x0, 0x0, [], 0x0⟩,
   ⟨0x380100, 0x4, 0, 64, 0x0, 0x0, 0x0, [], 0x0⟩]

/-- The register rows of block MEM. -/
def regRowsMem : List RegRow :=
  [⟨0x3E0010, 0x0, 0, 1, 0x0, 0x0, 0x0, [(31, 16), (15, 0)], 0x0⟩,
   ⟨0x3E0014, 0x0, 0, 1, 0x0, 0x0, 0x0, [], 0x0⟩,
   ⟨0x3E0018, 0x0, 0, 1, 0x0, 0x0, 0x0, [], 0x0⟩]

/-- The register rows of block PSM. -/
def regRowsPsm : List RegRow :=
  [⟨0x40000, 0x0, 0, 1, 0x0, 0xF00000, 0x0, [], 0x0⟩,
   ⟨0x40004, 0x0, 0, 1, 0x0, 0x0, 0x0, [], 0x0⟩,
   ⟨0x40008, 0x0, 0, 1, 0x0, 0x0, 0x0, [(15, 0)], 0x0⟩,
   ⟨0x40010, 0x0, 0, 1, 0x0, 0x0, 0x0, [], 0x0⟩,
   ⟨0x40014, 0x4, 0, 2, 0x0, 0x0, 0x0, [], 0x0⟩,
   ⟨0x4001C, 0x0, 0, 1, 0x6400, 0xFFFFFFFF, 0x0, [], 0x0⟩,
   ⟨0x40100, 0x4, 1, 9, 0x0, 0x0, 0x0, [], 0x0⟩]

/-- The register rows of block MSIX. The spec gives the vector control word no reset value: every vector
starts masked (PRESUMED from the PCIe standard, log 50). -/
def regRowsMsix : List RegRow :=
  [⟨0x8000, 0x10, 0, 64, 0x0, 0xFFFFFFFC, 0x0, [], 0x0⟩,
   ⟨0x8004, 0x10, 0, 64, 0x0, 0xFFFFFFFF, 0x0, [], 0x0⟩,
   ⟨0x8008, 0x10, 0, 64, 0x0, 0xFFFFFFFF, 0x0, [], 0x0⟩,
   ⟨0x800C, 0x10, 0, 64, 0x1, 0x1, 0x0, [], 0x0⟩]

/-- The register rows of the block whose window holds `a` (Table 2-2). -/
def regRows (a : Nat) : List RegRow :=
  if a < 0x8000 then regRowsGlb else
  if a < 0x10000 then regRowsMsix else
  if a < 0x20000 then regRowsHif else
  if a < 0x40000 then regRowsBoot else
  if a < 0x80000 then regRowsPsm else
  if a < 0xA0000 then regRowsTim else
  if a < 0x100000 then regRowsHoop else
  if a < 0x140000 then regRowsIng else
  if a < 0x180000 then regRowsLay else
  if a < 0x1C0000 then regRowsPrk else
  if a < 0x200000 then regRowsCol else
  if a < 0x240000 then regRowsSti else
  if a < 0x280000 then regRowsEgr else
  if a < 0x300000 then regRowsMac else
  if a < 0x340000 then regRowsTwn else
  if a < 0x360000 then regRowsCcs ++ regRowsNq else
  if a < 0x380000 then regRowsCvu else
  if a < 0x3A0000 then regRowsKey else
  if a < 0x3C0000 then regRowsUpd else
  regRowsMem

/-- The row of the register at BAR0 offset `a`, if one is implemented there (R39). -/
def regRow (a : Nat) : Option RegRow := (regRows a).find? (·.holds a)

/-- What the stored fields of the register at `a` hold after the device reset (R15). -/
def regReset (a : Nat) : Word :=
  match regRow a with
  | some r => w32 r.reset
  | none => 0

end Sys2Proof.Machine
end

