-- ==== Sys2Proof/Machine/StateFront.lean ====
section
/-! DEFINITION. Machine/StateFront.lean: the state of the host interface (chapter 2), the time base
(chapter 3), the hoop generator and its commit window (chapter 4), the control cores, their
scheduler and notice queues, and the check-value units (chapter 13), with their reset values. -/
namespace Sys2Proof.Machine

/-! ### HIF (chapter 2) -/

/-- Where a member of a commit set came from: a submission ring of the host, the driving twin (R326),
or a legacy-window command (R476). -/
inductive Origin where
  | host
  | twin (id : Nat)
  | lgw
  deriving DecidableEq, Repr

/-- How far a descriptor has come between its fetch and its record (R64, R71). -/
inductive Phase where
  /-- fetched, and held back by ORDERED, a FENCE or an earlier descriptor that has not started -/
  | held
  /-- fetched and free to start: on its way to its block -/
  | ready
  /-- handed to its block, where it waits for an earlier one of its kind -/
  | queued
  /-- started; its action or its transfer is under way -/
  | running
  /-- held for AT_HOOP (R53), or waiting for the next window to open (R118, R124) -/
  | atHoop
  /-- a member of the commit set of the open window (R122) -/
  | inSet
  /-- a member of a closed set that waits for its boundary (R123) -/
  | accepted
  /-- its data has moved, after an earlier descriptor of its ring whose move of the same object's data has not
  ended; status and results as they will be (R64) -/
  | ordered (st r0 r1 : Nat)
  /-- forwarded to the twin partner; finished here once it acknowledges (R325) -/
  | awaitAck (st r0 r1 : Nat) (hoop : Hoop)
  /-- finished: status, results and the hoop of its record are decided -/
  | done (st r0 r1 : Nat) (hoop : Hoop)
  deriving DecidableEq, Repr

/-- A tracker entry: one descriptor in flight (R67). -/
structure Track where
  /-- order of the fetches -/
  id : Nat
  ring : Nat
  /-- the completion ring that takes its record: its ring's CQ at the fetch (R77) -/
  cq : Nat
  /-- order of the hand-overs to the blocks; 0 before (R65) -/
  handed : Nat
  origin : Origin
  desc : Desc
  phase : Phase
  /-- past its point of no return (Table 2-11) -/
  past : Bool
  /-- it joined, or will join, a window as a late commit (Table 4-6) -/
  late : Bool
  /-- held in one of the 16 control slots (R68) -/
  control : Bool
  /-- entries whose records must be written before this one's (R71, R72) -/
  waits : List Nat
  /-- forwarded to the twin partner, which has not acknowledged it yet (R325) -/
  fwd : Bool
  /-- order in which its status was decided (R64) -/
  fin : Nat
  /-- discarded by R78 past its point of no return: its effect still comes, no record does -/
  orphan : Bool
  deriving DecidableEq, Repr

/-- Interrupt moderation of one MSI-X vector (R79, R80). -/
structure Vec where
  count : Nat
  timerRunning : Bool
  /-- elapsed TCLK cycles when the timer started -/
  timerStart : Nat
  pending : Bool
  deriving DecidableEq, Repr

def Vec.reset : Vec := ⟨0, false, 0, false⟩

/-- HIF: rings, tracker, polling, notices to the host. -/
structure Hif where
  track : List Track
  nextId : Nat
  nextFin : Nat
  nextHanded : Nat
  /-- TAIL(n) as the last poll returned it -/
  tail : Table Word
  /-- HEAD(n): descriptors fetched -/
  head : Table Word
  /-- HEAD(n) has changed since it was last written to the head page -/
  headDirty : Table Bool
  /-- HIF_SQ_STAT(n).FAULT -/
  fault : Table Bool
  /-- a disabled ring whose RING_DRAINED has still to be posted -/
  draining : Table Bool
  /-- RELEASE(m) as the last poll returned it -/
  release : Table Word
  /-- producer count of completion ring m -/
  prod : Table Word
  /-- ring last served by the round robin of R50 -/
  lastRing : Nat
  /-- INFLIGHT_LIMIT may be raised (R69) -/
  limitArmed : Bool
  pollOut : Bool
  /-- elapsed TCLK cycles at which the last poll was issued -/
  pollAt : Option Nat
  vecs : Table Vec
  /-- notices dropped since the last NOTICES_LOST (R61) -/
  noticesLost : Nat
  deriving DecidableEq, Repr

def Hif.reset : Hif :=
  { track := [], nextId := 0, nextFin := 0, nextHanded := 1, tail := [], head := [], headDirty := [], fault := [], draining := [],
    release := [], prod := [], lastRing := 63, limitArmed := true,
    pollOut := false, pollAt := none, vecs := [], noticesLost := 0 }

/-- A capability of the function (Table 2-1). -/
inductive Capability where
  | powerManagement
  | pcie
  | msix (vectors : Nat)
  | aer
  | deviceSerialNumber
  deriving DecidableEq, Repr

/-- What the configuration space of the function holds fixed (Table 2-1, GLB_PCI_IDS). -/
structure PciIdentity where
  vendor : Nat
  device : Nat
  classCode : Nat
  /-- bytes -/
  maxPayload : Nat
  tagBits : Nat
  maxOutstanding : Nat
  capabilities : List Capability
  functionReset : Bool
  deriving DecidableEq, Repr

/-- Table 2-1. -/
def pciIdentity : PciIdentity :=
  ⟨Config.vendorId % 65536, 0x9640, 0x048000, 512, 10, 768,
   [.powerManagement, .pcie, .msix 64, .aer, .deviceSerialNumber], true⟩

/-- The PCIe side of the function: link, configuration readiness and its reset pin (R385). -/
structure Pcie where
  /-- PERST_N is high -/
  perstHigh : Bool
  /-- the link is up and configuration requests complete -/
  linkUp : Bool
  /-- Max_Read_Request_Size of the device control register: 128 × 2^n bytes, at most 4,096 (Table 2-1) -/
  readRequest : Fin 6
  deriving DecidableEq, Repr

def Pcie.reset : Pcie := ⟨false, false, 2⟩

/-! ### TIM (chapter 3) -/

/-- TIM_STATUS.STATE (Table 3-6). -/
inductive TimMode where
  | free
  | wait
  | tracking
  | holdover
  deriving DecidableEq, Repr

/-- TIM_STATUS.STATE as its register shows it. -/
def TimMode.code : TimMode → Nat
  | .free => 0
  | .wait => 1
  | .tracking => 2
  | .holdover => 3

/-- Who gets a transmit stamp (Table 3-5, R95). -/
inductive StampDest where
  /-- a RAW_TX descriptor, by its tracker entry -/
  | rawTx (track : Nat)
  /-- a TS_TX notice carrying this identity -/
  | firmware (identity : Nat)
  deriving DecidableEq, Repr

/-- One entry of a transmit stamp queue: the stamp after compensation (R92). -/
structure Stamp where
  sec : Nat
  nsq : Nat
  dest : StampDest
  deriving DecidableEq, Repr

/-- A port's transmit stamp queue (R95, R97). -/
structure StampQueue where
  entries : List Stamp
  /-- stamps lost since the queue became full -/
  lost : Nat
  /-- a TS_LOST packet that its notice queue has not taken yet (R368) -/
  note : Option (List Word)
  deriving DecidableEq, Repr

/-- The settings a pulse unit copied at ARM (R101, R102). -/
structure PulseCfg where
  mode : Nat
  /-- START in quarter-ns of device time; in HOOP mode the offset after the boundary -/
  start : Nat
  periodQ : Nat
  periodF : Nat
  widthQ : Nat
  deriving DecidableEq, Repr

/-- A time-out pulse unit. -/
structure Pulse where
  cfg : Option PulseCfg
  /-- device time in quarter-ns of the edge pending -/
  next : Option Nat
  /-- index k of the pending PERIODIC edge -/
  k : Nat
  /-- the pulse is asserted until this count of elapsed quarter-ns -/
  assertedTo : Option Nat
  /-- POLARITY as copied at the last ARM: 1 rests high -/
  pol : Bool
  deriving DecidableEq, Repr

/-- A time-in capture (R104). -/
structure Capture where
  /-- entries: seconds, NSQ, falling edge, edge count -/
  fifo : List (Nat × Nat × Bool × Nat)
  /-- elapsed quarter-ns of the last captured edge -/
  last : Option Nat
  edges : Nat
  lost : Nat
  /-- a CAPTURE_LOST packet that its notice queue has not taken yet (R368) -/
  note : Option (List Word)
  deriving DecidableEq, Repr

/-- The word clock receiver (R105, R106). -/
structure WordClock where
  /-- elapsed quarter-ns of the last active edge -/
  lastElapsed : Option Nat
  /-- device time in quarter-ns of the last active edge -/
  lastDevice : Nat
  lastPeriod : Option Nat
  /-- consecutive periods that met the tolerance -/
  good : Nat
  present : Bool
  /-- the last 64 periods, newest first -/
  periods : List Nat
  /-- edges since the last divided stamp -/
  div : Nat
  deriving DecidableEq, Repr

/-- TIM: device time and everything stamped in it. -/
structure Tim where
  /-- the TCLK PLL has locked (R82) -/
  running : Bool
  /-- ns within the second, units of 2^-32 ns (R84) -/
  acc : Nat
  sec : Nat
  /-- ADJ_LEFT, quarter-ns -/
  left : Int
  blk : Nat
  /-- TCLK cycles counted since lock: elapsed time -/
  cyc : Nat
  mode : TimMode
  /-- elapsed cycle at which the Announce timeout falls -/
  annDue : Option Nat
  snapSec : Nat
  snapNsq : Nat
  stamps : Table StampQueue
  pulses : Table Pulse
  caps : Table Capture
  wclk : WordClock
  /-- source the posting engine served last: ports 0-37, captures 38-45 (R96) -/
  lastPosted : Nat
  deriving DecidableEq, Repr

def StampQueue.reset : StampQueue := ⟨[], 0, none⟩
def Pulse.reset : Pulse := ⟨none, none, 0, none, false⟩
def Capture.reset : Capture := ⟨[], none, 0, 0, none⟩
def WordClock.reset : WordClock := ⟨none, 0, none, 0, false, [], 0⟩

def Tim.reset : Tim :=
  { running := false, acc := 0, sec := 0, left := 0, blk := 0, cyc := 0, mode := .free,
    annDue := none, snapSec := 0, snapNsq := 0, stamps := [], pulses := [], caps := [],
    wclk := WordClock.reset, lastPosted := 45 }

/-! ### HOOP (chapter 4) -/

/-- HOOP_STATUS.REF (Table 4-4). -/
inductive RefState where
  | none
  | wait
  | locked
  | hold
  deriving DecidableEq, Repr

def RefState.code : RefState → Nat
  | .none => 0
  | .wait => 1
  | .locked => 2
  | .hold => 3

/-- An active edge of the reference in use: its device time, its elapsed time (both quarter-ns),
and its count from the anchor. -/
structure RefEdge where
  device : Nat
  elapsed : Nat
  count : Nat
  deriving DecidableEq, Repr

/-- The grid while the reference is WAIT or HOLD (R115): one of its points in elapsed quarter-ns, and the
period num / den in quarter-ns. -/
structure Coast where
  anchor : Nat
  num : Nat
  den : Nat
  deriving DecidableEq, Repr

/-- The word-clock or pin reference (R110, R114, R115). -/
structure Reference where
  state : RefState
  /-- the latest active edge -/
  edge : Option RefEdge
  /-- pin intervals, newest first, at most 8 -/
  intervals : List Nat
  /-- last derived period: P_w × 64 or P_p × 64, quarter-ns -/
  period64 : Nat
  /-- the next edge becomes the anchor -/
  anchorNext : Bool
  coast : Coast
  deriving DecidableEq, Repr

/-- Power state of a package memory stack (Table 4-9). -/
inductive StackState where
  | active
  | powerDown
  | selfRefresh
  | parked
  deriving DecidableEq, Repr

/-- A package memory stack: its state, since when it is idle, and whether it is on its way back. -/
structure Stack where
  state : StackState
  /-- elapsed TCLK cycles at which it was last busy -/
  idleSince : Nat
  /-- elapsed cycle at which the exit completes, when one has begun -/
  exitDue : Option Nat
  /-- a request for the stack waits for its exit -/
  waiting : Bool
  deriving DecidableEq, Repr

/-- HOOP: the generator. -/
structure HoopGen where
  running : Bool
  /-- the first boundary has been raised since the start -/
  raised : Bool
  stopAtNext : Bool
  number : Hoop
  /-- device time of the boundary of this hoop, and of the next, in quarter-ns -/
  bThis : Nat
  bNext : Nat
  /-- device time of the boundary before this hoop's -/
  bPrev : Nat
  /-- elapsed quarter-ns of this hoop's boundary, and of B_first -/
  elThis : Nat
  elFirst : Nat
  /-- elapsed quarter-ns of the grid point last targeted (R115) -/
  gridEl : Nat
  /-- grid index of the next boundary in PTP mode (R113) -/
  nextK : Option Nat
  aligned : Bool
  slewing : Bool
  slewE : Int
  phaseErr : Int
  ref : Reference
  /-- HOOP_SET words accepted for the next TCLK boundary (R120) -/
  pendingRegs : List (Nat × Word)
  /-- hoop number of the FCLK side, and whether a boundary has reached it -/
  fNumber : Hoop
  fStarted : Bool
  /-- a TCLK boundary has been raised that has not reached FCLK yet -/
  fDue : Bool
  /-- the cycle in which the last boundary was raised ahead of its own command (Table 4-8) -/
  early : Option Nat
  /-- the hoop in progress is aborted -/
  aborted : Bool
  consecAborts : Nat
  stormArmed : Bool
  lastCause : Nat
  /-- latency tolerance in 10 ns units and its limiter (R129) -/
  lt : Nat
  limiterI : Bool
  stack0 : Stack
  stack1 : Stack
  /-- no stack leaves ACTIVE before pipeline start (R131) -/
  stacksHeld : Bool
  deriving DecidableEq, Repr

def Reference.reset : Reference := ⟨.none, none, [], 0, false, ⟨0, 0, 1⟩⟩
def Stack.reset : Stack := ⟨.active, 0, none, false⟩

def HoopGen.reset : HoopGen :=
  { running := false, raised := false, stopAtNext := false, number := 0, bThis := 0, bNext := 0, bPrev := 0,
    elThis := 0, elFirst := 0, gridEl := 0, nextK := none, aligned := false, slewing := false, slewE := 0,
    phaseErr := 0, ref := Reference.reset, pendingRegs := [], fNumber := 0, fStarted := false,
    fDue := false, early := none, aborted := false, consecAborts := 0, stormArmed := true, lastCause := 0, lt := 0,
    limiterI := false, stack0 := Stack.reset, stack1 := Stack.reset, stacksHeld := false }

/-! ### CCS and CVU (chapter 13) -/

/-- Table 13-2. -/
inductive ThreadState where
  | dormant
  | ready
  | running
  | waiting
  | halted
  deriving DecidableEq, Repr

def ThreadState.code : ThreadState → Nat
  | .dormant => 0
  | .ready => 1
  | .running => 2
  | .waiting => 3
  | .halted => 4

/-- One hardware thread as the scheduler holds it; its TCB is in `Ccs.tcb`. -/
structure Thread where
  state : ThreadState
  counts : List Nat
  waitMask : Nat
  core : Nat
  /-- elapsed cycle of its timer's expiry -/
  timer : Option Nat
  lastSignal : Nat
  /-- elapsed TCLK cycle at which it became READY -/
  readyAt : Nat
  /-- priority under which it stands on a ready list (R359) -/
  prio : Nat
  affinity : Nat
  deriving DecidableEq, Repr

def Thread.reset : Thread := ⟨.dormant, [0, 0, 0, 0], 0, 0, none, 0, 0, 0, 0xFF⟩

/-- A control core. -/
structure CoreUnit where
  thread : Option Nat
  /-- elapsed TCLK cycle of the last watchdog restart -/
  wdog : Nat
  /-- elapsed TCLK cycles executed in the open window, and since when it runs -/
  busy : Nat
  since : Nat
  /-- the pc and x1 to x31 of the running thread, laid out as a TCB, as dispatch loaded them (R357) -/
  context : List Byte
  /-- the word reserved by the last LR, an address of the core's map (R355) -/
  reserved : Option Nat
  deriving DecidableEq, Repr

def CoreUnit.reset : CoreUnit := ⟨none, 0, 0, 0, [], none⟩

/-- A word of a notice queue (R367): data, END, POISON, and whether its parity holds. -/
structure QWord where
  data : Word
  isEnd : Bool
  poison : Bool
  parityBad : Bool
  deriving DecidableEq, Repr

/-- A notice queue. -/
structure NQueue where
  words : List QWord
  /-- the last word popped and its tag (R373) -/
  last : Word
  tag : Nat
  /-- watermark armed (R375) -/
  armed : Bool
  /-- hoop in which QUEUE_POISON was last posted -/
  poisonHoop : Option Hoop
  deriving DecidableEq, Repr

def NQueue.reset : NQueue := ⟨[], 0, 0, true, none⟩

/-- A packet in a source's outbox: the queue it goes to and its words. -/
structure Packet where
  queue : Nat
  words : List Word
  deriving DecidableEq, Repr

/-- An outbox of 4 packets (R368), and the notices dropped since NOTICES_DROPPED was last placed
(R372), with the queue they were addressed to. -/
structure Outbox where
  packets : List Packet
  dropped : Nat
  droppedQueue : Nat
  deriving DecidableEq, Repr

def Outbox.reset : Outbox := ⟨[], 0, 0⟩

/-- Dispatch statistics of the open observation window at one priority (R376), in TCLK cycles. -/
structure WaitStat where
  count : Nat
  total : Nat
  longest : Nat
  /-- shown values of the last window -/
  shownMean : Nat
  shownMax : Nat
  deriving DecidableEq, Repr

def WaitStat.reset : WaitStat := ⟨0, 0, 0, 0, 0⟩

/-- A scheduler port's staged packet (SCH_PKT, SCH_PKT_LEN), one per thread that stages it. -/
structure Staged where
  words : Table Word
  len : Nat
  deriving DecidableEq, Repr

def Staged.reset : Staged := ⟨[], 0⟩

/-- CCS: threads, cores, queues, memories. -/
structure Ccs where
  threads : Table Thread
  cores : Table CoreUnit
  /-- the 32 ready lists, each head first -/
  readyLists : Table (List Nat)
  /-- TCB bytes: thread t at 128 × t -/
  tcb : Table Byte
  queues : Table NQueue
  outboxes : Table Outbox
  /-- source whose outbox head was accepted last, per queue -/
  lastSource : Table Nat
  staged : Table Staged
  waits : Table WaitStat
  dispatches : Nat
  shownDispatches : Nat
  obsSeq : Word
  /-- elapsed cycle at which the open window began -/
  obsStart : Nat
  load : Table Nat
  /-- private instruction memory of core c at 0x4_0000 × c, data memory at 0x2_0000 × c, shared memory -/
  imem : Table Byte
  dmem : Table Byte
  shared : Table Byte
  deriving DecidableEq, Repr

def Ccs.reset : Ccs :=
  { threads := [], cores := [], readyLists := [], tcb := [], queues := [], outboxes := [],
    lastSource := [], staged := [], waits := [], dispatches := 0, shownDispatches := 0,
    obsSeq := 0, obsStart := 0, load := [], imem := [], dmem := [], shared := [] }

/-- A check-value unit (R377, R379): the latched configuration and the running remainder. -/
structure Cvu where
  owner : Option Nat
  width : Nat
  poly : Nat
  refin : Bool
  refout : Bool
  xorout : Nat
  rem : Nat
  bytes : Nat
  deriving DecidableEq, Repr

def Cvu.reset : Cvu := ⟨none, 32, 0, false, false, 0, 0, 0⟩

end Sys2Proof.Machine
end

