-- ==== Sys2Proof/Syntax.lean ====
section
/-! DEFINITION. Syntax.lean: the commands of spec/opcode_table.json, one constructor per row. A command
names an event of one block: a register kick, a descriptor, a timer that expires, a frame or an edge
that arrives. Operands say what the outside delivers with the event; indices are bounded by their types. -/
namespace Sys2Proof

/-- The commands. `v` is the word written to the register that the row names; `ring` the submission
ring a descriptor `d` stands in; `p` a port, `c` a core, `u` a unit, `g` a lane group. -/
inductive Instr where
  /-- REGISTER_WRITE (R12). `src` writes `v` with byte enables `be` at `addr`: a BAR0 offset from the host, an address of Table 13-1 from a core. -/
  | registerWrite (src : Source) (addr : Nat) (be : Fin 16) (v : Word)
  /-- POLL_ISSUE (R45). -/
  | pollIssue
  /-- POLL_RETURN (R46). The read returned the 64 TAILs and 64 RELEASEs, or failed at `addr`. -/
  | pollReturn (ok : Bool) (tails releases : List Word) (addr : Nat)
  /-- DESCRIPTOR_FETCH (R50). `slots`: what host memory holds in the slots that are read, in ring order. -/
  | descriptorFetch (slots : List Desc)
  /-- DESCRIPTOR_READ_FAIL (R46). The read failed at host address `addr`. -/
  | descriptorReadFail (addr : Nat)
  /-- DESCRIPTOR_START (R64). On submission ring `ring`. -/
  | descriptorStart (ring : Fin 64)
  /-- AT_HOOP_RELEASE (R53). -/
  | atHoopRelease
  /-- COMPLETION_WRITE (R61). -/
  | completionWrite (m : Fin 64)
  /-- VECTOR_TIMER_EXPIRY (R79). -/
  | vectorTimerExpiry (v : Fin 64)
  /-- MSIX_UNMASK (R80). -/
  | msixUnmask (v : Fin 64)
  /-- NOTICES_LOST (R61). -/
  | noticesLost
  /-- DESCRIPTOR_DMA_DONE (R58). Of the descriptor of `ring` with `tag`; `data` is what host memory delivered. -/
  | descriptorDmaDone (ring : Fin 64) (tag : Nat) (data : List Byte)
  /-- HOST_DMA_ERROR (R63). At host address `addr`; `data` is what had arrived before. -/
  | hostDmaError (ring : Fin 64) (tag addr : Nat) (data : List Byte)
  /-- SQ_ENABLE (R76). -/
  | sqEnable (n : Fin 64) (v : Word)
  /-- SQ_DISABLE (R73). -/
  | sqDisable (n : Fin 64) (v : Word)
  /-- CQ_ENABLE (R77). -/
  | cqEnable (m : Fin 64) (v : Word)
  /-- CQ_DISABLE (R75). -/
  | cqDisable (m : Fin 64) (v : Word)
  /-- HIF_CTRL_WRITE (R394). -/
  | hifCtrlWrite (v : Word)
  /-- POLL_INTERVAL_WRITE (R45). -/
  | pollIntervalWrite (v : Word)
  /-- BAR2_READ (R42). At BAR2 offset `addr`; `e` is what ECC makes of the word. -/
  | bar2Read (addr : Nat) (e : EccRead)
  /-- BAR2_WRITE (R42). -/
  | bar2Write (addr : Nat) (v : Word)
  /-- FUNCTION_LEVEL_RESET (R78). -/
  | functionLevelReset
  /-- HOT_RESET (R78). -/
  | hotReset
  /-- PCIE_LINK_LOSS (R78). -/
  | pcieLinkLoss
  /-- PERST_N_RISE (R385). -/
  | perstNRise
  /-- BUF_ALLOC (R161). -/
  | bufAlloc (ring : Fin 64) (d : Desc)
  /-- BUF_FILL_COMPLETE (R161). -/
  | bufFillComplete (n : Fin 1024)
  /-- BUF_WRITE (R147). -/
  | bufWrite (ring : Fin 64) (d : Desc)
  /-- BUF_WRITE_COMPLETE (R149). Of the descriptor of `ring` with `tag`; `data` is the image in host memory. -/
  | bufWriteComplete (ring : Fin 64) (tag : Nat) (data : List Byte)
  /-- BUF_READ (R162). -/
  | bufRead (ring : Fin 64) (d : Desc)
  /-- BUF_BIND (R170). -/
  | bufBind (ring : Fin 64) (d : Desc)
  /-- BUF_RETIRE (R170). -/
  | bufRetire (ring : Fin 64) (d : Desc)
  /-- BUF_FREE (R163). -/
  | bufFree (ring : Fin 64) (d : Desc)
  /-- COMMIT (R125). -/
  | commit (ring : Fin 64) (d : Desc)
  /-- TABLE_LOAD (R195). -/
  | tableLoad (ring : Fin 64) (d : Desc)
  /-- TABLE_READ (R199). -/
  | tableRead (ring : Fin 64) (d : Desc)
  /-- TABLE_VALIDATION_COMPLETE (R197). -/
  | tableValidationComplete (p : Fin 7)
  /-- LAYER_SET (R171). -/
  | layerSet (ring : Fin 64) (d : Desc)
  /-- SESSION_SET (R137). -/
  | sessionSet (ring : Fin 64) (d : Desc)
  /-- SOURCE_SET (R154). -/
  | sourceSet (ring : Fin 64) (d : Desc)
  /-- HOOP_SET (R119). -/
  | hoopSet (ring : Fin 64) (d : Desc)
  /-- COLOUR_SET (R225). -/
  | colourSet (ring : Fin 64) (d : Desc)
  /-- MOTIF_CTRL_SET_EPOCH (R276). -/
  | motifCtrlSetEpoch (ring : Fin 64) (d : Desc)
  /-- MOTIF_CTRL_CLAIM_NEXT (R276). -/
  | motifCtrlClaimNext (ring : Fin 64) (d : Desc)
  /-- MOTIF_CTRL_RELEASE (R276). -/
  | motifCtrlRelease (ring : Fin 64) (d : Desc)
  /-- MOTIF_CTRL_CLEAR_FOREIGN (R276). -/
  | motifCtrlClearForeign (ring : Fin 64) (d : Desc)
  /-- MOTIF_CTRL_RESET (R276). -/
  | motifCtrlReset (ring : Fin 64) (d : Desc)
  /-- MOTIF_CTRL_REPORT (R276). -/
  | motifCtrlReport (ring : Fin 64) (d : Desc)
  /-- PROGRAM_SEND (R285). -/
  | programSend (ring : Fin 64) (d : Desc)
  /-- PORT_SET (R309). -/
  | portSet (ring : Fin 64) (d : Desc)
  /-- DIGEST_READ (R269). -/
  | digestRead (ring : Fin 64) (d : Desc)
  /-- OWNER_SET (R275). -/
  | ownerSet (ring : Fin 64) (d : Desc)
  /-- RAW_TX (R302). -/
  | rawTx (ring : Fin 64) (d : Desc)
  /-- RX_POST (R300). -/
  | rxPost (ring : Fin 64) (d : Desc)
  /-- RX_FILTER (R299). -/
  | rxFilter (ring : Fin 64) (d : Desc)
  /-- IMAGE_BLOCK (R402). -/
  | imageBlock (ring : Fin 64) (d : Desc)
  /-- IMAGE_VERIFY (R403). -/
  | imageVerify (ring : Fin 64) (d : Desc)
  /-- IMAGE_VERIFY_COMPLETE (R403). `e`: what ECC makes of the staging area. -/
  | imageVerifyComplete (e : EccRead)
  /-- IMAGE_ACTIVATE (R404). -/
  | imageActivate (ring : Fin 64) (d : Desc)
  /-- IMAGE_CONFIRM (R408). -/
  | imageConfirm (ring : Fin 64) (d : Desc)
  /-- IMAGE_CONFIRM_REVERT (R408). -/
  | imageConfirmRevert (ring : Fin 64) (d : Desc)
  /-- STORE_WRITE (R414). -/
  | storeWrite (ring : Fin 64) (d : Desc)
  /-- STORE_WRITE_FORMAT (R416). -/
  | storeWriteFormat (ring : Fin 64) (d : Desc)
  /-- STORE_READ (R413). -/
  | storeRead (ring : Fin 64) (d : Desc)
  /-- ABORT (R70). -/
  | abort (ring : Fin 64) (d : Desc)
  /-- FENCE (R56). -/
  | fence (ring : Fin 64) (d : Desc)
  /-- NOP (R56). -/
  | nop (ring : Fin 64) (d : Desc)
  /-- TWIN_ROLE_ACTIVE (R349). -/
  | twinRoleActive (ring : Fin 64) (d : Desc)
  /-- TWIN_ROLE_HANDOVER (R341). -/
  | twinRoleHandover (ring : Fin 64) (d : Desc)
  /-- TWIN_ROLE_COLD (R318). -/
  | twinRoleCold (ring : Fin 64) (d : Desc)
  /-- TWIN_SYNC (R350). -/
  | twinSync (ring : Fin 64) (d : Desc)
  /-- TWIN_MIRROR (R351). -/
  | twinMirror (ring : Fin 64) (d : Desc)
  /-- SAMPLER_RUN (R352). -/
  | samplerRun (ring : Fin 64) (d : Desc)
  /-- SLEW_BLOCK_END (R84). -/
  | slewBlockEnd
  /-- TIM_SNAP (R88). -/
  | timSnap (v : Word)
  /-- TIM_SET (R87). -/
  | timSet (v : Word)
  /-- TIM_STEP (R87). -/
  | timStep (v : Word)
  /-- TIM_ADJ_GO (R86). -/
  | timAdjGo (v : Word)
  /-- TIM_HOLD_EXIT (R99). -/
  | timHoldExit (v : Word)
  /-- TIM_RATE_WRITE (R85). -/
  | timRateWrite (v : Word)
  /-- TIM_WATCH_WRITE (R99). -/
  | timWatchWrite (v : Word)
  /-- ANNOUNCE_TIMEOUT (R99). -/
  | announceTimeout
  /-- STAMP_POST (R96). -/
  | stampPost
  /-- PULSE_ARM (R102). -/
  | pulseArm (i : Fin 8) (v : Word)
  /-- PULSE_STOP (R101). -/
  | pulseStop (i : Fin 8) (v : Word)
  /-- PULSE_EDGE (R102). -/
  | pulseEdge (i : Fin 8)
  /-- PULSE_WIDTH_END (R101). -/
  | pulseWidthEnd (i : Fin 8)
  /-- TIN_EDGE (R104). `after` cycles from now and `phase` sixteenths into that cycle. -/
  | tinEdge (i : Fin 8) (after : Nat) (phase : Fin 16) (falling : Bool)
  /-- WCLK_EDGE (R105). `after` cycles from now and `phase` sixteenths into that cycle. -/
  | wclkEdge (after : Nat) (phase : Fin 16) (rising : Bool)
  /-- WCLK_TIMEOUT (R105). -/
  | wclkTimeout
  /-- HOOP_BOUNDARY (R108). -/
  | hoopBoundary
  /-- PIN_REF_TIMEOUT (R114). -/
  | pinRefTimeout
  /-- FCLK_BOUNDARY (R123). -/
  | fclkBoundary
  /-- PIPELINE_START (R24). -/
  | pipelineStart
  /-- COMMIT_WINDOW_CLOSE (R122). -/
  | commitWindowClose
  /-- INGEST_DEADLINE (R127). -/
  | ingestDeadline
  /-- LAUNCH_TIME (R264). `built`: the entry due next on the port has its frame built. -/
  | launchTime (p : Fin 32) (built : Bool)
  /-- PIPELINE_UNCORRECTABLE_READ (R132). `store` 0 is package memory at `addr` of `stack`; 1 to 3 are the on-die stores of R443. -/
  | pipelineUncorrectableRead (store : Fin 4) (stack : Fin 2) (addr : Nat)
  /-- HOOP_ABORT_KICK (R132). -/
  | hoopAbortKick (v : Word)
  /-- EGRESS_DEADLINE (R265). -/
  | egressDeadline
  /-- HOOP_RUN_START (R116). -/
  | hoopRunStart (v : Word)
  /-- HOOP_RUN_STOP (R117). -/
  | hoopRunStop (v : Word)
  /-- LTR_UPDATE (R129). The walk of the run has processed `walked` pricking entries and `slot` slots of the next;
  `used32` and `used34` bytes are taken in the write buffers of ingest ports 32 and 33, 34 and 35. -/
  | ltrUpdate (walked slot : Nat) (used32 used34 : Nat × Nat)
  /-- STACK_POWER_DOWN (R130). Stack `i` enters `goal`. -/
  | stackPowerDown (i : Fin 2) (goal : Machine.StackState)
  /-- STACK_EXIT_BEGIN (R130). `request`: a request arrived; else LT fell. -/
  | stackExitBegin (i : Fin 2) (request : Bool)
  /-- STACK_EXIT_COMPLETE (R130). -/
  | stackExitComplete (i : Fin 2)
  /-- SESSION_PACKET_RX (R141). `used` bytes of the port’s write buffer are taken as the frame arrives. -/
  | sessionPacketRx (p : Fin 38) (frame : List Byte) (phase : Fin 16) (used : Nat)
  /-- ING_FRAME_COMPLETE (R142). -/
  | ingFrameComplete (k : Fin 256)
  /-- CURVE_DATA_WRITE (R153). -/
  | curveDataWrite (v : Word)
  /-- CURVE_DATA_READ (R153). -/
  | curveDataRead
  /-- PASS_START (R244). `e`: what ECC makes of the lane buffer. -/
  | passStart (g : Fin 4) (e : EccRead)
  /-- SEQUENCER_STEP_END (R236). -/
  | sequencerStepEnd (g : Fin 4)
  /-- BACKGROUND_END (R236). -/
  | backgroundEnd (g : Fin 4)
  /-- LANE_GROUP_EN_WRITE (R250). -/
  | laneGroupEnWrite (g : Fin 4) (v : Word)
  /-- SENSOR_POLL (R253). -/
  | sensorPoll (g : Fin 4)
  /-- SENSOR_POLL_END (R254). `reads`: the answers of the valid sensors, in their order. -/
  | sensorPollEnd (g : Fin 4) (reads : List SensorRead)
  /-- RETURN_RX (R281). `frame` from destination MAC on, without FCS. -/
  | returnRx (p : Fin 32) (frame : List Byte)
  /-- TIRUM_OTHER_RX (R278). -/
  | tirumOtherRx (p : Fin 32) (frame : List Byte)
  /-- RETURN_TOKEN_REFILL (R279). -/
  | returnTokenRefill
  /-- PROGRAM_FRAGMENT_QUEUE (R284). -/
  | programFragmentQueue (p : Fin 32)
  /-- MAC_FRAME_DROPPED (R294). `fcsOk`: its FCS is good; `fifoFull`: it finds the receive FIFO full. Frames are given from destination MAC on, without FCS. -/
  | macFrameDropped (p : Fin 38) (frame : List Byte) (fcsOk fifoFull : Bool)
  /-- PAUSE_FRAME_RX (R305). -/
  | pauseFrameRx (p : Fin 38) (frame : List Byte)
  /-- PTP_FRAME_RX (R298). -/
  | ptpFrameRx (p : Fin 38) (frame : List Byte) (phase : Fin 16)
  /-- HOST_FRAME_RX (R300). -/
  | hostFrameRx (p : Fin 38) (frame : List Byte) (phase : Fin 16)
  /-- UNCLAIMED_FRAME_RX (R298). -/
  | unclaimedFrameRx (p : Fin 38) (frame : List Byte)
  /-- SQUELCHED_FRAME_RX (R396). -/
  | squelchedFrameRx (p : Fin 38) (frame : List Byte)
  /-- FRAME_TX_START (R301). -/
  | frameTxStart (p : Fin 38) (phase : Fin 16)
  /-- FRAME_TX_DONE (R302). -/
  | frameTxDone (p : Fin 38)
  /-- PAUSE_HOLD_END (R305). -/
  | pauseHoldEnd (p : Fin 38)
  /-- PAUSE_REFRESH (R306). `used` bytes of the receive FIFO are taken. -/
  | pauseRefresh (p : Fin 38) (used : Nat)
  /-- PAUSE_XON (R306). `used` bytes of the receive FIFO are taken. -/
  | pauseXon (p : Fin 38) (used : Nat)
  /-- PCS_STATUS_CHANGE (R293). The state after the change, and the invalid blocks counted during it. -/
  | pcsStatusChange (p : Fin 38) (lock localF remoteF : Bool) (errors : Nat)
  /-- LINK_UP (R293). -/
  | linkUp (p : Fin 38)
  /-- LINK_DOWN (R293). -/
  | linkDown (p : Fin 38)
  /-- PORT_EN_WRITE (R307). -/
  | portEnWrite (p : Fin 38) (v : Word)
  /-- FW_TX_GO (R304). -/
  | fwTxGo (p : Fin 38) (v : Word)
  /-- FW_RX_RELEASE (R304). -/
  | fwRxRelease (p : Fin 38) (v : Word)
  /-- COUNTER_CLEAR (R310). -/
  | counterClear (p : Fin 38)
  /-- HEARTBEAT_TOGGLE (R314). -/
  | heartbeatToggle
  /-- HEARTBEAT_EDGE (R314). `after` cycles from now. -/
  | heartbeatEdge (after : Nat)
  /-- HEARTBEAT_TIMEOUT (R314). -/
  | heartbeatTimeout
  /-- TWIN_STATUS_SEND (R320). -/
  | twinStatusSend
  /-- TWIN_LINK_TIMEOUT (R322). -/
  | twinLinkTimeout
  /-- TWIN_STATUS_RX (R320). -/
  | twinStatusRx (p : Fin 38) (frame : List Byte)
  /-- TWIN_DIGEST_RX (R332). -/
  | twinDigestRx (p : Fin 38) (frame : List Byte)
  /-- TWIN_DESC_RX (R326). -/
  | twinDescRx (p : Fin 38) (frame : List Byte)
  /-- TWIN_CLOSE_RX (R326). -/
  | twinCloseRx (p : Fin 38) (frame : List Byte)
  /-- TWIN_LIVE_RX (R327). -/
  | twinLiveRx (p : Fin 38) (frame : List Byte)
  /-- TWIN_DATA_RX (R330). -/
  | twinDataRx (p : Fin 38) (frame : List Byte)
  /-- TWIN_RESIGN_RX (R340). -/
  | twinResignRx (p : Fin 38) (frame : List Byte)
  /-- TWIN_ACK_RX (R325). -/
  | twinAckRx (p : Fin 38) (frame : List Byte)
  /-- DESC_RETRANSMIT (R325). -/
  | descRetransmit
  /-- LIVE_APPLY (R327). -/
  | liveApply
  /-- DECISION_POINT (R338). -/
  | decisionPoint
  /-- STATE_COPY_SEND (R330). -/
  | stateCopySend
  /-- SYNC_TIMEOUT (R331). -/
  | syncTimeout
  /-- AUTO_SYNC_RETRY (R331). -/
  | autoSyncRetry
  /-- SAMPLER_PASS_END (R336). `part` is the failing part, 0 for a clean pass. -/
  | samplerPassEnd (part : Fin 256)
  /-- TWN_BOOT_WRITE (R321). -/
  | twnBootWrite (v : Word)
  /-- THREAD_START (R358). -/
  | threadStart (t : Fin 256) (v : Word)
  /-- THREAD_HALT (R358). -/
  | threadHalt (t : Fin 256) (v : Word)
  /-- SCH_WAIT (R364). -/
  | schWait (c : Fin 8) (v : Word)
  /-- SCH_YIELD (R360). -/
  | schYield (c : Fin 8)
  /-- SCH_EXIT (R358). -/
  | schExit (c : Fin 8)
  /-- SCH_TAKE (R365). -/
  | schTake (c : Fin 8) (k : Fin 4)
  /-- SCH_SIGNAL (R365). -/
  | schSignal (c : Fin 8) (v : Word)
  /-- SCH_TIMER_WRITE (R365). -/
  | schTimerWrite (c : Fin 8) (v : Word)
  /-- SCH_TIMER_EXPIRY (R365). -/
  | schTimerExpiry (t : Fin 256)
  /-- SCH_WDOG (R366). -/
  | schWdog (c : Fin 8)
  /-- WATCHDOG_EXPIRY (R366). -/
  | watchdogExpiry (c : Fin 8)
  /-- SCH_POST (R371). -/
  | schPost (c : Fin 8) (q : Fin 16)
  /-- PREEMPT (R361). -/
  | preempt
  /-- NOTICE_PACKET_ACCEPT (R369). -/
  | noticePacketAccept (q : Fin 16)
  /-- NQ_POP (R373). -/
  | nqPop (src : Source) (q : Fin 16)
  /-- NQ_EN_WRITE (R374). -/
  | nqEnWrite (q : Fin 16) (v : Word)
  /-- CORE_FAULT (R356). Core `c` tries the access `e` at `addr`. -/
  | coreFault (c : Fin 8) (addr : Nat) (e : CoreTry)
  /-- OBS_WINDOW_END (R376). -/
  | obsWindowEnd
  /-- CVU_CLAIM (R377). -/
  | cvuClaim (src : Source) (u : Fin 4) (v : Word)
  /-- CVU_RELEASE (R377). -/
  | cvuRelease (src : Source) (u : Fin 4) (v : Word)
  /-- CVU_START (R379). -/
  | cvuStart (src : Source) (u : Fin 4) (v : Word)
  /-- CVU_FEED_B (R380). -/
  | cvuFeedB (src : Source) (u : Fin 4) (v : Word)
  /-- CVU_FEED_H (R380). -/
  | cvuFeedH (src : Source) (u : Fin 4) (v : Word)
  /-- CVU_FEED_W (R380). -/
  | cvuFeedW (src : Source) (u : Fin 4) (v : Word)
  /-- RAIL_POWER_ON (R382). -/
  | railPowerOn
  /-- RESET_N_ASSERT (R382). -/
  | resetNAssert
  /-- BOOT_RESET (R382). -/
  | bootReset (v : Word)
  /-- RESET_RELEASE (R384). The straps as sampled. -/
  | resetRelease (twinEn twinSide : Bool) (mode : Fin 4)
  /-- PLL_LOCK (R384). -/
  | pllLock
  /-- KEYS_LOADED (R433). -/
  | keysLoaded
  /-- STORE_REPAIR (R414). -/
  | storeRepair
  /-- MEM_READY (R384). -/
  | memReady
  /-- BOOT_BEGIN (R390). -/
  | bootBegin
  /-- BOOT_CLEAR_DONE (R390). -/
  | bootClearDone
  /-- BOOT_PUSH (R391). `master`: Bus Master Enable is set. -/
  | bootPush (master : Bool)
  /-- BOOT_BLOCK_DONE (R391). none: the DMA read failed. -/
  | bootBlockDone (data : Option (List Byte))
  /-- BOOT_ABORT (R390). -/
  | bootAbort
  /-- BOOT_VERIFY_DONE (R392). -/
  | bootVerifyDone
  /-- BRING_UP (R397). -/
  | bringUp (v : Word)
  /-- BRING_UP_STEP (R397). -/
  | bringUpStep
  /-- SQUELCH_HOLD_CLEAR (R397). -/
  | squelchHoldClear (v : Word)
  /-- ACTIVATION_COMPLETE (R406). -/
  | activationComplete
  /-- CONFIRM_EXPIRY (R409). -/
  | confirmExpiry
  /-- REVERT_COMPLETE (R409). -/
  | revertComplete
  /-- KEEP_STEP_COMPLETE (R410). `key`: the step belongs to KEY, else to UPD. -/
  | keepStepComplete (key : Bool)
  /-- UPD_FW_WRITE (R415). -/
  | updFwWrite (v : Word)
  /-- UPD_FW_READ (R415). -/
  | updFwRead (v : Word)
  /-- STORE_SUPPLY_TIMEOUT (R417). -/
  | storeSupplyTimeout
  /-- KEY_WRITE (R426). -/
  | keyWrite (src : Source) (v : Word)
  /-- KEY_ERASE (R427). -/
  | keyErase (src : Source) (v : Word)
  /-- KEY_DERIVE (R428). -/
  | keyDerive (src : Source) (v : Word)
  /-- KEY_PROVE (R429). -/
  | keyProve (src : Source) (v : Word)
  /-- KEY_SUPPLY_TIMEOUT (R434). -/
  | keySupplyTimeout
  /-- KEY_ADMIN_EN_FALL (R424). -/
  | keyAdminEnFall
  /-- TAMPER (R436). `low`: TAMPER_N stays low afterwards. -/
  | tamper (low : Bool)
  /-- WRAP_CELL_RENEW (R437). -/
  | wrapCellRenew
  /-- CLOCK_LOSS (R442). Domain 1 to 6 (GLB_FAULT.DOMAIN). -/
  | clockLoss (domain : Fin 7)
  /-- SCRUB (R445). -/
  | scrub (stack : Fin 2) (addr : Nat) (e : EccRead)
  /-- GLB_BEHAV_WRITE (R447). -/
  | glbBehavWrite (v : Word)
  /-- SUPPLY_FAULT (R459). Rail 1 to 9 (Table 18-3). -/
  | supplyFault (rail : Fin 10)
  /-- WRITE_PERMISSION_REFUSE (R460). Rail 1 to 9. -/
  | writePermissionRefuse (rail : Fin 10)
  /-- WRITE_PERMISSION_GRANT (R460). -/
  | writePermissionGrant
  /-- PSM_SENSOR_UPDATE (R468). Die and stack temperatures in S8.8 °C, rails 1 to 9 in mV. -/
  | psmSensorUpdate (tj : Int) (hbm : List Int) (mv : List Nat)
  /-- LGW_ADDR_H_WRITE (R474). -/
  | lgwAddrHWrite (v : Byte)
  /-- LGW_ADDR_L_WRITE (R474). -/
  | lgwAddrLWrite (v : Byte)
  /-- LGW_DATA_WRITE (R474). -/
  | lgwDataWrite (v : Byte)
  /-- LGW_DATA_READ (R474). -/
  | lgwDataRead
  /-- LGW_OPEN (R476). -/
  | lgwOpen (v : Byte)
  /-- RESET_N_DEASSERT (R384). -/
  | resetNDeassert
  /-- PERST_N_ASSERT (R385). -/
  | perstNAssert
  /-- PCIE_LINK_UP (R385). -/
  | pcieLinkUp
  /-- KEY_COMMAND_DONE (R425). -/
  | keyCommandDone
  deriving DecidableEq, Repr

end Sys2Proof
end

