-- ==== Sys2Proof/Decode.lean ====
section
/-! DEFINITION. Decode.lean: the commands that a word spells. No row of spec/opcode_table.json gives a
command any bits: a command is an event, not a word. -/
namespace Sys2Proof

/-- The command spelled by a word of `nbits` bits: none, since no row of the table has bits. -/
def decodeTableWord (_nbits _w : Nat) : Option Instr := none

end Sys2Proof
end

