-- ==== Sys2Proof/Machine/Crypto.lean ====
section
/-! DEFINITION. Machine/Crypto.lean: SHA-256 and HMAC, AES-256, GMAC and GCM, which the spec names
by algorithm (R260, R321, R389, R422, R428, R429, R431) without printing them. PRESUMED from the
algorithms' public standards (log 40). -/
namespace Sys2Proof.Machine

/-! ### SHA-256 and HMAC -/

/-- The integer part of the `n`-th root of `v`, from its `k` lowest bits on top of `r`. -/
def rootOf (n v : Nat) : Nat → Nat → Nat
  | 0, r => r
  | k + 1, r => rootOf n v k (if (r + 2 ^ k) ^ n ≤ v then r + 2 ^ k else r)

/-- The first 32 bits of the fraction of the `n`-th root of `p`. -/
def rootWord (n p : Nat) : Word := w32 (rootOf n (p * 2 ^ (32 * n)) 35 0)

/-- The primes below 312: the first 64. -/
def shaPrimes : List Nat :=
  (List.range 312).filter fun p => decide (2 ≤ p) && [2, 3, 5, 7, 11, 13, 17].all fun d => decide (p = d ∨ p % d ≠ 0)

/-- The constant of each round: of the cube roots of the first 64 primes. -/
def shaRoundWords : List Word := shaPrimes.map (rootWord 3)

/-- The words before the first block: of the square roots of the first 8 primes. -/
def shaInit : List Word := (shaPrimes.take 8).map (rootWord 2)

/-- Rotation to the right. -/
def rotr (x : Word) (n : Nat) : Word := (x >>> n) ||| (x <<< (32 - n))

/-- The message schedule, newest word first, `n` words beyond the first 16. -/
def shaSchedule : Nat → List Word → List Word
  | 0, w => w
  | n + 1, w =>
    let at_ := fun i => (w[i]?).getD 0
    let s0 := rotr (at_ 14) 7 ^^^ rotr (at_ 14) 18 ^^^ (at_ 14 >>> 3)
    let s1 := rotr (at_ 1) 17 ^^^ rotr (at_ 1) 19 ^^^ (at_ 1 >>> 10)
    shaSchedule n ((at_ 15 + s0 + at_ 6 + s1) :: w)

/-- One round. -/
def shaRound (v : List Word) (kw : Word) : List Word :=
  match v with
  | [a, b, c, d, e, f, g, h] =>
    let t1 := h + (rotr e 6 ^^^ rotr e 11 ^^^ rotr e 25) + ((e &&& f) ^^^ (~~~e &&& g)) + kw
    let t2 := (rotr a 2 ^^^ rotr a 13 ^^^ rotr a 22) + ((a &&& b) ^^^ (a &&& c) ^^^ (b &&& c))
    [t1 + t2, a, b, c, d + t1, e, f, g]
  | v => v

/-- One 64-byte block. -/
def shaBlock (h : List Word) (blk : List Byte) : List Word :=
  let w0 := (List.range 16).map fun i => w32 (be blk (4 * i) 4)
  let w := (shaSchedule 48 w0.reverse).reverse
  let v := (List.zipWith (· + ·) shaRoundWords w).foldl shaRound h
  List.zipWith (· + ·) h v

/-- SHA-256. -/
def sha256 (m : List Byte) : List Byte :=
  let pad := (119 - m.length % 64) % 64
  let p := m ++ [0x80] ++ List.replicate pad 0 ++ beBytes 8 (8 * m.length)
  let h := (List.range (p.length / 64)).foldl (fun h i => shaBlock h (slice p (64 * i) 64)) shaInit
  h.flatMap fun w => beBytes 4 w.toNat

/-- HMAC-SHA-256 with a key of at most 64 bytes. -/
def hmac (key m : List Byte) : List Byte :=
  let k := slice key 0 64
  sha256 (k.map (· ^^^ 0x5c) ++ sha256 (k.map (· ^^^ 0x36) ++ m))

/-! ### AES-256 -/

/-- Doubling in the field of AES. -/
def xtime (b : Byte) : Byte := (b <<< 1) ^^^ (if b.getLsbD 7 then 0x1b else 0)

/-- The substitution box: row `r` holds the values of 16r to 16r + 15, the first in its lowest byte. -/
def sboxRow : Nat → Nat
  | 0 => 0x76abd7fe2b670130c56f6bf27b777c63
  | 1 => 0xc072a49cafa2d4adf04759fa7dc982ca
  | 2 => 0x1531d871f1e5a534ccf73f362693fdb7
  | 3 => 0x75b227ebe28012079a059618c323c704
  | 4 => 0x842fe329b3d63b52a05a6e1b1a2c8309
  | 5 => 0xcf584c4a39becb6a5bb1fc20ed00d153
  | 6 => 0xa89f3c507f02f94585334d43fbaaefd0
  | 7 => 0xd2f3ff1021dab6bcf5389d928f40a351
  | 8 => 0x73195d643d7ea7c41744975fec130ccd
  | 9 => 0xdb0b5ede14b8ee4688902a22dc4f8160
  | 10 => 0x79e4959162acd3c25c2406490a3a32e0
  | 11 => 0x08ae7a65eaf4566ca94ed58d6d37c8e7
  | 12 => 0x8a8bbd4b1f74dde8c6b4a61c2e2578ba
  | 13 => 0x9e1dc186b95735610ef6034866b53e70
  | 14 => 0xdf2855cee9871e9b948ed9691198f8e1
  | _ => 0x16bb54b00f2d99416842e6bf0d89a18c

/-- The substitution box. -/
def sbox (a : Byte) : Byte := BitVec.ofNat 8 (sboxRow (a.toNat / 16) / 2 ^ (8 * (a.toNat % 16)))

def xorBytes (a b : List Byte) : List Byte := List.zipWith (· ^^^ ·) a b

/-- The key schedule, newest word first, `n` words more; `i` words are there. -/
def keySchedule : Nat → Nat → List (List Byte) → List (List Byte)
  | 0, _, w => w
  | n + 1, i, w =>
    let prev := (w[0]?).getD []
    let t :=
      if i % 8 = 0 then
        let r := ((prev.drop 1) ++ prev.take 1).map sbox
        let rc := (List.range (i / 8 - 1)).foldl (fun x _ => xtime x) (1 : Byte)
        xorBytes r [rc, 0, 0, 0]
      else if i % 8 = 4 then prev.map sbox
      else prev
    keySchedule n (i + 1) (xorBytes ((w[7]?).getD []) t :: w)

/-- The 60 words of the key schedule. -/
def expandKey (key : List Byte) : List (List Byte) :=
  (keySchedule 52 8 (((List.range 8).map fun i => slice key (4 * i) 4).reverse)).reverse

def roundKey (w : List (List Byte)) (r : Nat) : List Byte := ((w.drop (4 * r)).take 4).flatten

/-- Bytes of a column-major state shifted row by row. -/
def shiftRows (st : List Byte) : List Byte :=
  (List.range 16).map fun i => st.getD ((i + 4 * (i % 4)) % 16) 0

/-- One column mixed. -/
def mixColumn (c : List Byte) : List Byte :=
  let at_ := fun i => c.getD (i % 4) 0
  (List.range 4).map fun i => xtime (at_ i) ^^^ (xtime (at_ (i + 1)) ^^^ at_ (i + 1)) ^^^ at_ (i + 2) ^^^ at_ (i + 3)

def mixColumns (st : List Byte) : List Byte := (List.range 4).flatMap fun c => mixColumn (slice st (4 * c) 4)

/-- AES-256 of one 16-byte block. -/
def aes256 (key blk : List Byte) : List Byte :=
  let w := expandKey key
  let st := xorBytes blk (roundKey w 0)
  let st := (List.range 13).foldl (fun st r => xorBytes (mixColumns (shiftRows (st.map sbox))) (roundKey w (r + 1))) st
  xorBytes (shiftRows (st.map sbox)) (roundKey w 14)

/-! ### GMAC and GCM -/

/-- Multiplication in the field of GHASH: bit 127 of a block is its first. -/
def ghashMul (x y : Nat) : Nat :=
  ((List.range 128).foldl (fun (z, v) i =>
    (if bitOf x (127 - i) then z ^^^ v else z,
     if v % 2 = 1 then v / 2 ^^^ (0xe1 * 2 ^ 120) else v / 2)) (0, y)).1

/-- Bytes padded with zeros to whole blocks. -/
def padBlocks (bs : List Byte) : List Byte := bs ++ List.replicate ((16 - bs.length % 16) % 16) 0

def ghash (h : Nat) (bs : List Byte) : Nat :=
  (List.range (bs.length / 16)).foldl (fun y i => ghashMul (y ^^^ be bs (16 * i) 16) h) 0

/-- The tag of GCM over additional data and ciphertext, with a 96-bit IV. -/
def gcmTag (key iv aad ct : List Byte) : List Byte :=
  let h := beNat (aes256 key (List.replicate 16 0))
  let s := ghash h (padBlocks aad ++ padBlocks ct ++ beBytes 8 (8 * aad.length) ++ beBytes 8 (8 * ct.length))
  xorBytes (beBytes 16 s) (aes256 key (iv ++ [0, 0, 0, 1]))

/-- GCM's counter mode, which encrypts and decrypts. -/
def gcmCrypt (key iv text : List Byte) : List Byte :=
  (List.range ((text.length + 15) / 16)).flatMap fun i =>
    xorBytes ((text.drop (16 * i)).take 16) (aes256 key (iv ++ beBytes 4 (i + 2)))

/-- The first 8 bytes of a GMAC (R260, R321). -/
def gmac8 (key iv aad : List Byte) : List Byte := (gcmTag key iv aad []).take 8

end Sys2Proof.Machine
end

