-- ==== Sys2Proof/Machine/StateVideo.lean ====
section
/-! DEFINITION. Machine/StateVideo.lean: the state of the commit window (chapter 4), the
configuration it commits, ingest (chapter 5), layers (chapter 6), the staging areas of the bundle
parts (chapter 7) and colour correction (chapter 8), with their reset values. -/
namespace Sys2Proof.Machine

/-! ### The committed configuration -/

/-- The global values of COLOUR_SET (Table 8-8). -/
structure ColourCfg where
  dither : Bool
  bright : Nat
  fixBright : Nat
  /-- S8.8 -/
  tStale : Int
  staleHoops : Nat
  tAlarm : Int
  deriving DecidableEq, Repr

def ColourCfg.reset : ColourCfg := ⟨true, 0x10000, 0x10000, 0x5000, 0xF0, 0x7800⟩

/-- Everything a commit set changes and the next boundary puts in force (R23). Sessions, source
sets and layers are held as the argument words that set them; the empty list is the reset setting,
every field zero. -/
structure Cfg where
  /-- SESSION_SET words by session (Table 5-1) -/
  sessions : Table (List Word)
  /-- SOURCE_SET words by layer (Table 5-9) -/
  sources : Table (List Word)
  /-- LAYER_SET words by layer (Table 6-6) -/
  layers : Table (List Word)
  /-- the handle bound to a layer -/
  binds : Table (Option Nat)
  cw : Nat
  ch : Nat
  bgR : Nat
  bgG : Nat
  bgB : Nat
  colour : ColourCfg
  /-- the active image of part 0 to 6; the empty list where none has been active -/
  parts : Table (List Byte)
  /-- controller ID (R275) -/
  cid : Nat
  deriving DecidableEq, Repr

def Cfg.reset : Cfg :=
  { sessions := [], sources := [], layers := [], binds := [], cw := 1024, ch := 1024, bgR := 0,
    bgG := 0, bgB := 0, colour := ColourCfg.reset, parts := [], cid := 0 }

/-! ### Commit windows -/

/-- A member of a commit set, or a descriptor on its way to one: its tracker entry, its place in the order
of hand-overs (R65), where it came from, and whether it joins late (Table 4-6). -/
structure Member where
  id : Nat
  handed : Nat
  origin : Origin
  ring : Nat
  desc : Desc
  late : Bool
  deriving DecidableEq, Repr

/-- The end state of a closed, accepted set, which waits for its boundary (R122, R123). -/
structure EndState where
  members : List Member
  cfg : Cfg
  /-- HOOP_SET register words (R120) -/
  hoopRegs : List (Nat × Word)
  /-- PORT_SET and other register words that apply at the FCLK-side boundary -/
  portRegs : List (Nat × Word)
  /-- the parts named by a COMMIT -/
  named : List Nat
  deriving DecidableEq, Repr

/-- The commit window: open or not, its members so far, those held for it, and the closed set. -/
structure Window where
  isOpen : Bool
  members : List Member
  /-- AT_HOOP descriptors held for their window (R53) -/
  held : List Member
  /-- waiting for the next window to open (R118, Table 4-6) -/
  waiting : List Member
  closed : Option EndState
  deriving DecidableEq, Repr

def Window.reset : Window := ⟨false, [], [], [], none⟩

/-! ### ING (chapter 5) -/

/-- R145. -/
inductive SessState where
  | off
  | wait
  | live
  | lost
  deriving DecidableEq, Repr

def SessState.code : SessState → Nat
  | .off => 0
  | .wait => 1
  | .live => 2
  | .lost => 3

/-- A frame in reception (R140 to R143). -/
structure Frame where
  ts : Nat
  /-- the handle it is written into; none when every handle was pinned -/
  handle : Option Nat
  /-- the settings in force at its first packet (R151) -/
  args : List Word
  /-- 32-bit sequence numbers received -/
  seqs : List Nat
  /-- the highest sequence number received -/
  high : Nat
  marker : Option Nat
  /-- pixels handed to MEM -/
  pixels : Nat
  bad : Bool
  /-- it has completed (R142) -/
  complete : Bool
  /-- chroma samples of the last pixel pair of a line, waiting for their right neighbour, are
  resolved from the frame's stored samples: (pixel offset, Y, Cb, Cr) of 4:2:2 pixels received -/
  samples : Table (Option (Nat × Nat × Nat))
  deriving DecidableEq, Repr

/-- A complete frame: its RTP timestamp, its handle, and its place in the order of completion. -/
structure DoneFrame where
  ts : Nat
  handle : Nat
  /-- pixels per line of the image -/
  width : Nat
  order : Nat
  deriving DecidableEq, Repr

/-- What a session holds while the machine runs. -/
structure SessRt where
  state : SessState
  ssrc : Option Nat
  /-- deadlines since a packet of the latched SSRC -/
  ssrcAge : Nat
  /-- the session has unlatched an SSRC and takes the next it sees -/
  relatch : Bool
  /-- RTP timestamp of the last frame received -/
  lastTs : Option Nat
  cur : Option Frame
  /-- complete frames not offered yet -/
  waiting : List DoneFrame
  offer : Option DoneFrame
  age : Nat
  complete : Word
  /-- hoop in which FORMAT_ERROR was last posted -/
  formatHoop : Option Hoop
  deriving DecidableEq, Repr

def SessRt.reset : SessRt :=
  { state := .off, ssrc := none, ssrcAge := 0, relatch := false, lastTs := none, cur := none,
    waiting := [], offer := none, age := 0, complete := 0, formatHoop := none }

/-- What a layer's source set holds while the machine runs (R155, R156, R176). -/
structure SourceRt where
  cur : Option Nat
  lastUsed : Option Nat
  healthy : List Bool
  run : List Nat
  /-- handle and line width of the image held under POLICY 0 -/
  held : Option (Nat × Nat)
  /-- the set has just been enabled; a candidate word has changed -/
  fresh : Bool
  changed : Bool
  /-- handle and line width of the image the layer reads in the current run -/
  feed : Option (Nat × Nat)
  deriving DecidableEq, Repr

def SourceRt.reset : SourceRt :=
  ⟨none, none, [false, false, false, false], [0, 0, 0, 0], none, true, false, none⟩

/-- The data of a BUF_WRITE held back while its handle is pinned (R31, R144): its tracker entry, its data,
and the hoop in which the driving unit completed it. -/
structure HeldWrite where
  track : Nat
  data : List Byte
  hoop : Hoop
  deriving DecidableEq, Repr

/-- ING. -/
structure Ing where
  sess : Table SessRt
  src : Table SourceRt
  /-- order of a handle's last PUBLISH since it was allocated; 0: none -/
  published : Table Nat
  /-- the image of a host candidate, frozen at the last deadline, by 4 × layer + candidate -/
  frozenHost : Table (Option Nat)
  /-- pinned handles, each until the FCLK-side boundary given (R144, R155) -/
  pins : List (Nat × Hoop)
  heldWrites : List HeldWrite
  order : Nat
  curve : Table (Option Nat)
  /-- packets dropped on a full write buffer since the last notice, and the hoop of that notice -/
  overflow : Table Nat
  overflowHoop : Table (Option Hoop)
  /-- bytes waiting in a port's 1 MiB write buffer -/
  bufUsed : Table Nat
  deriving DecidableEq, Repr

def Ing.reset : Ing :=
  { sess := [], src := [], published := [], frozenHost := [], pins := [], heldWrites := [], order := 0,
    curve := [],    overflow := [], overflowHoop := [], bufUsed := [] }

/-! ### LAY (chapter 6) -/

/-- Table 6-2. -/
inductive HandleState where
  | free
  | filling
  | idle
  | bound
  | retiring
  deriving DecidableEq, Repr

def HandleState.code : HandleState → Nat
  | .free => 0
  | .filling => 1
  | .idle => 2
  | .bound => 3
  | .retiring => 4

/-- A buffer handle. -/
structure Handle where
  state : HandleState
  w : Nat
  h : Nat
  pages : Nat
  fence : Hoop
  deriving DecidableEq, Repr

def Handle.reset : Handle := ⟨.free, 0, 0, 0, 0⟩

/-- LAY: handles, their pixels and the page pool. -/
structure Lay where
  handles : Table Handle
  /-- pixel p of handle n at n × 2^28 + p: R, G, B, A from the low bits up; zero fill reads zero -/
  pixels : Table (BitVec 64)
  freePages : Nat
  lowArmed : Bool
  compLast : Nat
  prkWait : Nat
  deriving DecidableEq, Repr

def Lay.reset : Lay := ⟨[], [], 12288, true, 0, 0⟩

/-! ### Staging areas (chapters 7 to 10) -/

/-- Table 7-8. -/
inductive StageState where
  | empty
  | loading
  | invalid
  | valid
  | committing
  deriving DecidableEq, Repr

def StageState.code : StageState → Nat
  | .empty => 0
  | .loading => 1
  | .invalid => 2
  | .valid => 3
  | .committing => 4

/-- A part's staging area. `hole` is the range of a block that ended with DMA_ERROR (R199). -/
structure Stage where
  state : StageState
  reason : Nat
  size : Nat
  data : List Byte
  hole : Option (Nat × Nat)
  deriving DecidableEq, Repr

def Stage.reset : Stage := ⟨.empty, 0, 0, [], none⟩

/-! ### COL (chapter 8) -/

/-- Estimator state of one motif channel (Table 8-2): θ and L; S, theta_work, tj and TG of the run in
progress; tj and TG of the last completed run. -/
structure Estimate where
  theta : Int
  l : Nat
  s : Nat
  work : Int
  tj : Int
  tg : Nat
  shownTj : Int
  shownTg : Nat
  deriving DecidableEq, Repr

def Estimate.reset : Estimate := ⟨0, 0, 0, 0, 0, 0, 0, 0⟩

/-- A motif's temperature report as the snapshot holds it (R21). -/
structure TempReport where
  valid : Bool
  temp : Int
  hoop : Hoop
  deriving DecidableEq, Repr

def TempReport.reset : TempReport := ⟨false, 0, 0⟩

/-- COL. -/
structure Col where
  /-- channel k of motif m at 4 × m + k -/
  est : Table Estimate
  snapshot : Table TempReport
  /-- stale and hot motifs of the last completed run, and of the run in progress -/
  stale : List Nat
  hot : List Nat
  runStale : List Nat
  runHot : List Nat
  /-- highest estimate of each hot motif of the run in progress -/
  runTop : Table Int
  clip : Nat
  runClip : Nat
  /-- the last completed run (COL_EST_HOOP) -/
  estHoop : Hoop
  deriving DecidableEq, Repr

def Col.reset : Col :=
  { est := [], snapshot := [], stale := [], hot := [], runStale := [], runHot := [], runTop := [],
    clip := 0, runClip := 0, estHoop := 0 }

/-- The pipeline run in progress and what it has produced (R19, R26). -/
structure Run where
  /-- the pipeline has started the run of this hoop -/
  active : Bool
  hoop : Hoop
  /-- presentation offset P in force for the run, ns (R246) -/
  p : Nat
  /-- behaviour revision in force (R220) -/
  rev : Nat
  /-- greyscale of chain position i of motif m at m × 65536 + i -/
  grey : Table (List Nat)
  /-- the three levels of a fixture (R219) -/
  fixtures : Table (List Nat)
  /-- built frame of the schedule entry by its number in the part; the empty list: not built -/
  frames : Table (List Byte)
  deriving DecidableEq, Repr

def Run.reset : Run := ⟨false, 0, 0, 2, [], [], []⟩

end Sys2Proof.Machine
end

