-- ==== Sys2Proof/Machine/StateEgress.lean ====
section
/-! DEFINITION. Machine/StateEgress.lean: the live fields of the motif table (chapter 7), the state of
the bobbin lanes and sensors (chapter 9), of egress (chapter 10) and of the Ethernet ports
(chapter 11), with their reset values. -/
namespace Sys2Proof.Machine

/-- The live fields of a motif (Table 7-4), and the pair of its last accepted RETURN (R281). -/
structure Live where
  report : TempReport
  epoch : Nat
  foreign : Bool
  fcid : Nat
  fepoch : Nat
  deriving DecidableEq, Repr

def Live.reset : Live := ⟨TempReport.reset, 0, false, 0, 0⟩

/-! ### STI (chapter 9) -/

/-- What a lane group presents: a run's stitch with the profile and program in force for it, and its
anchors (R244, R245). -/
structure Show where
  hoop : Hoop
  /-- B_(h+1) + P in quarter-ns of device time -/
  base : Nat
  motif : Nat
  /-- its LANES -/
  lanes : Nat
  /-- driver profile entry (Table 9-2) and program directory entry (Table 9-3), as bytes -/
  profile : List Byte
  dir : List Byte
  steps : List Nat
  stitch : List Byte
  /-- number of the next pass -/
  next : Nat
  /-- passes repeat a held stitch: that of an earlier run (R245) -/
  held : Bool
  /-- nominal hoops repeated since the generator stopped (Table 9-9) -/
  reps : Nat
  /-- a swap has left the group without a motif: this run is its last -/
  final : Bool
  deriving DecidableEq, Repr

/-- The sequencer of a lane group during a pass (R236). Times are ticks from the pass start. -/
structure Seq where
  /-- elapsed quarter-ns of the pass start -/
  start : Nat
  /-- index of the step in progress within the program -/
  pc : Nat
  /-- when the step in progress began -/
  began : Nat
  /-- when the step in progress ends; none while it waits for the background activity -/
  ends : Option Nat
  /-- when the background activity began and when it ends -/
  bg : Option (Nat × Nat)
  row : Nat
  /-- jumps taken by the LOOP at an index -/
  loops : Table Nat
  /-- uncorrectable data was met in the lane buffer: bit i is 1 where the word of chain position i is among the
  words that read as zero -/
  poison : Option Nat
  deriving DecidableEq, Repr

/-- A lane group with its sensors. -/
structure Lane where
  /-- what is presented now, and what is presented from its first anchor on -/
  cur : Option Show
  nxt : Option Show
  seq : Option Seq
  passes : Word
  passLen : Nat
  /-- the last ADDR written to the address lines -/
  addr : Nat
  /-- sensor `n` failed its last read -/
  fail : List Bool
  /-- highest result of the last poll that a sensor answered, S8.8 -/
  last : Option Int
  polling : Bool
  /-- elapsed TCLK cycle at which the last poll began -/
  pollAt : Option Nat
  deriving DecidableEq, Repr

def Lane.reset : Lane := ⟨none, none, none, 0, 0, 0, [false, false, false, false], none, false, none⟩

/-- STI: the lane groups, and the back bank of the lane buffer by local motif. -/
structure Sti where
  lanes : Table Lane
  back : Table (List Byte)
  deriving DecidableEq, Repr

def Sti.reset : Sti := ⟨[], []⟩

/-! ### EGR (chapter 10) -/

/-- The digests of one run: its hoop, whether it was aborted, and the digest of each thread port. -/
structure RunDigest where
  hoop : Hoop
  aborted : Bool
  ports : List Nat
  deriving DecidableEq, Repr

/-- A PROGRAM refresh pending on a port: the motif, APPLY_HOOP, whether staged parts are sent, and
the PROGRAM_SEND descriptor it belongs to (R284, R285). -/
structure Refresh where
  motif : Nat
  apply : Hoop
  staged : Bool
  job : Option Nat
  deriving DecidableEq, Repr

/-- The PROGRAM image a port is sending: its bytes, the motif's frame fields, and the next fragment. -/
structure Sending where
  refresh : Refresh
  image : List Byte
  tag : Nat
  frag : Nat
  deriving DecidableEq, Repr

/-- A CONTROL frame waiting for the first HOOP_MARK of a run (R277). -/
structure Control where
  motif : Nat
  path : Bool
  run : Hoop
  command : Nat
  arg : Nat
  deriving DecidableEq, Repr

/-- Thread port `p` as EGR holds it. -/
structure EgrPort where
  /-- schedule entries of the run handed so far -/
  handed : Nat
  credit : Nat
  tokens : Nat
  pending : List Refresh
  sending : Option Sending
  controls : List Control
  /-- PROGRAM bytes queued in this hoop -/
  progBytes : Nat
  /-- PROGRAM and CONTROL frames sent since reset, mod 2^31 (R260) -/
  seq : Nat
  /-- frames sent late and dropped in this hoop, and RETURN frames over the limit -/
  lateSent : Nat
  lateDropped : Nat
  limited : Nat
  /-- schedule entries handed as the run was aborted, and the one whose absence aborted it (R268) -/
  cut : Nat
  missed : Option Nat
  deriving DecidableEq, Repr

def EgrPort.reset : EgrPort := ⟨0, 0, 256, [], none, [], 0, 0, 0, 0, 0, 0, none⟩

/-- EGR. -/
structure Egr where
  ports : Table EgrPort
  /-- digests of the last 16 runs, newest first -/
  digests : List RunDigest
  digestHoop : Hoop
  /-- the change hoop C of a motif (R283) -/
  change : Table (Option Hoop)
  /-- HOOP and ARG_B of the last accepted RETURN of a motif -/
  pairs : Table (Option (Hoop × Nat))
  /-- the run whose abort the next HOOP_MARK repeats -/
  abortOf : Option Hoop
  /-- key slot that governs the frames being built (R261) -/
  slot : Nat
  /-- no usable key as last seen, which KEY_UNUSABLE told of -/
  noKey : Bool
  /-- the run's hoop marks, and its STITCH frames, were built with a zero tag for want of a key -/
  zeroMarks : Bool
  zeroStitches : Bool
  deriving DecidableEq, Repr

def Egr.reset : Egr := ⟨[], [], 0, [], [], none, 0, false, false, false⟩

/-! ### Ethernet ports (chapter 11) -/

/-- Who sent a frame that stands in a transmit queue. -/
inductive Sender where
  /-- a schedule entry of run `run`: its number within the port -/
  | sched (run : Hoop) (entry : Nat)
  /-- an abort declaration -/
  | declaration (run : Hoop)
  | program
  | control
  | firmware
  /-- a RAW_TX descriptor, by its tracker entry, and whether it wants a stamp -/
  | rawTx (track : Nat) (stamp : Bool)
  | twin
  /-- the port's own pause frame -/
  | pause
  deriving DecidableEq, Repr

/-- A frame in a transmit queue: destination MAC through padding, without FCS or inserted tag. -/
structure TxFrame where
  bytes : List Byte
  sender : Sender
  /-- device time L it was due (quarter-ns), for scheduled frames -/
  due : Nat
  /-- the frame carries its own tag -/
  ownTag : Bool
  /-- where its transmit stamp goes (R93), and whether it asks for one-step (R94) -/
  stamp : Option StampDest
  oneStep : Bool
  deriving DecidableEq, Repr

/-- A firmware frame that waits in MAC_FW_TX: not copied yet, or its queue is full. -/
structure FwTx where
  frame : TxFrame
  queue : Nat
  deriving DecidableEq, Repr

/-- A received frame on its way to the buffer of RX_POST entry `track`: the bytes written and the results. -/
structure RxWrite where
  track : Nat
  bytes : List Byte
  r0 : Nat
  r1 : Nat
  deriving DecidableEq, Repr

/-- A port. -/
structure MacPort where
  link : Bool
  lock : Bool
  localFault : Bool
  remoteFault : Bool
  /-- transmit queue `q`, oldest first -/
  queues : Table (List TxFrame)
  /-- frames waiting for space in queue `q` -/
  waiting : Table (List TxFrame)
  wire : Option TxFrame
  /-- queue that the frame on the wire came from -/
  wireQueue : Nat
  /-- elapsed quarter-ns at which the frame on the wire ends -/
  wireEnd : Nat
  /-- the stamp of the RAW_TX frame on the wire, or its loss: status and results (R302) -/
  wireResult : Option (Nat × Nat × Nat)
  /-- elapsed cycle of the last change of block lock or faults -/
  pcsAt : Nat
  /-- elapsed quarter-ns at which a received pause hold ends, and from which it holds and is still to be
  added to PAUSE_HELD -/
  hold : Option Nat
  holdFrom : Nat
  /-- hoop in which PAUSE_SEEN was last posted -/
  seenHoop : Option Hoop
  /-- the port is asserting pause, and the elapsed quarter-ns of its last pause frame -/
  xoff : Bool
  xoffAt : Nat
  counters : Table Word
  filters : Table (List Word)
  /-- firmware receive slots in use -/
  fwSlots : List Nat
  fwTx : Option FwTx
  /-- frames that are being written to posted buffers (R300) -/
  rxWrites : List RxWrite
  /-- frames dropped for want of a buffer in hoop `noBufHoop` (R312) -/
  noBuf : Nat
  noBufHoop : Option Hoop
  deriving DecidableEq, Repr

def MacPort.reset : MacPort :=
  { link := false, lock := false, localFault := false, remoteFault := false, queues := [], waiting := [],
    wire := none, wireQueue := 0, wireEnd := 0, wireResult := none, pcsAt := 0, hold := none, holdFrom := 0, seenHoop := none, xoff := false,
    xoffAt := 0, counters := [], filters := [], fwSlots := [], fwTx := none, rxWrites := [], noBuf := 0,
    noBufHoop := none }

end Sys2Proof.Machine
end

