-- ==== Sys2Proof/Machine/StateSystem.lean ====
section
/-! DEFINITION. Machine/StateSystem.lean: the state of BOOT (chapter 14), UPD (chapter 15), KEY
(chapter 16), GLB and MEM (chapter 17), PSM (chapter 18) and LGW (chapter 19), with their reset
values. -/
namespace Sys2Proof.Machine

/-- Table 14-6. -/
inductive BootState where
  | init
  | wait
  | loading
  | failed
  | locked
  | running
  deriving DecidableEq, Repr

def BootState.code : BootState → Nat
  | .init => 0
  | .wait => 1
  | .loading => 2
  | .failed => 3
  | .locked => 4
  | .running => 5

/-- What the reset sequence of Table 14-2 has reached. -/
inductive ResetStep where
  /-- RESET_N is low: the count has not begun -/
  | held
  /-- step 1: rails in range and RESET_N high; the count runs -/
  | counting
  /-- step 2 done: internal reset released, straps sampled -/
  | released
  /-- step 3 done: PLLs locked -/
  | locked
  deriving DecidableEq, Repr

/-- BOOT: the download, the reset sequence and the squelch. -/
structure Boot where
  state : BootState
  busy : Bool
  err : Nat
  step : ResetStep
  memReady : Bool
  /-- image bytes fed since BEGIN -/
  image : List Byte
  /-- the header has been accepted: SIZE is known -/
  sized : Bool
  /-- the IMAGE key latched at BEGIN (Table 16-7): none where the 9640 is not keyed, empty once tamper
  has erased it -/
  imageKey : Option (List Byte)
  /-- bytes of the block being read: none when no PUSH is in progress -/
  pushing : Option Nat
  fwVersion : Nat
  fwStarted : Bool
  /-- strapped mode (Table 14-3) and the twin straps (R313) as sampled at step 2 -/
  mode : Nat
  twinEn : Bool
  twinSide : Bool
  cause : Nat
  causeRail : Nat
  /-- ports lifted, ascending -/
  lifted : List Nat
  /-- bring-up: elapsed cycle of the kick, whether WATCH was 1 then, and steps done -/
  seqAt : Option Nat
  seqPort : Option Nat
  stepsDone : Nat
  seqOver : Bool
  deriving DecidableEq, Repr

def Boot.reset : Boot :=
  { state := .init, busy := false, err := 0, step := .counting, memReady := false, image := [],
    sized := false, imageKey := none,
    pushing := none, fwVersion := 0, fwStarted := false, mode := 0, twinEn := false,
    twinSide := false, cause := 1, causeRail := 0, lifted := [], seqAt := none, seqPort := none,
    stepsDone := 0, seqOver := false }

/-! ### UPD (chapter 15) -/

/-- Table 15-1. -/
inductive ImageState where
  | empty
  | loading
  | failed
  | loaded
  | verified
  | scheduled
  deriving DecidableEq, Repr

def ImageState.code : ImageState → Nat
  | .empty => 0
  | .loading => 1
  | .failed => 2
  | .loaded => 3
  | .verified => 4
  | .scheduled => 5

/-- What a store request does (R404, R408, R413, R416). -/
inductive StoreKind where
  | write
  | format
  | read
  | reserve
  | confirm
  deriving DecidableEq, Repr

/-- Who asked for a store request: a descriptor, firmware, or UPD itself, which applies a journal
entry whose request has ended (R417). -/
inductive StoreUser where
  | host (track : Nat)
  | firmware
  | upd
  deriving DecidableEq, Repr

/-- A store request. -/
structure StoreJob where
  kind : StoreKind
  user : StoreUser
  record : Nat
  /-- a read of the current bank -/
  current : Bool
  length : Nat
  data : List Byte
  /-- keep steps completed, and the bank and generation fixed at the first -/
  steps : Nat
  started : Bool
  bank : Nat
  gen : Nat
  /-- elapsed cycle since which it waits for write permission -/
  waiting : Option Nat
  deriving DecidableEq, Repr

/-- A journal sector (R414). Its layout is not given; it holds what the rule names. -/
structure Journal where
  jseq : Word
  bank : Nat
  gen : Nat
  record : Nat
  payload : List Byte
  /-- the DONE word has been programmed -/
  isDone : Bool
  deriving DecidableEq, Repr

/-- The fallback copy of the firmware that an activation replaced (R406). -/
structure Fallback where
  imem : Table Byte
  dmem : Table Byte
  shared : Table Byte
  tcb : Table Byte
  /-- CCS_THR_CTRL and CCS_THR_EV words by BAR0 offset -/
  regs : Table Word
  /-- threads that were READY, RUNNING or WAITING at step 1 -/
  live : List Nat
  halted : List Nat
  /-- MAC_FW_RX_BASE by port -/
  rxBase : List (Nat × Word)
  deriving DecidableEq, Repr

/-- A trial: its confirm window and what it confirms. -/
structure Trial where
  /-- elapsed cycle at which the window began, its length in s, and whether a confirm has stopped it -/
  start : Nat
  secs : Nat
  stopped : Bool
  fw : Nat
  deriving DecidableEq, Repr

/-- An activation that is scheduled or under way. -/
structure Activation where
  track : Nat
  secs : Nat
  fw : Nat
  /-- boundary b, once it has arrived -/
  hoop : Option Hoop
  deriving DecidableEq, Repr

/-- UPD. -/
structure Upd where
  istate : ImageState
  image : List Byte
  size : Nat
  fw : Nat
  err : Nat
  verifying : Option Nat
  /-- the IMAGE key latched at the start of verification (Table 16-7) -/
  verifyKey : Option (List Byte)
  act : Option Activation
  trial : Option Trial
  reverting : Option Nat
  actHoop : Hoop
  fallback : Option Fallback
  jobs : List StoreJob
  storeReady : Bool
  fwStatus : Nat
  fwLength : Nat
  fwBusy : Bool
  deriving DecidableEq, Repr

def Upd.reset : Upd :=
  { istate := .empty, image := [], size := 0, fw := 0, err := 0, verifying := none, verifyKey := none, act := none,
    trial := none, reverting := none, actHoop := 0, fallback := none, jobs := [], storeReady := false,
    fwStatus := 0, fwLength := 0, fwBusy := false }

/-! ### The keep (R410) and KEY (chapter 16) -/

/-- The non-volatile memory: what device resets do not touch. -/
structure Keep where
  /-- programmed bytes of each 4 KiB sector; the rest of a sector is erased -/
  sectors : Table (List Byte)
  /-- the 32 journal sectors -/
  journal : Table (Option Journal)
  /-- store writes made since manufacture (R418) -/
  wear : Nat
  /-- the wrap cell (R431); none: empty -/
  wrap : Option (List Byte)
  deriving DecidableEq, Repr

/-- The keep of a new unit: nothing programmed. Whether its wrap cell holds a key the spec does not say: DESIGN
CHOICE (log 66), empty. -/
def Keep.reset : Keep := ⟨[], [], 0, none⟩

/-- A slot: its key, the empty list where it is empty, and its engine mask (R422). -/
structure KeySlot where
  key : List Byte
  mask : Nat
  unwrapFail : Bool
  deriving DecidableEq, Repr

def KeySlot.reset : KeySlot := ⟨[], 0, false⟩

/-- A running KEY command. -/
structure KeyJob where
  op : Nat
  slot : Nat
  /-- it runs the steps of R432 -/
  persist : Bool
  /-- RESULT of a command that ends without keep steps -/
  result : Nat
  key : List Byte
  mask : Nat
  resp : List Byte
  waiting : Option Nat
  deriving DecidableEq, Repr

/-- KEY. -/
structure Key where
  slots : Table KeySlot
  adminEn : Bool
  tamperLow : Bool
  loaded : Bool
  job : Option KeyJob
  result : Nat
  stage : Nat
  nonce : List Byte
  resp : List Byte
  deriving DecidableEq, Repr

/-- KEY after a device reset. The level of the KEY_ADMIN_EN ball is the board's: DESIGN CHOICE (log 65), high. -/
def Key.reset : Key := ⟨[], true, false, false, none, 0, 0, [], []⟩

/-! ### GLB, MEM, PSM, LGW -/

/-- GLB and MEM (chapter 17). -/
structure Glb where
  /-- the clock whose loss has halted the unit (R442) -/
  halted : Option Nat
  /-- address of the last uncorrectable word -/
  eccAddr : Nat
  deriving DecidableEq, Repr

def Glb.reset : Glb := ⟨none, 0⟩

/-- PSM (chapter 18). Temperatures are S8.8. -/
structure Psm where
  writeOk : Bool
  /-- bit n − 1: rail n below its refuse threshold; within its operating range -/
  refusing : Nat
  inRange : Nat
  tj : Int
  hbm : List Int
  mv : Table Nat
  /-- TEMP_HIGH may be posted -/
  armed : Bool
  deriving DecidableEq, Repr

def Psm.reset : Psm := ⟨false, 0, 0x1FF, 0, [0, 0], [], true⟩

/-- LGW (chapter 19). -/
structure Lgw where
  addr : Nat
  /-- bytes of the assembly latch, first written first -/
  latch : List Nat
  /-- ARG by motif, and staged commands: command and argument -/
  args : Table Word
  staged : Table (Nat × Word)
  /-- OPEN has counted in the window now open -/
  opened : Bool
  /-- the last word read -/
  snap : Nat
  width : Bool
  late : Bool
  badCmd : Bool
  dropped : Nat
  deriving DecidableEq, Repr

def Lgw.reset : Lgw := ⟨0, [], [], [], false, 0, false, false, false, 0⟩

end Sys2Proof.Machine
end

