-- ==== Sys2Proof/Machine/StateTwin.lean ====
section
/-! DEFINITION. Machine/StateTwin.lean: the state of TWN (chapter 12), with its reset value. -/
namespace Sys2Proof.Machine

/-- Table 12-2. -/
inductive TwinState where
  | cold
  | syncing
  | standby
  | active
  | degraded
  | faulted
  deriving DecidableEq, Repr

def TwinState.code : TwinState → Nat
  | .cold => 0
  | .syncing => 1
  | .standby => 2
  | .active => 3
  | .degraded => 4
  | .faulted => 5

/-- A twin message as it is received (Table 12-4), its tag verified. -/
structure TwinMsg where
  kind : Nat
  side : Bool
  state : Nat
  driving : Bool
  boot : Nat
  seq : Nat
  hoop : Hoop
  fragIndex : Nat
  fragCount : Nat
  arg : Nat
  payload : List Byte
  deriving DecidableEq, Repr

/-- A record of LIVE (R327), and the thread port whose RETURN it came from. -/
structure LiveRec where
  motif : Nat
  temp : Option Int
  foreign : Option (Nat × Nat)
  port : Nat
  deriving DecidableEq, Repr

/-- A message that waits for the partner's ACK: the sequence number the ACK will name, when it was
last sent, the descriptor it completes, and the frames' contents, to be sent again (R325). -/
structure Awaiting where
  track : Option Nat
  seq : Nat
  sentAt : Nat
  kind : Nat
  bodies : List (List Byte)
  deriving DecidableEq, Repr

/-- A forwarded descriptor that has joined a set hoop (R326). -/
structure Forwarded where
  seq : Nat
  set : Nat
  desc : Desc
  deriving DecidableEq, Repr

/-- A DATA object to send (Table 12-6). -/
structure OutObj where
  obj : Nat
  index : Nat
  /-- it is the state as it stands at e (R330) -/
  entry : Bool
  bytes : List Byte
  /-- hoop e of an entry object -/
  hoop : Hoop
  /-- a TWIN_MIRROR's tracker entry -/
  track : Option Nat
  deriving DecidableEq, Repr

/-- A received piece of a DATA object. -/
structure Piece where
  obj : Nat
  index : Nat
  entry : Bool
  off : Nat
  bytes : List Byte
  last : Bool
  /-- sequence number of the message that brought it -/
  seq : Nat
  deriving DecidableEq, Repr

/-- What the driving unit knows of the copy it has taken: READY has arrived, and the entry state has
been taken (R330). -/
structure CopyOut where
  ready : Bool
  entered : Bool
  deriving DecidableEq, Repr

/-- TWN. -/
structure Twn where
  state : TwinState
  driving : Bool
  /-- the role that takes effect at a boundary: state, driving, cause, TAKEOVER cause (0: none) -/
  planned : Option (TwinState × Bool × Nat × Nat)
  hbOut : Bool
  /-- elapsed cycle of the last toggle -/
  hbAt : Nat
  hbPresent : Bool
  /-- elapsed cycle of the last edge received -/
  hbLast : Nat
  /-- one edge has arrived since the heartbeat was lost -/
  hbOne : Bool
  /-- sequence number of the next message, since TWN_BOOT was written -/
  seq : Nat
  booted : Bool
  statusAt : Nat
  /-- the port that the next DATA fragment leaves by: false 36, true 37 -/
  dataPort : Bool
  linkUp : Bool
  linkLast : Nat
  /-- a handover has just left the partner in STANDBY, which no STATUS of it shows yet -/
  partnerStands : Bool
  /-- the partner's last STATUS -/
  partner : Nat
  partnerDriving : Bool
  partnerYield : Bool
  /-- CURRENT as the partner reported it, and as this unit judged it, by run, newest first -/
  partnerRuns : List (Hoop × Bool)
  currentRuns : List (Hoop × Bool)
  /-- BOOT × 2^56 + SEQ of the messages accepted -/
  rxSeen : List Nat
  /-- fragments of messages in reception, by first sequence number × 16 + TYPE -/
  frags : Table (List (Nat × List Byte))
  stepLost : Bool
  pendingCount : Nat
  /-- which of heartbeat (1) and link (2) were lost at the last decision point; 3: both; 0: neither -/
  lastLost : Nat
  /-- hoops begun in STANDBY, that of its entry the first (R334) -/
  standbyFor : Nat
  /-- hoop since which the partner has counted as STANDBY -/
  activeSince : Hoop
  sets : Hoop
  divergeHoop : Hoop
  divergePorts : Nat
  consecutive : Nat
  missing : Nat
  partnerDigests : List RunDigest
  /-- runs compared, newest first -/
  compared : List Hoop
  /-- own-ID hoop marks received in this hoop and in the last -/
  marksNow : Bool
  marksLast : Bool
  /-- thread ports with LINK = 1 throughout this hoop so far, and the last -/
  linkedNow : List Nat
  linkedLast : List Nat
  /-- RETURN effects gathered in this hoop, and those of earlier hoops that wait for their time -/
  gathered : List LiveRec
  liveQueue : List (Hoop × List LiveRec)
  /-- hoop in which LIVE was last applied -/
  liveAt : Option Hoop
  awaiting : List Awaiting
  /-- BUF_WRITEs, with their data, that are forwarded once the TWIN_MIRROR of their handle is done (R351) -/
  heldDescs : List (Nat × List Byte)
  /-- tracker entries of the open window already forwarded -/
  sent : List Nat
  /-- status of forwarded descriptors to acknowledge, by sequence number -/
  acksDue : List (Nat × Nat)
  received : List Forwarded
  /-- the forwarded set that CLOSE has judged -/
  closed : Option EndState
  closedHoop : Option Hoop
  /-- run from which the standby drives after a RESIGN -/
  resign : Option Hoop
  copyOut : Option CopyOut
  /-- DATA objects still to send, and the offset within the first -/
  sendq : List OutObj
  sendOff : Nat
  /-- state copy in reception: elapsed cycle of entry to SYNCING, READY sent, pieces held, objects
  applied, and those of the entry state -/
  syncAt : Nat
  /-- elapsed cycle of boundary s, once SYNCING has met it (R331) -/
  syncFrom : Option Nat
  syncReady : Bool
  pieces : List Piece
  applied : List Nat
  entered : List Nat
  /-- forwarded messages behind the copy, or behind a busy part or handle, in order -/
  behind : List TwinMsg
  /-- boundary e, once the entry state has arrived -/
  entryAt : Option Hoop
  bytes : Nat
  ms : Nat
  retryAt : Option Nat
  /-- AUTO_SYNC is held off until TWIN_SYNC is issued (R334) -/
  noAuto : Bool
  /-- current handles (R329), and whether the run in progress reads only those -/
  current : List Nat
  runCurrent : Bool
  /-- PUBLISHes that count after the ingest deadline of a hoop (R328), and the hoop of the last deadline -/
  publishes : List (Hoop × Nat)
  frozenIn : Option Hoop
  passes : Nat
  failPart : Nat
  /-- hoops begun in the sampler pass under way; 0: none is (R336) -/
  passHoops : Nat
  /-- SAMPLER_RUN descriptors, and the pass ends each still waits for -/
  samplerJobs : List (Nat × Nat)
  /-- pass ends until R334's full pass is done -/
  suspect : Option Nat
  deriving DecidableEq, Repr

def Twn.reset : Twn :=
  { state := .cold, driving := false, planned := none, hbOut := false, hbAt := 0, hbPresent := false,
    hbLast := 0, hbOne := false, seq := 0, booted := false, statusAt := 0, dataPort := false,
    linkUp := false, linkLast := 0, partnerStands := false, partner := 0, partnerDriving := false, partnerYield := false,
    partnerRuns := [], currentRuns := [], rxSeen := [], frags := [], stepLost := false,
    pendingCount := 0, lastLost := 0, standbyFor := 0, activeSince := 0, sets := 0, divergeHoop := 0,
    divergePorts := 0, consecutive := 0, missing := 0, partnerDigests := [], compared := [],
    marksNow := false, marksLast := false, linkedNow := [], linkedLast := [], gathered := [],
    liveQueue := [], liveAt := none, awaiting := [], heldDescs := [], sent := [], acksDue := [], received := [],
    closed := none, closedHoop := none, resign := none, copyOut := none, sendq := [], sendOff := 0,
    syncAt := 0, syncFrom := none, syncReady := false, pieces := [], applied := [], entered := [], behind := [],
    entryAt := none, bytes := 0, ms := 0, retryAt := none, noAuto := false, current := [],
    runCurrent := false, publishes := [], frozenIn := none, passes := 0, failPart := 0, passHoops := 0,
    samplerJobs := [], suspect := none }

end Sys2Proof.Machine
end

