-- ==== Sys2Proof/Machine/State.lean ====
section
/-! DEFINITION. Machine/State.lean: the whole state of the 9640, the reasons a step can stop, and
the state right after a device reset (R383). -/
namespace Sys2Proof.Machine

/-- Why a step faults. -/
inductive Fault where
  /-- Raised by a host access to an address outside BAR0 (64 MiB) or BAR2 (4 GiB), which no BAR of
  the function claims (R37). Safe: the access does not reach the 9640. -/
  | outsideBar
  deriving DecidableEq, Repr

/-- Why a step is refused. -/
inductive Refusal where
  /-- Raised by Dispatch for a command whose meaning has not been written. Safe: the model stops. -/
  | notModelled (mnemonic : String)
  deriving DecidableEq, Repr

/-- The 9640. Numbered collections are tables in canonical form; `regs` holds the Set and Latch
fields of every BAR0 register by its offset. -/
structure State where
  /-- commands waiting, first in, first out -/
  pending : List Instr
  regs : Table Word
  /-- Latch fields raised in TCLK cycle `freshAt`: a clearing write of that cycle leaves them (R13) -/
  fresh : Table Word
  freshAt : Nat
  hif : Hif
  pcie : Pcie
  tim : Tim
  hoop : HoopGen
  win : Window
  cfg : Cfg
  ing : Ing
  lay : Lay
  /-- staging area of part 0 to 6 -/
  stages : Table Stage
  /-- parts being read back, by tracker entry: the copy named at the start (R199) -/
  reads : Table (List Byte)
  /-- package memory bytes that a control core stored and no object named in State holds (R354) -/
  package : Table Byte
  /-- the reads that name the copy which is not active now -/
  spareReads : List Nat
  /-- PRK_BAD_ENTRY and its like, by block number 8 to 11 -/
  badEntry : Table Word
  /-- STI_BAD_STEP -/
  badStep : Word
  col : Col
  run : Run
  /-- live fields of motif m -/
  live : Table Live
  sti : Sti
  egr : Egr
  mac : Table MacPort
  ccs : Ccs
  cvus : Table Cvu
  boot : Boot
  upd : Upd
  keep : Keep
  key : Key
  glb : Glb
  psm : Psm
  lgw : Lgw
  twn : Twn
  /-- posted writes to host memory and messages, oldest first: what left the 9640 (the model's own) -/
  out : List HostWrite
  /-- what the last reading command returned (the model's own) -/
  readValue : Nat
  /-- the next free value to take (the model's own) -/
  freeCount : Nat
  deriving DecidableEq, Repr

def State.reset : State :=
  { pending := [], regs := [], fresh := [], freshAt := 0, hif := Hif.reset, pcie := Pcie.reset, tim := Tim.reset,
    hoop := HoopGen.reset, win := Window.reset, cfg := Cfg.reset, ing := Ing.reset,
    lay := Lay.reset, stages := [], reads := [], package := [], spareReads := [], badEntry := [], badStep := 0xFFFFFFFF, col := Col.reset,
    run := Run.reset, live := [], sti := Sti.reset, egr := Egr.reset, mac := [], ccs := Ccs.reset, cvus := [], boot := Boot.reset,
    upd := Upd.reset, keep := Keep.reset, key := Key.reset, glb := Glb.reset, psm := Psm.reset,
    lgw := Lgw.reset, twn := Twn.reset, out := [], readValue := 0,
    freeCount := 0 }

end Sys2Proof.Machine
end

