-- ==== Sys2Proof/Machine/Ops.lean ====
section
/-! DEFINITION. Machine/Ops.lean: the named operations every block shares: registers (R12 to R14),
device and elapsed time (R82, R84), notices to the host and to firmware (R59, R61, R368, R372),
the tracker of descriptors in flight (R58, R67, R73) and interrupts (R79, R80). -/
namespace Sys2Proof.Machine

/-! ### Outcomes -/

/-- A command whose effect the spec gives: it completes in the state `s`. -/
def done (s : State) : Host.Outcome State Fault Refusal := .next s

/-! ### Registers -/

/-- The stored fields of the register at BAR0 offset `a`. -/
def reg (s : State) (a : Nat) : Word := tget regReset s.regs a

/-- The register at `a` with its stored fields replaced. -/
def setReg (s : State) (a : Nat) (v : Word) : State := { s with regs := tput regReset s.regs a v }

/-- Field `hi:lo` of the register at `a`. -/
def regFld (s : State) (a hi lo : Nat) : Nat := fld (reg s a) hi lo

/-- Bit `k` of the register at `a`. -/
def regBit (s : State) (a k : Nat) : Bool := bitW (reg s a) k

/-- The register at `a` with field `hi:lo` replaced. -/
def setRegFld (s : State) (a hi lo v : Nat) : State := setReg s a (setFld (reg s a) hi lo v)

/-- What the Latch fields of the register at `a` gained in the present TCLK cycle (R13). -/
def freshOf (s : State) (a : Nat) : Word :=
  if s.freshAt = s.tim.cyc then tget (fun _ => 0) s.fresh a else 0

/-- The register at `a` takes `v` by a Latch event, `gained` being the event's own share (R13). Before
TCLK runs no two commands are known to meet in a cycle, and no share is kept. -/
def setLatch (s : State) (a : Nat) (v gained : Word) : State :=
  let s := setReg s a v
  if s.tim.running then
    { s with fresh := tput (fun _ => 0) (if s.freshAt = s.tim.cyc then s.fresh else []) a gained
             freshAt := s.tim.cyc }
  else s

/-- A Latch event at bit `k` of the register at `a` (R12). -/
def latch (s : State) (a k : Nat) : State :=
  setLatch s a (reg s a ||| w32 (2 ^ k)) (freshOf s a ||| w32 (2 ^ k))

/-- Field `hi:lo` of `w` raised by `n`, saturating. -/
def raised (w : Word) (hi lo n : Nat) : Word := setFld w hi lo (min (fld w hi lo + n) (2 ^ (hi + 1 - lo) - 1))

/-- A counting Latch field `hi:lo` raised by `n`, saturating. -/
def latchCount (s : State) (a hi lo n : Nat) : State :=
  setLatch s a (raised (reg s a) hi lo n) (raised (freshOf s a) hi lo n)

/-- The value the stored fields of a register take when `v` is written over `old`: Set fields are
stored, a Latch bit written 1 is cleared, and a Latch count is cleared by its lowest bit (R12, R13), to
what the events of the same cycle, `fresh`, leave; reserved, Live and Fixed bits are not changed (R14). -/
def written (r : RegRow) (old fresh v : Word) : Word :=
  let m := w32 r.set
  let kept := (old &&& ~~~m) ||| (v &&& m)
  let kept := kept &&& ~~~(v &&& w32 r.latch &&& ~~~fresh)
  r.counts.foldl (fun w c => if bitW v c.2 then setFld w c.1 c.2 (fld fresh c.1 c.2) else w) kept

/-- A write with no behaviour of its own: it stores Set fields and clears Latch fields (R12). An
offset where no register is implemented takes no effect (R39). -/
def plainWrite (s : State) (a : Nat) (v : Word) : State :=
  match regRow a with
  | some r => setReg s a (written r (reg s a) (freshOf s a) v)
  | none => s

/-! ### Free values -/

/-- The next free value, and the state with it taken. -/
def takeFree (s : State) : Nat × State :=
  (Config.freeValue s.freeCount, { s with freeCount := s.freeCount + 1 })

/-! ### Device time (R82, R84) -/

/-- One second in units of 2^-32 ns. -/
def secUnits : Nat := 1000000000 * 2 ^ 32

/-- Device time wraps after this many quarter-ns: 2^48 s. -/
def timeWrap : Nat := 2 ^ 48 * 4000000000

/-- The increment of one TCLK cycle at TIM_RATE `rate` (R84, R85), in units of 2^-32 ns. -/
def tclkInc (rate : Int) : Nat := ((4 * 2 ^ 32 : Int) + rate).toNat

/-- What a slew block moves: at most `speed` quarter-ns toward zero remainder (R84, R86). -/
def slewPart (left : Int) (speed : Nat) : Int :=
  if 0 < left then min left speed else -(min (-left) speed)

/-- One TCLK cycle of device time, as R84's pseudocode. -/
def tclkCycle (rate : Int) (speed : Nat) (t : Tim) : Tim :=
  if t.running then
    let acc : Int := t.acc + tclkInc rate
    let blk := t.blk + 1
    let d := if blk = 1024 then slewPart t.left speed else 0
    let acc := (acc + d * 2 ^ 30).toNat
    { t with
      acc := if secUnits ≤ acc then acc - secUnits else acc
      sec := if secUnits ≤ acc then (t.sec + 1) % 2 ^ 48 else t.sec
      left := t.left - d
      blk := if blk = 1024 then 0 else blk
      cyc := t.cyc + 1 }
  else t

/-- `n` TCLK cycles of device time in one step. -/
def advance (rate : Int) (speed n : Nat) (t : Tim) : Tim :=
  if t.running then
    let d := slewPart t.left (speed * ((t.blk + n) / 1024))
    let acc := ((t.acc + n * tclkInc rate : Int) + d * 2 ^ 30).toNat
    { t with
      acc := acc % secUnits
      sec := (t.sec + acc / secUnits) % 2 ^ 48
      left := t.left - d
      blk := (t.blk + n) % 1024
      cyc := t.cyc + n }
  else t

/-- TIM_RATE as a signed value (R85). -/
def timRate (s : State) : Int := sext 32 (reg s TIM_RATE).toNat

/-- The slew speed in force: SPEED, where 0 acts as 1 (TIM_CTRL). -/
def timSpeed (s : State) : Nat := max (regFld s TIM_CTRL 3 0) 1

/-- NSQ of a time: quarter-ns within the second (R83, R88). -/
def Tim.nsq (t : Tim) : Nat := t.acc / 2 ^ 30

/-- Device time in quarter-ns (Table 4-2). -/
def Tim.q (t : Tim) : Nat := t.sec * 4000000000 + t.nsq

/-- Elapsed TCLK time in quarter-ns: 16 per cycle. -/
def Tim.elapsedQ (t : Tim) : Nat := t.cyc * 16

/-- Whether device time `dev` has reached `target`, on times modulo 2^48 s (R82). -/
def reached (dev target : Nat) : Bool :=
  decide ((dev + timeWrap - target % timeWrap) % timeWrap < timeWrap / 2)

/-- A time moved by a signed number of quarter-ns, modulo 2^48 s. -/
def moveQ (t : Nat) (d : Int) : Nat := ((t + d) % (timeWrap : Int)).toNat

/-- The least number of cycles in `lo..hi` after which device time has reached `target`, by halving. -/
def cyclesSearch (rate : Int) (speed : Nat) (t : Tim) (target : Nat) : Nat → Nat → Nat → Nat
  | 0, lo, _ => lo
  | fuel + 1, lo, hi =>
    if hi ≤ lo then lo
    else
      let mid := (lo + hi) / 2
      if reached (advance rate speed mid t).q target then cyclesSearch rate speed t target fuel lo mid
      else cyclesSearch rate speed t target fuel (mid + 1) hi

/-- Cycles until device time first reaches `target`; 0 where it already has. -/
def cyclesTo (s : State) (target : Nat) : Nat :=
  if reached s.tim.q target then 0
  else cyclesSearch (timRate s) (timSpeed s) s.tim target 96 0
    ((target % timeWrap + timeWrap - s.tim.q) % timeWrap * 2 + 4096)

/-! ### HIF settings -/

def sqEnabled (s : State) (n : Nat) : Bool := regBit s (HIF_SQ_CTRL n) 31
def sqControl (s : State) (n : Nat) : Bool := regBit s (HIF_SQ_CTRL n) 30
def sqMotif (s : State) (n : Nat) : Bool := regBit s (HIF_SQ_CTRL n) 29
/-- The completion ring a submission ring is bound to. -/
def sqCq (s : State) (n : Nat) : Nat := regFld s (HIF_SQ_CTRL n) 21 16
/-- Entries of submission ring `n` (R43). -/
def sqSize (s : State) (n : Nat) : Nat := 2 ^ regFld s (HIF_SQ_CTRL n) 4 0
def cqEnabled (s : State) (m : Nat) : Bool := regBit s (HIF_CQ_CTRL m) 31
/-- KIND = 1: the notice ring (R59). -/
def cqNotice (s : State) (m : Nat) : Bool := regBit s (HIF_CQ_CTRL m) 30
def cqVector (s : State) (m : Nat) : Nat := regFld s (HIF_CQ_CTRL m) 21 16
def cqLog (s : State) (m : Nat) : Nat := regFld s (HIF_CQ_CTRL m) 4 0

/-- The descriptor engine runs: HIF_EN is 1, firmware runs and package memory is ready (R394). -/
def engineRuns (s : State) : Bool :=
  regBit s HIF_CTRL 0 && decide (s.boot.state = .running) && s.boot.memReady

/-- The internal reset is released (step 2 of Table 14-2). -/
def resetReleased (s : State) : Bool := decide (s.boot.step = .released ∨ s.boot.step = .locked)

/-- HEAD(n), TAIL(n), RELEASE(m) and a ring's producer count. -/
def headOf (s : State) (n : Nat) : Word := tget (fun _ => 0) s.hif.head n
def tailOf (s : State) (n : Nat) : Word := tget (fun _ => 0) s.hif.tail n
def releaseOf (s : State) (m : Nat) : Word := tget (fun _ => 0) s.hif.release m
def prodOf (s : State) (m : Nat) : Word := tget (fun _ => 0) s.hif.prod m

/-- The 64-bit address held in a register pair. -/
def addrPair (s : State) (lo hi : Nat) : Nat := (reg s lo).toNat + (reg s hi).toNat * 2 ^ 32

/-- Host address of entry `p` of completion ring `m`: at byte offset (p mod 2^L) × 16 of its base (R43). -/
def cqAddr (s : State) (m : Nat) (p : Word) : Nat :=
  addrPair s (HIF_CQ_BASE_LO m) (HIF_CQ_BASE_HI m) + p.toNat % 2 ^ cqLog s m * 16

/-- Host address of slot `p` of submission ring `n`: at byte offset (p mod 2^L) × 64 of its base (R43). -/
def sqAddr (s : State) (n : Nat) (p : Word) : Nat :=
  addrPair s (HIF_SQ_BASE_LO n) (HIF_SQ_BASE_HI n) + p.toNat % sqSize s n * 64

/-- Completion ring `m` has a free entry (R49). -/
def cqRoom (s : State) (m : Nat) : Bool :=
  decide ((prodOf s m - releaseOf s m).toNat < 2 ^ cqLog s m)

/-- The notice ring: the enabled completion ring of KIND 1, if any (R59). -/
def noticeRing (s : State) : Option Nat :=
  (List.range 64).find? fun m => cqEnabled s m && cqNotice s m

/-! ### Interrupts (R79, R80) -/

def vecOf (s : State) (v : Nat) : Vec := tget (fun _ => Vec.reset) s.hif.vecs v

def setVec (s : State) (v : Nat) (x : Vec) : State :=
  { s with hif := { s.hif with vecs := tput (fun _ => Vec.reset) s.hif.vecs v x } }

/-- The vector's message is due: it is sent, or its pending bit is set while it is masked; count
and timer start again. -/
def signalVector (s : State) (v : Nat) : State :=
  if regBit s (MSIX_CTRL v) 0 then setVec s v ⟨0, false, 0, true⟩
  else { setVec s v ⟨0, false, 0, (vecOf s v).pending⟩ with out := s.out ++ [.message v] }

/-- A record written to a ring of vector `v` (R79). DESIGN CHOICE (log 51): a write of HIF_VEC_MOD that
lowers COUNT to the running count or below sends nothing of itself; the next record does. -/
def countRecord (s : State) (v : Nat) (urgent : Bool) : State :=
  let x := vecOf s v
  let n := x.count + 1
  if urgent || decide (max (regFld s (HIF_VEC_MOD v) 7 0) 1 ≤ n) then signalVector s v
  else setVec s v
    { x with count := n, timerRunning := true,
             timerStart := if x.timerRunning then x.timerStart else s.tim.cyc }

/-! ### Notices to the host (R59, R61) -/

/-- PHASE of the record at producer count `p` of a ring of 2^`l` entries (R57). -/
def phaseBit (p : Word) (l : Nat) : Nat := b2n (!bitW p l)

/-- One notice record written to the notice ring `m`. -/
def writeNotice (s : State) (m : Nat) (n : Notice) : State :=
  let p := prodOf s m
  let s := { s with
    out := s.out ++ [.notice m p.toNat (cqAddr s m p) (n.bytes (phaseBit p (cqLog s m) * 128 + 64))]
    hif := { s.hif with prod := tput (fun _ => 0) s.hif.prod m (p + 1) } }
  countRecord s (cqVector s m) false

/-- NOTICES_LOST, when notices were dropped and a record can be written now (R61). DESIGN CHOICE (log 52):
its count is of the notices dropped since the last NOTICES_LOST, apart from HIF_CQ_STAT.LOST. -/
def flushLost (s : State) : State :=
  match noticeRing s with
  | some m =>
    if s.hif.noticesLost ≠ 0 && engineRuns s && cqRoom s m then
      writeNotice { s with hif := { s.hif with noticesLost := 0 } } m
        ⟨0x0103, 0, s.hoop.number, s.hif.noticesLost⟩
    else s
  | none => s

/-- The host's copy of a notice: written, or dropped and counted in LOST. -/
def hostNotice (s : State) (n : Notice) : State :=
  let s := flushLost s
  match noticeRing s with
  | some m =>
    if engineRuns s && cqRoom s m then writeNotice s m n
    else
      let s := latchCount s (HIF_CQ_STAT m) 15 0 1
      { s with hif := { s.hif with noticesLost := s.hif.noticesLost + 1 } }
  | none => s

/-! ### Notices to firmware (R367, R368, R372) -/

def outboxOf (s : State) (src : Nat) : Outbox := tget (fun _ => Outbox.reset) s.ccs.outboxes src

def setOutbox (s : State) (src : Nat) (o : Outbox) : State :=
  { s with ccs := { s.ccs with outboxes := tput (fun _ => Outbox.reset) s.ccs.outboxes src o } }

def nqEnabled (s : State) (q : Nat) : Bool := regBit s (NQ_CTRL q) 31

/-- A notice as the four words of a queue packet (R367). -/
def Notice.words (n : Notice) : List Word :=
  [w32 (n.code + n.inst * 65536 + 0x43000000), n.hoop, w32 n.detail, w32 (n.detail / 2 ^ 32)]

/-- A packet placed in its source's outbox, behind the NOTICES_DROPPED that is due (R372). A packet
for a queue that is not enabled is discarded and counted; one that finds the outbox full is dropped
and counted. -/
def placePacket (s : State) (src : Nat) (p : Packet) : State :=
  if !nqEnabled s p.queue then latchCount s (NQ_CNT p.queue) 15 0 1
  else
    let o := outboxOf s src
    let o := if o.dropped ≠ 0 ∧ o.packets.length < 4 then
        { o with packets := o.packets ++
                   [⟨o.droppedQueue, (Notice.mk 0x0E01 src s.hoop.number o.dropped).words⟩],
                 dropped := 0 }
      else o
    if o.packets.length < 4 then setOutbox s src { o with packets := o.packets ++ [p] }
    else latchCount (setOutbox s src { o with dropped := o.dropped + 1, droppedQueue := p.queue })
      (CCS_SRC_DROP src) 15 0 1

/-- The register whose bits 23:20 name the notice queue of a posting source (R368). -/
def queueReg (src : Nat) : Option Nat :=
  if 64 ≤ src then some (MAC_CTRL (src - 64)) else
  match src with
  | 0 => some GLB_CTRL
  | 2 => some BOOT_SQUELCH
  | 3 => some PSM_CTRL
  | 4 => some TIM_CTRL
  | 5 => some HOOP_CTRL
  | 6 => some ING_CTRL
  | 7 => some LAY_CTRL
  | 8 => some PRK_CTRL
  | 9 => some COL_CTRL
  | 10 => some STI_CTRL
  | 11 => some EGR_CTRL
  | 13 => some TWN_CTRL
  | 14 => some CCS_CTRL
  | 16 => some KEY_CTRL
  | 17 => some UPD_CTRL
  | 19 => some GLB_CTRL
  | _ => none

/-- The notice queue that a source's firmware notices go to. -/
def sourceQueue (s : State) (src : Nat) : Nat :=
  match queueReg src with
  | some a => regFld s a 23 20
  | none => Config.blockQueue src % 16

/-- Firmware's copy of a notice from posting source `src`. -/
def fwNotice (s : State) (src : Nat) (n : Notice) : State :=
  placePacket s src ⟨sourceQueue s src, n.words⟩

/-- The posting source of a notice: its block number, or 64 + p for MAC port p (R368). -/
def noticeSource (n : Notice) : Nat := if n.code / 256 = 12 then 64 + n.inst else n.code / 256

/-- A notice raised now: HOOP is the hoop current in TCLK (Table 2-8). -/
def notice (s : State) (code inst detail : Nat) (host fw : Bool) : State :=
  let n : Notice := ⟨code, inst, s.hoop.number, detail⟩
  let s := if host then hostNotice s n else s
  if fw then fwNotice s (noticeSource n) n else s

/-- A notice delivered to the host and to firmware. -/
def noticeBoth (s : State) (code inst detail : Nat) : State := notice s code inst detail true true

/-! ### Time passing -/

/-- `n` TCLK cycles pass; a slew that ends posts SLEW_DONE (R86). -/
def tick (n : Nat) (s : State) : State :=
  let t := advance (timRate s) (timSpeed s) n s.tim
  let s' := { s with tim := t }
  if s.tim.left ≠ 0 ∧ t.left = 0 then notice s' 0x0409 0 0 false true else s'

/-- Time passes until device time first reaches `target` (quarter-ns); none where it already has. -/
def runTo (target : Nat) (s : State) : State := tick (cyclesTo s target) s

/-- Time passes until `cyc` elapsed cycles have been counted; none where they already have. -/
def runToCycle (cyc : Nat) (s : State) : State := tick (cyc - s.tim.cyc) s

/-! ### The tracker (R58, R67, R73) -/

/-- The ring number of tracker entries that came from the twin partner: no submission ring (R326). -/
abbrev twinRing : Nat := 64

/-- Descriptors in flight outside the control slots (R67, R68). -/
def inFlight (s : State) : Nat :=
  (s.hif.track.filter fun t => !t.control && !t.orphan && decide (t.ring < 64)).length

/-- Control-ring descriptors in flight. -/
def inFlightControl (s : State) : Nat :=
  (s.hif.track.filter fun t => t.control && !t.orphan && decide (t.ring < 64)).length

/-- Descriptors of ring `n` in flight. -/
def inFlightRing (s : State) (n : Nat) : Nat :=
  (s.hif.track.filter fun t => decide (t.ring = n) && !t.orphan).length

def findTrack (s : State) (id : Nat) : Option Track := s.hif.track.find? fun t => decide (t.id = id)

/-- The tracker entry `id` changed. -/
def modTrack (s : State) (id : Nat) (f : Track → Track) : State :=
  { s with hif := { s.hif with track := modFirst (fun t => decide (t.id = id)) f s.hif.track } }

/-- A descriptor's status is decided (R56): it counts as completed for FENCE and ORDERED. -/
def Phase.finished : Phase → Bool
  | .done .. => true
  | .awaitAck .. => true
  | _ => false

/-- All that the descriptor does is done. -/
def Phase.settled : Phase → Bool
  | .ordered .. => true
  | p => p.finished

/-- What follows an entry's leaving the tracker: the re-arming of INFLIGHT_LIMIT (R69), and
RING_DRAINED for a disabled ring with nothing left in flight (R73). -/
def afterLeave (s : State) (ring : Nat) : State :=
  let s := if inFlight s ≤ 448 then { s with hif := { s.hif with limitArmed := true } } else s
  if tget (fun _ => false) s.hif.draining ring && decide (inFlightRing s ring = 0) then
    notice { s with hif := { s.hif with draining := tput (fun _ => false) s.hif.draining ring false } }
      0x0105 ring 0 true false
  else s

/-- The entry `id` leaves the tracker. -/
def dropTrack (s : State) (id : Nat) : State :=
  match findTrack s id with
  | some t =>
    afterLeave { s with hif := { s.hif with track := s.hif.track.filter fun x => decide (x.id ≠ id) } }
      t.ring
  | none => s

/-- One descriptor's status is decided. One with SILENT that ends OK leaves no record (R58), nor does
one that R78 discarded; one that its twin partner has not acknowledged waits for that (R325). One that the partner forwarded
is acknowledged with its status (R326). -/
def decideOne (s : State) (id st r0 r1 : Nat) (hoop : Hoop) : State :=
  match findTrack s id with
  | some t =>
    let s := { s with hif := { s.hif with nextFin := s.hif.nextFin + 1 } }
    let fin := s.hif.nextFin
    match t.origin with
    | .twin seq => dropTrack { s with twn := { s.twn with acksDue := s.twn.acksDue ++ [(seq, st)] } } id
    | _ =>
    if t.orphan then dropTrack s id
    else if t.fwd then
      modTrack s id fun t => { t with phase := .awaitAck st r0 r1 hoop, past := true, fin := fin }
    else if Desc.silent t.desc && decide (st = 0) then dropTrack s id
    else modTrack s id fun t => { t with phase := .done st r0 r1 hoop, past := true, fin := fin }
  | none => s

/-- Every descriptor of the ring before entry `id` has completed (R56). -/
def earlierDone (s : State) (ring id : Nat) : Bool :=
  s.hif.track.all fun t => decide (t.ring ≠ ring) || decide (id ≤ t.id) || t.phase.finished || t.orphan

/-- A FENCE that has started completes OK once every earlier descriptor on its ring has completed. -/
def settleFences (s : State) (ring : Nat) : State :=
  (s.hif.track.filter fun t => decide (t.ring = ring ∧ t.desc.opcode = 0x61)).foldl (fun s f =>
    match findTrack s f.id with
    | some t =>
      if decide (t.phase = .running) && earlierDone s ring t.id then
        decideOne s t.id 0 0 0 s.hoop.number
      else s
    | none => s) s

/-- The opcodes that move data to or from the object they name (Table 2-6). -/
def movesData (op : Nat) : Bool := [0x02, 0x03, 0x11, 0x12, 0x23, 0x30, 0x31, 0x40, 0x44, 0x45, 0x72].contains op

/-- The data of entry `t` is on the move, or its end waits for its turn; a posted buffer moves none before a
frame comes. -/
def moving (t : Track) : Bool :=
  movesData t.desc.opcode && match t.phase with
    | .running => t.past || decide (t.desc.opcode ≠ 0x31)
    | .ordered .. => true
    | _ => false

/-- Entry `t` finishes only after an earlier one of its ring that moves data of the same object (R64). -/
def mustFollow (s : State) (t : Track) : Bool :=
  moving t && decide (t.ring < 64) && !t.orphan && s.hif.track.any fun u =>
    decide (u.ring = t.ring ∧ u.id < t.id ∧ u.desc.opcode = t.desc.opcode ∧ u.desc.object = t.desc.object) &&
      moving u && !u.orphan

/-- Entry `id`, whose data has moved, finishes if it is its turn. -/
def settleOne (s : State) (id : Nat) : State :=
  match findTrack s id with
  | some t =>
    match t.phase with
    | .ordered st r0 r1 => if mustFollow s t then s else decideOne s id st r0 r1 s.hoop.number
    | _ => s
  | none => s

/-- What a decided status lets finish on its ring: moves of data that waited for their turn, in ring order,
then FENCEs. -/
def settleRing (s : State) (ring : Nat) : State :=
  settleFences (((s.hif.track.filter fun t => decide (t.ring = ring)).map (·.id)).foldl settleOne s) ring

/-- The descriptor `id` finishes with its status, results and the hoop of its record. -/
def finishAt (s : State) (id st r0 r1 : Nat) (hoop : Hoop) : State :=
  match findTrack s id with
  | some t =>
    if mustFollow s t then modTrack s id fun t => { t with phase := .ordered st r0 r1, past := true }
    else settleRing (decideOne s id st r0 r1 hoop) t.ring
  | none => s

/-- The descriptor finishes in the current hoop (Table 2-7). -/
def finish (s : State) (id st r0 r1 : Nat) : State := finishAt s id st r0 r1 s.hoop.number

/-- The descriptor is handed to its block, next in the order of hand-overs (R65). -/
def handOver (s : State) (id : Nat) : State :=
  let n := s.hif.nextHanded
  modTrack { s with hif := { s.hif with nextHanded := n + 1 } } id fun t => { t with phase := .queued, handed := n }

/-- The descriptor passes its point of no return and is under way. -/
def begin (s : State) (id : Nat) : State :=
  modTrack s id fun t => { t with phase := .running, past := true }

/-- The descriptor is under way, before its point of no return. -/
def running (s : State) (id : Nat) : State := modTrack s id fun t => { t with phase := .running }

/-- The entry with property `p` that waits in its block and was handed over first (R65). -/
def nextQueued (s : State) (p : Track → Bool) : Option Track :=
  (s.hif.track.filter fun t => decide (t.phase = .queued) && p t).foldl (fun best t => match best with
    | some b => if t.handed < b.handed then some t else some b
    | none => some t) none

/-- The oldest descriptor of ring `n` with tag `tag` that is under way past its point of no return. -/
def findJob (s : State) (n tag : Nat) : Option Track :=
  s.hif.track.find? fun t =>
    decide (t.ring = n) && decide (t.desc.tag = tag) && decide (t.phase = .running) && t.past

/-! ### The twin pair (R325, R327) -/

/-- The pair is joined: the non-driving unit is SYNCING or STANDBY and the twin link is up. -/
def pairJoined (s : State) : Bool :=
  s.boot.twinEn && s.twn.linkUp &&
    (if s.twn.driving then decide (s.twn.partner = 1 ∨ s.twn.partner = 2) || s.twn.partnerStands
     else decide (s.twn.state = .syncing ∨ s.twn.state = .standby))

/-! ### Status codes (Table 2-9 and the blocks' own) -/

abbrev stOk : Nat := 0x00
abbrev stLate : Nat := 0x01
abbrev stAborted : Nat := 0x02
abbrev stTooLate : Nat := 0x03
abbrev stFlushed : Nat := 0x04
abbrev stRetiring : Nat := 0x05
abbrev stNoSupply : Nat := 0x06
abbrev stTsLost : Nat := 0x07
abbrev stBad : Nat := 0x08
abbrev stAuth : Nat := 0x09
abbrev stNotFound : Nat := 0x0A
abbrev stPoisoned : Nat := 0x0B
abbrev stLength : Nat := 0x0C
abbrev stRate : Nat := 0x0D
abbrev stState : Nat := 0x0E
abbrev stDma : Nat := 0x20
abbrev stFormat : Nat := 0x28
abbrev stPoolFull : Nat := 0x30
abbrev stInvalid : Nat := 0x38
abbrev stOffset : Nat := 0x39

end Sys2Proof.Machine
end

