-- ==== Sys2Proof/Machine/Ccs.lean ====
section
/-! DEFINITION. Machine/Ccs.lean: the thread scheduler, the core-local port, notice queues and
observability (chapter 13), and the meanings of their commands. -/
namespace Sys2Proof.Machine

/-! ### Threads, cores and ready lists (R357 to R361) -/

def threadOf (s : State) (t : Nat) : Thread := tget (fun _ => Thread.reset) s.ccs.threads t
def setThread (s : State) (t : Nat) (x : Thread) : State :=
  { s with ccs := { s.ccs with threads := tput (fun _ => Thread.reset) s.ccs.threads t x } }
def coreOf (s : State) (c : Nat) : CoreUnit := tget (fun _ => CoreUnit.reset) s.ccs.cores c
def setCore (s : State) (c : Nat) (x : CoreUnit) : State :=
  { s with ccs := { s.ccs with cores := tput (fun _ => CoreUnit.reset) s.ccs.cores c x } }
def listOf (s : State) (p : Nat) : List Nat := tget (fun _ => []) s.ccs.readyLists p
def setList (s : State) (p : Nat) (l : List Nat) : State :=
  { s with ccs := { s.ccs with readyLists := tput (fun _ => []) s.ccs.readyLists p l } }

/-- The TCB byte at `a` (R357). -/
def tcbByte (s : State) (a : Nat) : Byte := tget (fun _ => 0) s.ccs.tcb a

/-- The saved pc of thread `t`: bytes 0 to 3 of its TCB. -/
def savedPc (s : State) (t : Nat) : Nat :=
  leNat (tgetList (fun _ => (0 : Byte)) s.ccs.tcb (128 * t) 4)

/-- Affinity in force for a thread: 0 acts as 0xFF (R359). -/
def affinityOf (s : State) (t : Nat) : Nat :=
  let a := regFld s (CCS_THR_CTRL t) 15 8
  if a = 0 then 0xFF else a

/-- The TCB of thread `t`, as dispatch loads it (R357). -/
def loadContext (s : State) (t : Nat) : List Byte := tgetList (fun _ => (0 : Byte)) s.ccs.tcb (128 * t) 128

/-- The scheduler saves the registers and pc of core `c` into the TCB of thread `t`, which leaves it (R357).
What firmware made of the values loaded is its own execution: free values (log 5). -/
def saveContext (s : State) (c t : Nat) : State :=
  let bytes := (List.range 128).map fun i =>
    BitVec.ofNat 8 (Config.coreContext i (((coreOf s c).context[i]?).getD 0).toNat s.freeCount)
  { s with ccs := { s.ccs with tcb := tputList (fun _ => 0) s.ccs.tcb (128 * t) bytes }
           freeCount := s.freeCount + 1 }

/-- A thread placed on the ready list of its priority, at the head or the tail; PRIO and AFFINITY
written since then take effect now (R359). -/
def makeReady (s : State) (t : Nat) (atHead : Bool) : State :=
  let p := regFld s (CCS_THR_CTRL t) 20 16
  let s := setThread s t
    { threadOf s t with state := .ready, waitMask := 0, readyAt := s.tim.cyc, prio := p,
                        affinity := affinityOf s t }
  setList s p (if atHead then t :: listOf s p else listOf s p ++ [t])

/-- The READY thread that core `c` takes: its affinity includes `c`, its priority is highest, and it
has stood longest on its list (R360). -/
def nextThread (s : State) (c : Nat) : Option Nat :=
  (List.range 32).reverse.findSome? fun p =>
    (listOf s p).find? fun t => bitOf (threadOf s t).affinity c

def waitOf (s : State) (p : Nat) : WaitStat := tget (fun _ => WaitStat.reset) s.ccs.waits p

/-- Thread `t` starts on core `c`; its wait counts in the open observation window (R376). -/
def runThread (s : State) (c t : Nat) : State :=
  let x := threadOf s t
  let w := s.tim.cyc - x.readyAt
  let st := waitOf s x.prio
  let s := setList s x.prio ((listOf s x.prio).filter fun u => decide (u ≠ t))
  let s := { s with ccs := { s.ccs with
    dispatches := s.ccs.dispatches + 1
    waits := tput (fun _ => WaitStat.reset) s.ccs.waits x.prio
      { st with count := st.count + 1, total := st.total + w, longest := max st.longest w } } }
  setCore (setThread s t { x with state := .running, core := c }) c
    { coreOf s c with thread := some t, since := s.tim.cyc, context := loadContext s t }

/-- The cores execute: firmware has been started (R392). -/
def coresRun (s : State) : Bool := s.boot.fwStarted

/-- Core `c`, if it is free, takes the thread R360 gives it. -/
def dispatchCore (s : State) (c : Nat) : State :=
  if coresRun s && decide ((coreOf s c).thread = none) then
    match nextThread s c with
    | some t => runThread s c t
    | none => s
  else s

/-- Every free core takes its thread, the lower-numbered core first (R360). -/
def dispatch (s : State) : State := (List.range 8).foldl dispatchCore s

/-- The thread on core `c` leaves it with its context saved. -/
def leaveCore (s : State) (c : Nat) : State :=
  match (coreOf s c).thread with
  | some t =>
    let x := coreOf s c
    saveContext (setCore s c { x with thread := none, busy := x.busy + (s.tim.cyc - x.since) }) c t
  | none => s

/-- A START kick (Table 13-2). -/
def startThread (s : State) (t : Nat) : State :=
  match (threadOf s t).state with
  | .dormant => dispatch (makeReady s t false)
  | .halted => dispatch (makeReady s t false)
  | _ => s

/-- A HALT kick: any thread but a DORMANT one is HALTED (Table 13-2). -/
def haltThread (s : State) (t : Nat) : State :=
  let x := threadOf s t
  match x.state with
  | .dormant => s
  | .halted => s
  | .running => dispatch (setThread (leaveCore s x.core) t { x with state := .halted })
  | .ready =>
    setThread (setList s x.prio ((listOf s x.prio).filter fun u => decide (u ≠ t))) t
      { x with state := .halted }
  | .waiting => setThread s t { x with state := .halted, waitMask := 0 }

/-! ### Events (R363, R364) -/

/-- Slot `k`'s source code of thread `t`. -/
def slotSource (s : State) (t k : Nat) : Nat := regFld s (CCS_THR_EV t) (8 * k + 7) (8 * k)

/-- One occurrence added to slot `k` of thread `t`, which wakes the thread where it waits on it. -/
def countSlot (s : State) (t k : Nat) : State :=
  let x := threadOf s t
  let n := (x.counts[k]?).getD 0
  if n = 255 then latch s (CCS_THR_STAT t) 31
  else
    let s := setThread s t { x with counts := x.counts.set k (n + 1) }
    if decide (x.state = .waiting) && bitOf x.waitMask k then makeReady s t false else s

/-- Source `code` occurs for thread `t`: each of its slots bound to it counts once. -/
def occurThread (code : Nat) (s : State) (t : Nat) : State :=
  [0, 1, 2, 3].foldl (fun s k => if slotSource s t k = code then countSlot s t k else s) s

/-- Source `code` occurs, for every thread (R363). -/
def occur (s : State) (code : Nat) : State :=
  dispatch ((List.range 256).foldl (occurThread code) s)

/-! ### Notice queues (R367 to R375) -/

def queueOf (s : State) (q : Nat) : NQueue := tget (fun _ => NQueue.reset) s.ccs.queues q
def setQueue (s : State) (q : Nat) (x : NQueue) : State :=
  { s with ccs := { s.ccs with queues := tput (fun _ => NQueue.reset) s.ccs.queues q x } }

/-- Words held. -/
def queueDepth (s : State) (q : Nat) : Nat := (queueOf s q).words.length

/-- Room for a packet of `n` words (R369). -/
def queueRoom (s : State) (q n : Nat) : Bool := decide (n ≤ 512 - queueDepth s q)

/-- The watermark judged at the end of a cycle (R375). -/
def watermark (s : State) (q : Nat) : State :=
  let high := regFld s (NQ_WM q) 15 8
  let low := regFld s (NQ_WM q) 7 0
  let low := if low < high then low else high - 1
  let d := queueDepth s q
  let x := queueOf s q
  if high = 0 then s
  else if x.armed && decide (2 * high < d) then
    let first := decide (regFld s (NQ_WM q) 31 24 = 0)
    let s := latchCount (setQueue s q { x with armed := false }) (NQ_WM q) 31 24 1
    let s := occur s (0x20 + q)
    if first then
      noticeBoth s 0x0E02 q (d + regFld s (NQ_WM q) 31 24 * 65536 + regFld s (NQ_WM q) 23 16 * 16777216)
    else s
  else if !x.armed && decide (d ≤ 2 * low) then
    latchCount (setQueue s q { x with armed := true }) (NQ_WM q) 23 16 1
  else s

/-- The words of a packet, the last marked END. -/
def packetWords : List Word → List QWord
  | [] => []
  | [w] => [⟨w, true, false, false⟩]
  | w :: ws => ⟨w, false, false, false⟩ :: packetWords ws

/-- An accepted packet becomes visible whole; its event occurs once (R370). -/
def enqueue (s : State) (q : Nat) (ws : List Word) : State :=
  let x := queueOf s q
  watermark (occur (setQueue s q { x with words := x.words ++ packetWords ws }) (0x10 + q)) q

/-- The outbox that queue `q` serves next, in round-robin order by source number, among those whose
head is addressed to it (R369). -/
def nextSource (s : State) (q : Nat) : Option Nat :=
  roundRobin 128 (tget (fun _ => 127) s.ccs.lastSource q) fun src =>
    match (outboxOf s src).packets with
    | p :: _ => decide (p.queue = q)
    | [] => false

/-- Packets at the head of a source's outbox that are addressed to a disabled queue are discarded at
once and counted; they do not hold the source back (R372). -/
def dropDisabled (s : State) (src : Nat) : State :=
  let o := outboxOf s src
  let lost := o.packets.takeWhile fun p => !nqEnabled s p.queue
  if lost.isEmpty then s
  else lost.foldl (fun s p => latchCount s (NQ_CNT p.queue) 15 0 1)
    (setOutbox s src { o with packets := o.packets.drop lost.length })

/-- A queue takes the packet at the head of the next source's outbox once it has room; a packet
addressed to a queue that is not enabled is discarded and counted (R369, R372). -/
def acceptPacket (s : State) (q : Nat) : State :=
  match nextSource s q with
  | some src =>
    match (outboxOf s src).packets with
    | p :: rest =>
      let taken := { setOutbox s src { outboxOf s src with packets := rest } with
        ccs := { (setOutbox s src { outboxOf s src with packets := rest }).ccs with
          lastSource := tput (fun _ => 127) s.ccs.lastSource q src } }
      if !nqEnabled s q then dropDisabled (latchCount taken (NQ_CNT q) 15 0 1) src
      else if queueRoom s q p.words.length then dropDisabled (enqueue taken q p.words) src
      else s
    | [] => s
  | none => s

/-- A packet that TIM's posting engine hands straight to a queue (R96, R368): true where it was
taken or discarded, false where the queue is full and holds the source back. -/
def directPost (s : State) (q : Nat) (ws : List Word) : Bool × State :=
  if !nqEnabled s q then (true, latchCount s (NQ_CNT q) 15 0 1)
  else if queueRoom s q ws.length then (true, enqueue s q ws)
  else (false, s)

/-- A core's pop of queue `q` (R373, R374). -/
def popQueue (s : State) (q : Nat) : State :=
  let x := queueOf s q
  match x.words with
  | [] =>
    latch { setQueue s q { x with tag := 8 } with readValue := x.last.toNat } (NQ_STAT q) 31
  | w :: rest =>
    let bad := w.poison || w.parityBad
    let tag := b2n w.isEnd + b2n bad * 2 + b2n w.parityBad * 4
    let s := { setQueue s q { x with words := rest, last := w.data, tag := tag } with
      readValue := w.data.toNat }
    let s := if bad then latchCount s (NQ_CNT q) 31 16 1 else s
    let s := if bad && decide (x.poisonHoop ≠ some s.hoop.number) then
        noticeBoth (setQueue s q { queueOf s q with poisonHoop := some s.hoop.number })
          0x0E03 q (regFld s (NQ_CNT q) 31 16)
      else s
    watermark s q

/-- A write of NQ_CTRL(q): clearing EN empties the queue (Table 13-5), and the packets that wait for
it in outboxes are discarded (R372); enabling it makes an empty
pop read 0 (R373). -/
def writeNqCtrl (s : State) (q : Nat) (v : Word) : State :=
  let was := nqEnabled s q
  let s := plainWrite s (NQ_CTRL q) v
  if was && !bitW v 31 then
    (List.range 128).foldl dropDisabled (watermark (setQueue s q { queueOf s q with words := [] }) q)
  else if !was && bitW v 31 then setQueue s q { queueOf s q with last := 0 }
  else s

/-! ### The core-local port (R365) -/

/-- The thread running on core `c`. -/
def runningOn (s : State) (c : Nat) : Option Nat := if c < 8 then (coreOf s c).thread else none

def stagedOf (s : State) (t : Nat) : Staged := tget (fun _ => Staged.reset) s.ccs.staged t
def setStaged (s : State) (t : Nat) (x : Staged) : State :=
  { s with ccs := { s.ccs with staged := tput (fun _ => Staged.reset) s.ccs.staged t x } }

/-- SCH_PKT(i) and SCH_PKT_LEN: the staging area of the running thread. -/
def writeStaged (s : State) (t off : Nat) (v : Word) : State :=
  let x := stagedOf s t
  if 0x100 ≤ off ∧ off < 0x140 then
    setStaged s t { x with words := tput (fun _ => 0) x.words ((off - 0x100) / 4) v }
  else if off = 0x140 then setStaged s t { x with len := fld v 4 0 }
  else s

/-- The length of the staged packet: 0 and values above 16 act as 16. -/
def stagedLen (x : Staged) : Nat := if x.len = 0 ∨ 16 < x.len then 16 else x.len

/-- SCH_WAIT (R364). -/
def schWait (s : State) (c : Nat) (mask : Nat) : State :=
  match runningOn s c with
  | some t =>
    let x := threadOf s t
    let m := mask % 16
    if [0, 1, 2, 3].any fun k => bitOf m k && decide ((x.counts[k]?).getD 0 ≠ 0) then s
    else dispatch (setThread (leaveCore s c) t { x with state := .waiting, waitMask := m })
  | none => s

/-- SCH_YIELD: the thread goes to the tail of its list, unless no other eligible thread of its
priority or higher is READY (R360). -/
def schYield (s : State) (c : Nat) : State :=
  match runningOn s c with
  | some t =>
    match nextThread s c with
    | some u =>
      if regFld s (CCS_THR_CTRL t) 20 16 ≤ (threadOf s u).prio then
        dispatch (makeReady (leaveCore s c) t false)
      else s
    | none => s
  | none => s

/-- SCH_EXIT. -/
def schExit (s : State) (c : Nat) : State :=
  match runningOn s c with
  | some t => dispatch (setThread (leaveCore s c) t { threadOf s t with state := .dormant })
  | none => s

/-- SCH_TAKE(k): the read returns the count and clears it. -/
def schTake (s : State) (c k : Nat) : State :=
  match runningOn s c with
  | some t =>
    let x := threadOf s t
    { setThread s t { x with counts := x.counts.set (k % 4) 0 } with
      readValue := (x.counts[k % 4]?).getD 0 }
  | none => s

/-- SCH_SIGNAL: one more on the named slot where it is bound to the signal source and not saturated. -/
def schSignal (s : State) (c : Nat) (v : Word) : State :=
  match runningOn s c with
  | some t =>
    let u := fld v 7 0
    let k := fld v 9 8
    let bound := decide (slotSource s u k = 0x31)
    let full := decide ((((threadOf s u).counts[k]?).getD 0) = 255)
    let s := setThread s t { threadOf s t with lastSignal := b2n (bound && !full) }
    if bound then dispatch (countSlot s u k) else s
  | none => s

/-- SCH_TIMER: arms, replaces or cancels the thread's one-shot, in µs of elapsed TCLK time. -/
def schTimer (s : State) (c : Nat) (v : Word) : State :=
  match runningOn s c with
  | some t =>
    let n := fld v 23 0
    setThread s t { threadOf s t with timer := if n = 0 then none else some (s.tim.cyc + n * 250) }
  | none => s

/-- A thread's timer expires: its slots bound to 0x30 count once. -/
def timerExpiry (s : State) (t : Nat) : State :=
  match (threadOf s t).timer with
  | some due =>
    let s := runToCycle due s
    dispatch (occurThread 0x30 (setThread s t { threadOf s t with timer := none }) t)
  | none => s

/-- SCH_WDOG restarts the core's watchdog (R366). -/
def schWdog (s : State) (c : Nat) : State :=
  if c < 8 then setCore s c { coreOf s c with wdog := s.tim.cyc } else s

/-- A write of CCS_WDOG(c): EN, once set, is cleared only by reset (R366). -/
def writeCcsWdog (s : State) (c : Nat) (v : Word) : State :=
  let was := regBit s (CCS_WDOG c) 31
  let s := plainWrite s (CCS_WDOG c) (if was then v ||| 0x80000000 else v)
  if !was && bitW v 31 then schWdog s c else s

/-- Watchdog counting is suspended: an activation or a revert is under way (R406, R409). -/
def wdogHeld (s : State) : Bool :=
  s.upd.reverting.isSome || (match s.upd.act with | some a => a.hoop.isSome | none => false)

/-- The watchdog of core `c` expires (R366). -/
def watchdogExpiry (s : State) (c : Nat) : State :=
  if regBit s (CCS_WDOG c) 31 && !wdogHeld s then
    let due := (coreOf s c).wdog + max (regFld s (CCS_WDOG c) 7 0) 1 * 250000
    let s := schWdog (runToCycle due s) c
    match runningOn s c with
    | some t =>
      let s := setThread (leaveCore s c) t { threadOf s t with state := .halted }
      dispatch (noticeBoth (latch s (CCS_WDOG c) 30) 0x0E05 c (t + savedPc s t * 2 ^ 32))
    | none => noticeBoth (latch s (CCS_WDOG c) 30) 0x0E05 c 0
  else s

/-- SCH_POST(q): the staged packet enters queue `q` and the read returns 1, or it returns 0 (R371). -/
def schPost (s : State) (c q : Nat) : State :=
  match runningOn s c with
  | some t =>
    let x := stagedOf s t
    let n := stagedLen x
    let ws := tgetList (fun _ => (0 : Word)) x.words 0 n
    let ws := match ws with
      | w :: rest => setFld w 31 24 (n - 1) :: rest
      | [] => []
    if !nqEnabled s q then { s with readValue := 0 }
    else if queueRoom s q n then { enqueue s q ws with readValue := 1 }
    else { latch s (NQ_STAT q) 30 with readValue := 0 }
  | none => s

/-- The core a READY thread `t` pre-empts (R361): none while a core of its affinity is free, else
the one that runs the lowest priority below its own with NOPREEMPT = 0, the lowest-numbered among
equals. -/
def victimOf (s : State) (t : Nat) : Option Nat :=
  let x := threadOf s t
  let mine := (List.range 8).filter fun c => bitOf x.affinity c
  if mine.any fun c => decide ((coreOf s c).thread = none) then none
  else
    (mine.foldl (fun (best : Option (Nat × Nat)) c =>
      match (coreOf s c).thread with
      | some u =>
        let p := (threadOf s u).prio
        if !regBit s (CCS_THR_CTRL u) 0 && decide (p < x.prio) then
          match best with
          | some (_, bp) => if p < bp then some (c, p) else best
          | none => some (c, p)
        else best
      | none => best) none).map Prod.fst

/-- The READY thread that pre-empts next, and the core it pre-empts: the highest priority first. -/
def nextPreemption (s : State) : Option (Nat × Nat) :=
  (List.range 32).reverse.findSome? fun p =>
    (listOf s p).findSome? fun t => (victimOf s t).map fun c => (t, c)

/-- The pre-empted thread goes to the head of its list; the core takes the pre-empting one, and another
core that is free takes what its list gives it (R360). -/
def preempt (s : State) : State :=
  match nextPreemption s with
  | some (t, c) =>
    match (coreOf s c).thread with
    | some u => dispatch (runThread (makeReady (leaveCore s c) u true) c t)
    | none => s
  | none => s

/-! ### Observability (R376) -/

/-- The time a core has executed in the open window. -/
def coreBusy (s : State) (c : Nat) : Nat :=
  let x := coreOf s c
  x.busy + (if x.thread.isSome then s.tim.cyc - x.since else 0)

/-- The observation window ends: its figures are shown together (R376). -/
def obsWindowEnd (s : State) : State :=
  let ms := min (max (regFld s CCS_OBS_CTRL 9 0) 1) 1000
  let s := runToCycle (s.ccs.obsStart + ms * 250000) s
  let len := ms * 250000
  let load := (List.range 8).foldl (fun m c =>
    tput (fun _ => 0) m c (min (coreBusy s c * 65536 / len) 0xFFFF)) s.ccs.load
  let waits := (List.range 32).foldl (fun m p =>
    let st := tget (fun _ => WaitStat.reset) m p
    tput (fun _ => WaitStat.reset) m p
      ⟨0, 0, 0, if st.count = 0 then 0 else min (st.total / (st.count * 25)) 0xFFFF,
        min (st.longest / 25) 0xFFFF⟩) s.ccs.waits
  let cores := (List.range 8).foldl (fun m c =>
    let x := tget (fun _ => CoreUnit.reset) m c
    tput (fun _ => CoreUnit.reset) m c { x with busy := 0, since := s.tim.cyc }) s.ccs.cores
  { s with ccs := { s.ccs with
      load := load, waits := waits, cores := cores, shownDispatches := s.ccs.dispatches,
      dispatches := 0, obsSeq := s.ccs.obsSeq + 1, obsStart := s.tim.cyc } }

/-! ### ECC and access faults (R354, R356) -/

/-- The thread whose TCB the scheduler loads at address `addr` of the cores' map (Table 13-1). -/
def tcbThread (addr : Nat) : Option Nat :=
  if 0x40348000 ≤ addr % 2 ^ 32 ∧ addr % 2 ^ 32 < 0x40350000 then some ((addr % 2 ^ 32 - 0x40348000) / 128) else none

/-- The area of the cores' map that holds `a` (Table 13-1). -/
def areaOf (a : Nat) : Area :=
  if a < 0x40000 then .imem
  else if 0x10000000 ≤ a ∧ a < 0x10020000 then .dmem
  else if 0x20000000 ≤ a ∧ a < 0x20800000 then .shared
  else if 0x40000000 ≤ a ∧ a < 0x44000000 then .blocks
  else if 0x50000000 ≤ a ∧ a < 0x50001000 then .port
  else if 0x80000000 ≤ a ∧ a < 0x100000000 then .package
  else .nothing

/-- An access fault of core `c` at `addr`, while thread `t` is concerned: CORE_FAULT is posted. -/
def coreFaultPost (s : State) (c addr t : Nat) : State := noticeBoth s 0x0E04 c (addr % 2 ^ 32 + t * 2 ^ 32)

/-- An access that Table 13-1 does not give core `c`: an access fault. -/
def accessFault (s : State) (c addr : Nat) : State := coreFaultPost s c addr (((coreOf s c).thread).getD 0)

/-- Core `c` meets an uncorrectable word: FAULT is set and CORE_FAULT posted. A TCB word, met at
dispatch, halts its thread (Table 17-2). -/
def eccFault (s : State) (c addr : Nat) : State :=
  let s := latch s (CCS_CORE_STAT c) 30
  match tcbThread addr with
  | some u => haltThread (coreFaultPost s c addr u) u
  | none => accessFault s c addr

/-- A TCB word written: only while the thread is DORMANT or HALTED (R357). -/
def writeTcb (s : State) (off : Nat) (v : Word) : State :=
  match (threadOf s (off / 128)).state with
  | .dormant => { s with ccs := { s.ccs with tcb := tputList (fun _ => 0) s.ccs.tcb off (leBytes 4 v.toNat) } }
  | .halted => { s with ccs := { s.ccs with tcb := tputList (fun _ => 0) s.ccs.tcb off (leBytes 4 v.toNat) } }
  | _ => latch s CCS_STATUS 31

/-- A write of CCS_THR_CTRL(t): the Set fields, then the START and HALT kicks. -/
def writeThrCtrl (s : State) (t : Nat) (v : Word) : State :=
  let s := plainWrite s (CCS_THR_CTRL t) v
  let s := if bitW v 28 then startThread s t else s
  if bitW v 27 then haltThread s t else s

/-! ### Meanings -/

/-- THREAD_START: a write of CCS_THR_CTRL(t) with START set (R358). -/
def execThreadStart (t : Nat) (v : Word) (s : State) : Host.Outcome State Fault Refusal :=
  done (writeThrCtrl s t (v ||| 0x10000000))
/-- THREAD_HALT: a write of CCS_THR_CTRL(t) with HALT set (R358). -/
def execThreadHalt (t : Nat) (v : Word) (s : State) : Host.Outcome State Fault Refusal :=
  done (writeThrCtrl s t (v ||| 0x08000000))
/-- SCH_WAIT (R364). -/
def execSchWait (c : Nat) (v : Word) (s : State) : Host.Outcome State Fault Refusal :=
  done (schWait s c v.toNat)
/-- SCH_YIELD (R360). -/
def execSchYield (c : Nat) (s : State) : Host.Outcome State Fault Refusal := done (schYield s c)
/-- SCH_EXIT (R358). -/
def execSchExit (c : Nat) (s : State) : Host.Outcome State Fault Refusal := done (schExit s c)
/-- SCH_TAKE (R365). -/
def execSchTake (c k : Nat) (s : State) : Host.Outcome State Fault Refusal := done (schTake s c k)
/-- SCH_SIGNAL (R365). -/
def execSchSignal (c : Nat) (v : Word) (s : State) : Host.Outcome State Fault Refusal :=
  done (schSignal s c v)
/-- SCH_TIMER_WRITE (R365). -/
def execSchTimerWrite (c : Nat) (v : Word) (s : State) : Host.Outcome State Fault Refusal :=
  done (schTimer s c v)
/-- SCH_TIMER_EXPIRY (R365). -/
def execSchTimerExpiry (t : Nat) (s : State) : Host.Outcome State Fault Refusal :=
  done (timerExpiry s t)
/-- SCH_WDOG (R366). -/
def execSchWdog (c : Nat) (s : State) : Host.Outcome State Fault Refusal := done (schWdog s c)
/-- WATCHDOG_EXPIRY (R366). -/
def execWatchdogExpiry (c : Nat) (s : State) : Host.Outcome State Fault Refusal :=
  done (watchdogExpiry s c)
/-- SCH_POST (R371). -/
def execSchPost (c q : Nat) (s : State) : Host.Outcome State Fault Refusal := done (schPost s c q)
/-- PREEMPT (R361). -/
def execPreempt (s : State) : Host.Outcome State Fault Refusal := done (preempt s)
/-- NOTICE_PACKET_ACCEPT (R369). -/
def execNoticePacketAccept (q : Nat) (s : State) : Host.Outcome State Fault Refusal :=
  done (acceptPacket s q)
/-- NQ_POP (R373): a host read returns 0 and pops nothing. -/
def execNqPop (src : Source) (q : Nat) (s : State) : Host.Outcome State Fault Refusal :=
  match src with
  | .host => done { s with readValue := 0 }
  | .core _ => done (popQueue s q)
/-- NQ_EN_WRITE (R374). -/
def execNqEnWrite (q : Nat) (v : Word) (s : State) : Host.Outcome State Fault Refusal :=
  done (writeNqCtrl s q v)
/-- OBS_WINDOW_END (R376). -/
def execObsWindowEnd (s : State) : Host.Outcome State Fault Refusal := done (obsWindowEnd s)

end Sys2Proof.Machine
end

