-- ==== Sys2Proof/Machine/Cvu.lean ====
section
/-! DEFINITION. Machine/Cvu.lean: CRCs as the spec defines them (R184, R379) and the check-value
units (R377 to R380). -/
namespace Sys2Proof.Machine

/-! ### The arithmetic (R379) -/

/-- The low `w` bits of `v` in reverse order. -/
def reflect (w v : Nat) : Nat :=
  (List.range w).foldl (fun a i => 2 * a + (v / 2 ^ i) % 2) 0

/-- One input bit shifted into a remainder of `w` bits. -/
def crcBit (w poly rem : Nat) (b : Bool) : Nat :=
  let x := xor (bitOf rem (w - 1)) b
  let r := (2 * rem) % 2 ^ w
  if x then Nat.xor r poly else r

/-- One byte, most significant bit first after any reflection (R379's feed_byte). -/
def crcByte (w poly : Nat) (refin : Bool) (rem : Nat) (b : Byte) : Nat :=
  let v := if refin then reflect 8 b.toNat else b.toNat
  [7, 6, 5, 4, 3, 2, 1, 0].foldl (fun r i => crcBit w poly r (bitOf v i)) rem

/-- The finished value of a remainder (R379's result). -/
def crcResult (w : Nat) (refout : Bool) (xorout rem : Nat) : Nat :=
  Nat.xor (if refout then reflect w rem else rem) xorout

/-- CRC-32 of R184 (FIXED 1). -/
def crc32 (bs : List Byte) : Nat :=
  crcResult 32 true 0xFFFFFFFF (bs.foldl (crcByte 32 0x04C11DB7 true) 0xFFFFFFFF)

/-! ### The units -/

def cvuOf (s : State) (u : Nat) : Cvu := tget (fun _ => Cvu.reset) s.cvus u
def setCvu (s : State) (u : Nat) (x : Cvu) : State :=
  { s with cvus := tput (fun _ => Cvu.reset) s.cvus u x }

/-- Table 13-6, FIXED 1 to 4: WIDTH, POLY, INIT, REFIN, REFOUT, XOROUT. -/
def cvuFixed (f : Nat) : Option (Nat × Nat × Nat × Bool × Bool × Nat) :=
  match f with
  | 1 => some (32, 0x04C11DB7, 0xFFFFFFFF, true, true, 0xFFFFFFFF)
  | 2 => some (32, 0x1EDC6F41, 0xFFFFFFFF, true, true, 0xFFFFFFFF)
  | 3 => some (16, 0x1021, 0xFFFF, false, false, 0)
  | 4 => some (8, 0x07, 0, false, false, 0)
  | _ => none

/-- A 64-bit custom parameter from its two registers. -/
def cvuPair (s : State) (lo hi : Nat) : Nat := (reg s lo).toNat + (reg s hi).toNat * 2 ^ 32

/-- The configuration a START would latch, where R378 allows it. -/
def cvuConfig (s : State) (u : Nat) : Option (Nat × Nat × Nat × Bool × Bool × Nat) :=
  let f := regFld s (CVU_CFG u) 31 29
  if f = 0 then
    let w := regFld s (CVU_CFG u) 6 0
    let poly := cvuPair s (CVU_POLY_LO u) (CVU_POLY_HI u)
    let init := cvuPair s (CVU_INIT_LO u) (CVU_INIT_HI u)
    let xo := cvuPair s (CVU_XOR_LO u) (CVU_XOR_HI u)
    if s.boot.fwStarted ∧ s.boot.mode = 0 ∧ 8 ≤ w ∧ w ≤ 64 ∧ poly < 2 ^ w ∧ init < 2 ^ w ∧ xo < 2 ^ w then
      some (w, poly, init, regBit s (CVU_CFG u) 28, regBit s (CVU_CFG u) 27, xo)
    else none
  else cvuFixed f

/-- A CLAIM kick by the thread on core `c`: it takes a free unit (R377). -/
def cvuClaim (s : State) (c u : Nat) : State :=
  match runningOn s c, (cvuOf s u).owner with
  | some t, none => setCvu s u { cvuOf s u with owner := some t }
  | _, _ => s

/-- What the owner does to unit `u`; from any other thread it has no effect and sets FOREIGN. -/
def asOwner (s : State) (c u : Nat) (f : State → State) : State :=
  match runningOn s c with
  | some t => if (cvuOf s u).owner = some t then f s else latch s (CVU_STAT u) 30
  | none => s

/-- Unit `u` becomes free; an IMAGE_VERIFY that waits for unit 3 takes it at once (R403). -/
def cvuFree (s : State) (u : Nat) : State :=
  let next := if u = 3 ∧ s.upd.verifying.isSome = true then some 0x1FE else none
  setCvu s u { cvuOf s u with owner := next }

/-- RELEASE. -/
def cvuRelease (s : State) (c u : Nat) : State := asOwner s c u fun s => cvuFree s u

/-- START: the configuration is latched and the remainder set to INIT, or the start is refused. -/
def cvuStart (s : State) (c u : Nat) : State :=
  asOwner s c u fun s =>
    match cvuConfig s u with
    | some (w, poly, init, ri, ro, xo) =>
      setCvu s u { cvuOf s u with width := w, poly := poly, refin := ri, refout := ro, xorout := xo,
                                  rem := init, bytes := 0 }
    | none => latch s (CVU_STAT u) 29

/-- Bytes fed by the owner, the least significant first (R380). -/
def cvuFeed (s : State) (c u n : Nat) (v : Word) : State :=
  asOwner s c u fun s =>
    let x := cvuOf s u
    setCvu s u { x with rem := (leBytes n v.toNat).foldl (crcByte x.width x.poly x.refin) x.rem
                        bytes := (x.bytes + n) % 2 ^ 32 }

/-- RESULT of unit `u` as it stands (R379). -/
def cvuResult (x : Cvu) : Nat := crcResult x.width x.refout x.xorout x.rem

/-- A write of CVU_CTRL(u) by core `c`: CLAIM, then START, then RELEASE. -/
def writeCvuCtrl (s : State) (c u : Nat) (v : Word) : State :=
  let s := if bitW v 31 then cvuClaim s c u else s
  let s := if bitW v 29 then cvuStart s c u else s
  if bitW v 30 then cvuRelease s c u else s

/-- A host write to a unit has no effect (R377). -/
def fromCore (src : Source) (s : State) (f : Nat → State) : State :=
  match src with
  | .host => s
  | .core c => f c

/-! ### Meanings -/

/-- CVU_CLAIM: a write of CVU_CTRL with CLAIM set (R377). -/
def execCvuClaim (src : Source) (u : Nat) (v : Word) (s : State) : Host.Outcome State Fault Refusal :=
  done (fromCore src s fun c => writeCvuCtrl s c u (v ||| 0x80000000))
/-- CVU_RELEASE: a write of CVU_CTRL with RELEASE set (R377). -/
def execCvuRelease (src : Source) (u : Nat) (v : Word) (s : State) : Host.Outcome State Fault Refusal :=
  done (fromCore src s fun c => writeCvuCtrl s c u (v ||| 0x40000000))
/-- CVU_START: a write of CVU_CTRL with START set (R379). -/
def execCvuStart (src : Source) (u : Nat) (v : Word) (s : State) : Host.Outcome State Fault Refusal :=
  done (fromCore src s fun c => writeCvuCtrl s c u (v ||| 0x20000000))
/-- CVU_FEED_B (R380). -/
def execCvuFeedB (src : Source) (u : Nat) (v : Word) (s : State) : Host.Outcome State Fault Refusal :=
  done (fromCore src s fun c => cvuFeed s c u 1 v)
/-- CVU_FEED_H (R380). -/
def execCvuFeedH (src : Source) (u : Nat) (v : Word) (s : State) : Host.Outcome State Fault Refusal :=
  done (fromCore src s fun c => cvuFeed s c u 2 v)
/-- CVU_FEED_W (R380). -/
def execCvuFeedW (src : Source) (u : Nat) (v : Word) (s : State) : Host.Outcome State Fault Refusal :=
  done (fromCore src s fun c => cvuFeed s c u 4 v)

end Sys2Proof.Machine
end

