-- ==== Sys2Proof/Machine/Key.lean ====
section
/-! DEFINITION. Machine/Key.lean: the keep and its steps (R410, R460), and the key store, proof of
identity and tamper (chapter 16). -/
namespace Sys2Proof.Machine

/-! ### The keep (R410) -/

/-- The programmed bytes of a sector. -/
def sectorOf (s : State) (n : Nat) : List Byte := tget (fun _ => []) s.keep.sectors n
/-- `n` bytes of a sector; erased bytes read 0xFF. -/
def sectorRead (s : State) (sec off n : Nat) : List Byte :=
  (List.range n).map fun i => (((sectorOf s sec)[off + i]?).getD 0xFF)
/-- A sector programmed from its start, after an erase; `[]` erases it. -/
def programSector (s : State) (n : Nat) (bs : List Byte) : State :=
  { s with keep := { s.keep with sectors := tput (fun _ => []) s.keep.sectors n bs } }

/-- A record's own CRC (R184) over its first bytes. -/
def keepCrc (bs : List Byte) : List Byte := leBytes 4 (crc32 bs)

/-! ### Records (R430, R431) -/

/-- Copy `c` of slot `k`: its 128 bytes. -/
def keyCopy (s : State) (k c : Nat) : List Byte := sectorRead s (2 * k + c) 0 128
/-- A valid copy. -/
def keyCopyOk (k : Nat) (bs : List Byte) : Bool :=
  decide (le bs 0 2 = 0xA3E1 ∧ byteAt bs 2 = k ∧ le bs 124 4 = crc32 (bs.take 124))
/-- SEQ of a copy. -/
def keySeq (bs : List Byte) : Nat := le bs 4 4
/-- The copy of slot `k` that stands. -/
def standing (s : State) (k : Nat) : Option Nat :=
  let a := keyCopy s k 0
  let b := keyCopy s k 1
  if keyCopyOk k a then
    if keyCopyOk k b && later (w32 (keySeq a)) (w32 (keySeq b)) then some 1 else some 0
  else if keyCopyOk k b then some 1
  else none
/-- The standing record of slot `k`, where it is not a tombstone. -/
def recordOfSlot (s : State) (k : Nat) : Option (List Byte) :=
  match standing s k with
  | some c => let bs := keyCopy s k c; if bitOf (byteAt bs 3) 0 then none else some bs
  | none => none

/-- The IV of a record (R431). -/
def wrapIv (k seq : Nat) : List Byte := [BitVec.ofNat 8 k, 0, 0, 0] ++ beBytes 4 seq ++ [0, 0, 0, 0]

/-- A key record, or a tombstone where the key is empty. -/
def keyRecord (wrap : List Byte) (k seq mask : Nat) (key : List Byte) : List Byte :=
  let flags : Byte := if key = [] then 1 else 0
  let head := leBytes 2 0xA3E1 ++ [BitVec.ofNat 8 k, flags] ++ leBytes 4 seq ++ [BitVec.ofNat 8 mask] ++
    List.replicate 7 0
  let ct := gcmCrypt wrap (wrapIv k seq) key
  let body := if key = [] then List.replicate 48 0 else ct ++ gcmTag wrap (wrapIv k seq) head ct
  let bs := head ++ body ++ List.replicate 60 0
  bs ++ keepCrc bs

/-- A standing record unwrapped under the wrap cell: its key (R433). -/
def unwrap (wrap : Option (List Byte)) (bs : List Byte) : Option (List Byte) :=
  match wrap with
  | some w =>
    let iv := wrapIv (byteAt bs 2) (keySeq bs)
    let ct := slice bs 16 32
    if gcmTag w iv (slice bs 0 16) ct = slice bs 48 16 then some (gcmCrypt w iv ct) else none
  | none => none

/-! ### Slots and engines (R422, R423) -/

def slotOf (s : State) (k : Nat) : KeySlot := tget (fun _ => KeySlot.reset) s.key.slots k
def setKey (s : State) (k : Key) : State := { s with key := k }
def setSlot (s : State) (k : Nat) (x : KeySlot) : State :=
  setKey s { s.key with slots := tput (fun _ => KeySlot.reset) s.key.slots k x }

/-- Slot `k` takes a key and its mask; UNWRAP_FAIL tells of the last load and stays. -/
def fillSlot (s : State) (k : Nat) (key : List Byte) (mask : Nat) : State :=
  setSlot s k ⟨key, mask, (slotOf s k).unwrapFail⟩

/-- The key an engine receives from slot `k`: the empty list where the slot is empty or its mask
lacks the engine's bit. -/
def engineKey (s : State) (k bit : Nat) : List Byte :=
  let x := slotOf s k
  if bitOf x.mask bit then x.key else []

/-! ### The LINK engine (R260, R261, Table 10-15) -/

/-- EGR_AUTH.EN. -/
def authOn (s : State) : Bool := regBit s EGR_AUTH 31

/-- The slot of the LINK engine: while running, as taken at the last FCLK-side boundary (R261). -/
def linkSlot (s : State) : Nat := if s.hoop.running then s.egr.slot else regFld s EGR_AUTH 5 0

/-- The key of the LINK engine; the empty list where the slot does not give it one. -/
def linkKey (s : State) : List Byte := engineKey s (linkSlot s) 0

/-- Authentication is on without a usable key (Table 10-15). -/
def noLinkKey (s : State) : Bool := authOn s && decide (linkKey s = [])

/-- KEY_UNUSABLE is posted once as authentication finds no usable key. -/
def noteKey (s : State) : State :=
  let bad := noLinkKey s
  let was := s.egr.noKey
  let s := { s with egr := { s.egr with noKey := bad } }
  if bad && !was then noticeBoth s 0x0B07 0 (linkSlot s) else s

/-- Slots that hold a key. -/
def slotsFilled (s : State) : Nat := (s.key.slots.filter fun x => decide (x.2.key ≠ [])).length

/-! ### Loading (R433) -/

/-- Slot `k` loaded from the keep. -/
def loadSlot (s : State) (k : Nat) : State :=
  match recordOfSlot s k with
  | some bs =>
    match unwrap s.keep.wrap bs with
    | some key => setSlot s k ⟨key, byteAt bs 8 % 32, false⟩
    | none => setSlot s k ⟨[], 0, true⟩
  | none => setSlot s k KeySlot.reset

/-- KEY has read every record (step 4 of Table 14-2). -/
def loadKeys (s : State) : State :=
  let s := (List.range 64).foldl loadSlot s
  let bad := (s.key.slots.filter fun x => x.2.unwrapFail).length
  noticeBoth (setKey s { s.key with loaded := true }) 0x1001 0
    (slotsFilled s + bad * 256 + b2n s.keep.wrap.isNone * 65536)

/-! ### Commands (R424 to R432) -/

/-- The bytes of a group of registers, byte 4w in bits 7:0 of word w (R426). -/
def regBytes (s : State) (a : Nat → Nat) (n : Nat) : List Byte :=
  (List.range n).flatMap fun w => leBytes 4 (reg s (a w)).toNat

/-- Privileged commands are allowed (R424). -/
def keyAdmin (s : State) (src : Source) : Bool :=
  s.key.adminEn && regBit s KEY_CTRL 31 && decide (src = .host)

/-- RESULT codes (Table 16-3). -/
abbrev keyOk : Nat := 0
abbrev keyNotAdmin : Nat := 1
abbrev keyBadArg : Nat := 2
abbrev keyEmpty : Nat := 3
abbrev keyEngine : Nat := 4
abbrev keyPersisted : Nat := 5
abbrev keySupply : Nat := 6
abbrev keySupplyLate : Nat := 7
abbrev keyTamper : Nat := 8
abbrev keyNoWrap : Nat := 9

/-- What a command finds at its GO: RESULT, OK where it may act. -/
def keyCheck (s : State) (src : Source) (op slot parent : Nat) : Nat :=
  let persist := regBit s KEY_ATTR 31
  let mask := regFld s KEY_ATTR 4 0
  let x := slotOf s slot
  let p := slotOf s parent
  if s.key.tamperLow then keyTamper
  else match op with
    | 1 =>
      if !keyAdmin s src then keyNotAdmin
      else if slot = 0 ∧ persist = false then keyBadArg
      else if !persist && (recordOfSlot s slot).isSome then keyPersisted
      else if persist && s.keep.wrap.isNone then keyNoWrap
      else if persist && !s.psm.writeOk then keySupply
      else keyOk
    | 2 =>
      if !keyAdmin s src then keyNotAdmin
      else if persist && s.keep.wrap.isNone then keyNoWrap
      else if persist && !s.psm.writeOk then keySupply
      else keyOk
    | 3 =>
      if slot = 0 ∨ slot = parent then keyBadArg
      else if p.key = [] then keyEmpty
      else if !bitOf p.mask 4 || decide (mask = 0 ∨ mask &&& p.mask ≠ mask) || bitOf mask 2 || bitOf mask 4 then
        keyEngine
      else if (recordOfSlot s slot).isSome then keyPersisted
      else keyOk
    | 4 => if x.key = [] then keyEmpty else if bitOf x.mask 1 then keyOk else keyEngine
    | _ => keyBadArg

/-- 16 or 32 bytes of KEY's random bit generator: a free value. -/
def randomBytes (s : State) (n : Nat) : List Byte × State :=
  let (v, s) := takeFree s
  (leBytes n v, s)

/-- "LMVDRV01" in ASCII (R428). -/
def deriveLabel : List Byte := [0x4C, 0x4D, 0x56, 0x44, 0x52, 0x56, 0x30, 0x31]

/-- GO of KEY_CMD as it stands (R425). A GO while BUSY is 1 has no effect. Volatile WRITE and ERASE act
at once; PROVE draws its nonce. -/
def keyGo (s : State) (src : Source) : State :=
  if s.key.job.isSome then s
  else
    let op := regFld s KEY_CMD 30 28
    let slot := regFld s KEY_CMD 5 0
    let parent := regFld s KEY_CMD 21 16
    let persist := regBit s KEY_ATTR 31 && decide (op = 1 ∨ op = 2)
    let mask := regFld s KEY_ATTR 4 0
    let r := keyCheck s src op slot parent
    let s := setKey s { s.key with nonce := [], resp := [], stage := if persist then 0 else s.key.stage }
    let job : KeyJob := ⟨op, slot, false, r, [], mask, [], none⟩
    let run := fun (s : State) (j : KeyJob) => setKey s { s.key with job := some j }
    if r ≠ keyOk then run s job
    else match op with
      | 1 =>
        let key := regBytes s KEY_DATA 8
        if persist then run s { job with persist := true, key := key }
        else run (fillSlot s slot key mask) job
      | 2 =>
        if persist then run s { job with persist := true, mask := 0 }
        else run (fillSlot s slot [] 0) job
      | 3 =>
        let m := deriveLabel ++ regBytes s KEY_CTX 4 ++ [BitVec.ofNat 8 mask]
        run s { job with key := hmac (slotOf s parent).key m }
      | _ =>
        let (nonce, s) := randomBytes s 16
        let m := regBytes s KEY_PROVE_CHAL 8 ++ beBytes 8 (Config.serial % 2 ^ 64) ++ nonce
        run (setKey s { s.key with nonce := nonce }) { job with resp := hmac (slotOf s slot).key m }

/-- A command completes: RESULT is written, KEY_DATA is cleared, BUSY falls. SLOT_CHANGED follows
where the slot was changed. -/
def keyFinish (s : State) (j : KeyJob) (r : Nat) (changed : Bool) : State :=
  let s := (List.range 8).foldl (fun s w => setReg s (KEY_DATA w) 0) s
  let s := setKey s { s.key with job := none, result := r }
  if changed then noticeBoth s 0x1003 j.slot (j.op + r * 256 + b2n j.persist * 65536) else s

/-- KEY_COMMAND_DONE: a command that takes no keep step ends. -/
def keyCommandDone (s : State) : State :=
  match s.key.job with
  | some j =>
    if j.persist then s
    else
      let ok := decide (j.result = keyOk)
      let s := if ok && decide (j.op = 3) then fillSlot s j.slot j.key j.mask else s
      let s := if ok && decide (j.op = 4) then setKey s { s.key with resp := j.resp } else s
      noteKey (keyFinish s j j.result (ok && decide (j.op ≠ 4)))
  | none => s

/-- The copy that a persisted command writes (R432). -/
def targetCopy (s : State) (k : Nat) : Nat := if standing s k = some 0 then 1 else 0

/-- A keep step of a persisted command finishes (R432): 1 erase, 2 program, which is the commit
point, 3 erase of the superseded copy. The next asks for permission (R434). -/
def keyStep (s : State) : State :=
  match s.key.job with
  | some j =>
    if !j.persist || j.waiting.isSome then s
    else
      let k := j.slot
      let s' := match s.key.stage with
        | 0 => programSector s (2 * k + targetCopy s k) []
        | 1 =>
          let seq := match standing s k with | some c => keySeq (keyCopy s k c) + 1 | none => 1
          let s := programSector s (2 * k + targetCopy s k)
            (keyRecord (s.keep.wrap.getD []) k (seq % 2 ^ 32) j.mask j.key)
          noteKey (if j.op = 1 then fillSlot s k j.key j.mask else fillSlot s k [] 0)
        | _ => programSector s (2 * k + targetCopy s k) []
      let s' := setKey s' { s'.key with stage := s.key.stage + 1 }
      if s'.key.stage = 3 then keyFinish s' j keyOk true
      else if s'.psm.writeOk then s'
      else setKey s' { s'.key with job := some { j with waiting := some s'.tim.cyc } }
  | none => s

/-- Permission has returned: a command that waits for it goes on. -/
def keyResume (s : State) : State :=
  match s.key.job with
  | some j => setKey s { s.key with job := some { j with waiting := none } }
  | none => s

/-- One second, in TCLK cycles. -/
def secondCycles : Nat := 250000000

/-- KEY_SUPPLY_TIMEOUT: permission has not returned within 1 s. -/
def keySupplyTimeout (s : State) : State :=
  match s.key.job with
  | some j =>
    match j.waiting with
    | some t => let s := runToCycle (t + secondCycles) s; keyFinish s j keySupplyLate (decide (2 ≤ s.key.stage))
    | none => s
  | none => s

/-- A command kicked by a write of `v` to KEY_CMD, with OP `op`. -/
def keyCommand (s : State) (src : Source) (op : Nat) (v : Word) : State :=
  noteKey (keyGo (plainWrite s KEY_CMD (setFld v 30 28 op)) src)

/-- A write of KEY_CTRL: ADMIN takes a 1 only from the host while the ball is high (R424). -/
def keyCtrlWrite (s : State) (src : Source) (v : Word) : State :=
  let admin := match src with
    | .host => bitW v 31 && s.key.adminEn
    | .core _ => regBit s KEY_CTRL 31
  plainWrite s KEY_CTRL (setFld v 31 31 (b2n admin))

/-- A write of KEY_DATA(w): without effect from a core. -/
def keyDataWrite (s : State) (src : Source) (a : Nat) (v : Word) : State :=
  if src = .host then plainWrite s a v else s

/-! ### Tamper (R436, R437) -/

/-- The tamper sequence (Table 16-6). `low` is the level TAMPER_N keeps afterwards. -/
def tamper (s : State) (low : Bool) : State :=
  let s := match s.key.job with
    | some j => keyFinish s j keyTamper false
    | none => s
  let s := { s with keep := { s.keep with wrap := none } }
  let zero := fun (s : State) (a : Nat → Nat) (n : Nat) => (List.range n).foldl (fun s w => setReg s (a w) 0) s
  let s := zero (zero s KEY_DATA 8) KEY_CTX 4
  let s := setKey s { s.key with
    slots := tmap (fun _ => KeySlot.reset) s.key.slots fun x => ⟨[], 0, x.unwrapFail⟩
    nonce := [], resp := [], tamperLow := low }
  let s := { s with boot := { s.boot with imageKey := s.boot.imageKey.map fun _ => [] }
                    upd := { s.upd with verifyKey := s.upd.verifyKey.map fun _ => [] } }
  noteKey (noticeBoth (latch s KEY_STATUS 29) 0x1002 0 s.hoop.number.toNat)

/-- WRAP_CELL_RENEW: TAMPER_N has been high for 100 ms, and a new wrap cell is written with PSM's
permission. -/
def renewWrap (s : State) : State :=
  let s := setKey s { s.key with tamperLow := false }
  if s.keep.wrap.isSome || !s.psm.writeOk then s
  else
    let (w, s) := randomBytes s 32
    { s with keep := { s.keep with wrap := some w } }

/-- A write of KEY_STATUS: TAMPERED clears only while TAMPER_N is high (R437). -/
def keyStatusWrite (s : State) (v : Word) : State :=
  if s.key.tamperLow then s else plainWrite s KEY_STATUS v

/-! ### Meanings -/

/-- KEY_WRITE (R426). -/
def execKeyWrite (src : Source) (v : Word) (s : State) : Host.Outcome State Fault Refusal :=
  done (keyCommand s src 1 v)
/-- KEY_ERASE (R427). -/
def execKeyErase (src : Source) (v : Word) (s : State) : Host.Outcome State Fault Refusal :=
  done (keyCommand s src 2 v)
/-- KEY_DERIVE (R428). -/
def execKeyDerive (src : Source) (v : Word) (s : State) : Host.Outcome State Fault Refusal :=
  done (keyCommand s src 3 v)
/-- KEY_PROVE (R429). -/
def execKeyProve (src : Source) (v : Word) (s : State) : Host.Outcome State Fault Refusal :=
  done (keyCommand s src 4 v)
/-- KEY_COMMAND_DONE (R425). -/
def execKeyCommandDone (s : State) : Host.Outcome State Fault Refusal := done (keyCommandDone s)
/-- KEY_SUPPLY_TIMEOUT (R434). -/
def execKeySupplyTimeout (s : State) : Host.Outcome State Fault Refusal := done (keySupplyTimeout s)
/-- KEY_ADMIN_EN_FALL (R424). -/
def execKeyAdminEnFall (s : State) : Host.Outcome State Fault Refusal :=
  done (setRegFld (setKey s { s.key with adminEn := false }) KEY_CTRL 31 31 0)
/-- TAMPER (R436). -/
def execTamper (low : Bool) (s : State) : Host.Outcome State Fault Refusal := done (tamper s low)
/-- WRAP_CELL_RENEW (R437). -/
def execWrapCellRenew (s : State) : Host.Outcome State Fault Refusal := done (renewWrap s)

end Sys2Proof.Machine
end

