-- ==== Sys2Proof/Machine/Tim.lean ====
section
/-! DEFINITION. Machine/Tim.lean: the time base (chapter 3): the TIM_CTRL kicks and their
coincidences, the master watch, transmit stamps, pulses, captures and the word clock, with the
hoop reference they feed (R114), and the meanings of their commands. -/
namespace Sys2Proof.Machine

def setTim (s : State) (t : Tim) : State := { s with tim := t }
def setHoop (s : State) (h : HoopGen) : State := { s with hoop := h }

/-! ### The hoop reference as TIM's state shows in it (R114) -/

/-- HOOP_MODE.MODE in force: 0 FREE, 1 PTP, 2 WORD, 3 PIN. -/
def hoopMode (s : State) : Nat := regFld s HOOP_MODE 31 30

/-- HOOP_STATUS.REF changes; each change posts REF_STATE (R114). -/
def setRefState (s : State) (r : RefState) : State :=
  let old := s.hoop.ref.state
  if r = old then s
  else noticeBoth (setHoop s { s.hoop with ref := { s.hoop.ref with state := r } }) 0x0504 0
    (r.code + old.code * 256)

/-- In PTP mode REF shows TIM's state (R114). -/
def syncPtpRef (s : State) : State :=
  if hoopMode s = 1 then
    setRefState s (match s.tim.mode with
      | .tracking => .locked
      | .holdover => .hold
      | _ => .wait)
  else s

/-- The nominal period T as a fraction of quarter-ns: numerator and denominator (R109). -/
def periodNum (s : State) : Nat := 4000000000 * regFld s HOOP_RATE 11 0
def periodDen (s : State) : Nat := regFld s HOOP_RATE 31 12

/-- The period of the grid as last derived from the reference, in quarter-ns as a fraction: P_w by
WC_EDGES / WC_HOOPS, or P_p, each TRN to whole quarter-ns (Table 4-2); the nominal T before any. -/
def refPeriod (s : State) : Nat × Nat :=
  let p := s.hoop.ref.period64 / 64
  if p = 0 then (periodNum s, max (periodDen s) 1)
  else if hoopMode s = 2 then (regFld s HOOP_WORD 15 0 * p, max (regFld s HOOP_WORD 31 16) 1)
  else (p, 1)

/-- The grid continues from the point last targeted, with the last period in use (R115). -/
def coastOn (s : State) : State :=
  let p := refPeriod s
  setHoop s { s.hoop with ref := { s.hoop.ref with coast := ⟨s.hoop.gridEl, p.1, p.2⟩ } }

/-- MODE has changed: WAIT in WORD and PIN, TIM's state in PTP, none in FREE (Table 4-4). -/
def modeChanged (s : State) : State :=
  let s := coastOn (setHoop s { s.hoop with
    ref := { s.hoop.ref with edge := none, intervals := [], period64 := 0, anchorNext := false } })
  match hoopMode s with
  | 0 => setRefState s .none
  | 1 => syncPtpRef s
  | _ => setRefState s .wait

/-- `a / b` lies within ±1,000 ppm of T. -/
def near1000ppm (s : State) (a b : Nat) : Bool :=
  let x : Int := a * periodDen s
  let y : Int := periodNum s * b
  decide ((x - y).natAbs * 1000 ≤ y.natAbs)

/-! ### Master watch (R99, R100) -/

/-- TIM moves to another state: STATE_CHANGE, and REF in PTP mode. -/
def setTimMode (s : State) (m : TimMode) : State :=
  let old := s.tim.mode
  syncPtpRef (noticeBoth (setTim s { s.tim with mode := m, annDue := none }) 0x0401 0
    (m.code + old.code * 256))

/-- LOG_ANN as a signed value, where it is −3 to +4. -/
def logAnn (s : State) : Option Int :=
  let v := sext 4 (regFld s TIM_MASTER_CTRL 23 20)
  if -3 ≤ v ∧ v ≤ 4 then some v else none

/-- The Announce timeout in TCLK cycles: TIMEOUT × 2^LOG_ANN s (R99). -/
def annCycles (s : State) : Nat :=
  let n := max (regFld s TIM_MASTER_CTRL 27 24) 2
  match logAnn s with
  | some v => if 0 ≤ v then n * 250000000 * 2 ^ v.toNat else n * 250000000 / 2 ^ (-v).toNat
  | none => n * 250000000

/-- A write of TIM_MASTER_CTRL (R99, Table 3-6). A LOG_ANN out of range sets RANGE and leaves WATCH
ineffective, as if 0 were written. -/
def writeMasterCtrl (s : State) (v : Word) : State :=
  let s := plainWrite s TIM_MASTER_CTRL v
  let bad := decide (logAnn s = none)
  let s := if bad then latch s TIM_STATUS 28 else s
  let watch := bitW v 31 && !bad
  if watch then (if s.tim.mode = .free then setTimMode s .wait else s)
  else setTimMode s .free

/-- A matching Announce arrives (Table 3-6). -/
def announce (s : State) : State :=
  match s.tim.mode with
  | .wait =>
    let s := setTimMode s .tracking
    setTim s { s.tim with annDue := some (s.tim.cyc + annCycles s) }
  | .tracking => setTim s { s.tim with annDue := some (s.tim.cyc + annCycles s) }
  | _ => s

/-- A running slew is abandoned (Table 3-2). -/
def abandonSlew (s : State) : State :=
  if s.tim.left = 0 then s
  else latch (setTim s { s.tim with left := 0 }) TIM_STATUS 26

/-- The Announce timeout elapses: TRACKING becomes HOLDOVER, which abandons a slew and keeps the
rate (R99, R100). -/
def announceTimeout (s : State) : State :=
  match s.tim.annDue with
  | some due =>
    let s := runToCycle due s
    if s.tim.mode = .tracking then setTimMode (abandonSlew s) .holdover else s
  | none => s

/-! ### Pulses (R101 to R103) -/

def pulseOf (s : State) (i : Nat) : Pulse := tget (fun _ => Pulse.reset) s.tim.pulses i
def setPulse (s : State) (i : Nat) (p : Pulse) : State :=
  setTim s { s.tim with pulses := tput (fun _ => Pulse.reset) s.tim.pulses i p }

/-- A time in the notice format: NSQ in bytes 0 to 3, SEC[15:0] in bytes 4 and 5 (Table 3-1). -/
def noticeStamp (q : Nat) : Nat := q % 4000000000 + (q / 4000000000) % 65536 * 2 ^ 32

/-- An edge that is not emitted: MISSED and PULSE_MISSED. -/
def pulseMissed (s : State) (i edge : Nat) : State :=
  noticeBoth (latch s (TIM_PULSE_CTRL i) 25) 0x0406 i (noticeStamp edge)

/-- The edge E_k of a PERIODIC pulse (Table 3-7). -/
def periodicEdge (c : PulseCfg) (k : Nat) : Nat :=
  moveQ c.start (k * (c.periodQ * 256 + c.periodF) / 256 : Nat)

/-- The first k whose edge lies at least 64 ns after device time `now`. -/
def periodicNext (c : PulseCfg) (now : Nat) : Nat :=
  let least := moveQ now 256
  if !reached (moveQ now 255) c.start then 0
  else
    let delta := (least + timeWrap - c.start) % timeWrap
    let p := max (c.periodQ * 256 + c.periodF) 1
    (delta * 256 + p - 1) / p

/-- The settings an ARM copies (R101). -/
def pulseSettings (s : State) (i : Nat) : PulseCfg :=
  { mode := regFld s (TIM_PULSE_CTRL i) 28 27
    start :=
      if regFld s (TIM_PULSE_CTRL i) 28 27 = 2 then (reg s (TIM_PULSE_START_NSQ i)).toNat
      else (regFld s (TIM_PULSE_CTRL i) 15 0 * 2 ^ 32 + (reg s (TIM_PULSE_START_LO i)).toNat)
        * 4000000000 + (reg s (TIM_PULSE_START_NSQ i)).toNat
    periodQ := (reg s (TIM_PULSE_PERIOD i)).toNat
    periodF := regFld s (TIM_PULSE_WIDTH i) 31 24
    widthQ := regFld s (TIM_PULSE_WIDTH i) 23 0 }

/-- What Table 3-7 refuses at ARM. -/
def pulseRefused (s : State) (i : Nat) : Bool :=
  let c := pulseSettings s i
  let nsqBad := decide (4000000000 ≤ (reg s (TIM_PULSE_START_NSQ i)).toNat)
  match c.mode with
  | 0 => decide (c.widthQ < 16) || nsqBad
  | 1 => decide (c.widthQ < 16) || nsqBad || decide (c.periodQ < c.widthQ + 16)
  | 2 => decide (c.widthQ < 16)
  | _ => true

/-- An ARM kick (R101 to R103). -/
def armPulse (s : State) (i : Nat) : State :=
  if pulseRefused s i then latch s TIM_STATUS 28
  else
    let c := pulseSettings s i
    let p := { pulseOf s i with cfg := some c, k := 0, next := none, pol := regBit s (TIM_PULSE_CTRL i) 26 }
    match c.mode with
    | 0 =>
      if reached (moveQ s.tim.q 255) c.start then pulseMissed (setPulse s i { p with cfg := none }) i c.start
      else setPulse s i { p with next := some c.start }
    | 1 =>
      let k := periodicNext c s.tim.q
      setPulse s i { p with k := k, next := some (periodicEdge c k) }
    | _ => setPulse s i p

/-- A STOP kick cancels pending edges; an asserted pulse completes its width (R101). -/
def stopPulse (s : State) (i : Nat) : State :=
  setPulse s i { pulseOf s i with cfg := none, next := none }

/-- A write of TIM_PULSE_CTRL(i): the Set fields, then ARM, then STOP. -/
def writePulseCtrl (s : State) (i : Nat) (v : Word) : State :=
  let s := plainWrite s (TIM_PULSE_CTRL i) v
  let s := if bitW v 31 then armPulse s i else s
  if bitW v 30 then stopPulse s i else s

/-- The elapsed instant, in quarter-ns, of device time `e`, which this cycle has reached (R101). -/
def instantOf (s : State) (e : Nat) : Nat :=
  s.tim.elapsedQ - min ((s.tim.q + timeWrap - e % timeWrap) % timeWrap) 16

/-- TOUT`i` changes level. -/
def emitTout (s : State) (i : Nat) (level : Bool) (at_ : Nat) : State :=
  { s with out := s.out ++ [.tout i level at_] }

/-- A pending edge that is due: the pulse is asserted at the edge's quarter-ns, for its width of elapsed
time (R101). -/
def firePulse (s : State) (i : Nat) : State :=
  match (pulseOf s i).next with
  | some e =>
    let p := pulseOf s i
    let w := (p.cfg.map (·.widthQ)).getD 0
    let s := emitTout s i (!p.pol) (instantOf s e)
    let p := { p with assertedTo := some (instantOf s e + w) }
    match p.cfg with
    | some c =>
      if c.mode = 1 then setPulse s i { p with k := p.k + 1, next := some (periodicEdge c (p.k + 1)) }
      else if c.mode = 2 then setPulse s i { p with next := none }
      else setPulse s i { p with cfg := none, next := none }
    | none => setPulse s i { p with next := none }
  | none => s

/-- A pending edge falls due. -/
def pulseEdge (s : State) (i : Nat) : State :=
  match (pulseOf s i).next with
  | some e => firePulse (runTo e s) i
  | none => s

/-- The width has elapsed: TOUT returned to its inactive level at that quarter-ns. -/
def pulseWidthEnd (s : State) (i : Nat) : State :=
  match (pulseOf s i).assertedTo with
  | some e =>
    let s := runToCycle ((e + 15) / 16) s
    emitTout (setPulse s i { pulseOf s i with assertedTo := none }) i (pulseOf s i).pol e
  | none => s

/-- The level of ball TOUT`i` (R101, POLARITY). -/
def toutLevel (s : State) (i : Nat) : Bool :=
  xor (pulseOf s i).assertedTo.isSome (pulseOf s i).pol

/-- HOOP-mode pulses at a hoop boundary: the edge of this hoop, or none where it would not fit (R103). -/
def pulseBoundary (s : State) (b len : Nat) : State :=
  (List.range 8).foldl (fun s i =>
    let p := pulseOf s i
    match p.cfg with
    | some c =>
      if c.mode = 2 then
        if len < c.start + c.widthQ then pulseMissed (setPulse s i { p with next := none }) i (moveQ b c.start)
        else setPulse s i { p with next := some (moveQ b c.start) }
      else s
    | none => s) s

/-- Edges due as device time steps are judged against the time before (Table 3-2). -/
def fireDue (s : State) : State :=
  (List.range 8).foldl (fun s i =>
    match (pulseOf s i).next with
    | some e => if reached s.tim.q e then firePulse s i else s
    | none => s) s

/-- Pulses after a step of device time (Table 3-8). -/
def pulseStep (s : State) : State :=
  (List.range 8).foldl (fun s i =>
    let p := pulseOf s i
    match p.cfg, p.next with
    | some c, some e =>
      if c.mode = 0 then
        if reached s.tim.q e then pulseMissed (setPulse s i { p with cfg := none, next := none }) i e else s
      else if c.mode = 1 then
        let k := periodicNext c s.tim.q
        setPulse s i { p with k := k, next := some (periodicEdge c k) }
      else s
    | _, _ => s) s

/-! ### SNAP, SET, STEP, ADJ_GO, HOLD_EXIT (R86 to R89) -/

/-- SNAP: device time at the start of the cycle (R88). -/
def snap (s : State) : State := setTim s { s.tim with snapSec := s.tim.sec, snapNsq := s.tim.nsq }

/-- Device time moved by `d` quarter-ns, the part below a quarter-ns kept. -/
def stepTime (t : Tim) (d : Int) : Tim :=
  let q := moveQ t.q d
  { t with sec := q / 4000000000, acc := q % 4000000000 * 2 ^ 30 + t.acc % 2 ^ 30 }

/-- Device time loaded from TIM_SET_SEC_HI, TIM_SET_LO and TIM_SET_NSQ (R87). -/
def loadTime (s : State) : Tim :=
  { s.tim with sec := regFld s TIM_TIME_HI 15 0 * 2 ^ 32 + (reg s TIM_SET_LO).toNat
               acc := (reg s TIM_SET_NSQ).toNat * 2 ^ 30 }

/-- The pending boundary moves with a jump of device time (R112). Before the first boundary of PTP
mode no hoop is in progress and the grid point stands. -/
def jumpBoundary (s : State) (d : Int) : State :=
  if s.hoop.running && (s.hoop.raised || decide (hoopMode s ≠ 1)) then
    setHoop s { s.hoop with bNext := moveQ s.hoop.bNext d }
  else s

/-- A SET, a STEP, or both, with the outcomes of Table 3-2. A jump that does not fit the 64 bits of
TIME_STEP's DETAIL leaves that field a free value. -/
def jump (s : State) (set step : Bool) : State :=
  if set && decide (4000000000 ≤ (reg s TIM_SET_NSQ).toNat) then latch s TIM_STATUS 28
  else
    let s := fireDue (abandonSlew s)
    let amount := sext 32 (reg s TIM_STEP).toNat
    let t := if set then loadTime s else s.tim
    let d : Int := (if set then (t.q : Int) - s.tim.q else 0) + (if step then amount else 0)
    let t := if step then stepTime t amount else t
    let s := jumpBoundary (setTim s t) d
    let s := pulseStep s
    if -(2 ^ 63 : Int) ≤ d ∧ d < 2 ^ 63 then noticeBoth s 0x0408 0 (toBits 64 d)
    else
      let (v, s) := takeFree s
      noticeBoth s 0x0408 0 (v % 2 ^ 64)

/-- ADJ_GO: the slew amount replaces any remainder (R86). DESIGN CHOICE (log 56): an amount of 0 starts no
slew, and no SLEW_DONE follows. -/
def adjGo (s : State) : State :=
  setTim s { s.tim with left := sext 24 (regFld s TIM_ADJ 23 0) }

/-- A write of TIM_CTRL: the Set fields, then its kicks as Table 3-2 orders them. In HOLDOVER the
kicks of ADJ_GO, SET and STEP have no effect and set HOLD_REFUSED (R100). -/
def writeTimCtrl (s : State) (v : Word) : State :=
  let s := plainWrite s TIM_CTRL v
  let s := if bitW v 31 then snap s else s
  let s :=
    if s.tim.mode = .holdover then
      if bitW v 30 || bitW v 29 || bitW v 28 then latch s TIM_STATUS 27 else s
    else
      let s := if bitW v 30 || bitW v 29 then jump s (bitW v 30) (bitW v 29) else s
      if bitW v 28 then adjGo s else s
  if bitW v 27 ∧ s.tim.mode = .holdover then setTimMode s .wait else s

/-- A write of TIM_RATE (R85, R100). -/
def writeTimRate (s : State) (v : Word) : State :=
  let r := sext 32 v.toNat
  if s.tim.mode = .holdover then latch s TIM_STATUS 27
  else if -17179869 ≤ r ∧ r ≤ 17179869 then plainWrite s TIM_RATE v
  else latch s TIM_STATUS 28

/-! ### Stamps and captures (R91 to R97, R104) -/

/-- The raw stamp of an event `phase` sixteenths into this cycle, in quarter-ns (R91). -/
def rawStamp (s : State) (phase : Nat) : Nat :=
  moveQ (s.tim.sec * 4000000000)
    ((s.tim.acc + phase * tclkInc (timRate s) / 16) / 2 ^ 30 : Nat)

/-- Fixed compensation in ps: receive, transmit (Table 3-4). -/
def fixedComp (p : Nat) : Int × Int :=
  if p < 32 then (41250, 27500) else if p < 36 then (52000, 31000) else (19500, 12750)

/-- A compensation of `c` ps in quarter-ns, RHU (R92). -/
def compQ (c : Int) : Int := (c + 125) / 250

/-- The ingress stamp of a frame on port `p` (R92), in quarter-ns. -/
def ingressStamp (s : State) (p phase : Nat) : Nat :=
  moveQ (rawStamp s phase) (-(compQ ((fixedComp p).1 + sext 32 (reg s (TIM_PORT_ASYM_RX p)).toNat)))

/-- The egress stamp of a frame on port `p` (R92), in quarter-ns. -/
def egressStamp (s : State) (p phase : Nat) : Nat :=
  moveQ (rawStamp s phase) (compQ ((fixedComp p).2 + sext 32 (reg s (TIM_PORT_ASYM_TX p)).toNat))

def stampsOf (s : State) (p : Nat) : StampQueue := tget (fun _ => StampQueue.reset) s.tim.stamps p
def setStamps (s : State) (p : Nat) (q : StampQueue) : State :=
  setTim s { s.tim with stamps := tput (fun _ => StampQueue.reset) s.tim.stamps p q }

/-- The stamp of RAW_TX entry `id` is settled: the descriptor completes with it once its frame has left
port `p` (R302). -/
def stamped (s : State) (p id st r0 r1 : Nat) : State :=
  let x := tget (fun _ => MacPort.reset) s.mac p
  match x.wire with
  | some f => match f.sender with
    | .rawTx k _ =>
      if k = id then
        { s with mac := tput (fun _ => MacPort.reset) s.mac p { x with wireResult := some (st, r0, r1) } }
      else finish s id st r0 r1
    | _ => finish s id st r0 r1
  | none => finish s id st r0 r1

/-- A frame crosses its time-stamp point: its stamp is queued, or discarded where the queue holds
16 entries (R95, R97). -/
def pushStamp (s : State) (p q : Nat) (dest : StampDest) : State :=
  let x := stampsOf s p
  if x.entries.length < 16 then
    setStamps s p { x with entries := x.entries ++ [⟨q / 4000000000, q % 4000000000, dest⟩] }
  else
    let s := setStamps s p { x with lost := x.lost + 1 }
    let s := latch (latchCount s (TIM_PORT_TS p) 31 16 1) TIM_STATUS 25
    match dest with
    | .rawTx id => stamped s p id 7 0 0
    | .firmware _ => s

def capOf (s : State) (i : Nat) : Capture := tget (fun _ => Capture.reset) s.tim.caps i
def setCap (s : State) (i : Nat) (c : Capture) : State :=
  setTim s { s.tim with caps := tput (fun _ => Capture.reset) s.tim.caps i c }

/-- A packet that TIM posts straight to its notice queue, in place of an outbox (R96, R368). -/
def timPost (s : State) (ws : List Word) : Bool × State := directPost s (sourceQueue s 4) ws

/-- The packet of a TIM notice raised now. -/
def timWords (s : State) (code inst detail : Nat) : List Word := (Notice.mk code inst s.hoop.number detail).words

/-- CAPTURE_LOST, once the FIFO has room (R104): the host's copy, and firmware's, which waits where its
queue is full. -/
def capLostNotice (s : State) (i : Nat) : State :=
  let c := capOf s i
  if c.lost ≠ 0 ∧ c.fifo.length < 4 ∧ c.note = none then
    let s := notice (setCap s i { c with lost := 0 }) 0x0405 i (c.lost % 2 ^ 32) true false
    let ws := timWords s 0x0405 i (c.lost % 2 ^ 32)
    match timPost s ws with
    | (true, s) => s
    | (false, s) => setCap s i { capOf s i with note := some ws }
  else s

/-- A selected edge on capture `i` (R104): captured, or lost and counted. -/
def captureEdge (s : State) (i q elapsed : Nat) (falling : Bool) : State :=
  let c := { capOf s i with edges := (capOf s i).edges + 1 }
  let soon := match c.last with
    | some e => decide (elapsed - e < 64)
    | none => false
  if soon || decide (4 ≤ c.fifo.length) then
    let s := setCap s i { c with lost := c.lost + 1 }
    capLostNotice (latch (latchCount s (TIM_CAP_CTRL i) 23 8 1) TIM_STATUS 24) i
  else
    setCap s i { c with fifo := c.fifo ++ [(q / 4000000000, q % 4000000000, falling, c.edges)]
                        last := some elapsed }

/-- TS_LOST, once the queue has a free entry (R97): the host's copy, and firmware's, which waits where its
queue is full. -/
def stampLostNotice (s : State) (p : Nat) : State :=
  let x := stampsOf s p
  if x.lost ≠ 0 ∧ x.entries.length < 16 ∧ x.note = none then
    let s := notice (setStamps s p { x with lost := 0 }) 0x0403 p (x.lost % 2 ^ 32) true false
    let ws := timWords s 0x0403 p (x.lost % 2 ^ 32)
    match timPost s ws with
    | (true, s) => s
    | (false, s) => setStamps s p { stampsOf s p with note := some ws }
  else s

/-- The packet or head entry of port `p`'s stamp queue posted to its consumer, if that accepts it. -/
def postStamp (s : State) (p : Nat) : Option State :=
  let x := stampsOf s p
  match x.note, x.entries with
  | some ws, _ =>
    match timPost s ws with
    | (true, s) => some (stampLostNotice (setStamps s p { stampsOf s p with note := none }) p)
    | (false, _) => none
  | none, e :: rest =>
    let taken := fun (s : State) => stampLostNotice (setStamps s p { stampsOf s p with entries := rest }) p
    match e.dest with
    | .rawTx id => some (taken (stamped s p id 0 (e.sec % 2 ^ 32) e.nsq))
    | .firmware ident =>
      match timPost s (timWords s 0x0402 p (noticeStamp (e.sec * 4000000000 + e.nsq) + ident % 65536 * 2 ^ 48)) with
      | (true, s) => some (taken s)
      | (false, _) => none
  | none, [] => none

/-- DETAIL of CAPTURE: the stamp; byte 14 holds the edge in bit 7 and count bits 14:8 below it, byte 15
count bits 7:0. DEDUCED (log 57): the one order of the two bytes in which no bit means two things (Table 3-9). -/
def captureDetail (q n : Nat) (falling : Bool) : Nat :=
  noticeStamp q + (b2n falling * 128 + n / 256 % 128) * 2 ^ 48 + n % 256 * 2 ^ 56

/-- The packet or head entry of capture `i`'s FIFO posted, if its queue accepts it. -/
def postCapture (s : State) (i : Nat) : Option State :=
  let c := capOf s i
  match c.note, c.fifo with
  | some ws, _ =>
    match timPost s ws with
    | (true, s) => some (capLostNotice (setCap s i { capOf s i with note := none }) i)
    | (false, _) => none
  | none, (sec, nsq, falling, n) :: rest =>
    match timPost s (timWords s 0x0404 i (captureDetail (sec * 4000000000 + nsq) n falling)) with
    | (true, s) => some (capLostNotice (setCap s i { capOf s i with fifo := rest }) i)
    | (false, _) => none
  | none, [] => none

/-- One entry moved by the posting engine: the next source, in round-robin order, whose consumer
accepts (R96). -/
def stampPost (s : State) : State :=
  let order := (List.range 46).map fun i => (s.tim.lastPosted + 1 + i) % 46
  let go := fun src => (if src < 38 then postStamp s src else postCapture s (src - 38)).map
    fun s => setTim s { s.tim with lastPosted := src }
  (order.findSome? go).getD s

/-! ### References (R105, R106, R114) -/

/-- The condition of Table 4-4 for a WORD reference: PRESENT, and the derived period near T. -/
def wordGood (s : State) : Bool :=
  s.tim.wclk.present &&
    near1000ppm s (regFld s HOOP_WORD 15 0 * sumNat s.tim.wclk.periods) (64 * max (regFld s HOOP_WORD 31 16) 1)

/-- The condition for a PIN reference: 8 consecutive intervals near T. -/
def pinGood (s : State) : Bool :=
  decide (s.hoop.ref.intervals.length = 8) && s.hoop.ref.intervals.all fun i => near1000ppm s i 1

/-- REF moves by Table 4-4; on LOCKED the next edge becomes the anchor, on HOLD the grid goes on without
the reference. -/
def judgeRef (s : State) (good : Bool) : State :=
  match s.hoop.ref.state, good with
  | .wait, true => setRefState (setHoop s { s.hoop with ref := { s.hoop.ref with anchorNext := true } }) .locked
  | .hold, true => setRefState (setHoop s { s.hoop with ref := { s.hoop.ref with anchorNext := true } }) .locked
  | .locked, false => setRefState (if s.hoop.ref.anchorNext then s else coastOn s) .hold
  | _, _ => s

/-- An active edge of the reference in use: its stamp and its count from the anchor (R110). -/
def refEdge (s : State) (q elapsed : Nat) : State :=
  let r := s.hoop.ref
  let count := if r.anchorNext then 0 else match r.edge with
    | some e => e.count + 1
    | none => 0
  setHoop s { s.hoop with ref :=
    { r with edge := some ⟨q, elapsed, count⟩
             anchorNext := if r.state = .locked then false else r.anchorNext } }

/-- WCLK_STATE (R105). -/
def wclkNotice (s : State) : State :=
  noticeBoth s 0x0407 0 (b2n s.tim.wclk.present + (sumNat s.tim.wclk.periods) % 2 ^ 24 * 256)

/-- An active word-clock edge (R105, R106, R114). -/
def wclkActive (s : State) (q elapsed : Nat) : State :=
  let w := s.tim.wclk
  let period := w.lastElapsed.map fun e => elapsed - e
  let good := match period, w.lastPeriod with
    | some p, some p' => if ((p : Int) - p').natAbs * 1024 ≤ p' then w.good + 1 else 0
    | _, _ => 0
  let w' : WordClock :=
    { w with
      lastElapsed := some elapsed, lastDevice := q, lastPeriod := period, good := good
      present := w.present || decide (64 ≤ good)
      periods := match period with
        | some p => (p :: w.periods).take 64
        | none => w.periods
      div := w.div + 1 }
  let s := setTim s { s.tim with wclk := w' }
  let s := if w'.present && !w.present then wclkNotice s else s
  let n := regFld s TIM_WCLK_CTRL 15 0
  let s :=
    if (if n = 0 then 65536 else n) ≤ w'.div then
      let s := setTim s { s.tim with wclk := { s.tim.wclk with div := 0 } }
      if regBit s (TIM_CAP_CTRL 7) 31 && regBit s (TIM_CAP_CTRL 7) 28 then
        captureEdge s 7 q elapsed (regBit s TIM_WCLK_CTRL 30)
      else s
    else s
  if hoopMode s = 2 then
    let s := refEdge s q elapsed
    let good := wordGood s
    let s := if good then setHoop s { s.hoop with
        ref := { s.hoop.ref with period64 := sumNat s.tim.wclk.periods } } else s
    judgeRef s good
  else s

/-- An edge on WCLK_IN, `phase` sixteenths into this cycle. -/
def wclkEdge (s : State) (phase : Nat) (rising : Bool) : State :=
  if regBit s TIM_WCLK_CTRL 31 && (rising != regBit s TIM_WCLK_CTRL 30) then
    wclkActive s (rawStamp s (phase % 16)) (s.tim.elapsedQ + phase % 16)
  else s

/-- No word-clock edge within four periods: PRESENT falls (R105), and a WORD reference goes to HOLD. -/
def wclkTimeout (s : State) : State :=
  match s.tim.wclk.lastElapsed, s.tim.wclk.lastPeriod with
  | some e, some p =>
    if s.tim.wclk.present then
      let s := runToCycle ((e + 4 * p + 15) / 16) s
      let s := wclkNotice (setTim s { s.tim with wclk := { s.tim.wclk with present := false, good := 0, lastElapsed := none, lastPeriod := none } })
      if hoopMode s = 2 then judgeRef s false else s
    else s
  | _, _ => s

/-- A PIN reference edge (R110, R114). -/
def pinEdge (s : State) (q elapsed : Nat) : State :=
  let r := s.hoop.ref
  let ivs := match r.edge with
    | some e => ((elapsed - e.elapsed) :: r.intervals).take 8
    | none => r.intervals
  let s := setHoop s { s.hoop with ref := { r with intervals := ivs } }
  let s := refEdge s q elapsed
  let good : Bool := match r.state with
    | .locked => match ivs with
      | i :: _ => near1000ppm s i 1
      | [] => true
    | _ => pinGood s
  let s := if good && decide (ivs.length = 8) then setHoop s { s.hoop with
      ref := { s.hoop.ref with period64 := sumNat ivs / 8 * 64 } } else s
  judgeRef s good

/-- An edge on TIN`i`: captured where the capture selects it, and used where it is the hoop's pin
reference (R104, R114). -/
def tinEdge (s : State) (i phase : Nat) (falling : Bool) : State :=
  let q := rawStamp s (phase % 16)
  let el := s.tim.elapsedQ + phase % 16
  let sel := regFld s (TIM_CAP_CTRL i) 30 29
  let wanted := regBit s (TIM_CAP_CTRL i) 31 && (if falling then decide (2 ≤ sel) else decide (sel = 1 ∨ sel = 3))
  let s := if wanted && !(decide (i = 7) && regBit s (TIM_CAP_CTRL 7) 28) then captureEdge s i q el falling else s
  if hoopMode s = 3 ∧ regFld s HOOP_MODE 26 24 = i ∧ falling = regBit s HOOP_MODE 28 then pinEdge s q el else s

/-- In PIN mode no edge arrives within 1.5 × T: the reference goes to HOLD (Table 4-4). -/
def pinTimeout (s : State) : State :=
  match s.hoop.ref.edge with
  | some e =>
    if hoopMode s = 3 ∧ s.hoop.ref.state = .locked then
      let s := runToCycle ((e.elapsed + 3 * periodNum s / (2 * max (periodDen s) 1) + 15) / 16) s
      judgeRef (setHoop s { s.hoop with ref := { s.hoop.ref with intervals := [] } }) false
    else s
  | none => s

/-! ### Meanings -/

/-- SLEW_BLOCK_END (R84): time passes to the end of the slew block in progress. -/
def execSlewBlockEnd (s : State) : Host.Outcome State Fault Refusal := done (tick (1024 - s.tim.blk) s)
/-- TIM_RATE_WRITE (R85). -/
def execTimRateWrite (v : Word) (s : State) : Host.Outcome State Fault Refusal := done (writeTimRate s v)
/-- TIM_WATCH_WRITE (R99). -/
def execTimWatchWrite (v : Word) (s : State) : Host.Outcome State Fault Refusal := done (writeMasterCtrl s v)
/-- ANNOUNCE_TIMEOUT (R99). -/
def execAnnounceTimeout (s : State) : Host.Outcome State Fault Refusal := done (announceTimeout s)
/-- STAMP_POST (R96). -/
def execStampPost (s : State) : Host.Outcome State Fault Refusal := done (stampPost s)
/-- PULSE_ARM: a write of TIM_PULSE_CTRL(i) with ARM set (R102). -/
def execPulseArm (i : Nat) (v : Word) (s : State) : Host.Outcome State Fault Refusal := done (writePulseCtrl s i (v ||| 0x80000000))
/-- PULSE_STOP: a write of TIM_PULSE_CTRL(i) with STOP set (R101). -/
def execPulseStop (i : Nat) (v : Word) (s : State) : Host.Outcome State Fault Refusal := done (writePulseCtrl s i (v ||| 0x40000000))
/-- PULSE_EDGE (R102). -/
def execPulseEdge (i : Nat) (s : State) : Host.Outcome State Fault Refusal := done (pulseEdge s i)
/-- PULSE_WIDTH_END (R101). -/
def execPulseWidthEnd (i : Nat) (s : State) : Host.Outcome State Fault Refusal := done (pulseWidthEnd s i)
/-- WCLK_TIMEOUT (R105). -/
def execWclkTimeout (s : State) : Host.Outcome State Fault Refusal := done (wclkTimeout s)
/-- PIN_REF_TIMEOUT (R114). -/
def execPinRefTimeout (s : State) : Host.Outcome State Fault Refusal := done (pinTimeout s)

end Sys2Proof.Machine
end

