-- ==== Sys2Proof/Machine/Hif.lean ====
section
/-! DEFINITION. Machine/Hif.lean: rings, polling, fetching, completion records, ABORT, ring disable
and the resets of the host interface (chapter 2), with the meanings of their commands. -/
namespace Sys2Proof.Machine

def setHif (s : State) (h : Hif) : State := { s with hif := h }

/-! ### The opcode table (Table 2-6, R52) -/

/-- Whether OBJECT is in the range Table 2-6 gives the opcode; none for an opcode not in the table. -/
def objectOk (op obj : Nat) : Option Bool :=
  let is := fun (b : Bool) => some b
  match op with
  | 0x01 => is (decide (obj < 1024)) | 0x02 => is (decide (obj < 1024)) | 0x03 => is (decide (obj < 1024))
  | 0x04 => is (decide (obj < 1024)) | 0x05 => is (decide (obj < 1024)) | 0x06 => is (decide (obj < 1024))
  | 0x10 => is (decide (obj = 0)) | 0x11 => is (decide (obj < 7)) | 0x12 => is (decide (obj < 7))
  | 0x13 => is (decide (obj < 32)) | 0x14 => is (decide (1 ≤ obj ∧ obj < 256)) | 0x15 => is (decide (obj < 32))
  | 0x16 => is (decide (obj = 0)) | 0x17 => is (decide (obj = 0))
  | 0x20 => is (decide (obj < 16384)) | 0x21 => is (decide (obj < 16384)) | 0x22 => is (decide (obj < 38))
  | 0x23 => is (decide (obj < 32)) | 0x24 => is (decide (obj = 0))
  | 0x30 => is (decide (obj < 38)) | 0x31 => is (decide (obj < 38)) | 0x32 => is (decide (obj < 38))
  | 0x40 => is (decide (obj = 0)) | 0x41 => is (decide (obj = 0)) | 0x42 => is (decide (obj = 0))
  | 0x43 => is (decide (obj = 0)) | 0x44 => is (decide (obj < 4096)) | 0x45 => is (decide (obj < 4096))
  | 0x60 => is (decide (obj < 64)) | 0x61 => is (decide (obj = 0)) | 0x62 => is (decide (obj = 0))
  | 0x70 => is (decide (obj = 0)) | 0x71 => is (decide (obj = 0)) | 0x72 => is (decide (obj < 1024))
  | 0x73 => is (decide (obj = 0))
  | _ => none

/-- The opcodes that allow AT_HOOP (Table 2-6). -/
def mayAtHoop (op : Nat) : Bool :=
  [0x04, 0x05, 0x10, 0x13, 0x14, 0x15, 0x16, 0x17, 0x20, 0x21, 0x22, 0x24, 0x42, 0x70].contains op

/-- The opcodes that join a commit window with or without AT_HOOP (Table 2-11). -/
def joinsWindow (op : Nat) : Bool := mayAtHoop op

/-- ARG words `lo` to 9 are all zero. -/
def argsZeroFrom (d : Desc) (lo : Nat) : Bool := (d.args.drop lo).all fun w => decide (w = 0)

/-- HOST_ADDR and LENGTH are zero. -/
def noData (d : Desc) : Bool := decide (d.hostAddr = 0 ∧ d.length = 0)

/-- The checks R52 and R68 make of every descriptor of ring `n`, before those of its opcode. -/
def malformed (s : State) (n : Nat) (d : Desc) : Bool :=
  let ahead := (d.target - s.hoop.number).toNat
  match objectOk d.opcode d.object with
  | none => true
  | some ok =>
    !ok || decide (16 ≤ d.flags) || (Desc.atHoop d && !mayAtHoop d.opcode) ||
    (!Desc.atHoop d && decide (d.target ≠ 0)) ||
    (Desc.atHoop d && decide (16777216 < ahead ∧ ahead < 2 ^ 31)) ||
    (sqControl s n && !decide (0x60 ≤ d.opcode ∧ d.opcode ≤ 0x62))

/-- Motif control descriptors are taken only from a ring that carries motif control (R55). -/
def motifRefused (s : State) (n : Nat) (d : Desc) : Bool :=
  decide (d.opcode = 0x20 ∨ d.opcode = 0x21) && !sqMotif s n

/-! ### Fetching (R46, R48, R50, R64, R67, R69) -/

/-- Whether entry `t` may start, given the entries of its ring before it (R64). -/
def mayStart (s : State) (t : Track) : Bool :=
  s.hif.track.all fun u =>
    decide (u.ring ≠ t.ring) || decide (t.id ≤ u.id) || u.orphan ||
      (decide (u.phase ≠ .held) && (decide (u.desc.opcode ≠ 0x61) || u.phase.finished) &&
        (!Desc.ordered t.desc || u.phase.finished))

/-- A descriptor that may start: it finishes at once where R52, R55 or R56 decide it, else it is on
its way to its block. -/
def release (s : State) (id : Nat) : State :=
  match findTrack s id with
  | some t =>
    if malformed s t.ring t.desc then finish s id stBad 0 0
    else if motifRefused s t.ring t.desc then finish s id stState 0 0
    else if t.desc.opcode = 0x62 then
      finish s id (if noData t.desc && argsZeroFrom t.desc 0 then stOk else stBad) 0 0
    else if t.desc.opcode = 0x61 then
      if noData t.desc && argsZeroFrom t.desc 0 then settleFences (running s id) t.ring
      else finish s id stBad 0 0
    else modTrack s id fun t => { t with phase := .ready }
  | none => s

/-- The in-flight count after a fetch: MAX, and INFLIGHT_LIMIT at 512 (R69). -/
def noteInFlight (s : State) : State :=
  let n := inFlight s
  let s := if regFld s HIF_INFLIGHT 9 0 < n then setRegFld s HIF_INFLIGHT 9 0 n else s
  if n = 512 ∧ s.hif.limitArmed = true then
    notice (setHif s { s.hif with limitArmed := false }) 0x0102 0 s.hoop.number.toNat true false
  else s

/-- One descriptor fetched from ring `n`: it enters the tracker and HEAD(n) passes it. -/
def fetchOne (n : Nat) (s : State) (d : Desc) : State :=
  let id := s.hif.nextId
  let t : Track :=
    { id := id, ring := n, cq := sqCq s n, handed := 0, origin := .host, desc := d, phase := .held, past := false, late := false,
      control := sqControl s n, waits := [], fwd := false, fin := 0, orphan := false }
  let s := setHif s { s.hif with
    track := s.hif.track ++ [t], nextId := id + 1
    head := tput (fun _ => 0) s.hif.head n (headOf s n + 1)
    headDirty := tput (fun _ => false) s.hif.headDirty n true }
  let s := noteInFlight s
  if mayStart s t then release s id else s

/-- Slots of ring `n` that may be fetched now: 0 where it is out of service, faulted, or bound to a
completion ring that is not enabled (R81), or where no tracker slot is free. -/
def fetchable (s : State) (n : Nat) : Nat :=
  if engineRuns s && sqEnabled s n && !tget (fun _ => false) s.hif.fault n && cqEnabled s (sqCq s n) then
    let room := if sqControl s n then 16 - inFlightControl s else 512 - inFlight s
    min ((tailOf s n - headOf s n).toNat) room
  else 0

/-- Descriptors per turn: BURST, where 0 means 16. -/
def burstOf (s : State) (n : Nat) : Nat :=
  let b := regFld s (HIF_SQ_CTRL n) 11 8
  if b = 0 then 16 else b

/-- The ring served next (R50). -/
def nextRing (s : State) : Option Nat :=
  roundRobin 64 s.hif.lastRing fun n => decide (fetchable s n ≠ 0)

/-- The read requests for the next `k` slots of ring `n`: one where they are contiguous, else one on each
side of the ring's end (R43, R50). -/
def slotReads (s : State) (n k : Nat) : List HostWrite :=
  let h := headOf s n
  let a := min k (sqSize s n - h.toNat % sqSize s n)
  .read (sqAddr s n h) (64 * a) :: (if a < k then [.read (sqAddr s n 0) (64 * (k - a))] else [])

/-- The next slots of ring `n`, holding `slots`, are read and fetched. -/
def fetchSlots (s : State) (n : Nat) (slots : List Desc) : State :=
  slots.foldl (fetchOne n) { s with out := s.out ++ slotReads s n slots.length }

/-- A fetch of the next ring in turn; `slots` is what the host's memory holds in its next slots. -/
def fetch (s : State) (slots : List Desc) : State :=
  match nextRing s with
  | some n => fetchSlots (setHif s { s.hif with lastRing := n }) n (slots.take (min (burstOf s n) (fetchable s n)))
  | none => s

/-- RING_FAULT with cause `why` (Table 2-10): the ring stops until it is disabled and enabled again. -/
def ringFault (s : State) (n why addr : Nat) : State :=
  noticeBoth (setHif s { s.hif with fault := tput (fun _ => false) s.hif.fault n true }) 0x0101 n
    (why + addr % 2 ^ 32 * 2 ^ 32)

/-- A read of descriptor slots failed on PCIe at `addr` (R46). -/
def fetchFail (s : State) (addr : Nat) : State :=
  match nextRing s with
  | some n => ringFault (setHif s { s.hif with lastRing := n }) n 3 addr
  | none => s

/-- The descriptor of ring `n` that starts next: the first in ring order that is on its way to its block, or
was held back and may start now (R64). -/
def nextToStart (s : State) (n : Nat) : Option Track :=
  s.hif.track.find? fun t => decide (t.ring = n) &&
    (decide (t.phase = .ready) || (decide (t.phase = .held) && mayStart s t))

/-! ### Polling (R44, R45, R46, R49) -/

/-- INTERVAL as it acts: 0 as 1, above 200 as 200. -/
def pollInterval (s : State) : Nat := min (max (regFld s HIF_POLL 7 0) 1) 200

/-- HEAD(n) written to the head page where it has changed (R48). -/
def writeHead (s : State) (n : Nat) : State :=
  if tget (fun _ => false) s.hif.headDirty n then
    setHif { s with out := s.out ++ [.head n (addrPair s HIF_HEADPG_LO HIF_HEADPG_HI + 4 * n) (headOf s n)] }
      { s.hif with headDirty := tput (fun _ => false) s.hif.headDirty n false }
  else s

/-- A poll is issued at its time: the previous issue plus INTERVAL × 0.5 µs, or at once where that
has passed. Heads that have changed are written. -/
def pollIssue (s : State) : State :=
  if regBit s HIF_CTRL 1 && !s.hif.pollOut then
    let s := match s.hif.pollAt with
      | some t => runToCycle (t + pollInterval s * 125) s
      | none => s
    let s := setHif { s with out := s.out ++ [.read (addrPair s HIF_PAGE_LO HIF_PAGE_HI) 512] }
      { s.hif with pollOut := true, pollAt := some s.tim.cyc }
    (List.range 64).foldl writeHead s
  else s

/-- TAIL(n) as a poll returned it (R46). -/
def takeTail (s : State) (n : Nat) (v : Word) : State :=
  if sqEnabled s n && !tget (fun _ => false) s.hif.fault n then
    if sqSize s n < (v - headOf s n).toNat then ringFault s n 1 0
    else setHif s { s.hif with tail := tput (fun _ => 0) s.hif.tail n v }
  else s

/-- RELEASE(m) as a poll returned it (R49). -/
def takeRelease (s : State) (m : Nat) (v : Word) : State :=
  if cqEnabled s m then
    if later (prodOf s m) v then noticeBoth (latch s HIF_ERR 2) 0x0101 m 2
    else flushLost (setHif s { s.hif with release := tput (fun _ => 0) s.hif.release m v })
  else s

/-- Poll data returns: every TAIL and RELEASE, or a failed read (R45). -/
def pollReturn (s : State) (ok : Bool) (tails releases : List Word) (addr : Nat) : State :=
  if s.hif.pollOut then
    let s := setHif s { s.hif with pollOut := false }
    if ok then
      let s := (List.range 64).foldl (fun s m => takeRelease s m ((releases[m]?).getD 0)) s
      (List.range 64).foldl (fun s n => takeTail s n ((tails[n]?).getD 0)) s
    else noticeBoth (latch s HIF_ERR 0) 0x0104 0 (addr % 2 ^ 64)
  else s

/-! ### Completion records (R57, R61, R64, R66, R71) -/

/-- The completion record of a finished descriptor (Table 2-7). -/
def recordBytes (t : Track) (phase st r0 r1 : Nat) (hoop : Hoop) : List Byte :=
  leBytes 2 t.desc.tag ++ leBytes 1 st ++ leBytes 1 (phase * 128 + t.ring) ++ leBytes 4 hoop.toNat ++
    leBytes 4 r0 ++ leBytes 4 r1

/-- The record of `t` may be written: its status is decided and every record it waits for is written. -/
def recordReady (s : State) (t : Track) : Bool :=
  match t.phase with
  | .done .. => t.waits.all fun w => decide (findTrack s w = none)
  | _ => false

/-- The next record of completion ring `m`, in the order the descriptors finished. -/
def nextRecord (s : State) (m : Nat) : Option Track :=
  (s.hif.track.filter fun t => decide (t.ring < 64 ∧ t.cq = m) && recordReady s t).foldl
    (fun best t => match best with
      | some b => if t.fin < b.fin then some t else some b
      | none => some t) none

/-- The next completion record of ring `m` is written, if the ring takes records and has a free entry: HEAD
first where the record's descriptor is newly covered (R48), then the record, then the interrupt. -/
def completionWrite (s : State) (m : Nat) : State :=
  if engineRuns s && cqEnabled s m && !cqNotice s m && cqRoom s m then
    match nextRecord s m with
    | some t =>
      match t.phase with
      | .done st r0 r1 hoop =>
        let s := writeHead s t.ring
        let p := prodOf s m
        let s := { s with out := s.out ++
          [.completion m p.toNat (cqAddr s m p) (recordBytes t (phaseBit p (cqLog s m)) st r0 r1 hoop)] }
        let s := setHif s { s.hif with prod := tput (fun _ => 0) s.hif.prod m (p + 1) }
        dropTrack (countRecord s (cqVector s m) (Desc.urgent t.desc)) t.id
      | _ => s
    | none => s
  else s

/-- A vector's moderation timer reaches TIME µs (R79). -/
def vectorTimer (s : State) (v : Nat) : State :=
  let x := vecOf s v
  let n := regFld s (HIF_VEC_MOD v) 25 16
  if x.timerRunning && decide (n ≠ 0) then
    signalVector (runToCycle (x.timerStart + n * 250) s) v
  else s

/-- A vector is unmasked: one message where its pending bit is set (R80). -/
def msixUnmask (s : State) (v : Nat) : State :=
  let s := setReg s (MSIX_CTRL v) 0
  if (vecOf s v).pending then
    { setVec s v { vecOf s v with pending := false } with out := s.out ++ [.message v] }
  else s

/-! ### ABORT (R70 to R72) -/

/-- A descriptor leaves every list of the commit window it may stand in. -/
def leaveWindow (s : State) (id : Nat) : State :=
  let keep := fun (l : List Member) => l.filter fun m => decide (m.id ≠ id ∨ m.origin ≠ .host)
  { s with win := { s.win with members := keep s.win.members, held := keep s.win.held
                               waiting := keep s.win.waiting } }

/-- Entries `ids` of ring `n` end without effect, before their points of no return, in one cycle; then what
is left on the ring sees who has completed. -/
def removeJobs (s : State) (n : Nat) (ids : List Nat) (st : Nat) : State :=
  settleRing (ids.foldl (fun s id =>
    decideOne (leaveWindow (modTrack s id fun t => { t with fwd := false }) id) id st 0 0 s.hoop.number) s) n

/-- The in-flight descriptors an ABORT may target on ring `r`: all but ABORT and NOP (R70). -/
def abortable (s : State) (r : Nat) : List Track :=
  s.hif.track.filter fun t =>
    decide (t.ring = r) && !t.orphan && decide (t.desc.opcode ≠ 0x60 ∧ t.desc.opcode ≠ 0x62)

/-- ABORT of entry `id` of ring `ring` (Table 2-12). -/
def runAbort (s : State) (id : Nat) (d : Desc) : State :=
  let a := darg d 0
  if !(noData d && argsZeroFrom d 1 && decide (bits a 30 16 = 0)) then finish s id stBad 0 0
  else
    let all := abortable s (d.object % 64)
    let targets := if bitOf a 31 then all
      else (all.filter fun t => decide (t.desc.tag = a % 65536)).take 1
    let live := targets.filter fun t => !t.past && !t.phase.finished
    let st := if targets = [] then stNotFound else if live = [] then stTooLate else stOk
    let s := removeJobs s (d.object % 64) (live.map (·.id)) stAborted
    finish (modTrack s id fun t => { t with waits := targets.map (·.id) }) id st 0 0

/-! ### Ring enable and disable (R59, R73 to R77) -/

/-- BAD_CONFIG. -/
def badConfig (s : State) : State := latch s HIF_ERR 4

/-- The fields of a ring control write other than ENABLE differ from those stored. -/
def otherFields (old v mask : Word) : Bool := decide ((old ^^^ v) &&& mask &&& 0x7FFFFFFF ≠ 0)

/-- Ring `n` is taken out of service: what is not past its point of no return completes FLUSHED. -/
def disableRing (s : State) (n : Nat) : State :=
  let s := setHif s { s.hif with draining := tput (fun _ => false) s.hif.draining n true }
  let live := s.hif.track.filter fun t => decide (t.ring = n) && !t.past && !t.phase.finished && !t.orphan
  afterLeave (removeJobs s n (live.map (·.id)) stFlushed) n

/-- A write of HIF_SQ_CTRL(n). -/
def writeSqCtrl (s : State) (n : Nat) (v : Word) : State :=
  let old := reg s (HIF_SQ_CTRL n)
  let l := fld v 4 0
  if bitW old 31 then
    let s := if otherFields old v 0xE03F0F1F then badConfig s else s
    if bitW v 31 then s
    else disableRing (setReg s (HIF_SQ_CTRL n) (old &&& 0x7FFFFFFF)) n
  else if bitW v 31 then
    if l < 4 ∨ 16 < l ∨ cqNotice s (fld v 21 16) = true then badConfig s
    else
      setHif (plainWrite s (HIF_SQ_CTRL n) v)
        { s.hif with head := tput (fun _ => 0) s.hif.head n 0
                     tail := tput (fun _ => 0) s.hif.tail n 0
                     fault := tput (fun _ => false) s.hif.fault n false
                     headDirty := tput (fun _ => false) s.hif.headDirty n
                       (tget (fun _ => false) s.hif.headDirty n || decide (headOf s n ≠ 0))
                     draining := tput (fun _ => false) s.hif.draining n false }
  else plainWrite s (HIF_SQ_CTRL n) v

/-- Completion ring `m` is bound to an enabled submission ring, or to a descriptor in flight (R75). DESIGN
CHOICE (log 53): a descriptor is bound to the ring that its submission ring's CQ named at its fetch. -/
def cqInUse (s : State) (m : Nat) : Bool :=
  ((List.range 64).any fun n => sqEnabled s n && decide (sqCq s n = m)) ||
    s.hif.track.any fun t => decide (t.ring < 64 ∧ t.cq = m) && !t.orphan

/-- A write of HIF_CQ_CTRL(m). DESIGN CHOICE (log 54): from the enable to the next poll, RELEASE(m) is taken
as the 0 that R76 has the host write. -/
def writeCqCtrl (s : State) (m : Nat) (v : Word) : State :=
  let old := reg s (HIF_CQ_CTRL m)
  let l := fld v 4 0
  if bitW old 31 then
    if bitW v 31 then (if otherFields old v 0xC03F001F then badConfig s else s)
    else
      let s := if otherFields old v 0xC03F001F then badConfig s else s
      if cqInUse s m then latch s HIF_ERR 3 else setReg s (HIF_CQ_CTRL m) (old &&& 0x7FFFFFFF)
  else if bitW v 31 then
    let named := (List.range 64).any fun n => sqEnabled s n && decide (sqCq s n = m)
    if l < 4 ∨ 16 < l ∨ (bitW v 30 = true ∧ ((noticeRing s).isSome = true ∨ named = true)) then badConfig s
    else
      setHif (plainWrite s (HIF_CQ_CTRL m) v)
        { s.hif with prod := tput (fun _ => 0) s.hif.prod m 0
                     release := tput (fun _ => 0) s.hif.release m 0 }
  else plainWrite s (HIF_CQ_CTRL m) v

/-- A write of a ring's base address. R74 names the control registers only; DEDUCED (log 55): while the ring
is enabled its base is refused alike, with BAD_CONFIG. -/
def writeBase (s : State) (a : Nat) (enabled : Bool) (v : Word) : State :=
  if enabled then badConfig s else plainWrite s a v

/-- A write of HIF_CTRL (R394): dropped notices are reported as soon as records can be written. -/
def writeHifCtrl (s : State) (v : Word) : State := flushLost (plainWrite s HIF_CTRL v)

/-! ### Resets of the host interface (R78, R98) -/

/-- The queued RAW_TX stamps of discarded descriptors are removed (R98). -/
def dropRawStamps (s : State) : State :=
  (List.range 38).foldl (fun s p =>
    let x := stampsOf s p
    setStamps s p { x with entries := x.entries.filter fun e =>
      match e.dest with
      | .rawTx _ => false
      | .firmware _ => true }) s

/-- A function-level reset, hot reset or loss of the link (R78): rings and polling stop, descriptors
are discarded without a record, HIF registers return to reset. What is past its point of no return
still takes effect; a closed, accepted set still applies. -/
def hifReset (s : State) : State :=
  let keep := (s.hif.track.filter fun t => decide (t.ring = twinRing) || (t.past && !t.phase.settled)).map
    fun t => if t.ring = twinRing then t else { t with orphan := true, fwd := false }
  let s := dropRawStamps s
  { s with
    hif := { Hif.reset with track := keep, nextId := s.hif.nextId, nextFin := s.hif.nextFin,
                            nextHanded := s.hif.nextHanded }
    win := { s.win with members := s.win.members.filter fun m => decide (m.origin ≠ .host)
                        held := s.win.held.filter fun m => decide (m.origin ≠ .host)
                        waiting := s.win.waiting.filter fun m => decide (m.origin ≠ .host) }
    regs := s.regs.filter fun r => !(decide (0x8000 ≤ r.1 ∧ r.1 < 0x20000))
    fresh := s.fresh.filter fun r => !(decide (0x8000 ≤ r.1 ∧ r.1 < 0x20000)) }

/-- A BOOT push in progress ends with ERR 5 when the host's memory can no longer be read (R393). -/
def failPush (s : State) : State :=
  if s.boot.pushing.isSome then
    { s with boot := { s.boot with state := .failed, err := 5, busy := false, pushing := none } }
  else s

/-! ### Meanings -/

/-- POLL_ISSUE (R45). -/
def execPollIssue (s : State) : Host.Outcome State Fault Refusal := done (pollIssue s)
/-- POLL_RETURN (R46). -/
def execPollReturn (ok : Bool) (tails releases : List Word) (addr : Nat) (s : State) :
    Host.Outcome State Fault Refusal := done (pollReturn s ok tails releases addr)
/-- DESCRIPTOR_FETCH (R50). -/
def execDescriptorFetch (slots : List Desc) (s : State) : Host.Outcome State Fault Refusal :=
  done (fetch s slots)
/-- DESCRIPTOR_READ_FAIL (R46). -/
def execDescriptorReadFail (addr : Nat) (s : State) : Host.Outcome State Fault Refusal :=
  done (fetchFail s addr)
/-- COMPLETION_WRITE (R61). -/
def execCompletionWrite (m : Nat) (s : State) : Host.Outcome State Fault Refusal :=
  done (completionWrite s m)
/-- VECTOR_TIMER_EXPIRY (R79). -/
def execVectorTimerExpiry (v : Nat) (s : State) : Host.Outcome State Fault Refusal :=
  done (vectorTimer s v)
/-- MSIX_UNMASK (R80). -/
def execMsixUnmask (v : Nat) (s : State) : Host.Outcome State Fault Refusal := done (msixUnmask s v)
/-- NOTICES_LOST (R61). -/
def execNoticesLost (s : State) : Host.Outcome State Fault Refusal := done (flushLost s)

/-- CQ_ENABLE: a write of HIF_CQ_CTRL(m) with ENABLE = 1 (R77). -/
def execCqEnable (m : Nat) (v : Word) (s : State) : Host.Outcome State Fault Refusal :=
  done (writeCqCtrl s m (v ||| 0x80000000))
/-- CQ_DISABLE: a write of HIF_CQ_CTRL(m) with ENABLE = 0 (R75). -/
def execCqDisable (m : Nat) (v : Word) (s : State) : Host.Outcome State Fault Refusal :=
  done (writeCqCtrl s m (v &&& 0x7FFFFFFF))
/-- HIF_CTRL_WRITE (R394). -/
def execHifCtrlWrite (v : Word) (s : State) : Host.Outcome State Fault Refusal := done (writeHifCtrl s v)
/-- POLL_INTERVAL_WRITE (R45): the next poll not yet issued takes the new interval. -/
def execPollIntervalWrite (v : Word) (s : State) : Host.Outcome State Fault Refusal :=
  done (plainWrite s HIF_POLL v)
/-- BAR2_WRITE (R42). -/
def execBar2Write (addr : Nat) (_v : Word) (s : State) : Host.Outcome State Fault Refusal :=
  if addr < 2 ^ 32 then done (latch s HIF_ERR 6) else .fault .outsideBar

/-- PERST_N_RISE (R385). -/
def execPerstNRise (s : State) : Host.Outcome State Fault Refusal :=
  done { s with pcie := { s.pcie with perstHigh := true } }

/-- PCIE_LINK_UP (R385): training completes, while neither PERST_N nor the internal reset holds it. -/
def execPcieLinkUp (s : State) : Host.Outcome State Fault Refusal :=
  done (if s.pcie.perstHigh && resetReleased s then
    { s with pcie := { s.pcie with linkUp := true } } else s)
end Sys2Proof.Machine
end

