-- ==== Sys2Proof/Machine/Hoop.lean ====
section
/-! DEFINITION. Machine/Hoop.lean: hoop boundaries and their grids, starting and stopping the
generator, the abort of a hoop, and the power states of the package memory stacks (chapter 4). -/
namespace Sys2Proof.Machine

/-! ### Settings in force -/

/-- HOOP_LEAD(i) in ns: 0 P, 1 commit, 2 ingest, 3 launch, 4 egress. -/
def lead (s : State) (i : Nat) : Nat := regFld s (HOOP_LEAD i) 20 0

/-- A lead in quarter-ns. -/
def leadQ (s : State) (i : Nat) : Nat := 4 * lead s i

/-- ALIGN, signed quarter-ns. -/
def hoopAlign (s : State) : Int := sext 32 (reg s HOOP_ALIGN).toNat

/-- SLEW_LIMIT in quarter-ns: 1 to 20 µs, 0 as 1, above 20 as 20. -/
def slewLimitQ (s : State) : Nat := min (max (regFld s HOOP_MODE 20 16) 1) 20 * 4000

/-- The shortening limit S: launch lead minus egress lead (R111). -/
def shortenQ (s : State) : Nat := leadQ s 3 - leadQ s 4

/-- A rate that R109 allows. -/
def rateOk (num den : Nat) : Bool := decide (1 ≤ den ∧ 20 * den ≤ num ∧ num ≤ 250 * den)

/-- The leads' ranges (Table 1-2), their order, and the 20 µs between launch and egress (R24). -/
def leadsOk (p c i l e : Nat) : Bool :=
  decide (p ≤ 1000000 ∧ 100000 ≤ c ∧ c ≤ 2000000 ∧ 50000 ≤ i ∧ i ≤ 2000000 ∧ 20000 ≤ l ∧
    l ≤ 1000000 ∧ 5000 ≤ e ∧ e ≤ 500000 ∧ i < c ∧ l < i ∧ e < l ∧ e + 20000 ≤ l)

/-! ### Grids (R110, R115) -/

/-- The grid point among k0 − 1 … k0 + 2 nearest to `x / d`, the later of two as near (R110): its index. -/
def nearestK (g : Int → Int) (k0 : Int) (x d : Int) : Int :=
  [k0, k0 + 1, k0 + 2].foldl (fun b k =>
    if (g k * d - x).natAbs ≤ (g b * d - x).natAbs then k else b) (k0 - 1)

/-- Grid point k of PTP mode (Table 4-2). -/
def ptpGrid (s : State) (k : Int) : Int := k * periodNum s / (periodDen s : Int) + hoopAlign s

/-- Grid point k of WORD mode, from the latest edge and its count (Table 4-2): P_w is TRN to whole
quarter-ns, φ_k is exact. -/
def wordGrid (s : State) (e : RefEdge) (k : Int) : Int :=
  let edges : Int := regFld s HOOP_WORD 15 0
  let hoops : Int := max (regFld s HOOP_WORD 31 16) 1
  e.device + (k * edges - e.count * hoops) * (s.hoop.ref.period64 / 64 : Nat) / hoops + hoopAlign s

/-- Grid point k of PIN mode. -/
def pinGrid (s : State) (e : RefEdge) (k : Int) : Int :=
  e.device + (k - e.count) * (s.hoop.ref.period64 / 64 : Nat) + hoopAlign s

/-- Device time at the elapsed instant `el` (quarter-ns), at the present rate and slew. -/
def deviceAt (s : State) (el : Nat) : Nat :=
  let d := el - s.tim.elapsedQ
  moveQ (advance (timRate s) (timSpeed s) (d / 16) s.tim).q (d % 16 : Nat)

/-- A target: the grid point A as a distance from this boundary's device time, the one after it,
and its index where it numbers the hoop (R113). -/
structure Target where
  a : Int
  after : Int
  k : Option Nat

/-- The signed distance from `b` to `t`, on times modulo 2^48 s. -/
def distQ (b t : Int) : Int := (t - b + timeWrap / 2) % (timeWrap : Int) - timeWrap / 2

/-- A target on a grid `g` of device times, whose index near `x / d` is about `k0`. -/
def gridTarget (s : State) (g : Int → Int) (k0 : Int) (x d : Int) (numbered : Bool) : Target :=
  let k := nearestK g k0 x d
  ⟨distQ s.hoop.bThis (g k), distQ s.hoop.bThis (g (k + 1)),
    if numbered then some k.toNat else none⟩

/-- A target on a grid counted in elapsed time, given as the elapsed distances of its point and the next. -/
def elapsedTarget (s : State) (el next : Nat) : Target :=
  ⟨distQ s.hoop.bThis (deviceAt s el), distQ s.hoop.bThis (deviceAt s next), none⟩

/-- The target on a grid counted in elapsed quarter-ns: point k lies floor(k × `num` / `den`) after `anchor`,
and k is the one nearest to T after this boundary. -/
def elapsedGrid (s : State) (anchor num den : Nat) : Target :=
  let g := fun (k : Int) => k * num / (den : Int)
  let d : Int := max (periodDen s) 1
  let x : Int := ((s.hoop.elThis : Int) - anchor) * d + periodNum s
  let k := nearestK g (x * den / (d * max num 1)) x d
  elapsedTarget s ((anchor : Int) + g k).toNat ((anchor : Int) + g (k + 1)).toNat

/-- While WAIT or HOLD, or before the anchor edge, the grid continues in elapsed TCLK from the point and
the period where its reference left it (R115). -/
def coastTarget (s : State) : Target :=
  let c := s.hoop.ref.coast
  elapsedGrid s c.anchor c.num c.den

/-- The target A of the boundary after this one (R110). -/
def target (s : State) : Target :=
  let d : Int := periodDen s
  let n : Int := periodNum s
  let x := s.hoop.bThis * d + n
  match hoopMode s with
  | 0 => elapsedGrid s s.hoop.elFirst (periodNum s) (periodDen s)
  | 1 => gridTarget s (ptpGrid s) ((x - hoopAlign s * d) / n) x d true
  | 2 =>
    match s.hoop.ref.edge with
    | some e =>
      if s.hoop.ref.state = .locked ∧ s.hoop.ref.anchorNext = false ∧ s.hoop.ref.period64 ≠ 0 then
        let hoops : Int := max (regFld s HOOP_WORD 31 16) 1
        let edges : Int := max (regFld s HOOP_WORD 15 0) 1
        let k0 := ((distQ e.device s.hoop.bThis - hoopAlign s) * 64 * hoops / s.hoop.ref.period64
          + e.count * hoops) / edges
        gridTarget s (wordGrid s e) (k0 + 1) x d false
      else coastTarget s
    | none => coastTarget s
  | _ =>
    match s.hoop.ref.edge with
    | some e =>
      if s.hoop.ref.state = .locked ∧ s.hoop.ref.anchorNext = false ∧ s.hoop.ref.period64 ≠ 0 then
        let p : Int := max (s.hoop.ref.period64 / 64) 1
        let k0 := (distQ e.device s.hoop.bThis - hoopAlign s) / p + e.count
        gridTarget s (pinGrid s e) (k0 + 1) x d false
      else coastTarget s
    | none => coastTarget s

/-! ### Phase (R111) -/

/-- A signed value held in a 32-bit detail field, saturating. -/
def sat32 (v : Int) : Nat := toBits 32 (clampI (-(2 ^ 31)) (2 ^ 31 - 1) v)

/-- The elapsed instant, in quarter-ns, at which device time reaches the target, at the present rate. -/
def targetElapsed (s : State) (t : Target) : Nat :=
  let dev := moveQ s.hoop.bThis t.a
  let c := cyclesTo s dev
  let past := ((advance (timRate s) (timSpeed s) c s.tim).q + timeWrap - dev) % timeWrap
  s.tim.elapsedQ + 16 * c - min past 16

/-- B_(h+1) fixed from this boundary by Table 4-3. -/
def fixNext (s : State) : State :=
  let t := target s
  let s := setHoop s { s.hoop with gridEl := targetElapsed s t }
  let d : Int := max (periodDen s) 1
  let n : Int := periodNum s
  let ed := t.a * d - n
  let e := ed / d
  let limit : Int := slewLimitQ s
  let h := { s.hoop with phaseErr := e, nextK := t.k }
  if ed.natAbs ≤ (limit * d).natAbs then
    let s' := setHoop s { h with bNext := moveQ s.hoop.bThis t.a, slewing := false }
    if s.hoop.slewing then noticeBoth s' 0x0503 0 (sat32 s.hoop.slewE * 2 ^ 32) else s'
  else if !regBit s HOOP_MODE 29 then
    let len := (n + (if 0 < ed then limit * d else -(limit * d))) / d
    let s' := setHoop s { h with bNext := moveQ s.hoop.bThis len, slewing := true
                                 slewE := if s.hoop.slewing then s.hoop.slewE else e }
    if s.hoop.slewing then s' else noticeBoth s' 0x0503 0 (1 + sat32 e * 2 ^ 32)
  else
    let late := decide (ed < 0) && decide ((shortenQ s : Int) * d < -ed)
    let len := if late then t.after else t.a
    let s' := setHoop s { h with bNext := moveQ s.hoop.bThis len, slewing := false
                                 nextK := if late then t.k.map (· + 1) else t.k }
    noticeBoth s' 0x0502 0 (sat32 e + (len / 4000).toNat % 2 ^ 32 * 2 ^ 32)

/-! ### Starting and stopping (R116, R117) -/

/-- The first grid point of PTP mode at least 100 µs from now: its index. -/
def firstPtpK (s : State) : Nat :=
  let least : Int := s.tim.q + 400000
  let k0 := ((least - hoopAlign s) * periodDen s / max (periodNum s : Int) 1).toNat - 1
  (((List.range 4).map fun (i : Nat) => k0 + i).find? fun (k : Nat) => decide (least ≤ ptpGrid s k)).getD (k0 + 3)

/-- The generator starts: its first boundary is set (R116). -/
def startHoops (s : State) : State :=
  let k := firstPtpK s
  let h := { s.hoop with running := true, raised := false, stopAtNext := false, fStarted := false
                         fDue := false, aborted := false, slewing := false, aligned := decide (hoopMode s = 1) }
  let s := { s with egr := { s.egr with abortOf := none } }
  if hoopMode s = 1 then
    setHoop s { h with bNext := moveQ 0 (ptpGrid s k), nextK := some k }
  else
    setHoop s { h with bNext := deviceAt s (s.tim.elapsedQ + 400000), nextK := none }

/-- HOOP_SET words accepted for this boundary govern from it (R120). A grid that goes on without its
reference takes a new nominal period from the point last targeted. -/
def applyHoopRegs (s : State) : State :=
  let mode := hoopMode s
  let rate := reg s HOOP_RATE
  let s' := s.hoop.pendingRegs.foldl (fun s w => setReg s w.1 w.2) s
  let s' := setHoop s' { s'.hoop with pendingRegs := [] }
  if hoopMode s' ≠ mode then modeChanged s'
  else if reg s' HOOP_RATE ≠ rate ∧ s'.hoop.ref.state = .wait then coastOn s'
  else s'

/-- The generator stops: the boundary it stops at is not raised (R117), and an accepted set waits, as a
whole, for the first one after the next start (R123). -/
def stopHoops (s : State) : State :=
  let s := setHoop s { s.hoop with running := false, raised := false, stopAtNext := false, slewing := false
                                   aborted := false }
  let s := { s with egr := { s.egr with abortOf := none } }
  let s := { s with win := { s.win with isOpen := false, members := []
                                        waiting := s.win.members ++ s.win.waiting } }
  noticeBoth s 0x0501 0 0

/-- The number a boundary takes (R113): the state with it, and NUMBER_HELD where the grid's number
is not later than the last. -/
def numberBoundary (s : State) : State :=
  if !s.hoop.raised then
    match s.hoop.nextK with
    | some k => setHoop s { s.hoop with number := w32 k }
    | none => setHoop s { s.hoop with number := reg s HOOP_START_NUM }
  else
    match s.hoop.nextK with
    | some k =>
      if later s.hoop.number (w32 k) then setHoop s { s.hoop with number := w32 k }
      else
        noticeBoth (setHoop s { s.hoop with number := s.hoop.number + 1, aligned := false })
          0x0505 0 (k % 2 ^ 32)
    | none => setHoop s { s.hoop with number := s.hoop.number + 1 }

/-- The boundary is raised in TCLK: it is numbered, the settings of its set govern, the next is
fixed, HOOP-mode pulses take their edges, and the event of Table 13-3 occurs. -/
def raiseBoundary (s : State) : State :=
  let first := !s.hoop.raised
  let s := numberBoundary s
  let s := setHoop s { s.hoop with
    bPrev := s.hoop.bThis, bThis := s.hoop.bNext, elThis := s.tim.elapsedQ, raised := true, fDue := true
    elFirst := if first then s.tim.elapsedQ else s.hoop.elFirst
    gridEl := if first then s.tim.elapsedQ else s.hoop.gridEl }
  let s := if first then coastOn s else s
  let s := applyHoopRegs s
  let s := if first then noticeBoth s 0x0501 0 1 else s
  let s := fixNext s
  let s := pulseBoundary s s.hoop.bThis (distQ s.hoop.bThis s.hoop.bNext).toNat
  occur s 0x50

/-- A boundary that device time has reached in this cycle is raised before what else falls in the cycle:
a SET or STEP moves B_(h+1), a reference edge counts from boundary h+1, and an ABORT finds hoop h begun
(Table 4-8). Its own command then finds it raised. DESIGN CHOICE (log 72): of commands that fall in one
cycle, the order of the queue decides only where the table gives no order. -/
def dueBoundary (s : State) : State :=
  if s.hoop.running && !s.hoop.stopAtNext && !s.hoop.fDue && reached s.tim.q s.hoop.bNext then
    let t := raiseBoundary s
    setHoop t { t.hoop with early := some t.tim.cyc }
  else s

/-! ### Aborts (R132 to R134) -/

/-- Hoop h is aborted: the state and notices of HOOP. -/
def markAbort (s : State) (cause port entry : Nat) : State :=
  let h := s.hoop
  let n := h.consecAborts + 1
  let s := latchCount (setHoop s { h with aborted := true, lastCause := cause, consecAborts := n })
    HOOP_ABORTS 31 16 1
  let s := noticeBoth s 0x0506 port (cause + entry % 2 ^ 32 * 2 ^ 32)
  let storm := regFld s HOOP_CTRL 19 16
  if storm ≠ 0 ∧ storm ≤ n ∧ h.stormArmed = true then
    noticeBoth (setHoop s { s.hoop with stormArmed := false }) 0x0507 0 n
  else s

/-! ### Package memory stacks (R129 to R131) -/

/-- Idle time before entry, in TCLK cycles, and exit latency in 10 ns units and cycles (Table 4-9). -/
def stackTimes : StackState → Nat × Nat × Nat
  | .active => (0, 0, 0)
  | .powerDown => (125, 5, 13)
  | .selfRefresh => (500, 200, 500)
  | .parked => (2500, 1800, 4500)

/-- GUARD in 10 ns units; 0 acts as 1. -/
def guard10 (s : State) : Nat := max (regFld s HOOP_LTR_CFG 7 0) 1 * 10

def stackOf (s : State) (i : Nat) : Stack := if i = 0 then s.hoop.stack0 else s.hoop.stack1
def setStack (s : State) (i : Nat) (x : Stack) : State :=
  if i = 0 then setHoop s { s.hoop with stack0 := x } else setHoop s { s.hoop with stack1 := x }

/-- LT as HOOP reports it (R129): 0 while LTR_EN is 0. -/
def ltOf (s : State) : Nat := if regBit s HOOP_LTR_CFG 31 then s.hoop.lt else 0

/-- A stack enters a lower power state when R130 allows it. -/
def stackDown (s : State) (i : Nat) (goal : StackState) : State :=
  let x := stackOf s i
  let (idle, exit, _) := stackTimes goal
  if regBit s HOOP_LTR_CFG 31 && !s.hoop.stacksHeld && !x.waiting && decide (x.exitDue = none)
      && decide ((stackTimes x.state).1 < idle) && decide (x.idleSince + idle ≤ s.tim.cyc)
      && decide (exit + guard10 s ≤ ltOf s) then
    setStack s i { x with state := goal }
  else s

/-- A stack begins to return to ACTIVE. -/
def stackWake (s : State) (i : Nat) : State :=
  let x := stackOf s i
  if x.state = .active ∨ x.exitDue ≠ none then s
  else setStack s i { x with exitDue := some (s.tim.cyc + (stackTimes x.state).2.2) }

/-- A request for stack `i`: an ACTIVE stack serves it and is busy until now; another keeps it waiting and
begins to return (R130). -/
def stackRequest (s : State) (i : Nat) : State :=
  let x := stackOf s i
  if x.state = .active then setStack s i { x with idleSince := s.tim.cyc }
  else stackWake (setStack s i { x with waiting := true }) i

/-- An access of package memory that the model does not place: a request for both stacks. -/
def memRequest (s : State) : State := stackRequest (stackRequest s 0) 1

/-- An exit begins on a request, or when LT has fallen to the exit latency plus GUARD (R130). -/
def stackExitBegin (s : State) (i : Nat) (request : Bool) : State :=
  if request then stackRequest s i
  else if !regBit s HOOP_LTR_CFG 31
      || decide (ltOf s ≤ (stackTimes (stackOf s i).state).2.1 + guard10 s) then stackWake s i
  else s

/-- The exit latency has elapsed: the stack is ACTIVE, and serves what waited. -/
def stackExitDone (s : State) (i : Nat) : State :=
  match (stackOf s i).exitDue with
  | some due =>
    let s := runToCycle due s
    setStack s i ⟨.active, s.tim.cyc, none, false⟩
  | none => s

/-! ### BAR2 (R42, R394) -/

/-- The package memory address that a BAR2 address shows (HIF_WINDOW.SLICE). -/
def packageAddr (s : State) (addr : Nat) : Nat := regFld s HIF_WINDOW 2 0 * 2 ^ 32 + addr

/-- What package memory holds at `a` where nothing the model knows of was stored there (log 58). -/
def packageInit (a : Nat) : Byte := BitVec.ofNat 8 (Config.packageByte a)

/-- A byte of package memory that no object of State covers. -/
def packageRest (s : State) (a : Nat) : Byte := tget packageInit s.package a

/-- The byte stored at package memory address `a`. Where an object lies the spec does not say:
Config.packagePlace names the object and the byte of it (log 58). -/
def packageByte (s : State) (a : Nat) : Byte :=
  let (what, off) := Config.packagePlace a
  if what < 7 then ((tget (fun _ => Stage.reset) s.stages what).data[off]?).getD (packageRest s a)
  else if what = 7 then (s.upd.image[off]?).getD (packageRest s a)
  else if what = 8 then BitVec.ofNat 8 ((tget (fun _ => 0) s.lay.pixels (off / 8)).toNat / 2 ^ (8 * (off % 8)))
  else packageRest s a

/-- A byte stored at package memory address `a` by a control core (R354): into the object that lies there,
else into the rest of the memory. -/
def packageWrite (s : State) (a : Nat) (v : Byte) : State :=
  let (what, off) := Config.packagePlace a
  let x := tget (fun _ => Stage.reset) s.stages what
  if what < 7 ∧ off < x.data.length then
    { s with stages := tput (fun _ => Stage.reset) s.stages what { x with data := x.data.set off v } }
  else if what = 7 ∧ off < s.upd.image.length then { s with upd := { s.upd with image := s.upd.image.set off v } }
  else if what = 8 then
    let w := tget (fun _ => 0) s.lay.pixels (off / 8)
    let k := 8 * (off % 8)
    { s with lay := { s.lay with
        pixels := tput (fun _ => 0) s.lay.pixels (off / 8)
          ((w &&& ~~~((0xFF : BitVec 64) <<< k)) ||| (v.setWidth 64 <<< k)) } }
  else { s with package := tput packageInit s.package a v }

/-- The package memory address that core `c` sees at address `a` of its window (CCS_PKG_WIN). -/
def windowAddr (s : State) (c a : Nat) : Nat := regFld s (CCS_PKG_WIN c) 3 0 * 2 ^ 31 + (a - 0x80000000)

/-- A host read of the word at BAR2 address `addr`. It wakes the stack that holds the word where that is
powered down. -/
def bar2Read (s : State) (addr : Nat) (e : EccRead) : State :=
  if !s.boot.memReady then { s with readValue := 0 }
  else
    let a := packageAddr s (addr / 4 * 4)
    let s := stackRequest s (Config.packageStack a % 2)
    match e with
    | .uncorrectable => { latch s HIF_ERR 7 with readValue := 0xFFFFFFFF }
    | _ => { s with readValue := leNat ((List.range 4).map fun i => packageByte s (a + i)) }

/-! ### Meanings -/

/-- A write of TIM_CTRL, after a boundary that falls due in its cycle (Table 4-8). -/
def timCtrlWrite (s : State) (v : Word) : State := writeTimCtrl (dueBoundary s) v
/-- TIM_SNAP: a write of TIM_CTRL with SNAP set (R88). -/
def execTimSnap (v : Word) (s : State) : Host.Outcome State Fault Refusal := done (timCtrlWrite s (v ||| 0x80000000))
/-- TIM_SET: a write of TIM_CTRL with SET set (R87). -/
def execTimSet (v : Word) (s : State) : Host.Outcome State Fault Refusal := done (timCtrlWrite s (v ||| 0x40000000))
/-- TIM_STEP: a write of TIM_CTRL with STEP set (R87). -/
def execTimStep (v : Word) (s : State) : Host.Outcome State Fault Refusal := done (timCtrlWrite s (v ||| 0x20000000))
/-- TIM_ADJ_GO: a write of TIM_CTRL with ADJ_GO set (R86). -/
def execTimAdjGo (v : Word) (s : State) : Host.Outcome State Fault Refusal := done (timCtrlWrite s (v ||| 0x10000000))
/-- TIM_HOLD_EXIT: a write of TIM_CTRL with HOLD_EXIT set (Table 3-6). -/
def execTimHoldExit (v : Word) (s : State) : Host.Outcome State Fault Refusal := done (timCtrlWrite s (v ||| 0x08000000))
/-- TIN_EDGE (R104), `after` cycles from now and `phase` sixteenths into that cycle. -/
def execTinEdge (i after phase : Nat) (falling : Bool) (s : State) : Host.Outcome State Fault Refusal :=
  done (tinEdge (dueBoundary (tick after s)) i phase falling)
/-- WCLK_EDGE (R105), `after` cycles from now and `phase` sixteenths into that cycle. -/
def execWclkEdge (after phase : Nat) (rising : Bool) (s : State) : Host.Outcome State Fault Refusal :=
  done (wclkEdge (dueBoundary (tick after s)) phase rising)
/-- STACK_POWER_DOWN (R130). -/
def execStackPowerDown (i : Nat) (goal : StackState) (s : State) : Host.Outcome State Fault Refusal :=
  done (stackDown s i goal)
/-- STACK_EXIT_BEGIN (R130). -/
def execStackExitBegin (i : Nat) (request : Bool) (s : State) : Host.Outcome State Fault Refusal :=
  done (stackExitBegin s i request)
/-- STACK_EXIT_COMPLETE (R130). -/
def execStackExitComplete (i : Nat) (s : State) : Host.Outcome State Fault Refusal :=
  done (stackExitDone s i)
/-- BAR2_READ (R42): an address outside the 4 GiB BAR is none of the function's. -/
def execBar2Read (addr : Nat) (e : EccRead) (s : State) : Host.Outcome State Fault Refusal :=
  if addr < 2 ^ 32 then done (bar2Read s addr e) else .fault .outsideBar

end Sys2Proof.Machine
end

