-- ==== Sys2Proof/Machine/Window.lean ====
section
/-! DEFINITION. Machine/Window.lean: how descriptors join a commit window (R118, R121, R124). -/
namespace Sys2Proof.Machine

def setWin (s : State) (w : Window) : State := { s with win := w }

/-- The tracker phase of a member that came from a host ring. -/
def setPhase (s : State) (m : Member) (p : Phase) : State :=
  if m.origin = .host then modTrack s m.id fun t => { t with phase := p, late := m.late } else s

/-- A member's descriptor completes; one that came over the twin link has its record on the driving
unit. -/
def finishMember (s : State) (m : Member) (st r0 r1 : Nat) (hoop : Hoop) : State :=
  if m.origin = .host then finishAt s m.id st r0 r1 hoop else s

/-- Members in the order they were handed over (R65). -/
def insertMember (m : Member) : List Member → List Member
  | [] => [m]
  | x :: xs => if m.handed < x.handed then m :: x :: xs else x :: insertMember m xs

/-- A member joins the open window, or waits for the next to open. -/
def joinNow (s : State) (m : Member) : State :=
  if s.win.isOpen then
    setPhase (setWin s { s.win with members := insertMember m s.win.members }) m .inSet
  else setPhase (setWin s { s.win with waiting := insertMember m s.win.waiting }) m .atHoop

/-- A commit-joining descriptor handed to its block (Table 4-6). -/
def join (s : State) (m : Member) : State :=
  let h := s.hoop
  if !h.running || !h.fStarted then
    setPhase (setWin s { s.win with waiting := insertMember m s.win.waiting }) m .atHoop
  else if !Desc.atHoop m.desc || m.late then joinNow s m
  else
    let before := m.desc.target - 1
    if s.win.isOpen && decide (h.fNumber = before) then joinNow s m
    else if later h.fNumber before then
      setPhase (setWin s { s.win with held := insertMember m s.win.held }) m .atHoop
    else if regBit s HOOP_CTRL 29 then finishMember s m stState 0 0 h.number
    else joinNow s { m with late := true }

/-- The tracker entry `id` joins a window. -/
def joinTrack (s : State) (id : Nat) : State :=
  match findTrack s id with
  | some t => join s ⟨t.id, t.handed, t.origin, t.ring, t.desc, t.late⟩
  | none => s

/-- Held descriptors whose window is open, or has passed, are released (R53). -/
def releaseHeld (s : State) : State :=
  let h := s.hoop
  if s.win.isOpen then
    let due := s.win.held.filter fun m => !later h.fNumber (m.desc.target - 1)
    due.foldl join (setWin s { s.win with held := s.win.held.filter fun m => later h.fNumber (m.desc.target - 1) })
  else s

/-- The window of the hoop opens: what waited for it joins (R118, Table 4-6). -/
def openWindow (s : State) : State :=
  let waiting := s.win.waiting
  releaseHeld (waiting.foldl join (setWin s { s.win with isOpen := true, members := [], waiting := [] }))


end Sys2Proof.Machine
end

