-- ==== Sys2Proof/Machine/Handles.lean ====
section
/-! DEFINITION. Machine/Handles.lean: the settings words of a configuration (Tables 5-1, 5-9, 6-6),
buffer handles, who names them, pins, and the page pool (chapter 6), with the meanings of
BUF_ALLOC, BUF_FILL_COMPLETE and BUF_FREE. -/
namespace Sys2Proof.Machine

/-! ### Sessions, source sets and layers of a configuration -/

/-- Word `i` of a list of argument words. -/
def word (ws : List Word) (i : Nat) : Nat := ((ws[i]?).getD 0).toNat

def sessWords (c : Cfg) (k : Nat) : List Word := tget (fun _ => []) c.sessions k
def sessW (c : Cfg) (k i : Nat) : Nat := word (sessWords c k) i
/-- ENABLE of session `k`. -/
def sessOn (c : Cfg) (k : Nat) : Bool := bitOf (sessW c k 0) 31
/-- The handles that SESSION_SET words name, in HANDLE0 to HANDLE3 order (NBUF). -/
def argHandles (ws : List Word) : List Nat :=
  let h := [bits (word ws 7) 9 0, bits (word ws 7) 25 16, bits (word ws 8) 9 0]
  if bitOf (word ws 0) 13 then h ++ [bits (word ws 8) 25 16] else h
def sessHandles (c : Cfg) (k : Nat) : List Nat := argHandles (sessWords c k)
/-- WIDTH and HEIGHT. -/
def sessSize (c : Cfg) (k : Nat) : Nat × Nat := (bits (sessW c k 4) 31 16, bits (sessW c k 4) 15 0)
/-- The enabled sessions, ascending. -/
def enabledSessions (c : Cfg) : List Nat := (c.sessions.map (·.1)).filter fun k => sessOn c k

def srcWords (c : Cfg) (l : Nat) : List Word := tget (fun _ => []) c.sources l
def srcW (c : Cfg) (l i : Nat) : Nat := word (srcWords c l) i
/-- ENABLE of layer `l`'s source set. -/
def srcOn (c : Cfg) (l : Nat) : Bool := bitOf (srcW c l 0) 31
/-- KIND of a candidate word: 0 none, 1 session, 2 host. -/
def candKind (c : Cfg) (l n : Nat) : Nat := bits (srcW c l (1 + n)) 31 30
/-- SESSION of a KIND 1 candidate. -/
def candSession (c : Cfg) (l n : Nat) : Nat := bits (srcW c l (1 + n)) 7 0
/-- HANDLE_A and HANDLE_B of a KIND 2 candidate. -/
def candHandles (c : Cfg) (l n : Nat) : List Nat :=
  [bits (srcW c l (1 + n)) 9 0, bits (srcW c l (1 + n)) 25 16]
/-- The layers with an enabled source set, ascending. -/
def enabledSources (c : Cfg) : List Nat := (c.sources.map (·.1)).filter fun l => srcOn c l
/-- The host handles that an enabled source set names. -/
def hostHandles (c : Cfg) (l : Nat) : List Nat :=
  (List.range 4).flatMap fun n => if candKind c l n = 2 then candHandles c l n else []

def layWords (c : Cfg) (l : Nat) : List Word := tget (fun _ => []) c.layers l
def layW (c : Cfg) (l i : Nat) : Nat := word (layWords c l) i
/-- ENABLE of layer `l`. -/
def layOn (c : Cfg) (l : Nat) : Bool := bitOf (layW c l 0) 30
/-- The enabled layers, ascending. -/
def enabledLayers (c : Cfg) : List Nat := (c.layers.map (·.1)).filter fun l => layOn c l
/-- The handle bound to a layer. -/
def bindOf (c : Cfg) (l : Nat) : Option Nat := tget (fun _ => none) c.binds l

/-- A layer binding, an enabled session, or a host candidate of an enabled set names handle `n`. -/
def boundToLayer (c : Cfg) (n : Nat) : Bool := c.binds.any fun b => decide (b.2 = some n)
def namedBySession (c : Cfg) (n : Nat) : Bool :=
  (enabledSessions c).any fun k => (sessHandles c k).contains n
def namedByHost (c : Cfg) (n : Nat) : Bool := (enabledSources c).any fun l => (hostHandles c l).contains n
def named (c : Cfg) (n : Nat) : Bool := boundToLayer c n || namedBySession c n || namedByHost c n

/-- The configuration whose namings govern handles: from close on, that of the accepted set (R165). -/
def namingCfg (s : State) : Cfg :=
  match s.twn.closed, s.win.closed with
  | some e, _ => e.cfg
  | none, some e => e.cfg
  | none, none => s.cfg

/-! ### Handles -/

def setLay (s : State) (l : Lay) : State := { s with lay := l }
def setIng (s : State) (g : Ing) : State := { s with ing := g }
def handleOf (s : State) (n : Nat) : Handle := tget (fun _ => Handle.reset) s.lay.handles n
def setHandle (s : State) (n : Nat) (h : Handle) : State :=
  setLay s { s.lay with handles := tput (fun _ => Handle.reset) s.lay.handles n h }

/-- Where pixel offset `p` of handle `n` is held. -/
def pixelKey (n p : Nat) : Nat := n * 2 ^ 28 + p
/-- Pixel offset `p` of handle `n`. -/
def pixelAt (s : State) (n p : Nat) : BitVec 64 := tget (fun _ => 0) s.lay.pixels (pixelKey n p)
/-- Pixel offset `p` of handle `n` written. -/
def putPixel (n : Nat) (s : State) (x : Nat × BitVec 64) : State :=
  setLay s { s.lay with pixels := tput (fun _ => 0) s.lay.pixels (pixelKey n x.1) x.2 }
/-- A pixel from its four channels. -/
def packPixel (r g b a : Nat) : BitVec 64 :=
  BitVec.ofNat 64 (r % 65536 + g % 65536 * 2 ^ 16 + b % 65536 * 2 ^ 32 + a % 65536 * 2 ^ 48)
/-- Channel `k` of a pixel: R, G, B, A. -/
def channel (p : BitVec 64) (k : Nat) : Nat := bits p.toNat (16 * k + 15) (16 * k)
/-- Every pixel of handle `n` as after the zero fill. -/
def clearPixels (s : State) (n : Nat) : State :=
  setLay s { s.lay with pixels := s.lay.pixels.filter fun x => decide (x.1 / 2 ^ 28 ≠ n) }

/-- A descriptor past its point of no return of opcode `op` on object `n`. -/
def jobOn (s : State) (op n : Nat) : Option Track :=
  s.hif.track.find? fun t => decide (t.desc.opcode = op ∧ t.desc.object = n ∧ t.phase = .running)

/-- A BUF_WRITE to handle `n`, or a BUF_READ of it, is in flight. -/
def writeInFlight (s : State) (n : Nat) : Bool := (jobOn s 0x02 n).isSome
def readInFlight (s : State) (n : Nat) : Bool := (jobOn s 0x03 n).isSome

/-! ### Pins (R144, R155, R176) -/

/-- Handle `n` is pinned by an offer, or held by a layer under POLICY 0. -/
def pinned (s : State) (n : Nat) : Bool :=
  (s.ing.pins.any fun p => decide (p.1 = n)) || s.ing.src.any fun x => decide (x.2.held.map (·.1) = some n)

/-- Handle `n` pinned until FCLK-side boundary `b`. -/
def pin (s : State) (n : Nat) (b : Hoop) : State :=
  setIng s { s.ing with pins := s.ing.pins.filter (fun p => decide (p ≠ (n, b))) ++ [(n, b)] }

/-- Pins that end at boundary `b` or ended before it. -/
def expirePins (s : State) (b : Hoop) : State :=
  setIng s { s.ing with pins := s.ing.pins.filter fun p => later b p.2 }

/-- A RETIRING handle becomes IDLE: HANDLE_IDLE. -/
def retireOne (s : State) (n : Nat) : State :=
  let h := handleOf s n
  notice (setHandle s n { h with state := .idle, fence := 0 }) 0x0701 0 (n + h.fence.toNat * 2 ^ 32) true false

/-- The RETIRING handles that pass `due` become IDLE. -/
def retireHandles (s : State) (due : Hoop → Bool) : State :=
  ((s.lay.handles.filter fun x => decide (x.2.state = .retiring) && due x.2.fence).map (·.1)).foldl retireOne s

/-- At FCLK-side boundary `b` a fence F with F + 1 reached ends (Table 6-3). -/
def retireAt (s : State) (b : Hoop) : State := retireHandles s fun f => !later b (f + 1)

/-- A stop of the generator ends every pin and every retirement (R117, R144, R165, R176). -/
def releaseAll (s : State) : State :=
  let s := setIng s { s.ing with
    pins := []
    src := tmap (fun _ => SourceRt.reset) s.ing.src fun x => { x with held := none, feed := none } }
  retireHandles s fun _ => true

/-! ### The pool (R159, R181) -/

/-- Pages that a W × H handle takes. -/
def pagesFor (w h : Nat) : Nat := (w * h * 8 + 2097151) / 2097152

/-- The free page count changes: POOL_LOW once when it falls below LOW, armed again at LOW. -/
def setFreePages (s : State) (n : Nat) : State :=
  let low := regFld s LAY_CTRL 13 0
  let s := setLay s { s.lay with freePages := n }
  if low ≤ n then setLay s { s.lay with lowArmed := true }
  else if s.lay.lowArmed then
    noticeBoth (setLay s { s.lay with lowArmed := false }) 0x0702 0 (n % 65536)
  else s

/-- BUF_ALLOC (R161, Table 6-1). -/
def startAlloc (s : State) (t : Track) : State :=
  let w := bits (darg t.desc 0) 31 16
  let h := bits (darg t.desc 0) 15 0
  let n := t.desc.object
  if !noData t.desc || !argsZeroFrom t.desc 1 || decide (w = 0 ∨ 32768 < w ∨ h = 0 ∨ 32768 < h ∨ 268435456 < w * h)
  then finish s t.id stBad 0 0
  else if (handleOf s n).state ≠ .free then finish s t.id stState 0 0
  else if s.lay.freePages < pagesFor w h then finish s t.id stPoolFull 0 0
  else
    setFreePages (begin (setHandle s n ⟨.filling, w, h, pagesFor w h, 0⟩) t.id)
      (s.lay.freePages - pagesFor w h)

/-- The zero fill of handle `n` ends (R161): IDLE, and its BUF_ALLOC completes OK. -/
def fillComplete (s : State) (n : Nat) : State :=
  let h := handleOf s n
  if h.state = .filling then
    let s := setHandle (clearPixels s n) n { h with state := .idle }
    match jobOn s 0x01 n with
    | some t => finish s t.id stOk 0 0
    | none => s
  else s

/-- BUF_FREE (R163, Table 6-4). -/
def startFree (s : State) (t : Track) : State :=
  let n := t.desc.object
  let h := handleOf s n
  if !noData t.desc || !argsZeroFrom t.desc 0 then finish s t.id stBad 0 0
  else match h.state with
    | .free => finish s t.id stNotFound 0 0
    | .retiring => finish s t.id stRetiring 0 0
    | .idle =>
      if writeInFlight s n || readInFlight s n then finish s t.id stState 0 0
      else
        let s := setIng s { s.ing with published := tput (fun _ => 0) s.ing.published n 0 }
        finish (setFreePages (setHandle (clearPixels s n) n Handle.reset) (s.lay.freePages + h.pages)) t.id stOk 0 0
    | _ => finish s t.id stState 0 0

end Sys2Proof.Machine
end

