-- ==== Sys2Proof/Machine/Ing.lean ====
section
/-! DEFINITION. Machine/Ing.lean: SESSION_SET and SOURCE_SET at arrival, the reception of session
packets, conversion to the working format, the curve RAM and the ingest deadline (chapter 5). -/
namespace Sys2Proof.Machine

/-! ### Arrival checks (R137, R138, R154) -/

/-- SAMPLING 2 or 3, DEPTH 3, RANGE 2 or 3, COLORIMETRY 3, or YCbCr with FULL (check 2 of Table 5-2),
in a word laid out as SESSION_SET ARG0. -/
def formatBad (a : Nat) : Bool :=
  decide (2 ≤ bits a 21 20 ∨ bits a 19 18 = 3 ∨ 2 ≤ bits a 17 16 ∨ bits a 15 14 = 3 ∨
    (bits a 21 20 = 1 ∧ bits a 17 16 = 1))

/-- Fields of SESSION_SET that must be zero. -/
def sessZeroOk (d : Desc) : Bool :=
  let a := darg d
  noData d && decide (bits (a 0) 29 28 = 0 ∧ bits (a 0) 11 0 = 0 ∧ bits (a 3) 15 8 = 0 ∧
    bits (a 5) 30 12 = 0 ∧ bits (a 7) 31 26 = 0 ∧ bits (a 7) 15 10 = 0 ∧ bits (a 8) 31 26 = 0 ∧
    bits (a 8) 15 10 = 0) && (bitOf (a 0) 13 || decide (bits (a 8) 25 16 = 0))

/-- SESSION_SET at arrival: checks 1 and 2 of Table 5-2. -/
def sessionArrival (d : Desc) : Nat :=
  let a := darg d
  let w := bits (a 4) 31 16
  let h := bits (a 4) 15 0
  let num := bits (a 9) 31 12
  let den := bits (a 9) 11 0
  if !sessZeroOk d then stBad
  else if !bitOf (a 0) 31 then stOk
  else if w = 0 ∨ 16384 < w ∨ h = 0 ∨ 16384 < h ∨ den = 0 ∨ num < den ∨ 300 * den < num ∨
      (bits (a 0) 21 20 = 1 ∧ w % 2 = 1) then stBad
  else if formatBad (a 0) then stFormat
  else stOk

/-- A candidate word keeps to Table 5-9 for its KIND. -/
def candOk (v : Nat) : Bool :=
  decide (bits v 29 26 = 0 ∧ bits v 15 10 = 0) &&
  match bits v 31 30 with
  | 0 => decide (v = 0)
  | 1 => decide (bits v 25 16 = 0 ∧ bits v 9 8 = 0 ∧ bits v 7 0 ≠ 0)
  | 2 => true
  | _ => false

/-- The sessions that a SOURCE_SET names. -/
def setSessions (d : Desc) : List Nat :=
  (List.range 4).flatMap fun n =>
    if bits (darg d (1 + n)) 31 30 = 1 then [bits (darg d (1 + n)) 7 0] else []

/-- The host handles that a SOURCE_SET names. -/
def setHandles (d : Desc) : List Nat :=
  (List.range 4).flatMap fun n =>
    let v := darg d (1 + n)
    if bits v 31 30 = 2 then [bits v 9 0, bits v 25 16] else []

/-- SOURCE_SET at arrival (R154). -/
def sourceArrival (s : State) (d : Desc) : Nat :=
  let a := darg d 0
  if !noData d || !argsZeroFrom d 5 || decide (bits a 26 24 ≠ 0 ∨ bits a 7 0 ≠ 0 ∨ bits a 23 16 = 0)
      || (bitOf a 30 && decide (bits (darg d (1 + bits a 29 28)) 31 30 = 0))
      || !((List.range 4).all fun n => candOk (darg d (1 + n)))
      || !decide (setSessions d).Nodup then stBad
  else if (setHandles d).any fun n => decide ((handleOf s n).state = .free) then stNotFound
  else stOk

/-! ### Curves (R152, R153) -/

/-- Entry `i` of curve slot `k`: as loaded, or the undefined value it holds since reset. -/
def curveEntry (s : State) (k i : Nat) : Nat :=
  match tget (fun _ => none) s.ing.curve (k * 2048 + i) with
  | some v => v
  | none => Config.curveInit k i % 65536

/-- R152: linearising `v` through slot `k`; slot 0 is bypass. -/
def linearise (s : State) (k v : Nat) : Nat :=
  if k = 0 then v
  else
    let i := v / 64
    let f : Int := (v % 64 : Nat)
    let c0 : Int := curveEntry s k i
    let c1 : Int := curveEntry s k (i + 1)
    satU 16 (c0 + rhu 6 ((c1 - c0) * f))

/-- A slot is busy while an enabled session or a BUF_WRITE in flight uses it (R153). -/
def curveBusy (s : State) (k : Nat) : Bool :=
  ((enabledSessions s.cfg).any fun n => decide (bits (sessW s.cfg n 0) 27 24 = k)) ||
  s.hif.track.any fun t => decide (t.desc.opcode = 0x02 ∧ t.phase = .running) &&
    decide (bits (darg t.desc 0) 31 28 ≠ 0 ∧ bits (darg t.desc 1) 27 24 = k)

/-- INDEX advances by one and stops at 1,024. -/
def stepIndex (s : State) : State :=
  setRegFld s ING_CURVE_ADDR 10 0 (min (regFld s ING_CURVE_ADDR 10 0 + 1) 1024)

/-- A write of ING_CURVE_DATA. -/
def curveWrite (s : State) (v : Word) : State :=
  let k := regFld s ING_CURVE_ADDR 19 16
  let i := regFld s ING_CURVE_ADDR 10 0
  if k = 0 ∨ 1024 < i then s
  else if curveBusy s k then latch s ING_STATUS 31
  else stepIndex (setIng s { s.ing with
    curve := tput (fun _ => none) s.ing.curve (k * 2048 + i) (some (fld v 15 0)) })

/-- A read of ING_CURVE_DATA: entries of slot 0, which holds no curve, read as 0. -/
def curveRead (s : State) : State :=
  let k := regFld s ING_CURVE_ADDR 19 16
  let i := regFld s ING_CURVE_ADDR 10 0
  if 1024 < i then { s with readValue := 0 }
  else { stepIndex s with readValue := if k = 0 then 0 else curveEntry s k i }

/-! ### Conversion (R150, R151) -/

/-- The format fields of a word laid out as SESSION_SET ARG0. -/
def fmtYcc (a : Nat) : Bool := decide (bits a 21 20 = 1)
def fmtDepth (a : Nat) : Nat := match bits a 19 18 with | 0 => 10 | 1 => 12 | _ => 16
def fmtFull (a : Nat) : Bool := decide (bits a 17 16 = 1)
def fmtCurve (a : Nat) : Nat := bits a 27 24

/-- Bytes and pixels of a pgroup (Table 5-6). -/
def pgroup (a : Nat) : Nat × Nat :=
  if fmtYcc a then (match fmtDepth a with | 10 => (5, 2) | 12 => (6, 2) | _ => (8, 2))
  else (match fmtDepth a with | 10 => (15, 4) | 12 => (9, 2) | _ => (6, 1))

/-- Samples of `dp` bits, most significant bit first. -/
def unpackSamples (dp n : Nat) (bs : List Byte) : List Nat :=
  let v := beNat bs
  (List.range n).map fun i => v / 2 ^ (bs.length * 8 - dp * (i + 1)) % 2 ^ dp

/-- The samples of one pgroup. -/
def pgroupSamples (a : Nat) (bs : List Byte) : List Nat :=
  unpackSamples (fmtDepth a) ((pgroup a).1 * 8 / fmtDepth a) bs

/-- Step 1: a D-bit sample widened to 16 bits. -/
def widen (full : Bool) (dp c : Nat) : Int :=
  if full && decide (dp < 16) then ((c * 2 ^ (16 - dp)) ||| (c / 2 ^ (2 * dp - 16)) : Nat)
  else (c * 2 ^ (16 - dp) : Nat)

/-- Step 2: normalised to 0x8000 = 1.0. -/
def normLuma (full : Bool) (c16 : Int) : Int :=
  if full then (c16 + c16 / 32768) / 2 else rhu 16 ((c16 - 4096) * 38304)
def normChroma (c16 : Int) : Int := rhu 16 ((c16 - 32768) * 37449)

/-- Table 5-8: KR, KGB, KGR, KB. -/
def matrix (col : Nat) : Int × Int × Int × Int :=
  match col with
  | 0 => (25802, 3069, 7670, 30402)
  | 1 => (24160, 2696, 9361, 30825)
  | _ => (22970, 5638, 11700, 29032)

/-- Step 3: R', G', B' of luma and chroma. -/
def yccRgb (col : Nat) (y cb cr : Int) : Int × Int × Int :=
  let (kr, kgb, kgr, kb) := matrix col
  (y + rhu 14 (cr * kr), y + rhu 14 (cb * -kgb + cr * -kgr), y + rhu 14 (cb * kb))

/-- Steps 4 and 5 for one channel. -/
def finishChannel (s : State) (k : Nat) (v : Int) : Nat := linearise s k (satU 16 v)

/-- A pixel of RGB samples. -/
def rgbPixel (s : State) (a r g b : Nat) : BitVec 64 :=
  let f := fun c => finishChannel s (fmtCurve a) (normLuma (fmtFull a) (widen (fmtFull a) (fmtDepth a) c))
  packPixel (f r) (f g) (f b) 0xFFFF

/-- A pixel of a 4:2:2 stream: its luma sample, its own pgroup's chroma, and for an odd pixel that
has a right neighbour the next pgroup's. -/
def yccPixel (s : State) (a y cb cr : Nat) (next : Option (Nat × Nat)) : BitVec 64 :=
  let dp := fmtDepth a
  let ch := fun c => normChroma (widen false dp c)
  let mid := fun (c c' : Nat) => (ch c + ch c' + 1) / 2
  let (cbv, crv) := match next with
    | some (cb', cr') => (mid cb cb', mid cr cr')
    | none => (ch cb, ch cr)
  let (r, g, b) := yccRgb (bits a 15 14) (normLuma false (widen false dp y)) cbv crv
  let f := finishChannel s (fmtCurve a)
  packPixel (f r) (f g) (f b) 0xFFFF

/-- The pixels of a whole line given as pgroups: `w` pixels. -/
def linePixels (s : State) (a w : Nat) (line : List Byte) : List (BitVec 64) :=
  let (n, p) := pgroup a
  let at_ := fun j => pgroupSamples a (slice line (j * n) n)
  let smp := fun j i => ((at_ j)[i]?).getD 0
  (List.range w).map fun x =>
    let j := x / p
    if fmtYcc a then
      yccPixel s a (smp j (1 + 2 * (x % 2))) (smp j 0) (smp j 2)
        (if x % 2 = 1 ∧ x + 1 < w then some (smp (j + 1) 0, smp (j + 1) 2) else none)
    else rgbPixel s a (smp j (3 * (x % p))) (smp j (3 * (x % p) + 1)) (smp j (3 * (x % p) + 2))

/-! ### Session packets (R136, R140 to R143) -/

def sessOf (s : State) (k : Nat) : SessRt := tget (fun _ => SessRt.reset) s.ing.sess k
def setSess (s : State) (k : Nat) (x : SessRt) : State :=
  setIng s { s.ing with sess := tput (fun _ => SessRt.reset) s.ing.sess k x }

/-- An unfragmented IPv4 frame that carries UDP: outer VLAN ID, IHL, where its UDP header stands, source,
destination, UDP destination port, UDP payload. -/
structure UdpFrame where
  vid : Option Nat
  ihl : Nat
  udp : Nat
  src : Nat
  dst : Nat
  port : Nat
  payload : List Byte

/-- The UDP content of an Ethernet frame; `strip` is the VLAN ID of a tag removed by MAC_CFG.STRIP. -/
def parseUdp (frame : List Byte) (strip : Option Nat) : Option UdpFrame :=
  let tagged := decide (be frame 12 2 = 0x8100)
  let et := if tagged then 16 else 12
  let ip := et + 2
  let ihl := byteAt frame ip % 16
  let udp := ip + 4 * ihl
  if be frame et 2 = 0x0800 ∧ byteAt frame ip / 16 = 4 ∧ 5 ≤ ihl ∧ byteAt frame (ip + 9) = 17 ∧
      be frame (ip + 6) 2 % 0x4000 = 0 ∧ udp + 8 ≤ frame.length then
    let total := be frame (ip + 2) 2
    some { vid := if strip.isSome then strip else if tagged then some (be frame 14 2 % 4096) else none
           ihl := ihl, udp := udp
           src := be frame (ip + 12) 4, dst := be frame (ip + 16) 4, port := be frame (udp + 2) 2
           payload := (frame.take (ip + total)).drop (udp + 8) }
  else none

/-- The first enabled session that a frame on ingest port `port` (32 to 35) belongs to (R136): IHL 5, RTP. -/
def sessionMatch (s : State) (port : Nat) (u : UdpFrame) : Option Nat :=
  if u.ihl = 5 ∧ byteAt u.payload 0 / 64 = 2 then
    (enabledSessions s.cfg).find? fun k =>
      let a := sessW s.cfg k
      decide (32 + bits (a 0) 23 22 = port ∧ a 1 = u.dst ∧ bits (a 3) 31 16 = u.port ∧
        (a 2 = 0 ∨ a 2 = u.src)) &&
      (!bitOf (a 5) 31 || decide (u.vid = some (bits (a 5) 11 0)))
  else none

/-- PKT_DROP. -/
def dropPacket (s : State) (k : Nat) : State := latchCount s (ING_SESS_DROPS k) 15 0 1
/-- SKIPPED. -/
def skipFrames (s : State) (k n : Nat) : State := latchCount s (ING_SESS_DROPS k) 31 16 n
/-- INCOMPLETE. -/
def incomplete (s : State) (k : Nat) : State := latchCount s (ING_SESS_STAT k) 15 0 1

/-- FORMAT_ERROR, at most once per session per hoop. -/
def formatError (s : State) (k why : Nat) : State :=
  let x := sessOf s k
  if x.formatHoop = some s.hoop.number then s
  else noticeBoth (setSess s k { x with formatHoop := some s.hoop.number }) 0x0603 k why

/-- 0 < (t − r) mod 2^32 ≤ 2^31: timestamp `r` is earlier than `t`. -/
def tsEarlier (t r : Nat) : Bool :=
  let d := (t + 2 ^ 32 - r % 2 ^ 32) % 2 ^ 32
  decide (0 < d ∧ d ≤ 2 ^ 31)

/-- Distance of sequence number `q` behind `p`. -/
def seqBehind (p q : Nat) : Nat := (p + 2 ^ 32 - q % 2 ^ 32) % 2 ^ 32

/-- The frame in reception is abandoned unless it is complete (R140, R142). A frame that no handle
could take was counted when it began. -/
def abandonFrame (s : State) (k : Nat) : State :=
  let x := sessOf s k
  match x.cur with
  | some f =>
    let s := setSess s k { x with cur := none }
    if f.complete || f.handle.isNone then s else incomplete s k
  | none => s

/-- R143: the handle for a new frame, with a waiting frame discarded where rule 2 chooses its handle. DEDUCED
(log 59): the handle of the last offered frame is in use, also when a stop has ended its pin. -/
def chooseHandle (s : State) (k : Nat) : Option Nat × State :=
  let x := sessOf s k
  let free := (sessHandles s.cfg k).filter fun n => !pinned s n && decide (x.offer.map (·.handle) ≠ some n)
  match free.find? fun n => x.waiting.all fun f => decide (f.handle ≠ n) with
  | some n => (some n, s)
  | none =>
    let held := x.waiting.filter fun f => free.contains f.handle
    match held.foldl (fun best f => match best with
        | some b => if tsEarlier b.ts f.ts then some f else some b
        | none => some f) (none : Option DoneFrame) with
    | some f =>
      (some f.handle, skipFrames (setSess s k { x with waiting := x.waiting.filter fun g => decide (g ≠ f) }) k 1)
    | none => (none, s)

/-- A new frame starts at a packet with timestamp `ts`. -/
def startFrame (s : State) (k ts : Nat) : State :=
  let s := abandonFrame s k
  let (h, s) := chooseHandle s k
  let f : Frame :=
    { ts := ts, handle := h, args := sessWords s.cfg k, seqs := [], high := 0, marker := none, pixels := 0
      bad := h.isNone, complete := false, samples := [] }
  let s := setSess s k { sessOf s k with cur := some f, lastTs := some ts }
  if h.isNone then incomplete s k else s

/-- The frame in reception changed. -/
def modFrame (s : State) (k : Nat) (g : Frame → Frame) : State :=
  let x := sessOf s k
  setSess s k { x with cur := x.cur.map g }

/-- Sample row data headers of an RTP payload after its extended sequence number: length, field
bit, row, offset, for as many as three. -/
def rowHeaders (bs : List Byte) : Nat → List (Nat × Bool × Nat × Nat)
  | 0 => []
  | n + 1 =>
    let row := be bs 2 2
    let off := be bs 4 2
    (be bs 0 2, bitOf row 15, row % 32768, off % 32768) ::
      (if bitOf off 15 then rowHeaders (bs.drop 6) n else [])

/-- The payload data without the unused bytes of BPM's 180-byte blocks (R150). -/
def packetData (a : Nat) (bs : List Byte) : List Byte :=
  if bitOf a 12 then
    let use := 180 / (pgroup a).1 * (pgroup a).1
    (List.range ((bs.length + 179) / 180)).flatMap fun i => ((bs.drop (180 * i)).take 180).take use
  else bs

/-- What is wrong with one row header (Table 5-10, 0: nothing). -/
def headerError (a w h : Nat) (r : Nat × Bool × Nat × Nat) : Nat :=
  let (n, p) := pgroup a
  if r.2.1 then 1
  else if h ≤ r.2.2.1 then 2
  else if w < r.2.2.2 + r.1 / n * p then 3
  else if r.1 % n ≠ 0 then 4
  else 0

/-- The pixel of the 4:2:2 frame in reception at offset `q`, once every sample it needs is there. -/
def storeYcc (k q : Nat) (s : State) : State :=
  match (sessOf s k).cur with
  | some f =>
    match f.handle with
    | some n =>
      let a := word f.args 0
      let w := bits (word f.args 4) 31 16
      let get := fun p => (tget (fun _ => none) f.samples p).getD (0, 0, 0)
      let have_ := fun p => (tget (fun _ => none) f.samples p).isSome
      let odd := decide (q % w % 2 = 1)
      let last := decide (q % w + 1 = w)
      if have_ q && (!odd || last || have_ (q + 1)) then
        let v := get q
        let nx := get (q + 1)
        putPixel n s (q, yccPixel s a v.1 v.2.1 v.2.2 (if odd && !last then some (nx.2.1, nx.2.2) else none))
      else s
    | none => s
  | none => s

/-- One pgroup of the frame in reception, at pixel offset `q` of its handle. -/
def storePgroup (k : Nat) (s : State) (x : Nat × List Byte) : State :=
  let (q, bs) := x
  match (sessOf s k).cur with
  | some f =>
    let a := word f.args 0
    let smp := pgroupSamples a bs
    let at_ := fun i => (smp[i]?).getD 0
    if fmtYcc a then
      let d : Nat → Option (Nat × Nat × Nat) := fun _ => none
      let s := modFrame s k fun f => { f with
        samples := tput d (tput d f.samples q (some (at_ 1, at_ 0, at_ 2))) (q + 1) (some (at_ 3, at_ 0, at_ 2)) }
      let w := bits (word f.args 4) 31 16
      let s := storeYcc k q (storeYcc k (q + 1) s)
      if q % w ≠ 0 then storeYcc k (q - 1) s else s
    else
      match f.handle with
      | some n =>
        (List.range (pgroup a).2).foldl (fun s i =>
          putPixel n s (q + i, rgbPixel s a (at_ (3 * i)) (at_ (3 * i + 1)) (at_ (3 * i + 2)))) s
      | none => s
  | none => s

/-- The pgroups that the row headers of a packet name: pixel offset and bytes. -/
def packetGroups (a w : Nat) : List (Nat × Bool × Nat × Nat) → List Byte → List (Nat × List Byte)
  | [], _ => []
  | r :: rs, bs =>
    let (n, p) := pgroup a
    ((List.range (r.1 / n)).map fun j => (r.2.2.1 * w + r.2.2.2 + j * p, slice bs (j * n) n)) ++
      packetGroups a w rs (bs.drop r.1)

/-- A packet that is dropped and makes its frame incomplete, with FORMAT_ERROR. -/
def badPacket (s : State) (k why : Nat) : State :=
  formatError (modFrame (dropPacket s k) k fun f => { f with bad := true }) k why

/-- PORT_OVERFLOW, at most once per port per hoop, with the packets dropped since the last (R158). -/
def portOverflow (s : State) (p : Nat) : State :=
  let g := s.ing
  let n := tget (fun _ => 0) g.overflow p + 1
  let s := latchCount s (ING_PORT_STAT p) 31 16 1
  if tget (fun _ => none) g.overflowHoop p = some s.hoop.number then
    setIng s { s.ing with overflow := tput (fun _ => 0) g.overflow p n }
  else
    noticeBoth (setIng s { s.ing with
      overflow := tput (fun _ => 0) g.overflow p 0
      overflowHoop := tput (fun _ => none) g.overflowHoop p (some s.hoop.number) }) 0x0606 (32 + p) n

/-- A packet of the frame in reception with sequence number `q` and its row headers. -/
def framePacket (s : State) (k q : Nat) (marker : Bool) (ptBad : Bool) (hs : List (Nat × Bool × Nat × Nat))
    (payload : List Byte) (full : Bool) : State :=
  match (sessOf s k).cur with
  | some f =>
    let a := word f.args 0
    let w := bits (word f.args 4) 31 16
    let h := bits (word f.args 4) 15 0
    let data := packetData a payload
    let total := sumNat (hs.map (·.1))
    if f.handle.isNone || f.complete then dropPacket s k
    else if f.seqs.contains q ||
        (decide (f.seqs ≠ []) && decide (63 < seqBehind f.high q ∧ seqBehind f.high q < 2 ^ 31)) then dropPacket s k
    else
      let why := ((hs.map (headerError a w h)).find? fun e => decide (e ≠ 0)).getD 0
      if why ≠ 0 then badPacket s k why
      else if ptBad then badPacket s k 5
      else if data.length < total then badPacket s k 6
      else if full then modFrame (portOverflow s (bits a 23 22)) k fun f => { f with bad := true }
      else
        let n := (pgroup a).1
        let px := sumNat (hs.map fun r => r.1 / n * (pgroup a).2)
        let s := (packetGroups a w hs data).foldl (storePgroup k) s
        modFrame s k fun f =>
          { f with seqs := q :: f.seqs, pixels := f.pixels + px
                   high := if f.seqs = [] ∨ seqBehind q f.high < 2 ^ 31 then q else f.high
                   marker := if marker then some q else f.marker }
  | none => s

/-- SSRC of a session with SRC_ADDR 0 (R140): whether the packet is taken, and the state after. -/
def ssrcTake (s : State) (k ssrc : Nat) : Bool × State :=
  let x := sessOf s k
  if sessW s.cfg k 2 ≠ 0 then (true, s)
  else match x.ssrc with
    | some v => if v = ssrc then (true, setSess s k { x with ssrcAge := 0 }) else (false, dropPacket s k)
    | none =>
      let s := setSess s k { x with ssrc := some ssrc, ssrcAge := 0, relatch := false }
      (true, if x.relatch then noticeBoth s 0x0602 k ssrc else s)

/-- A packet of session `k`: `rtp` is its UDP payload, `full` whether it finds the port's write
buffer full (R140 to R143). -/
def sessionPacket (s : State) (k : Nat) (rtp : List Byte) (full : Bool) : State :=
  if rtp.length < 12 then dropPacket s k
  else
    let (take, s) := ssrcTake s k (be rtp 8 4)
    if !take then s
    else
      let x := sessOf s k
      let ts := be rtp 4 4
      let t := match x.cur with
        | some f => some f.ts
        | none => x.lastTs
      if (match t with | some t => tsEarlier t ts | none => false) then dropPacket s k
      else
        let s := match x.cur with
          | some f => if f.ts = ts then s else startFrame s k ts
          | none => startFrame s k ts
        let b0 := byteAt rtp 0
        let csrc := 12 + 4 * (b0 % 16)
        let ext := if bitOf b0 4 then csrc + 4 + 4 * be rtp (csrc + 2) 2 else csrc
        let stop := if bitOf b0 5 then rtp.length - byteAt rtp (rtp.length - 1) else rtp.length
        let body := (rtp.take stop).drop ext
        let hs := rowHeaders (body.drop 2) 3
        if body.length < 2 + 6 * hs.length then
          match (sessOf s k).cur with
          | some f => if f.handle.isNone || f.complete then dropPacket s k else badPacket s k 6
          | none => s
        else
          let q := be body 0 2 * 65536 + be rtp 2 2
          let a3 := sessW s.cfg k 3
          framePacket s k q (bitOf (byteAt rtp 1) 7)
            (bitOf a3 7 && decide (byteAt rtp 1 % 128 ≠ a3 % 128)) hs (body.drop (2 + 6 * hs.length)) full

/-- The frame in reception meets R142: its marker packet, every sequence number from the lowest to
the marker's, and WIDTH × HEIGHT pixels. -/
def frameWhole (f : Frame) : Bool :=
  match f.marker with
  | some m =>
    let behind := (f.seqs.map (seqBehind m)).filter fun d => decide (d < 2 ^ 31)
    !f.bad && !f.complete && decide (behind.foldl max 0 + 1 = behind.length) &&
      decide (bits (word f.args 4) 31 16 * bits (word f.args 4) 15 0 ≤ f.pixels)
  | none => false

/-- A session's frame completes. -/
def frameComplete (s : State) (k : Nat) : State :=
  let x := sessOf s k
  match x.cur with
  | some f =>
    match f.handle with
    | some n =>
      if frameWhole f then
        let s := setIng s { s.ing with order := s.ing.order + 1 }
        setSess s k
          { x with cur := some { f with complete := true, samples := [] }, complete := x.complete + 1
                   waiting := x.waiting ++ [⟨f.ts, n, bits (word f.args 4) 31 16, s.ing.order⟩] }
      else s
    | none => s
  | none => s

/-! ### The ingest deadline (R127, R144, R145, R155) -/

/-- SESSION_STATE. -/
def setSessState (s : State) (k : Nat) (st : SessState) : State :=
  let x := sessOf s k
  if x.state = st then s
  else noticeBoth (setSess s k { x with state := st }) 0x0601 k (st.code + x.state.code * 256)

/-- R_k: the deadline's boundary less OFFSET on the 90 kHz RTP clock. -/
def rtpTime (s : State) (k : Nat) : Nat :=
  (((s.hoop.bNext : Int) - 4 * sext 32 (sessW s.cfg k 6)) * 9 / 400000 % (2 ^ 32 : Int)).toNat

/-- The frame a session offers (R144): the latest eligible, or the one completed last. -/
def chooseOffer (s : State) (k : Nat) (x : SessRt) : Option DoneFrame :=
  let all := x.waiting ++ x.offer.toList
  let arrival := bitOf (sessW s.cfg k 0) 30
  let r := rtpTime s k
  let ok := all.filter fun f => arrival || decide ((r + 2 ^ 32 - f.ts) % 2 ^ 32 < 2 ^ 31)
  ok.foldl (fun best f => match best with
    | some b => if (if arrival then decide (b.order < f.order) else tsEarlier f.ts b.ts) then some f else some b
    | none => some f) none

/-- A complete frame older than the last offer. -/
def olderFrame (arrival : Bool) (offer : Option DoneFrame) (f : DoneFrame) : Bool :=
  match offer with
  | some o => if arrival then decide (f.order < o.order) else tsEarlier o.ts f.ts
  | none => false

/-- A session's SSRC unlatches after 16 deadlines without a packet of it (R140). -/
def ssrcAge (s : State) (k : Nat) : State :=
  let x := sessOf s k
  if x.ssrc.isSome && decide (sessW s.cfg k 2 = 0) then
    if 15 ≤ x.ssrcAge then setSess s k { x with ssrc := none, ssrcAge := 0, relatch := true }
    else setSess s k { x with ssrcAge := x.ssrcAge + 1 }
  else s

/-- The offered frame of a session, once its handle is neither pinned nor named by the session, is gone: only
a stop of the generator lets that come about. -/
def standingOffer (s : State) (k : Nat) : Option DoneFrame :=
  (sessOf s k).offer.filter fun f => pinned s f.handle || (sessHandles s.cfg k).contains f.handle

/-- The deadline of hoop k for one enabled session. -/
def sessionDeadline (s : State) (k : Nat) : State :=
  let s := ssrcAge s k
  let x : SessRt := { sessOf s k with offer := standingOffer s k }
  let arrival := bitOf (sessW s.cfg k 0) 30
  let old := x.waiting.filter (olderFrame arrival x.offer)
  let s := if old = [] then s else skipFrames s k old.length
  let x := { x with waiting := x.waiting.filter fun f => !olderFrame arrival x.offer f }
  let s := match chooseOffer s k x with
    | some f =>
      if x.offer = some f then setSess s k { x with age := min (x.age + 1) 255 }
      else
        setSessState (setSess s k
          { x with offer := some f, age := 0, waiting := x.waiting.filter fun g => decide (g ≠ f) }) k .live
    | none => setSess s k { x with age := min (x.age + 1) 255 }
  let x := sessOf s k
  let s := if x.state = .live ∧ 16 ≤ x.age then setSessState s k .lost else s
  match x.offer with
  | some f => pin s f.handle (s.hoop.fNumber + 2)
  | none => s

def sourceOf (s : State) (l : Nat) : SourceRt := tget (fun _ => SourceRt.reset) s.ing.src l
def setSource (s : State) (l : Nat) (x : SourceRt) : State :=
  setIng s { s.ing with src := tput (fun _ => SourceRt.reset) s.ing.src l x }

/-- The image of a host candidate: the handle whose PUBLISH completed last. -/
def hostImage (s : State) (l n : Nat) : Option Nat :=
  let order := fun h => tget (fun _ => 0) s.ing.published h
  match (candHandles s.cfg l n).filter fun h => decide (order h ≠ 0) with
  | [] => none
  | h :: hs => some (hs.foldl (fun b h => if order b < order h then h else b) h)

/-- One candidate judged at the deadline: whether it is healthy, and its frozen image pinned. -/
def judge (s : State) (l n : Nat) : Bool × State :=
  match candKind s.cfg l n with
  | 1 =>
    let k := candSession s.cfg l n
    let x := sessOf s k
    (sessOn s.cfg k && decide (x.state = .live ∨ x.state = .lost) &&
      decide (x.age < bits (srcW s.cfg l 0) 23 16), s)
  | 2 =>
    let img := hostImage s l n
    let s := setIng s { s.ing with frozenHost := tput (fun _ => none) s.ing.frozenHost (4 * l + n) img }
    match img with
    | some h => (true, pin s h (s.hoop.fNumber + 2))
    | none => (false, s)
  | _ => (false, s)

/-- The deadline for the source set of layer `l`. -/
def sourceDeadline (s : State) (l : Nat) : State :=
  (List.range 4).foldl (fun s n =>
    let (ok, s) := judge s l n
    let x := sourceOf s l
    setSource s l { x with
      healthy := x.healthy.set n ok
      run := x.run.set n (if ok then min ((x.run[n]?).getD 0 + 1) 255 else 0) }) s

/-- A session that is not enabled keeps its last offer until the deadline after (R146). -/
def dropOffer (s : State) (k : Nat) : State :=
  if sessOn s.cfg k then s else setSess s k { sessOf s k with offer := none, waiting := [] }

/-- INGEST_DEADLINE: the instant B_(k+1) − ingest lead reaches FCLK. -/
def ingestDeadline (s : State) : State :=
  if s.hoop.running && s.hoop.fStarted && !s.hoop.fDue then
    let s := runTo (moveQ s.hoop.bNext (-(leadQ s 2 : Nat))) s
    let s := (s.ing.sess.map (·.1)).foldl dropOffer s
    let s := (enabledSessions s.cfg).foldl sessionDeadline s
    (enabledSources s.cfg).foldl sourceDeadline s
  else s

/-! ### Meanings -/

/-- ING_FRAME_COMPLETE (R142). -/
def execIngFrameComplete (k : Nat) (s : State) : Host.Outcome State Fault Refusal := done (frameComplete s k)
/-- CURVE_DATA_WRITE (R153). -/
def execCurveDataWrite (v : Word) (s : State) : Host.Outcome State Fault Refusal := done (curveWrite s v)
/-- CURVE_DATA_READ (R153). -/
def execCurveDataRead (s : State) : Host.Outcome State Fault Refusal := done (curveRead s)

end Sys2Proof.Machine
end

