-- ==== Sys2Proof/Machine/Images.lean ====
section
/-! DEFINITION. Machine/Images.lean: host images, BUF_WRITE and BUF_READ (chapters 5 and 6). -/
namespace Sys2Proof.Machine

/-! ### BUF_WRITE (R147 to R149) -/

/-- X, Y, W, H and STRIDE of a BUF_WRITE or BUF_READ. -/
def rectX (d : Desc) : Nat := bits (darg d 2) 31 16
def rectY (d : Desc) : Nat := bits (darg d 2) 15 0
def rectW (d : Desc) : Nat := bits (darg d 3) 31 16
def rectH (d : Desc) : Nat := bits (darg d 3) 15 0
def rectStride (d : Desc) : Nat := darg d 4

/-- FORMAT of a BUF_WRITE. -/
def imgFormat (d : Desc) : Nat := bits (darg d 0) 31 28

/-- Bytes of one line of a host image (R148). -/
def lineBytes (d : Desc) : Nat :=
  if imgFormat d = 2 then
    let (n, p) := pgroup (darg d 1)
    (rectW d + p - 1) / p * n
  else 8 * rectW d

/-- The rectangle lies inside handle `n`. -/
def rectInside (s : State) (d : Desc) : Bool :=
  let h := handleOf s d.object
  decide (rectX d + rectW d ≤ h.w ∧ rectY d + rectH d ≤ h.h)

/-- BAD_DESCRIPTOR cases of a BUF_WRITE (R147, Table 5-5). -/
def writeBad (d : Desc) : Bool :=
  let a := darg d 0
  let f := darg d 1
  let fmt := imgFormat d
  !argsZeroFrom d 5 || decide (2 < fmt ∨ bits a 25 0 ≠ 0 ∨ (bitOf a 26 = true ∧ fmt ≠ 1)
    ∨ rectW d = 0 ∨ 16384 < rectW d ∨ rectH d = 0 ∨ 16384 < rectH d
    ∨ (fmt = 0 ∧ f ≠ 0) ∨ (fmt = 1 ∧ (bits f 31 28 ≠ 0 ∨ bits f 23 0 ≠ 0))
    ∨ (fmt = 2 ∧ (bits f 31 28 ≠ 0 ∨ bits f 13 0 ≠ 0))
    ∨ (fmt = 2 ∧ bits f 21 20 = 1 ∧ rectW d % 2 = 1))

/-- LENGTH or STRIDE does not fit the rectangle. -/
def lengthBad (d : Desc) (line : Nat) : Bool :=
  decide (rectStride d < line ∨ d.length ≠ rectStride d * (rectH d - 1) + line)

/-- The handle may be written: R149's checks in order, then Table 6-4. -/
def writeCheck (s : State) (d : Desc) : Nat :=
  let n := d.object
  let h := handleOf s n
  let c := namingCfg s
  if h.state = .free then stNotFound
  else if !rectInside s d then stState
  else if namedBySession c n then stState
  else if pinned s n then stState
  else match h.state with
    | .idle => stOk
    | .bound => if boundToLayer c n then stState else stOk
    | .retiring => stRetiring
    | _ => stState

/-- BUF_WRITE reaches ING: its checks, then its first host read. -/
def startWrite (s : State) (t : Track) : State :=
  let d := t.desc
  if writeBad d then finish s t.id stBad 0 0
  else if decide (imgFormat d = 2) && formatBad (darg d 1) then finish s t.id stFormat 0 0
  else if lengthBad d (lineBytes d) then finish s t.id stLength 0 0
  else
    let st := writeCheck s d
    if st ≠ stOk then finish s t.id st 0 0 else begin s t.id

/-- An RGBA16 pixel (R148). -/
def rgba16Pixel (s : State) (d : Desc) (bs : List Byte) : BitVec 64 :=
  let a := le bs 6 2
  let k := bits (darg d 1) 27 24
  let f := fun o =>
    let l := finishChannel s k (normLuma true (le bs o 2))
    if bitOf (darg d 0) 26 then (l * a + 2 ^ 15) / 2 ^ 16 else l
  packPixel (f 0) (f 2) (f 4) a

/-- The pixels of one line of a host image. -/
def hostLine (s : State) (d : Desc) (line : List Byte) : List (BitVec 64) :=
  match imgFormat d with
  | 0 => (List.range (rectW d)).map fun x => BitVec.ofNat 64 (le line (8 * x) 8)
  | 1 => (List.range (rectW d)).map fun x => rgba16Pixel s d (slice line (8 * x) 8)
  | _ => linePixels s (darg d 1) (rectW d) line

/-- Line `y` of the image written into the handle. -/
def writeLine (d : Desc) (data : List Byte) (s : State) (y : Nat) : State :=
  let n := d.object
  let base := (rectY d + y) * (handleOf s n).w + rectX d
  let px := hostLine s d (slice data (y * rectStride d) (lineBytes d))
  ((List.range px.length).zip px).foldl (fun s x => putPixel n s (base + x.1, x.2)) s

/-- The lines of the image that `data` holds whole. -/
def writeLines (s : State) (d : Desc) (data : List Byte) : State :=
  ((List.range (rectH d)).filter fun y => decide (y * rectStride d + lineBytes d ≤ data.length)).foldl
    (writeLine d data) s

/-- PUBLISH takes effect: the handle is the image of the host candidate that names it, or comes to name
it (R155). -/
def publish (s : State) (n : Nat) : State :=
  setIng s { s.ing with
    order := s.ing.order + 1
    published := tput (fun _ => 0) s.ing.published n (s.ing.order + 1) }

/-- PUBLISH of a BUF_WRITE that the driving unit completed in hoop `h`: on a joined pair it counts
after the ingest deadline of that hoop (R328). -/
def publishIn (s : State) (n : Nat) (h : Hoop) : State :=
  if pairJoined s && decide (s.twn.frozenIn ≠ some h) then
    { s with twn := { s.twn with publishes := s.twn.publishes ++ [(h, n)] } }
  else publish s n

/-- The last pixel of a BUF_WRITE is handed to MEM (R149), in hoop `h` of the unit that drives. -/
def landWrite (s : State) (t : Track) (data : List Byte) (h : Hoop) : State :=
  let s := writeLines s t.desc (data ++ List.replicate (t.desc.length - data.length) 0)
  let s := if bitOf (darg t.desc 0) 27 then publishIn s t.desc.object h else s
  finish s t.id stOk 0 0

/-- The data of a BUF_WRITE has come. While its handle is pinned, ING does not write it (R144): MEM holds the
data back (R31). DEDUCED (log 60). -/
def writeCompleteIn (s : State) (t : Track) (data : List Byte) (h : Hoop) : State :=
  if pinned s t.desc.object then
    setIng s { s.ing with heldWrites := s.ing.heldWrites ++ [⟨t.id, data, h⟩] }
  else landWrite s t data h

/-- One write that was held back: it is handed to MEM unless its handle is pinned still. -/
def landHeld (s : State) (w : HeldWrite) : State :=
  match findTrack s w.track with
  | some t => writeCompleteIn s t w.data w.hoop
  | none => s

/-- The writes that were held back are looked at again, in their order. -/
def landWrites (s : State) : State := s.ing.heldWrites.foldl landHeld (setIng s { s.ing with heldWrites := [] })

/-- The data of BUF_WRITE entry `id` is held back. -/
def writeHeld (s : State) (id : Nat) : Bool := s.ing.heldWrites.any fun w => decide (w.track = id)

/-- The last pixel of a BUF_WRITE is handed to MEM. -/
def writeComplete (s : State) (t : Track) (data : List Byte) : State := writeCompleteIn s t data s.hoop.fNumber

/-! ### BUF_READ (R162) -/

/-- BUF_READ reaches LAY. -/
def startRead (s : State) (t : Track) : State :=
  let d := t.desc
  let h := handleOf s d.object
  if decide (darg d 0 ≠ 0 ∨ darg d 1 ≠ 0 ∨ rectW d = 0 ∨ 16384 < rectW d ∨ rectH d = 0 ∨ 16384 < rectH d)
      || !argsZeroFrom d 5 then finish s t.id stBad 0 0
  else if lengthBad d (8 * rectW d) then finish s t.id stLength 0 0
  else if h.state = .free then finish s t.id stNotFound 0 0
  else if h.state = .filling then finish s t.id stState 0 0
  else if !rectInside s d then finish s t.id stState 0 0
  else begin s t.id

/-- Line `y` of the rectangle, in the WORKING format. -/
def readLine (s : State) (d : Desc) (y : Nat) : List Byte :=
  let base := (rectY d + y) * (handleOf s d.object).w + rectX d
  (List.range (rectW d)).flatMap fun x => leBytes 8 (pixelAt s d.object (base + x)).toNat

/-- The rectangle is written to host memory, line by line. -/
def readComplete (s : State) (t : Track) : State :=
  let d := t.desc
  let lines := (List.range (rectH d)).map fun y =>
    HostWrite.data (d.hostAddr + y * rectStride d) (readLine s d y)
  let s := { s with out := s.out ++ lines }
  finish s t.id stOk 0 0

/-- The oldest descriptor of ring `n` with tag `tag` and opcode `op` past its point of no return. -/
def findOp (s : State) (n tag op : Nat) : Option Track :=
  s.hif.track.find? fun t =>
    decide (t.ring = n ∧ t.desc.tag = tag ∧ t.desc.opcode = op ∧ t.phase = .running)

end Sys2Proof.Machine
end

