-- ==== Sys2Proof/Machine/Mac.lean ====
section
/-! DEFINITION. Machine/Mac.lean: the Ethernet ports (chapter 11): transmit queues, the wire, pause,
link and disable, receive checks, host filters and posted buffers, counters. -/
namespace Sys2Proof.Machine

/-! ### A port -/

def portOf (s : State) (p : Nat) : MacPort := tget (fun _ => MacPort.reset) s.mac p
def setPort (s : State) (p : Nat) (x : MacPort) : State :=
  { s with mac := tput (fun _ => MacPort.reset) s.mac p x }

/-- The squelch of port `p` has been lifted (R396), and no clock halt silences it (R442). -/
def lifted (s : State) (p : Nat) : Bool := s.boot.lifted.contains p && s.glb.halted.isNone
/-- The port is in service. -/
def portOn (s : State) (p : Nat) : Bool := lifted s p && regBit s (MAC_CTRL p) 31
/-- The port is in service and LINK is 1. -/
def portUp (s : State) (p : Nat) : Bool := portOn s p && (portOf s p).link
def macCfg (s : State) (p k : Nat) : Bool := regBit s (MAC_CFG p) k
/-- M of R294. -/
def maxFrame (s : State) (p : Nat) : Nat := regFld s (MAC_CFG p) 13 0
/-- The port's own address: six bytes. -/
def macAddr (s : State) (p : Nat) : List Byte :=
  beBytes 4 (reg s (MAC_ADDR_HI p)).toNat ++ beBytes 2 (regFld s (MAC_ADDR_LO p) 31 16)

/-- Quarter-ns, as a fraction, of one byte on the wire and of a pause quantum (Table 11-1). -/
def byteTime (p : Nat) : Nat × Nat := if p < 32 then (16, 5) else if p < 36 then (8, 25) else (32, 25)
def quantum (p : Nat) : Nat × Nat := if p < 32 then (1024, 5) else if p < 36 then (512, 25) else (2048, 25)

/-- The unit drives its thread ports (R315, R316). -/
def drives (s : State) : Bool := !s.boot.twinEn || s.twn.driving

/-! ### Counters (R310) -/

/-- Counter `i` raised by `n`, with COUNTER_HALF as bit 31 rises. -/
def count (s : State) (p i n : Nat) : State :=
  let x := portOf s p
  let old := tget (fun _ => 0) x.counters i
  let new := old + w32 n
  let s := setPort s p { x with counters := tput (fun _ => 0) x.counters i new }
  if !bitW old 31 && bitW new 31 then noticeBoth s 0x0C02 p i else s

/-- The size bin of a frame of `l` bytes, counted from the first bin. -/
def sizeBin (l : Nat) : Nat :=
  if l ≤ 64 then 0 else if l ≤ 127 then 1 else if l ≤ 255 then 2 else if l ≤ 511 then 3
  else if l ≤ 1023 then 4 else if l ≤ 1518 then 5 else 6

/-- Unicast, multicast or broadcast, as an offset into Table 11-9. -/
def castOf (bytes : List Byte) : Nat :=
  if bytes.take 6 = List.replicate 6 0xFF then 2 else if bitOf (byteAt bytes 0) 0 then 1 else 0

/-- A frame carries a 0x8100 tag. -/
def tagged (bytes : List Byte) : Bool := decide (be bytes 12 2 = 0x8100)

/-- A frame that left, or was received good: octets, frames, cast, tag and bin from counter `base`. -/
def countFrame (s : State) (p base tagIx bin : Nat) (bytes : List Byte) : State :=
  let l := bytes.length + 4
  let s := count s p base l
  let s := count s p (base + 1) 1
  let s := count s p (base + 2 + castOf bytes) 1
  let s := if tagged bytes then count s p tagIx 1 else s
  count s p (bin + sizeBin l) 1

/-! ### Transmit queues (R301, R307) -/

/-- Queue `q` of port `p`; queue 8 holds the port's own pause frames. -/
def queueAt (s : State) (p q : Nat) : List TxFrame := tget (fun _ => []) (portOf s p).queues q
def setQueueAt (s : State) (p q : Nat) (l : List TxFrame) : State :=
  let x := portOf s p
  setPort s p { x with queues := tput (fun _ => []) x.queues q l }
def waitingAt (s : State) (p q : Nat) : List TxFrame := tget (fun _ => []) (portOf s p).waiting q
def setWaitingAt (s : State) (p q : Nat) (l : List TxFrame) : State :=
  let x := portOf s p
  setPort s p { x with waiting := tput (fun _ => []) x.waiting q l }

/-- Capacity of a queue (Table 11-6); none: never full. -/
def queueCap (p q : Nat) : Option Nat :=
  if q = 7 then some 16 else if q = 3 then some 64 else if q < 3 then some 32
  else if 36 ≤ p ∧ q < 8 then some 64 else none

/-- Queue `q` has room for a frame. -/
def queueHasRoom (s : State) (p q : Nat) : Bool :=
  match queueCap p q with
  | some n => decide ((queueAt s p q).length < n)
  | none => true

/-- A frame is discarded (Table 11-8): its sender's outcome. -/
def discardFrame (s : State) (p : Nat) (f : TxFrame) : State :=
  let s := if f.sender = .pause then s else count s p 38 1
  match f.sender with
  | .firmware => notice s 0x0C04 p 1 false true
  | .rawTx t _ => finish s t 0x48 0 0
  | _ => s

/-- A unit that does not drive hands its thread ports no frame but firmware's (R317, R319). -/
def kept (s : State) (p : Nat) (f : TxFrame) : Bool :=
  decide (p < 32) && !drives s && decide (f.sender ≠ .firmware)

/-- A frame that is not handed, as the unit does not drive: RAW_TX completes REFUSED_STATE (R317). -/
def keepFrame (s : State) (f : TxFrame) : State :=
  match f.sender with
  | .rawTx t _ => finish s t stState 0 0
  | _ => s

/-- A frame handed to queue `q` of port `p`: queued, waiting for space, or discarded while the port
is out of service or its link is down. A RAW_TX passes its point of no return here (Table 2-11). -/
def hand (s : State) (p q : Nat) (f : TxFrame) : State :=
  if kept s p f then keepFrame s f
  else if !portUp s p then discardFrame s p f
  else if queueHasRoom s p q && decide (waitingAt s p q = []) then
    let s := setQueueAt s p q (queueAt s p q ++ [f])
    match f.sender with
    | .rawTx t _ => begin s t
    | _ => s
  else setWaitingAt s p q (waitingAt s p q ++ [f])

/-- Frames that wait for queue `q` enter it as it drains. -/
def enterQueue (s : State) (p q : Nat) : State :=
  match waitingAt s p q with
  | f :: rest =>
    if queueHasRoom s p q then hand (setWaitingAt s p q []) p q f |> fun s => setWaitingAt s p q rest else s
  | [] => s

/-- A slot of a queue of port `p` has come free: frames that wait enter. -/
def enterQueues (s : State) (p : Nat) : State := (List.range 8).foldl (fun s q => enterQueue s p q) s

/-- Every queued and waiting frame of a port is discarded, firmware's in MAC_FW_TX too (Table 11-8). -/
def discardAll (s : State) (p : Nat) : State :=
  let x := portOf s p
  let fs := (x.queues.flatMap fun q => q.2) ++ (x.waiting.flatMap fun q => q.2) ++ (x.fwTx.map (·.frame)).toList
  fs.foldl (fun s f => discardFrame s p f) (setPort s p { x with queues := [], waiting := [], fwTx := none })

/-! ### PTP frames (R94, R95, R99) -/

/-- The offset of what follows the EtherType, past one 0x8100 tag (R297). -/
def etherOff (bytes : List Byte) : Nat := if tagged bytes then 18 else 14
def etherType (bytes : List Byte) : Nat := be bytes (etherOff bytes - 2) 2
/-- The offset of a PTP header, over either transport of Table 3-3. -/
def ptpAt (bytes : List Byte) : Option Nat :=
  let o := etherOff bytes
  if etherType bytes = 0x88F7 then some o
  else match parseUdp bytes none with
    | some u => if u.port = 319 ∨ u.port = 320 then some (u.udp + 8) else none
    | none => none

/-- The sequenceId of a PTP frame; 0 for another. -/
def ptpSequence (bytes : List Byte) : Nat :=
  match ptpAt bytes with
  | some o => be bytes (o + 30) 2
  | none => 0

/-- A Sync rewritten with the egress stamp `q` (R94); none: not a PTPv2 Sync. -/
def oneStepSync (bytes : List Byte) (q : Nat) : Option (List Byte) :=
  match ptpAt bytes with
  | some o =>
    if byteAt bytes o % 16 = 0 ∧ byteAt bytes (o + 1) % 16 = 2 ∧ o + 44 ≤ bytes.length then
      let sec := q / 4000000000
      let nsq := q % 4000000000
      let b := splice bytes (o + 34) (beBytes 6 sec ++ beBytes 4 (nsq / 4))
      let b := splice b (o + 8) (beBytes 8 ((be bytes (o + 8) 8 + nsq % 4 * 2 ^ 14) % 2 ^ 64))
      some (if etherType bytes = 0x88F7 then b else splice b (o - 2) [0, 0])
    else none
  | none => none

/-! ### The wire (R301 to R303) -/

/-- The tag that the port inserts in a frame of queue `q` (R303). -/
def insertTag (s : State) (p q : Nat) (f : TxFrame) : List Byte :=
  if macCfg s p 27 && !f.ownTag && decide (f.sender ≠ .pause) then
    let pcp := regFld s (MAC_VLAN_PCP p) (3 * q + 2) (3 * q)
    f.bytes.take 12 ++ beBytes 2 0x8100 ++ beBytes 2 (pcp * 2 ^ 13 + regFld s (MAC_VLAN p) 11 0) ++ f.bytes.drop 12
  else f.bytes

/-- A received pause holds the transmitter (R305). -/
def held (s : State) (p : Nat) : Bool :=
  match (portOf s p).hold with
  | some t => decide ((portOf s p).holdFrom ≤ s.tim.elapsedQ ∧ s.tim.elapsedQ < t)
  | none => false

/-- A scheduled frame whose run's egress deadline device time has reached: it is to be removed, and starts no
more, not even as a hold ends in that cycle (Table 11-10). -/
def overdue (s : State) (f : TxFrame) : Bool :=
  match f.sender with
  | .sched r _ => s.hoop.running && decide (r = s.hoop.fNumber) &&
      reached s.tim.q (moveQ s.hoop.bNext (-(leadQ s 4 : Nat)))
  | _ => false

/-- The first frame of queue `q` that may start. -/
def headFrame (s : State) (p q : Nat) : Option TxFrame := (queueAt s p q).find? fun f => !overdue s f

/-- The queue served next: the port's own pause frames first, then, unless held, the highest. -/
def nextQueue (s : State) (p : Nat) : Option Nat :=
  if (headFrame s p 8).isSome then some 8
  else if held s p then none
  else [7, 6, 5, 4, 3, 2, 1, 0].find? fun q => (headFrame s p q).isSome

/-- What the reconciliation sublayer has the port send. -/
inductive RsSends where
  | frames
  | remoteFault
  | idle
  deriving DecidableEq, Repr

/-- PRESUMED (log 67), IEEE 802.3: remote fault while the port sees no lock or a local fault, idle while it
sees a remote fault, and frames else (R292); with LINK at 0 no frame either (R293). -/
def rsSends (s : State) (p : Nat) : RsSends :=
  let x := portOf s p
  if !x.lock || x.localFault then .remoteFault
  else if x.remoteFault || !portUp s p then .idle
  else .frames

def egrOf (s : State) (p : Nat) : EgrPort := tget (fun _ => EgrPort.reset) s.egr.ports p
def setEgr (s : State) (p : Nat) (x : EgrPort) : State :=
  { s with egr := { s.egr with ports := tput (fun _ => EgrPort.reset) s.egr.ports p x } }

/-- A scheduled frame that starts more than EGR_LATE.NS after it was due counts as SENT late (R265). -/
def noteLate (s : State) (p : Nat) (f : TxFrame) : State :=
  match f.sender with
  | .sched _ _ =>
    let due := moveQ f.due (4 * (reg s EGR_LATE).toNat : Nat)
    if reached s.tim.q due && decide (s.tim.q ≠ due) then
      setEgr (latchCount s (EGR_TX_LATE p) 31 16 1) p { egrOf s p with lateSent := (egrOf s p).lateSent + 1 }
    else s
  | _ => s

/-- Quarter-ns that `n` bytes take on the wire of port `p`, rounded up. -/
def wireQ (p n : Nat) : Nat := (n * (byteTime p).1 + (byteTime p).2 - 1) / (byteTime p).2

/-- The wire of port `p` is free and its next frame starts; `phase` sixteenths into the cycle its
first bit crosses the balls. -/
def txStart (s : State) (p phase : Nat) : State :=
  if (portOf s p).wire.isSome || decide (rsSends s p ≠ .frames) then s
  else match nextQueue s p with
    | some q =>
      match headFrame s p q with
      | some f =>
        let stamp := egressStamp s p (phase % 16)
        let bytes := insertTag s p q f
        let bytes := if f.oneStep then (oneStepSync bytes stamp).getD bytes else bytes
        let s := noteLate (setQueueAt s p q ((queueAt s p q).erase f)) p f
        let s := setPort s p { portOf s p with
          wire := some { f with bytes := bytes }, wireQueue := q, wireResult := none
          wireEnd := s.tim.elapsedQ + wireQ p (bytes.length + 24) }
        match f.stamp with
        | some d => pushStamp s p stamp d
        | none => s
      | none => s
    | none => s

/-- The FCS of IEEE 802.3, that of R184, least significant byte first (log 67, R303). -/
def fcsOf (bytes : List Byte) : List Byte := leBytes 4 (crc32 bytes)

/-! ### Firmware frames (R304) -/

/-- `n` bytes of shared memory, a CCS address; what lies beyond it reads zero. -/
def sharedRead (s : State) (a n : Nat) : List Byte :=
  tgetList (fun _ => 0) s.ccs.shared (a - 0x20000000) n
def sharedWrite (s : State) (a : Nat) (bs : List Byte) : State :=
  { s with ccs := { s.ccs with shared := tputList (fun _ => 0) s.ccs.shared (a - 0x20000000) bs } }
/-- A range inside shared memory. -/
def inShared (a n : Nat) : Bool := decide (0x20000000 ≤ a ∧ a + n ≤ 0x20800000)

/-- Frames under 60 bytes are padded with zero bytes. -/
def pad60 (bs : List Byte) : List Byte := bs ++ List.replicate (60 - bs.length) 0

/-- The firmware frame that waits in MAC_FW_TX enters its queue as soon as there is room. A unit that
does not drive discards queue 3 frames on thread ports (R317). -/
def fwAdmit (s : State) (p : Nat) : State :=
  match (portOf s p).fwTx with
  | some f =>
    if f.queue = 3 ∧ p < 32 ∧ drives s = false then
      notice (setPort s p { portOf s p with fwTx := none }) 0x0C04 p 1 false true
    else if !portUp s p || queueHasRoom s p f.queue then
      hand (setPort s p { portOf s p with fwTx := none }) p f.queue f.frame
    else s
  | none => s

/-- A GO kick: the frame is copied from shared memory. -/
def fwTxGo (s : State) (p : Nat) (v : Word) : State :=
  let busy := (portOf s p).fwTx.isSome
  let s := plainWrite s (MAC_FW_TX_CTRL p) v
  let n := fld v 10 0
  let a := (reg s (MAC_FW_TX_ADDR p)).toNat
  if busy || decide (n < 14 ∨ 2044 < n) || !inShared a n then s
  else
    let bytes := pad60 (sharedRead s a n)
    let f : TxFrame :=
      { bytes := bytes, sender := .firmware, due := 0, ownTag := false
        stamp := if fld v 29 28 = 1 then some (.firmware (ptpSequence bytes)) else none
        oneStep := decide (fld v 29 28 = 2) }
    fwAdmit (setPort s p { portOf s p with fwTx := some ⟨f, if bitW v 27 then 3 else 7⟩ }) p

/-- Firmware's receive slots: a PTP frame with its record goes to the lowest free slot. -/
def fwReceive (s : State) (p : Nat) (record bytes : List Byte) : State :=
  let base := reg s (MAC_FW_RX_BASE p)
  match (List.range 16).find? fun i => !(portOf s p).fwSlots.contains i with
  | some i =>
    if base = 0 then count s p 23 1
    else
      let s := setPort s p { portOf s p with fwSlots := (portOf s p).fwSlots ++ [i] }
      let s := sharedWrite s (base.toNat + 2048 * i) (record ++ bytes.take 2032)
      notice s 0x0C03 p i false true
  | none => count s p 23 1

/-! ### Pause (R305, R306) -/

/-- Whole quanta of the hold that have passed and are not yet added to PAUSE_HELD. -/
def heldQuanta (s : State) (p : Nat) : Nat :=
  match (portOf s p).hold with
  | some t => (min t s.tim.elapsedQ - (portOf s p).holdFrom) * (quantum p).2 / (quantum p).1
  | none => 0

/-- They are added. -/
def accountHold (s : State) (p : Nat) : State :=
  let n := heldQuanta s p
  if n = 0 then s
  else
    let s := count s p 39 n
    setPort s p { portOf s p with holdFrom := (portOf s p).holdFrom + n * (quantum p).1 / (quantum p).2 }

/-- A received pause frame of `l` bytes with pause time `q`: its quanta count from its end. A hold in force
goes on into the new one (log 68). -/
def pauseSeen (s : State) (p q l : Nat) (obey : Bool) : State :=
  let s := if obey then
      let on := held s p
      let s := accountHold s p
      let ends := s.tim.elapsedQ + wireQ p l
      setPort s p { portOf s p with
        hold := if q = 0 && !on then none else some (ends + (q * (quantum p).1 + (quantum p).2 - 1) / (quantum p).2)
        holdFrom := if on then (portOf s p).holdFrom else ends }
    else s
  if (portOf s p).seenHoop = some s.hoop.number then s
  else noticeBoth (setPort s p { portOf s p with seenHoop := some s.hoop.number }) 0x0C05 p q

/-- PAUSE_HOLD_END: the hold's quanta have elapsed. -/
def holdEnd (s : State) (p : Nat) : State :=
  match (portOf s p).hold with
  | some t =>
    let s := accountHold (runToCycle ((t + 15) / 16) s) p
    setPort s p { portOf s p with hold := none }
  | none => s

/-- The MAC control address. -/
def controlMac : List Byte := [0x01, 0x80, 0xC2, 0x00, 0x00, 0x01]

/-- The port queues a pause frame of its own with pause time `q`. -/
def sendPause (s : State) (p q : Nat) : State :=
  let bytes := pad60 (controlMac ++ macAddr s p ++ beBytes 2 0x8808 ++ beBytes 2 1 ++ beBytes 2 q)
  if portUp s p then
    setQueueAt s p 8 (queueAt s p 8 ++ [⟨bytes, .pause, 0, true, none, false⟩])
  else s

/-- The port may send pause frames: PAUSE_TX, and not a thread port of a unit that does not drive. -/
def mayPause (s : State) (p : Nat) : Bool := macCfg s p 30 && (decide (32 ≤ p) || drives s)

/-- Free space of the port's receive buffer: ING's write buffer on ports 32 to 35, else the FIFO, of
which `used` bytes are taken. -/
def freeSpace (s : State) (p used : Nat) : Nat :=
  if 32 ≤ p ∧ p < 36 then 1048576 - tget (fun _ => 0) s.ing.bufUsed (p - 32) else 65536 - used

/-- `used` bytes of ING's write buffer of an ingest port are taken now. -/
def noteFill (s : State) (p used : Nat) : State :=
  if 32 ≤ p ∧ p < 36 then setIng s { s.ing with bufUsed := tput (fun _ => 0) s.ing.bufUsed (p - 32) (min used 1048576) }
  else s

def xoffBytes (s : State) (p : Nat) : Nat := regFld s (MAC_PAUSE_TX p) 23 16 * 4096
def xonBytes (s : State) (p : Nat) : Nat :=
  max (regFld s (MAC_PAUSE_TX p) 31 24) (regFld s (MAC_PAUSE_TX p) 23 16 + 1) * 4096

/-- A pause of QUANTA: the first as the free space falls below XOFF, and its repeats every QUANTA/2
quanta while it stays below XON. -/
def pauseRefresh (s : State) (p used : Nat) : State :=
  let s := noteFill s p used
  let x := portOf s p
  let q := regFld s (MAC_PAUSE_TX p) 15 0
  if !mayPause s p then s
  else if !x.xoff then
    if freeSpace s p used < xoffBytes s p then
      sendPause (setPort s p { x with xoff := true, xoffAt := s.tim.elapsedQ }) p q
    else s
  else if freeSpace s p used < xonBytes s p then
    let due := x.xoffAt + q * (quantum p).1 / (2 * (quantum p).2)
    let s := runToCycle ((due + 15) / 16) s
    sendPause (setPort s p { portOf s p with xoffAt := s.tim.elapsedQ }) p q
  else s

/-- A pause of time 0 as the free space reaches XON. -/
def pauseXon (s : State) (p used : Nat) : State :=
  let s := noteFill s p used
  let x := portOf s p
  if x.xoff && decide (xonBytes s p ≤ freeSpace s p used) then
    let s := setPort s p { x with xoff := false }
    if mayPause s p then sendPause s p 0 else s
  else s

/-! ### Receive checks (R294 to R297)

A received frame is one command, at the instant of its time-stamp point: its checks and its consumer use
the settings that it starts under (R309), and a port whose EN falls later still delivers it (R307). Log 68. -/

/-- A received frame after the checks: without FCS and without a stripped tag. -/
structure RxFrame where
  bytes : List Byte
  trunc : Bool
  tci : Option Nat
  /-- ingress stamp in quarter-ns -/
  stamp : Nat

/-- What becomes of a received frame before any consumer sees it. -/
inductive RxResult where
  | dropped
  | pause (q : Nat) (obey : Bool)
  | frame (f : RxFrame)

/-- M′ of R294 for a frame. -/
def longest (s : State) (p : Nat) (bytes : List Byte) : Nat := maxFrame s p + (if tagged bytes then 4 else 0)
/-- A frame, given without its FCS, that R294 accepts only truncated. -/
def truncates (s : State) (p : Nat) (bytes : List Byte) : Bool := decide (longest s p bytes < bytes.length + 4)

/-- The checks of R294, R295 and R297 on a frame of port `p`, given without its FCS. -/
def rxCheck (s : State) (p : Nat) (bytes : List Byte) (fcsOk : Bool) (phase : Nat) : RxResult × State :=
  let l := bytes.length + 4
  let m := longest s p bytes
  if l < 64 then (.dropped, count s p 14 1)
  else if !fcsOk then (.dropped, count s p 16 1)
  else
    let trunc := truncates s p bytes
    let b := if trunc then bytes.take (m - 4) else bytes
    let s := if trunc then count s p 15 1 else countFrame s p 0 6 7 b
    let dst := b.take 6
    if !(decide (dst = macAddr s p) || bitOf (byteAt b 0) 0 || macCfg s p 29) then (.dropped, count s p 18 1)
    else if be b 12 2 = 0x8808 then
      if be b 14 2 = 1 then
        (.pause (be b 16 2) (macCfg s p 31 && (decide (dst = controlMac) || decide (dst = macAddr s p))), count s p 5 1)
      else (.dropped, count s p 19 1)
    else
      let strip := macCfg s p 28 && tagged b
      (.frame { bytes := if strip then b.take 12 ++ b.drop 16 else b, trunc := trunc
                tci := if strip then some (be b 14 2) else none, stamp := ingressStamp s p (phase % 16) }, s)

/-- The receive record of a frame (Table 11-5), `n` bytes of it following. -/
def rxRecord (p filter n : Nat) (cut : Bool) (f : RxFrame) : List Byte :=
  leBytes 2 n ++ leBytes 1 (b2n f.trunc + 2 * b2n cut + 4 * b2n f.tci.isSome + 8) ++ leBytes 1 filter ++
    leBytes 4 (f.stamp / 4000000000) ++ leBytes 4 (f.stamp % 4000000000) ++ leBytes 2 (f.tci.getD 0) ++
    leBytes 1 p ++ [0]

/-! ### Host receive (R299, R300) -/

/-- The words of filter `i`: ARG0 to ARG4 of the RX_FILTER that set it. -/
def filterOf (s : State) (p i : Nat) : List Word := tget (fun _ => []) (portOf s p).filters i

/-- Filter `i` matches a frame. -/
def filterMatch (s : State) (p : Nat) (f : RxFrame) (i : Nat) : Bool :=
  let w := fun k => (((filterOf s p i)[k]?).getD 0).toNat
  bitOf (w 0) 31 &&
  (!bitOf (w 0) 30 || match parseUdp f.bytes none with | some u => decide (u.port = w 4 % 65536) | none => false) &&
  (!bitOf (w 0) 29 || decide (f.bytes.take 6 = beBytes 4 (w 2) ++ beBytes 2 (w 3 / 65536))) &&
  (!bitOf (w 0) 28 || decide (etherType f.bytes = w 1 % 65536))

/-- Buffers posted on port `p` and not yet taken by a frame, oldest first; to filter `i`. -/
def postedOn (s : State) (p : Nat) : List Track :=
  s.hif.track.filter fun t =>
    decide (t.desc.opcode = 0x31 ∧ t.desc.object = p ∧ t.phase = .running) && !t.orphan && !t.past
def postedTo (s : State) (p i : Nat) : List Track :=
  (postedOn s p).filter fun t => decide (bits (darg t.desc 0) 2 0 = i)

/-- RX_NO_BUFFER, at most once per port per hoop. DESIGN CHOICE (log 69): it is posted at the hoop's first
drop, with the frames dropped this hoop as they stand then. -/
def noBuffer (s : State) (p i : Nat) : State :=
  let s := count s p 22 1
  let x := portOf s p
  let same := decide (x.noBufHoop = some s.hoop.number)
  let n := if same then x.noBuf + 1 else 1
  let s := setPort s p { x with noBuf := n, noBufHoop := some s.hoop.number }
  if same then s else notice s 0x0C06 p (i + n * 2 ^ 32) true false

/-- The host stage: the first filter that matches decides; `none` where none does. The frame's first byte
written is its buffer's point of no return (Table 2-11). -/
def hostStage (s : State) (p : Nat) (f : RxFrame) : Option State :=
  match (List.range 8).find? (filterMatch s p f) with
  | some i =>
    match postedTo s p i with
    | t :: _ =>
      let room := t.desc.length - 16
      let cut := decide (room < f.bytes.length)
      let bytes := f.bytes.take room
      let flags := b2n f.trunc + 2 * b2n cut + 4 * b2n f.tci.isSome + 8
      let w : RxWrite := ⟨t.id, rxRecord p i bytes.length cut f ++ bytes, 16 + bytes.length, flags + i * 256⟩
      some (begin (setPort s p { portOf s p with rxWrites := (portOf s p).rxWrites ++ [w] }) t.id)
    | [] => some (noBuffer s p i)
  | none => none

/-- The frame that RX_POST entry `t` took. -/
def rxWriteOf (s : State) (t : Track) : Option RxWrite :=
  (portOf s t.desc.object).rxWrites.find? fun w => decide (w.track = t.id)
/-- It is no longer under way. -/
def dropRxWrite (s : State) (t : Track) : State :=
  let x := portOf s t.desc.object
  setPort s t.desc.object { x with rxWrites := x.rxWrites.filter fun w => decide (w.track ≠ t.id) }
/-- The frame stands in host memory: its buffer completes (R300). -/
def rxPostDone (s : State) (t : Track) : State :=
  match rxWriteOf s t with
  | some w =>
    let s := dropRxWrite s t
    finish { s with out := s.out ++ [.data t.desc.hostAddr w.bytes] } t.id stOk w.r0 w.r1
  | none => s

/-- RX_FILTER reaches its port (R299). -/
def startRxFilter (s : State) (t : Track) : State :=
  let a := darg t.desc
  if !noData t.desc || !argsZeroFrom t.desc 5 || decide (bits (a 0) 27 3 ≠ 0 ∨ 65536 ≤ a 1 ∨ a 3 % 65536 ≠ 0 ∨
      65536 ≤ a 4) then finish s t.id stBad 0 0
  else
    let p := t.desc.object
    let x := portOf s p
    finish (setPort s p { x with filters := tput (fun _ => []) x.filters (a 0 % 8) (t.desc.args.take 5) }) t.id stOk 0 0

/-- RX_POST reaches its port (R300). -/
def startRxPost (s : State) (t : Track) : State :=
  let d := t.desc
  if !argsZeroFrom d 1 || decide (8 ≤ darg d 0) then finish s t.id stBad 0 0
  else if d.length < 256 ∨ 16384 < d.length ∨ d.length % 64 ≠ 0 then finish s t.id stLength 0 0
  else if 64 ≤ (postedOn s d.object).length then finish s t.id stState 0 0
  else running s t.id

/-- RAW_TX reaches its port (R302): checked, then its frame is read from host memory. -/
def startRawTx (s : State) (t : Track) : State :=
  let d := t.desc
  let a := darg d 0
  let top := maxFrame s d.object - (if bitOf a 9 then 0 else 4)
  if !argsZeroFrom d 1 || decide (bits a 31 10 ≠ 0 ∨ bits a 7 2 ≠ 0 ∨ a % 4 = 3) then finish s t.id stBad 0 0
  else if d.length < 14 ∨ top < d.length then finish s t.id stLength 0 0
  else if d.object < 32 ∧ drives s = false then finish s t.id stState 0 0
  else running s t.id

/-- RAW_TX's frame has been read: it is handed to its queue. -/
def rawTxRead (s : State) (t : Track) (data : List Byte) : State :=
  let a := darg t.desc 0
  let st := bitOf a 8
  hand s t.desc.object (a % 4)
    { bytes := pad60 (slice data 0 t.desc.length), sender := .rawTx t.id st, due := 0, ownTag := bitOf a 9
      stamp := if st then some (.rawTx t.id) else none, oneStep := false }

/-! ### Link (R293) and service (R307 to R309) -/

/-- Block lock holds with no fault. -/
def MacPort.good (x : MacPort) : Bool := x.lock && !x.localFault && !x.remoteFault

/-- The PCS of port `p` has changed: the times of R293 count from the change between good and bad. -/
def pcsChange (s : State) (p : Nat) (lock localF remoteF : Bool) (errors : Nat) : State :=
  let s := if errors = 0 then s else count s p 17 errors
  let x := portOf s p
  let y := { x with lock := lock, localFault := localF, remoteFault := remoteF }
  setPort s p { y with pcsAt := if x.good = y.good then x.pcsAt else s.tim.cyc }

/-- LINK_UP: lock has held without faults for 10 ms on a port in service. -/
def linkRise (s : State) (p : Nat) : State :=
  let x := portOf s p
  if portOn s p && !x.link && x.good then
    let s := runToCycle (x.pcsAt + 2500000) s
    noticeBoth (setPort s p { portOf s p with link := true }) 0x0C01 p 1
  else s

/-- LINK falls with cause `why`. -/
def linkFall (s : State) (p why : Nat) : State :=
  if (portOf s p).link then
    let s := count (setPort s p { portOf s p with link := false }) p 40 1
    noticeBoth (discardAll s p) 0x0C01 p (why * 256)
  else discardAll s p

/-- LINK_DOWN: a lock loss or fault has lasted 128 µs. -/
def linkDown (s : State) (p : Nat) : State :=
  let x := portOf s p
  if x.link && (!x.lock || x.localFault || x.remoteFault) then
    let s := runToCycle (x.pcsAt + 32000) s
    linkFall s p (if !x.lock then 1 else if x.localFault then 2 else 3)
  else s

/-- A write of MAC_CTRL(p): EN (R307). -/
def macCtrlWrite (s : State) (p : Nat) (v : Word) : State :=
  let was := regBit s (MAC_CTRL p) 31
  let s := plainWrite s (MAC_CTRL p) v
  if was && !bitW v 31 then linkFall s p 4
  else if !was && bitW v 31 then setPort s p { portOf s p with pcsAt := s.tim.cyc }
  else s

/-- A settings write of port `p` (R308). -/
def macSettingWrite (s : State) (p a : Nat) (v : Word) : State :=
  if regBit s (MAC_CTRL p) 31 then latch s (MAC_CTRL p) 30 else plainWrite s a v

/-- PORT_SET at arrival (R309). -/
def portArrival (d : Desc) : Nat :=
  let a := darg d
  let valid := a 0
  let on := fun k => bitOf valid k
  let absent := fun k ws => on k || (ws.all fun i => decide (a i = 0))
  if !noData d || !argsZeroFrom d 8 || decide (valid = 0 ∨ 32 ≤ valid) then stBad
  else if !(absent 0 [1] && absent 1 [2] && absent 2 [3, 4] && absent 3 [5, 6] && absent 4 [7]) then stBad
  else if decide (bits (a 1) 30 0 ≠ 0 ∨ bits (a 2) 26 14 ≠ 0 ∨ a 4 % 65536 ≠ 0 ∨ 4096 ≤ a 5 ∨ 2 ^ 24 ≤ a 6) then stBad
  else if on 1 && decide (bits (a 2) 13 0 < 1518 ∨ 9216 < bits (a 2) 13 0) then stBad
  else stOk

/-- A PORT_SET takes effect: settings first, then EN. -/
def applyPort (s : State) (d : Desc) : State :=
  let p := d.object
  let a := fun i => w32 (darg d i)
  let on := fun k => bitOf (darg d 0) k
  let s := if on 1 then setReg s (MAC_CFG p) (a 2) else s
  let s := if on 2 then setReg (setReg s (MAC_ADDR_HI p) (a 3)) (MAC_ADDR_LO p) (a 4) else s
  let s := if on 3 then setReg (setReg s (MAC_VLAN p) (a 5)) (MAC_VLAN_PCP p) (a 6) else s
  let s := if on 4 then setReg s (MAC_PAUSE_TX p) (a 7) else s
  if on 0 then macCtrlWrite s p (setFld (reg s (MAC_CTRL p) &&& 0xBFFFFFFF) 31 31 (b2n (bitW (a 1) 31))) else s

/-- Slots freed by a write of MAC_FW_RX_REL. -/
def fwRelease (s : State) (p : Nat) (v : Word) : State :=
  setPort s p { portOf s p with fwSlots := (portOf s p).fwSlots.filter fun i => !bitW v i }

/-- MAC_STAT_CTRL.CLEAR. -/
def clearCounters (s : State) (p : Nat) (v : Word) : State :=
  if bitW v 31 then
    let s := accountHold s p
    setPort s p { portOf s p with counters := [] }
  else s

/-! ### Meanings -/

/-- PAUSE_HOLD_END (R305). -/
def execPauseHoldEnd (p : Nat) (s : State) : Host.Outcome State Fault Refusal := done (holdEnd s p)
/-- PAUSE_REFRESH (R306). -/
def execPauseRefresh (p used : Nat) (s : State) : Host.Outcome State Fault Refusal := done (pauseRefresh s p used)
/-- PAUSE_XON (R306). -/
def execPauseXon (p used : Nat) (s : State) : Host.Outcome State Fault Refusal := done (pauseXon s p used)
/-- PCS_STATUS_CHANGE (R293). -/
def execPcsStatusChange (p : Nat) (lock localF remoteF : Bool) (errors : Nat) (s : State) :
    Host.Outcome State Fault Refusal := done (pcsChange s p lock localF remoteF errors)
/-- FW_TX_GO (R304). -/
def execFwTxGo (p : Nat) (v : Word) (s : State) : Host.Outcome State Fault Refusal :=
  done (fwTxGo s p (v ||| 0x80000000))
/-- FW_RX_RELEASE (R304). -/
def execFwRxRelease (p : Nat) (v : Word) (s : State) : Host.Outcome State Fault Refusal := done (fwRelease s p v)
/-- COUNTER_CLEAR (R310). -/
def execCounterClear (p : Nat) (s : State) : Host.Outcome State Fault Refusal := done (clearCounters s p 0x80000000)

end Sys2Proof.Machine
end

