-- ==== Sys2Proof/Machine/Sources.lean ====
section
/-! DEFINITION. Machine/Sources.lean: source arbitration (R156, R157, R176) and what a session or a
source set does when its settings take effect (R137, R145, R146). -/
namespace Sys2Proof.Machine

/-! ### Settings taking effect -/

/-- The settings differ in something other than SELECT, CURVE or OFFSET (R137). -/
def sessionFormatChanged (old new : List Word) : Bool :=
  decide ((word old 0 &&& 0xB0FFFFFF) ≠ (word new 0 &&& 0xB0FFFFFF)) ||
    [1, 2, 3, 4, 5, 7, 8, 9].any fun i => decide (word old i ≠ word new i)

/-- Session `k` at the boundary that changes its settings from `old` to `new`. -/
def applySession (s : State) (k : Nat) (old new : List Word) : State :=
  let was := bitOf (word old 0) 31
  let on := bitOf (word new 0) 31
  if on && !was then
    setSessState (setSess s k { SessRt.reset with state := (sessOf s k).state, complete := (sessOf s k).complete }) k .wait
  else if on then
    let s := if sessionFormatChanged old new then abandonFrame s k else s
    let x := sessOf s k
    setSess s k { x with waiting := x.waiting.filter fun f => (argHandles new).contains f.handle }
  else if was then setSessState (abandonFrame s k) k .off
  else s

/-- Candidate words 0 to 3 that a change of settings leaves the same. -/
def candSame (old new : List Word) (n : Nat) : Bool := decide (word old (1 + n) = word new (1 + n))

/-- The lowest-numbered candidate of a set. -/
def firstCand (ws : List Word) : Option Nat :=
  (List.range 4).find? fun n => decide (bits (word ws (1 + n)) 31 30 ≠ 0)

/-- The source set of layer `l` at the boundary that changes its settings. -/
def applySource (s : State) (l : Nat) (old new : List Word) : State :=
  let x := sourceOf s l
  let on := bitOf (word new 0) 31
  let was := bitOf (word old 0) 31
  let kept := fun n => was && on && candSame old new n
  let s := setIng s { s.ing with
    frozenHost := s.ing.frozenHost.filter fun x => decide (x.1 / 4 ≠ l) || kept (x.1 % 4) }
  if !on then setSource s l SourceRt.reset
  else if !was then setSource s l { SourceRt.reset with cur := firstCand new, fresh := true, changed := true }
  else
    let keep := kept
    setSource s l { x with
      changed := true
      healthy := (List.range 4).map fun n => keep n && (x.healthy[n]?).getD false
      run := (List.range 4).map fun n => if keep n then (x.run[n]?).getD 0 else 0 }

/-! ### Arbitration (R156) -/

/-- What candidate `n` of layer `l` offers, if it has ever offered a frame: handle and line width. -/
def candImage (s : State) (l n : Nat) : Option (Nat × Nat) :=
  match candKind s.cfg l n with
  | 1 => ((sessOf s (candSession s.cfg l n)).offer).map fun f => (f.handle, f.width)
  | 2 => (tget (fun _ => none) s.ing.frozenHost (4 * l + n)).map fun h => (h, (handleOf s h).w)
  | _ => none

/-- The candidate for run k+1, by R156's pseudocode. -/
def selectCand (s : State) (l : Nat) : Option Nat :=
  let x := sourceOf s l
  let a := srcW s.cfg l 0
  let ok := fun n => (x.healthy[n]?).getD false
  let best := (List.range 4).find? ok
  if bitOf a 30 then
    let f := bits a 29 28
    if ok f || (candImage s l f).isSome then some f else none
  else match x.cur, best with
    | some c, some b =>
      if ok c then
        (if b < c ∧ max (bits a 15 8) 1 ≤ (x.run[b]?).getD 0 then some b else some c)
      else some b
    | none, some b => some b
    | _, none => none

/-- Byte 10 of SOURCE_SWITCH: the first of 3, 4, 5, 1, 2 that applies. -/
def switchReason (x : SourceRt) (manual changed wasNone : Bool) : Nat :=
  let curOk := match x.cur with
    | some c => (x.healthy[c]?).getD false
    | none => false
  if manual then 3 else if changed then 4 else if wasNone then 5 else if !curOk then 1 else 2

/-- The choice for layer `l` at an FCLK-side boundary (R156, R157, R176). -/
def chooseSource (s : State) (l : Nat) : State :=
  let x := sourceOf s l
  let a := srcW s.cfg l 0
  let sel := selectCand s l
  match sel with
  | some n =>
    let why := switchReason x (bitOf a 30) x.changed x.cur.isNone
    let old := match x.cur with
      | some c => if x.fresh then 0xFF else c
      | none => x.lastUsed.getD 0xFF
    let s' := setSource s l { x with
      cur := some n, lastUsed := some n, fresh := false, changed := false, held := none
      feed := candImage s l n }
    if x.cur = some n then s'
    else noticeBoth (latchCount s' (ING_LAYER_SRC l) 15 0 1) 0x0604 l (n + old * 256 + why * 65536)
  | none =>
    let keep := if bitOf a 27 then none else (if x.held.isSome then x.held else x.feed)
    let s' := setSource s l { x with cur := none, fresh := false, changed := false, held := keep, feed := keep }
    if x.cur.isSome then noticeBoth s' 0x0605 l (b2n (bitOf a 27)) else s'

/-- Every enabled set's choice for the run that begins. -/
def chooseSources (s : State) : State := (enabledSources s.cfg).foldl chooseSource s

/-- The image that layer `l` reads in the current run: its handle and line width (R160, R169). -/
def feedOf (s : State) (l : Nat) : Option (Nat × Nat) :=
  if srcOn s.cfg l then (sourceOf s l).feed
  else (bindOf s.cfg l).map fun h => (h, (handleOf s h).w)

end Sys2Proof.Machine
end

