-- ==== Sys2Proof/Machine/Layers.lean ====
section
/-! DEFINITION. Machine/Layers.lean: LAYER_SET, BUF_BIND and BUF_RETIRE at arrival, the arithmetic
and the order of compositing, the composition bound, and the checks at close of ING and LAY
(chapters 5 and 6). -/
namespace Sys2Proof.Machine

/-! ### Arrival (R170, R171) -/

/-- LAYER_SET at arrival (Table 6-6). -/
def layerArrival (d : Desc) : Nat :=
  let a := darg d
  let canvas := bitOf (a 0) 31
  let ok :=
    if canvas then
      decide (d.object = 0 ∧ bits (a 0) 30 0 = 0 ∧ 1 ≤ bits (a 1) 31 16 ∧ bits (a 1) 31 16 ≤ 32768 ∧
        1 ≤ bits (a 1) 15 0 ∧ bits (a 1) 15 0 ≤ 32768 ∧ bits (a 3) 31 16 = 0 ∧ a 4 = 0)
    else
      decide (bits (a 0) 27 21 = 0 ∧ bits (a 0) 15 0 = 0 ∧ a 1 ≤ 65536 ∧
        bits (a 2) 31 16 < 32768 ∧ bits (a 2) 15 0 < 32768 ∧
        1 ≤ bits (a 3) 31 16 ∧ bits (a 3) 31 16 ≤ 32768 ∧ 1 ≤ bits (a 3) 15 0 ∧ bits (a 3) 15 0 ≤ 32768)
  if noData d && argsZeroFrom d 5 && ok then stOk else stBad

/-- BUF_BIND and BUF_RETIRE at arrival (R170). -/
def bindArrival (s : State) (d : Desc) : Nat :=
  if !noData d || !argsZeroFrom d 1 || decide (32 ≤ darg d 0) then stBad
  else if (handleOf s d.object).state = .free then stNotFound
  else stOk

/-! ### Geometry (R172, R178) -/

def layX (c : Cfg) (l : Nat) : Int := sext 16 (bits (layW c l 4) 31 16)
def layY (c : Cfg) (l : Nat) : Int := sext 16 (bits (layW c l 4) 15 0)
def laySW (c : Cfg) (l : Nat) : Nat := bits (layW c l 3) 31 16
def laySH (c : Cfg) (l : Nat) : Nat := bits (layW c l 3) 15 0
def laySX (c : Cfg) (l : Nat) : Nat := bits (layW c l 2) 31 16
def laySY (c : Cfg) (l : Nat) : Nat := bits (layW c l 2) 15 0
def layZ (c : Cfg) (l : Nat) : Nat := bits (layW c l 0) 20 16

/-- The length of the overlap of [a, a + n) with [lo, hi). -/
def overlap (a : Int) (n : Nat) (lo hi : Int) : Nat := (min (a + n) hi - max a lo).toNat

/-- Columns of the canvas that a layer covers, and its rows within rows lo to hi. -/
def visCols (c : Cfg) (l : Nat) : Nat := overlap (layX c l) (laySW c l) 0 c.cw
def visRows (c : Cfg) (l : Nat) (lo hi : Int) : Nat := overlap (layY c l) (laySH c l) (max lo 0) (min hi c.ch)

/-- Visible area of a layer (R30, R172). -/
def visArea (c : Cfg) (l : Nat) : Nat := visCols c l * visRows c l 0 c.ch

/-- FCLK cycles of band `b` (R178). -/
def bandCycles (c : Cfg) (b : Nat) : Nat :=
  let lo := 16 * b
  let hi := min (lo + 16) c.ch
  let area := c.cw * (hi - lo)
  let layers := sumNat ((enabledLayers c).map fun l => visCols c l * visRows c l lo hi)
  64 + max ((area + 3) / 4) ((layers + 31) / 32)

/-- Bands of the canvas. -/
def bands (c : Cfg) : Nat := (c.ch + 15) / 16

/-- FCLK cycles from pipeline start until bands 0 to `n` − 1 are complete. -/
def bandSum (c : Cfg) (n : Nat) : Nat := sumNat ((List.range n).map (bandCycles c))

/-- FCLK cycles of the whole composition. -/
def compCycles (c : Cfg) : Nat := bandSum c (bands c)

/-! ### Compositing (R173, R177) -/

/-- A channel blended over `cd` (R177). -/
def blend (cd cs as op mode : Nat) : Nat :=
  let c := (cs * op + 0x8000) / 2 ^ 16
  let a := (as * op + 0x8000) / 2 ^ 16
  let a17 := if a = 0xFFFF then 0x10000 else a
  let r := match mode with
    | 0 => c + (cd * (0x10000 - a17) + 0x8000) / 2 ^ 16
    | 1 => cd + c
    | 2 => (cd * (0x10000 - a17 + 2 * c) + 0x8000) / 2 ^ 16
    | _ => c
  min r 0xFFFF

/-- Insertion of a layer by Z, then number. -/
def insertLayer (c : Cfg) (l : Nat) : List Nat → List Nat
  | [] => [l]
  | x :: xs => if layZ c l < layZ c x ∨ (layZ c l = layZ c x ∧ l < x) then l :: x :: xs else x :: insertLayer c l xs

/-- The enabled layers in the order in which they are composited. -/
def stackOrder (c : Cfg) : List Nat := (enabledLayers c).foldr (insertLayer c) []

/-- Layer `l` covers canvas coordinate (x, y). -/
def covers (c : Cfg) (l x y : Nat) : Bool :=
  decide (layX c l ≤ x ∧ (x : Int) < layX c l + laySW c l ∧ layY c l ≤ y ∧ (y : Int) < layY c l + laySH c l)

/-- The pixel that layer `l` supplies at (x, y), if it has a feed. -/
def layerPixel (s : State) (l x y : Nat) : Option (BitVec 64) :=
  match feedOf s l with
  | some (h, w) =>
    let px := (laySX s.cfg l + x - layX s.cfg l : Int).toNat
    let py := (laySY s.cfg l + y - layY s.cfg l : Int).toNat
    some (pixelAt s h (py * w + px))
  | none => none

/-- The canvas of the run at (x, y): R, G, B. -/
def canvasAt (s : State) (x y : Nat) : Nat × Nat × Nat :=
  (stackOrder s.cfg).foldl (fun cd l =>
    if covers s.cfg l x y then
      match layerPixel s l x y with
      | some p =>
        let f := fun old k => blend old (channel p k) (channel p 3) (bits (layW s.cfg l 1) 16 0) (bits (layW s.cfg l 0) 29 28)
        (f cd.1 0, f cd.2.1 1, f cd.2.2 2)
      | none => cd
    else cd) (s.cfg.bgR, s.cfg.bgG, s.cfg.bgB)

/-! ### Checks at close -/

/-- A refusal of a set: status, number of the failed check, block, and the notice the deciding block
posts: code, INSTANCE, DETAIL. -/
structure Refuse where
  st : Nat
  no : Nat
  block : Nat
  own : Option (Nat × Nat × Nat)
  deriving DecidableEq, Repr

/-- The first of a list that is present. -/
def firstSome {α : Type} : List (Option α) → Option α
  | [] => none
  | some a :: _ => some a
  | none :: as => firstSome as

/-- A refusal when `bad` holds. -/
def refuseIf (bad : Bool) (r : Refuse) : Option Refuse := if bad then some r else none

/-- Members of the set with opcode `op`. -/
def membersOf (e : EndState) (op : Nat) : List Member := e.members.filter fun m => decide (m.desc.opcode = op)

/-- A register as the set leaves it. -/
def endReg (s : State) (e : EndState) (a : Nat) : Word :=
  match e.hoopRegs.find? fun x => decide (x.1 = a) with
  | some x => x.2
  | none => reg s a

/-- Rate numerator and denominator, and lead `i`, of the end state. -/
def endRate (s : State) (e : EndState) : Nat × Nat := (fld (endReg s e HOOP_RATE) 31 12, fld (endReg s e HOOP_RATE) 11 0)
def endLead (s : State) (e : EndState) (i : Nat) : Nat := fld (endReg s e (HOOP_LEAD i)) 20 0

/-- Whether a sum of fractions is at most `limit`. -/
def fracSumLe (fs : List (Nat × Nat)) (limit : Nat) : Bool :=
  let (n, d) := fs.foldl (fun (n, d) (a, b) => (n * b + a * d, d * b)) (0, 1)
  decide (n ≤ limit * d)

/-- Pixel rate of a session as a fraction. -/
def sessRate (c : Cfg) (k : Nat) : Nat × Nat :=
  ((sessSize c k).1 * (sessSize c k).2 * bits (sessW c k 9) 31 12, bits (sessW c k 9) 11 0)

/-- Sizes of the candidates of a source set. -/
def candSizes (s : State) (c : Cfg) (l : Nat) : List (Nat × Nat) :=
  (List.range 4).flatMap fun n =>
    match candKind c l n with
    | 1 => [sessSize c (candSession c l n)]
    | 2 => (candHandles c l n).map fun h => ((handleOf s h).w, (handleOf s h).h)
    | _ => []

/-- All of a list are equal. -/
def allSame (l : List (Nat × Nat)) : Bool :=
  match l with
  | [] => true
  | x :: xs => xs.all fun y => decide (y = x)

/-- What makes two sessions match the same packets (check 5). -/
def sessKey (c : Cfg) (k : Nat) : List Nat :=
  [bits (sessW c k 0) 23 22, sessW c k 1, bits (sessW c k 3) 31 16, sessW c k 2, b2n (bitOf (sessW c k 5) 31),
    if bitOf (sessW c k 5) 31 then bits (sessW c k 5) 11 0 else 0]

/-- ING's checks at close: checks 3 to 7 of Table 5-2 and checks 8 to 10 of R154. -/
def ingChecks (s : State) (e : EndState) : Option Refuse :=
  let c := e.cfg
  let ks := ((membersOf e 0x14).map (·.desc.object)).filter fun k => sessOn c k
  let ls := ((membersOf e 0x15).map (·.desc.object)).filter fun l => srcOn c l
  let on := enabledSessions c
  let hosts := ls.flatMap (hostHandles c)
  let st := fun h => (handleOf s h).state
  let r := fun st no => Refuse.mk st no 6 none
  firstSome [
    refuseIf (ks.any fun k => (sessHandles c k).any fun h => decide (st h = .free)) (r stNotFound 3),
    refuseIf (ks.any fun k => !decide (sessHandles c k).Nodup || (sessHandles c k).any fun h =>
        decide ((handleOf s h).w * (handleOf s h).h < (sessSize c k).1 * (sessSize c k).2) || namedByHost c h ||
        on.any fun j => decide (j ≠ k) && (sessHandles c j).contains h) (r stState 4),
    refuseIf (ks.any fun k => on.any fun j => decide (j ≠ k ∧ sessKey c j = sessKey c k)) (r stState 5),
    refuseIf ((enabledSources c).any fun l =>
        ((List.range 4).any fun n => decide (candKind c l n = 1) && ks.contains (candSession c l n)) &&
        !allSame (candSizes s c l)) (r stState 6),
    refuseIf (((List.range 4).any fun p =>
        !fracSumLe ((on.filter fun k => decide (bits (sessW c k 0) 23 22 = p)).map (sessRate c)) 2000000000) ||
        !fracSumLe (on.map (sessRate c)) 8000000000) (r stState 7),
    refuseIf (ls.any fun l => !allSame (candSizes s c l)) (r stState 8),
    refuseIf (hosts.any (namedBySession c)) (r stState 9),
    (hosts.findSome? fun h => match st h with
      | .free => some (r stNotFound 10)
      | .filling => some (r stState 10)
      | _ => none)]

/-- LAYER_REFUSED with the check, the layer and the handle. -/
def layRefuse (st no layer : Nat) (h : Option Nat) : Refuse :=
  ⟨st, no, 7, some (0x0703, layer, no + h.getD 0xFFFF * 65536)⟩

/-- The binding of each layer while the set's BUF_BINDs and BUF_RETIREs apply in order: the first
BUF_RETIRE whose handle is not bound to its layer (check 6). -/
def badRetire : Table (Option Nat) → List Member → Option Member
  | _, [] => none
  | b, m :: ms =>
    let l := darg m.desc 0 % 32
    if m.desc.opcode = 0x04 then badRetire (tput (fun _ => none) b l (some m.desc.object)) ms
    else if m.desc.opcode = 0x05 then
      if tget (fun _ => none) b l = some m.desc.object then badRetire (tput (fun _ => none) b l none) ms else some m
    else badRetire b ms

/-- The size of a layer's feed image, if it has one. -/
def feedSize (s : State) (c : Cfg) (l : Nat) : Option (Nat × Nat) :=
  match bindOf c l with
  | some h => some ((handleOf s h).w, (handleOf s h).h)
  | none => if srcOn c l then (candSizes s c l).head? else none

/-- The crop of layer `l` reaches outside its feed image. -/
def cropBad (s : State) (c : Cfg) (l : Nat) : Bool :=
  match feedSize s c l with
  | some (w, h) => decide (w < laySX c l + laySW c l ∨ h < laySY c l + laySH c l)
  | none => false

/-- R180: the last band is complete no later than L − launch lead. -/
def compBoundOk (s : State) (e : EndState) : Bool :=
  let (num, den) := endRate s e
  let launch := endLead s e 3
  let s4 := 4 * (launch - endLead s e 4) + 4 * launch
  decide ((8000 + 5 * compCycles e.cfg + s4) * num ≤ 4000000000 * den)

/-- LAY's checks at close (Table 6-8). -/
def layChecks (s : State) (e : EndState) : Option Refuse :=
  let c := e.cfg
  let st := fun h => (handleOf s h).state
  let named :=
    ((membersOf e 0x04).map fun m => (darg m.desc 0 % 32, m.desc.object)) ++
    (((membersOf e 0x14).map (·.desc.object)).filter (sessOn c)).flatMap
      (fun k => (sessHandles c k).map fun h => (0, h)) ++
    (((membersOf e 0x15).map (·.desc.object)).filter (srcOn c)).flatMap
      (fun l => (hostHandles c l).map fun h => (l, h))
  firstSome [
    (membersOf e 0x04).findSome? (fun m => match st m.desc.object with
      | .free => some (layRefuse stNotFound 1 (darg m.desc 0 % 32) (some m.desc.object))
      | .filling => some (layRefuse stState 1 (darg m.desc 0 % 32) (some m.desc.object))
      | _ => none),
    (named.find? fun x => decide (st x.2 = .retiring)).map fun x => layRefuse stRetiring 2 x.1 (some x.2),
    ((enabledSources c).find? fun l => (bindOf c l).isSome).map fun l => layRefuse stState 3 l (bindOf c l),
    (c.binds.find? fun b => match b.2 with
      | some h => namedBySession c h || namedByHost c h
      | none => false).map fun b => layRefuse stState 4 b.1 b.2,
    ((membersOf e 0x04).find? fun m => writeInFlight s m.desc.object).map
      fun m => layRefuse stState 5 (darg m.desc 0 % 32) (some m.desc.object),
    (badRetire s.cfg.binds e.members).map fun m => layRefuse stState 6 (darg m.desc 0 % 32) (some m.desc.object),
    ((enabledLayers c).find? (cropBad s c)).map fun l => layRefuse stState 7 l (bindOf c l),
    refuseIf (!compBoundOk s e) (layRefuse stState 8 0 none)]

/-! ### Handles at close and settings at the boundary (R165, R166) -/

/-- Handle `n` at the close of hoop `h`'s accepted set, whose namings are `c` and were `old`. -/
def bindHandle (old c : Cfg) (h : Hoop) (s : State) (n : Nat) : State :=
  let x := handleOf s n
  match x.state with
  | .idle => if named c n then setHandle s n { x with state := .bound } else s
  | .bound =>
    if named c n then s
    else setHandle s n { x with state := .retiring, fence := if boundToLayer old n then h else h + 1 }
  | _ => s

/-- Every handle at close. -/
def bindHandles (s : State) (c : Cfg) (h : Hoop) : State :=
  (s.lay.handles.map (·.1)).foldl (bindHandle s.cfg c h) s

end Sys2Proof.Machine
end

