-- ==== Sys2Proof/Machine/Parts.lean ====
section
/-! DEFINITION. Machine/Parts.lean: the images of the bundle parts, as their chapters lay them out
(R183 to R191, R221, R231, R234, R262, R286), and their validation reasons (Tables 7-10, 9-6, 10-6). -/
namespace Sys2Proof.Machine

/-! ### Images -/

/-- BUILD_TAG and COUNT of an image (Table 7-1); zero where there is none. -/
def partTag (bs : List Byte) : Nat := le bs 4 4
def partCount (bs : List Byte) : Nat := le bs 8 4

/-- The active copy of part `p`. -/
def partOf (c : Cfg) (p : Nat) : List Byte := tget (fun _ => []) c.parts p

/-- 32-bit word `w` of the entry at byte `off`. -/
def wordAt (bs : List Byte) (off w : Nat) : Nat := le bs (off + 4 * w) 4

/-- Every byte of a range is zero. -/
def zeroRange (bs : List Byte) (off n : Nat) : Bool := (slice bs off n).all fun b => decide (b = 0)

/-- The CRC of an image: over bytes 0 to 59 and 64 to the end (R184). -/
def imageCrcOk (bs : List Byte) : Bool := decide (crc32 (bs.take 60 ++ bs.drop 64) = le bs 60 4)

/-- SIZE accepted at BEGIN (Table 7-9a). -/
def sizeOk (p size : Nat) : Bool :=
  let fits := fun base unit lo hi => decide (base ≤ size ∧ (size - base) % unit = 0 ∧
    lo ≤ (size - base) / unit ∧ (size - base) / unit ≤ hi)
  match p with
  | 0 => fits 64 16 1 16777216
  | 1 => decide (size = 1048640)
  | 2 => fits 64 64 1 256
  | 3 => fits 64 8 2 1052672
  | 4 => fits 320 16 1 1048576
  | 5 => fits 128 8 3 147456
  | 6 => fits 1048640 16 9 8390912
  | _ => false

/-- A validation failure: reason, entry and pool step (R197, R241). -/
structure Bad where
  reason : Nat
  entry : Nat
  step : Nat
  deriving DecidableEq, Repr

def noEntry : Nat := 0xFFFFFFFF

/-- A failure when `b`. -/
def badIf (b : Bool) (x : Bad) : Option Bad := if b then some x else none

/-- A failure of the header. -/
def badHeader (reason : Nat) : Bad := ⟨reason, noEntry, noEntry⟩

/-- The first failure of a header in image order (R197): SIGNATURE, PART and VERSION, then the part's own
tests of bytes 8 to `z` − 1, each with its reason, then the bytes from `z` to 59, which are zero. -/
def headerFail (bs : List Byte) (p z : Nat) (own : List (Bool × Nat)) : Option Bad :=
  firstSome (((decide (¬(le bs 0 2 = 0xA31D ∧ byteAt bs 2 = p ∧ byteAt bs 3 = 1)), 1) :: own ++
    [(!zeroRange bs z (60 - z), 1)]).map fun (x : Bool × Nat) => badIf x.1 (badHeader x.2))

/-- The first failure over entries 0 to `n` − 1, with a running state. -/
def scan {σ : Type} (f : σ → Nat → Except Bad σ) : Nat → Nat → σ → Option Bad
  | 0, _, _ => none
  | n + 1, i, st =>
    match f st i with
    | .ok st => scan f n (i + 1) st
    | .error b => some b

/-! ### Part 0: pricking table (R186 to R189, R196 to R198) -/

/-- A pricking entry (Table 7-3). -/
structure Entry where
  kind : Nat
  motif : Nat
  index : Nat
  fixture : Nat
  x : Nat
  y : Nat
  /-- 0 NEAREST, 1 BILINEAR -/
  mode : Nat
  w00 : Nat
  w10 : Nat
  w01 : Nat
  w11 : Nat
  bw : Nat
  bh : Nat
  recip : Nat
  seq : Nat
  deriving DecidableEq, Repr

/-- Entry `n` of a pricking image. -/
def prickEntry (bs : List Byte) (n : Nat) : Entry :=
  let w := wordAt bs (64 + 16 * n)
  { kind := bits (w 0) 31 30, motif := bits (w 0) 29 16, index := bits (w 0) 15 0, fixture := bits (w 0) 16 0
    x := bits (w 1) 30 16, y := bits (w 1) 14 0, mode := bits (w 2) 31 30
    w00 := bits (w 2) 3 0, w10 := bits (w 2) 7 4, w01 := bits (w 2) 11 8, w11 := bits (w 2) 15 12
    bw := bits (w 2) 31 28 + 1, bh := bits (w 2) 27 24 + 1, recip := bits (w 2) 16 0, seq := bits (w 3) 31 16 }

/-- Reason 4 in word `i` of entry `n`: KIND, MODE, RECIP or a zero field. -/
def prickFieldsBad (bs : List Byte) (n i : Nat) : Bool :=
  let w := wordAt bs (64 + 16 * n)
  let e := prickEntry bs n
  match i, e.kind with
  | 0, 2 => decide (bits (w 0) 29 17 ≠ 0)
  | 0, 3 => true
  | 1, 0 => decide (w 1 ≠ 0)
  | 1, _ => decide (bits (w 1) 31 31 ≠ 0 ∨ bits (w 1) 15 15 ≠ 0)
  | 2, 0 => decide (w 2 ≠ 0)
  | 2, 1 => decide (2 ≤ e.mode ∨ bits (w 2) 29 16 ≠ 0)
  | 2, 2 => decide (bits (w 2) 23 17 ≠ 0 ∨ 65536 < e.recip)
  | 3, _ => decide (bits (w 3) 15 0 ≠ 0)
  | _, _ => false

/-- Reason 6: a coordinate read lies outside the header's canvas. -/
def prickRangeBad (bs : List Byte) (e : Entry) : Bool :=
  let cw := le bs 12 2
  let ch := le bs 14 2
  match e.kind with
  | 1 => decide (cw ≤ e.x + (if e.mode = 1 then 1 else 0) ∨ ch ≤ e.y + (if e.mode = 1 then 1 else 0))
  | 2 => decide (cw < e.x + e.bw ∨ ch < e.y + e.bh)
  | _ => false

/-- Reason 6: a box holds too many coordinates. -/
def prickBoxBad (e : Entry) : Bool := decide (e.kind = 2 ∧ 64 < e.bw * e.bh)

/-- Reason 7: the weights. -/
def prickWeightsBad (e : Entry) : Bool :=
  decide (e.kind = 1) &&
    (if e.mode = 1 then decide (e.w00 + e.w10 + e.w01 + e.w11 ≠ 16)
     else decide (e.w00 + e.w10 + e.w01 + e.w11 ≠ 0))

/-- What validation of part 0 has recorded: next INDEX by motif, fixtures named, and how many (R198). -/
structure PrickScan where
  next : Table Nat
  fixtures : Table Bool
  count : Nat

/-- Entry `n` of a pricking image checked, word by word (R197): INDEX and FIXTURE stand in word 0, X and Y in
word 1, the box, MODE and the weights in word 2, SEQ in word 3. DEDUCED (log 62). -/
def scanPrick (bs : List Byte) (st : PrickScan) (n : Nat) : Except Bad PrickScan :=
  let e := prickEntry bs n
  let bad := fun r => Except.error (Bad.mk r n noEntry)
  let fix := decide (e.kind = 2)
  if prickFieldsBad bs n 0 then bad 4
  else if fix && (tget (fun _ => false) st.fixtures e.fixture || decide (le bs 16 4 ≤ st.count)) then bad 9
  else if !fix && decide (e.index ≠ tget (fun _ => 0) st.next e.motif) then bad 8
  else if prickFieldsBad bs n 1 then bad 4
  else if prickRangeBad bs e then bad 6
  else if prickFieldsBad bs n 2 then bad 4
  else if prickBoxBad e then bad 6
  else if prickWeightsBad e then bad 7
  else if prickFieldsBad bs n 3 then bad 4
  else if e.seq ≠ n % 65536 then bad 5
  else if fix then
    .ok { st with fixtures := tput (fun _ => false) st.fixtures e.fixture true, count := st.count + 1 }
  else .ok { st with next := tput (fun _ => 0) st.next e.motif (e.index + 1) }

/-- FIXTURE entries of a pricking image, and slots of its walk (R189). -/
def prickFixtures (bs : List Byte) : Nat :=
  ((List.range (partCount bs)).filter fun n => decide ((prickEntry bs n).kind = 2)).length
def entrySlots (e : Entry) : Nat := if e.kind = 2 then (e.bw * e.bh + 3) / 4 else 1
def prickSlots (bs : List Byte) : Nat := sumNat ((List.range (partCount bs)).map fun n => entrySlots (prickEntry bs n))

/-- Validation of part 0 (Table 7-10). -/
def validatePrick (bs : List Byte) (size : Nat) : Option Bad :=
  let n := partCount bs
  let fix := le bs 16 4
  firstSome [
    headerFail bs 0 20 [
      (decide (n = 0 ∨ 16777216 < n ∨ size ≠ 64 + 16 * n), 2),
      (decide (le bs 12 2 = 0 ∨ 32768 < le bs 12 2 ∨ le bs 14 2 = 0 ∨ 32768 < le bs 14 2), 1),
      (decide (131072 < fix), 2)],
    scan (scanPrick bs) n 0 ⟨[], [], 0⟩,
    badIf (decide (prickFixtures bs ≠ fix)) (badHeader 9),
    badIf (!imageCrcOk bs) (badHeader 3)]

/-! ### Part 1: motif table (R190, R191) -/

/-- Word `w` of the compiled fields of motif `m`. -/
def motifW (bs : List Byte) (m w : Nat) : Nat := wordAt bs (64 + 64 * m) w
def motifOn (bs : List Byte) (m : Nat) : Bool := bitOf (motifW bs m 0) 31
def motifDual (bs : List Byte) (m : Nat) : Bool := bitOf (motifW bs m 0) 30
def motifLocal (bs : List Byte) (m : Nat) : Bool := bitOf (motifW bs m 0) 29
/-- Chain positions of a motif: COUNT_M1 + 1. -/
def motifCount (bs : List Byte) (m : Nat) : Nat := bits (motifW bs m 0) 15 0 + 1
def motifPortA (bs : List Byte) (m : Nat) : Nat := bits (motifW bs m 1) 31 27
def motifPortB (bs : List Byte) (m : Nat) : Nat := bits (motifW bs m 1) 26 22
def motifProgram (bs : List Byte) (m : Nat) : Nat := bits (motifW bs m 1) 19 8
def motifProfile (bs : List Byte) (m : Nat) : Nat := bits (motifW bs m 1) 7 0
def motifLanes (bs : List Byte) (m : Nat) : Nat := bits (motifW bs m 2) 15 0
/-- DEST: the six bytes of the destination address. -/
def motifDest (bs : List Byte) (m : Nat) : List Byte :=
  beBytes 4 (motifW bs m 3) ++ beBytes 2 (bits (motifW bs m 4) 31 16)
/-- An enabled motif on a thread port. -/
def motifThread (bs : List Byte) (m : Nat) : Bool := motifOn bs m && !motifLocal bs m

/-- The enabled motifs of a motif table, ascending; none where no table is active. -/
def enabledMotifs (bs : List Byte) : List Nat :=
  if bs = [] then [] else (List.range 16384).filter (motifOn bs)

/-- Thread ports on which a motif has a path: port and whether it is path B. -/
def motifPaths (bs : List Byte) (m : Nat) : List (Nat × Bool) :=
  if motifThread bs m then
    (motifPortA bs m, false) :: (if motifDual bs m then [(motifPortB bs m, true)] else [])
  else []

/-- The entry breaks Table 7-4's zero fields or Table 7-5. -/
def motifBad (bs : List Byte) (m : Nat) : Bool :=
  let w := motifW bs m
  let form :=
    if motifOn bs m then
      if motifLocal bs m then
        !motifDual bs m && decide (motifPortA bs m = 0 ∧ motifPortB bs m = 0 ∧ w 3 = 0 ∧ bits (w 4) 31 16 = 0 ∧
          motifLanes bs m ≠ 0)
      else if motifDual bs m then decide (motifPortB bs m ≠ motifPortA bs m ∧ motifLanes bs m = 0)
      else decide (motifPortB bs m = 0 ∧ motifLanes bs m = 0)
    else decide (w 0 = 0 ∧ w 1 = 0 ∧ w 2 = 0 ∧ w 3 = 0 ∧ w 4 = 0)
  !form || decide (bits (w 0) 28 16 ≠ 0 ∨ bits (w 1) 21 20 ≠ 0 ∨ bits (w 2) 31 16 ≠ 0 ∨ bits (w 4) 15 0 ≠ 0) ||
    !zeroRange bs (64 + 64 * m + 20) 44

/-- Entry `m` of a motif table checked, with the running sum of positions. -/
def scanMotif (bs : List Byte) (sum m : Nat) : Except Bad Nat :=
  let sum' := if motifOn bs m then sum + motifCount bs m else sum
  if motifBad bs m ∨ 16777216 < sum' then .error ⟨10, m, noEntry⟩ else .ok sum'

/-- Validation of part 1. -/
def validateMotif (bs : List Byte) (size : Nat) : Option Bad :=
  firstSome [headerFail bs 1 12 [(decide (partCount bs ≠ 16384 ∨ size ≠ 1048640), 2)], scan (scanMotif bs) 16384 0 0, badIf (!imageCrcOk bs) (badHeader 3)]

/-! ### Part 2: driver profiles (R228, R231 to R233) -/

/-- Entry `p` of a driver profile image: its 64 bytes. -/
def profileBytes (bs : List Byte) (p : Nat) : List Byte := slice bs (64 + 64 * p) 64
/-- Word `w` of a profile. -/
def profW (pr : List Byte) (w : Nat) : Nat := le pr (4 * w) 4
def profOn (pr : List Byte) : Bool := bitOf (profW pr 0) 31
/-- CLASS: true for class G. -/
def profG (pr : List Byte) : Bool := bitOf (profW pr 0) 30
def profCh4 (pr : List Byte) : Bool := bitOf (profW pr 0) 29
def profN (pr : List Byte) : Nat := bits (profW pr 0) 28 24
def profRows (pr : List Byte) : Nat := bits (profW pr 0) 21 16 + 1
def profCols (pr : List Byte) : Nat := bits (profW pr 0) 15 0 + 1
def profChains (pr : List Byte) : Nat := bits (profW pr 1) 31 28 + 1
def profGsw (pr : List Byte) : Nat := bits (profW pr 1) 20 16
def profPad (pr : List Byte) : Nat := bits (profW pr 1) 15 0
def profCh (pr : List Byte) : Nat := if profCh4 pr then 4 else 3
def profCorder (pr : List Byte) (q : Nat) : Nat := bits (profW pr 2) (2 * q + 1) (2 * q)
def profRefreshes (pr : List Byte) : Nat := bits (profW pr 3) 31 16
def profPeriod (pr : List Byte) : Nat := profW pr 4
def profOffset (pr : List Byte) : Nat := bits (profW pr 5) 23 0
/-- LOCAL_LANES of a driver profile image. -/
def localLanes (bs : List Byte) : Nat := le bs 12 2

/-- `n` values are a permutation of 0 to n − 1. -/
def isPerm (n : Nat) (f : Nat → Nat) : Bool :=
  (List.range n).all fun v => (List.range n).any fun q => decide (f q = v)

/-- Reason 14: a profile breaks Table 9-2 or R233. -/
def profileBad (pr : List Byte) : Bool :=
  let w := profW pr
  if !profOn pr then !zeroRange pr 0 64
  else
    let n := profN pr
    decide (bits (w 0) 23 22 ≠ 0 ∨ bits (w 1) 27 21 ≠ 0 ∨ bits (w 2) 31 10 ≠ 0 ∨ bits (w 3) 15 0 ≠ 0 ∨
      bits (w 5) 31 24 ≠ 0 ∨ n < 10 ∨ (if profCh4 pr then 12 else 16) < n ∨ 4095 < profPad pr ∨
      profRefreshes pr = 0 ∨ profPeriod pr = 0 ∨ 65536 < profChains pr * profRows pr * profCols pr) ||
    (if profG pr then decide (¬(profGsw pr = 12 ∨ profGsw pr = 16) ∨ profGsw pr < n) else decide (profGsw pr ≠ 0)) ||
    !isPerm (profCh pr) (profCorder pr) || (!profCh4 pr && decide (bits (w 2) 7 6 ≠ 0)) || !zeroRange pr 24 40

/-- Validation of part 2. -/
def validateProfiles (bs : List Byte) (size : Nat) : Option Bad :=
  let n := partCount bs
  firstSome [
    headerFail bs 2 14 [(decide (n = 0 ∨ 256 < n ∨ size ≠ 64 + 64 * n), 2)],
    ((List.range n).find? fun p => profileBad (profileBytes bs p)).map fun p => ⟨14, p, noEntry⟩,
    badIf (!imageCrcOk bs) (badHeader 3)]

/-! ### Part 6: colour tables (R221, R222) -/

def gtCount (bs : List Byte) : Nat := le bs 12 4
def uCount (bs : List Byte) : Nat := le bs 16 4
/-- Word `w` of the colour record of motif `m` (Table 8-6). -/
def colourW (bs : List Byte) (m w : Nat) : Nat := wordAt bs (64 + 64 * m) w
/-- Where gain set `g` and the per-pixel records begin. -/
def gainAt (g : Nat) : Nat := 1048640 + 144 * g
def pixelRecordAt (bs : List Byte) (u : Nat) : Nat := gainAt (gtCount bs) + 8 * u

/-- Reason 13 for a motif record. -/
def colourBad (bs : List Byte) (m : Nat) : Bool :=
  let w := colourW bs m
  decide (bits (w 0) 29 20 ≠ 0 ∨ bits (w 0) 7 0 ≠ 0 ∨ bits (w 1) 31 24 ≠ 0 ∨ bits (w 2) 15 0 ≠ 0 ∨
    gtCount bs ≤ bits (w 0) 15 8) || !zeroRange bs (64 + 64 * m + 44) 20

/-- Validation of part 6. A CRC that fails is reported at a motif record or gain set; the spec does not say at
which (log 61). -/
def validateColour (bs : List Byte) (size : Nat) : Option Bad :=
  let g := gtCount bs
  let u := uCount bs
  firstSome [
    headerFail bs 6 20 [(decide (partCount bs ≠ 16384 ∨ g = 0 ∨ 256 < g ∨ u % 2 = 1 ∨ 16777216 < u ∨
      size ≠ 1048640 + 144 * g + 8 * u), 2)],
    ((List.range 16384).find? (colourBad bs)).map fun m => ⟨13, m, noEntry⟩,
    ((List.range g).find? fun k => !zeroRange bs (gainAt k + 136) 8).map fun k => ⟨13, 16384 + k, noEntry⟩,
    badIf (!imageCrcOk bs) ⟨3, Config.crcEntry (crc32 (bs.take 60 ++ bs.drop 64)) % (16384 + g), noEntry⟩]

/-! ### Part 4: egress schedules (R262, R263) -/

/-- Rate an image was compiled for. -/
def schedRate (bs : List Byte) : Nat × Nat := (le bs 12 4, le bs 16 2)
/-- START and N of port `p`. -/
def schedStart (bs : List Byte) (p : Nat) : Nat := le bs (64 + 8 * p) 4
def schedN (bs : List Byte) (p : Nat) : Nat := le bs (64 + 8 * p + 4) 4

/-- A schedule entry (Table 10-4). -/
structure Sched where
  /-- 1 STITCH, 2 HOOP_MARK, 3 SACN, 4 SACN_SYNC -/
  kind : Nat
  stamp : Bool
  pathB : Bool
  tag : Nat
  offset : Nat
  motif : Nat
  first : Nat
  fragIndex : Nat
  fragCount : Nat
  positions : Nat
  deriving DecidableEq, Repr

/-- Entry `n` of a schedule image. -/
def schedEntry (bs : List Byte) (n : Nat) : Sched :=
  let w := wordAt bs (320 + 16 * n)
  { kind := bits (w 0) 31 28, stamp := bitOf (w 0) 27, pathB := bitOf (w 0) 26, tag := bits (w 0) 15 0
    offset := w 1, motif := bits (w 2) 29 16, first := bits (w 2) 15 0
    fragIndex := bits (w 3) 31 24, fragCount := bits (w 3) 23 16, positions := bits (w 3) 10 0 }

/-- An entry breaks Table 10-4, or FRAG_INDEX ≥ FRAG_COUNT. -/
def schedFieldsBad (bs : List Byte) (n : Nat) : Bool :=
  let w := wordAt bs (320 + 16 * n)
  let e := schedEntry bs n
  decide (bits (w 0) 25 16 ≠ 0 ∨ bits (w 2) 31 30 ≠ 0 ∨ bits (w 3) 15 11 ≠ 0) ||
  match e.kind with
  | 1 => decide (e.fragCount = 0 ∨ e.fragCount ≤ e.fragIndex ∨ e.positions = 0 ∨ 1527 < e.positions)
  | 3 => e.pathB || decide (e.motif ≠ 0 ∨ 8192 ≤ e.first ∨ w 3 ≠ 0)
  | 2 => e.pathB || decide (w 2 ≠ 0 ∨ w 3 ≠ 0)
  | 4 => e.pathB || decide (w 2 ≠ 0 ∨ w 3 ≠ 0)
  | _ => true

/-- What has been seen within a port: a HOOP_MARK, a SACN_SYNC, the last OFFSET. -/
structure SchedScan where
  mark : Bool
  sync : Bool
  last : Nat

/-- The entries of a port hold no HOOP_MARK and no STITCH or SACN entry. -/
def markless (bs : List Byte) (p : Nat) : Bool :=
  (List.range (schedN bs p)).all fun i =>
    let k := (schedEntry bs (schedStart bs p + i)).kind
    decide (k ≠ 1 ∧ k ≠ 2 ∧ k ≠ 3)

/-- Entry `i` of port `p` checked (R263, R270). -/
def scanSched (bs : List Byte) (p : Nat) (st : SchedScan) (i : Nat) : Except Bad SchedScan :=
  let n := schedStart bs p + i
  let e := schedEntry bs n
  let bad := schedFieldsBad bs n || (decide (i = 0) && markless bs p) || decide (e.offset < st.last) ||
    (decide (e.kind = 1 ∨ e.kind = 3) && !st.mark) || (decide (e.kind = 2) && st.mark) ||
    (decide (e.kind = 3 ∨ e.kind = 4) && st.sync)
  if bad then .error ⟨17, n, noEntry⟩
  else .ok ⟨st.mark || decide (e.kind = 2), st.sync || decide (e.kind = 4), e.offset⟩

/-- The port directory entry breaks R262. -/
def directoryBad (bs : List Byte) (p : Nat) : Bool :=
  decide (65536 < schedN bs p ∨ schedStart bs p ≠ (if p = 0 then 0 else schedStart bs (p - 1) + schedN bs (p - 1)) ∨
    partCount bs < schedStart bs p + schedN bs p ∨ (p = 31 ∧ schedStart bs p + schedN bs p ≠ partCount bs))

/-- Validation of part 4. -/
def validateSched (bs : List Byte) (size : Nat) : Option Bad :=
  let n := partCount bs
  firstSome [
    headerFail bs 4 18 [(decide (n = 0 ∨ 1048576 < n ∨ size ≠ 320 + 16 * n), 2),
      (decide (bits (le bs 12 4) 31 20 ≠ 0), 1)],
    ((List.range 32).find? (directoryBad bs)).map fun p => ⟨18, p, noEntry⟩,
    firstSome ((List.range 32).map fun p => scan (scanSched bs p) (schedN bs p) 0 ⟨false, false, 0⟩),
    badIf (!imageCrcOk bs) (badHeader 3)]

/-! ### Part 5: fixture profiles (R286, R287) -/

def universes (bs : List Byte) : Nat := le bs 12 2
def syncUniverse (bs : List Byte) : Nat := le bs 14 2
/-- Word `w` of universe entry `u`, and of fixture entry `f`. -/
def univW (bs : List Byte) (u w : Nat) : Nat := wordAt bs (128 + 16 * u) w
def fixW (bs : List Byte) (f w : Nat) : Nat := wordAt bs (128 + 16 * universes bs + 8 * f) w
def univNumber (bs : List Byte) (u : Nat) : Nat := bits (univW bs u 0) 31 16
def univSlots (bs : List Byte) (u : Nat) : Nat := bits (univW bs u 0) 9 0
def univPriority (bs : List Byte) (u : Nat) : Nat := bits (univW bs u 1) 31 24
def fixOn (bs : List Byte) (f : Nat) : Bool := bitOf (fixW bs f 0) 31
def fixLayout (bs : List Byte) (f : Nat) : Nat := bits (fixW bs f 0) 30 28
def fixUidx (bs : List Byte) (f : Nat) : Nat := bits (fixW bs f 0) 25 13
def fixStart (bs : List Byte) (f : Nat) : Nat := bits (fixW bs f 0) 9 0
def fixOrder (bs : List Byte) (f q : Nat) : Nat := bits (fixW bs f 1) (2 * q + 1) (2 * q)
/-- Slots of a layout (R287). -/
def layoutSlots (l : Nat) : Nat := match l with | 0 => 3 | 1 => 6 | 2 => 4 | 3 => 8 | 4 => 1 | _ => 2

/-- Reason 19 for a universe. -/
def univBad (bs : List Byte) (u : Nat) : Bool :=
  let w := univW bs u
  decide (univNumber bs u = 0 ∨ 63999 < univNumber bs u ∨ bits (w 0) 15 10 ≠ 0 ∨ univSlots bs u = 0 ∨
    512 < univSlots bs u ∨ 200 < univPriority bs u ∨ bits (w 1) 23 0 ≠ 0 ∨ w 2 ≠ 0 ∨ w 3 ≠ 0)

/-- Reason 19 in word 0 of a fixture. -/
def fixBad (bs : List Byte) (f : Nat) : Bool :=
  let w := fixW bs f 0
  if !fixOn bs f then decide (w ≠ 0)
  else decide (6 ≤ fixLayout bs f ∨ bits w 27 26 ≠ 0 ∨ bits w 12 10 ≠ 0 ∨ fixStart bs f = 0 ∨ 512 < fixStart bs f)

/-- Reason 19 in word 1 of a fixture. -/
def fixOrderBad (bs : List Byte) (f : Nat) : Bool :=
  if !fixOn bs f then decide (fixW bs f 1 ≠ 0)
  else decide (bits (fixW bs f 1) 31 6 ≠ 0) || !isPerm 3 (fixOrder bs f)

/-- Fixture `f` checked, with the slots taken so far by universe × 1024 + slot. -/
def scanFix (bs : List Byte) (used : Table Bool) (f : Nat) : Except Bad (Table Bool) :=
  let n := layoutSlots (fixLayout bs f)
  let u := fixUidx bs f
  let slots := (List.range n).map fun i => u * 1024 + fixStart bs f + i
  let taken := slots.any fun k => tget (fun _ => false) used k
  if fixBad bs f then .error ⟨19, 8192 + f, noEntry⟩
  else if fixOn bs f && (decide (universes bs ≤ u ∨ univSlots bs u + 1 < fixStart bs f + n) || taken) then
    .error ⟨20, 8192 + f, noEntry⟩
  else if fixOrderBad bs f then .error ⟨19, 8192 + f, noEntry⟩
  else if !fixOn bs f then .ok used
  else .ok (slots.foldl (fun t k => tput (fun _ => false) t k true) used)

/-- Validation of part 5. -/
def validateFixtures (bs : List Byte) (size : Nat) : Option Bad :=
  let n := partCount bs
  let u := universes bs
  firstSome [
    headerFail bs 5 32 [(decide (n = 0 ∨ 131072 < n ∨ u = 0 ∨ 8192 < u ∨ size ≠ 128 + 16 * u + 8 * n), 2),
      (decide (63999 < syncUniverse bs), 1)],
    ((List.range u).find? (univBad bs)).map fun i => ⟨19, i, noEntry⟩,
    scan (scanFix bs) n 0 [],
    badIf (!imageCrcOk bs) (badHeader 3)]

end Sys2Proof.Machine
end

