-- ==== Sys2Proof/Machine/Programs.lean ====
section
/-! DEFINITION. Machine/Programs.lean: stitch programs, part 3 (R234 to R242): the encoding of a
step, what each step does to the sequencer's time, validation, and the records that the checks at
close use. -/
namespace Sys2Proof.Machine

/-! ### Image -/

/-- POOL. -/
def poolSize (bs : List Byte) : Nat := le bs 12 4
/-- The 8 bytes of directory entry `n`. -/
def dirBytes (bs : List Byte) (n : Nat) : List Byte := slice bs (64 + 8 * n) 8
def dirOn (dir : List Byte) : Bool := bitOf (le dir 0 4) 31
def dirStart (dir : List Byte) : Nat := bits (le dir 0 4) 19 0
def dirSteps (dir : List Byte) : Nat := bits (le dir 4 4) 31 20 + 1
/-- DIV and GDIV: ticks of a shift clock and of a GCLK period. -/
def dirDiv (dir : List Byte) : Nat := bits (le dir 4 4) 19 10 + 1
def dirGdiv (dir : List Byte) : Nat := bits (le dir 4 4) 9 0 + 1
/-- Step `i` of the pool. -/
def poolStep (bs : List Byte) (i : Nat) : Nat := le bs (64 + 8 * partCount bs + 8 * i) 8
/-- The steps of program `n`, in program order. -/
def programSteps (bs : List Byte) (n : Nat) : List Nat :=
  let d := dirBytes bs n
  (List.range (dirSteps d)).map fun i => poolStep bs (dirStart d + i)

/-! ### Steps (Table 9-4) -/

/-- A decoded step. -/
inductive LaneStep where
  | end_
  | row (addr pre post : Nat)
  | shift (drow plane : Nat) (word : Bool) (bits : Nat)
  | const (reps len value : Nat)
  | latch (clks width : Nat)
  | show_ (async : Bool) (plane ticks : Nat)
  | gclk (async : Bool) (count : Nat)
  | wait (ticks : Nat)
  | loop (target count : Nat)
  deriving DecidableEq, Repr

/-- The bits that a step's opcode occupies. -/
def stepMask (op : Nat) : Nat :=
  let f := fun hi lo => (2 ^ (hi + 1 - lo) - 1) * 2 ^ lo
  f 63 60 + match op with
    | 0 => 0
    | 1 => f 53 48 + f 47 32 + f 31 16
    | 2 => f 53 48 + f 47 44 + f 43 43 + f 19 0
    | 3 => f 47 40 + f 36 32 + f 31 0
    | 4 => f 45 40 + f 15 0
    | 5 => f 59 59 + f 47 44 + f 31 0
    | 6 => f 59 59 + f 31 0
    | 7 => f 31 0
    | 8 => f 43 32 + f 15 0
    | _ => 0

/-- A step, where its encoding is one that R235 allows. -/
def decodeStep (v : Nat) : Option LaneStep :=
  let b := bits v
  let op := b 63 60
  if op ≤ 8 ∧ v &&& stepMask op = v then
    match op with
    | 0 => some .end_
    | 1 => some (.row (b 53 48) (b 47 32) (b 31 16))
    | 2 => if b 19 0 = 0 then none else some (.shift (b 53 48) (b 47 44) (bitOf v 43) (b 19 0))
    | 3 => some (.const (b 47 40 + 1) (b 36 32 + 1) (b 31 0))
    | 4 => if b 45 40 = 0 ∧ b 15 0 = 0 then none else some (.latch (b 45 40) (b 15 0))
    | 5 => if b 31 0 = 0 then none else some (.show_ (bitOf v 59) (b 47 44) (b 31 0))
    | 6 => if b 31 0 = 0 then none else some (.gclk (bitOf v 59) (b 31 0))
    | 7 => if b 31 0 = 0 then none else some (.wait (b 31 0))
    | _ => if b 15 0 = 0 then none else some (.loop (b 43 32) (b 15 0))
  else none

/-- Steps that first wait until the background activity has ended. -/
def LaneStep.waits : LaneStep → Bool
  | .end_ | .row .. | .latch .. | .show_ .. | .gclk .. => true
  | _ => false

/-- Duration of a step in ticks, after any wait (Table 9-5). -/
def LaneStep.ticks (dv gd : Nat) : LaneStep → Nat
  | .end_ => 0
  | .row _ pre post => pre + post
  | .shift _ _ _ n => n * dv
  | .const r l _ => l * r * dv
  | .latch c w => if c = 0 then w else c * dv
  | .show_ async _ t => if async then 0 else t
  | .gclk async n => if async then 0 else n * gd
  | .wait t => t
  | .loop .. => 0

/-- The background activity a step starts: its length in ticks. -/
def LaneStep.background (gd : Nat) : LaneStep → Option Nat
  | .show_ true _ t => some t
  | .gclk true n => some (n * gd)
  | _ => none

/-! ### A pass, with its loops expanded -/

/-- A pass as it runs: step index, time, end of the background activity, current row, loop counters,
steps run, and SHOW ticks by row × 16 + plane. -/
structure Pass where
  pc : Nat
  t : Nat
  bg : Nat
  row : Nat
  loops : Table Nat
  steps : Nat
  tot : Table Nat
  ended : Bool

/-- One step of a pass. -/
def passStep (prog : List Nat) (dv gd : Nat) (p : Pass) : Pass :=
  match (prog[p.pc]?).bind decodeStep with
  | none => { p with ended := true }
  | some st =>
    let t := if st.waits then max p.t p.bg else p.t
    let p := { p with steps := p.steps + 1, t := t + st.ticks dv gd
                      bg := match st.background gd with | some n => t + n | none => p.bg }
    match st with
    | .end_ => { p with ended := true }
    | .row a _ _ => { p with row := a, pc := p.pc + 1 }
    | .show_ _ pl n =>
      { p with pc := p.pc + 1, tot := tmod (fun _ => 0) p.tot (p.row * 16 + pl) (· + n) }
    | .loop tg n =>
      let c := tget (fun _ => 0) p.loops p.pc
      if c < n then { p with pc := tg, loops := tput (fun _ => 0) p.loops p.pc (c + 1) }
      else { p with pc := p.pc + 1, loops := tput (fun _ => 0) p.loops p.pc 0 }
    | _ => { p with pc := p.pc + 1 }

/-- A pass run for at most `fuel` steps. -/
def runPass (prog : List Nat) (dv gd : Nat) : Nat → Pass → Pass
  | 0, p => p
  | n + 1, p => if p.ended then p else runPass prog dv gd n (passStep prog dv gd p)

/-- A whole pass of a program: at most 16,777,216 steps (R237). -/
def wholePass (prog : List Nat) (dv gd : Nat) : Pass :=
  runPass prog dv gd 16777216 ⟨0, 0, 0, 0, [], 0, [], false⟩

/-! ### Validation (R241) -/

/-- Indices of the program's LOOPs with their targets. -/
def loopsOf (prog : List Nat) : List (Nat × Nat) :=
  (List.range prog.length).filterMap fun i => match (prog[i]?).bind decodeStep with
    | some (.loop t _) => some (i, t)
    | _ => none

/-- The bodies [t, i) and [t', i') are disjoint, or one lies strictly inside the other. -/
def bodiesOk (a b : Nat × Nat) : Bool :=
  decide (a.1 ≤ b.2 ∨ b.1 ≤ a.2 ∨ (a.2 ≤ b.2 ∧ b.1 < a.1) ∨ (b.2 ≤ a.2 ∧ a.1 < b.1))

/-- A step is a SHOW; a GCLK. -/
def isShow (v : Nat) : Bool := match decodeStep v with | some (.show_ ..) => true | _ => false
def isGclk (v : Nat) : Bool := match decodeStep v with | some (.gclk ..) => true | _ => false
def isRow (v : Nat) : Bool := match decodeStep v with | some (.row ..) => true | _ => false
def isEnd (v : Nat) : Bool := match decodeStep v with | some .end_ => true | _ => false

/-- BITS of the program's first SHIFT. -/
def shiftBits (prog : List Nat) : Option Nat :=
  prog.findSome? fun v => match decodeStep v with | some (.shift _ _ _ n) => some n | _ => none

/-- Step `i` of a program fails (reason 15 at that step). -/
def stepBad (prog : List Nat) (i : Nat) : Bool :=
  let v := (prog[i]?).getD 0
  let last := decide (i + 1 = prog.length)
  let classP := prog.any isShow && !prog.any isGclk
  let classG := prog.any isGclk && !prog.any isShow
  let ls := loopsOf prog
  match decodeStep v with
  | none => true
  | some st =>
    (decide (isEnd v ≠ last)) ||
    match st with
    | .shift _ _ w n => (classP && w) || (classG && !w) || decide (shiftBits prog ≠ some n)
    | .show_ .. => !((prog.take i).any isRow)
    | .gclk .. => !((prog.take i).any isRow)
    | .loop t _ =>
      decide (i < t) ||
      ((ls.filter fun l => decide (l.1 < i)).any fun l => !bodiesOk l (i, t)) ||
      ((List.range i).any fun k => decide (4 < (ls.filter fun l => decide (l.1 ≤ i ∧ l.2 ≤ k ∧ k < l.1)).length))
    | _ => false

/-- A failure of a program that belongs to no single step: its reason. -/
def programBad (prog : List Nat) (dir : List Byte) : Option Nat :=
  let p := wholePass prog (dirDiv dir) (dirGdiv dir)
  let rows := (prog.filterMap fun v => match decodeStep v with | some (.row a _ _) => some a | _ => none)
  let planes := (prog.filterMap fun v => match decodeStep v with | some (.show_ _ pl _) => some pl | _ => none)
  let tot := fun a pl => tget (fun _ => 0) p.tot (a * 16 + pl)
  let w := tot (rows.foldl min 63) 0
  if prog.any isShow = prog.any isGclk ∨ p.ended = false ∨ 2 ^ 32 ≤ p.t then some 15
  else if prog.any isShow && (decide (w = 0) ||
      rows.any fun a => (List.range (planes.foldl max 0 + 1)).any fun pl => decide (tot a pl ≠ w * 2 ^ pl))
  then some 16
  else none

/-- The defined programs of an image. -/
def definedPrograms (bs : List Byte) : List Nat :=
  (List.range (partCount bs)).filter fun n => dirOn (dirBytes bs n)

/-- Directory entry `n` breaks Table 9-3. -/
def dirBad (bs : List Byte) (n : Nat) : Bool :=
  let d := dirBytes bs n
  if !dirOn d then !zeroRange d 0 8
  else decide (bits (le d 0 4) 30 20 ≠ 0 ∨ poolSize bs < dirStart d + dirSteps d)

/-- The step failure at the lowest pool index, then of the lowest program. -/
def firstStepBad (bs : List Byte) : Option Bad :=
  let fails := (definedPrograms bs).filterMap fun n =>
    let prog := programSteps bs n
    ((List.range prog.length).find? (stepBad prog)).map fun i => (dirStart (dirBytes bs n) + i, n)
  (fails.foldl (fun best x => match best with
    | some b => if x.1 < b.1 then some x else some b
    | none => some x) (none : Option (Nat × Nat))).map fun x => ⟨15, x.2, x.1⟩

/-- Validation of part 3. -/
def validatePrograms (bs : List Byte) (size : Nat) : Option Bad :=
  let n := partCount bs
  let pool := poolSize bs
  firstSome [
    headerFail bs 3 16 [(decide (n = 0 ∨ 4096 < n ∨ pool = 0 ∨ 1048576 < pool ∨ size ≠ 64 + 8 * n + 8 * pool), 2)],
    ((List.range n).find? (dirBad bs)).map fun k => ⟨15, k, noEntry⟩,
    firstStepBad bs,
    (definedPrograms bs).findSome? fun k =>
      (programBad (programSteps bs k) (dirBytes bs k)).map fun r => ⟨r, k, noEntry⟩,
    badIf (!imageCrcOk bs) (badHeader 3)]

/-! ### Records (R242) -/

/-- What STI records of a program. -/
structure Record where
  classG : Bool
  pass : Nat
  rows : List Nat
  drow : Nat
  plane : Nat
  bits : Option Nat
  div : Nat
  gdiv : Nat

/-- The record of program `n`. -/
def recordOf (bs : List Byte) (n : Nat) : Record :=
  let d := dirBytes bs n
  let prog := programSteps bs n
  let steps := prog.filterMap decodeStep
  { classG := prog.any isGclk
    pass := (wholePass prog (dirDiv d) (dirGdiv d)).t
    rows := steps.filterMap fun s => match s with | .row a _ _ => some a | _ => none
    drow := (steps.map fun s => match s with | .shift r _ _ _ => r | _ => 0).foldl max 0
    plane := (steps.map fun s => match s with | .shift _ p _ _ => p | .show_ _ p _ => p | _ => 0).foldl max 0
    bits := shiftBits prog
    div := dirDiv d
    gdiv := dirGdiv d }

end Sys2Proof.Machine
end

