-- ==== Sys2Proof/Machine/Staging.lean ====
section
/-! DEFINITION. Machine/Staging.lean: TABLE_LOAD and TABLE_READ, the staging states and the
validation of a part (R195 to R199, R478, and the same rules for parts 2 to 6). -/
namespace Sys2Proof.Machine

def stageOf (s : State) (p : Nat) : Stage := tget (fun _ => Stage.reset) s.stages p
def setStage (s : State) (p : Nat) (x : Stage) : State :=
  { s with stages := tput (fun _ => Stage.reset) s.stages p x }

/-- The block that walks part `p`, by its number (R60). -/
def partBlock (p : Nat) : Nat := match p with | 0 => 8 | 1 => 8 | 2 => 10 | 3 => 10 | 4 => 11 | 5 => 11 | _ => 9

/-- Validation of a complete image of part `p`. -/
def validate (p : Nat) (bs : List Byte) (size : Nat) : Option Bad :=
  match p with
  | 0 => validatePrick bs size
  | 1 => validateMotif bs size
  | 2 => validateProfiles bs size
  | 3 => validatePrograms bs size
  | 4 => validateSched bs size
  | 5 => validateFixtures bs size
  | _ => validateColour bs size

/-- A part's staging becomes INVALID: its state, BAD_ENTRY (and BAD_STEP for part 3), and the block's
TABLE_INVALID. -/
def partInvalid (s : State) (p : Nat) (b : Bad) : State :=
  let x := stageOf s p
  let s := setStage s p { x with state := .invalid, reason := b.reason }
  let s := { s with badEntry := tput (fun _ => 0) s.badEntry (partBlock p) (w32 b.entry) }
  let s := if p = 3 then { s with badStep := w32 b.step } else s
  let step := if partBlock p = 10 then b.step % 2 ^ 24 * 2 ^ 40 else 0
  noticeBoth s (partBlock p * 256 + 1) p (b.entry + b.reason * 2 ^ 32 + step)

/-! ### TABLE_LOAD -/

def loadBegin (d : Desc) : Bool := bitOf (darg d 1) 31
def loadEnd (d : Desc) : Bool := bitOf (darg d 1) 30
def loadOffset (d : Desc) : Nat := darg d 0
def loadSize (d : Desc) : Nat := darg d 2

/-- A TABLE_READ of part `p` is under way. -/
def readRuns (p : Nat) (t : Track) : Bool := decide (t.desc.opcode = 0x12 ∧ t.desc.object = p ∧ t.phase = .running)

/-- A running TABLE_READ of part `p` names the copy a BEGIN would overwrite: the staged copy, or one that a
swap has made inactive (R199). -/
def readHolds (s : State) (p : Nat) : Bool :=
  s.hif.track.any fun t => readRuns p t && s.spareReads.contains t.id

/-- A TABLE_READ ends: its copy is no longer named. -/
def dropRead (s : State) (id : Nat) : State :=
  { s with reads := tput (fun _ => []) s.reads id [], spareReads := s.spareReads.filter fun x => decide (x ≠ id) }

/-- The active and the staged copy of part `p` exchange places: the reads that run name the other now. -/
def swapReads (s : State) (p : Nat) : State :=
  let ids := (s.hif.track.filter (readRuns p)).map (·.id)
  { s with spareReads := (s.spareReads.filter fun x => !ids.contains x) ++
      ids.filter fun x => !s.spareReads.contains x }

/-- Another TABLE_LOAD of part `p` is under way (R195). -/
def loadRunning (s : State) (p : Nat) : Bool :=
  s.hif.track.any fun t => decide (t.desc.opcode = 0x11 ∧ t.desc.object = p ∧ t.phase = .running)

/-- What Table 7-9 makes of a TABLE_LOAD: status and RESULT0 where it ends it at once. -/
def loadCheck (s : State) (d : Desc) : Nat × Nat :=
  let x := stageOf s d.object
  if !argsZeroFrom d 3 || decide (bits (darg d 1) 29 0 ≠ 0 ∨ (loadBegin d = false ∧ loadSize d ≠ 0)) then (stBad, 0)
  else if d.length < 8 ∨ 16777216 < d.length ∨ d.length % 8 ≠ 0 ∨ loadSize d % 8 ≠ 0 then (stLength, 0)
  else if loadBegin d then
    if loadOffset d ≠ 0 ∨ sizeOk d.object (loadSize d) = false ∨ loadSize d < d.length then (stLength, 0)
    else if x.state = .committing then (stState, 0)
    else (stOk, 0)
  else if x.state ≠ .loading then (stState, 0)
  else if loadOffset d ≠ x.data.length then (stOffset, x.data.length)
  else if x.size < loadOffset d + d.length then (stLength, 0)
  else (stOk, 0)

/-- A TABLE_LOAD whose turn has come is judged and, where Table 7-9 takes it, starts. -/
def judgeLoad (s : State) (t : Track) : State :=
  let d := t.desc
  let (st, r0) := loadCheck s d
  if st ≠ stOk then finish s t.id st r0 0
  else
    let s := if loadBegin d then setStage s d.object ⟨.loading, 0, loadSize d, [], none⟩ else s
    begin s t.id

/-- The TABLE_LOADs of part `p` that have reached its block are served in their order, one at a time: the
first waits while another is under way, or for a read that holds a BEGIN (R195, R199). -/
def serveLoads : Nat → State → Nat → State
  | 0, s, _ => s
  | n + 1, s, p =>
    match nextQueued s fun t => decide (t.desc.opcode = 0x11 ∧ t.desc.object = p) with
    | some t =>
      if loadRunning s p || (loadBegin t.desc && readHolds s p) then s else serveLoads n (judgeLoad s t) p
    | none => s

/-- The TABLE_LOADs of part `p` that wait for their turn are looked at. -/
def nextLoad (s : State) (p : Nat) : State := serveLoads s.hif.track.length s p

/-- A TABLE_LOAD has reached its part's block. -/
def startLoad (s : State) (t : Track) : State := nextLoad s t.desc.object

/-- A TABLE_LOAD ends, and the next of its part starts. -/
def finishLoad (s : State) (t : Track) (st r0 r1 : Nat) : State := nextLoad (finish s t.id st r0 r1) t.desc.object

/-- A block's data has been read and is written to staging. With END and every byte staged,
validation follows; with END and bytes missing, the image is invalid. -/
def blockWritten (s : State) (t : Track) (data : List Byte) : State :=
  let p := t.desc.object
  let x := stageOf s p
  let y := { x with data := x.data ++ slice data 0 t.desc.length }
  let s := setStage s p y
  if !loadEnd t.desc then finishLoad s t stOk 0 0
  else if y.data.length < y.size then
    finishLoad (partInvalid s p ⟨11, noEntry, noEntry⟩) t stInvalid noEntry 11
  else s

/-- A block's read failed: reason 12 (R196). -/
def blockFailed (s : State) (t : Track) : State :=
  let p := t.desc.object
  let x := stageOf s p
  nextLoad (partInvalid (setStage s p { x with hole := some (x.data.length, t.desc.length) }) p ⟨12, noEntry, noEntry⟩) p

/-- The END block whose validation is under way for part `p`. -/
def validating (s : State) (p : Nat) : Option Track :=
  let x := stageOf s p
  s.hif.track.find? fun t =>
    decide (t.desc.opcode = 0x11 ∧ t.desc.object = p ∧ t.phase = .running) && loadEnd t.desc &&
    decide (x.state = .loading ∧ x.data.length = x.size)

/-- TABLE_VALIDATION_COMPLETE: the image is VALID or INVALID (R197). -/
def validationComplete (s : State) (p : Nat) : State :=
  match validating s p with
  | some t =>
    let x := stageOf s p
    match validate p x.data x.size with
    | none => finishLoad (setStage s p { x with state := .valid, reason := 0 }) t stOk 0 0
    | some b => finishLoad (partInvalid s p b) t stInvalid b.entry b.reason
  | none => s

/-! ### TABLE_READ (R199) -/

/-- The bytes a range of a staged image reads as: as written, zero beyond, and free where a failed
block left something. -/
def stagedBytes (s : State) (x : Stage) : List Byte × State :=
  let full := slice x.data 0 x.size
  match x.hole with
  | some (off, n) =>
    let (v, s) := takeFree s
    ((List.range x.size).map fun i =>
      if off ≤ i ∧ i < off + n then BitVec.ofNat 8 (v / 256 ^ (i - off)) else (full[i]?).getD 0, s)
  | none => (full, s)

/-- TABLE_READ reaches the part's block: the copy it names is fixed. -/
def startTableRead (s : State) (t : Track) : State :=
  let d := t.desc
  let x := stageOf s d.object
  let beyond := fun (bs : List Byte) => decide (bs.length < darg d 0 + d.length)
  let take := fun (s : State) (bs : List Byte) (spare : List Nat) =>
    if beyond bs then finish s t.id stLength 0 0
    else begin { s with reads := tput (fun _ => []) s.reads t.id bs, spareReads := s.spareReads ++ spare } t.id
  if !argsZeroFrom d 2 || decide (2 ≤ darg d 1) then finish s t.id stBad 0 0
  else if d.length < 8 ∨ 16777216 < d.length ∨ d.length % 8 ≠ 0 then finish s t.id stLength 0 0
  else if bitOf (darg d 1) 0 then
    if x.state = .empty ∨ x.state = .loading then finish s t.id stState 0 0
    else
      let (bs, s') := stagedBytes s x
      if beyond bs then finish s t.id stLength 0 0 else take s' bs [t.id]
  else if partOf s.cfg d.object = [] then finish s t.id stNotFound 0 0
  else take s (partOf s.cfg d.object) []

/-- Words 8 to 11 of motif `m` as its live fields stand (Table 7-4). -/
def liveBytes (s : State) (m : Nat) : List Byte :=
  let v := tget (fun _ => Live.reset) s.live m
  leBytes 4 (b2n v.report.valid * 2 ^ 31 + toBits 17 v.report.temp) ++ leBytes 4 v.report.hoop.toNat ++
    leBytes 4 (v.epoch * 65536 + b2n v.foreign) ++ leBytes 4 (v.fcid * 65536 + v.fepoch)

/-- The active motif table with its live fields. -/
def withLive (s : State) (bs : List Byte) : List Byte :=
  bs.take 64 ++ (List.range 16384).flatMap fun m =>
    slice bs (64 + 64 * m) 32 ++ liveBytes s m ++ slice bs (64 + 64 * m + 48) 16

/-- TABLE_READ's data is written to host memory; a BEGIN it held is released. -/
def tableReadDone (s : State) (t : Track) : State :=
  let d := t.desc
  let bs := tget (fun _ => []) s.reads t.id
  let bs := if d.object = 1 ∧ bitOf (darg d 1) 0 = false then withLive s bs else bs
  let s := dropRead { s with out := s.out ++ [.data d.hostAddr (slice bs (darg d 0) d.length)] } t.id
  nextLoad (finish s t.id stOk 0 0) d.object

/-! ### Swapping at a boundary (R201, R224, R272) -/

/-- COUNT shown by TABLE_ACTIVE; part 6 shows UCOUNT. -/
def activeCount (p : Nat) (bs : List Byte) : Nat := if p = 6 then uCount bs else partCount bs

/-- The part named by a COMMIT becomes EMPTY in staging, and its block posts TABLE_ACTIVE. -/
def partActive (s : State) (p : Nat) : State :=
  let bs := partOf s.cfg p
  noticeBoth (setStage (swapReads s p) p Stage.reset) (partBlock p * 256 + 2) p (partTag bs + activeCount p bs * 2 ^ 32)


end Sys2Proof.Machine
end

