-- ==== Sys2Proof/Machine/Colour.lean ====
section
/-! DEFINITION. Machine/Colour.lean: the pixel path, the thermal estimator, dither and fixtures, and
COLOUR_SET (chapter 8). -/
namespace Sys2Proof.Machine

def setCol (s : State) (c : Col) : State := { s with col := c }
def liveOf (s : State) (m : Nat) : Live := tget (fun _ => Live.reset) s.live m
def setLive (s : State) (m : Nat) (v : Live) : State :=
  { s with live := tput (fun _ => Live.reset) s.live m v }
def estOf (s : State) (m k : Nat) : Estimate := tget (fun _ => Estimate.reset) s.col.est (4 * m + k)
def setEst (s : State) (m k : Nat) (e : Estimate) : State :=
  setCol s { s.col with est := tput (fun _ => Estimate.reset) s.col.est (4 * m + k) e }

/-! ### COLOUR_SET (R225) -/

/-- A 32-bit word that holds a sign-extended S8.8 value. -/
def signExtended (v : Nat) : Bool := decide (sext 32 v = sext 17 v)

/-- COLOUR_SET at arrival. -/
def colourArrival (d : Desc) : Nat :=
  let a := darg d
  let on := fun k => bitOf (a 0) k
  let absent := fun k => on k || decide (a (k + 1) = 0)
  if !noData d || !argsZeroFrom d 6 || decide (a 0 = 0 ∨ 32 ≤ a 0) || !((List.range 5).all absent) then stBad
  else if decide (bits (a 1) 30 17 ≠ 0 ∨ 65536 < bits (a 1) 16 0 ∨ 65536 < a 2 ∨ 65536 ≤ a 4)
      || !signExtended (a 3) || !signExtended (a 5) || (on 3 && decide (a 4 = 0)) then stBad
  else stOk

/-- The settings after a COLOUR_SET. -/
def applyColour (c : ColourCfg) (d : Desc) : ColourCfg :=
  let a := darg d
  let on := fun k => bitOf (a 0) k
  { dither := if on 0 then bitOf (a 1) 31 else c.dither
    bright := if on 0 then bits (a 1) 16 0 else c.bright
    fixBright := if on 1 then bits (a 2) 16 0 else c.fixBright
    tStale := if on 2 then sext 32 (a 3) else c.tStale
    staleHoops := if on 3 then a 4 else c.staleHoops
    tAlarm := if on 4 then sext 32 (a 5) else c.tAlarm }

/-! ### Colour records (Table 8-6, R209) -/

/-- The active colour tables; the empty list stands for the defaults of R209. -/
def colourPart (s : State) : List Byte := partOf s.cfg 6

/-- M[k][j], S1.14. -/
def colourM (s : State) (m k j : Nat) : Int :=
  let bs := colourPart s
  if bs = [] then (if k = j ∧ k < 3 then 0x4000 else 0)
  else
    let n := 3 * k + j
    let w := colourW bs m (5 + n / 2)
    sext 16 (if n % 2 = 0 then bits w 15 0 else bits w 31 16)

def colourUni (s : State) (m : Nat) : Bool :=
  let bs := colourPart s
  decide (bs ≠ []) && bitOf (colourW bs m 0) 31
def colourDshift (s : State) (m : Nat) : Nat :=
  let bs := colourPart s
  if bs = [] then 0 else bits (colourW bs m 0) 19 16
def colourAlpha (s : State) (m : Nat) : Nat :=
  let bs := colourPart s
  if bs = [] then 0 else bits (colourW bs m 2) 31 16
/-- K[k]: R, G, B, W. -/
def colourK (s : State) (m k : Nat) : Nat :=
  let bs := colourPart s
  if bs = [] then 0
  else match k with
    | 0 => bits (colourW bs m 3) 15 0
    | 1 => bits (colourW bs m 3) 31 16
    | 2 => bits (colourW bs m 4) 15 0
    | _ => bits (colourW bs m 4) 31 16

/-- UG[k] of chain position `i` (R208). -/
def uniGain (s : State) (m i k : Nat) : Nat :=
  let bs := colourPart s
  if colourUni s m then le bs (pixelRecordAt bs (bits (colourW bs m 1) 23 0 + i) + 2 * k) 2 else 0x8000

/-- The active motif table, driver profiles and stitch programs of a configuration. -/
def motifPart (c : Cfg) : List Byte := partOf c 1
/-- The driver profile of motif `m`. -/
def profileOf (c : Cfg) (m : Nat) : List Byte := profileBytes (partOf c 2) (motifProfile (motifPart c) m)
/-- Channels of motif `m` (R207). -/
def channels (c : Cfg) (m : Nat) : Nat := profCh (profileOf c m)

/-! ### Thermal estimator (R210 to R216) -/

/-- LR: 2^24 / n (R210). -/
def loadRecip (n : Nat) : Nat := (2 ^ 24 + n / 2) / n

/-- therm_gain (R214), `g i` being point i of the gain set. -/
def thermGain (rev : Nat) (g : Nat → Nat) (tj : Int) : Nat :=
  let u := clampI 0 40960 (tj + 5120)
  let i := (u / 2560).toNat
  let f := u - 2560 * i
  if i = 16 then g 16
  else ((g i : Int) + (((g (i + 1) : Int) - g i) * f + (if rev = 2 then 1280 else 0)) / 2560).toNat

/-- A motif is stale for the run (R216). -/
def isStale (s : State) (h : Hoop) (m : Nat) : Bool :=
  let r := tget (fun _ => TempReport.reset) s.col.snapshot m
  !r.valid || decide (s.cfg.colour.staleHoops ≤ (h - r.hoop).toNat)

/-- T_S (Table 8-3). -/
def lampTemp (s : State) (rev : Nat) (h : Hoop) (m : Nat) : Int :=
  let r := tget (fun _ => TempReport.reset) s.col.snapshot m
  if isStale s h m && (decide (rev = 2) || !r.valid) then s.cfg.colour.tStale else r.temp

/-- R211 for channel `k` of motif `m`. -/
def estimate (s : State) (rev : Nat) (h : Hoop) (m k : Nat) : Estimate :=
  let e := estOf s m k
  let target : Int := rhu 15 ((colourK s m k : Int) * e.l)
  let th := e.theta + rhu 16 ((colourAlpha s m : Int) * (target - e.theta))
  let tj := clampI (-65536) 65535 (lampTemp s rev h m + th)
  let bs := colourPart s
  let tg := if bs = [] then 0x8000
    else thermGain rev (fun i => le bs (gainAt (bits (colourW bs m 0) 15 8) + 34 * k + 2 * i) 2) tj
  { e with work := th, tj := tj, tg := tg, s := 0 }

/-- The estimator's step for motif `m` before its first entry of the run. -/
def estimateMotif (rev : Nat) (h : Hoop) (s : State) (m : Nat) : State :=
  let ks := List.range (channels s.cfg m)
  let es := ks.map fun k => estimate s rev h m k
  let s := (ks.zip es).foldl (fun s x => setEst s m x.1 x.2) s
  let top := es.foldl (fun t e => max t e.tj) (-65536)
  let c := s.col
  let c := if isStale s h m then { c with runStale := c.runStale ++ [m] } else c
  setCol s (if es.any fun e => decide (s.cfg.colour.tAlarm < e.tj) then
      { c with runHot := c.runHot ++ [m], runTop := tput (fun _ => 0) c.runTop m top }
    else c)

/-! ### The pixel path (R204 to R206, R218) -/

/-- The dither threshold (R218). -/
def ditherThreshold (dither : Bool) (rev : Nat) (h : Hoop) (dshift i k : Nat) : Nat :=
  if dither then
    let bayer := [[0, 8, 2, 10], [12, 4, 14, 6], [3, 11, 1, 9], [15, 7, 13, 5]]
    let b := ((bayer[i / 2 ^ dshift % 4]?).bind fun r => r[i % 4]?).getD 0
    let rot := if rev = 2 then 5 * (h.toNat % 16) else 4 * (h.toNat % 4)
    let off := ([0, 8, 4, 12][k]?).getD 0
    (b + rot + off) % 16 * 2048 + 1024
  else 0x4000

/-- Stages 1 to 4 (R205): the drive v, and whether stage 4 lowered it. -/
def drive (s : State) (rev m i k : Nat) (smp : Nat × Nat × Nat) : Nat × Bool :=
  let a := colourM s m k 0 * smp.1 + colourM s m k 1 * smp.2.1 + colourM s m k 2 * smp.2.2
  let d := satU 16 (if rev = 2 then rhu 14 a else trn 14 a)
  let u := min ((d * uniGain s m i k + 0x4000) / 2 ^ 15) 0xFFFF
  let t := min ((u * (estOf s m k).tg + 0x4000) / 2 ^ 15) 0xFFFF
  let b := (t * s.cfg.colour.bright + 0x8000) / 2 ^ 16
  (min b 0x8000, decide (0x8000 < b))

/-- Stage 5. -/
def encode (n v dth : Nat) : Nat := (v * (2 ^ n - 1) + dth) / 2 ^ 15

/-- A PIXEL entry of motif `m` at chain position `i`: the greyscale of each channel. -/
def pixelEntry (s : State) (rev : Nat) (h : Hoop) (m i : Nat) (smp : Nat × Nat × Nat) : List Nat × State :=
  let n := profN (profileOf s.cfg m)
  let ds := colourDshift s m
  (List.range (channels s.cfg m)).foldl (fun (gs, s) k =>
    let (v, clip) := drive s rev m i k smp
    let e := estOf s m k
    let s := setEst s m k { e with s := e.s + v }
    let s := if clip then setCol s { s.col with runClip := s.col.runClip + 1 } else s
    (gs ++ [encode n v (ditherThreshold s.cfg.colour.dither rev h ds i k)], s)) ([], s)

/-- A fixture level (R219). -/
def fixtureLevel (bright v : Nat) : Nat := min ((v * bright + 0x8000) / 2 ^ 16) 0xFFFF

/-! ### Completion of a run (R212, R215, R217) -/

/-- θ and L after a completed run. -/
def completeEst (c : Cfg) (s : State) (m : Nat) : State :=
  (List.range (channels c m)).foldl (fun s k =>
    let e := estOf s m k
    setEst s m k { e with
      theta := e.work
      l := min 0x8000 ((e.s * loadRecip (motifCount (motifPart c) m) + 2 ^ 23) / 2 ^ 24)
      s := 0, shownTj := e.tj, shownTg := e.tg }) s

/-- The completion of run `h`: estimator, stale set, hot motifs, COL_CLIP. -/
def completeCol (s : State) (h : Hoop) : State :=
  let c := s.col
  let s := (enabledMotifs (motifPart s.cfg)).foldl (completeEst s.cfg) s
  let entered := c.runStale.filter fun m => !c.stale.contains m
  let left := c.stale.filter fun m => !c.runStale.contains m
  let newHot := c.runHot.filter fun m => !c.hot.contains m
  let s := setCol s { s.col with
    stale := c.runStale, hot := c.runHot, clip := c.runClip, estHoop := h
    runStale := [], runHot := [], runTop := [], runClip := 0 }
  let s := if entered = [] ∧ left = [] then s
    else noticeBoth s 0x0904 0 (entered.length + left.length * 2 ^ 16 +
      (entered.head?).getD 0xFFFF * 2 ^ 32 + c.runStale.length * 2 ^ 48)
  match newHot with
  | [] => s
  | m :: _ => noticeBoth s 0x0905 0 (newHot.length + m * 2 ^ 16 +
      toBits 32 (tget (fun _ => 0) c.runTop m) * 2 ^ 32)

/-- An aborted run's work is discarded. -/
def discardCol (s : State) : State :=
  setCol s { s.col with runStale := [], runHot := [], runTop := [], runClip := 0 }

/-- A motif table becomes active (R192, R210): live fields and estimator state of the motifs it
disables are cleared, and the estimator state of those it enables. -/
def swapMotifs (old new : List Byte) (s : State) : State :=
  let clearEst := fun (s : State) (m : Nat) => (List.range 4).foldl (fun s k => setEst s m k Estimate.reset) s
  let s := { s with live := s.live.filter fun x => motifOn new x.1 }
  (List.range 16384).foldl (fun s m =>
    let was := decide (old ≠ []) && motifOn old m
    if was && motifOn new m then s
    else if !was && !motifOn new m then s
    else clearEst s m) s

/-- The temperature snapshot of a boundary (R21). -/
def takeSnapshot (s : State) : State :=
  setCol s { s.col with
    snapshot := s.live.foldl (fun t x => tput (fun _ => TempReport.reset) t x.1 x.2.report) [] }

end Sys2Proof.Machine
end

