-- ==== Sys2Proof/Machine/Sti.lean ====
section
/-! DEFINITION. Machine/Sti.lean: stitch packing, the bobbin lanes and their sequencers, and the
lamp-board sensors (chapter 9). -/
namespace Sys2Proof.Machine

/-! ### Stitches (R228 to R230) -/

/-- The 6-byte stitch word of a chain position (Table 9-1). -/
def stitchWord (pr : List Byte) (gs : List Nat) : List Byte :=
  let n := profN pr
  let g := fun k => (gs[k]?).getD 0
  if profCh4 pr then
    beBytes 6 (sumNat ((List.range 4).map fun k => g k * 2 ^ (12 - n) % 2 ^ 12 * 2 ^ (36 - 12 * k)))
  else (List.range 3).flatMap fun k => beBytes 2 (g k * 2 ^ (16 - n) % 2 ^ 16)

/-- The greyscale value of channel `k` that a stitch holds for chain position `i`. -/
def stitchGs (pr : List Byte) (stitch : List Byte) (i k : Nat) : Nat :=
  let n := profN pr
  if profCh4 pr then bits (be stitch (6 * i) 6) (47 - 12 * k) (36 - 12 * k) / 2 ^ (12 - n)
  else be stitch (6 * i + 2 * k) 2 / 2 ^ (16 - n)

/-- The stitch of motif `m` in the run in progress. -/
def stitchOf (s : State) (m : Nat) : List Byte :=
  (List.range (motifCount (motifPart s.cfg) m)).flatMap fun i =>
    stitchWord (profileOf s.cfg m) (tget (fun _ => []) s.run.grey (m * 65536 + i))

/-! ### Lane groups (R249, R250) -/

def laneOf (s : State) (g : Nat) : Lane := tget (fun _ => Lane.reset) s.sti.lanes g
def setLane (s : State) (g : Nat) (x : Lane) : State :=
  { s with sti := { s.sti with lanes := tput (fun _ => Lane.reset) s.sti.lanes g x } }
/-- The lanes of group `g` are driven: EN is 1, and no clock halt has made them high-impedance (R442). -/
def laneEn (s : State) (g : Nat) : Bool := regBit s (STI_LANE_CTRL g) 31 && s.glb.halted.isNone

/-- The enabled local motif that group `g` serves (R249). -/
def groupMotif (c : Cfg) (g : Nat) : Option Nat :=
  (enabledMotifs (motifPart c)).find? fun m =>
    motifLocal (motifPart c) m && decide (bits (motifLanes (motifPart c) m) (4 * g + 3) (4 * g) ≠ 0)

/-- Lanes of a motif, ascending: chain c runs on the c-th. -/
def lanesOf (mask : Nat) : List Nat := (List.range 16).filter (bitOf mask)

/-- Quarter-ns of a tick (R232). -/
def tickQ : Nat := 20

/-- Anchor A_k of what a group presents, in device time; repeated runs follow every nominal T (R244,
Table 9-9). -/
def anchor (s : State) (w : Show) (k : Nat) : Nat :=
  moveQ (w.base + w.reps * periodNum s / max (periodDen s) 1) (tickQ * (profOffset w.profile + k * profPeriod w.profile) : Nat)

/-- A run that waits for its first anchor, with no pass in progress, becomes what the group presents,
so that the next run can wait behind it. -/
def promote (x : Lane) : Lane :=
  match x.nxt with
  | some n => if x.seq.isNone then { x with cur := some n, nxt := none } else x
  | none => x

/-- What group `g` presents for the run that has just ended (R244, R245): the stitch in the back
bank, or, after an abort, the stitch held. -/
def showRun (s : State) (g : Nat) (h : Hoop) (base : Nat) (aborted : Bool) : State :=
  let x := promote (laneOf s g)
  match groupMotif s.cfg g with
  | none => setLane s g { x with nxt := none, cur := x.cur.map fun c => { c with final := true } }
  | some m =>
    let pr := profileOf s.cfg m
    let progs := partOf s.cfg 3
    let n := motifProgram (motifPart s.cfg) m
    let heldStitch := match x.nxt, x.cur with
      | some w, _ => w.stitch
      | none, some w => w.stitch
      | none, none => []
    let w : Show :=
      { hoop := h, base := base, motif := m, lanes := motifLanes (motifPart s.cfg) m, profile := pr, dir := dirBytes progs n, steps := programSteps progs n
        stitch := if aborted then heldStitch else tget (fun _ => []) s.sti.back m
        next := 0, held := aborted, reps := 0, final := false }
    setLane s g { x with nxt := some w }

/-- The first boundary after a restart, which presents at `base`, re-anchors the passes that group `g`
repeats with the stitch it holds (Table 9-9). -/
def reanchorShow (base : Nat) (s : State) (g : Nat) : State :=
  let x := laneOf s g
  match x.cur, x.nxt with
  | some w, none =>
    if w.final then s
    else setLane s g { x with nxt := some { w with base := base, next := 0, reps := 0, held := true } }
  | _, _ => s

/-! ### What a step drives (R236, R238) -/

/-- The bits of a SHIFT on chain `c`, first bit first (R238). -/
def shiftOut (w : Show) (c drow plane : Nat) (word : Bool) : List Bool :=
  let pr := w.profile
  let ch := profCh pr
  List.replicate (profPad pr) false ++
    ((List.range (profCols pr)).reverse.flatMap fun x =>
      (List.range ch).reverse.flatMap fun q =>
        let i := (c * profRows pr + drow) * profCols pr + x
        let gs := stitchGs pr w.stitch i (profCorder pr q)
        if word then
          (List.range (profGsw pr)).reverse.map fun b => bitOf (gs * 2 ^ (profGsw pr - profN pr)) b
        else [bitOf gs plane])

/-- The bits of a CONST (Table 9-5). -/
def constOut (reps len value : Nat) : List Bool :=
  (List.replicate reps ((List.range len).reverse.map (bitOf value))).flatten

/-- Ticks of a step of what is shown. -/
def showTicks (w : Show) (st : LaneStep) : Nat := st.ticks (dirDiv w.dir) (dirGdiv w.dir)

/-- The stitch with the words that `mask` names read as zero (Table 9-9). -/
def maskStitch (mask : Nat) (stitch : List Byte) : List Byte :=
  (List.range (stitch.length / 6)).flatMap fun i =>
    if bitOf mask i then List.replicate 6 0 else slice stitch (6 * i) 6

/-- What the pass in progress shows. -/
def passShow (w : Show) (q : Seq) : Show :=
  match q.poison with
  | some m => { w with stitch := maskStitch m w.stitch }
  | none => w

/-- The step in progress. -/
def stepNow (w : Show) (q : Seq) : Option LaneStep := if q.ends.isSome then (w.steps[q.pc]?).bind decodeStep else none

/-- The bits that a step shifts on chain `c`. -/
def stepBits (w : Show) (q : Seq) (c : Nat) : LaneStep → List Bool
  | .shift drow plane word _ => shiftOut (passShow w q) c drow plane word
  | .const reps len value => constOut reps len value
  | _ => []

/-- Rising edges of SCLK in the first `t` ticks of a step: DATA changes as a period of `dv` ticks begins, and
SCLK rises ceil(dv/2) ticks later (R251). -/
def edgesIn (dv t : Nat) : Nat := (t + dv / 2) / max dv 1

/-- What the step in progress has driven on chain `c` in its first `t` ticks. -/
def stepEvents (w : Show) (q : Seq) (t c : Nat) : LaneStep → List LaneEvent
  | .shift a b d n => [.data ((stepBits w q c (.shift a b d n)).take (edgesIn (dirDiv w.dir) t)) (dirDiv w.dir)]
  | .const r l v => [.data ((stepBits w q c (.const r l v)).take (edgesIn (dirDiv w.dir) t)) (dirDiv w.dir)]
  | .latch clks _ => [.lat t (min clks (edgesIn (dirDiv w.dir) t)) (dirDiv w.dir)]
  | .show_ .. => [.lit t]
  | .gclk .. => [.pulses (t / max (dirGdiv w.dir) 1) (dirGdiv w.dir)]
  | _ => []

/-- What the background activity has driven in its first `t` ticks. -/
def backEvents (w : Show) (t : Nat) : List LaneEvent :=
  if profG w.profile then [.pulses (t / max (dirGdiv w.dir) 1) (dirGdiv w.dir)] else [.lit t]

/-- Lanes of group `g` that carry what is shown, each with its chain (R249). -/
def groupLanes (w : Show) (g : Nat) : List (Nat × Nat) :=
  let lanes := lanesOf w.lanes
  (lanes.zip (List.range lanes.length)).filter fun x => decide (x.1 / 4 = g)

/-- The lanes of group `g` have carried `f` of their chain since tick `t` of the pass. -/
def emitLanes (s : State) (g : Nat) (w : Show) (q : Seq) (t : Nat) (f : Nat → List LaneEvent) : State :=
  { s with out := s.out ++ (groupLanes w g).flatMap fun x => (f x.2).map (.lane x.1 (q.start + tickQ * t)) }

/-- The address lines, once a ROW has run for its PRE ticks by tick `t`. -/
def emitRow (s : State) (g : Nat) (q : Seq) (t : Nat) (st : LaneStep) : State :=
  match st with
  | .row a pre _ =>
    if q.began + pre ≤ t then
      setLane { s with out := s.out ++ [.row g (q.start + tickQ * (q.began + pre)) a] } g { laneOf s g with addr := a }
    else s
  | _ => s

/-- The step in progress has run until tick `t`. -/
def emitStep (s : State) (g : Nat) (w : Show) (q : Seq) (t : Nat) (st : LaneStep) : State :=
  emitRow (emitLanes s g w q q.began fun c => if q.began < t then stepEvents w q (t - q.began) c st else []) g q t st

/-- The background activity has run until tick `t`. -/
def emitBack (s : State) (g : Nat) (w : Show) (q : Seq) (t : Nat) : State :=
  match q.bg with
  | some (from_, _) => emitLanes s g w q from_ fun _ => if from_ < t then backEvents w (t - from_) else []
  | none => s

/-- The pass of group `g`, where one is in progress, stops: the lanes go to their idle levels (R246, R248). -/
def stopPass (s : State) (g : Nat) : State :=
  match (laneOf s g).cur, (laneOf s g).seq with
  | some w, some q =>
    let t := (s.tim.elapsedQ - q.start) / tickQ
    let s := match stepNow w q with
      | some st => emitStep s g w q t st
      | none => s
    let s := emitBack s g w q t
    setLane s g { laneOf s g with seq := none }
  | _, _ => setLane s g { laneOf s g with seq := none }

/-! ### The lane balls at an instant (R249 to R251) -/

/-- The levels of a lane's balls. -/
structure Balls where
  data : Bool
  sclk : Bool
  lat : Bool
  blank : Bool
  deriving DecidableEq, Repr

/-- LAT_POL and OE_POL that group `g` works with: those of the profile it shows, else of the profile of its
motif; before either, 0. DESIGN CHOICE (log 64). -/
def lanePols (s : State) (g : Nat) : Bool × Bool :=
  let pr := match (laneOf s g).cur, groupMotif s.cfg g with
    | some w, _ => w.profile
    | none, some m => profileOf s.cfg m
    | none, none => []
  (bitOf (profW pr 2) 9, bitOf (profW pr 2) 8)

/-- GCLK is high in the first floor(`gd`/2) ticks of each period. DESIGN CHOICE (log 64): the spec gives the
length of the high phase, not its place. -/
def gclkHigh (gd t : Nat) : Bool := decide (t % max gd 1 < gd / 2)

/-- BLANK enables the LED outputs, or is the high phase of a GCLK pulse, at tick `t` of the pass. -/
def blankActive (w : Show) (q : Seq) (t : Nat) : Bool :=
  let on := fun from_ to_ => decide (from_ ≤ t ∧ t < to_) && (!profG w.profile || gclkHigh (dirGdiv w.dir) (t - from_))
  (match q.bg with | some (a, b) => on a b | none => false) ||
    match stepNow w q, q.ends with
    | some (.show_ ..), some e => on q.began e
    | some (.gclk ..), some e => on q.began e
    | _, _ => false

/-- The balls of lane `k` now; none where they are high-impedance (R250, R442). With no pass in progress they
are at their idle levels: BLANK off, LAT inactive, SCLK and DATA low. -/
def laneBalls (s : State) (k : Nat) : Option Balls :=
  let g := k / 4
  let (latPol, oePol) := lanePols s g
  let idle : Balls := ⟨false, false, latPol, !oePol⟩
  if !laneEn s g then none
  else match (laneOf s g).cur, (laneOf s g).seq with
    | some w, some q =>
      match (groupLanes w g).find? fun x => decide (x.1 = k) with
      | some (_, c) =>
        let t := (s.tim.elapsedQ - q.start) / tickQ
        let dv := max (dirDiv w.dir) 1
        let p := t - q.began
        let high := decide ((dv + 1) / 2 ≤ p % dv)
        let b : Balls := { idle with blank := if blankActive w q t then oePol else !oePol }
        some (match stepNow w q with
          | some (.latch clks _) => { b with lat := !latPol, sclk := high && decide (0 < clks) }
          | some st =>
            match (stepBits w q c st)[p / dv]? with
            | some v => { b with data := v, sclk := high }
            | none => b
          | none => b)
      | none => some idle
    | _, _ => some idle

/-- The address lines of group `g` now; none where they are high-impedance. -/
def addressLines (s : State) (g : Nat) : Option Nat :=
  if !laneEn s g then none
  else match (laneOf s g).cur, (laneOf s g).seq with
    | some w, some q =>
      match stepNow w q with
      | some (.row a pre _) =>
        some (if q.began + pre ≤ (s.tim.elapsedQ - q.start) / tickQ then a else (laneOf s g).addr)
      | _ => some (laneOf s g).addr
    | _, _ => some (laneOf s g).addr

/-! ### The sequencer (R236) -/

/-- The pass ends after `t` ticks. -/
def endPass (s : State) (g t : Nat) : State :=
  setLane s g { laneOf s g with seq := none, passLen := t }

/-- The step at the sequencer's index starts at tick `t`, or waits for the background activity. -/
def beginStep (s : State) (g : Nat) (w : Show) (q : Seq) (t : Nat) : State :=
  match (w.steps[q.pc]?).bind decodeStep with
  | none => endPass s g t
  | some st =>
    let q := { q with bg := q.bg.filter fun b => decide (t < b.2) }
    if st.waits && q.bg.isSome then setLane s g { laneOf s g with seq := some { q with ends := none } }
    else if st = .end_ then endPass s g t
    else
      setLane s g { laneOf s g with
        seq := some { q with
          began := t, ends := some (t + showTicks w st)
          bg := match st.background (dirGdiv w.dir) with | some n => some (t, t + n) | none => q.bg } }

/-- The step in progress has ended: its effect on the sequencer. -/
def afterStep (q : Seq) (st : LaneStep) : Seq :=
  match st with
  | .row a _ _ => { q with row := a, pc := q.pc + 1 }
  | .loop tg n =>
    let c := tget (fun _ => 0) q.loops q.pc
    if c < n then { q with pc := tg, loops := tput (fun _ => 0) q.loops q.pc (c + 1) }
    else { q with pc := q.pc + 1, loops := tput (fun _ => 0) q.loops q.pc 0 }
  | _ => { q with pc := q.pc + 1 }

/-- Time passes until tick `t` of the pass. -/
def runToTick (s : State) (q : Seq) (t : Nat) : State := runToCycle ((q.start + tickQ * t + 15) / 16) s

/-- A step's duration has elapsed. -/
def stepEnd (s : State) (g : Nat) : State :=
  match (laneOf s g).cur, (laneOf s g).seq with
  | some w, some q =>
    match q.ends, (w.steps[q.pc]?).bind decodeStep with
    | some t, some st =>
      beginStep (emitStep (runToTick s q t) g w q t st) g w (afterStep q st) t
    | _, _ => s
  | _, _ => s

/-- The background activity has ended; a step that waited for it starts. -/
def backgroundEnd (s : State) (g : Nat) : State :=
  match (laneOf s g).cur, (laneOf s g).seq with
  | some w, some q =>
    match q.bg with
    | some (_, t) =>
      let s := emitBack (runToTick s q t) g w q t
      let q := { q with bg := none }
      if q.ends.isNone then beginStep s g w q t else setLane s g { laneOf s g with seq := some q }
    | none => s
  | _, _ => s

/-! ### Passes (R244 to R246) -/

/-- Pass `w.next` of what is shown starts now. While EN is 0 the lanes are not driven and the anchor
passes without one (R250). A pass of the run before that has not ended stops (R246). `e` is what ECC makes of
the lane buffer; which of its words are uncorrectable is a free value (log 2). -/
def startPass (s : State) (g : Nat) (w : Show) (nxt : Option Show) (e : EccRead) : State :=
  let s := if (laneOf s g).seq.isSome then stopPass s g else s
  let x := laneOf s g
  let w' := { w with next := w.next + 1 }
  if !laneEn s g then setLane s g { x with cur := some w', nxt := nxt, seq := none }
  else
    let (mask, s) := if e = .uncorrectable then ((takeFree s).1, (takeFree s).2) else (0, s)
    let poison := if e = .uncorrectable then some mask else none
    let s := setLane s g { x with cur := some w', nxt := nxt, passes := x.passes + 1 }
    let s := if poison.isSome then noticeBoth s 0x0A05 g w.hoop.toNat else s
    beginStep s g w' ⟨s.tim.elapsedQ, 0, 0, none, none, 0, [], poison⟩ 0

/-- PASS_START: the next anchor of group `g` arrives. -/
def passStart (s : State) (g : Nat) (e : EccRead) : State :=
  let x := laneOf s g
  let due := fun (w : Show) => decide (w.next < profRefreshes w.profile)
  let nextRun := fun (w : Show) => let s := runTo (anchor s w 0) s; startPass s g w none e
  let nextPass := fun (w : Show) =>
    if x.seq.isSome then s
    else let s := runTo (anchor s w w.next) s; startPass s g w x.nxt e
  match x.cur, x.nxt with
  | none, some n => nextRun n
  | some w, some n =>
    if due w && !reached (anchor s w w.next) (anchor s n 0) then nextPass w else nextRun n
  | some w, none =>
    if due w then nextPass w
    else if s.hoop.fStarted || w.final then s
    else nextPass { w with next := 0, reps := w.reps + 1, held := true }
  | none, none => s

/-- A write of STI_LANE_CTRL(g): clearing EN stops a pass. -/
def laneCtrlWrite (s : State) (g : Nat) (v : Word) : State :=
  let s := plainWrite s (STI_LANE_CTRL g) v
  if laneEn s g then s else stopPass s g

/-! ### Sensors (R253 to R255) -/

/-- A poll begins: POLL × 10 ms after the last, while SMB EN is 1. -/
def sensorPoll (s : State) (g : Nat) : State :=
  let x := laneOf s g
  if !regBit s (STI_SMB_CTRL g) 31 || x.polling then s
  else
    let s := match x.pollAt with
      | some t => runToCycle (t + max (regFld s (STI_SMB_CTRL g) 15 8) 1 * 2500000) s
      | none => s
    setLane s g { laneOf s g with polling := true, pollAt := some s.tim.cyc }

/-- Sensor `n` of group `g` has a valid address. -/
def sensorValid (s : State) (g n : Nat) : Bool := regBit s (STI_SMB_ADDR g) (8 * n + 7)

/-- A reading as the result it gives, S8.8 (R254). -/
def sensorResult (s : State) (g first second : Nat) : Int :=
  let v := if regBit s (STI_SMB_CTRL g) 29 then first % 256 + 256 * (second % 256) else second % 256 + 256 * (first % 256)
  clampI (-65536) 65535 (sext 16 v + sext 32 (reg s (STI_SMB_OFFSET g)).toNat)

/-- Sensor `n` failed (`cause` 1 to 3) or answered (0): FAIL and SENSOR_STATE on a change (R255). -/
def sensorState (s : State) (g n cause : Nat) : State :=
  let x := laneOf s g
  let failed := decide (cause ≠ 0)
  if (x.fail[n]?).getD false = failed then s
  else
    noticeBoth (setLane s g { x with fail := x.fail.set n failed }) 0x0A04 g
      (n + b2n failed * 256 + cause * 65536)

/-- A read word of sensor `n` on the group's SMBus (R253). -/
def emitRead (s : State) (g n : Nat) : State :=
  { s with out := s.out ++ [.smbus g (regBit s (STI_SMB_CTRL g) 30) (regFld s (STI_SMB_ADDR g) (8 * n + 6) (8 * n))
      (regFld s (STI_SMB_CTRL g) 7 0)] }

/-- The reads of a poll in order, sensor `n` first: the highest result so far. A stuck bus ends the
poll. -/
def pollReads (g : Nat) : List SensorRead → Nat → Option Int → State → Option Int × State
  | [], _, top, s => (top, s)
  | r :: rs, n, top, s =>
    if !sensorValid s g n then pollReads g rs (n + 1) top s
    else
      let s := emitRead s g n
      match r with
      | .word a b =>
        let v := sensorResult s g a b
        pollReads g rs (n + 1) (some (match top with | some t => max t v | none => v)) (sensorState s g n 0)
      | .noAck => pollReads g rs (n + 1) top (sensorState s g n 1)
      | .clockLow => pollReads g rs (n + 1) top (sensorState s g n 2)
      | .stuck => (top, sensorState s g n 3)

/-- SENSOR_T of motif `m`: the highest result over its groups. -/
def motifTop (s : State) (m : Nat) (v : Int) : Int :=
  ((List.range 4).filter fun g => decide (groupMotif s.cfg g = some m)).foldl
    (fun t g => match (laneOf s g).last with | some l => max t l | none => t) v

/-- The poll ends: the result goes to the live fields of the group's motif. -/
def sensorPollEnd (s : State) (g : Nat) (reads : List SensorRead) : State :=
  if !(laneOf s g).polling then s
  else
    let (top, s) := pollReads g (reads.take 4) 0 none s
    let x := laneOf s g
    match top with
    | none => setLane s g { x with polling := false }
    | some v =>
      let s := setLane s g { x with polling := false, last := some v }
      match groupMotif s.cfg g with
      | some m => setLive s m { liveOf s m with report := ⟨true, motifTop s m v, s.hoop.fNumber⟩ }
      | none => s

/-! ### Meanings -/

/-- PASS_START (R244). -/
def execPassStart (g : Nat) (e : EccRead) (s : State) : Host.Outcome State Fault Refusal := done (passStart s g e)
/-- SEQUENCER_STEP_END (R236). -/
def execSequencerStepEnd (g : Nat) (s : State) : Host.Outcome State Fault Refusal := done (stepEnd s g)
/-- BACKGROUND_END (R236). -/
def execBackgroundEnd (g : Nat) (s : State) : Host.Outcome State Fault Refusal := done (backgroundEnd s g)
/-- LANE_GROUP_EN_WRITE (R250). -/
def execLaneGroupEnWrite (g : Nat) (v : Word) (s : State) : Host.Outcome State Fault Refusal :=
  done (laneCtrlWrite s g v)
/-- SENSOR_POLL (R253). -/
def execSensorPoll (g : Nat) (s : State) : Host.Outcome State Fault Refusal := done (sensorPoll s g)
/-- SENSOR_POLL_END (R254). -/
def execSensorPollEnd (g : Nat) (reads : List SensorRead) (s : State) : Host.Outcome State Fault Refusal :=
  done (sensorPollEnd s g reads)

end Sys2Proof.Machine
end

