-- ==== Sys2Proof/Machine/Frames.lean ====
section
/-! DEFINITION. Machine/Frames.lean: the frames that EGR builds: Tirum frames and their tag, STITCH,
HOOP_MARK, PROGRAM and CONTROL, sACN data and synchronisation packets, and the hoop digest
(chapter 10). -/
namespace Sys2Proof.Machine

/-! ### Structure tag and link key -/

/-- The common BUILD_TAG of the active structure parts (R34); 0 where none is active. -/
def structureTag (c : Cfg) : Nat :=
  match (List.range 6).find? fun p => decide (partOf c p ≠ []) with
  | some p => partTag (partOf c p)
  | none => 0

def egrUdp (s : State) : Bool := regBit s EGR_CTRL 31
def autoProg (s : State) : Bool := regBit s EGR_CTRL 30
/-! ### IPv4 and UDP (R257) -/

/-- Ones' complement sum of the 16-bit words of a header. -/
def ipChecksum (h : List Byte) : Nat :=
  let t := sumNat ((List.range (h.length / 2)).map fun i => be h (2 * i) 2)
  let t := t % 65536 + t / 65536
  let t := t % 65536 + t / 65536
  65535 - t

/-- An IPv4 header, EtherType and UDP header in front of `payload`. -/
def udpPacket (s : State) (src dst port : Nat) (payload : List Byte) : List Byte :=
  let head := fun (sum : Nat) => [0x45, BitVec.ofNat 8 (regFld s EGR_IP 23 18 * 4)] ++
    beBytes 2 (28 + payload.length) ++ [0, 0, 0x40, 0, BitVec.ofNat 8 (regFld s EGR_IP 31 24), 17] ++
    beBytes 2 sum ++ beBytes 4 src ++ beBytes 4 dst
  [0x08, 0x00] ++ head (ipChecksum (head 0)) ++
    beBytes 2 port ++ beBytes 2 port ++ beBytes 2 (8 + payload.length) ++ [0, 0] ++ payload

/-- The IPv4 source address of port `p`. -/
def portIp (s : State) (p : Nat) : Nat := (reg s (EGR_PORT_IP p)).toNat

/-! ### Tirum frames (R257 to R260) -/

/-- What a Tirum frame carries, beside the port's own fields. -/
structure Tirum where
  kind : Nat
  flags : Nat
  dest : List Byte
  epoch : Nat
  hoop : Nat
  motif : Nat
  fragIndex : Nat
  fragCount : Nat
  offset : Nat
  argA : Nat
  argB : Nat
  /-- SEQ of its tag -/
  seq : Nat
  payload : List Byte

/-- The 32-byte header (Table 10-1). -/
def tirumHeader (cid : Nat) (auth : Bool) (t : Tirum) : List Byte :=
  [1] ++ beBytes 1 t.kind ++ beBytes 2 (t.flags + 2 * b2n auth) ++ beBytes 2 cid ++ beBytes 2 t.epoch ++
    beBytes 4 t.hoop ++ beBytes 2 t.motif ++ beBytes 2 t.fragIndex ++ beBytes 2 t.fragCount ++
    beBytes 2 t.payload.length ++ beBytes 4 t.offset ++ beBytes 4 t.argA ++ beBytes 4 t.argB

/-- The tag of a frame of port `p`: zero where the key is not usable. -/
def tirumTag (s : State) (p : Nat) (t : Tirum) (body : List Byte) : List Byte :=
  if linkKey s = [] then List.replicate 8 0
  else gmac8 (linkKey s)
    (beBytes 2 s.cfg.cid ++ beBytes 1 p ++ beBytes 1 t.kind ++ beBytes 4 t.hoop ++ beBytes 4 t.seq) body

/-- A Tirum frame of port `p`, from destination MAC through padding. -/
def tirumFrame (s : State) (p : Nat) (t : Tirum) : List Byte :=
  let body := tirumHeader s.cfg.cid (authOn s) t ++ t.payload
  let body := if authOn s then body ++ tirumTag s p t body else body
  let port := regFld s EGR_TIRUM 15 0
  pad60 (t.dest ++ macAddr s p ++
    (if egrUdp s then udpPacket s (portIp s p) (reg s (EGR_PORT_DST p)).toNat port body
     else beBytes 2 (regFld s EGR_TIRUM 31 16) ++ body))

/-- The group of hoop marks. -/
def markMac (s : State) : List Byte :=
  beBytes 4 (reg s EGR_MARK_MAC_HI).toNat ++ beBytes 2 (regFld s EGR_MARK_MAC_LO 31 16)

/-- The 32 payload bytes of a hoop mark (Table 10-3). -/
def markPayload (s : State) : List Byte :=
  beBytes 6 (s.hoop.bNext / 4000000000) ++ beBytes 4 (s.hoop.bNext % 4000000000) ++ beBytes 4 s.run.p ++
    beBytes 4 (regFld s HOOP_RATE 31 12) ++ beBytes 2 (regFld s HOOP_RATE 11 0) ++ List.replicate 12 0

/-- A hoop mark of hoop `h`; `aborted` is the hoop it declares aborted. -/
def markFrame (s : State) (p : Nat) (h : Hoop) (aborted : Option Hoop) (seq : Nat) : List Byte :=
  tirumFrame s p
    { kind := 3, flags := if aborted.isSome then 4 else 0, dest := markMac s, epoch := 0, hoop := h.toNat
      motif := 0, fragIndex := 0, fragCount := 1, offset := 0
      argA := match aborted with | some a => a.toNat | none => 0
      argB := structureTag s.cfg, seq := seq, payload := markPayload s }

/-- EPOCH of motif `m`. -/
def epochOf (s : State) (m : Nat) : Nat := (liveOf s m).epoch

/-- The STITCH frame of entry `k` of port `p`, from its motif's stitch. -/
def stitchFrame (s : State) (p k : Nat) (h : Hoop) (e : Sched) (stitch : List Byte) : List Byte :=
  tirumFrame s p
    { kind := 1, flags := b2n e.pathB, dest := motifDest (motifPart s.cfg) e.motif, epoch := epochOf s e.motif
      hoop := h.toNat, motif := e.motif, fragIndex := e.fragIndex, fragCount := e.fragCount
      offset := 6 * e.first, argA := e.positions, argB := structureTag s.cfg, seq := k
      payload := slice stitch (6 * e.first) (6 * e.positions) }

/-! ### sACN (R286 to R289) -/

/-- e8 and e16 of a level (R287). -/
def encode8 (l : Nat) : Nat := min 255 ((l * 255 + 0x4000) / 2 ^ 15)
def encode16 (l : Nat) : Nat := min 65535 ((l * 65535 + 0x4000) / 2 ^ 15)

/-- The slot values of fixture `f` from its levels R, G, B. -/
def fixtureSlots (bs : List Byte) (f : Nat) (lv : List Nat) : List Byte :=
  let at_ := fun i => (lv[i]?).getD 0
  let w := min (at_ 0) (min (at_ 1) (at_ 2))
  let ordered := (List.range 3).map fun q => at_ (fixOrder bs f q)
  let put8 := fun l => beBytes 1 (encode8 l)
  let put16 := fun l => beBytes 2 (encode16 l)
  match fixLayout bs f with
  | 0 => ordered.flatMap put8
  | 1 => ordered.flatMap put16
  | 2 => (ordered.map (· - w) ++ [w]).flatMap put8
  | 3 => (ordered.map (· - w) ++ [w]).flatMap put16
  | 4 => put8 (max (at_ 0) (max (at_ 1) (at_ 2)))
  | _ => put16 (max (at_ 0) (max (at_ 1) (at_ 2)))

/-- The slots of universe entry `u` in the run: 0 where no fixture of the pricking table covers them. -/
def universeSlots (s : State) (u : Nat) : List Byte :=
  let bs := partOf s.cfg 5
  ((List.range (partCount bs)).filter fun f => fixOn bs f && decide (fixUidx bs f = u)).foldl
    (fun data f => match tget (fun _ => []) s.run.fixtures f with
      | [] => data
      | lv => splice data (fixStart bs f - 1) (fixtureSlots bs f lv))
    (List.replicate (univSlots bs u) 0)

/-- The ACN preamble. -/
def acnPreamble : List Byte :=
  beBytes 2 0x10 ++ beBytes 2 0 ++ [0x41, 0x53, 0x43, 0x2D, 0x45, 0x31, 0x2E, 0x31, 0x37, 0, 0, 0]

/-- An E1.31 packet to the group of universe `u`. -/
def sacnFrame (s : State) (p u : Nat) (packet : List Byte) : List Byte :=
  pad60 ([0x01, 0x00, 0x5E, 0x7F] ++ beBytes 2 u ++ macAddr s p ++
    udpPacket s (portIp s p) (0xEFFF0000 + u) 5568 packet)

/-- A data packet of universe entry `i` (Table 10-14). -/
def sacnData (s : State) (p i : Nat) (h : Hoop) : List Byte :=
  let bs := partOf s.cfg 5
  let n := univSlots bs i
  let u := univNumber bs i
  sacnFrame s p u (acnPreamble ++ beBytes 2 (0x7000 + 110 + n) ++ beBytes 4 4 ++ slice bs 16 16 ++
    beBytes 2 (0x7000 + 88 + n) ++ beBytes 4 2 ++ slice bs 64 64 ++ beBytes 1 (univPriority bs i) ++
    beBytes 2 (syncUniverse bs) ++ beBytes 1 h.toNat ++ [0] ++ beBytes 2 u ++ beBytes 2 (0x7000 + 11 + n) ++
    [0x02, 0xA1] ++ beBytes 2 0 ++ beBytes 2 1 ++ beBytes 2 (n + 1) ++ [0] ++ universeSlots s i)

/-- The synchronisation packet (R289). -/
def sacnSync (s : State) (p : Nat) (h : Hoop) : List Byte :=
  let bs := partOf s.cfg 5
  let u := syncUniverse bs
  sacnFrame s p u (acnPreamble ++ beBytes 2 (0x7000 + 33) ++ beBytes 4 8 ++ slice bs 16 16 ++
    beBytes 2 (0x7000 + 11) ++ beBytes 4 1 ++ beBytes 1 h.toNat ++ beBytes 2 u ++ [0, 0])

/-! ### PROGRAM and CONTROL (R277, R282) -/

/-- The copy of part `p` that a refresh uses: the staged one where it is asked for and VALID. -/
def refreshPart (s : State) (staged : Bool) (p : Nat) : List Byte :=
  let x := tget (fun _ => Stage.reset) s.stages p
  if staged && decide (x.state = .valid) then x.data else partOf s.cfg p

/-- Words of `n` bytes sent most significant byte first. -/
def swapWords (n : Nat) (bs : List Byte) : List Byte :=
  (List.range (bs.length / n)).flatMap fun i => (slice bs (n * i) n).reverse

/-- The program image of motif `m` (R282). -/
def programImage (s : State) (staged : Bool) (m : Nat) : List Byte :=
  let motifs := refreshPart s staged 1
  let progs := refreshPart s staged 3
  let n := motifProgram motifs m
  let dir := dirBytes progs n
  let dir0 := leBytes 4 (bits (le dir 0 4) 31 20 * 2 ^ 20) ++ slice dir 4 4
  swapWords 4 (profileBytes (refreshPart s staged 2) (motifProfile motifs m)) ++ swapWords 4 dir0 ++
    (programSteps progs n).flatMap (beBytes 8)

/-- BUILD_TAG of the part 2 and part 3 copies used: a free value where the two differ. -/
def programTag (s : State) (staged : Bool) : Nat × State :=
  let a := partTag (refreshPart s staged 2)
  if a = partTag (refreshPart s staged 3) then (a, s)
  else let (v, s) := takeFree s; (v % 2 ^ 32, s)

/-- PROGRAM bytes of a fragment (Table 10-5). -/
def programFragment (s : State) : Nat :=
  match egrUdp s, authOn s with
  | false, true => 9152
  | false, false => 9160
  | true, true => 9128
  | true, false => 9136

/-- SEQ of a PROGRAM or CONTROL frame (R260). -/
def unscheduledSeq (s : State) (p : Nat) : Nat := 0x80000000 + (egrOf s p).seq

/-- A CONTROL frame as it stands now. -/
def controlFrame (s : State) (p : Nat) (c : Control) : List Byte :=
  tirumFrame s p
    { kind := 4, flags := b2n c.path, dest := motifDest (motifPart s.cfg) c.motif, epoch := epochOf s c.motif
      hoop := s.hoop.fNumber.toNat, motif := c.motif, fragIndex := 0, fragCount := 1, offset := 0
      argA := c.command, argB := c.arg, seq := unscheduledSeq s p, payload := [] }

/-! ### Digests (R268) -/

/-- One byte fed to a digest. -/
def digestByte (c : Nat) (b : Byte) : Nat :=
  (List.range 8).foldl (fun c _ =>
    if bitOf c 63 then (c * 2 % 2 ^ 64) ^^^ 0x42F0E1EBA9EA3693 else c * 2) (c ^^^ (b.toNat * 2 ^ 56))

/-- Bytes fed to a digest. -/
def digestBytes (c : Nat) (bs : List Byte) : Nat := bs.foldl digestByte c

/-- The digest of run `h` on port `p`, from each entry's OFFSET and frame in schedule order. -/
def digestOf (p : Nat) (h : Hoop) (entries : List (Nat × List Byte)) : Nat :=
  let c := digestBytes (2 ^ 64 - 1) ([BitVec.ofNat 8 p, 0, 0, 0] ++ beBytes 4 h.toNat)
  (2 ^ 64 - 1) - entries.foldl (fun c e => digestBytes (digestBytes c (beBytes 4 e.1)) e.2) c

end Sys2Proof.Machine
end

