-- ==== Sys2Proof/Machine/Egr.lean ====
section
/-! DEFINITION. Machine/Egr.lean: scheduled launches, the abort of a run, digests, PROGRAM
refreshes, CONTROL frames, motif ownership and the return classifier (chapter 10). -/
namespace Sys2Proof.Machine

def setEgress (s : State) (e : Egr) : State := { s with egr := e }

/-! ### Schedules of the run in progress -/

/-- The active schedules; the empty list where none is active. -/
def schedPart (s : State) : List Byte := partOf s.cfg 4
/-- Entries of port `p`. -/
def portEntries (s : State) (p : Nat) : Nat := if schedPart s = [] then 0 else schedN (schedPart s) p
/-- Entry `k` of port `p`, and its number in the part. -/
def entryNo (s : State) (p k : Nat) : Nat := schedStart (schedPart s) p + k
def portEntry (s : State) (p k : Nat) : Sched := schedEntry (schedPart s) (entryNo s p k)
/-- The built frame of entry `k` of port `p`; the empty list while it is not built. -/
def builtFrame (s : State) (p k : Nat) : List Byte := tget (fun _ => []) s.run.frames (entryNo s p k)
def putFrame (s : State) (p k : Nat) (f : List Byte) : State :=
  { s with run := { s.run with frames := tput (fun _ => []) s.run.frames (entryNo s p k) f } }

/-- The hoop marks and synchronisation packets of the run that begins, which are always built. The
mark after an aborted hoop repeats its declaration (R267). -/
def buildMarks (s : State) (p : Nat) : State :=
  (List.range (portEntries s p)).foldl (fun s k =>
    match (portEntry s p k).kind with
    | 2 => putFrame s p k (markFrame s p s.hoop.fNumber s.egr.abortOf k)
    | 4 => putFrame s p k (sacnSync s p s.hoop.fNumber)
    | _ => s) s

/-- RETURN_LIMIT for the hoop that ends, and the port's counts start again. -/
def portBoundary (s : State) (p : Nat) : State :=
  let x := egrOf s p
  let s := setEgr s p { x with handed := 0, progBytes := 0, lateSent := 0, lateDropped := 0, limited := 0 }
  if x.limited = 0 then s else noticeBoth s 0x0B06 p x.limited

/-- EGR at the FCLK-side boundary: ports, key slot, and the frames that are always built. -/
def egrBoundary (s : State) : State :=
  let s := (List.range 32).foldl portBoundary s
  let s := setEgress s { s.egr with slot := regFld s EGR_AUTH 5 0 }
  let s := noteKey { s with run := { s.run with frames := [] } }
  let s := (List.range 32).foldl buildMarks s
  setEgress s { s.egr with abortOf := none, zeroMarks := noLinkKey s, zeroStitches := false }

/-! ### Aborts (R132, R133) -/

/-- A queued frame that an abort of run `h` removes: a STITCH, SACN or SACN_SYNC frame of the run. -/
def abortsFrame (s : State) (p : Nat) (h : Hoop) (f : TxFrame) : Bool :=
  match f.sender with
  | .sched r k => decide (r = h) && decide ((portEntry s p k).kind ≠ 2)
  | _ => false

/-- Queued frames of a port that pass `drop` are removed. -/
def removeFrames (s : State) (p : Nat) (drop : TxFrame → Bool) : State :=
  let x := portOf s p
  let clean := fun (t : Table (List TxFrame)) => tmap (fun _ => []) t fun l => l.filter fun f => !drop f
  setPort s p { x with queues := clean x.queues, waiting := clean x.waiting }

/-- Port `p` at the abort of run `h`, which entry `miss` of it may have caused: what was built so far is noted,
its frames are removed and the declaration is queued. -/
def abortPort (h : Hoop) (miss : Option Nat) (s : State) (p : Nat) : State :=
  let s := setEgr s p { egrOf s p with cut := (egrOf s p).handed, missed := miss }
  let s := removeFrames s p (abortsFrame s p h)
  if portEntries s p = 0 ∨ drives s = false then s
  else if noLinkKey s then latchCount s (EGR_TX_LATE p) 15 0 1
  else
    hand s p 6
      { bytes := markFrame s p h (some h) 0x7FFFFFFF, sender := .declaration h, due := 0, ownTag := false
        stamp := none, oneStep := false }

/-- The hoop in progress on the FCLK side is aborted with `cause`, by entry `entry` of port `port`. -/
def abortHoop (s : State) (cause port entry : Nat) : State :=
  if s.hoop.fStarted && !s.hoop.aborted then
    let h := s.hoop.fNumber
    let s := markAbort s cause port entry
    let s := (List.range 32).foldl (fun s p =>
      abortPort h (if cause = 1 ∧ p = port then some entry else none) s p) s
    setEgress s { s.egr with abortOf := some h }
  else s

/-! ### CONTROL frames (R277) -/

/-- One frame more of the port's PROGRAM and CONTROL frames is on its way (R260). -/
def raiseSeq (s : State) (p : Nat) : State :=
  setEgr s p { egrOf s p with seq := ((egrOf s p).seq + 1) % 2 ^ 31 }

/-- A PROGRAM or CONTROL frame of port `p` is handed to queue 3; without a usable key it is dropped, and no
frame sent, so that SEQ stays. -/
def handUnscheduled (s : State) (p : Nat) (sender : Sender) (f : List Byte) : State :=
  if noLinkKey s then latchCount s (EGR_TX_LATE p) 15 0 1
  else hand (raiseSeq s p) p 3 ⟨f, sender, 0, false, none, false⟩

/-- The CONTROL frames of run `h` that wait on port `p` are handed, after its first hoop mark. -/
def sendControls (s : State) (p : Nat) (h : Hoop) : State :=
  let mine := (egrOf s p).controls.filter fun c => decide (c.run = h)
  let s := setEgr s p { egrOf s p with controls := (egrOf s p).controls.filter fun c => decide (c.run ≠ h) }
  if drives s then
    mine.foldl (fun s c => handUnscheduled s p .control (controlFrame s p c)) s
  else s

/-! ### Launches (R264) -/

/-- The transmit queue of a schedule entry. -/
def schedQueue (kind : Nat) : Nat := match kind with | 2 => 6 | 1 => 5 | _ => 4

/-- L: the launch time of an entry of the hoop in progress. -/
def launchAt (s : State) (e : Sched) : Nat := moveQ s.hoop.bThis (4 * e.offset : Nat)

/-- A frame of kind `kind` of the run is not sent for want of a key, now or as it was built (Table 10-15). -/
def keyless (s : State) (kind : Nat) : Bool :=
  match kind with
  | 1 => noLinkKey s || s.egr.zeroStitches
  | 2 => noLinkKey s || s.egr.zeroMarks
  | _ => false

/-- Entry `k` of port `p` is handed to its queue. -/
def handEntry (s : State) (p k : Nat) (e : Sched) : State :=
  if keyless s e.kind then
    setEgr (latchCount s (EGR_TX_LATE p) 15 0 1) p { egrOf s p with lateDropped := (egrOf s p).lateDropped + 1 }
  else
    hand s p (schedQueue e.kind)
      { bytes := builtFrame s p k, sender := .sched s.hoop.fNumber k, due := launchAt s e, ownTag := false
        stamp := if e.stamp then some (.firmware e.tag) else none, oneStep := false }

/-- A unit in SYNCING holds the pipeline start of every run after READY until the entry state
arrives (R330). -/
def pipelineHeld (s : State) : Bool :=
  s.boot.twinEn && decide (s.twn.state = .syncing) && s.twn.syncReady && s.twn.entryAt.isNone

/-- The launch time of the next entry of port `p` reaches FCLK; `built` says whether the pipeline has
fully built its frame. -/
def launch (s : State) (p : Nat) (built : Bool) : State :=
  let x := egrOf s p
  let k := x.handed
  if s.hoop.running && s.hoop.fStarted && !s.hoop.fDue && decide (k < portEntries s p) then
    let e := portEntry s p k
    let s := runTo (launchAt s e) s
    let s := setEgr s p { egrOf s p with handed := k + 1 }
    let always := decide (e.kind = 2 ∨ e.kind = 4)
    let entering := decide (s.twn.entryAt = some s.hoop.fNumber) || pipelineHeld s
    if s.hoop.aborted && decide (e.kind ≠ 2) then s
    else if !always && !(built && decide (builtFrame s p k ≠ [])) then
      if entering then s else abortHoop s 1 p k
    else
      let s := if drives s then handEntry s p k e else s
      if e.kind = 2 then sendControls s p s.hoop.fNumber else s
  else s

/-! ### Egress deadline and digests (R265, R268, R269) -/

/-- A queued frame is a scheduled frame of run `h`. -/
def ofRun (h : Hoop) (f : TxFrame) : Bool :=
  match f.sender with
  | .sched r _ => decide (r = h)
  | _ => false

/-- Port `p` at the egress deadline of hoop `h`: what has not started is removed, and EGRESS_LATE. -/
def deadlinePort (h : Hoop) (s : State) (p : Nat) : State :=
  let x := portOf s p
  let unsent := ((x.queues ++ x.waiting).flatMap (·.2)).filter (ofRun h)
  let s := latchCount (removeFrames s p (ofRun h)) (EGR_TX_LATE p) 15 0 unsent.length
  let y := egrOf s p
  let dropped := y.lateDropped + unsent.length
  let s := setEgr s p { y with lateDropped := dropped }
  if y.lateSent = 0 ∧ dropped = 0 then s
  else noticeBoth s 0x0B05 p (min y.lateSent 65535 + min dropped 65535 * 2 ^ 16 + h.toNat * 2 ^ 32)

/-- The digest of port `p` in the run in progress over its entries `ks`. -/
def portDigest (s : State) (h : Hoop) (p : Nat) (ks : List Nat) : Nat :=
  digestOf p h (ks.map fun k => ((portEntry s p k).offset, builtFrame s p k))

/-- Whether the frame of entry `k` of port `p` was built as the run was aborted. Hoop marks and
synchronisation packets always are, and what was handed by then; what no pipeline has built, and the frame
whose absence aborted the run, is not. Of the others the spec gives no way to tell: each is free. -/
def builtBefore (s : State) (p k : Nat) : Bool × State :=
  let kind := (portEntry s p k).kind
  let x := egrOf s p
  if kind = 2 ∨ kind = 4 then (true, s)
  else if builtFrame s p k = [] ∨ x.missed = some k then (false, s)
  else if k < x.cut then (true, s)
  else let (v, s) := takeFree s; (decide (v % 2 = 1), s)

/-- The entries of port `p` whose frames were built before the abort, in schedule order. -/
def builtEntries (s : State) (p : Nat) : List Nat × State :=
  (List.range (portEntries s p)).foldl (fun (ks, s) k =>
    let (built, s) := builtBefore s p k
    (if built then ks ++ [k] else ks, s)) ([], s)

/-- The digests of the run: of an aborted run each covers only the frames built before the abort (R268). -/
def runDigests (s : State) (h : Hoop) : List Nat × State :=
  if s.hoop.aborted then
    (List.range 32).foldl (fun (ds, s) p =>
      let (ks, s) := builtEntries s p
      (ds ++ [portDigest s h p ks], s)) ([], s)
  else ((List.range 32).map fun p => portDigest s h p (List.range (portEntries s p)), s)

/-- EGR at the egress deadline of the hoop in progress. -/
def egressDeadline (s : State) : State :=
  let h := s.hoop.fNumber
  let s := runTo (moveQ s.hoop.bNext (-(leadQ s 4 : Nat))) s
  let s := (List.range 32).foldl (deadlinePort h) s
  let (ds, s) := runDigests s h
  setEgress s { s.egr with digests := (⟨h, s.hoop.aborted, ds⟩ :: s.egr.digests).take 16, digestHoop := h }

/-- DIGEST_READ (R269). -/
def startDigestRead (s : State) (t : Track) : State :=
  if !noData t.desc || !argsZeroFrom t.desc 1 then finish s t.id stBad 0 0
  else
    match s.egr.digests.find? fun r => decide (r.hoop = w32 (darg t.desc 0)) with
    | some r =>
      let d := (r.ports[t.desc.object]?).getD 0
      finish s t.id (if r.aborted then 0x40 else stOk) (d % 2 ^ 32) (d / 2 ^ 32)
    | none => finish s t.id stNotFound 0 0

/-! ### PROGRAM refreshes (R283 to R285) -/

/-- A refresh of motif `m` is pending on port `p`, or being sent. -/
def refreshPending (s : State) (p m : Nat) : Bool :=
  ((egrOf s p).pending ++ ((egrOf s p).sending.map (·.refresh)).toList).any fun r => decide (r.motif = m)

/-- Pending refreshes in ascending motif order. -/
def insertRefresh (r : Refresh) : List Refresh → List Refresh
  | [] => [r]
  | x :: xs => if r.motif < x.motif then r :: x :: xs else x :: insertRefresh r xs

/-- A refresh is queued on port `p`, unless the motif is pending there or the unit does not drive. -/
def queueRefresh (r : Refresh) (s : State) (p : Nat) : State :=
  if refreshPending s p r.motif || !drives s then s
  else setEgr s p { egrOf s p with pending := insertRefresh r (egrOf s p).pending }

/-- The change hoop of a motif (R283); 0 where none was ever set. -/
def changeHoop (s : State) (m : Nat) : Hoop := (tget (fun _ => none) s.egr.change m).getD 0

/-- A refresh of motif `m` on every path, with APPLY_HOOP C. -/
def refreshMotif (s : State) (m : Nat) : State :=
  ((motifPaths (motifPart s.cfg) m).map (·.1)).foldl (queueRefresh ⟨m, 0, false, none⟩) s

/-- Link up on thread port `p`: every enabled motif with a path on it. -/
def refreshPort (s : State) (p : Nat) : State :=
  ((enabledMotifs (motifPart s.cfg)).filter fun m => (motifPaths (motifPart s.cfg) m).any fun x => decide (x.1 = p)).foldl
    (fun s m => queueRefresh ⟨m, 0, false, none⟩ s p) s

/-- The refreshes of PROGRAM_SEND `id` still pending or being sent. -/
def jobLeft (s : State) (id : Nat) : Bool :=
  (List.range 32).any fun p =>
    ((egrOf s p).pending.any fun r => decide (r.job = some id)) ||
      match (egrOf s p).sending with | some x => decide (x.refresh.job = some id) | none => false

/-- OK, or OK_LATE_COMMIT for a descriptor that joined its window late (Table 4-6). -/
def okStatus (s : State) (id : Nat) : Nat :=
  match findTrack s id with
  | some t => if t.late then stLate else stOk
  | none => stOk

/-- A refresh has ended on a port: its PROGRAM_SEND completes with the last. -/
def refreshDone (s : State) (r : Refresh) : State :=
  match r.job with
  | some id => if jobLeft s id then s else finish s id (okStatus s id) 0 0
  | none => s

/-- PROGRAM_SEND at arrival. -/
def programArrival (d : Desc) : Nat :=
  if !noData d || !argsZeroFrom d 2 || decide (bits (darg d 0) 30 1 ≠ 0) ||
    (bitOf (darg d 0) 31 && decide (d.object ≠ 0)) then stBad else stOk

/-- PROGRAM_SEND takes effect at the boundary of its window. -/
def applyProgramSend (s : State) (m : Member) : State :=
  let d := m.desc
  let staged := bitOf (darg d 0) 0
  let motifs := refreshPart s staged 1
  let all := (enabledMotifs motifs).filter (motifThread motifs)
  let ms := if bitOf (darg d 0) 31 then all else if all.contains d.object then [d.object] else []
  if ms = [] ∧ bitOf (darg d 0) 31 = false then finishMember s m stNotFound 0 0 s.hoop.number
  else
    let job := if m.origin = .host then some m.id else none
    let s := ms.foldl (fun s k => ((motifPaths motifs k).map (·.1)).foldl
      (queueRefresh ⟨k, w32 (darg d 1), staged, job⟩) s) s
    match job with
    | some id => if jobLeft s id then begin s id else finish s id (okStatus s id) 0 0
    | none => s

/-- Port `p` takes its next pending motif: the image is built from the parts in force now. -/
def takeRefresh (s : State) (p : Nat) : State :=
  match (egrOf s p).pending with
  | r :: rest =>
    let (tag, s) := programTag s r.staged
    let r := if r.job.isSome then r else { r with apply := changeHoop s r.motif }
    setEgr s p { egrOf s p with pending := rest, sending := some ⟨r, programImage s r.staged r.motif, tag, 0⟩ }
  | [] => s

/-- The next fragment of what port `p` sends is built and handed to queue 3. -/
def sendFragment (s : State) (p : Nat) (x : Sending) : State :=
  let n := programFragment s
  let count := (x.image.length + n - 1) / n
  let m := x.refresh.motif
  let motifs := refreshPart s x.refresh.staged 1
  let path := !decide (motifPortA motifs m = p)
  let part := (x.image.drop (n * x.frag)).take n
  let f := tirumFrame s p
    { kind := 2, flags := b2n path, dest := motifDest motifs m, epoch := epochOf s m, hoop := s.hoop.fNumber.toNat
      motif := m, fragIndex := x.frag, fragCount := count, offset := n * x.frag, argA := x.refresh.apply.toNat
      argB := x.tag, seq := unscheduledSeq s p, payload := part }
  let y := egrOf s p
  let last := decide (count ≤ x.frag + 1)
  let s := setEgr s p { y with
    progBytes := y.progBytes + f.length + 4
    sending := if last then none else some { x with frag := x.frag + 1 } }
  let s := handUnscheduled s p .program f
  if last then refreshDone s x.refresh else s

/-- Refreshes of a link that is down end: they are queued again by the next link up. -/
def dropRefreshes (s : State) (p : Nat) : State :=
  let x := egrOf s p
  let rs := x.pending ++ (x.sending.map (·.refresh)).toList
  rs.foldl refreshDone (setEgr s p { x with pending := [], sending := none })

/-- A thread port that is not up holds no refresh: one that is interrupted starts anew at the link up. -/
def cutRefreshes (s : State) (p : Nat) : State := if p < 32 ∧ portUp s p = false then dropRefreshes s p else s

/-- PROGRAM_FRAGMENT_QUEUE: EGR builds and queues the next fragment of port `p`, within the bytes
that EGR_PROG allows and the room of queue 3. -/
def programQueue (s : State) (p : Nat) : State :=
  if !drives s then s
  else if !portUp s p then dropRefreshes s p
  else if max (regFld s EGR_PROG 15 0) 1 * 1024 ≤ (egrOf s p).progBytes then s
  else if !queueHasRoom s p 3 || decide (waitingAt s p 3 ≠ []) then s
  else
    let s := if (egrOf s p).sending.isSome then s else takeRefresh s p
    match (egrOf s p).sending with
    | some x => sendFragment s p x
    | none => s

/-- Pending bits of motifs that a swap disables are cleared; of an image being sent, the fragments not yet
handed go with them. -/
def prunePending (s : State) (p : Nat) : State :=
  let x := egrOf s p
  let on := fun (r : Refresh) => motifThread (motifPart s.cfg) r.motif
  let rs := x.pending ++ (x.sending.map (·.refresh)).toList
  (rs.filter fun r => !on r).foldl refreshDone
    (setEgr s p { x with pending := x.pending.filter on, sending := x.sending.filter fun y => on y.refresh })

/-! ### Ownership (R275, R276) -/

/-- OWNER_SET at arrival. -/
def ownerArrival (d : Desc) : Nat :=
  if !noData d || !argsZeroFrom d 2 || decide (65536 ≤ darg d 0 ∨ darg d 0 = 0 ∨ darg d 0 = 0xFFFF ∨
      bits (darg d 1) 30 16 ≠ 0) then stBad else stOk

/-- OWNER_SET's SET_ALL at the boundary; the controller ID is part of the configuration. -/
def applyOwner (s : State) (d : Desc) : State :=
  if bitOf (darg d 1) 31 then
    (enabledMotifs (motifPart s.cfg)).foldl (fun s m =>
      setLive s m { liveOf s m with epoch := bits (darg d 1) 15 0 }) s
  else s

/-- MOTIF_CTRL at arrival (Table 10-9). -/
def motifCtrlArrival (d : Desc) : Nat :=
  let a := darg d 1
  let ok := match darg d 0 with
    | 1 => decide (a < 65536)
    | 2 => decide (a = 0)
    | 3 => decide (a = 0)
    | 4 => decide (a = 0)
    | 5 => decide (a = 0)
    | 6 => decide (10 ≤ a ∧ a ≤ 60000)
    | _ => false
  if noData d && argsZeroFrom d 2 && ok then stOk else stBad

/-- A CONTROL frame of motif `m` is queued for run `h` on each of its paths. -/
def queueControl (s : State) (m command arg : Nat) (h : Hoop) : State :=
  (motifPaths (motifPart s.cfg) m).foldl (fun s x =>
    setEgr s x.1 { egrOf s x.1 with controls := (egrOf s x.1).controls ++ [⟨m, x.2, h, command, arg⟩] }) s

/-- A motif command acts at the boundary that begins run `h`. -/
def motifCommand (s : State) (m command arg : Nat) (h : Hoop) : State :=
  let v := liveOf s m
  match command with
  | 1 => queueControl (setLive s m { v with epoch := arg % 65536 }) m 1 arg h
  | 2 =>
    let e := if v.foreign then v.fepoch + 1 else v.epoch + 1
    queueControl (setLive s m { v with epoch := e % 65536 }) m 2 arg h
  | 4 => setLive s m { v with foreign := false, fcid := 0, fepoch := 0 }
  | c => queueControl s m c arg h

/-! ### The return classifier (R278 to R281) -/

/-- A frame without its VLAN tag. -/
def untagged (bytes : List Byte) : List Byte := if tagged bytes then bytes.take 12 ++ bytes.drop 16 else bytes

/-- The Tirum content of an untagged frame: the bytes it may be padded to, and the header and what follows it.
Padding reaches 60 bytes of the frame, and in UDP lies outside the content (R257). -/
def tirumContent (s : State) (b : List Byte) : Option (Nat × List Byte) :=
  if be b 12 2 = regFld s EGR_TIRUM 31 16 then some (46, b.drop 14)
  else match parseUdp b none with
    | some u => if u.port = regFld s EGR_TIRUM 15 0 then some (0, u.payload) else none
    | none => none

def tType (t : List Byte) : Nat := byteAt t 1
def tFlags (t : List Byte) : Nat := be t 2 2
def tCid (t : List Byte) : Nat := be t 4 2
def tEpoch (t : List Byte) : Nat := be t 6 2
def tHoop (t : List Byte) : Nat := be t 8 4
def tMotif (t : List Byte) : Nat := be t 12 2
def tLength (t : List Byte) : Nat := be t 18 2
def tArgB (t : List Byte) : Nat := be t 28 4

/-- Content of length `l` holds `n` bytes and no more, but for padding to `pad` bytes. -/
def fills (pad n l : Nat) : Bool := decide (l = n ∨ (n < l ∧ l ≤ pad))

/-- PAYLOAD_LENGTH fits the frame: header, payload, the tag where AUTH is set, and padding. Of a RETURN the
flag and the tag are ignored while EN is 0 (R261). -/
def tirumFits (auth : Bool) (pad : Nat) (t : List Byte) : Bool :=
  let n := 32 + tLength t
  if bitOf (tFlags t) 1 then fills pad (n + 8) t.length || (!auth && decide (tType t = 5) && fills pad n t.length)
  else fills pad n t.length

/-- Malformed by R258 or R280, or a PAYLOAD_LENGTH inconsistent with the frame; `auth` is EGR_AUTH.EN. -/
def tirumMalformed (auth : Bool) (pad : Nat) (t : List Byte) : Bool :=
  decide (t.length < 32 ∨ byteAt t 0 ≠ 1 ∨ 8 ≤ tFlags t ∨ 16384 ≤ tMotif t ∨ be t 16 2 = 0 ∨ be t 16 2 ≤ be t 14 2 ∨
    (tType t = 5 ∧ tLength t % 12 ≠ 0)) || !tirumFits auth pad t

/-- A RETURN passes R261. -/
def returnAuthOk (s : State) (t : List Byte) : Bool :=
  if authOn s then
    let n := 32 + tLength t
    bitOf (tFlags t) 1 && decide (linkKey s ≠ []) &&
      decide (slice t n 8 = gmac8 (linkKey s)
        (beBytes 2 (tMotif t + 0xC000) ++ [0xFF] ++ beBytes 1 (tType t) ++ beBytes 4 (tHoop t) ++ beBytes 4 (tArgB t))
        (t.take n))
  else true

/-- The records of KIND `k`: FLAGS, A, B. -/
def tirumRecords (t : List Byte) (k : Nat) : List (Nat × Nat × Nat) :=
  ((List.range (tLength t / 12)).map fun i => 32 + 12 * i).filterMap fun o =>
    if byteAt t o = k then some (byteAt t (o + 1), be t (o + 4) 4, be t (o + 8) 4) else none

/-- A foreign claim recorded, with OWNER_CONFLICT unless it already was (R281). -/
def recordForeign (s : State) (p m cid epoch : Nat) : State :=
  let v := liveOf s m
  if v.foreign ∧ v.fcid = cid ∧ v.fepoch = epoch then s
  else
    noticeBoth (setLive s m { v with foreign := true, fcid := cid, fepoch := epoch }) 0x0B04 p
      (m + cid * 2 ^ 16 + epoch * 2 ^ 32 + v.epoch * 2 ^ 48)

/-- What an accepted RETURN reports: temperature, and a claim that is not ours. -/
def returnEffect (s : State) (p : Nat) (t : List Byte) : LiveRec :=
  let temps := tirumRecords t 1
  { motif := tMotif t
    temp := (temps.getLast?).map fun r => clampI (-65536) 65535 (sext 32 r.2.1)
    foreign := if tCid t ≠ 0 ∧ tCid t ≠ s.cfg.cid then some (tCid t, tEpoch t) else none
    port := p }

/-- Live fields written by a RETURN effect, with T_HOOP `h`. -/
def writeEffect (s : State) (p : Nat) (h : Hoop) (r : LiveRec) : State :=
  let s := match r.temp with
    | some v => setLive s r.motif { liveOf s r.motif with report := ⟨true, v, h⟩ }
    | none => s
  match r.foreign with
  | some (cid, epoch) => recordForeign s p r.motif cid epoch
  | none => s

/-- The last values of the hoop, per motif, ascending (R327). -/
def mergeEffect (r : LiveRec) : List LiveRec → List LiveRec
  | [] => [r]
  | x :: xs =>
    if x.motif = r.motif then
      { x with temp := if r.temp.isSome then r.temp else x.temp
               foreign := if r.foreign.isSome then r.foreign else x.foreign
               port := if r.foreign.isSome then r.port else x.port } :: xs
    else if r.motif < x.motif then r :: x :: xs
    else x :: mergeEffect r xs

/-- A record of the program that a tile reports says that it is absent or out of date (R281, R283). -/
def programStale (s : State) (t : List Byte) : Bool :=
  (tirumRecords t 2).any fun r =>
    !bitOf r.1 0 || decide (r.2.2 ≠ structureTag s.cfg) || earlier (changeHoop s (tMotif t)) (w32 r.2.1)

/-- A RETURN that row 8 accepts. -/
def acceptReturn (s : State) (p : Nat) (t : List Byte) : State :=
  let m := tMotif t
  let s := latchCount s (EGR_RX_ACCEPT p) 31 16 1
  let s := setEgress s { s.egr with pairs := tput (fun _ => none) s.egr.pairs m (some (w32 (tHoop t), tArgB t)) }
  let eff := returnEffect s p t
  let s := if pairJoined s then
      (if s.twn.driving then { s with twn := { s.twn with gathered := mergeEffect eff s.twn.gathered } } else s)
    else writeEffect s p s.hoop.fNumber eff
  let s := if tCid t = s.cfg.cid ∧ tEpoch t ≠ epochOf s m then latchCount s (EGR_RX_ACCEPT p) 15 8 1 else s
  if autoProg s && programStale s t then refreshMotif s m else s

/-- A Tirum frame on thread port `p`, by rows 2 to 8 of Table 10-10. -/
def classifyTirum (s : State) (p pad : Nat) (t : List Byte) : State :=
  if tirumMalformed (authOn s) pad t then latchCount s (EGR_RX_BAD p) 15 0 1
  else if tType t ≠ 5 then
    let s := if tType t = 3 ∧ tCid t = s.cfg.cid then { s with twn := { s.twn with marksNow := true } } else s
    latchCount s (EGR_RX_DROP p) 15 0 1
  else
    let x := egrOf s p
    if x.tokens = 0 then
      setEgr (latchCount s (EGR_RX_LIMIT p) 31 16 1) p { x with limited := x.limited + 1 }
    else
      let s := setEgr s p { x with tokens := x.tokens - 1 }
      let h := w32 (tHoop t)
      if !returnAuthOk s t then latchCount s (EGR_RX_BAD p) 31 16 1
      else if !motifThread (motifPart s.cfg) (tMotif t) then latchCount s (EGR_RX_ACCEPT p) 7 0 1
      else match tget (fun _ => none) s.egr.pairs (tMotif t) with
        | some (h0, b0) =>
          if earlier h0 h || (decide (h = h0) && !later (w32 b0) (w32 (tArgB t))) then
            latchCount s (EGR_RX_LIMIT p) 15 0 1
          else acceptReturn s p t
        | none => acceptReturn s p t

/-- One port's token bucket for one µs (R279). -/
def refillPort (s : State) (p : Nat) : State :=
  let x := egrOf s p
  let c := x.credit + max (regFld s (EGR_RET_RATE p) 27 16) 1
  let depth := max (regFld s (EGR_RET_RATE p) 11 0) 1
  setEgr s p { x with credit := c % 1000
                      tokens := if x.tokens < depth then min depth (x.tokens + c / 1000) else x.tokens }

/-- The next whole µs of elapsed TCLK time: every bucket gains credit. -/
def tokenRefill (s : State) : State :=
  (List.range 32).foldl refillPort (runToCycle ((s.tim.cyc / 250 + 1) * 250) s)

/-! ### Meanings -/

/-- LAUNCH_TIME (R264). -/
def execLaunchTime (p : Nat) (built : Bool) (s : State) : Host.Outcome State Fault Refusal := done (launch s p built)
/-- PROGRAM_FRAGMENT_QUEUE (R284). -/
def execProgramFragmentQueue (p : Nat) (s : State) : Host.Outcome State Fault Refusal := done (programQueue s p)
/-- RETURN_TOKEN_REFILL (R279). -/
def execReturnTokenRefill (s : State) : Host.Outcome State Fault Refusal := done (tokenRefill s)

end Sys2Proof.Machine
end

