-- ==== Sys2Proof/Machine/Pipeline.lean ====
section
/-! DEFINITION. Machine/Pipeline.lean: the pipeline run of a hoop: sampling, colour, packing and the
frames it builds, and its completion at the boundary (R19, R22, R193, R204 to R219, R229, R264). -/
namespace Sys2Proof.Machine

def setRun (s : State) (r : Run) : State := { s with run := r }

/-! ### Sampling (Table 7-6) -/

/-- Channel `k` (0 R, 1 G, 2 B) of the canvas at (x, y). -/
def canvasCh (s : State) (k x y : Nat) : Nat :=
  let c := canvasAt s x y
  match k with | 0 => c.1 | 1 => c.2.1 | _ => c.2.2

/-- Channel `k` of an entry's sample. -/
def sampleCh (s : State) (e : Entry) (k : Nat) : Nat :=
  let c := canvasCh s k
  if e.kind = 2 then
    let sum := sumNat ((List.range e.bh).flatMap fun j => (List.range e.bw).map fun i => c (e.x + i) (e.y + j))
    min ((sum * e.recip + 2 ^ 15) / 2 ^ 16) 0xFFFF
  else if e.mode = 1 then
    (e.w00 * c e.x e.y + e.w10 * c (e.x + 1) e.y + e.w01 * c e.x (e.y + 1) + e.w11 * c (e.x + 1) (e.y + 1) + 8) / 16
  else c e.x e.y

/-- An entry's three samples. -/
def sample (s : State) (e : Entry) : Nat × Nat × Nat := (sampleCh s e 0, sampleCh s e 1, sampleCh s e 2)

/-! ### The walk (R19, R188, R194, R219) -/

/-- One pricking entry through PRK, COL and STI. -/
def walkEntry (h : Hoop) (s : State) (n : Nat) : State :=
  let e := prickEntry (partOf s.cfg 0) n
  match e.kind with
  | 2 =>
    let (r, g, b) := sample s e
    let lv := [r, g, b].map (fixtureLevel s.cfg.colour.fixBright)
    setRun s { s.run with fixtures := tput (fun _ => []) s.run.fixtures e.fixture lv }
  | 1 =>
    let (gs, s) := pixelEntry s s.run.rev h e.motif e.index (sample s e)
    setRun s { s.run with grey := tput (fun _ => []) s.run.grey (e.motif * 65536 + e.index) gs }
  | _ =>
    setRun s { s.run with grey := tput (fun _ => []) s.run.grey (e.motif * 65536 + e.index) [0, 0, 0, 0] }

/-- The stitches of local motifs go to the back bank of the lane buffer (R230, R252). -/
def packLocal (s : State) (m : Nat) : State :=
  if motifLocal (motifPart s.cfg) m then
    { s with sti := { s.sti with back := tput (fun _ => []) s.sti.back m (stitchOf s m) } }
  else s

/-- The STITCH and SACN frames of port `p`. -/
def buildPort (h : Hoop) (s : State) (p : Nat) : State :=
  (List.range (portEntries s p)).foldl (fun s k =>
    let e := portEntry s p k
    match e.kind with
    | 1 => putFrame s p k (stitchFrame s p k h e (stitchOf s e.motif))
    | 3 => putFrame s p k (sacnData s p e.first h)
    | _ => s) s

/-- The run of hoop `h` over the active tables. While no egress schedules are active it runs empty (R116). -/
def runPipeline (h : Hoop) (s : State) : State :=
  if schedPart s = [] then s
  else
    let motifs := enabledMotifs (motifPart s.cfg)
    let s := motifs.foldl (estimateMotif s.run.rev h) s
    let bs := partOf s.cfg 0
    let s := if bs = [] then s else (List.range (partCount bs)).foldl (walkEntry h) s
    let s := motifs.foldl packLocal s
    (List.range 32).foldl (buildPort h) s

/-- PIPELINE_START: 2 µs after the boundary the run of the hoop begins. -/
def pipelineStart (s : State) : State :=
  let h := s.hoop.fNumber
  if s.hoop.running && s.hoop.fStarted && !s.hoop.fDue && !s.hoop.aborted && !s.run.active && !pipelineHeld s then
    let s := runTo (moveQ s.hoop.bThis 8000) s
    let s := memRequest (setHoop s { s.hoop with stacksHeld := false })
    let s := setEgress s { s.egr with zeroStitches := noLinkKey s }
    runPipeline h (setRun s { s.run with active := true, hoop := h, grey := [], fixtures := [] })
  else s

/-! ### Completion (R178, R179, R212) -/

/-- The bottom row that an entry reads; none for a DARK entry. -/
def footprintBottom (e : Entry) : Option Nat :=
  match e.kind with
  | 0 => none
  | 1 => some (if e.mode = 1 then e.y + 1 else e.y)
  | _ => some (e.y + e.bh - 1)

/-- The walk's position in slots and the FCLK cycles it has waited on bands, after entry `n`. -/
def waitEntry (s : State) (x : Nat × Nat) (n : Nat) : Nat × Nat :=
  let e := prickEntry (partOf s.cfg 0) n
  let at_ := (x.1 + 3) / 4
  let ready := match footprintBottom e with
    | some y => bandSum s.cfg (y / 16 + 1)
    | none => 0
  if at_ < ready then (4 * ready + entrySlots e, x.2 + (ready - at_)) else (x.1 + entrySlots e, x.2)

/-- FCLK cycles that PRK waits on bands in a run of the present configuration. -/
def prkWait (s : State) : Nat :=
  ((List.range (partCount (partOf s.cfg 0))).foldl (waitEntry s) (0, 0)).2

/-- The run of the hoop that ends completes, or an aborted run's work is discarded. -/
def completeRun (s : State) : State :=
  let h := s.run.hoop
  let on := s.run.active && decide (h = s.hoop.fNumber)
  let s' :=
    if s.hoop.aborted then discardCol s
    else if on then
      setLay (completeCol s h) { (completeCol s h).lay with
        compLast := compCycles s.cfg / 8 % 2 ^ 24, prkWait := prkWait s % 2 ^ 32 }
    else s
  setRun s' { s'.run with active := false }

/-- PIPELINE_START (R24). -/
def execPipelineStart (s : State) : Host.Outcome State Fault Refusal := done (pipelineStart s)

end Sys2Proof.Machine
end

