-- ==== Sys2Proof/Machine/Checks.lean ====
section
/-! DEFINITION. Machine/Checks.lean: HOOP_SET and COMMIT at arrival, the end state of a commit set,
and its checks at close in the order of R122 (chapters 1, 4, 7, 8, 9, 10). -/
namespace Sys2Proof.Machine

/-! ### Arrival (R119, R125) -/

/-- HOOP_SET at arrival. -/
def hoopSetArrival (d : Desc) : Nat :=
  let a := darg d
  let on := fun k => bitOf (a 0) k
  let absent := fun k (ws : List Nat) => on k || ws.all fun i => decide (a i = 0)
  if !noData d || !argsZeroFrom d 9 || decide (bits (a 0) 15 5 ≠ 0 ∨ bits (a 0) 4 0 = 0) then stBad
  else if !(on 0 || decide (bits (a 0) 31 16 = 0)) || decide (bitOf (a 0) 27 = true ∨ bits (a 0) 23 21 ≠ 0) then stBad
  else if !(absent 1 [1] && absent 2 [2] && absent 3 [3] && absent 4 [4, 5, 6, 7, 8]) then stBad
  else if on 1 && !rateOk (bits (a 1) 31 12) (bits (a 1) 11 0) then stBad
  else if on 4 && !leadsOk (a 4) (a 5) (a 6) (a 7) (a 8) then stBad
  else stOk

/-- COMMIT at arrival. -/
def commitArrival (d : Desc) : Nat :=
  if !noData d || !argsZeroFrom d 1 || decide (darg d 0 = 0 ∨ 128 ≤ darg d 0) then stBad else stOk

/-- The parts that a COMMIT names. -/
def namedParts (d : Desc) : List Nat := (List.range 7).filter fun p => bitOf (darg d 0) p

/-! ### The end state (R122) -/

/-- The words of a list with register `a` holding `v`. -/
def putReg (l : List (Nat × Word)) (a : Nat) (v : Word) : List (Nat × Word) :=
  (l.filter fun x => decide (x.1 ≠ a)) ++ [(a, v)]

/-- The registers that a HOOP_SET sets. -/
def hoopSetRegs (l : List (Nat × Word)) (d : Desc) : List (Nat × Word) :=
  let a := fun i => w32 (darg d i)
  let on := fun k => bitOf (darg d 0) k
  let l := if on 0 then putReg l HOOP_MODE (a 0 &&& 0xFFFF0000) else l
  let l := if on 1 then putReg l HOOP_RATE (a 1) else l
  let l := if on 2 then putReg l HOOP_ALIGN (a 2) else l
  let l := if on 3 then putReg l HOOP_WORD (a 3) else l
  if on 4 then (List.range 5).foldl (fun l i => putReg l (HOOP_LEAD i) (a (4 + i))) l else l

/-- A canvas or layer set by LAYER_SET. -/
def setLayerCfg (c : Cfg) (d : Desc) : Cfg :=
  let a := darg d
  if bitOf (a 0) 31 then
    { c with cw := bits (a 1) 31 16, ch := bits (a 1) 15 0, bgR := bits (a 2) 15 0, bgG := bits (a 2) 31 16
             bgB := bits (a 3) 15 0 }
  else { c with layers := tput (fun _ => []) c.layers d.object (d.args.take 5) }

/-- A session set by SESSION_SET: one that disables it keeps its other settings. -/
def setSessionCfg (c : Cfg) (d : Desc) : Cfg :=
  let ws := if bitOf (darg d 0) 31 then d.args
    else match sessWords c d.object with
      | [] => []
      | w :: rest => (w &&& 0x7FFFFFFF) :: rest
  { c with sessions := tput (fun _ => []) c.sessions d.object ws }

/-- One member applied to the end state. -/
def applyMember (s : State) (e : EndState) (m : Member) : EndState :=
  let d := m.desc
  let c := e.cfg
  let l := darg d 0 % 32
  match d.opcode with
  | 0x04 => { e with cfg := { c with binds := tput (fun _ => none) c.binds l (some d.object) } }
  | 0x05 => { e with cfg := { c with binds := tput (fun _ => none) c.binds l none } }
  | 0x10 =>
    { e with
      named := e.named ++ (namedParts d).filter fun p => !e.named.contains p
      cfg := { c with parts := (namedParts d).foldl (fun t p => tput (fun _ => []) t p (stageOf s p).data) c.parts } }
  | 0x13 => { e with cfg := setLayerCfg c d }
  | 0x14 => { e with cfg := setSessionCfg c d }
  | 0x15 => { e with cfg := { c with sources := tput (fun _ => []) c.sources d.object (d.args.take 5) } }
  | 0x16 => { e with hoopRegs := hoopSetRegs e.hoopRegs d }
  | 0x17 => { e with cfg := { c with colour := applyColour c.colour d } }
  | 0x22 => if bitOf (darg d 0) 1 then { e with portRegs := putReg e.portRegs (MAC_CFG d.object) (w32 (darg d 2)) } else e
  | 0x24 => { e with cfg := { c with cid := darg d 0 } }
  | _ => e

/-- The end state of a set. -/
def endStateOf (s : State) (ms : List Member) : EndState :=
  ms.foldl (applyMember s) { members := ms, cfg := s.cfg, hoopRegs := [], portRegs := [], named := [] }

/-! ### Checks 1 to 5 (R122) -/

/-- Every active structure part carries one BUILD_TAG (R34). -/
def tagsAgree (c : Cfg) : Bool :=
  match ((List.range 6).filter fun p => decide (partOf c p ≠ [])).map fun p => partTag (partOf c p) with
  | [] => true
  | t :: ts => ts.all fun u => decide (u = t)

/-- The three sums of R30 at rate `num`/`den`. -/
def budgetsOk (c : Cfg) (num den : Nat) : Bool :=
  decide (sumNat ((enabledLayers c).map (visArea c)) * num ≤ 25600000000 * den ∧
    c.cw * c.ch * num ≤ 3200000000 * den ∧
    (if partOf c 0 = [] then 0 else partCount (partOf c 0)) * num ≤ 2147483648 * den)

def hoopChecks (s : State) (e : EndState) : Option Refuse :=
  let c := e.cfg
  let (num, den) := endRate s e
  let l := endLead s e
  let sched := partOf c 4
  let r := fun st no => Refuse.mk st no 5 none
  firstSome [
    refuseIf (!leadsOk (l 0) (l 1) (l 2) (l 3) (l 4)) (r stState 1),
    refuseIf (decide (sched ≠ []) && decide ((schedRate sched).1 * den ≠ num * (schedRate sched).2)) (r stRate 2),
    refuseIf (e.named.any fun p => decide ((stageOf s p).state ≠ .valid)) (r stState 3),
    refuseIf (!tagsAgree c) (r stState 4),
    refuseIf (!budgetsOk c num den) (r stState 5)]

/-! ### What a set changes -/

def namesAny (e : EndState) (ps : List Nat) : Bool := e.named.any fun p => ps.contains p
def rateChanged (s : State) (e : EndState) : Bool := decide (endReg s e HOOP_RATE ≠ reg s HOOP_RATE)
def leadsChanged (s : State) (e : EndState) : Bool := (List.range 5).any fun i => decide (endLead s e i ≠ lead s i)

/-! ### PRK (Table 7-11) -/

/-- MAP_REFUSED. -/
def prkRefuse (no motif fixture : Nat) : Refuse := ⟨stState, no, 8, some (0x0803, 0, no + motif * 2 ^ 16 + fixture * 2 ^ 32)⟩

/-- Entries of each motif in a pricking table (R198). -/
def entryCounts (bs : List Byte) : Table Nat :=
  if bs = [] then []
  else (List.range (partCount bs)).foldl (fun t n =>
    let e := prickEntry bs n
    if e.kind = 2 then t else tmod (fun _ => 0) t e.motif (· + 1)) []

/-- The fixtures that a pricking table names. -/
def fixturesUsed (bs : List Byte) : List Nat :=
  if bs = [] then []
  else (List.range (partCount bs)).filterMap fun n =>
    let e := prickEntry bs n
    if e.kind = 2 then some e.fixture else none

/-- Fixture `f` is defined by the fixture profiles. -/
def fixtureDefined (bs : List Byte) (f : Nat) : Bool := decide (bs ≠ [] ∧ f < partCount bs) && fixOn bs f

/-- The profile and program of motif `m` are defined, and its lanes are there for local motifs. -/
def motifDefined (c : Cfg) (m : Nat) : Bool :=
  let mt := motifPart c
  let pf := partOf c 2
  let pg := partOf c 3
  decide (pf ≠ [] ∧ motifProfile mt m < partCount pf) && profOn (profileOf c m) &&
    decide (pg ≠ [] ∧ motifProgram mt m < partCount pg) && dirOn (dirBytes pg (motifProgram mt m)) &&
    (!motifLocal mt m || decide (motifLanes mt m &&& localLanes pf = motifLanes mt m))

def prkChecks (s : State) (e : EndState) : Option Refuse :=
  let c := e.cfg
  let bs := partOf c 0
  let mt := motifPart c
  if namesAny e [0, 1, 2, 3, 5] || decide (c.cw ≠ s.cfg.cw ∨ c.ch ≠ s.cfg.ch) then
    let counts := entryCounts bs
    let on := enabledMotifs mt
    let n := fun m => tget (fun _ => 0) counts m
    firstSome [
      refuseIf (decide (bs ≠ [] ∧ (c.cw < le bs 12 2 ∨ c.ch < le bs 14 2))) (prkRefuse 1 0xFFFF noEntry),
      ((List.range 16384).find? fun m =>
        (decide (n m ≠ 0) && !decide (mt ≠ [] ∧ motifOn mt m = true ∧ motifCount mt m = n m)) ||
        (on.contains m && decide (n m = 0))).map fun m => prkRefuse 2 m noEntry,
      ((fixturesUsed bs).find? fun f => !fixtureDefined (partOf c 5) f).map fun f => prkRefuse 3 0xFFFF f,
      (on.find? fun m => !motifDefined c m).map fun m => prkRefuse 4 m noEntry]
  else none

/-! ### COL (Table 8-7) -/

def colRefuse (no motif : Nat) : Refuse := ⟨stState, no, 9, some (0x0903, 0, no + motif * 2 ^ 16)⟩

def colChecks (e : EndState) : Option Refuse :=
  let c := e.cfg
  let bs := partOf c 6
  let on := enabledMotifs (motifPart c)
  if namesAny e [1, 2, 6] && decide (bs ≠ []) then
    firstSome [
      (on.find? fun m => bitOf (colourW bs m 0) 31 &&
        decide (uCount bs < bits (colourW bs m 1) 23 0 + motifCount (motifPart c) m)).map (colRefuse 1),
      (on.find? fun m => decide (bitOf (colourW bs m 0) 30 ≠ profCh4 (profileOf c m))).map (colRefuse 2)]
  else none

/-! ### STI (Table 9-7) -/

def stiRefuse (no motif : Nat) : Refuse := ⟨stState, no, 10, some (0x0A03, 0, no + motif * 2 ^ 16)⟩

/-- The record of a motif's program (R242). -/
def motifRecord (c : Cfg) (m : Nat) : Record := recordOf (partOf c 3) (motifProgram (motifPart c) m)

/-- BITS that R238 requires. -/
def shiftLength (pr : List Byte) : Nat :=
  profPad pr + profCols pr * profCh pr * (if profG pr then profGsw pr else 1)

/-- Check 2. -/
def classOk (c : Cfg) (m : Nat) : Bool :=
  let pr := profileOf c m
  let r := motifRecord c m
  decide (r.classG = profG pr) &&
    (match r.bits with | some n => decide (n = shiftLength pr) | none => true) &&
    (r.classG || decide (r.plane + 1 = profN pr))

/-- Check 3. -/
def rowsOk (c : Cfg) (m : Nat) : Bool :=
  let pr := profileOf c m
  let r := motifRecord c m
  (r.rows.all fun a => decide (a < profRows pr)) && ((List.range (profRows pr)).all fun a => r.rows.contains a) &&
    decide (r.drow < profRows pr)

/-- Check 4. -/
def passFits (s : State) (e : EndState) (m : Nat) : Bool :=
  let pr := profileOf e.cfg m
  let (num, den) := endRate s e
  let short := endLead s e 3 - endLead s e 4
  decide ((motifRecord e.cfg m).pass ≤ profPeriod pr ∧
    (5 * (profOffset pr + profRefreshes pr * profPeriod pr) + short) * num ≤ 1000000000 * den)

/-- Lane groups that a motif's lanes lie in. -/
def groupsOf (mask : Nat) : List Nat := (List.range 4).filter fun g => decide (bits mask (4 * g + 3) (4 * g) ≠ 0)

/-- Check 5 for a local motif, against the local motifs `ls`. -/
def lanesOk (c : Cfg) (ls : List Nat) (m : Nat) : Bool :=
  let pr := profileOf c m
  let r := motifRecord c m
  let mask := motifLanes (motifPart c) m
  decide ((lanesOf mask).length = profChains pr ∧ 4 ≤ r.div) && (!profG pr || decide (4 ≤ r.gdiv)) &&
    (ls.all fun k => decide (k = m) ||
      (groupsOf (motifLanes (motifPart c) k)).all fun g => !(groupsOf mask).contains g)

def stiChecks (s : State) (e : EndState) : Option Refuse :=
  let c := e.cfg
  let mt := motifPart c
  let on := enabledMotifs mt
  let ls := on.filter (motifLocal mt)
  let chainOk := fun m =>
    let pr := profileOf c m
    decide (motifCount mt m = profChains pr * profRows pr * profCols pr)
  if namesAny e [1, 2, 3] || rateChanged s e || leadsChanged s e then
    firstSome [
      (on.find? fun m => !chainOk m).map (stiRefuse 1),
      (on.find? fun m => !classOk c m).map (stiRefuse 2),
      (on.find? fun m => !rowsOk c m).map (stiRefuse 3),
      (on.find? fun m => !passFits s e m).map (stiRefuse 4),
      (ls.find? fun m => !lanesOk c ls m).map (stiRefuse 5),
      refuseIf (decide (65536 < sumNat (ls.map (motifCount mt)))) (stiRefuse 5 0xFFFF)]
  else none

/-! ### EGR (Table 10-7) -/

def egrRefuse (no port motif entry : Nat) : Refuse :=
  ⟨stState, no, 11, some (0x0B03, port, no + motif * 2 ^ 16 + entry * 2 ^ 32)⟩

/-- Every entry of a schedule image, with its port and number, in port order. -/
def allEntries (bs : List Byte) : List (Nat × Nat × Sched) :=
  if bs = [] then []
  else (List.range 32).flatMap fun p =>
    (List.range (schedN bs p)).map fun k => (p, schedStart bs p + k, schedEntry bs (schedStart bs p + k))

/-- Check 2 for a STITCH entry of port `p`. -/
def stitchPortOk (mt : List Byte) (p : Nat) (e : Sched) : Bool :=
  decide (e.kind ≠ 1) || (decide (mt ≠ []) && motifThread mt e.motif &&
    (if e.pathB then motifDual mt e.motif && decide (motifPortB mt e.motif = p)
     else decide (motifPortA mt e.motif = p)))

/-- Fragments `i` on of a path, contiguous from position `pos`: where they end, or none. -/
def fragmentsEnd (es : List Sched) : Nat → Nat → Nat → Option Nat
  | 0, _, pos => some pos
  | n + 1, i, pos =>
    match es.filter fun e => decide (e.fragIndex = i) with
    | [e] => if e.first = pos then fragmentsEnd es n (i + 1) (pos + e.positions) else none
    | _ => none

/-- The STITCH entries of a motif on one path form a complete set (R266). -/
def pathComplete (all : List (Nat × Nat × Sched)) (mt : List Byte) (m : Nat) (pathB : Bool) : Bool :=
  let es := (all.map (·.2.2)).filter fun e => decide (e.kind = 1 ∧ e.motif = m ∧ e.pathB = pathB)
  match es with
  | [] => false
  | e :: _ => (es.all fun f => decide (f.fragCount = e.fragCount)) && decide (es.length = e.fragCount) &&
      decide (fragmentsEnd es e.fragCount 0 0 = some (motifCount mt m))

/-- Both paths of a motif carry the same positions in each fragment (R266). -/
def pathsAgree (all : List (Nat × Nat × Sched)) (m : Nat) : Bool :=
  let es := fun b => (all.map (·.2.2)).filter fun e => decide (e.kind = 1 ∧ e.motif = m ∧ e.pathB = b)
  (es true).all fun f => (es false).any fun e =>
    decide (e.fragIndex = f.fragIndex ∧ e.first = f.first ∧ e.positions = f.positions ∧ e.fragCount = f.fragCount)

/-- Bytes of a scheduled frame from destination MAC through FCS. -/
def frameLength (s : State) (c : Cfg) (e : Sched) : Nat :=
  let tirum := fun n => 14 + (if egrUdp s then 28 else 0) + 32 + n + (if authOn s then 8 else 0) + 4
  max 64 (match e.kind with
    | 1 => tirum (6 * e.positions)
    | 2 => tirum 32
    | 3 => 14 + 28 + 126 + univSlots (partOf c 5) e.first + 4
    | _ => 14 + 28 + 49 + 4)

/-- Wire bytes of an entry's frame (check 6). -/
def wireBytes (s : State) (e : EndState) (p : Nat) (x : Sched) : Nat :=
  let cfg := match e.portRegs.find? fun r => decide (r.1 = MAC_CFG p) with
    | some r => r.2
    | none => reg s (MAC_CFG p)
  frameLength s e.cfg x + 20 + (if bitW cfg 27 then 4 else 0)

/-- Check 6 for port `p`. -/
def loadOk (s : State) (e : EndState) (all : List (Nat × Nat × Sched)) (p : Nat) : Bool :=
  let (num, den) := endRate s e
  let mine := (all.filter fun x => decide (x.1 = p)).map (·.2.2)
  let sum := fun (l : List Sched) => sumNat (l.map (wireBytes s e p))
  decide (sum (mine.filter fun x => decide (x.kind = 1)) * 8 * num ≤ 8400000000 * den ∧
    sum mine * 8 * num ≤ 9000000000 * den)

def entryMotif (e : Sched) : Nat := if e.kind = 1 then e.motif else 0xFFFF

def egrChecks (s : State) (e : EndState) : Option Refuse :=
  let c := e.cfg
  let mt := motifPart c
  let all := allEntries (partOf c 4)
  let fx := partOf c 5
  let (num, den) := endRate s e
  let short := 2 * endLead s e 3 - endLead s e 4
  let commands := membersOf e 0x20
  if namesAny e [1, 4, 5] || rateChanged s e || leadsChanged s e || decide (c.cid ≠ s.cfg.cid) || !commands.isEmpty then
    firstSome [
      refuseIf (decide (partOf c 4 ≠ [] ∧ (c.cid = 0 ∨ c.cid = 0xFFFF))) (egrRefuse 1 0 0xFFFF noEntry),
      (all.find? fun x => !stitchPortOk mt x.1 x.2.2).map fun x => egrRefuse 2 x.1 x.2.2.motif x.2.1,
      firstSome ((enabledMotifs mt).map fun m =>
        ((motifPaths mt m).find? fun x => !pathComplete all mt m x.2 || (x.2 && !pathsAgree all m)).map fun x =>
          egrRefuse 3 x.1 m noEntry),
      (all.find? fun x => decide (9216 < frameLength s c x.2.2)).map fun x =>
        egrRefuse 4 x.1 (entryMotif x.2.2) x.2.1,
      (all.find? fun x => decide (1000000000 * den < (x.2.2.offset + short) * num)).map fun x =>
        egrRefuse 5 x.1 (entryMotif x.2.2) x.2.1,
      ((List.range 32).find? fun p => !loadOk s e all p).map fun p => egrRefuse 6 p 0xFFFF noEntry,
      (all.find? fun x => (decide (x.2.2.kind = 3) && decide (fx = [] ∨ universes fx ≤ x.2.2.first)) ||
        (decide (x.2.2.kind = 4) && decide (fx = [] ∨ syncUniverse fx = 0))).map fun x =>
        egrRefuse 7 x.1 0xFFFF x.2.1,
      (commands.find? fun m => decide (darg m.desc 0 ≠ 4) &&
        !decide (mt ≠ [] ∧ motifThread mt m.desc.object = true)).map fun m => egrRefuse 8 0 m.desc.object noEntry]
  else none

/-! ### The whole order (R122) -/

/-- The first check that fails. -/
def setChecks (s : State) (e : EndState) : Option Refuse :=
  firstSome [hoopChecks s e, ingChecks s e, layChecks s e, prkChecks s e, colChecks e, stiChecks s e, egrChecks s e]

/-- A set is refused: SET_REFUSED, after what the deciding block posts. -/
def postRefusal (s : State) (r : Refuse) : State :=
  let s := match r.own with
    | some (code, inst, detail) => noticeBoth s code inst detail
    | none => s
  noticeBoth s 0x0508 0 (r.st + r.no * 256 + r.block * 65536)

/-- A set is accepted: the handles and staging areas it names, and its HOOP_SET words for the TCLK
boundary (R120, R165, R201). -/
def acceptSet (s : State) (e : EndState) : State :=
  let s := bindHandles s e.cfg s.hoop.fNumber
  let s := e.named.foldl (fun s p => setStage s p { stageOf s p with state := .committing }) s
  setHoop s { s.hoop with pendingRegs := e.hoopRegs.foldl (fun l x => putReg l x.1 x.2) s.hoop.pendingRegs }

end Sys2Proof.Machine
end

