-- ==== Sys2Proof/Machine/TwinLink.lean ====
section
/-! DEFINITION. Machine/TwinLink.lean: the twin's heartbeat, states and messages: sending, receiving,
acknowledging, and what joins and unjoins the pair (R313 to R322, R325, chapter 12). -/
namespace Sys2Proof.Machine

def setTwn (s : State) (t : Twn) : State := { s with twn := t }

/-! ### Sending (R320, R321) -/

/-- The key that the TWIN engine receives. -/
def twinKey (s : State) : List Byte := engineKey s (regFld s TWN_LINK 5 0) 3
/-- The unit may send: TWN_BOOT has been written, and the slot admits TWIN. -/
def mayTwin (s : State) : Bool := s.boot.twinEn && s.twn.booted && decide (twinKey s ≠ [])

/-- The STATE byte of a header. -/
def stateByte (s : State) : Nat := s.twn.state.code + b2n s.twn.driving * 128

/-- The IV of a message. -/
def twinIv (boot : Nat) (side : Bool) (seq : Nat) : List Byte := beBytes 4 boot ++ beBytes 1 (b2n side) ++ beBytes 7 seq

/-- Header, payload and tag of one fragment. -/
def twinBody (s : State) (kind : Nat) (hoop : Hoop) (arg idx cnt : Nat) (part : List Byte) : List Byte :=
  let boot := (reg s TWN_BOOT).toNat
  let m := beBytes 1 1 ++ beBytes 1 kind ++ beBytes 1 (b2n s.boot.twinSide) ++ beBytes 1 (stateByte s) ++
    beBytes 4 boot ++ beBytes 8 s.twn.seq ++ beBytes 4 hoop.toNat ++ beBytes 4 part.length ++
    beBytes 2 idx ++ beBytes 2 cnt ++ beBytes 4 arg ++ part
  m ++ gcmTag (twinKey s) (twinIv boot s.boot.twinSide s.twn.seq) m []

def twinMac : List Byte := [0x03, 0xA1, 0x00, 0x00, 0x00, 0x03]

/-- One fragment handed to queue `q` of twin port `p`. -/
def handTwin (s : State) (p q : Nat) (body : List Byte) : State :=
  hand s p q
    { bytes := pad60 (twinMac ++ macAddr s p ++ beBytes 2 (regFld s TWN_LINK 31 16) ++ body), sender := .twin
      due := 0, ownTag := false, stamp := none, oneStep := false }

/-- Payload bytes of one fragment, and the fragments of a message. -/
def twinMax : Nat := 9150
def fragments (payload : List Byte) : List (List Byte) :=
  (List.range (max 1 ((payload.length + twinMax - 1) / twinMax))).map fun i => (payload.drop (twinMax * i)).take twinMax

/-- The message count goes on by one. -/
def stepSeq (s : State) : State := setTwn s { s.twn with seq := (s.twn.seq + 1) % 2 ^ 56 }

/-- A control message sent on both ports: the contents of its fragments, and the state after. -/
def sendTwin (s : State) (kind : Nat) (hoop : Hoop) (arg : Nat) (payload : List Byte) : List (List Byte) × State :=
  let fs := fragments payload
  if mayTwin s then
    ((List.range fs.length).zip fs).foldl (fun (bs, s) x =>
      let b := twinBody s kind hoop arg x.1 fs.length x.2
      (bs ++ [b], stepSeq (handTwin (handTwin s 36 6 b) 37 6 b))) ([], s)
  else ([], s)

/-- A control message whose contents need not be kept. -/
def sendPlain (s : State) (kind : Nat) (hoop : Hoop) (arg : Nat) (payload : List Byte) : State :=
  (sendTwin s kind hoop arg payload).2

/-- A message that asks for an ACK. -/
def sendAwaiting (s : State) (kind : Nat) (hoop : Hoop) (arg : Nat) (payload : List Byte) (track : Option Nat) : State :=
  if mayTwin s then
    let (bs, s) := sendTwin s kind hoop arg payload
    setTwn s { s.twn with awaiting := s.twn.awaiting ++
      [⟨track, (s.twn.seq + 2 ^ 56 - 1) % 2 ^ 56, s.tim.cyc, kind, bs⟩] }
  else s

/-- ACKs of what the partner forwarded and this unit has finished. -/
def sendAcks (s : State) : State :=
  s.twn.acksDue.foldl (fun s a => sendPlain s 8 s.hoop.number (a.1 % 2 ^ 32) (beBytes 1 a.2 ++ [0, 0, 0]))
    (setTwn s { s.twn with acksDue := [] })

/-- A message's own ACK (R326, R351). -/
def ackNow (s : State) (seq st : Nat) : State := sendAcks (setTwn s { s.twn with acksDue := s.twn.acksDue ++ [(seq, st)] })

/-! ### Joining (R325) -/

/-- A forwarded descriptor no longer waits for its ACK: it completes with the status it reached. -/
def settleAck (s : State) (id : Nat) : State :=
  match findTrack s id with
  | some t =>
    match t.phase with
    | .awaitAck st r0 r1 h =>
      if Desc.silent t.desc && decide (st = 0) then dropTrack s id
      else modTrack s id fun t => { t with fwd := false, phase := .done st r0 r1 h }
    | _ => modTrack s id fun t => { t with fwd := false }
  | none => s

/-- The pair stops being joined on the driving unit: what waits for an ACK completes. A TWIN_MIRROR
ends REFUSED_STATE. -/
def unjoin (s : State) : State :=
  let ids := (s.hif.track.filter fun t => t.fwd).map (·.id)
  let s := ids.foldl settleAck s
  let mirrors := (s.twn.awaiting.filter fun a => decide (a.kind = 6)).filterMap (·.track) ++
    s.twn.sendq.filterMap (·.track)
  let s := mirrors.foldl (fun s id => finish s id stState 0 0) s
  setTwn s { s.twn with awaiting := [], heldDescs := [], sendq := [], sendOff := 0, copyOut := none
                        partnerStands := false }

/-! ### States (R316 to R319) -/

/-- Table 12-10: STATE_CHANGE. -/
def stateNotice (s : State) (old : TwinState) (cause : Nat) : State :=
  noticeBoth s 0x0D01 0 (s.twn.state.code + old.code * 2 ^ 8 + b2n s.twn.driving * 2 ^ 16 + cause * 2 ^ 24)

/-- Refreshes and CONTROL frames of a unit that stops driving are not carried over (R317, R342). -/
def dropEgress (s : State) (p : Nat) : State :=
  let s := dropRefreshes s p
  setEgr s p { egrOf s p with controls := [] }

/-- What a unit in COLD or FAULTED, or one that begins a copy, no longer holds. -/
def dropPair (s : State) : State :=
  setTwn s { s.twn with
    received := [], closed := none, closedHoop := none, resign := none, pieces := [], applied := [], entered := []
    behind := [], entryAt := none, syncReady := false, current := [], gathered := [], liveQueue := []
    consecutive := 0, missing := 0, suspect := none, frags := [] }

/-- The TWIN_SYNC descriptors under way end with `st`. -/
def endSyncs (s : State) (st : Nat) : State :=
  (s.hif.track.filter fun t => decide (t.desc.opcode = 0x71 ∧ t.phase = .running)).foldl
    (fun s t => finish s t.id st 0 0) s

/-- The duration of the copy, in ms. -/
def copyMs (s : State) : Nat := min ((s.tim.cyc - s.twn.syncAt) / 250000) 4095

/-- The unit enters a state (Table 12-3). One that leaves SYNCING but for STANDBY has no copy: TWIN_SYNC
completes SYNC_FAILED (R350). One out of lockstep applies nothing more of what it has not acknowledged, nor of
a set that was not closed (R325, R342). -/
def enterState (s : State) (st : TwinState) (driving : Bool) (cause : Nat) : State :=
  let old := s.twn.state
  let was := s.twn.driving
  let left := decide (old = .syncing ∧ st ≠ .syncing)
  let step := decide (st = .syncing ∨ st = .standby)
  let s := if was && !driving then unjoin s else s
  let s := setTwn s { s.twn with
    state := st, driving := driving, planned := none
    ms := if left then copyMs s else s.twn.ms
    behind := if step then s.twn.behind else []
    received := if step then s.twn.received else []
    frags := if step then s.twn.frags else []
    syncFrom := none
    stepLost := if st = .standby then s.twn.stepLost else false
    pendingCount := 0, lastLost := 0
    standbyFor := if st = .standby then s.twn.standbyFor else 0
    hbOut := if st = .faulted then false else s.twn.hbOut
    current := if driving then [] else s.twn.current
    syncAt := if st = .syncing then s.tim.cyc else s.twn.syncAt }
  let s := if was && !driving then (List.range 32).foldl dropEgress s else s
  let s := if st = .cold ∨ st = .faulted ∨ st = .syncing then dropPair s else s
  let s := if left && decide (st ≠ .standby) then endSyncs s 0x51 else s
  stateNotice s old cause

/-- TAKEOVER with the first run driven. -/
def takeoverNotice (s : State) (why : Nat) (run : Hoop) : State :=
  noticeBoth s 0x0D02 0 (why + run.toNat * 2 ^ 32)

/-- RESIGN, naming the first run not driven (R319). -/
def sendResign (s : State) (run : Hoop) : State := sendPlain s 7 s.hoop.number run.toNat []

/-- The copy fails: COLD (cause 4), and AUTO_SYNC tries again 1 s later (R331). -/
def copyFail (s : State) : State :=
  enterState (setTwn s { s.twn with
    retryAt := if regBit s TWN_CTRL 31 then some (s.tim.cyc + secondCycles) else none }) .cold false 4

/-- A driving unit in ACTIVE loses its partner (cause 8). -/
def leaveActive (s : State) : State :=
  if s.twn.state = .active then enterState s .degraded true 8 else s

/-- SYNCING begins, with `cause`. -/
def startSync (s : State) (cause : Nat) : State :=
  enterState (setTwn s { s.twn with retryAt := none, bytes := 0 }) .syncing false cause

/-- The conditions that TWIN_SYNC and AUTO_SYNC share (R350), and that of R395. -/
def maySync (s : State) : Bool :=
  s.boot.twinEn && s.twn.booted && (decide (s.twn.state = .cold) || (decide (s.twn.state = .degraded) && !s.twn.driving)) &&
    s.twn.linkUp && s.twn.partnerDriving

/-- AUTO_SYNC, where no retry is pending. -/
def autoSync (s : State) : State :=
  if regBit s TWN_CTRL 31 && maySync s && !s.twn.noAuto && s.twn.retryAt.isNone then startSync s 2 else s

/-! ### Heartbeat (R314) -/

/-- Every 500 µs TWN toggles TWIN_HB_OUT. -/
def heartbeatToggle (s : State) : State :=
  if s.boot.twinEn && s.tim.running && s.glb.halted.isNone && decide (s.twn.state ≠ .faulted) then
    let s := runToCycle (s.twn.hbAt + 125000) s
    setTwn s { s.twn with hbOut := !s.twn.hbOut, hbAt := s.tim.cyc }
  else s

/-- An edge on TWIN_HB_IN, `after` cycles from now. -/
def heartbeatEdge (s : State) (after : Nat) : State :=
  let s := tick after s
  if s.boot.twinEn then
    let t := { s.twn with hbLast := s.tim.cyc }
    if t.hbPresent then setTwn s t
    else if t.hbOne then noticeBoth (setTwn s { t with hbPresent := true, hbOne := false }) 0x0D06 0 1
    else setTwn s { t with hbOne := true }
  else s

/-- No edge for 3 ms: the heartbeat is lost. -/
def heartbeatTimeout (s : State) : State :=
  if s.boot.twinEn && s.twn.hbPresent then
    let s := runToCycle (s.twn.hbLast + 750000) s
    leaveActive (noticeBoth (setTwn s { s.twn with hbPresent := false, hbOne := false }) 0x0D06 0 0)
  else s

/-! ### The link (R322) -/

/-- A valid message has arrived. -/
def linkSeen (s : State) : State :=
  let t := { s.twn with linkLast := s.tim.cyc }
  if t.linkUp then setTwn s t else noticeBoth (setTwn s { t with linkUp := true }) 0x0D05 0 1

/-- The link is lost: the pair is no longer joined, ACTIVE ends, and a copy in reception fails. -/
def linkLost (s : State) : State :=
  if s.twn.linkUp then
    let s := noticeBoth (setTwn s { s.twn with linkUp := false }) 0x0D05 0 0
    let s := if s.twn.driving then unjoin s else s
    if s.twn.state = .syncing then copyFail s else leaveActive s
  else s

/-- No valid message for 3 ms. -/
def linkTimeout (s : State) : State :=
  if s.boot.twinEn && s.twn.linkUp then linkLost (runToCycle (s.twn.linkLast + 750000) s) else s

/-- Both twin ports have LINK = 0 (R322). -/
def linkCheck (s : State) : State :=
  if s.boot.twinEn && !(portOf s 36).link && !(portOf s 37).link then linkLost s else s

/-- Port `p` may have gone out of service: its refreshes end, it has not been up for the whole hoop (R338,
R340), and a twin port may have been the last. -/
def portCheck (s : State) (p : Nat) : State :=
  if portUp s p then s
  else
    let s := cutRefreshes s p
    linkCheck (setTwn s { s.twn with linkedNow := s.twn.linkedNow.filter fun q => decide (q ≠ p) })

/-! ### STATUS (Table 12-5) -/

def statusFlags (s : State) : Nat :=
  b2n (regBit s TWN_CTRL 30) + 2 * b2n s.twn.runCurrent + 4 * b2n s.twn.hbPresent +
    8 * b2n (s.twn.marksNow || s.twn.marksLast) + 16 * b2n s.twn.stepLost + 32 * b2n s.twn.syncReady

def statusPayload (s : State) : List Byte :=
  beBytes 4 (s.hoop.bThis / 4000000000) ++ beBytes 4 (s.hoop.bThis % 4000000000) ++ beBytes 4 s.twn.sets.toNat ++
    beBytes 1 (statusFlags s) ++ [0, 0, 0]

/-- Every 250 µs a unit sends STATUS. -/
def statusSend (s : State) : State :=
  if s.boot.twinEn && s.tim.running then
    let s := runToCycle (s.twn.statusAt + 62500) s
    sendPlain (setTwn s { s.twn with statusAt := s.tim.cyc }) 1 s.hoop.number 0 (statusPayload s)
  else s

/-! ### Receiving (R321) -/

/-- Twin header, payload and tag of a frame, when it carries the twin EtherType. -/
def twinContent (s : State) (bytes : List Byte) : Option (List Byte) :=
  let b := untagged bytes
  if be b 12 2 = regFld s TWN_LINK 31 16 then some (b.drop 14) else none

/-- Fields of a received header. -/
def parseTwin (b : List Byte) : TwinMsg :=
  { kind := byteAt b 1, side := bitOf (byteAt b 2) 0, state := byteAt b 3 % 8, driving := bitOf (byteAt b 3) 7
    boot := be b 4 4, seq := be b 8 8 % 2 ^ 56, hoop := w32 (be b 16 4), fragIndex := be b 24 2
    fragCount := be b 26 2, arg := be b 28 4, payload := slice b 32 (be b 20 4) }

/-- Version, length and tag hold. -/
def twinAuth (s : State) (b : List Byte) : Bool :=
  let n := 32 + be b 20 4
  decide (32 ≤ b.length ∧ byteAt b 0 = 1 ∧ n + 16 ≤ b.length ∧ twinKey s ≠ []) &&
    decide (slice b n 16 = gcmTag (twinKey s) (twinIv (be b 4 4) (bitOf (byteAt b 2) 0) (be b 8 8 % 2 ^ 56)) (b.take n) [])

/-- The highest sequence number accepted from a BOOT value. -/
def highest (s : State) (boot : Nat) : Nat :=
  (s.twn.rxSeen.filter fun x => decide (x / 2 ^ 56 = boot)).foldl (fun m x => max m (x % 2 ^ 56)) 0

/-- A sequence number already accepted, or more than 4,096 below the highest. -/
def twinDup (s : State) (m : TwinMsg) : Bool :=
  s.twn.rxSeen.contains (m.boot * 2 ^ 56 + m.seq) || decide (m.seq + 4096 < highest s m.boot)

/-- The sequence number is accepted. -/
def noteSeq (s : State) (m : TwinMsg) : State :=
  let top := max m.seq (highest s m.boot)
  setTwn s { s.twn with rxSeen :=
    (m.boot * 2 ^ 56 + m.seq) :: s.twn.rxSeen.filter fun x => decide (x / 2 ^ 56 ≠ m.boot) || decide (top ≤ x % 2 ^ 56 + 4096) }

/-- A fragment joins its message: the whole message once every fragment is there, under the sequence
number of its last. -/
def assemble (s : State) (m : TwinMsg) : Option TwinMsg × State :=
  if m.fragCount ≤ 1 then (some m, s)
  else
    let key := (m.seq - m.fragIndex) * 16 + m.kind
    let parts := (tget (fun _ => []) s.twn.frags key) ++ [(m.fragIndex, m.payload)]
    let whole := (List.range m.fragCount).all fun i => parts.any fun x => decide (x.1 = i)
    let put := fun v => setTwn s { s.twn with frags := tput (fun _ => []) s.twn.frags key v }
    if whole then
      let text := (List.range m.fragCount).flatMap fun i => ((parts.find? fun x => decide (x.1 = i)).map (·.2)).getD []
      (some { m with seq := m.seq - m.fragIndex + m.fragCount - 1, payload := text }, put [])
    else (none, put parts)

/-- A frame received on twin port `p`: the message it completes, if any. -/
def twinTake (s : State) (p : Nat) (bytes : List Byte) : Option TwinMsg × State :=
  if !s.boot.twinEn || !portUp s p || decide (p < 36) || truncates s p bytes then (none, s)
  else match rxCheck s p bytes true 0 with
    | (.frame f, s) =>
      match twinContent s f.bytes with
      | some b =>
        let m := parseTwin b
        if !twinAuth s b || decide (m.side = s.boot.twinSide) then (none, latchCount s TWN_RX_DROP 31 16 1)
        else if twinDup s m then (none, latchCount s TWN_RX_DROP 15 0 1)
        else assemble (linkSeen (noteSeq s m)) m
      | none => (none, s)
    | (_, s) => (none, s)

/-- A frame of TYPE `kind` received on twin port `p` acts through `f`. A frame of another TYPE belongs
to another command. -/
def onTwin (s : State) (p kind : Nat) (bytes : List Byte) (f : State → TwinMsg → State) : State :=
  match twinContent s bytes with
  | some b =>
    if byteAt b 1 = kind then
      match twinTake s p bytes with
      | (some m, s) => f s m
      | (none, s) => s
    else s
  | none => s

/-! ### ACK and retransmission (R325) -/

/-- The TWIN_MIRROR of handle `n` is under way on the driving unit (R351). -/
def mirrorOut (s : State) (n : Nat) : Bool :=
  (s.twn.sendq.any fun o => decide (o.obj = 0x20 ∧ o.index = n)) ||
  s.twn.awaiting.any fun a => decide (a.kind = 6) &&
    decide (((a.track.map (findTrack s)).getD none).map (·.desc.object) = some n)

/-- ACK: the message it names is acknowledged. -/
def ackMsg (s : State) (m : TwinMsg) : State :=
  match s.twn.awaiting.find? fun a => decide (a.seq % 2 ^ 32 = m.arg) with
  | some a =>
    let s := setTwn s { s.twn with awaiting := s.twn.awaiting.filter fun b => decide (b ≠ a) }
    match a.track with
    | some id => if a.kind = 6 then finish s id (byteAt m.payload 0) 0 0 else settleAck s id
    | none => s
  | none => s

/-- The first DESC that waits for its ACK is sent again 3 ms after it was sent. -/
def descRetransmit (s : State) : State :=
  match s.twn.awaiting.find? fun a => decide (a.kind = 3) with
  | some a =>
    if pairJoined s then
      let s := runToCycle (a.sentAt + 750000) s
      let s := a.bodies.foldl (fun s b => handTwin (handTwin s 36 6 b) 37 6 b) s
      setTwn s { s.twn with awaiting :=
        (s.twn.awaiting.filter fun b => decide (b ≠ a)) ++ [{ a with sentAt := s.tim.cyc }] }
    else s
  | none => s

/-! ### TWN_BOOT (R321) -/

/-- A write of TWN_BOOT: only in COLD; it restarts SEQ at 0. -/
def bootWrite (s : State) (v : Word) : State :=
  if s.twn.state = .cold then setTwn (setReg s TWN_BOOT v) { s.twn with seq := 0, booted := true } else s

/-- A write of TWN_LINK: ETHERTYPE takes effect only in COLD. -/
def linkWrite (s : State) (v : Word) : State :=
  let old := reg s TWN_LINK
  plainWrite s TWN_LINK (if s.twn.state = .cold then v else setFld v 31 16 (fld old 31 16))

/-! ### Meanings -/

/-- HEARTBEAT_TOGGLE (R314). -/
def execHeartbeatToggle (s : State) : Host.Outcome State Fault Refusal := done (heartbeatToggle s)
/-- HEARTBEAT_EDGE (R314). -/
def execHeartbeatEdge (after : Nat) (s : State) : Host.Outcome State Fault Refusal := done (heartbeatEdge s after)
/-- HEARTBEAT_TIMEOUT (R314). -/
def execHeartbeatTimeout (s : State) : Host.Outcome State Fault Refusal := done (heartbeatTimeout s)
/-- TWIN_STATUS_SEND (R320). -/
def execTwinStatusSend (s : State) : Host.Outcome State Fault Refusal := done (statusSend s)
/-- TWIN_LINK_TIMEOUT (R322). -/
def execTwinLinkTimeout (s : State) : Host.Outcome State Fault Refusal := done (linkTimeout s)
/-- DESC_RETRANSMIT (R325). -/
def execDescRetransmit (s : State) : Host.Outcome State Fault Refusal := done (descRetransmit s)
/-- TWN_BOOT_WRITE (R321). -/
def execTwnBootWrite (v : Word) (s : State) : Host.Outcome State Fault Refusal := done (bootWrite s v)

end Sys2Proof.Machine
end

