-- ==== Sys2Proof/Machine/TwinCopy.lean ====
section
/-! DEFINITION. Machine/TwinCopy.lean: forwarding descriptors, DATA objects, the state copy and TWIN_MIRROR
(R324, R328 to R331, R351). -/
namespace Sys2Proof.Machine

/-- STEP_LOST, which only a unit in STANDBY shows. -/
def loseStep (s : State) : State :=
  if s.twn.state = .standby then setTwn s { s.twn with stepLost := true } else s

/-! ### Descriptors as bytes (Table 2-4) -/

def descBytes (d : Desc) : List Byte :=
  leBytes 1 d.opcode ++ leBytes 1 d.flags ++ leBytes 2 d.tag ++ leBytes 4 d.target.toNat ++ leBytes 8 d.hostAddr ++
    leBytes 4 d.length ++ leBytes 4 d.object ++ (List.range 10).flatMap fun i => leBytes 4 (darg d i)

def parseDesc (b : List Byte) : Desc :=
  { opcode := byteAt b 0, flags := byteAt b 1, tag := le b 2 2, target := w32 (le b 4 4), hostAddr := le b 8 8
    length := le b 16 4, object := le b 20 4, args := (List.range 10).map fun i => w32 (le b (24 + 4 * i) 4) }

/-! ### Forwarding, on the driving unit (R324) -/

/-- The opcodes that are forwarded. -/
def forwardable (op : Nat) : Bool :=
  [0x01, 0x02, 0x04, 0x05, 0x06, 0x10, 0x11, 0x13, 0x14, 0x15, 0x16, 0x17, 0x20, 0x21, 0x22, 0x24, 0x70].contains op

/-- This unit drives a joined pair: it forwards. -/
def forwards (s : State) : Bool := pairJoined s && s.twn.driving && mayTwin s

/-- The set hoop of a descriptor that joins no window. -/
abbrev noSet : Nat := 0xFFFFFFFF

/-- DESC for the tracker entry `id`, with the data it fetched. -/
def forward (s : State) (id set : Nat) (data : List Byte) : State :=
  match findTrack s id with
  | some t => sendAwaiting s 3 s.hoop.number set (descBytes t.desc ++ data) (some id)
  | none => s

/-- DESC of a descriptor that carries data. A BUF_WRITE to a handle whose TWIN_MIRROR is under way is held back
until that is done, so that the partner applies it after the copy (R351). -/
def forwardOrHold (s : State) (id : Nat) (data : List Byte) : State :=
  match findTrack s id with
  | some t =>
    if t.desc.opcode = 0x02 ∧ mirrorOut s t.desc.object = true then
      setTwn s { s.twn with heldDescs := s.twn.heldDescs ++ [(id, data)] }
    else forward s id noSet data
  | none => s

/-- The BUF_WRITEs held back are looked at again, in their order. -/
def sendHeldDescs (s : State) : State :=
  s.twn.heldDescs.foldl (fun s x => forwardOrHold s x.1 x.2) (setTwn s { s.twn with heldDescs := [] })

/-- An ACK, and what it lets go on. -/
def ackTaken (s : State) (m : TwinMsg) : State := sendHeldDescs (ackMsg s m)

/-- A step `f` of the descriptor `id` that decides whether it is accepted: where it is, it is forwarded
with `data` and waits for its ACK; a refusal completes at once. -/
def forwardStep (s : State) (id : Nat) (data : List Byte) (f : State → State) : State :=
  if forwards s then
    let s := f (modTrack s id fun t => { t with fwd := true })
    match findTrack s id with
    | some t =>
      match t.phase with
      | .running => forward s id noSet data
      | .awaitAck st _ _ _ => if st = stOk then forward s id noSet data else settleAck s id
      | _ => modTrack s id fun t => { t with fwd := false }
    | none => s
  else f s

/-- The end of a descriptor that carries data: BUF_WRITE and TABLE_LOAD are forwarded with it (R324). -/
def forwardData (s : State) (id : Nat) (data : List Byte) (f : State → State) : State :=
  if forwards s then f (forwardOrHold (modTrack s id fun t => { t with fwd := true }) id data) else f s

/-- A member of the window is forwarded, with the window's hoop. -/
def forwardMember (s : State) (m : Member) : State :=
  let s := setTwn (modTrack s m.id fun t => { t with fwd := true }) { s.twn with sent := m.id :: s.twn.sent }
  forward s m.id s.hoop.fNumber.toNat []

/-- Members of the open window that have not been forwarded are. A TWIN_ROLE is accepted only at the close. -/
def forwardJoined (s : State) : State :=
  if forwards s && s.win.isOpen then
    (s.win.members.filter fun m => decide (m.origin = .host ∧ m.desc.opcode ≠ 0x70) && forwardable m.desc.opcode &&
      !s.twn.sent.contains m.id).foldl forwardMember s
  else s

/-- The TWIN_ROLEs of `ms`, which Table 12-9 accepts at the close, are forwarded (R324, R349). -/
def forwardRoles (s : State) (ms : List Member) : State :=
  if forwards s then (ms.filter fun m => decide (m.origin = .host ∧ m.desc.opcode = 0x70)).foldl forwardMember s else s

/-- CLOSE for the window of the hoop in progress: the set's status and its forwarded members. -/
def sendClose (s : State) (st count : Nat) : State :=
  if forwards s then sendPlain s 4 s.hoop.fNumber st (beBytes 4 count) else s

/-! ### DATA objects (R329, R330, Table 12-6) -/

def pairBytes (a v : Nat) : List Byte := leBytes 4 a ++ leBytes 4 v

/-- Set fields of a register row, as pairs of the registers `lo` to `hi` of it. -/
def rowPairs (s : State) (r : RegRow) (n : Nat) : List Byte :=
  if r.set = 0 then []
  else (List.range (min r.count n)).flatMap fun i =>
    let a := r.base + r.stride * (r.first + i)
    pairBytes a ((reg s a).toNat &&& r.set)

/-- The words of a configuration table, at `base` + `step` × number. -/
def wordPairs (t : Table (List Word)) (base step : Nat) : List Byte :=
  t.flatMap fun x => (List.range x.2.length).flatMap fun i => pairBytes (base + step * x.1 + 4 * i) (word x.2 i)

/-- Object 0x10. What descriptors have set lies above BAR0 (the model's own places). -/
def regImage (s : State) : List Byte :=
  let c := s.cfg
  ((regRowsIng.filter fun r => decide (r.base ≠ ING_CURVE_DATA)) ++ regRowsLay ++ regRowsCol ++ regRowsEgr).flatMap (rowPairs s · 1024) ++
    regRowsMac.flatMap (rowPairs s · 32) ++ pairBytes HOOP_CTRL ((reg s HOOP_CTRL).toNat &&& 0x20000000) ++
    wordPairs c.sessions 0x4000000 64 ++ wordPairs c.sources 0x4010000 32 ++ wordPairs c.layers 0x4020000 32 ++
    (c.binds.flatMap fun b => pairBytes (0x4030000 + 4 * b.1) ((b.2.map (· + 1)).getD 0)) ++
    pairBytes 0x4040000 (c.cw * 65536 + c.ch) ++ pairBytes 0x4040004 c.bgR ++ pairBytes 0x4040008 c.bgG ++
    pairBytes 0x404000C c.bgB ++ pairBytes 0x4041000 (b2n c.colour.dither) ++ pairBytes 0x4041004 c.colour.bright ++
    pairBytes 0x4041008 c.colour.fixBright ++ pairBytes 0x404100C (toBits 32 c.colour.tStale) ++
    pairBytes 0x4041010 c.colour.staleHoops ++ pairBytes 0x4041014 (toBits 32 c.colour.tAlarm) ++
    pairBytes 0x4042000 c.cid ++
    s.ing.curve.flatMap fun x => match x.2 with | some v => pairBytes (0x4050000 + 4 * x.1) v | none => []

/-- One pair of object 0x10 taken over. -/
def takePair (s : State) (a v : Nat) : State :=
  let c := s.cfg
  let put := fun (t : Table (List Word)) (base step : Nat) =>
    let k := (a - base) / step
    let ws := tget (fun _ => []) t k
    let i := (a - base) % step / 4
    tput (fun _ => []) t k ((ws ++ List.replicate (i + 1 - ws.length) 0).set i (w32 v))
  let cfg := fun (c : Cfg) => { s with cfg := c }
  if a < 0x4000000 then
    match regRow a with
    | some r => setReg s a ((reg s a &&& ~~~(w32 r.set)) ||| (w32 v &&& w32 r.set))
    | none => s
  else if a < 0x4010000 then cfg { c with sessions := put c.sessions 0x4000000 64 }
  else if a < 0x4020000 then cfg { c with sources := put c.sources 0x4010000 32 }
  else if a < 0x4030000 then cfg { c with layers := put c.layers 0x4020000 32 }
  else if a < 0x4040000 then
    cfg { c with binds := tput (fun _ => none) c.binds ((a - 0x4030000) / 4) (if v = 0 then none else some (v - 1)) }
  else if 0x4050000 ≤ a then
    setIng s { s.ing with curve := tput (fun _ => none) s.ing.curve ((a - 0x4050000) / 4) (some (v % 65536)) }
  else match a with
    | 0x4040000 => cfg { c with cw := v / 65536, ch := v % 65536 }
    | 0x4040004 => cfg { c with bgR := v }
    | 0x4040008 => cfg { c with bgG := v }
    | 0x404000C => cfg { c with bgB := v }
    | 0x4041000 => cfg { c with colour := { c.colour with dither := decide (v ≠ 0) } }
    | 0x4041004 => cfg { c with colour := { c.colour with bright := v } }
    | 0x4041008 => cfg { c with colour := { c.colour with fixBright := v } }
    | 0x404100C => cfg { c with colour := { c.colour with tStale := sext 32 v } }
    | 0x4041010 => cfg { c with colour := { c.colour with staleHoops := v } }
    | 0x4041014 => cfg { c with colour := { c.colour with tAlarm := sext 32 v } }
    | 0x4042000 => cfg { c with cid := v }
    | _ => s

/-- Object 0x10 taken over: what it does not name is as after reset. -/
def takeRegImage (s : State) (b : List Byte) : State :=
  let s := { s with cfg := { s.cfg with sessions := [], sources := [], layers := [], binds := [] }
                    ing := { s.ing with curve := [] } }
  (List.range (b.length / 8)).foldl (fun s i => takePair s (le b (8 * i) 4) (le b (8 * i + 4) 4)) s

/-- KIND of a BOUND handle: 1 layer, 2 session, 3 host candidate (LAY_H_STAT). -/
def handleKind (s : State) (n : Nat) : Nat :=
  let c := namingCfg s
  if (handleOf s n).state ≠ .bound then 0
  else if boundToLayer c n then 1 else if namedBySession c n then 2 else if namedByHost c n then 3 else 0

/-- Object 0x11: W, H, STATE, KIND, two zero bytes, F. -/
def handleTable (s : State) : List Byte :=
  (List.range 1024).flatMap fun n =>
    let h := handleOf s n
    leBytes 4 h.w ++ leBytes 4 h.h ++ leBytes 1 h.state.code ++ leBytes 1 (handleKind s n) ++ [0, 0] ++ leBytes 4 h.fence.toNat

def handleStateOf (v : Nat) : HandleState :=
  match v with | 1 => .filling | 2 => .idle | 3 => .bound | 4 => .retiring | _ => .free

def takeHandle (b : List Byte) (s : State) (n : Nat) : State :=
  let o := 16 * n
  let st := handleStateOf (byteAt b (o + 8))
  let w := le b o 4
  let h := le b (o + 4) 4
  setHandle s n ⟨st, w, h, if st = .free then 0 else pagesFor w h, w32 (le b (o + 12) 4)⟩

/-- Object 0x11 taken over, with the page count it implies. -/
def takeHandles (s : State) (b : List Byte) : State :=
  let s := (List.range 1024).foldl (takeHandle b) s
  setLay s { s.lay with freePages := 12288 - sumNat (s.lay.handles.map fun x => x.2.pages) }

/-- Object 0x12: words 8 to 15 of every motif. -/
def liveImage (s : State) : List Byte :=
  (List.range 16384).flatMap fun m => liveBytes s m ++ List.replicate 16 0

def takeLive (b : List Byte) (s : State) (m : Nat) : State :=
  let o := 32 * m
  setLive s m
    { report := ⟨bitOf (le b o 4) 31, sext 17 (le b o 4 % 2 ^ 17), w32 (le b (o + 4) 4)⟩
      epoch := le b (o + 10) 2, foreign := bitOf (byteAt b (o + 8)) 0, fcid := le b (o + 14) 2, fepoch := le b (o + 12) 2 }

/-- Object 0x13: θ, L and two zero bytes of every channel. -/
def estImage (s : State) : List Byte :=
  (List.range 65536).flatMap fun i =>
    let e := tget (fun _ => Estimate.reset) s.col.est i
    leBytes 4 (toBits 32 e.theta) ++ leBytes 2 e.l ++ [0, 0]

def takeEst (b : List Byte) (s : State) (i : Nat) : State :=
  setEst s (i / 4) (i % 4) { estOf s (i / 4) (i % 4) with theta := sext 32 (le b (8 * i) 4), l := le b (8 * i + 4) 2 }

/-- Object 0x14: sessions 1 to 255, then layers. -/
def ingImage (s : State) : List Byte :=
  ((List.range 255).flatMap fun i =>
    let x := sessOf s (i + 1)
    leBytes 1 x.state.code ++ leBytes 1 (b2n x.ssrc.isSome) ++ leBytes 2 x.age ++ leBytes 4 (x.ssrc.getD 0)) ++
  (List.range 32).flatMap fun l =>
    let x := sourceOf s l
    leBytes 1 (x.cur.getD 255) ++
      leBytes 1 (sumNat ((List.range 4).map fun n => b2n ((x.healthy[n]?).getD false) * 2 ^ n)) ++
      ((List.range 4).flatMap fun n => leBytes 1 ((x.run[n]?).getD 0)) ++ [0, 0]

def sessStateOf (v : Nat) : SessState := match v with | 1 => .wait | 2 => .live | 3 => .lost | _ => .off

def takeSess (b : List Byte) (s : State) (i : Nat) : State :=
  let o := 8 * i
  setSess s (i + 1) { sessOf s (i + 1) with
    state := sessStateOf (byteAt b o), age := le b (o + 2) 2
    ssrc := if byteAt b (o + 1) = 0 then none else some (le b (o + 4) 4) }

def takeSource (b : List Byte) (s : State) (l : Nat) : State :=
  let o := 2040 + 8 * l
  setSource s l { sourceOf s l with
    cur := if byteAt b o < 4 then some (byteAt b o) else none
    healthy := (List.range 4).map fun n => bitOf (byteAt b (o + 1)) n
    run := (List.range 4).map fun n => byteAt b (o + 2 + n)
    fresh := false }

/-- A handle's pixels. -/
def handleContent (s : State) (n : Nat) : List Byte :=
  let h := handleOf s n
  (List.range (h.w * h.h)).flatMap fun p => leBytes 8 (pixelAt s n p).toNat

/-- An object as it stands now. -/
def objectBytes (s : State) (obj index : Nat) : List Byte :=
  match obj with
  | 0x10 => regImage s
  | 0x11 => handleTable s
  | 0x12 => liveImage s
  | 0x13 => estImage s
  | 0x14 => ingImage s
  | 0x20 => handleContent s index
  | p => partOf s.cfg p

/-- An object taken over by the receiver: what its ACK says. -/
def takeObject (s : State) (obj index : Nat) (b : List Byte) : Nat × State :=
  match obj with
  | 0x10 => (stOk, takeRegImage s b)
  | 0x11 => (stOk, takeHandles s b)
  | 0x12 => (stOk, (List.range 16384).foldl (takeLive b) s)
  | 0x13 => (stOk, (List.range 65536).foldl (takeEst b) s)
  | 0x14 => (stOk, (List.range 32).foldl (takeSource b) ((List.range 255).foldl (takeSess b) s))
  | 0x20 =>
    if (handleOf s index).state = .free then (stNotFound, s)
    else
      let s := (List.range (b.length / 8)).foldl (fun s p => putPixel index s (p, BitVec.ofNat 64 (le b (8 * p) 8))) s
      (stOk, setTwn s { s.twn with current := index :: s.twn.current.filter fun n => decide (n ≠ index) })
  | p => (stOk, { s with cfg := { s.cfg with parts := tput (fun _ => []) s.cfg.parts p b } })

/-- The objects of a copy, in table order; those that are sent again at e. -/
def copyObjects : List Nat := [0, 1, 2, 3, 4, 5, 6, 0x10, 0x11, 0x12, 0x13, 0x14]
def entryObjects : List Nat := [0x12, 0x13, 0x14]

/-- Objects as they stand now join those to send. -/
def queueObjects (s : State) (objs : List Nat) (entry : Bool) : State :=
  setTwn s { s.twn with sendq := s.twn.sendq ++ objs.map fun o => ⟨o, 0, entry, objectBytes s o 0, s.hoop.fNumber, none⟩ }

/-- The state copy is taken at the driving unit's boundary s. -/
def takeCopy (s : State) : State :=
  let loads := (s.hif.track.filter fun t => decide (t.desc.opcode = 0x11) && !t.phase.settled && !t.orphan).map (·.id)
  let s := loads.foldl (fun s id => finish s id stState 0 0) { s with stages := [] }
  queueObjects (setTwn s { s.twn with copyOut := some ⟨false, false⟩, bytes := 0 }) copyObjects false

/-- The entry state, at the first boundary e after READY: the driving unit becomes ACTIVE (cause 3). -/
def takeEntry (s : State) : State :=
  let s := queueObjects (setTwn s { s.twn with copyOut := some ⟨true, true⟩ }) entryObjects true
  let s := setTwn s { s.twn with activeSince := s.hoop.fNumber, missing := 0 }
  if s.twn.state = .degraded then enterState s .active true 3 else s

/-- The port that takes the next DATA fragment: they alternate, and one whose link is down is passed. -/
def nextDataPort (s : State) : Nat :=
  let p := if s.twn.dataPort then 37 else 36
  if portUp s p then p else 73 - p

/-- The next fragment of the first object to send, where the twin queue has room. -/
def copySend (s : State) : State :=
  match s.twn.sendq with
  | o :: rest =>
    let p := nextDataPort s
    if mayTwin s && s.twn.driving && portUp s p && queueHasRoom s p 5 then
      let off := s.twn.sendOff
      let part := (o.bytes.drop off).take 8192
      let last := decide (o.bytes.length ≤ off + 8192)
      let sub := beBytes 2 o.obj ++ [0, 0] ++ beBytes 4 o.index ++ beBytes 8 off
      let hoop := if o.entry then o.hoop else s.hoop.number
      let body := twinBody s 6 hoop (b2n o.entry * 2 ^ 31 + b2n last * 2 ^ 30) 0 1 (sub ++ part)
      let seq := s.twn.seq
      let s := stepSeq (handTwin s p 5 body)
      let wait := if last ∧ o.track.isSome = true then [⟨o.track, seq, s.tim.cyc, 6, []⟩] else []
      setTwn s { s.twn with
        dataPort := !s.twn.dataPort, sendq := if last then rest else s.twn.sendq
        sendOff := if last then 0 else off + 8192, bytes := s.twn.bytes + part.length
        awaiting := s.twn.awaiting ++ wait }
    else s
  | [] => s

/-! ### Applying what was forwarded (R326) -/

/-- A set member that came over the link. -/
def twinMember (f : Forwarded) : Member := ⟨f.seq, f.seq, .twin f.seq, twinRing, f.desc, false⟩

/-- STEP_LOST where a forwarded descriptor ended otherwise than accepted ones do. -/
def judgeAcks (s : State) : State :=
  if s.twn.acksDue.any fun a => decide (a.2 ≠ stOk ∧ a.2 ≠ stInvalid) then loseStep s else s

/-- The handle becomes, or ceases to be, current (R329). -/
def setCurrent (s : State) (n : Nat) (on : Bool) : State :=
  let rest := s.twn.current.filter fun k => decide (k ≠ n)
  setTwn s { s.twn with current := if on then n :: rest else rest }

/-- The rectangle of a BUF_WRITE is the whole handle. -/
def wholeHandle (s : State) (d : Desc) : Bool :=
  let h := handleOf s d.object
  decide (rectX d = 0 ∧ rectY d = 0 ∧ rectW d = h.w ∧ rectH d = h.h)

/-- A forwarded descriptor that joins no window acts at once, as on the driving unit. -/
def applyForwarded (s : State) (seq : Nat) (d : Desc) (data : List Byte) (h : Hoop) : State :=
  let id := s.hif.nextId
  let t : Track :=
    { id := id, ring := twinRing, cq := 0, handed := s.hif.nextHanded, origin := .twin seq, desc := d, phase := .queued
      past := false, late := false
      control := false, waits := [], fwd := false, fin := 0, orphan := false }
  let s := setHif s { s.hif with track := s.hif.track ++ [t], nextId := id + 1, nextHanded := s.hif.nextHanded + 1 }
  let going := fun (s : State) => decide ((findTrack s id).map (·.phase) = some .running)
  match d.opcode with
  | 0x01 => setCurrent (startAlloc s t) d.object false
  | 0x06 => startFree s t
  | 0x02 =>
    let s := startWrite s t
    if going s then
      let s := if wholeHandle s d then setCurrent s d.object true else s
      writeCompleteIn s t data h
    else s
  | 0x11 =>
    let s := startLoad s t
    if going s then blockWritten s t data else s
  | _ => finish s id stBad 0 0

/-- A message behind the copy, or one that the partner's handle or part is not ready for, waits. -/
def mustWait (s : State) (m : TwinMsg) : Bool :=
  let d := parseDesc m.payload
  let copied := copyObjects.all fun o => s.twn.applied.contains o
  (decide (s.twn.state = .syncing) && !copied) ||
    (decide (m.kind = 3) && decide (m.arg = noSet) &&
      ((decide (d.opcode = 0x11) && (loadRunning s d.object || (loadBegin d && readHolds s d.object))) ||
        (decide (d.opcode ≠ 0x11) && (decide ((handleOf s d.object).state = .filling) ||
          s.twn.pieces.any fun p => decide (p.obj = 0x20 ∧ p.index = d.object)))))

/-! ### The entry into STANDBY (R330) -/

/-- The syncing unit enters STANDBY at its boundary e (cause 3), `hoops` of its hoops in STANDBY having begun. -/
def enterStandby (s : State) (hoops : Nat) : State :=
  let s := enterState s .standby false 3
  let s := setTwn s { s.twn with activeSince := s.hoop.fNumber, standbyFor := hoops, noAuto := false }
  endSyncs s stOk

/-- The whole entry state has arrived, for boundary e. -/
def entryCheck (s : State) (e : Hoop) : State :=
  if decide (s.twn.state = .syncing) && entryObjects.all fun o => s.twn.entered.contains o then
    if later e s.hoop.fNumber then copyFail s
    else
      let s := setTwn s { s.twn with entryAt := some e }
      if e = s.hoop.fNumber then enterStandby s 1 else s
  else s

/-- SYNCING has lasted 250 ms from boundary s: the copy fails. -/
def syncTimeout (s : State) : State :=
  match s.twn.syncFrom with
  | some t =>
    if s.boot.twinEn && decide (s.twn.state = .syncing) then copyFail (runToCycle (t + 62500000) s) else s
  | none => s

/-- 1 s after a failed copy an AUTO_SYNC unit tries again, when it may. -/
def autoSyncRetry (s : State) : State :=
  match s.twn.retryAt with
  | some t =>
    let s := runToCycle t s
    autoSync (setTwn s { s.twn with retryAt := none })
  | none => s

/-! ### TWIN_SYNC and TWIN_MIRROR (R350, R351) -/

def startTwinSync (s : State) (t : Track) : State :=
  if !noData t.desc || !argsZeroFrom t.desc 0 then finish s t.id stBad 0 0
  else if !maySync s then finish s t.id stState 0 0
  else
    startSync (setTwn (begin s t.id) { s.twn with noAuto := false }) 2

/-- The partner is in STANDBY, as its STATUS showed or a handover has just left it. -/
def partnerStandby (s : State) : Bool := decide (s.twn.partner = 2) || s.twn.partnerStands

def startTwinMirror (s : State) (t : Track) : State :=
  let n := t.desc.object
  let st := (handleOf s n).state
  if !noData t.desc || !argsZeroFrom t.desc 0 then finish s t.id stBad 0 0
  else if !(s.boot.twinEn && s.twn.driving && s.twn.linkUp && partnerStandby s) then finish s t.id stState 0 0
  else if st = .free then finish s t.id stNotFound 0 0
  else if st = .filling then finish s t.id stState 0 0
  else
    let s := begin s t.id
    setTwn s { s.twn with sendq := s.twn.sendq ++ [⟨0x20, n, false, handleContent s n, s.hoop.number, some t.id⟩] }

/-! ### Meanings -/

/-- STATE_COPY_SEND (R330). -/
def execStateCopySend (s : State) : Host.Outcome State Fault Refusal := done (copySend s)
/-- SYNC_TIMEOUT (R331). -/
def execSyncTimeout (s : State) : Host.Outcome State Fault Refusal := done (syncTimeout s)
/-- AUTO_SYNC_RETRY (R331). -/
def execAutoSyncRetry (s : State) : Host.Outcome State Fault Refusal := done (autoSyncRetry s)

end Sys2Proof.Machine
end

