-- ==== Sys2Proof/Machine/TwinRole.lean ====
section
/-! DEFINITION. Machine/TwinRole.lean: lockstep, LIVE, digests and divergence, sampler passes, the
takeover evidence and the twin roles, and what TWN does at a boundary (R323, R327, R332 to R341). -/
namespace Sys2Proof.Machine

/-! ### STATUS received (R322, R323, R330, R335) -/

/-- The distance of two times given as seconds modulo 2^32 and quarter-ns. -/
def secDist (a b : Nat) : Nat :=
  let m := 2 ^ 32 * 4000000000
  let d := (a % m + m - b % m) % m
  min d (m - d)

/-- What R323 asks of this unit alone. -/
def lockstepSettings (s : State) : Bool :=
  decide (hoopMode s = 1) && s.hoop.aligned && decide (s.tim.mode = .tracking)

/-- 50 µs in quarter-ns. -/
def stepSkew : Nat := 200000

/-- The partner's last boundary against this unit's (R323): the same hoop, or the next that this unit is about
to begin, within 50 µs. A message of the hoop before counts as equal while the partner's boundary may still
come, for 50 µs after this unit's (DESIGN CHOICE, log 73). -/
def lockstepOk (s : State) (hoop : Hoop) (time : Nat) : Bool :=
  lockstepSettings s &&
    (if hoop = s.hoop.number then decide (secDist time s.hoop.bThis ≤ stepSkew)
     else if hoop = s.hoop.number + 1 then decide (secDist time s.hoop.bNext ≤ stepSkew)
     else decide (hoop + 1 = s.hoop.number ∧ secDist time s.hoop.bPrev ≤ stepSkew ∧ secDist s.tim.q s.hoop.bThis ≤ stepSkew))

/-- The driving unit's view of its partner's STATUS; `was` is the state that the one before showed. Only a
partner that enters STANDBY makes a DEGRADED unit ACTIVE again (cause 9). -/
def statusDriving (s : State) (was : Nat) (m : TwinMsg) : State :=
  let entering := decide (m.state = 1) && !later s.twn.activeSince m.hoop
  let joinedNow := decide (m.state = 1 ∨ m.state = 2)
  let s := if joinedNow then s else unjoin s
  let s := if m.state ≠ 2 ∧ entering = false then leaveActive s else s
  let s := if m.state = 2 ∧ was ≠ 2 ∧ s.twn.state = .degraded then
      enterState (setTwn s { s.twn with activeSince := m.hoop, missing := 0 }) .active true 9
    else s
  match s.twn.copyOut with
  | some c =>
    if m.state ≠ 1 then setTwn s { s.twn with copyOut := none }
    else if bitOf (byteAt m.payload 12) 5 then setTwn s { s.twn with copyOut := some { c with ready := true } }
    else s
  | none => s

/-- The non-driving unit's view of its partner's STATUS. -/
def statusWaiting (s : State) (m : TwinMsg) : State :=
  match s.twn.state with
  | .syncing => if m.driving then s else copyFail s
  | .standby =>
    if lockstepOk s m.hoop (be m.payload 0 4 * 4000000000 + be m.payload 4 4) then s else loseStep s
  | _ => autoSync s

/-- STATUS: the partner's state; one of an earlier hoop than the roles in force says nothing of them. -/
def statusMsg (s : State) (m : TwinMsg) : State :=
  let current := bitOf (byteAt m.payload 12) 1
  let s := setTwn s { s.twn with
    partnerYield := bitOf (byteAt m.payload 12) 0
    partnerRuns := ((m.hoop, current) :: s.twn.partnerRuns.filter fun x => decide (x.1 ≠ m.hoop)).take 4 }
  if (decide (s.twn.state = .active ∨ s.twn.state = .standby)) && later m.hoop s.twn.activeSince then s
  else
    let was := if s.twn.partnerStands then 2 else s.twn.partner
    let changed := decide (s.twn.partner ≠ m.state ∨ s.twn.partnerDriving ≠ m.driving)
    let s := setTwn s { s.twn with partner := m.state, partnerDriving := m.driving, partnerStands := false }
    let s := if changed then noticeBoth s 0x0D08 0 (m.state + b2n m.driving * 256) else s
    if s.twn.driving then statusDriving s was m else statusWaiting s m

/-! ### LIVE (R327) -/

/-- A 16-byte record of LIVE. -/
def liveRecord (r : LiveRec) : List Byte :=
  beBytes 2 r.motif ++ beBytes 1 (b2n r.temp.isSome + 2 * b2n r.foreign.isSome) ++ [0] ++
    beBytes 4 (toBits 32 (r.temp.getD 0)) ++ beBytes 2 ((r.foreign.map (·.1)).getD 0) ++
    beBytes 2 ((r.foreign.map (·.2)).getD 0) ++ [0, 0, 0, 0]

def parseLive (b : List Byte) : LiveRec :=
  { motif := be b 0 2, temp := if bitOf (byteAt b 2) 0 then some (sext 32 (be b 4 4)) else none
    foreign := if bitOf (byteAt b 2) 1 then some (be b 8 2, be b 10 2) else none, port := 0 }

/-- At FCLK boundary h+1 the unit that drove hoop h sends what it gathered in it. -/
def sendLive (s : State) (h : Hoop) : State :=
  if s.twn.driving && (pairJoined s || decide (s.twn.gathered ≠ [])) then
    let rs := s.twn.gathered
    let s := setTwn s { s.twn with gathered := [], liveQueue := s.twn.liveQueue ++ [(h, rs)] }
    if pairJoined s then sendPlain s 5 h rs.length (rs.flatMap liveRecord) else s
  else s

/-- LIVE received. -/
def liveMsg (s : State) (m : TwinMsg) : State :=
  if s.twn.state = .syncing ∨ s.twn.state = .standby then
    let rs := (List.range m.arg).map fun i => parseLive (slice m.payload (16 * i) 16)
    setTwn s { s.twn with liveQueue := s.twn.liveQueue ++ [(m.hoop, rs)] }
  else s

/-- One effect written; OWNER_CONFLICT is the driving unit's. -/
def liveWrite (h : Hoop) (s : State) (r : LiveRec) : State :=
  if s.twn.driving then writeEffect s r.port h r
  else
    let v := liveOf s r.motif
    let v := match r.temp with | some t => { v with report := ⟨true, t, h⟩ } | none => v
    setLive s r.motif (match r.foreign with
      | some (c, e) => { v with foreign := true, fcid := c, fepoch := e }
      | none => v)

/-- In the last FCLK cycle before boundary h+2 LIVE of hoop h is applied, once. -/
def liveApply (s : State) : State :=
  let n := s.hoop.fNumber
  if s.boot.twinEn && s.hoop.fStarted && decide (s.twn.liveAt ≠ some n) then
    let mine := s.twn.liveQueue.filter fun x => decide (x.1 + 1 = n)
    let s := setTwn s { s.twn with liveAt := some n
                                   liveQueue := s.twn.liveQueue.filter fun x => later (n - 1) x.1 }
    match mine with
    | x :: _ => x.2.foldl (liveWrite n) s
    | [] => loseStep s
  else s

/-! ### Digests (R332 to R335) -/

/-- DIGEST of the run in progress. -/
def sendDigest (s : State) (r : RunDigest) : State :=
  if s.twn.driving || decide (s.twn.state = .standby) then
    sendPlain s 2 r.hoop (b2n r.aborted) (r.ports.flatMap fun d => beBytes 8 d)
  else s

/-- Whether the standby reported CURRENT for run `h`. -/
def wasCurrent (s : State) (h : Hoop) : Bool :=
  let l := if s.twn.driving then s.twn.partnerRuns else s.twn.currentRuns
  match l.find? fun x => decide (x.1 = h) with
  | some x => x.2
  | none => false

/-- Ends of passes until the next full pass to begin is done: that of a later hoop while one is under way. -/
def passesToNext (s : State) : Nat := if s.twn.passHoops = 0 then 1 else 2

/-- Ports whose digests differ. -/
def digestMask (a b : RunDigest) : Nat :=
  sumNat ((List.range 32).map fun p => if (a.ports[p]?).getD 0 = (b.ports[p]?).getD 0 then 0 else 2 ^ p)

/-- Run `h` compared once both digests are known, on a unit that drives or stands by (R332). -/
def compareRun (s : State) (h : Hoop) : State :=
  if !s.twn.driving && decide (s.twn.state ≠ .standby) then s
  else match s.egr.digests.find? fun r => decide (r.hoop = h), s.twn.partnerDigests.find? fun r => decide (r.hoop = h) with
  | some a, some b =>
    if s.twn.compared.contains h then s
    else
      let mask := digestMask a b
      let cur := wasCurrent s h
      let s := setTwn s { s.twn with compared := (h :: s.twn.compared).take 16 }
      if mask = 0 ∧ a.aborted = b.aborted then setTwn s { s.twn with consecutive := 0 }
      else
        let s := setTwn s { s.twn with divergeHoop := h, divergePorts := mask }
        let s := noticeBoth s 0x0D03 0 (h.toNat + mask * 2 ^ 32)
        if !cur then setTwn (latchCount s TWN_DIVERGE 15 0 1) { s.twn with consecutive := 0 }
        else
          let s := latchCount s TWN_DIVERGE 31 16 1
          let n := s.twn.consecutive + 1
          if s.twn.state = .standby ∧ max (regFld s TWN_CTRL 19 16) 1 ≤ n ∧ s.twn.suspect = none then
            setTwn s { s.twn with consecutive := 0, suspect := some (passesToNext s) }
          else setTwn s { s.twn with consecutive := n }
  | _, _ => s

/-- DIGEST received. -/
def digestMsg (s : State) (m : TwinMsg) : State :=
  let r : RunDigest := ⟨m.hoop, bitOf m.arg 0, (List.range 32).map fun p => be m.payload (8 * p) 8⟩
  compareRun (setTwn s { s.twn with partnerDigests := (r :: s.twn.partnerDigests).take 16 }) m.hoop

/-- At FCLK-side boundary h+2 the partner's digest of run `h` is missing. -/
def missingDigest (s : State) (h : Hoop) : State :=
  let expected := decide (s.twn.state = .standby ∨ s.twn.state = .active) && !later h s.twn.activeSince
  if !expected then s
  else if s.twn.partnerDigests.any fun r => decide (r.hoop = h) then setTwn s { s.twn with missing := 0 }
  else
    let s := noticeBoth (setTwn s { s.twn with missing := s.twn.missing + 1 }) 0x0D07 0 h.toNat
    if 2 ≤ s.twn.missing then leaveActive s else s

/-- DIGEST of the newest run, and its comparison. -/
def digestNewest (s : State) : State :=
  match s.egr.digests with
  | r :: _ => compareRun (sendDigest s r) r.hoop
  | [] => s

/-- An entry run not built by its egress deadline fails the copy (R330). -/
def entryLate (s : State) : State :=
  if s.twn.entryAt = some s.hoop.fNumber ∧ (s.run.active = false ∨ s.run.hoop ≠ s.hoop.fNumber) then copyFail s else s

/-- The egress deadline of the hoop in progress has been taken. -/
def deadlineTaken (s : State) : Bool := s.egr.digests.any fun r => decide (r.hoop = s.hoop.fNumber)

/-- The egress deadline: EGR's work, then DIGEST. -/
def runDeadline (s : State) : State :=
  if s.hoop.running && s.hoop.fStarted && !s.hoop.fDue && !deadlineTaken s then
    entryLate (digestNewest (egressDeadline s))
  else s

/-! ### Sampler passes (R334, R336, R337, R352) -/

/-- SAMPLER_RUN descriptors at the end of a pass: one that has waited for a full pass completes. -/
def samplerJobs (s : State) (part : Nat) : State :=
  let ended := s.twn.samplerJobs.filter fun j => decide (j.2 ≤ 1)
  let s := setTwn s { s.twn with samplerJobs :=
    (s.twn.samplerJobs.filter fun j => decide (1 < j.2)).map fun j => (j.1, j.2 - 1) }
  ended.foldl (fun s j => if part = 0 then finish s j.1 stOk 0 0 else finish s j.1 0x50 part 0) s

/-- The unit becomes FAULTED; one that drove resigns (R319, R337). Before TWN_BOOT is written it stays
COLD (R395). -/
def fault (s : State) : State :=
  if !s.boot.twinEn || !s.twn.booted || decide (s.twn.state = .faulted) then s
  else
    let s := if s.twn.driving then sendResign s (s.hoop.fNumber + 1) else s
    enterState s .faulted false 11

/-- The full pass that R334 asked for is done, and clean. -/
def suspectClean (s : State) : State :=
  match s.twn.suspect with
  | some n =>
    if 1 < n then setTwn s { s.twn with suspect := some (n - 1) }
    else
      let s := setTwn s { s.twn with suspect := none }
      if s.twn.state ≠ .standby then s
      else if 64 < s.twn.standbyFor then startSync s 7
      else setTwn (enterState s .degraded false 12) { (enterState s .degraded false 12).twn with noAuto := true }
  | none => s

/-- The pass under way has had its hoops: one where the unit does not drive, 16 where it does (R336). -/
def passDue (s : State) : Bool := decide ((if drives s then 16 else 1) ≤ s.twn.passHoops)

/-- A pass ends: `part` is the failing part, 0 for a clean pass. -/
def samplerEnd (s : State) (part : Nat) : State :=
  if !passDue s then s else
  let s := setTwn s { s.twn with passes := (s.twn.passes + 1) % 65536, passHoops := 0 }
  if part = 0 then suspectClean (samplerJobs s 0)
  else
    let s := latchCount (setTwn s { s.twn with failPart := part % 256 }) TWN_SAMPLER 15 8 1
    let s := noticeBoth s 0x0D04 0 (part % 256 + s.hoop.number.toNat * 2 ^ 32)
    fault (samplerJobs s part)

def startSampler (s : State) (t : Track) : State :=
  if !noData t.desc || !argsZeroFrom t.desc 0 then finish s t.id stBad 0 0
  else setTwn (begin s t.id) { (begin s t.id).twn with samplerJobs := s.twn.samplerJobs ++ [(t.id, passesToNext s)] }

/-! ### Evidence and takeover (R338 to R340) -/

/-- (c): no hoop mark of our own ID since boundary j−1. -/
def noMarks (s : State) : Bool := !s.twn.marksNow && !s.twn.marksLast
/-- (d): a thread port has had LINK = 1 throughout. -/
def sawNetwork (s : State) : Bool := s.twn.linkedNow.any fun p => s.twn.linkedLast.contains p
/-- (a) to (d). -/
def evidence (s : State) : Bool := !s.twn.hbPresent && !s.twn.linkUp && noMarks s && sawNetwork s

/-- 600 µs in quarter-ns. -/
def decisionLead : Nat := 2400000
/-- D of the hoop in progress, in device time. -/
def decisionAt (s : State) : Nat := moveQ s.hoop.bNext (-(decisionLead : Int))

/-- The verdict of Table 12-7. A unit that a RESIGN has called to drive needs no evidence, and does not
degrade for want of its partner (R340). -/
def verdict (s : State) : State :=
  let a := !s.twn.hbPresent
  let b := !s.twn.linkUp
  let put := fun (pending last : Nat) => setTwn s { s.twn with pendingCount := pending, lastLost := last }
  let degrade := if s.twn.resign.isSome then put s.twn.pendingCount s.twn.lastLost else enterState s .degraded false 6
  if a && b then
    if evidence s then
      setTwn (put 0 0) { (put 0 0).twn with planned := some (.degraded, true, 5, 1) }
    else if s.twn.pendingCount < 2 then put (s.twn.pendingCount + 1) 3
    else degrade
  else if a || b then
    let one := if a then 1 else 2
    if s.twn.lastLost = one ∨ s.twn.lastLost = 3 ∨ s.twn.stepLost = true then degrade else put 0 one
  else if s.twn.stepLost then degrade else put 0 0

/-- DECISION_POINT: D_j of a unit in STANDBY. -/
def decisionPoint (s : State) : State :=
  if s.boot.twinEn && s.hoop.running && s.hoop.fStarted && decide (s.twn.state = .standby) then
    verdict (runTo (decisionAt s) s)
  else s

/-- RESIGN: the first boundary from `r` on whose decision point follows (R340). -/
def resignMsg (s : State) (m : TwinMsg) : State :=
  if s.twn.state = .standby then
    let n := s.hoop.number
    let first := if reached s.tim.q (decisionAt s) then n + 2 else n + 1
    let r := w32 m.arg
    setTwn s { s.twn with resign := some (if later first r then r else first) }
  else s

/-! ### TWIN_ROLE (R341, R348, R349) -/

def roleOf (d : Desc) : Nat := bits (darg d 0) 1 0
def roleForce (d : Desc) : Bool := bitOf (darg d 0) 31

/-- TWIN_ROLE at arrival. -/
def roleArrival (s : State) (d : Desc) : Nat :=
  if !noData d || !argsZeroFrom d 1 || decide (bits (darg d 0) 30 2 ≠ 0 ∨ roleOf d = 0) then stBad
  else if !s.boot.twinEn then stState
  else stOk

/-- The third case of Table 12-9. -/
def partnerYields (s : State) : Bool :=
  s.twn.linkUp && !s.twn.partnerDriving &&
    (!s.boot.twinSide || s.twn.partnerYield || decide (s.twn.partner = 5))

/-- Table 12-9, at the close of the set; before TWN_BOOT is written no transition is taken (R395). -/
def roleAccepted (s : State) (d : Desc) : Bool :=
  s.twn.booted && match roleOf d with
  | 1 => (decide (s.twn.state = .cold) || (decide (s.twn.state = .degraded) && !s.twn.driving)) &&
      (roleForce d || evidence s || partnerYields s)
  | 2 => decide (s.twn.state = .active)
  | _ => true

/-- The driving unit resigns at the close of a set that takes it to COLD (Table 12-8). -/
def roleClosed (s : State) (d : Desc) : State :=
  if roleOf d = 3 ∧ s.twn.driving = true then sendResign s (s.hoop.fNumber + 1) else s

/-- An evidence takeover or a RESIGN makes the unit drive from this boundary. -/
def takesOver (s : State) : Bool :=
  s.twn.planned.isSome || decide (s.twn.resign = some s.hoop.fNumber)

/-- TWIN_ROLE of this unit's own set at its boundary, where the state it then has allows it (Table 12-3); RESULT0
is 1 for a handover performed, which asks only for a partner in STANDBY (R341). -/
def applyRole (s : State) (d : Desc) : Nat × State :=
  let n := s.hoop.fNumber
  match roleOf d with
  | 1 =>
    if s.twn.state = .cold ∨ (s.twn.state = .degraded ∧ s.twn.driving = false) then
      let s := enterState s .degraded true (if s.twn.state = .cold then 1 else 15)
      (0, takeoverNotice s 4 n)
    else (0, s)
  | 2 =>
    if s.twn.driving = true ∧ partnerStandby s = true then
      let s := enterState s .standby false 10
      (1, setTwn s { s.twn with activeSince := n, standbyFor := 0, closedHoop := some (n - 1), missing := 0 })
    else (0, s)
  | _ => (0, enterState s .cold false (if s.twn.state = .faulted then 14 else 13))

/-- TWIN_ROLE of the driving partner's set: a handover to this unit. -/
def applyPartnerRole (s : State) (d : Desc) : State :=
  if roleOf d = 2 ∧ s.twn.state = .standby ∧ takesOver s = false then
    let s := enterState s .active true 5
    let s := setTwn s { s.twn with activeSince := s.hoop.fNumber, partnerStands := true, missing := 0 }
    takeoverNotice s 3 s.hoop.fNumber
  else s

/-! ### The boundary -/

/-- Roles that take effect at this boundary: evidence before RESIGN (Table 12-8). -/
def boundaryRoles (s : State) : State :=
  match s.twn.planned with
  | some (st, drv, cause, why) =>
    let s := enterState (setTwn s { s.twn with planned := none }) st drv cause
    if why = 0 then s else takeoverNotice s why s.hoop.fNumber
  | none =>
    if s.twn.state = .standby ∧ s.twn.resign = some s.hoop.fNumber then
      takeoverNotice (enterState (setTwn s { s.twn with resign := none }) .degraded true 5) 2 s.hoop.fNumber
    else s

/-- A standby without CLOSE of the hoop that ended has lost its step (R326). -/
def checkClose (s : State) : State :=
  if 0 < s.twn.standbyFor ∧ s.twn.closedHoop ≠ some (s.hoop.fNumber - 1) then loseStep s else s

/-- The copy as the driving unit serves it, and the syncing unit's entry. -/
def boundaryCopy (s : State) : State :=
  if s.twn.driving then
    match s.twn.copyOut with
    | none => if decide (s.twn.partner = 1) && s.twn.linkUp then takeCopy s else s
    | some c => if c.ready && !c.entered then takeEntry s else s
  else if s.twn.state = .syncing ∧ s.twn.entryAt = some s.hoop.fNumber then enterStandby s 0
  else s

/-- What TWN does in the FCLK-side boundary cycle, once sets have been applied. A hoop more of the sampler pass
begins. -/
def twinBoundary (s : State) : State :=
  let s := setTwn s { s.twn with passHoops := min (s.twn.passHoops + 1) 16 }
  if s.boot.twinEn then
    let s := missingDigest (checkClose s) (s.hoop.fNumber - 2)
    let s := boundaryCopy (boundaryRoles s)
    setTwn s { s.twn with
      marksLast := s.twn.marksNow, marksNow := false, linkedLast := s.twn.linkedNow
      linkedNow := (List.range 32).filter (portUp s)
      syncFrom := if s.twn.state = .syncing ∧ s.twn.syncFrom = none then some s.tim.cyc else s.twn.syncFrom
      standbyFor := if s.twn.state = .standby then s.twn.standbyFor + 1 else 0 }
  else s

/-- Every handle that the run reads is current (R329). -/
def runIsCurrent (s : State) : Bool :=
  (enabledLayers s.cfg).all fun l =>
    match feedOf s l with
    | some x => s.twn.current.contains x.1
    | none => true

/-- CURRENT of the run that begins. -/
def noteCurrent (s : State) : State :=
  if s.boot.twinEn then
    let c := runIsCurrent s
    setTwn s { s.twn with runCurrent := c, currentRuns := ((s.hoop.fNumber, c) :: s.twn.currentRuns).take 4 }
  else s

/-- After the ingest deadline: PUBLISHes of this hoop count, and sessions with a new offer are current. -/
def afterDeadline (before s : State) : State :=
  let h := s.hoop.fNumber
  let due := s.twn.publishes.filter fun x => !later h x.1
  let s := setTwn s { s.twn with frozenIn := some h, publishes := s.twn.publishes.filter fun x => later h x.1 }
  let s := due.foldl (fun s x => publish s x.2) s
  if s.boot.twinEn && !s.twn.driving then
    (enabledSessions s.cfg).foldl (fun s k =>
      if (sessOf s k).offer ≠ (sessOf before k).offer ∧ (sessOf s k).offer.isSome = true then
        (sessHandles s.cfg k).foldl (fun s n => setCurrent s n true) s
      else s) s
  else s

/-! ### Meanings -/

/-- TWIN_STATUS_RX (R320). -/
def execTwinStatusRx (p : Nat) (frame : List Byte) (s : State) : Host.Outcome State Fault Refusal :=
  done (onTwin s p 1 frame statusMsg)
/-- TWIN_DIGEST_RX (R332). -/
def execTwinDigestRx (p : Nat) (frame : List Byte) (s : State) : Host.Outcome State Fault Refusal :=
  done (onTwin s p 2 frame digestMsg)
/-- TWIN_LIVE_RX (R327). -/
def execTwinLiveRx (p : Nat) (frame : List Byte) (s : State) : Host.Outcome State Fault Refusal :=
  done (onTwin s p 5 frame liveMsg)
/-- TWIN_RESIGN_RX (R340). -/
def execTwinResignRx (p : Nat) (frame : List Byte) (s : State) : Host.Outcome State Fault Refusal :=
  done (onTwin s p 7 frame resignMsg)
/-- LIVE_APPLY (R327). -/
def execLiveApply (s : State) : Host.Outcome State Fault Refusal := done (liveApply s)
/-- DECISION_POINT (R338). -/
def execDecisionPoint (s : State) : Host.Outcome State Fault Refusal := done (decisionPoint s)
/-- SAMPLER_PASS_END (R336). -/
def execSamplerPassEnd (part : Nat) (s : State) : Host.Outcome State Fault Refusal := done (samplerEnd s part)
/-- EGRESS_DEADLINE (R265). -/
def execEgressDeadline (s : State) : Host.Outcome State Fault Refusal := done (runDeadline s)

end Sys2Proof.Machine
end

