-- ==== Sys2Proof/Machine/Boot.lean ====
section
/-! DEFINITION. Machine/Boot.lean: firmware images, the reset sequence, the boot window, and the
squelch with its staggered bring-up (chapter 14). -/
namespace Sys2Proof.Machine

def setBoot (s : State) (b : Boot) : State := { s with boot := b }

/-! ### Firmware images (R387 to R389) -/

/-- A section: target, destination, length, and where its bytes start in the image. -/
structure Section where
  target : Nat
  dest : Nat
  len : Nat
  start : Nat

/-- The section table of an image. -/
def sections (b : List Byte) : List Section :=
  ((List.range (byteAt b 3)).foldl (fun (acc : List Section × Nat) i =>
    let o := 64 + 16 * i
    let n := le b (o + 8) 4
    (acc.1 ++ [⟨byteAt b o, le b (o + 4) 4, n, acc.2⟩], acc.2 + n)) ([], 320)).1

/-- Size of a section target (Table 14-5); 0 where it is not listed. -/
def targetSize (t : Nat) : Nat :=
  if t ≤ 8 then 262144 else if 0x10 ≤ t ∧ t ≤ 0x17 then 131072 else if t = 0x20 then 8388608 else 0

/-- Two sections write the same byte. -/
def overlaps (a b : Section) : Bool :=
  let same := decide (a.target = b.target) || (decide (a.target = 8) && decide (b.target ≤ 8)) ||
    (decide (b.target = 8) && decide (a.target ≤ 8))
  same && decide (a.dest < b.dest + b.len ∧ b.dest < a.dest + a.len)

def anyOverlap : List Section → Bool
  | [] => false
  | x :: xs => xs.any (overlaps x) || anyOverlap xs

def imageSize (b : List Byte) : Nat := le b 8 4
def imageVersion (b : List Byte) : Nat := le b 4 4
def imageEntry (b : List Byte) : Nat := le b 16 4

/-- A field of the header or section table breaks Table 14-4. -/
def headerBad (b : List Byte) : Bool :=
  let n := byteAt b 3
  let secs := sections b
  decide (le b 0 2 ≠ 0xA31F ∨ byteAt b 2 ≠ 1 ∨ n = 0 ∨ 16 < n ∨ 4 ≤ byteAt b 12 ∨ 4 ≤ byteAt b 13 ∨ le b 14 2 ≠ 0 ∨
      imageEntry b % 2 = 1 ∨ 0x40000 ≤ imageEntry b ∨ imageSize b ≠ 384 + sumNat (secs.map (·.len))) ||
    !zeroRange b 20 44 || !zeroRange b (64 + 16 * n) (16 * (16 - n)) ||
    (List.range n).any fun i =>
      let o := 64 + 16 * i
      !zeroRange b (o + 1) 3 || !zeroRange b (o + 12) 4 ||
        decide (le b (o + 4) 4 % 4 ≠ 0 ∨ le b (o + 8) 4 % 4 ≠ 0 ∨ le b (o + 8) 4 < 4)

/-- The checks of R388 on the first 320 bytes, in a unit strapped to `mode`: ERR, 0 where they pass. -/
def headerErr (mode : Nat) (b : List Byte) : Nat :=
  let secs := sections b
  if headerBad b || decide (11534720 < imageSize b) ||
      (secs.any fun x => decide (targetSize x.target < x.dest + x.len)) || anyOverlap secs then 1
  else if !bitOf (byteAt b 12) 1 then 2
  else if bitOf (byteAt b 13) 0 ≠ decide (mode = 1) ∨ bitOf (byteAt b 13) 1 ≠ decide (mode = 2) then 8
  else 0

/-- Verification of a whole image under `key`, none where the 9640 is not keyed (R389). A key that
tamper has erased verifies nothing. -/
def imageErr (key : Option (List Byte)) (b : List Byte) : Nat :=
  let n := imageSize b
  if le b (n - 64) 4 ≠ crc32 (b.take (n - 64)) then 6
  else match key with
    | some k => if k = [] ∨ slice b (n - 32) 32 ≠ hmac k (b.take (n - 32)) then 7 else 0
    | none => 0

/-- Key slot 0 has a record in the keep. -/
def keyed (s : State) : Bool := (recordOfSlot s 0).isSome
/-- The IMAGE key. -/
def imageKeyNow (s : State) : List Byte := engineKey s 0 2
/-- The key that a verification latches. -/
def latchKey (s : State) : Option (List Byte) := if keyed s then some (imageKeyNow s) else none
/-- LOCKED: keyed, but slot 0 cannot be used. -/
def imageLocked (s : State) : Bool := keyed s && decide (imageKeyNow s = [])

/-! ### Core memories -/

/-- Bytes written at `dest` of a section target. -/
def writeTarget (s : State) (t dest : Nat) (bs : List Byte) : State :=
  let z : Nat → Byte := fun _ => 0
  let c := s.ccs
  if t < 8 then { s with ccs := { c with imem := tputList z c.imem (0x40000 * t + dest) bs } }
  else if t = 8 then
    { s with ccs := { c with imem := (List.range 8).foldl (fun m k => tputList z m (0x40000 * k + dest) bs) c.imem } }
  else if t = 0x20 then { s with ccs := { c with shared := tputList z c.shared dest bs } }
  else { s with ccs := { c with dmem := tputList z c.dmem (0x20000 * (t - 0x10) + dest) bs } }

/-- The section bytes among image bytes `lo` to `hi` − 1 go to their memories. -/
def writeSections (s : State) (b : List Byte) (lo hi : Nat) : State :=
  (sections b).foldl (fun s x =>
    let a := max lo x.start
    let z := min hi (x.start + x.len)
    if a < z then writeTarget s x.target (x.dest + (a - x.start)) (slice b a (z - a)) else s) s

/-- Every core memory cleared to zero. -/
def clearCores (s : State) : State := { s with ccs := { s.ccs with imem := [], dmem := [], shared := [] } }

/-- Thread 0 is set up and started (R392). -/
def startFirmware (s : State) (entry : Nat) : State :=
  let tcb := leBytes 4 entry ++ List.replicate 124 (0 : Byte)
  let s := { s with ccs := { s.ccs with tcb := tputList (fun _ => 0) s.ccs.tcb 0 tcb } }
  startThread (setReg s (CCS_THR_CTRL 0) 0x001FFF00) 0

/-! ### The reset sequence (Table 14-2) -/

/-- Every rail is in range. -/
def railsOk (s : State) : Bool := decide (s.psm.inRange = 0x1FF)

/-- RESET_N is high with every rail in range: PSM starts the count. -/
def resetDeassert (s : State) : State :=
  if railsOk s && decide (s.boot.step = .held) then setBoot s { s.boot with step := .counting } else s

/-- Step 2: the internal reset is released and the straps are sampled. -/
def resetRelease (s : State) (twinEn twinSide : Bool) (mode : Nat) : State :=
  if railsOk s && decide (s.boot.step = .counting) then
    setBoot s { s.boot with step := .released, twinEn := twinEn, twinSide := twinSide
                            mode := if mode % 4 = 3 then 0 else mode % 4 }
  else s

/-- Step 3: the PLLs are locked; device time runs from 0, and BOOT owns check-value unit 0. -/
def pllLock (s : State) : State :=
  if s.boot.step = .released then
    let s := setTim (setBoot s { s.boot with step := .locked }) { s.tim with running := true }
    setCvu s 0 { cvuOf s 0 with owner := some 0x1FF }
  else s

/-- Step 4: the key records are loaded; BOOT enters WAIT, or LOCKED under R389. -/
def keysLoaded (s : State) : State :=
  if resetReleased s && decide (s.boot.state = .init) then
    let s := loadKeys s
    setBoot s { s.boot with state := if imageLocked s then .locked else .wait }
  else s

/-- Step 5: package memory is ready. -/
def memReady (s : State) : State :=
  if resetReleased s then flushLost (setBoot s { s.boot with memReady := true }) else s

/-! ### The boot window (R390 to R392) -/

def bootErr (s : State) (e : Nat) : State := setBoot s { s.boot with err := e }
/-- The download fails with ERR `e`. -/
def bootFail (s : State) (e : Nat) : State :=
  setBoot s { s.boot with state := .failed, err := e, busy := false, pushing := none }

/-- BEGIN. -/
def bootBegin (s : State) : State :=
  let b := s.boot
  if b.busy then s
  else match b.state with
    | .init => bootErr s 12
    | .loading => bootErr s 12
    | .running => bootErr s 12
    | _ =>
      if imageLocked s then setBoot s { b with state := .locked, err := 10 }
      else setBoot s { b with state := .loading, busy := true, err := 0, image := [], sized := false, fwVersion := 0
                              imageKey := latchKey s }

/-- The memories are clear. -/
def bootCleared (s : State) : State :=
  if decide (s.boot.state = .loading) && s.boot.busy && s.boot.pushing.isNone then
    setBoot (clearCores s) { s.boot with busy := false }
  else s

/-- The whole image has been fed. -/
def imageFed (s : State) : Bool :=
  s.boot.sized && decide (s.boot.image.length = imageSize s.boot.image)

/-- PUSH; `master` is the PCIe command register's bus master enable. -/
def bootPush (s : State) (master : Bool) : State :=
  let b := s.boot
  let off := (reg s BOOT_OFFSET).toNat
  let n := regFld s BOOT_LEN 22 0
  if b.busy then s
  else if b.state ≠ .loading then bootErr s 12
  else if off ≠ b.image.length then bootErr s 3
  else if n = 0 ∨ n % 4 ≠ 0 ∨ 4194304 < n ∨ (b.sized = true ∧ imageSize b.image < off + n) then bootErr s 4
  else if !master then bootErr s 9
  else setBoot s { b with busy := true, pushing := some n }

/-- ABORT. -/
def bootAbort (s : State) : State :=
  if s.boot.busy then s
  else if s.boot.state ≠ .loading ∨ imageFed s = true then bootErr s 12
  else setBoot s { s.boot with state := .wait }

/-- A pushed block has been fed; none: its read failed. Bytes beyond the header's SIZE are not taken. -/
def bootBlock (s : State) (data : Option (List Byte)) : State :=
  match s.boot.pushing, data with
  | some _, none => bootFail s 5
  | some n, some bs =>
    let old := s.boot.image.length
    let img := s.boot.image ++ slice bs 0 n
    let known := decide (320 ≤ img.length)
    let err := if known && !s.boot.sized then headerErr s.boot.mode img else 0
    if err ≠ 0 then bootFail (setBoot s { s.boot with image := img.take 320 }) err
    else
      let img := if known then img.take (imageSize img) else img
      let s := setBoot s { s.boot with
        image := img, busy := false, pushing := none, sized := known
        fwVersion := if known then imageVersion img else 0 }
      if known then writeSections s img (if old < 320 then 320 else old) img.length else s
  | none, _ => s

/-- Verification of the whole image ends (R392). -/
def bootVerify (s : State) : State :=
  if decide (s.boot.state = .loading) && !s.boot.busy && imageFed s then
    let img := s.boot.image
    let err := imageErr s.boot.imageKey img
    if err ≠ 0 then bootFail s err
    else
      let s := setBoot (cvuFree s 0) { s.boot with state := .running, fwStarted := true }
      flushLost (startFirmware s (imageEntry img))
  else s

/-! ### Squelch and bring-up (R396, R397) -/

/-- Table 14-9. -/
def stepPorts (s : State) (k : Nat) : List Nat :=
  match k with
  | 0 => s.boot.seqPort.toList
  | 1 => if s.boot.twinEn then [36, 37] else []
  | 2 => [32, 33, 34, 35]
  | 3 => (List.range 8)
  | 4 => (List.range 8).map (· + 8)
  | 5 => (List.range 8).map (· + 16)
  | _ => (List.range 8).map (· + 24)

def insertPort (p : Nat) : List Nat → List Nat
  | [] => [p]
  | x :: xs => if p < x then p :: x :: xs else if p = x then x :: xs else x :: insertPort p xs

/-- The squelch of port `p` lifts: EN governs from now on. -/
def liftPort (s : State) (p : Nat) : State :=
  let s := setBoot s { s.boot with lifted := insertPort p s.boot.lifted }
  setPort s p { portOf s p with pcsAt := s.tim.cyc }

/-- Ports lifted in one step, with its notice. -/
def liftPorts (s : State) (step : Nat) (ports : List Nat) : State :=
  let fresh := ports.filter fun p => !s.boot.lifted.contains p
  notice (fresh.foldl liftPort s) 0x0201 step (sumNat (fresh.map fun p => 2 ^ p)) true true

/-- A BRING_UP kick. -/
def bringUp (s : State) : State :=
  if s.boot.seqAt.isSome || s.boot.seqOver then s
  else
    let p := regFld s TIM_MASTER_CTRL 13 8
    setBoot s { s.boot with seqAt := some s.tim.cyc
                            seqPort := if regBit s TIM_MASTER_CTRL 31 && decide (p < 38) then some p else none }

/-- ms between steps: STAGGER, 0 acts as 1. -/
def stagger (s : State) : Nat := max (regFld s BOOT_SQUELCH 7 0) 1

/-- The next step of the sequence. -/
def bringUpStep (s : State) : State :=
  match s.boot.seqAt with
  | some t =>
    let k := s.boot.stepsDone
    let s := runToCycle (t + k * stagger s * 250000) s
    let s := liftPorts s k (stepPorts s k)
    setBoot s { s.boot with stepsDone := k + 1, seqAt := if k = 6 then none else some t, seqOver := decide (k = 6) }
  | none => s

/-- HOLD = 0: every port still squelched lifts at once, and the sequence ends. -/
def holdClear (s : State) : State :=
  let s := setBoot s { s.boot with seqAt := none, seqOver := true }
  liftPorts s 7 (List.range 38)

/-- A write of BOOT_SQUELCH: HOLD, then the BRING_UP kick. -/
def squelchWrite (s : State) (v : Word) : State :=
  let was := regBit s BOOT_SQUELCH 31
  let s := plainWrite s BOOT_SQUELCH v
  let s := if was && !bitW v 31 then holdClear s else s
  if bitW v 30 then bringUp s else s

/-- A write of BOOT_CTRL: BEGIN, PUSH and ABORT in that order. -/
def bootCtrlWrite (s : State) (v : Word) (master : Bool) : State :=
  let s := if bitW v 31 then bootBegin s else s
  let s := if bitW v 30 then bootPush s master else s
  if bitW v 29 then bootAbort s else s

/-! ### Meanings -/

/-- RESET_N_DEASSERT (R384). -/
def execResetNDeassert (s : State) : Host.Outcome State Fault Refusal := done (resetDeassert s)
/-- RESET_RELEASE (R384). -/
def execResetRelease (twinEn twinSide : Bool) (mode : Nat) (s : State) : Host.Outcome State Fault Refusal :=
  done (resetRelease s twinEn twinSide mode)
/-- PLL_LOCK (R384). -/
def execPllLock (s : State) : Host.Outcome State Fault Refusal := done (pllLock s)
/-- KEYS_LOADED (R433). -/
def execKeysLoaded (s : State) : Host.Outcome State Fault Refusal := done (keysLoaded s)
/-- MEM_READY (R384). -/
def execMemReady (s : State) : Host.Outcome State Fault Refusal := done (memReady s)
/-- BOOT_BEGIN (R390). -/
def execBootBegin (s : State) : Host.Outcome State Fault Refusal := done (bootBegin s)
/-- BOOT_CLEAR_DONE (R390). -/
def execBootClearDone (s : State) : Host.Outcome State Fault Refusal := done (bootCleared s)
/-- BOOT_PUSH (R391). -/
def execBootPush (master : Bool) (s : State) : Host.Outcome State Fault Refusal := done (bootPush s master)
/-- BOOT_BLOCK_DONE (R391): the block's data, or none where its read failed. -/
def execBootBlockDone (data : Option (List Byte)) (s : State) : Host.Outcome State Fault Refusal := done (bootBlock s data)
/-- BOOT_ABORT (R390). -/
def execBootAbort (s : State) : Host.Outcome State Fault Refusal := done (bootAbort s)
/-- BOOT_VERIFY_DONE (R392). -/
def execBootVerifyDone (s : State) : Host.Outcome State Fault Refusal := done (bootVerify s)
/-- BRING_UP (R397): a write of BOOT_SQUELCH with BRING_UP set. -/
def execBringUp (v : Word) (s : State) : Host.Outcome State Fault Refusal := done (squelchWrite s (v ||| 0x40000000))
/-- BRING_UP_STEP (R397). -/
def execBringUpStep (s : State) : Host.Outcome State Fault Refusal := done (bringUpStep s)
/-- SQUELCH_HOLD_CLEAR (R397): a write of BOOT_SQUELCH with HOLD = 0. -/
def execSquelchHoldClear (v : Word) (s : State) : Host.Outcome State Fault Refusal :=
  done (squelchWrite s (v &&& 0x7FFFFFFF))

end Sys2Proof.Machine
end

