-- ==== Sys2Proof/Machine/Upd.lean ====
section
/-! DEFINITION. Machine/Upd.lean: the staged image, activation and revert, and the persistent store in
the keep (chapter 15). -/
namespace Sys2Proof.Machine

def setUpd (s : State) (u : Upd) : State := { s with upd := u }
def setKeep (s : State) (k : Keep) : State := { s with keep := k }

/-! ### The staged image (R400 to R403) -/

abbrev stImageOffset : Nat := 0x58
abbrev stImageInvalid : Nat := 0x59
abbrev stSupply : Nat := 0x06

def blockBegin (d : Desc) : Bool := bitOf (darg d 1) 31

/-- The outcome that R402 gives an IMAGE_BLOCK before its data is read: status and RESULT0. -/
def blockCheck (s : State) (d : Desc) : Nat × Nat :=
  let u := s.upd
  let size := if blockBegin d then darg d 2 else u.size
  let sum := decide (size < darg d 0 + d.length)
  if !argsZeroFrom d 3 || decide (bits (darg d 1) 30 0 ≠ 0) || (!blockBegin d && decide (darg d 2 ≠ 0)) then (stBad, 0)
  else if d.length < 4 ∨ 4194304 < d.length ∨ d.length % 4 ≠ 0 ∨ (blockBegin d = true ∧ 11534720 < size) then (stLength, 0)
  else if blockBegin d then
    if sum then (stLength, 0)
    else if u.istate = .scheduled then (stState, 0)
    else if darg d 0 ≠ 0 then (stLength, 0)
    else (stOk, 0)
  else if u.istate ≠ .loading then (stState, 0)
  else if sum then (stLength, 0)
  else if darg d 0 ≠ u.image.length then (stImageOffset, u.image.length)
  else (stOk, 0)

/-- An IMAGE_BLOCK is under way. -/
def blockRunning (s : State) : Bool :=
  s.hif.track.any fun t => decide (t.desc.opcode = 0x40 ∧ t.phase = .running)

/-- An IMAGE_BLOCK whose turn has come is judged and, where R402 takes it, read. -/
def judgeBlock (s : State) (t : Track) : State :=
  let (st, r0) := blockCheck s t.desc
  if st ≠ stOk then finish s t.id st r0 0 else running s t.id

/-- The IMAGE_BLOCKs that have reached UPD are served in their order, one at a time. -/
def serveBlocks : Nat → State → State
  | 0, s => s
  | n + 1, s =>
    if blockRunning s then s
    else match nextQueued s fun t => decide (t.desc.opcode = 0x40) with
      | some t => serveBlocks n (judgeBlock s t)
      | none => s

/-- The IMAGE_BLOCKs that wait for their turn are looked at. -/
def nextBlock (s : State) : State := serveBlocks s.hif.track.length s

/-- An IMAGE_BLOCK has reached UPD. -/
def startBlock (s : State) (_t : Track) : State := nextBlock s

/-- An IMAGE_BLOCK ends, and the next starts. -/
def finishBlock (s : State) (t : Track) (st r0 r1 : Nat) : State := nextBlock (finish s t.id st r0 r1)

/-- The staging area as a block's first byte is written to it: BEGIN discards what it held. -/
def blockStart (s : State) (d : Desc) : State :=
  if blockBegin d then setUpd s { s.upd with istate := .loading, image := [], size := darg d 2, fw := 0 } else s

/-- A block's read failed (R63): the image is FAILED, unless an activation of it has been scheduled since. -/
def imageBlockFailed (s : State) (t : Track) (lo hi : Nat) : State :=
  let s := if (blockCheck s t.desc).1 ≠ stOk then s
    else setUpd (blockStart s t.desc) { (blockStart s t.desc).upd with istate := .failed }
  finishBlock s t stDma lo hi

/-- A block's data, which has been read, is written to the staging area. -/
def writeBlock (s : State) (t : Track) (data : List Byte) : State :=
  let s := begin (blockStart s t.desc) t.id
  let old := s.upd.image.length
  let img := s.upd.image ++ slice data 0 t.desc.length
  let checks := decide (old < 320 ∧ 320 ≤ img.length)
  let err := if checks then headerErr s.boot.mode img else 0
  if err ≠ 0 then
    finishBlock (setUpd s { s.upd with image := img, istate := .failed, err := err }) t stImageInvalid 0 err
  else
    let u := { s.upd with image := img, fw := if checks then imageVersion img else s.upd.fw }
    finishBlock (setUpd s { u with istate := if img.length = u.size then .loaded else .loading }) t stOk 0 0

/-- A block's data has been read: it is written, where R402 still takes the block. -/
def imageBlockDone (s : State) (t : Track) (data : List Byte) : State :=
  let (st, r0) := blockCheck s t.desc
  if st ≠ stOk then finishBlock s t st r0 0 else writeBlock s t data

/-- IMAGE_VERIFY reaches UPD: it takes check-value unit 3 as soon as that is free. -/
def startVerify (s : State) (t : Track) : State :=
  if !noData t.desc || !argsZeroFrom t.desc 0 then finish s t.id stBad 0 0
  else if s.upd.istate ≠ .loaded ∨ s.upd.verifying.isSome = true then finish s t.id stState 0 0
  else
    let s := setUpd (begin s t.id) { s.upd with verifying := some t.id, verifyKey := latchKey s }
    if (cvuOf s 3).owner = none then setCvu s 3 { cvuOf s 3 with owner := some 0x1FE } else s

/-- What verification finds of the staged image: status and ERR. -/
def verifyImage (s : State) (e : EccRead) : Nat × Nat :=
  let img := s.upd.image
  let head := if img.length < 384 then 1 else headerErr s.boot.mode img
  if e = .uncorrectable then (stPoisoned, 0)
  else if head ≠ 0 then (stImageInvalid, head)
  else if imageSize img ≠ img.length then (stImageInvalid, 4)
  else
    let crc := imageErr none img
    if crc ≠ 0 then (stImageInvalid, crc)
    else if s.upd.verifyKey = some [] then (stAuth, 10)
    else if imageErr s.upd.verifyKey img ≠ 0 then (stAuth, 7)
    else (stOk, 0)

/-- IMAGE_VERIFY_COMPLETE: the whole image has been read, `e` says whether clean. -/
def verifyComplete (s : State) (e : EccRead) : State :=
  match s.upd.verifying with
  | some id =>
    if (cvuOf s 3).owner ≠ some 0x1FE then s
    else
      let s := setUpd s { s.upd with verifying := none }
      let s := cvuFree s 3
      if s.upd.istate ≠ .loaded then finish s id stState 0 0
      else
        let (st, err) := verifyImage s e
        let s := setUpd s { s.upd with istate := if st = stOk then .verified else .failed
                                       err := if st = stOk then s.upd.err else err }
        finish s id st (if st = stOk then s.upd.fw else 0) err
  | none => s

/-! ### The confirm record (R411) -/

/-- A confirm record's fields. -/
structure Confirm where
  current : Nat
  seq : Nat
  curGen : Nat
  resvGen : Nat
  curFw : Nat

def confirmCopy (s : State) (c : Nat) : List Byte := sectorRead s (256 + c) 0 64
def confirmOk (b : List Byte) : Bool := decide (le b 0 2 = 0xA3C9 ∧ le b 60 4 = crc32 (b.take 60))

/-- The confirm copy that stands. -/
def confirmStanding (s : State) : Option Nat :=
  let a := confirmCopy s 0
  let b := confirmCopy s 1
  if confirmOk a then
    if confirmOk b && later (w32 (le a 4 4)) (w32 (le b 4 4)) then some 1 else some 0
  else if confirmOk b then some 1
  else none

/-- The record that stands; all zero where none does. -/
def confirmNow (s : State) : Confirm :=
  match confirmStanding s with
  | some c =>
    let b := confirmCopy s c
    ⟨byteAt b 2, le b 4 4, le b 8 4, le b 12 4, le b 16 4⟩
  | none => ⟨0, 0, 0, 0, 0⟩

def confirmBytes (c : Confirm) : List Byte :=
  let b := leBytes 2 0xA3C9 ++ leBytes 1 c.current ++ [0] ++ leBytes 4 c.seq ++ leBytes 4 c.curGen ++
    leBytes 4 c.resvGen ++ leBytes 4 c.curFw ++ List.replicate 40 0
  b ++ keepCrc b

/-- The copy that a write erases and programs. -/
def confirmTarget (s : State) : Nat := if confirmStanding s = some 0 then 1 else 0

/-! ### Records (R412) -/

/-- A trial runs. -/
def trialOn (s : State) : Bool := s.upd.trial.isSome
def writeBank (s : State) : Nat := if trialOn s then 1 - (confirmNow s).current else (confirmNow s).current
def writeGen (s : State) : Nat := if trialOn s then (confirmNow s).resvGen else (confirmNow s).curGen

/-- The keep sector of record slot `r` of bank `k`. -/
def slotSector (k r : Nat) : Nat := 512 + 4096 * k + r

/-- A record's slot as it is programmed. -/
def recordBytes' (gen r : Nat) (payload : List Byte) : List Byte :=
  let h := leBytes 4 gen ++ leBytes 2 r ++ leBytes 2 payload.length
  h ++ leBytes 4 (crc32 (h ++ payload)) ++ List.replicate 20 0 ++ payload

/-- Record `r` of bank `k` at generation `gen`: its payload, or the status of a read that has none. -/
def readRecord (s : State) (k gen r : Nat) : Except Nat (List Byte) :=
  let b := sectorRead s (slotSector k r) 0 4096
  let n := le b 6 2
  if le b 0 4 ≠ gen ∨ le b 4 2 ≠ r ∨ n = 0 then .error stNotFound
  else if 4064 < n ∨ le b 8 4 ≠ crc32 (b.take 8 ++ slice b 32 n) then .error stPoisoned
  else .ok (slice b 32 n)

/-! ### The journal (R414) -/

def journalAt (s : State) (i : Nat) : Option Journal := tget (fun _ => none) s.keep.journal i
def putJournal (s : State) (i : Nat) (j : Option Journal) : State :=
  setKeep s { s.keep with journal := tput (fun _ => none) s.keep.journal i j }

/-- The journal sector with the latest JSEQ: its number and content. -/
def latestJournal (s : State) : Option (Nat × Journal) :=
  (List.range 32).foldl (fun b i =>
    match journalAt s i, b with
    | some j, none => some (i, j)
    | some j, some x => if later x.2.jseq j.jseq then some (i, j) else some x
    | none, _ => b) none

/-- The sector that the next write takes, and its JSEQ. -/
def nextJournal (s : State) : Nat × Word :=
  match latestJournal s with
  | some (i, j) => ((i + 1) % 32, j.jseq + 1)
  | none => (0, 1)

/-- The latest journal entry has not been carried out. -/
def journalDue (s : State) : Option (Nat × Journal) :=
  match latestJournal s with
  | some (i, j) => if j.isDone then none else some (i, j)
  | none => none

/-! ### Requests (R413 to R417) -/

/-- A request's outcome: a descriptor's completion, or UPD_FW_STAT and STORE_DONE. -/
def storeOutcome (s : State) (j : StoreJob) (st r0 : Nat) : State :=
  match j.user with
  | .host id => finish s id st r0 0
  | .firmware =>
    let s := setUpd s { s.upd with fwBusy := false, fwStatus := st
                                   fwLength := if j.kind = .read then r0 else s.upd.fwLength }
    notice s 0x1104 0 (st + j.record * 2 ^ 16) false true
  | .upd => s

/-- The record that a job of the confirm kind writes. -/
def confirmNext (s : State) (kind : StoreKind) : Confirm :=
  let c := confirmNow s
  let seq := (c.seq + 1) % 2 ^ 32
  match kind with
  | .reserve => { c with seq := seq, resvGen := (c.resvGen + 1) % 2 ^ 32 }
  | .confirm => ⟨writeBank s, seq, c.resvGen, c.resvGen, (s.upd.trial.map (·.fw)).getD c.curFw⟩
  | _ =>
    let g := (c.resvGen + 1) % 2 ^ 32
    ⟨1 - c.current, seq, g, g, c.curFw⟩

/-- The target hoop of BY_TIME: the first boundary whose device time is at or after the time given (R405). -/
def timeTarget (s : State) (sec nsq : Nat) : Hoop :=
  let span : Int := 2 ^ 32
  let now : Int := s.tim.sec
  let d : Int := (sec - now + span / 2) % span - span / 2
  let t : Int := (now + d) * 4000000000 + nsq
  let ahead := distQ s.hoop.bNext t
  let n : Int := max (periodNum s) 1
  BitVec.ofInt 32 ((s.hoop.number.toNat : Int) + 1 + (ahead * periodDen s + n - 1) / n)

/-- The reservation is written: the activation is scheduled and joins its window (R404, R405), unless
another has been scheduled or the image has been replaced meanwhile. -/
def schedule (s : State) (id : Nat) : State :=
  match findTrack s id with
  | some t =>
    if t.phase.finished || t.orphan then s
    else if s.upd.istate ≠ .verified then finish s id stState 0 0
    else
      let a := darg t.desc 0
      let d := if bitOf a 31 then
          { t.desc with flags := t.desc.flags + 1, target := timeTarget s (darg t.desc 1) (darg t.desc 2) }
        else t.desc
      let secs := if bits a 11 0 = 0 then max (regFld s UPD_CTRL 11 0) 1 else bits a 11 0
      let s := setUpd s { s.upd with istate := .scheduled, act := some ⟨id, secs, s.upd.fw, none⟩ }
      joinTrack (modTrack s id fun t => { t with desc := d }) id
  | none => s

/-- The trial is confirmed. -/
def confirmed (s : State) : State :=
  let s := setUpd s { s.upd with trial := none, fallback := none }
  let c := confirmNow s
  noticeBoth s 0x1103 0 (c.curFw + c.curGen * 2 ^ 32)

/-- A job with every step done. -/
def jobDone (s : State) (j : StoreJob) : State :=
  match j.kind with
  | .reserve => match j.user with | .host id => schedule s id | _ => s
  | .confirm => confirmed (storeOutcome s j stOk 0)
  | .format => storeOutcome s j stOk 0
  | .write => storeOutcome s j stOk j.length
  | .read => s

/-- The head request is removed. -/
def popJob (s : State) : State := setUpd s { s.upd with jobs := s.upd.jobs.drop 1 }
def setJob (s : State) (j : StoreJob) : State := setUpd s { s.upd with jobs := j :: s.upd.jobs.drop 1 }

/-- What a read of record `r` finds: the value of a journal entry that stands but has not been carried
out (R417), else what the slot holds. -/
def recordNow (s : State) (k gen r : Nat) : Except Nat (List Byte) :=
  match journalDue s with
  | some (_, x) =>
    if x.bank = k ∧ x.gen = gen ∧ x.record = r then
      if x.payload = [] then .error stNotFound else .ok x.payload
    else readRecord s k gen r
  | none => readRecord s k gen r

/-- The head request, a read, is served: it ends at once, but a host's stays at the head while its record is
written to host memory, its point of no return passed (Table 2-11). -/
def serveRead (s : State) (j : StoreJob) : State :=
  let c := confirmNow s
  let (k, g) := if j.current then (c.current, c.curGen) else (writeBank s, writeGen s)
  match recordNow s k g j.record with
  | .error st => storeOutcome (popJob s) j st 0
  | .ok bs =>
    match j.user with
    | .host id => begin (setJob s { j with started := true, data := bs }) id
    | _ => storeOutcome (sharedWrite (popJob s) (reg s UPD_FW_ADDR).toNat (bs.take (min j.length bs.length))) j stOk bs.length

/-- A write starts: the first erase of the keep is its point of no return (Table 2-11). -/
def startJob (s : State) (j : StoreJob) : State :=
  let s := setJob s { j with started := true, bank := writeBank s, gen := writeGen s }
  match j.kind, j.user with
  | .write, .host id => begin s id
  | .format, .host id => begin s id
  | _, _ => s

/-- A confirm write that PSM refuses: the window it had stopped runs on. -/
def resumeWindow (s : State) : State := setUpd s { s.upd with trial := s.upd.trial.map fun t => { t with stopped := false } }

/-- The head request ends without its steps: REFUSED_SUPPLY. -/
def refuseSupply (s : State) (j : StoreJob) (r0 : Nat) : State :=
  let s := if j.kind = .confirm then resumeWindow s else s
  storeOutcome (popJob s) j stSupply r0

/-- Requests are served one at a time, in arrival order; store requests wait for STORE_READY. -/
def serveJobs : Nat → State → State
  | 0, s => s
  | n + 1, s =>
    match s.upd.jobs with
    | j :: _ =>
      let free := decide (j.kind = .reserve ∨ j.kind = .confirm)
      if j.started || !(free || s.upd.storeReady) then s
      else if j.kind = .read then serveJobs n (serveRead s j)
      else if !s.psm.writeOk then serveJobs n (refuseSupply s j 0)
      else startJob s j
    | [] => s

/-- The requests that wait are looked at again. -/
def serve (s : State) : State := serveJobs s.upd.jobs.length s

/-- The record of a STORE_READ has been written to host memory, or that failed at an address. -/
def storeReadDone (s : State) (t : Track) (failed : Option (Nat × Nat)) : State :=
  match s.upd.jobs with
  | j :: _ =>
    let s := popJob s
    serve (match failed with
      | some (lo, hi) => finish s t.id stDma lo hi
      | none => storeOutcome { s with out := s.out ++ [.data t.desc.hostAddr (j.data.take (min j.length j.data.length))] }
          j stOk j.data.length)
  | [] => s

/-- The record of entry `t`, a STORE_READ, is being written to host memory. -/
def readUnderWay (s : State) (t : Track) : Bool :=
  match s.upd.jobs with
  | j :: _ => j.started && decide (j.kind = .read ∧ j.user = .host t.id)
  | [] => false

/-- Requests of descriptors that ended before their requests started are removed. -/
def settleJobs (s : State) : State :=
  serve (setUpd s { s.upd with jobs := s.upd.jobs.filter fun j => j.started || match j.user with
    | .host id => match findTrack s id with
      | some t => !t.phase.settled
      | none => false
    | _ => true })

/-- A request joins the queue. -/
def submit (s : State) (j : StoreJob) : State := serve (setUpd s { s.upd with jobs := s.upd.jobs ++ [j] })

/-- Keep steps of a request. -/
def jobSteps (k : StoreKind) : Nat := match k with | .write => 5 | .read => 0 | _ => 2

/-- Keep step `i` of a request takes effect. -/
def doStep (s : State) (j : StoreJob) (i : Nat) : State :=
  if j.kind = .write then
    let (at_, q) := nextJournal s
    match i with
    | 0 => setKeep (putJournal s at_ none) { (putJournal s at_ none).keep with wear := s.keep.wear + 1 }
    | 1 => putJournal s at_ (some ⟨q, j.bank, j.gen, j.record, j.data, false⟩)
    | 2 => programSector s (slotSector j.bank j.record) []
    | 3 => programSector s (slotSector j.bank j.record) (recordBytes' j.gen j.record j.data)
    | _ => match latestJournal s with
      | some (k, x) => putJournal s k (some { x with isDone := true })
      | none => s
  else if i = 0 then programSector s (256 + confirmTarget s) []
  else programSector s (256 + confirmTarget s) (confirmBytes (confirmNext s j.kind))

/-- SUPPLY_WAIT. -/
def supplyWait (s : State) (on : Bool) : State := noticeBoth s 0x1106 0 (b2n on)

/-- A keep step of the head request finishes; the next asks for permission (R417). -/
def storeStep (s : State) : State :=
  match s.upd.jobs with
  | j :: _ =>
    if !j.started || j.waiting.isSome || decide (j.kind = .read) then s
    else
      let s := doStep s j j.steps
      let j := { j with steps := j.steps + 1 }
      if jobSteps j.kind ≤ j.steps then serve (jobDone (popJob s) j)
      else if s.psm.writeOk then setJob s j
      else supplyWait (setJob s { j with waiting := some s.tim.cyc }) true
  | [] => s

/-- A journal entry whose request has ended is carried out once permission is there. -/
def repairLater (s : State) : State :=
  match journalDue s with
  | some (_, x) =>
    if s.upd.jobs.any fun j => decide (j.kind = .write) && j.started then s
    else
      let new : StoreJob := ⟨.write, .upd, x.record, false, x.payload.length, x.payload, 2, true, x.bank, x.gen, none⟩
      let (now, later) := s.upd.jobs.partition fun j => j.started
      setUpd s { s.upd with jobs := now ++ new :: later }
  | none => s

/-- Write permission has returned. -/
def storeResume (s : State) : State :=
  match s.upd.jobs with
  | j :: _ =>
    if j.waiting.isSome then supplyWait (setJob s { j with waiting := none }) false
    else if s.upd.storeReady then serve (repairLater s) else s
  | [] => if s.upd.storeReady then repairLater s else s

/-- Permission has not returned within 1 s. -/
def storeTimeout (s : State) : State :=
  match s.upd.jobs with
  | j :: _ =>
    match j.waiting with
    | some t =>
      let s := supplyWait (runToCycle (t + secondCycles) s) false
      serve (refuseSupply s j (if j.kind = .write ∧ 2 ≤ j.steps then 1 else 0))
    | none => s
  | [] => s

/-- After a device reset the journal entry that was not carried out is, and the store is ready (R414). -/
def storeRepair (s : State) : State :=
  if !s.key.loaded || s.upd.storeReady then s
  else
    let ready := fun (s : State) => serve (setUpd s { s.upd with storeReady := true })
    match journalDue s with
    | some (i, x) =>
      if !s.psm.writeOk then s
      else
        let s := programSector s (slotSector x.bank x.record) (recordBytes' x.gen x.record x.payload)
        ready (noticeBoth (putJournal s i (some { x with isDone := true })) 0x1105 0 (x.record + x.bank * 2 ^ 16))
    | none => ready s

/-! ### Store descriptors and firmware requests (R413, R415, R416) -/

def storeFormat (d : Desc) : Bool := bitOf (darg d 0) 31

/-- STORE_WRITE reaches UPD. A request of data length 0 needs no host read. -/
def startStoreWrite (s : State) (t : Track) : State :=
  let d := t.desc
  let job := fun (k : StoreKind) => StoreJob.mk k (.host t.id) d.object false d.length [] 0 false 0 0 none
  if !argsZeroFrom d 1 || decide (bits (darg d 0) 30 0 ≠ 0) then finish s t.id stBad 0 0
  else if s.boot.mode = 2 then finish s t.id stState 0 0
  else if storeFormat d then
    if s.boot.mode ≠ 1 ∨ d.object ≠ 0 ∨ d.length ≠ 0 ∨ d.hostAddr ≠ 0 then finish s t.id stBad 0 0
    else submit (running s t.id) (job .format)
  else if 4064 < d.length then finish s t.id stLength 0 0
  else if d.length = 0 then submit (running s t.id) (job .write)
  else running s t.id

/-- STORE_WRITE's data has been read. -/
def storeWriteRead (s : State) (t : Track) (data : List Byte) : State :=
  submit s ⟨.write, .host t.id, t.desc.object, false, t.desc.length, slice data 0 t.desc.length, 0, false, 0, 0, none⟩

/-- STORE_READ reaches UPD. -/
def startStoreRead (s : State) (t : Track) : State :=
  let d := t.desc
  if !argsZeroFrom d 1 || decide (2 ≤ darg d 0) then finish s t.id stBad 0 0
  else if d.length < 4 ∨ 4064 < d.length then finish s t.id stLength 0 0
  else submit (running s t.id) ⟨.read, .host t.id, d.object, bitOf (darg d 0) 0, d.length, [], 0, false, 0, 0, none⟩

/-- A WRITE or READ kick of UPD_FW_CMD. -/
def fwStore (s : State) (write : Bool) : State :=
  let n := regFld s UPD_FW_CMD 23 12
  let r := regFld s UPD_FW_CMD 11 0
  let a := (reg s UPD_FW_ADDR).toNat
  let job := StoreJob.mk (if write then .write else .read) .firmware r (regBit s UPD_FW_CMD 29) n
    (if write then sharedRead s a n else []) 0 false 0 0 none
  let s' := setUpd s { s.upd with fwBusy := true }
  if s.upd.fwBusy || !inShared a n then s
  else if write && decide (s.boot.mode = 2) then storeOutcome s' job stState 0
  else if 4064 < n ∨ (write = false ∧ n < 4) then storeOutcome s' job stLength 0
  else submit s' job

/-- A write of UPD_FW_CMD: the fields, then WRITE, then READ. -/
def fwCmdWrite (s : State) (v : Word) : State :=
  let s := if s.upd.fwBusy then s else plainWrite s UPD_FW_CMD v
  let s := if bitW v 31 then fwStore s true else s
  if bitW v 30 then fwStore s false else s

/-! ### Activation and revert (R404 to R409) -/

/-- IMAGE_ACTIVATE reaches UPD: its checks, then the reservation. -/
def startActivate (s : State) (t : Track) : State :=
  let d := t.desc
  let a := darg d 0
  let byTime := bitOf a 31
  if !noData d || !argsZeroFrom d 3 || decide (bits a 30 12 ≠ 0) || (byTime && Desc.atHoop d) ||
      (!byTime && decide (darg d 1 ≠ 0 ∨ darg d 2 ≠ 0)) || (byTime && decide (4000000000 ≤ darg d 2)) then
    finish s t.id stBad 0 0
  else if s.upd.istate ≠ .verified ∨ trialOn s = true ∨ s.boot.mode ≠ 0 then finish s t.id stState 0 0
  else submit (running s t.id) ⟨.reserve, .host t.id, 0, false, 0, [], 0, false, 0, 0, none⟩

/-- A scheduled activation whose descriptor has ended leaves the image VERIFIED (Table 15-1). -/
def settleAct (s : State) : State :=
  match s.upd.act with
  | some a =>
    let gone := match findTrack s a.track with
      | some t => t.phase.finished
      | none => true
    if a.hoop.isNone && gone then setUpd s { s.upd with act := none, istate := .verified } else s
  | none => s

/-- Every thread that is not DORMANT is halted; the watchdogs restart and count no further. -/
def haltThreads (s : State) : State :=
  let s := (List.range 256).foldl haltThread s
  (List.range 8).foldl (fun s c => setCore s c { coreOf s c with wdog := s.tim.cyc }) s

def threadsIn (s : State) (p : ThreadState → Bool) : List Nat :=
  (s.ccs.threads.filter fun x => p x.2.state).map (·.1)

/-- The activation takes effect at boundary b: step 1 of Table 15-2. -/
def activateAt (s : State) (b : Hoop) : State :=
  match s.upd.act with
  | some a =>
    let live := threadsIn s fun x => decide (x = .ready ∨ x = .running ∨ x = .waiting)
    let halted := threadsIn s fun x => decide (x = .halted)
    let bases := (List.range 38).map fun p => (p, reg s (MAC_FW_RX_BASE p))
    let s := haltThreads s
    let s := (List.range 38).foldl (fun s p => setReg s (MAC_FW_RX_BASE p) 0) s
    setUpd s { s.upd with
      act := some { a with hoop := some b }, actHoop := b
      fallback := some ⟨[], [], [], [], [], live, halted, bases⟩ }
  | none => s

/-- A register of a thread, its offset in the thread's 16 bytes below `n`. -/
def threadReg (n a : Nat) : Bool := decide (CCS_THR_CTRL 0 ≤ a ∧ a < CCS_THR_CTRL 256 ∧ a % 16 < n)
/-- The CCS_THR_CTRL and CCS_THR_EV registers. -/
def threadRegs (s : State) : Table Word := s.regs.filter fun x => threadReg 8 x.1
/-- Thread registers at their reset values: all of them, or with `n` = 8 CCS_THR_CTRL and CCS_THR_EV. -/
def withoutThreadRegs (s : State) (n : Nat) : State := { s with regs := s.regs.filter fun x => !threadReg n x.1 }

/-- Check-value units owned by threads are released. -/
def freeUnits (s : State) : State :=
  (List.range 4).foldl (fun s u => match (cvuOf s u).owner with
    | some t => if t < 256 then cvuFree s u else s
    | none => s) s

/-- No thread, no ready list and no staged packet is left. -/
def clearThreads (s : State) : State :=
  { s with ccs := { s.ccs with
      threads := [], readyLists := [], staged := []
      cores := tmap (fun _ => CoreUnit.reset) s.ccs.cores fun c => { c with thread := none } } }

/-- Steps 2 to 5 of Table 15-2. -/
def activationDone (s : State) : State :=
  match s.upd.act with
  | some a =>
    match a.hoop with
    | some b =>
      let img := s.upd.image
      let c := s.ccs
      let fb := s.upd.fallback.map fun f =>
        { f with imem := c.imem, dmem := c.dmem, shared := c.shared, tcb := c.tcb, regs := threadRegs s }
      let s := writeSections (clearCores s) img 320 img.length
      let s := freeUnits (clearThreads (withoutThreadRegs { s with ccs := { s.ccs with tcb := [] } } 16))
      let s := setUpd s { s.upd with
        istate := .empty, image := [], size := 0, act := none, fallback := fb
        trial := some ⟨s.tim.cyc, a.secs, false, a.fw⟩ }
      let s := startFirmware s (imageEntry img)
      let s := (List.range 8).foldl (fun s k => setCore s k { coreOf s k with wdog := s.tim.cyc }) s
      let s := noticeBoth s 0x1101 0 (a.fw + b.toNat * 2 ^ 32)
      finishAt s a.track (okStatus s a.track) a.fw 0 b
    | none => s
  | none => s

/-- UPD begins a revert: every thread halts. -/
def startRevert (s : State) (why : Nat) : State :=
  if trialOn s && s.upd.reverting.isNone then haltThreads (setUpd s { s.upd with reverting := some why }) else s

/-- The confirm window elapses. -/
def confirmExpiry (s : State) : State :=
  match s.upd.trial with
  | some t => if t.stopped then s else startRevert (runToCycle (t.start + t.secs * secondCycles) s) 1
  | none => s

/-- The fallback copy is back in place (R409). -/
def revertDone (s : State) : State :=
  match s.upd.reverting, s.upd.fallback with
  | some why, some f =>
    let s := { s with ccs := { s.ccs with imem := f.imem, dmem := f.dmem, shared := f.shared, tcb := f.tcb } }
    let s := freeUnits (clearThreads (withoutThreadRegs s 8))
    let s := f.regs.foldl (fun s x => setReg s x.1 x.2) s
    let s := f.rxBase.foldl (fun s x => setReg s (MAC_FW_RX_BASE x.1) x.2) s
    let s := f.halted.foldl (fun s t => setThread s t { Thread.reset with state := .halted }) s
    let s := dispatch (f.live.foldl (fun s t => makeReady s t false) s)
    let s := (List.range 8).foldl (fun s k => setCore s k { coreOf s k with wdog := s.tim.cyc }) s
    let s := setUpd s { s.upd with trial := none, fallback := none, reverting := none }
    let s := noticeBoth s 0x1102 0 why
    (s.hif.track.filter fun t => decide (t.desc.opcode = 0x43 ∧ t.phase = .running) && bitOf (darg t.desc 0) 0).foldl
      (fun s t => finish s t.id stOk 0 0) s
  | _, _ => s

/-- IMAGE_CONFIRM reaches UPD (R408). -/
def startConfirm (s : State) (t : Track) : State :=
  let d := t.desc
  if !noData d || !argsZeroFrom d 1 || decide (2 ≤ darg d 0) then finish s t.id stBad 0 0
  else if !trialOn s || s.upd.reverting.isSome || ((s.upd.trial.map (·.stopped)).getD false) then
    finish s t.id stState 0 0
  else if bitOf (darg d 0) 0 then startRevert (begin s t.id) 2
  else
    let s := setUpd (begin s t.id) { s.upd with trial := s.upd.trial.map fun x => { x with stopped := true } }
    submit s ⟨.confirm, .host t.id, 0, false, 0, [], 0, false, 0, 0, none⟩

/-! ### Meanings -/

/-- IMAGE_VERIFY_COMPLETE (R403). -/
def execImageVerifyComplete (e : EccRead) (s : State) : Host.Outcome State Fault Refusal := done (verifyComplete s e)
/-- ACTIVATION_COMPLETE (R406). -/
def execActivationComplete (s : State) : Host.Outcome State Fault Refusal := done (activationDone s)
/-- CONFIRM_EXPIRY (R409). -/
def execConfirmExpiry (s : State) : Host.Outcome State Fault Refusal := done (confirmExpiry s)
/-- REVERT_COMPLETE (R409). -/
def execRevertComplete (s : State) : Host.Outcome State Fault Refusal := done (revertDone s)
/-- KEEP_STEP_COMPLETE (R410): the step under way of KEY, or else of UPD. -/
def execKeepStepComplete (key : Bool) (s : State) : Host.Outcome State Fault Refusal :=
  done (if key then keyStep s else storeStep s)
/-- UPD_FW_WRITE (R415): a write of UPD_FW_CMD with WRITE set. -/
def execUpdFwWrite (v : Word) (s : State) : Host.Outcome State Fault Refusal := done (fwCmdWrite s (v ||| 0x80000000))
/-- UPD_FW_READ (R415): a write of UPD_FW_CMD with READ set. -/
def execUpdFwRead (v : Word) (s : State) : Host.Outcome State Fault Refusal := done (fwCmdWrite s (v ||| 0x40000000))
/-- STORE_REPAIR (R414). -/
def execStoreRepair (s : State) : Host.Outcome State Fault Refusal := done (storeRepair s)
/-- STORE_SUPPLY_TIMEOUT (R417). -/
def execStoreSupplyTimeout (s : State) : Host.Outcome State Fault Refusal := done (storeTimeout s)

end Sys2Proof.Machine
end

