-- ==== Sys2Proof/Machine/System.lean ====
section
/-! DEFINITION. Machine/System.lean: device resets, clock halt, error protection, the behaviour
revision and the supply monitor (chapters 14, 17 and 18). -/
namespace Sys2Proof.Machine

/-! ### Device resets (R382, R383) -/

/-- A keep step under way when a device reset strikes leaves its sector erased (Tables 15-5 and 16-5):
UPD's. -/
def tearStore (s : State) : State :=
  match s.upd.jobs with
  | j :: _ =>
    if !j.started || j.waiting.isSome then s
    else match j.kind, j.steps with
      | .write, 0 => putJournal s (nextJournal s).1 none
      | .write, 2 => programSector s (slotSector j.bank j.record) []
      | .write, _ => s
      | .read, _ => s
      | _, 0 => programSector s (256 + confirmTarget s) []
      | _, _ => s
  | [] => s

/-- KEY's. -/
def tearKey (s : State) : State :=
  match s.key.job with
  | some j =>
    if j.persist && j.waiting.isNone && decide (s.key.stage ≠ 1) then
      programSector s (2 * j.slot + targetCopy s j.slot) []
    else s
  | none => s

/-- A device reset with `cause`, and for a supply fault the rail: every register returns to its reset
value and every memory loses its contents. The keep stays, with the levels on the pins, what has left the
unit, and TAMPERED except at power-on (R437). -/
def deviceReset (s : State) (cause rail : Nat) : State :=
  let k := tearKey (tearStore s)
  let r := State.reset
  let tampered := if cause = 1 then 0 else reg s KEY_STATUS &&& 0x20000000
  setReg { r with
    pending := s.pending, keep := k.keep, out := s.out, readValue := s.readValue, freeCount := s.freeCount
    pcie := { r.pcie with perstHigh := s.pcie.perstHigh }
    key := { r.key with adminEn := s.key.adminEn, tamperLow := s.key.tamperLow }
    boot := { r.boot with
      cause := cause, causeRail := rail
      step := if cause = 2 ∨ s.boot.step = .held then .held else .counting } } KEY_STATUS tampered

/-- A rail has risen into range. -/
def railPowerOn (s : State) : State := deviceReset s 1 0

/-- A write of BOOT_RESET. DESIGN CHOICE (log 63): only the value that Table 14-1 gives resets; a write with CODE
and GO right and a reserved bit set does not. -/
def bootReset (s : State) (v : Word) : State := if v = 0x96400001 then deviceReset s 4 0 else s

/-! ### Clock halt (R442) -/

/-- The lanes of a group become high-impedance. -/
def floatLane (s : State) (g : Nat) : State := stopPass s g

/-- The clock of `domain` (1 SYSCLK to 6 TCLK) is lost. Before the release of reset it only holds the
sequence. Device time stands still without TCLK. -/
def clockLoss (s : State) (domain : Nat) : State :=
  if !resetReleased s || s.glb.halted.isSome || decide (domain = 0 ∨ 6 < domain) then s
  else
    let s := { s with glb := { s.glb with halted := some domain } }
    let s := (List.range 4).foldl floatLane (setTwn s { s.twn with hbOut := false })
    let s := if domain = 6 then setTim s { s.tim with running := false } else s
    if domain = 5 then s else notice s 0x0002 0 domain true false

/-! ### Error protection (R443 to R445) -/

/-- A package memory word read or scrubbed at `addr` of stack `stack`. -/
def memWord (s : State) (stack addr : Nat) (e : EccRead) : State :=
  match e with
  | .clean => s
  | .corrected => latchCount s MEM_ECC_COUNT 15 0 1
  | .uncorrectable =>
    let s := latchCount { s with glb := { s.glb with eccAddr := addr } } MEM_ECC_COUNT 31 16 1
    noticeBoth s 0x1301 (stack % 2) (addr % 2 ^ 64)

/-- Uncorrectable data reaches the run: from package memory (`store` 0), or from the motif table (1),
the stitch staging buffer (2) or a frame buffer (3). The hoop underruns (R132). -/
def pipelineUncorrectable (s : State) (store stack addr : Nat) : State :=
  if s.run.active && decide (store < 4) then
    let s :=
      if store = 0 then memWord s stack addr .uncorrectable
      else noticeBoth (latch s GLB_FAULT 30) 0x0001 0 (store + s.hoop.number.toNat * 2 ^ 32)
    abortHoop s 2 0 0
  else s

/-- A write of GLB_BEHAV (R447): revisions 1 and 2 are implemented. -/
def behavWrite (s : State) (v : Word) : State :=
  if s.hoop.running || !decide (fld v 7 0 = 1 ∨ fld v 7 0 = 2) then latch s GLB_FAULT 29 else plainWrite s GLB_BEHAV v

/-! ### The supply monitor (R459, R460, R468) -/

/-- The rails that have a refuse threshold: VDD_CORE, VDD_IO18 and VDD_IO33. -/
def refuseRail (n : Nat) : Bool := decide (n = 1 ∨ n = 8 ∨ n = 9)

/-- The lowest rail below its refuse threshold; 0: none. -/
def lowestRefusing (m : Nat) : Nat := (((List.range 9).find? (bitOf m)).map (· + 1)).getD 0

/-- Rail `n` falls below its refuse threshold. -/
def refuseWrites (s : State) (n : Nat) : State :=
  if !refuseRail n then s
  else
    let m := s.psm.refusing ||| 2 ^ (n - 1)
    let was := s.psm.writeOk
    let s := { s with psm := { s.psm with refusing := m, writeOk := false } }
    if was then noticeBoth (latchCount s PSM_REFUSALS 15 0 1) 0x0301 0 (lowestRefusing m * 256) else s

/-- The rails have stayed at their restore thresholds long enough: permission returns, and what waits
for it goes on. -/
def grantWrites (s : State) : State :=
  if s.psm.writeOk || !resetReleased s then s
  else
    let s := { s with psm := { s.psm with refusing := 0, writeOk := true } }
    storeResume (keyResume (noticeBoth s 0x0301 0 1))

/-- Operating ranges of Table 18-4, in µV. -/
def railRanges : List (Nat × Nat) :=
  [(720000, 780000), (820000, 880000), (870000, 930000), (1164000, 1236000), (1067000, 1133000),
   (380000, 420000), (1710000, 1890000), (1710000, 1890000), (3135000, 3465000)]

/-- IN_RANGE of readings in mV. -/
def railsInRange (mv : List Nat) : Nat :=
  sumNat ((List.range 9).map fun i =>
    match railRanges[i]?, mv[i]? with
    | some (lo, hi), some v => if lo ≤ v * 1000 ∧ v * 1000 ≤ hi then 2 ^ i else 0
    | _, _ => 2 ^ i)

/-- PSM's readings change: die and stack temperatures, S8.8 (R10), and the rails in mV. -/
def sensorUpdate (s : State) (tj : Int) (hbm : List Int) (mv : List Nat) : State :=
  let tj := clampI (-65536) 65535 tj
  let limit := sext 32 (reg s PSM_TEMP_HIGH).toNat
  let hot := decide (limit < tj)
  let armed := s.psm.armed
  let s := { s with psm := { s.psm with
    tj := tj, hbm := (hbm.take 2).map (clampI (-65536) 65535), inRange := railsInRange mv
    mv := (List.range 9).foldl (fun t i => tput (fun _ => 0) t (i + 1) (((mv[i]?).getD 0) % 65536)) s.psm.mv
    armed := if hot then false else if tj ≤ limit - 0x500 then true else armed } }
  if hot && armed then noticeBoth s 0x0302 0 (toBits 32 tj + s.hoop.number.toNat * 2 ^ 32) else s

/-! ### Meanings -/

/-- RAIL_POWER_ON (R382). -/
def execRailPowerOn (s : State) : Host.Outcome State Fault Refusal := done (railPowerOn s)
/-- RESET_N_ASSERT (R382). -/
def execResetNAssert (s : State) : Host.Outcome State Fault Refusal := done (deviceReset s 2 0)
/-- BOOT_RESET (R382). -/
def execBootReset (v : Word) (s : State) : Host.Outcome State Fault Refusal := done (bootReset s v)
/-- SUPPLY_FAULT (R459). -/
def execSupplyFault (rail : Nat) (s : State) : Host.Outcome State Fault Refusal := done (deviceReset s 3 rail)
/-- CLOCK_LOSS (R442). -/
def execClockLoss (domain : Nat) (s : State) : Host.Outcome State Fault Refusal := done (clockLoss s domain)
/-- SCRUB (R445). -/
def execScrub (stack addr : Nat) (e : EccRead) (s : State) : Host.Outcome State Fault Refusal :=
  done (memWord s stack addr e)
/-- PIPELINE_UNCORRECTABLE_READ (R132). -/
def execPipelineUncorrectableRead (store stack addr : Nat) (s : State) : Host.Outcome State Fault Refusal :=
  done (pipelineUncorrectable s store stack addr)
/-- GLB_BEHAV_WRITE (R447). -/
def execGlbBehavWrite (v : Word) (s : State) : Host.Outcome State Fault Refusal := done (behavWrite s v)
/-- WRITE_PERMISSION_REFUSE (R460). -/
def execWritePermissionRefuse (rail : Nat) (s : State) : Host.Outcome State Fault Refusal := done (refuseWrites s rail)
/-- WRITE_PERMISSION_GRANT (R460). -/
def execWritePermissionGrant (s : State) : Host.Outcome State Fault Refusal := done (grantWrites s)
/-- PSM_SENSOR_UPDATE (R468). -/
def execPsmSensorUpdate (tj : Int) (hbm : List Int) (mv : List Nat) (s : State) : Host.Outcome State Fault Refusal :=
  done (sensorUpdate s tj hbm mv)

end Sys2Proof.Machine
end

