-- ==== Sys2Proof/Machine/Lgw.lean ====
section
/-! DEFINITION. Machine/Lgw.lean: the 7200 tile command window (chapter 19). -/
namespace Sys2Proof.Machine

def setLgw (s : State) (l : Lgw) : State := { s with lgw := l }

/-- The window is refused (R472): a submission ring carries motif control, or the unit is a twin. -/
def lgwRefused (s : State) : Bool :=
  s.boot.twinEn || (List.range 64).any fun n => sqEnabled s n && sqMotif s n

/-- `n` staged commands are discarded: LGW_DROPPED. -/
def lgwDrop (l : Lgw) (n : Nat) : Lgw := { l with dropped := min (l.dropped + n) 255 }

/-- What becoming refused clears: the assembly latch and every staged command. -/
def settleLgw (s : State) : State :=
  if lgwRefused s then setLgw s (lgwDrop { s.lgw with latch := [], staged := [] } s.lgw.staged.length) else s

/-- The assembly latch is cleared (R474). -/
def lgwClear (s : State) : State := setLgw s { s.lgw with latch := [] }

/-- The word at an indirect address (Table 19-1). -/
def lgwWord (s : State) (a : Nat) : Nat :=
  let m := a / 16
  let v := liveOf s m
  match a % 16 with
  | 0 => (tget (fun _ => 0) s.lgw.args m).toNat
  | 1 => (tget (fun _ => (0, 0)) s.lgw.staged m).1
  | 2 => if v.report.valid then toBits 32 v.report.temp else 0
  | 3 => v.epoch % 65536 * 65536 + b2n v.foreign
  | _ => 0

/-- A word written at an indirect address (Table 19-1, R475). -/
def lgwPut (l : Lgw) (a v : Nat) : Lgw :=
  let m := a / 16
  match a % 16 with
  | 0 => { l with args := tput (fun _ => 0) l.args m (w32 v) }
  | 1 =>
    if v = 0 then { l with staged := tput (fun _ => (0, 0)) l.staged m (0, 0) }
    else if v ≤ 6 then { l with staged := tput (fun _ => (0, 0)) l.staged m (v, tget (fun _ => 0) l.args m) }
    else { l with badCmd := true }
  | _ => l

/-- LGW_ADDR_H and LGW_ADDR_L written: the latch is cleared. -/
def lgwAddrHigh (s : State) (v : Nat) : State :=
  if lgwRefused s then s else setLgw s { s.lgw with addr := v % 256 * 256 + s.lgw.addr % 256, latch := [] }
def lgwAddrLow (s : State) (v : Nat) : State :=
  if lgwRefused s then s else setLgw s { s.lgw with addr := s.lgw.addr / 256 * 256 + v % 256, latch := [] }

/-- A byte written to LGW_DATA: the fourth completes the word. -/
def lgwData (s : State) (v : Nat) : State :=
  if lgwRefused s then s
  else
    let l := s.lgw
    let bs := l.latch ++ [v % 256]
    if bs.length < 4 then setLgw s { l with latch := bs }
    else
      let w := bs.foldl (fun a b => a * 256 + b) 0
      setLgw s { lgwPut l l.addr w with addr := (l.addr + 1) % 65536, latch := [] }

/-- A read of LGW_DATA: the top byte, the snapshots, and the next address. -/
def lgwRead (s : State) : State :=
  if lgwRefused s then { s with readValue := 0 }
  else
    let w := lgwWord s s.lgw.addr
    { setLgw s { s.lgw with snap := w % 2 ^ 24, addr := (s.lgw.addr + 1) % 65536 } with readValue := w / 2 ^ 24 % 256 }

/-- A write of LGW_OPEN (R476). -/
def lgwOpen (s : State) : State :=
  if lgwRefused s then s
  else if s.win.isOpen then setLgw s { s.lgw with opened := true } else setLgw s { s.lgw with late := true }

/-- A staged command as the MOTIF_CTRL it acts as. -/
def lgwDesc (m command : Nat) (arg : Word) : Desc :=
  { opcode := 0x20, flags := 0, tag := 0, target := 0, hostAddr := 0, length := 0, object := m
    args := [w32 command, arg] }

/-- A command joins: its motif is a thread motif of the end state, or it is CLEAR_FOREIGN, and Table
10-9 takes its argument. -/
def lgwJoins (c : Cfg) (x : Nat × Nat × Word) : Bool :=
  (decide (x.2.1 = 4) || (decide (motifPart c ≠ []) && motifThread (motifPart c) x.1)) &&
    decide (motifCtrlArrival (lgwDesc x.1 x.2.1 x.2.2) = stOk)

/-- The staged commands that join the set of end state `c` at its close, as its last members. -/
def lgwMembers (s : State) (c : Cfg) : List Member × State :=
  if s.lgw.opened && !lgwRefused s then
    let (on, off) := s.lgw.staged.partition (lgwJoins c)
    (on.map fun x => ⟨0, 0, .lgw, twinRing, lgwDesc x.1 x.2.1 x.2.2, false⟩,
      setLgw s (lgwDrop { s.lgw with staged := [] } off.length))
  else ([], s)

/-- A register of the window written, one byte wide, at its offset from the block's base. -/
def lgwWrite (s : State) (off v : Nat) : State :=
  match off with
  | 0 => lgwAddrHigh s v
  | 1 => lgwAddrLow s v
  | 2 => lgwData s v
  | 3 => lgwOpen s
  | 4 => setLgw s { s.lgw with
      width := s.lgw.width && !bitOf v 5, late := s.lgw.late && !bitOf v 4, badCmd := s.lgw.badCmd && !bitOf v 3 }
  | 8 => if bitOf v 0 then setLgw s { s.lgw with dropped := 0 } else s
  | _ => s

/-- An access with more than one byte enable set. -/
def lgwWidth (s : State) : State := setLgw s { s.lgw with width := true }

/-- The byte that a register of the window shows; a read of LGW_DATA has effects of its own. -/
def lgwByte (s : State) (off : Nat) : Nat :=
  match off with
  | 0 => s.lgw.addr / 256 % 256
  | 1 => s.lgw.addr % 256
  | 4 => b2n (lgwRefused s) * 128 + b2n s.lgw.opened * 64 + b2n s.lgw.width * 32 + b2n s.lgw.late * 16 +
      b2n s.lgw.badCmd * 8 + s.lgw.latch.length % 4
  | 5 => s.lgw.snap / 2 ^ 16 % 256
  | 6 => s.lgw.snap / 2 ^ 8 % 256
  | 7 => s.lgw.snap % 256
  | 8 => s.lgw.dropped
  | _ => 0

/-! ### Meanings -/

/-- LGW_ADDR_H_WRITE (R474). -/
def execLgwAddrHWrite (v : Byte) (s : State) : Host.Outcome State Fault Refusal := done (lgwAddrHigh s v.toNat)
/-- LGW_ADDR_L_WRITE (R474). -/
def execLgwAddrLWrite (v : Byte) (s : State) : Host.Outcome State Fault Refusal := done (lgwAddrLow s v.toNat)
/-- LGW_DATA_WRITE (R474). -/
def execLgwDataWrite (v : Byte) (s : State) : Host.Outcome State Fault Refusal := done (lgwData s v.toNat)
/-- LGW_DATA_READ (R474). -/
def execLgwDataRead (s : State) : Host.Outcome State Fault Refusal := done (lgwRead s)
/-- LGW_OPEN (R476). -/
def execLgwOpen (_v : Byte) (s : State) : Host.Outcome State Fault Refusal := done (lgwOpen s)

end Sys2Proof.Machine
end

