-- ==== Sys2Proof/Machine/Commit.lean ====
section
/-! DEFINITION. Machine/Commit.lean: the close of a commit window, the hoop boundary in TCLK and in
FCLK, starting and stopping the generator, and the latency tolerance (chapters 1 and 4). -/
namespace Sys2Proof.Machine

/-! ### The close of a window (R121, R122) -/

/-- Every member of a set completes with a status. -/
def finishMembers (s : State) (ms : List Member) (st : Nat) : State :=
  ms.foldl (fun s m => finishMember s m st 0 0 s.hoop.number) s

/-- A set is closed: refused, with every member, or accepted for the boundary. Its status. -/
def judgeSet (s : State) (e : EndState) : Nat × State :=
  match setChecks s e with
  | some r => (r.st, settleAct (finishMembers (postRefusal s r) e.members r.st))
  | none =>
    let s := acceptSet s e
    let s := e.members.foldl (fun s m =>
      let s := if m.origin = .host then modTrack s m.id fun t => { t with phase := .accepted, past := true } else s
      if m.desc.opcode = 0x70 then roleClosed s m.desc else s) s
    (stOk, setWin s { s.win with closed := some e })

/-- A TWIN_ROLE that Table 12-9 does not accept. -/
def roleRefused (s : State) (m : Member) : Bool := decide (m.desc.opcode = 0x70) && !roleAccepted s m.desc

/-- COMMIT_WINDOW_CLOSE: the window of the hoop in progress closes. -/
def closeWindow (s : State) : State :=
  if s.hoop.running && s.hoop.fStarted && !s.hoop.fDue && s.win.isOpen then
    let s := runTo (moveQ s.hoop.bNext (-(leadQ s 1 : Nat))) s
    let s := forwardJoined (releaseHeld s)
    let all := s.win.members
    let bad := all.filter (roleRefused s)
    let ms := all.filter fun m => !roleRefused s m
    let count := (ms.filter fun m => forwardable m.desc.opcode).length
    let s := forwardRoles s ms
    let s := setWin s { s.win with isOpen := false, members := [] }
    let s := finishMembers s bad stState
    let e := endStateOf s ms
    let (extra, s) := lgwMembers s e.cfg
    let e := { e with members := e.members ++ extra }
    let (st, s) := if e.members = [] then (stOk, s) else judgeSet s e
    sendClose s st count
  else s

/-! ### A set takes effect (R123) -/

/-- Objects of the members with opcode `op`, each once. -/
def objectsOf (e : EndState) (op : Nat) : List Nat := ((membersOf e op).map (·.desc.object)).eraseDups

/-- The thread motifs whose change hoop a set sets (R283). -/
def changedMotifs (old : Cfg) (e : EndState) : List Nat :=
  let mt := motifPart e.cfg
  let was := motifPart old
  ((enabledMotifs mt).filter (motifThread mt)).filter fun m =>
    e.named.contains 2 || e.named.contains 3 || !(decide (was ≠ []) && motifThread was m) ||
      (e.named.contains 1 && decide (motifProfile was m ≠ motifProfile mt m ∨ motifProgram was m ≠ motifProgram mt m))

/-- The change hoop of `m` is this hoop; AUTO_PROG queues its refresh. -/
def markChange (s : State) (m : Nat) : State :=
  let s := setEgress s { s.egr with change := tput (fun _ => none) s.egr.change m (some s.hoop.fNumber) }
  if autoProg s then refreshMotif s m else s

/-- The configuration of a set goes into force. -/
def applyCfg (s : State) (e : EndState) : State :=
  let old := s.cfg
  let s := { s with cfg := e.cfg }
  let s := if e.named.contains 1 then swapMotifs (partOf old 1) (partOf e.cfg 1) s else s
  let s := ((List.range 7).filter fun p => e.named.contains p).foldl partActive s
  let s := (objectsOf e 0x14).foldl (fun s k => applySession s k (sessWords old k) (sessWords e.cfg k)) s
  let s := (objectsOf e 0x15).foldl (fun s l => applySource s l (srcWords old l) (srcWords e.cfg l)) s
  let s := (changedMotifs old e).foldl markChange s
  if e.named.contains 1 then (List.range 32).foldl prunePending s else s

/-- What a member does beside the configuration, and its RESULT0. -/
def memberEffect (s : State) (m : Member) : Nat × State :=
  let d := m.desc
  match d.opcode with
  | 0x20 => (0, motifCommand s d.object (darg d 0 % 256) (darg d 1) s.hoop.fNumber)
  | 0x22 => (0, portCheck (applyPort s d) d.object)
  | 0x24 => (0, applyOwner s d)
  | 0x21 => (0, applyProgramSend s m)
  | 0x42 => (0, activateAt s s.hoop.fNumber)
  | 0x70 => match m.origin with | .twin _ => (0, applyPartnerRole s d) | _ => applyRole s d
  | _ => (0, s)

/-- A member takes effect; PROGRAM_SEND and IMAGE_ACTIVATE complete when their work is done. -/
def applyMemberNow (s : State) (m : Member) : State :=
  let (r0, s) := memberEffect s m
  if m.desc.opcode = 0x21 ∨ m.desc.opcode = 0x42 then s
  else finishMember s m (if m.late then stLate else stOk) r0 0 s.hoop.fNumber

/-- An accepted set, of hoop `h`, takes effect in this cycle. -/
def applySet (s : State) (e : EndState) (h : Hoop) : State :=
  let s := applyCfg s e
  let s := e.members.foldl applyMemberNow s
  let s := setTwn s { s.twn with sets := h }
  if e.named.contains 0 || e.named.contains 4 then
    stackWake (stackWake (setHoop s { s.hoop with stacksHeld := true }) 0) 1
  else s

/-- This unit's closed set. -/
def applyOwn (s : State) : State :=
  match s.win.closed with
  | some e => applySet (setWin s { s.win with closed := none }) e (s.hoop.fNumber - 1)
  | none => s

/-- The forwarded set that CLOSE judged, where it is the set of the hoop that ends. -/
def applyForwardedSet (s : State) : State :=
  match s.twn.closed with
  | some e =>
    if s.twn.closedHoop = some (s.hoop.fNumber - 1) then
      applySet (setTwn s { s.twn with closed := none }) e (s.hoop.fNumber - 1)
    else s
  | none => s

/-- This unit's closed set, and the forwarded one. -/
def applyClosed (s : State) : State := applyForwardedSet (applyOwn s)

/-! ### The FCLK-side boundary (R19 to R23, R123) -/

/-- The run of the hoop that ends completes, and the lane groups present it from `base` on. -/
def endRun (s : State) (base : Nat) : State :=
  if s.hoop.fStarted then
    let s := completeRun s
    let s := (List.range 4).foldl (fun s g => showRun s g s.hoop.fNumber (moveQ base (4 * s.run.p : Nat)) s.hoop.aborted) s
    if s.hoop.aborted then s else setHoop s { s.hoop with consecAborts := 0, stormArmed := true }
  else s

/-- Before the first boundary of a run of the generator no run has ended; the lane groups that repeat
passes are anchored anew (Table 9-9). -/
def reanchorLanes (s : State) : State :=
  if s.hoop.fStarted then s
  else (List.range 4).foldl (reanchorShow (moveQ s.hoop.bThis (4 * lead s 0 : Nat))) s

/-- A window still open as the next boundary arrives: its members go into the next. -/
def carryOver (s : State) : State :=
  setWin s { s.win with isOpen := false, members := [], waiting := s.win.members ++ s.win.waiting }

/-- The hoop turns: the run that ends completes, and the set of its window takes effect. -/
def turnHoop (s : State) : State :=
  let s := reanchorLanes (endRun (liveApply s) s.hoop.bThis)
  let ended := s.hoop.fNumber
  let s := setHoop s { s.hoop with fNumber := s.hoop.number, fStarted := true, fDue := false, aborted := false }
  twinBoundary (applyClosed (carryOver (sendLive s ended)))

/-- What the hoop that begins starts from: handles, frames to show, readings, and its egress. -/
def settleHoop (s : State) : State :=
  let s := retireAt (expirePins s s.hoop.fNumber) s.hoop.fNumber
  let s := setRun s { s.run with p := lead s 0 }
  egrBoundary (noteCurrent (landWrites (chooseSources (takeSnapshot s))))

/-- The window of the hoop that begins opens. -/
def openHoop (s : State) : State :=
  forwardJoined (openWindow (setTwn (setLgw s { s.lgw with opened := false }) { s.twn with sent := [] }))

/-- The raised boundary reaches FCLK. -/
def fclkBoundary (s : State) : State := if !s.hoop.fDue then s else openHoop (settleHoop (turnHoop s))

/-! ### The TCLK boundary, starting and stopping (R108, R116, R117) -/

/-- HOOP_BOUNDARY: device time reaches the next boundary. A generator that is to stop stops there
instead: the boundary is not raised. One that another event of the same cycle had raised stands. -/
def hoopBoundary (s : State) : State :=
  if s.hoop.early = some s.tim.cyc then setHoop s { s.hoop with early := none }
  else
  let s := fclkBoundary s
  if s.hoop.running then
    let s := runTo s.hoop.bNext s
    if s.hoop.stopAtNext then
      let s := endRun s s.hoop.bNext
      landWrites (releaseAll (stopHoops (setHoop s { s.hoop with fStarted := false })))
    else raiseBoundary s
  else s

/-- A write of HOOP_CTRL: its fields, RUN, then the ABORT kick, which aborts the hoop of a boundary that falls
in its cycle (Table 4-8). -/
def hoopCtrlWrite (s : State) (v : Word) : State :=
  let s := plainWrite s HOOP_CTRL v
  let s :=
    if bitW v 31 then
      if s.hoop.running then setHoop s { s.hoop with stopAtNext := false }
      else startHoops { s with run := { s.run with rev := regFld s GLB_BEHAV 7 0 }
                               egr := { s.egr with slot := regFld s EGR_AUTH 5 0 } }
    else if s.hoop.running then setHoop s { s.hoop with stopAtNext := true }
    else s
  if bitW v 30 then abortHoop (fclkBoundary (dueBoundary s)) 3 0 0 else s

/-! ### Latency tolerance (R129) -/

/-- LT_I in 10 ns units: the fullest ingest write buffer at 12.5 GB/s. -/
def ltIngest (s : State) : Nat :=
  ((List.range 4).map fun p => (1048576 - tget (fun _ => 0) s.ing.bufUsed p) / 125).foldl min (1048576 / 125)

/-- Pricking entry `n` is one whose samples the frame of `e` carries: of its motif and positions, or of a fixture
of its universe. -/
def feeds (s : State) (e : Sched) (n : Nat) : Bool :=
  let x := prickEntry (partOf s.cfg 0) n
  match e.kind with
  | 1 => decide (x.kind ≠ 2 ∧ x.motif = e.motif ∧ e.first ≤ x.index ∧ x.index < e.first + e.positions)
  | 3 => decide (x.kind = 2) && decide (fixUidx (partOf s.cfg 5) x.fixture = e.first)
  | _ => false

/-- Pricking entries that the walk has processed when the frame of `e` is fully built (R264). -/
def frameEnd (s : State) (e : Sched) : Nat :=
  (((List.range (partCount (partOf s.cfg 0))).filter (feeds s e)).getLast?.map (· + 1)).getD 0

/-- The frames that the walk builds: OFFSET, and the entries processed when each is built. -/
def walkFrames (s : State) : List (Nat × Nat) :=
  (List.range 32).flatMap fun p => (List.range (portEntries s p)).filterMap fun k =>
    let e := portEntry s p k
    if e.kind = 1 ∨ e.kind = 3 then some (e.offset, frameEnd s e) else none

/-- The first frame of a walk that is built last after `walked` entries, the earlier to launch where two are
built together. -/
def firstUnbuilt (fs : List (Nat × Nat)) (walked : Nat) : Option (Nat × Nat) :=
  (fs.filter fun f => decide (walked < f.2)).foldl (fun best f =>
    match best with
    | some b => if f.2 < b.2 ∨ (f.2 = b.2 ∧ f.1 < b.1) then some f else best
    | none => some f) none

/-- Slots of the pricking entries from `lo` to `hi`: a FIXTURE entry counts as its slots (R189). -/
def walkSlots (s : State) (lo hi : Nat) : Nat :=
  sumNat ((List.range (hi - lo)).map fun i => entrySlots (prickEntry (partOf s.cfg 0) (lo + i)))

/-- LT_E in 10 ns units, `walked` entries of the walk and `slot` slots of the next being processed: of the first
frame of this hoop that is not fully built, else of the first of the next. None: no frame. -/
def ltEgress (s : State) (walked slot : Nat) : Option Int :=
  let lt := fun (l slots : Nat) => (4 * distQ s.tim.q l - 5 * slots - 32000) / 160
  let fs := walkFrames s
  match firstUnbuilt fs walked with
  | some f => some (lt (moveQ s.hoop.bThis (4 * f.1 : Nat)) (walkSlots s walked f.2 -
      min slot (entrySlots (prickEntry (partOf s.cfg 0) walked))))
  | none => (firstUnbuilt fs 0).map fun f => lt (moveQ s.hoop.bNext (4 * f.1 : Nat)) (walkSlots s 0 f.2)

/-- The write buffers of the four ingest ports as they are filled now. -/
def noteFills (s : State) (used32 used34 : Nat × Nat) : State :=
  noteFill (noteFill (noteFill (noteFill s 32 used32.1) 33 used32.2) 34 used34.1) 35 used34.2

/-- Every 100 ns HOOP computes LT. -/
def ltrUpdate (s : State) (walked slot : Nat) (used32 used34 : Nat × Nat) : State :=
  let s := noteFills (runToCycle ((s.tim.cyc / 25 + 1) * 25) s) used32 used34
  let i := ltIngest s
  let e := if s.hoop.running && s.hoop.fStarted then (ltEgress s walked slot).getD i else i
  let lt := min (min e i).toNat (2 ^ 24 - 1)
  setHoop s { s.hoop with lt := if regBit s HOOP_LTR_CFG 31 then lt else 0, limiterI := decide ((i : Int) < e) }

/-! ### The ingest deadline and AT_HOOP -/

/-- The ingest deadline of the hoop in progress, with what TWN does then. -/
def ingestClose (s : State) : State :=
  if s.hoop.running && s.hoop.fStarted && !s.hoop.fDue then afterDeadline s (ingestDeadline s) else s

/-! ### Meanings -/

/-- COMMIT_WINDOW_CLOSE (R122). -/
def execCommitWindowClose (s : State) : Host.Outcome State Fault Refusal := done (closeWindow s)
/-- FCLK_BOUNDARY (R123). -/
def execFclkBoundary (s : State) : Host.Outcome State Fault Refusal := done (fclkBoundary s)
/-- HOOP_BOUNDARY (R108). -/
def execHoopBoundary (s : State) : Host.Outcome State Fault Refusal := done (hoopBoundary s)
/-- HOOP_RUN_START (R116): a write of HOOP_CTRL with RUN = 1. -/
def execHoopRunStart (v : Word) (s : State) : Host.Outcome State Fault Refusal := done (hoopCtrlWrite s (v ||| 0x80000000))
/-- HOOP_RUN_STOP (R117): a write of HOOP_CTRL with RUN = 0. -/
def execHoopRunStop (v : Word) (s : State) : Host.Outcome State Fault Refusal := done (hoopCtrlWrite s (v &&& 0x7FFFFFFF))
/-- HOOP_ABORT_KICK (R132): a write of HOOP_CTRL with ABORT set. -/
def execHoopAbortKick (v : Word) (s : State) : Host.Outcome State Fault Refusal := done (hoopCtrlWrite s (v ||| 0x40000000))
/-- LTR_UPDATE (R129). -/
def execLtrUpdate (walked slot : Nat) (used32 used34 : Nat × Nat) (s : State) : Host.Outcome State Fault Refusal :=
  done (ltrUpdate s walked slot used32 used34)
/-- INGEST_DEADLINE (R127). -/
def execIngestDeadline (s : State) : Host.Outcome State Fault Refusal := done (ingestClose s)
/-- AT_HOOP_RELEASE (R53). -/
def execAtHoopRelease (s : State) : Host.Outcome State Fault Refusal := done (forwardJoined (releaseHeld s))

end Sys2Proof.Machine
end

