-- ==== Sys2Proof/Machine/Follow.lean ====
section
/-! DEFINITION. Machine/Follow.lean: what the unit that does not drive does with the messages of its driving
partner: forwarded descriptors, CLOSE and DATA (R326, R330). -/
namespace Sys2Proof.Machine

/-! ### Sets and descriptors (R326) -/

/-- CLOSE for hoop h: the copy of the set is built and judged (R326). -/
def closeMsg (s : State) (m : TwinMsg) : State :=
  let mine := s.twn.received.filter fun f => decide (f.set = m.hoop.toNat)
  let s := setTwn s { s.twn with received := s.twn.received.filter fun f => decide (f.set ≠ m.hoop.toNat) }
  let passed := later m.hoop s.hoop.fNumber
  let judged := fun (s : State) => setTwn s { s.twn with closedHoop := some m.hoop }
  if mine.length ≠ be m.payload 0 4 then loseStep s
  else if mine = [] then judged s
  else
    let e := endStateOf s (mine.map twinMember)
    let own := (setChecks s e).map (·.st) |>.getD stOk
    if own ≠ m.arg then loseStep (judged s)
    else if own ≠ stOk then judged s
    else if passed then (if s.twn.state = .syncing then judged (applySet (acceptSet s e) e m.hoop) else s)
    else judged (setTwn (acceptSet s e) { (acceptSet s e).twn with closed := some e })

/-- Descriptors of sets are kept in SEQ order. -/
def insertForwarded (f : Forwarded) : List Forwarded → List Forwarded
  | [] => [f]
  | x :: xs => if f.seq < x.seq then f :: x :: xs else x :: insertForwarded f xs

/-- A forwarded message takes its turn. -/
def takeForwarded (s : State) (m : TwinMsg) : State :=
  if m.kind = 4 then ackNow (closeMsg s m) m.seq stOk
  else if m.arg = noSet then
    sendAcks (judgeAcks (applyForwarded s m.seq (parseDesc m.payload) (m.payload.drop 64) m.hoop))
  else
    ackNow (setTwn s { s.twn with received := insertForwarded ⟨m.seq, m.arg, parseDesc m.payload⟩ s.twn.received }) m.seq stOk

/-- Messages that waited act in order, as far as they can. -/
def drainBehind : Nat → State → State
  | 0, s => s
  | n + 1, s =>
    match s.twn.behind with
    | m :: rest => if mustWait s m then s else drainBehind n (takeForwarded (setTwn s { s.twn with behind := rest }) m)
    | [] => s

/-- READY once every object and everything behind the copy is applied (R330). -/
def readyCheck (s : State) : State :=
  if decide (s.twn.state = .syncing) && (copyObjects.all fun o => s.twn.applied.contains o) && decide (s.twn.behind = []) then
    setTwn s { s.twn with syncReady := true }
  else s

/-- What waited is tried again. -/
def retryBehind (s : State) : State := readyCheck (drainBehind s.twn.behind.length s)

/-- Forwarded messages are taken in SEQ order. -/
def insertMsg (m : TwinMsg) : List TwinMsg → List TwinMsg
  | [] => [m]
  | x :: xs => if m.seq < x.seq then m :: x :: xs else x :: insertMsg m xs

/-- DESC or CLOSE received by the unit that does not drive. -/
def forwardedMsg (s : State) (m : TwinMsg) : State :=
  if s.twn.state = .syncing ∨ s.twn.state = .standby then
    retryBehind (setTwn s { s.twn with behind := insertMsg m s.twn.behind })
  else s

/-! ### DATA received (R330) -/

/-- A piece of a DATA object. -/
def dataMsg (s : State) (m : TwinMsg) : State :=
  let obj := be m.payload 0 2
  let index := be m.payload 4 4
  let entry := bitOf m.arg 31
  let ok := if obj = 0x20 then decide (s.twn.state = .syncing ∨ s.twn.state = .standby) else
    decide (s.twn.state = .syncing)
  if !ok then s
  else
    let p : Piece := ⟨obj, index, entry, be m.payload 8 8, m.payload.drop 16, bitOf m.arg 30, m.seq⟩
    let same := fun (q : Piece) => decide (q.obj = obj ∧ q.index = index ∧ q.entry = entry)
    let all := s.twn.pieces ++ [p]
    let mine := all.filter same
    let s := setTwn s { s.twn with pieces := all, bytes := s.twn.bytes + p.bytes.length }
    match mine.find? (·.last) with
    | some l =>
      let total := l.off + l.bytes.length
      if sumNat (mine.map fun q => q.bytes.length) = total then
        let b := mine.foldl (fun b q => splice b q.off q.bytes) (List.replicate total 0)
        let (st, s) := takeObject (setTwn s { s.twn with pieces := all.filter fun q => !same q }) obj index b
        let s := setTwn s { s.twn with
          applied := if entry ∨ obj = 0x20 then s.twn.applied else obj :: s.twn.applied
          entered := if entry then obj :: s.twn.entered else s.twn.entered }
        let s := retryBehind (ackNow s l.seq st)
        if entry then entryCheck s m.hoop else s
      else s
    | none => s

/-! ### Meanings -/

/-- TWIN_DESC_RX (R326). -/
def execTwinDescRx (p : Nat) (frame : List Byte) (s : State) : Host.Outcome State Fault Refusal :=
  done (onTwin s p 3 frame forwardedMsg)
/-- TWIN_CLOSE_RX (R326). -/
def execTwinCloseRx (p : Nat) (frame : List Byte) (s : State) : Host.Outcome State Fault Refusal :=
  done (onTwin s p 4 frame forwardedMsg)
/-- TWIN_DATA_RX (R330). -/
def execTwinDataRx (p : Nat) (frame : List Byte) (s : State) : Host.Outcome State Fault Refusal :=
  done (onTwin s p 6 frame dataMsg)
/-- TWIN_ACK_RX (R325). -/
def execTwinAckRx (p : Nat) (frame : List Byte) (s : State) : Host.Outcome State Fault Refusal :=
  done (onTwin s p 8 frame ackTaken)

end Sys2Proof.Machine
end

