-- ==== Sys2Proof/Machine/Recv.lean ====
section
/-! DEFINITION. Machine/Recv.lean: what becomes of a received frame on each kind of port (Table 10-10,
Table 11-3), and the meanings of the commands in which a frame arrives or has left (chapter 11). -/
namespace Sys2Proof.Machine

/-! ### Received frames (R278, R296, R298, R396) -/

/-- A PTP message at the start of `h` is a matching Announce (R99). -/
def isAnnounce (s : State) (p : Nat) (h : List Byte) : Bool :=
  regBit s TIM_MASTER_CTRL 31 && decide (regFld s TIM_MASTER_CTRL 13 8 = p) &&
  decide (byteAt h 0 % 16 = 0xB ∧ byteAt h 1 % 16 = 2 ∧ byteAt h 4 = regFld s TIM_MASTER_CTRL 7 0) &&
  (let id := beBytes 4 (reg s TIM_MASTER_ID_HI).toNat ++ beBytes 4 (reg s TIM_MASTER_ID_LO).toNat
   decide (be id 0 8 = 0 ∨ slice h 20 8 = id))

/-- A PTP frame: to TIM, where the watch counts it, and to firmware. Twin ports serve firmware only. -/
def ptpStage (s : State) (p off : Nat) (f : RxFrame) : State :=
  let s := if decide (p < 36) && isAnnounce s p (f.bytes.drop off) then announce s else s
  fwReceive s p (rxRecord p 0 (min f.bytes.length 2032) (decide (2032 < f.bytes.length)) f) f.bytes

/-- The first frame to leave less than XOFF free is answered with a pause (R306). -/
def xoffCheck (s : State) (p used : Nat) : State := if (portOf s p).xoff then s else pauseRefresh s p used

/-- A packet of a session; `used` bytes of the port's write buffer are taken as it arrives (R142). -/
def sessionStage (s : State) (p k used : Nat) (rtp frame : List Byte) : State :=
  let full := decide (1048576 < used + frame.length)
  let now := if full then used else used + frame.length
  let s := noteFill s p now
  xoffCheck (memRequest (sessionPacket s k rtp full)) p now

/-- A twin message acts by its TYPE; of one with another TYPE only its counts remain. -/
def twinStage (s : State) (p : Nat) (bytes : List Byte) : State :=
  let kind := ((twinContent s bytes).map fun b => byteAt b 1).getD 0
  if kind = 0 ∨ 8 < kind then (twinTake s p bytes).2 else
  let s := onTwin s p 1 bytes statusMsg
  let s := onTwin s p 2 bytes digestMsg
  let s := onTwin s p 3 bytes forwardedMsg
  let s := onTwin s p 4 bytes forwardedMsg
  let s := onTwin s p 5 bytes liveMsg
  let s := onTwin s p 6 bytes dataMsg
  let s := onTwin s p 7 bytes resignMsg
  onTwin s p 8 bytes ackTaken

/-- The host stage, else the count of a frame that nobody takes. -/
def hostOr (s : State) (p : Nat) (f : RxFrame) (other : State → State) : State :=
  match hostStage s p f with
  | some s => s
  | none => if f.trunc then s else other s

/-- Consumers of a thread port (Table 10-10). -/
def threadStage (s : State) (p : Nat) (f : RxFrame) : State :=
  match ptpAt f.bytes with
  | some o => ptpStage s p o f
  | none => match tirumContent s (untagged f.bytes) with
    | some (pad, t) => classifyTirum s p pad t
    | none => hostOr s p f fun s => latchCount s (EGR_RX_DROP p) 31 16 1

/-- Consumers of an ingest port (Table 11-3). -/
def ingestStage (s : State) (p used : Nat) (f : RxFrame) : State :=
  match ptpAt f.bytes with
  | some o => ptpStage s p o f
  | none =>
    let u := parseUdp f.bytes (f.tci.map fun v => v % 4096)
    match u, (u.map fun u => sessionMatch s p u).getD none with
    | some u, some k => sessionStage s p k used u.payload f.bytes
    | _, _ => hostOr s p f fun s => count s p 21 1

/-- Consumers of a twin port (Table 11-3) but for twin traffic. -/
def twinPortStage (s : State) (p : Nat) (f : RxFrame) : State :=
  match ptpAt f.bytes with
  | some o => ptpStage s p o f
  | none => hostOr s p f fun s => count s p 21 1

/-- A frame that passed the checks goes to its consumer; one that is truncated only to the host. -/
def consume (s : State) (p used : Nat) (f : RxFrame) : State :=
  if f.trunc then hostOr s p f id
  else if p < 32 then threadStage s p f
  else if p < 36 then ingestStage s p used f
  else twinPortStage s p f

/-- A frame has arrived on port `p`, given without its FCS: `fcsOk` whether its FCS was good, `fifoFull`
whether it finds the receive FIFO full, `phase` where in the cycle its stamp falls, `used` the fill of
an ingest port's write buffer. -/
def receive (s : State) (p : Nat) (bytes : List Byte) (fcsOk fifoFull : Bool) (phase used : Nat) : State :=
  if !s.boot.lifted.contains p then
    if fcsOk && decide (64 ≤ bytes.length + 4) && resetReleased s then latchCount s (BOOT_SQ_DROP p) 15 0 1 else s
  else if !portOn s p then s
  else if !(portOf s p).link then count s p 17 1
  else if decide (36 ≤ p) && s.boot.twinEn && fcsOk && !fifoFull && (twinContent s bytes).isSome &&
      !truncates s p bytes && (ptpAt bytes).isNone then
    twinStage s p bytes
  else match rxCheck s p bytes fcsOk phase with
    | (.dropped, s) => s
    | (.pause q obey, s) => pauseSeen s p q (bytes.length + 4) obey
    | (.frame f, s) => if fifoFull then count s p 20 1 else consume s p used f

/-! ### A frame has left (R302) -/

/-- The frame on the wire of port `p` ends: it is counted, and its sender's completion follows. -/
def txDone (s : State) (p : Nat) : State :=
  match (portOf s p).wire with
  | some f =>
    let result := (portOf s p).wireResult
    let s := runToCycle (((portOf s p).wireEnd + 15) / 16) s
    let s := setPort s p { portOf s p with wire := none, wireResult := none }
    let s := countFrame s p 24 30 31 f.bytes
    let s := { s with out := s.out ++ [.wire p (f.bytes ++ fcsOf f.bytes)] }
    let s := match f.sender with
      | .pause => count s p 29 1
      | .firmware => notice s 0x0C04 p 0 false true
      | .rawTx t stamp => match result with
        | some (st, r0, r1) => finish s t st r0 r1
        | none => if stamp then s else finish s t stOk 0 0
      | _ => s
    fwAdmit (enterQueues s p) p
  | none => s

/-! ### Link and service -/

/-- LINK rises: EGR's refreshes follow on a thread port (R284). -/
def linkUp (s : State) (p : Nat) : State :=
  let was := (portOf s p).link
  let s := linkRise s p
  if !was && (portOf s p).link && decide (p < 32) then refreshPort s p else s

/-! ### Meanings -/

/-- MAC_FRAME_DROPPED (R294, R295, R298): `fcsOk` and `fifoFull` as the frame finds them. -/
def execMacFrameDropped (p : Nat) (frame : List Byte) (fcsOk fifoFull : Bool) (s : State) :
    Host.Outcome State Fault Refusal := done (receive s p frame fcsOk fifoFull 0 0)
/-- PAUSE_FRAME_RX (R305). -/
def execPauseFrameRx (p : Nat) (frame : List Byte) (s : State) : Host.Outcome State Fault Refusal :=
  done (receive s p frame true false 0 0)
/-- PTP_FRAME_RX (R298). -/
def execPtpFrameRx (p : Nat) (frame : List Byte) (phase : Nat) (s : State) : Host.Outcome State Fault Refusal :=
  done (receive s p frame true false phase 0)
/-- HOST_FRAME_RX (R300). -/
def execHostFrameRx (p : Nat) (frame : List Byte) (phase : Nat) (s : State) : Host.Outcome State Fault Refusal :=
  done (receive s p frame true false phase 0)
/-- UNCLAIMED_FRAME_RX (R298). -/
def execUnclaimedFrameRx (p : Nat) (frame : List Byte) (s : State) : Host.Outcome State Fault Refusal :=
  done (receive s p frame true false 0 0)
/-- SQUELCHED_FRAME_RX (R396). -/
def execSquelchedFrameRx (p : Nat) (frame : List Byte) (s : State) : Host.Outcome State Fault Refusal :=
  done (receive s p frame true false 0 0)
/-- RETURN_RX (R281). -/
def execReturnRx (p : Nat) (frame : List Byte) (s : State) : Host.Outcome State Fault Refusal :=
  done (receive s p frame true false 0 0)
/-- TIRUM_OTHER_RX (R278). -/
def execTirumOtherRx (p : Nat) (frame : List Byte) (s : State) : Host.Outcome State Fault Refusal :=
  done (receive s p frame true false 0 0)
/-- SESSION_PACKET_RX (R141): `used` bytes of the port's write buffer are taken as it arrives. -/
def execSessionPacketRx (p : Nat) (frame : List Byte) (phase used : Nat) (s : State) : Host.Outcome State Fault Refusal :=
  done (receive s p frame true false phase used)
/-- FRAME_TX_START (R301): a slot of its queue comes free. -/
def execFrameTxStart (p phase : Nat) (s : State) : Host.Outcome State Fault Refusal :=
  done (fwAdmit (enterQueues (txStart s p phase) p) p)
/-- FRAME_TX_DONE (R302). -/
def execFrameTxDone (p : Nat) (s : State) : Host.Outcome State Fault Refusal := done (txDone s p)
/-- LINK_UP (R293). -/
def execLinkUp (p : Nat) (s : State) : Host.Outcome State Fault Refusal := done (linkUp s p)
/-- LINK_DOWN (R293). -/
def execLinkDown (p : Nat) (s : State) : Host.Outcome State Fault Refusal := done (portCheck (linkDown s p) p)
/-- PORT_EN_WRITE (R307). -/
def execPortEnWrite (p : Nat) (v : Word) (s : State) : Host.Outcome State Fault Refusal :=
  done (portCheck (macCtrlWrite s p v) p)

end Sys2Proof.Machine
end

