-- ==== Sys2Proof/Machine/Start.lean ====
section
/-! DEFINITION. Machine/Start.lean: descriptors reach their blocks (R58, R64, Table 2-11), host-memory
transfers finish or fail (R58, R63), rings and the host interface are taken out of service. -/
namespace Sys2Proof.Machine

/-! ### What follows when descriptors end early -/

/-- RAW_TX frames that wait for space leave with their descriptors (Table 2-12). -/
def settleWaiting (s : State) : State :=
  let gone := fun (f : TxFrame) => match f.sender with
    | .rawTx id _ => match findTrack s id with
      | some t => t.phase.finished
      | none => true
    | _ => false
  (List.range 38).foldl (fun s p => [0, 1, 2].foldl (fun s q =>
    let w := waitingAt s p q
    if w.any gone then setWaitingAt s p q (w.filter fun f => !gone f) else s) s) s

/-- What descriptors that ended before their point of no return leave behind is settled: the frames and requests
that waited, an activation, and the turns of those behind them. -/
def settle (s : State) : State :=
  (List.range 7).foldl nextLoad (nextBlock (settleJobs (settleWaiting (settleAct s))))

/-! ### A descriptor reaches its block -/

/-- The opcodes that the host may issue on a unit in SYNCING or STANDBY (R324). -/
def standbyAllows (d : Desc) : Bool :=
  [0x03, 0x12, 0x23, 0x31, 0x32, 0x40, 0x41, 0x42, 0x43, 0x44, 0x45, 0x60, 0x61, 0x62, 0x70, 0x71, 0x72, 0x73].contains d.opcode ||
    decide (d.opcode = 0x30 ∧ 32 ≤ d.object)

/-- The twin rules refuse the descriptor: R324, and R330 for a TABLE_LOAD while a copy is under way. -/
def twinRefuses (s : State) (d : Desc) : Bool :=
  s.boot.twinEn &&
    ((decide (s.twn.state = .syncing ∨ s.twn.state = .standby) && !standbyAllows d) ||
     (decide (d.opcode = 0x11) && s.twn.driving && s.twn.copyOut.isSome && decide (s.twn.partner = 1)))

/-- The checks that a descriptor which joins commit windows meets at arrival. -/
def arrival (s : State) (d : Desc) : Nat :=
  match d.opcode with
  | 0x04 => bindArrival s d
  | 0x05 => bindArrival s d
  | 0x10 => commitArrival d
  | 0x13 => layerArrival d
  | 0x14 => sessionArrival d
  | 0x15 => sourceArrival s d
  | 0x16 => hoopSetArrival d
  | 0x17 => colourArrival d
  | 0x20 => motifCtrlArrival d
  | 0x21 => programArrival d
  | 0x22 => portArrival d
  | 0x24 => ownerArrival d
  | 0x70 => roleArrival s d
  | _ => stBad

/-- The tracker entry `t`, which may start, is handed to the block of its opcode (Table 2-6). -/
def startEntry (s : State) (t : Track) : State :=
  let s := handOver s t.id
  if twinRefuses s t.desc then finish s t.id stState 0 0
  else match t.desc.opcode with
    | 0x01 => forwardStep s t.id [] fun s => startAlloc s t
    | 0x02 => startWrite s t
    | 0x03 => startRead s t
    | 0x06 => forwardStep s t.id [] fun s => startFree s t
    | 0x11 => startLoad s t
    | 0x12 => startTableRead s t
    | 0x23 => startDigestRead s t
    | 0x30 => startRawTx s t
    | 0x31 => startRxPost s t
    | 0x32 => startRxFilter s t
    | 0x40 => startBlock s t
    | 0x41 => startVerify s t
    | 0x42 => startActivate s t
    | 0x43 => startConfirm s t
    | 0x44 => startStoreWrite s t
    | 0x45 => startStoreRead s t
    | 0x60 => settle (runAbort s t.id t.desc)
    | 0x71 => startTwinSync s t
    | 0x72 => startTwinMirror s t
    | 0x73 => startSampler s t
    | _ =>
      let st := arrival s t.desc
      if st ≠ stOk then finish s t.id st 0 0 else forwardJoined (joinTrack s t.id)

/-- Ring `n` can take one more descriptor from the host (R50, R67, R81). -/
def ringServes (s : State) (n : Nat) : Bool :=
  decide (n < 64) && engineRuns s && sqEnabled s n && !tget (fun _ => false) s.hif.fault n && cqEnabled s (sqCq s n) &&
    (if sqControl s n then decide (inFlightControl s < 16) else decide (inFlight s < 512))

/-- Entry `id` is handed over, where it is on its way to its block. -/
def startReady (s : State) (id : Nat) : State :=
  match findTrack s id with
  | some t => if t.phase = .ready then startEntry s t else s
  | none => s

/-- The entry `t`, the next of its ring to start, does: released first where it was held back. -/
def startNext (s : State) (t : Track) : State :=
  startReady (if t.phase = .held then release s t.id else s) t.id

/-- The descriptor `d` of ring `n` starts. Where an earlier one of the ring is due to start, that must be `d`
itself (R64); with none, `d` is what the host placed in the ring's next slot, and HIF fetches it now. -/
def startDesc (s : State) (n : Nat) (d : Desc) : State :=
  match nextToStart s n with
  | some t => if t.desc = d then startNext s t else s
  | none =>
    if ringServes s n then
      let s := if tailOf s n = headOf s n then
          setHif s { s.hif with tail := tput (fun _ => 0) s.hif.tail n (headOf s n + 1) } else s
      let id := s.hif.nextId
      startReady (fetchSlots s n [d]) id
    else s

/-- The descriptor with its opcode. -/
def withOp (op : Nat) (d : Desc) : Desc := { d with opcode := op }
/-- The descriptor with its opcode and field `hi:lo` of ARG0. -/
def withSub (op hi lo v : Nat) (d : Desc) : Desc :=
  { d with opcode := op, args := setFld ((d.args[0]?).getD 0) hi lo v :: d.args.drop 1 }

/-- The descriptor of ring `n` that is due to start does, whatever command its words name (R56, R64). -/
def startHeld (s : State) (n : Nat) : State :=
  match nextToStart s n with
  | some t => startNext s t
  | none => s

/-! ### Host-memory transfers (R58, R63) -/

/-- The frame of RAW_TX entry `id` has been read. -/
def rawHanded (s : State) (t : Track) : Bool :=
  (waitingAt s t.desc.object (darg t.desc 0 % 4)).any fun f => match f.sender with | .rawTx id _ => decide (id = t.id) | _ => false

/-- The host-memory transfer of a running entry has not finished. -/
def transferring (s : State) (t : Track) : Bool :=
  decide (t.phase = .running) &&
    match t.desc.opcode with
    | 0x02 => !writeHeld s t.id
    | 0x03 => true
    | 0x11 => !decide ((validating s t.desc.object).map (·.id) = some t.id)
    | 0x12 => true
    | 0x30 => !t.past && !rawHanded s t
    | 0x31 => (rxWriteOf s t).isSome
    | 0x40 => true
    | 0x44 => !s.upd.jobs.any fun j => decide (j.user = .host t.id)
    | 0x45 => readUnderWay s t
    | _ => false

/-- The oldest entry of ring `n` with tag `tag` whose transfer is under way. -/
def transferOf (s : State) (n tag : Nat) : Option Track :=
  s.hif.track.find? fun t => decide (t.ring = n ∧ t.desc.tag = tag) && transferring s t

/-- The transfer finishes, `data` having been read where the descriptor reads host memory. -/
def transferDone (s : State) (t : Track) (data : List Byte) : State :=
  let s := match t.desc.opcode with
    | 0x02 => forwardData s t.id data fun s => writeComplete s t data
    | 0x03 => readComplete s t
    | 0x11 => forwardData s t.id (slice data 0 t.desc.length) fun s => blockWritten s t data
    | 0x12 => tableReadDone s t
    | 0x30 => rawTxRead s t data
    | 0x31 => rxPostDone s t
    | 0x40 => imageBlockDone s t data
    | 0x44 => storeWriteRead s t data
    | 0x45 => storeReadDone s t none
    | _ => s
  let s := if [0x02, 0x03, 0x11, 0x12, 0x40].contains t.desc.opcode then memRequest s else s
  retryBehind s

/-- The transfer fails at host address `addr`: DMA_ERROR. The whole lines of a BUF_WRITE that `data`
holds were written; a staged part or image is invalid (R63). -/
def transferFailed (s : State) (t : Track) (addr : Nat) (data : List Byte) : State :=
  let lo := addr % 2 ^ 32
  let hi := addr / 2 ^ 32 % 2 ^ 32
  match t.desc.opcode with
  | 0x02 => finish (writeLines s t.desc data) t.id stDma lo hi
  | 0x11 => blockFailed (finish s t.id stDma lo hi) t
  | 0x12 => nextLoad (finish (dropRead s t.id) t.id stDma lo hi) t.desc.object
  | 0x31 => finish (dropRxWrite s t) t.id stDma lo hi
  | 0x40 => imageBlockFailed s t lo hi
  | 0x45 => storeReadDone s t (some (lo, hi))
  | _ => finish s t.id stDma lo hi

/-! ### Ring and interface service -/

/-- A write of HIF_SQ_CTRL(n) and what follows it in UPD, the ports and the legacy window. -/
def sqCtrlWrite (s : State) (n : Nat) (v : Word) : State := settleLgw (settle (writeSqCtrl s n v))

/-- A reset of the host interface and what follows it: the configuration space too returns to reset, and TIM
has free stamp entries again (R97, R98). -/
def hostReset (s : State) : State :=
  let s := settle (hifReset s)
  (List.range 38).foldl stampLostNotice { s with pcie := { s.pcie with readRequest := Pcie.reset.readRequest } }

/-! ### Meanings: the tracker -/

/-- DESCRIPTOR_START (R64): on ring `ring`. -/
def execDescriptorStart (ring : Nat) (s : State) : Host.Outcome State Fault Refusal := done (startHeld s ring)
/-- DESCRIPTOR_DMA_DONE (R58). -/
def execDescriptorDmaDone (ring tag : Nat) (data : List Byte) (s : State) : Host.Outcome State Fault Refusal :=
  done (match transferOf s ring tag with
    | some t => transferDone s t data
    | none => s)
/-- HOST_DMA_ERROR (R63). -/
def execHostDmaError (ring tag addr : Nat) (data : List Byte) (s : State) : Host.Outcome State Fault Refusal :=
  done (match transferOf s ring tag with
    | some t => transferFailed s t addr data
    | none => s)
/-- BUF_WRITE_COMPLETE (R149): its last pixel is handed to MEM. -/
def execBufWriteComplete (ring tag : Nat) (data : List Byte) (s : State) : Host.Outcome State Fault Refusal :=
  done (match findOp s ring tag 0x02 with
    | some t => transferDone s t data
    | none => s)
/-- BUF_FILL_COMPLETE (R161): of handle `n`. -/
def execBufFillComplete (n : Nat) (s : State) : Host.Outcome State Fault Refusal :=
  done (sendAcks (judgeAcks (retryBehind (fillComplete s n))))
/-- TABLE_VALIDATION_COMPLETE (R197): of part `p`. -/
def execTableValidationComplete (p : Nat) (s : State) : Host.Outcome State Fault Refusal :=
  done (sendAcks (judgeAcks (retryBehind (validationComplete s p))))
/-- SQ_ENABLE: a write of HIF_SQ_CTRL(n) with ENABLE = 1 (R76). -/
def execSqEnable (n : Nat) (v : Word) (s : State) : Host.Outcome State Fault Refusal :=
  done (sqCtrlWrite s n (v ||| 0x80000000))
/-- SQ_DISABLE: a write of HIF_SQ_CTRL(n) with ENABLE = 0 (R73). -/
def execSqDisable (n : Nat) (v : Word) (s : State) : Host.Outcome State Fault Refusal :=
  done (sqCtrlWrite s n (v &&& 0x7FFFFFFF))
/-- FUNCTION_LEVEL_RESET (R78). -/
def execFunctionLevelReset (s : State) : Host.Outcome State Fault Refusal := done (lgwClear (hostReset s))
/-- HOT_RESET (R78). -/
def execHotReset (s : State) : Host.Outcome State Fault Refusal := done (hostReset s)
/-- PCIE_LINK_LOSS (R78, R393). -/
def execPcieLinkLoss (s : State) : Host.Outcome State Fault Refusal :=
  done { failPush (lgwClear (hostReset s)) with pcie := { s.pcie with linkUp := false } }
/-- PERST_N_ASSERT (R385, R393): the PCIe core is held in reset. -/
def execPerstNAssert (s : State) : Host.Outcome State Fault Refusal :=
  done { failPush (lgwClear (hostReset s)) with pcie := Pcie.reset }

/-! ### Meanings: the descriptors of Table 2-6 -/

/-- BUF_ALLOC (R161). -/
def execBufAlloc (ring : Nat) (d : Desc) (s : State) : Host.Outcome State Fault Refusal :=
  done (startDesc s ring (withOp 0x01 d))
/-- BUF_WRITE (R147). -/
def execBufWrite (ring : Nat) (d : Desc) (s : State) : Host.Outcome State Fault Refusal :=
  done (startDesc s ring (withOp 0x02 d))
/-- BUF_READ (R162). -/
def execBufRead (ring : Nat) (d : Desc) (s : State) : Host.Outcome State Fault Refusal :=
  done (startDesc s ring (withOp 0x03 d))
/-- BUF_BIND (R170). -/
def execBufBind (ring : Nat) (d : Desc) (s : State) : Host.Outcome State Fault Refusal :=
  done (startDesc s ring (withOp 0x04 d))
/-- BUF_RETIRE (R170). -/
def execBufRetire (ring : Nat) (d : Desc) (s : State) : Host.Outcome State Fault Refusal :=
  done (startDesc s ring (withOp 0x05 d))
/-- BUF_FREE (R163). -/
def execBufFree (ring : Nat) (d : Desc) (s : State) : Host.Outcome State Fault Refusal :=
  done (startDesc s ring (withOp 0x06 d))
/-- COMMIT (R125). -/
def execCommit (ring : Nat) (d : Desc) (s : State) : Host.Outcome State Fault Refusal :=
  done (startDesc s ring (withOp 0x10 d))
/-- TABLE_LOAD (R195). -/
def execTableLoad (ring : Nat) (d : Desc) (s : State) : Host.Outcome State Fault Refusal :=
  done (startDesc s ring (withOp 0x11 d))
/-- TABLE_READ (R199). -/
def execTableRead (ring : Nat) (d : Desc) (s : State) : Host.Outcome State Fault Refusal :=
  done (startDesc s ring (withOp 0x12 d))
/-- LAYER_SET (R171). -/
def execLayerSet (ring : Nat) (d : Desc) (s : State) : Host.Outcome State Fault Refusal :=
  done (startDesc s ring (withOp 0x13 d))
/-- SESSION_SET (R137). -/
def execSessionSet (ring : Nat) (d : Desc) (s : State) : Host.Outcome State Fault Refusal :=
  done (startDesc s ring (withOp 0x14 d))
/-- SOURCE_SET (R154). -/
def execSourceSet (ring : Nat) (d : Desc) (s : State) : Host.Outcome State Fault Refusal :=
  done (startDesc s ring (withOp 0x15 d))
/-- HOOP_SET (R119). -/
def execHoopSet (ring : Nat) (d : Desc) (s : State) : Host.Outcome State Fault Refusal :=
  done (startDesc s ring (withOp 0x16 d))
/-- COLOUR_SET (R225). -/
def execColourSet (ring : Nat) (d : Desc) (s : State) : Host.Outcome State Fault Refusal :=
  done (startDesc s ring (withOp 0x17 d))
/-- MOTIF_CTRL command 1, SET_EPOCH (R276). -/
def execMotifCtrlSetEpoch (ring : Nat) (d : Desc) (s : State) : Host.Outcome State Fault Refusal :=
  done (startDesc s ring (withSub 0x20 7 0 1 d))
/-- MOTIF_CTRL command 2, CLAIM_NEXT (R276). -/
def execMotifCtrlClaimNext (ring : Nat) (d : Desc) (s : State) : Host.Outcome State Fault Refusal :=
  done (startDesc s ring (withSub 0x20 7 0 2 d))
/-- MOTIF_CTRL command 3, RELEASE (R276). -/
def execMotifCtrlRelease (ring : Nat) (d : Desc) (s : State) : Host.Outcome State Fault Refusal :=
  done (startDesc s ring (withSub 0x20 7 0 3 d))
/-- MOTIF_CTRL command 4, CLEAR_FOREIGN (R276). -/
def execMotifCtrlClearForeign (ring : Nat) (d : Desc) (s : State) : Host.Outcome State Fault Refusal :=
  done (startDesc s ring (withSub 0x20 7 0 4 d))
/-- MOTIF_CTRL command 5, RESET (R276). -/
def execMotifCtrlReset (ring : Nat) (d : Desc) (s : State) : Host.Outcome State Fault Refusal :=
  done (startDesc s ring (withSub 0x20 7 0 5 d))
/-- MOTIF_CTRL command 6, REPORT (R276). -/
def execMotifCtrlReport (ring : Nat) (d : Desc) (s : State) : Host.Outcome State Fault Refusal :=
  done (startDesc s ring (withSub 0x20 7 0 6 d))
/-- PROGRAM_SEND (R285). -/
def execProgramSend (ring : Nat) (d : Desc) (s : State) : Host.Outcome State Fault Refusal :=
  done (startDesc s ring (withOp 0x21 d))
/-- PORT_SET (R309). -/
def execPortSet (ring : Nat) (d : Desc) (s : State) : Host.Outcome State Fault Refusal :=
  done (startDesc s ring (withOp 0x22 d))
/-- DIGEST_READ (R269). -/
def execDigestRead (ring : Nat) (d : Desc) (s : State) : Host.Outcome State Fault Refusal :=
  done (startDesc s ring (withOp 0x23 d))
/-- OWNER_SET (R275). -/
def execOwnerSet (ring : Nat) (d : Desc) (s : State) : Host.Outcome State Fault Refusal :=
  done (startDesc s ring (withOp 0x24 d))
/-- RAW_TX (R302). -/
def execRawTx (ring : Nat) (d : Desc) (s : State) : Host.Outcome State Fault Refusal :=
  done (startDesc s ring (withOp 0x30 d))
/-- RX_POST (R300). -/
def execRxPost (ring : Nat) (d : Desc) (s : State) : Host.Outcome State Fault Refusal :=
  done (startDesc s ring (withOp 0x31 d))
/-- RX_FILTER (R299). -/
def execRxFilter (ring : Nat) (d : Desc) (s : State) : Host.Outcome State Fault Refusal :=
  done (startDesc s ring (withOp 0x32 d))
/-- IMAGE_BLOCK (R402). -/
def execImageBlock (ring : Nat) (d : Desc) (s : State) : Host.Outcome State Fault Refusal :=
  done (startDesc s ring (withOp 0x40 d))
/-- IMAGE_VERIFY (R403). -/
def execImageVerify (ring : Nat) (d : Desc) (s : State) : Host.Outcome State Fault Refusal :=
  done (startDesc s ring (withOp 0x41 d))
/-- IMAGE_ACTIVATE (R404). -/
def execImageActivate (ring : Nat) (d : Desc) (s : State) : Host.Outcome State Fault Refusal :=
  done (startDesc s ring (withOp 0x42 d))
/-- IMAGE_CONFIRM with REVERT = 0 (R408). -/
def execImageConfirm (ring : Nat) (d : Desc) (s : State) : Host.Outcome State Fault Refusal :=
  done (startDesc s ring (withSub 0x43 0 0 0 d))
/-- IMAGE_CONFIRM with REVERT = 1 (R408). -/
def execImageConfirmRevert (ring : Nat) (d : Desc) (s : State) : Host.Outcome State Fault Refusal :=
  done (startDesc s ring (withSub 0x43 0 0 1 d))
/-- STORE_WRITE with FORMAT = 0 (R414). -/
def execStoreWrite (ring : Nat) (d : Desc) (s : State) : Host.Outcome State Fault Refusal :=
  done (startDesc s ring (withSub 0x44 31 31 0 d))
/-- STORE_WRITE with FORMAT = 1 (R416). -/
def execStoreWriteFormat (ring : Nat) (d : Desc) (s : State) : Host.Outcome State Fault Refusal :=
  done (startDesc s ring (withSub 0x44 31 31 1 d))
/-- STORE_READ (R413). -/
def execStoreRead (ring : Nat) (d : Desc) (s : State) : Host.Outcome State Fault Refusal :=
  done (startDesc s ring (withOp 0x45 d))
/-- ABORT (R70). -/
def execAbort (ring : Nat) (d : Desc) (s : State) : Host.Outcome State Fault Refusal :=
  done (startDesc s ring (withOp 0x60 d))
/-- FENCE (R56). -/
def execFence (ring : Nat) (d : Desc) (s : State) : Host.Outcome State Fault Refusal :=
  done (startDesc s ring (withOp 0x61 d))
/-- NOP (R56). -/
def execNop (ring : Nat) (d : Desc) (s : State) : Host.Outcome State Fault Refusal :=
  done (startDesc s ring (withOp 0x62 d))
/-- TWIN_ROLE ACTIVE (R349). -/
def execTwinRoleActive (ring : Nat) (d : Desc) (s : State) : Host.Outcome State Fault Refusal :=
  done (startDesc s ring (withSub 0x70 1 0 1 d))
/-- TWIN_ROLE HANDOVER (R341). -/
def execTwinRoleHandover (ring : Nat) (d : Desc) (s : State) : Host.Outcome State Fault Refusal :=
  done (startDesc s ring (withSub 0x70 1 0 2 d))
/-- TWIN_ROLE COLD (R318). -/
def execTwinRoleCold (ring : Nat) (d : Desc) (s : State) : Host.Outcome State Fault Refusal :=
  done (startDesc s ring (withSub 0x70 1 0 3 d))
/-- TWIN_SYNC (R350). -/
def execTwinSync (ring : Nat) (d : Desc) (s : State) : Host.Outcome State Fault Refusal :=
  done (startDesc s ring (withOp 0x71 d))
/-- TWIN_MIRROR (R351). -/
def execTwinMirror (ring : Nat) (d : Desc) (s : State) : Host.Outcome State Fault Refusal :=
  done (startDesc s ring (withOp 0x72 d))
/-- SAMPLER_RUN (R352). -/
def execSamplerRun (ring : Nat) (d : Desc) (s : State) : Host.Outcome State Fault Refusal :=
  done (startDesc s ring (withOp 0x73 d))

end Sys2Proof.Machine
end

