-- ==== Sys2Proof/Machine/RegWrite.lean ====
section
/-! DEFINITION. Machine/RegWrite.lean: a register write as the host or a control core makes it: the
width rule (R40), the block it falls in (Table 2-2), and the behaviour of its own that the register has;
every other register stores its Set fields and clears its Latch fields (R12). -/
namespace Sys2Proof.Machine

/-- The number `i < n` for which `a` is `base + stride × i`. -/
def indexAt (a base stride n : Nat) : Option Nat :=
  if base ≤ a ∧ (a - base) % stride = 0 ∧ (a - base) / stride < n then some ((a - base) / stride) else none

/-- `f i` where `a` is the `i`-th of `n` registers, else `other`. -/
def onIndex (a base stride n : Nat) (f : Nat → State) (other : State) : State :=
  match indexAt a base stride n with
  | some i => f i
  | none => other

/-! ### Blocks -/

/-- GLB and the MSI-X table. -/
def writeGlb (s : State) (a : Nat) (v : Word) : State :=
  if a = GLB_BEHAV then behavWrite s v
  else onIndex a (MSIX_CTRL 0) 16 64 (fun i => if bitW v 0 then plainWrite s a v else msixUnmask s i) (plainWrite s a v)

/-- HIF. -/
def writeHif (s : State) (a : Nat) (v : Word) : State :=
  if a = HIF_CTRL then writeHifCtrl s v
  else
    onIndex a (HIF_SQ_CTRL 0) 0x20 64 (fun n => sqCtrlWrite s n v) <|
    onIndex a (HIF_SQ_BASE_LO 0) 0x20 64 (fun n => writeBase s a (sqEnabled s n) v) <|
    onIndex a (HIF_SQ_BASE_HI 0) 0x20 64 (fun n => writeBase s a (sqEnabled s n) v) <|
    onIndex a (HIF_CQ_CTRL 0) 0x20 64 (fun m => writeCqCtrl s m v) <|
    onIndex a (HIF_CQ_BASE_LO 0) 0x20 64 (fun m => writeBase s a (cqEnabled s m) v) <|
    onIndex a (HIF_CQ_BASE_HI 0) 0x20 64 (fun m => writeBase s a (cqEnabled s m) v) (plainWrite s a v)

/-- BOOT. -/
def writeBoot (s : State) (a : Nat) (v : Word) : State :=
  if a = BOOT_CTRL then bootCtrlWrite s v true
  else if a = BOOT_RESET then bootReset s v
  else if a = BOOT_SQUELCH then squelchWrite s v
  else plainWrite s a v

/-- TIM. -/
def writeTim (s : State) (a : Nat) (v : Word) : State :=
  if a = TIM_CTRL then timCtrlWrite s v
  else if a = TIM_RATE then writeTimRate s v
  else if a = TIM_MASTER_CTRL then writeMasterCtrl s v
  else onIndex a (TIM_PULSE_CTRL 0) 0x20 8 (fun i => writePulseCtrl s i v) (plainWrite s a v)

/-- The settings of HOOP are such as R109 and R24 allow, and the active configuration keeps within its budgets
at their rate (R30). -/
def hoopSettingOk (s : State) : Bool :=
  let l := fun i => (reg s (HOOP_LEAD i)).toNat
  let (num, den) := (regFld s HOOP_RATE 31 12, regFld s HOOP_RATE 11 0)
  rateOk num den && leadsOk (l 0) (l 1) (l 2) (l 3) (l 4) && budgetsOk s.cfg num den

/-- HOOP: its settings are taken only while the generator is stopped, and only where they are allowed
(R24, R30, R118). DESIGN CHOICE (log 71): each write is judged against the settings it would leave, and one
that is not allowed, which no status can answer, changes nothing and sets HOOP_STATUS.CFG_REFUSED. -/
def writeHoop (s : State) (a : Nat) (v : Word) : State :=
  if a = HOOP_CTRL then hoopCtrlWrite s v
  else if a = HOOP_MODE ∨ a = HOOP_RATE ∨ a = HOOP_ALIGN ∨ a = HOOP_WORD ∨ a = HOOP_START_NUM ∨
      (indexAt a (HOOP_LEAD 0) 4 5).isSome = true then
    let t := plainWrite s a v
    if s.hoop.running || !hoopSettingOk t then latch s HOOP_STATUS 24
    else if a = HOOP_MODE ∧ hoopMode t ≠ hoopMode s then modeChanged t
    else t
  else plainWrite s a v

/-- ING. -/
def writeIng (s : State) (a : Nat) (v : Word) : State :=
  if a = ING_CURVE_DATA then curveWrite s v else plainWrite s a v

/-- STI. -/
def writeSti (s : State) (a : Nat) (v : Word) : State :=
  onIndex a (STI_LANE_CTRL 0) 0x20 4 (fun g => laneCtrlWrite s g v) (plainWrite s a v)

/-- A register of EGR whose fields `mask` do not change while schedules are active (R257, R261). -/
def egrGuarded (s : State) (a : Nat) (v mask : Word) : State :=
  if decide (schedPart s ≠ []) && decide ((reg s a ^^^ v) &&& mask ≠ 0) then
    plainWrite (latch s EGR_STATUS 29) a ((v &&& ~~~mask) ||| (reg s a &&& mask))
  else plainWrite s a v

/-- EGR. -/
def writeEgr (s : State) (a : Nat) (v : Word) : State :=
  if a = EGR_TIRUM then (if schedPart s ≠ [] then latch s EGR_STATUS 29 else plainWrite s a v)
  else if a = EGR_CTRL then egrGuarded s a v 0x80000000
  else if a = EGR_AUTH then noteKey (egrGuarded s a v 0x80000000)
  else plainWrite s a v

/-- A register of port `p`. -/
def writeMac (s : State) (a : Nat) (v : Word) : State :=
  let p := (a - 0x280000) / 0x1000
  if 38 ≤ p then s
  else match a % 0x1000 with
    | 0x00 => portCheck (macCtrlWrite s p v) p
    | 0x04 => macSettingWrite s p a v
    | 0x08 => macSettingWrite s p a v
    | 0x0C => macSettingWrite s p a v
    | 0x10 => macSettingWrite s p a v
    | 0x14 => macSettingWrite s p a v
    | 0x18 => macSettingWrite s p a v
    | 0x2C => if bitW v 31 then fwTxGo s p v else plainWrite s a v
    | 0x34 => fwRelease s p v
    | 0x40 => clearCounters s p v
    | _ => plainWrite s a v

/-- TWN. -/
def writeTwn (s : State) (a : Nat) (v : Word) : State :=
  if a = TWN_LINK then linkWrite s v else if a = TWN_BOOT then bootWrite s v else plainWrite s a v

/-- CCS. -/
def writeCcs (s : State) (a : Nat) (v : Word) : State :=
  if 0x348000 ≤ a ∧ a < 0x350000 then writeTcb s (a - 0x348000) v
  else
    onIndex a (CCS_WDOG 0) 0x10 8 (fun c => writeCcsWdog s c v) <|
    onIndex a (NQ_CTRL 0) 0x20 16 (fun q => writeNqCtrl s q v) <|
    onIndex a (CCS_THR_CTRL 0) 0x10 256 (fun t => writeThrCtrl s t v) (plainWrite s a v)

/-- The check-value units: a write by the host has no effect (R377). -/
def writeCvu (s : State) (src : Source) (a : Nat) (v : Word) : State :=
  fromCore src s fun c =>
    onIndex a (CVU_CTRL 0) 0x100 4 (fun u => writeCvuCtrl s c u v) <|
    onIndex a (CVU_FEED_B 0) 0x100 4 (fun u => cvuFeed s c u 1 v) <|
    onIndex a (CVU_FEED_H 0) 0x100 4 (fun u => cvuFeed s c u 2 v) <|
    onIndex a (CVU_FEED_W 0) 0x100 4 (fun u => cvuFeed s c u 4 v) (plainWrite s a v)

/-- KEY. -/
def writeKey (s : State) (src : Source) (a : Nat) (v : Word) : State :=
  if a = KEY_CTRL then keyCtrlWrite s src v
  else if a = KEY_STATUS then keyStatusWrite s v
  else if a = KEY_CMD then
    let s := plainWrite s a v
    if bitW v 31 then noteKey (keyGo s src) else s
  else onIndex a (KEY_DATA 0) 4 8 (fun _ => keyDataWrite s src a v) (plainWrite s a v)

/-- UPD. -/
def writeUpd (s : State) (a : Nat) (v : Word) : State :=
  if a = UPD_FW_CMD then fwCmdWrite s v else plainWrite s a v

/-- An aligned 32-bit write at BAR0 offset `a`, outside the LGW block. -/
def writeReg (s : State) (src : Source) (a : Nat) (v : Word) : State :=
  if a < 0x10000 then writeGlb s a v
  else if a < 0x20000 then writeHif s a v
  else if a < 0x40000 then writeBoot s a v
  else if a < 0x80000 then plainWrite s a v
  else if a < 0xA0000 then writeTim s a v
  else if a < 0x100000 then writeHoop s a v
  else if a < 0x140000 then writeIng s a v
  else if a < 0x200000 then plainWrite s a v
  else if a < 0x240000 then writeSti s a v
  else if a < 0x280000 then writeEgr s a v
  else if a < 0x300000 then writeMac s a v
  else if a < 0x340000 then writeTwn s a v
  else if a < 0x360000 then writeCcs s a v
  else if a < 0x380000 then writeCvu s src a v
  else if a < 0x3A0000 then writeKey s src a v
  else if a < 0x3C0000 then writeUpd s a v
  else plainWrite s a v

/-- A write within the LGW block: one byte enable names the register (R474). -/
def writeLgwAt (s : State) (a be : Nat) (v : Word) : State :=
  let lane := fun k => lgwWrite s (a - 0x3C0000 + k) ((v.toNat / 2 ^ (8 * k)) % 256)
  match be % 16 with
  | 0 => s
  | 1 => lane 0
  | 2 => lane 1
  | 4 => lane 2
  | 8 => lane 3
  | _ => lgwWidth s

/-- A write at BAR0 offset `a` with byte enables `be` (R40). -/
def writeBar0 (s : State) (src : Source) (a be : Nat) (v : Word) : State :=
  if 0x3C0000 ≤ a ∧ a < 0x3E0000 then writeLgwAt s (a / 4 * 4) be v
  else if a % 4 ≠ 0 ∨ be % 16 ≠ 15 then latch s HIF_ERR 5
  else writeReg s src a v

/-! ### Control cores (Table 13-1, Table 13-4) -/

/-- Byte `k` of a word. -/
def byteOf (v : Word) (k : Nat) : Byte := BitVec.ofNat 8 (v.toNat / 2 ^ (8 * k))

/-- The bytes of `v` that `be` enables, stored from address `a` on. -/
def storeLanes (t : Table Byte) (a be : Nat) (v : Word) : Table Byte :=
  [0, 1, 2, 3].foldl (fun t k => if bitOf be k then tput (fun _ => 0) t (a + k) (byteOf v k) else t) t

/-- The last byte that a store at `a` with byte enables `be` reaches. -/
def lastLane (a be : Nat) : Nat := a + (if bitOf be 3 then 3 else if bitOf be 2 then 2 else if bitOf be 1 then 1 else 0)

/-- Core `c` has written the shared word that holds `a`: the reservations of it by other cores fall (R355). -/
def dropReserved (s : State) (c a : Nat) : State :=
  (List.range 8).foldl (fun s d =>
    if d ≠ c ∧ (coreOf s d).reserved = some (a / 4 * 4) then setCore s d { coreOf s d with reserved := none } else s) s

/-- Bytes stored by core `c` in shared memory. -/
def storeShared (s : State) (c a be : Nat) (v : Word) : State :=
  dropReserved (dropReserved
    { s with ccs := { s.ccs with shared := storeLanes s.ccs.shared (a - 0x20000000) be v } } c a) c (lastLane a be)

/-- Bytes stored by core `c` through its package window (CCS_PKG_WIN): none before MEM_READY (R394). -/
def storePackage (s : State) (c a be : Nat) (v : Word) : State :=
  if !s.boot.memReady then s
  else
    let p := windowAddr s c a
    [0, 1, 2, 3].foldl (fun s k => if bitOf be k then packageWrite s (p + k) (byteOf v k) else s)
      (stackRequest s (Config.packageStack p % 2))

/-- A write to core `c`'s scheduler port at offset `off`. -/
def writePort (s : State) (c off : Nat) (v : Word) : State :=
  match off with
  | 0x004 => schWait s c v.toNat
  | 0x008 => schYield s c
  | 0x00C => schExit s c
  | 0x020 => schSignal s c v
  | 0x024 => schTimer s c v
  | 0x028 => schWdog s c
  | _ => match runningOn s c with
    | some t => writeStaged s t off v
    | none => s

/-- A store by core `c` at address `a` of its map, of the bytes that `be` enables (R354). One that runs
out of its area, and one to the scheduler port that is not an aligned word, raises an access fault. -/
def writeCore (s : State) (c : Fin 8) (a be : Nat) (v : Word) : State :=
  if areaOf (lastLane a be) ≠ areaOf a then accessFault s c a
  else
    match areaOf a with
    | .imem => { s with ccs := { s.ccs with imem := storeLanes s.ccs.imem (0x40000 * c + a) be v } }
    | .dmem => { s with ccs := { s.ccs with dmem := storeLanes s.ccs.dmem (0x20000 * c + (a - 0x10000000)) be v } }
    | .shared => storeShared s c a be v
    | .blocks => writeBar0 s (.core c) (a - 0x40000000) be v
    | .port => if a % 4 ≠ 0 ∨ be % 16 ≠ 15 then accessFault s c a else writePort s c (a - 0x50000000) v
    | .package => storePackage s c a be v
    | .nothing => accessFault s c a

/-! ### Meaning -/

/-- REGISTER_WRITE (R12): by the host at a BAR0 offset, or by a control core at an address of its map. -/
def execRegisterWrite (src : Source) (addr be : Nat) (v : Word) (s : State) : Host.Outcome State Fault Refusal :=
  match src with
  | .host => if addr < 0x4000000 then done (writeBar0 s src addr be v) else .fault .outsideBar
  | .core c => done (writeCore s c (addr % 2 ^ 32) be v)

end Sys2Proof.Machine
end

