-- ==== Sys2Proof/Machine/RegRead.lean ====
section
/-! DEFINITION. Machine/RegRead.lean: what a read of a BAR0 register shows: its stored Set and Latch
fields together with its Live and Fixed fields, each computed from the state that gives it (R12). A
Kick bit and a reserved bit read 0. Reads by a control core use it (Machine/Access.lean). -/
namespace Sys2Proof.Machine

/-- Which of `n` registers at `base`, `base + stride`, … stands at `a`. -/
def nth (a base stride n : Nat) : Option Nat :=
  if base ≤ a ∧ (a - base) % stride = 0 ∧ (a - base) / stride < n then some ((a - base) / stride) else none

/-- A signed value sign-extended to a register word. -/
def s32 (v : Int) : Nat := toBits 32 v

/-- Live and Fixed fields of GLB and MEM (chapter 17), and of the vector table's pending bits (R80). -/
def liveGlb (s : State) (a : Nat) : Nat :=
  if a = GLB_PCI_IDS then 0x9640 * 65536 + Config.vendorId % 65536
  else if a = GLB_IDENT then 0x20 * 2 ^ 24 + Config.grade % 4 * 2 ^ 22 + 0x06
  else if a = GLB_SERIAL_LO then Config.serial % 2 ^ 32
  else if a = GLB_SERIAL_HI then Config.serial / 2 ^ 32 % 2 ^ 32
  else if a = GLB_FAULT then
    match s.glb.halted with
    | some d => 2 ^ 31 + d % 8
    | none => 0
  else if a = MEM_ECC_ADDR_LO then s.glb.eccAddr / 8 * 8 % 2 ^ 32
  else if a = MEM_ECC_ADDR_HI then s.glb.eccAddr / 2 ^ 32 % 8
  else
    match nth a 0x9000 4 2 with
    | some w => sumNat ((List.range 32).map fun v => b2n (vecOf s (32 * w + v)).pending * 2 ^ v)
    | none => 0

/-- Live fields of HIF (chapter 2). -/
def liveHif (s : State) (a : Nat) : Nat :=
  if a = HIF_STATUS then
    b2n s.hif.pollOut * 2 ^ 11 + b2n (decide (512 ≤ inFlight s)) * 2 ^ 10 + inFlight s % 1024
  else
    match nth a (HIF_SQ_STAT 0) 0x20 64, nth a (HIF_SQ_HEAD 0) 0x20 64, nth a (HIF_CQ_STAT 0) 0x20 64,
      nth a (HIF_CQ_POS 0) 0x20 64 with
    | some n, _, _, _ =>
      b2n (!sqEnabled s n && decide (inFlightRing s n = 0)) * 2 ^ 31
        + b2n (tget (fun _ => false) s.hif.fault n) * 2 ^ 30 + inFlightRing s n % 1024
    | _, some n, _, _ => (headOf s n).toNat
    | _, _, some m, _ => b2n (cqEnabled s m && !cqRoom s m) * 2 ^ 31
    | _, _, _, some m => (prodOf s m).toNat
    | _, _, _, _ => 0

/-- Live fields of BOOT (chapter 14). -/
def liveBoot (s : State) (a : Nat) : Nat :=
  let b := s.boot
  let ports := fun lo n => sumNat ((List.range n).map fun k => b2n (b.lifted.contains (lo + k)) * 2 ^ k)
  if a = BOOT_STATUS then
    b.state.code * 2 ^ 29 + b2n (b.busy || b.pushing.isSome) * 2 ^ 28 + b2n (keyed s) * 2 ^ 27
      + b2n b.memReady * 2 ^ 26 + b.mode % 4 * 2 ^ 24 + b.err % 256
  else if a = BOOT_ACCEPTED then b.image.length % 2 ^ 32
  else if a = BOOT_FW_VERSION then b.fwVersion % 2 ^ 32
  else if a = BOOT_CAUSE then b.causeRail % 256 * 256 + b.cause % 8
  else if a = BOOT_SQUELCH then b.stepsDone % 8 * 2 ^ 27
  else if a = BOOT_LIFTED_LO then ports 0 32
  else if a = BOOT_LIFTED_HI then ports 32 6
  else 0

/-- Live fields of PSM (chapter 18). -/
def livePsm (s : State) (a : Nat) : Nat :=
  let p := s.psm
  if a = PSM_STATUS then b2n p.writeOk * 2 ^ 31 + p.refusing % 512 * 2 ^ 16 + p.inRange % 512
  else if a = PSM_TEMP then s32 p.tj
  else
    match nth a (PSM_HBM_TEMP 0) 4 2, nth a (PSM_RAIL 1) 4 9 with
    | some k, _ => s32 ((p.hbm[k]?).getD 0)
    | _, some n => tget (fun _ => 0) p.mv (n + 1) % 65536
    | _, _ => 0

/-- Live fields of TIM (chapter 3). -/
def liveTim (s : State) (a : Nat) : Nat :=
  let t := s.tim
  if a = TIM_STATUS then t.mode.code * 2 ^ 30 + b2n (decide (t.left ≠ 0)) * 2 ^ 29 + toBits 24 t.left
  else if a = TIM_TIME_HI then t.snapSec / 2 ^ 32 % 65536 * 65536
  else if a = TIM_SNAP_LO then t.snapSec % 2 ^ 32
  else if a = TIM_SNAP_NSQ then t.snapNsq % 2 ^ 32
  else if a = TIM_WCLK_STAT then b2n t.wclk.present * 2 ^ 31 + sumNat t.wclk.periods % 2 ^ 24
  else
    match nth a (TIM_PORT_TS 0) 0x10 38, nth a (TIM_PULSE_CTRL 0) 0x20 8, nth a (TIM_CAP_CTRL 0) 4 8 with
    | some p, _, _ => (stampsOf s p).entries.length % 32
    | _, some k, _ => b2n (pulseOf s k).next.isSome * 2 ^ 29
    | _, _, some k => (capOf s k).fifo.length % 8
    | _, _, _ => 0

/-- Live fields of HOOP (chapter 4). -/
def liveHoop (s : State) (a : Nat) : Nat :=
  let h := s.hoop
  if a = HOOP_STATUS then
    b2n h.running * 2 ^ 31 + b2n s.win.isOpen * 2 ^ 30 + h.ref.state.code * 2 ^ 28 + b2n h.aligned * 2 ^ 27
      + b2n h.slewing * 2 ^ 26 + b2n h.aborted * 2 ^ 25
  else if a = HOOP_NUM then h.number.toNat
  else if a = HOOP_NEXT_SEC then h.bNext / 4000000000 % 2 ^ 32
  else if a = HOOP_NEXT_NSQ then h.bNext % 4000000000
  else if a = HOOP_PHASE_ERR then s32 h.phaseErr
  else if a = HOOP_LTR then b2n h.limiterI * 2 ^ 31 + ltOf s % 2 ^ 24
  else if a = HOOP_ABORTS then h.lastCause % 256
  else 0

/-- Declared pixel rate of the enabled sessions of a configuration as a fraction (R138). -/
def declaredRate (c : Cfg) : Nat × Nat :=
  (enabledSessions c).foldl (fun (n, d) k => let r := sessRate c k; (n * r.2 + r.1 * d, d * r.2)) (0, 1)

/-- Live fields of ING (chapter 5). -/
def liveIng (s : State) (a : Nat) : Nat :=
  if a = ING_STATUS then (declaredRate s.cfg).1 / ((declaredRate s.cfg).2 * 1000000) % 2 ^ 14
  else
    match nth a (ING_PORT_STAT 0) 0x10 4, nth a (ING_SESS_STAT 0) 0x20 256, nth a (ING_SESS_FRAMES 0) 0x20 256,
      nth a (ING_SESS_SSRC 0) 0x20 256, nth a (ING_LAYER_SRC 0) 0x10 32 with
    | some p, _, _, _, _ =>
      if s.boot.memReady then (1048576 - tget (fun _ => 0) s.ing.bufUsed p) / 1024 else 0
    | _, some k, _, _, _ =>
      let x := sessOf s k
      x.state.code * 2 ^ 30 + b2n x.ssrc.isSome * 2 ^ 29 + x.age % 256 * 65536
    | _, _, some k, _, _ => (sessOf s k).complete.toNat
    | _, _, _, some k, _ => (sessOf s k).ssrc.getD 0 % 2 ^ 32
    | _, _, _, _, some l =>
      let x := sourceOf s l
      b2n (srcOn s.cfg l && x.cur.isNone) * 2 ^ 31
        + sumNat ((List.range 4).map fun n => b2n ((x.healthy[n]?).getD false) * 2 ^ (24 + n))
        + x.cur.getD 0 % 4 * 65536
    | _, _, _, _, _ => 0

/-- The lowest-numbered layer or session that names handle `n` (LAY_HSTAT.OWNER). -/
def handleOwner (s : State) (n : Nat) : Nat :=
  let c := namingCfg s
  match handleKind s n with
  | 1 => ((c.binds.find? fun b => decide (b.2 = some n)).map (·.1)).getD 0
  | 2 => ((enabledSessions c).find? fun k => (sessHandles c k).contains n).getD 0
  | 3 => ((enabledSources c).find? fun l => (hostHandles c l).contains n).getD 0
  | _ => 0

/-- Live fields of LAY and CMP (chapter 6). -/
def liveLay (s : State) (a : Nat) : Nat :=
  let c := s.cfg
  if a = LAY_POOL then 0x3000 * 65536 + s.lay.freePages % 65536
  else if a = LAY_CANVAS then c.cw % 65536 * 65536 + c.ch % 65536
  else if a = LAY_BG_RG then c.bgG % 65536 * 65536 + c.bgR % 65536
  else if a = LAY_BG_B then c.bgB % 65536
  else if a = LAY_COMP_BOUND then compCycles c / 8 % 2 ^ 24
  else if a = LAY_COMP_LAST then s.lay.compLast % 2 ^ 24
  else if a = LAY_PRK_WAIT then s.lay.prkWait % 2 ^ 32
  else
    match nth a (LAY_HSTAT 0) 0x10 1024, nth a (LAY_HSIZE 0) 0x10 1024, nth a (LAY_HFENCE 0) 0x10 1024 with
    | some n, _, _ =>
      let h := handleOf s n
      h.state.code * 2 ^ 29 + handleKind s n * 2 ^ 27 + b2n (pinned s n) * 2 ^ 26
        + handleOwner s n % 256 * 65536 + h.pages % 2048
    | _, some n, _ => (handleOf s n).w % 65536 * 65536 + (handleOf s n).h % 65536
    | _, _, some n => (handleOf s n).fence.toNat
    | _, _, _ =>
      match nth a (LAY_LCFG 0) 0x20 32, nth a (LAY_LOPACITY 0) 0x20 32, nth a (LAY_LCROP_XY 0) 0x20 32,
        nth a (LAY_LCROP_WH 0) 0x20 32, nth a (LAY_LDST 0) 0x20 32, nth a (LAY_LVIS 0) 0x20 32 with
      | some l, _, _, _, _, _ =>
        let w := layW c l 0
        let feed := if srcOn c l then 1 else if (bindOf c l).isSome then 2 else 0
        b2n (layOn c l) * 2 ^ 31 + bits w 29 28 * 2 ^ 29 + bits w 20 16 * 2 ^ 24 + feed * 2 ^ 22
          + (if feed = 2 then (bindOf c l).getD 0 % 1024 else 0)
      | _, some l, _, _, _, _ => bits (layW c l 1) 16 0
      | _, _, some l, _, _, _ => layW c l 2
      | _, _, _, some l, _, _ => layW c l 3
      | _, _, _, _, some l, _ => layW c l 4
      | _, _, _, _, _, some l => if layOn c l then visArea c l % 2 ^ 32 else 0
      | _, _, _, _, _, _ => 0

/-- STATE and REASON of a staging area (PRK_STAGE). -/
def stageWord (s : State) (p : Nat) : Nat :=
  let x := stageOf s p
  x.state.code * 2 ^ 29 + (if x.state = .invalid then x.reason % 256 * 65536 else 0)

/-- Bytes staged since BEGIN. -/
def stageBytes (s : State) (p : Nat) : Nat := (stageOf s p).data.length % 2 ^ 29

/-- BUILD_TAG of the active part `p`; 0 where none is active. -/
def activeTag (s : State) (p : Nat) : Nat := if partOf s.cfg p = [] then 0 else partTag (partOf s.cfg p)

/-- A block's *_BAD_ENTRY register. -/
def badEntryOf (s : State) (block : Nat) : Nat := (tget (fun _ => 0) s.badEntry block).toNat

/-- Live fields of PRK (chapter 7). -/
def livePrk (s : State) (a : Nat) : Nat :=
  let part := partOf s.cfg 0
  let on := part ≠ []
  if a = PRK_BAD_ENTRY then badEntryOf s 8
  else if a = PRK_ACTIVE_COUNT then if on then partCount part % 2 ^ 25 else 0
  else if a = PRK_ACTIVE_TAG then activeTag s 0
  else if a = PRK_MOTIF_TAG then activeTag s 1
  else if a = PRK_ACTIVE_CANVAS then if on then le part 12 2 * 65536 + le part 14 2 else 0
  else if a = PRK_ACTIVE_FIX then if on then prickFixtures part % 2 ^ 18 else 0
  else if a = PRK_WALK then if on then prickSlots part % 2 ^ 25 else 0
  else if a = PRK_MOTIFS then (enabledMotifs (motifPart s.cfg)).length % 2 ^ 15
  else
    match nth a (PRK_STAGE 0) 8 2, nth a (PRK_STAGE_BYTES 0) 8 2 with
    | some i, _ => stageWord s i
    | _, some i => stageBytes s i
    | _, _ => 0

/-- Live fields of COL (chapter 8). -/
def liveCol (s : State) (a : Nat) : Nat :=
  let c := s.cfg.colour
  let m := regFld s COL_EST_SEL 13 0
  if a = COL_STATUS then s.run.rev % 4 * 2 ^ 30 + b2n (decide (partOf s.cfg 6 ≠ [])) * 2 ^ 29
  else if a = COL_BRIGHT then b2n c.dither * 2 ^ 31 + c.bright % 2 ^ 17
  else if a = COL_FIX_BRIGHT then c.fixBright % 2 ^ 17
  else if a = COL_T_STALE then s32 c.tStale
  else if a = COL_STALE_HOOPS then c.staleHoops % 65536
  else if a = COL_T_ALARM then s32 c.tAlarm
  else if a = COL_STAGE then stageWord s 6
  else if a = COL_STAGE_BYTES then stageBytes s 6
  else if a = COL_BAD_ENTRY then badEntryOf s 9
  else if a = COL_ACTIVE_TAG then activeTag s 6
  else if a = COL_UCOUNT then if partOf s.cfg 6 = [] then 0 else uCount (partOf s.cfg 6) % 2 ^ 25
  else if a = COL_STALE then s.col.stale.length % 2 ^ 15
  else if a = COL_HOT then s.col.hot.length % 2 ^ 15
  else if a = COL_CLIP then s.col.clip % 2 ^ 32
  else if a = COL_EST_HOOP then s.col.estHoop.toNat
  else
    match nth a (COL_EST_T 0) 4 4, nth a (COL_EST_GAIN 0) 4 4, nth a (COL_STALE_MAP 0) 4 512 with
    | some k, _, _ => s32 (estOf s m k).shownTj
    | _, some k, _ => (estOf s m k).shownTg % 65536
    | _, _, some w => sumNat ((List.range 32).map fun b => b2n (s.col.stale.contains (32 * w + b)) * 2 ^ b)
    | _, _, _ => 0

/-- Live fields of STI (chapter 9). -/
def liveSti (s : State) (a : Nat) : Nat :=
  if a = STI_BAD_ENTRY then badEntryOf s 10
  else if a = STI_BAD_STEP then s.badStep.toNat
  else if a = STI_PROFILE_TAG then activeTag s 2
  else if a = STI_PROGRAM_TAG then activeTag s 3
  else
    match nth a (STI_STAGE 0) 8 2, nth a (STI_STAGE_BYTES 0) 8 2, nth a (STI_LANE_STAT 0) 0x20 4,
      nth a (STI_LANE_PASSES 0) 0x20 4, nth a (STI_LANE_PASS_LEN 0) 0x20 4, nth a (STI_SMB_STAT 0) 0x20 4 with
    | some i, _, _, _, _, _ => stageWord s (2 + i)
    | _, some i, _, _, _, _ => stageBytes s (2 + i)
    | _, _, some g, _, _, _ =>
      let x := laneOf s g
      b2n x.seq.isSome * 2 ^ 31 + b2n ((x.cur.map (·.held)).getD false) * 2 ^ 30
        + (match groupMotif s.cfg g with
          | some m => 2 ^ 29 + m % 2 ^ 14
          | none => 0)
    | _, _, _, some g, _, _ => (laneOf s g).passes.toNat
    | _, _, _, _, some g, _ => (laneOf s g).passLen % 2 ^ 32
    | _, _, _, _, _, some g =>
      sumNat ((List.range 4).map fun n => b2n (((laneOf s g).fail[n]?).getD false) * 2 ^ (28 + n))
        + toBits 17 ((laneOf s g).last.getD 0)
    | _, _, _, _, _, _ => 0

/-- Live fields of EGR (chapter 10). -/
def liveEgr (s : State) (a : Nat) : Nat :=
  if a = EGR_STATUS then b2n (decide (schedPart s ≠ [])) * 2 ^ 31 + b2n (noLinkKey s) * 2 ^ 30
  else if a = EGR_CID then s.cfg.cid % 65536
  else if a = EGR_BAD_ENTRY then badEntryOf s 11
  else if a = EGR_SCHED_TAG then activeTag s 4
  else if a = EGR_FIX_TAG then activeTag s 5
  else if a = EGR_DIGEST_HOOP then s.egr.digestHoop.toNat
  else
    match nth a (EGR_STAGE 0) 8 2, nth a (EGR_STAGE_BYTES 0) 8 2, nth a (EGR_PROG_PEND 0) 0x40 32 with
    | some i, _, _ => stageWord s (4 + i)
    | _, some i, _ => stageBytes s (4 + i)
    | _, _, some p => ((egrOf s p).pending.length + b2n (egrOf s p).sending.isSome) % 2 ^ 15
    | _, _, _ => 0

/-- Quanta left in port `p`'s received pause hold. -/
def pauseLeft (s : State) (p : Nat) : Nat :=
  match (portOf s p).hold with
  | some t => if held s p then ((t - s.tim.elapsedQ) * (quantum p).2 + (quantum p).1 - 1) / (quantum p).1 else 0
  | none => 0

/-- Live fields of the port registers (chapter 11). While LINK is 1, a lock loss or a fault that has not yet
brought LINK down shows in no field (R293, log 70). -/
def liveMac (s : State) (a : Nat) : Nat :=
  let p := (a - 0x280000) / 0x1000
  let x := portOf s p
  if 38 ≤ p then 0
  else if a = MAC_STATUS p then
    b2n x.link * 2 ^ 31 + b2n (x.link || x.lock) * 2 ^ 30 + b2n (!x.link && x.localFault) * 2 ^ 29
      + b2n (!x.link && x.remoteFault) * 2 ^ 28
      + b2n (held s p) * 2 ^ 27 + b2n x.xoff * 2 ^ 26 + pauseLeft s p % 65536
  else if a = MAC_FW_TX_CTRL p then b2n x.fwTx.isSome * 2 ^ 30
  else
    match nth (a - 0x1000 * p) 0x280100 4 41 with
    | some i => ((tget (fun _ => 0) x.counters i).toNat + (if i = 39 then heldQuanta s p else 0)) % 2 ^ 32
    | none => 0

/-- Live fields of TWN (chapter 12). -/
def liveTwn (s : State) (a : Nat) : Nat :=
  let t := s.twn
  if a = TWN_STATUS then
    t.state.code * 2 ^ 29 + b2n (t.driving || !s.boot.twinEn) * 2 ^ 28 + b2n s.boot.twinSide * 2 ^ 27
      + b2n s.boot.twinEn * 2 ^ 26 + b2n t.linkUp * 2 ^ 25 + b2n t.hbPresent * 2 ^ 24
      + b2n (t.marksNow || t.marksLast) * 2 ^ 23 + b2n t.runCurrent * 2 ^ 22 + b2n t.stepLost * 2 ^ 21
      + t.partner % 8 * 2 ^ 18 + b2n t.partnerDriving * 2 ^ 17 + t.pendingCount % 4 * 2 ^ 15
  else if a = TWN_SETS then t.sets.toNat
  else if a = TWN_DIVERGE_HOOP then t.divergeHoop.toNat
  else if a = TWN_DIVERGE_PORTS then t.divergePorts % 2 ^ 32
  else if a = TWN_SAMPLER then t.passes % 65536 * 65536 + t.failPart % 256
  else if a = TWN_SYNC then t.bytes / 1024 % 2 ^ 20 * 4096 + t.ms % 4096
  else 0

/-- Live fields of CCS and its notice queues (chapter 13). NQ_POP shows a core the word it last popped. -/
def liveCcs (s : State) (a : Nat) : Nat :=
  let depth := fun p => (listOf s p).length % 512
  if 0x348000 ≤ a ∧ a < 0x350000 then leNat (tgetList (fun _ => (0 : Byte)) s.ccs.tcb (a - 0x348000) 4)
  else if a = CCS_STATUS then sumNat ((List.range 32).map fun p => (listOf s p).length) % 512
  else if a = CCS_OBS_SEQ then s.ccs.obsSeq.toNat
  else if a = CCS_DISPATCH then s.ccs.shownDispatches % 2 ^ 32
  else
    match nth a (CCS_CORE_STAT 0) 0x10 8, nth a (CCS_LOAD 0) 0x10 8, nth a (CCS_RDY 0) 4 16,
      nth a (CCS_WAITT 0) 4 32 with
    | some c, _, _, _ =>
      match (coreOf s c).thread with
      | some t => 2 ^ 31 + t % 256 * 65536
      | none => 0
    | _, some c, _, _ => tget (fun _ => 0) s.ccs.load c % 65536
    | _, _, some i, _ => depth (2 * i + 1) * 65536 + depth (2 * i)
    | _, _, _, some p => (waitOf s p).shownMax % 65536 * 65536 + (waitOf s p).shownMean % 65536
    | _, _, _, _ =>
      match nth a (NQ_STAT 0) 0x20 16, nth a (NQ_TAG 0) 0x20 16, nth a (NQ_POP 0) 0x20 16,
        nth a (CCS_THR_CTRL 0) 0x10 256, nth a (CCS_THR_CNT 0) 0x10 256, nth a (CCS_THR_STAT 0) 0x10 256 with
      | some q, _, _, _, _, _ =>
        queueDepth s q % 1024 * 65536 + ((queueOf s q).words.filter (·.isEnd)).length % 1024
      | _, some q, _, _, _, _ => (queueOf s q).tag % 16
      | _, _, some q, _, _, _ => (queueOf s q).last.toNat
      | _, _, _, some t, _, _ => (threadOf s t).state.code * 2 ^ 29
      | _, _, _, _, some t, _ =>
        sumNat ((List.range 4).map fun k => (((threadOf s t).counts[k]?).getD 0) % 256 * 2 ^ (8 * k))
      | _, _, _, _, _, some t => (threadOf s t).waitMask % 16 * 256 + (threadOf s t).core % 8
      | _, _, _, _, _, _ => 0

/-- Live fields of the check-value units (chapter 13). -/
def liveCvu (s : State) (a : Nat) : Nat :=
  let u := (a - 0x360000) / 0x100
  let x := cvuOf s u
  if 4 ≤ u then 0
  else if a = CVU_CTRL u then
    match x.owner with
    | some t => 2 ^ 16 + t % 512
    | none => 0
  else if a = CVU_BYTES u then x.bytes % 2 ^ 32
  else if a = CVU_RESULT_LO u then cvuResult x % 2 ^ 32
  else if a = CVU_RESULT_HI u then cvuResult x / 2 ^ 32 % 2 ^ 32
  else 0

/-- Live fields of KEY (chapter 16). -/
def liveKey (s : State) (a : Nat) : Nat :=
  let k := s.key
  if a = KEY_STATUS then
    b2n k.adminEn * 2 ^ 31 + b2n k.tamperLow * 2 ^ 30 + b2n s.keep.wrap.isSome * 2 ^ 28 + b2n k.loaded * 2 ^ 27
      + slotsFilled s % 128
  else if a = KEY_CMD_STAT then
    b2n k.job.isSome * 2 ^ 31 + b2n ((k.job.map (·.waiting.isSome)).getD false) * 2 ^ 30 + k.stage % 4 * 256
      + k.result % 256
  else
    match nth a (KEY_PROVE_NONCE 0) 4 4, nth a (KEY_PROVE_RESP 0) 4 8, nth a (KEY_SLOT_STAT 0) 4 64 with
    | some w, _, _ => le k.nonce (4 * w) 4
    | _, some w, _ => le k.resp (4 * w) 4
    | _, _, some n =>
      let x := slotOf s n
      b2n (decide (x.key ≠ [])) * 2 ^ 31 + b2n (recordOfSlot s n).isSome * 2 ^ 30 + b2n x.unwrapFail * 2 ^ 29
        + x.mask % 32 * 65536
        + (match recordOfSlot s n with
          | some bs => keySeq bs % 65536
          | none => 0)
    | _, _, _ => 0

/-- Live fields of UPD (chapter 15). -/
def liveUpd (s : State) (a : Nat) : Nat :=
  let u := s.upd
  if a = UPD_STATUS then
    u.istate.code * 2 ^ 29 + b2n (trialOn s) * 2 ^ 28 + b2n u.storeReady * 2 ^ 27
      + b2n (u.jobs.any (·.waiting.isSome)) * 2 ^ 26 + writeBank s % 2 * 2 ^ 25
      + (confirmNow s).current % 2 * 2 ^ 24 + u.err % 256
  else if a = UPD_STAGED then u.image.length % 2 ^ 24
  else if a = UPD_STAGE_FW then u.fw % 2 ^ 32
  else if a = UPD_ACT_HOOP then u.actHoop.toNat
  else if a = UPD_CONFIRM_LEFT then
    match u.trial with
    | some t => (t.start + t.secs * 250000000 - s.tim.cyc) / 250000
    | none => 0
  else if a = UPD_STORE_FW then (confirmNow s).curFw
  else if a = UPD_STORE_GEN then (confirmNow s).curGen
  else if a = UPD_TRIAL_GEN then (confirmNow s).resvGen
  else if a = UPD_WEAR then s.keep.wear % 2 ^ 32
  else if a = UPD_FW_CMD then b2n u.fwBusy * 2 ^ 28
  else if a = UPD_FW_STAT then u.fwStatus % 256 * 2 ^ 24 + u.fwLength % 2 ^ 13
  else 0

/-- The Live and Fixed fields of the register at `a`; 0 where it has none. -/
def liveFields (s : State) (a : Nat) : Nat :=
  if a < 0x10000 then liveGlb s a else
  if a < 0x20000 then liveHif s a else
  if a < 0x40000 then liveBoot s a else
  if a < 0x80000 then livePsm s a else
  if a < 0xA0000 then liveTim s a else
  if a < 0x100000 then liveHoop s a else
  if a < 0x140000 then liveIng s a else
  if a < 0x180000 then liveLay s a else
  if a < 0x1C0000 then livePrk s a else
  if a < 0x200000 then liveCol s a else
  if a < 0x240000 then liveSti s a else
  if a < 0x280000 then liveEgr s a else
  if a < 0x300000 then liveMac s a else
  if a < 0x340000 then liveTwn s a else
  if a < 0x360000 then liveCcs s a else
  if a < 0x380000 then liveCvu s a else
  if a < 0x3A0000 then liveKey s a else
  if a < 0x3C0000 then liveUpd s a else
  liveGlb s a

/-- What `src` reads of the register at BAR0 offset `a`. To a core KEY_DATA and KEY_CTRL.ADMIN read 0
(R424). -/
def regRead (src : Source) (s : State) (a : Nat) : Word :=
  let w := reg s a ||| w32 (liveFields s a)
  match src with
  | .host => w
  | .core _ =>
    if KEY_DATA 0 ≤ a ∧ a ≤ KEY_DATA 7 then 0
    else if a = KEY_CTRL then w &&& 0x7FFFFFFF
    else w

end Sys2Proof.Machine
end

