-- ==== Sys2Proof/Machine/Access.lean ====
section
/-! DEFINITION. Machine/Access.lean: what a control core's fetch, load, LR, SC or AMO does at an address
of its map (R354 to R356, Table 13-1), and the meaning of CORE_FAULT. -/
namespace Sys2Proof.Machine

/-- The bytes an access reaches. -/
def accessWidth : CoreAccess → Nat
  | .fetch => 2
  | .load n => 2 ^ n.val
  | _ => 4

/-- What Table 13-1 and R355 let a core do at `a`. An atomic access is of an aligned word (log 74). -/
def coreAllows (kind : CoreAccess) (a : Nat) : Bool :=
  decide (areaOf (a + accessWidth kind - 1) = areaOf a) &&
  match kind, areaOf a with
  | _, .nothing => false
  | .fetch, .imem => true
  | .fetch, .shared => true
  | .fetch, _ => false
  | .load n, .port => decide (n = 2 ∧ a % 4 = 0)
  | .load _, _ => true
  | _, .dmem => decide (a % 4 = 0)
  | _, .shared => decide (a % 4 = 0)
  | _, _ => false

/-- Byte `a` of instruction, data or shared memory as core `c` sees it. -/
def coreByte (s : State) (c a : Nat) : Byte :=
  match areaOf a with
  | .imem => tget (fun _ => 0) s.ccs.imem (0x40000 * c + a)
  | .dmem => tget (fun _ => 0) s.ccs.dmem (0x20000 * c + (a - 0x10000000))
  | .shared => tget (fun _ => 0) s.ccs.shared (a - 0x20000000)
  | _ => 0

/-- `n` bytes from `a` on, least significant first. -/
def coreWord (s : State) (c a n : Nat) : Nat := leNat ((List.range n).map fun k => coreByte s c (a + k))

/-- A core's read of the register at BAR0 offset `a`: of an LGW register one byte (R471), of another the
full word whatever the byte enables (R40). -/
def loadReg (s : State) (c : Fin 8) (a n : Nat) : State :=
  if 0x3C0000 ≤ a ∧ a < 0x3E0000 then
    if n ≠ 1 then { lgwWidth s with readValue := 0 }
    else if a = 0x3C0002 then lgwRead s
    else { s with readValue := lgwByte s (a - 0x3C0000) }
  else
    let r := a / 4 * 4
    match nth r (NQ_POP 0) 0x20 16 with
    | some q => popQueue s q
    | none =>
      if r = ING_CURVE_DATA then curveRead s else { s with readValue := (regRead (.core c) s r).toNat }

/-- A core's read of its scheduler port at offset `off` (Table 13-4). -/
def loadPort (s : State) (c off : Nat) : State :=
  match runningOn s c with
  | none => { s with readValue := 0 }
  | some t =>
    let x := threadOf s t
    if off = 0 then { s with readValue := t }
    else if off = 4 then
      { s with readValue := sumNat ([0, 1, 2, 3].map fun k => b2n (decide ((x.counts[k]?).getD 0 ≠ 0)) * 2 ^ k) }
    else if 0x10 ≤ off ∧ off < 0x20 then schTake s c ((off - 0x10) / 4)
    else if off = 0x20 then { s with readValue := x.lastSignal }
    else if off = 0x24 then
      { s with readValue := match x.timer with
          | some due => (due - s.tim.cyc + 249) / 250
          | none => 0 }
    else if 0x100 ≤ off ∧ off < 0x140 then
      { s with readValue := (tget (fun _ => (0 : Word)) (stagedOf s t).words ((off - 0x100) / 4)).toNat }
    else if off = 0x140 then { s with readValue := (stagedOf s t).len }
    else if 0x200 ≤ off ∧ off < 0x240 then schPost s c ((off - 0x200) / 4)
    else { s with readValue := 0 }

/-- A core's load through its package window: 0 before MEM_READY, as BAR2 reads (R394). -/
def loadPackage (s : State) (c a n : Nat) : State :=
  if !s.boot.memReady then { s with readValue := 0 }
  else
    let p := windowAddr s c a
    let s := stackRequest s (Config.packageStack p % 2)
    { s with readValue := leNat ((List.range n).map fun k => packageByte s (p + k)) }

/-- A load of `n` bytes, or a fetch, that Table 13-1 allows. -/
def coreLoad (s : State) (c : Fin 8) (a n : Nat) : State :=
  match areaOf a with
  | .blocks => loadReg s c (a - 0x40000000) n
  | .port => loadPort s c (a - 0x50000000)
  | .package => loadPackage s c a n
  | _ => { s with readValue := coreWord s c a n }

/-- What an AMO stores of the word in memory and its operand (RV32A, PRESUMED, log 74). -/
def amoResult (op : AmoOp) (x v : Word) : Word :=
  match op with
  | .swap => v
  | .add => x + v
  | .xor => x ^^^ v
  | .and => x &&& v
  | .or => x ||| v
  | .min => if x.toInt ≤ v.toInt then x else v
  | .max => if x.toInt ≤ v.toInt then v else x
  | .minu => if x.toNat ≤ v.toNat then x else v
  | .maxu => if x.toNat ≤ v.toNat then v else x

/-- LR: the word is read and reserved (R355). -/
def coreLr (s : State) (c : Fin 8) (a : Nat) : State :=
  { setCore s c { coreOf s c with reserved := some a } with readValue := coreWord s c a 4 }

/-- SC: it succeeds while the core holds its reservation of this word, which a write of it by another core
ends (R355); the core reads 0 on success and 1 on failure, and holds no reservation after (log 74). -/
def coreSc (s : State) (c : Fin 8) (a : Nat) (v : Word) : State :=
  let held := decide ((coreOf s c).reserved = some a)
  let s := setCore s c { coreOf s c with reserved := none }
  if held then { writeCore s c a 15 v with readValue := 0 } else { s with readValue := 1 }

/-- AMO: the word is read and what the operation makes of it is stored (R355). -/
def coreAmo (s : State) (c : Fin 8) (a : Nat) (op : AmoOp) (v : Word) : State :=
  let x := coreWord s c a 4
  { writeCore s c a 15 (amoResult op (w32 x) v) with readValue := x }

/-- An access that Table 13-1 allows and that meets no uncorrectable word. -/
def coreServe (s : State) (c : Fin 8) (a : Nat) (kind : CoreAccess) : State :=
  match kind with
  | .lr => coreLr s c a
  | .sc v => coreSc s c a v
  | .amo op v => coreAmo s c a op v
  | .load n => coreLoad s c a (2 ^ n.val)
  | .fetch => coreLoad s c a 2

/-- ECC guards what stands at `a`: a core's memories, package memory, and the TCBs (R356, Table 17-2). -/
def eccGuards (a : Nat) : Bool :=
  match areaOf a with
  | .port => false
  | .nothing => false
  | .blocks => (tcbThread a).isSome
  | _ => true

/-- A core access, and what ECC makes of the words it meets: a corrected word counts in CORRECTED and has
no other effect; an uncorrectable one raises an access fault, as does an access Table 13-1 does not give
(R354 to R356). An uncorrectable TCB word is met by the scheduler's own load of it, at dispatch. -/
def coreAccess (s : State) (c : Fin 8) (a : Nat) (kind : CoreAccess) (e : EccRead) : State :=
  if e = .uncorrectable ∧ (tcbThread a).isSome then eccFault s c a
  else if !coreAllows kind a then accessFault s c a
  else if e = .uncorrectable ∧ eccGuards a then eccFault s c a
  else
    coreServe (if e = .corrected ∧ eccGuards a then latchCount s (CCS_CORE_STAT c) 15 0 1 else s) c a kind

/-- CORE_FAULT (R356). -/
def execCoreFault (c : Fin 8) (addr : Nat) (e : CoreTry) (s : State) : Host.Outcome State Fault Refusal :=
  done (coreAccess s c (addr % 2 ^ 32) e.kind e.ecc)

end Sys2Proof.Machine
end

