-- ==== Sys2Proof/Machine/Dispatch.lean ====
section
/-! DEFINITION. Machine/Dispatch.lean: the meaning of every command, one arm per constructor. -/
namespace Sys2Proof.Machine

/-- A command's effect on everything but the queue. -/
def exec (i : Instr) (s : State) : Host.Outcome State Fault Refusal :=
  match i with
  | .registerWrite src addr be v => Sys2Proof.Machine.execRegisterWrite src addr be v s
  | .pollIssue => Sys2Proof.Machine.execPollIssue s
  | .pollReturn ok tails releases addr => Sys2Proof.Machine.execPollReturn ok tails releases addr s
  | .descriptorFetch slots => Sys2Proof.Machine.execDescriptorFetch slots s
  | .descriptorReadFail addr => Sys2Proof.Machine.execDescriptorReadFail addr s
  | .descriptorStart ring => Sys2Proof.Machine.execDescriptorStart ring s
  | .atHoopRelease => Sys2Proof.Machine.execAtHoopRelease s
  | .completionWrite m => Sys2Proof.Machine.execCompletionWrite m s
  | .vectorTimerExpiry v => Sys2Proof.Machine.execVectorTimerExpiry v s
  | .msixUnmask v => Sys2Proof.Machine.execMsixUnmask v s
  | .noticesLost => Sys2Proof.Machine.execNoticesLost s
  | .descriptorDmaDone ring tag data => Sys2Proof.Machine.execDescriptorDmaDone ring tag data s
  | .hostDmaError ring tag addr data => Sys2Proof.Machine.execHostDmaError ring tag addr data s
  | .sqEnable n v => Sys2Proof.Machine.execSqEnable n v s
  | .sqDisable n v => Sys2Proof.Machine.execSqDisable n v s
  | .cqEnable m v => Sys2Proof.Machine.execCqEnable m v s
  | .cqDisable m v => Sys2Proof.Machine.execCqDisable m v s
  | .hifCtrlWrite v => Sys2Proof.Machine.execHifCtrlWrite v s
  | .pollIntervalWrite v => Sys2Proof.Machine.execPollIntervalWrite v s
  | .bar2Read addr e => Sys2Proof.Machine.execBar2Read addr e s
  | .bar2Write addr v => Sys2Proof.Machine.execBar2Write addr v s
  | .functionLevelReset => Sys2Proof.Machine.execFunctionLevelReset s
  | .hotReset => Sys2Proof.Machine.execHotReset s
  | .pcieLinkLoss => Sys2Proof.Machine.execPcieLinkLoss s
  | .perstNRise => Sys2Proof.Machine.execPerstNRise s
  | .bufAlloc ring d => Sys2Proof.Machine.execBufAlloc ring d s
  | .bufFillComplete n => Sys2Proof.Machine.execBufFillComplete n s
  | .bufWrite ring d => Sys2Proof.Machine.execBufWrite ring d s
  | .bufWriteComplete ring tag data => Sys2Proof.Machine.execBufWriteComplete ring tag data s
  | .bufRead ring d => Sys2Proof.Machine.execBufRead ring d s
  | .bufBind ring d => Sys2Proof.Machine.execBufBind ring d s
  | .bufRetire ring d => Sys2Proof.Machine.execBufRetire ring d s
  | .bufFree ring d => Sys2Proof.Machine.execBufFree ring d s
  | .commit ring d => Sys2Proof.Machine.execCommit ring d s
  | .tableLoad ring d => Sys2Proof.Machine.execTableLoad ring d s
  | .tableRead ring d => Sys2Proof.Machine.execTableRead ring d s
  | .tableValidationComplete p => Sys2Proof.Machine.execTableValidationComplete p s
  | .layerSet ring d => Sys2Proof.Machine.execLayerSet ring d s
  | .sessionSet ring d => Sys2Proof.Machine.execSessionSet ring d s
  | .sourceSet ring d => Sys2Proof.Machine.execSourceSet ring d s
  | .hoopSet ring d => Sys2Proof.Machine.execHoopSet ring d s
  | .colourSet ring d => Sys2Proof.Machine.execColourSet ring d s
  | .motifCtrlSetEpoch ring d => Sys2Proof.Machine.execMotifCtrlSetEpoch ring d s
  | .motifCtrlClaimNext ring d => Sys2Proof.Machine.execMotifCtrlClaimNext ring d s
  | .motifCtrlRelease ring d => Sys2Proof.Machine.execMotifCtrlRelease ring d s
  | .motifCtrlClearForeign ring d => Sys2Proof.Machine.execMotifCtrlClearForeign ring d s
  | .motifCtrlReset ring d => Sys2Proof.Machine.execMotifCtrlReset ring d s
  | .motifCtrlReport ring d => Sys2Proof.Machine.execMotifCtrlReport ring d s
  | .programSend ring d => Sys2Proof.Machine.execProgramSend ring d s
  | .portSet ring d => Sys2Proof.Machine.execPortSet ring d s
  | .digestRead ring d => Sys2Proof.Machine.execDigestRead ring d s
  | .ownerSet ring d => Sys2Proof.Machine.execOwnerSet ring d s
  | .rawTx ring d => Sys2Proof.Machine.execRawTx ring d s
  | .rxPost ring d => Sys2Proof.Machine.execRxPost ring d s
  | .rxFilter ring d => Sys2Proof.Machine.execRxFilter ring d s
  | .imageBlock ring d => Sys2Proof.Machine.execImageBlock ring d s
  | .imageVerify ring d => Sys2Proof.Machine.execImageVerify ring d s
  | .imageVerifyComplete e => Sys2Proof.Machine.execImageVerifyComplete e s
  | .imageActivate ring d => Sys2Proof.Machine.execImageActivate ring d s
  | .imageConfirm ring d => Sys2Proof.Machine.execImageConfirm ring d s
  | .imageConfirmRevert ring d => Sys2Proof.Machine.execImageConfirmRevert ring d s
  | .storeWrite ring d => Sys2Proof.Machine.execStoreWrite ring d s
  | .storeWriteFormat ring d => Sys2Proof.Machine.execStoreWriteFormat ring d s
  | .storeRead ring d => Sys2Proof.Machine.execStoreRead ring d s
  | .abort ring d => Sys2Proof.Machine.execAbort ring d s
  | .fence ring d => Sys2Proof.Machine.execFence ring d s
  | .nop ring d => Sys2Proof.Machine.execNop ring d s
  | .twinRoleActive ring d => Sys2Proof.Machine.execTwinRoleActive ring d s
  | .twinRoleHandover ring d => Sys2Proof.Machine.execTwinRoleHandover ring d s
  | .twinRoleCold ring d => Sys2Proof.Machine.execTwinRoleCold ring d s
  | .twinSync ring d => Sys2Proof.Machine.execTwinSync ring d s
  | .twinMirror ring d => Sys2Proof.Machine.execTwinMirror ring d s
  | .samplerRun ring d => Sys2Proof.Machine.execSamplerRun ring d s
  | .slewBlockEnd => Sys2Proof.Machine.execSlewBlockEnd s
  | .timSnap v => Sys2Proof.Machine.execTimSnap v s
  | .timSet v => Sys2Proof.Machine.execTimSet v s
  | .timStep v => Sys2Proof.Machine.execTimStep v s
  | .timAdjGo v => Sys2Proof.Machine.execTimAdjGo v s
  | .timHoldExit v => Sys2Proof.Machine.execTimHoldExit v s
  | .timRateWrite v => Sys2Proof.Machine.execTimRateWrite v s
  | .timWatchWrite v => Sys2Proof.Machine.execTimWatchWrite v s
  | .announceTimeout => Sys2Proof.Machine.execAnnounceTimeout s
  | .stampPost => Sys2Proof.Machine.execStampPost s
  | .pulseArm k v => Sys2Proof.Machine.execPulseArm k v s
  | .pulseStop k v => Sys2Proof.Machine.execPulseStop k v s
  | .pulseEdge k => Sys2Proof.Machine.execPulseEdge k s
  | .pulseWidthEnd k => Sys2Proof.Machine.execPulseWidthEnd k s
  | .tinEdge k after phase falling => Sys2Proof.Machine.execTinEdge k after phase falling s
  | .wclkEdge after phase rising => Sys2Proof.Machine.execWclkEdge after phase rising s
  | .wclkTimeout => Sys2Proof.Machine.execWclkTimeout s
  | .hoopBoundary => Sys2Proof.Machine.execHoopBoundary s
  | .pinRefTimeout => Sys2Proof.Machine.execPinRefTimeout s
  | .fclkBoundary => Sys2Proof.Machine.execFclkBoundary s
  | .pipelineStart => Sys2Proof.Machine.execPipelineStart s
  | .commitWindowClose => Sys2Proof.Machine.execCommitWindowClose s
  | .ingestDeadline => Sys2Proof.Machine.execIngestDeadline s
  | .launchTime p built => Sys2Proof.Machine.execLaunchTime p built s
  | .pipelineUncorrectableRead store stack addr => Sys2Proof.Machine.execPipelineUncorrectableRead store stack addr s
  | .hoopAbortKick v => Sys2Proof.Machine.execHoopAbortKick v s
  | .egressDeadline => Sys2Proof.Machine.execEgressDeadline s
  | .hoopRunStart v => Sys2Proof.Machine.execHoopRunStart v s
  | .hoopRunStop v => Sys2Proof.Machine.execHoopRunStop v s
  | .ltrUpdate walked slot used32 used34 => Sys2Proof.Machine.execLtrUpdate walked slot used32 used34 s
  | .stackPowerDown k goal => Sys2Proof.Machine.execStackPowerDown k goal s
  | .stackExitBegin k request => Sys2Proof.Machine.execStackExitBegin k request s
  | .stackExitComplete k => Sys2Proof.Machine.execStackExitComplete k s
  | .sessionPacketRx p frame phase used => Sys2Proof.Machine.execSessionPacketRx p frame phase used s
  | .ingFrameComplete k => Sys2Proof.Machine.execIngFrameComplete k s
  | .curveDataWrite v => Sys2Proof.Machine.execCurveDataWrite v s
  | .curveDataRead => Sys2Proof.Machine.execCurveDataRead s
  | .passStart g e => Sys2Proof.Machine.execPassStart g e s
  | .sequencerStepEnd g => Sys2Proof.Machine.execSequencerStepEnd g s
  | .backgroundEnd g => Sys2Proof.Machine.execBackgroundEnd g s
  | .laneGroupEnWrite g v => Sys2Proof.Machine.execLaneGroupEnWrite g v s
  | .sensorPoll g => Sys2Proof.Machine.execSensorPoll g s
  | .sensorPollEnd g reads => Sys2Proof.Machine.execSensorPollEnd g reads s
  | .returnRx p frame => Sys2Proof.Machine.execReturnRx p frame s
  | .tirumOtherRx p frame => Sys2Proof.Machine.execTirumOtherRx p frame s
  | .returnTokenRefill => Sys2Proof.Machine.execReturnTokenRefill s
  | .programFragmentQueue p => Sys2Proof.Machine.execProgramFragmentQueue p s
  | .macFrameDropped p frame fcsOk fifoFull => Sys2Proof.Machine.execMacFrameDropped p frame fcsOk fifoFull s
  | .pauseFrameRx p frame => Sys2Proof.Machine.execPauseFrameRx p frame s
  | .ptpFrameRx p frame phase => Sys2Proof.Machine.execPtpFrameRx p frame phase s
  | .hostFrameRx p frame phase => Sys2Proof.Machine.execHostFrameRx p frame phase s
  | .unclaimedFrameRx p frame => Sys2Proof.Machine.execUnclaimedFrameRx p frame s
  | .squelchedFrameRx p frame => Sys2Proof.Machine.execSquelchedFrameRx p frame s
  | .frameTxStart p phase => Sys2Proof.Machine.execFrameTxStart p phase s
  | .frameTxDone p => Sys2Proof.Machine.execFrameTxDone p s
  | .pauseHoldEnd p => Sys2Proof.Machine.execPauseHoldEnd p s
  | .pauseRefresh p used => Sys2Proof.Machine.execPauseRefresh p used s
  | .pauseXon p used => Sys2Proof.Machine.execPauseXon p used s
  | .pcsStatusChange p lock localF remoteF errors => Sys2Proof.Machine.execPcsStatusChange p lock localF remoteF errors s
  | .linkUp p => Sys2Proof.Machine.execLinkUp p s
  | .linkDown p => Sys2Proof.Machine.execLinkDown p s
  | .portEnWrite p v => Sys2Proof.Machine.execPortEnWrite p v s
  | .fwTxGo p v => Sys2Proof.Machine.execFwTxGo p v s
  | .fwRxRelease p v => Sys2Proof.Machine.execFwRxRelease p v s
  | .counterClear p => Sys2Proof.Machine.execCounterClear p s
  | .heartbeatToggle => Sys2Proof.Machine.execHeartbeatToggle s
  | .heartbeatEdge after => Sys2Proof.Machine.execHeartbeatEdge after s
  | .heartbeatTimeout => Sys2Proof.Machine.execHeartbeatTimeout s
  | .twinStatusSend => Sys2Proof.Machine.execTwinStatusSend s
  | .twinLinkTimeout => Sys2Proof.Machine.execTwinLinkTimeout s
  | .twinStatusRx p frame => Sys2Proof.Machine.execTwinStatusRx p frame s
  | .twinDigestRx p frame => Sys2Proof.Machine.execTwinDigestRx p frame s
  | .twinDescRx p frame => Sys2Proof.Machine.execTwinDescRx p frame s
  | .twinCloseRx p frame => Sys2Proof.Machine.execTwinCloseRx p frame s
  | .twinLiveRx p frame => Sys2Proof.Machine.execTwinLiveRx p frame s
  | .twinDataRx p frame => Sys2Proof.Machine.execTwinDataRx p frame s
  | .twinResignRx p frame => Sys2Proof.Machine.execTwinResignRx p frame s
  | .twinAckRx p frame => Sys2Proof.Machine.execTwinAckRx p frame s
  | .descRetransmit => Sys2Proof.Machine.execDescRetransmit s
  | .liveApply => Sys2Proof.Machine.execLiveApply s
  | .decisionPoint => Sys2Proof.Machine.execDecisionPoint s
  | .stateCopySend => Sys2Proof.Machine.execStateCopySend s
  | .syncTimeout => Sys2Proof.Machine.execSyncTimeout s
  | .autoSyncRetry => Sys2Proof.Machine.execAutoSyncRetry s
  | .samplerPassEnd part => Sys2Proof.Machine.execSamplerPassEnd part s
  | .twnBootWrite v => Sys2Proof.Machine.execTwnBootWrite v s
  | .threadStart t v => Sys2Proof.Machine.execThreadStart t v s
  | .threadHalt t v => Sys2Proof.Machine.execThreadHalt t v s
  | .schWait c v => Sys2Proof.Machine.execSchWait c v s
  | .schYield c => Sys2Proof.Machine.execSchYield c s
  | .schExit c => Sys2Proof.Machine.execSchExit c s
  | .schTake c k => Sys2Proof.Machine.execSchTake c k s
  | .schSignal c v => Sys2Proof.Machine.execSchSignal c v s
  | .schTimerWrite c v => Sys2Proof.Machine.execSchTimerWrite c v s
  | .schTimerExpiry t => Sys2Proof.Machine.execSchTimerExpiry t s
  | .schWdog c => Sys2Proof.Machine.execSchWdog c s
  | .watchdogExpiry c => Sys2Proof.Machine.execWatchdogExpiry c s
  | .schPost c q => Sys2Proof.Machine.execSchPost c q s
  | .preempt => Sys2Proof.Machine.execPreempt s
  | .noticePacketAccept q => Sys2Proof.Machine.execNoticePacketAccept q s
  | .nqPop src q => Sys2Proof.Machine.execNqPop src q s
  | .nqEnWrite q v => Sys2Proof.Machine.execNqEnWrite q v s
  | .coreFault c addr e => Sys2Proof.Machine.execCoreFault c addr e s
  | .obsWindowEnd => Sys2Proof.Machine.execObsWindowEnd s
  | .cvuClaim src u v => Sys2Proof.Machine.execCvuClaim src u v s
  | .cvuRelease src u v => Sys2Proof.Machine.execCvuRelease src u v s
  | .cvuStart src u v => Sys2Proof.Machine.execCvuStart src u v s
  | .cvuFeedB src u v => Sys2Proof.Machine.execCvuFeedB src u v s
  | .cvuFeedH src u v => Sys2Proof.Machine.execCvuFeedH src u v s
  | .cvuFeedW src u v => Sys2Proof.Machine.execCvuFeedW src u v s
  | .railPowerOn => Sys2Proof.Machine.execRailPowerOn s
  | .resetNAssert => Sys2Proof.Machine.execResetNAssert s
  | .bootReset v => Sys2Proof.Machine.execBootReset v s
  | .resetRelease twinEn twinSide mode => Sys2Proof.Machine.execResetRelease twinEn twinSide mode s
  | .pllLock => Sys2Proof.Machine.execPllLock s
  | .keysLoaded => Sys2Proof.Machine.execKeysLoaded s
  | .storeRepair => Sys2Proof.Machine.execStoreRepair s
  | .memReady => Sys2Proof.Machine.execMemReady s
  | .bootBegin => Sys2Proof.Machine.execBootBegin s
  | .bootClearDone => Sys2Proof.Machine.execBootClearDone s
  | .bootPush master => Sys2Proof.Machine.execBootPush master s
  | .bootBlockDone data => Sys2Proof.Machine.execBootBlockDone data s
  | .bootAbort => Sys2Proof.Machine.execBootAbort s
  | .bootVerifyDone => Sys2Proof.Machine.execBootVerifyDone s
  | .bringUp v => Sys2Proof.Machine.execBringUp v s
  | .bringUpStep => Sys2Proof.Machine.execBringUpStep s
  | .squelchHoldClear v => Sys2Proof.Machine.execSquelchHoldClear v s
  | .activationComplete => Sys2Proof.Machine.execActivationComplete s
  | .confirmExpiry => Sys2Proof.Machine.execConfirmExpiry s
  | .revertComplete => Sys2Proof.Machine.execRevertComplete s
  | .keepStepComplete key => Sys2Proof.Machine.execKeepStepComplete key s
  | .updFwWrite v => Sys2Proof.Machine.execUpdFwWrite v s
  | .updFwRead v => Sys2Proof.Machine.execUpdFwRead v s
  | .storeSupplyTimeout => Sys2Proof.Machine.execStoreSupplyTimeout s
  | .keyWrite src v => Sys2Proof.Machine.execKeyWrite src v s
  | .keyErase src v => Sys2Proof.Machine.execKeyErase src v s
  | .keyDerive src v => Sys2Proof.Machine.execKeyDerive src v s
  | .keyProve src v => Sys2Proof.Machine.execKeyProve src v s
  | .keySupplyTimeout => Sys2Proof.Machine.execKeySupplyTimeout s
  | .keyAdminEnFall => Sys2Proof.Machine.execKeyAdminEnFall s
  | .tamper low => Sys2Proof.Machine.execTamper low s
  | .wrapCellRenew => Sys2Proof.Machine.execWrapCellRenew s
  | .clockLoss domain => Sys2Proof.Machine.execClockLoss domain s
  | .scrub stack addr e => Sys2Proof.Machine.execScrub stack addr e s
  | .glbBehavWrite v => Sys2Proof.Machine.execGlbBehavWrite v s
  | .supplyFault rail => Sys2Proof.Machine.execSupplyFault rail s
  | .writePermissionRefuse rail => Sys2Proof.Machine.execWritePermissionRefuse rail s
  | .writePermissionGrant => Sys2Proof.Machine.execWritePermissionGrant s
  | .psmSensorUpdate tj hbm mv => Sys2Proof.Machine.execPsmSensorUpdate tj hbm mv s
  | .lgwAddrHWrite v => Sys2Proof.Machine.execLgwAddrHWrite v s
  | .lgwAddrLWrite v => Sys2Proof.Machine.execLgwAddrLWrite v s
  | .lgwDataWrite v => Sys2Proof.Machine.execLgwDataWrite v s
  | .lgwDataRead => Sys2Proof.Machine.execLgwDataRead s
  | .lgwOpen v => Sys2Proof.Machine.execLgwOpen v s
  | .resetNDeassert => Sys2Proof.Machine.execResetNDeassert s
  | .perstNAssert => Sys2Proof.Machine.execPerstNAssert s
  | .pcieLinkUp => Sys2Proof.Machine.execPcieLinkUp s
  | .keyCommandDone => Sys2Proof.Machine.execKeyCommandDone s

end Sys2Proof.Machine
end

