-- ==== Sys2Proof/Safety.lean ====
section
/-! DEFINITION. Safety.lean: what counts as a sound state, in the terms the claims use: the fields whose
range the spec fixes are in that range, and the sparse register file is in its canonical form. -/
namespace Sys2Proof.Machine

/-- Device time is a time of R82 and R83: less than one second of nanoseconds, 48 bits of seconds. -/
def Tim.sound (t : Tim) : Prop := t.acc < secUnits ∧ t.sec < 2 ^ 48 ∧ t.blk < 1024

/-- Keep write permission is held only while no rail refuses it (R460). -/
def Psm.sound (p : Psm) : Prop := p.writeOk = true → p.refusing = 0

/-- The assembly latch of the tile command window holds at most three bytes (R474), its address is 16
bits and its count of dropped commands 8. -/
def Lgw.sound (l : Lgw) : Prop := l.latch.length < 4 ∧ l.addr < 65536 ∧ l.dropped < 256

/-- Canonical: the rings and vectors of HIF. -/
structure Hif.canon (h : Hif) : Prop where
  tail : twf (fun _ => 0) h.tail = true
  head : twf (fun _ => 0) h.head = true
  headDirty : twf (fun _ => false) h.headDirty = true
  fault : twf (fun _ => false) h.fault = true
  draining : twf (fun _ => false) h.draining = true
  release : twf (fun _ => 0) h.release = true
  prod : twf (fun _ => 0) h.prod = true
  vecs : twf (fun _ => Vec.reset) h.vecs = true

/-- Canonical: the stamps, pulses and captures of TIM. -/
structure Tim.canon (t : Tim) : Prop where
  stamps : twf (fun _ => StampQueue.reset) t.stamps = true
  pulses : twf (fun _ => Pulse.reset) t.pulses = true
  caps : twf (fun _ => Capture.reset) t.caps = true

/-- Canonical: the configuration in force. -/
structure Cfg.canon (c : Cfg) : Prop where
  sessions : twf (fun _ => []) c.sessions = true
  sources : twf (fun _ => []) c.sources = true
  layers : twf (fun _ => []) c.layers = true
  binds : twf (fun _ => none) c.binds = true
  parts : twf (fun _ => []) c.parts = true

/-- Canonical: what ING holds. -/
structure Ing.canon (g : Ing) : Prop where
  sess : twf (fun _ => SessRt.reset) g.sess = true
  src : twf (fun _ => SourceRt.reset) g.src = true
  published : twf (fun _ => 0) g.published = true
  frozenHost : twf (fun _ => none) g.frozenHost = true
  curve : twf (fun _ => none) g.curve = true
  overflow : twf (fun _ => 0) g.overflow = true
  overflowHoop : twf (fun _ => none) g.overflowHoop = true
  bufUsed : twf (fun _ => 0) g.bufUsed = true

/-- Canonical: the handles and their pixels. -/
structure Lay.canon (l : Lay) : Prop where
  handles : twf (fun _ => Handle.reset) l.handles = true
  pixels : twf (fun _ => 0) l.pixels = true

/-- Canonical: what COL holds. -/
structure Col.canon (c : Col) : Prop where
  est : twf (fun _ => Estimate.reset) c.est = true
  snapshot : twf (fun _ => TempReport.reset) c.snapshot = true
  runTop : twf (fun _ => 0) c.runTop = true

/-- Canonical: the run in progress. -/
structure Run.canon (r : Run) : Prop where
  grey : twf (fun _ => []) r.grey = true
  fixtures : twf (fun _ => []) r.fixtures = true
  frames : twf (fun _ => []) r.frames = true

/-- Canonical: the lane groups. -/
structure Sti.canon (x : Sti) : Prop where
  lanes : twf (fun _ => Lane.reset) x.lanes = true
  back : twf (fun _ => []) x.back = true

/-- Canonical: what EGR holds. -/
structure Egr.canon (e : Egr) : Prop where
  ports : twf (fun _ => EgrPort.reset) e.ports = true
  change : twf (fun _ => none) e.change = true
  pairs : twf (fun _ => none) e.pairs = true

/-- Canonical: the threads, queues and memories of the control cores. -/
structure Ccs.canon (c : Ccs) : Prop where
  threads : twf (fun _ => Thread.reset) c.threads = true
  cores : twf (fun _ => CoreUnit.reset) c.cores = true
  readyLists : twf (fun _ => []) c.readyLists = true
  tcb : twf (fun _ => 0) c.tcb = true
  queues : twf (fun _ => NQueue.reset) c.queues = true
  outboxes : twf (fun _ => Outbox.reset) c.outboxes = true
  lastSource : twf (fun _ => 127) c.lastSource = true
  staged : twf (fun _ => Staged.reset) c.staged = true
  waits : twf (fun _ => WaitStat.reset) c.waits = true
  load : twf (fun _ => 0) c.load = true
  imem : twf (fun _ => 0) c.imem = true
  dmem : twf (fun _ => 0) c.dmem = true
  shared : twf (fun _ => 0) c.shared = true

/-- Canonical: the fallback copy of the firmware. -/
structure Fallback.canon (f : Fallback) : Prop where
  imem : twf (fun _ => 0) f.imem = true
  dmem : twf (fun _ => 0) f.dmem = true
  shared : twf (fun _ => 0) f.shared = true
  tcb : twf (fun _ => 0) f.tcb = true

/-- Canonical: the keep. -/
structure Keep.canon (k : Keep) : Prop where
  sectors : twf (fun _ => []) k.sectors = true
  journal : twf (fun _ => none) k.journal = true

/-- Canonical: the key slots. -/
structure Key.canon (k : Key) : Prop where
  slots : twf (fun _ => KeySlot.reset) k.slots = true

/-- Canonical: the rails read. -/
structure Psm.canon (p : Psm) : Prop where
  mv : twf (fun _ => 0) p.mv = true

/-- Canonical: the arguments and staged commands. -/
structure Lgw.canon (l : Lgw) : Prop where
  args : twf (fun _ => 0) l.args = true
  staged : twf (fun _ => (0, 0)) l.staged = true

/-- Canonical: the configuration of the closed set that waits for its boundary. -/
def Window.canon (w : Window) : Prop := ∀ e, w.closed = some e → e.cfg.canon

/-- Canonical: the fallback copy, where there is one. -/
def Upd.canon (u : Upd) : Prop := ∀ f, u.fallback = some f → f.canon

/-- Canonical: the fragments in reception, and the configuration of the forwarded set judged. -/
structure Twn.canon (t : Twn) : Prop where
  frags : twf (fun _ => []) t.frags = true
  closed : ∀ e, t.closed = some e → e.cfg.canon

/-- Every table of the state is in its canonical form: rising numbers, and no entry that holds what an
unlisted number reads as. Equal contents are then equal data. -/
structure State.canon (s : State) : Prop where
  regs : twf regReset s.regs = true
  fresh : twf (fun _ => 0) s.fresh = true
  hif : s.hif.canon
  tim : s.tim.canon
  win : s.win.canon
  cfg : s.cfg.canon
  ing : s.ing.canon
  lay : s.lay.canon
  stages : twf (fun _ => Stage.reset) s.stages = true
  reads : twf (fun _ => []) s.reads = true
  package : twf packageInit s.package = true
  badEntry : twf (fun _ => 0) s.badEntry = true
  col : s.col.canon
  run : s.run.canon
  live : twf (fun _ => Live.reset) s.live = true
  sti : s.sti.canon
  egr : s.egr.canon
  mac : twf (fun _ => MacPort.reset) s.mac = true
  ccs : s.ccs.canon
  cvus : twf (fun _ => Cvu.reset) s.cvus = true
  upd : s.upd.canon
  keep : s.keep.canon
  key : s.key.canon
  psm : s.psm.canon
  lgw : s.lgw.canon
  twn : s.twn.canon

/-- A sound state. -/
def State.sound (s : State) : Prop :=
  twf regReset s.regs = true ∧ s.tim.sound ∧ s.psm.sound ∧ s.lgw.sound

/-- The command runs: it has a next state. -/
def runs (c : Instr) (s : State) : Prop := ∃ t, exec c s = .next t

/-! ### What stays as it was: the terms of the frames -/

/-- From `s` to `t` only registers and the control cores have changed. -/
def onlyCores (s t : State) : Prop :=
  t = { s with regs := t.regs, fresh := t.fresh, freshAt := t.freshAt, ccs := t.ccs, freeCount := t.freeCount }

/-- From `s` to `t` only what a notice reaches has changed: registers, the rings of HIF, the control
cores and what has left the unit. -/
def onlyNotices (s t : State) : Prop :=
  t = { s with regs := t.regs, fresh := t.fresh, freshAt := t.freshAt, hif := t.hif, ccs := t.ccs, out := t.out,
               freeCount := t.freeCount }

/-- TIM_RATE lies in the range that R85 accepts. -/
def rateAccepted (s : State) : Prop := -17179869 ≤ timRate s ∧ timRate s ≤ 17179869

/-- From `s` to `t` only what a notice reaches, the time base and the hoop generator have changed. -/
def onlyTime (s t : State) : Prop :=
  t = { s with regs := t.regs, fresh := t.fresh, freshAt := t.freshAt, hif := t.hif, tim := t.tim, hoop := t.hoop,
               ccs := t.ccs, out := t.out, freeCount := t.freeCount }

/-- No hoop boundary falls in the present TCLK cycle before what else happens in it (Table 4-8). -/
def noBoundaryDue (s : State) : Prop :=
  (s.hoop.running && !s.hoop.stopAtNext && !s.hoop.fDue && reached s.tim.q s.hoop.bNext) = false

/-- From `s` to `t` only registers, the rings of HIF, device time, the control cores and what has left
the unit have changed. -/
def onlyHost (s t : State) : Prop :=
  t = { s with regs := t.regs, fresh := t.fresh, freshAt := t.freshAt, hif := t.hif, tim := t.tim, ccs := t.ccs,
               out := t.out, freeCount := t.freeCount }

/-- Entry `t` of ring `n` is the next to start, on its way to its block with the descriptor `d`, which the
twin rules let start. -/
def awaits (s : State) (n : Nat) (d : Desc) (t : Track) : Prop :=
  nextToStart s n = some t ∧ t.phase = .ready ∧ t.desc = d ∧ t.origin = .host ∧ findTrack s t.id = some t ∧
    twinRefuses s d = false

/-- Entry `t` passes the checks of its opcode at arrival, and the window open now is its own: that of the hoop
in progress, or of the hoop before its target (R53, R121). -/
def mayJoin (s : State) (t : Track) : Prop :=
  arrival s t.desc = stOk ∧ s.hoop.running = true ∧ s.hoop.fStarted = true ∧ s.win.isOpen = true ∧
    (Desc.atHoop t.desc = false ∨ t.desc.target = s.hoop.fNumber + 1)

/-- Entry `t` handed over and made a member of the open window, in the order of the hand-overs (R65, R118). -/
def joined (s : State) (t : Track) : State :=
  let h := handOver s t.id
  let m : Member := ⟨t.id, s.hif.nextHanded, .host, t.ring, t.desc, t.late⟩
  modTrack { h with win := { h.win with members := insertMember m h.win.members } } t.id
    fun x => { x with phase := .inSet, late := t.late }

/-- The counting registers that a notice may raise (R61, R372). -/
def noticeReg (a : Nat) : Prop :=
  (∃ q, a = NQ_CNT q) ∨ (∃ k, a = CCS_SRC_DROP k) ∨ ∃ m, a = HIF_CQ_STAT m

/-- No register but those listed, and the counts a notice may raise, differs from `s` to `t`. -/
def keepsRegs (l : List Nat) (s t : State) : Prop := ∀ a, a ∉ l → ¬ noticeReg a → reg t a = reg s a

/-- A frame passes the receive checks of port `p` whole, as frame `f`, with state `t` after them; it is no
twin message. -/
def accepts (s : State) (p : Nat) (bytes : List Byte) (phase : Nat) (f : RxFrame) (t : State) : Prop :=
  portUp s p = true ∧ (36 ≤ p → s.boot.twinEn = false) ∧ rxCheck s p bytes true phase = (.frame f, t) ∧
    f.trunc = false

/-- A frame of TYPE `kind` on twin port `p` completes the message `m`, and `t` is the state with it taken. -/
def hears (s : State) (p kind : Nat) (frame : List Byte) (m : TwinMsg) (t : State) : Prop :=
  (∃ b, twinContent s frame = some b ∧ byteAt b 1 = kind) ∧ twinTake s p frame = (some m, t)

/-- The unit runs outside a twin pair. -/
def alone (s : State) : Prop :=
  s.boot.twinEn = false ∧ s.twn.behind = [] ∧ s.twn.acksDue = [] ∧ s.twn.entryAt = none ∧ s.twn.state ≠ .syncing ∧
    ∀ t, t ∈ s.hif.track → ∀ q, t.origin ≠ .twin q

/-- No TABLE_LOAD of part `p` waits for its turn in its block. -/
def noLoadWaits (s : State) (p : Nat) : Prop :=
  ∀ x, x ∈ s.hif.track → x.desc.opcode = 0x11 → x.desc.object = p → x.phase ≠ .queued

/-- No IMAGE_BLOCK waits for its turn. -/
def noBlockWaits (s : State) : Prop := ∀ x, x ∈ s.hif.track → x.desc.opcode = 0x40 → x.phase ≠ .queued

/-- No two entries of the tracker have one number. -/
def distinctIds (s : State) : Prop := ∀ x, x ∈ s.hif.track → ∀ y, y ∈ s.hif.track → x.id = y.id → x = y

/-- The descriptor `d`, in the next slot of ring `n`, has been fetched and has completed OK in one command. -/
def endedAtOnce (s u : State) (n : Nat) (d : Desc) : Prop :=
  headOf u n = headOf s n + 1 ∧ u.hif.nextId = s.hif.nextId + 1 ∧
    (∃ e, findTrack u s.hif.nextId = some e ∧ e.phase = .done stOk 0 0 s.hoop.number ∧ e.desc = d) ∧
    u.cfg = s.cfg ∧ u.lay = s.lay

/-- A device reset with `cause`, and `rail` for a supply fault, has turned `s` into `u` (R382, R383, R437): every
register but KEY_STATUS.TAMPERED, every memory, session and role is as after reset, and the keep stays but for a step
of it that was under way. -/
def afterReset (s u : State) (cause rail : Nat) : Prop :=
  u.boot.cause = cause ∧ u.boot.causeRail = rail ∧ (cause = 2 → u.boot.step = .held) ∧
  (∀ a, a ≠ KEY_STATUS → reg u a = regReset a) ∧
  regBit u KEY_STATUS 29 = (decide (cause ≠ 1) && regBit s KEY_STATUS 29) ∧ u.cfg = State.reset.cfg ∧
  u.lay = State.reset.lay ∧ u.hoop = State.reset.hoop ∧ u.tim = State.reset.tim ∧ u.twn = State.reset.twn ∧
  u.mac = State.reset.mac ∧ u.ccs = State.reset.ccs ∧ u.hif = State.reset.hif ∧ u.psm = State.reset.psm ∧
  u.package = State.reset.package ∧ u.key.slots = State.reset.key.slots ∧ u.keep.wrap = s.keep.wrap ∧
  (s.upd.jobs = [] → s.key.job = none → u.keep = s.keep) ∧ u.out = s.out

/-- What a write of `v` to KEY_CMD with OP `op` finds at its GO. -/
def keyFound (s : State) (src : Source) (op : Nat) (v : Word) : Nat :=
  keyCheck (plainWrite s KEY_CMD (setFld v 30 28 op)) src op (fld v 5 0) (fld v 21 16)

/-- A key command will end with RESULT `k` and has no effect. -/
def keyRefuses (s u : State) (k : Nat) : Prop :=
  u.key.slots = s.key.slots ∧ u.key.job.isSome = true ∧
    (∀ j, u.key.job = some j → j.result = k ∧ j.persist = false) ∧ keepsRegs [KEY_CMD] s u

/-- A key command kicked by `v` is under way; no slot but its own has changed, and nothing in the keep. -/
def keyActs (s u : State) (v : Word) : Prop :=
  u.key.job.isSome = true ∧ (∀ n, n ≠ fld v 5 0 → slotOf u n = slotOf s n) ∧ u.keep = s.keep ∧ keepsRegs [KEY_CMD] s u

/-- `n` bytes of `v`, the least significant first, have been fed to check unit `u` (R380). -/
def cvuFed (s : State) (u : Fin 4) (n : Nat) (v : Word) : State :=
  let x := cvuOf s u
  let bytes := (List.range n).map fun i => BitVec.ofNat 8 (v.toNat / 256 ^ i)
  setCvu s u { x with rem := bytes.foldl (crcByte x.width x.poly x.refin) x.rem, bytes := (x.bytes + n) % 2 ^ 32 }

/-- A kick of TIM_CTRL has been refused in HOLDOVER (R100). -/
def holdRefused (s u : State) : Prop :=
  u.tim = s.tim ∧ regBit u TIM_STATUS 27 = true ∧ keepsRegs [TIM_CTRL, TIM_STATUS] s u ∧ onlyTime s u

/-- The host's side of the unit has been reset (R78): HIF's registers and the MSI-X table at their reset values, the
rings empty, in the tracker only what is past its point of no return, and what the boundary holds in place. -/
def hostIsReset (s u : State) : Prop :=
  (∀ a, 0x8000 ≤ a → a < 0x20000 → reg u a = regReset a) ∧
  ((∀ p, (stampsOf s p).lost = 0) → s.upd.jobs = [] → ∀ a, a < 0x8000 ∨ 0x20000 ≤ a → reg u a = reg s a) ∧
  u.hif.head = [] ∧ u.hif.tail = [] ∧ u.hif.prod = [] ∧
  (∀ t, t ∈ u.hif.track → t.ring < 64 → t.orphan = true ∧ t.past = true) ∧
  u.cfg = s.cfg ∧ u.lay = s.lay ∧ u.hoop = s.hoop ∧ u.win.isOpen = s.win.isOpen ∧
  ∀ m, m ∈ u.win.members → m ∈ s.win.members ∧ m.origin ≠ .host

/-- No thread is READY. -/
def noneReady (s : State) : Prop := s.ccs.readyLists = []

end Sys2Proof.Machine
end

