-- ==== Sys2Proof/WellFormed.lean ====
section
/-! DEFINITION. WellFormed.lean: the commands that can arise: every operand within the width the spec
gives it. An index that the spec bounds is bounded by its type already. -/
namespace Sys2Proof

/-- A descriptor is 64 bytes with ten argument words (R51). -/
def Desc.wf (d : Desc) : Bool :=
  decide (d.opcode < 256 ∧ d.flags < 256 ∧ d.tag < 65536 ∧ d.hostAddr < 2 ^ 64 ∧ d.length < 2 ^ 32 ∧
    d.object < 2 ^ 32 ∧ d.args.length = 10)

/-- A sensor answers with two data bytes (R253). -/
def SensorRead.wf : SensorRead → Bool
  | .word a b => decide (a < 256 ∧ b < 256)
  | _ => true

/-- A frame from destination MAC on, without its FCS: a header at least, and less than 64 KiB. -/
def frameWf (bytes : List Byte) : Bool := decide (14 ≤ bytes.length ∧ bytes.length < 65536)

/-- A temperature in S8.8: 17 bits (R5, R10). -/
def tempWf (t : Int) : Bool := decide (-65536 ≤ t ∧ t ≤ 65535)

/-- The operands of a command are within their widths. -/
def Instr.wf : Instr → Bool
  | .registerWrite .host addr _ _ => decide (addr < 2 ^ 26)
  | .registerWrite (.core _) addr _ _ => decide (addr < 2 ^ 32)
  | .pollReturn _ tails releases addr => decide (tails.length = 64 ∧ releases.length = 64 ∧ addr < 2 ^ 64)
  | .descriptorFetch slots => decide (slots.length ≤ 16) && slots.all Desc.wf
  | .descriptorReadFail addr => decide (addr < 2 ^ 64)
  | .descriptorDmaDone _ tag data => decide (tag < 65536 ∧ data.length < 2 ^ 32)
  | .hostDmaError _ tag addr data => decide (tag < 65536 ∧ addr < 2 ^ 64 ∧ data.length < 2 ^ 32)
  | .bar2Read addr _ => decide (addr < 2 ^ 32)
  | .bar2Write addr _ => decide (addr < 2 ^ 32)
  | .bufWriteComplete _ tag data => decide (tag < 65536 ∧ data.length < 2 ^ 32)
  | .bufAlloc _ d => d.wf
  | .bufWrite _ d => d.wf
  | .bufRead _ d => d.wf
  | .bufBind _ d => d.wf
  | .bufRetire _ d => d.wf
  | .bufFree _ d => d.wf
  | .commit _ d => d.wf
  | .tableLoad _ d => d.wf
  | .tableRead _ d => d.wf
  | .layerSet _ d => d.wf
  | .sessionSet _ d => d.wf
  | .sourceSet _ d => d.wf
  | .hoopSet _ d => d.wf
  | .colourSet _ d => d.wf
  | .motifCtrlSetEpoch _ d => d.wf
  | .motifCtrlClaimNext _ d => d.wf
  | .motifCtrlRelease _ d => d.wf
  | .motifCtrlClearForeign _ d => d.wf
  | .motifCtrlReset _ d => d.wf
  | .motifCtrlReport _ d => d.wf
  | .programSend _ d => d.wf
  | .portSet _ d => d.wf
  | .digestRead _ d => d.wf
  | .ownerSet _ d => d.wf
  | .rawTx _ d => d.wf
  | .rxPost _ d => d.wf
  | .rxFilter _ d => d.wf
  | .imageBlock _ d => d.wf
  | .imageVerify _ d => d.wf
  | .imageActivate _ d => d.wf
  | .imageConfirm _ d => d.wf
  | .imageConfirmRevert _ d => d.wf
  | .storeWrite _ d => d.wf
  | .storeWriteFormat _ d => d.wf
  | .storeRead _ d => d.wf
  | .abort _ d => d.wf
  | .fence _ d => d.wf
  | .nop _ d => d.wf
  | .twinRoleActive _ d => d.wf
  | .twinRoleHandover _ d => d.wf
  | .twinRoleCold _ d => d.wf
  | .twinSync _ d => d.wf
  | .twinMirror _ d => d.wf
  | .samplerRun _ d => d.wf
  | .pipelineUncorrectableRead _ _ addr => decide (addr < 2 ^ 34)
  | .scrub _ addr _ => decide (addr < 2 ^ 34)
  | .sessionPacketRx p frame _ used => decide (32 ≤ p.val ∧ p.val < 36 ∧ used ≤ 1048576) && frameWf frame
  | .ingFrameComplete k => decide (k.val ≠ 0)
  | .sensorPollEnd _ reads => decide (reads.length ≤ 4) && reads.all SensorRead.wf
  | .returnRx _ frame => frameWf frame
  | .tirumOtherRx _ frame => frameWf frame
  | .macFrameDropped _ frame _ _ => decide (frame.length < 65536)
  | .pauseFrameRx _ frame => frameWf frame
  | .ptpFrameRx _ frame _ => frameWf frame
  | .hostFrameRx _ frame _ => frameWf frame
  | .unclaimedFrameRx _ frame => frameWf frame
  | .squelchedFrameRx _ frame => frameWf frame
  | .pauseRefresh _ used => decide (used ≤ 65536)
  | .pauseXon _ used => decide (used ≤ 65536)
  | .twinStatusRx p frame => decide (36 ≤ p.val) && frameWf frame
  | .twinDigestRx p frame => decide (36 ≤ p.val) && frameWf frame
  | .twinDescRx p frame => decide (36 ≤ p.val) && frameWf frame
  | .twinCloseRx p frame => decide (36 ≤ p.val) && frameWf frame
  | .twinLiveRx p frame => decide (36 ≤ p.val) && frameWf frame
  | .twinDataRx p frame => decide (36 ≤ p.val) && frameWf frame
  | .twinResignRx p frame => decide (36 ≤ p.val) && frameWf frame
  | .twinAckRx p frame => decide (36 ≤ p.val) && frameWf frame
  | .coreFault _ addr _ => decide (addr < 2 ^ 32)
  | .bootBlockDone (some data) => decide (data.length < 2 ^ 23)
  | .clockLoss domain => decide (domain.val ≠ 0)
  | .supplyFault rail => decide (rail.val ≠ 0)
  | .writePermissionRefuse rail => decide (rail.val ≠ 0)
  | .psmSensorUpdate tj hbm mv =>
    tempWf tj && decide (hbm.length = 2 ∧ mv.length = 9) && hbm.all tempWf && mv.all fun v => decide (v < 65536)
  | _ => true

end Sys2Proof
end

