-- ==== Sys2Proof/Certificates/Slice0/Obligations.lean ====
section
/-! DEFINITION. Certificates/Slice0/Obligations.lean: the statements for the provers. -/
open Sys2Proof Sys2Proof.Machine

/-! ### The whole machine -/

/-- A step of a unit whose queue is not empty is the command at the front, executed with the queue's rest. -/
def Obligations.StepRunsFront : Prop :=
  ∀ (c : Instr) (rest : List Instr) (s : State), s.pending = c :: rest →
    step s = exec c { s with pending := rest }

/-- State.reset is sound and canonical, its queue is empty, every register reads its reset value, device time is
0 (R82), the generator stands and every thread is DORMANT. -/
def Obligations.ResetIsSound : Prop :=
  State.reset.sound ∧ State.reset.canon ∧ State.reset.pending = [] ∧ (∀ a, reg State.reset a = regReset a) ∧
    State.reset.tim.q = 0 ∧ State.reset.hoop.running = false ∧ (∀ t, (threadOf State.reset t).state = .dormant)

/-- The invariant of the model: from any sound and canonical state, every step that answers a next state, of a
command or of the tick of an empty queue, answers a sound and canonical one: device time below a second and
48 bits (R82, R84), write permission only while no rail refuses it (R460), and every table of the state in
its canonical form. -/
def Obligations.StepsKeepSound : Prop :=
  ∀ s u : State, s.sound → s.canon → step s = .next u → u.sound ∧ u.canon

/-- Every command answers a next state in every state; the one stop is an address of the host outside BAR0 or
BAR2, which the spec does not decode (R37). -/
def Obligations.EveryCommandRuns : Prop :=
  ∀ (c : Instr) (s : State), (∃ u, exec c s = .next u) ∨
    (exec c s = .fault .outsideBar ∧
      ((∃ a be v, c = .registerWrite .host a be v ∧ 2 ^ 26 ≤ a) ∨ (∃ a e, c = .bar2Read a e ∧ 2 ^ 32 ≤ a) ∨
        ∃ a v, c = .bar2Write a v ∧ 2 ^ 32 ≤ a))

/-! ### Registers and the host’s rings (chapter 2) -/

/-- R12 to R14: a bit of the word that a write leaves is the written one where the field is Set, cleared where
it is Latch and written 1 and no event of the same cycle has set it, and unchanged elsewhere.
REGISTER_WRITE. An aligned word of the host at a register without behaviour of its own stores its Set fields
and clears its Latch fields (R12); an offset with no register takes no effect (R39); any other size or
alignment has none but BAD_ACCESS (R40); an address above the BAR stops. A core's store to its data memory
is read back. -/
def Obligations.WritesStore : Prop :=
  (∀ (r : RegRow) (old fresh v : Word) (k : Nat), r.counts = [] → k < 32 →
      bitOf (written r old fresh v).toNat k =
        ((if bitOf r.set k then bitOf v.toNat k else bitOf old.toNat k) &&
          !(bitOf r.latch k && bitOf v.toNat k && !bitOf fresh.toNat k))) ∧
  ((∀ (a : Nat) (v : Word) (s : State), a % 4 = 0 →
      (0x40000 ≤ a ∧ a < 0x80000) ∨ (0x140000 ≤ a ∧ a < 0x200000) ∨ (0x3E0000 ≤ a ∧ a < 0x4000000) →
      exec (.registerWrite .host a 15 v) s =
        .next (match regRow a with | some r => setReg s a (written r (reg s a) (freshOf s a) v) | none => s)) ∧
    (∀ (a : Nat) (be : Fin 16) (v : Word) (s : State), a < 0x4000000 → a < 0x3C0000 ∨ 0x3E0000 ≤ a →
      a % 4 ≠ 0 ∨ be ≠ 15 → exec (.registerWrite .host a be v) s = .next (latch s HIF_ERR 5)) ∧
    (∀ (a : Nat) (be : Fin 16) (v : Word) (s : State), 0x4000000 ≤ a →
      exec (.registerWrite .host a be v) s = .fault .outsideBar) ∧
    (∀ (c : Fin 8) (a : Nat) (v : Word) (s : State), s.canon → 0x10000000 ≤ a → a + 3 < 0x10020000 →
      ∃ u, exec (.registerWrite (.core c) a 15 v) s = .next u ∧
        leNat (tgetList (fun _ => (0 : Byte)) u.ccs.dmem (0x20000 * c + (a - 0x10000000)) 4) = v.toNat ∧
        u = { s with ccs := { s.ccs with dmem := u.ccs.dmem } }))

/-- Ring control. While ENABLE of a ring is 1 only ENABLE changes, and a write with another field changed sets
BAD_CONFIG (R74). A completion ring in use stays enabled and CQ_BUSY is set (R75). Enabling a submission
ring, with a size from 4 to 16, sets HEAD to 0 and clears FAULT, and enabling a completion ring sets its
producer count to 0, PHASE 1 (R76). A submission ring whose CQ names a ring of KIND 1, and a ring of KIND 1
that an enabled submission ring names, are not enabled: BAD_CONFIG (R77). -/
def Obligations.RingRules : Prop :=
  (∀ (n : Fin 64) (v : Word) (s : State), s.canon → sqEnabled s n = true →
    ∃ u, exec (.registerWrite .host (HIF_SQ_CTRL n) 15 v) s = .next u ∧
      reg u (HIF_SQ_CTRL n) = (if bitW v 31 then reg s (HIF_SQ_CTRL n) else reg s (HIF_SQ_CTRL n) &&& 0x7FFFFFFF) ∧
      ((reg s (HIF_SQ_CTRL n) ^^^ v) &&& 0x603F0F1F ≠ 0 → regBit u HIF_ERR 4 = true) ∧ headOf u n = headOf s n) ∧
  (∀ (m : Fin 64) (v : Word) (s w : State), s.canon → cqEnabled s m = true →
    w = (if (reg s (HIF_CQ_CTRL m) ^^^ v) &&& 0x403F001F ≠ 0 then latch s HIF_ERR 4 else s) →
    (bitW v 31 = true → exec (.cqEnable m v) s = .next w) ∧
    (bitW v 31 = false → cqInUse s m = true → exec (.cqDisable m v) s = .next (latch w HIF_ERR 3)) ∧
    (bitW v 31 = false → cqInUse s m = false →
      exec (.cqDisable m v) s = .next (setReg w (HIF_CQ_CTRL m) (reg s (HIF_CQ_CTRL m) &&& 0x7FFFFFFF)))) ∧
  (∀ (m : Fin 64) (s : State), cqInUse s m = true ↔ ((∃ n : Fin 64, sqEnabled s n = true ∧ sqCq s n = m) ∨
    ∃ t, t ∈ s.hif.track ∧ t.ring < 64 ∧ t.cq = m ∧ t.orphan = false)) ∧
  (∀ (n : Fin 64) (v : Word) (s : State), s.canon → sqEnabled s n = false →
    (4 ≤ v.toNat % 32 → v.toNat % 32 ≤ 16 → cqNotice s (v.toNat / 2 ^ 16 % 64) = false →
      ∃ u, exec (.sqEnable n v) s = .next u ∧ sqEnabled u n = true ∧ headOf u n = 0 ∧ tailOf u n = 0 ∧
        tget (fun _ => false) u.hif.fault n = false ∧ sqSize u n = 2 ^ (v.toNat % 32) ∧ u.cfg = s.cfg) ∧
    (cqNotice s (v.toNat / 2 ^ 16 % 64) = true →
      ∃ u, exec (.sqEnable n v) s = .next u ∧ reg u (HIF_SQ_CTRL n) = reg s (HIF_SQ_CTRL n) ∧
        headOf u n = headOf s n ∧ regBit u HIF_ERR 4 = true)) ∧
  (∀ (n : Fin 64) (v : Word) (s : State), s.canon → sqEnabled s n = true →
    ∃ u, exec (.sqDisable n v) s = .next u ∧ sqEnabled u n = false) ∧
  (∀ (m : Fin 64) (v : Word) (s : State), s.canon → cqEnabled s m = false →
    (bitW v 30 = false → 4 ≤ v.toNat % 32 → v.toNat % 32 ≤ 16 →
      ∃ u, exec (.cqEnable m v) s = .next u ∧ cqEnabled u m = true ∧ prodOf u m = 0 ∧
        phaseBit (prodOf u m) (cqLog u m) = 1 ∧ releaseOf u m = 0 ∧ keepsRegs [HIF_CQ_CTRL m] s u ∧ onlyHost s u) ∧
    ((v.toNat % 32 < 4 ∨ 16 < v.toNat % 32) → exec (.cqEnable m v) s = .next (latch s HIF_ERR 4)) ∧
    (bitW v 30 = true → (∃ n : Fin 64, sqEnabled s n = true ∧ sqCq s n = m) →
      exec (.cqEnable m v) s = .next (latch s HIF_ERR 4)))

/-- Polling (R45, R46, R49): an issue is outstanding from then on; what returns becomes TAIL of every enabled
ring without a fault, where it is no more than a ring ahead of HEAD; a read that failed sets its error.
Fetching (R46, R50): the ring whose turn it is has its next slot fetched, HEAD passes it, and the next turn
is another ring's; a read that failed faults the ring. A completion record is written once its ring has room
(R49, R57): it leaves the unit with its place and the host address of its entry (R43), the producer count
passes it, and its entry leaves the tracker. -/
def Obligations.RingsAreServed : Prop :=
  ((∀ s : State, regBit s HIF_CTRL 1 = true → s.hif.pollOut = false →
      ∃ u, exec .pollIssue s = .next u ∧ u.hif.pollOut = true ∧ u.hif.pollAt = some u.tim.cyc ∧
        u.hif.tail = s.hif.tail ∧ u.hif.head = s.hif.head ∧ onlyHost s u) ∧
    (∀ (tails releases : List Word) (addr : Nat) (s : State), s.canon → s.hif.pollOut = true →
      ∃ u, exec (.pollReturn true tails releases addr) s = .next u ∧ u.hif.pollOut = false ∧
        (∀ n : Fin 64, sqEnabled s n = true → tget (fun _ => false) s.hif.fault n = false →
          ((tails[n.val]?).getD 0 - headOf s n).toNat ≤ sqSize s n → tailOf u n = (tails[n.val]?).getD 0) ∧
        onlyHost s u) ∧
    (∀ (tails releases : List Word) (addr : Nat) (s : State), s.hif.pollOut = true → addr < 2 ^ 64 →
      exec (.pollReturn false tails releases addr) s =
        .next (noticeBoth (latch { s with hif := { s.hif with pollOut := false } } HIF_ERR 0) 0x0104 0 addr))) ∧
  (∀ (n : Nat) (s : State), s.canon → nextRing s = some n →
      (∀ d : Desc, ∃ u, exec (.descriptorFetch [d]) s = .next u ∧ headOf u n = headOf s n + 1 ∧
        u.hif.nextId = s.hif.nextId + 1 ∧ u.hif.lastRing = n ∧ tailOf u n = tailOf s n) ∧
      (∀ addr, ∃ u, exec (.descriptorReadFail addr) s = .next u ∧ tget (fun _ => false) u.hif.fault n = true ∧
        u.hif.lastRing = n ∧ headOf u n = headOf s n)) ∧
  (∀ (m : Fin 64) (t : Track) (st r0 r1 : Nat) (h : Hoop) (s : State), s.canon →
      engineRuns s = true → cqEnabled s m = true → cqNotice s m = false → cqRoom s m = true →
      nextRecord s m = some t → t.phase = .done st r0 r1 h →
      ∃ u before after, exec (.completionWrite m) s = .next u ∧
        u.out = s.out ++ before ++ [.completion m (prodOf s m).toNat (cqAddr s m (prodOf s m))
          (recordBytes t (phaseBit (prodOf s m) (cqLog s m)) st r0 r1 h)] ++ after ∧
        prodOf u m = prodOf s m + 1 ∧ findTrack u t.id = none)

/-- A motif control descriptor, opcode 0x20 or 0x21, from a ring with MOTIF_CTL = 1 goes on to its block, and
from any other completes REFUSED_STATE; a ring enabled with MOTIF_CTL = 1 closes the tile command window
(R55). -/
def Obligations.MotifControlRings : Prop :=
  (∀ (n : Nat) (d : Desc) (s : State), s.canon → nextRing s = some n → (d.opcode = 0x20 ∨ d.opcode = 0x21) →
    malformed s n d = false → (∀ t, t ∈ s.hif.track → t.ring ≠ n ∧ t.id ≠ s.hif.nextId) →
    ∃ u t, exec (.descriptorFetch [d]) s = .next u ∧ findTrack u s.hif.nextId = some t ∧ t.desc = d ∧
      t.phase = (if regBit s (HIF_SQ_CTRL n) 29 then .ready else .done stState 0 0 s.hoop.number) ∧ u.cfg = s.cfg) ∧
  (∀ (n : Fin 64) (v : Byte) (s : State), sqEnabled s n = true → regBit s (HIF_SQ_CTRL n) 29 = true →
    exec (.lgwAddrHWrite v) s = .next s ∧ exec (.lgwAddrLWrite v) s = .next s ∧ exec (.lgwDataWrite v) s = .next s ∧
      exec (.lgwOpen v) s = .next s)

/-- Interrupts (R79, R80): a vector whose timer runs out sends its message and counts anew; a masked one keeps
it pending, and unmasking sends it. Dropped notices are reported by one record (R61). HIF_CTRL and HIF_POLL
are stored; a write to BAR2 only sets its error; the PCIe reset pin and the training of the link (R42, R45,
R385, R394). -/
def Obligations.HostPort : Prop :=
  ((∀ (v : Fin 64) (s : State), s.canon → (vecOf s v).timerRunning = true → regFld s (HIF_VEC_MOD v) 25 16 ≠ 0 →
      ∃ u, exec (.vectorTimerExpiry v) s = .next u ∧ (vecOf u v).count = 0 ∧ (vecOf u v).timerRunning = false ∧
        (regBit s (MSIX_CTRL v) 0 = false → u.out = s.out ++ [.message v]) ∧
        (regBit s (MSIX_CTRL v) 0 = true → u.out = s.out ∧ (vecOf u v).pending = true) ∧ onlyHost s u) ∧
    (∀ (v : Fin 64) (s : State), s.canon →
      ∃ u, exec (.msixUnmask v) s = .next u ∧ regBit u (MSIX_CTRL v) 0 = false ∧ (vecOf u v).pending = false ∧
        u.out = s.out ++ (if (vecOf s v).pending then [.message v] else []) ∧ keepsRegs [MSIX_CTRL v] s u ∧
        onlyHost s u) ∧
    (∀ (m : Nat) (s : State), noticeRing s = some m → engineRuns s = true → cqRoom s m = true → s.hif.noticesLost ≠ 0 →
      ∃ u after, exec .noticesLost s = .next u ∧ u.hif.noticesLost = 0 ∧
        u.out = s.out ++ [.notice m (prodOf s m).toNat (cqAddr s m (prodOf s m)) ((Notice.mk 0x0103 0 s.hoop.number s.hif.noticesLost).bytes
          (phaseBit (prodOf s m) (cqLog s m) * 128 + 64))] ++ after ∧ onlyHost s u)) ∧
  (∀ (v : Word) (s : State),
      (s.canon → s.hif.noticesLost = 0 → ∃ u, exec (.hifCtrlWrite v) s = .next u ∧
        regFld u HIF_CTRL 1 0 = v.toNat % 4 ∧ keepsRegs [HIF_CTRL] s u ∧ u = { s with regs := u.regs }) ∧
      (s.canon → ∃ u, exec (.pollIntervalWrite v) s = .next u ∧ regFld u HIF_POLL 7 0 = v.toNat % 256 ∧
        keepsRegs [HIF_POLL] s u ∧ u = { s with regs := u.regs }) ∧
      (∀ a, a < 2 ^ 32 → exec (.bar2Write a v) s = .next (latch s HIF_ERR 6)) ∧
      (∀ a, 2 ^ 32 ≤ a → exec (.bar2Write a v) s = .fault .outsideBar) ∧
      exec .perstNRise s = .next { s with pcie := { s.pcie with perstHigh := true } } ∧
      (s.pcie.perstHigh = true → resetReleased s = true →
        exec .pcieLinkUp s = .next { s with pcie := { s.pcie with linkUp := true } }))

/-- R78: a function-level reset, a hot reset, the loss of the link and PERST_N return every register of HIF and
of the MSI-X table to its reset value, empty the rings, and leave in the tracker only what is past its point
of no return, without a record. -/
def Obligations.HostResets : Prop :=
  ∀ (s : State), s.canon →
    (∃ u, exec .functionLevelReset s = .next u ∧ hostIsReset s u ∧ u.pcie.linkUp = s.pcie.linkUp) ∧
    (∃ u, exec .hotReset s = .next u ∧ hostIsReset s u ∧ u.pcie.linkUp = s.pcie.linkUp) ∧
    (∃ u, exec .pcieLinkLoss s = .next u ∧ hostIsReset s u ∧ u.pcie.linkUp = false) ∧
    (∃ u, exec .perstNAssert s = .next u ∧ hostIsReset s u ∧ u.pcie.linkUp = false)

/-! ### Control cores (chapter 13) -/

/-- Table 13-2, START (R358, R359): a DORMANT or HALTED thread becomes READY, or RUNNING on a core that was
free; no other register is written. Table 13-2, HALT (R358): a RUNNING or WAITING thread becomes HALTED, and
a core it ran on is free. SCH_WAIT with no selected count makes the thread WAITING on those slots and frees
its core; with one it has no effect (R364). SCH_EXIT makes it DORMANT (R358). -/
def Obligations.ThreadsStartAndHalt : Prop :=
  (∀ (t : Fin 256) (v : Word) (s : State), s.canon → bitW v 27 = false →
      (threadOf s t).state = .dormant ∨ (threadOf s t).state = .halted →
      ∃ u, exec (.threadStart t v) s = .next u ∧
        ((threadOf u t).state = .ready ∨ (threadOf u t).state = .running) ∧
        (∀ a, a ≠ CCS_THR_CTRL t → reg u a = reg s a) ∧ onlyCores s u) ∧
  (∀ (t : Fin 256) (v : Word) (s : State), s.canon → bitW v 28 = false → noneReady s →
      (threadOf s t).state = .waiting ∨
        ((threadOf s t).state = .running ∧ (coreOf s (threadOf s t).core).thread = some t.val) →
      ∃ u, exec (.threadHalt t v) s = .next u ∧ (threadOf u t).state = .halted ∧
        (coreOf u (threadOf s t).core).thread = (if (threadOf s t).state = .running then none
          else (coreOf s (threadOf s t).core).thread) ∧
        (∀ a, a ≠ CCS_THR_CTRL t → reg u a = reg s a) ∧ onlyCores s u) ∧
  (∀ (c : Fin 8) (t : Nat) (s : State), s.canon → runningOn s c = some t → noneReady s →
      (∀ v : Word, (∀ k, k < 4 → bitW v k = true → ((threadOf s t).counts[k]?).getD 0 = 0) →
        ∃ u, exec (.schWait c v) s = .next u ∧
          threadOf u t = { threadOf s t with state := .waiting, waitMask := v.toNat % 16 } ∧
          (coreOf u c).thread = none ∧ u.regs = s.regs ∧ onlyCores s u) ∧
      (∀ (v : Word) (k : Nat), k < 4 → bitW v k = true → ((threadOf s t).counts[k]?).getD 0 ≠ 0 →
        exec (.schWait c v) s = .next s) ∧
      (∃ u, exec (.schExit c) s = .next u ∧ threadOf u t = { threadOf s t with state := .dormant } ∧
        (coreOf u c).thread = none ∧ u.regs = s.regs ∧ onlyCores s u))

/-- SCH_YIELD gives the core to the READY thread that R360 chooses, where its priority is no lower, and the
yielding thread stands READY. PREEMPT (R361): with no core free, the core that R361 chooses takes the pre-
empting thread, and the pre-empted one goes to the head of its ready list. The rest of the port (Table
13-4): SCH_TAKE returns a count and clears it, SCH_TIMER arms the one-shot in µs of elapsed TCLK time (250
cycles each), SCH_WDOG restarts the core's watchdog, and SCH_SIGNAL adds one to a slot bound to the signal
source that is not full. A thread's timer expires (Table 13-4): it is no longer armed and a slot bound to it
has counted. A watchdog expires (R366): EXPIRED is set and the running thread is HALTED. -/
def Obligations.ThreadsAreScheduled : Prop :=
  (∀ (c : Fin 8) (t x : Nat) (s : State), s.canon → runningOn s c = some t → coresRun s = true → x ≠ t →
      (∀ d : Fin 8, d ≠ c → (coreOf s d).thread ≠ none) →
      nextThread s c = some x → regFld s (CCS_THR_CTRL t) 20 16 ≤ (threadOf s x).prio →
      (∀ p, x ∈ listOf s p → p = (threadOf s x).prio) → (∀ p, t ∉ listOf s p) →
      ∃ u, exec (.schYield c) s = .next u ∧ (coreOf u c).thread = some x ∧
        (threadOf u x).state = .running ∧ (threadOf u x).core = c ∧ (threadOf u t).state = .ready ∧
        u.regs = s.regs ∧ onlyCores s u) ∧
  (∀ (c t x : Nat) (s : State), s.canon → nextPreemption s = some (t, c) → (coreOf s c).thread = some x → x ≠ t →
      (∀ d : Fin 8, (coreOf s d).thread ≠ none) →
      ∃ u, exec .preempt s = .next u ∧ (coreOf u c).thread = some t ∧ (threadOf u t).state = .running ∧
        (threadOf u x).state = .ready ∧ (listOf u (threadOf u x).prio).head? = some x ∧
        u.regs = s.regs ∧ onlyCores s u) ∧
  (∀ (c : Fin 8) (t : Nat) (s : State), runningOn s c = some t →
      (∀ k : Fin 4, exec (.schTake c k) s = .next
        { setThread s t { threadOf s t with counts := (threadOf s t).counts.set k 0 } with
          readValue := ((threadOf s t).counts[k.val]?).getD 0 }) ∧
      (∀ v, exec (.schTimerWrite c v) s = .next (setThread s t { threadOf s t with
          timer := if v.toNat % 2 ^ 24 = 0 then none else some (s.tim.cyc + v.toNat % 2 ^ 24 * 250) })) ∧
      exec (.schWdog c) s = .next (setCore s c { coreOf s c with wdog := s.tim.cyc }) ∧
      (∀ (x k n : Nat) (v : Word), x = v.toNat % 256 → k = v.toNat / 256 % 4 → slotSource s x k = 0x31 →
        (threadOf s x).counts[k]? = some n → n < 255 → noneReady s → (threadOf s x).state ≠ .waiting →
        ∃ u, exec (.schSignal c v) s = .next u ∧ (threadOf u t).lastSignal = 1 ∧
          (threadOf u x).counts = (threadOf s x).counts.set k (n + 1) ∧ u.regs = s.regs ∧ onlyCores s u)) ∧
  ((∀ (t : Fin 256) (due k n : Nat) (s : State), s.canon → (threadOf s t).timer = some due → noneReady s →
      (threadOf s t).state ≠ .waiting → slotSource s t k = 0x30 → k < 4 →
      (∀ j, j < 4 → j ≠ k → slotSource s t j ≠ 0x30) → (threadOf s t).counts[k]? = some n → n < 255 →
      ∃ u, exec (.schTimerExpiry t) s = .next u ∧ (threadOf u t).timer = none ∧
        (threadOf u t).counts[k]? = some (n + 1)) ∧
    (∀ (c : Fin 8) (t : Nat) (s : State), s.canon → regBit s (CCS_WDOG c) 31 = true → wdogHeld s = false →
      runningOn s c = some t → noneReady s →
      ∃ u, exec (.watchdogExpiry c) s = .next u ∧ regBit u (CCS_WDOG c) 30 = true ∧
        (threadOf u t).state = .halted ∧ (coreOf u c).thread = none))

/-- NQ_POP by a core (R373, R374): the head word is returned and leaves the queue, and from an empty queue the
last word again, with UNDERRUN; a host's read returns 0 and pops nothing. A packet that is accepted becomes
visible whole, behind the words held (R370): from the outbox that is served next (R369), or posted by
SCH_POST, whose read returns 1; without room SCH_POST returns 0 and posts nothing (R371). NQ_CTRL.EN: a
write that clears it empties the queue (Table 13-5), and one that sets it makes an empty pop read 0. -/
def Obligations.QueuesHoldPackets : Prop :=
  (∀ (q : Fin 16) (s : State), s.canon →
      exec (.nqPop .host q) s = .next { s with readValue := 0 } ∧
      (∀ c, (queueOf s q).words = [] → ∃ u, exec (.nqPop (.core c) q) s = .next u ∧
        u.readValue = (queueOf s q).last.toNat ∧ regBit u (NQ_STAT q) 31 = true ∧ (queueOf u q).words = []) ∧
      (∀ c w rest, (queueOf s q).words = w :: rest → ∃ u, exec (.nqPop (.core c) q) s = .next u ∧
        u.readValue = w.data.toNat ∧ (queueOf u q).words = rest ∧ (queueOf u q).last = w.data)) ∧
  ((∀ (q : Fin 16) (src : Nat) (p : Packet) (rest : List Packet) (s : State), s.canon → nextSource s q = some src →
      (outboxOf s src).packets = p :: rest → nqEnabled s q = true → p.words.length ≤ 512 - queueDepth s q →
      ∃ u, exec (.noticePacketAccept q) s = .next u ∧
        (queueOf u q).words = (queueOf s q).words ++ packetWords p.words) ∧
    (∀ (c : Fin 8) (t : Nat) (q : Fin 16) (s : State), s.canon → runningOn s c = some t → nqEnabled s q = true →
      stagedLen (stagedOf s t) ≤ 512 - queueDepth s q →
      ∃ u ws, exec (.schPost c q) s = .next u ∧ u.readValue = 1 ∧ ws.length = stagedLen (stagedOf s t) ∧
        (queueOf u q).words = (queueOf s q).words ++ packetWords ws) ∧
    (∀ (c : Fin 8) (t : Nat) (q : Fin 16) (s : State), runningOn s c = some t → nqEnabled s q = true →
      512 - queueDepth s q < stagedLen (stagedOf s t) →
      ∃ u, exec (.schPost c q) s = .next u ∧ u.readValue = 0 ∧ u.ccs = s.ccs)) ∧
  (∀ (q : Fin 16) (v : Word) (s : State), s.canon →
      (nqEnabled s q = true → bitW v 31 = false →
        ∃ u, exec (.nqEnWrite q v) s = .next u ∧ (queueOf u q).words = []) ∧
      (nqEnabled s q = false → bitW v 31 = true →
        ∃ u, exec (.nqEnWrite q v) s = .next u ∧ (queueOf u q).last = 0 ∧
          (queueOf u q).words = (queueOf s q).words ∧ onlyCores s u))

/-- Core accesses (R354 to R356): one that Table 13-1 gives the core is served, a corrected word being counted
besides; an uncorrectable word sets FAULT and posts CORE_FAULT with the address and the thread; one the
table does not give posts it alone; an uncorrectable TCB word halts its thread (Table 17-2). OBS_WINDOW_END
(R376) shows the window's dispatches, starts the counts again and counts the window. R355: an SC after an LR
of the same shared word stores its operand and reads 0, unless another core has written the word in between:
then it stores nothing and reads 1 (the reading of success is log 74's). -/
def Obligations.CoreAccessAndWindow : Prop :=
  ((∀ (c : Fin 8) (addr : Nat) (kind : CoreAccess) (s : State), addr < 2 ^ 32 →
      (coreAllows kind addr = true → areaOf addr ≠ .blocks → areaOf addr ≠ .port →
        exec (.coreFault c addr ⟨kind, .clean⟩) s = .next (coreServe s c addr kind) ∧
        exec (.coreFault c addr ⟨kind, .corrected⟩) s =
          .next (coreServe (latchCount s (CCS_CORE_STAT c) 15 0 1) c addr kind) ∧
        exec (.coreFault c addr ⟨kind, .uncorrectable⟩) s = .next (noticeBoth (latch s (CCS_CORE_STAT c) 30) 0x0E04 c
          (addr + ((coreOf s c).thread).getD 0 * 2 ^ 32))) ∧
      (coreAllows kind addr = false → tcbThread addr = none → ∀ e,
        exec (.coreFault c addr ⟨kind, e⟩) s = .next (noticeBoth s 0x0E04 c
          (addr + ((coreOf s c).thread).getD 0 * 2 ^ 32))) ∧
      (∀ t : Nat, tcbThread addr = some t →
        exec (.coreFault c addr ⟨kind, .uncorrectable⟩) s = .next (haltThread (noticeBoth (latch s (CCS_CORE_STAT c) 30)
          0x0E04 c (addr + t * 2 ^ 32)) t))) ∧
    (∀ s : State, ∃ u, exec .obsWindowEnd s = .next u ∧ u.ccs.obsSeq = s.ccs.obsSeq + 1 ∧
      u.ccs.shownDispatches = s.ccs.dispatches ∧ u.ccs.dispatches = 0 ∧ u.ccs.obsStart = u.tim.cyc ∧
      (∀ c, c < 8 → (coreOf u c).busy = 0))) ∧
  (∀ (c d : Fin 8) (addr : Nat) (v w : Word) (s : State), s.canon → 0x20000000 ≤ addr → addr < 0x20800000 →
      addr % 4 = 0 → d ≠ c →
      ∃ u, exec (.coreFault c addr ⟨.lr, .clean⟩) s = .next u ∧ u.readValue = coreWord s c addr 4 ∧
        (∃ x, exec (.coreFault c addr ⟨.sc v, .clean⟩) u = .next x ∧ x.readValue = 0 ∧
          coreWord x c addr 4 = v.toNat) ∧
        (∃ x y, exec (.registerWrite (.core d) addr 15 w) u = .next x ∧
          exec (.coreFault c addr ⟨.sc v, .clean⟩) x = .next y ∧ y.readValue = 1 ∧ coreWord y c addr 4 = w.toNat))

/-- A thread takes a free unit with CLAIM, and its owner frees it with RELEASE (R377). Feeds, START and RELEASE
from a thread that does not own the unit set FOREIGN and do nothing else, and the host's writes have no
effect (R377). START latches the configuration and sets the remainder to INIT, and each byte fed, the least
significant of the word first, updates it (R379, R380). -/
def Obligations.CheckUnits : Prop :=
  (∀ (c : Fin 8) (t : Nat) (u : Fin 4) (v : Word) (s : State), runningOn s c = some t → bitW v 29 = false →
      ((cvuOf s u).owner = none → bitW v 30 = false →
        exec (.cvuClaim (.core c) u v) s = .next (setCvu s u { cvuOf s u with owner := some t })) ∧
      ((cvuOf s u).owner = some t → (u = 3 → s.upd.verifying = none) →
        exec (.cvuRelease (.core c) u v) s = .next (setCvu s u { cvuOf s u with owner := none }))) ∧
  (∀ (u : Fin 4) (v : Word) (s : State),
      (∀ (c : Fin 8) (t : Nat), runningOn s c = some t → (cvuOf s u).owner ≠ some t →
        exec (.cvuFeedB (.core c) u v) s = .next (latch s (CVU_STAT u) 30) ∧
        exec (.cvuFeedH (.core c) u v) s = .next (latch s (CVU_STAT u) 30) ∧
        exec (.cvuFeedW (.core c) u v) s = .next (latch s (CVU_STAT u) 30) ∧
        (bitW v 31 = false → bitW v 30 = false →
          exec (.cvuStart (.core c) u v) s = .next (latch s (CVU_STAT u) 30)) ∧
        (bitW v 31 = false → bitW v 29 = false →
          exec (.cvuRelease (.core c) u v) s = .next (latch s (CVU_STAT u) 30))) ∧
      exec (.cvuFeedB .host u v) s = .next s ∧ exec (.cvuFeedH .host u v) s = .next s ∧
      exec (.cvuFeedW .host u v) s = .next s ∧ exec (.cvuClaim .host u v) s = .next s ∧
      exec (.cvuStart .host u v) s = .next s ∧ exec (.cvuRelease .host u v) s = .next s) ∧
  (∀ (c : Fin 8) (t : Nat) (u : Fin 4) (v : Word) (s : State), s.canon → runningOn s c = some t → (cvuOf s u).owner = some t →
      (∀ w poly init ri ro xo, cvuConfig s u = some (w, poly, init, ri, ro, xo) → bitW v 30 = false →
        exec (.cvuStart (.core c) u v) s = .next (setCvu s u { cvuOf s u with
          width := w, poly := poly, refin := ri, refout := ro, xorout := xo, rem := init, bytes := 0 })) ∧
      exec (.cvuFeedB (.core c) u v) s = .next (cvuFed s u 1 v) ∧
      exec (.cvuFeedH (.core c) u v) s = .next (cvuFed s u 2 v) ∧
      exec (.cvuFeedW (.core c) u v) s = .next (cvuFed s u 4 v))

/-! ### The time base (chapter 3) -/

/-- R84: n cycles in one step are n single cycles of its pseudocode, and SLEW_BLOCK_END takes device time on to
the end of the slew block. R82: time that passes up to a target ends in the first cycle in which device time
has reached it. -/
def Obligations.TimeAdvances : Prop :=
  ((∀ (rate : Int) (speed n : Nat) (t : Tim), t.sound → -17179869 ≤ rate → rate ≤ 17179869 → speed ≤ 15 →
      advance rate speed n t = (tclkCycle rate speed)^[n] t) ∧
    (∀ s : State, s.sound → rateAccepted s → s.tim.running = true →
      ∃ u, exec .slewBlockEnd s = .next u ∧ u.tim.blk = 0 ∧
        u.tim = (tclkCycle (timRate s) (timSpeed s))^[1024 - s.tim.blk] s.tim ∧
        keepsRegs [] s u ∧ onlyTime s u)) ∧
  (∀ (target : Nat) (s : State), s.sound → rateAccepted s → s.tim.running = true →
      (target % timeWrap + timeWrap - s.tim.q) % timeWrap < 2 ^ 64 →
      reached (runTo target s).tim.q target = true ∧
      ∀ n, n < cyclesTo s target → reached (advance (timRate s) (timSpeed s) n s.tim).q target = false)

/-- TIM_RATE: the accepted range and HOLDOVER (R85, R100). The kicks of TIM_CTRL, one at a time (R86 to R88,
R100): SNAP copies device time, SET loads it, STEP moves it, ADJ_GO starts a slew, and in HOLDOVER the last
three set HOLD_REFUSED. A boundary of the same cycle is raised before them (Table 4-8; the order of commands
is log 72's). -/
def Obligations.TimeIsSet : Prop :=
  (∀ (v : Word) (s : State),
      (s.tim.mode = .holdover → exec (.timRateWrite v) s = .next (latch s TIM_STATUS 27)) ∧
      (s.tim.mode ≠ .holdover → -17179869 ≤ sext 32 v.toNat → sext 32 v.toNat ≤ 17179869 →
        exec (.timRateWrite v) s = .next (setReg s TIM_RATE v)) ∧
      (s.tim.mode ≠ .holdover → (sext 32 v.toNat < -17179869 ∨ 17179869 < sext 32 v.toNat) →
        exec (.timRateWrite v) s = .next (latch s TIM_STATUS 28))) ∧
  ((∀ (v : Word) (s : State), exec (.timSnap v) s = exec (.timSnap v) (dueBoundary s) ∧
      exec (.timSet v) s = exec (.timSet v) (dueBoundary s) ∧ exec (.timStep v) s = exec (.timStep v) (dueBoundary s) ∧
      exec (.timAdjGo v) s = exec (.timAdjGo v) (dueBoundary s) ∧
      exec (.timHoldExit v) s = exec (.timHoldExit v) (dueBoundary s)) ∧
    ∀ (v : Word) (s : State), s.sound → noBoundaryDue s → v.toNat < 2 ^ 27 →
      (∃ u, exec (.timSnap v) s = .next u ∧ u.tim = { s.tim with snapSec := s.tim.sec, snapNsq := s.tim.acc / 2 ^ 30 } ∧
        keepsRegs [TIM_CTRL] s u ∧ onlyTime s u ∧ u.hif = s.hif ∧ u.hoop = s.hoop ∧ u.ccs = s.ccs) ∧
      (s.tim.mode ≠ .holdover → (reg s TIM_SET_NSQ).toNat < 4000000000 →
        ∃ u, exec (.timSet v) s = .next u ∧
          u.tim.sec = (reg s TIM_TIME_HI).toNat % 65536 * 2 ^ 32 + (reg s TIM_SET_LO).toNat ∧
          u.tim.acc = (reg s TIM_SET_NSQ).toNat * 2 ^ 30 ∧ u.tim.left = 0 ∧ onlyTime s u) ∧
      (s.tim.mode ≠ .holdover →
        ∃ u, exec (.timStep v) s = .next u ∧ u.tim.q = moveQ s.tim.q (sext 32 (reg s TIM_STEP).toNat) ∧
          u.tim.left = 0 ∧ onlyTime s u) ∧
      (s.tim.mode ≠ .holdover →
        ∃ u, exec (.timAdjGo v) s = .next u ∧ u.tim = { s.tim with left := sext 24 ((reg s TIM_ADJ).toNat % 2 ^ 24) } ∧
          keepsRegs [TIM_CTRL] s u ∧ onlyTime s u ∧ u.hif = s.hif ∧ u.hoop = s.hoop ∧ u.ccs = s.ccs) ∧
      (s.tim.mode = .holdover → ∃ u1 u2 u3, exec (.timSet v) s = .next u1 ∧ holdRefused s u1 ∧
        exec (.timStep v) s = .next u2 ∧ holdRefused s u2 ∧ exec (.timAdjGo v) s = .next u3 ∧ holdRefused s u3))

/-- A SNAP copies device time as the cycle of the write begins, for TIM_SNAP_LO, TIM_SNAP_NSQ and SNAP_SEC_HI to
show (R88). -/
def Obligations.SnapCopies : Prop :=
  ∀ (v : Word) (s : State), ∃ u, exec (.timSnap v) s = .next u ∧
    liveFields u TIM_SNAP_LO = s.tim.sec % 2 ^ 32 ∧ liveFields u TIM_SNAP_NSQ = s.tim.acc / 2 ^ 30 % 2 ^ 32 ∧
    liveFields u TIM_TIME_HI = s.tim.sec / 2 ^ 32 % 2 ^ 16 * 2 ^ 16

/-- The master watch (R99, R100, Table 3-6): WATCH takes FREE to WAIT and clearing it leads back to FREE, the
Announce timeout takes TRACKING to HOLDOVER, where a slew ends and the rate stays, and HOLD_EXIT takes
HOLDOVER to WAIT. -/
def Obligations.MasterWatchStates : Prop :=
  ∀ (v : Word) (s : State), s.sound →
    (s.tim.mode = .free → bitW v 31 = true → logAnn (plainWrite s TIM_MASTER_CTRL v) ≠ none →
      ∃ u, exec (.timWatchWrite v) s = .next u ∧ u.tim.mode = .wait ∧ onlyTime s u) ∧
    (bitW v 31 = false →
      ∃ u, exec (.timWatchWrite v) s = .next u ∧ u.tim.mode = .free ∧ onlyTime s u) ∧
    (∀ due, s.tim.mode = .tracking → s.tim.annDue = some due →
      ∃ u, exec .announceTimeout s = .next u ∧ u.tim.mode = .holdover ∧ u.tim.left = 0 ∧
        timRate u = timRate s ∧ onlyTime s u) ∧
    (s.tim.mode = .holdover → v.toNat < 2 ^ 27 →
      ∃ u, exec (.timHoldExit v) s = .next u ∧ u.tim.mode = .wait ∧ onlyTime s u)

/-- A ONESHOT pulse (R101, R102): ARM copies its registers and schedules its edge, or is refused with RANGE; the
edge asserts it for its width of elapsed time; STOP cancels a pending edge and leaves an asserted pulse; the
width's end leaves it inactive. -/
def Obligations.PulseLifecycle : Prop :=
  ∀ (i : Fin 8) (v : Word) (s : State), s.canon →
    (bitW v 30 = false → pulseRefused (plainWrite s (TIM_PULSE_CTRL i) (v ||| 0x80000000)) i = true →
      exec (.pulseArm i v) s = .next (latch (plainWrite s (TIM_PULSE_CTRL i) (v ||| 0x80000000)) TIM_STATUS 28)) ∧
    (∀ p c, p = plainWrite s (TIM_PULSE_CTRL i) (v ||| 0x80000000) → c = pulseSettings p i → bitW v 30 = false →
      pulseRefused p i = false → c.mode = 0 → reached (moveQ s.tim.q 255) c.start = false →
      ∃ u, exec (.pulseArm i v) s = .next u ∧ (pulseOf u i).cfg = some c ∧ (pulseOf u i).next = some c.start ∧
        onlyTime s u) ∧
    (bitW v 31 = false → ∃ u, exec (.pulseStop i v) s = .next u ∧ (pulseOf u i).cfg = none ∧
      (pulseOf u i).next = none ∧ (pulseOf u i).assertedTo = (pulseOf s i).assertedTo ∧ onlyTime s u) ∧
    (∀ c e, (pulseOf s i).cfg = some c → c.mode = 0 → (pulseOf s i).next = some e →
      ∃ u, exec (.pulseEdge i) s = .next u ∧
        (pulseOf u i).assertedTo = some (instantOf (runTo e s) e + c.widthQ) ∧ (pulseOf u i).next = none ∧
        toutLevel u i = !(pulseOf s i).pol ∧
        HostWrite.tout i (!(pulseOf s i).pol) (instantOf (runTo e s) e) ∈ u.out ∧ onlyTime s u) ∧
    (∀ e, (pulseOf s i).assertedTo = some e →
      ∃ u, exec (.pulseWidthEnd i) s = .next u ∧ (pulseOf u i).assertedTo = none ∧
        toutLevel u i = (pulseOf s i).pol ∧ HostWrite.tout i (pulseOf s i).pol e ∈ u.out ∧ onlyTime s u)

/-- A selected edge on TIN is captured with its stamp where the FIFO has room and no edge came within 16 ns
(R104), and an active word-clock edge is stamped in elapsed time (R105). Without edges a reference is lost:
the word clock after four periods (R105), a pin reference after 1.5 T (Table 4-4); the one the generator
follows goes from LOCKED to HOLD. The posting engine takes the head of the stamp queue whose turn it is, and
no other (R96). -/
def Obligations.ReferencesAndStamps : Prop :=
  ((∀ (i : Fin 8) (after : Nat) (phase : Fin 16) (falling : Bool) (s : State), s.sound → s.canon →
      noBoundaryDue (tick after s) → regBit s (TIM_CAP_CTRL i) 31 = true → regBit s (TIM_CAP_CTRL i) 28 = false →
      regFld s (TIM_CAP_CTRL i) 30 29 = 3 → (capOf s i).fifo.length < 4 → (capOf s i).last = none →
      ∃ u q, exec (.tinEdge i after phase falling) s = .next u ∧ q = rawStamp (tick after s) phase ∧
        (capOf u i).fifo = (capOf s i).fifo ++ [(q / 4000000000, q % 4000000000, falling, (capOf s i).edges + 1)] ∧
        onlyTime s u) ∧
    (∀ (after : Nat) (phase : Fin 16) (rising : Bool) (s : State), s.sound → s.canon →
      noBoundaryDue (tick after s) → regBit s TIM_WCLK_CTRL 31 = true → rising ≠ regBit s TIM_WCLK_CTRL 30 →
      ∃ u, exec (.wclkEdge after phase rising) s = .next u ∧
        u.tim.wclk.lastElapsed = some ((tick after s).tim.elapsedQ + phase) ∧ onlyTime s u)) ∧
  ((∀ (e p : Nat) (s : State), s.sound → s.tim.wclk.present = true → s.tim.wclk.lastElapsed = some e →
      s.tim.wclk.lastPeriod = some p →
      ∃ u, exec .wclkTimeout s = .next u ∧ u.tim.wclk.present = false ∧
        (hoopMode s = 2 → s.hoop.ref.state = .locked → u.hoop.ref.state = .hold) ∧ onlyTime s u) ∧
    (∀ (e : RefEdge) (s : State), s.sound → hoopMode s = 3 → s.hoop.ref.edge = some e → s.hoop.ref.state = .locked →
      ∃ u, exec .pinRefTimeout s = .next u ∧ u.hoop.ref.state = .hold ∧ onlyTime s u)) ∧
  (∀ (p : Fin 38) (e : Stamp) (rest : List Stamp) (id : Nat) (s : State), s.canon →
      (s.tim.lastPosted + 1) % 46 = p → (stampsOf s p).note = none → (stampsOf s p).entries = e :: rest → e.dest = .rawTx id →
      ∃ u, exec .stampPost s = .next u ∧ (stampsOf u p).entries = rest ∧ u.tim.lastPosted = p ∧
        (∀ q : Fin 38, q ≠ p → (stampsOf u q).entries = (stampsOf s q).entries))

/-! ### Hoops and commit windows (chapters 1 and 4) -/

/-- HOOP_CTRL (R116, R117, R132): RUN starts a generator that stands, which takes REV for its runs; RUN cleared
stops it at the next boundary; ABORT ends the hoop in progress without its output. HOOP_BOUNDARY (R108,
R113, R117): the boundary that was due is raised and numbered — the first by its grid point or
HOOP_START_NUM, the next by one more, or by its grid point where that is later — and a generator that is to
stop stops instead. One raised earlier in its cycle stands (log 72). -/
def Obligations.GeneratorControl : Prop :=
  (∀ (v : Word) (s : State), s.canon →
      (s.hoop.running = false → bitW v 30 = false →
        ∃ u, exec (.hoopRunStart v) s = .next u ∧ u.hoop.running = true ∧ u.hoop.raised = false ∧
          u.hoop.fStarted = false ∧ u.hoop.number = s.hoop.number ∧ u.run.rev = regFld s GLB_BEHAV 7 0 ∧
          (hoopMode s ≠ 1 → u.hoop.bNext = deviceAt s (s.tim.elapsedQ + 400000)) ∧
          u.egr = { s.egr with slot := regFld s EGR_AUTH 5 0, abortOf := none } ∧
          keepsRegs [HOOP_CTRL] s u ∧ u = { s with regs := u.regs, hoop := u.hoop, run := u.run, egr := u.egr }) ∧
      (s.hoop.running = true → bitW v 30 = false →
        ∃ u, exec (.hoopRunStop v) s = .next u ∧ u.hoop = { s.hoop with stopAtNext := true } ∧
          keepsRegs [HOOP_CTRL] s u ∧ u = { s with regs := u.regs, hoop := u.hoop }) ∧
      (s.hoop.running = true → bitW v 31 = true → s.hoop.fStarted = true → s.hoop.aborted = false →
        s.hoop.fDue = false → reached s.tim.q s.hoop.bNext = false →
        ∃ u, exec (.hoopAbortKick v) s = .next u ∧ u.hoop.aborted = true ∧ u.hoop.lastCause = 3 ∧
          u.hoop.consecAborts = s.hoop.consecAborts + 1 ∧ u.hoop.running = true ∧ u.hoop.number = s.hoop.number)) ∧
  (∀ s : State, s.sound → s.hoop.running = true →
      (s.hoop.early = some s.tim.cyc → exec .hoopBoundary s = .next { s with hoop := { s.hoop with early := none } }) ∧
      (s.hoop.early ≠ some s.tim.cyc → s.hoop.fDue = false →
      (s.hoop.stopAtNext = true → ∃ u, exec .hoopBoundary s = .next u ∧ u.hoop.running = false ∧
        u.hoop.number = s.hoop.number) ∧
      (s.hoop.stopAtNext = false → ∃ u, exec .hoopBoundary s = .next u ∧ u.hoop.running = true ∧
        u.hoop.raised = true ∧ u.hoop.fDue = true ∧ u.hoop.bThis = s.hoop.bNext ∧ u.hoop.fNumber = s.hoop.fNumber ∧
        (s.hoop.raised = true → s.hoop.nextK = none → u.hoop.number = s.hoop.number + 1) ∧
        (∀ k, s.hoop.raised = true → s.hoop.nextK = some k →
          u.hoop.number = if later s.hoop.number (w32 k) then w32 k else s.hoop.number + 1) ∧
        (s.hoop.raised = false → s.hoop.nextK = none → u.hoop.number = reg s HOOP_START_NUM))))

/-- FCLK_BOUNDARY (R123): the raised boundary reaches FCLK, the closed set's configuration goes into force
there, and the window of the new hoop opens. -/
def Obligations.SetTakesEffect : Prop :=
  ∀ (e : EndState) (s : State), s.hoop.fDue = true → s.win.closed = some e → s.boot.twinEn = false →
    s.twn.closed = none →
    ∃ u, exec .fclkBoundary s = .next u ∧ u.cfg = e.cfg ∧ u.win.closed = none ∧ u.win.isOpen = true ∧
      u.hoop.fDue = false ∧ u.hoop.fStarted = true ∧ u.hoop.fNumber = s.hoop.number

/-- What each member that sets configuration does to the end state of its set (R122). COMMIT_WINDOW_CLOSE (R121,
R122): the window closes; its set waits for the boundary where every check passes, and is refused whole
where one does not. -/
def Obligations.SetsAreBuilt : Prop :=
  (∀ (s : State) (m : Member), s.canon →
      (m.desc.opcode = 0x04 → tget (fun _ => none) (endStateOf s [m]).cfg.binds (darg m.desc 0 % 32) = some m.desc.object) ∧
      (m.desc.opcode = 0x05 → tget (fun _ => none) (endStateOf s [m]).cfg.binds (darg m.desc 0 % 32) = none) ∧
      (m.desc.opcode = 0x10 → ∀ p, p < 7 → tget (fun _ => []) (endStateOf s [m]).cfg.parts p =
        if bitOf (darg m.desc 0) p then (stageOf s p).data else tget (fun _ => []) s.cfg.parts p) ∧
      (m.desc.opcode = 0x13 → bitOf (darg m.desc 0) 31 = false →
        tget (fun _ => []) (endStateOf s [m]).cfg.layers m.desc.object = m.desc.args.take 5) ∧
      (m.desc.opcode = 0x14 → bitOf (darg m.desc 0) 31 = true →
        tget (fun _ => []) (endStateOf s [m]).cfg.sessions m.desc.object = m.desc.args) ∧
      (m.desc.opcode = 0x15 →
        tget (fun _ => []) (endStateOf s [m]).cfg.sources m.desc.object = m.desc.args.take 5) ∧
      (m.desc.opcode = 0x16 → bitOf (darg m.desc 0) 1 = true →
        (HOOP_RATE, w32 (darg m.desc 1)) ∈ (endStateOf s [m]).hoopRegs) ∧
      (m.desc.opcode = 0x24 → (endStateOf s [m]).cfg.cid = darg m.desc 0)) ∧
  (∀ (t : State) (e : EndState) (s : State), s.hoop.running = true → s.hoop.fStarted = true → s.hoop.fDue = false →
      s.win.isOpen = true → s.win.held = [] → s.win.members ≠ [] → (∀ m, m ∈ s.win.members → m.desc.opcode ≠ 0x70) →
      s.boot.twinEn = false → s.lgw.opened = false →
      t = setWin (runTo (moveQ s.hoop.bNext (-(leadQ s 1 : Nat))) s) { s.win with isOpen := false, members := [] } →
      e = endStateOf t s.win.members →
      ∃ u, exec .commitWindowClose s = .next u ∧ u.win.isOpen = false ∧ u.win.members = [] ∧
        u.win.closed = (if setChecks t e = none then some e else s.win.closed) ∧ u.cfg = s.cfg)

/-- A descriptor of Table 2-6 that joins a commit window does so when it is handed to its block while its window
is open (R65, R118, R121): bindings, COMMIT, LAYER_SET, SESSION_SET, SOURCE_SET, HOOP_SET, COLOUR_SET, the
six MOTIF_CTRL commands, PROGRAM_SEND, PORT_SET, OWNER_SET and the three TWIN_ROLEs; outside a joined pair
nothing is forwarded. AT_HOOP_RELEASE lets a held one join when that window is open (R53). -/
def Obligations.DescriptorsJoinWindow : Prop :=
  (∀ (n : Fin 64) (d : Desc) (t : Track) (s : State), mayJoin s t →
    ((awaits s n (withOp 0x04 d) t → exec (.bufBind n d) s = .next (forwardJoined (joined s t))) ∧
    (awaits s n (withOp 0x05 d) t → exec (.bufRetire n d) s = .next (forwardJoined (joined s t))) ∧
    (awaits s n (withOp 0x10 d) t → exec (.commit n d) s = .next (forwardJoined (joined s t))) ∧
    (awaits s n (withOp 0x13 d) t → exec (.layerSet n d) s = .next (forwardJoined (joined s t))) ∧
    (awaits s n (withOp 0x14 d) t → exec (.sessionSet n d) s = .next (forwardJoined (joined s t))) ∧
    (awaits s n (withOp 0x15 d) t → exec (.sourceSet n d) s = .next (forwardJoined (joined s t))) ∧
    (awaits s n (withOp 0x16 d) t → exec (.hoopSet n d) s = .next (forwardJoined (joined s t))) ∧
    (awaits s n (withOp 0x17 d) t → exec (.colourSet n d) s = .next (forwardJoined (joined s t))) ∧
    (awaits s n (withSub 0x20 7 0 1 d) t → exec (.motifCtrlSetEpoch n d) s = .next (forwardJoined (joined s t))) ∧
    (awaits s n (withSub 0x20 7 0 2 d) t → exec (.motifCtrlClaimNext n d) s = .next (forwardJoined (joined s t))) ∧
    (awaits s n (withSub 0x20 7 0 3 d) t → exec (.motifCtrlRelease n d) s = .next (forwardJoined (joined s t))) ∧
    (awaits s n (withSub 0x20 7 0 4 d) t → exec (.motifCtrlClearForeign n d) s = .next (forwardJoined (joined s t))) ∧
    (awaits s n (withSub 0x20 7 0 5 d) t → exec (.motifCtrlReset n d) s = .next (forwardJoined (joined s t))) ∧
    (awaits s n (withSub 0x20 7 0 6 d) t → exec (.motifCtrlReport n d) s = .next (forwardJoined (joined s t))) ∧
    (awaits s n (withOp 0x21 d) t → exec (.programSend n d) s = .next (forwardJoined (joined s t))) ∧
    (awaits s n (withOp 0x22 d) t → exec (.portSet n d) s = .next (forwardJoined (joined s t))) ∧
    (awaits s n (withOp 0x24 d) t → exec (.ownerSet n d) s = .next (forwardJoined (joined s t))) ∧
    (awaits s n (withSub 0x70 1 0 1 d) t → exec (.twinRoleActive n d) s = .next (forwardJoined (joined s t))) ∧
    (awaits s n (withSub 0x70 1 0 2 d) t → exec (.twinRoleHandover n d) s = .next (forwardJoined (joined s t))) ∧
    (awaits s n (withSub 0x70 1 0 3 d) t → exec (.twinRoleCold n d) s = .next (forwardJoined (joined s t)))) ∧
    (forwards s = false → forwardJoined (joined s t) = joined s t)) ∧
  (∀ (m : Member) (s : State), s.win.isOpen = true → s.win.held = [m] → Desc.atHoop m.desc = true → m.late = false →
    m.desc.target = s.hoop.fNumber + 1 → s.hoop.running = true → s.hoop.fStarted = true → s.boot.twinEn = false →
    ∃ u, exec .atHoopRelease s = .next u ∧ u.win.held = [] ∧ u.win.members = insertMember m s.win.members ∧
      u = { s with win := u.win, hif := u.hif })

/-- The package memory stacks (R129, R130): a stack enters a lower state where R130 allows it, begins its exit
on a request, which waits or keeps an ACTIVE stack busy, and is ACTIVE when the exit latency has passed; LT
is 0 while LTR is off; a host read of package memory before it is ready returns 0, else the bytes stored,
and one that meets an uncorrectable word all ones. -/
def Obligations.PackageStacks : Prop :=
  ∀ (i : Fin 2) (s : State),
    (∀ goal, regBit s HOOP_LTR_CFG 31 = true → s.hoop.stacksHeld = false → (stackOf s i).exitDue = none →
      (stackOf s i).waiting = false → (stackTimes (stackOf s i).state).1 < (stackTimes goal).1 →
      (stackOf s i).idleSince + (stackTimes goal).1 ≤ s.tim.cyc →
      (stackTimes goal).2.1 + guard10 s ≤ s.hoop.lt →
      exec (.stackPowerDown i goal) s = .next (setStack s i { stackOf s i with state := goal })) ∧
    ((stackOf s i).state ≠ .active → (stackOf s i).exitDue = none →
      exec (.stackExitBegin i true) s = .next (setStack s i { stackOf s i with
        waiting := true, exitDue := some (s.tim.cyc + (stackTimes (stackOf s i).state).2.2) })) ∧
    ((stackOf s i).state = .active →
      exec (.stackExitBegin i true) s = .next (setStack s i { stackOf s i with idleSince := s.tim.cyc })) ∧
    (∀ due, (stackOf s i).exitDue = some due →
      ∃ u, exec (.stackExitComplete i) s = .next u ∧ stackOf u i = ⟨.active, u.tim.cyc, none, false⟩ ∧ onlyTime s u) ∧
    (∀ walked slot used32 used34, s.sound → s.hoop.running = false →
      ∃ u, exec (.ltrUpdate walked slot used32 used34) s = .next u ∧ u.ing = (noteFills s used32 used34).ing ∧
        u.hoop.lt = (if regBit s HOOP_LTR_CFG 31 then min (ltIngest u) (2 ^ 24 - 1) else 0) ∧
        onlyTime s { u with ing := s.ing }) ∧
    (∀ a, a < 2 ^ 32 →
      (s.boot.memReady = false → ∀ e, exec (.bar2Read a e) s = .next { s with readValue := 0 }) ∧
      (s.boot.memReady = true → ∃ u, exec (.bar2Read a .uncorrectable) s = .next u ∧
        u.readValue = 0xFFFFFFFF ∧ regBit u HIF_ERR 7 = true) ∧
      (s.boot.memReady = true → ∃ u, exec (.bar2Read a .clean) s = .next u ∧
        u.readValue = leNat ((List.range 4).map fun k => packageByte s (packageAddr s (a / 4 * 4) + k)) ∧
        u = { s with hoop := u.hoop, readValue := u.readValue }))

/-! ### Ingest and the run (chapters 4 to 7) -/

/-- SESSION_PACKET_RX (R136, R141, R142): the packet goes to the first enabled session that matches, with the
fill of the port's write buffer; in the frame in reception its sequence number, pixels and marker are taken;
and a pgroup's RGB pixels are written at their offsets (R151). -/
def Obligations.SessionPacketReceived : Prop :=
  (∀ (p : Fin 38) (frame : List Byte) (phase : Fin 16) (used k : Nat) (f : RxFrame) (u : UdpFrame) (s t : State),
    32 ≤ p.val → p.val < 36 → accepts s p frame phase f t → ptpAt f.bytes = none →
    parseUdp f.bytes (f.tci.map fun v => v % 4096) = some u → sessionMatch t p u = some k →
    used + f.bytes.length ≤ 1048576 →
    exec (.sessionPacketRx p frame phase used) s = .next (xoffCheck
      (memRequest (sessionPacket (noteFill t p (used + f.bytes.length)) k u.payload false)) p
      (used + f.bytes.length))) ∧
  (∀ (k n : Nat) (rtp : List Byte) (c : Frame) (r : Nat × Bool × Nat × Nat) (s : State), s.canon →
    (sessOf s k).cur = some c → c.handle = some n → c.complete = false → sessW s.cfg k 2 ≠ 0 →
    c.ts = be rtp 4 4 → 12 ≤ rtp.length → byteAt rtp 0 = 0x80 → bitOf (sessW s.cfg k 3) 7 = false →
    rowHeaders (rtp.drop 14) 3 = [r] → bitOf (word c.args 0) 12 = false → 20 + r.1 ≤ rtp.length →
    headerError (word c.args 0) (bits (word c.args 4) 31 16) (bits (word c.args 4) 15 0) r = 0 → c.seqs = [] →
    sessionPacket s k rtp false = modFrame
      ((packetGroups (word c.args 0) (bits (word c.args 4) 31 16) [r] (rtp.drop 20)).foldl (storePgroup k) s) k
      fun f => { f with
        seqs := (be rtp 12 2 * 65536 + be rtp 2 2) :: f.seqs, high := be rtp 12 2 * 65536 + be rtp 2 2
        pixels := f.pixels + r.1 / (pgroup (word c.args 0)).1 * (pgroup (word c.args 0)).2
        marker := if bitOf (byteAt rtp 1) 7 then some (be rtp 12 2 * 65536 + be rtp 2 2) else f.marker }) ∧
  (∀ (k n q i : Nat) (bs : List Byte) (c : Frame) (s : State), s.canon → (sessOf s k).cur = some c →
    c.handle = some n → fmtYcc (word c.args 0) = false → i < (pgroup (word c.args 0)).2 →
    pixelAt (storePgroup k s (q, bs)) n (q + i) = rgbPixel s (word c.args 0)
      (((pgroupSamples (word c.args 0) bs)[3 * i]?).getD 0) (((pgroupSamples (word c.args 0) bs)[3 * i + 1]?).getD 0)
      (((pgroupSamples (word c.args 0) bs)[3 * i + 2]?).getD 0))

/-- ING_FRAME_COMPLETE (R142): a frame with its marker packet, every sequence number to the marker's and every
pixel waits for the deadline, numbered in the order of completion; any other stays in reception. Curve
access (R152, R153): a write stores the low 16 bits in the entry that ING_CURVE_ADDR names and moves INDEX
on, one to a busy slot is refused, and a read of a loaded slot gives the entry. -/
def Obligations.FramesAndCurves : Prop :=
  (∀ (k : Fin 256) (c : Frame) (n : Nat) (s : State), (sessOf s k).cur = some c → c.handle = some n →
      (frameWhole c = true →
        exec (.ingFrameComplete k) s = .next (setSess (setIng s { s.ing with order := s.ing.order + 1 }) k
          { sessOf s k with
            cur := some { c with complete := true, samples := [] }, complete := (sessOf s k).complete + 1
            waiting := (sessOf s k).waiting ++ [⟨c.ts, n, bits (word c.args 4) 31 16, s.ing.order + 1⟩] })) ∧
      (frameWhole c = false → exec (.ingFrameComplete k) s = .next s)) ∧
  (∀ (v : Word) (k i : Nat) (s : State), s.canon → k = regFld s ING_CURVE_ADDR 19 16 →
      i = regFld s ING_CURVE_ADDR 10 0 → i ≤ 1024 → k ≠ 0 →
      (curveBusy s k = false → ∃ u, exec (.curveDataWrite v) s = .next u ∧ curveEntry u k i = v.toNat % 65536 ∧
        (∀ k' i', i' ≤ 1024 → (k', i') ≠ (k, i) → curveEntry u k' i' = curveEntry s k' i') ∧
        regFld u ING_CURVE_ADDR 10 0 = min (i + 1) 1024 ∧ u = { s with regs := u.regs, ing := u.ing }) ∧
      (curveBusy s k = true → exec (.curveDataWrite v) s = .next (latch s ING_STATUS 31)) ∧
      (∃ u, exec .curveDataRead s = .next u ∧ u.readValue = curveEntry s k i ∧
        regFld u ING_CURVE_ADDR 10 0 = min (i + 1) 1024 ∧ u = { s with regs := u.regs, readValue := u.readValue }))

/-- INGEST_DEADLINE (R144, R155): each enabled session offers the frame R144 chooses and its handle is pinned
until the boundary two on; and each session candidate is healthy as R155 says. -/
def Obligations.IngestDeadlineFreezes : Prop :=
  ∀ (s t : State), s.canon → s.hoop.running = true → s.hoop.fStarted = true → s.hoop.fDue = false →
    t = runTo (moveQ s.hoop.bNext (-(leadQ s 2 : Nat))) s →
    ∃ u, exec .ingestDeadline s = .next u ∧
      (∀ k f, k ∈ enabledSessions s.cfg → (sessOf u k).offer = some f → (f.handle, s.hoop.fNumber + 2) ∈ u.ing.pins) ∧
      (∀ k, k ∈ enabledSessions s.cfg →
        (∀ f, (sessOf s k).offer = some f → (sessHandles s.cfg k).contains f.handle = true) → (sessOf u k).offer = ((chooseOffer t k { sessOf s k with
        waiting := (sessOf s k).waiting.filter fun f =>
          !olderFrame (bitOf (sessW s.cfg k 0) 30) (sessOf s k).offer f }).or (sessOf s k).offer)) ∧
      (∀ l n b, l ∈ enabledSources s.cfg → n < 4 → candKind s.cfg l n = 1 → (sourceOf u l).healthy[n]? = some b →
        b = (sessOn s.cfg (candSession s.cfg l n) &&
          decide ((sessOf u (candSession s.cfg l n)).state = .live ∨ (sessOf u (candSession s.cfg l n)).state = .lost) &&
          decide ((sessOf u (candSession s.cfg l n)).age < bits (srcW s.cfg l 0) 23 16)))

/-- PIPELINE_START (R24): 2 µs after the boundary the run of the hoop begins; a DARK entry of the pricking table
gives its position zero grey values (R188). -/
def Obligations.RunBegins : Prop :=
  (∀ (s t : State), s.hoop.running = true → s.hoop.fStarted = true → s.hoop.fDue = false → s.hoop.aborted = false →
    s.run.active = false → pipelineHeld s = false →
    t = memRequest { runTo (moveQ s.hoop.bThis 8000) s with
      hoop := { (runTo (moveQ s.hoop.bThis 8000) s).hoop with stacksHeld := false } } →
    exec .pipelineStart s = .next (runPipeline s.hoop.fNumber { t with
      egr := { t.egr with zeroStitches := noLinkKey t }
      run := { t.run with active := true, hoop := s.hoop.fNumber, grey := [], fixtures := [] } }) ∧
    (runPipeline s.hoop.fNumber { t with
      egr := { t.egr with zeroStitches := noLinkKey t }
      run := { t.run with active := true, hoop := s.hoop.fNumber, grey := [], fixtures := [] } }).run.active = true) ∧
  (∀ (h : Hoop) (n : Nat) (s : State), s.run.canon → (prickEntry (partOf s.cfg 0) n).kind = 0 →
    tget (fun _ => []) (walkEntry h s n).run.grey
      ((prickEntry (partOf s.cfg 0) n).motif * 65536 + (prickEntry (partOf s.cfg 0) n).index) = [0, 0, 0, 0])

/-- The hoop underruns: at the launch of an entry that is not built, with cause 1 (R132, R264), and where
uncorrectable data reaches the run, with cause 2 (R132); the abort is counted. -/
def Obligations.HoopUnderruns : Prop :=
  (∀ (p : Fin 32) (s : State), s.hoop.running = true → s.hoop.fStarted = true → s.hoop.fDue = false →
    s.hoop.aborted = false → (egrOf s p).handed < portEntries s p → (portEntry s p (egrOf s p).handed).kind = 1 →
    s.twn.entryAt = none → pipelineHeld s = false →
    ∃ u, exec (.launchTime p false) s = .next u ∧ u.hoop.aborted = true ∧ u.hoop.lastCause = 1 ∧
      u.hoop.consecAborts = s.hoop.consecAborts + 1 ∧ u.egr.abortOf = some s.hoop.fNumber ∧ u.cfg = s.cfg) ∧
  (∀ (store : Fin 4) (stack : Fin 2) (addr : Nat) (s : State), s.canon → s.run.active = true → s.hoop.fStarted = true →
    s.hoop.aborted = false →
    ∃ u, exec (.pipelineUncorrectableRead store stack addr) s = .next u ∧ u.hoop.aborted = true ∧
      u.hoop.lastCause = 2 ∧ u.hoop.consecAborts = s.hoop.consecAborts + 1 ∧ u.cfg = s.cfg ∧
      (store = 0 → u.glb.eccAddr = addr) ∧ (store ≠ 0 → regBit u GLB_FAULT 30 = true))

/-- LAUNCH_TIME (R264): the built frame of the port's next entry is handed to its queue, due at the hoop's
boundary plus OFFSET. EGRESS_DEADLINE (R265, R268): no scheduled frame of the run stays queued, and the
run's digests are kept, newest of sixteen first. -/
def Obligations.EgressOfTheRun : Prop :=
  (∀ (p : Fin 32) (e : Sched) (k : Nat) (s : State), s.canon → s.hoop.running = true → s.hoop.fStarted = true →
      s.hoop.fDue = false → s.hoop.aborted = false → k = (egrOf s p).handed → k < portEntries s p →
      e = portEntry s p k → (e.kind = 1 ∨ e.kind = 3) → builtFrame s p k ≠ [] → drives s = true → keyless s e.kind = false →
      portUp s p = true → queueHasRoom s p (schedQueue e.kind) = true → waitingAt s p (schedQueue e.kind) = [] →
      ∃ u, exec (.launchTime p true) s = .next u ∧ (egrOf u p).handed = k + 1 ∧
        queueAt u p (schedQueue e.kind) = queueAt s p (schedQueue e.kind) ++
          [{ bytes := builtFrame s p k, sender := .sched s.hoop.fNumber k, due := moveQ s.hoop.bThis (4 * e.offset : Nat)
             ownTag := false, stamp := if e.stamp then some (.firmware e.tag) else none, oneStep := false }] ∧
        u.hoop = s.hoop ∧ u.run = s.run ∧ u.cfg = s.cfg) ∧
  (∀ s : State, s.canon → s.hoop.running = true → s.hoop.fStarted = true → s.hoop.fDue = false →
      deadlineTaken s = false → s.hoop.aborted = false → s.twn.entryAt = none →
      ∃ u, exec .egressDeadline s = .next u ∧
        u.egr.digests = (⟨s.hoop.fNumber, false, (List.range 32).map fun p =>
          portDigest s s.hoop.fNumber p (List.range (portEntries s p))⟩ :: s.egr.digests).take 16 ∧
        (∀ p q f, p < 32 → f ∈ queueAt u p q → ofRun s.hoop.fNumber f = false) ∧
        (∀ p q f, p < 32 → f ∈ waitingAt u p q → ofRun s.hoop.fNumber f = false))

/-! ### Handles, images and staged parts (chapters 5 to 7) -/

/-- BUF_ALLOC (R161) takes the pages of a FREE handle, which is FILLING until BUF_FILL_COMPLETE makes it IDLE
with every pixel zero; BUF_FREE (R163) of an IDLE handle gives its pages back. BUF_WRITE and BUF_READ (R147
to R149, R162): an accepted one passes its point of no return; when a BUF_WRITE of the WORKING format ends
and its handle is not pinned, its rectangle holds the host's pixels and no other pixel has changed; where
the handle is pinned the data waits (log 60); when a BUF_READ's transfer ends, its lines have been written
to host memory. -/
def Obligations.HandlesHoldPixels : Prop :=
  ((∀ (n : Fin 64) (d : Desc) (t : Track) (w h : Nat) (s : State), awaits s n (withOp 0x01 d) t → s.boot.twinEn = false →
      w = bits (darg d 0) 31 16 → h = bits (darg d 0) 15 0 → noData d = true → argsZeroFrom d 1 = true →
      0 < w → w ≤ 32768 → 0 < h → h ≤ 32768 → w * h ≤ 268435456 → (handleOf s d.object).state = .free →
      pagesFor w h ≤ s.lay.freePages →
      exec (.bufAlloc n d) s = .next (setFreePages
        (begin (setHandle (handOver s t.id) d.object ⟨.filling, w, h, pagesFor w h, 0⟩) t.id) (s.lay.freePages - pagesFor w h))) ∧
    (∀ (n : Fin 1024) (s : State), s.canon → alone s → (handleOf s n).state = .filling →
      ∃ u, exec (.bufFillComplete n) s = .next u ∧ handleOf u n = { handleOf s n with state := .idle } ∧
        (∀ p, p < 2 ^ 28 → pixelAt u n p = 0) ∧
        (∀ m, m ≠ n.val → handleOf u m = handleOf s m ∧ ∀ p, p < 2 ^ 28 → pixelAt u m p = pixelAt s m p)) ∧
    (∀ (n : Fin 64) (d : Desc) (t : Track) (s : State), awaits s n (withOp 0x06 d) t → s.boot.twinEn = false →
      noData d = true → argsZeroFrom d 0 = true → (handleOf s d.object).state = .idle →
      writeInFlight s d.object = false → readInFlight s d.object = false →
      exec (.bufFree n d) s = .next (finish (setFreePages (setHandle (clearPixels (setIng (handOver s t.id)
          { s.ing with published := tput (fun _ => 0) s.ing.published d.object 0 }) d.object) d.object Handle.reset)
        (s.lay.freePages + (handleOf s d.object).pages)) t.id stOk 0 0))) ∧
  ((∀ (n : Fin 64) (d : Desc) (t : Track) (s : State), awaits s n (withOp 0x02 d) t → writeBad d = false →
      (imgFormat d = 2 → formatBad (darg d 1) = false) → lengthBad d (lineBytes d) = false → writeCheck s d = stOk →
      exec (.bufWrite n d) s = .next (begin (handOver s t.id) t.id)) ∧
    (∀ (n : Fin 64) (tag : Nat) (data : List Byte) (t : Track) (s : State), s.canon → alone s →
      findOp s n tag 0x02 = some t → imgFormat t.desc = 0 → rectInside s t.desc = true →
      (handleOf s t.desc.object).w * (handleOf s t.desc.object).h ≤ 2 ^ 28 →
      lengthBad t.desc (8 * rectW t.desc) = false → data.length = t.desc.length → pinned s t.desc.object = false →
      ∃ u, exec (.bufWriteComplete n tag data) s = .next u ∧
        (∀ x y, x < rectW t.desc → y < rectH t.desc →
          pixelAt u t.desc.object ((rectY t.desc + y) * (handleOf s t.desc.object).w + rectX t.desc + x) =
            BitVec.ofNat 64 (le data (y * rectStride t.desc + 8 * x) 8)) ∧
        (∀ m q, q < 2 ^ 28 → (m = t.desc.object → ∀ x y, x < rectW t.desc → y < rectH t.desc →
            q ≠ (rectY t.desc + y) * (handleOf s t.desc.object).w + rectX t.desc + x) →
          pixelAt u m q = pixelAt s m q) ∧
        u.lay.handles = s.lay.handles ∧ u.cfg = s.cfg) ∧
    (∀ (n : Fin 64) (tag : Nat) (data : List Byte) (t : Track) (s : State), alone s →
      findOp s n tag 0x02 = some t → pinned s t.desc.object = true →
      exec (.bufWriteComplete n tag data) s = .next (memRequest (setIng s { s.ing with
        heldWrites := s.ing.heldWrites ++ [⟨t.id, data, s.hoop.fNumber⟩] }))) ∧
    (∀ (n : Fin 64) (d : Desc) (t : Track) (s : State), awaits s n (withOp 0x03 d) t → darg d 0 = 0 → darg d 1 = 0 →
      0 < rectW d → rectW d ≤ 16384 → 0 < rectH d → rectH d ≤ 16384 → argsZeroFrom d 5 = true →
      lengthBad d (8 * rectW d) = false → (handleOf s d.object).state ≠ .free → (handleOf s d.object).state ≠ .filling →
      rectInside s d = true → exec (.bufRead n d) s = .next (begin (handOver s t.id) t.id)) ∧
    (∀ (n : Fin 64) (tag : Nat) (data : List Byte) (t : Track) (s : State), alone s →
      transferOf s n tag = some t → t.desc.opcode = 0x03 →
      exec (.descriptorDmaDone n tag data) s = .next (memRequest (finish { s with out := s.out ++
        ((List.range (rectH t.desc)).map fun y =>
          HostWrite.data (t.desc.hostAddr + y * rectStride t.desc) (readLine s t.desc y)) } t.id stOk 0 0))))

/-- TABLE_LOAD (R195): with no other load of its part waiting or under way, BEGIN makes the part's staging
LOADING with the SIZE it gives, or waits for a TABLE_READ of the copy it would overwrite (R199); a further
block goes on where the last ended; and each block's data is appended when its transfer ends. A whole image
is validated (R197): VALID, or INVALID with the first bad entry and its reason, which BAD_ENTRY keeps. A
block whose read fails makes the part INVALID with reason 12 (R196), and DMA_ERROR gives the address of any
other transfer that fails (R63). TABLE_READ (R199) fixes the copy it names, the staged or the active one,
and writes its range to host memory when the transfer ends. -/
def Obligations.PartsAreStaged : Prop :=
  ((∀ (n : Fin 64) (d : Desc) (t : Track) (s : State), awaits s n (withOp 0x11 d) t →
      loadRunning s d.object = false → noLoadWaits s d.object → loadCheck s d = (stOk, 0) →
      (loadBegin d = true → readHolds s d.object = false →
        exec (.tableLoad n d) s =
          .next (begin (setStage (handOver s t.id) d.object ⟨.loading, 0, loadSize d, [], none⟩) t.id)) ∧
      (loadBegin d = true → readHolds s d.object = true → exec (.tableLoad n d) s = .next (handOver s t.id)) ∧
      (loadBegin d = false → exec (.tableLoad n d) s = .next (begin (handOver s t.id) t.id) ∧
        (stageOf s d.object).state = .loading ∧ loadOffset d = (stageOf s d.object).data.length)) ∧
    (∀ (n : Fin 64) (tag : Nat) (data : List Byte) (t : Track) (s : State), s.canon → alone s →
      transferOf s n tag = some t → t.desc.opcode = 0x11 → noLoadWaits s t.desc.object → loadEnd t.desc = false →
      ∃ u, exec (.descriptorDmaDone n tag data) s = .next u ∧ stageOf u t.desc.object =
        { stageOf s t.desc.object with data := (stageOf s t.desc.object).data ++ slice data 0 t.desc.length } ∧
        (∀ p, p ≠ t.desc.object → stageOf u p = stageOf s p) ∧ u.cfg = s.cfg)) ∧
  ((∀ (p : Fin 7) (t : Track) (s : State), s.canon → alone s → validating s p = some t → noLoadWaits s p →
      ∃ u, exec (.tableValidationComplete p) s = .next u ∧ u.cfg = s.cfg ∧
        (validate p (stageOf s p).data (stageOf s p).size = none →
          stageOf u p = { stageOf s p with state := .valid, reason := 0 } ∧ u.badEntry = s.badEntry) ∧
        (∀ b, validate p (stageOf s p).data (stageOf s p).size = some b →
          stageOf u p = { stageOf s p with state := .invalid, reason := b.reason } ∧
          tget (fun _ => 0) u.badEntry (partBlock p) = w32 b.entry)) ∧
    (∀ (n : Fin 64) (tag addr : Nat) (data : List Byte) (t : Track) (s : State), s.canon →
      transferOf s n tag = some t →
      (t.desc.opcode = 0x03 ∨ t.desc.opcode = 0x30 ∨ t.desc.opcode = 0x44 →
        exec (.hostDmaError n tag addr data) s =
          .next (finish s t.id stDma (addr % 2 ^ 32) (addr / 2 ^ 32 % 2 ^ 32))) ∧
      (t.desc.opcode = 0x12 → noLoadWaits s t.desc.object → exec (.hostDmaError n tag addr data) s =
        .next (finish (dropRead s t.id) t.id stDma (addr % 2 ^ 32) (addr / 2 ^ 32 % 2 ^ 32))) ∧
      (t.desc.opcode = 0x31 → exec (.hostDmaError n tag addr data) s =
        .next (finish (dropRxWrite s t) t.id stDma (addr % 2 ^ 32) (addr / 2 ^ 32 % 2 ^ 32))) ∧
      (t.desc.opcode = 0x02 → exec (.hostDmaError n tag addr data) s =
        .next (finish (writeLines s t.desc data) t.id stDma (addr % 2 ^ 32) (addr / 2 ^ 32 % 2 ^ 32))) ∧
      (t.desc.opcode = 0x11 → noLoadWaits s t.desc.object → ∃ u, exec (.hostDmaError n tag addr data) s = .next u ∧
        (stageOf u t.desc.object).state = .invalid ∧ (stageOf u t.desc.object).reason = 12))) ∧
  ((∀ (n : Fin 64) (d : Desc) (t : Track) (s : State), awaits s n (withOp 0x12 d) t → argsZeroFrom d 2 = true →
      8 ≤ d.length → d.length ≤ 16777216 → d.length % 8 = 0 →
      (darg d 1 = 0 → partOf s.cfg d.object ≠ [] → darg d 0 + d.length ≤ (partOf s.cfg d.object).length →
        exec (.tableRead n d) s = .next (begin { handOver s t.id with
          reads := tput (fun _ => []) s.reads t.id (partOf s.cfg d.object) } t.id)) ∧
      (darg d 1 = 1 → (stageOf s d.object).state ≠ .empty → (stageOf s d.object).state ≠ .loading →
        (stageOf s d.object).hole = none → darg d 0 + d.length ≤ (stageOf s d.object).size →
        exec (.tableRead n d) s = .next (begin { handOver s t.id with
          reads := tput (fun _ => []) s.reads t.id (slice (stageOf s d.object).data 0 (stageOf s d.object).size)
          spareReads := s.spareReads ++ [t.id] } t.id))) ∧
    (∀ (n : Fin 64) (tag : Nat) (data : List Byte) (t : Track) (s : State), alone s →
      transferOf s n tag = some t → t.desc.opcode = 0x12 → (t.desc.object ≠ 1 ∨ bitOf (darg t.desc 1) 0 = true) →
      noLoadWaits s t.desc.object →
      exec (.descriptorDmaDone n tag data) s = .next (memRequest (finish (dropRead { s with
        out := s.out ++ [.data t.desc.hostAddr
          (slice (tget (fun _ => []) s.reads t.id) (darg t.desc 0) t.desc.length)] } t.id) t.id stOk 0 0))))

/-! ### Descriptors of the ports and of the store (chapters 2, 10, 11, 15) -/

/-- NOP and FENCE (R56): fetched on a ring with nothing in flight, each completes OK at once. The next
descriptor of a ring, released where it was held back and may start, is handed to its block by
DESCRIPTOR_START (R64). ABORT (R70, R71): the descriptor it names, where it is before its point of no
return, ends ABORTED and the ABORT ends OK; one past it is left alone and the ABORT ends TOO_LATE. -/
def Obligations.TrackerDescriptors : Prop :=
  ((∀ (n : Fin 64) (d : Desc) (s : State), s.canon → ringServes s n = true → noData d = true → argsZeroFrom d 0 = true →
      Desc.silent d = false → (∀ x, x ∈ s.hif.track → x.ring ≠ n ∧ x.id < s.hif.nextId) →
      (malformed s n (withOp 0x61 d) = false → ∃ u, exec (.fence n d) s = .next u ∧ endedAtOnce s u n (withOp 0x61 d)) ∧
      (malformed s n (withOp 0x62 d) = false → ∃ u, exec (.nop n d) s = .next u ∧ endedAtOnce s u n (withOp 0x62 d))) ∧
    (∀ (n : Fin 64) (t : Track) (s : State), nextToStart s n = some t → findTrack s t.id = some t →
      (t.phase = .ready → exec (.descriptorStart n) s = .next (startEntry s t)) ∧
      (t.phase = .held → malformed s n t.desc = false → motifRefused s n t.desc = false → t.desc.opcode ≠ 0x61 →
        t.desc.opcode ≠ 0x62 →
        exec (.descriptorStart n) s = .next (startEntry (modTrack s t.id fun t => { t with phase := .ready })
          { t with phase := .ready })))) ∧
  (∀ (n : Fin 64) (d : Desc) (t x : Track) (s : State), awaits s n (withOp 0x60 d) t → t.orphan = false →
      t.fwd = false → Desc.silent d = false → noData d = true → argsZeroFrom d 1 = true → bits (darg d 0) 30 16 = 0 →
      bitOf (darg d 0) 31 = false →
      ((abortable s (d.object % 64)).filter fun t => decide (t.desc.tag = darg d 0 % 65536)).head? = some x →
      findTrack s x.id = some x → x.origin = .host → x.desc.opcode ≠ 0x61 → distinctIds s →
      (∀ j, j ∈ s.upd.jobs → j.user ≠ .host t.id ∧ (j.user = .host x.id → x.past = true → j.started = true)) →
      ((x.past = false → x.phase.finished = false → ∃ u e a, exec (.abort n d) s = .next u ∧
          findTrack u x.id = some e ∧ e.phase = .done stAborted 0 0 s.hoop.number ∧
          findTrack u t.id = some a ∧ a.phase = .done stOk 0 0 s.hoop.number ∧ u.cfg = s.cfg) ∧
        (x.past = true → x.phase = .running → ∃ u e a, exec (.abort n d) s = .next u ∧
          findTrack u x.id = some e ∧ e.phase = .running ∧
          findTrack u t.id = some a ∧ a.phase = .done stTooLate 0 0 s.hoop.number ∧ u.cfg = s.cfg)))

/-- DIGEST_READ gives the digest of a kept run or NOT_FOUND (R269); RX_FILTER sets a filter (R299); RX_POST
posts a buffer, which completes once its frame stands in host memory (R300); RAW_TX waits for its frame,
which then goes to its queue (R302). -/
def Obligations.PortDescriptors : Prop :=
  ∀ (n : Fin 64) (d : Desc) (t : Track) (s : State),
    (awaits s n (withOp 0x23 d) t → noData d = true → argsZeroFrom d 1 = true →
      (∀ r, (s.egr.digests.find? fun r => decide (r.hoop = w32 (darg d 0))) = some r →
        exec (.digestRead n d) s = .next (finish (handOver s t.id) t.id (if r.aborted then 0x40 else stOk)
          ((r.ports[d.object]?).getD 0 % 2 ^ 32) ((r.ports[d.object]?).getD 0 / 2 ^ 32))) ∧
      ((s.egr.digests.find? fun r => decide (r.hoop = w32 (darg d 0))) = none →
        exec (.digestRead n d) s = .next (finish (handOver s t.id) t.id stNotFound 0 0))) ∧
    (awaits s n (withOp 0x32 d) t → noData d = true → argsZeroFrom d 5 = true → bits (darg d 0) 27 3 = 0 →
      darg d 1 < 65536 → darg d 3 % 65536 = 0 → darg d 4 < 65536 →
      exec (.rxFilter n d) s = .next (finish (setPort (handOver s t.id) d.object { portOf s d.object with
        filters := tput (fun _ => []) (portOf s d.object).filters (darg d 0 % 8) (d.args.take 5) }) t.id stOk 0 0)) ∧
    (awaits s n (withOp 0x31 d) t → argsZeroFrom d 1 = true → darg d 0 < 8 → 256 ≤ d.length → d.length ≤ 16384 →
      d.length % 64 = 0 → (postedOn s d.object).length < 64 → 
      exec (.rxPost n d) s = .next (running (handOver s t.id) t.id)) ∧
    (awaits s n (withOp 0x30 d) t → argsZeroFrom d 1 = true → darg d 0 < 1024 → bits (darg d 0) 7 2 = 0 →
      darg d 0 % 4 ≠ 3 → 14 ≤ d.length → d.length + 4 ≤ maxFrame s d.object → (32 ≤ d.object ∨ drives s = true) →
      exec (.rawTx n d) s = .next (running (handOver s t.id) t.id)) ∧
    (∀ tag data, alone s → transferOf s n tag = some t → t.desc.opcode = 0x30 → portUp s t.desc.object = true →
      queueHasRoom s t.desc.object (darg t.desc 0 % 4) = true → waitingAt s t.desc.object (darg t.desc 0 % 4) = [] →
      exec (.descriptorDmaDone n tag data) s = .next (begin (setQueueAt s t.desc.object (darg t.desc 0 % 4)
        (queueAt s t.desc.object (darg t.desc 0 % 4) ++
          [{ bytes := pad60 (slice data 0 t.desc.length), sender := .rawTx t.id (bitOf (darg t.desc 0) 8), due := 0
             ownTag := bitOf (darg t.desc 0) 9, stamp := if bitOf (darg t.desc 0) 8 then some (.rawTx t.id) else none
             oneStep := false }])) t.id)) ∧
    (∀ tag data w, alone s → transferOf s n tag = some t → t.desc.opcode = 0x31 → rxWriteOf s t = some w →
      exec (.descriptorDmaDone n tag data) s = .next (finish { dropRxWrite s t with
        out := s.out ++ [.data t.desc.hostAddr w.bytes] } t.id stOk w.r0 w.r1))

/-- The staged image (R402, R403): a block that fits is read, and its data is appended, BEGIN emptying the image
first, with the header judged once it is whole; verification takes the image key and check-value unit 3, and
its outcome decides between VERIFIED and FAILED. Activation (R404, R406): IMAGE_ACTIVATE of a VERIFIED image
reserves a generation, where the supply permits; when the activation completes the staging is EMPTY and the
trial's window runs. The trial's end (R408, R409): a confirm stops the window and writes the confirm record;
REVERT and the window's expiry begin a revert, which halts every thread; and REVERT_COMPLETE puts the
fallback copy back. -/
def Obligations.ImagesAreTried : Prop :=
  ((∀ (n : Fin 64) (d : Desc) (t : Track) (s : State), awaits s n (withOp 0x40 d) t → blockRunning s = false →
      noBlockWaits s → blockCheck s d = (stOk, 0) →
      exec (.imageBlock n d) s = .next (running (handOver s t.id) t.id)) ∧
    (∀ (n : Fin 64) (tag : Nat) (data : List Byte) (t : Track) (old img : List Byte) (size err : Nat) (s : State),
      alone s → transferOf s n tag = some t → findTrack s t.id = some t → t.desc.opcode = 0x40 → noBlockWaits s →
      blockCheck s t.desc = (stOk, 0) → old = (if blockBegin t.desc then [] else s.upd.image) →
      size = (if blockBegin t.desc then darg t.desc 2 else s.upd.size) → img = old ++ slice data 0 t.desc.length →
      err = (if old.length < 320 ∧ 320 ≤ img.length then headerErr s.boot.mode img else 0) →
      ∃ u, exec (.descriptorDmaDone n tag data) s = .next u ∧ u.upd.image = img ∧ u.upd.size = size ∧ u.cfg = s.cfg ∧
        (err = 0 → u.upd.istate = if img.length = size then .loaded else .loading) ∧
        (err ≠ 0 → u.upd.istate = .failed ∧ u.upd.err = err)) ∧
    (∀ (n : Fin 64) (d : Desc) (t : Track) (s : State), awaits s n (withOp 0x41 d) t → noData d = true →
      argsZeroFrom d 0 = true → s.upd.istate = .loaded → s.upd.verifying = none → (cvuOf s 3).owner = none →
      exec (.imageVerify n d) s = .next (setCvu (setUpd (begin (handOver s t.id) t.id)
        { s.upd with verifying := some t.id, verifyKey := latchKey s }) 3 { cvuOf s 3 with owner := some 0x1FE })) ∧
    (∀ (id : Nat) (e : EccRead) (s : State), s.canon → s.upd.verifying = some id → (cvuOf s 3).owner = some 0x1FE →
      s.upd.istate = .loaded →
      ∃ u, exec (.imageVerifyComplete e) s = .next u ∧ u.upd.verifying = none ∧ (cvuOf u 3).owner = none ∧
        u.upd.image = s.upd.image ∧ u.upd.istate = (if (verifyImage s e).1 = stOk then .verified else .failed) ∧
        ((verifyImage s e).1 ≠ stOk → u.upd.err = (verifyImage s e).2))) ∧
  ((∀ (n : Fin 64) (d : Desc) (t : Track) (s : State), awaits s n (withOp 0x42 d) t → noData d = true →
      argsZeroFrom d 1 = true → darg d 0 < 4096 → s.upd.istate = .verified → s.upd.trial = none → s.boot.mode = 0 →
      s.upd.jobs = [] →
      (s.psm.writeOk = true → exec (.imageActivate n d) s = .next (setUpd (running (handOver s t.id) t.id) { s.upd with
        jobs := [⟨.reserve, .host t.id, 0, false, 0, [], 0, true, writeBank s, writeGen s, none⟩] })) ∧
      (s.psm.writeOk = false →
        exec (.imageActivate n d) s = .next (finish (running (handOver s t.id) t.id) t.id stSupply 0 0))) ∧
    (∀ (a : Activation) (b : Hoop) (s : State), s.upd.act = some a → a.hoop = some b →
      ∃ u, exec .activationComplete s = .next u ∧ u.upd.istate = .empty ∧ u.upd.image = [] ∧ u.upd.act = none ∧
        u.upd.trial = some ⟨s.tim.cyc, a.secs, false, a.fw⟩ ∧ u.cfg = s.cfg ∧ u.hoop = s.hoop)) ∧
  ((∀ (n : Fin 64) (d : Desc) (t : Track) (x : Trial) (s : State), noData d = true → argsZeroFrom d 0 = true →
      s.upd.trial = some x → x.stopped = false → s.upd.reverting = none →
      (awaits s n (withSub 0x43 0 0 0 d) t → s.upd.jobs = [] → s.psm.writeOk = true →
        exec (.imageConfirm n d) s = .next (setUpd (begin (handOver s t.id) t.id) { s.upd with
          trial := some { x with stopped := true }
          jobs := [⟨.confirm, .host t.id, 0, false, 0, [], 0, true, writeBank s, writeGen s, none⟩] })) ∧
      (awaits s n (withSub 0x43 0 0 0 d) t → s.upd.jobs = [] → s.psm.writeOk = false →
        exec (.imageConfirm n d) s = .next (finish (begin (handOver s t.id) t.id) t.id stSupply 0 0)) ∧
      (s.canon → noneReady s → ∃ u, exec .confirmExpiry s = .next u ∧ u.upd.reverting = some 1 ∧ s.tim.cyc ≤ u.tim.cyc ∧
        (s.tim.left = 0 → ∀ k, k < 256 → (threadOf u k).state = .dormant ∨ (threadOf u k).state = .halted)) ∧
      (s.canon → noneReady s → awaits s n (withSub 0x43 0 0 1 d) t →
        ∃ u, exec (.imageConfirmRevert n d) s = .next u ∧ u.upd.reverting = some 2 ∧
        ∀ k, k < 256 → (threadOf u k).state = .dormant ∨ (threadOf u k).state = .halted)) ∧
    (∀ (why : Nat) (f : Fallback) (s : State), s.upd.reverting = some why → s.upd.fallback = some f →
      ∃ u, exec .revertComplete s = .next u ∧ u.upd.trial = none ∧ u.upd.fallback = none ∧ u.upd.reverting = none ∧
        u.ccs.imem = f.imem ∧ u.ccs.shared = f.shared ∧ u.cfg = s.cfg))

/-- The store (R412 to R417): a write's data is asked for, and queued and begun once it is read; a FORMAT and a
firmware write are queued and begun; and a read gives the record's payload. Keep steps (R410, R414, R417):
each finished step of a started request is in the keep and the next begins while the supply permits; the
last ends the request; a wait for the supply that lasts 1 s ends it REFUSED_SUPPLY; and after a reset the
store is READY once the journal is carried out. -/
def Obligations.StoreWorks : Prop :=
  ((∀ (n : Fin 64) (d : Desc) (t : Track) (s : State), s.upd.jobs = [] → argsZeroFrom d 1 = true →
      (awaits s n (withSub 0x44 31 31 0 d) t → bits (darg d 0) 30 0 = 0 → s.boot.mode ≠ 2 → 0 < d.length →
        d.length ≤ 4064 → exec (.storeWrite n d) s = .next (running (handOver s t.id) t.id)) ∧
      (awaits s n (withSub 0x44 31 31 1 d) t → bits (darg d 0) 30 0 = 0 → s.boot.mode = 1 → d.object = 0 → d.length = 0 →
        d.hostAddr = 0 → s.upd.storeReady = true → s.psm.writeOk = true →
        exec (.storeWriteFormat n d) s = .next (begin (setUpd (running (handOver s t.id) t.id) { s.upd with
          jobs := [⟨.format, .host t.id, 0, false, 0, [], 0, true, writeBank s, writeGen s, none⟩] }) t.id)) ∧
      (∀ tag data, alone s → transferOf s n tag = some t → t.desc.opcode = 0x44 → s.upd.storeReady = true →
        s.psm.writeOk = true → exec (.descriptorDmaDone n tag data) s = .next (begin (setUpd s { s.upd with
          jobs := [⟨.write, .host t.id, t.desc.object, false, t.desc.length, slice data 0 t.desc.length, 0, true,
            writeBank s, writeGen s, none⟩] }) t.id)) ∧
      (∀ bs, awaits s n (withOp 0x45 d) t → darg d 0 = 1 → 4 ≤ d.length → d.length ≤ 4064 → s.upd.storeReady = true →
        recordNow s (confirmNow s).current (confirmNow s).curGen d.object = .ok bs →
        exec (.storeRead n d) s = .next (begin (setUpd (running (handOver s t.id) t.id) { s.upd with
          jobs := [⟨.read, .host t.id, d.object, true, d.length, bs, 0, true, 0, 0, none⟩] }) t.id))) ∧
    (∀ (n : Fin 64) (tag : Nat) (data : List Byte) (t : Track) (j : StoreJob) (s : State), alone s →
      transferOf s n tag = some t → t.desc.opcode = 0x45 → s.upd.jobs = [j] →
      exec (.descriptorDmaDone n tag data) s = .next (finish { setUpd s { s.upd with jobs := [] } with
        out := s.out ++ [.data t.desc.hostAddr (j.data.take (min j.length j.data.length))] } t.id stOk j.data.length 0)) ∧
    (∀ (v : Word) (s : State), s.canon → s.upd.jobs = [] → s.upd.fwBusy = false → s.upd.storeReady = true →
      inShared (reg s UPD_FW_ADDR).toNat (fld v 23 12) = true → fld v 23 12 ≤ 4064 →
      (bitW v 30 = false → s.boot.mode ≠ 2 → s.psm.writeOk = true →
        ∃ u, exec (.updFwWrite v) s = .next u ∧ u.upd = { s.upd with fwBusy := true, jobs :=
            [⟨.write, .firmware, fld v 11 0, bitW v 29, fld v 23 12, sharedRead s (reg s UPD_FW_ADDR).toNat (fld v 23 12),
              0, true, writeBank s, writeGen s, none⟩] } ∧ keepsRegs [UPD_FW_CMD] s u) ∧
      (bitW v 31 = false → 4 ≤ fld v 23 12 → bitW v 29 = true → ∀ bs,
        recordNow s (confirmNow s).current (confirmNow s).curGen (fld v 11 0) = .ok bs →
        ∃ u, exec (.updFwRead v) s = .next u ∧ u.upd.fwBusy = false ∧ u.upd.fwStatus = stOk ∧
          u.upd.fwLength = bs.length ∧
          u.ccs.shared = tputList (fun _ => 0) s.ccs.shared ((reg s UPD_FW_ADDR).toNat - 0x20000000)
            (bs.take (min (fld v 23 12) bs.length))))) ∧
  ((∀ (j : StoreJob) (s : State), s.canon → s.upd.jobs = [j] → j.started = true → j.waiting = none → j.kind = .write →
      (j.steps < 4 → s.psm.writeOk = true →
        exec (.keepStepComplete false) s = .next (setJob (doStep s j j.steps) { j with steps := j.steps + 1 })) ∧
      (j.steps = 4 → ∃ u, exec (.keepStepComplete false) s = .next u ∧ u.upd.jobs = [] ∧
        (∀ k x, latestJournal s = some (k, x) → journalAt u k = some { x with isDone := true }) ∧
        u.keep.sectors = s.keep.sectors)) ∧
    (∀ (j : StoreJob) (c : Nat) (s : State), s.upd.jobs = [j] → j.waiting = some c →
      ∃ u, exec .storeSupplyTimeout s = .next u ∧ u.upd.jobs = [] ∧ u.keep = s.keep ∧
        (j.user = .firmware → u.upd.fwStatus = stSupply ∧ u.upd.fwBusy = false)) ∧
    (∀ s : State, s.canon → s.key.loaded = true → s.upd.storeReady = false → s.upd.jobs = [] →
      (journalDue s = none → exec .storeRepair s = .next { s with upd := { s.upd with storeReady := true } }) ∧
      (∀ i x, journalDue s = some (i, x) → s.psm.writeOk = true →
        ∃ u, exec .storeRepair s = .next u ∧ u.upd.storeReady = true ∧ journalAt u i = some { x with isDone := true } ∧
          tget (fun _ => []) u.keep.sectors (slotSector x.bank x.record) = recordBytes' x.gen x.record x.payload)))

/-! ### Local lane groups (chapter 9) -/

/-- PASS_START (R244, R250): at the anchor of the run that follows, its first pass begins with its program's
first step, or is passed over while EN is 0; where ECC cannot correct words of the stitch, the pass reads
those as zero (which, is a free value). The sequencer (R236): when a step's ticks have passed the next
begins, ROW having put its address on the address lines after PRE ticks and SHIFT the bits of its lanes; END
ends the pass; and the background activity ends in its own time. STI_LANE_CTRL (R250): clearing EN ends the
pass in progress, the lanes' balls become high-impedance, and the address last on the address lines is kept;
setting it leaves the group as it is, so that it begins with its next anchor. Lamp-board sensors (R253 to
R255): a poll begins while SMB EN is 1; a sensor is read over SMBus, and one that answers gives its result
with the offset added, which becomes LAST and the motif's report; none that fails changes LAST. -/
def Obligations.LanesRun : Prop :=
  (∀ (g : Fin 4) (e : EccRead) (w : Show) (s : State), s.canon → (laneOf s g).cur = none → (laneOf s g).nxt = some w →
      (laneEn s g = true → ∀ st, (w.steps[0]?).bind decodeStep = some st → st ≠ .end_ →
        ∃ u, exec (.passStart g e) s = .next u ∧ (laneOf u g).cur = some { w with next := w.next + 1 } ∧
          (laneOf u g).nxt = none ∧ (laneOf u g).passes = (laneOf s g).passes + 1 ∧
          (∃ m, (laneOf u g).seq = some ⟨u.tim.elapsedQ, 0, 0, some (showTicks w st),
            (st.background (dirGdiv w.dir)).map fun n => (0, n), 0, [], if e = .uncorrectable then some m else none⟩) ∧
          (∀ k, k ≠ g.val → laneOf u k = laneOf s k) ∧ u.cfg = s.cfg ∧ u.hoop = s.hoop) ∧
      (laneEn s g = false → ∃ u, exec (.passStart g e) s = .next u ∧
        laneOf u g = { laneOf s g with cur := some { w with next := w.next + 1 }, nxt := none, seq := none } ∧
        (∀ k, k ≠ g.val → laneOf u k = laneOf s k))) ∧
  (∀ (g : Fin 4) (w : Show) (q : Seq) (s : State), s.canon → (laneOf s g).cur = some w → (laneOf s g).seq = some q →
      (∀ t a pre post nx, q.ends = some t → q.began + pre ≤ t → (w.steps[q.pc]?).bind decodeStep = some (.row a pre post) →
        (w.steps[q.pc + 1]?).bind decodeStep = some nx → nx ≠ .end_ →
        (nx.waits && (q.bg.filter fun b => decide (t < b.2)).isSome) = false →
        ∃ u, exec (.sequencerStepEnd g) s = .next u ∧ (laneOf u g).addr = a ∧
          u.out = s.out ++ [.row g (q.start + tickQ * (q.began + pre)) a] ∧
          (laneOf u g).seq = some { q with
            pc := q.pc + 1, row := a, began := t, ends := some (t + showTicks w nx)
            bg := match nx.background (dirGdiv w.dir) with
              | some n => some (t, t + n)
              | none => q.bg.filter fun b => decide (t < b.2) } ∧
          (laneOf u g).cur = some w ∧ (∀ k, k ≠ g.val → laneOf u k = laneOf s k)) ∧
      (∀ t a b d n, q.ends = some t → q.began < t → (w.steps[q.pc]?).bind decodeStep = some (.shift a b d n) →
        ∃ u, exec (.sequencerStepEnd g) s = .next u ∧ u.out = s.out ++ (groupLanes w g).map fun x =>
          .lane x.1 (q.start + tickQ * q.began) (.data
            ((shiftOut (passShow w q) x.2 a b d).take (edgesIn (dirDiv w.dir) (t - q.began))) (dirDiv w.dir))) ∧
      (∀ t pre, q.ends = some t → (w.steps[q.pc]?).bind decodeStep = some (.wait pre) →
        (w.steps[q.pc + 1]?).bind decodeStep = some .end_ → q.bg = none →
        ∃ u, exec (.sequencerStepEnd g) s = .next u ∧ (laneOf u g).seq = none ∧ (laneOf u g).passLen = t ∧
          (laneOf u g).cur = some w ∧ (∀ k, k ≠ g.val → laneOf u k = laneOf s k)) ∧
      (∀ f t e, q.bg = some (f, t) → q.ends = some e →
        ∃ u, exec (.backgroundEnd g) s = .next u ∧ laneOf u g = { laneOf s g with seq := some { q with bg := none } } ∧
          (∀ k, k ≠ g.val → laneOf u k = laneOf s k) ∧ u.cfg = s.cfg)) ∧
  (∀ (g : Fin 4) (v : Word) (s : State), s.canon → s.glb.halted = none →
      ∃ u, exec (.laneGroupEnWrite g v) s = .next u ∧ regFld u (STI_LANE_CTRL g) 31 28 = v.toNat / 2 ^ 28 ∧
        (bitW v 31 = true → laneOf u g = laneOf s g ∧ u.out = s.out) ∧
        (bitW v 31 = false → laneOf u g = { laneOf s g with seq := none, addr := (laneOf u g).addr } ∧
          laneBalls u (4 * g) = none ∧ (laneEn s g = true → addressLines s g = some (laneOf u g).addr)) ∧
        (∀ k, k ≠ g.val → laneOf u k = laneOf s k) ∧
        keepsRegs [STI_LANE_CTRL g] s u ∧ u = { s with regs := u.regs, sti := u.sti, out := u.out }) ∧
  (∀ (g : Fin 4) (s : State), s.canon →
      (regBit s (STI_SMB_CTRL g) 31 = true → (laneOf s g).polling = false →
        ∃ u, exec (.sensorPoll g) s = .next u ∧ (laneOf u g).polling = true ∧ (laneOf u g).pollAt = some u.tim.cyc ∧
          (∀ k, k ≠ g.val → laneOf u k = laneOf s k)) ∧
      (∀ a b m, (laneOf s g).polling = true → sensorValid s g 0 = true → groupMotif s.cfg g = some m →
        (∀ k, k < 4 → k ≠ g.val → groupMotif s.cfg k ≠ some m) →
        ∃ u, exec (.sensorPollEnd g [.word a b]) s = .next u ∧ (laneOf u g).polling = false ∧
          (laneOf u g).last = some (sensorResult s g a b) ∧
          ((laneOf s g).fail[0]? = some false → u.out = s.out ++ [.smbus g (regBit s (STI_SMB_CTRL g) 30)
            (regFld s (STI_SMB_ADDR g) 6 0) (regFld s (STI_SMB_CTRL g) 7 0)]) ∧
          (liveOf u m).report = ⟨true, sensorResult s g a b, s.hoop.fNumber⟩ ∧ u.cfg = s.cfg) ∧
      ((laneOf s g).polling = true → sensorValid s g 0 = true → (laneOf s g).fail[0]? = some false →
        ∃ u, exec (.sensorPollEnd g [.noAck]) s = .next u ∧ (laneOf u g).polling = false ∧
          (laneOf u g).last = (laneOf s g).last ∧ (laneOf u g).fail[0]? = some true ∧ u.live = s.live))

/-! ### Tirum egress and the ports (chapters 10 and 11) -/

/-- Returns (R278 to R281): a Tirum frame on a thread port is classified by rows 2 to 8 of Table 10-10:
malformed, of another TYPE, without a token, or of no thread motif it is counted and dropped; an accepted
RETURN takes a token, sets its motif's pair and reports its temperature. RETURN_TOKEN_REFILL (R279): at the
next whole microsecond each port's bucket gains its rate, up to its depth. -/
def Obligations.ReturnsAndTokens : Prop :=
  (∀ (p : Fin 32) (frame b : List Byte) (pad : Nat) (f : RxFrame) (s t : State), s.canon → s.boot.twinEn = false →
      accepts s p frame 0 f t → ptpAt f.bytes = none → tirumContent t (untagged f.bytes) = some (pad, b) →
      exec (.returnRx p frame) s = .next (classifyTirum t p pad b) ∧
      exec (.tirumOtherRx p frame) s = .next (classifyTirum t p pad b) ∧
      (tirumMalformed (authOn t) pad b = true → classifyTirum t p pad b = latchCount t (EGR_RX_BAD p) 15 0 1) ∧
      (tirumMalformed (authOn t) pad b = false → tType b ≠ 5 → tType b ≠ 3 →
        classifyTirum t p pad b = latchCount t (EGR_RX_DROP p) 15 0 1) ∧
      (tirumMalformed (authOn t) pad b = false → tType b = 5 → (egrOf t p).tokens = 0 →
        classifyTirum t p pad b = setEgr (latchCount t (EGR_RX_LIMIT p) 31 16 1) p
          { egrOf t p with limited := (egrOf t p).limited + 1 }) ∧
      (tirumMalformed (authOn t) pad b = false → tType b = 5 → (egrOf t p).tokens ≠ 0 → returnAuthOk t b = true →
        (motifThread (motifPart t.cfg) (tMotif b) = false → classifyTirum t p pad b = latchCount (setEgr t p
          { egrOf t p with tokens := (egrOf t p).tokens - 1 }) (EGR_RX_ACCEPT p) 7 0 1) ∧
        (motifThread (motifPart t.cfg) (tMotif b) = true → tget (fun _ => none) t.egr.pairs (tMotif b) = none →
          ∀ u, u = classifyTirum t p pad b → (egrOf u p).tokens = (egrOf t p).tokens - 1 ∧
            tget (fun _ => none) u.egr.pairs (tMotif b) = some (w32 (tHoop b), tArgB b) ∧
            (∀ r, (tirumRecords b 1).getLast? = some r →
              (liveOf u (tMotif b)).report = ⟨true, clampI (-65536) 65535 (sext 32 r.2.1), s.hoop.fNumber⟩) ∧
            u.cfg = s.cfg ∧ u.hoop = s.hoop))) ∧
  (∀ (s : State), s.canon → ∃ u, exec .returnTokenRefill s = .next u ∧
      (∀ p rate depth, p < 32 → rate = max (regFld s (EGR_RET_RATE p) 27 16) 1 →
        depth = max (regFld s (EGR_RET_RATE p) 11 0) 1 → (egrOf s p).tokens < depth →
        (egrOf u p).tokens = min depth ((egrOf s p).tokens + ((egrOf s p).credit + rate) / 1000) ∧
        (egrOf u p).credit = ((egrOf s p).credit + rate) % 1000) ∧
      u.cfg = s.cfg ∧ u.hoop = s.hoop ∧ u.mac = s.mac)

/-- PROGRAM_FRAGMENT_QUEUE (R282, R284): on a port that is up, within its bytes of the hoop and the room of
queue 3, the lowest pending motif is taken and its first fragment queued; a fragment that is not the last
leaves the next one to send; and a port that is down holds no refresh. -/
def Obligations.ProgramFragments : Prop :=
  ∀ (p : Fin 32) (s : State), s.canon → drives s = true →
    (portUp s p = false → exec (.programFragmentQueue p) s = .next (dropRefreshes s p)) ∧
    (portUp s p = true → noLinkKey s = false →
    (egrOf s p).progBytes < max (regFld s EGR_PROG 15 0) 1 * 1024 → queueHasRoom s p 3 = true → waitingAt s p 3 = [] →
    ((egrOf s p).sending = none → (egrOf s p).pending = [] → exec (.programFragmentQueue p) s = .next s) ∧
    (∀ x, (egrOf s p).sending = some x → exec (.programFragmentQueue p) s = .next (sendFragment s p x)) ∧
    (∀ r rest, (egrOf s p).sending = none → (egrOf s p).pending = r :: rest →
      ∃ u f, exec (.programFragmentQueue p) s = .next u ∧ (egrOf u p).pending = rest ∧
        (egrOf u p).seq = ((egrOf s p).seq + 1) % 2 ^ 31 ∧
        queueAt u p 3 = queueAt s p 3 ++ [⟨f, .program, 0, false, none, false⟩] ∧
        (egrOf u p).progBytes = (egrOf s p).progBytes + f.length + 4 ∧ u.cfg = s.cfg ∧ u.hoop = s.hoop) ∧
    (∀ x, (egrOf s p).sending = some x → programFragment s * (x.frag + 1) < x.image.length →
      ∃ u f, exec (.programFragmentQueue p) s = .next u ∧
        (egrOf u p).sending = some { x with frag := x.frag + 1 } ∧
        queueAt u p 3 = queueAt s p 3 ++ [⟨f, .program, 0, false, none, false⟩] ∧
        (egrOf u p).seq = ((egrOf s p).seq + 1) % 2 ^ 31 ∧ (egrOf u p).pending = (egrOf s p).pending))

/-- Frames the checks drop (R294, R295, R298, R396): too short, with a bad FCS, or into a full FIFO they are
counted once and otherwise without effect; on a squelched port only BOOT_SQ_DROP counts them. Frames to
firmware and to the host (R298 to R300, R304): a PTP frame goes with its record to the lowest free receive
slot; another begins to be written to the oldest buffer posted to the first filter that matches; and a frame
without a buffer, or that nobody takes, is counted. -/
def Obligations.FramesReceived : Prop :=
  (∀ (p : Fin 38) (frame : List Byte) (s : State), (36 ≤ p.val → s.boot.twinEn = false) →
      (portUp s p = true →
        (frame.length < 60 → ∀ ok full, exec (.macFrameDropped p frame ok full) s = .next (count s p 14 1)) ∧
        (60 ≤ frame.length → ∀ full, exec (.macFrameDropped p frame false full) s = .next (count s p 16 1)) ∧
        (∀ f t, rxCheck s p frame true 0 = (.frame f, t) →
          exec (.macFrameDropped p frame true true) s = .next (count t p 20 1))) ∧
      (s.boot.lifted.contains p.val = false → 60 ≤ frame.length → resetReleased s = true →
        exec (.squelchedFrameRx p frame) s = .next (latchCount s (BOOT_SQ_DROP p) 15 0 1))) ∧
  (∀ (p : Fin 38) (frame : List Byte) (phase : Fin 16) (f : RxFrame) (s t : State), s.canon →
      accepts s p frame phase f t →
      (∀ o i, ptpAt f.bytes = some o → (p.val < 36 → isAnnounce t p (f.bytes.drop o) = false) →
        reg t (MAC_FW_RX_BASE p) ≠ 0 →
        ((List.range 16).find? fun i => !(portOf t p).fwSlots.contains i) = some i →
        ∃ u, exec (.ptpFrameRx p frame phase) s = .next u ∧ (portOf u p).fwSlots = (portOf t p).fwSlots ++ [i] ∧
          u.ccs.shared = tputList (fun _ => 0) t.ccs.shared ((reg t (MAC_FW_RX_BASE p)).toNat + 2048 * i - 0x20000000)
            (rxRecord p 0 (min f.bytes.length 2032) (decide (2032 < f.bytes.length)) f ++ f.bytes.take 2032) ∧
          u.cfg = s.cfg ∧ u.hoop = s.hoop) ∧
      (36 ≤ p.val → ptpAt f.bytes = none →
        (∀ i x rest, ((List.range 8).find? (filterMatch t p f)) = some i → postedTo t p i = x :: rest →
          exec (.hostFrameRx p frame phase) s = .next (begin (setPort t p { portOf t p with
            rxWrites := (portOf t p).rxWrites ++ [⟨x.id,
              rxRecord p i (f.bytes.take (x.desc.length - 16)).length (decide (x.desc.length - 16 < f.bytes.length)) f ++
                f.bytes.take (x.desc.length - 16),
              16 + (f.bytes.take (x.desc.length - 16)).length,
              b2n f.trunc + 2 * b2n (decide (x.desc.length - 16 < f.bytes.length)) + 4 * b2n f.tci.isSome + 8 +
                i * 256⟩] }) x.id)) ∧
        (∀ i, ((List.range 8).find? (filterMatch t p f)) = some i → postedTo t p i = [] →
          exec (.hostFrameRx p frame phase) s = .next (noBuffer t p i)) ∧
        ((List.range 8).find? (filterMatch t p f) = none → phase = 0 →
          exec (.unclaimedFrameRx p frame) s = .next (count t p 21 1))))

/-- Received pause (R305): an obeyed frame holds the transmitter for its quanta from the end of the frame, where
0 ends a hold; when the hold's time is up PAUSE_HOLD_END ends it. Sent pause (R306): below XOFF the port
queues a pause of QUANTA, repeats it while the free space stays below XON, and sends one of time 0 as the
free space reaches XON. -/
def Obligations.PausesHoldAndGo : Prop :=
  (∀ (p : Fin 38) (s : State), s.canon →
      (∀ frame q t, portUp s p = true → (36 ≤ p.val → s.boot.twinEn = false) →
        rxCheck s p frame true 0 = (.pause q true, t) →
        ∃ u, exec (.pauseFrameRx p frame) s = .next u ∧ u.tim = s.tim ∧ (portOf u p).hold =
          (if q = 0 && !held s p then none else some (s.tim.elapsedQ + wireQ p (frame.length + 4) +
            (q * (quantum p).1 + (quantum p).2 - 1) / (quantum p).2)) ∧
          u.cfg = s.cfg ∧ u.hoop = s.hoop) ∧
      (∀ e, (portOf s p).hold = some e → ∃ u, exec (.pauseHoldEnd p) s = .next u ∧ (portOf u p).hold = none ∧
        u.cfg = s.cfg ∧ u.hoop = s.hoop)) ∧
  (∀ (p : Fin 38) (used : Nat) (s : State), s.canon → mayPause s p = true → portUp s p = true →
      ((portOf s p).xoff = false → freeSpace (noteFill s p used) p used < xoffBytes s p →
        ∃ u, exec (.pauseRefresh p used) s = .next u ∧ (portOf u p).xoff = true ∧ queueAt u p 8 = queueAt s p 8 ++
          [⟨pad60 (controlMac ++ macAddr s p ++ beBytes 2 0x8808 ++ beBytes 2 1 ++ beBytes 2 (regFld s (MAC_PAUSE_TX p) 15 0)),
            .pause, 0, true, none, false⟩] ∧ u = { noteFill s p used with mac := u.mac }) ∧
      ((portOf s p).xoff = true → freeSpace (noteFill s p used) p used < xonBytes s p →
        ∃ u, exec (.pauseRefresh p used) s = .next u ∧ (portOf u p).xoff = true ∧ (portOf u p).xoffAt = u.tim.elapsedQ ∧
          (queueAt u p 8).length = (queueAt s p 8).length + 1) ∧
      ((portOf s p).xoff = true → xonBytes s p ≤ freeSpace (noteFill s p used) p used →
        ∃ u, exec (.pauseXon p used) s = .next u ∧ (portOf u p).xoff = false ∧ queueAt u p 8 = queueAt s p 8 ++
          [⟨pad60 (controlMac ++ macAddr s p ++ beBytes 2 0x8808 ++ beBytes 2 1 ++ beBytes 2 0), .pause, 0, true, none, false⟩] ∧
          u = { noteFill s p used with mac := u.mac }))

/-- A frame on the wire (R301, R303): it starts from the queue of highest priority with the tag its port
inserts, for its bytes' time; when it ends it has left the unit, with its FCS. Firmware's frames and the
counters (R304, R310): GO sends a frame from shared memory, padded to 60 bytes, by queue 7 or 3; REL frees
receive slots; CLEAR zeroes every counter of the port. -/
def Obligations.FramesLeave : Prop :=
  (∀ (p : Fin 38) (s : State), s.canon →
      (∀ (phase : Fin 16) q f, (portOf s p).wire = none → rsSends s p = .frames → nextQueue s p = some q →
        headFrame s p q = some f → f.oneStep = false → f.stamp = none →
        ∃ u, exec (.frameTxStart p phase) s = .next u ∧ (portOf u p).wire = some { f with bytes := insertTag s p q f } ∧
          (portOf u p).wireQueue = q ∧ (portOf u p).wireEnd = s.tim.elapsedQ + wireQ p ((insertTag s p q f).length + 24) ∧
          u.cfg = s.cfg ∧ u.hoop = s.hoop) ∧
      (∀ f, (portOf s p).wire = some f → ∃ u, exec (.frameTxDone p) s = .next u ∧ (portOf u p).wire = none ∧
        .wire p (f.bytes ++ fcsOf f.bytes) ∈ u.out ∧ u.cfg = s.cfg ∧ u.hoop = s.hoop)) ∧
  (∀ (p : Fin 38) (v : Word) (s : State), s.canon →
      (∀ q a, (portOf s p).fwTx = none → 14 ≤ fld v 10 0 → fld v 10 0 ≤ 2044 → a = (reg s (MAC_FW_TX_ADDR p)).toNat →
        inShared a (fld v 10 0) = true → portUp s p = true → drives s = true → q = (if bitW v 27 then 3 else 7) →
        queueHasRoom s p q = true → waitingAt s p q = [] →
        ∃ u, exec (.fwTxGo p v) s = .next u ∧ (portOf u p).fwTx = none ∧ queueAt u p q = queueAt s p q ++
          [{ bytes := pad60 (sharedRead s a (fld v 10 0)), sender := .firmware, due := 0, ownTag := false
             stamp := if fld v 29 28 = 1 then some (.firmware (ptpSequence (pad60 (sharedRead s a (fld v 10 0))))) else none
             oneStep := decide (fld v 29 28 = 2) }] ∧
          keepsRegs [MAC_FW_TX_CTRL p] s u ∧ u = { s with regs := u.regs, mac := u.mac }) ∧
      exec (.fwRxRelease p v) s = .next (setPort s p { portOf s p with
        fwSlots := (portOf s p).fwSlots.filter fun i => !bitW v i }) ∧
      exec (.counterClear p) s =
        .next (setPort (accountHold s p) p { portOf (accountHold s p) p with counters := [] }))

/-- Link and service (R293, R307): the PCS's faults are kept with the time of their change; LINK rises after 10
ms without and falls after 128 µs with them, or as EN is cleared, and then nothing stays queued. -/
def Obligations.LinkAndService : Prop :=
  ∀ (p : Fin 38) (s : State), s.canon → s.boot.twinEn = false →
    (∀ lock lf rf, (portOf s p).good ≠ (lock && !lf && !rf) →
      exec (.pcsStatusChange p lock lf rf 0) s = .next (setPort s p { portOf s p with
        lock := lock, localFault := lf, remoteFault := rf, pcsAt := s.tim.cyc })) ∧
    (portOn s p = true → (portOf s p).link = false → (portOf s p).good = true →
      ∃ u, exec (.linkUp p) s = .next u ∧ (portOf u p).link = true ∧ (portOf s p).pcsAt + 2500000 ≤ u.tim.cyc ∧
        u.cfg = s.cfg ∧ u.hoop = s.hoop) ∧
    ((portOf s p).link = true → (portOf s p).good = false →
      ∃ u, exec (.linkDown p) s = .next u ∧ (portOf u p).link = false ∧
        (∀ q, queueAt u p q = [] ∧ waitingAt u p q = []) ∧ u.cfg = s.cfg ∧ u.hoop = s.hoop) ∧
    (∀ v, regBit s (MAC_CTRL p) 31 = true → bitW v 31 = false →
      ∃ u, exec (.portEnWrite p v) s = .next u ∧ regBit u (MAC_CTRL p) 31 = false ∧ (portOf u p).link = false ∧
        (∀ q, queueAt u p q = [] ∧ waitingAt u p q = []) ∧ u.cfg = s.cfg ∧ u.hoop = s.hoop) ∧
    (∀ v, regBit s (MAC_CTRL p) 31 = false → bitW v 31 = true →
      ∃ u, exec (.portEnWrite p v) s = .next u ∧ regBit u (MAC_CTRL p) 31 = true ∧ (portOf u p).pcsAt = s.tim.cyc ∧
        keepsRegs [MAC_CTRL p] s u)

/-- While its EN is 1 a port takes no write of MAC_CFG, MAC_ADDR, MAC_VLAN, MAC_VLAN_PCP or MAC_PAUSE_TX, and
sets CFG_REFUSED; while EN is 0 it takes them (R308). -/
def Obligations.PortSettingsLocked : Prop :=
  ∀ (p : Fin 38) (a : Nat) (v : Word) (s : State),
    a ∈ [MAC_CFG p, MAC_ADDR_HI p, MAC_ADDR_LO p, MAC_VLAN p, MAC_VLAN_PCP p, MAC_PAUSE_TX p] →
    (regBit s (MAC_CTRL p) 31 = true → exec (.registerWrite .host a 15 v) s = .next (latch s (MAC_CTRL p) 30)) ∧
    (regBit s (MAC_CTRL p) 31 = false → ∃ r, regRow a = some r ∧
      exec (.registerWrite .host a 15 v) s = .next (setReg s a (written r (reg s a) (freshOf s a) v)))

/-! ### The twin pair (chapter 12) -/

/-- Heartbeat and link (R314, R320, R322): the output toggles and STATUS is sent at their times; two edges make
the heartbeat present; 3 ms without one, or without a message, ends heartbeat or link; and TWN_BOOT, taken
only in COLD, starts SEQ at 0 (R321). DECISION_POINT (R338, Table 12-7): with both signs of life nothing
counts against the partner; without either, and with evidence, the standby will drive from the next
boundary; losing one of them twice, it leaves the pair, unless a RESIGN has called it to drive (R340). -/
def Obligations.TwinLifeAndDecision : Prop :=
  (∀ s : State, s.boot.twinEn = true →
      (s.tim.running = true → s.glb.halted = none → s.twn.state ≠ .faulted →
        ∃ u, exec .heartbeatToggle s = .next u ∧ u.twn = { s.twn with hbOut := !s.twn.hbOut, hbAt := u.tim.cyc } ∧
          onlyTime s { u with twn := s.twn }) ∧
      (∀ after, ∃ u, exec (.heartbeatEdge after) s = .next u ∧ u.twn = { s.twn with
        hbLast := u.tim.cyc, hbPresent := s.twn.hbPresent || s.twn.hbOne
        hbOne := if s.twn.hbPresent then s.twn.hbOne else !s.twn.hbOne } ∧ u.tim.cyc = s.tim.cyc + after ∧
          onlyTime s { u with twn := s.twn }) ∧
      (s.twn.hbPresent = true → ∃ u, exec .heartbeatTimeout s = .next u ∧ u.twn.hbPresent = false ∧
        s.twn.hbLast + 750000 ≤ u.tim.cyc ∧ u.twn.state = (if s.twn.state = .active then .degraded else s.twn.state) ∧
        u.cfg = s.cfg) ∧
      (s.tim.running = true → mayTwin s = true → ∃ u, exec .twinStatusSend s = .next u ∧ u.twn.statusAt = u.tim.cyc ∧
        u.twn.seq = (s.twn.seq + 1) % 2 ^ 56 ∧ u.twn.state = s.twn.state ∧ u.cfg = s.cfg ∧ u.hoop = s.hoop) ∧
      (s.twn.linkUp = true → ∃ u, exec .twinLinkTimeout s = .next u ∧ u.twn.linkUp = false ∧
        s.twn.linkLast + 750000 ≤ u.tim.cyc ∧ (s.twn.state = .active → u.twn.state = .degraded) ∧
        (s.twn.state = .syncing → u.twn.state = .cold) ∧ u.cfg = s.cfg) ∧
      (∀ v, exec (.twnBootWrite v) s = .next (if s.twn.state = .cold then
        { setReg s TWN_BOOT v with twn := { s.twn with seq := 0, booted := true } } else s))) ∧
  (∀ s : State, s.boot.twinEn = true → s.hoop.running = true → s.hoop.fStarted = true → s.twn.state = .standby →
      (s.twn.hbPresent = true → s.twn.linkUp = true → s.twn.stepLost = false → ∃ u, exec .decisionPoint s = .next u ∧
        u.twn = { s.twn with pendingCount := 0, lastLost := 0 } ∧ u.cfg = s.cfg ∧ u.hoop = s.hoop) ∧
      (evidence s = true → ∃ u, exec .decisionPoint s = .next u ∧ u.twn = { s.twn with
        pendingCount := 0, lastLost := 0, planned := some (.degraded, true, 5, 1) } ∧ u.cfg = s.cfg ∧ u.hoop = s.hoop) ∧
      (s.twn.hbPresent = false → s.twn.linkUp = true → s.twn.lastLost = 1 → ∃ u, exec .decisionPoint s = .next u ∧
        (s.twn.resign = none → u.twn.state = .degraded ∧ u.twn.driving = false) ∧
        (s.twn.resign ≠ none → u.twn = s.twn) ∧ u.cfg = s.cfg))

/-- What the partner reports (R320, R332, R340): STATUS gives its state, DIGEST its digests of a run, newest of
sixteen first, and RESIGN the hoop from which a standby drives. Forwarding to a standby (R326, R327): a
member of a set is kept in order until its CLOSE, which judges the set the same way or loses the step; what
it drove of live fields waits for its time. -/
def Obligations.PartnerLeads : Prop :=
  (∀ (p : Fin 38) (frame : List Byte) (m : TwinMsg) (s t : State),
      (hears s p 1 frame m t → ¬ ((t.twn.state = .active ∨ t.twn.state = .standby) ∧ later m.hoop t.twn.activeSince = true) →
        ∃ u, exec (.twinStatusRx p frame) s = .next u ∧ u.twn.partner = m.state ∧ u.twn.partnerDriving = m.driving ∧
          u.twn.partnerYield = bitOf (byteAt m.payload 12) 0 ∧ u.cfg = s.cfg) ∧
      (hears s p 2 frame m t → ∃ u, exec (.twinDigestRx p frame) s = .next u ∧ u.twn.partnerDigests =
        (⟨m.hoop, bitOf m.arg 0, (List.range 32).map fun q => be m.payload (8 * q) 8⟩ :: t.twn.partnerDigests).take 16 ∧
        u.cfg = s.cfg ∧ u.egr.digests = s.egr.digests) ∧
      (hears s p 7 frame m t → t.twn.state = .standby → ∀ first, first =
        (if reached t.tim.q (decisionAt t) then t.hoop.number + 2 else t.hoop.number + 1) →
        exec (.twinResignRx p frame) s = .next { t with twn := { t.twn with
          resign := some (if later first (w32 m.arg) then w32 m.arg else first) } })) ∧
  (∀ (p : Fin 38) (frame : List Byte) (m : TwinMsg) (s t : State), t.twn.state = .standby → t.twn.behind = [] →
      (hears s p 3 frame m t → m.kind = 3 → m.arg ≠ noSet → ∃ u, exec (.twinDescRx p frame) s = .next u ∧
        u.twn.received = insertForwarded ⟨m.seq, m.arg, parseDesc m.payload⟩ t.twn.received ∧ u.twn.behind = [] ∧
        u.twn.state = .standby ∧ u.cfg = s.cfg) ∧
      (∀ mine, hears s p 4 frame m t → m.kind = 4 →
        mine = (t.twn.received.filter fun f => decide (f.set = m.hoop.toNat)) →
        (mine.length ≠ be m.payload 0 4 → ∃ u, exec (.twinCloseRx p frame) s = .next u ∧ u.twn.stepLost = true ∧
          u.twn.closed = t.twn.closed ∧ u.cfg = s.cfg) ∧
        (mine = [] → be m.payload 0 4 = 0 → ∃ u, exec (.twinCloseRx p frame) s = .next u ∧
          u.twn.closedHoop = some m.hoop ∧ u.twn.stepLost = t.twn.stepLost ∧ u.cfg = s.cfg) ∧
        (∀ e, mine ≠ [] → mine.length = be m.payload 0 4 → e = endStateOf { t with twn := { t.twn with
            received := t.twn.received.filter fun f => decide (f.set ≠ m.hoop.toNat) } } (mine.map twinMember) →
          setChecks { t with twn := { t.twn with
            received := t.twn.received.filter fun f => decide (f.set ≠ m.hoop.toNat) } } e = none → m.arg = stOk →
          later m.hoop t.hoop.fNumber = false → ∃ u, exec (.twinCloseRx p frame) s = .next u ∧
            u.twn.closed = some e ∧ u.twn.closedHoop = some m.hoop ∧ u.cfg = s.cfg)) ∧
      (hears s p 5 frame m t → exec (.twinLiveRx p frame) s = .next { t with twn := { t.twn with
        liveQueue := t.twn.liveQueue ++
          [(m.hoop, (List.range m.arg).map fun i => parseLive (slice m.payload (16 * i) 16))] } }))

/-- The state copy (R330): a syncing unit holds what is forwarded behind the copy, and takes each object over as
its last piece arrives. Synchronising (R330, R331, R350): TWIN_SYNC begins it where a driving partner is
heard; a fragment of the copy leaves by the ports in turn; 250 ms without an end fail the copy, and
AUTO_SYNC tries again. -/
def Obligations.CopyAndSynchronising : Prop :=
  (∀ (p : Fin 38) (frame : List Byte) (m : TwinMsg) (s t : State), s.canon → t.twn.state = .syncing → t.twn.behind = [] →
      (hears s p 3 frame m t → (copyObjects.all fun o => t.twn.applied.contains o) = false →
        exec (.twinDescRx p frame) s = .next { t with twn := { t.twn with behind := [m] } }) ∧
      (∀ n, hears s p 6 frame m t → t.twn.pieces = [] → t.twn.acksDue = [] → n < 7 → be m.payload 0 2 = n →
        be m.payload 8 8 = 0 → bitOf m.arg 31 = false → bitOf m.arg 30 = true → ∃ u, exec (.twinDataRx p frame) s = .next u ∧
          tget (fun _ => []) u.cfg.parts n = m.payload.drop 16 ∧ n ∈ u.twn.applied ∧ u.twn.pieces = [] ∧
          (∀ k, k ≠ n → tget (fun _ => []) u.cfg.parts k = tget (fun _ => []) t.cfg.parts k) ∧
          u.twn.bytes = t.twn.bytes + (m.payload.drop 16).length)) ∧
  (∀ s : State, s.canon →
      (∀ (n : Fin 64) (d : Desc) (t : Track), awaits s n (withOp 0x71 d) t → noData d = true → argsZeroFrom d 0 = true →
        maySync s = true → s.twn.driving = false → ∃ u e, exec (.twinSync n d) s = .next u ∧
          u = startSync (setTwn (begin (handOver s t.id) t.id) { s.twn with noAuto := false }) 2 ∧
          u.twn.state = .syncing ∧ u.twn.driving = false ∧ u.twn.syncAt = s.tim.cyc ∧ u.twn.noAuto = false ∧ findTrack u t.id = some e ∧ e.phase = .running ∧ u.cfg = s.cfg) ∧
      (∀ o rest, s.twn.sendq = o :: rest → mayTwin s = true → s.twn.driving = true → portUp s (nextDataPort s) = true →
        queueHasRoom s (nextDataPort s) 5 = true → ∃ u, exec .stateCopySend s = .next u ∧
          u.twn.dataPort = !s.twn.dataPort ∧ u.twn.seq = (s.twn.seq + 1) % 2 ^ 56 ∧
          (o.bytes.length ≤ s.twn.sendOff + 8192 → u.twn.sendq = rest ∧ u.twn.sendOff = 0) ∧
          (s.twn.sendOff + 8192 < o.bytes.length → u.twn.sendq = o :: rest ∧ u.twn.sendOff = s.twn.sendOff + 8192) ∧
          u.cfg = s.cfg ∧ u.hoop = s.hoop) ∧
      (∀ c, s.boot.twinEn = true → s.twn.state = .syncing → s.twn.syncFrom = some c →
        ∃ u, exec .syncTimeout s = .next u ∧ u.twn.state = .cold ∧ c + 62500000 ≤ u.tim.cyc ∧ u.twn.retryAt.isSome = regBit s TWN_CTRL 31 ∧ u.cfg = s.cfg) ∧
      (∀ c, s.twn.retryAt = some c → ∃ u, exec .autoSyncRetry s = .next u ∧ u.twn.retryAt = none ∧ c ≤ u.tim.cyc ∧
        (regBit s TWN_CTRL 31 = true → maySync s = true → s.twn.noAuto = false →
          u.twn.state = .syncing) ∧
        (regBit s TWN_CTRL 31 = false → u.twn.state = s.twn.state) ∧ u.cfg = s.cfg))

/-- ACK and retransmission (R325, R351): an ACK ends the wait of the message it names, and of a TWIN_MIRROR the
descriptor, and BUF_WRITEs that it held back are forwarded; a DESC without one is sent again after 3 ms.
LIVE_APPLY (R327): in a standby the effects of hoop h go to their motifs' live fields one hoop later. -/
def Obligations.AcksAndLiveFields : Prop :=
  (∀ (p : Fin 38) (frame : List Byte) (m : TwinMsg) (a : Awaiting) (s t : State),
      (hears s p 8 frame m t → (t.twn.awaiting.find? fun a => decide (a.seq % 2 ^ 32 = m.arg)) = some a →
        ∀ r, r = { t with twn := { t.twn with awaiting := t.twn.awaiting.filter fun b => decide (b ≠ a) } } →
        (a.track = none → exec (.twinAckRx p frame) s = .next (sendHeldDescs r)) ∧
        (∀ id, a.track = some id → a.kind = 6 →
          exec (.twinAckRx p frame) s = .next (sendHeldDescs (finish r id (byteAt m.payload 0) 0 0))) ∧
        (∀ id, a.track = some id → a.kind ≠ 6 →
          exec (.twinAckRx p frame) s = .next (sendHeldDescs (settleAck r id)))) ∧
      ((s.twn.awaiting.find? fun a => decide (a.kind = 3)) = some a → pairJoined s = true →
        ∃ u, exec .descRetransmit s = .next u ∧ a.sentAt + 750000 ≤ u.tim.cyc ∧ u.twn.awaiting =
          (s.twn.awaiting.filter fun b => decide (b ≠ a)) ++ [{ a with sentAt := u.tim.cyc }] ∧
          u.twn.seq = s.twn.seq ∧ u.cfg = s.cfg)) ∧
  (∀ (h : Hoop) (r : LiveRec) (v : Int) (rest : List (Hoop × List LiveRec)) (s : State), s.canon →
      s.boot.twinEn = true → s.hoop.fStarted = true → s.twn.liveAt ≠ some s.hoop.fNumber → s.twn.driving = false →
      s.twn.liveQueue = (h, [r]) :: rest → h + 1 = s.hoop.fNumber → r.temp = some v →
      ∃ u, exec .liveApply s = .next u ∧ (liveOf u r.motif).report = ⟨true, v, s.hoop.fNumber⟩ ∧
        (∀ m, m ≠ r.motif → liveOf u m = liveOf s m) ∧
        (r.foreign = none → liveOf u r.motif = { liveOf s r.motif with report := ⟨true, v, s.hoop.fNumber⟩ }) ∧
        u = { s with live := u.live, twn := u.twn } ∧ u.twn.liveAt = some s.hoop.fNumber)

/-- TWIN_MIRROR queues its handle's pixels for the standby (R351); a sampler pass that has had its hoops is
counted, a clean one leaves the role alone, and one that fails makes the unit FAULTED (R336, R337).
SAMPLER_RUN (R352) waits for the next full pass that begins after it. -/
def Obligations.MirrorAndSampler : Prop :=
  ((∀ (n : Fin 64) (d : Desc) (t : Track) (s : State), awaits s n (withOp 0x72 d) t → noData d = true →
      argsZeroFrom d 0 = true → s.boot.twinEn = true → s.twn.driving = true → s.twn.linkUp = true → partnerStandby s = true →
      (handleOf s d.object).state ≠ .free → (handleOf s d.object).state ≠ .filling →
      exec (.twinMirror n d) s = .next { begin (handOver s t.id) t.id with twn := { s.twn with sendq := s.twn.sendq ++
        [⟨0x20, d.object, false, handleContent s d.object, s.hoop.number, some t.id⟩] } }) ∧
    (∀ (part : Fin 256) (s : State), passDue s = false → exec (.samplerPassEnd part) s = .next s) ∧
    (∀ s : State, passDue s = true → s.twn.suspect = none → ∃ u, exec (.samplerPassEnd 0) s = .next u ∧
      u.twn.passes = (s.twn.passes + 1) % 65536 ∧ u.twn.state = s.twn.state ∧
      (∀ j, j ∈ s.twn.samplerJobs → 1 < j.2 → (j.1, j.2 - 1) ∈ u.twn.samplerJobs) ∧ u.cfg = s.cfg) ∧
    (∀ (part : Fin 256) (s : State), passDue s = true → part ≠ 0 → s.boot.twinEn = true → s.twn.booted = true →
      s.twn.state ≠ .faulted →
      ∃ u, exec (.samplerPassEnd part) s = .next u ∧ u.twn.state = .faulted ∧ u.twn.driving = false ∧
        u.twn.failPart = part.val ∧ u.twn.passes = (s.twn.passes + 1) % 65536 ∧ u.cfg = s.cfg)) ∧
  (∀ (n : Fin 64) (d : Desc) (t : Track) (s : State), awaits s n (withOp 0x73 d) t → noData d = true →
      argsZeroFrom d 0 = true → exec (.samplerRun n d) s = .next { begin (handOver s t.id) t.id with
        twn := { s.twn with samplerJobs := s.twn.samplerJobs ++ [(t.id, passesToNext s)] } })

/-- A descriptor's 64 bytes give it back (Table 2-4). -/
def Obligations.DescriptorBytes : Prop :=
  ∀ (d : Desc) (data : List Byte), d.wf = true →
    (descBytes d).length = 64 ∧ parseDesc (descBytes d ++ data) = d ∧ (descBytes d ++ data).drop 64 = data

/-! ### Boot and bring-up (chapter 14) -/

/-- A device reset (R382, R383): its cause is kept, every register but KEY_STATUS.TAMPERED is at its reset
value, every memory, session and role as after reset, and the keep stays. A write of BOOT_RESET without the
key does nothing. The reset sequence (R384, Table 14-2): RESET_N rising with every rail in range starts the
count; the release samples the straps; with the PLLs locked device time runs; and package memory becomes
ready. Bring-up (R396, R397): BRING_UP begins the sequence; each step lifts its ports at its time; and HOLD
= 0 lifts every port that is still squelched and ends it. -/
def Obligations.DeviceResets : Prop :=
  (∀ s : State,
      (∃ u, exec .railPowerOn s = .next u ∧ afterReset s u 1 0) ∧
      (∃ u, exec .resetNAssert s = .next u ∧ afterReset s u 2 0) ∧
      (∀ rail : Fin 10, ∃ u, exec (.supplyFault rail) s = .next u ∧ afterReset s u 3 rail) ∧
      (∃ u, exec (.bootReset 0x96400001) s = .next u ∧ afterReset s u 4 0) ∧
      (∀ v, v ≠ 0x96400001 → exec (.bootReset v) s = .next s)) ∧
  (∀ s : State, s.canon →
      (s.psm.inRange = 0x1FF → s.boot.step = .held →
        exec .resetNDeassert s = .next { s with boot := { s.boot with step := .counting } }) ∧
      (∀ (e d : Bool) (m : Fin 4), s.psm.inRange = 0x1FF → s.boot.step = .counting →
        exec (.resetRelease e d m) s = .next { s with boot := { s.boot with
          step := .released, twinEn := e, twinSide := d, mode := if m = 3 then 0 else m.val } }) ∧
      (s.boot.step = .released → exec .pllLock s = .next (setCvu { s with
        boot := { s.boot with step := .locked }, tim := { s.tim with running := true } } 0
        { cvuOf s 0 with owner := some 0x1FF })) ∧
      (resetReleased s = true → s.boot.state = .init → ∃ u, exec .keysLoaded s = .next u ∧ u.key.loaded = true ∧
        u.boot.state = (if imageLocked u then .locked else .wait) ∧
        (∀ k, k < 64 → recordOfSlot s k = none → slotOf u k = KeySlot.reset) ∧ u.keep = s.keep ∧ u.cfg = s.cfg) ∧
      (resetReleased s = true → s.hif.noticesLost = 0 →
        exec .memReady s = .next { s with boot := { s.boot with memReady := true } })) ∧
  (∀ s : State, s.canon →
      (∀ v, s.boot.seqAt = none → s.boot.seqOver = false → (regBit s BOOT_SQUELCH 31 = true → bitW v 31 = true) →
        ∃ u, exec (.bringUp v) s = .next u ∧ u.boot.seqAt = some s.tim.cyc ∧ keepsRegs [BOOT_SQUELCH] s u ∧
          u.boot.lifted = s.boot.lifted) ∧
      (∀ c, s.boot.seqAt = some c → ∃ u, exec .bringUpStep s = .next u ∧
        (∀ p, p ∈ stepPorts s s.boot.stepsDone → p ∈ u.boot.lifted) ∧
        (∀ p, p ∈ u.boot.lifted → p ∈ s.boot.lifted ∨ p ∈ stepPorts s s.boot.stepsDone) ∧
        u.boot.stepsDone = s.boot.stepsDone + 1 ∧ c + s.boot.stepsDone * stagger s * 250000 ≤ u.tim.cyc ∧
        (u.boot.seqAt = none ↔ s.boot.stepsDone = 6) ∧ u.cfg = s.cfg ∧ u.hoop = s.hoop) ∧
      (∀ v, regBit s BOOT_SQUELCH 31 = true → ∃ u, exec (.squelchHoldClear v) s = .next u ∧
        (∀ p, p < 38 → p ∈ u.boot.lifted) ∧ u.boot.seqAt = none ∧ u.boot.seqOver = true ∧
        regBit u BOOT_SQUELCH 31 = false ∧ u.cfg = s.cfg ∧ u.hoop = s.hoop))

/-- The boot window (R390, R391): BEGIN takes the image key and empties what was fed; PUSH asks for the next
bytes and refuses an offset out of place, a bad length, or a host that is no bus master; and ABORT gives the
download up. The download goes on (R390 to R392): the memories are clear before the first PUSH; a block's
bytes are taken, or its failed read fails the download; and the verified image runs from thread 0. -/
def Obligations.BootDownloads : Prop :=
  (∀ s : State, s.boot.busy = false →
      (s.boot.state = .wait ∨ s.boot.state = .failed → imageLocked s = false →
        exec .bootBegin s = .next { s with boot := { s.boot with
          state := .loading, busy := true, err := 0, image := [], sized := false, fwVersion := 0, imageKey := latchKey s } }) ∧
      (∀ n, s.boot.state = .loading → n = regFld s BOOT_LEN 22 0 → 0 < n → n % 4 = 0 → n ≤ 4194304 →
        ((reg s BOOT_OFFSET).toNat = s.boot.image.length →
          (s.boot.sized = true → s.boot.image.length + n ≤ imageSize s.boot.image) →
          exec (.bootPush true) s = .next { s with boot := { s.boot with busy := true, pushing := some n } } ∧
          exec (.bootPush false) s = .next { s with boot := { s.boot with err := 9 } }) ∧
        ((reg s BOOT_OFFSET).toNat ≠ s.boot.image.length →
          exec (.bootPush true) s = .next { s with boot := { s.boot with err := 3 } })) ∧
      (s.boot.state = .loading → imageFed s = false →
        exec .bootAbort s = .next { s with boot := { s.boot with state := .wait } })) ∧
  (∀ s : State, s.canon → s.boot.state = .loading →
      (s.boot.busy = true → s.boot.pushing = none → ∃ u, exec .bootClearDone s = .next u ∧ u.boot.busy = false ∧
        u.ccs.imem = [] ∧ u.ccs.dmem = [] ∧ u.ccs.shared = [] ∧ u = { s with boot := u.boot, ccs := u.ccs }) ∧
      (∀ n bs, s.boot.pushing = some n → s.boot.image.length + n < 320 →
        exec (.bootBlockDone (some bs)) s = .next { s with boot := { s.boot with
          image := s.boot.image ++ slice bs 0 n, busy := false, pushing := none, sized := false, fwVersion := 0 } }) ∧
      (∀ n, s.boot.pushing = some n → exec (.bootBlockDone none) s = .next { s with boot := { s.boot with
        state := .failed, err := 5, busy := false, pushing := none } }) ∧
      (s.boot.busy = false → imageFed s = true →
        (imageErr s.boot.imageKey s.boot.image ≠ 0 → exec .bootVerifyDone s = .next { s with boot := { s.boot with
          state := .failed, err := imageErr s.boot.imageKey s.boot.image, busy := false, pushing := none } }) ∧
        (imageErr s.boot.imageKey s.boot.image = 0 → (threadOf s 0).state = .dormant → ∃ u, exec .bootVerifyDone s = .next u ∧ u.boot.state = .running ∧
          u.boot.fwStarted = true ∧ (s.upd.verifying = none → (cvuOf u 0).owner = none) ∧
          ((threadOf u 0).state = .ready ∨ (threadOf u 0).state = .running) ∧ u.cfg = s.cfg ∧ u.hoop = s.hoop)))

/-! ### Keys (chapter 16) -/

/-- GO of a volatile key command (R425 to R429): one that may act is under way with its effect — WRITE fills its
slot, ERASE empties it, DERIVE and PROVE compute with their slot's key —, any other ends with its RESULT and
no effect; and KEY_COMMAND_DONE ends it, clears KEY_DATA and writes RESULT. A persisted command (R432,
R434): its keep steps erase the copy, program it — the slot changes then — and erase the superseded copy,
each with permission; without it for 1 s the command ends. Tamper and the administration ball (R424, R436,
R437): TAMPER empties the wrap cell and every slot and latches TAMPERED; a new wrap cell is written once
TAMPER_N is high and PSM permits; KEY_ADMIN_EN falling clears ADMIN. -/
def Obligations.KeyCommands : Prop :=
  (∀ (src : Source) (v : Word) (s : State), s.canon →
      (s.key.job = none →
        (keyFound s src 1 v ≠ keyOk → ∃ u, exec (.keyWrite src v) s = .next u ∧ keyRefuses s u (keyFound s src 1 v)) ∧
        (keyFound s src 2 v ≠ keyOk → ∃ u, exec (.keyErase src v) s = .next u ∧ keyRefuses s u (keyFound s src 2 v)) ∧
        (keyFound s src 3 v ≠ keyOk → ∃ u, exec (.keyDerive src v) s = .next u ∧ keyRefuses s u (keyFound s src 3 v)) ∧
        (keyFound s src 4 v ≠ keyOk → ∃ u, exec (.keyProve src v) s = .next u ∧ keyRefuses s u (keyFound s src 4 v)) ∧
        (keyFound s src 1 v = keyOk → regBit s KEY_ATTR 31 = false → ∃ u, exec (.keyWrite src v) s = .next u ∧
          keyActs s u v ∧ slotOf u (fld v 5 0) =
            ⟨regBytes s KEY_DATA 8, regFld s KEY_ATTR 4 0, (slotOf s (fld v 5 0)).unwrapFail⟩) ∧
        (keyFound s src 2 v = keyOk → regBit s KEY_ATTR 31 = false → ∃ u, exec (.keyErase src v) s = .next u ∧
          keyActs s u v ∧ (slotOf u (fld v 5 0)).key = [] ∧ (slotOf u (fld v 5 0)).mask = 0) ∧
        (keyFound s src 3 v = keyOk → ∃ u, exec (.keyDerive src v) s = .next u ∧ keyActs s u v ∧
          ∀ j, u.key.job = some j → j.slot = fld v 5 0 ∧ j.key = hmac (slotOf s (fld v 21 16)).key
            (deriveLabel ++ regBytes s KEY_CTX 4 ++ [BitVec.ofNat 8 (regFld s KEY_ATTR 4 0)])) ∧
        (keyFound s src 4 v = keyOk → ∃ u, exec (.keyProve src v) s = .next u ∧ keyActs s u v ∧ u.key.nonce.length = 16 ∧
          ∀ j, u.key.job = some j → j.resp = hmac (slotOf s (fld v 5 0)).key
            (regBytes s KEY_PROVE_CHAL 8 ++ beBytes 8 (Config.serial % 2 ^ 64) ++ u.key.nonce))) ∧
      (∀ j, s.key.job = some j → j.persist = false → ∃ u, exec .keyCommandDone s = .next u ∧ u.key.job = none ∧
        u.key.result = j.result ∧ (∀ w, w < 8 → reg u (KEY_DATA w) = 0) ∧
        (j.result = keyOk → j.op = 3 → (slotOf u j.slot).key = j.key ∧ (slotOf u j.slot).mask = j.mask) ∧
        (j.result = keyOk → j.op = 4 → u.key.resp = j.resp) ∧
        (∀ n, n ≠ j.slot → slotOf u n = slotOf s n) ∧ u.keep = s.keep)) ∧
  (∀ (j : KeyJob) (s : State), s.canon → s.key.job = some j →
      (j.persist = true → j.waiting = none → s.psm.writeOk = true →
        (s.key.stage = 0 → ∃ u, exec (.keepStepComplete true) s = .next u ∧ u.key.stage = 1 ∧ u.key.job = some j ∧
          tget (fun _ => []) u.keep.sectors (2 * j.slot + targetCopy s j.slot) = [] ∧ u.key.slots = s.key.slots) ∧
        (s.key.stage = 1 → ∃ u, exec (.keepStepComplete true) s = .next u ∧ u.key.stage = 2 ∧ u.key.job = some j ∧
          (slotOf u j.slot).key = (if j.op = 1 then j.key else []) ∧
          (slotOf u j.slot).mask = (if j.op = 1 then j.mask else 0) ∧
          (∀ n, n ≠ j.slot → slotOf u n = slotOf s n) ∧
          (∀ k, k ≠ 2 * j.slot + targetCopy s j.slot →
            tget (fun _ => []) u.keep.sectors k = tget (fun _ => []) s.keep.sectors k)) ∧
        (s.key.stage = 2 → ∃ u, exec (.keepStepComplete true) s = .next u ∧ u.key.job = none ∧ u.key.result = keyOk ∧
          (∀ w, w < 8 → reg u (KEY_DATA w) = 0) ∧ u.key.slots = s.key.slots)) ∧
      (∀ c, j.waiting = some c → ∃ u, exec .keySupplyTimeout s = .next u ∧ u.key.job = none ∧
        u.key.result = keySupplyLate ∧ c + 250000000 ≤ u.tim.cyc ∧ u.keep = s.keep ∧ u.key.slots = s.key.slots)) ∧
  (∀ s : State, s.canon →
      (∀ low, ∃ u, exec (.tamper low) s = .next u ∧ u.keep.wrap = none ∧ (∀ k, (slotOf u k).key = [] ∧ (slotOf u k).mask = 0) ∧
        u.key.job = none ∧ (∀ w, w < 8 → reg u (KEY_DATA w) = 0) ∧ regBit u KEY_STATUS 29 = true ∧
        u.key.tamperLow = low ∧ u.keep.sectors = s.keep.sectors ∧ u.cfg = s.cfg) ∧
      (∃ u, exec .wrapCellRenew s = .next u ∧ u.key.tamperLow = false ∧
        (s.keep.wrap = none → s.psm.writeOk = true → ∃ w, u.keep.wrap = some w ∧ w.length = 32) ∧
        (s.psm.writeOk = false → u.keep = s.keep) ∧ u.key.slots = s.key.slots) ∧
      (∃ u, exec .keyAdminEnFall s = .next u ∧ u.key.adminEn = false ∧ regBit u KEY_CTRL 31 = false ∧
        keepsRegs [KEY_CTRL] s u ∧ u.key.slots = s.key.slots))

/-- WRITE and ERASE act only for a write of GO by the host through BAR0, with KEY_ADMIN_EN high and ADMIN 1;
ADMIN takes a 1 only from the host while the ball is high and falls with it; and a core reads 0 of ADMIN and
KEY_DATA and does not change them (R424). -/
def Obligations.KeyPrivilege : Prop :=
  (∀ (src : Source) (v : Word) (s : State), s.canon →
    ¬ (s.key.adminEn = true ∧ regBit s KEY_CTRL 31 = true ∧ src = .host) →
    (∃ u, exec (.keyWrite src v) s = .next u ∧ u.key.slots = s.key.slots ∧ u.keep = s.keep ∧
      ∀ j, u.key.job = some j → s.key.job = some j ∨ (j.result ≠ keyOk ∧ j.persist = false)) ∧
    ∃ u, exec (.keyErase src v) s = .next u ∧ u.key.slots = s.key.slots ∧ u.keep = s.keep ∧
      ∀ j, u.key.job = some j → s.key.job = some j ∨ (j.result ≠ keyOk ∧ j.persist = false)) ∧
  (∀ (v : Word) (s : State), s.canon → ∃ u, exec (.registerWrite .host KEY_CTRL 15 v) s = .next u ∧
    regBit u KEY_CTRL 31 = (bitW v 31 && s.key.adminEn) ∧ keepsRegs [KEY_CTRL] s u ∧ u = { s with regs := u.regs }) ∧
  (∀ s : State, s.canon → ∃ u, exec .keyAdminEnFall s = .next u ∧ u.key.adminEn = false ∧ regBit u KEY_CTRL 31 = false) ∧
  (∀ (c : Fin 8) (v : Word) (s : State), s.canon →
    (∃ u, exec (.registerWrite (.core c) (0x40000000 + KEY_CTRL) 15 v) s = .next u ∧
      regBit u KEY_CTRL 31 = regBit s KEY_CTRL 31) ∧ bitW (regRead (.core c) s KEY_CTRL) 31 = false ∧
    ∀ w, w < 8 → exec (.registerWrite (.core c) (0x40000000 + KEY_DATA w) 15 v) s = .next s ∧
      regRead (.core c) s (KEY_DATA w) = 0)

/-! ### Faults and the supply (chapters 17 and 18) -/

/-- Clock halt, package memory errors and GLB_BEHAV (R442, R445, R447): the first clock lost is kept and
TWIN_HB_OUT goes low; a corrected word is counted, an uncorrectable one too, with its address; and a
revision that is implemented is taken while the generator stands. The supply monitor (R459, R460, R468): a
rail below its refuse threshold ends write permission, which is counted once, until it is granted again; and
the readings are kept. -/
def Obligations.FaultsAndSupply : Prop :=
  (∀ s : State, s.canon →
      (∀ domain : Fin 7, domain ≠ 0 → resetReleased s = true → s.glb.halted = none →
        ∃ u, exec (.clockLoss domain) s = .next u ∧ u.glb.halted = some domain.val ∧ u.twn.hbOut = false ∧
          u.tim.running = (if domain = 6 then false else s.tim.running) ∧ (∀ p, lifted u p = false) ∧
          (∀ g, (laneOf u g).seq = none ∨ 4 ≤ g) ∧ u.cfg = s.cfg) ∧
      (∀ stack addr, exec (.scrub stack addr .clean) s = .next s ∧
        exec (.scrub stack addr .corrected) s = .next (latchCount s MEM_ECC_COUNT 15 0 1) ∧
        ∃ u, exec (.scrub stack addr .uncorrectable) s = .next u ∧ u.glb.eccAddr = addr ∧
          regFld u MEM_ECC_COUNT 31 16 = min (regFld s MEM_ECC_COUNT 31 16 + 1) 65535 ∧
          keepsRegs [MEM_ECC_COUNT] s u ∧ u.lay = s.lay) ∧
      (∀ v, s.hoop.running = false → fld v 7 0 = 1 ∨ fld v 7 0 = 2 →
        ∃ u, exec (.glbBehavWrite v) s = .next u ∧ regFld u GLB_BEHAV 7 0 = fld v 7 0 ∧ keepsRegs [GLB_BEHAV] s u ∧
          u = { s with regs := u.regs }) ∧
      (∀ v, s.hoop.running = true ∨ (fld v 7 0 ≠ 1 ∧ fld v 7 0 ≠ 2) →
        exec (.glbBehavWrite v) s = .next (latch s GLB_FAULT 29))) ∧
  (∀ s : State, s.canon →
      (∀ rail : Fin 10, rail = 1 ∨ rail = 8 ∨ rail = 9 → ∃ u, exec (.writePermissionRefuse rail) s = .next u ∧
        u.psm.writeOk = false ∧ u.psm.refusing = s.psm.refusing ||| 2 ^ (rail.val - 1) ∧
        regFld u PSM_REFUSALS 15 0 = (if s.psm.writeOk then min (regFld s PSM_REFUSALS 15 0 + 1) 65535
          else regFld s PSM_REFUSALS 15 0) ∧ keepsRegs [PSM_REFUSALS] s u ∧ u.keep = s.keep) ∧
      (s.psm.writeOk = false → resetReleased s = true → ∃ u, exec .writePermissionGrant s = .next u ∧
        u.psm.writeOk = true ∧ u.psm.refusing = 0 ∧ (∀ j, u.key.job = some j → j.waiting = none) ∧ u.cfg = s.cfg) ∧
      (∀ tj hbm mv, ∃ u, exec (.psmSensorUpdate tj hbm mv) s = .next u ∧ u.psm.tj = clampI (-65536) 65535 tj ∧
        u.psm.hbm = (hbm.take 2).map (clampI (-65536) 65535) ∧
        u.psm.inRange = railsInRange mv ∧ (∀ i, i < 9 → tget (fun _ => 0) u.psm.mv (i + 1) = (mv[i]?).getD 0 % 65536) ∧
        u.psm.writeOk = s.psm.writeOk ∧ onlyNotices s { u with psm := s.psm }))

/-! ### The tile command window (chapter 19) -/

/-- The window's address and data (R474, R475): writing a half of the address clears the assembly latch; the
fourth byte completes a word, most significant first, and takes it at the address, which moves on; a read
gives the top byte of the word and keeps the rest; while it is refused a write does nothing and a read of
LGW_DATA gives 0. A command word staged through the window (R475): the word at offset 0 of a motif is its
argument, one of 1 to 6 at offset 1 stages that command with the argument as it stands, 0 unstages, and any
other sets BAD_CMD; staged commands join the set at its close as MOTIF_CTRL (R476). -/
def Obligations.TileWindow : Prop :=
  (∀ (v : Byte) (s : State),
      (lgwRefused s = false →
        exec (.lgwAddrHWrite v) s = .next { s with lgw := { s.lgw with
          addr := v.toNat * 256 + s.lgw.addr % 256, latch := [] } } ∧
        exec (.lgwAddrLWrite v) s = .next { s with lgw := { s.lgw with
          addr := s.lgw.addr / 256 * 256 + v.toNat, latch := [] } } ∧
        (s.lgw.latch.length < 3 → exec (.lgwDataWrite v) s = .next { s with lgw := { s.lgw with
          latch := s.lgw.latch ++ [v.toNat] } }) ∧
        (∀ a b c, s.lgw.latch = [a, b, c] → exec (.lgwDataWrite v) s = .next { s with lgw :=
          { lgwPut s.lgw s.lgw.addr (((a * 256 + b) * 256 + c) * 256 + v.toNat) with
            addr := (s.lgw.addr + 1) % 65536, latch := [] } }) ∧
        exec .lgwDataRead s = .next { s with
          readValue := lgwWord s s.lgw.addr / 2 ^ 24 % 256
          lgw := { s.lgw with snap := lgwWord s s.lgw.addr % 2 ^ 24, addr := (s.lgw.addr + 1) % 65536 } } ∧
        exec (.lgwOpen v) s = .next { s with lgw := if s.win.isOpen then { s.lgw with opened := true }
          else { s.lgw with late := true } }) ∧
      (lgwRefused s = true → exec (.lgwAddrHWrite v) s = .next s ∧ exec (.lgwAddrLWrite v) s = .next s ∧
        exec (.lgwDataWrite v) s = .next s ∧ exec (.lgwOpen v) s = .next s ∧
        exec .lgwDataRead s = .next { s with readValue := 0 })) ∧
  ((∀ (l : Lgw) (m x : Nat), l.canon → x < 2 ^ 32 →
      tget (fun _ => 0) (lgwPut l (16 * m) x).args m = w32 x ∧
      (1 ≤ x → x ≤ 6 → tget (fun _ => (0, 0)) (lgwPut l (16 * m + 1) x).staged m = (x, tget (fun _ => 0) l.args m)) ∧
      tget (fun _ => (0, 0)) (lgwPut l (16 * m + 1) 0).staged m = (0, 0) ∧
      (7 ≤ x → lgwPut l (16 * m + 1) x = { l with badCmd := true })) ∧
    (∀ (s : State) (c : Cfg) (x : Nat × Nat × Word), s.lgw.opened = true → lgwRefused s = false → x ∈ s.lgw.staged →
      lgwJoins c x = true →
      (⟨0, 0, .lgw, twinRing, lgwDesc x.1 x.2.1 x.2.2, false⟩ : Member) ∈ (lgwMembers s c).1 ∧
        (lgwMembers s c).2.lgw.staged = []))

/-- The word that a fourth byte completes at CMD of motif m, as the host sends it through the window: 1 to 6
stages that command with ARG as it stands, in place of one staged before, 0 unstages, and any other value
has no effect but BADCMD (R475). -/
def Obligations.CommandWordStages : Prop :=
  ∀ (m a b c x : Nat) (v : Byte) (s : State), s.canon → lgwRefused s = false → m < 4096 →
    s.lgw.addr = 16 * m + 1 → s.lgw.latch = [a, b, c] → x = ((a * 256 + b) * 256 + c) * 256 + v.toNat →
    ∃ u, exec (.lgwDataWrite v) s = .next u ∧ u = { s with lgw := u.lgw } ∧ u.lgw.args = s.lgw.args ∧
      u.lgw.latch = [] ∧ u.lgw.addr = (16 * m + 2) % 65536 ∧
      (1 ≤ x → x ≤ 6 → tget (fun _ => (0, 0)) u.lgw.staged m = (x, tget (fun _ => 0) s.lgw.args m)) ∧
      (x = 0 → tget (fun _ => (0, 0)) u.lgw.staged m = (0, 0)) ∧
      (7 ≤ x → u.lgw.staged = s.lgw.staged ∧ u.lgw.badCmd = true) ∧
      (∀ k, k ≠ m → tget (fun _ => (0, 0)) u.lgw.staged k = tget (fun _ => (0, 0)) s.lgw.staged k)
end

