-- ==== Sys2Proof/Laws/Bits.lean ====
section
/-! SUPPORT. Laws/Bits.lean: the bits and fields of a register word under the operations on words. -/
namespace Sys2Proof.Machine

theorem bitOf_testBit (w k : Nat) : bitOf w k = w.testBit k := by
  unfold bitOf
  rw [Nat.testBit_eq_decide_div_mod_eq]

theorem bitW_getLsbD (v : Word) (k : Nat) : bitW v k = v.getLsbD k := by
  unfold bitW
  rw [bitOf_testBit]
  rfl

/-- A bit of the union of two words. -/
theorem bitW_or (v w : Word) (k : Nat) : bitW (v ||| w) k = (bitW v k || bitW w k) := by
  simp [bitW_getLsbD]

theorem bitW_and (v w : Word) (k : Nat) : bitW (v &&& w) k = (bitW v k && bitW w k) := by
  simp [bitW_getLsbD]

theorem bitW_not (v : Word) (k : Nat) : bitW (~~~v) k = (decide (k < 32) && !bitW v k) := by
  simp [bitW_getLsbD]

/-- The word with one bit set. -/
theorem bitW_bit (k j : Nat) : bitW (w32 (2 ^ k)) j = (decide (j = k) && decide (k < 32)) := by
  rw [bitW_getLsbD, w32, BitVec.getLsbD_ofNat, Nat.testBit_two_pow]
  by_cases h : k = j
  · subst h
    simp
  · simp [h, Ne.symm h]

/-- The bits of `n` consecutive places, the lowest at `lo`. -/
theorem testBit_bits (v hi lo k : Nat) :
    (bits v hi lo).testBit k = (decide (k < hi + 1 - lo) && v.testBit (k + lo)) := by
  rw [bits, Nat.testBit_mod_two_pow, Nat.testBit_div_two_pow]

/-- A field is smaller than its width allows. -/
theorem fld_lt (v : Word) (hi lo : Nat) : fld v hi lo < 2 ^ (hi + 1 - lo) := by
  unfold fld bits
  exact Nat.mod_lt _ (by positivity)

end Sys2Proof.Machine
end

