-- ==== Sys2Proof/Laws/Keeps.lean ====
section
/-! SUPPORT. Laws/Keeps.lean: what no command undoes, as one relation between the state before and
after, and the lemmas by which a chain of operations keeps it: the queue of waiting commands, the
soundness of the state, what has already left the unit, and the count of store writes. -/
namespace Sys2Proof.Machine

/-- From `s` on to `t`: the queue is as before, a sound state stays sound and canonical tables stay
canonical, nothing that left the unit is taken back, and the store writes counted do not become fewer. -/
structure Keeps (s t : State) : Prop where
  pending : t.pending = s.pending
  sound : s.sound → t.sound
  out : s.out <+: t.out
  wear : s.keep.wear ≤ t.keep.wear
  canon : s.canon → t.canon

theorem Keeps.refl (s : State) : Keeps s s := ⟨rfl, id, List.prefix_rfl, Nat.le_refl _, id⟩

theorem Keeps.trans {s t u : State} (a : Keeps s t) (b : Keeps t u) : Keeps s u :=
  ⟨b.pending.trans a.pending, fun h => b.sound (a.sound h), a.out.trans b.out, Nat.le_trans a.wear b.wear,
    fun h => b.canon (a.canon h)⟩

/-- A state that takes over from `t` every field concerned. -/
theorem Keeps.fields {s t : State}
    {pcie : Pcie} {hoop : HoopGen} {badStep : Word} {boot : Boot} {glb : Glb} {readValue : Nat}
    {freeCount : Nat} {spareReads : List Nat}
    (h : Keeps s t)  : Keeps s
      ⟨t.pending, t.regs, t.fresh, t.freshAt, t.hif, pcie, t.tim, hoop, t.win, t.cfg, t.ing, t.lay, t.stages, t.reads, t.package, spareReads,
      t.badEntry, badStep, t.col, t.run, t.live, t.sti, t.egr, t.mac, t.ccs, t.cvus, boot, t.upd,
      t.keep, t.key, glb, t.psm, t.lgw, t.twn, t.out, readValue, freeCount⟩ :=
  ⟨h.pending, fun a => h.sound a, h.out, h.wear, fun b => (fun (a : t.canon) => ⟨a.regs, a.fresh, a.hif, a.tim,
  a.win, a.cfg, a.ing, a.lay, a.stages, a.reads, a.package, a.badEntry, a.col, a.run, a.live, a.sti, a.egr, a.mac,
  a.ccs, a.cvus, a.upd, a.keep, a.key, a.psm, a.lgw, a.twn⟩) (h.canon b)⟩

/-- And sends more. -/
theorem Keeps.fieldsSent {s t : State} {l : List HostWrite}
    {pcie : Pcie} {hoop : HoopGen} {badStep : Word} {boot : Boot} {glb : Glb} {readValue : Nat}
    {freeCount : Nat} {spareReads : List Nat}
    (h : Keeps s t)  : Keeps s
      ⟨t.pending, t.regs, t.fresh, t.freshAt, t.hif, pcie, t.tim, hoop, t.win, t.cfg, t.ing, t.lay, t.stages, t.reads, t.package, spareReads,
      t.badEntry, badStep, t.col, t.run, t.live, t.sti, t.egr, t.mac, t.ccs, t.cvus, boot, t.upd,
      t.keep, t.key, glb, t.psm, t.lgw, t.twn, t.out ++ l, readValue, freeCount⟩ :=
  ⟨h.pending, fun a => h.sound a, h.out.trans (List.prefix_append _ _), h.wear, fun b => (fun (a :
  t.canon) => ⟨a.regs, a.fresh, a.hif, a.tim, a.win, a.cfg, a.ing, a.lay, a.stages, a.reads, a.package, a.badEntry, a.col,
  a.run, a.live, a.sti, a.egr, a.mac, a.ccs, a.cvus, a.upd, a.keep, a.key, a.psm, a.lgw, a.twn⟩)
  (h.canon b)⟩

theorem Keeps.ofHif {s t : State}
    {pcie : Pcie} {hoop : HoopGen} {badStep : Word} {boot : Boot} {glb : Glb} {readValue : Nat}
    {freeCount : Nat} {spareReads : List Nat} {hif : Hif}
    (h : Keeps s t) (hhif : t.hif.canon → hif.canon) : Keeps s
      ⟨t.pending, t.regs, t.fresh, t.freshAt, hif, pcie, t.tim, hoop, t.win, t.cfg, t.ing, t.lay, t.stages, t.reads, t.package, spareReads,
      t.badEntry, badStep, t.col, t.run, t.live, t.sti, t.egr, t.mac, t.ccs, t.cvus, boot, t.upd,
      t.keep, t.key, glb, t.psm, t.lgw, t.twn, t.out, readValue, freeCount⟩ :=
  ⟨h.pending, fun a => h.sound a, h.out, h.wear, fun b => (fun (a : t.canon) => ⟨a.regs, a.fresh, hhif a.hif,
  a.tim, a.win, a.cfg, a.ing, a.lay, a.stages, a.reads, a.package, a.badEntry, a.col, a.run, a.live, a.sti, a.egr,
  a.mac, a.ccs, a.cvus, a.upd, a.keep, a.key, a.psm, a.lgw, a.twn⟩) (h.canon b)⟩

theorem Keeps.ofWin {s t : State}
    {pcie : Pcie} {hoop : HoopGen} {badStep : Word} {boot : Boot} {glb : Glb} {readValue : Nat}
    {freeCount : Nat} {spareReads : List Nat} {win : Window}
    (h : Keeps s t) (hwin : t.win.canon → win.canon) : Keeps s
      ⟨t.pending, t.regs, t.fresh, t.freshAt, t.hif, pcie, t.tim, hoop, win, t.cfg, t.ing, t.lay, t.stages, t.reads, t.package, spareReads,
      t.badEntry, badStep, t.col, t.run, t.live, t.sti, t.egr, t.mac, t.ccs, t.cvus, boot, t.upd,
      t.keep, t.key, glb, t.psm, t.lgw, t.twn, t.out, readValue, freeCount⟩ :=
  ⟨h.pending, fun a => h.sound a, h.out, h.wear, fun b => (fun (a : t.canon) => ⟨a.regs, a.fresh, a.hif, a.tim,
  hwin a.win, a.cfg, a.ing, a.lay, a.stages, a.reads, a.package, a.badEntry, a.col, a.run, a.live, a.sti, a.egr,
  a.mac, a.ccs, a.cvus, a.upd, a.keep, a.key, a.psm, a.lgw, a.twn⟩) (h.canon b)⟩

theorem Keeps.ofCfg {s t : State}
    {pcie : Pcie} {hoop : HoopGen} {badStep : Word} {boot : Boot} {glb : Glb} {readValue : Nat}
    {freeCount : Nat} {spareReads : List Nat} {cfg : Cfg}
    (h : Keeps s t) (hcfg : t.cfg.canon → cfg.canon) : Keeps s
      ⟨t.pending, t.regs, t.fresh, t.freshAt, t.hif, pcie, t.tim, hoop, t.win, cfg, t.ing, t.lay, t.stages, t.reads, t.package, spareReads,
      t.badEntry, badStep, t.col, t.run, t.live, t.sti, t.egr, t.mac, t.ccs, t.cvus, boot, t.upd,
      t.keep, t.key, glb, t.psm, t.lgw, t.twn, t.out, readValue, freeCount⟩ :=
  ⟨h.pending, fun a => h.sound a, h.out, h.wear, fun b => (fun (a : t.canon) => ⟨a.regs, a.fresh, a.hif, a.tim,
  a.win, hcfg a.cfg, a.ing, a.lay, a.stages, a.reads, a.package, a.badEntry, a.col, a.run, a.live, a.sti, a.egr,
  a.mac, a.ccs, a.cvus, a.upd, a.keep, a.key, a.psm, a.lgw, a.twn⟩) (h.canon b)⟩

theorem Keeps.ofIng {s t : State}
    {pcie : Pcie} {hoop : HoopGen} {badStep : Word} {boot : Boot} {glb : Glb} {readValue : Nat}
    {freeCount : Nat} {spareReads : List Nat} {ing : Ing}
    (h : Keeps s t) (hing : t.ing.canon → ing.canon) : Keeps s
      ⟨t.pending, t.regs, t.fresh, t.freshAt, t.hif, pcie, t.tim, hoop, t.win, t.cfg, ing, t.lay, t.stages, t.reads, t.package, spareReads,
      t.badEntry, badStep, t.col, t.run, t.live, t.sti, t.egr, t.mac, t.ccs, t.cvus, boot, t.upd,
      t.keep, t.key, glb, t.psm, t.lgw, t.twn, t.out, readValue, freeCount⟩ :=
  ⟨h.pending, fun a => h.sound a, h.out, h.wear, fun b => (fun (a : t.canon) => ⟨a.regs, a.fresh, a.hif, a.tim,
  a.win, a.cfg, hing a.ing, a.lay, a.stages, a.reads, a.package, a.badEntry, a.col, a.run, a.live, a.sti, a.egr,
  a.mac, a.ccs, a.cvus, a.upd, a.keep, a.key, a.psm, a.lgw, a.twn⟩) (h.canon b)⟩

theorem Keeps.ofLay {s t : State}
    {pcie : Pcie} {hoop : HoopGen} {badStep : Word} {boot : Boot} {glb : Glb} {readValue : Nat}
    {freeCount : Nat} {spareReads : List Nat} {lay : Lay}
    (h : Keeps s t) (hlay : t.lay.canon → lay.canon) : Keeps s
      ⟨t.pending, t.regs, t.fresh, t.freshAt, t.hif, pcie, t.tim, hoop, t.win, t.cfg, t.ing, lay, t.stages, t.reads, t.package, spareReads,
      t.badEntry, badStep, t.col, t.run, t.live, t.sti, t.egr, t.mac, t.ccs, t.cvus, boot, t.upd,
      t.keep, t.key, glb, t.psm, t.lgw, t.twn, t.out, readValue, freeCount⟩ :=
  ⟨h.pending, fun a => h.sound a, h.out, h.wear, fun b => (fun (a : t.canon) => ⟨a.regs, a.fresh, a.hif, a.tim,
  a.win, a.cfg, a.ing, hlay a.lay, a.stages, a.reads, a.package, a.badEntry, a.col, a.run, a.live, a.sti, a.egr,
  a.mac, a.ccs, a.cvus, a.upd, a.keep, a.key, a.psm, a.lgw, a.twn⟩) (h.canon b)⟩

theorem Keeps.ofStages {s t : State}
    {pcie : Pcie} {hoop : HoopGen} {badStep : Word} {boot : Boot} {glb : Glb} {readValue : Nat}
    {freeCount : Nat} {spareReads : List Nat} {stages : Table Stage}
    (h : Keeps s t) (hstages : twf (fun _ => Stage.reset) t.stages = true → twf (fun _ => Stage.reset)
    stages = true) : Keeps s
      ⟨t.pending, t.regs, t.fresh, t.freshAt, t.hif, pcie, t.tim, hoop, t.win, t.cfg, t.ing, t.lay, stages, t.reads, t.package, spareReads,
      t.badEntry, badStep, t.col, t.run, t.live, t.sti, t.egr, t.mac, t.ccs, t.cvus, boot, t.upd,
      t.keep, t.key, glb, t.psm, t.lgw, t.twn, t.out, readValue, freeCount⟩ :=
  ⟨h.pending, fun a => h.sound a, h.out, h.wear, fun b => (fun (a : t.canon) => ⟨a.regs, a.fresh, a.hif, a.tim,
  a.win, a.cfg, a.ing, a.lay, hstages a.stages, a.reads, a.package, a.badEntry, a.col, a.run, a.live, a.sti, a.egr,
  a.mac, a.ccs, a.cvus, a.upd, a.keep, a.key, a.psm, a.lgw, a.twn⟩) (h.canon b)⟩

theorem Keeps.ofReads {s t : State}
    {pcie : Pcie} {hoop : HoopGen} {badStep : Word} {boot : Boot} {glb : Glb} {readValue : Nat}
    {freeCount : Nat} {spareReads : List Nat} {reads : Table (List Byte)}
    (h : Keeps s t) (hreads : twf (fun _ => []) t.reads = true → twf (fun _ => []) reads = true) : Keeps
    s
      ⟨t.pending, t.regs, t.fresh, t.freshAt, t.hif, pcie, t.tim, hoop, t.win, t.cfg, t.ing, t.lay, t.stages, reads, t.package, spareReads,
      t.badEntry, badStep, t.col, t.run, t.live, t.sti, t.egr, t.mac, t.ccs, t.cvus, boot, t.upd,
      t.keep, t.key, glb, t.psm, t.lgw, t.twn, t.out, readValue, freeCount⟩ :=
  ⟨h.pending, fun a => h.sound a, h.out, h.wear, fun b => (fun (a : t.canon) => ⟨a.regs, a.fresh, a.hif, a.tim,
  a.win, a.cfg, a.ing, a.lay, a.stages, hreads a.reads, a.package, a.badEntry, a.col, a.run, a.live, a.sti, a.egr,
  a.mac, a.ccs, a.cvus, a.upd, a.keep, a.key, a.psm, a.lgw, a.twn⟩) (h.canon b)⟩

theorem Keeps.ofBadEntry {s t : State}
    {pcie : Pcie} {hoop : HoopGen} {badStep : Word} {boot : Boot} {glb : Glb} {readValue : Nat}
    {freeCount : Nat} {spareReads : List Nat} {badEntry : Table Word}
    (h : Keeps s t) (hbadEntry : twf (fun _ => 0) t.badEntry = true → twf (fun _ => 0) badEntry = true)
    : Keeps s
      ⟨t.pending, t.regs, t.fresh, t.freshAt, t.hif, pcie, t.tim, hoop, t.win, t.cfg, t.ing, t.lay, t.stages, t.reads, t.package, spareReads,
      badEntry, badStep, t.col, t.run, t.live, t.sti, t.egr, t.mac, t.ccs, t.cvus, boot, t.upd, t.keep,
      t.key, glb, t.psm, t.lgw, t.twn, t.out, readValue, freeCount⟩ :=
  ⟨h.pending, fun a => h.sound a, h.out, h.wear, fun b => (fun (a : t.canon) => ⟨a.regs, a.fresh, a.hif, a.tim,
  a.win, a.cfg, a.ing, a.lay, a.stages, a.reads, a.package, hbadEntry a.badEntry, a.col, a.run, a.live, a.sti,
  a.egr, a.mac, a.ccs, a.cvus, a.upd, a.keep, a.key, a.psm, a.lgw, a.twn⟩) (h.canon b)⟩

theorem Keeps.ofCol {s t : State}
    {pcie : Pcie} {hoop : HoopGen} {badStep : Word} {boot : Boot} {glb : Glb} {readValue : Nat}
    {freeCount : Nat} {spareReads : List Nat} {col : Col}
    (h : Keeps s t) (hcol : t.col.canon → col.canon) : Keeps s
      ⟨t.pending, t.regs, t.fresh, t.freshAt, t.hif, pcie, t.tim, hoop, t.win, t.cfg, t.ing, t.lay, t.stages, t.reads, t.package, spareReads,
      t.badEntry, badStep, col, t.run, t.live, t.sti, t.egr, t.mac, t.ccs, t.cvus, boot, t.upd, t.keep,
      t.key, glb, t.psm, t.lgw, t.twn, t.out, readValue, freeCount⟩ :=
  ⟨h.pending, fun a => h.sound a, h.out, h.wear, fun b => (fun (a : t.canon) => ⟨a.regs, a.fresh, a.hif, a.tim,
  a.win, a.cfg, a.ing, a.lay, a.stages, a.reads, a.package, a.badEntry, hcol a.col, a.run, a.live, a.sti, a.egr,
  a.mac, a.ccs, a.cvus, a.upd, a.keep, a.key, a.psm, a.lgw, a.twn⟩) (h.canon b)⟩

theorem Keeps.ofRun {s t : State}
    {pcie : Pcie} {hoop : HoopGen} {badStep : Word} {boot : Boot} {glb : Glb} {readValue : Nat}
    {freeCount : Nat} {spareReads : List Nat} {run : Run}
    (h : Keeps s t) (hrun : t.run.canon → run.canon) : Keeps s
      ⟨t.pending, t.regs, t.fresh, t.freshAt, t.hif, pcie, t.tim, hoop, t.win, t.cfg, t.ing, t.lay, t.stages, t.reads, t.package, spareReads,
      t.badEntry, badStep, t.col, run, t.live, t.sti, t.egr, t.mac, t.ccs, t.cvus, boot, t.upd, t.keep,
      t.key, glb, t.psm, t.lgw, t.twn, t.out, readValue, freeCount⟩ :=
  ⟨h.pending, fun a => h.sound a, h.out, h.wear, fun b => (fun (a : t.canon) => ⟨a.regs, a.fresh, a.hif, a.tim,
  a.win, a.cfg, a.ing, a.lay, a.stages, a.reads, a.package, a.badEntry, a.col, hrun a.run, a.live, a.sti, a.egr,
  a.mac, a.ccs, a.cvus, a.upd, a.keep, a.key, a.psm, a.lgw, a.twn⟩) (h.canon b)⟩

theorem Keeps.ofLive {s t : State}
    {pcie : Pcie} {hoop : HoopGen} {badStep : Word} {boot : Boot} {glb : Glb} {readValue : Nat}
    {freeCount : Nat} {spareReads : List Nat} {live : Table Live}
    (h : Keeps s t) (hlive : twf (fun _ => Live.reset) t.live = true → twf (fun _ => Live.reset) live =
    true) : Keeps s
      ⟨t.pending, t.regs, t.fresh, t.freshAt, t.hif, pcie, t.tim, hoop, t.win, t.cfg, t.ing, t.lay, t.stages, t.reads, t.package, spareReads,
      t.badEntry, badStep, t.col, t.run, live, t.sti, t.egr, t.mac, t.ccs, t.cvus, boot, t.upd, t.keep,
      t.key, glb, t.psm, t.lgw, t.twn, t.out, readValue, freeCount⟩ :=
  ⟨h.pending, fun a => h.sound a, h.out, h.wear, fun b => (fun (a : t.canon) => ⟨a.regs, a.fresh, a.hif, a.tim,
  a.win, a.cfg, a.ing, a.lay, a.stages, a.reads, a.package, a.badEntry, a.col, a.run, hlive a.live, a.sti, a.egr,
  a.mac, a.ccs, a.cvus, a.upd, a.keep, a.key, a.psm, a.lgw, a.twn⟩) (h.canon b)⟩

theorem Keeps.ofSti {s t : State}
    {pcie : Pcie} {hoop : HoopGen} {badStep : Word} {boot : Boot} {glb : Glb} {readValue : Nat}
    {freeCount : Nat} {spareReads : List Nat} {sti : Sti}
    (h : Keeps s t) (hsti : t.sti.canon → sti.canon) : Keeps s
      ⟨t.pending, t.regs, t.fresh, t.freshAt, t.hif, pcie, t.tim, hoop, t.win, t.cfg, t.ing, t.lay, t.stages, t.reads, t.package, spareReads,
      t.badEntry, badStep, t.col, t.run, t.live, sti, t.egr, t.mac, t.ccs, t.cvus, boot, t.upd, t.keep,
      t.key, glb, t.psm, t.lgw, t.twn, t.out, readValue, freeCount⟩ :=
  ⟨h.pending, fun a => h.sound a, h.out, h.wear, fun b => (fun (a : t.canon) => ⟨a.regs, a.fresh, a.hif, a.tim,
  a.win, a.cfg, a.ing, a.lay, a.stages, a.reads, a.package, a.badEntry, a.col, a.run, a.live, hsti a.sti, a.egr,
  a.mac, a.ccs, a.cvus, a.upd, a.keep, a.key, a.psm, a.lgw, a.twn⟩) (h.canon b)⟩

theorem Keeps.ofEgr {s t : State}
    {pcie : Pcie} {hoop : HoopGen} {badStep : Word} {boot : Boot} {glb : Glb} {readValue : Nat}
    {freeCount : Nat} {spareReads : List Nat} {egr : Egr}
    (h : Keeps s t) (hegr : t.egr.canon → egr.canon) : Keeps s
      ⟨t.pending, t.regs, t.fresh, t.freshAt, t.hif, pcie, t.tim, hoop, t.win, t.cfg, t.ing, t.lay, t.stages, t.reads, t.package, spareReads,
      t.badEntry, badStep, t.col, t.run, t.live, t.sti, egr, t.mac, t.ccs, t.cvus, boot, t.upd, t.keep,
      t.key, glb, t.psm, t.lgw, t.twn, t.out, readValue, freeCount⟩ :=
  ⟨h.pending, fun a => h.sound a, h.out, h.wear, fun b => (fun (a : t.canon) => ⟨a.regs, a.fresh, a.hif, a.tim,
  a.win, a.cfg, a.ing, a.lay, a.stages, a.reads, a.package, a.badEntry, a.col, a.run, a.live, a.sti, hegr a.egr,
  a.mac, a.ccs, a.cvus, a.upd, a.keep, a.key, a.psm, a.lgw, a.twn⟩) (h.canon b)⟩

theorem Keeps.ofMac {s t : State}
    {pcie : Pcie} {hoop : HoopGen} {badStep : Word} {boot : Boot} {glb : Glb} {readValue : Nat}
    {freeCount : Nat} {spareReads : List Nat} {mac : Table MacPort}
    (h : Keeps s t) (hmac : twf (fun _ => MacPort.reset) t.mac = true → twf (fun _ => MacPort.reset) mac
    = true) : Keeps s
      ⟨t.pending, t.regs, t.fresh, t.freshAt, t.hif, pcie, t.tim, hoop, t.win, t.cfg, t.ing, t.lay, t.stages, t.reads, t.package, spareReads,
      t.badEntry, badStep, t.col, t.run, t.live, t.sti, t.egr, mac, t.ccs, t.cvus, boot, t.upd, t.keep,
      t.key, glb, t.psm, t.lgw, t.twn, t.out, readValue, freeCount⟩ :=
  ⟨h.pending, fun a => h.sound a, h.out, h.wear, fun b => (fun (a : t.canon) => ⟨a.regs, a.fresh, a.hif, a.tim,
  a.win, a.cfg, a.ing, a.lay, a.stages, a.reads, a.package, a.badEntry, a.col, a.run, a.live, a.sti, a.egr, hmac
  a.mac, a.ccs, a.cvus, a.upd, a.keep, a.key, a.psm, a.lgw, a.twn⟩) (h.canon b)⟩

theorem Keeps.ofCcs {s t : State}
    {pcie : Pcie} {hoop : HoopGen} {badStep : Word} {boot : Boot} {glb : Glb} {readValue : Nat}
    {freeCount : Nat} {spareReads : List Nat} {ccs : Ccs}
    (h : Keeps s t) (hccs : t.ccs.canon → ccs.canon) : Keeps s
      ⟨t.pending, t.regs, t.fresh, t.freshAt, t.hif, pcie, t.tim, hoop, t.win, t.cfg, t.ing, t.lay, t.stages, t.reads, t.package, spareReads,
      t.badEntry, badStep, t.col, t.run, t.live, t.sti, t.egr, t.mac, ccs, t.cvus, boot, t.upd, t.keep,
      t.key, glb, t.psm, t.lgw, t.twn, t.out, readValue, freeCount⟩ :=
  ⟨h.pending, fun a => h.sound a, h.out, h.wear, fun b => (fun (a : t.canon) => ⟨a.regs, a.fresh, a.hif, a.tim,
  a.win, a.cfg, a.ing, a.lay, a.stages, a.reads, a.package, a.badEntry, a.col, a.run, a.live, a.sti, a.egr, a.mac,
  hccs a.ccs, a.cvus, a.upd, a.keep, a.key, a.psm, a.lgw, a.twn⟩) (h.canon b)⟩

theorem Keeps.ofCvus {s t : State}
    {pcie : Pcie} {hoop : HoopGen} {badStep : Word} {boot : Boot} {glb : Glb} {readValue : Nat}
    {freeCount : Nat} {spareReads : List Nat} {cvus : Table Cvu}
    (h : Keeps s t) (hcvus : twf (fun _ => Cvu.reset) t.cvus = true → twf (fun _ => Cvu.reset) cvus =
    true) : Keeps s
      ⟨t.pending, t.regs, t.fresh, t.freshAt, t.hif, pcie, t.tim, hoop, t.win, t.cfg, t.ing, t.lay, t.stages, t.reads, t.package, spareReads,
      t.badEntry, badStep, t.col, t.run, t.live, t.sti, t.egr, t.mac, t.ccs, cvus, boot, t.upd, t.keep,
      t.key, glb, t.psm, t.lgw, t.twn, t.out, readValue, freeCount⟩ :=
  ⟨h.pending, fun a => h.sound a, h.out, h.wear, fun b => (fun (a : t.canon) => ⟨a.regs, a.fresh, a.hif, a.tim,
  a.win, a.cfg, a.ing, a.lay, a.stages, a.reads, a.package, a.badEntry, a.col, a.run, a.live, a.sti, a.egr, a.mac,
  a.ccs, hcvus a.cvus, a.upd, a.keep, a.key, a.psm, a.lgw, a.twn⟩) (h.canon b)⟩

theorem Keeps.ofUpd {s t : State}
    {pcie : Pcie} {hoop : HoopGen} {badStep : Word} {boot : Boot} {glb : Glb} {readValue : Nat}
    {freeCount : Nat} {spareReads : List Nat} {upd : Upd}
    (h : Keeps s t) (hupd : t.upd.canon → upd.canon) : Keeps s
      ⟨t.pending, t.regs, t.fresh, t.freshAt, t.hif, pcie, t.tim, hoop, t.win, t.cfg, t.ing, t.lay, t.stages, t.reads, t.package, spareReads,
      t.badEntry, badStep, t.col, t.run, t.live, t.sti, t.egr, t.mac, t.ccs, t.cvus, boot, upd, t.keep,
      t.key, glb, t.psm, t.lgw, t.twn, t.out, readValue, freeCount⟩ :=
  ⟨h.pending, fun a => h.sound a, h.out, h.wear, fun b => (fun (a : t.canon) => ⟨a.regs, a.fresh, a.hif, a.tim,
  a.win, a.cfg, a.ing, a.lay, a.stages, a.reads, a.package, a.badEntry, a.col, a.run, a.live, a.sti, a.egr, a.mac,
  a.ccs, a.cvus, hupd a.upd, a.keep, a.key, a.psm, a.lgw, a.twn⟩) (h.canon b)⟩

theorem Keeps.ofKey {s t : State}
    {pcie : Pcie} {hoop : HoopGen} {badStep : Word} {boot : Boot} {glb : Glb} {readValue : Nat}
    {freeCount : Nat} {spareReads : List Nat} {key : Key}
    (h : Keeps s t) (hkey : t.key.canon → key.canon) : Keeps s
      ⟨t.pending, t.regs, t.fresh, t.freshAt, t.hif, pcie, t.tim, hoop, t.win, t.cfg, t.ing, t.lay, t.stages, t.reads, t.package, spareReads,
      t.badEntry, badStep, t.col, t.run, t.live, t.sti, t.egr, t.mac, t.ccs, t.cvus, boot, t.upd,
      t.keep, key, glb, t.psm, t.lgw, t.twn, t.out, readValue, freeCount⟩ :=
  ⟨h.pending, fun a => h.sound a, h.out, h.wear, fun b => (fun (a : t.canon) => ⟨a.regs, a.fresh, a.hif, a.tim,
  a.win, a.cfg, a.ing, a.lay, a.stages, a.reads, a.package, a.badEntry, a.col, a.run, a.live, a.sti, a.egr, a.mac,
  a.ccs, a.cvus, a.upd, a.keep, hkey a.key, a.psm, a.lgw, a.twn⟩) (h.canon b)⟩

theorem Keeps.ofTwn {s t : State}
    {pcie : Pcie} {hoop : HoopGen} {badStep : Word} {boot : Boot} {glb : Glb} {readValue : Nat}
    {freeCount : Nat} {spareReads : List Nat} {twn : Twn}
    (h : Keeps s t) (htwn : t.twn.canon → twn.canon) : Keeps s
      ⟨t.pending, t.regs, t.fresh, t.freshAt, t.hif, pcie, t.tim, hoop, t.win, t.cfg, t.ing, t.lay, t.stages, t.reads, t.package, spareReads,
      t.badEntry, badStep, t.col, t.run, t.live, t.sti, t.egr, t.mac, t.ccs, t.cvus, boot, t.upd,
      t.keep, t.key, glb, t.psm, t.lgw, twn, t.out, readValue, freeCount⟩ :=
  ⟨h.pending, fun a => h.sound a, h.out, h.wear, fun b => (fun (a : t.canon) => ⟨a.regs, a.fresh, a.hif, a.tim,
  a.win, a.cfg, a.ing, a.lay, a.stages, a.reads, a.package, a.badEntry, a.col, a.run, a.live, a.sti, a.egr, a.mac,
  a.ccs, a.cvus, a.upd, a.keep, a.key, a.psm, a.lgw, htwn a.twn⟩) (h.canon b)⟩

/-- Every field that holds tables may change, where it stays canonical. -/
theorem Keeps.lit {s t : State}
    {pcie : Pcie} {hoop : HoopGen} {badStep : Word} {boot : Boot} {glb : Glb} {readValue : Nat}
    {freeCount : Nat} {spareReads : List Nat} {hif : Hif} {win : Window} {cfg : Cfg} {ing : Ing} {lay : Lay} {stages : Table
    Stage} {reads : Table (List Byte)} {badEntry : Table Word} {col : Col} {run : Run} {live : Table
    Live} {sti : Sti} {egr : Egr} {mac : Table MacPort} {ccs : Ccs} {cvus : Table Cvu} {upd : Upd} {key
    : Key} {twn : Twn}
    (h : Keeps s t) (hhif : t.hif.canon → hif.canon) (hwin : t.win.canon → win.canon) (hcfg :
    t.cfg.canon → cfg.canon) (hing : t.ing.canon → ing.canon) (hlay : t.lay.canon → lay.canon) (hstages
    : twf (fun _ => Stage.reset) t.stages = true → twf (fun _ => Stage.reset) stages = true) (hreads :
    twf (fun _ => []) t.reads = true → twf (fun _ => []) reads = true) (hbadEntry : twf (fun _ => 0)
    t.badEntry = true → twf (fun _ => 0) badEntry = true) (hcol : t.col.canon → col.canon) (hrun :
    t.run.canon → run.canon) (hlive : twf (fun _ => Live.reset) t.live = true → twf (fun _ =>
    Live.reset) live = true) (hsti : t.sti.canon → sti.canon) (hegr : t.egr.canon → egr.canon) (hmac :
    twf (fun _ => MacPort.reset) t.mac = true → twf (fun _ => MacPort.reset) mac = true) (hccs :
    t.ccs.canon → ccs.canon) (hcvus : twf (fun _ => Cvu.reset) t.cvus = true → twf (fun _ => Cvu.reset)
    cvus = true) (hupd : t.upd.canon → upd.canon) (hkey : t.key.canon → key.canon) (htwn : t.twn.canon →
    twn.canon) : Keeps s
      ⟨t.pending, t.regs, t.fresh, t.freshAt, hif, pcie, t.tim, hoop, win, cfg, ing, lay, stages, reads, t.package, spareReads, badEntry, badStep,
      col, run, live, sti, egr, mac, ccs, cvus, boot, upd, t.keep, key, glb, t.psm, t.lgw, twn, t.out,
      readValue, freeCount⟩ :=
  ⟨h.pending, fun a => h.sound a, h.out, h.wear, fun b => (fun (a : t.canon) => ⟨a.regs, a.fresh, hhif a.hif,
  a.tim, hwin a.win, hcfg a.cfg, hing a.ing, hlay a.lay, hstages a.stages, hreads a.reads, a.package, hbadEntry
  a.badEntry, hcol a.col, hrun a.run, hlive a.live, hsti a.sti, hegr a.egr, hmac a.mac, hccs a.ccs,
  hcvus a.cvus, hupd a.upd, a.keep, hkey a.key, a.psm, a.lgw, htwn a.twn⟩) (h.canon b)⟩

theorem Keeps.litSent {s t : State} {l : List HostWrite}
    {pcie : Pcie} {hoop : HoopGen} {badStep : Word} {boot : Boot} {glb : Glb} {readValue : Nat}
    {freeCount : Nat} {spareReads : List Nat} {hif : Hif} {win : Window} {cfg : Cfg} {ing : Ing} {lay : Lay} {stages : Table
    Stage} {reads : Table (List Byte)} {badEntry : Table Word} {col : Col} {run : Run} {live : Table
    Live} {sti : Sti} {egr : Egr} {mac : Table MacPort} {ccs : Ccs} {cvus : Table Cvu} {upd : Upd} {key
    : Key} {twn : Twn}
    (h : Keeps s t) (hhif : t.hif.canon → hif.canon) (hwin : t.win.canon → win.canon) (hcfg :
    t.cfg.canon → cfg.canon) (hing : t.ing.canon → ing.canon) (hlay : t.lay.canon → lay.canon) (hstages
    : twf (fun _ => Stage.reset) t.stages = true → twf (fun _ => Stage.reset) stages = true) (hreads :
    twf (fun _ => []) t.reads = true → twf (fun _ => []) reads = true) (hbadEntry : twf (fun _ => 0)
    t.badEntry = true → twf (fun _ => 0) badEntry = true) (hcol : t.col.canon → col.canon) (hrun :
    t.run.canon → run.canon) (hlive : twf (fun _ => Live.reset) t.live = true → twf (fun _ =>
    Live.reset) live = true) (hsti : t.sti.canon → sti.canon) (hegr : t.egr.canon → egr.canon) (hmac :
    twf (fun _ => MacPort.reset) t.mac = true → twf (fun _ => MacPort.reset) mac = true) (hccs :
    t.ccs.canon → ccs.canon) (hcvus : twf (fun _ => Cvu.reset) t.cvus = true → twf (fun _ => Cvu.reset)
    cvus = true) (hupd : t.upd.canon → upd.canon) (hkey : t.key.canon → key.canon) (htwn : t.twn.canon →
    twn.canon) : Keeps s
      ⟨t.pending, t.regs, t.fresh, t.freshAt, hif, pcie, t.tim, hoop, win, cfg, ing, lay, stages, reads, t.package, spareReads, badEntry, badStep,
      col, run, live, sti, egr, mac, ccs, cvus, boot, upd, t.keep, key, glb, t.psm, t.lgw, twn, t.out ++
      l, readValue, freeCount⟩ :=
  ⟨h.pending, fun a => h.sound a, h.out.trans (List.prefix_append _ _), h.wear, fun b => (fun (a :
  t.canon) => ⟨a.regs, a.fresh, hhif a.hif, a.tim, hwin a.win, hcfg a.cfg, hing a.ing, hlay a.lay, hstages
  a.stages, hreads a.reads, a.package, hbadEntry a.badEntry, hcol a.col, hrun a.run, hlive a.live, hsti a.sti, hegr
  a.egr, hmac a.mac, hccs a.ccs, hcvus a.cvus, hupd a.upd, a.keep, hkey a.key, a.psm, a.lgw, htwn
  a.twn⟩) (h.canon b)⟩
theorem Keeps.ite {s t u : State} {c : Prop} [Decidable c] (ht : Keeps s t) (hu : Keeps s u) :
    Keeps s (if c then t else u) := by split <;> assumption

theorem Keeps.foldl {s t : State} {α : Type} {f : State → α → State} {l : List α}
    (hf : ∀ t x, Keeps s t → Keeps s (f t x)) (h : Keeps s t) : Keeps s (l.foldl f t) := by
  induction l generalizing t with
  | nil => exact h
  | cons x l ih => exact ih (hf t x h)

theorem Keeps.foldlPair {s : State} {α β : Type} {f : β × State → α → β × State} {l : List α} {p : β × State}
    (hf : ∀ p x, Keeps s p.2 → Keeps s (f p x).2) (h : Keeps s p.2) : Keeps s (l.foldl f p).2 := by
  induction l generalizing p with
  | nil => exact h
  | cons x l ih => exact ih (hf p x h)

theorem Keeps.ofEq {s t : State} {β : Type} {p : β × State} {b : β} (h : Keeps s p.2) (e : p = (b, t)) :
    Keeps s t := by
  subst e
  exact h

/-- A condition on one field keeps soundness where it follows from the state's own. -/
theorem Keeps.tim {s t : State} {x : Tim} (h : Keeps s t) (hx : s.sound → t.sound → x.sound)
    (hc : t.tim.canon → x.canon) : Keeps s { t with tim := x } :=
  ⟨h.pending, fun a => ⟨(h.sound a).1, hx a (h.sound a), (h.sound a).2.2.1, (h.sound a).2.2.2⟩, h.out, h.wear,
    fun b => have a := h.canon b; ⟨a.regs, a.fresh, a.hif, hc a.tim, a.win, a.cfg, a.ing, a.lay, a.stages, a.reads, a.package, a.badEntry, a.col, a.run, a.live, a.sti, a.egr, a.mac, a.ccs, a.cvus, a.upd, a.keep, a.key, a.psm, a.lgw, a.twn⟩⟩

theorem Keeps.psm {s t : State} {x : Psm} (h : Keeps s t) (hx : s.sound → t.sound → x.sound)
    (hc : t.psm.canon → x.canon) : Keeps s { t with psm := x } :=
  ⟨h.pending, fun a => ⟨(h.sound a).1, (h.sound a).2.1, hx a (h.sound a), (h.sound a).2.2.2⟩, h.out, h.wear,
    fun b => have a := h.canon b; ⟨a.regs, a.fresh, a.hif, a.tim, a.win, a.cfg, a.ing, a.lay, a.stages, a.reads, a.package, a.badEntry, a.col, a.run, a.live, a.sti, a.egr, a.mac, a.ccs, a.cvus, a.upd, a.keep, a.key, hc a.psm, a.lgw, a.twn⟩⟩

theorem Keeps.lgw {s t : State} {x : Lgw} (h : Keeps s t) (hx : s.sound → t.sound → x.sound)
    (hc : t.lgw.canon → x.canon) : Keeps s { t with lgw := x } :=
  ⟨h.pending, fun a => ⟨(h.sound a).1, (h.sound a).2.1, (h.sound a).2.2.1, hx a (h.sound a)⟩, h.out, h.wear,
    fun b => have a := h.canon b; ⟨a.regs, a.fresh, a.hif, a.tim, a.win, a.cfg, a.ing, a.lay, a.stages, a.reads, a.package, a.badEntry, a.col, a.run, a.live, a.sti, a.egr, a.mac, a.ccs, a.cvus, a.upd, a.keep, a.key, a.psm, hc a.lgw, a.twn⟩⟩

theorem Keeps.keep {s t : State} {x : Keep} (h : Keeps s t) (hx : t.keep.wear ≤ x.wear)
    (hc : t.keep.canon → x.canon) : Keeps s { t with keep := x } :=
  ⟨h.pending, fun a => h.sound a, h.out, Nat.le_trans h.wear hx, fun b => have a := h.canon b; ⟨a.regs, a.fresh, a.hif, a.tim, a.win, a.cfg, a.ing, a.lay, a.stages, a.reads, a.package, a.badEntry, a.col, a.run, a.live, a.sti, a.egr, a.mac, a.ccs, a.cvus, a.upd, hc a.keep, a.key, a.psm, a.lgw, a.twn⟩⟩

theorem Keeps.regs {s t : State} {x : Table Word} (h : Keeps s t)
    (hx : twf regReset t.regs = true → twf regReset x = true) : Keeps s { t with regs := x } :=
  ⟨h.pending, fun a => ⟨hx (h.sound a).1, (h.sound a).2⟩, h.out, h.wear,
    fun b => have a := h.canon b; ⟨hx a.regs, a.fresh, a.hif, a.tim, a.win, a.cfg, a.ing, a.lay, a.stages, a.reads, a.package, a.badEntry, a.col, a.run, a.live, a.sti, a.egr, a.mac, a.ccs, a.cvus, a.upd, a.keep, a.key, a.psm, a.lgw, a.twn⟩⟩

/-- Bytes of package memory that no object holds. -/
theorem Keeps.package {s t : State} {x : Table Byte} (h : Keeps s t)
    (hx : twf packageInit t.package = true → twf packageInit x = true) : Keeps s { t with package := x } :=
  ⟨h.pending, fun a => h.sound a, h.out, h.wear, fun b => have a := h.canon b; { a with package := hx a.package }⟩

/-- A register, with the Latch events of its cycle. -/
theorem Keeps.latches {s t : State} {x y : Table Word} {n : Nat} (h : Keeps s t)
    (hx : twf regReset t.regs = true → twf regReset x = true)
    (hy : twf (fun _ => 0) t.fresh = true → twf (fun _ => 0) y = true) :
    Keeps s { t with regs := x, fresh := y, freshAt := n } :=
  ⟨h.pending, fun a => ⟨hx (h.sound a).1, (h.sound a).2⟩, h.out, h.wear,
    fun b => have a := h.canon b; { a with regs := hx a.regs, fresh := hy a.fresh }⟩

end Sys2Proof.Machine
end

