-- ==== Sys2Proof/Laws/Tables.lean ====
section
/-! SUPPORT. Laws/Tables.lean: the laws of the sparse tables: reading after writing, and that writing,
filtering and the empty table keep the canonical form. -/
namespace Sys2Proof.Machine

variable {α : Type} [DecidableEq α] {d : Nat → α}

theorem twfFrom_mono {lo lo' : Nat} {m : Table α} (h : lo' ≤ lo) (hm : twfFrom d lo m = true) :
    twfFrom d lo' m = true := by
  cases m with
  | nil => rfl
  | cons x m =>
    simp only [twfFrom, Bool.and_eq_true, decide_eq_true_eq] at hm ⊢
    exact ⟨⟨by omega, hm.1.2⟩, hm.2⟩

/-- Below the numbers a table lists it reads as its default. -/
theorem tget_below {lo k : Nat} {m : Table α} (hm : twfFrom d lo m = true) (h : k < lo) : tget d m k = d k := by
  cases m with
  | nil => rfl
  | cons x m =>
    simp only [twfFrom, Bool.and_eq_true, decide_eq_true_eq] at hm
    simp only [tget]
    split
    · omega
    · split
      · rfl
      · omega

/-- A write keeps the canonical form. -/
theorem tput_twfFrom {lo k : Nat} {m : Table α} {v : α} (h : lo ≤ k) (hm : twfFrom d lo m = true) :
    twfFrom d lo (tput d m k v) = true := by
  induction m generalizing lo with
  | nil =>
    simp only [tput]
    split
    · rfl
    · simp [twfFrom, *]
  | cons x m ih =>
    obtain ⟨a, w⟩ := x
    simp only [twfFrom, Bool.and_eq_true, decide_eq_true_eq, Bool.not_eq_true', decide_eq_false_iff_not] at hm
    simp only [tput]
    split
    · split
      · simp only [twfFrom, Bool.and_eq_true, decide_eq_true_eq, Bool.not_eq_true', decide_eq_false_iff_not]
        exact hm
      · simp only [twfFrom, Bool.and_eq_true, decide_eq_true_eq, Bool.not_eq_true', decide_eq_false_iff_not]
        exact ⟨⟨h, by assumption⟩, ⟨by omega, hm.1.2⟩, hm.2⟩
    · split
      · subst_vars
        split
        · exact twfFrom_mono (by omega) hm.2
        · simp only [twfFrom, Bool.and_eq_true, decide_eq_true_eq, Bool.not_eq_true', decide_eq_false_iff_not]
          exact ⟨⟨h, by assumption⟩, hm.2⟩
      · simp only [twfFrom, Bool.and_eq_true, decide_eq_true_eq, Bool.not_eq_true', decide_eq_false_iff_not]
        exact ⟨hm.1, ih (by omega) hm.2⟩

theorem tput_twf {k : Nat} {m : Table α} {v : α} (hm : twf d m = true) : twf d (tput d m k v) = true :=
  tput_twfFrom (Nat.zero_le _) hm

theorem filter_twfFrom {lo : Nat} {m : Table α} {p : Nat × α → Bool} (hm : twfFrom d lo m = true) :
    twfFrom d lo (m.filter p) = true := by
  induction m generalizing lo with
  | nil => rfl
  | cons x m ih =>
    obtain ⟨a, w⟩ := x
    simp only [twfFrom, Bool.and_eq_true, decide_eq_true_eq] at hm
    simp only [List.filter_cons]
    split
    · simp only [twfFrom, Bool.and_eq_true, decide_eq_true_eq]
      exact ⟨hm.1, ih hm.2⟩
    · exact twfFrom_mono (by omega) (ih hm.2)

/-- Taking numbers out keeps the canonical form. -/
theorem filter_twf {m : Table α} {p : Nat × α → Bool} (hm : twf d m = true) : twf d (m.filter p) = true :=
  filter_twfFrom hm

/-- What was written is read back. -/
theorem tget_tput_self {lo k : Nat} {m : Table α} {v : α} (hm : twfFrom d lo m = true) :
    tget d (tput d m k v) k = v := by
  induction m generalizing lo with
  | nil =>
    simp only [tput]
    split <;> simp [tget, *]
  | cons x m ih =>
    obtain ⟨a, w⟩ := x
    simp only [twfFrom, Bool.and_eq_true, decide_eq_true_eq] at hm
    simp only [tput]
    split
    · split
      · simp only [tget]
        split
        · omega
        · simp_all
      · simp [tget]
    · split
      · subst_vars
        split
        · rw [tget_below hm.2 (by omega)]
          simp_all
        · simp [tget]
      · simp only [tget]
        rw [if_neg (by assumption), if_neg (by assumption)]
        exact ih hm.2

/-- A write leaves every other number alone. -/
theorem tget_tput_other {lo k j : Nat} {m : Table α} {v : α} (hm : twfFrom d lo m = true) (h : j ≠ k) :
    tget d (tput d m k v) j = tget d m j := by
  induction m generalizing lo with
  | nil =>
    simp only [tput]
    split
    · rfl
    · simp only [tget]
      split
      · omega
      · split <;> rfl
  | cons x m ih =>
    obtain ⟨a, w⟩ := x
    simp only [twfFrom, Bool.and_eq_true, decide_eq_true_eq] at hm
    simp only [tput]
    split
    · split
      · rfl
      · simp only [tget]
        repeat' split
        all_goals first | rfl | omega
    · split
      · subst_vars
        split
        · simp only [tget]
          split
          · omega
          · split
            · exact tget_below hm.2 (by omega)
            · rfl
        · simp only [tget]
          repeat' split
          all_goals first | rfl | omega
      · simp only [tget]
        split
        · rfl
        · split
          · rfl
          · exact ih hm.2

/-- What a table holds after a write. -/
theorem tget_tput {k j : Nat} {m : Table α} {v : α} (hm : twf d m = true) :
    tget d (tput d m k v) j = if j = k then v else tget d m j := by
  split
  · subst_vars
    exact tget_tput_self hm
  · exact tget_tput_other hm (by assumption)

theorem tputList_twf {vs : List α} {base : Nat} {m : Table α} (hm : twf d m = true) :
    twf d (tputList d m base vs) = true := by
  induction vs generalizing base m with
  | nil => exact hm
  | cons v vs ih => exact ih (tput_twf hm)

/-- Writes in a row keep the canonical form. -/
theorem foldl_twf {β : Type} {f : Table α → β → Table α} {l : List β} {m : Table α}
    (hf : ∀ m x, twf d m = true → twf d (f m x) = true) (hm : twf d m = true) : twf d (l.foldl f m) = true := by
  induction l generalizing m with
  | nil => exact hm
  | cons x l ih => exact ih (hf m x hm)

theorem tmap_twf {f : α → α} {m : Table α} (hm : twf d m = true) : twf d (tmap d m f) = true :=
  foldl_twf (fun _ _ h => tput_twf h) hm

theorem tmod_twf {f : α → α} {k : Nat} {m : Table α} (hm : twf d m = true) : twf d (tmod d m k f) = true :=
  tput_twf hm

theorem ite_twf {c : Prop} [Decidable c] {m n : Table α} (hm : twf d m = true) (hn : twf d n = true) :
    twf d (if c then m else n) = true := by split <;> assumption

/-- A value that is not the default is read back from any table. -/
theorem tget_tput_value {k : Nat} {m : Table α} {v : α} (hv : v ≠ d k) : tget d (tput d m k v) k = v := by
  induction m with
  | nil => simp [tput, hv, tget]
  | cons x m ih =>
    obtain ⟨a, w⟩ := x
    simp only [tput]
    split
    · simp [tget]
    · split
      · simp [tget]
      · simp only [tget]
        rw [if_neg (by assumption), if_neg (by assumption)]
        exact ih

/-- Writing a value that is not the default leaves every other number of any table alone. -/
theorem tget_tput_away {k j : Nat} {m : Table α} {v : α} (hv : v ≠ d k) (h : j ≠ k) :
    tget d (tput d m k v) j = tget d m j := by
  induction m with
  | nil => simp [tput, hv, tget, h]
  | cons x m ih =>
    obtain ⟨a, w⟩ := x
    simp only [tput]
    split
    · simp only [if_false, tget, h]
      repeat' split
      all_goals first | rfl | omega
    · split
      · simp only [tget]
        repeat' split
        all_goals first | rfl | omega
      · simp only [tget]
        repeat' split
        all_goals first | rfl | exact ih

/-- Two canonical tables that read the same everywhere are the same table. -/
theorem twfFrom_ext {lo : Nat} {m n : Table α} (hm : twfFrom d lo m = true) (hn : twfFrom d lo n = true)
    (h : ∀ k, tget d m k = tget d n k) : m = n := by
  induction m generalizing lo n with
  | nil =>
    cases n with
    | nil => rfl
    | cons y n =>
      obtain ⟨b, v⟩ := y
      have := h b
      simp_all [tget, twfFrom]
  | cons x m ih =>
    obtain ⟨a, w⟩ := x
    cases n with
    | nil =>
      have := h a
      simp_all [tget, twfFrom]
    | cons y n =>
      obtain ⟨b, v⟩ := y
      simp only [twfFrom, Bool.and_eq_true, decide_eq_true_eq, Bool.not_eq_true', decide_eq_false_iff_not] at hm hn
      have hab : a = b := by
        by_contra hne
        rcases Nat.lt_or_gt_of_ne hne with hl | hl
        · have := h a
          simp only [tget, if_true] at this
          rw [if_neg (by omega), if_pos hl] at this
          exact hm.1.2 this
        · have := h b
          simp only [tget, if_true] at this
          rw [if_neg (by omega), if_pos hl] at this
          exact hn.1.2 this.symm
      subst hab
      have hw : w = v := by
        have := h a
        simpa [tget] using this
      subst hw
      have : m = n := by
        refine ih hm.2 hn.2 fun k => ?_
        rcases Nat.lt_trichotomy k a with hk | hk | hk
        · rw [tget_below hm.2 (by omega), tget_below hn.2 (by omega)]
        · subst hk
          rw [tget_below hm.2 (by omega), tget_below hn.2 (by omega)]
        · have := h k
          simp only [tget] at this
          rw [if_neg (by omega), if_neg (by omega), if_neg (by omega)] at this
          rw [if_neg (by omega)] at this
          exact this
      rw [this]

end Sys2Proof.Machine
end

