-- ==== Sys2Proof/Laws/KeepsOps.lean ====
section
/-! SUPPORT. Laws/KeepsOps.lean: every operation of Machine/Ops.lean keeps what `Keeps` names. -/
namespace Sys2Proof.Machine

theorem slewPart_le (left : Int) (v : Nat) : slewPart left v ≤ v ∧ -(v : Int) ≤ slewPart left v := by
  unfold slewPart
  split <;> omega

/-- Device time stays a time (R82, R84). -/
theorem advance_sound {rate : Int} {speed n : Nat} {t : Tim} (h : t.sound) : (advance rate speed n t).sound := by
  unfold advance
  split
  · exact ⟨Nat.mod_lt _ (by decide), Nat.mod_lt _ (by decide), Nat.mod_lt _ (by decide)⟩
  · exact h

theorem advance_canon {rate : Int} {speed n : Nat} {t : Tim} (h : t.canon) : (advance rate speed n t).canon := by
  unfold advance
  split
  · exact ⟨h.stamps, h.pulses, h.caps⟩
  · exact h

theorem setReg_keeps {s0 : State} (s : State) (a : Nat) (v : Word) (kp : Keeps s0 s) :
    Keeps s0 (setReg s a v) := by
  exact Keeps.regs kp tput_twf

theorem setRegFld_keeps {s0 : State} (s : State) (a hi lo v : Nat) (kp : Keeps s0 s) :
    Keeps s0 (setRegFld s a hi lo v) := by
  unfold setRegFld
  repeat'
    first
    | with_reducible assumption | (intro _) | with_reducible apply setReg_keeps
    | with_reducible apply Keeps.ite | split | dsimp only

theorem setLatch_keeps {s0 : State} (s : State) (a : Nat) (v gained : Word) (kp : Keeps s0 s) :
    Keeps s0 (setLatch s a v gained) := by
  have hf : twf (fun _ => 0) s.fresh = true →
      twf (fun _ => 0) (tput (fun _ => 0) (if s.freshAt = s.tim.cyc then s.fresh else []) a gained) = true :=
    fun h => tput_twf (by split; exacts [h, rfl])
  have := Keeps.latches (n := s.tim.cyc) kp (tput_twf (k := a) (v := v)) hf
  unfold setLatch
  dsimp only
  split
  · exact this
  · exact setReg_keeps _ _ _ kp

theorem latch_keeps {s0 : State} (s : State) (a k : Nat) (kp : Keeps s0 s) :
    Keeps s0 (latch s a k) := by
  unfold latch
  repeat'
    first
    | with_reducible assumption | (intro _) | with_reducible apply setLatch_keeps
    | with_reducible apply Keeps.ite | split | dsimp only

theorem latchCount_keeps {s0 : State} (s : State) (a hi lo n : Nat) (kp : Keeps s0 s) :
    Keeps s0 (latchCount s a hi lo n) := by
  unfold latchCount
  repeat'
    first
    | with_reducible assumption | (intro _) | with_reducible apply setLatch_keeps
    | with_reducible apply Keeps.ite | split | dsimp only

theorem plainWrite_keeps {s0 : State} (s : State) (a : Nat) (v : Word) (kp : Keeps s0 s) :
    Keeps s0 (plainWrite s a v) := by
  unfold plainWrite
  repeat'
    first
    | with_reducible assumption | (intro _) | with_reducible apply setReg_keeps
    | with_reducible apply Keeps.ite | split | dsimp only

theorem takeFree_keeps {s0 : State} (s : State) (kp : Keeps s0 s) :
    Keeps s0 (takeFree s).2 := by
  unfold takeFree
  repeat'
    first
    | with_reducible assumption | with_reducible exact id | with_reducible exact fun _ => id
    | with_reducible apply tput_twf | exact rfl | (intro _) | with_reducible apply Keeps.ite | split
    | dsimp only | fail_if_no_progress with_reducible apply Keeps.fields

theorem setVec_keeps {s0 : State} (s : State) (v : Nat) (x : Vec) (kp : Keeps s0 s) :
    Keeps s0 (setVec s v x) := by
  unfold setVec
  repeat'
    first
    | with_reducible assumption | with_reducible exact id | with_reducible exact fun _ => id
    | with_reducible apply tput_twf | (intro a; cases a; apply Hif.canon.mk) | exact rfl | (intro _)
    | with_reducible apply Keeps.ite | split | dsimp only
    | fail_if_no_progress with_reducible apply Keeps.fields | with_reducible apply Keeps.ofHif

theorem signalVector_keeps {s0 : State} (s : State) (v : Nat) (kp : Keeps s0 s) :
    Keeps s0 (signalVector s v) := by
  unfold signalVector
  split
  · exact setVec_keeps _ _ _ kp
  · exact Keeps.fieldsSent (setVec_keeps _ v ⟨0, false, 0, (vecOf s v).pending⟩ kp)

theorem countRecord_keeps {s0 : State} (s : State) (v : Nat) (urgent : Bool) (kp : Keeps s0 s) :
    Keeps s0 (countRecord s v urgent) := by
  unfold countRecord
  repeat'
    first
    | with_reducible assumption | with_reducible exact id | with_reducible exact fun _ => id
    | with_reducible apply tput_twf | exact rfl | (intro _)
    | with_reducible apply signalVector_keeps | with_reducible apply setVec_keeps
    | with_reducible apply Keeps.ite | split | dsimp only
    | fail_if_no_progress with_reducible apply Keeps.fields

theorem writeNotice_keeps {s0 : State} (s : State) (m : Nat) (n : Notice) (kp : Keeps s0 s) :
    Keeps s0 (writeNotice s m n) := by
  unfold writeNotice
  repeat'
    first
    | with_reducible assumption | with_reducible exact id | with_reducible exact fun _ => id
    | with_reducible apply tput_twf | (intro a; cases a; apply Hif.canon.mk) | exact rfl | (intro _)
    | with_reducible apply countRecord_keeps | with_reducible apply Keeps.ite | split | dsimp only
    | fail_if_no_progress with_reducible apply Keeps.fields | with_reducible apply Keeps.ofHif
    | with_reducible apply Keeps.fieldsSent | with_reducible apply Keeps.litSent

theorem flushLost_keeps {s0 : State} (s : State) (kp : Keeps s0 s) :
    Keeps s0 (flushLost s) := by
  unfold flushLost
  repeat'
    first
    | with_reducible assumption | with_reducible exact id | with_reducible exact fun _ => id
    | with_reducible apply tput_twf | (intro a; cases a; apply Hif.canon.mk) | exact rfl | (intro _)
    | with_reducible apply writeNotice_keeps | with_reducible apply Keeps.ite | split | dsimp only
    | fail_if_no_progress with_reducible apply Keeps.fields | with_reducible apply Keeps.ofHif

theorem hostNotice_keeps {s0 : State} (s : State) (n : Notice) (kp : Keeps s0 s) :
    Keeps s0 (hostNotice s n) := by
  unfold hostNotice
  repeat'
    first
    | with_reducible assumption | with_reducible exact id | with_reducible exact fun _ => id
    | with_reducible apply tput_twf | (intro a; cases a; apply Hif.canon.mk) | exact rfl | (intro _)
    | with_reducible apply flushLost_keeps | with_reducible apply writeNotice_keeps
    | with_reducible apply latchCount_keeps | with_reducible apply Keeps.ite | split | dsimp only
    | fail_if_no_progress with_reducible apply Keeps.fields | with_reducible apply Keeps.ofHif

theorem setOutbox_keeps {s0 : State} (s : State) (src : Nat) (o : Outbox) (kp : Keeps s0 s) :
    Keeps s0 (setOutbox s src o) := by
  unfold setOutbox
  repeat'
    first
    | with_reducible assumption | with_reducible exact id | with_reducible exact fun _ => id
    | with_reducible apply tput_twf | (intro a; cases a; apply Ccs.canon.mk) | exact rfl | (intro _)
    | with_reducible apply Keeps.ite | split | dsimp only
    | fail_if_no_progress with_reducible apply Keeps.fields | with_reducible apply Keeps.ofCcs

theorem placePacket_keeps {s0 : State} (s : State) (src : Nat) (p : Packet) (kp : Keeps s0 s) :
    Keeps s0 (placePacket s src p) := by
  unfold placePacket
  repeat'
    first
    | with_reducible assumption | with_reducible exact id | with_reducible exact fun _ => id
    | with_reducible apply tput_twf | exact rfl | (intro _) | with_reducible apply latchCount_keeps
    | with_reducible apply setOutbox_keeps | with_reducible apply Keeps.ite | split | dsimp only
    | fail_if_no_progress with_reducible apply Keeps.fields

theorem fwNotice_keeps {s0 : State} (s : State) (src : Nat) (n : Notice) (kp : Keeps s0 s) :
    Keeps s0 (fwNotice s src n) := by
  unfold fwNotice
  repeat'
    first
    | with_reducible assumption | (intro _) | with_reducible apply placePacket_keeps
    | with_reducible apply Keeps.ite | split | dsimp only

theorem notice_keeps {s0 : State} (s : State) (code inst detail : Nat) (host fw : Bool) (kp : Keeps s0 s) :
    Keeps s0 (notice s code inst detail host fw) := by
  unfold notice
  repeat'
    first
    | with_reducible assumption | (intro _) | with_reducible apply hostNotice_keeps
    | with_reducible apply fwNotice_keeps | with_reducible apply Keeps.ite | split | dsimp only

theorem noticeBoth_keeps {s0 : State} (s : State) (code inst detail : Nat) (kp : Keeps s0 s) :
    Keeps s0 (noticeBoth s code inst detail) := by
  unfold noticeBoth
  repeat'
    first
    | with_reducible assumption | (intro _) | with_reducible apply notice_keeps
    | with_reducible apply Keeps.ite | split | dsimp only

theorem tick_keeps {s0 : State} (n : Nat) (s : State) (kp : Keeps s0 s) :
    Keeps s0 (tick n s) := by
  have ht : Keeps s0 { s with tim := advance (timRate s) (timSpeed s) n s.tim } := Keeps.tim kp (fun _ a => advance_sound a.2.1) advance_canon
  unfold tick
  dsimp only
  split
  · exact notice_keeps _ _ _ _ _ _ ht
  · exact ht

theorem runTo_keeps {s0 : State} (target : Nat) (s : State) (kp : Keeps s0 s) :
    Keeps s0 (runTo target s) := by
  unfold runTo
  repeat'
    first
    | with_reducible assumption | (intro _) | with_reducible apply tick_keeps
    | with_reducible apply Keeps.ite | split | dsimp only

theorem runToCycle_keeps {s0 : State} (cyc : Nat) (s : State) (kp : Keeps s0 s) :
    Keeps s0 (runToCycle cyc s) := by
  unfold runToCycle
  repeat'
    first
    | with_reducible assumption | (intro _) | with_reducible apply tick_keeps
    | with_reducible apply Keeps.ite | split | dsimp only

theorem modTrack_keeps {s0 : State} (s : State) (id : Nat) (f : Track → Track) (kp : Keeps s0 s) :
    Keeps s0 (modTrack s id f) := by
  unfold modTrack
  repeat'
    first
    | with_reducible assumption | with_reducible exact id | with_reducible exact fun _ => id
    | with_reducible apply tput_twf | (intro a; cases a; apply Hif.canon.mk) | exact rfl | (intro _)
    | with_reducible apply Keeps.ite | split | dsimp only
    | fail_if_no_progress with_reducible apply Keeps.fields | with_reducible apply Keeps.ofHif

theorem afterLeave_keeps {s0 : State} (s : State) (ring : Nat) (kp : Keeps s0 s) :
    Keeps s0 (afterLeave s ring) := by
  unfold afterLeave
  repeat'
    first
    | with_reducible assumption | with_reducible exact id | with_reducible exact fun _ => id
    | with_reducible apply tput_twf | (intro a; cases a; apply Hif.canon.mk) | exact rfl | (intro _)
    | with_reducible apply notice_keeps | with_reducible apply Keeps.ite | split | dsimp only
    | fail_if_no_progress with_reducible apply Keeps.fields | with_reducible apply Keeps.ofHif

theorem dropTrack_keeps {s0 : State} (s : State) (id : Nat) (kp : Keeps s0 s) :
    Keeps s0 (dropTrack s id) := by
  unfold dropTrack
  repeat'
    first
    | with_reducible assumption | with_reducible exact id | with_reducible exact fun _ => id
    | with_reducible apply tput_twf | with_reducible apply filter_twf
    | (intro a; cases a; apply Hif.canon.mk) | exact rfl | (intro _)
    | with_reducible apply afterLeave_keeps | with_reducible apply Keeps.ite | split | dsimp only
    | fail_if_no_progress with_reducible apply Keeps.fields | with_reducible apply Keeps.ofHif

theorem decideOne_keeps {s0 : State} (s : State) (id st r0 r1 : Nat) (hoop : Hoop) (kp : Keeps s0 s) :
    Keeps s0 (decideOne s id st r0 r1 hoop) := by
  unfold decideOne
  repeat'
    first
    | with_reducible assumption | with_reducible exact id | with_reducible exact fun _ => id
    | with_reducible apply tput_twf | with_reducible exact noClosed_canon
    | (intro a; cases a; apply Hif.canon.mk) | (intro a; cases a; apply Twn.canon.mk) | exact rfl
    | (intro _) | with_reducible apply dropTrack_keeps | with_reducible apply modTrack_keeps
    | with_reducible apply Keeps.ite | split | dsimp only
    | fail_if_no_progress with_reducible apply Keeps.fields | with_reducible apply Keeps.ofHif
    | with_reducible apply Keeps.ofTwn | with_reducible apply Keeps.lit

theorem settleFences_keeps {s0 : State} (s : State) (ring : Nat) (kp : Keeps s0 s) :
    Keeps s0 (settleFences s ring) := by
  unfold settleFences
  repeat'
    first
    | with_reducible assumption | (intro _) | with_reducible apply decideOne_keeps
    | with_reducible apply Keeps.foldl | with_reducible apply Keeps.foldlPair
    | with_reducible apply Keeps.ite | split | dsimp only

theorem settleOne_keeps {s0 : State} (s : State) (id : Nat) (kp : Keeps s0 s) :
    Keeps s0 (settleOne s id) := by
  unfold settleOne
  repeat'
    first
    | with_reducible assumption | (intro _) | with_reducible apply decideOne_keeps
    | with_reducible apply Keeps.ite | split | dsimp only

theorem settleRing_keeps {s0 : State} (s : State) (ring : Nat) (kp : Keeps s0 s) :
    Keeps s0 (settleRing s ring) := by
  unfold settleRing
  repeat'
    first
    | with_reducible assumption | (intro _) | with_reducible apply settleFences_keeps
    | with_reducible apply settleOne_keeps | with_reducible apply Keeps.foldl
    | with_reducible apply Keeps.foldlPair | with_reducible apply Keeps.ite | split | dsimp only

theorem finishAt_keeps {s0 : State} (s : State) (id st r0 r1 : Nat) (hoop : Hoop) (kp : Keeps s0 s) :
    Keeps s0 (finishAt s id st r0 r1 hoop) := by
  unfold finishAt
  repeat'
    first
    | with_reducible assumption | with_reducible exact id | with_reducible exact fun _ => id
    | with_reducible apply tput_twf | exact rfl | (intro _) | with_reducible apply modTrack_keeps
    | with_reducible apply settleRing_keeps | with_reducible apply decideOne_keeps
    | with_reducible apply Keeps.ite | split | dsimp only
    | fail_if_no_progress with_reducible apply Keeps.fields

theorem finish_keeps {s0 : State} (s : State) (id st r0 r1 : Nat) (kp : Keeps s0 s) :
    Keeps s0 (finish s id st r0 r1) := by
  unfold finish
  repeat'
    first
    | with_reducible assumption | (intro _) | with_reducible apply finishAt_keeps
    | with_reducible apply Keeps.ite | split | dsimp only

theorem handOver_keeps {s0 : State} (s : State) (id : Nat) (kp : Keeps s0 s) :
    Keeps s0 (handOver s id) := by
  unfold handOver
  repeat'
    first
    | with_reducible assumption | with_reducible exact id | with_reducible exact fun _ => id
    | with_reducible apply tput_twf | (intro a; cases a; apply Hif.canon.mk) | exact rfl | (intro _)
    | with_reducible apply modTrack_keeps | with_reducible apply Keeps.ite | split | dsimp only
    | fail_if_no_progress with_reducible apply Keeps.fields | with_reducible apply Keeps.ofHif

theorem begin_keeps {s0 : State} (s : State) (id : Nat) (kp : Keeps s0 s) :
    Keeps s0 (begin s id) := by
  unfold begin
  repeat'
    first
    | with_reducible assumption | with_reducible exact id | with_reducible exact fun _ => id
    | with_reducible apply tput_twf | exact rfl | (intro _) | with_reducible apply modTrack_keeps
    | with_reducible apply Keeps.ite | split | dsimp only
    | fail_if_no_progress with_reducible apply Keeps.fields

theorem running_keeps {s0 : State} (s : State) (id : Nat) (kp : Keeps s0 s) :
    Keeps s0 (running s id) := by
  unfold running
  repeat'
    first
    | with_reducible assumption | with_reducible exact id | with_reducible exact fun _ => id
    | with_reducible apply tput_twf | exact rfl | (intro _) | with_reducible apply modTrack_keeps
    | with_reducible apply Keeps.ite | split | dsimp only
    | fail_if_no_progress with_reducible apply Keeps.fields

end Sys2Proof.Machine
end

