-- ==== Sys2Proof/Laws/KeepsCcs.lean ====
section
/-! SUPPORT. Laws/KeepsCcs.lean: every operation of Machine/Ccs.lean keeps what `Keeps` names. -/
namespace Sys2Proof.Machine

theorem setThread_keeps {s0 : State} (s : State) (t : Nat) (x : Thread) (kp : Keeps s0 s) :
    Keeps s0 (setThread s t x) := by
  unfold setThread
  repeat'
    first
    | with_reducible assumption | with_reducible exact id | with_reducible exact fun _ => id
    | with_reducible apply tput_twf | (intro a; cases a; apply Ccs.canon.mk) | exact rfl | (intro _)
    | with_reducible apply Keeps.ite | split | dsimp only
    | fail_if_no_progress with_reducible apply Keeps.fields | with_reducible apply Keeps.ofCcs

theorem setCore_keeps {s0 : State} (s : State) (c : Nat) (x : CoreUnit) (kp : Keeps s0 s) :
    Keeps s0 (setCore s c x) := by
  unfold setCore
  repeat'
    first
    | with_reducible assumption | with_reducible exact id | with_reducible exact fun _ => id
    | with_reducible apply tput_twf | (intro a; cases a; apply Ccs.canon.mk) | exact rfl | (intro _)
    | with_reducible apply Keeps.ite | split | dsimp only
    | fail_if_no_progress with_reducible apply Keeps.fields | with_reducible apply Keeps.ofCcs

theorem setList_keeps {s0 : State} (s : State) (p : Nat) (l : List Nat) (kp : Keeps s0 s) :
    Keeps s0 (setList s p l) := by
  unfold setList
  repeat'
    first
    | with_reducible assumption | with_reducible exact id | with_reducible exact fun _ => id
    | with_reducible apply tput_twf | (intro a; cases a; apply Ccs.canon.mk) | exact rfl | (intro _)
    | with_reducible apply Keeps.ite | split | dsimp only
    | fail_if_no_progress with_reducible apply Keeps.fields | with_reducible apply Keeps.ofCcs

theorem saveContext_keeps {s0 : State} (s : State) (c t : Nat) (kp : Keeps s0 s) :
    Keeps s0 (saveContext s c t) := by
  unfold saveContext
  repeat'
    first
    | with_reducible assumption | with_reducible exact id | with_reducible exact fun _ => id
    | with_reducible apply tput_twf | with_reducible apply tputList_twf
    | (intro a; cases a; apply Ccs.canon.mk) | exact rfl | (intro _)
    | with_reducible apply Keeps.ite | split | dsimp only
    | fail_if_no_progress with_reducible apply Keeps.fields | with_reducible apply Keeps.ofCcs

theorem makeReady_keeps {s0 : State} (s : State) (t : Nat) (atHead : Bool) (kp : Keeps s0 s) :
    Keeps s0 (makeReady s t atHead) := by
  unfold makeReady
  repeat'
    first
    | with_reducible assumption | with_reducible exact id | with_reducible exact fun _ => id
    | with_reducible apply tput_twf | exact rfl | (intro _) | with_reducible apply setThread_keeps
    | with_reducible apply setList_keeps | with_reducible apply Keeps.ite | split | dsimp only
    | fail_if_no_progress with_reducible apply Keeps.fields

theorem runThread_keeps {s0 : State} (s : State) (c t : Nat) (kp : Keeps s0 s) :
    Keeps s0 (runThread s c t) := by
  unfold runThread
  repeat'
    first
    | with_reducible assumption | with_reducible exact id | with_reducible exact fun _ => id
    | with_reducible apply tput_twf | with_reducible apply filter_twf
    | (intro a; cases a; apply Ccs.canon.mk) | exact rfl | (intro _)
    | with_reducible apply setList_keeps | with_reducible apply setCore_keeps
    | with_reducible apply setThread_keeps | with_reducible apply running_keeps
    | with_reducible apply Keeps.ite | split | dsimp only
    | fail_if_no_progress with_reducible apply Keeps.fields | with_reducible apply Keeps.ofCcs

theorem dispatchCore_keeps {s0 : State} (s : State) (c : Nat) (kp : Keeps s0 s) :
    Keeps s0 (dispatchCore s c) := by
  unfold dispatchCore
  repeat'
    first
    | with_reducible assumption | (intro _) | with_reducible apply runThread_keeps
    | with_reducible apply Keeps.ite | split | dsimp only

theorem dispatch_keeps {s0 : State} (s : State) (kp : Keeps s0 s) :
    Keeps s0 (dispatch s) := by
  unfold dispatch
  repeat'
    first
    | with_reducible assumption | (intro _) | with_reducible apply dispatchCore_keeps
    | with_reducible apply Keeps.foldl | with_reducible apply Keeps.foldlPair
    | with_reducible apply Keeps.ite | split | dsimp only

theorem leaveCore_keeps {s0 : State} (s : State) (c : Nat) (kp : Keeps s0 s) :
    Keeps s0 (leaveCore s c) := by
  unfold leaveCore
  repeat'
    first
    | with_reducible assumption | with_reducible exact id | with_reducible exact fun _ => id
    | with_reducible apply tput_twf | exact rfl | (intro _) | with_reducible apply saveContext_keeps
    | with_reducible apply setCore_keeps | with_reducible apply Keeps.ite | split | dsimp only
    | fail_if_no_progress with_reducible apply Keeps.fields

theorem startThread_keeps {s0 : State} (s : State) (t : Nat) (kp : Keeps s0 s) :
    Keeps s0 (startThread s t) := by
  unfold startThread
  repeat'
    first
    | with_reducible assumption | (intro _) | with_reducible apply dispatch_keeps
    | with_reducible apply makeReady_keeps | with_reducible apply Keeps.ite | split | dsimp only

theorem haltThread_keeps {s0 : State} (s : State) (t : Nat) (kp : Keeps s0 s) :
    Keeps s0 (haltThread s t) := by
  unfold haltThread
  repeat'
    first
    | with_reducible assumption | with_reducible exact id | with_reducible exact fun _ => id
    | with_reducible apply tput_twf | with_reducible apply filter_twf | exact rfl | (intro _)
    | with_reducible apply running_keeps | with_reducible apply dispatch_keeps
    | with_reducible apply setThread_keeps | with_reducible apply leaveCore_keeps
    | with_reducible apply setList_keeps | with_reducible apply Keeps.ite | split | dsimp only
    | fail_if_no_progress with_reducible apply Keeps.fields

theorem countSlot_keeps {s0 : State} (s : State) (t k : Nat) (kp : Keeps s0 s) :
    Keeps s0 (countSlot s t k) := by
  unfold countSlot
  repeat'
    first
    | with_reducible assumption | with_reducible exact id | with_reducible exact fun _ => id
    | with_reducible apply tput_twf | exact rfl | (intro _) | with_reducible apply latch_keeps
    | with_reducible apply setThread_keeps | with_reducible apply makeReady_keeps
    | with_reducible apply Keeps.ite | split | dsimp only
    | fail_if_no_progress with_reducible apply Keeps.fields

theorem occurThread_keeps {s0 : State} (code : Nat) (s : State) (t : Nat) (kp : Keeps s0 s) :
    Keeps s0 (occurThread code s t) := by
  unfold occurThread
  repeat'
    first
    | with_reducible assumption | (intro _) | with_reducible apply countSlot_keeps
    | with_reducible apply Keeps.foldl | with_reducible apply Keeps.foldlPair
    | with_reducible apply Keeps.ite | split | dsimp only

theorem occur_keeps {s0 : State} (s : State) (code : Nat) (kp : Keeps s0 s) :
    Keeps s0 (occur s code) := by
  unfold occur
  repeat'
    first
    | with_reducible assumption | (intro _) | with_reducible apply dispatch_keeps
    | with_reducible apply occurThread_keeps | with_reducible apply Keeps.foldl
    | with_reducible apply Keeps.foldlPair | with_reducible apply Keeps.ite | split | dsimp only

theorem setQueue_keeps {s0 : State} (s : State) (q : Nat) (x : NQueue) (kp : Keeps s0 s) :
    Keeps s0 (setQueue s q x) := by
  unfold setQueue
  repeat'
    first
    | with_reducible assumption | with_reducible exact id | with_reducible exact fun _ => id
    | with_reducible apply tput_twf | (intro a; cases a; apply Ccs.canon.mk) | exact rfl | (intro _)
    | with_reducible apply Keeps.ite | split | dsimp only
    | fail_if_no_progress with_reducible apply Keeps.fields | with_reducible apply Keeps.ofCcs

theorem watermark_keeps {s0 : State} (s : State) (q : Nat) (kp : Keeps s0 s) :
    Keeps s0 (watermark s q) := by
  unfold watermark
  repeat'
    first
    | with_reducible assumption | with_reducible exact id | with_reducible exact fun _ => id
    | with_reducible apply tput_twf | exact rfl | (intro _) | with_reducible apply latchCount_keeps
    | with_reducible apply setQueue_keeps | with_reducible apply occur_keeps
    | with_reducible apply noticeBoth_keeps | with_reducible apply Keeps.ite | split | dsimp only
    | fail_if_no_progress with_reducible apply Keeps.fields

theorem enqueue_keeps {s0 : State} (s : State) (q : Nat) (ws : List Word) (kp : Keeps s0 s) :
    Keeps s0 (enqueue s q ws) := by
  unfold enqueue
  repeat'
    first
    | with_reducible assumption | with_reducible exact id | with_reducible exact fun _ => id
    | with_reducible apply tput_twf | exact rfl | (intro _) | with_reducible apply watermark_keeps
    | with_reducible apply occur_keeps | with_reducible apply setQueue_keeps
    | with_reducible apply Keeps.ite | split | dsimp only
    | fail_if_no_progress with_reducible apply Keeps.fields

theorem dropDisabled_keeps {s0 : State} (s : State) (src : Nat) (kp : Keeps s0 s) :
    Keeps s0 (dropDisabled s src) := by
  unfold dropDisabled
  repeat'
    first
    | with_reducible assumption | with_reducible exact id | with_reducible exact fun _ => id
    | with_reducible apply tput_twf | with_reducible apply foldl_twf | exact rfl | (intro _)
    | with_reducible apply latchCount_keeps | with_reducible apply setOutbox_keeps
    | with_reducible apply Keeps.foldl | with_reducible apply Keeps.foldlPair
    | with_reducible apply Keeps.ite | split | dsimp only
    | fail_if_no_progress with_reducible apply Keeps.fields

theorem acceptPacket_keeps {s0 : State} (s : State) (q : Nat) (kp : Keeps s0 s) :
    Keeps s0 (acceptPacket s q) := by
  unfold acceptPacket
  repeat'
    first
    | with_reducible assumption | with_reducible exact id | with_reducible exact fun _ => id
    | with_reducible apply tput_twf | (intro a; cases a; apply Ccs.canon.mk) | exact rfl | (intro _)
    | with_reducible apply setOutbox_keeps | with_reducible apply dropDisabled_keeps
    | with_reducible apply latchCount_keeps | with_reducible apply enqueue_keeps
    | with_reducible apply Keeps.ite | split | dsimp only
    | fail_if_no_progress with_reducible apply Keeps.fields | with_reducible apply Keeps.ofCcs
  all_goals assumption

theorem directPost_keeps {s0 : State} (s : State) (q : Nat) (ws : List Word) (kp : Keeps s0 s) :
    Keeps s0 (directPost s q ws).2 := by
  unfold directPost
  repeat'
    first
    | with_reducible assumption | (intro _) | with_reducible apply latchCount_keeps
    | with_reducible apply enqueue_keeps | with_reducible apply Keeps.ite | split | dsimp only

theorem popQueue_keeps {s0 : State} (s : State) (q : Nat) (kp : Keeps s0 s) :
    Keeps s0 (popQueue s q) := by
  unfold popQueue
  repeat'
    first
    | with_reducible assumption | with_reducible exact id | with_reducible exact fun _ => id
    | with_reducible apply tput_twf | exact rfl | (intro _) | with_reducible apply latch_keeps
    | with_reducible apply setQueue_keeps | with_reducible apply latchCount_keeps
    | with_reducible apply noticeBoth_keeps | with_reducible apply watermark_keeps
    | with_reducible apply Keeps.ite | split | dsimp only
    | fail_if_no_progress with_reducible apply Keeps.fields

theorem writeNqCtrl_keeps {s0 : State} (s : State) (q : Nat) (v : Word) (kp : Keeps s0 s) :
    Keeps s0 (writeNqCtrl s q v) := by
  unfold writeNqCtrl
  repeat'
    first
    | with_reducible assumption | with_reducible exact id | with_reducible exact fun _ => id
    | with_reducible apply tput_twf | with_reducible apply foldl_twf | exact rfl | (intro _)
    | with_reducible apply plainWrite_keeps | with_reducible apply dropDisabled_keeps
    | with_reducible apply watermark_keeps | with_reducible apply setQueue_keeps
    | with_reducible apply Keeps.foldl | with_reducible apply Keeps.foldlPair
    | with_reducible apply Keeps.ite | split | dsimp only
    | fail_if_no_progress with_reducible apply Keeps.fields

theorem setStaged_keeps {s0 : State} (s : State) (t : Nat) (x : Staged) (kp : Keeps s0 s) :
    Keeps s0 (setStaged s t x) := by
  unfold setStaged
  repeat'
    first
    | with_reducible assumption | with_reducible exact id | with_reducible exact fun _ => id
    | with_reducible apply tput_twf | (intro a; cases a; apply Ccs.canon.mk) | exact rfl | (intro _)
    | with_reducible apply Keeps.ite | split | dsimp only
    | fail_if_no_progress with_reducible apply Keeps.fields | with_reducible apply Keeps.ofCcs

theorem writeStaged_keeps {s0 : State} (s : State) (t off : Nat) (v : Word) (kp : Keeps s0 s) :
    Keeps s0 (writeStaged s t off v) := by
  unfold writeStaged
  repeat'
    first
    | with_reducible assumption | with_reducible exact id | with_reducible exact fun _ => id
    | with_reducible apply tput_twf | exact rfl | (intro _) | with_reducible apply setStaged_keeps
    | with_reducible apply Keeps.ite | split | dsimp only
    | fail_if_no_progress with_reducible apply Keeps.fields

theorem schWait_keeps {s0 : State} (s : State) (c : Nat) (mask : Nat) (kp : Keeps s0 s) :
    Keeps s0 (schWait s c mask) := by
  unfold schWait
  repeat'
    first
    | with_reducible assumption | with_reducible exact id | with_reducible exact fun _ => id
    | with_reducible apply tput_twf | exact rfl | (intro _) | with_reducible apply dispatch_keeps
    | with_reducible apply setThread_keeps | with_reducible apply leaveCore_keeps
    | with_reducible apply Keeps.ite | split | dsimp only
    | fail_if_no_progress with_reducible apply Keeps.fields

theorem schYield_keeps {s0 : State} (s : State) (c : Nat) (kp : Keeps s0 s) :
    Keeps s0 (schYield s c) := by
  unfold schYield
  repeat'
    first
    | with_reducible assumption | (intro _) | with_reducible apply dispatch_keeps
    | with_reducible apply makeReady_keeps | with_reducible apply leaveCore_keeps
    | with_reducible apply Keeps.ite | split | dsimp only

theorem schExit_keeps {s0 : State} (s : State) (c : Nat) (kp : Keeps s0 s) :
    Keeps s0 (schExit s c) := by
  unfold schExit
  repeat'
    first
    | with_reducible assumption | with_reducible exact id | with_reducible exact fun _ => id
    | with_reducible apply tput_twf | exact rfl | (intro _) | with_reducible apply dispatch_keeps
    | with_reducible apply setThread_keeps | with_reducible apply leaveCore_keeps
    | with_reducible apply Keeps.ite | split | dsimp only
    | fail_if_no_progress with_reducible apply Keeps.fields

theorem schTake_keeps {s0 : State} (s : State) (c k : Nat) (kp : Keeps s0 s) :
    Keeps s0 (schTake s c k) := by
  unfold schTake
  repeat'
    first
    | with_reducible assumption | with_reducible exact id | with_reducible exact fun _ => id
    | with_reducible apply tput_twf | exact rfl | (intro _) | with_reducible apply setThread_keeps
    | with_reducible apply Keeps.ite | split | dsimp only
    | fail_if_no_progress with_reducible apply Keeps.fields

theorem schSignal_keeps {s0 : State} (s : State) (c : Nat) (v : Word) (kp : Keeps s0 s) :
    Keeps s0 (schSignal s c v) := by
  unfold schSignal
  repeat'
    first
    | with_reducible assumption | with_reducible exact id | with_reducible exact fun _ => id
    | with_reducible apply tput_twf | exact rfl | (intro _) | with_reducible apply setThread_keeps
    | with_reducible apply dispatch_keeps | with_reducible apply countSlot_keeps
    | with_reducible apply Keeps.ite | split | dsimp only
    | fail_if_no_progress with_reducible apply Keeps.fields

theorem schTimer_keeps {s0 : State} (s : State) (c : Nat) (v : Word) (kp : Keeps s0 s) :
    Keeps s0 (schTimer s c v) := by
  unfold schTimer
  repeat'
    first
    | with_reducible assumption | with_reducible exact id | with_reducible exact fun _ => id
    | with_reducible apply tput_twf | exact rfl | (intro _) | with_reducible apply setThread_keeps
    | with_reducible apply Keeps.ite | split | dsimp only
    | fail_if_no_progress with_reducible apply Keeps.fields

theorem timerExpiry_keeps {s0 : State} (s : State) (t : Nat) (kp : Keeps s0 s) :
    Keeps s0 (timerExpiry s t) := by
  unfold timerExpiry
  repeat'
    first
    | with_reducible assumption | with_reducible exact id | with_reducible exact fun _ => id
    | with_reducible apply tput_twf | exact rfl | (intro _) | with_reducible apply runToCycle_keeps
    | with_reducible apply dispatch_keeps | with_reducible apply occurThread_keeps
    | with_reducible apply setThread_keeps | with_reducible apply Keeps.ite | split | dsimp only
    | fail_if_no_progress with_reducible apply Keeps.fields

theorem schWdog_keeps {s0 : State} (s : State) (c : Nat) (kp : Keeps s0 s) :
    Keeps s0 (schWdog s c) := by
  unfold schWdog
  repeat'
    first
    | with_reducible assumption | with_reducible exact id | with_reducible exact fun _ => id
    | with_reducible apply tput_twf | exact rfl | (intro _) | with_reducible apply setCore_keeps
    | with_reducible apply Keeps.ite | split | dsimp only
    | fail_if_no_progress with_reducible apply Keeps.fields

theorem writeCcsWdog_keeps {s0 : State} (s : State) (c : Nat) (v : Word) (kp : Keeps s0 s) :
    Keeps s0 (writeCcsWdog s c v) := by
  unfold writeCcsWdog
  repeat'
    first
    | with_reducible assumption | (intro _) | with_reducible apply plainWrite_keeps
    | with_reducible apply schWdog_keeps | with_reducible apply Keeps.ite | split | dsimp only

theorem watchdogExpiry_keeps {s0 : State} (s : State) (c : Nat) (kp : Keeps s0 s) :
    Keeps s0 (watchdogExpiry s c) := by
  unfold watchdogExpiry
  repeat'
    first
    | with_reducible assumption | with_reducible exact id | with_reducible exact fun _ => id
    | with_reducible apply tput_twf | exact rfl | (intro _) | with_reducible apply schWdog_keeps
    | with_reducible apply runToCycle_keeps | with_reducible apply setThread_keeps
    | with_reducible apply leaveCore_keeps | with_reducible apply dispatch_keeps
    | with_reducible apply noticeBoth_keeps | with_reducible apply latch_keeps
    | with_reducible apply Keeps.ite | split | dsimp only
    | fail_if_no_progress with_reducible apply Keeps.fields

theorem schPost_keeps {s0 : State} (s : State) (c q : Nat) (kp : Keeps s0 s) :
    Keeps s0 (schPost s c q) := by
  unfold schPost
  repeat'
    first
    | with_reducible assumption | with_reducible exact id | with_reducible exact fun _ => id
    | with_reducible apply tput_twf | exact rfl | (intro _) | with_reducible apply enqueue_keeps
    | with_reducible apply latch_keeps | with_reducible apply Keeps.ite | split | dsimp only
    | fail_if_no_progress with_reducible apply Keeps.fields

theorem preempt_keeps {s0 : State} (s : State) (kp : Keeps s0 s) :
    Keeps s0 (preempt s) := by
  unfold preempt
  repeat'
    first
    | with_reducible assumption | (intro _) | with_reducible apply dispatch_keeps
    | with_reducible apply runThread_keeps | with_reducible apply makeReady_keeps
    | with_reducible apply leaveCore_keeps | with_reducible apply Keeps.ite | split | dsimp only

theorem obsWindowEnd_keeps {s0 : State} (s : State) (kp : Keeps s0 s) :
    Keeps s0 (obsWindowEnd s) := by
  unfold obsWindowEnd
  repeat'
    first
    | with_reducible assumption | with_reducible exact id | with_reducible exact fun _ => id
    | with_reducible apply tput_twf | with_reducible apply foldl_twf
    | (intro a; cases a; apply Ccs.canon.mk) | exact rfl | (intro _)
    | with_reducible apply runToCycle_keeps | with_reducible apply Keeps.foldl
    | with_reducible apply Keeps.foldlPair | with_reducible apply Keeps.ite | split | dsimp only
    | fail_if_no_progress with_reducible apply Keeps.fields | with_reducible apply Keeps.ofCcs

theorem coreFaultPost_keeps {s0 : State} (s : State) (c addr t : Nat) (kp : Keeps s0 s) :
    Keeps s0 (coreFaultPost s c addr t) := by
  unfold coreFaultPost
  repeat'
    first
    | with_reducible assumption | (intro _) | with_reducible apply noticeBoth_keeps
    | with_reducible apply Keeps.ite | split | dsimp only

theorem accessFault_keeps {s0 : State} (s : State) (c addr : Nat) (kp : Keeps s0 s) :
    Keeps s0 (accessFault s c addr) := by
  unfold accessFault
  repeat'
    first
    | with_reducible assumption | (intro _) | with_reducible apply coreFaultPost_keeps
    | with_reducible apply Keeps.ite | split | dsimp only

theorem eccFault_keeps {s0 : State} (s : State) (c addr : Nat) (kp : Keeps s0 s) :
    Keeps s0 (eccFault s c addr) := by
  unfold eccFault
  repeat'
    first
    | with_reducible assumption | (intro _) | with_reducible apply latch_keeps
    | with_reducible apply haltThread_keeps | with_reducible apply coreFaultPost_keeps
    | with_reducible apply accessFault_keeps | with_reducible apply Keeps.ite | split | dsimp only

theorem writeTcb_keeps {s0 : State} (s : State) (off : Nat) (v : Word) (kp : Keeps s0 s) :
    Keeps s0 (writeTcb s off v) := by
  unfold writeTcb
  repeat'
    first
    | with_reducible assumption | with_reducible exact id | with_reducible exact fun _ => id
    | with_reducible apply tput_twf | with_reducible apply tputList_twf
    | (intro a; cases a; apply Ccs.canon.mk) | exact rfl | (intro _)
    | with_reducible apply latch_keeps | with_reducible apply Keeps.ite | split | dsimp only
    | fail_if_no_progress with_reducible apply Keeps.fields | with_reducible apply Keeps.ofCcs

theorem writeThrCtrl_keeps {s0 : State} (s : State) (t : Nat) (v : Word) (kp : Keeps s0 s) :
    Keeps s0 (writeThrCtrl s t v) := by
  unfold writeThrCtrl
  repeat'
    first
    | with_reducible assumption | (intro _) | with_reducible apply plainWrite_keeps
    | with_reducible apply startThread_keeps | with_reducible apply haltThread_keeps
    | with_reducible apply Keeps.ite | split | dsimp only

end Sys2Proof.Machine
end

