-- ==== Sys2Proof/Laws/KeepsCvu.lean ====
section
/-! SUPPORT. Laws/KeepsCvu.lean: every operation of Machine/Cvu.lean keeps what `Keeps` names. -/
namespace Sys2Proof.Machine

theorem setCvu_keeps {s0 : State} (s : State) (u : Nat) (x : Cvu) (kp : Keeps s0 s) :
    Keeps s0 (setCvu s u x) := by
  unfold setCvu
  repeat'
    first
    | with_reducible assumption | with_reducible exact id | with_reducible exact fun _ => id
    | with_reducible apply tput_twf | exact rfl | (intro _) | with_reducible apply Keeps.ite | split
    | dsimp only | fail_if_no_progress with_reducible apply Keeps.fields
    | with_reducible apply Keeps.ofCvus

theorem cvuClaim_keeps {s0 : State} (s : State) (c u : Nat) (kp : Keeps s0 s) :
    Keeps s0 (cvuClaim s c u) := by
  unfold cvuClaim
  repeat'
    first
    | with_reducible assumption | with_reducible exact id | with_reducible exact fun _ => id
    | with_reducible apply tput_twf | exact rfl | (intro _) | with_reducible apply setCvu_keeps
    | with_reducible apply Keeps.ite | split | dsimp only
    | fail_if_no_progress with_reducible apply Keeps.fields

theorem asOwner_keeps {s0 : State} (s : State) (c u : Nat) (f : State → State) (kp : Keeps s0 s) (hf : ∀ (x0 : State), Keeps s0 x0 → Keeps s0 (f x0)) :
    Keeps s0 (asOwner s c u f) := by
  unfold asOwner
  repeat'
    first
    | with_reducible assumption | apply hf | (intro _) | with_reducible apply latch_keeps
    | with_reducible apply Keeps.ite | split | dsimp only

theorem cvuFree_keeps {s0 : State} (s : State) (u : Nat) (kp : Keeps s0 s) :
    Keeps s0 (cvuFree s u) := by
  unfold cvuFree
  repeat'
    first
    | with_reducible assumption | with_reducible exact id | with_reducible exact fun _ => id
    | with_reducible apply tput_twf | exact rfl | (intro _) | with_reducible apply setCvu_keeps
    | with_reducible apply Keeps.ite | split | dsimp only
    | fail_if_no_progress with_reducible apply Keeps.fields

theorem cvuRelease_keeps {s0 : State} (s : State) (c u : Nat) (kp : Keeps s0 s) :
    Keeps s0 (cvuRelease s c u) := by
  unfold cvuRelease
  repeat'
    first
    | with_reducible assumption | (intro _) | with_reducible apply asOwner_keeps
    | with_reducible apply cvuFree_keeps | with_reducible apply Keeps.ite | split | dsimp only

theorem cvuStart_keeps {s0 : State} (s : State) (c u : Nat) (kp : Keeps s0 s) :
    Keeps s0 (cvuStart s c u) := by
  unfold cvuStart
  repeat'
    first
    | with_reducible assumption | with_reducible exact id | with_reducible exact fun _ => id
    | with_reducible apply tput_twf | exact rfl | (intro _) | with_reducible apply asOwner_keeps
    | with_reducible apply setCvu_keeps | with_reducible apply latch_keeps
    | with_reducible apply Keeps.ite | split | dsimp only
    | fail_if_no_progress with_reducible apply Keeps.fields

theorem cvuFeed_keeps {s0 : State} (s : State) (c u n : Nat) (v : Word) (kp : Keeps s0 s) :
    Keeps s0 (cvuFeed s c u n v) := by
  unfold cvuFeed
  repeat'
    first
    | with_reducible assumption | with_reducible exact id | with_reducible exact fun _ => id
    | with_reducible apply tput_twf | with_reducible apply foldl_twf | exact rfl | (intro _)
    | with_reducible apply asOwner_keeps | with_reducible apply setCvu_keeps
    | with_reducible apply Keeps.foldl | with_reducible apply Keeps.foldlPair
    | with_reducible apply Keeps.ite | split | dsimp only
    | fail_if_no_progress with_reducible apply Keeps.fields

theorem writeCvuCtrl_keeps {s0 : State} (s : State) (c u : Nat) (v : Word) (kp : Keeps s0 s) :
    Keeps s0 (writeCvuCtrl s c u v) := by
  unfold writeCvuCtrl
  repeat'
    first
    | with_reducible assumption | (intro _) | with_reducible apply cvuClaim_keeps
    | with_reducible apply cvuStart_keeps | with_reducible apply cvuRelease_keeps
    | with_reducible apply Keeps.ite | split | dsimp only

theorem fromCore_keeps {s0 : State} (src : Source) (s : State) (f : Nat → State) (kp : Keeps s0 s) (hf : ∀ (x0 : Nat), Keeps s0 (f x0)) :
    Keeps s0 (fromCore src s f) := by
  unfold fromCore
  repeat'
    first
    | with_reducible assumption | apply hf | (intro _) | with_reducible apply Keeps.ite | split
    | dsimp only

end Sys2Proof.Machine
end

