-- ==== Sys2Proof/Laws/KeepsTim.lean ====
section
/-! SUPPORT. Laws/KeepsTim.lean: every operation of Machine/Tim.lean keeps what `Keeps` names. -/
namespace Sys2Proof.Machine

/-- A step of device time is a time (R82). -/
theorem stepTime_sound {t : Tim} {d : Int} (h : t.sound) : (stepTime t d).sound := by
  obtain ⟨h1, h2, h3⟩ := h
  have hm : moveQ t.q d < timeWrap := by
    have h0 : (0 : Int) < (timeWrap : Int) := by decide
    have := Int.emod_lt_of_pos ((t.q : Int) + d) h0
    have h4 := Int.emod_nonneg ((t.q : Int) + d) (Int.ne_of_gt h0)
    unfold moveQ
    omega
  have hw : timeWrap = 2 ^ 48 * 4000000000 := rfl
  have hu : secUnits = 1000000000 * 2 ^ 32 := rfl
  refine ⟨?_, ?_, h3⟩
  · have : moveQ t.q d % 4000000000 < 4000000000 := Nat.mod_lt _ (by decide)
    have : t.acc % 2 ^ 30 < 2 ^ 30 := Nat.mod_lt _ (by decide)
    show moveQ t.q d % 4000000000 * 2 ^ 30 + t.acc % 2 ^ 30 < secUnits
    omega
  · show moveQ t.q d / 4000000000 < 2 ^ 48
    omega

/-- What TIM_SET_* loads is a time where TIM_SET_NSQ is below one second (R87). -/
theorem loadTime_sound {s : State} (h : s.sound) (hn : (reg s TIM_SET_NSQ).toNat < 4000000000) :
    (loadTime s).sound := by
  have hu : secUnits = 1000000000 * 2 ^ 32 := rfl
  refine ⟨?_, ?_, h.2.1.2.2⟩
  · show (reg s TIM_SET_NSQ).toNat * 2 ^ 30 < secUnits
    omega
  · have h1 : regFld s TIM_TIME_HI 15 0 < 2 ^ 16 := Nat.mod_lt _ (by decide)
    have h2 := (reg s TIM_SET_LO).isLt
    show regFld s TIM_TIME_HI 15 0 * 2 ^ 32 + (reg s TIM_SET_LO).toNat < 2 ^ 48
    omega

theorem reg_setReg {s : State} {a b : Nat} {v : Word} (h : s.sound) :
    reg (setReg s a v) b = if b = a then v else reg s b := tget_tput h.1

/-- Of the registers, abandoning a slew changes TIM_STATUS at most (R86). -/
theorem reg_abandonSlew {s : State} (h : s.sound) : reg (abandonSlew s) TIM_SET_NSQ = reg s TIM_SET_NSQ := by
  unfold abandonSlew latch setLatch
  split
  · rfl
  · have e : ∀ v, tget regReset (tput regReset s.regs TIM_STATUS v) TIM_SET_NSQ = tget regReset s.regs TIM_SET_NSQ :=
      fun v => (tget_tput h.1).trans rfl
    dsimp only
    split
    · exact e _
    · exact e _

theorem stepTime_canon {t : Tim} {d : Int} (h : t.canon) : (stepTime t d).canon := by
  unfold stepTime
  exact ⟨h.stamps, h.pulses, h.caps⟩

theorem loadTime_canon {s : State} (h : s.tim.canon) : (loadTime s).canon := by
  unfold loadTime
  exact ⟨h.stamps, h.pulses, h.caps⟩

theorem setTim_keeps {s0 : State} (s : State) (t : Tim) (kp : Keeps s0 s) (ht : s0.sound → s.sound → t.sound)
    (hc : s.tim.canon → t.canon) : Keeps s0 (setTim s t) := Keeps.tim kp ht hc

theorem setHoop_keeps {s0 : State} (s : State) (h : HoopGen) (kp : Keeps s0 s) :
    Keeps s0 (setHoop s h) := by
  unfold setHoop
  repeat'
    first
    | with_reducible assumption | with_reducible exact id | with_reducible exact fun _ => id
    | with_reducible apply tput_twf | exact rfl | (intro _) | with_reducible apply Keeps.ite | split
    | dsimp only | fail_if_no_progress with_reducible apply Keeps.fields

theorem setRefState_keeps {s0 : State} (s : State) (r : RefState) (kp : Keeps s0 s) :
    Keeps s0 (setRefState s r) := by
  unfold setRefState
  repeat'
    first
    | with_reducible assumption | with_reducible exact id | with_reducible exact fun _ => id
    | with_reducible apply tput_twf | exact rfl | (intro _) | with_reducible apply noticeBoth_keeps
    | with_reducible apply setHoop_keeps | with_reducible apply Keeps.ite | split | dsimp only
    | fail_if_no_progress with_reducible apply Keeps.fields

theorem syncPtpRef_keeps {s0 : State} (s : State) (kp : Keeps s0 s) :
    Keeps s0 (syncPtpRef s) := by
  unfold syncPtpRef
  repeat'
    first
    | with_reducible assumption | (intro _) | with_reducible apply setRefState_keeps
    | with_reducible apply Keeps.ite | split | dsimp only

theorem coastOn_keeps {s0 : State} (s : State) (kp : Keeps s0 s) :
    Keeps s0 (coastOn s) := by
  unfold coastOn
  repeat'
    first
    | with_reducible assumption | with_reducible exact id | with_reducible exact fun _ => id
    | with_reducible apply tput_twf | exact rfl | (intro _) | with_reducible apply setHoop_keeps
    | with_reducible apply Keeps.ite | split | dsimp only
    | fail_if_no_progress with_reducible apply Keeps.fields

theorem modeChanged_keeps {s0 : State} (s : State) (kp : Keeps s0 s) :
    Keeps s0 (modeChanged s) := by
  unfold modeChanged
  repeat'
    first
    | with_reducible assumption | with_reducible exact id | with_reducible exact fun _ => id
    | with_reducible apply tput_twf | exact rfl | (intro _) | with_reducible apply coastOn_keeps
    | with_reducible apply setHoop_keeps | with_reducible apply setRefState_keeps
    | with_reducible apply syncPtpRef_keeps | with_reducible apply Keeps.ite | split | dsimp only
    | fail_if_no_progress with_reducible apply Keeps.fields

theorem setTimMode_keeps {s0 : State} (s : State) (m : TimMode) (kp : Keeps s0 s) :
    Keeps s0 (setTimMode s m) := by
  unfold setTimMode
  repeat'
    first
    | with_reducible assumption | with_reducible exact id | with_reducible exact fun _ => id
    | with_reducible apply tput_twf | (intro a; cases a; apply Tim.canon.mk)
    | exact fun _ a => a.2.1 | exact rfl | (intro _) | with_reducible apply syncPtpRef_keeps
    | with_reducible apply noticeBoth_keeps | with_reducible apply setTim_keeps
    | with_reducible apply Keeps.ite | split | dsimp only
    | fail_if_no_progress with_reducible apply Keeps.fields

theorem writeMasterCtrl_keeps {s0 : State} (s : State) (v : Word) (kp : Keeps s0 s) :
    Keeps s0 (writeMasterCtrl s v) := by
  unfold writeMasterCtrl
  repeat'
    first
    | with_reducible assumption | (intro _) | with_reducible apply plainWrite_keeps
    | with_reducible apply latch_keeps | with_reducible apply setTimMode_keeps
    | with_reducible apply Keeps.ite | split | dsimp only

theorem announce_keeps {s0 : State} (s : State) (kp : Keeps s0 s) :
    Keeps s0 (announce s) := by
  unfold announce
  repeat'
    first
    | with_reducible assumption | with_reducible exact id | with_reducible exact fun _ => id
    | with_reducible apply tput_twf | (intro a; cases a; apply Tim.canon.mk)
    | exact fun _ a => a.2.1 | exact rfl | (intro _) | with_reducible apply setTimMode_keeps
    | with_reducible apply setTim_keeps | with_reducible apply Keeps.ite | split | dsimp only
    | fail_if_no_progress with_reducible apply Keeps.fields

theorem abandonSlew_keeps {s0 : State} (s : State) (kp : Keeps s0 s) :
    Keeps s0 (abandonSlew s) := by
  unfold abandonSlew
  repeat'
    first
    | with_reducible assumption | with_reducible exact id | with_reducible exact fun _ => id
    | with_reducible apply tput_twf | (intro a; cases a; apply Tim.canon.mk)
    | exact fun _ a => a.2.1 | exact rfl | (intro _) | with_reducible apply latch_keeps
    | with_reducible apply setTim_keeps | with_reducible apply Keeps.ite | split | dsimp only
    | fail_if_no_progress with_reducible apply Keeps.fields

theorem announceTimeout_keeps {s0 : State} (s : State) (kp : Keeps s0 s) :
    Keeps s0 (announceTimeout s) := by
  unfold announceTimeout
  repeat'
    first
    | with_reducible assumption | (intro _) | with_reducible apply runToCycle_keeps
    | with_reducible apply setTimMode_keeps | with_reducible apply abandonSlew_keeps
    | with_reducible apply Keeps.ite | split | dsimp only

theorem setPulse_keeps {s0 : State} (s : State) (i : Nat) (p : Pulse) (kp : Keeps s0 s) :
    Keeps s0 (setPulse s i p) := by
  unfold setPulse
  repeat'
    first
    | with_reducible assumption | with_reducible exact id | with_reducible exact fun _ => id
    | with_reducible apply tput_twf | (intro a; cases a; apply Tim.canon.mk)
    | exact fun _ a => a.2.1 | exact rfl | (intro _) | with_reducible apply setTim_keeps
    | with_reducible apply Keeps.ite | split | dsimp only
    | fail_if_no_progress with_reducible apply Keeps.fields

theorem pulseMissed_keeps {s0 : State} (s : State) (i edge : Nat) (kp : Keeps s0 s) :
    Keeps s0 (pulseMissed s i edge) := by
  unfold pulseMissed
  repeat'
    first
    | with_reducible assumption | (intro _) | with_reducible apply noticeBoth_keeps
    | with_reducible apply latch_keeps | with_reducible apply Keeps.ite | split | dsimp only

theorem armPulse_keeps {s0 : State} (s : State) (i : Nat) (kp : Keeps s0 s) :
    Keeps s0 (armPulse s i) := by
  unfold armPulse
  repeat'
    first
    | with_reducible assumption | with_reducible exact id | with_reducible exact fun _ => id
    | with_reducible apply tput_twf | (intro a; cases a; apply Cfg.canon.mk) | exact rfl | (intro _)
    | with_reducible apply latch_keeps | with_reducible apply pulseMissed_keeps
    | with_reducible apply setPulse_keeps | with_reducible apply Keeps.ite | split | dsimp only
    | fail_if_no_progress with_reducible apply Keeps.fields | with_reducible apply Keeps.ofCfg

theorem stopPulse_keeps {s0 : State} (s : State) (i : Nat) (kp : Keeps s0 s) :
    Keeps s0 (stopPulse s i) := by
  unfold stopPulse
  repeat'
    first
    | with_reducible assumption | with_reducible exact id | with_reducible exact fun _ => id
    | with_reducible apply tput_twf | (intro a; cases a; apply Cfg.canon.mk) | exact rfl | (intro _)
    | with_reducible apply setPulse_keeps | with_reducible apply Keeps.ite | split | dsimp only
    | fail_if_no_progress with_reducible apply Keeps.fields | with_reducible apply Keeps.ofCfg

theorem writePulseCtrl_keeps {s0 : State} (s : State) (i : Nat) (v : Word) (kp : Keeps s0 s) :
    Keeps s0 (writePulseCtrl s i v) := by
  unfold writePulseCtrl
  repeat'
    first
    | with_reducible assumption | (intro _) | with_reducible apply plainWrite_keeps
    | with_reducible apply armPulse_keeps | with_reducible apply stopPulse_keeps
    | with_reducible apply Keeps.ite | split | dsimp only

theorem emitTout_keeps {s0 : State} (s : State) (i : Nat) (level : Bool) (at_ : Nat) (kp : Keeps s0 s) :
    Keeps s0 (emitTout s i level at_) := by
  unfold emitTout
  repeat'
    first
    | with_reducible assumption | with_reducible exact id | with_reducible exact fun _ => id
    | with_reducible apply tput_twf | exact rfl | (intro _) | with_reducible apply Keeps.ite | split
    | dsimp only | fail_if_no_progress with_reducible apply Keeps.fields
    | with_reducible apply Keeps.fieldsSent | with_reducible apply Keeps.litSent

theorem firePulse_keeps {s0 : State} (s : State) (i : Nat) (kp : Keeps s0 s) :
    Keeps s0 (firePulse s i) := by
  unfold firePulse
  repeat'
    first
    | with_reducible assumption | with_reducible exact id | with_reducible exact fun _ => id
    | with_reducible apply tput_twf | (intro a; cases a; apply Cfg.canon.mk) | exact rfl | (intro _)
    | with_reducible apply emitTout_keeps | with_reducible apply setPulse_keeps
    | with_reducible apply Keeps.ite | split | dsimp only
    | fail_if_no_progress with_reducible apply Keeps.fields | with_reducible apply Keeps.ofCfg

theorem pulseEdge_keeps {s0 : State} (s : State) (i : Nat) (kp : Keeps s0 s) :
    Keeps s0 (pulseEdge s i) := by
  unfold pulseEdge
  repeat'
    first
    | with_reducible assumption | (intro _) | with_reducible apply firePulse_keeps
    | with_reducible apply runTo_keeps | with_reducible apply Keeps.ite | split | dsimp only

theorem pulseWidthEnd_keeps {s0 : State} (s : State) (i : Nat) (kp : Keeps s0 s) :
    Keeps s0 (pulseWidthEnd s i) := by
  unfold pulseWidthEnd
  repeat'
    first
    | with_reducible assumption | with_reducible exact id | with_reducible exact fun _ => id
    | with_reducible apply tput_twf | exact rfl | (intro _) | with_reducible apply runToCycle_keeps
    | with_reducible apply emitTout_keeps | with_reducible apply setPulse_keeps
    | with_reducible apply Keeps.ite | split | dsimp only
    | fail_if_no_progress with_reducible apply Keeps.fields

theorem pulseBoundary_keeps {s0 : State} (s : State) (b len : Nat) (kp : Keeps s0 s) :
    Keeps s0 (pulseBoundary s b len) := by
  unfold pulseBoundary
  repeat'
    first
    | with_reducible assumption | with_reducible exact id | with_reducible exact fun _ => id
    | with_reducible apply tput_twf | with_reducible apply foldl_twf | exact rfl | (intro _)
    | with_reducible apply pulseMissed_keeps | with_reducible apply setPulse_keeps
    | with_reducible apply Keeps.foldl | with_reducible apply Keeps.foldlPair
    | with_reducible apply Keeps.ite | split | dsimp only
    | fail_if_no_progress with_reducible apply Keeps.fields

theorem fireDue_keeps {s0 : State} (s : State) (kp : Keeps s0 s) :
    Keeps s0 (fireDue s) := by
  unfold fireDue
  repeat'
    first
    | with_reducible assumption | (intro _) | with_reducible apply firePulse_keeps
    | with_reducible apply Keeps.foldl | with_reducible apply Keeps.foldlPair
    | with_reducible apply Keeps.ite | split | dsimp only

theorem pulseStep_keeps {s0 : State} (s : State) (kp : Keeps s0 s) :
    Keeps s0 (pulseStep s) := by
  unfold pulseStep
  repeat'
    first
    | with_reducible assumption | with_reducible exact id | with_reducible exact fun _ => id
    | with_reducible apply tput_twf | with_reducible apply foldl_twf
    | (intro a; cases a; apply Cfg.canon.mk) | exact rfl | (intro _)
    | with_reducible apply pulseMissed_keeps | with_reducible apply setPulse_keeps
    | with_reducible apply Keeps.foldl | with_reducible apply Keeps.foldlPair
    | with_reducible apply Keeps.ite | split | dsimp only
    | fail_if_no_progress with_reducible apply Keeps.fields | with_reducible apply Keeps.ofCfg

theorem snap_keeps {s0 : State} (s : State) (kp : Keeps s0 s) :
    Keeps s0 (snap s) := by
  unfold snap
  repeat'
    first
    | with_reducible assumption | with_reducible exact id | with_reducible exact fun _ => id
    | with_reducible apply tput_twf | (intro a; cases a; apply Tim.canon.mk)
    | exact fun _ a => a.2.1 | exact rfl | (intro _) | with_reducible apply setTim_keeps
    | with_reducible apply Keeps.ite | split | dsimp only
    | fail_if_no_progress with_reducible apply Keeps.fields

theorem jumpBoundary_keeps {s0 : State} (s : State) (d : Int) (kp : Keeps s0 s) :
    Keeps s0 (jumpBoundary s d) := by
  unfold jumpBoundary
  repeat'
    first
    | with_reducible assumption | with_reducible exact id | with_reducible exact fun _ => id
    | with_reducible apply tput_twf | exact rfl | (intro _) | with_reducible apply running_keeps
    | with_reducible apply setHoop_keeps | with_reducible apply Keeps.ite | split | dsimp only
    | fail_if_no_progress with_reducible apply Keeps.fields

theorem firePulse_regs (s : State) (i : Nat) : (firePulse s i).regs = s.regs := by
  unfold firePulse
  repeat' first | rfl | split | dsimp only

/-- Judging the edges due changes no register. -/
theorem fireDue_regs (s : State) : (fireDue s).regs = s.regs := by
  unfold fireDue
  generalize List.range 8 = l
  suffices h : ∀ t : State, t.regs = s.regs → (l.foldl _ t).regs = s.regs from h s rfl
  induction l with
  | nil => exact fun _ h => h
  | cons i l ih =>
    refine fun t ht => ih _ ?_
    dsimp only
    repeat' split
    · exact (firePulse_regs t i).trans ht
    · exact ht
    · exact ht

theorem jump_keeps {s0 : State} (s : State) (set step : Bool) (kp : Keeps s0 s) :
    Keeps s0 (jump s set step) := by
  unfold jump
  split
  · exact latch_keeps _ _ _ kp
  · rename_i hg
    have ha := fireDue_keeps _ (abandonSlew_keeps s kp)
    dsimp only
    generalize hu : fireDue (abandonSlew s) = u at ha ⊢
    have hr : s.sound → reg u TIM_SET_NSQ = reg s TIM_SET_NSQ := fun b => by
      subst hu
      exact (congrArg (fun r => tget regReset r TIM_SET_NSQ) (fireDue_regs _)).trans (reg_abandonSlew b)
    have key : s0.sound → u.sound → (if set then loadTime u else u.tim).sound := by
      intro b a
      split
      · apply loadTime_sound a
        rw [hr (kp.sound b)]
        simp_all
      · exact a.2.1
    have key2 : s0.sound → u.sound → (if step then stepTime (if set then loadTime u
        else u.tim) (sext 32 (reg u TIM_STEP).toNat) else (if set then loadTime u else u.tim)).sound := by
      intro b a
      split
      · exact stepTime_sound (key b a)
      · exact key b a
    have key3 : u.tim.canon → (if step then stepTime (if set then loadTime u
        else u.tim) (sext 32 (reg u TIM_STEP).toNat) else (if set then loadTime u else u.tim)).canon := by
      intro a
      have hl : (if set then loadTime u else u.tim).canon := by
        split
        · exact loadTime_canon a
        · exact a
      split
      · exact stepTime_canon hl
      · exact hl
    have hs := pulseStep_keeps _ (jumpBoundary_keeps _ ((if set then (Tim.q (if set then loadTime u
        else u.tim) : Int) - u.tim.q else 0) +
        (if step then sext 32 (reg u TIM_STEP).toNat else 0)) (setTim_keeps _ _ ha key2 key3))
    exact Keeps.ite (noticeBoth_keeps _ _ _ _ hs) (noticeBoth_keeps _ _ _ _ (takeFree_keeps _ hs))

theorem adjGo_keeps {s0 : State} (s : State) (kp : Keeps s0 s) :
    Keeps s0 (adjGo s) := by
  unfold adjGo
  repeat'
    first
    | with_reducible assumption | with_reducible exact id | with_reducible exact fun _ => id
    | with_reducible apply tput_twf | (intro a; cases a; apply Tim.canon.mk)
    | exact fun _ a => a.2.1 | exact rfl | (intro _) | with_reducible apply setTim_keeps
    | with_reducible apply Keeps.ite | split | dsimp only
    | fail_if_no_progress with_reducible apply Keeps.fields

theorem writeTimCtrl_keeps {s0 : State} (s : State) (v : Word) (kp : Keeps s0 s) :
    Keeps s0 (writeTimCtrl s v) := by
  unfold writeTimCtrl
  repeat'
    first
    | with_reducible assumption | (intro _) | with_reducible apply plainWrite_keeps
    | with_reducible apply snap_keeps | with_reducible apply latch_keeps
    | with_reducible apply jump_keeps | with_reducible apply adjGo_keeps
    | with_reducible apply setTimMode_keeps | with_reducible apply Keeps.ite | split | dsimp only

theorem writeTimRate_keeps {s0 : State} (s : State) (v : Word) (kp : Keeps s0 s) :
    Keeps s0 (writeTimRate s v) := by
  unfold writeTimRate
  repeat'
    first
    | with_reducible assumption | (intro _) | with_reducible apply latch_keeps
    | with_reducible apply plainWrite_keeps | with_reducible apply Keeps.ite | split | dsimp only

theorem setStamps_keeps {s0 : State} (s : State) (p : Nat) (q : StampQueue) (kp : Keeps s0 s) :
    Keeps s0 (setStamps s p q) := by
  unfold setStamps
  repeat'
    first
    | with_reducible assumption | with_reducible exact id | with_reducible exact fun _ => id
    | with_reducible apply tput_twf | (intro a; cases a; apply Tim.canon.mk)
    | exact fun _ a => a.2.1 | exact rfl | (intro _) | with_reducible apply setTim_keeps
    | with_reducible apply Keeps.ite | split | dsimp only
    | fail_if_no_progress with_reducible apply Keeps.fields

theorem stamped_keeps {s0 : State} (s : State) (p id st r0 r1 : Nat) (kp : Keeps s0 s) :
    Keeps s0 (stamped s p id st r0 r1) := by
  unfold stamped
  repeat'
    first
    | with_reducible assumption | with_reducible exact id | with_reducible exact fun _ => id
    | with_reducible apply tput_twf | exact rfl | (intro _) | with_reducible apply finish_keeps
    | with_reducible apply Keeps.ite | split | dsimp only
    | fail_if_no_progress with_reducible apply Keeps.fields | with_reducible apply Keeps.ofMac

theorem pushStamp_keeps {s0 : State} (s : State) (p q : Nat) (dest : StampDest) (kp : Keeps s0 s) :
    Keeps s0 (pushStamp s p q dest) := by
  unfold pushStamp
  repeat'
    first
    | with_reducible assumption | with_reducible exact id | with_reducible exact fun _ => id
    | with_reducible apply tput_twf | exact rfl | (intro _) | with_reducible apply setStamps_keeps
    | with_reducible apply latch_keeps | with_reducible apply latchCount_keeps
    | with_reducible apply stamped_keeps | with_reducible apply Keeps.ite | split | dsimp only
    | fail_if_no_progress with_reducible apply Keeps.fields

theorem setCap_keeps {s0 : State} (s : State) (i : Nat) (c : Capture) (kp : Keeps s0 s) :
    Keeps s0 (setCap s i c) := by
  unfold setCap
  repeat'
    first
    | with_reducible assumption | with_reducible exact id | with_reducible exact fun _ => id
    | with_reducible apply tput_twf | (intro a; cases a; apply Tim.canon.mk)
    | exact fun _ a => a.2.1 | exact rfl | (intro _) | with_reducible apply setTim_keeps
    | with_reducible apply Keeps.ite | split | dsimp only
    | fail_if_no_progress with_reducible apply Keeps.fields

theorem timPost_keeps {s0 : State} (s : State) (ws : List Word) (kp : Keeps s0 s) :
    Keeps s0 (timPost s ws).2 := by
  unfold timPost
  repeat'
    first
    | with_reducible assumption | (intro _) | with_reducible apply directPost_keeps
    | (refine Keeps.ofEq ?_ (by assumption); with_reducible apply directPost_keeps)
    | with_reducible apply Keeps.ite | split | dsimp only

theorem capLostNotice_keeps {s0 : State} (s : State) (i : Nat) (kp : Keeps s0 s) :
    Keeps s0 (capLostNotice s i) := by
  unfold capLostNotice
  repeat'
    first
    | with_reducible assumption | with_reducible exact id | with_reducible exact fun _ => id
    | with_reducible apply tput_twf | exact rfl | (intro _) | with_reducible apply notice_keeps
    | with_reducible apply setCap_keeps | with_reducible apply timPost_keeps
    | (refine Keeps.ofEq ?_ (by assumption); with_reducible apply timPost_keeps)
    | with_reducible apply Keeps.ite | split | dsimp only
    | fail_if_no_progress with_reducible apply Keeps.fields

theorem captureEdge_keeps {s0 : State} (s : State) (i q elapsed : Nat) (falling : Bool) (kp : Keeps s0 s) :
    Keeps s0 (captureEdge s i q elapsed falling) := by
  unfold captureEdge
  repeat'
    first
    | with_reducible assumption | with_reducible exact id | with_reducible exact fun _ => id
    | with_reducible apply tput_twf | exact rfl | (intro _) | with_reducible apply setCap_keeps
    | with_reducible apply capLostNotice_keeps | with_reducible apply latch_keeps
    | with_reducible apply latchCount_keeps | with_reducible apply Keeps.ite | split | dsimp only
    | fail_if_no_progress with_reducible apply Keeps.fields

theorem stampLostNotice_keeps {s0 : State} (s : State) (p : Nat) (kp : Keeps s0 s) :
    Keeps s0 (stampLostNotice s p) := by
  unfold stampLostNotice
  repeat'
    first
    | with_reducible assumption | with_reducible exact id | with_reducible exact fun _ => id
    | with_reducible apply tput_twf | exact rfl | (intro _) | with_reducible apply notice_keeps
    | with_reducible apply setStamps_keeps | with_reducible apply timPost_keeps
    | (refine Keeps.ofEq ?_ (by assumption); with_reducible apply timPost_keeps)
    | with_reducible apply Keeps.ite | split | dsimp only
    | fail_if_no_progress with_reducible apply Keeps.fields

theorem postStamp_keeps {s0 t : State} (s : State) (p : Nat) (kp : Keeps s0 s)
    (e : postStamp s p = some t) : Keeps s0 t := by
  unfold postStamp at e
  dsimp only at e
  repeat' split at e
  · rename_i he
    injection e with e
    subst e
    exact stampLostNotice_keeps _ _ (setStamps_keeps _ _ _ (Keeps.ofEq (timPost_keeps _ _ kp) he))
  · cases e
  · injection e with e
    subst e
    exact stampLostNotice_keeps _ _ (setStamps_keeps _ _ _ (stamped_keeps _ _ _ _ _ _ kp))
  · rename_i he
    injection e with e
    subst e
    exact stampLostNotice_keeps _ _ (setStamps_keeps _ _ _ (Keeps.ofEq (timPost_keeps _ _ kp) he))
  · cases e
  · cases e

theorem postCapture_keeps {s0 t : State} (s : State) (i : Nat) (kp : Keeps s0 s)
    (e : postCapture s i = some t) : Keeps s0 t := by
  unfold postCapture at e
  dsimp only at e
  repeat' split at e
  · rename_i he
    injection e with e
    subst e
    exact capLostNotice_keeps _ _ (setCap_keeps _ _ _ (Keeps.ofEq (timPost_keeps _ _ kp) he))
  · cases e
  · rename_i he
    injection e with e
    subst e
    exact capLostNotice_keeps _ _ (setCap_keeps _ _ _ (Keeps.ofEq (timPost_keeps _ _ kp) he))
  · cases e
  · cases e

theorem stampPost_keeps {s0 : State} (s : State) (kp : Keeps s0 s) :
    Keeps s0 (stampPost s) := by
  unfold stampPost
  dsimp only
  cases hf : List.findSome? _ _ with
  | none => exact kp
  | some t =>
    obtain ⟨src, -, hs⟩ := List.exists_of_findSome?_eq_some hf
    rw [Option.map_eq_some_iff] at hs
    obtain ⟨u, hu, rfl⟩ := hs
    refine setTim_keeps _ _ ?_ (fun _ a => a.2.1) fun a => ⟨a.stamps, a.pulses, a.caps⟩
    split at hu
    · exact postStamp_keeps _ _ kp hu
    · exact postCapture_keeps _ _ kp hu

theorem judgeRef_keeps {s0 : State} (s : State) (good : Bool) (kp : Keeps s0 s) :
    Keeps s0 (judgeRef s good) := by
  unfold judgeRef
  repeat'
    first
    | with_reducible assumption | with_reducible exact id | with_reducible exact fun _ => id
    | with_reducible apply tput_twf | exact rfl | (intro _) | with_reducible apply setRefState_keeps
    | with_reducible apply setHoop_keeps | with_reducible apply coastOn_keeps
    | with_reducible apply Keeps.ite | split | dsimp only
    | fail_if_no_progress with_reducible apply Keeps.fields

theorem refEdge_keeps {s0 : State} (s : State) (q elapsed : Nat) (kp : Keeps s0 s) :
    Keeps s0 (refEdge s q elapsed) := by
  unfold refEdge
  repeat'
    first
    | with_reducible assumption | with_reducible exact id | with_reducible exact fun _ => id
    | with_reducible apply tput_twf | exact rfl | (intro _) | with_reducible apply setHoop_keeps
    | with_reducible apply Keeps.ite | split | dsimp only
    | fail_if_no_progress with_reducible apply Keeps.fields

theorem wclkNotice_keeps {s0 : State} (s : State) (kp : Keeps s0 s) :
    Keeps s0 (wclkNotice s) := by
  unfold wclkNotice
  repeat'
    first
    | with_reducible assumption | (intro _) | with_reducible apply noticeBoth_keeps
    | with_reducible apply Keeps.ite | split | dsimp only

theorem wclkActive_keeps {s0 : State} (s : State) (q elapsed : Nat) (kp : Keeps s0 s) :
    Keeps s0 (wclkActive s q elapsed) := by
  unfold wclkActive
  repeat'
    first
    | with_reducible assumption | with_reducible exact id | with_reducible exact fun _ => id
    | with_reducible apply tput_twf | (intro a; cases a; apply Tim.canon.mk)
    | exact fun _ a => a.2.1 | exact rfl | (intro _) | with_reducible apply setTim_keeps
    | with_reducible apply wclkNotice_keeps | with_reducible apply captureEdge_keeps
    | with_reducible apply refEdge_keeps | with_reducible apply setHoop_keeps
    | with_reducible apply judgeRef_keeps | with_reducible apply Keeps.ite | split | dsimp only
    | fail_if_no_progress with_reducible apply Keeps.fields

theorem wclkEdge_keeps {s0 : State} (s : State) (phase : Nat) (rising : Bool) (kp : Keeps s0 s) :
    Keeps s0 (wclkEdge s phase rising) := by
  unfold wclkEdge
  repeat'
    first
    | with_reducible assumption | (intro _) | with_reducible apply wclkActive_keeps
    | with_reducible apply Keeps.ite | split | dsimp only

theorem wclkTimeout_keeps {s0 : State} (s : State) (kp : Keeps s0 s) :
    Keeps s0 (wclkTimeout s) := by
  unfold wclkTimeout
  repeat'
    first
    | with_reducible assumption | with_reducible exact id | with_reducible exact fun _ => id
    | with_reducible apply tput_twf | (intro a; cases a; apply Tim.canon.mk)
    | exact fun _ a => a.2.1 | exact rfl | (intro _) | with_reducible apply runToCycle_keeps
    | with_reducible apply wclkNotice_keeps | with_reducible apply setTim_keeps
    | with_reducible apply judgeRef_keeps | with_reducible apply Keeps.ite | split | dsimp only
    | fail_if_no_progress with_reducible apply Keeps.fields

theorem pinEdge_keeps {s0 : State} (s : State) (q elapsed : Nat) (kp : Keeps s0 s) :
    Keeps s0 (pinEdge s q elapsed) := by
  unfold pinEdge
  repeat'
    first
    | with_reducible assumption | with_reducible exact id | with_reducible exact fun _ => id
    | with_reducible apply tput_twf | exact rfl | (intro _) | with_reducible apply setHoop_keeps
    | with_reducible apply refEdge_keeps | with_reducible apply judgeRef_keeps
    | with_reducible apply Keeps.ite | split | dsimp only
    | fail_if_no_progress with_reducible apply Keeps.fields

theorem tinEdge_keeps {s0 : State} (s : State) (i phase : Nat) (falling : Bool) (kp : Keeps s0 s) :
    Keeps s0 (tinEdge s i phase falling) := by
  unfold tinEdge
  repeat'
    first
    | with_reducible assumption | (intro _) | with_reducible apply captureEdge_keeps
    | with_reducible apply pinEdge_keeps | with_reducible apply Keeps.ite | split | dsimp only

theorem pinTimeout_keeps {s0 : State} (s : State) (kp : Keeps s0 s) :
    Keeps s0 (pinTimeout s) := by
  unfold pinTimeout
  repeat'
    first
    | with_reducible assumption | with_reducible exact id | with_reducible exact fun _ => id
    | with_reducible apply tput_twf | exact rfl | (intro _) | with_reducible apply runToCycle_keeps
    | with_reducible apply judgeRef_keeps | with_reducible apply setHoop_keeps
    | with_reducible apply Keeps.ite | split | dsimp only
    | fail_if_no_progress with_reducible apply Keeps.fields

end Sys2Proof.Machine
end

