-- ==== Sys2Proof/Laws/KeepsHif.lean ====
section
/-! SUPPORT. Laws/KeepsHif.lean: every operation of Machine/Hif.lean keeps what `Keeps` names. -/
namespace Sys2Proof.Machine

theorem setHif_keeps {s0 : State} (s : State) (h : Hif) (kp : Keeps s0 s) (hc : s0.canon → s.hif.canon → h.canon) :
    Keeps s0 (setHif s h) :=
  ⟨kp.pending, kp.sound, kp.out, kp.wear, fun b => (Keeps.ofHif kp (hc b)).canon b⟩

theorem release_keeps {s0 : State} (s : State) (id : Nat) (kp : Keeps s0 s) :
    Keeps s0 (release s id) := by
  unfold release
  repeat'
    first
    | with_reducible assumption | with_reducible exact id | with_reducible exact fun _ => id
    | with_reducible apply tput_twf | exact rfl | (intro _) | with_reducible apply finish_keeps
    | with_reducible apply settleFences_keeps | with_reducible apply running_keeps
    | with_reducible apply modTrack_keeps | with_reducible apply Keeps.ite | split | dsimp only
    | fail_if_no_progress with_reducible apply Keeps.fields

theorem noteInFlight_keeps {s0 : State} (s : State) (kp : Keeps s0 s) :
    Keeps s0 (noteInFlight s) := by
  unfold noteInFlight
  repeat'
    first
    | with_reducible assumption | with_reducible exact id | with_reducible exact fun _ => id
    | with_reducible apply tput_twf
    | (intro b a; cases a; cases (kp.canon b).hif; apply Hif.canon.mk) | exact rfl | (intro _)
    | with_reducible apply setRegFld_keeps | with_reducible apply notice_keeps
    | with_reducible apply setHif_keeps | with_reducible apply Keeps.ite | split | dsimp only
    | fail_if_no_progress with_reducible apply Keeps.fields

theorem fetchOne_keeps {s0 : State} (n : Nat) (s : State) (d : Desc) (kp : Keeps s0 s) :
    Keeps s0 (fetchOne n s d) := by
  unfold fetchOne
  repeat'
    first
    | with_reducible assumption | with_reducible exact id | with_reducible exact fun _ => id
    | with_reducible apply tput_twf
    | (intro b a; cases a; cases (kp.canon b).hif; apply Hif.canon.mk) | exact rfl | (intro _)
    | with_reducible apply setHif_keeps | with_reducible apply noteInFlight_keeps
    | with_reducible apply release_keeps | with_reducible apply Keeps.ite | split | dsimp only
    | fail_if_no_progress with_reducible apply Keeps.fields

theorem fetchSlots_keeps {s0 : State} (s : State) (n : Nat) (slots : List Desc) (kp : Keeps s0 s) :
    Keeps s0 (fetchSlots s n slots) := by
  unfold fetchSlots
  repeat'
    first
    | with_reducible assumption | with_reducible exact id | with_reducible exact fun _ => id
    | with_reducible apply tput_twf | with_reducible apply foldl_twf | exact rfl | (intro _)
    | with_reducible apply fetchOne_keeps | with_reducible apply Keeps.foldl
    | with_reducible apply Keeps.foldlPair | with_reducible apply Keeps.ite | split | dsimp only
    | fail_if_no_progress with_reducible apply Keeps.fields | with_reducible apply Keeps.fieldsSent
    | with_reducible apply Keeps.litSent

theorem fetch_keeps {s0 : State} (s : State) (slots : List Desc) (kp : Keeps s0 s) :
    Keeps s0 (fetch s slots) := by
  unfold fetch
  repeat'
    first
    | with_reducible assumption | with_reducible exact id | with_reducible exact fun _ => id
    | with_reducible apply tput_twf
    | (intro b a; cases a; cases (kp.canon b).hif; apply Hif.canon.mk) | exact rfl | (intro _)
    | with_reducible apply fetchSlots_keeps | with_reducible apply setHif_keeps
    | with_reducible apply Keeps.ite | split | dsimp only
    | fail_if_no_progress with_reducible apply Keeps.fields

theorem ringFault_keeps {s0 : State} (s : State) (n why addr : Nat) (kp : Keeps s0 s) :
    Keeps s0 (ringFault s n why addr) := by
  unfold ringFault
  repeat'
    first
    | with_reducible assumption | with_reducible exact id | with_reducible exact fun _ => id
    | with_reducible apply tput_twf
    | (intro b a; cases a; cases (kp.canon b).hif; apply Hif.canon.mk) | exact rfl | (intro _)
    | with_reducible apply noticeBoth_keeps | with_reducible apply setHif_keeps
    | with_reducible apply Keeps.ite | split | dsimp only
    | fail_if_no_progress with_reducible apply Keeps.fields

theorem fetchFail_keeps {s0 : State} (s : State) (addr : Nat) (kp : Keeps s0 s) :
    Keeps s0 (fetchFail s addr) := by
  unfold fetchFail
  repeat'
    first
    | with_reducible assumption | with_reducible exact id | with_reducible exact fun _ => id
    | with_reducible apply tput_twf
    | (intro b a; cases a; cases (kp.canon b).hif; apply Hif.canon.mk) | exact rfl | (intro _)
    | with_reducible apply ringFault_keeps | with_reducible apply setHif_keeps
    | with_reducible apply Keeps.ite | split | dsimp only
    | fail_if_no_progress with_reducible apply Keeps.fields

theorem writeHead_keeps {s0 : State} (s : State) (n : Nat) (kp : Keeps s0 s) :
    Keeps s0 (writeHead s n) := by
  unfold writeHead
  repeat'
    first
    | with_reducible assumption | with_reducible exact id | with_reducible exact fun _ => id
    | with_reducible apply tput_twf
    | (intro b a; cases a; cases (kp.canon b).hif; apply Hif.canon.mk) | exact rfl | (intro _)
    | with_reducible apply setHif_keeps | with_reducible apply Keeps.ite | split | dsimp only
    | fail_if_no_progress with_reducible apply Keeps.fields | with_reducible apply Keeps.fieldsSent
    | with_reducible apply Keeps.litSent

theorem pollIssue_keeps {s0 : State} (s : State) (kp : Keeps s0 s) :
    Keeps s0 (pollIssue s) := by
  unfold pollIssue
  repeat'
    first
    | with_reducible assumption | with_reducible exact id | with_reducible exact fun _ => id
    | with_reducible apply tput_twf | with_reducible apply foldl_twf
    | (intro b a; cases a; cases (kp.canon b).hif; apply Hif.canon.mk) | exact rfl | (intro _)
    | with_reducible apply runToCycle_keeps | with_reducible apply setHif_keeps
    | with_reducible apply writeHead_keeps | with_reducible apply Keeps.foldl
    | with_reducible apply Keeps.foldlPair | with_reducible apply Keeps.ite | split | dsimp only
    | fail_if_no_progress with_reducible apply Keeps.fields | with_reducible apply Keeps.fieldsSent
    | with_reducible apply Keeps.litSent

theorem takeTail_keeps {s0 : State} (s : State) (n : Nat) (v : Word) (kp : Keeps s0 s) :
    Keeps s0 (takeTail s n v) := by
  unfold takeTail
  repeat'
    first
    | with_reducible assumption | with_reducible exact id | with_reducible exact fun _ => id
    | with_reducible apply tput_twf
    | (intro b a; cases a; cases (kp.canon b).hif; apply Hif.canon.mk) | exact rfl | (intro _)
    | with_reducible apply ringFault_keeps | with_reducible apply setHif_keeps
    | with_reducible apply Keeps.ite | split | dsimp only
    | fail_if_no_progress with_reducible apply Keeps.fields

theorem takeRelease_keeps {s0 : State} (s : State) (m : Nat) (v : Word) (kp : Keeps s0 s) :
    Keeps s0 (takeRelease s m v) := by
  unfold takeRelease
  repeat'
    first
    | with_reducible assumption | with_reducible exact id | with_reducible exact fun _ => id
    | with_reducible apply tput_twf
    | (intro b a; cases a; cases (kp.canon b).hif; apply Hif.canon.mk) | exact rfl | (intro _)
    | with_reducible apply noticeBoth_keeps | with_reducible apply latch_keeps
    | with_reducible apply flushLost_keeps | with_reducible apply setHif_keeps
    | with_reducible apply release_keeps | with_reducible apply Keeps.ite | split | dsimp only
    | fail_if_no_progress with_reducible apply Keeps.fields

theorem pollReturn_keeps {s0 : State} (s : State) (ok : Bool) (tails releases : List Word) (addr : Nat) (kp : Keeps s0 s) :
    Keeps s0 (pollReturn s ok tails releases addr) := by
  unfold pollReturn
  repeat'
    first
    | with_reducible assumption | with_reducible exact id | with_reducible exact fun _ => id
    | with_reducible apply tput_twf | with_reducible apply foldl_twf
    | (intro b a; cases a; cases (kp.canon b).hif; apply Hif.canon.mk) | exact rfl | (intro _)
    | with_reducible apply setHif_keeps | with_reducible apply takeRelease_keeps
    | with_reducible apply takeTail_keeps | with_reducible apply noticeBoth_keeps
    | with_reducible apply latch_keeps | with_reducible apply Keeps.foldl
    | with_reducible apply Keeps.foldlPair | with_reducible apply Keeps.ite | split | dsimp only
    | fail_if_no_progress with_reducible apply Keeps.fields

theorem completionWrite_keeps {s0 : State} (s : State) (m : Nat) (kp : Keeps s0 s) :
    Keeps s0 (completionWrite s m) := by
  unfold completionWrite
  repeat'
    first
    | with_reducible assumption | with_reducible exact id | with_reducible exact fun _ => id
    | with_reducible apply tput_twf
    | (intro b a; cases a; cases (kp.canon b).hif; apply Hif.canon.mk) | exact rfl | (intro _)
    | with_reducible apply writeHead_keeps | with_reducible apply setHif_keeps
    | with_reducible apply dropTrack_keeps | with_reducible apply countRecord_keeps
    | with_reducible apply Keeps.ite | split | dsimp only
    | fail_if_no_progress with_reducible apply Keeps.fields | with_reducible apply Keeps.fieldsSent
    | with_reducible apply Keeps.litSent

theorem vectorTimer_keeps {s0 : State} (s : State) (v : Nat) (kp : Keeps s0 s) :
    Keeps s0 (vectorTimer s v) := by
  unfold vectorTimer
  repeat'
    first
    | with_reducible assumption | (intro _) | with_reducible apply signalVector_keeps
    | with_reducible apply runToCycle_keeps | with_reducible apply Keeps.ite | split | dsimp only

theorem msixUnmask_keeps {s0 : State} (s : State) (v : Nat) (kp : Keeps s0 s) :
    Keeps s0 (msixUnmask s v) := by
  have h1 := setReg_keeps _ (MSIX_CTRL v) 0 kp
  unfold msixUnmask
  dsimp only
  split
  · exact Keeps.fieldsSent (setVec_keeps _ v { vecOf (setReg s (MSIX_CTRL v) 0) v with pending := false } h1)
  · exact h1

theorem leaveWindow_keeps {s0 : State} (s : State) (id : Nat) (kp : Keeps s0 s) :
    Keeps s0 (leaveWindow s id) := by
  unfold leaveWindow
  repeat'
    first
    | with_reducible assumption | with_reducible exact id | with_reducible exact fun _ => id
    | with_reducible apply tput_twf | with_reducible apply filter_twf
    | (intro a; cases a; apply Keep.canon.mk) | exact rfl | (intro a; exact a) | (intro _)
    | with_reducible apply Keeps.ite | split | dsimp only
    | fail_if_no_progress with_reducible apply Keeps.fields | with_reducible apply Keeps.ofWin

theorem removeJobs_keeps {s0 : State} (s : State) (n : Nat) (ids : List Nat) (st : Nat) (kp : Keeps s0 s) :
    Keeps s0 (removeJobs s n ids st) := by
  unfold removeJobs
  repeat'
    first
    | with_reducible assumption | with_reducible exact id | with_reducible exact fun _ => id
    | with_reducible apply tput_twf | with_reducible apply foldl_twf | exact rfl | (intro _)
    | with_reducible apply settleRing_keeps | with_reducible apply decideOne_keeps
    | with_reducible apply leaveWindow_keeps | with_reducible apply modTrack_keeps
    | with_reducible apply Keeps.foldl | with_reducible apply Keeps.foldlPair
    | with_reducible apply Keeps.ite | split | dsimp only
    | fail_if_no_progress with_reducible apply Keeps.fields

theorem runAbort_keeps {s0 : State} (s : State) (id : Nat) (d : Desc) (kp : Keeps s0 s) :
    Keeps s0 (runAbort s id d) := by
  unfold runAbort
  repeat'
    first
    | with_reducible assumption | with_reducible exact id | with_reducible exact fun _ => id
    | with_reducible apply tput_twf | with_reducible apply filter_twf | exact rfl | (intro _)
    | with_reducible apply finish_keeps | with_reducible apply removeJobs_keeps
    | with_reducible apply modTrack_keeps | with_reducible apply Keeps.ite | split | dsimp only
    | fail_if_no_progress with_reducible apply Keeps.fields | with_reducible apply Keeps.ofLive

theorem badConfig_keeps {s0 : State} (s : State) (kp : Keeps s0 s) :
    Keeps s0 (badConfig s) := by
  unfold badConfig
  repeat'
    first
    | with_reducible assumption | (intro _) | with_reducible apply latch_keeps
    | with_reducible apply Keeps.ite | split | dsimp only

theorem disableRing_keeps {s0 : State} (s : State) (n : Nat) (kp : Keeps s0 s) :
    Keeps s0 (disableRing s n) := by
  unfold disableRing
  repeat'
    first
    | with_reducible assumption | with_reducible exact id | with_reducible exact fun _ => id
    | with_reducible apply tput_twf | with_reducible apply filter_twf
    | (intro b a; cases a; cases (kp.canon b).hif; apply Hif.canon.mk) | exact rfl | (intro _)
    | with_reducible apply setHif_keeps | with_reducible apply afterLeave_keeps
    | with_reducible apply removeJobs_keeps | with_reducible apply Keeps.ite | split | dsimp only
    | fail_if_no_progress with_reducible apply Keeps.fields | with_reducible apply Keeps.ofLive

theorem writeSqCtrl_keeps {s0 : State} (s : State) (n : Nat) (v : Word) (kp : Keeps s0 s) :
    Keeps s0 (writeSqCtrl s n v) := by
  unfold writeSqCtrl
  repeat'
    first
    | with_reducible assumption | with_reducible exact id | with_reducible exact fun _ => id
    | with_reducible apply tput_twf
    | (intro b a; cases a; cases (kp.canon b).hif; apply Hif.canon.mk) | exact rfl | (intro _)
    | with_reducible apply badConfig_keeps | with_reducible apply disableRing_keeps
    | with_reducible apply setReg_keeps | with_reducible apply setHif_keeps
    | with_reducible apply plainWrite_keeps | with_reducible apply Keeps.ite | split | dsimp only
    | fail_if_no_progress with_reducible apply Keeps.fields

theorem writeCqCtrl_keeps {s0 : State} (s : State) (m : Nat) (v : Word) (kp : Keeps s0 s) :
    Keeps s0 (writeCqCtrl s m v) := by
  unfold writeCqCtrl
  repeat'
    first
    | with_reducible assumption | with_reducible exact id | with_reducible exact fun _ => id
    | with_reducible apply tput_twf
    | (intro b a; cases a; cases (kp.canon b).hif; apply Hif.canon.mk) | exact rfl | (intro _)
    | with_reducible apply badConfig_keeps | with_reducible apply latch_keeps
    | with_reducible apply setReg_keeps | with_reducible apply setHif_keeps
    | with_reducible apply plainWrite_keeps | with_reducible apply release_keeps
    | with_reducible apply Keeps.ite | split | dsimp only
    | fail_if_no_progress with_reducible apply Keeps.fields

theorem writeBase_keeps {s0 : State} (s : State) (a : Nat) (enabled : Bool) (v : Word) (kp : Keeps s0 s) :
    Keeps s0 (writeBase s a enabled v) := by
  unfold writeBase
  repeat'
    first
    | with_reducible assumption | (intro _) | with_reducible apply badConfig_keeps
    | with_reducible apply plainWrite_keeps | with_reducible apply Keeps.ite | split | dsimp only

theorem writeHifCtrl_keeps {s0 : State} (s : State) (v : Word) (kp : Keeps s0 s) :
    Keeps s0 (writeHifCtrl s v) := by
  unfold writeHifCtrl
  repeat'
    first
    | with_reducible assumption | (intro _) | with_reducible apply flushLost_keeps
    | with_reducible apply plainWrite_keeps | with_reducible apply Keeps.ite | split | dsimp only

theorem dropRawStamps_keeps {s0 : State} (s : State) (kp : Keeps s0 s) :
    Keeps s0 (dropRawStamps s) := by
  unfold dropRawStamps
  repeat'
    first
    | with_reducible assumption | with_reducible exact id | with_reducible exact fun _ => id
    | with_reducible apply tput_twf | with_reducible apply filter_twf
    | with_reducible apply foldl_twf | exact rfl | (intro _) | with_reducible apply setStamps_keeps
    | with_reducible apply Keeps.foldl | with_reducible apply Keeps.foldlPair
    | with_reducible apply Keeps.ite | split | dsimp only
    | fail_if_no_progress with_reducible apply Keeps.fields

theorem hifReset_keeps {s0 : State} (s : State) (kp : Keeps s0 s) :
    Keeps s0 (hifReset s) := by
  have h1 := Keeps.latches (n := (dropRawStamps s).freshAt) (dropRawStamps_keeps s kp)
    (filter_twf (p := fun r => !(decide (0x8000 ≤ r.1 ∧ r.1 < 0x20000))))
    (filter_twf (p := fun r => !(decide (0x8000 ≤ r.1 ∧ r.1 < 0x20000))))
  unfold hifReset
  dsimp only
  generalize dropRawStamps s = t at *
  refine ⟨h1.pending, fun a => h1.sound a, h1.out, h1.wear, fun b => ?_⟩
  have a := h1.canon b
  exact { a with hif := ⟨rfl, rfl, rfl, rfl, rfl, rfl, rfl, rfl⟩, win := a.win }

theorem failPush_keeps {s0 : State} (s : State) (kp : Keeps s0 s) :
    Keeps s0 (failPush s) := by
  unfold failPush
  repeat'
    first
    | with_reducible assumption | with_reducible exact id | with_reducible exact fun _ => id
    | with_reducible apply tput_twf | exact rfl | (intro _) | with_reducible apply Keeps.ite | split
    | dsimp only | fail_if_no_progress with_reducible apply Keeps.fields

end Sys2Proof.Machine
end

