-- ==== Sys2Proof/Laws/KeepsHoop.lean ====
section
/-! SUPPORT. Laws/KeepsHoop.lean: every operation of Machine/Hoop.lean keeps what `Keeps` names. -/
namespace Sys2Proof.Machine

theorem fixNext_keeps {s0 : State} (s : State) (kp : Keeps s0 s) :
    Keeps s0 (fixNext s) := by
  unfold fixNext
  repeat'
    first
    | with_reducible assumption | with_reducible exact id | with_reducible exact fun _ => id
    | with_reducible apply tput_twf | exact rfl | (intro _) | with_reducible apply setHoop_keeps
    | with_reducible apply noticeBoth_keeps | with_reducible apply Keeps.ite | split | dsimp only
    | fail_if_no_progress with_reducible apply Keeps.fields

theorem startHoops_keeps {s0 : State} (s : State) (kp : Keeps s0 s) :
    Keeps s0 (startHoops s) := by
  unfold startHoops
  repeat'
    first
    | with_reducible assumption | with_reducible exact id | with_reducible exact fun _ => id
    | with_reducible apply tput_twf | (intro a; cases a; apply Egr.canon.mk) | exact rfl | (intro _)
    | with_reducible apply running_keeps | with_reducible apply setHoop_keeps
    | with_reducible apply Keeps.ite | split | dsimp only
    | fail_if_no_progress with_reducible apply Keeps.fields | with_reducible apply Keeps.ofEgr

theorem applyHoopRegs_keeps {s0 : State} (s : State) (kp : Keeps s0 s) :
    Keeps s0 (applyHoopRegs s) := by
  unfold applyHoopRegs
  repeat'
    first
    | with_reducible assumption | with_reducible exact id | with_reducible exact fun _ => id
    | with_reducible apply tput_twf | with_reducible apply foldl_twf | exact rfl | (intro _)
    | with_reducible apply setReg_keeps | with_reducible apply setHoop_keeps
    | with_reducible apply modeChanged_keeps | with_reducible apply coastOn_keeps
    | with_reducible apply Keeps.foldl | with_reducible apply Keeps.foldlPair
    | with_reducible apply Keeps.ite | split | dsimp only
    | fail_if_no_progress with_reducible apply Keeps.fields

theorem stopHoops_keeps {s0 : State} (s : State) (kp : Keeps s0 s) :
    Keeps s0 (stopHoops s) := by
  unfold stopHoops
  repeat'
    first
    | with_reducible assumption | with_reducible exact id | with_reducible exact fun _ => id
    | with_reducible apply tput_twf | (intro a; cases a; apply Egr.canon.mk) | exact rfl
    | (intro a; exact a) | (intro _) | with_reducible apply setHoop_keeps
    | with_reducible apply running_keeps | with_reducible apply noticeBoth_keeps
    | with_reducible apply Keeps.ite | split | dsimp only
    | fail_if_no_progress with_reducible apply Keeps.fields | with_reducible apply Keeps.ofWin
    | with_reducible apply Keeps.ofEgr | with_reducible apply Keeps.lit

theorem numberBoundary_keeps {s0 : State} (s : State) (kp : Keeps s0 s) :
    Keeps s0 (numberBoundary s) := by
  unfold numberBoundary
  repeat'
    first
    | with_reducible assumption | with_reducible exact id | with_reducible exact fun _ => id
    | with_reducible apply tput_twf | exact rfl | (intro _) | with_reducible apply setHoop_keeps
    | with_reducible apply noticeBoth_keeps | with_reducible apply Keeps.ite | split | dsimp only
    | fail_if_no_progress with_reducible apply Keeps.fields

theorem raiseBoundary_keeps {s0 : State} (s : State) (kp : Keeps s0 s) :
    Keeps s0 (raiseBoundary s) := by
  unfold raiseBoundary
  repeat'
    first
    | with_reducible assumption | with_reducible exact id | with_reducible exact fun _ => id
    | with_reducible apply tput_twf | exact rfl | (intro _)
    | with_reducible apply numberBoundary_keeps | with_reducible apply setHoop_keeps
    | with_reducible apply coastOn_keeps | with_reducible apply applyHoopRegs_keeps
    | with_reducible apply noticeBoth_keeps | with_reducible apply fixNext_keeps
    | with_reducible apply pulseBoundary_keeps | with_reducible apply occur_keeps
    | with_reducible apply Keeps.ite | split | dsimp only
    | fail_if_no_progress with_reducible apply Keeps.fields

theorem dueBoundary_keeps {s0 : State} (s : State) (kp : Keeps s0 s) :
    Keeps s0 (dueBoundary s) := by
  unfold dueBoundary
  repeat'
    first
    | with_reducible assumption | with_reducible exact id | with_reducible exact fun _ => id
    | with_reducible apply tput_twf | exact rfl | (intro _) | with_reducible apply running_keeps
    | with_reducible apply raiseBoundary_keeps | with_reducible apply setHoop_keeps
    | with_reducible apply Keeps.ite | split | dsimp only
    | fail_if_no_progress with_reducible apply Keeps.fields

theorem markAbort_keeps {s0 : State} (s : State) (cause port entry : Nat) (kp : Keeps s0 s) :
    Keeps s0 (markAbort s cause port entry) := by
  unfold markAbort
  repeat'
    first
    | with_reducible assumption | with_reducible exact id | with_reducible exact fun _ => id
    | with_reducible apply tput_twf | exact rfl | (intro _) | with_reducible apply latchCount_keeps
    | with_reducible apply setHoop_keeps | with_reducible apply noticeBoth_keeps
    | with_reducible apply Keeps.ite | split | dsimp only
    | fail_if_no_progress with_reducible apply Keeps.fields

theorem setStack_keeps {s0 : State} (s : State) (i : Nat) (x : Stack) (kp : Keeps s0 s) :
    Keeps s0 (setStack s i x) := by
  unfold setStack
  repeat'
    first
    | with_reducible assumption | with_reducible exact id | with_reducible exact fun _ => id
    | with_reducible apply tput_twf | exact rfl | (intro _) | with_reducible apply setHoop_keeps
    | with_reducible apply Keeps.ite | split | dsimp only
    | fail_if_no_progress with_reducible apply Keeps.fields

theorem stackDown_keeps {s0 : State} (s : State) (i : Nat) (goal : StackState) (kp : Keeps s0 s) :
    Keeps s0 (stackDown s i goal) := by
  unfold stackDown
  repeat'
    first
    | with_reducible assumption | with_reducible exact id | with_reducible exact fun _ => id
    | with_reducible apply tput_twf | exact rfl | (intro _) | with_reducible apply setStack_keeps
    | with_reducible apply Keeps.ite | split | dsimp only
    | fail_if_no_progress with_reducible apply Keeps.fields

theorem stackWake_keeps {s0 : State} (s : State) (i : Nat) (kp : Keeps s0 s) :
    Keeps s0 (stackWake s i) := by
  unfold stackWake
  repeat'
    first
    | with_reducible assumption | with_reducible exact id | with_reducible exact fun _ => id
    | with_reducible apply tput_twf | exact rfl | (intro _) | with_reducible apply setStack_keeps
    | with_reducible apply Keeps.ite | split | dsimp only
    | fail_if_no_progress with_reducible apply Keeps.fields

theorem stackRequest_keeps {s0 : State} (s : State) (i : Nat) (kp : Keeps s0 s) :
    Keeps s0 (stackRequest s i) := by
  unfold stackRequest
  repeat'
    first
    | with_reducible assumption | with_reducible exact id | with_reducible exact fun _ => id
    | with_reducible apply tput_twf | exact rfl | (intro _) | with_reducible apply setStack_keeps
    | with_reducible apply stackWake_keeps | with_reducible apply Keeps.ite | split | dsimp only
    | fail_if_no_progress with_reducible apply Keeps.fields

theorem memRequest_keeps {s0 : State} (s : State) (kp : Keeps s0 s) :
    Keeps s0 (memRequest s) := by
  unfold memRequest
  repeat'
    first
    | with_reducible assumption | (intro _) | with_reducible apply stackRequest_keeps
    | with_reducible apply Keeps.ite | split | dsimp only

theorem stackExitBegin_keeps {s0 : State} (s : State) (i : Nat) (request : Bool) (kp : Keeps s0 s) :
    Keeps s0 (stackExitBegin s i request) := by
  unfold stackExitBegin
  repeat'
    first
    | with_reducible assumption | (intro _) | with_reducible apply stackRequest_keeps
    | with_reducible apply stackWake_keeps | with_reducible apply Keeps.ite | split | dsimp only

theorem stackExitDone_keeps {s0 : State} (s : State) (i : Nat) (kp : Keeps s0 s) :
    Keeps s0 (stackExitDone s i) := by
  unfold stackExitDone
  repeat'
    first
    | with_reducible assumption | (intro _) | with_reducible apply runToCycle_keeps
    | with_reducible apply setStack_keeps | with_reducible apply Keeps.ite | split | dsimp only

theorem packageWrite_keeps {s0 : State} (s : State) (a : Nat) (v : Byte) (kp : Keeps s0 s) :
    Keeps s0 (packageWrite s a v) := by
  unfold packageWrite
  repeat'
    first
    | with_reducible assumption | with_reducible exact id | with_reducible exact fun _ => id
    | with_reducible apply tput_twf | (intro a; cases a; apply Lay.canon.mk) | exact rfl
    | (intro a; exact a) | (intro _) | with_reducible apply Keeps.ite | split | dsimp only
    | fail_if_no_progress with_reducible apply Keeps.fields | with_reducible apply Keeps.ofLay
    | with_reducible apply Keeps.ofStages | with_reducible apply Keeps.ofUpd
    | with_reducible apply Keeps.lit | with_reducible apply Keeps.package

theorem bar2Read_keeps {s0 : State} (s : State) (addr : Nat) (e : EccRead) (kp : Keeps s0 s) :
    Keeps s0 (bar2Read s addr e) := by
  unfold bar2Read
  repeat'
    first
    | with_reducible assumption | with_reducible exact id | with_reducible exact fun _ => id
    | with_reducible apply tput_twf | exact rfl | (intro _)
    | with_reducible apply stackRequest_keeps | with_reducible apply latch_keeps
    | with_reducible apply Keeps.ite | split | dsimp only
    | fail_if_no_progress with_reducible apply Keeps.fields

theorem timCtrlWrite_keeps {s0 : State} (s : State) (v : Word) (kp : Keeps s0 s) :
    Keeps s0 (timCtrlWrite s v) := by
  unfold timCtrlWrite
  repeat'
    first
    | with_reducible assumption | (intro _) | with_reducible apply writeTimCtrl_keeps
    | with_reducible apply dueBoundary_keeps | with_reducible apply Keeps.ite | split | dsimp only

end Sys2Proof.Machine
end

