-- ==== Sys2Proof/Laws/KeepsWindow.lean ====
section
/-! SUPPORT. Laws/KeepsWindow.lean: every operation of Machine/Window.lean keeps what `Keeps` names. -/
namespace Sys2Proof.Machine

theorem setWin_keeps {s0 : State} (s : State) (w : Window) (kp : Keeps s0 s) (hc : s0.canon → s.win.canon → w.canon) :
    Keeps s0 (setWin s w) :=
  ⟨kp.pending, kp.sound, kp.out, kp.wear, fun b => (Keeps.ofWin kp (hc b)).canon b⟩

theorem setPhase_keeps {s0 : State} (s : State) (m : Member) (p : Phase) (kp : Keeps s0 s) :
    Keeps s0 (setPhase s m p) := by
  unfold setPhase
  repeat'
    first
    | with_reducible assumption | with_reducible exact id | with_reducible exact fun _ => id
    | with_reducible apply tput_twf | exact rfl | (intro _) | with_reducible apply modTrack_keeps
    | with_reducible apply Keeps.ite | split | dsimp only
    | fail_if_no_progress with_reducible apply Keeps.fields

theorem finishMember_keeps {s0 : State} (s : State) (m : Member) (st r0 r1 : Nat) (hoop : Hoop) (kp : Keeps s0 s) :
    Keeps s0 (finishMember s m st r0 r1 hoop) := by
  unfold finishMember
  repeat'
    first
    | with_reducible assumption | (intro _) | with_reducible apply finishAt_keeps
    | with_reducible apply Keeps.ite | split | dsimp only

theorem joinNow_keeps {s0 : State} (s : State) (m : Member) (kp : Keeps s0 s) :
    Keeps s0 (joinNow s m) := by
  unfold joinNow
  repeat'
    first
    | with_reducible assumption | with_reducible exact id | with_reducible exact fun _ => id
    | with_reducible apply tput_twf | exact rfl | (intro _ a; exact a) | (intro _)
    | with_reducible apply setPhase_keeps | with_reducible apply setWin_keeps
    | with_reducible apply Keeps.ite | split | dsimp only
    | fail_if_no_progress with_reducible apply Keeps.fields

theorem join_keeps {s0 : State} (s : State) (m : Member) (kp : Keeps s0 s) :
    Keeps s0 (join s m) := by
  unfold join
  repeat'
    first
    | with_reducible assumption | with_reducible exact id | with_reducible exact fun _ => id
    | with_reducible apply tput_twf | exact rfl | (intro _ a; exact a) | (intro _)
    | with_reducible apply running_keeps | with_reducible apply setPhase_keeps
    | with_reducible apply setWin_keeps | with_reducible apply joinNow_keeps
    | with_reducible apply finishMember_keeps | with_reducible apply Keeps.ite | split | dsimp only
    | fail_if_no_progress with_reducible apply Keeps.fields

theorem joinTrack_keeps {s0 : State} (s : State) (id : Nat) (kp : Keeps s0 s) :
    Keeps s0 (joinTrack s id) := by
  unfold joinTrack
  repeat'
    first
    | with_reducible assumption | (intro _) | with_reducible apply join_keeps
    | with_reducible apply Keeps.ite | split | dsimp only

theorem releaseHeld_keeps {s0 : State} (s : State) (kp : Keeps s0 s) :
    Keeps s0 (releaseHeld s) := by
  unfold releaseHeld
  repeat'
    first
    | with_reducible assumption | with_reducible exact id | with_reducible exact fun _ => id
    | with_reducible apply tput_twf | with_reducible apply filter_twf
    | with_reducible apply foldl_twf | exact rfl | (intro _ a; exact a) | (intro _)
    | with_reducible apply join_keeps | with_reducible apply setWin_keeps
    | with_reducible apply Keeps.foldl | with_reducible apply Keeps.foldlPair
    | with_reducible apply Keeps.ite | split | dsimp only
    | fail_if_no_progress with_reducible apply Keeps.fields

theorem openWindow_keeps {s0 : State} (s : State) (kp : Keeps s0 s) :
    Keeps s0 (openWindow s) := by
  unfold openWindow
  repeat'
    first
    | with_reducible assumption | with_reducible exact id | with_reducible exact fun _ => id
    | with_reducible apply tput_twf | with_reducible apply foldl_twf | exact rfl
    | (intro _ a; exact a) | (intro _) | with_reducible apply releaseHeld_keeps
    | with_reducible apply join_keeps | with_reducible apply setWin_keeps
    | with_reducible apply Keeps.foldl | with_reducible apply Keeps.foldlPair
    | with_reducible apply Keeps.ite | split | dsimp only
    | fail_if_no_progress with_reducible apply Keeps.fields

end Sys2Proof.Machine
end

