-- ==== Sys2Proof/Laws/KeepsHandles.lean ====
section
/-! SUPPORT. Laws/KeepsHandles.lean: every operation of Machine/Handles.lean keeps what `Keeps` names. -/
namespace Sys2Proof.Machine

theorem setLay_keeps {s0 : State} (s : State) (l : Lay) (kp : Keeps s0 s) (hc : s0.canon → s.lay.canon → l.canon) :
    Keeps s0 (setLay s l) :=
  ⟨kp.pending, kp.sound, kp.out, kp.wear, fun b => (Keeps.ofLay kp (hc b)).canon b⟩

theorem setIng_keeps {s0 : State} (s : State) (g : Ing) (kp : Keeps s0 s) (hc : s0.canon → s.ing.canon → g.canon) :
    Keeps s0 (setIng s g) :=
  ⟨kp.pending, kp.sound, kp.out, kp.wear, fun b => (Keeps.ofIng kp (hc b)).canon b⟩

theorem setHandle_keeps {s0 : State} (s : State) (n : Nat) (h : Handle) (kp : Keeps s0 s) :
    Keeps s0 (setHandle s n h) := by
  unfold setHandle
  repeat'
    first
    | with_reducible assumption | with_reducible exact id | with_reducible exact fun _ => id
    | with_reducible apply tput_twf
    | (intro b a; cases a; cases (kp.canon b).lay; apply Lay.canon.mk) | exact rfl | (intro _)
    | with_reducible apply setLay_keeps | with_reducible apply Keeps.ite | split | dsimp only
    | fail_if_no_progress with_reducible apply Keeps.fields

theorem putPixel_keeps {s0 : State} (n : Nat) (s : State) (x : Nat × BitVec 64) (kp : Keeps s0 s) :
    Keeps s0 (putPixel n s x) := by
  unfold putPixel
  repeat'
    first
    | with_reducible assumption | with_reducible exact id | with_reducible exact fun _ => id
    | with_reducible apply tput_twf
    | (intro b a; cases a; cases (kp.canon b).lay; apply Lay.canon.mk) | exact rfl | (intro _)
    | with_reducible apply setLay_keeps | with_reducible apply Keeps.ite | split | dsimp only
    | fail_if_no_progress with_reducible apply Keeps.fields

theorem clearPixels_keeps {s0 : State} (s : State) (n : Nat) (kp : Keeps s0 s) :
    Keeps s0 (clearPixels s n) := by
  unfold clearPixels
  repeat'
    first
    | with_reducible assumption | with_reducible exact id | with_reducible exact fun _ => id
    | with_reducible apply tput_twf | with_reducible apply filter_twf
    | (intro b a; cases a; cases (kp.canon b).lay; apply Lay.canon.mk) | exact rfl | (intro _)
    | with_reducible apply setLay_keeps | with_reducible apply Keeps.ite | split | dsimp only
    | fail_if_no_progress with_reducible apply Keeps.fields

theorem pin_keeps {s0 : State} (s : State) (n : Nat) (b : Hoop) (kp : Keeps s0 s) :
    Keeps s0 (pin s n b) := by
  unfold pin
  repeat'
    first
    | with_reducible assumption | with_reducible exact id | with_reducible exact fun _ => id
    | with_reducible apply tput_twf | with_reducible apply filter_twf
    | (intro b a; cases a; cases (kp.canon b).ing; apply Ing.canon.mk) | exact rfl | (intro _)
    | with_reducible apply setIng_keeps | with_reducible apply Keeps.ite | split | dsimp only
    | fail_if_no_progress with_reducible apply Keeps.fields

theorem expirePins_keeps {s0 : State} (s : State) (b : Hoop) (kp : Keeps s0 s) :
    Keeps s0 (expirePins s b) := by
  unfold expirePins
  repeat'
    first
    | with_reducible assumption | with_reducible exact id | with_reducible exact fun _ => id
    | with_reducible apply tput_twf | with_reducible apply filter_twf
    | (intro b a; cases a; cases (kp.canon b).ing; apply Ing.canon.mk) | exact rfl | (intro _)
    | with_reducible apply setIng_keeps | with_reducible apply Keeps.ite | split | dsimp only
    | fail_if_no_progress with_reducible apply Keeps.fields

theorem retireOne_keeps {s0 : State} (s : State) (n : Nat) (kp : Keeps s0 s) :
    Keeps s0 (retireOne s n) := by
  unfold retireOne
  repeat'
    first
    | with_reducible assumption | with_reducible exact id | with_reducible exact fun _ => id
    | with_reducible apply tput_twf | exact rfl | (intro _) | with_reducible apply notice_keeps
    | with_reducible apply setHandle_keeps | with_reducible apply Keeps.ite | split | dsimp only
    | fail_if_no_progress with_reducible apply Keeps.fields

theorem retireHandles_keeps {s0 : State} (s : State) (due : Hoop → Bool) (kp : Keeps s0 s) :
    Keeps s0 (retireHandles s due) := by
  unfold retireHandles
  repeat'
    first
    | with_reducible assumption | (intro _) | with_reducible apply retireOne_keeps
    | with_reducible apply Keeps.foldl | with_reducible apply Keeps.foldlPair
    | with_reducible apply Keeps.ite | split | dsimp only

theorem retireAt_keeps {s0 : State} (s : State) (b : Hoop) (kp : Keeps s0 s) :
    Keeps s0 (retireAt s b) := by
  unfold retireAt
  repeat'
    first
    | with_reducible assumption | (intro _) | with_reducible apply retireHandles_keeps
    | with_reducible apply Keeps.ite | split | dsimp only

theorem releaseAll_keeps {s0 : State} (s : State) (kp : Keeps s0 s) :
    Keeps s0 (releaseAll s) := by
  unfold releaseAll
  repeat'
    first
    | with_reducible assumption | with_reducible exact id | with_reducible exact fun _ => id
    | with_reducible apply tput_twf | with_reducible apply tmap_twf
    | (intro b a; cases a; cases (kp.canon b).ing; apply Ing.canon.mk) | exact rfl | (intro _)
    | with_reducible apply setIng_keeps | with_reducible apply retireHandles_keeps
    | with_reducible apply Keeps.ite | split | dsimp only
    | fail_if_no_progress with_reducible apply Keeps.fields

theorem setFreePages_keeps {s0 : State} (s : State) (n : Nat) (kp : Keeps s0 s) :
    Keeps s0 (setFreePages s n) := by
  unfold setFreePages
  repeat'
    first
    | with_reducible assumption | with_reducible exact id | with_reducible exact fun _ => id
    | with_reducible apply tput_twf
    | (intro b a; cases a; cases (kp.canon b).lay; apply Lay.canon.mk) | exact rfl | (intro _)
    | with_reducible apply setLay_keeps | with_reducible apply noticeBoth_keeps
    | with_reducible apply Keeps.ite | split | dsimp only
    | fail_if_no_progress with_reducible apply Keeps.fields

theorem startAlloc_keeps {s0 : State} (s : State) (t : Track) (kp : Keeps s0 s) :
    Keeps s0 (startAlloc s t) := by
  unfold startAlloc
  repeat'
    first
    | with_reducible assumption | (intro _) | with_reducible apply finish_keeps
    | with_reducible apply setFreePages_keeps | with_reducible apply begin_keeps
    | with_reducible apply setHandle_keeps | with_reducible apply Keeps.ite | split | dsimp only

theorem fillComplete_keeps {s0 : State} (s : State) (n : Nat) (kp : Keeps s0 s) :
    Keeps s0 (fillComplete s n) := by
  unfold fillComplete
  repeat'
    first
    | with_reducible assumption | with_reducible exact id | with_reducible exact fun _ => id
    | with_reducible apply tput_twf | exact rfl | (intro _) | with_reducible apply setHandle_keeps
    | with_reducible apply clearPixels_keeps | with_reducible apply finish_keeps
    | with_reducible apply Keeps.ite | split | dsimp only
    | fail_if_no_progress with_reducible apply Keeps.fields

theorem startFree_keeps {s0 : State} (s : State) (t : Track) (kp : Keeps s0 s) :
    Keeps s0 (startFree s t) := by
  unfold startFree
  repeat'
    first
    | with_reducible assumption | with_reducible exact id | with_reducible exact fun _ => id
    | with_reducible apply tput_twf
    | (intro b a; cases a; cases (kp.canon b).ing; apply Ing.canon.mk) | exact rfl | (intro _)
    | with_reducible apply finish_keeps | with_reducible apply setIng_keeps
    | with_reducible apply setFreePages_keeps | with_reducible apply setHandle_keeps
    | with_reducible apply clearPixels_keeps | with_reducible apply Keeps.ite | split | dsimp only
    | fail_if_no_progress with_reducible apply Keeps.fields

end Sys2Proof.Machine
end

