-- ==== Sys2Proof/Laws/KeepsIng.lean ====
section
/-! SUPPORT. Laws/KeepsIng.lean: every operation of Machine/Ing.lean keeps what `Keeps` names. -/
namespace Sys2Proof.Machine

theorem stepIndex_keeps {s0 : State} (s : State) (kp : Keeps s0 s) :
    Keeps s0 (stepIndex s) := by
  unfold stepIndex
  repeat'
    first
    | with_reducible assumption | (intro _) | with_reducible apply setRegFld_keeps
    | with_reducible apply Keeps.ite | split | dsimp only

theorem curveWrite_keeps {s0 : State} (s : State) (v : Word) (kp : Keeps s0 s) :
    Keeps s0 (curveWrite s v) := by
  unfold curveWrite
  repeat'
    first
    | with_reducible assumption | with_reducible exact id | with_reducible exact fun _ => id
    | with_reducible apply tput_twf
    | (intro b a; cases a; cases (kp.canon b).ing; apply Ing.canon.mk) | exact rfl | (intro _)
    | with_reducible apply latch_keeps | with_reducible apply stepIndex_keeps
    | with_reducible apply setIng_keeps | with_reducible apply Keeps.ite | split | dsimp only
    | fail_if_no_progress with_reducible apply Keeps.fields

theorem curveRead_keeps {s0 : State} (s : State) (kp : Keeps s0 s) :
    Keeps s0 (curveRead s) := by
  unfold curveRead
  repeat'
    first
    | with_reducible assumption | with_reducible exact id | with_reducible exact fun _ => id
    | with_reducible apply tput_twf | exact rfl | (intro _) | with_reducible apply stepIndex_keeps
    | with_reducible apply Keeps.ite | split | dsimp only
    | fail_if_no_progress with_reducible apply Keeps.fields

theorem setSess_keeps {s0 : State} (s : State) (k : Nat) (x : SessRt) (kp : Keeps s0 s) :
    Keeps s0 (setSess s k x) := by
  unfold setSess
  repeat'
    first
    | with_reducible assumption | with_reducible exact id | with_reducible exact fun _ => id
    | with_reducible apply tput_twf
    | (intro b a; cases a; cases (kp.canon b).ing; apply Ing.canon.mk) | exact rfl | (intro _)
    | with_reducible apply setIng_keeps | with_reducible apply Keeps.ite | split | dsimp only
    | fail_if_no_progress with_reducible apply Keeps.fields

theorem dropPacket_keeps {s0 : State} (s : State) (k : Nat) (kp : Keeps s0 s) :
    Keeps s0 (dropPacket s k) := by
  unfold dropPacket
  repeat'
    first
    | with_reducible assumption | (intro _) | with_reducible apply latchCount_keeps
    | with_reducible apply Keeps.ite | split | dsimp only

theorem skipFrames_keeps {s0 : State} (s : State) (k n : Nat) (kp : Keeps s0 s) :
    Keeps s0 (skipFrames s k n) := by
  unfold skipFrames
  repeat'
    first
    | with_reducible assumption | (intro _) | with_reducible apply latchCount_keeps
    | with_reducible apply Keeps.ite | split | dsimp only

theorem incomplete_keeps {s0 : State} (s : State) (k : Nat) (kp : Keeps s0 s) :
    Keeps s0 (incomplete s k) := by
  unfold incomplete
  repeat'
    first
    | with_reducible assumption | (intro _) | with_reducible apply latchCount_keeps
    | with_reducible apply Keeps.ite | split | dsimp only

theorem formatError_keeps {s0 : State} (s : State) (k why : Nat) (kp : Keeps s0 s) :
    Keeps s0 (formatError s k why) := by
  unfold formatError
  repeat'
    first
    | with_reducible assumption | with_reducible exact id | with_reducible exact fun _ => id
    | with_reducible apply tput_twf | exact rfl | (intro _) | with_reducible apply noticeBoth_keeps
    | with_reducible apply setSess_keeps | with_reducible apply Keeps.ite | split | dsimp only
    | fail_if_no_progress with_reducible apply Keeps.fields

theorem abandonFrame_keeps {s0 : State} (s : State) (k : Nat) (kp : Keeps s0 s) :
    Keeps s0 (abandonFrame s k) := by
  unfold abandonFrame
  repeat'
    first
    | with_reducible assumption | with_reducible exact id | with_reducible exact fun _ => id
    | with_reducible apply tput_twf | exact rfl | (intro _) | with_reducible apply setSess_keeps
    | with_reducible apply incomplete_keeps | with_reducible apply Keeps.ite | split | dsimp only
    | fail_if_no_progress with_reducible apply Keeps.fields

theorem chooseHandle_keeps {s0 : State} (s : State) (k : Nat) (kp : Keeps s0 s) :
    Keeps s0 (chooseHandle s k).2 := by
  unfold chooseHandle
  repeat'
    first
    | with_reducible assumption | with_reducible exact id | with_reducible exact fun _ => id
    | with_reducible apply tput_twf | with_reducible apply filter_twf
    | with_reducible apply foldl_twf | exact rfl | (intro _) | with_reducible apply skipFrames_keeps
    | with_reducible apply setSess_keeps | with_reducible apply Keeps.foldl
    | with_reducible apply Keeps.foldlPair | with_reducible apply Keeps.ite | split | dsimp only
    | fail_if_no_progress with_reducible apply Keeps.fields

theorem startFrame_keeps {s0 : State} (s : State) (k ts : Nat) (kp : Keeps s0 s) :
    Keeps s0 (startFrame s k ts) := by
  unfold startFrame
  repeat'
    first
    | with_reducible assumption | with_reducible exact id | with_reducible exact fun _ => id
    | with_reducible apply tput_twf | exact rfl | (intro _)
    | with_reducible apply abandonFrame_keeps | with_reducible apply chooseHandle_keeps
    | (refine Keeps.ofEq ?_ (by assumption); with_reducible apply chooseHandle_keeps)
    | with_reducible apply setSess_keeps | with_reducible apply incomplete_keeps
    | with_reducible apply Keeps.ite | split | dsimp only
    | fail_if_no_progress with_reducible apply Keeps.fields

theorem modFrame_keeps {s0 : State} (s : State) (k : Nat) (g : Frame → Frame) (kp : Keeps s0 s) :
    Keeps s0 (modFrame s k g) := by
  unfold modFrame
  repeat'
    first
    | with_reducible assumption | with_reducible exact id | with_reducible exact fun _ => id
    | with_reducible apply tput_twf | exact rfl | (intro _) | with_reducible apply setSess_keeps
    | with_reducible apply Keeps.ite | split | dsimp only
    | fail_if_no_progress with_reducible apply Keeps.fields

theorem storeYcc_keeps {s0 : State} (k q : Nat) (s : State) (kp : Keeps s0 s) :
    Keeps s0 (storeYcc k q s) := by
  unfold storeYcc
  repeat'
    first
    | with_reducible assumption | (intro _) | with_reducible apply putPixel_keeps
    | with_reducible apply Keeps.ite | split | dsimp only

theorem storePgroup_keeps {s0 : State} (k : Nat) (s : State) (x : Nat × List Byte) (kp : Keeps s0 s) :
    Keeps s0 (storePgroup k s x) := by
  unfold storePgroup
  repeat'
    first
    | with_reducible assumption | with_reducible exact id | with_reducible exact fun _ => id
    | with_reducible apply tput_twf | with_reducible apply foldl_twf | exact rfl | (intro _)
    | with_reducible apply modFrame_keeps | with_reducible apply storeYcc_keeps
    | with_reducible apply putPixel_keeps | with_reducible apply Keeps.foldl
    | with_reducible apply Keeps.foldlPair | with_reducible apply Keeps.ite | split | dsimp only
    | fail_if_no_progress with_reducible apply Keeps.fields

theorem badPacket_keeps {s0 : State} (s : State) (k why : Nat) (kp : Keeps s0 s) :
    Keeps s0 (badPacket s k why) := by
  unfold badPacket
  repeat'
    first
    | with_reducible assumption | with_reducible exact id | with_reducible exact fun _ => id
    | with_reducible apply tput_twf | exact rfl | (intro _) | with_reducible apply formatError_keeps
    | with_reducible apply modFrame_keeps | with_reducible apply dropPacket_keeps
    | with_reducible apply Keeps.ite | split | dsimp only
    | fail_if_no_progress with_reducible apply Keeps.fields

theorem portOverflow_keeps {s0 : State} (s : State) (p : Nat) (kp : Keeps s0 s) :
    Keeps s0 (portOverflow s p) := by
  unfold portOverflow
  repeat'
    first
    | with_reducible assumption | with_reducible exact id | with_reducible exact fun _ => id
    | with_reducible apply tput_twf
    | (intro b a; cases a; cases (kp.canon b).ing; apply Ing.canon.mk) | exact rfl | (intro _)
    | with_reducible apply latchCount_keeps | with_reducible apply setIng_keeps
    | with_reducible apply noticeBoth_keeps | with_reducible apply Keeps.ite | split | dsimp only
    | fail_if_no_progress with_reducible apply Keeps.fields

theorem framePacket_keeps {s0 : State} (s : State) (k q : Nat) (marker : Bool) (ptBad : Bool) (hs : List (Nat × Bool × Nat × Nat)) (payload : List Byte) (full : Bool) (kp : Keeps s0 s) :
    Keeps s0 (framePacket s k q marker ptBad hs payload full) := by
  unfold framePacket
  repeat'
    first
    | with_reducible assumption | with_reducible exact id | with_reducible exact fun _ => id
    | with_reducible apply tput_twf | with_reducible apply foldl_twf | exact rfl | (intro _)
    | with_reducible apply dropPacket_keeps | with_reducible apply badPacket_keeps
    | with_reducible apply modFrame_keeps | with_reducible apply portOverflow_keeps
    | with_reducible apply storePgroup_keeps | with_reducible apply Keeps.foldl
    | with_reducible apply Keeps.foldlPair | with_reducible apply Keeps.ite | split | dsimp only
    | fail_if_no_progress with_reducible apply Keeps.fields

theorem ssrcTake_keeps {s0 : State} (s : State) (k ssrc : Nat) (kp : Keeps s0 s) :
    Keeps s0 (ssrcTake s k ssrc).2 := by
  unfold ssrcTake
  repeat'
    first
    | with_reducible assumption | with_reducible exact id | with_reducible exact fun _ => id
    | with_reducible apply tput_twf | exact rfl | (intro _) | with_reducible apply setSess_keeps
    | with_reducible apply dropPacket_keeps | with_reducible apply noticeBoth_keeps
    | with_reducible apply Keeps.ite | split | dsimp only
    | fail_if_no_progress with_reducible apply Keeps.fields

theorem sessionPacket_keeps {s0 : State} (s : State) (k : Nat) (rtp : List Byte) (full : Bool) (kp : Keeps s0 s) :
    Keeps s0 (sessionPacket s k rtp full) := by
  unfold sessionPacket
  repeat'
    first
    | with_reducible assumption | (intro _) | with_reducible apply dropPacket_keeps
    | with_reducible apply ssrcTake_keeps
    | (refine Keeps.ofEq ?_ (by assumption); with_reducible apply ssrcTake_keeps)
    | with_reducible apply startFrame_keeps | with_reducible apply badPacket_keeps
    | with_reducible apply framePacket_keeps | with_reducible apply Keeps.ite | split | dsimp only

theorem frameComplete_keeps {s0 : State} (s : State) (k : Nat) (kp : Keeps s0 s) :
    Keeps s0 (frameComplete s k) := by
  unfold frameComplete
  repeat'
    first
    | with_reducible assumption | with_reducible exact id | with_reducible exact fun _ => id
    | with_reducible apply tput_twf
    | (intro b a; cases a; cases (kp.canon b).ing; apply Ing.canon.mk) | exact rfl | (intro _)
    | with_reducible apply setIng_keeps | with_reducible apply setSess_keeps
    | with_reducible apply Keeps.ite | split | dsimp only
    | fail_if_no_progress with_reducible apply Keeps.fields

theorem setSessState_keeps {s0 : State} (s : State) (k : Nat) (st : SessState) (kp : Keeps s0 s) :
    Keeps s0 (setSessState s k st) := by
  unfold setSessState
  repeat'
    first
    | with_reducible assumption | with_reducible exact id | with_reducible exact fun _ => id
    | with_reducible apply tput_twf | exact rfl | (intro _) | with_reducible apply noticeBoth_keeps
    | with_reducible apply setSess_keeps | with_reducible apply Keeps.ite | split | dsimp only
    | fail_if_no_progress with_reducible apply Keeps.fields

theorem ssrcAge_keeps {s0 : State} (s : State) (k : Nat) (kp : Keeps s0 s) :
    Keeps s0 (ssrcAge s k) := by
  unfold ssrcAge
  repeat'
    first
    | with_reducible assumption | with_reducible exact id | with_reducible exact fun _ => id
    | with_reducible apply tput_twf | exact rfl | (intro _) | with_reducible apply setSess_keeps
    | with_reducible apply Keeps.ite | split | dsimp only
    | fail_if_no_progress with_reducible apply Keeps.fields

theorem sessionDeadline_keeps {s0 : State} (s : State) (k : Nat) (kp : Keeps s0 s) :
    Keeps s0 (sessionDeadline s k) := by
  unfold sessionDeadline
  repeat'
    first
    | with_reducible assumption | with_reducible exact id | with_reducible exact fun _ => id
    | with_reducible apply tput_twf | with_reducible apply filter_twf | exact rfl | (intro _)
    | with_reducible apply ssrcAge_keeps | with_reducible apply skipFrames_keeps
    | with_reducible apply setSess_keeps | with_reducible apply setSessState_keeps
    | with_reducible apply pin_keeps | with_reducible apply Keeps.ite | split | dsimp only
    | fail_if_no_progress with_reducible apply Keeps.fields

theorem setSource_keeps {s0 : State} (s : State) (l : Nat) (x : SourceRt) (kp : Keeps s0 s) :
    Keeps s0 (setSource s l x) := by
  unfold setSource
  repeat'
    first
    | with_reducible assumption | with_reducible exact id | with_reducible exact fun _ => id
    | with_reducible apply tput_twf
    | (intro b a; cases a; cases (kp.canon b).ing; apply Ing.canon.mk) | exact rfl | (intro _)
    | with_reducible apply setIng_keeps | with_reducible apply Keeps.ite | split | dsimp only
    | fail_if_no_progress with_reducible apply Keeps.fields

theorem judge_keeps {s0 : State} (s : State) (l n : Nat) (kp : Keeps s0 s) :
    Keeps s0 (judge s l n).2 := by
  unfold judge
  repeat'
    first
    | with_reducible assumption | with_reducible exact id | with_reducible exact fun _ => id
    | with_reducible apply tput_twf
    | (intro b a; cases a; cases (kp.canon b).ing; apply Ing.canon.mk) | exact rfl | (intro _)
    | with_reducible apply setIng_keeps | with_reducible apply pin_keeps
    | with_reducible apply Keeps.ite | split | dsimp only
    | fail_if_no_progress with_reducible apply Keeps.fields

theorem sourceDeadline_keeps {s0 : State} (s : State) (l : Nat) (kp : Keeps s0 s) :
    Keeps s0 (sourceDeadline s l) := by
  unfold sourceDeadline
  repeat'
    first
    | with_reducible assumption | with_reducible exact id | with_reducible exact fun _ => id
    | with_reducible apply tput_twf | with_reducible apply foldl_twf
    | (intro a; cases a; apply Run.canon.mk) | exact rfl | (intro _)
    | with_reducible apply judge_keeps
    | (refine Keeps.ofEq ?_ (by assumption); with_reducible apply judge_keeps)
    | with_reducible apply setSource_keeps | with_reducible apply Keeps.foldl
    | with_reducible apply Keeps.foldlPair | with_reducible apply Keeps.ite | split | dsimp only
    | fail_if_no_progress with_reducible apply Keeps.fields | with_reducible apply Keeps.ofRun

theorem dropOffer_keeps {s0 : State} (s : State) (k : Nat) (kp : Keeps s0 s) :
    Keeps s0 (dropOffer s k) := by
  unfold dropOffer
  repeat'
    first
    | with_reducible assumption | with_reducible exact id | with_reducible exact fun _ => id
    | with_reducible apply tput_twf | exact rfl | (intro _) | with_reducible apply setSess_keeps
    | with_reducible apply Keeps.ite | split | dsimp only
    | fail_if_no_progress with_reducible apply Keeps.fields

theorem ingestDeadline_keeps {s0 : State} (s : State) (kp : Keeps s0 s) :
    Keeps s0 (ingestDeadline s) := by
  unfold ingestDeadline
  repeat'
    first
    | with_reducible assumption | (intro _) | with_reducible apply running_keeps
    | with_reducible apply runTo_keeps | with_reducible apply dropOffer_keeps
    | with_reducible apply sessionDeadline_keeps | with_reducible apply sourceDeadline_keeps
    | with_reducible apply Keeps.foldl | with_reducible apply Keeps.foldlPair
    | with_reducible apply Keeps.ite | split | dsimp only

end Sys2Proof.Machine
end

