-- ==== Sys2Proof/Laws/KeepsImages.lean ====
section
/-! SUPPORT. Laws/KeepsImages.lean: every operation of Machine/Images.lean keeps what `Keeps` names. -/
namespace Sys2Proof.Machine

theorem startWrite_keeps {s0 : State} (s : State) (t : Track) (kp : Keeps s0 s) :
    Keeps s0 (startWrite s t) := by
  unfold startWrite
  repeat'
    first
    | with_reducible assumption | (intro _) | with_reducible apply finish_keeps
    | with_reducible apply begin_keeps | with_reducible apply Keeps.ite | split | dsimp only

theorem writeLine_keeps {s0 : State} (d : Desc) (data : List Byte) (s : State) (y : Nat) (kp : Keeps s0 s) :
    Keeps s0 (writeLine d data s y) := by
  unfold writeLine
  repeat'
    first
    | with_reducible assumption | (intro _) | with_reducible apply putPixel_keeps
    | with_reducible apply Keeps.foldl | with_reducible apply Keeps.foldlPair
    | with_reducible apply Keeps.ite | split | dsimp only

theorem writeLines_keeps {s0 : State} (s : State) (d : Desc) (data : List Byte) (kp : Keeps s0 s) :
    Keeps s0 (writeLines s d data) := by
  unfold writeLines
  repeat'
    first
    | with_reducible assumption | (intro _) | with_reducible apply writeLine_keeps
    | with_reducible apply Keeps.foldl | with_reducible apply Keeps.foldlPair
    | with_reducible apply Keeps.ite | split | dsimp only

theorem publish_keeps {s0 : State} (s : State) (n : Nat) (kp : Keeps s0 s) :
    Keeps s0 (publish s n) := by
  unfold publish
  repeat'
    first
    | with_reducible assumption | with_reducible exact id | with_reducible exact fun _ => id
    | with_reducible apply tput_twf
    | (intro b a; cases a; cases (kp.canon b).ing; apply Ing.canon.mk) | exact rfl | (intro _)
    | with_reducible apply setIng_keeps | with_reducible apply Keeps.ite | split | dsimp only
    | fail_if_no_progress with_reducible apply Keeps.fields

theorem publishIn_keeps {s0 : State} (s : State) (n : Nat) (h : Hoop) (kp : Keeps s0 s) :
    Keeps s0 (publishIn s n h) := by
  unfold publishIn
  repeat'
    first
    | with_reducible assumption | with_reducible exact id | with_reducible exact fun _ => id
    | with_reducible apply tput_twf | with_reducible exact noClosed_canon
    | (intro a; cases a; apply Twn.canon.mk) | exact rfl | (intro _)
    | with_reducible apply publish_keeps | with_reducible apply Keeps.ite | split | dsimp only
    | fail_if_no_progress with_reducible apply Keeps.fields | with_reducible apply Keeps.ofTwn

theorem landWrite_keeps {s0 : State} (s : State) (t : Track) (data : List Byte) (h : Hoop) (kp : Keeps s0 s) :
    Keeps s0 (landWrite s t data h) := by
  unfold landWrite
  repeat'
    first
    | with_reducible assumption | (intro _) | with_reducible apply writeLines_keeps
    | with_reducible apply publishIn_keeps | with_reducible apply finish_keeps
    | with_reducible apply Keeps.ite | split | dsimp only

theorem writeCompleteIn_keeps {s0 : State} (s : State) (t : Track) (data : List Byte) (h : Hoop) (kp : Keeps s0 s) :
    Keeps s0 (writeCompleteIn s t data h) := by
  unfold writeCompleteIn
  repeat'
    first
    | with_reducible assumption | with_reducible exact id | with_reducible exact fun _ => id
    | with_reducible apply tput_twf
    | (intro b a; cases a; cases (kp.canon b).ing; apply Ing.canon.mk) | exact rfl | (intro _)
    | with_reducible apply setIng_keeps | with_reducible apply landWrite_keeps
    | with_reducible apply Keeps.ite | split | dsimp only
    | fail_if_no_progress with_reducible apply Keeps.fields

theorem landHeld_keeps {s0 : State} (s : State) (w : HeldWrite) (kp : Keeps s0 s) :
    Keeps s0 (landHeld s w) := by
  unfold landHeld
  repeat'
    first
    | with_reducible assumption | (intro _) | with_reducible apply writeCompleteIn_keeps
    | with_reducible apply Keeps.ite | split | dsimp only

theorem landWrites_keeps {s0 : State} (s : State) (kp : Keeps s0 s) :
    Keeps s0 (landWrites s) := by
  unfold landWrites
  repeat'
    first
    | with_reducible assumption | with_reducible exact id | with_reducible exact fun _ => id
    | with_reducible apply tput_twf | with_reducible apply foldl_twf
    | (intro b a; cases a; cases (kp.canon b).ing; apply Ing.canon.mk) | exact rfl | (intro _)
    | with_reducible apply landHeld_keeps | with_reducible apply setIng_keeps
    | with_reducible apply Keeps.foldl | with_reducible apply Keeps.foldlPair
    | with_reducible apply Keeps.ite | split | dsimp only
    | fail_if_no_progress with_reducible apply Keeps.fields

theorem writeComplete_keeps {s0 : State} (s : State) (t : Track) (data : List Byte) (kp : Keeps s0 s) :
    Keeps s0 (writeComplete s t data) := by
  unfold writeComplete
  repeat'
    first
    | with_reducible assumption | (intro _) | with_reducible apply writeCompleteIn_keeps
    | with_reducible apply Keeps.ite | split | dsimp only

theorem startRead_keeps {s0 : State} (s : State) (t : Track) (kp : Keeps s0 s) :
    Keeps s0 (startRead s t) := by
  unfold startRead
  repeat'
    first
    | with_reducible assumption | (intro _) | with_reducible apply finish_keeps
    | with_reducible apply begin_keeps | with_reducible apply Keeps.ite | split | dsimp only

theorem readComplete_keeps {s0 : State} (s : State) (t : Track) (kp : Keeps s0 s) :
    Keeps s0 (readComplete s t) := by
  unfold readComplete
  repeat'
    first
    | with_reducible assumption | with_reducible exact id | with_reducible exact fun _ => id
    | with_reducible apply tput_twf | exact rfl | (intro _) | with_reducible apply finish_keeps
    | with_reducible apply Keeps.ite | split | dsimp only
    | fail_if_no_progress with_reducible apply Keeps.fields | with_reducible apply Keeps.fieldsSent
    | with_reducible apply Keeps.litSent

end Sys2Proof.Machine
end

