-- ==== Sys2Proof/Laws/KeepsSources.lean ====
section
/-! SUPPORT. Laws/KeepsSources.lean: every operation of Machine/Sources.lean keeps what `Keeps` names. -/
namespace Sys2Proof.Machine

theorem applySession_keeps {s0 : State} (s : State) (k : Nat) (old new : List Word) (kp : Keeps s0 s) :
    Keeps s0 (applySession s k old new) := by
  unfold applySession
  repeat'
    first
    | with_reducible assumption | with_reducible exact id | with_reducible exact fun _ => id
    | with_reducible apply tput_twf | with_reducible apply filter_twf | exact rfl | (intro _)
    | with_reducible apply setSessState_keeps | with_reducible apply setSess_keeps
    | with_reducible apply abandonFrame_keeps | with_reducible apply Keeps.ite | split | dsimp only
    | fail_if_no_progress with_reducible apply Keeps.fields

theorem applySource_keeps {s0 : State} (s : State) (l : Nat) (old new : List Word) (kp : Keeps s0 s) :
    Keeps s0 (applySource s l old new) := by
  unfold applySource
  repeat'
    first
    | with_reducible assumption | with_reducible exact id | with_reducible exact fun _ => id
    | with_reducible apply tput_twf | with_reducible apply filter_twf
    | (intro a; cases a; apply Run.canon.mk) | (intro a; cases a; apply Keep.canon.mk)
    | (intro b a; cases a; cases (kp.canon b).ing; apply Ing.canon.mk) | exact rfl | (intro _)
    | with_reducible apply setIng_keeps | with_reducible apply setSource_keeps
    | with_reducible apply Keeps.ite | split | dsimp only
    | fail_if_no_progress with_reducible apply Keeps.fields | with_reducible apply Keeps.ofRun

theorem chooseSource_keeps {s0 : State} (s : State) (l : Nat) (kp : Keeps s0 s) :
    Keeps s0 (chooseSource s l) := by
  unfold chooseSource
  repeat'
    first
    | with_reducible assumption | with_reducible exact id | with_reducible exact fun _ => id
    | with_reducible apply tput_twf | (intro a; cases a; apply Keep.canon.mk) | exact rfl
    | (intro _) | with_reducible apply setSource_keeps | with_reducible apply noticeBoth_keeps
    | with_reducible apply latchCount_keeps | with_reducible apply Keeps.ite | split | dsimp only
    | fail_if_no_progress with_reducible apply Keeps.fields

theorem chooseSources_keeps {s0 : State} (s : State) (kp : Keeps s0 s) :
    Keeps s0 (chooseSources s) := by
  unfold chooseSources
  repeat'
    first
    | with_reducible assumption | (intro _) | with_reducible apply chooseSource_keeps
    | with_reducible apply Keeps.foldl | with_reducible apply Keeps.foldlPair
    | with_reducible apply Keeps.ite | split | dsimp only

end Sys2Proof.Machine
end

