-- ==== Sys2Proof/Laws/KeepsLayers.lean ====
section
/-! SUPPORT. Laws/KeepsLayers.lean: every operation of Machine/Layers.lean keeps what `Keeps` names. -/
namespace Sys2Proof.Machine

theorem bindHandle_keeps {s0 : State} (old c : Cfg) (h : Hoop) (s : State) (n : Nat) (kp : Keeps s0 s) :
    Keeps s0 (bindHandle old c h s n) := by
  unfold bindHandle
  repeat'
    first
    | with_reducible assumption | with_reducible exact id | with_reducible exact fun _ => id
    | with_reducible apply tput_twf | exact rfl | (intro _) | with_reducible apply setHandle_keeps
    | with_reducible apply Keeps.ite | split | dsimp only
    | fail_if_no_progress with_reducible apply Keeps.fields

theorem bindHandles_keeps {s0 : State} (s : State) (c : Cfg) (h : Hoop) (kp : Keeps s0 s) :
    Keeps s0 (bindHandles s c h) := by
  unfold bindHandles
  repeat'
    first
    | with_reducible assumption | (intro _) | with_reducible apply bindHandle_keeps
    | with_reducible apply Keeps.foldl | with_reducible apply Keeps.foldlPair
    | with_reducible apply Keeps.ite | split | dsimp only

end Sys2Proof.Machine
end

