-- ==== Sys2Proof/Laws/KeepsStaging.lean ====
section
/-! SUPPORT. Laws/KeepsStaging.lean: every operation of Machine/Staging.lean keeps what `Keeps` names. -/
namespace Sys2Proof.Machine

theorem setStage_keeps {s0 : State} (s : State) (p : Nat) (x : Stage) (kp : Keeps s0 s) :
    Keeps s0 (setStage s p x) := by
  unfold setStage
  repeat'
    first
    | with_reducible assumption | with_reducible exact id | with_reducible exact fun _ => id
    | with_reducible apply tput_twf | exact rfl | (intro _) | with_reducible apply Keeps.ite | split
    | dsimp only | fail_if_no_progress with_reducible apply Keeps.fields
    | with_reducible apply Keeps.ofStages

theorem partInvalid_keeps {s0 : State} (s : State) (p : Nat) (b : Bad) (kp : Keeps s0 s) :
    Keeps s0 (partInvalid s p b) := by
  unfold partInvalid
  repeat'
    first
    | with_reducible assumption | with_reducible exact id | with_reducible exact fun _ => id
    | with_reducible apply tput_twf | exact rfl | (intro _) | with_reducible apply setStage_keeps
    | with_reducible apply noticeBoth_keeps | with_reducible apply Keeps.ite | split | dsimp only
    | fail_if_no_progress with_reducible apply Keeps.fields | with_reducible apply Keeps.ofBadEntry

theorem dropRead_keeps {s0 : State} (s : State) (id : Nat) (kp : Keeps s0 s) :
    Keeps s0 (dropRead s id) := by
  unfold dropRead
  repeat'
    first
    | with_reducible assumption | with_reducible exact id | with_reducible exact fun _ => id
    | with_reducible apply tput_twf | with_reducible apply filter_twf | exact rfl | (intro _)
    | with_reducible apply Keeps.ite | split | dsimp only
    | fail_if_no_progress with_reducible apply Keeps.fields | with_reducible apply Keeps.ofReads

theorem swapReads_keeps {s0 : State} (s : State) (p : Nat) (kp : Keeps s0 s) :
    Keeps s0 (swapReads s p) := by
  unfold swapReads
  repeat'
    first
    | with_reducible assumption | with_reducible exact id | with_reducible exact fun _ => id
    | with_reducible apply tput_twf | with_reducible apply filter_twf | exact rfl | (intro _)
    | with_reducible apply Keeps.ite | split | dsimp only
    | fail_if_no_progress with_reducible apply Keeps.fields

theorem judgeLoad_keeps {s0 : State} (s : State) (t : Track) (kp : Keeps s0 s) :
    Keeps s0 (judgeLoad s t) := by
  unfold judgeLoad
  repeat'
    first
    | with_reducible assumption | (intro _) | with_reducible apply finish_keeps
    | with_reducible apply setStage_keeps | with_reducible apply begin_keeps
    | with_reducible apply Keeps.ite | split | dsimp only

theorem serveLoads_keeps {s0 : State} (n : Nat) (s : State) (p : Nat) (kp : Keeps s0 s) :
    Keeps s0 (serveLoads n s p) := by
  induction n generalizing s with
  | zero => exact kp
  | succ n ih =>
    unfold serveLoads
    split
    · exact Keeps.ite kp (ih _ (judgeLoad_keeps _ _ kp))
    · exact kp

theorem nextLoad_keeps {s0 : State} (s : State) (p : Nat) (kp : Keeps s0 s) :
    Keeps s0 (nextLoad s p) := by
  unfold nextLoad
  repeat'
    first
    | with_reducible assumption | (intro _) | with_reducible apply serveLoads_keeps
    | with_reducible apply Keeps.ite | split | dsimp only

theorem startLoad_keeps {s0 : State} (s : State) (t : Track) (kp : Keeps s0 s) :
    Keeps s0 (startLoad s t) := by
  unfold startLoad
  repeat'
    first
    | with_reducible assumption | (intro _) | with_reducible apply nextLoad_keeps
    | with_reducible apply Keeps.ite | split | dsimp only

theorem finishLoad_keeps {s0 : State} (s : State) (t : Track) (st r0 r1 : Nat) (kp : Keeps s0 s) :
    Keeps s0 (finishLoad s t st r0 r1) := by
  unfold finishLoad
  repeat'
    first
    | with_reducible assumption | (intro _) | with_reducible apply nextLoad_keeps
    | with_reducible apply finish_keeps | with_reducible apply Keeps.ite | split | dsimp only

theorem blockWritten_keeps {s0 : State} (s : State) (t : Track) (data : List Byte) (kp : Keeps s0 s) :
    Keeps s0 (blockWritten s t data) := by
  unfold blockWritten
  repeat'
    first
    | with_reducible assumption | with_reducible exact id | with_reducible exact fun _ => id
    | with_reducible apply tput_twf | exact rfl | (intro _) | with_reducible apply setStage_keeps
    | with_reducible apply finishLoad_keeps | with_reducible apply partInvalid_keeps
    | with_reducible apply Keeps.ite | split | dsimp only
    | fail_if_no_progress with_reducible apply Keeps.fields

theorem blockFailed_keeps {s0 : State} (s : State) (t : Track) (kp : Keeps s0 s) :
    Keeps s0 (blockFailed s t) := by
  unfold blockFailed
  repeat'
    first
    | with_reducible assumption | with_reducible exact id | with_reducible exact fun _ => id
    | with_reducible apply tput_twf | exact rfl | (intro _) | with_reducible apply nextLoad_keeps
    | with_reducible apply partInvalid_keeps | with_reducible apply setStage_keeps
    | with_reducible apply Keeps.ite | split | dsimp only
    | fail_if_no_progress with_reducible apply Keeps.fields

theorem validationComplete_keeps {s0 : State} (s : State) (p : Nat) (kp : Keeps s0 s) :
    Keeps s0 (validationComplete s p) := by
  unfold validationComplete
  repeat'
    first
    | with_reducible assumption | with_reducible exact id | with_reducible exact fun _ => id
    | with_reducible apply tput_twf | exact rfl | (intro _) | with_reducible apply finishLoad_keeps
    | with_reducible apply setStage_keeps | with_reducible apply partInvalid_keeps
    | with_reducible apply Keeps.ite | split | dsimp only
    | fail_if_no_progress with_reducible apply Keeps.fields

theorem stagedBytes_keeps {s0 : State} (s : State) (x : Stage) (kp : Keeps s0 s) :
    Keeps s0 (stagedBytes s x).2 := by
  unfold stagedBytes
  repeat'
    first
    | with_reducible assumption | (intro _) | with_reducible apply takeFree_keeps
    | (refine Keeps.ofEq ?_ (by assumption); with_reducible apply takeFree_keeps)
    | with_reducible apply Keeps.ite | split | dsimp only

theorem startTableRead_keeps {s0 : State} (s : State) (t : Track) (kp : Keeps s0 s) :
    Keeps s0 (startTableRead s t) := by
  unfold startTableRead
  repeat'
    first
    | with_reducible assumption | with_reducible exact id | with_reducible exact fun _ => id
    | with_reducible apply tput_twf | exact rfl | (intro _) | with_reducible apply finish_keeps
    | with_reducible apply begin_keeps | with_reducible apply stagedBytes_keeps
    | (refine Keeps.ofEq ?_ (by assumption); with_reducible apply stagedBytes_keeps)
    | with_reducible apply Keeps.ite | split | dsimp only
    | fail_if_no_progress with_reducible apply Keeps.fields | with_reducible apply Keeps.ofReads

theorem tableReadDone_keeps {s0 : State} (s : State) (t : Track) (kp : Keeps s0 s) :
    Keeps s0 (tableReadDone s t) := by
  unfold tableReadDone
  repeat'
    first
    | with_reducible assumption | with_reducible exact id | with_reducible exact fun _ => id
    | with_reducible apply tput_twf | exact rfl | (intro _) | with_reducible apply dropRead_keeps
    | with_reducible apply nextLoad_keeps | with_reducible apply finish_keeps
    | with_reducible apply Keeps.ite | split | dsimp only
    | fail_if_no_progress with_reducible apply Keeps.fields | with_reducible apply Keeps.fieldsSent
    | with_reducible apply Keeps.litSent

theorem partActive_keeps {s0 : State} (s : State) (p : Nat) (kp : Keeps s0 s) :
    Keeps s0 (partActive s p) := by
  unfold partActive
  repeat'
    first
    | with_reducible assumption | (intro _) | with_reducible apply noticeBoth_keeps
    | with_reducible apply setStage_keeps | with_reducible apply swapReads_keeps
    | with_reducible apply Keeps.ite | split | dsimp only

end Sys2Proof.Machine
end

