-- ==== Sys2Proof/Laws/KeepsColour.lean ====
section
/-! SUPPORT. Laws/KeepsColour.lean: every operation of Machine/Colour.lean keeps what `Keeps` names. -/
namespace Sys2Proof.Machine

theorem setCol_keeps {s0 : State} (s : State) (c : Col) (kp : Keeps s0 s) (hc : s0.canon → s.col.canon → c.canon) :
    Keeps s0 (setCol s c) :=
  ⟨kp.pending, kp.sound, kp.out, kp.wear, fun b => (Keeps.ofCol kp (hc b)).canon b⟩

theorem setLive_keeps {s0 : State} (s : State) (m : Nat) (v : Live) (kp : Keeps s0 s) :
    Keeps s0 (setLive s m v) := by
  unfold setLive
  repeat'
    first
    | with_reducible assumption | with_reducible exact id | with_reducible exact fun _ => id
    | with_reducible apply tput_twf | exact rfl | (intro _) | with_reducible apply Keeps.ite | split
    | dsimp only | fail_if_no_progress with_reducible apply Keeps.fields
    | with_reducible apply Keeps.ofLive

theorem setEst_keeps {s0 : State} (s : State) (m k : Nat) (e : Estimate) (kp : Keeps s0 s) :
    Keeps s0 (setEst s m k e) := by
  unfold setEst
  repeat'
    first
    | with_reducible assumption | with_reducible exact id | with_reducible exact fun _ => id
    | with_reducible apply tput_twf
    | (intro b a; cases a; cases (kp.canon b).col; apply Col.canon.mk) | exact rfl | (intro _)
    | with_reducible apply setCol_keeps | with_reducible apply Keeps.ite | split | dsimp only
    | fail_if_no_progress with_reducible apply Keeps.fields

theorem estimateMotif_keeps {s0 : State} (rev : Nat) (h : Hoop) (s : State) (m : Nat) (kp : Keeps s0 s) :
    Keeps s0 (estimateMotif rev h s m) := by
  unfold estimateMotif
  repeat'
    first
    | with_reducible assumption | with_reducible exact id | with_reducible exact fun _ => id
    | with_reducible apply tput_twf | with_reducible apply foldl_twf
    | (intro b a; cases a; cases (kp.canon b).col; apply Col.canon.mk) | exact rfl | (intro _)
    | with_reducible apply setEst_keeps | with_reducible apply setCol_keeps
    | with_reducible apply Keeps.foldl | with_reducible apply Keeps.foldlPair
    | with_reducible apply Keeps.ite | split | dsimp only
    | fail_if_no_progress with_reducible apply Keeps.fields

theorem pixelEntry_keeps {s0 : State} (s : State) (rev : Nat) (h : Hoop) (m i : Nat) (smp : Nat × Nat × Nat) (kp : Keeps s0 s) :
    Keeps s0 (pixelEntry s rev h m i smp).2 := by
  unfold pixelEntry
  repeat'
    first
    | with_reducible assumption | with_reducible exact id | with_reducible exact fun _ => id
    | with_reducible apply tput_twf | with_reducible apply foldl_twf
    | (intro b a; cases a; cases (kp.canon b).col; apply Col.canon.mk) | exact rfl | (intro _)
    | with_reducible apply setEst_keeps | with_reducible apply setCol_keeps
    | with_reducible apply Keeps.foldl | with_reducible apply Keeps.foldlPair
    | with_reducible apply Keeps.ite | split | dsimp only
    | fail_if_no_progress with_reducible apply Keeps.fields

theorem completeEst_keeps {s0 : State} (c : Cfg) (s : State) (m : Nat) (kp : Keeps s0 s) :
    Keeps s0 (completeEst c s m) := by
  unfold completeEst
  repeat'
    first
    | with_reducible assumption | with_reducible exact id | with_reducible exact fun _ => id
    | with_reducible apply tput_twf | with_reducible apply foldl_twf | exact rfl | (intro _)
    | with_reducible apply setEst_keeps | with_reducible apply Keeps.foldl
    | with_reducible apply Keeps.foldlPair | with_reducible apply Keeps.ite | split | dsimp only
    | fail_if_no_progress with_reducible apply Keeps.fields

theorem completeCol_keeps {s0 : State} (s : State) (h : Hoop) (kp : Keeps s0 s) :
    Keeps s0 (completeCol s h) := by
  unfold completeCol
  repeat'
    first
    | with_reducible assumption | with_reducible exact id | with_reducible exact fun _ => id
    | with_reducible apply tput_twf | with_reducible apply filter_twf
    | with_reducible apply foldl_twf
    | (intro b a; cases a; cases (kp.canon b).col; apply Col.canon.mk) | exact rfl | (intro _)
    | with_reducible apply completeEst_keeps | with_reducible apply setCol_keeps
    | with_reducible apply noticeBoth_keeps | with_reducible apply Keeps.foldl
    | with_reducible apply Keeps.foldlPair | with_reducible apply Keeps.ite | split | dsimp only
    | fail_if_no_progress with_reducible apply Keeps.fields

theorem discardCol_keeps {s0 : State} (s : State) (kp : Keeps s0 s) :
    Keeps s0 (discardCol s) := by
  unfold discardCol
  repeat'
    first
    | with_reducible assumption | with_reducible exact id | with_reducible exact fun _ => id
    | with_reducible apply tput_twf
    | (intro b a; cases a; cases (kp.canon b).col; apply Col.canon.mk) | exact rfl | (intro _)
    | with_reducible apply setCol_keeps | with_reducible apply Keeps.ite | split | dsimp only
    | fail_if_no_progress with_reducible apply Keeps.fields

theorem swapMotifs_keeps {s0 : State} (old new : List Byte) (s : State) (kp : Keeps s0 s) :
    Keeps s0 (swapMotifs old new s) := by
  unfold swapMotifs
  repeat'
    first
    | with_reducible assumption | with_reducible exact id | with_reducible exact fun _ => id
    | with_reducible apply tput_twf | with_reducible apply filter_twf
    | with_reducible apply foldl_twf | exact rfl | (intro _) | with_reducible apply setEst_keeps
    | with_reducible apply Keeps.foldl | with_reducible apply Keeps.foldlPair
    | with_reducible apply Keeps.ite | split | dsimp only
    | fail_if_no_progress with_reducible apply Keeps.fields | with_reducible apply Keeps.ofLive

theorem takeSnapshot_keeps {s0 : State} (s : State) (kp : Keeps s0 s) :
    Keeps s0 (takeSnapshot s) := by
  unfold takeSnapshot
  repeat'
    first
    | with_reducible assumption | with_reducible exact id | with_reducible exact fun _ => id
    | with_reducible apply tput_twf | with_reducible apply foldl_twf
    | (intro b a; cases a; cases (kp.canon b).col; apply Col.canon.mk) | exact rfl | (intro _)
    | with_reducible apply setCol_keeps | with_reducible apply Keeps.foldl
    | with_reducible apply Keeps.foldlPair | with_reducible apply Keeps.ite | split | dsimp only
    | fail_if_no_progress with_reducible apply Keeps.fields

end Sys2Proof.Machine
end

