-- ==== Sys2Proof/Laws/KeepsKey.lean ====
section
/-! SUPPORT. Laws/KeepsKey.lean: every operation of Machine/Key.lean keeps what `Keeps` names. -/
namespace Sys2Proof.Machine

theorem programSector_keeps {s0 : State} (s : State) (n : Nat) (bs : List Byte) (kp : Keeps s0 s) :
    Keeps s0 (programSector s n bs) := by
  unfold programSector
  repeat'
    first
    | with_reducible assumption | exact Nat.le_refl _ | exact Nat.le_succ _
    | exact fun a => ⟨a.sectors, a.journal⟩ | exact fun a => ⟨tput_twf a.sectors, a.journal⟩
    | exact fun a => ⟨a.sectors, tput_twf a.journal⟩ | with_reducible exact id
    | with_reducible exact fun _ => id | with_reducible apply tput_twf
    | (intro a; cases a; apply Keep.canon.mk) | exact rfl | (intro _)
    | with_reducible apply Keeps.ite | split | dsimp only
    | fail_if_no_progress with_reducible apply Keeps.fields | with_reducible apply Keeps.keep

theorem setKey_keeps {s0 : State} (s : State) (k : Key) (kp : Keeps s0 s) (hc : s0.canon → s.key.canon → k.canon) :
    Keeps s0 (setKey s k) :=
  ⟨kp.pending, kp.sound, kp.out, kp.wear, fun b => (Keeps.ofKey kp (hc b)).canon b⟩

theorem setSlot_keeps {s0 : State} (s : State) (k : Nat) (x : KeySlot) (kp : Keeps s0 s) :
    Keeps s0 (setSlot s k x) := by
  unfold setSlot
  repeat'
    first
    | with_reducible assumption | with_reducible exact id | with_reducible exact fun _ => id
    | with_reducible apply tput_twf
    | (intro b a; cases a; cases (kp.canon b).key; apply Key.canon.mk) | exact rfl | (intro _)
    | with_reducible apply setKey_keeps | with_reducible apply Keeps.ite | split | dsimp only
    | fail_if_no_progress with_reducible apply Keeps.fields

theorem fillSlot_keeps {s0 : State} (s : State) (k : Nat) (key : List Byte) (mask : Nat) (kp : Keeps s0 s) :
    Keeps s0 (fillSlot s k key mask) := setSlot_keeps s k _ kp

theorem noteKey_keeps {s0 : State} (s : State) (kp : Keeps s0 s) :
    Keeps s0 (noteKey s) := by
  unfold noteKey
  repeat'
    first
    | with_reducible assumption | with_reducible exact id | with_reducible exact fun _ => id
    | with_reducible apply tput_twf | (intro a; cases a; apply Egr.canon.mk) | exact rfl | (intro _)
    | with_reducible apply noticeBoth_keeps | with_reducible apply Keeps.ite | split | dsimp only
    | fail_if_no_progress with_reducible apply Keeps.fields | with_reducible apply Keeps.ofEgr

theorem loadSlot_keeps {s0 : State} (s : State) (k : Nat) (kp : Keeps s0 s) :
    Keeps s0 (loadSlot s k) := by
  unfold loadSlot
  repeat'
    first
    | with_reducible assumption | (intro _) | with_reducible apply setSlot_keeps
    | with_reducible apply Keeps.ite | split | dsimp only

theorem loadKeys_keeps {s0 : State} (s : State) (kp : Keeps s0 s) :
    Keeps s0 (loadKeys s) := by
  have h := Keeps.foldl (f := loadSlot) (l := List.range 64) (fun t n ht => loadSlot_keeps t n ht) kp
  unfold loadKeys
  dsimp only
  generalize List.foldl loadSlot s (List.range 64) = t at *
  exact noticeBoth_keeps _ _ _ _ (setKey_keeps _ _ h fun _ a => ⟨a.slots⟩)

theorem randomBytes_keeps {s0 : State} (s : State) (n : Nat) (kp : Keeps s0 s) :
    Keeps s0 (randomBytes s n).2 := by
  unfold randomBytes
  repeat'
    first
    | with_reducible assumption | (intro _) | with_reducible apply takeFree_keeps
    | (refine Keeps.ofEq ?_ (by assumption); with_reducible apply takeFree_keeps)
    | with_reducible apply Keeps.ite | split | dsimp only

theorem keyGo_keeps {s0 : State} (s : State) (src : Source) (kp : Keeps s0 s) :
    Keeps s0 (keyGo s src) := by
  unfold keyGo
  repeat'
    first
    | with_reducible assumption | with_reducible exact id | with_reducible exact fun _ => id
    | with_reducible apply tput_twf | (intro a; cases a; apply Run.canon.mk)
    | (intro a; cases a; apply Key.canon.mk)
    | (intro b a; cases a; cases (kp.canon b).key; apply Key.canon.mk) | exact rfl | (intro _)
    | with_reducible apply setKey_keeps | with_reducible apply fillSlot_keeps
    | with_reducible apply randomBytes_keeps
    | (refine Keeps.ofEq ?_ (by assumption); with_reducible apply randomBytes_keeps)
    | with_reducible apply Keeps.ite | split | dsimp only
    | fail_if_no_progress with_reducible apply Keeps.fields | with_reducible apply Keeps.ofRun
    | with_reducible apply Keeps.ofKey | with_reducible apply Keeps.lit

theorem keyFinish_keeps {s0 : State} (s : State) (j : KeyJob) (r : Nat) (changed : Bool) (kp : Keeps s0 s) :
    Keeps s0 (keyFinish s j r changed) := by
  unfold keyFinish
  repeat'
    first
    | with_reducible assumption | with_reducible exact id | with_reducible exact fun _ => id
    | with_reducible apply tput_twf | with_reducible apply foldl_twf
    | (intro b a; cases a; cases (kp.canon b).key; apply Key.canon.mk) | exact rfl | (intro _)
    | with_reducible apply setReg_keeps | with_reducible apply setKey_keeps
    | with_reducible apply noticeBoth_keeps | with_reducible apply Keeps.foldl
    | with_reducible apply Keeps.foldlPair | with_reducible apply Keeps.ite | split | dsimp only
    | fail_if_no_progress with_reducible apply Keeps.fields

theorem keyCommandDone_keeps {s0 : State} (s : State) (kp : Keeps s0 s) :
    Keeps s0 (keyCommandDone s) := by
  unfold keyCommandDone
  repeat'
    first
    | with_reducible assumption | with_reducible exact id | with_reducible exact fun _ => id
    | with_reducible apply tput_twf
    | (intro b a; cases a; cases (kp.canon b).key; apply Key.canon.mk) | exact rfl | (intro _)
    | with_reducible apply fillSlot_keeps | with_reducible apply setKey_keeps
    | with_reducible apply noteKey_keeps | with_reducible apply keyFinish_keeps
    | with_reducible apply Keeps.ite | split | dsimp only
    | fail_if_no_progress with_reducible apply Keeps.fields

theorem keyStep_keeps {s0 : State} (s : State) (kp : Keeps s0 s) :
    Keeps s0 (keyStep s) := by
  unfold keyStep
  repeat'
    first
    | with_reducible assumption | with_reducible exact id | with_reducible exact fun _ => id
    | with_reducible apply tput_twf
    | (intro b a; cases a; cases (kp.canon b).key; apply Key.canon.mk) | exact rfl | (intro _)
    | with_reducible apply programSector_keeps | with_reducible apply noteKey_keeps
    | with_reducible apply fillSlot_keeps | with_reducible apply setKey_keeps
    | with_reducible apply keyFinish_keeps | with_reducible apply Keeps.ite | split | dsimp only
    | fail_if_no_progress with_reducible apply Keeps.fields

theorem keyResume_keeps {s0 : State} (s : State) (kp : Keeps s0 s) :
    Keeps s0 (keyResume s) := by
  unfold keyResume
  repeat'
    first
    | with_reducible assumption | with_reducible exact id | with_reducible exact fun _ => id
    | with_reducible apply tput_twf
    | (intro b a; cases a; cases (kp.canon b).key; apply Key.canon.mk) | exact rfl | (intro _)
    | with_reducible apply setKey_keeps | with_reducible apply Keeps.ite | split | dsimp only
    | fail_if_no_progress with_reducible apply Keeps.fields

theorem keySupplyTimeout_keeps {s0 : State} (s : State) (kp : Keeps s0 s) :
    Keeps s0 (keySupplyTimeout s) := by
  unfold keySupplyTimeout
  repeat'
    first
    | with_reducible assumption | (intro _) | with_reducible apply runToCycle_keeps
    | with_reducible apply keyFinish_keeps | with_reducible apply Keeps.ite | split | dsimp only

theorem keyCommand_keeps {s0 : State} (s : State) (src : Source) (op : Nat) (v : Word) (kp : Keeps s0 s) :
    Keeps s0 (keyCommand s src op v) := by
  unfold keyCommand
  repeat'
    first
    | with_reducible assumption | (intro _) | with_reducible apply noteKey_keeps
    | with_reducible apply keyGo_keeps | with_reducible apply plainWrite_keeps
    | with_reducible apply Keeps.ite | split | dsimp only

theorem keyCtrlWrite_keeps {s0 : State} (s : State) (src : Source) (v : Word) (kp : Keeps s0 s) :
    Keeps s0 (keyCtrlWrite s src v) := by
  unfold keyCtrlWrite
  repeat'
    first
    | with_reducible assumption | (intro _) | with_reducible apply plainWrite_keeps
    | with_reducible apply Keeps.ite | split | dsimp only

theorem keyDataWrite_keeps {s0 : State} (s : State) (src : Source) (a : Nat) (v : Word) (kp : Keeps s0 s) :
    Keeps s0 (keyDataWrite s src a v) := by
  unfold keyDataWrite
  repeat'
    first
    | with_reducible assumption | (intro _) | with_reducible apply plainWrite_keeps
    | with_reducible apply Keeps.ite | split | dsimp only

theorem tamper_keeps {s0 : State} (s : State) (low : Bool) (kp : Keeps s0 s) :
    Keeps s0 (tamper s low) := by
  unfold tamper
  repeat'
    first
    | with_reducible assumption | exact Nat.le_refl _ | exact Nat.le_succ _
    | exact fun a => ⟨a.sectors, a.journal⟩ | exact fun a => ⟨tput_twf a.sectors, a.journal⟩
    | exact fun a => ⟨a.sectors, tput_twf a.journal⟩ | with_reducible exact id
    | with_reducible exact fun _ => id | with_reducible apply tput_twf
    | with_reducible apply foldl_twf | with_reducible apply tmap_twf
    | (intro a; cases a; apply Keep.canon.mk)
    | (intro b a; cases a; cases (kp.canon b).key; apply Key.canon.mk) | exact rfl
    | (intro a; exact a) | (intro _) | with_reducible apply keyFinish_keeps
    | with_reducible apply setReg_keeps | with_reducible apply setKey_keeps
    | with_reducible apply noteKey_keeps | with_reducible apply noticeBoth_keeps
    | with_reducible apply latch_keeps | with_reducible apply Keeps.foldl
    | with_reducible apply Keeps.foldlPair | with_reducible apply Keeps.ite | split | dsimp only
    | fail_if_no_progress with_reducible apply Keeps.fields | with_reducible apply Keeps.ofUpd
    | with_reducible apply Keeps.keep

theorem renewWrap_keeps {s0 : State} (s : State) (kp : Keeps s0 s) :
    Keeps s0 (renewWrap s) := by
  unfold renewWrap
  repeat'
    first
    | with_reducible assumption | exact Nat.le_refl _ | exact Nat.le_succ _
    | exact fun a => ⟨a.sectors, a.journal⟩ | exact fun a => ⟨tput_twf a.sectors, a.journal⟩
    | exact fun a => ⟨a.sectors, tput_twf a.journal⟩ | with_reducible exact id
    | with_reducible exact fun _ => id | with_reducible apply tput_twf
    | (intro a; cases a; apply Keep.canon.mk)
    | (intro b a; cases a; cases (kp.canon b).key; apply Key.canon.mk) | exact rfl | (intro _)
    | with_reducible apply setKey_keeps | with_reducible apply randomBytes_keeps
    | (refine Keeps.ofEq ?_ (by assumption); with_reducible apply randomBytes_keeps)
    | with_reducible apply Keeps.ite | split | dsimp only
    | fail_if_no_progress with_reducible apply Keeps.fields | with_reducible apply Keeps.keep

theorem keyStatusWrite_keeps {s0 : State} (s : State) (v : Word) (kp : Keeps s0 s) :
    Keeps s0 (keyStatusWrite s v) := by
  unfold keyStatusWrite
  repeat'
    first
    | with_reducible assumption | (intro _) | with_reducible apply plainWrite_keeps
    | with_reducible apply Keeps.ite | split | dsimp only

end Sys2Proof.Machine
end

