-- ==== Sys2Proof/Laws/KeepsSti.lean ====
section
/-! SUPPORT. Laws/KeepsSti.lean: every operation of Machine/Sti.lean keeps what `Keeps` names. -/
namespace Sys2Proof.Machine

theorem setLane_keeps {s0 : State} (s : State) (g : Nat) (x : Lane) (kp : Keeps s0 s) :
    Keeps s0 (setLane s g x) := by
  unfold setLane
  repeat'
    first
    | with_reducible assumption | with_reducible exact id | with_reducible exact fun _ => id
    | with_reducible apply tput_twf | (intro a; cases a; apply Sti.canon.mk) | exact rfl | (intro _)
    | with_reducible apply Keeps.ite | split | dsimp only
    | fail_if_no_progress with_reducible apply Keeps.fields | with_reducible apply Keeps.ofSti

theorem showRun_keeps {s0 : State} (s : State) (g : Nat) (h : Hoop) (base : Nat) (aborted : Bool) (kp : Keeps s0 s) :
    Keeps s0 (showRun s g h base aborted) := by
  unfold showRun
  repeat'
    first
    | with_reducible assumption | with_reducible exact id | with_reducible exact fun _ => id
    | with_reducible apply tput_twf | exact rfl | (intro _) | with_reducible apply setLane_keeps
    | with_reducible apply Keeps.ite | split | dsimp only
    | fail_if_no_progress with_reducible apply Keeps.fields

theorem reanchorShow_keeps {s0 : State} (base : Nat) (s : State) (g : Nat) (kp : Keeps s0 s) :
    Keeps s0 (reanchorShow base s g) := by
  unfold reanchorShow
  dsimp only
  split
  · exact Keeps.ite kp (setLane_keeps _ _ _ kp)
  · exact kp

theorem emitLanes_keeps {s0 : State} (s : State) (g : Nat) (w : Show) (q : Seq) (t : Nat) (f : Nat → List LaneEvent) (kp : Keeps s0 s) :
    Keeps s0 (emitLanes s g w q t f) := by
  unfold emitLanes
  repeat'
    first
    | with_reducible assumption | with_reducible exact id | with_reducible exact fun _ => id
    | with_reducible apply tput_twf | exact rfl | (intro _) | with_reducible apply Keeps.ite | split
    | dsimp only | fail_if_no_progress with_reducible apply Keeps.fields
    | with_reducible apply Keeps.fieldsSent | with_reducible apply Keeps.litSent

theorem emitRow_keeps {s0 : State} (s : State) (g : Nat) (q : Seq) (t : Nat) (st : LaneStep) (kp : Keeps s0 s) :
    Keeps s0 (emitRow s g q t st) := by
  unfold emitRow
  repeat'
    first
    | with_reducible assumption | with_reducible exact id | with_reducible exact fun _ => id
    | with_reducible apply tput_twf | exact rfl | (intro _) | with_reducible apply setLane_keeps
    | with_reducible apply Keeps.ite | split | dsimp only
    | fail_if_no_progress with_reducible apply Keeps.fields | with_reducible apply Keeps.fieldsSent
    | with_reducible apply Keeps.litSent

theorem emitStep_keeps {s0 : State} (s : State) (g : Nat) (w : Show) (q : Seq) (t : Nat) (st : LaneStep) (kp : Keeps s0 s) :
    Keeps s0 (emitStep s g w q t st) := by
  unfold emitStep
  repeat'
    first
    | with_reducible assumption | (intro _) | with_reducible apply emitRow_keeps
    | with_reducible apply emitLanes_keeps | with_reducible apply Keeps.ite | split | dsimp only

theorem emitBack_keeps {s0 : State} (s : State) (g : Nat) (w : Show) (q : Seq) (t : Nat) (kp : Keeps s0 s) :
    Keeps s0 (emitBack s g w q t) := by
  unfold emitBack
  repeat'
    first
    | with_reducible assumption | (intro _) | with_reducible apply emitLanes_keeps
    | with_reducible apply Keeps.ite | split | dsimp only

theorem stopPass_keeps {s0 : State} (s : State) (g : Nat) (kp : Keeps s0 s) :
    Keeps s0 (stopPass s g) := by
  unfold stopPass
  repeat'
    first
    | with_reducible assumption | with_reducible exact id | with_reducible exact fun _ => id
    | with_reducible apply tput_twf | exact rfl | (intro _) | with_reducible apply emitStep_keeps
    | with_reducible apply emitBack_keeps | with_reducible apply setLane_keeps
    | with_reducible apply Keeps.ite | split | dsimp only
    | fail_if_no_progress with_reducible apply Keeps.fields

theorem endPass_keeps {s0 : State} (s : State) (g t : Nat) (kp : Keeps s0 s) :
    Keeps s0 (endPass s g t) := by
  unfold endPass
  repeat'
    first
    | with_reducible assumption | with_reducible exact id | with_reducible exact fun _ => id
    | with_reducible apply tput_twf | exact rfl | (intro _) | with_reducible apply setLane_keeps
    | with_reducible apply Keeps.ite | split | dsimp only
    | fail_if_no_progress with_reducible apply Keeps.fields

theorem beginStep_keeps {s0 : State} (s : State) (g : Nat) (w : Show) (q : Seq) (t : Nat) (kp : Keeps s0 s) :
    Keeps s0 (beginStep s g w q t) := by
  unfold beginStep
  repeat'
    first
    | with_reducible assumption | with_reducible exact id | with_reducible exact fun _ => id
    | with_reducible apply tput_twf | with_reducible apply filter_twf | exact rfl | (intro _)
    | with_reducible apply endPass_keeps | with_reducible apply setLane_keeps
    | with_reducible apply Keeps.ite | split | dsimp only
    | fail_if_no_progress with_reducible apply Keeps.fields

theorem runToTick_keeps {s0 : State} (s : State) (q : Seq) (t : Nat) (kp : Keeps s0 s) :
    Keeps s0 (runToTick s q t) := by
  unfold runToTick
  repeat'
    first
    | with_reducible assumption | (intro _) | with_reducible apply runToCycle_keeps
    | with_reducible apply Keeps.ite | split | dsimp only

theorem stepEnd_keeps {s0 : State} (s : State) (g : Nat) (kp : Keeps s0 s) :
    Keeps s0 (stepEnd s g) := by
  unfold stepEnd
  repeat'
    first
    | with_reducible assumption | (intro _) | with_reducible apply beginStep_keeps
    | with_reducible apply emitStep_keeps | with_reducible apply runToTick_keeps
    | with_reducible apply Keeps.ite | split | dsimp only

theorem backgroundEnd_keeps {s0 : State} (s : State) (g : Nat) (kp : Keeps s0 s) :
    Keeps s0 (backgroundEnd s g) := by
  unfold backgroundEnd
  repeat'
    first
    | with_reducible assumption | with_reducible exact id | with_reducible exact fun _ => id
    | with_reducible apply tput_twf | exact rfl | (intro _) | with_reducible apply emitBack_keeps
    | with_reducible apply runToTick_keeps | with_reducible apply beginStep_keeps
    | with_reducible apply setLane_keeps | with_reducible apply Keeps.ite | split | dsimp only
    | fail_if_no_progress with_reducible apply Keeps.fields

theorem startPass_keeps {s0 : State} (s : State) (g : Nat) (w : Show) (nxt : Option Show) (e : EccRead) (kp : Keeps s0 s) :
    Keeps s0 (startPass s g w nxt e) := by
  unfold startPass
  repeat'
    first
    | with_reducible assumption | with_reducible exact id | with_reducible exact fun _ => id
    | with_reducible apply tput_twf | exact rfl | (intro _) | with_reducible apply stopPass_keeps
    | with_reducible apply setLane_keeps | with_reducible apply takeFree_keeps
    | (refine Keeps.ofEq ?_ (by assumption); with_reducible apply takeFree_keeps)
    | with_reducible apply noticeBoth_keeps | with_reducible apply beginStep_keeps
    | with_reducible apply Keeps.ite | split | dsimp only
    | fail_if_no_progress with_reducible apply Keeps.fields

theorem passStart_keeps {s0 : State} (s : State) (g : Nat) (e : EccRead) (kp : Keeps s0 s) :
    Keeps s0 (passStart s g e) := by
  unfold passStart
  repeat'
    first
    | with_reducible assumption | with_reducible exact id | with_reducible exact fun _ => id
    | with_reducible apply tput_twf | exact rfl | (intro _) | with_reducible apply runTo_keeps
    | with_reducible apply startPass_keeps | with_reducible apply Keeps.ite | split | dsimp only
    | fail_if_no_progress with_reducible apply Keeps.fields

theorem laneCtrlWrite_keeps {s0 : State} (s : State) (g : Nat) (v : Word) (kp : Keeps s0 s) :
    Keeps s0 (laneCtrlWrite s g v) := by
  unfold laneCtrlWrite
  repeat'
    first
    | with_reducible assumption | (intro _) | with_reducible apply plainWrite_keeps
    | with_reducible apply stopPass_keeps | with_reducible apply Keeps.ite | split | dsimp only

theorem sensorPoll_keeps {s0 : State} (s : State) (g : Nat) (kp : Keeps s0 s) :
    Keeps s0 (sensorPoll s g) := by
  unfold sensorPoll
  repeat'
    first
    | with_reducible assumption | with_reducible exact id | with_reducible exact fun _ => id
    | with_reducible apply tput_twf | exact rfl | (intro _) | with_reducible apply runToCycle_keeps
    | with_reducible apply setLane_keeps | with_reducible apply Keeps.ite | split | dsimp only
    | fail_if_no_progress with_reducible apply Keeps.fields

theorem sensorState_keeps {s0 : State} (s : State) (g n cause : Nat) (kp : Keeps s0 s) :
    Keeps s0 (sensorState s g n cause) := by
  unfold sensorState
  repeat'
    first
    | with_reducible assumption | with_reducible exact id | with_reducible exact fun _ => id
    | with_reducible apply tput_twf | exact rfl | (intro _) | with_reducible apply noticeBoth_keeps
    | with_reducible apply setLane_keeps | with_reducible apply Keeps.ite | split | dsimp only
    | fail_if_no_progress with_reducible apply Keeps.fields

theorem emitRead_keeps {s0 : State} (s : State) (g n : Nat) (kp : Keeps s0 s) :
    Keeps s0 (emitRead s g n) := by
  unfold emitRead
  repeat'
    first
    | with_reducible assumption | with_reducible exact id | with_reducible exact fun _ => id
    | with_reducible apply tput_twf | exact rfl | (intro _) | with_reducible apply Keeps.ite | split
    | dsimp only | fail_if_no_progress with_reducible apply Keeps.fields
    | with_reducible apply Keeps.fieldsSent | with_reducible apply Keeps.litSent

theorem pollReads_keeps {s0 : State} (g : Nat) (l : List SensorRead) (n : Nat) (top : Option Int) (s : State)
    (h : Keeps s0 s) : Keeps s0 (pollReads g l n top s).2 := by
  induction l generalizing n top s with
  | nil => exact h
  | cons r rs ih =>
    unfold pollReads
    repeat'
      first
      | with_reducible assumption | with_reducible apply ih | with_reducible apply sensorState_keeps
      | with_reducible apply emitRead_keeps
      | split

theorem sensorPollEnd_keeps {s0 : State} (s : State) (g : Nat) (reads : List SensorRead) (kp : Keeps s0 s) :
    Keeps s0 (sensorPollEnd s g reads) := by
  unfold sensorPollEnd
  repeat'
    first
    | with_reducible assumption | with_reducible exact id | with_reducible exact fun _ => id
    | with_reducible apply tput_twf | exact rfl | (intro _) | with_reducible apply pollReads_keeps
    | (refine Keeps.ofEq ?_ (by assumption); with_reducible apply pollReads_keeps)
    | with_reducible apply setLane_keeps | with_reducible apply setLive_keeps
    | with_reducible apply Keeps.ite | split | dsimp only
    | fail_if_no_progress with_reducible apply Keeps.fields

end Sys2Proof.Machine
end

