-- ==== Sys2Proof/Laws/KeepsMac.lean ====
section
/-! SUPPORT. Laws/KeepsMac.lean: every operation of Machine/Mac.lean keeps what `Keeps` names. -/
namespace Sys2Proof.Machine

theorem setPort_keeps {s0 : State} (s : State) (p : Nat) (x : MacPort) (kp : Keeps s0 s) :
    Keeps s0 (setPort s p x) := by
  unfold setPort
  repeat'
    first
    | with_reducible assumption | with_reducible exact id | with_reducible exact fun _ => id
    | with_reducible apply tput_twf | exact rfl | (intro _) | with_reducible apply Keeps.ite | split
    | dsimp only | fail_if_no_progress with_reducible apply Keeps.fields
    | with_reducible apply Keeps.ofMac

theorem count_keeps {s0 : State} (s : State) (p i n : Nat) (kp : Keeps s0 s) :
    Keeps s0 (count s p i n) := by
  unfold count
  repeat'
    first
    | with_reducible assumption | with_reducible exact id | with_reducible exact fun _ => id
    | with_reducible apply tput_twf | exact rfl | (intro _) | with_reducible apply setPort_keeps
    | with_reducible apply noticeBoth_keeps | with_reducible apply Keeps.ite | split | dsimp only
    | fail_if_no_progress with_reducible apply Keeps.fields

theorem countFrame_keeps {s0 : State} (s : State) (p base tagIx bin : Nat) (bytes : List Byte) (kp : Keeps s0 s) :
    Keeps s0 (countFrame s p base tagIx bin bytes) := by
  unfold countFrame
  repeat'
    first
    | with_reducible assumption | (intro _) | with_reducible apply count_keeps
    | with_reducible apply Keeps.ite | split | dsimp only

theorem setQueueAt_keeps {s0 : State} (s : State) (p q : Nat) (l : List TxFrame) (kp : Keeps s0 s) :
    Keeps s0 (setQueueAt s p q l) := by
  unfold setQueueAt
  repeat'
    first
    | with_reducible assumption | with_reducible exact id | with_reducible exact fun _ => id
    | with_reducible apply tput_twf | exact rfl | (intro _) | with_reducible apply setPort_keeps
    | with_reducible apply Keeps.ite | split | dsimp only
    | fail_if_no_progress with_reducible apply Keeps.fields

theorem setWaitingAt_keeps {s0 : State} (s : State) (p q : Nat) (l : List TxFrame) (kp : Keeps s0 s) :
    Keeps s0 (setWaitingAt s p q l) := by
  unfold setWaitingAt
  repeat'
    first
    | with_reducible assumption | with_reducible exact id | with_reducible exact fun _ => id
    | with_reducible apply tput_twf | exact rfl | (intro _) | with_reducible apply setPort_keeps
    | with_reducible apply Keeps.ite | split | dsimp only
    | fail_if_no_progress with_reducible apply Keeps.fields

theorem discardFrame_keeps {s0 : State} (s : State) (p : Nat) (f : TxFrame) (kp : Keeps s0 s) :
    Keeps s0 (discardFrame s p f) := by
  unfold discardFrame
  repeat'
    first
    | with_reducible assumption | (intro _) | with_reducible apply count_keeps
    | with_reducible apply notice_keeps | with_reducible apply finish_keeps
    | with_reducible apply Keeps.ite | split | dsimp only

theorem keepFrame_keeps {s0 : State} (s : State) (f : TxFrame) (kp : Keeps s0 s) :
    Keeps s0 (keepFrame s f) := by
  unfold keepFrame
  repeat'
    first
    | with_reducible assumption | (intro _) | with_reducible apply finish_keeps
    | with_reducible apply Keeps.ite | split | dsimp only

theorem hand_keeps {s0 : State} (s : State) (p q : Nat) (f : TxFrame) (kp : Keeps s0 s) :
    Keeps s0 (hand s p q f) := by
  unfold hand
  repeat'
    first
    | with_reducible assumption | (intro _) | with_reducible apply keepFrame_keeps
    | with_reducible apply discardFrame_keeps | with_reducible apply setQueueAt_keeps
    | with_reducible apply begin_keeps | with_reducible apply setWaitingAt_keeps
    | with_reducible apply Keeps.ite | split | dsimp only

theorem enterQueue_keeps {s0 : State} (s : State) (p q : Nat) (kp : Keeps s0 s) :
    Keeps s0 (enterQueue s p q) := by
  unfold enterQueue
  repeat'
    first
    | with_reducible assumption | (intro _) | with_reducible apply hand_keeps
    | with_reducible apply setWaitingAt_keeps | with_reducible apply Keeps.ite | split | dsimp only

theorem enterQueues_keeps {s0 : State} (s : State) (p : Nat) (kp : Keeps s0 s) :
    Keeps s0 (enterQueues s p) := by
  unfold enterQueues
  repeat'
    first
    | with_reducible assumption | (intro _) | with_reducible apply enterQueue_keeps
    | with_reducible apply Keeps.foldl | with_reducible apply Keeps.foldlPair
    | with_reducible apply Keeps.ite | split | dsimp only

theorem discardAll_keeps {s0 : State} (s : State) (p : Nat) (kp : Keeps s0 s) :
    Keeps s0 (discardAll s p) := by
  unfold discardAll
  repeat'
    first
    | with_reducible assumption | with_reducible exact id | with_reducible exact fun _ => id
    | with_reducible apply tput_twf | with_reducible apply foldl_twf | exact rfl | (intro _)
    | with_reducible apply discardFrame_keeps | with_reducible apply setPort_keeps
    | with_reducible apply Keeps.foldl | with_reducible apply Keeps.foldlPair
    | with_reducible apply Keeps.ite | split | dsimp only
    | fail_if_no_progress with_reducible apply Keeps.fields

theorem setEgr_keeps {s0 : State} (s : State) (p : Nat) (x : EgrPort) (kp : Keeps s0 s) :
    Keeps s0 (setEgr s p x) := by
  unfold setEgr
  repeat'
    first
    | with_reducible assumption | with_reducible exact id | with_reducible exact fun _ => id
    | with_reducible apply tput_twf | (intro a; cases a; apply Egr.canon.mk) | exact rfl | (intro _)
    | with_reducible apply Keeps.ite | split | dsimp only
    | fail_if_no_progress with_reducible apply Keeps.fields | with_reducible apply Keeps.ofEgr

theorem noteLate_keeps {s0 : State} (s : State) (p : Nat) (f : TxFrame) (kp : Keeps s0 s) :
    Keeps s0 (noteLate s p f) := by
  unfold noteLate
  repeat'
    first
    | with_reducible assumption | with_reducible exact id | with_reducible exact fun _ => id
    | with_reducible apply tput_twf
    | (intro b a; cases a; cases (kp.canon b).egr; apply Egr.canon.mk) | exact rfl | (intro _)
    | with_reducible apply setEgr_keeps | with_reducible apply latchCount_keeps
    | with_reducible apply Keeps.ite | split | dsimp only
    | fail_if_no_progress with_reducible apply Keeps.fields

theorem txStart_keeps {s0 : State} (s : State) (p phase : Nat) (kp : Keeps s0 s) :
    Keeps s0 (txStart s p phase) := by
  unfold txStart
  repeat'
    first
    | with_reducible assumption | with_reducible exact id | with_reducible exact fun _ => id
    | with_reducible apply tput_twf | exact rfl | (intro _) | with_reducible apply noteLate_keeps
    | with_reducible apply setQueueAt_keeps | with_reducible apply setPort_keeps
    | with_reducible apply pushStamp_keeps | with_reducible apply Keeps.ite | split | dsimp only
    | fail_if_no_progress with_reducible apply Keeps.fields

theorem sharedWrite_keeps {s0 : State} (s : State) (a : Nat) (bs : List Byte) (kp : Keeps s0 s) :
    Keeps s0 (sharedWrite s a bs) := by
  unfold sharedWrite
  repeat'
    first
    | with_reducible assumption | with_reducible exact id | with_reducible exact fun _ => id
    | with_reducible apply tput_twf | with_reducible apply tputList_twf
    | (intro a; cases a; apply Ccs.canon.mk) | exact rfl | (intro _)
    | with_reducible apply Keeps.ite | split | dsimp only
    | fail_if_no_progress with_reducible apply Keeps.fields | with_reducible apply Keeps.ofCcs

theorem fwAdmit_keeps {s0 : State} (s : State) (p : Nat) (kp : Keeps s0 s) :
    Keeps s0 (fwAdmit s p) := by
  unfold fwAdmit
  repeat'
    first
    | with_reducible assumption | with_reducible exact id | with_reducible exact fun _ => id
    | with_reducible apply tput_twf | exact rfl | (intro _) | with_reducible apply notice_keeps
    | with_reducible apply setPort_keeps | with_reducible apply hand_keeps
    | with_reducible apply Keeps.ite | split | dsimp only
    | fail_if_no_progress with_reducible apply Keeps.fields

theorem fwTxGo_keeps {s0 : State} (s : State) (p : Nat) (v : Word) (kp : Keeps s0 s) :
    Keeps s0 (fwTxGo s p v) := by
  unfold fwTxGo
  repeat'
    first
    | with_reducible assumption | with_reducible exact id | with_reducible exact fun _ => id
    | with_reducible apply tput_twf | exact rfl | (intro _) | with_reducible apply plainWrite_keeps
    | with_reducible apply fwAdmit_keeps | with_reducible apply setPort_keeps
    | with_reducible apply Keeps.ite | split | dsimp only
    | fail_if_no_progress with_reducible apply Keeps.fields

theorem fwReceive_keeps {s0 : State} (s : State) (p : Nat) (record bytes : List Byte) (kp : Keeps s0 s) :
    Keeps s0 (fwReceive s p record bytes) := by
  unfold fwReceive
  repeat'
    first
    | with_reducible assumption | with_reducible exact id | with_reducible exact fun _ => id
    | with_reducible apply tput_twf | exact rfl | (intro _) | with_reducible apply count_keeps
    | with_reducible apply setPort_keeps | with_reducible apply sharedWrite_keeps
    | with_reducible apply notice_keeps | with_reducible apply Keeps.ite | split | dsimp only
    | fail_if_no_progress with_reducible apply Keeps.fields

theorem accountHold_keeps {s0 : State} (s : State) (p : Nat) (kp : Keeps s0 s) :
    Keeps s0 (accountHold s p) := by
  unfold accountHold
  repeat'
    first
    | with_reducible assumption | with_reducible exact id | with_reducible exact fun _ => id
    | with_reducible apply tput_twf | exact rfl | (intro _) | with_reducible apply count_keeps
    | with_reducible apply setPort_keeps | with_reducible apply Keeps.ite | split | dsimp only
    | fail_if_no_progress with_reducible apply Keeps.fields

theorem pauseSeen_keeps {s0 : State} (s : State) (p q l : Nat) (obey : Bool) (kp : Keeps s0 s) :
    Keeps s0 (pauseSeen s p q l obey) := by
  unfold pauseSeen
  repeat'
    first
    | with_reducible assumption | with_reducible exact id | with_reducible exact fun _ => id
    | with_reducible apply tput_twf | exact rfl | (intro _) | with_reducible apply accountHold_keeps
    | with_reducible apply setPort_keeps | with_reducible apply noticeBoth_keeps
    | with_reducible apply Keeps.ite | split | dsimp only
    | fail_if_no_progress with_reducible apply Keeps.fields

theorem holdEnd_keeps {s0 : State} (s : State) (p : Nat) (kp : Keeps s0 s) :
    Keeps s0 (holdEnd s p) := by
  unfold holdEnd
  repeat'
    first
    | with_reducible assumption | with_reducible exact id | with_reducible exact fun _ => id
    | with_reducible apply tput_twf | exact rfl | (intro _) | with_reducible apply accountHold_keeps
    | with_reducible apply runToCycle_keeps | with_reducible apply setPort_keeps
    | with_reducible apply Keeps.ite | split | dsimp only
    | fail_if_no_progress with_reducible apply Keeps.fields

theorem sendPause_keeps {s0 : State} (s : State) (p q : Nat) (kp : Keeps s0 s) :
    Keeps s0 (sendPause s p q) := by
  unfold sendPause
  repeat'
    first
    | with_reducible assumption | (intro _) | with_reducible apply setQueueAt_keeps
    | with_reducible apply Keeps.ite | split | dsimp only

theorem noteFill_keeps {s0 : State} (s : State) (p used : Nat) (kp : Keeps s0 s) :
    Keeps s0 (noteFill s p used) := by
  unfold noteFill
  repeat'
    first
    | with_reducible assumption | with_reducible exact id | with_reducible exact fun _ => id
    | with_reducible apply tput_twf
    | (intro b a; cases a; cases (kp.canon b).ing; apply Ing.canon.mk) | exact rfl | (intro _)
    | with_reducible apply setIng_keeps | with_reducible apply Keeps.ite | split | dsimp only
    | fail_if_no_progress with_reducible apply Keeps.fields

theorem pauseRefresh_keeps {s0 : State} (s : State) (p used : Nat) (kp : Keeps s0 s) :
    Keeps s0 (pauseRefresh s p used) := by
  unfold pauseRefresh
  repeat'
    first
    | with_reducible assumption | with_reducible exact id | with_reducible exact fun _ => id
    | with_reducible apply tput_twf | exact rfl | (intro _) | with_reducible apply noteFill_keeps
    | with_reducible apply sendPause_keeps | with_reducible apply setPort_keeps
    | with_reducible apply runToCycle_keeps | with_reducible apply Keeps.ite | split | dsimp only
    | fail_if_no_progress with_reducible apply Keeps.fields

theorem pauseXon_keeps {s0 : State} (s : State) (p used : Nat) (kp : Keeps s0 s) :
    Keeps s0 (pauseXon s p used) := by
  unfold pauseXon
  repeat'
    first
    | with_reducible assumption | with_reducible exact id | with_reducible exact fun _ => id
    | with_reducible apply tput_twf | exact rfl | (intro _) | with_reducible apply noteFill_keeps
    | with_reducible apply setPort_keeps | with_reducible apply sendPause_keeps
    | with_reducible apply Keeps.ite | split | dsimp only
    | fail_if_no_progress with_reducible apply Keeps.fields

theorem rxCheck_keeps {s0 : State} (s : State) (p : Nat) (bytes : List Byte) (fcsOk : Bool) (phase : Nat) (kp : Keeps s0 s) :
    Keeps s0 (rxCheck s p bytes fcsOk phase).2 := by
  unfold rxCheck
  repeat'
    first
    | with_reducible assumption | with_reducible exact id | with_reducible exact fun _ => id
    | with_reducible apply tput_twf | exact rfl | (intro _) | with_reducible apply count_keeps
    | with_reducible apply countFrame_keeps | with_reducible apply Keeps.ite | split | dsimp only
    | fail_if_no_progress with_reducible apply Keeps.fields

theorem noBuffer_keeps {s0 : State} (s : State) (p i : Nat) (kp : Keeps s0 s) :
    Keeps s0 (noBuffer s p i) := by
  unfold noBuffer
  repeat'
    first
    | with_reducible assumption | with_reducible exact id | with_reducible exact fun _ => id
    | with_reducible apply tput_twf | exact rfl | (intro _) | with_reducible apply count_keeps
    | with_reducible apply setPort_keeps | with_reducible apply notice_keeps
    | with_reducible apply Keeps.ite | split | dsimp only
    | fail_if_no_progress with_reducible apply Keeps.fields

theorem hostStage_keeps {s0 t : State} (s : State) (p : Nat) (f : RxFrame) (kp : Keeps s0 s)
    (e : hostStage s p f = some t) : Keeps s0 t := by
  unfold hostStage at e
  repeat' split at e
  all_goals first | cases e | (injection e with e; subst e)
  all_goals
    repeat'
      first
      | with_reducible assumption | with_reducible apply begin_keeps | with_reducible apply setPort_keeps
      | with_reducible apply finish_keeps | with_reducible apply noBuffer_keeps | with_reducible apply count_keeps

theorem dropRxWrite_keeps {s0 : State} (s : State) (t : Track) (kp : Keeps s0 s) :
    Keeps s0 (dropRxWrite s t) := by
  unfold dropRxWrite
  repeat'
    first
    | with_reducible assumption | with_reducible exact id | with_reducible exact fun _ => id
    | with_reducible apply tput_twf | with_reducible apply filter_twf | exact rfl | (intro _)
    | with_reducible apply setPort_keeps | with_reducible apply Keeps.ite | split | dsimp only
    | fail_if_no_progress with_reducible apply Keeps.fields

theorem rxPostDone_keeps {s0 : State} (s : State) (t : Track) (kp : Keeps s0 s) :
    Keeps s0 (rxPostDone s t) := by
  unfold rxPostDone
  repeat'
    first
    | with_reducible assumption | with_reducible exact id | with_reducible exact fun _ => id
    | with_reducible apply tput_twf | exact rfl | (intro _) | with_reducible apply dropRxWrite_keeps
    | with_reducible apply finish_keeps | with_reducible apply Keeps.ite | split | dsimp only
    | fail_if_no_progress with_reducible apply Keeps.fields | with_reducible apply Keeps.fieldsSent
    | with_reducible apply Keeps.litSent

theorem startRxFilter_keeps {s0 : State} (s : State) (t : Track) (kp : Keeps s0 s) :
    Keeps s0 (startRxFilter s t) := by
  unfold startRxFilter
  repeat'
    first
    | with_reducible assumption | with_reducible exact id | with_reducible exact fun _ => id
    | with_reducible apply tput_twf | with_reducible apply filter_twf | exact rfl | (intro _)
    | with_reducible apply finish_keeps | with_reducible apply setPort_keeps
    | with_reducible apply Keeps.ite | split | dsimp only
    | fail_if_no_progress with_reducible apply Keeps.fields

theorem startRxPost_keeps {s0 : State} (s : State) (t : Track) (kp : Keeps s0 s) :
    Keeps s0 (startRxPost s t) := by
  unfold startRxPost
  repeat'
    first
    | with_reducible assumption | (intro _) | with_reducible apply finish_keeps
    | with_reducible apply running_keeps | with_reducible apply Keeps.ite | split | dsimp only

theorem startRawTx_keeps {s0 : State} (s : State) (t : Track) (kp : Keeps s0 s) :
    Keeps s0 (startRawTx s t) := by
  unfold startRawTx
  repeat'
    first
    | with_reducible assumption | (intro _) | with_reducible apply finish_keeps
    | with_reducible apply running_keeps | with_reducible apply Keeps.ite | split | dsimp only

theorem rawTxRead_keeps {s0 : State} (s : State) (t : Track) (data : List Byte) (kp : Keeps s0 s) :
    Keeps s0 (rawTxRead s t data) := by
  unfold rawTxRead
  repeat'
    first
    | with_reducible assumption | with_reducible exact id | with_reducible exact fun _ => id
    | with_reducible apply tput_twf | exact rfl | (intro _) | with_reducible apply hand_keeps
    | with_reducible apply Keeps.ite | split | dsimp only
    | fail_if_no_progress with_reducible apply Keeps.fields

theorem pcsChange_keeps {s0 : State} (s : State) (p : Nat) (lock localF remoteF : Bool) (errors : Nat) (kp : Keeps s0 s) :
    Keeps s0 (pcsChange s p lock localF remoteF errors) := by
  unfold pcsChange
  repeat'
    first
    | with_reducible assumption | with_reducible exact id | with_reducible exact fun _ => id
    | with_reducible apply tput_twf | exact rfl | (intro _) | with_reducible apply count_keeps
    | with_reducible apply setPort_keeps | with_reducible apply Keeps.ite | split | dsimp only
    | fail_if_no_progress with_reducible apply Keeps.fields

theorem linkRise_keeps {s0 : State} (s : State) (p : Nat) (kp : Keeps s0 s) :
    Keeps s0 (linkRise s p) := by
  unfold linkRise
  repeat'
    first
    | with_reducible assumption | with_reducible exact id | with_reducible exact fun _ => id
    | with_reducible apply tput_twf | exact rfl | (intro _) | with_reducible apply runToCycle_keeps
    | with_reducible apply noticeBoth_keeps | with_reducible apply setPort_keeps
    | with_reducible apply Keeps.ite | split | dsimp only
    | fail_if_no_progress with_reducible apply Keeps.fields

theorem linkFall_keeps {s0 : State} (s : State) (p why : Nat) (kp : Keeps s0 s) :
    Keeps s0 (linkFall s p why) := by
  unfold linkFall
  repeat'
    first
    | with_reducible assumption | with_reducible exact id | with_reducible exact fun _ => id
    | with_reducible apply tput_twf | exact rfl | (intro _) | with_reducible apply count_keeps
    | with_reducible apply setPort_keeps | with_reducible apply noticeBoth_keeps
    | with_reducible apply discardAll_keeps | with_reducible apply Keeps.ite | split | dsimp only
    | fail_if_no_progress with_reducible apply Keeps.fields

theorem linkDown_keeps {s0 : State} (s : State) (p : Nat) (kp : Keeps s0 s) :
    Keeps s0 (linkDown s p) := by
  unfold linkDown
  repeat'
    first
    | with_reducible assumption | (intro _) | with_reducible apply runToCycle_keeps
    | with_reducible apply linkFall_keeps | with_reducible apply Keeps.ite | split | dsimp only

theorem macCtrlWrite_keeps {s0 : State} (s : State) (p : Nat) (v : Word) (kp : Keeps s0 s) :
    Keeps s0 (macCtrlWrite s p v) := by
  unfold macCtrlWrite
  repeat'
    first
    | with_reducible assumption | with_reducible exact id | with_reducible exact fun _ => id
    | with_reducible apply tput_twf | exact rfl | (intro _) | with_reducible apply plainWrite_keeps
    | with_reducible apply linkFall_keeps | with_reducible apply setPort_keeps
    | with_reducible apply Keeps.ite | split | dsimp only
    | fail_if_no_progress with_reducible apply Keeps.fields

theorem macSettingWrite_keeps {s0 : State} (s : State) (p a : Nat) (v : Word) (kp : Keeps s0 s) :
    Keeps s0 (macSettingWrite s p a v) := by
  unfold macSettingWrite
  repeat'
    first
    | with_reducible assumption | (intro _) | with_reducible apply latch_keeps
    | with_reducible apply plainWrite_keeps | with_reducible apply Keeps.ite | split | dsimp only

theorem applyPort_keeps {s0 : State} (s : State) (d : Desc) (kp : Keeps s0 s) :
    Keeps s0 (applyPort s d) := by
  unfold applyPort
  repeat'
    first
    | with_reducible assumption | (intro _) | with_reducible apply setReg_keeps
    | with_reducible apply macCtrlWrite_keeps | with_reducible apply Keeps.ite | split | dsimp only

theorem fwRelease_keeps {s0 : State} (s : State) (p : Nat) (v : Word) (kp : Keeps s0 s) :
    Keeps s0 (fwRelease s p v) := by
  unfold fwRelease
  repeat'
    first
    | with_reducible assumption | with_reducible exact id | with_reducible exact fun _ => id
    | with_reducible apply tput_twf | with_reducible apply filter_twf | exact rfl | (intro _)
    | with_reducible apply setPort_keeps | with_reducible apply Keeps.ite | split | dsimp only
    | fail_if_no_progress with_reducible apply Keeps.fields

theorem clearCounters_keeps {s0 : State} (s : State) (p : Nat) (v : Word) (kp : Keeps s0 s) :
    Keeps s0 (clearCounters s p v) := by
  unfold clearCounters
  repeat'
    first
    | with_reducible assumption | with_reducible exact id | with_reducible exact fun _ => id
    | with_reducible apply tput_twf | exact rfl | (intro _) | with_reducible apply accountHold_keeps
    | with_reducible apply setPort_keeps | with_reducible apply Keeps.ite | split | dsimp only
    | fail_if_no_progress with_reducible apply Keeps.fields

end Sys2Proof.Machine
end

