-- ==== Sys2Proof/Laws/KeepsFrames.lean ====
section
/-! SUPPORT. Laws/KeepsFrames.lean: every operation of Machine/Frames.lean keeps what `Keeps` names. -/
namespace Sys2Proof.Machine

theorem programTag_keeps {s0 : State} (s : State) (staged : Bool) (kp : Keeps s0 s) :
    Keeps s0 (programTag s staged).2 := by
  unfold programTag
  repeat'
    first
    | with_reducible assumption | (intro _) | with_reducible apply takeFree_keeps
    | (refine Keeps.ofEq ?_ (by assumption); with_reducible apply takeFree_keeps)
    | with_reducible apply Keeps.ite | split | dsimp only

end Sys2Proof.Machine
end

