-- ==== Sys2Proof/Laws/KeepsEgr.lean ====
section
/-! SUPPORT. Laws/KeepsEgr.lean: every operation of Machine/Egr.lean keeps what `Keeps` names. -/
namespace Sys2Proof.Machine

theorem setEgress_keeps {s0 : State} (s : State) (e : Egr) (kp : Keeps s0 s) (hc : s0.canon → s.egr.canon → e.canon) :
    Keeps s0 (setEgress s e) :=
  ⟨kp.pending, kp.sound, kp.out, kp.wear, fun b => (Keeps.ofEgr kp (hc b)).canon b⟩

theorem putFrame_keeps {s0 : State} (s : State) (p k : Nat) (f : List Byte) (kp : Keeps s0 s) :
    Keeps s0 (putFrame s p k f) := by
  unfold putFrame
  repeat'
    first
    | with_reducible assumption | with_reducible exact id | with_reducible exact fun _ => id
    | with_reducible apply tput_twf | (intro a; cases a; apply Run.canon.mk) | exact rfl | (intro _)
    | with_reducible apply Keeps.ite | split | dsimp only
    | fail_if_no_progress with_reducible apply Keeps.fields | with_reducible apply Keeps.ofRun

theorem buildMarks_keeps {s0 : State} (s : State) (p : Nat) (kp : Keeps s0 s) :
    Keeps s0 (buildMarks s p) := by
  unfold buildMarks
  repeat'
    first
    | with_reducible assumption | (intro _) | with_reducible apply putFrame_keeps
    | with_reducible apply Keeps.foldl | with_reducible apply Keeps.foldlPair
    | with_reducible apply Keeps.ite | split | dsimp only

theorem portBoundary_keeps {s0 : State} (s : State) (p : Nat) (kp : Keeps s0 s) :
    Keeps s0 (portBoundary s p) := by
  unfold portBoundary
  repeat'
    first
    | with_reducible assumption | with_reducible exact id | with_reducible exact fun _ => id
    | with_reducible apply tput_twf | exact rfl | (intro _) | with_reducible apply setEgr_keeps
    | with_reducible apply noticeBoth_keeps | with_reducible apply Keeps.ite | split | dsimp only
    | fail_if_no_progress with_reducible apply Keeps.fields

theorem egrBoundary_keeps {s0 : State} (s : State) (kp : Keeps s0 s) :
    Keeps s0 (egrBoundary s) := by
  have h1 := Keeps.foldl (f := portBoundary) (l := List.range 32) (fun t n ht => portBoundary_keeps t n ht) kp
  unfold egrBoundary
  dsimp only
  generalize List.foldl portBoundary s (List.range 32) = t at *
  have h2 := setEgress_keeps t { t.egr with slot := regFld t EGR_AUTH 5 0 } h1 fun _ a => ⟨a.ports, a.change, a.pairs⟩
  generalize setEgress t { t.egr with slot := regFld t EGR_AUTH 5 0 } = u at *
  have h3 : Keeps s0 (noteKey { u with run := { u.run with frames := [] } }) := by
    apply noteKey_keeps
    exact Keeps.ofRun h2 fun a => ⟨a.grey, a.fixtures, rfl⟩
  have h4 := Keeps.foldl (f := buildMarks) (l := List.range 32) (fun t n ht => buildMarks_keeps t n ht) h3
  generalize List.foldl buildMarks _ (List.range 32) = v at *
  exact setEgress_keeps v _ h4 fun _ a => ⟨a.ports, a.change, a.pairs⟩

theorem removeFrames_keeps {s0 : State} (s : State) (p : Nat) (drop : TxFrame → Bool) (kp : Keeps s0 s) :
    Keeps s0 (removeFrames s p drop) := by
  unfold removeFrames
  repeat'
    first
    | with_reducible assumption | with_reducible exact id | with_reducible exact fun _ => id
    | with_reducible apply tput_twf | with_reducible apply filter_twf
    | with_reducible apply tmap_twf | exact rfl | (intro _) | with_reducible apply setPort_keeps
    | with_reducible apply Keeps.ite | split | dsimp only
    | fail_if_no_progress with_reducible apply Keeps.fields

theorem abortPort_keeps {s0 : State} (h : Hoop) (miss : Option Nat) (s : State) (p : Nat) (kp : Keeps s0 s) :
    Keeps s0 (abortPort h miss s p) := by
  unfold abortPort
  repeat'
    first
    | with_reducible assumption | with_reducible exact id | with_reducible exact fun _ => id
    | with_reducible apply tput_twf | exact rfl | (intro _) | with_reducible apply setEgr_keeps
    | with_reducible apply removeFrames_keeps | with_reducible apply latchCount_keeps
    | with_reducible apply hand_keeps | with_reducible apply Keeps.ite | split | dsimp only
    | fail_if_no_progress with_reducible apply Keeps.fields

theorem abortHoop_keeps {s0 : State} (s : State) (cause port entry : Nat) (kp : Keeps s0 s) :
    Keeps s0 (abortHoop s cause port entry) := by
  unfold abortHoop
  dsimp only
  split
  · have h1 := markAbort_keeps s cause port entry kp
    have h2 := Keeps.foldl (l := List.range 32) (fun t n ht => abortPort_keeps s.hoop.fNumber
      (if cause = 1 ∧ n = port then some entry else none) t n ht) h1
    generalize List.foldl _ _ (List.range 32) = v at *
    exact setEgress_keeps v _ h2 fun _ a => ⟨a.ports, a.change, a.pairs⟩
  · exact kp

theorem raiseSeq_keeps {s0 : State} (s : State) (p : Nat) (kp : Keeps s0 s) :
    Keeps s0 (raiseSeq s p) := by
  unfold raiseSeq
  repeat'
    first
    | with_reducible assumption | with_reducible exact id | with_reducible exact fun _ => id
    | with_reducible apply tput_twf | exact rfl | (intro _) | with_reducible apply setEgr_keeps
    | with_reducible apply Keeps.ite | split | dsimp only
    | fail_if_no_progress with_reducible apply Keeps.fields

theorem handUnscheduled_keeps {s0 : State} (s : State) (p : Nat) (sender : Sender) (f : List Byte) (kp : Keeps s0 s) :
    Keeps s0 (handUnscheduled s p sender f) := by
  unfold handUnscheduled
  repeat'
    first
    | with_reducible assumption | (intro _) | with_reducible apply latchCount_keeps
    | with_reducible apply hand_keeps | with_reducible apply raiseSeq_keeps
    | with_reducible apply Keeps.ite | split | dsimp only

theorem sendControls_keeps {s0 : State} (s : State) (p : Nat) (h : Hoop) (kp : Keeps s0 s) :
    Keeps s0 (sendControls s p h) := by
  unfold sendControls
  repeat'
    first
    | with_reducible assumption | with_reducible exact id | with_reducible exact fun _ => id
    | with_reducible apply tput_twf | with_reducible apply filter_twf
    | with_reducible apply foldl_twf | exact rfl | (intro _) | with_reducible apply setEgr_keeps
    | with_reducible apply handUnscheduled_keeps | with_reducible apply Keeps.foldl
    | with_reducible apply Keeps.foldlPair | with_reducible apply Keeps.ite | split | dsimp only
    | fail_if_no_progress with_reducible apply Keeps.fields

theorem handEntry_keeps {s0 : State} (s : State) (p k : Nat) (e : Sched) (kp : Keeps s0 s) :
    Keeps s0 (handEntry s p k e) := by
  unfold handEntry
  repeat'
    first
    | with_reducible assumption | with_reducible exact id | with_reducible exact fun _ => id
    | with_reducible apply tput_twf | exact rfl | (intro _) | with_reducible apply setEgr_keeps
    | with_reducible apply latchCount_keeps | with_reducible apply hand_keeps
    | with_reducible apply Keeps.ite | split | dsimp only
    | fail_if_no_progress with_reducible apply Keeps.fields

theorem launch_keeps {s0 : State} (s : State) (p : Nat) (built : Bool) (kp : Keeps s0 s) :
    Keeps s0 (launch s p built) := by
  unfold launch
  repeat'
    first
    | with_reducible assumption | with_reducible exact id | with_reducible exact fun _ => id
    | with_reducible apply tput_twf | exact rfl | (intro _) | with_reducible apply running_keeps
    | with_reducible apply runTo_keeps | with_reducible apply setEgr_keeps
    | with_reducible apply abortHoop_keeps | with_reducible apply handEntry_keeps
    | with_reducible apply sendControls_keeps | with_reducible apply Keeps.ite | split | dsimp only
    | fail_if_no_progress with_reducible apply Keeps.fields

theorem deadlinePort_keeps {s0 : State} (h : Hoop) (s : State) (p : Nat) (kp : Keeps s0 s) :
    Keeps s0 (deadlinePort h s p) := by
  unfold deadlinePort
  repeat'
    first
    | with_reducible assumption | with_reducible exact id | with_reducible exact fun _ => id
    | with_reducible apply tput_twf | with_reducible apply filter_twf | exact rfl | (intro _)
    | with_reducible apply latchCount_keeps | with_reducible apply removeFrames_keeps
    | with_reducible apply setEgr_keeps | with_reducible apply noticeBoth_keeps
    | with_reducible apply Keeps.ite | split | dsimp only
    | fail_if_no_progress with_reducible apply Keeps.fields

theorem builtBefore_keeps {s0 : State} (s : State) (p k : Nat) (kp : Keeps s0 s) :
    Keeps s0 (builtBefore s p k).2 := by
  unfold builtBefore
  repeat'
    first
    | with_reducible assumption | (intro _) | with_reducible apply takeFree_keeps
    | (refine Keeps.ofEq ?_ (by assumption); with_reducible apply takeFree_keeps)
    | with_reducible apply Keeps.ite | split | dsimp only

theorem builtEntries_keeps {s0 : State} (s : State) (p : Nat) (kp : Keeps s0 s) :
    Keeps s0 (builtEntries s p).2 := by
  unfold builtEntries
  repeat'
    first
    | with_reducible assumption | (intro _) | with_reducible apply builtBefore_keeps
    | (refine Keeps.ofEq ?_ (by assumption); with_reducible apply builtBefore_keeps)
    | with_reducible apply Keeps.foldl | with_reducible apply Keeps.foldlPair
    | with_reducible apply Keeps.ite | split | dsimp only

theorem runDigests_keeps {s0 : State} (s : State) (h : Hoop) (kp : Keeps s0 s) :
    Keeps s0 (runDigests s h).2 := by
  unfold runDigests
  repeat'
    first
    | with_reducible assumption | (intro _) | with_reducible apply builtEntries_keeps
    | (refine Keeps.ofEq ?_ (by assumption); with_reducible apply builtEntries_keeps)
    | with_reducible apply Keeps.foldl | with_reducible apply Keeps.foldlPair
    | with_reducible apply Keeps.ite | split | dsimp only

theorem egressDeadline_keeps {s0 : State} (s : State) (kp : Keeps s0 s) :
    Keeps s0 (egressDeadline s) := by
  unfold egressDeadline
  dsimp only
  have h1 := runTo_keeps (moveQ s.hoop.bNext (-(leadQ s 4 : Nat))) s kp
  have h2 := Keeps.foldl (f := deadlinePort s.hoop.fNumber) (l := List.range 32)
    (fun t n ht => deadlinePort_keeps _ t n ht) h1
  generalize List.foldl _ _ (List.range 32) = v at *
  exact setEgress_keeps _ _ (runDigests_keeps _ _ h2) fun _ a => ⟨a.ports, a.change, a.pairs⟩

theorem startDigestRead_keeps {s0 : State} (s : State) (t : Track) (kp : Keeps s0 s) :
    Keeps s0 (startDigestRead s t) := by
  unfold startDigestRead
  repeat'
    first
    | with_reducible assumption | (intro _) | with_reducible apply finish_keeps
    | with_reducible apply Keeps.ite | split | dsimp only

theorem queueRefresh_keeps {s0 : State} (r : Refresh) (s : State) (p : Nat) (kp : Keeps s0 s) :
    Keeps s0 (queueRefresh r s p) := by
  unfold queueRefresh
  repeat'
    first
    | with_reducible assumption | with_reducible exact id | with_reducible exact fun _ => id
    | with_reducible apply tput_twf | exact rfl | (intro _) | with_reducible apply setEgr_keeps
    | with_reducible apply Keeps.ite | split | dsimp only
    | fail_if_no_progress with_reducible apply Keeps.fields

theorem refreshMotif_keeps {s0 : State} (s : State) (m : Nat) (kp : Keeps s0 s) :
    Keeps s0 (refreshMotif s m) := by
  unfold refreshMotif
  repeat'
    first
    | with_reducible assumption | (intro _) | with_reducible apply queueRefresh_keeps
    | with_reducible apply Keeps.foldl | with_reducible apply Keeps.foldlPair
    | with_reducible apply Keeps.ite | split | dsimp only

theorem refreshPort_keeps {s0 : State} (s : State) (p : Nat) (kp : Keeps s0 s) :
    Keeps s0 (refreshPort s p) := by
  unfold refreshPort
  repeat'
    first
    | with_reducible assumption | (intro _) | with_reducible apply queueRefresh_keeps
    | with_reducible apply Keeps.foldl | with_reducible apply Keeps.foldlPair
    | with_reducible apply Keeps.ite | split | dsimp only

theorem refreshDone_keeps {s0 : State} (s : State) (r : Refresh) (kp : Keeps s0 s) :
    Keeps s0 (refreshDone s r) := by
  unfold refreshDone
  repeat'
    first
    | with_reducible assumption | (intro _) | with_reducible apply finish_keeps
    | with_reducible apply Keeps.ite | split | dsimp only

theorem applyProgramSend_keeps {s0 : State} (s : State) (m : Member) (kp : Keeps s0 s) :
    Keeps s0 (applyProgramSend s m) := by
  unfold applyProgramSend
  repeat'
    first
    | with_reducible assumption | (intro _) | with_reducible apply finishMember_keeps
    | with_reducible apply queueRefresh_keeps | with_reducible apply begin_keeps
    | with_reducible apply finish_keeps | with_reducible apply Keeps.foldl
    | with_reducible apply Keeps.foldlPair | with_reducible apply Keeps.ite | split | dsimp only

theorem takeRefresh_keeps {s0 : State} (s : State) (p : Nat) (kp : Keeps s0 s) :
    Keeps s0 (takeRefresh s p) := by
  unfold takeRefresh
  repeat'
    first
    | with_reducible assumption | with_reducible exact id | with_reducible exact fun _ => id
    | with_reducible apply tput_twf | exact rfl | (intro _) | with_reducible apply programTag_keeps
    | (refine Keeps.ofEq ?_ (by assumption); with_reducible apply programTag_keeps)
    | with_reducible apply setEgr_keeps | with_reducible apply Keeps.ite | split | dsimp only
    | fail_if_no_progress with_reducible apply Keeps.fields

theorem sendFragment_keeps {s0 : State} (s : State) (p : Nat) (x : Sending) (kp : Keeps s0 s) :
    Keeps s0 (sendFragment s p x) := by
  unfold sendFragment
  repeat'
    first
    | with_reducible assumption | with_reducible exact id | with_reducible exact fun _ => id
    | with_reducible apply tput_twf | exact rfl | (intro _) | with_reducible apply count_keeps
    | with_reducible apply setEgr_keeps | with_reducible apply handUnscheduled_keeps
    | with_reducible apply refreshDone_keeps | with_reducible apply Keeps.ite | split | dsimp only
    | fail_if_no_progress with_reducible apply Keeps.fields

theorem dropRefreshes_keeps {s0 : State} (s : State) (p : Nat) (kp : Keeps s0 s) :
    Keeps s0 (dropRefreshes s p) := by
  unfold dropRefreshes
  repeat'
    first
    | with_reducible assumption | with_reducible exact id | with_reducible exact fun _ => id
    | with_reducible apply tput_twf | with_reducible apply foldl_twf | exact rfl | (intro _)
    | with_reducible apply refreshDone_keeps | with_reducible apply setEgr_keeps
    | with_reducible apply Keeps.foldl | with_reducible apply Keeps.foldlPair
    | with_reducible apply Keeps.ite | split | dsimp only
    | fail_if_no_progress with_reducible apply Keeps.fields

theorem cutRefreshes_keeps {s0 : State} (s : State) (p : Nat) (kp : Keeps s0 s) :
    Keeps s0 (cutRefreshes s p) := by
  unfold cutRefreshes
  repeat'
    first
    | with_reducible assumption | (intro _) | with_reducible apply dropRefreshes_keeps
    | with_reducible apply Keeps.ite | split | dsimp only

theorem programQueue_keeps {s0 : State} (s : State) (p : Nat) (kp : Keeps s0 s) :
    Keeps s0 (programQueue s p) := by
  unfold programQueue
  repeat'
    first
    | with_reducible assumption | (intro _) | with_reducible apply dropRefreshes_keeps
    | with_reducible apply takeRefresh_keeps | with_reducible apply sendFragment_keeps
    | with_reducible apply Keeps.ite | split | dsimp only

theorem prunePending_keeps {s0 : State} (s : State) (p : Nat) (kp : Keeps s0 s) :
    Keeps s0 (prunePending s p) := by
  unfold prunePending
  repeat'
    first
    | with_reducible assumption | with_reducible exact id | with_reducible exact fun _ => id
    | with_reducible apply tput_twf | with_reducible apply filter_twf
    | with_reducible apply foldl_twf | exact rfl | (intro _)
    | with_reducible apply refreshDone_keeps | with_reducible apply setEgr_keeps
    | with_reducible apply Keeps.foldl | with_reducible apply Keeps.foldlPair
    | with_reducible apply Keeps.ite | split | dsimp only
    | fail_if_no_progress with_reducible apply Keeps.fields

theorem applyOwner_keeps {s0 : State} (s : State) (d : Desc) (kp : Keeps s0 s) :
    Keeps s0 (applyOwner s d) := by
  unfold applyOwner
  repeat'
    first
    | with_reducible assumption | with_reducible exact id | with_reducible exact fun _ => id
    | with_reducible apply tput_twf | with_reducible apply foldl_twf | exact rfl | (intro _)
    | with_reducible apply setLive_keeps | with_reducible apply Keeps.foldl
    | with_reducible apply Keeps.foldlPair | with_reducible apply Keeps.ite | split | dsimp only
    | fail_if_no_progress with_reducible apply Keeps.fields

theorem queueControl_keeps {s0 : State} (s : State) (m command arg : Nat) (h : Hoop) (kp : Keeps s0 s) :
    Keeps s0 (queueControl s m command arg h) := by
  unfold queueControl
  repeat'
    first
    | with_reducible assumption | with_reducible exact id | with_reducible exact fun _ => id
    | with_reducible apply tput_twf | with_reducible apply foldl_twf | exact rfl | (intro _)
    | with_reducible apply setEgr_keeps | with_reducible apply Keeps.foldl
    | with_reducible apply Keeps.foldlPair | with_reducible apply Keeps.ite | split | dsimp only
    | fail_if_no_progress with_reducible apply Keeps.fields

theorem motifCommand_keeps {s0 : State} (s : State) (m command arg : Nat) (h : Hoop) (kp : Keeps s0 s) :
    Keeps s0 (motifCommand s m command arg h) := by
  unfold motifCommand
  repeat'
    first
    | with_reducible assumption | with_reducible exact id | with_reducible exact fun _ => id
    | with_reducible apply tput_twf | exact rfl | (intro _)
    | with_reducible apply queueControl_keeps | with_reducible apply setLive_keeps
    | with_reducible apply Keeps.ite | split | dsimp only
    | fail_if_no_progress with_reducible apply Keeps.fields

theorem recordForeign_keeps {s0 : State} (s : State) (p m cid epoch : Nat) (kp : Keeps s0 s) :
    Keeps s0 (recordForeign s p m cid epoch) := by
  unfold recordForeign
  repeat'
    first
    | with_reducible assumption | with_reducible exact id | with_reducible exact fun _ => id
    | with_reducible apply tput_twf | exact rfl | (intro _) | with_reducible apply noticeBoth_keeps
    | with_reducible apply setLive_keeps | with_reducible apply Keeps.ite | split | dsimp only
    | fail_if_no_progress with_reducible apply Keeps.fields

theorem writeEffect_keeps {s0 : State} (s : State) (p : Nat) (h : Hoop) (r : LiveRec) (kp : Keeps s0 s) :
    Keeps s0 (writeEffect s p h r) := by
  unfold writeEffect
  repeat'
    first
    | with_reducible assumption | with_reducible exact id | with_reducible exact fun _ => id
    | with_reducible apply tput_twf | exact rfl | (intro _) | with_reducible apply setLive_keeps
    | with_reducible apply recordForeign_keeps | with_reducible apply Keeps.ite | split | dsimp only
    | fail_if_no_progress with_reducible apply Keeps.fields

theorem acceptReturn_keeps {s0 : State} (s : State) (p : Nat) (t : List Byte) (kp : Keeps s0 s) :
    Keeps s0 (acceptReturn s p t) := by
  unfold acceptReturn
  repeat'
    first
    | with_reducible assumption | with_reducible exact id | with_reducible exact fun _ => id
    | with_reducible apply tput_twf | with_reducible exact noClosed_canon
    | (intro a; cases a; apply Twn.canon.mk)
    | (intro b a; cases a; cases (kp.canon b).egr; apply Egr.canon.mk) | exact rfl | (intro _)
    | with_reducible apply latchCount_keeps | with_reducible apply setEgress_keeps
    | with_reducible apply writeEffect_keeps | with_reducible apply refreshMotif_keeps
    | with_reducible apply Keeps.ite | split | dsimp only
    | fail_if_no_progress with_reducible apply Keeps.fields | with_reducible apply Keeps.ofTwn

theorem classifyTirum_keeps {s0 : State} (s : State) (p pad : Nat) (t : List Byte) (kp : Keeps s0 s) :
    Keeps s0 (classifyTirum s p pad t) := by
  unfold classifyTirum
  repeat'
    first
    | with_reducible assumption | with_reducible exact id | with_reducible exact fun _ => id
    | with_reducible apply tput_twf | with_reducible exact noClosed_canon
    | (intro a; cases a; apply Twn.canon.mk) | exact rfl | (intro _)
    | with_reducible apply latchCount_keeps | with_reducible apply setEgr_keeps
    | with_reducible apply acceptReturn_keeps | with_reducible apply Keeps.ite | split | dsimp only
    | fail_if_no_progress with_reducible apply Keeps.fields | with_reducible apply Keeps.ofTwn

theorem refillPort_keeps {s0 : State} (s : State) (p : Nat) (kp : Keeps s0 s) :
    Keeps s0 (refillPort s p) := by
  unfold refillPort
  repeat'
    first
    | with_reducible assumption | with_reducible exact id | with_reducible exact fun _ => id
    | with_reducible apply tput_twf | exact rfl | (intro _) | with_reducible apply setEgr_keeps
    | with_reducible apply Keeps.ite | split | dsimp only
    | fail_if_no_progress with_reducible apply Keeps.fields

theorem tokenRefill_keeps {s0 : State} (s : State) (kp : Keeps s0 s) :
    Keeps s0 (tokenRefill s) := by
  unfold tokenRefill
  repeat'
    first
    | with_reducible assumption | (intro _) | with_reducible apply refillPort_keeps
    | with_reducible apply runToCycle_keeps | with_reducible apply Keeps.foldl
    | with_reducible apply Keeps.foldlPair | with_reducible apply Keeps.ite | split | dsimp only

end Sys2Proof.Machine
end

