-- ==== Sys2Proof/Laws/KeepsPipeline.lean ====
section
/-! SUPPORT. Laws/KeepsPipeline.lean: every operation of Machine/Pipeline.lean keeps what `Keeps` names. -/
namespace Sys2Proof.Machine

theorem setRun_keeps {s0 : State} (s : State) (r : Run) (kp : Keeps s0 s) (hc : s0.canon → s.run.canon → r.canon) :
    Keeps s0 (setRun s r) :=
  ⟨kp.pending, kp.sound, kp.out, kp.wear, fun b => (Keeps.ofRun kp (hc b)).canon b⟩

theorem walkEntry_keeps {s0 : State} (h : Hoop) (s : State) (n : Nat) (kp : Keeps s0 s) :
    Keeps s0 (walkEntry h s n) := by
  unfold walkEntry
  repeat'
    first
    | with_reducible assumption | with_reducible exact id | with_reducible exact fun _ => id
    | with_reducible apply tput_twf
    | (intro b a; cases a; cases (kp.canon b).run; apply Run.canon.mk) | exact rfl | (intro _)
    | with_reducible apply setRun_keeps | with_reducible apply pixelEntry_keeps
    | (refine Keeps.ofEq ?_ (by assumption); with_reducible apply pixelEntry_keeps)
    | with_reducible apply Keeps.ite | split | dsimp only
    | fail_if_no_progress with_reducible apply Keeps.fields

theorem packLocal_keeps {s0 : State} (s : State) (m : Nat) (kp : Keeps s0 s) :
    Keeps s0 (packLocal s m) := by
  unfold packLocal
  repeat'
    first
    | with_reducible assumption | with_reducible exact id | with_reducible exact fun _ => id
    | with_reducible apply tput_twf | (intro a; cases a; apply Sti.canon.mk) | exact rfl | (intro _)
    | with_reducible apply Keeps.ite | split | dsimp only
    | fail_if_no_progress with_reducible apply Keeps.fields | with_reducible apply Keeps.ofSti

theorem buildPort_keeps {s0 : State} (h : Hoop) (s : State) (p : Nat) (kp : Keeps s0 s) :
    Keeps s0 (buildPort h s p) := by
  unfold buildPort
  repeat'
    first
    | with_reducible assumption | (intro _) | with_reducible apply putFrame_keeps
    | with_reducible apply Keeps.foldl | with_reducible apply Keeps.foldlPair
    | with_reducible apply Keeps.ite | split | dsimp only

theorem runPipeline_keeps {s0 : State} (h : Hoop) (s : State) (kp : Keeps s0 s) :
    Keeps s0 (runPipeline h s) := by
  unfold runPipeline
  repeat'
    first
    | with_reducible assumption | (intro _) | with_reducible apply estimateMotif_keeps
    | with_reducible apply walkEntry_keeps | with_reducible apply packLocal_keeps
    | with_reducible apply buildPort_keeps | with_reducible apply Keeps.foldl
    | with_reducible apply Keeps.foldlPair | with_reducible apply Keeps.ite | split | dsimp only

theorem pipelineStart_keeps {s0 : State} (s : State) (kp : Keeps s0 s) :
    Keeps s0 (pipelineStart s) := by
  unfold pipelineStart
  repeat'
    first
    | with_reducible assumption | with_reducible exact id | with_reducible exact fun _ => id
    | with_reducible apply tput_twf
    | (intro b a; cases a; cases (kp.canon b).run; apply Run.canon.mk)
    | (intro b a; cases a; cases (kp.canon b).egr; apply Egr.canon.mk) | exact rfl | (intro _)
    | with_reducible apply running_keeps | with_reducible apply runTo_keeps
    | with_reducible apply memRequest_keeps | with_reducible apply setHoop_keeps
    | with_reducible apply setEgress_keeps | with_reducible apply runPipeline_keeps
    | with_reducible apply setRun_keeps | with_reducible apply Keeps.ite | split | dsimp only
    | fail_if_no_progress with_reducible apply Keeps.fields

theorem completeRun_keeps {s0 : State} (s : State) (kp : Keeps s0 s) :
    Keeps s0 (completeRun s) := by
  unfold completeRun
  repeat'
    first
    | with_reducible assumption | with_reducible exact id | with_reducible exact fun _ => id
    | with_reducible apply tput_twf
    | (intro b a; cases a; cases (kp.canon b).lay; apply Lay.canon.mk)
    | (intro b a; cases a; cases (kp.canon b).run; apply Run.canon.mk) | exact rfl | (intro _)
    | with_reducible apply discardCol_keeps | with_reducible apply setLay_keeps
    | with_reducible apply completeCol_keeps | with_reducible apply setRun_keeps
    | with_reducible apply Keeps.ite | split | dsimp only
    | fail_if_no_progress with_reducible apply Keeps.fields

end Sys2Proof.Machine
end

