-- ==== Sys2Proof/Laws/KeepsChecks.lean ====
section
/-! SUPPORT. Laws/KeepsChecks.lean: every operation of Machine/Checks.lean keeps what `Keeps` names. -/
namespace Sys2Proof.Machine

theorem setLayerCfg_canon {c : Cfg} {d : Desc} (a : c.canon) : (setLayerCfg c d).canon := by
  unfold setLayerCfg
  dsimp only
  split
  · exact ⟨a.sessions, a.sources, a.layers, a.binds, a.parts⟩
  · exact ⟨a.sessions, a.sources, tput_twf a.layers, a.binds, a.parts⟩

theorem applyMember_canon {s : State} {e : EndState} {m : Member} (a : e.cfg.canon) :
    (applyMember s e m).cfg.canon := by
  unfold applyMember
  dsimp only
  split
  · exact ⟨a.sessions, a.sources, a.layers, tput_twf a.binds, a.parts⟩
  · exact ⟨a.sessions, a.sources, a.layers, tput_twf a.binds, a.parts⟩
  · exact ⟨a.sessions, a.sources, a.layers, a.binds, foldl_twf (fun _ _ h => tput_twf h) a.parts⟩
  · exact setLayerCfg_canon a
  · exact ⟨tput_twf a.sessions, a.sources, a.layers, a.binds, a.parts⟩
  · exact ⟨a.sessions, tput_twf a.sources, a.layers, a.binds, a.parts⟩
  · exact a
  · exact ⟨a.sessions, a.sources, a.layers, a.binds, a.parts⟩
  · split
    · exact a
    · exact a
  · exact ⟨a.sessions, a.sources, a.layers, a.binds, a.parts⟩
  · exact a

/-- The configuration that a set leaves has its tables in canonical form. -/
theorem endStateOf_canon {s : State} {ms : List Member} (a : s.cfg.canon) : (endStateOf s ms).cfg.canon := by
  have h : ∀ (l : List Member) (e : EndState), e.cfg.canon → (l.foldl (applyMember s) e).cfg.canon := by
    intro l
    induction l with
    | nil => exact fun _ h => h
    | cons m l ih => exact fun e h => ih _ (applyMember_canon h)
  exact h ms _ a

theorem postRefusal_keeps {s0 : State} (s : State) (r : Refuse) (kp : Keeps s0 s) :
    Keeps s0 (postRefusal s r) := by
  unfold postRefusal
  repeat'
    first
    | with_reducible assumption | (intro _) | with_reducible apply noticeBoth_keeps
    | with_reducible apply Keeps.ite | split | dsimp only

theorem acceptSet_keeps {s0 : State} (s : State) (e : EndState) (kp : Keeps s0 s) :
    Keeps s0 (acceptSet s e) := by
  unfold acceptSet
  repeat'
    first
    | with_reducible assumption | with_reducible exact id | with_reducible exact fun _ => id
    | with_reducible apply tput_twf | with_reducible apply foldl_twf | exact rfl | (intro _)
    | with_reducible apply bindHandles_keeps | with_reducible apply setStage_keeps
    | with_reducible apply setHoop_keeps | with_reducible apply Keeps.foldl
    | with_reducible apply Keeps.foldlPair | with_reducible apply Keeps.ite | split | dsimp only
    | fail_if_no_progress with_reducible apply Keeps.fields

end Sys2Proof.Machine
end

