-- ==== Sys2Proof/Laws/KeepsTwinLink.lean ====
section
/-! SUPPORT. Laws/KeepsTwinLink.lean: every operation of Machine/TwinLink.lean keeps what `Keeps` names. -/
namespace Sys2Proof.Machine

/-- With no closed set there is no configuration to hold canonical. -/
theorem noClosed_canon : ∀ e : EndState, none = some e → e.cfg.canon := nofun

theorem setTwn_keeps {s0 : State} (s : State) (t : Twn) (kp : Keeps s0 s) (hc : s0.canon → s.twn.canon → t.canon) :
    Keeps s0 (setTwn s t) :=
  ⟨kp.pending, kp.sound, kp.out, kp.wear, fun b => (Keeps.ofTwn kp (hc b)).canon b⟩

theorem handTwin_keeps {s0 : State} (s : State) (p q : Nat) (body : List Byte) (kp : Keeps s0 s) :
    Keeps s0 (handTwin s p q body) := by
  unfold handTwin
  repeat'
    first
    | with_reducible assumption | with_reducible exact id | with_reducible exact fun _ => id
    | with_reducible apply tput_twf | exact rfl | (intro _) | with_reducible apply hand_keeps
    | with_reducible apply Keeps.ite | split | dsimp only
    | fail_if_no_progress with_reducible apply Keeps.fields

theorem stepSeq_keeps {s0 : State} (s : State) (kp : Keeps s0 s) :
    Keeps s0 (stepSeq s) := by
  unfold stepSeq
  repeat'
    first
    | with_reducible assumption | with_reducible exact id | with_reducible exact fun _ => id
    | with_reducible apply tput_twf | with_reducible exact noClosed_canon
    | (intro b a; cases a; cases (kp.canon b).twn; apply Twn.canon.mk) | exact rfl | (intro _)
    | with_reducible apply setTwn_keeps | with_reducible apply Keeps.ite | split | dsimp only
    | fail_if_no_progress with_reducible apply Keeps.fields

theorem sendTwin_keeps {s0 : State} (s : State) (kind : Nat) (hoop : Hoop) (arg : Nat) (payload : List Byte) (kp : Keeps s0 s) :
    Keeps s0 (sendTwin s kind hoop arg payload).2 := by
  unfold sendTwin
  repeat'
    first
    | with_reducible assumption | (intro _) | with_reducible apply stepSeq_keeps
    | with_reducible apply handTwin_keeps | with_reducible apply Keeps.foldl
    | with_reducible apply Keeps.foldlPair | with_reducible apply Keeps.ite | split | dsimp only

theorem sendPlain_keeps {s0 : State} (s : State) (kind : Nat) (hoop : Hoop) (arg : Nat) (payload : List Byte) (kp : Keeps s0 s) :
    Keeps s0 (sendPlain s kind hoop arg payload) := by
  unfold sendPlain
  repeat'
    first
    | with_reducible assumption | (intro _) | with_reducible apply sendTwin_keeps
    | (refine Keeps.ofEq ?_ (by assumption); with_reducible apply sendTwin_keeps)
    | with_reducible apply Keeps.ite | split | dsimp only

theorem sendAwaiting_keeps {s0 : State} (s : State) (kind : Nat) (hoop : Hoop) (arg : Nat) (payload : List Byte) (track : Option Nat) (kp : Keeps s0 s) :
    Keeps s0 (sendAwaiting s kind hoop arg payload track) := by
  unfold sendAwaiting
  repeat'
    first
    | with_reducible assumption | with_reducible exact id | with_reducible exact fun _ => id
    | with_reducible apply tput_twf | with_reducible exact noClosed_canon
    | (intro b a; cases a; cases (kp.canon b).twn; apply Twn.canon.mk) | exact rfl | (intro _)
    | with_reducible apply sendTwin_keeps
    | (refine Keeps.ofEq ?_ (by assumption); with_reducible apply sendTwin_keeps)
    | with_reducible apply setTwn_keeps | with_reducible apply Keeps.ite | split | dsimp only
    | fail_if_no_progress with_reducible apply Keeps.fields

theorem sendAcks_keeps {s0 : State} (s : State) (kp : Keeps s0 s) :
    Keeps s0 (sendAcks s) := by
  unfold sendAcks
  repeat'
    first
    | with_reducible assumption | with_reducible exact id | with_reducible exact fun _ => id
    | with_reducible apply tput_twf | with_reducible apply foldl_twf
    | with_reducible exact noClosed_canon
    | (intro b a; cases a; cases (kp.canon b).twn; apply Twn.canon.mk) | exact rfl | (intro _)
    | with_reducible apply sendPlain_keeps | with_reducible apply setTwn_keeps
    | with_reducible apply Keeps.foldl | with_reducible apply Keeps.foldlPair
    | with_reducible apply Keeps.ite | split | dsimp only
    | fail_if_no_progress with_reducible apply Keeps.fields

theorem ackNow_keeps {s0 : State} (s : State) (seq st : Nat) (kp : Keeps s0 s) :
    Keeps s0 (ackNow s seq st) := by
  unfold ackNow
  repeat'
    first
    | with_reducible assumption | with_reducible exact id | with_reducible exact fun _ => id
    | with_reducible apply tput_twf | with_reducible exact noClosed_canon
    | (intro b a; cases a; cases (kp.canon b).twn; apply Twn.canon.mk) | exact rfl | (intro _)
    | with_reducible apply sendAcks_keeps | with_reducible apply setTwn_keeps
    | with_reducible apply Keeps.ite | split | dsimp only
    | fail_if_no_progress with_reducible apply Keeps.fields

theorem settleAck_keeps {s0 : State} (s : State) (id : Nat) (kp : Keeps s0 s) :
    Keeps s0 (settleAck s id) := by
  unfold settleAck
  repeat'
    first
    | with_reducible assumption | with_reducible exact id | with_reducible exact fun _ => id
    | with_reducible apply tput_twf | exact rfl | (intro _) | with_reducible apply dropTrack_keeps
    | with_reducible apply modTrack_keeps | with_reducible apply Keeps.ite | split | dsimp only
    | fail_if_no_progress with_reducible apply Keeps.fields

theorem unjoin_keeps {s0 : State} (s : State) (kp : Keeps s0 s) :
    Keeps s0 (unjoin s) := by
  unfold unjoin
  repeat'
    first
    | with_reducible assumption | with_reducible exact id | with_reducible exact fun _ => id
    | with_reducible apply tput_twf | with_reducible apply filter_twf
    | with_reducible apply foldl_twf | with_reducible exact noClosed_canon
    | (intro b a; cases a; cases (kp.canon b).twn; apply Twn.canon.mk) | exact rfl | (intro _)
    | with_reducible apply settleAck_keeps | with_reducible apply finish_keeps
    | with_reducible apply setTwn_keeps | with_reducible apply Keeps.foldl
    | with_reducible apply Keeps.foldlPair | with_reducible apply Keeps.ite | split | dsimp only
    | fail_if_no_progress with_reducible apply Keeps.fields

theorem stateNotice_keeps {s0 : State} (s : State) (old : TwinState) (cause : Nat) (kp : Keeps s0 s) :
    Keeps s0 (stateNotice s old cause) := by
  unfold stateNotice
  repeat'
    first
    | with_reducible assumption | (intro _) | with_reducible apply noticeBoth_keeps
    | with_reducible apply Keeps.ite | split | dsimp only

theorem dropEgress_keeps {s0 : State} (s : State) (p : Nat) (kp : Keeps s0 s) :
    Keeps s0 (dropEgress s p) := by
  unfold dropEgress
  repeat'
    first
    | with_reducible assumption | with_reducible exact id | with_reducible exact fun _ => id
    | with_reducible apply tput_twf | exact rfl | (intro _)
    | with_reducible apply dropRefreshes_keeps | with_reducible apply setEgr_keeps
    | with_reducible apply Keeps.ite | split | dsimp only
    | fail_if_no_progress with_reducible apply Keeps.fields

theorem dropPair_keeps {s0 : State} (s : State) (kp : Keeps s0 s) :
    Keeps s0 (dropPair s) := by
  unfold dropPair
  repeat'
    first
    | with_reducible assumption | with_reducible exact id | with_reducible exact fun _ => id
    | with_reducible apply tput_twf | with_reducible exact noClosed_canon
    | (intro b a; cases a; cases (kp.canon b).twn; apply Twn.canon.mk) | exact rfl | (intro _)
    | with_reducible apply setTwn_keeps | with_reducible apply Keeps.ite | split | dsimp only
    | fail_if_no_progress with_reducible apply Keeps.fields

theorem endSyncs_keeps {s0 : State} (s : State) (st : Nat) (kp : Keeps s0 s) :
    Keeps s0 (endSyncs s st) := by
  unfold endSyncs
  repeat'
    first
    | with_reducible assumption | (intro _) | with_reducible apply running_keeps
    | with_reducible apply finish_keeps | with_reducible apply Keeps.foldl
    | with_reducible apply Keeps.foldlPair | with_reducible apply Keeps.ite | split | dsimp only

theorem enterState_keeps {s0 : State} (s : State) (st : TwinState) (driving : Bool) (cause : Nat) (kp : Keeps s0 s) :
    Keeps s0 (enterState s st driving cause) := by
  have h1 : Keeps s0 (if s.twn.driving && !driving then unjoin s else s) := Keeps.ite (unjoin_keeps _ kp) kp
  unfold enterState
  dsimp only
  refine stateNotice_keeps _ _ _ ?_
  generalize (if s.twn.driving && !driving then unjoin s else s) = u at h1 ⊢
  generalize hv : setTwn u _ = v
  have h2 : Keeps s0 v := by
    subst hv
    exact setTwn_keeps _ _ h1 fun _ a => ⟨ite_twf a.frags rfl, a.closed⟩
  have h3 : Keeps s0 (if s.twn.driving && !driving then (List.range 32).foldl dropEgress v else v) :=
    Keeps.ite (Keeps.foldl (fun t p ht => dropEgress_keeps t p ht) h2) h2
  generalize (if s.twn.driving && !driving then (List.range 32).foldl dropEgress v else v) = w at h3 ⊢
  have h4 := Keeps.ite (c := st = .cold ∨ st = .faulted ∨ st = .syncing) (dropPair_keeps w h3) h3
  exact Keeps.ite (endSyncs_keeps _ _ h4) h4

theorem takeoverNotice_keeps {s0 : State} (s : State) (why : Nat) (run : Hoop) (kp : Keeps s0 s) :
    Keeps s0 (takeoverNotice s why run) := by
  unfold takeoverNotice
  repeat'
    first
    | with_reducible assumption | (intro _) | with_reducible apply noticeBoth_keeps
    | with_reducible apply Keeps.ite | split | dsimp only

theorem sendResign_keeps {s0 : State} (s : State) (run : Hoop) (kp : Keeps s0 s) :
    Keeps s0 (sendResign s run) := by
  unfold sendResign
  repeat'
    first
    | with_reducible assumption | (intro _) | with_reducible apply sendPlain_keeps
    | with_reducible apply Keeps.ite | split | dsimp only

theorem copyFail_keeps {s0 : State} (s : State) (kp : Keeps s0 s) :
    Keeps s0 (copyFail s) := by
  unfold copyFail
  repeat'
    first
    | with_reducible assumption | with_reducible exact id | with_reducible exact fun _ => id
    | with_reducible apply tput_twf | with_reducible exact noClosed_canon
    | (intro b a; cases a; cases (kp.canon b).twn; apply Twn.canon.mk) | exact rfl | (intro _)
    | with_reducible apply enterState_keeps | with_reducible apply setTwn_keeps
    | with_reducible apply Keeps.ite | split | dsimp only
    | fail_if_no_progress with_reducible apply Keeps.fields

theorem leaveActive_keeps {s0 : State} (s : State) (kp : Keeps s0 s) :
    Keeps s0 (leaveActive s) := by
  unfold leaveActive
  repeat'
    first
    | with_reducible assumption | (intro _) | with_reducible apply enterState_keeps
    | with_reducible apply Keeps.ite | split | dsimp only

theorem startSync_keeps {s0 : State} (s : State) (cause : Nat) (kp : Keeps s0 s) :
    Keeps s0 (startSync s cause) := by
  unfold startSync
  repeat'
    first
    | with_reducible assumption | with_reducible exact id | with_reducible exact fun _ => id
    | with_reducible apply tput_twf | with_reducible exact noClosed_canon
    | (intro b a; cases a; cases (kp.canon b).twn; apply Twn.canon.mk) | exact rfl | (intro _)
    | with_reducible apply enterState_keeps | with_reducible apply setTwn_keeps
    | with_reducible apply Keeps.ite | split | dsimp only
    | fail_if_no_progress with_reducible apply Keeps.fields

theorem autoSync_keeps {s0 : State} (s : State) (kp : Keeps s0 s) :
    Keeps s0 (autoSync s) := by
  unfold autoSync
  repeat'
    first
    | with_reducible assumption | (intro _) | with_reducible apply startSync_keeps
    | with_reducible apply Keeps.ite | split | dsimp only

theorem heartbeatToggle_keeps {s0 : State} (s : State) (kp : Keeps s0 s) :
    Keeps s0 (heartbeatToggle s) := by
  unfold heartbeatToggle
  repeat'
    first
    | with_reducible assumption | with_reducible exact id | with_reducible exact fun _ => id
    | with_reducible apply tput_twf | with_reducible exact noClosed_canon
    | (intro b a; cases a; cases (kp.canon b).twn; apply Twn.canon.mk) | exact rfl | (intro _)
    | with_reducible apply running_keeps | with_reducible apply runToCycle_keeps
    | with_reducible apply setTwn_keeps | with_reducible apply Keeps.ite | split | dsimp only
    | fail_if_no_progress with_reducible apply Keeps.fields

theorem heartbeatEdge_keeps {s0 : State} (s : State) (after : Nat) (kp : Keeps s0 s) :
    Keeps s0 (heartbeatEdge s after) := by
  unfold heartbeatEdge
  repeat'
    first
    | with_reducible assumption | with_reducible exact id | with_reducible exact fun _ => id
    | with_reducible apply tput_twf | with_reducible exact noClosed_canon
    | (intro b a; cases a; cases (kp.canon b).twn; apply Twn.canon.mk) | exact rfl | (intro _)
    | with_reducible apply tick_keeps | with_reducible apply setTwn_keeps
    | with_reducible apply noticeBoth_keeps | with_reducible apply Keeps.ite | split | dsimp only
    | fail_if_no_progress with_reducible apply Keeps.fields

theorem heartbeatTimeout_keeps {s0 : State} (s : State) (kp : Keeps s0 s) :
    Keeps s0 (heartbeatTimeout s) := by
  unfold heartbeatTimeout
  repeat'
    first
    | with_reducible assumption | with_reducible exact id | with_reducible exact fun _ => id
    | with_reducible apply tput_twf | with_reducible exact noClosed_canon
    | (intro b a; cases a; cases (kp.canon b).twn; apply Twn.canon.mk) | exact rfl | (intro _)
    | with_reducible apply runToCycle_keeps | with_reducible apply leaveActive_keeps
    | with_reducible apply noticeBoth_keeps | with_reducible apply setTwn_keeps
    | with_reducible apply Keeps.ite | split | dsimp only
    | fail_if_no_progress with_reducible apply Keeps.fields

theorem linkSeen_keeps {s0 : State} (s : State) (kp : Keeps s0 s) :
    Keeps s0 (linkSeen s) := by
  unfold linkSeen
  repeat'
    first
    | with_reducible assumption | with_reducible exact id | with_reducible exact fun _ => id
    | with_reducible apply tput_twf | with_reducible exact noClosed_canon
    | (intro b a; cases a; cases (kp.canon b).twn; apply Twn.canon.mk) | exact rfl | (intro _)
    | with_reducible apply setTwn_keeps | with_reducible apply noticeBoth_keeps
    | with_reducible apply Keeps.ite | split | dsimp only
    | fail_if_no_progress with_reducible apply Keeps.fields

theorem linkLost_keeps {s0 : State} (s : State) (kp : Keeps s0 s) :
    Keeps s0 (linkLost s) := by
  unfold linkLost
  repeat'
    first
    | with_reducible assumption | with_reducible exact id | with_reducible exact fun _ => id
    | with_reducible apply tput_twf | with_reducible exact noClosed_canon
    | (intro b a; cases a; cases (kp.canon b).twn; apply Twn.canon.mk) | exact rfl | (intro _)
    | with_reducible apply noticeBoth_keeps | with_reducible apply setTwn_keeps
    | with_reducible apply unjoin_keeps | with_reducible apply copyFail_keeps
    | with_reducible apply leaveActive_keeps | with_reducible apply Keeps.ite | split | dsimp only
    | fail_if_no_progress with_reducible apply Keeps.fields

theorem linkTimeout_keeps {s0 : State} (s : State) (kp : Keeps s0 s) :
    Keeps s0 (linkTimeout s) := by
  unfold linkTimeout
  repeat'
    first
    | with_reducible assumption | (intro _) | with_reducible apply linkLost_keeps
    | with_reducible apply runToCycle_keeps | with_reducible apply Keeps.ite | split | dsimp only

theorem linkCheck_keeps {s0 : State} (s : State) (kp : Keeps s0 s) :
    Keeps s0 (linkCheck s) := by
  unfold linkCheck
  repeat'
    first
    | with_reducible assumption | (intro _) | with_reducible apply linkLost_keeps
    | with_reducible apply Keeps.ite | split | dsimp only

theorem portCheck_keeps {s0 : State} (s : State) (p : Nat) (kp : Keeps s0 s) :
    Keeps s0 (portCheck s p) := by
  unfold portCheck
  repeat'
    first
    | with_reducible assumption | with_reducible exact id | with_reducible exact fun _ => id
    | with_reducible apply tput_twf | with_reducible apply filter_twf
    | with_reducible exact noClosed_canon
    | (intro b a; cases a; cases (kp.canon b).twn; apply Twn.canon.mk) | exact rfl | (intro _)
    | with_reducible apply cutRefreshes_keeps | with_reducible apply linkCheck_keeps
    | with_reducible apply setTwn_keeps | with_reducible apply Keeps.ite | split | dsimp only
    | fail_if_no_progress with_reducible apply Keeps.fields

theorem statusSend_keeps {s0 : State} (s : State) (kp : Keeps s0 s) :
    Keeps s0 (statusSend s) := by
  unfold statusSend
  repeat'
    first
    | with_reducible assumption | with_reducible exact id | with_reducible exact fun _ => id
    | with_reducible apply tput_twf | with_reducible exact noClosed_canon
    | (intro b a; cases a; cases (kp.canon b).twn; apply Twn.canon.mk) | exact rfl | (intro _)
    | with_reducible apply running_keeps | with_reducible apply runToCycle_keeps
    | with_reducible apply sendPlain_keeps | with_reducible apply setTwn_keeps
    | with_reducible apply Keeps.ite | split | dsimp only
    | fail_if_no_progress with_reducible apply Keeps.fields

theorem noteSeq_keeps {s0 : State} (s : State) (m : TwinMsg) (kp : Keeps s0 s) :
    Keeps s0 (noteSeq s m) := by
  unfold noteSeq
  repeat'
    first
    | with_reducible assumption | with_reducible exact id | with_reducible exact fun _ => id
    | with_reducible apply tput_twf | with_reducible apply filter_twf
    | with_reducible exact noClosed_canon
    | (intro b a; cases a; cases (kp.canon b).twn; apply Twn.canon.mk) | exact rfl | (intro _)
    | with_reducible apply setTwn_keeps | with_reducible apply Keeps.ite | split | dsimp only
    | fail_if_no_progress with_reducible apply Keeps.fields

theorem assemble_keeps {s0 : State} (s : State) (m : TwinMsg) (kp : Keeps s0 s) :
    Keeps s0 (assemble s m).2 := by
  unfold assemble
  repeat'
    first
    | with_reducible assumption | with_reducible exact id | with_reducible exact fun _ => id
    | with_reducible apply tput_twf | with_reducible exact noClosed_canon
    | (intro a; cases a; apply Key.canon.mk)
    | (intro b a; cases a; cases (kp.canon b).twn; apply Twn.canon.mk) | exact rfl | (intro _)
    | with_reducible apply setTwn_keeps | with_reducible apply Keeps.ite | split | dsimp only
    | fail_if_no_progress with_reducible apply Keeps.fields | with_reducible apply Keeps.ofKey

theorem twinTake_keeps {s0 : State} (s : State) (p : Nat) (bytes : List Byte) (kp : Keeps s0 s) :
    Keeps s0 (twinTake s p bytes).2 := by
  unfold twinTake
  repeat'
    first
    | with_reducible assumption | (intro _) | with_reducible apply rxCheck_keeps
    | (refine Keeps.ofEq ?_ (by assumption); with_reducible apply rxCheck_keeps)
    | with_reducible apply latchCount_keeps | with_reducible apply assemble_keeps
    | (refine Keeps.ofEq ?_ (by assumption); with_reducible apply assemble_keeps)
    | with_reducible apply linkSeen_keeps | with_reducible apply noteSeq_keeps
    | with_reducible apply Keeps.ite | split | dsimp only

theorem onTwin_keeps {s0 : State} (s : State) (p kind : Nat) (bytes : List Byte) (f : State → TwinMsg → State) (kp : Keeps s0 s) (hf : ∀ (x0 : State) (x1 : TwinMsg), Keeps s0 x0 → Keeps s0 (f x0 x1)) :
    Keeps s0 (onTwin s p kind bytes f) := by
  unfold onTwin
  repeat'
    first
    | with_reducible assumption | apply hf | (intro _) | with_reducible apply twinTake_keeps
    | (refine Keeps.ofEq ?_ (by assumption); with_reducible apply twinTake_keeps)
    | with_reducible apply Keeps.ite | split | dsimp only

theorem ackMsg_keeps {s0 : State} (s : State) (m : TwinMsg) (kp : Keeps s0 s) :
    Keeps s0 (ackMsg s m) := by
  unfold ackMsg
  repeat'
    first
    | with_reducible assumption | with_reducible exact id | with_reducible exact fun _ => id
    | with_reducible apply tput_twf | with_reducible apply filter_twf
    | with_reducible exact noClosed_canon
    | (intro b a; cases a; cases (kp.canon b).twn; apply Twn.canon.mk) | exact rfl | (intro _)
    | with_reducible apply setTwn_keeps | with_reducible apply finish_keeps
    | with_reducible apply settleAck_keeps | with_reducible apply Keeps.ite | split | dsimp only
    | fail_if_no_progress with_reducible apply Keeps.fields

theorem descRetransmit_keeps {s0 : State} (s : State) (kp : Keeps s0 s) :
    Keeps s0 (descRetransmit s) := by
  unfold descRetransmit
  repeat'
    first
    | with_reducible assumption | with_reducible exact id | with_reducible exact fun _ => id
    | with_reducible apply tput_twf | with_reducible apply filter_twf
    | with_reducible apply foldl_twf | with_reducible exact noClosed_canon
    | (intro b a; cases a; cases (kp.canon b).twn; apply Twn.canon.mk) | exact rfl | (intro _)
    | with_reducible apply runToCycle_keeps | with_reducible apply handTwin_keeps
    | with_reducible apply setTwn_keeps | with_reducible apply Keeps.foldl
    | with_reducible apply Keeps.foldlPair | with_reducible apply Keeps.ite | split | dsimp only
    | fail_if_no_progress with_reducible apply Keeps.fields

theorem bootWrite_keeps {s0 : State} (s : State) (v : Word) (kp : Keeps s0 s) :
    Keeps s0 (bootWrite s v) := by
  unfold bootWrite
  repeat'
    first
    | with_reducible assumption | with_reducible exact id | with_reducible exact fun _ => id
    | with_reducible apply tput_twf | with_reducible exact noClosed_canon
    | (intro b a; cases a; cases (kp.canon b).twn; apply Twn.canon.mk) | exact rfl | (intro _)
    | with_reducible apply setTwn_keeps | with_reducible apply setReg_keeps
    | with_reducible apply Keeps.ite | split | dsimp only
    | fail_if_no_progress with_reducible apply Keeps.fields

theorem linkWrite_keeps {s0 : State} (s : State) (v : Word) (kp : Keeps s0 s) :
    Keeps s0 (linkWrite s v) := by
  unfold linkWrite
  repeat'
    first
    | with_reducible assumption | (intro _) | with_reducible apply plainWrite_keeps
    | with_reducible apply Keeps.ite | split | dsimp only

end Sys2Proof.Machine
end

