-- ==== Sys2Proof/Laws/KeepsTwinCopy.lean ====
section
/-! SUPPORT. Laws/KeepsTwinCopy.lean: every operation of Machine/TwinCopy.lean keeps what `Keeps` names. -/
namespace Sys2Proof.Machine

theorem loseStep_keeps {s0 : State} (s : State) (kp : Keeps s0 s) :
    Keeps s0 (loseStep s) := by
  unfold loseStep
  repeat'
    first
    | with_reducible assumption | with_reducible exact id | with_reducible exact fun _ => id
    | with_reducible apply tput_twf | with_reducible exact noClosed_canon
    | (intro b a; cases a; cases (kp.canon b).twn; apply Twn.canon.mk) | exact rfl | (intro _)
    | with_reducible apply setTwn_keeps | with_reducible apply Keeps.ite | split | dsimp only
    | fail_if_no_progress with_reducible apply Keeps.fields

theorem forward_keeps {s0 : State} (s : State) (id set : Nat) (data : List Byte) (kp : Keeps s0 s) :
    Keeps s0 (forward s id set data) := by
  unfold forward
  repeat'
    first
    | with_reducible assumption | (intro _) | with_reducible apply sendAwaiting_keeps
    | with_reducible apply Keeps.ite | split | dsimp only

theorem forwardOrHold_keeps {s0 : State} (s : State) (id : Nat) (data : List Byte) (kp : Keeps s0 s) :
    Keeps s0 (forwardOrHold s id data) := by
  unfold forwardOrHold
  repeat'
    first
    | with_reducible assumption | with_reducible exact id | with_reducible exact fun _ => id
    | with_reducible apply tput_twf | with_reducible exact noClosed_canon
    | (intro b a; cases a; cases (kp.canon b).twn; apply Twn.canon.mk) | exact rfl | (intro _)
    | with_reducible apply setTwn_keeps | with_reducible apply forward_keeps
    | with_reducible apply Keeps.ite | split | dsimp only
    | fail_if_no_progress with_reducible apply Keeps.fields

theorem sendHeldDescs_keeps {s0 : State} (s : State) (kp : Keeps s0 s) :
    Keeps s0 (sendHeldDescs s) := by
  unfold sendHeldDescs
  repeat'
    first
    | with_reducible assumption | with_reducible exact id | with_reducible exact fun _ => id
    | with_reducible apply tput_twf | with_reducible apply foldl_twf
    | with_reducible exact noClosed_canon
    | (intro b a; cases a; cases (kp.canon b).twn; apply Twn.canon.mk) | exact rfl | (intro _)
    | with_reducible apply forwardOrHold_keeps | with_reducible apply setTwn_keeps
    | with_reducible apply Keeps.foldl | with_reducible apply Keeps.foldlPair
    | with_reducible apply Keeps.ite | split | dsimp only
    | fail_if_no_progress with_reducible apply Keeps.fields

theorem ackTaken_keeps {s0 : State} (s : State) (m : TwinMsg) (kp : Keeps s0 s) :
    Keeps s0 (ackTaken s m) := by
  unfold ackTaken
  repeat'
    first
    | with_reducible assumption | (intro _) | with_reducible apply sendHeldDescs_keeps
    | with_reducible apply ackMsg_keeps | with_reducible apply Keeps.ite | split | dsimp only

theorem forwardStep_keeps {s0 : State} (s : State) (id : Nat) (data : List Byte) (f : State → State) (kp : Keeps s0 s) (hf : ∀ (x0 : State), Keeps s0 x0 → Keeps s0 (f x0)) :
    Keeps s0 (forwardStep s id data f) := by
  unfold forwardStep
  repeat'
    first
    | with_reducible assumption | apply hf | with_reducible exact id
    | with_reducible exact fun _ => id | with_reducible apply tput_twf | exact rfl | (intro _)
    | with_reducible apply modTrack_keeps | with_reducible apply running_keeps
    | with_reducible apply forward_keeps | with_reducible apply settleAck_keeps
    | with_reducible apply Keeps.ite | split | dsimp only
    | fail_if_no_progress with_reducible apply Keeps.fields

theorem forwardData_keeps {s0 : State} (s : State) (id : Nat) (data : List Byte) (f : State → State) (kp : Keeps s0 s) (hf : ∀ (x0 : State), Keeps s0 x0 → Keeps s0 (f x0)) :
    Keeps s0 (forwardData s id data f) := by
  unfold forwardData
  repeat'
    first
    | with_reducible assumption | apply hf | with_reducible exact id
    | with_reducible exact fun _ => id | with_reducible apply tput_twf | exact rfl | (intro _)
    | with_reducible apply forwardOrHold_keeps | with_reducible apply modTrack_keeps
    | with_reducible apply Keeps.ite | split | dsimp only
    | fail_if_no_progress with_reducible apply Keeps.fields

theorem forwardMember_keeps {s0 : State} (s : State) (m : Member) (kp : Keeps s0 s) :
    Keeps s0 (forwardMember s m) := by
  unfold forwardMember
  repeat'
    first
    | with_reducible assumption | with_reducible exact id | with_reducible exact fun _ => id
    | with_reducible apply tput_twf | with_reducible exact noClosed_canon
    | (intro b a; cases a; cases (kp.canon b).twn; apply Twn.canon.mk) | exact rfl | (intro _)
    | with_reducible apply setTwn_keeps | with_reducible apply modTrack_keeps
    | with_reducible apply forward_keeps | with_reducible apply Keeps.ite | split | dsimp only
    | fail_if_no_progress with_reducible apply Keeps.fields

theorem forwardJoined_keeps {s0 : State} (s : State) (kp : Keeps s0 s) :
    Keeps s0 (forwardJoined s) := by
  unfold forwardJoined
  exact Keeps.ite (Keeps.foldl (fun t m ht => forwardMember_keeps t m ht) kp) kp

theorem forwardRoles_keeps {s0 : State} (s : State) (ms : List Member) (kp : Keeps s0 s) :
    Keeps s0 (forwardRoles s ms) := by
  unfold forwardRoles
  repeat'
    first
    | with_reducible assumption | (intro _) | with_reducible apply forwardMember_keeps
    | with_reducible apply Keeps.foldl | with_reducible apply Keeps.foldlPair
    | with_reducible apply Keeps.ite | split | dsimp only

theorem sendClose_keeps {s0 : State} (s : State) (st count : Nat) (kp : Keeps s0 s) :
    Keeps s0 (sendClose s st count) := by
  unfold sendClose
  repeat'
    first
    | with_reducible assumption | (intro _) | with_reducible apply sendPlain_keeps
    | with_reducible apply count_keeps | with_reducible apply Keeps.ite | split | dsimp only

theorem takePair_keeps {s0 : State} (s : State) (a v : Nat) (kp : Keeps s0 s) :
    Keeps s0 (takePair s a v) := by
  unfold takePair
  repeat'
    first
    | with_reducible assumption | with_reducible exact id | with_reducible exact fun _ => id
    | with_reducible apply tput_twf | (intro a; cases a; apply Cfg.canon.mk)
    | (intro b a; cases a; cases (kp.canon b).ing; apply Ing.canon.mk) | exact rfl | (intro _)
    | with_reducible apply setReg_keeps | with_reducible apply setIng_keeps
    | with_reducible apply Keeps.ite | split | dsimp only
    | fail_if_no_progress with_reducible apply Keeps.fields | with_reducible apply Keeps.ofCfg

theorem takeRegImage_keeps {s0 : State} (s : State) (b : List Byte) (kp : Keeps s0 s) :
    Keeps s0 (takeRegImage s b) := by
  unfold takeRegImage
  repeat'
    first
    | with_reducible assumption | with_reducible exact id | with_reducible exact fun _ => id
    | with_reducible apply tput_twf | with_reducible apply foldl_twf
    | (intro a; cases a; apply Cfg.canon.mk) | (intro a; cases a; apply Ing.canon.mk) | exact rfl
    | (intro _) | with_reducible apply takePair_keeps | with_reducible apply Keeps.foldl
    | with_reducible apply Keeps.foldlPair | with_reducible apply Keeps.ite | split | dsimp only
    | fail_if_no_progress with_reducible apply Keeps.fields | with_reducible apply Keeps.ofCfg
    | with_reducible apply Keeps.ofIng | with_reducible apply Keeps.lit

theorem takeHandle_keeps {s0 : State} (b : List Byte) (s : State) (n : Nat) (kp : Keeps s0 s) :
    Keeps s0 (takeHandle b s n) := by
  unfold takeHandle
  repeat'
    first
    | with_reducible assumption | (intro _) | with_reducible apply setHandle_keeps
    | with_reducible apply Keeps.ite | split | dsimp only

theorem takeHandles_keeps {s0 : State} (s : State) (b : List Byte) (kp : Keeps s0 s) :
    Keeps s0 (takeHandles s b) := by
  have h1 := Keeps.foldl (f := takeHandle b) (l := List.range 1024) (fun t n ht => takeHandle_keeps _ t n ht) kp
  unfold takeHandles
  dsimp only
  generalize List.foldl _ s (List.range 1024) = t at *
  exact setLay_keeps _ _ h1 fun _ a => ⟨a.handles, a.pixels⟩

theorem takeLive_keeps {s0 : State} (b : List Byte) (s : State) (m : Nat) (kp : Keeps s0 s) :
    Keeps s0 (takeLive b s m) := by
  unfold takeLive
  repeat'
    first
    | with_reducible assumption | with_reducible exact id | with_reducible exact fun _ => id
    | with_reducible apply tput_twf | exact rfl | (intro _) | with_reducible apply setLive_keeps
    | with_reducible apply Keeps.ite | split | dsimp only
    | fail_if_no_progress with_reducible apply Keeps.fields

theorem takeEst_keeps {s0 : State} (b : List Byte) (s : State) (i : Nat) (kp : Keeps s0 s) :
    Keeps s0 (takeEst b s i) := by
  unfold takeEst
  repeat'
    first
    | with_reducible assumption | with_reducible exact id | with_reducible exact fun _ => id
    | with_reducible apply tput_twf | exact rfl | (intro _) | with_reducible apply setEst_keeps
    | with_reducible apply Keeps.ite | split | dsimp only
    | fail_if_no_progress with_reducible apply Keeps.fields

theorem takeSess_keeps {s0 : State} (b : List Byte) (s : State) (i : Nat) (kp : Keeps s0 s) :
    Keeps s0 (takeSess b s i) := by
  unfold takeSess
  repeat'
    first
    | with_reducible assumption | with_reducible exact id | with_reducible exact fun _ => id
    | with_reducible apply tput_twf | exact rfl | (intro _) | with_reducible apply setSess_keeps
    | with_reducible apply Keeps.ite | split | dsimp only
    | fail_if_no_progress with_reducible apply Keeps.fields

theorem takeSource_keeps {s0 : State} (b : List Byte) (s : State) (l : Nat) (kp : Keeps s0 s) :
    Keeps s0 (takeSource b s l) := by
  unfold takeSource
  repeat'
    first
    | with_reducible assumption | with_reducible exact id | with_reducible exact fun _ => id
    | with_reducible apply tput_twf | (intro a; cases a; apply Run.canon.mk) | exact rfl | (intro _)
    | with_reducible apply setSource_keeps | with_reducible apply Keeps.ite | split | dsimp only
    | fail_if_no_progress with_reducible apply Keeps.fields | with_reducible apply Keeps.ofRun

theorem takeObject_keeps {s0 : State} (s : State) (obj index : Nat) (b : List Byte) (kp : Keeps s0 s) :
    Keeps s0 (takeObject s obj index b).2 := by
  unfold takeObject
  repeat'
    first
    | with_reducible assumption | with_reducible exact id | with_reducible exact fun _ => id
    | with_reducible apply tput_twf | with_reducible apply filter_twf
    | with_reducible apply foldl_twf | with_reducible exact noClosed_canon
    | (intro a; cases a; apply Cfg.canon.mk)
    | (intro b a; cases a; cases (kp.canon b).twn; apply Twn.canon.mk) | exact rfl | (intro _)
    | with_reducible apply takeRegImage_keeps | with_reducible apply takeHandles_keeps
    | with_reducible apply takeLive_keeps | with_reducible apply takeEst_keeps
    | with_reducible apply takeSource_keeps | with_reducible apply takeSess_keeps
    | with_reducible apply putPixel_keeps | with_reducible apply setTwn_keeps
    | with_reducible apply Keeps.foldl | with_reducible apply Keeps.foldlPair
    | with_reducible apply Keeps.ite | split | dsimp only
    | fail_if_no_progress with_reducible apply Keeps.fields | with_reducible apply Keeps.ofCfg

theorem queueObjects_keeps {s0 : State} (s : State) (objs : List Nat) (entry : Bool) (kp : Keeps s0 s) :
    Keeps s0 (queueObjects s objs entry) := by
  unfold queueObjects
  repeat'
    first
    | with_reducible assumption | with_reducible exact id | with_reducible exact fun _ => id
    | with_reducible apply tput_twf | with_reducible exact noClosed_canon
    | (intro b a; cases a; cases (kp.canon b).twn; apply Twn.canon.mk) | exact rfl | (intro _)
    | with_reducible apply setTwn_keeps | with_reducible apply Keeps.ite | split | dsimp only
    | fail_if_no_progress with_reducible apply Keeps.fields

theorem takeCopy_keeps {s0 : State} (s : State) (kp : Keeps s0 s) :
    Keeps s0 (takeCopy s) := by
  unfold takeCopy
  repeat'
    first
    | with_reducible assumption | with_reducible exact id | with_reducible exact fun _ => id
    | with_reducible apply tput_twf | with_reducible apply filter_twf
    | with_reducible apply foldl_twf | with_reducible exact noClosed_canon
    | (intro b a; cases a; cases (kp.canon b).twn; apply Twn.canon.mk) | exact rfl | (intro _)
    | with_reducible apply finish_keeps | with_reducible apply queueObjects_keeps
    | with_reducible apply setTwn_keeps | with_reducible apply Keeps.foldl
    | with_reducible apply Keeps.foldlPair | with_reducible apply Keeps.ite | split | dsimp only
    | fail_if_no_progress with_reducible apply Keeps.fields | with_reducible apply Keeps.ofStages

theorem takeEntry_keeps {s0 : State} (s : State) (kp : Keeps s0 s) :
    Keeps s0 (takeEntry s) := by
  unfold takeEntry
  repeat'
    first
    | with_reducible assumption | with_reducible exact id | with_reducible exact fun _ => id
    | with_reducible apply tput_twf | with_reducible exact noClosed_canon
    | (intro b a; cases a; cases (kp.canon b).twn; apply Twn.canon.mk) | exact rfl | (intro _)
    | with_reducible apply queueObjects_keeps | with_reducible apply setTwn_keeps
    | with_reducible apply enterState_keeps | with_reducible apply Keeps.ite | split | dsimp only
    | fail_if_no_progress with_reducible apply Keeps.fields

theorem copySend_keeps {s0 : State} (s : State) (kp : Keeps s0 s) :
    Keeps s0 (copySend s) := by
  unfold copySend
  repeat'
    first
    | with_reducible assumption | with_reducible exact id | with_reducible exact fun _ => id
    | with_reducible apply tput_twf | with_reducible exact noClosed_canon
    | (intro b a; cases a; cases (kp.canon b).twn; apply Twn.canon.mk) | exact rfl | (intro _)
    | with_reducible apply stepSeq_keeps | with_reducible apply handTwin_keeps
    | with_reducible apply setTwn_keeps | with_reducible apply Keeps.ite | split | dsimp only
    | fail_if_no_progress with_reducible apply Keeps.fields

theorem judgeAcks_keeps {s0 : State} (s : State) (kp : Keeps s0 s) :
    Keeps s0 (judgeAcks s) := by
  unfold judgeAcks
  repeat'
    first
    | with_reducible assumption | (intro _) | with_reducible apply loseStep_keeps
    | with_reducible apply Keeps.ite | split | dsimp only

theorem setCurrent_keeps {s0 : State} (s : State) (n : Nat) (on : Bool) (kp : Keeps s0 s) :
    Keeps s0 (setCurrent s n on) := by
  unfold setCurrent
  repeat'
    first
    | with_reducible assumption | with_reducible exact id | with_reducible exact fun _ => id
    | with_reducible apply tput_twf | with_reducible apply filter_twf
    | with_reducible exact noClosed_canon
    | (intro b a; cases a; cases (kp.canon b).twn; apply Twn.canon.mk) | exact rfl | (intro _)
    | with_reducible apply setTwn_keeps | with_reducible apply Keeps.ite | split | dsimp only
    | fail_if_no_progress with_reducible apply Keeps.fields

theorem applyForwarded_keeps {s0 : State} (s : State) (seq : Nat) (d : Desc) (data : List Byte) (h : Hoop) (kp : Keeps s0 s) :
    Keeps s0 (applyForwarded s seq d data h) := by
  unfold applyForwarded
  repeat'
    first
    | with_reducible assumption | with_reducible exact id | with_reducible exact fun _ => id
    | with_reducible apply tput_twf
    | (intro b a; cases a; cases (kp.canon b).hif; apply Hif.canon.mk) | exact rfl | (intro _)
    | with_reducible apply setHif_keeps | with_reducible apply running_keeps
    | with_reducible apply setCurrent_keeps | with_reducible apply startAlloc_keeps
    | with_reducible apply startFree_keeps | with_reducible apply startWrite_keeps
    | with_reducible apply writeCompleteIn_keeps | with_reducible apply startLoad_keeps
    | with_reducible apply blockWritten_keeps | with_reducible apply finish_keeps
    | with_reducible apply Keeps.ite | split | dsimp only
    | fail_if_no_progress with_reducible apply Keeps.fields

theorem enterStandby_keeps {s0 : State} (s : State) (hoops : Nat) (kp : Keeps s0 s) :
    Keeps s0 (enterStandby s hoops) := by
  unfold enterStandby
  repeat'
    first
    | with_reducible assumption | with_reducible exact id | with_reducible exact fun _ => id
    | with_reducible apply tput_twf | with_reducible exact noClosed_canon
    | (intro b a; cases a; cases (kp.canon b).twn; apply Twn.canon.mk) | exact rfl | (intro _)
    | with_reducible apply enterState_keeps | with_reducible apply setTwn_keeps
    | with_reducible apply endSyncs_keeps | with_reducible apply Keeps.ite | split | dsimp only
    | fail_if_no_progress with_reducible apply Keeps.fields

theorem entryCheck_keeps {s0 : State} (s : State) (e : Hoop) (kp : Keeps s0 s) :
    Keeps s0 (entryCheck s e) := by
  unfold entryCheck
  repeat'
    first
    | with_reducible assumption | with_reducible exact id | with_reducible exact fun _ => id
    | with_reducible apply tput_twf | with_reducible exact noClosed_canon
    | (intro b a; cases a; cases (kp.canon b).twn; apply Twn.canon.mk) | exact rfl | (intro _)
    | with_reducible apply copyFail_keeps | with_reducible apply setTwn_keeps
    | with_reducible apply enterStandby_keeps | with_reducible apply Keeps.ite | split | dsimp only
    | fail_if_no_progress with_reducible apply Keeps.fields

theorem syncTimeout_keeps {s0 : State} (s : State) (kp : Keeps s0 s) :
    Keeps s0 (syncTimeout s) := by
  unfold syncTimeout
  repeat'
    first
    | with_reducible assumption | (intro _) | with_reducible apply copyFail_keeps
    | with_reducible apply runToCycle_keeps | with_reducible apply Keeps.ite | split | dsimp only

theorem autoSyncRetry_keeps {s0 : State} (s : State) (kp : Keeps s0 s) :
    Keeps s0 (autoSyncRetry s) := by
  unfold autoSyncRetry
  repeat'
    first
    | with_reducible assumption | with_reducible exact id | with_reducible exact fun _ => id
    | with_reducible apply tput_twf | with_reducible exact noClosed_canon
    | (intro b a; cases a; cases (kp.canon b).twn; apply Twn.canon.mk) | exact rfl | (intro _)
    | with_reducible apply runToCycle_keeps | with_reducible apply autoSync_keeps
    | with_reducible apply setTwn_keeps | with_reducible apply Keeps.ite | split | dsimp only
    | fail_if_no_progress with_reducible apply Keeps.fields

theorem startTwinSync_keeps {s0 : State} (s : State) (t : Track) (kp : Keeps s0 s) :
    Keeps s0 (startTwinSync s t) := by
  unfold startTwinSync
  repeat'
    first
    | with_reducible assumption | with_reducible exact id | with_reducible exact fun _ => id
    | with_reducible apply tput_twf | with_reducible exact noClosed_canon
    | (intro b a; cases a; cases (kp.canon b).twn; apply Twn.canon.mk) | exact rfl | (intro _)
    | with_reducible apply finish_keeps | with_reducible apply startSync_keeps
    | with_reducible apply setTwn_keeps | with_reducible apply begin_keeps
    | with_reducible apply Keeps.ite | split | dsimp only
    | fail_if_no_progress with_reducible apply Keeps.fields

theorem startTwinMirror_keeps {s0 : State} (s : State) (t : Track) (kp : Keeps s0 s) :
    Keeps s0 (startTwinMirror s t) := by
  unfold startTwinMirror
  repeat'
    first
    | with_reducible assumption | with_reducible exact id | with_reducible exact fun _ => id
    | with_reducible apply tput_twf | with_reducible exact noClosed_canon
    | (intro b a; cases a; cases (kp.canon b).twn; apply Twn.canon.mk) | exact rfl | (intro _)
    | with_reducible apply finish_keeps | with_reducible apply begin_keeps
    | with_reducible apply setTwn_keeps | with_reducible apply Keeps.ite | split | dsimp only
    | fail_if_no_progress with_reducible apply Keeps.fields

end Sys2Proof.Machine
end

