-- ==== Sys2Proof/Laws/KeepsTwinRole.lean ====
section
/-! SUPPORT. Laws/KeepsTwinRole.lean: every operation of Machine/TwinRole.lean keeps what `Keeps` names. -/
namespace Sys2Proof.Machine

/-- The pair's state with the tables of a state that is kept. -/
theorem setTwn_same {s0 u v : State} {x : Twn} (ku : Keeps s0 u) (kv : Keeps s0 v)
    (hf : x.frags = v.twn.frags) (hc : x.closed = v.twn.closed) : Keeps s0 (setTwn u x) :=
  setTwn_keeps u x ku fun b _ => ⟨hf ▸ (kv.canon b).twn.frags, hc ▸ (kv.canon b).twn.closed⟩

theorem statusDriving_keeps {s0 : State} (s : State) (was : Nat) (m : TwinMsg) (kp : Keeps s0 s) :
    Keeps s0 (statusDriving s was m) := by
  unfold statusDriving
  repeat'
    first
    | with_reducible assumption | with_reducible exact id | with_reducible exact fun _ => id
    | with_reducible apply tput_twf | with_reducible exact noClosed_canon
    | (intro b a; cases a; cases (kp.canon b).twn; apply Twn.canon.mk) | exact rfl | (intro _)
    | with_reducible apply unjoin_keeps | with_reducible apply leaveActive_keeps
    | with_reducible apply enterState_keeps | with_reducible apply setTwn_keeps
    | with_reducible apply Keeps.ite | split | dsimp only
    | fail_if_no_progress with_reducible apply Keeps.fields

theorem statusWaiting_keeps {s0 : State} (s : State) (m : TwinMsg) (kp : Keeps s0 s) :
    Keeps s0 (statusWaiting s m) := by
  unfold statusWaiting
  repeat'
    first
    | with_reducible assumption | (intro _) | with_reducible apply copyFail_keeps
    | with_reducible apply loseStep_keeps | with_reducible apply autoSync_keeps
    | with_reducible apply Keeps.ite | split | dsimp only

theorem statusMsg_keeps {s0 : State} (s : State) (m : TwinMsg) (kp : Keeps s0 s) :
    Keeps s0 (statusMsg s m) := by
  unfold statusMsg
  repeat'
    first
    | with_reducible assumption | with_reducible exact id | with_reducible exact fun _ => id
    | with_reducible apply tput_twf | with_reducible apply filter_twf
    | with_reducible exact noClosed_canon
    | (intro b a; cases a; cases (kp.canon b).twn; apply Twn.canon.mk) | exact rfl | (intro _)
    | with_reducible apply setTwn_keeps | with_reducible apply noticeBoth_keeps
    | with_reducible apply statusDriving_keeps | with_reducible apply statusWaiting_keeps
    | with_reducible apply Keeps.ite | split | dsimp only
    | fail_if_no_progress with_reducible apply Keeps.fields

theorem sendLive_keeps {s0 : State} (s : State) (h : Hoop) (kp : Keeps s0 s) :
    Keeps s0 (sendLive s h) := by
  unfold sendLive
  repeat'
    first
    | with_reducible assumption | with_reducible exact id | with_reducible exact fun _ => id
    | with_reducible apply tput_twf | with_reducible exact noClosed_canon
    | (intro b a; cases a; cases (kp.canon b).twn; apply Twn.canon.mk) | exact rfl | (intro _)
    | with_reducible apply setTwn_keeps | with_reducible apply sendPlain_keeps
    | with_reducible apply Keeps.ite | split | dsimp only
    | fail_if_no_progress with_reducible apply Keeps.fields

theorem liveMsg_keeps {s0 : State} (s : State) (m : TwinMsg) (kp : Keeps s0 s) :
    Keeps s0 (liveMsg s m) := by
  unfold liveMsg
  repeat'
    first
    | with_reducible assumption | with_reducible exact id | with_reducible exact fun _ => id
    | with_reducible apply tput_twf | with_reducible exact noClosed_canon
    | (intro b a; cases a; cases (kp.canon b).twn; apply Twn.canon.mk) | exact rfl | (intro _)
    | with_reducible apply setTwn_keeps | with_reducible apply Keeps.ite | split | dsimp only
    | fail_if_no_progress with_reducible apply Keeps.fields

theorem liveWrite_keeps {s0 : State} (h : Hoop) (s : State) (r : LiveRec) (kp : Keeps s0 s) :
    Keeps s0 (liveWrite h s r) := by
  unfold liveWrite
  repeat'
    first
    | with_reducible assumption | with_reducible exact id | with_reducible exact fun _ => id
    | with_reducible apply tput_twf | exact rfl | (intro _) | with_reducible apply writeEffect_keeps
    | with_reducible apply setLive_keeps | with_reducible apply Keeps.ite | split | dsimp only
    | fail_if_no_progress with_reducible apply Keeps.fields

theorem liveApply_keeps {s0 : State} (s : State) (kp : Keeps s0 s) :
    Keeps s0 (liveApply s) := by
  unfold liveApply
  repeat'
    first
    | with_reducible assumption | with_reducible exact id | with_reducible exact fun _ => id
    | with_reducible apply tput_twf | with_reducible apply filter_twf
    | with_reducible apply foldl_twf | with_reducible exact noClosed_canon
    | (intro b a; cases a; cases (kp.canon b).twn; apply Twn.canon.mk) | exact rfl | (intro _)
    | with_reducible apply setTwn_keeps | with_reducible apply liveWrite_keeps
    | with_reducible apply loseStep_keeps | with_reducible apply Keeps.foldl
    | with_reducible apply Keeps.foldlPair | with_reducible apply Keeps.ite | split | dsimp only
    | fail_if_no_progress with_reducible apply Keeps.fields

theorem sendDigest_keeps {s0 : State} (s : State) (r : RunDigest) (kp : Keeps s0 s) :
    Keeps s0 (sendDigest s r) := by
  unfold sendDigest
  repeat'
    first
    | with_reducible assumption | (intro _) | with_reducible apply sendPlain_keeps
    | with_reducible apply Keeps.ite | split | dsimp only

theorem compareRun_keeps {s0 : State} (s : State) (h : Hoop) (kp : Keeps s0 s) :
    Keeps s0 (compareRun s h) := by
  unfold compareRun
  split
  · exact kp
  split
  · split
    · exact kp
    · dsimp only
      generalize digestMask _ _ = mask
      have k1 : Keeps s0 (setTwn s { s.twn with compared := (h :: s.twn.compared).take 16 }) := setTwn_same kp kp rfl rfl
      generalize setTwn s _ = t at *
      split
      · exact setTwn_same k1 k1 rfl rfl
      · have k2 : Keeps s0 (setTwn t { t.twn with divergeHoop := h, divergePorts := mask }) := setTwn_same k1 k1 rfl rfl
        generalize setTwn t _ = u at *
        have k3 := noticeBoth_keeps _ 0x0D03 0 (h.toNat + mask * 2 ^ 32) k2
        generalize noticeBoth u _ _ _ = v at *
        split
        · exact setTwn_same (latchCount_keeps _ _ _ _ _ k3) k3 rfl rfl
        · have k4 := latchCount_keeps v TWN_DIVERGE 31 16 1 k3
          generalize latchCount v _ _ _ _ = w at *
          split
          · exact setTwn_same k4 k4 rfl rfl
          · exact setTwn_same k4 k4 rfl rfl
  · exact kp

theorem digestMsg_keeps {s0 : State} (s : State) (m : TwinMsg) (kp : Keeps s0 s) :
    Keeps s0 (digestMsg s m) := by
  unfold digestMsg
  repeat'
    first
    | with_reducible assumption | with_reducible exact id | with_reducible exact fun _ => id
    | with_reducible apply tput_twf | with_reducible exact noClosed_canon
    | (intro b a; cases a; cases (kp.canon b).twn; apply Twn.canon.mk) | exact rfl | (intro _)
    | with_reducible apply compareRun_keeps | with_reducible apply setTwn_keeps
    | with_reducible apply Keeps.ite | split | dsimp only
    | fail_if_no_progress with_reducible apply Keeps.fields

theorem missingDigest_keeps {s0 : State} (s : State) (h : Hoop) (kp : Keeps s0 s) :
    Keeps s0 (missingDigest s h) := by
  unfold missingDigest
  repeat'
    first
    | with_reducible assumption | with_reducible exact id | with_reducible exact fun _ => id
    | with_reducible apply tput_twf | with_reducible exact noClosed_canon
    | (intro b a; cases a; cases (kp.canon b).twn; apply Twn.canon.mk) | exact rfl | (intro _)
    | with_reducible apply setTwn_keeps | with_reducible apply noticeBoth_keeps
    | with_reducible apply leaveActive_keeps | with_reducible apply Keeps.ite | split | dsimp only
    | fail_if_no_progress with_reducible apply Keeps.fields

theorem digestNewest_keeps {s0 : State} (s : State) (kp : Keeps s0 s) :
    Keeps s0 (digestNewest s) := by
  unfold digestNewest
  repeat'
    first
    | with_reducible assumption | (intro _) | with_reducible apply compareRun_keeps
    | with_reducible apply sendDigest_keeps | with_reducible apply Keeps.ite | split | dsimp only

theorem entryLate_keeps {s0 : State} (s : State) (kp : Keeps s0 s) :
    Keeps s0 (entryLate s) := by
  unfold entryLate
  repeat'
    first
    | with_reducible assumption | (intro _) | with_reducible apply copyFail_keeps
    | with_reducible apply Keeps.ite | split | dsimp only

theorem runDeadline_keeps {s0 : State} (s : State) (kp : Keeps s0 s) :
    Keeps s0 (runDeadline s) := by
  unfold runDeadline
  repeat'
    first
    | with_reducible assumption | (intro _) | with_reducible apply running_keeps
    | with_reducible apply entryLate_keeps | with_reducible apply digestNewest_keeps
    | with_reducible apply egressDeadline_keeps | with_reducible apply Keeps.ite | split
    | dsimp only

theorem samplerJobs_keeps {s0 : State} (s : State) (part : Nat) (kp : Keeps s0 s) :
    Keeps s0 (samplerJobs s part) := by
  unfold samplerJobs
  repeat'
    first
    | with_reducible assumption | with_reducible exact id | with_reducible exact fun _ => id
    | with_reducible apply tput_twf | with_reducible apply filter_twf
    | with_reducible apply foldl_twf | with_reducible exact noClosed_canon
    | (intro b a; cases a; cases (kp.canon b).twn; apply Twn.canon.mk) | exact rfl | (intro _)
    | with_reducible apply setTwn_keeps | with_reducible apply finish_keeps
    | with_reducible apply Keeps.foldl | with_reducible apply Keeps.foldlPair
    | with_reducible apply Keeps.ite | split | dsimp only
    | fail_if_no_progress with_reducible apply Keeps.fields

theorem fault_keeps {s0 : State} (s : State) (kp : Keeps s0 s) :
    Keeps s0 (fault s) := by
  unfold fault
  repeat'
    first
    | with_reducible assumption | (intro _) | with_reducible apply sendResign_keeps
    | with_reducible apply enterState_keeps | with_reducible apply Keeps.ite | split | dsimp only

theorem suspectClean_keeps {s0 : State} (s : State) (kp : Keeps s0 s) :
    Keeps s0 (suspectClean s) := by
  unfold suspectClean
  repeat'
    first
    | with_reducible assumption | with_reducible exact id | with_reducible exact fun _ => id
    | with_reducible apply tput_twf | with_reducible exact noClosed_canon
    | (intro b a; cases a; cases (kp.canon b).twn; apply Twn.canon.mk) | exact rfl | (intro _)
    | with_reducible apply setTwn_keeps | with_reducible apply startSync_keeps
    | with_reducible apply enterState_keeps | with_reducible apply Keeps.ite | split | dsimp only
    | fail_if_no_progress with_reducible apply Keeps.fields

theorem samplerEnd_keeps {s0 : State} (s : State) (part : Nat) (kp : Keeps s0 s) :
    Keeps s0 (samplerEnd s part) := by
  unfold samplerEnd
  repeat'
    first
    | with_reducible assumption | with_reducible exact id | with_reducible exact fun _ => id
    | with_reducible apply tput_twf | with_reducible exact noClosed_canon
    | (intro b a; cases a; cases (kp.canon b).twn; apply Twn.canon.mk) | exact rfl | (intro _)
    | with_reducible apply setTwn_keeps | with_reducible apply suspectClean_keeps
    | with_reducible apply samplerJobs_keeps | with_reducible apply latchCount_keeps
    | with_reducible apply noticeBoth_keeps | with_reducible apply fault_keeps
    | with_reducible apply Keeps.ite | split | dsimp only
    | fail_if_no_progress with_reducible apply Keeps.fields

theorem startSampler_keeps {s0 : State} (s : State) (t : Track) (kp : Keeps s0 s) :
    Keeps s0 (startSampler s t) := by
  unfold startSampler
  repeat'
    first
    | with_reducible assumption | with_reducible exact id | with_reducible exact fun _ => id
    | with_reducible apply tput_twf | with_reducible exact noClosed_canon
    | (intro b a; cases a; cases (kp.canon b).twn; apply Twn.canon.mk) | exact rfl | (intro _)
    | with_reducible apply finish_keeps | with_reducible apply setTwn_keeps
    | with_reducible apply begin_keeps | with_reducible apply samplerJobs_keeps
    | with_reducible apply Keeps.ite | split | dsimp only
    | fail_if_no_progress with_reducible apply Keeps.fields

theorem verdict_keeps {s0 : State} (s : State) (kp : Keeps s0 s) :
    Keeps s0 (verdict s) := by
  unfold verdict
  repeat'
    first
    | with_reducible assumption | with_reducible exact id | with_reducible exact fun _ => id
    | with_reducible apply tput_twf | with_reducible exact noClosed_canon
    | (intro b a; cases a; cases (kp.canon b).twn; apply Twn.canon.mk) | exact rfl | (intro _)
    | with_reducible apply setTwn_keeps | with_reducible apply enterState_keeps
    | with_reducible apply Keeps.ite | split | dsimp only
    | fail_if_no_progress with_reducible apply Keeps.fields

theorem decisionPoint_keeps {s0 : State} (s : State) (kp : Keeps s0 s) :
    Keeps s0 (decisionPoint s) := by
  unfold decisionPoint
  repeat'
    first
    | with_reducible assumption | (intro _) | with_reducible apply running_keeps
    | with_reducible apply verdict_keeps | with_reducible apply runTo_keeps
    | with_reducible apply Keeps.ite | split | dsimp only

theorem resignMsg_keeps {s0 : State} (s : State) (m : TwinMsg) (kp : Keeps s0 s) :
    Keeps s0 (resignMsg s m) := by
  unfold resignMsg
  repeat'
    first
    | with_reducible assumption | with_reducible exact id | with_reducible exact fun _ => id
    | with_reducible apply tput_twf | with_reducible exact noClosed_canon
    | (intro b a; cases a; cases (kp.canon b).twn; apply Twn.canon.mk) | exact rfl | (intro _)
    | with_reducible apply setTwn_keeps | with_reducible apply Keeps.ite | split | dsimp only
    | fail_if_no_progress with_reducible apply Keeps.fields

theorem roleClosed_keeps {s0 : State} (s : State) (d : Desc) (kp : Keeps s0 s) :
    Keeps s0 (roleClosed s d) := by
  unfold roleClosed
  repeat'
    first
    | with_reducible assumption | (intro _) | with_reducible apply sendResign_keeps
    | with_reducible apply Keeps.ite | split | dsimp only

theorem applyRole_keeps {s0 : State} (s : State) (d : Desc) (kp : Keeps s0 s) :
    Keeps s0 (applyRole s d).2 := by
  unfold applyRole
  repeat'
    first
    | with_reducible assumption | with_reducible exact id | with_reducible exact fun _ => id
    | with_reducible apply tput_twf | with_reducible exact noClosed_canon
    | (intro b a; cases a; cases (kp.canon b).twn; apply Twn.canon.mk) | exact rfl | (intro _)
    | with_reducible apply enterState_keeps | with_reducible apply takeoverNotice_keeps
    | with_reducible apply setTwn_keeps | with_reducible apply Keeps.ite | split | dsimp only
    | fail_if_no_progress with_reducible apply Keeps.fields

theorem applyPartnerRole_keeps {s0 : State} (s : State) (d : Desc) (kp : Keeps s0 s) :
    Keeps s0 (applyPartnerRole s d) := by
  unfold applyPartnerRole
  repeat'
    first
    | with_reducible assumption | with_reducible exact id | with_reducible exact fun _ => id
    | with_reducible apply tput_twf | with_reducible exact noClosed_canon
    | (intro b a; cases a; cases (kp.canon b).twn; apply Twn.canon.mk) | exact rfl | (intro _)
    | with_reducible apply enterState_keeps | with_reducible apply setTwn_keeps
    | with_reducible apply takeoverNotice_keeps | with_reducible apply Keeps.ite | split
    | dsimp only | fail_if_no_progress with_reducible apply Keeps.fields

theorem boundaryRoles_keeps {s0 : State} (s : State) (kp : Keeps s0 s) :
    Keeps s0 (boundaryRoles s) := by
  unfold boundaryRoles
  repeat'
    first
    | with_reducible assumption | with_reducible exact id | with_reducible exact fun _ => id
    | with_reducible apply tput_twf | with_reducible exact noClosed_canon
    | (intro b a; cases a; cases (kp.canon b).twn; apply Twn.canon.mk) | exact rfl | (intro _)
    | with_reducible apply enterState_keeps | with_reducible apply setTwn_keeps
    | with_reducible apply takeoverNotice_keeps | with_reducible apply Keeps.ite | split
    | dsimp only | fail_if_no_progress with_reducible apply Keeps.fields

theorem checkClose_keeps {s0 : State} (s : State) (kp : Keeps s0 s) :
    Keeps s0 (checkClose s) := by
  unfold checkClose
  repeat'
    first
    | with_reducible assumption | (intro _) | with_reducible apply loseStep_keeps
    | with_reducible apply Keeps.ite | split | dsimp only

theorem boundaryCopy_keeps {s0 : State} (s : State) (kp : Keeps s0 s) :
    Keeps s0 (boundaryCopy s) := by
  unfold boundaryCopy
  repeat'
    first
    | with_reducible assumption | (intro _) | with_reducible apply takeCopy_keeps
    | with_reducible apply takeEntry_keeps | with_reducible apply enterStandby_keeps
    | with_reducible apply Keeps.ite | split | dsimp only

theorem twinBoundary_keeps {s0 : State} (s : State) (kp : Keeps s0 s) :
    Keeps s0 (twinBoundary s) := by
  unfold twinBoundary
  repeat'
    first
    | with_reducible assumption | with_reducible exact id | with_reducible exact fun _ => id
    | with_reducible apply tput_twf | with_reducible apply filter_twf
    | with_reducible exact noClosed_canon
    | (intro b a; cases a; cases (kp.canon b).twn; apply Twn.canon.mk) | exact rfl | (intro _)
    | with_reducible apply setTwn_keeps | with_reducible apply missingDigest_keeps
    | with_reducible apply checkClose_keeps | with_reducible apply boundaryCopy_keeps
    | with_reducible apply boundaryRoles_keeps | with_reducible apply Keeps.ite | split | dsimp only
    | fail_if_no_progress with_reducible apply Keeps.fields

theorem noteCurrent_keeps {s0 : State} (s : State) (kp : Keeps s0 s) :
    Keeps s0 (noteCurrent s) := by
  unfold noteCurrent
  repeat'
    first
    | with_reducible assumption | with_reducible exact id | with_reducible exact fun _ => id
    | with_reducible apply tput_twf | with_reducible exact noClosed_canon
    | (intro b a; cases a; cases (kp.canon b).twn; apply Twn.canon.mk) | exact rfl | (intro _)
    | with_reducible apply setTwn_keeps | with_reducible apply Keeps.ite | split | dsimp only
    | fail_if_no_progress with_reducible apply Keeps.fields

theorem afterDeadline_keeps {s0 : State} (before s : State) (kp : Keeps s0 s) :
    Keeps s0 (afterDeadline before s) := by
  unfold afterDeadline
  repeat'
    first
    | with_reducible assumption | with_reducible exact id | with_reducible exact fun _ => id
    | with_reducible apply tput_twf | with_reducible apply filter_twf
    | with_reducible apply foldl_twf | with_reducible exact noClosed_canon
    | (intro b a; cases a; cases (kp.canon b).twn; apply Twn.canon.mk) | exact rfl | (intro _)
    | with_reducible apply setTwn_keeps | with_reducible apply publish_keeps
    | with_reducible apply setCurrent_keeps | with_reducible apply Keeps.foldl
    | with_reducible apply Keeps.foldlPair | with_reducible apply Keeps.ite | split | dsimp only
    | fail_if_no_progress with_reducible apply Keeps.fields

end Sys2Proof.Machine
end

