-- ==== Sys2Proof/Laws/KeepsBoot.lean ====
section
/-! SUPPORT. Laws/KeepsBoot.lean: every operation of Machine/Boot.lean keeps what `Keeps` names. -/
namespace Sys2Proof.Machine

theorem setBoot_keeps {s0 : State} (s : State) (b : Boot) (kp : Keeps s0 s) :
    Keeps s0 (setBoot s b) := by
  unfold setBoot
  repeat'
    first
    | with_reducible assumption | with_reducible exact id | with_reducible exact fun _ => id
    | with_reducible apply tput_twf | exact rfl | (intro _) | with_reducible apply Keeps.ite | split
    | dsimp only | fail_if_no_progress with_reducible apply Keeps.fields

theorem writeTarget_keeps {s0 : State} (s : State) (t dest : Nat) (bs : List Byte) (kp : Keeps s0 s) :
    Keeps s0 (writeTarget s t dest bs) := by
  unfold writeTarget
  repeat'
    first
    | with_reducible assumption | with_reducible exact id | with_reducible exact fun _ => id
    | with_reducible apply tput_twf | with_reducible apply foldl_twf
    | with_reducible apply tputList_twf | (intro a; cases a; apply Ccs.canon.mk) | exact rfl
    | (intro _) | with_reducible apply Keeps.foldl | with_reducible apply Keeps.foldlPair
    | with_reducible apply Keeps.ite | split | dsimp only
    | fail_if_no_progress with_reducible apply Keeps.fields | with_reducible apply Keeps.ofCcs

theorem writeSections_keeps {s0 : State} (s : State) (b : List Byte) (lo hi : Nat) (kp : Keeps s0 s) :
    Keeps s0 (writeSections s b lo hi) := by
  unfold writeSections
  repeat'
    first
    | with_reducible assumption | (intro _) | with_reducible apply writeTarget_keeps
    | with_reducible apply Keeps.foldl | with_reducible apply Keeps.foldlPair
    | with_reducible apply Keeps.ite | split | dsimp only

theorem clearCores_keeps {s0 : State} (s : State) (kp : Keeps s0 s) :
    Keeps s0 (clearCores s) := by
  unfold clearCores
  repeat'
    first
    | with_reducible assumption | with_reducible exact id | with_reducible exact fun _ => id
    | with_reducible apply tput_twf | (intro a; cases a; apply Ccs.canon.mk) | exact rfl | (intro _)
    | with_reducible apply Keeps.ite | split | dsimp only
    | fail_if_no_progress with_reducible apply Keeps.fields | with_reducible apply Keeps.ofCcs

theorem startFirmware_keeps {s0 : State} (s : State) (entry : Nat) (kp : Keeps s0 s) :
    Keeps s0 (startFirmware s entry) := by
  unfold startFirmware
  repeat'
    first
    | with_reducible assumption | with_reducible exact id | with_reducible exact fun _ => id
    | with_reducible apply tput_twf | with_reducible apply tputList_twf
    | (intro a; cases a; apply Ccs.canon.mk) | exact rfl | (intro _)
    | with_reducible apply startThread_keeps | with_reducible apply setReg_keeps
    | with_reducible apply Keeps.ite | split | dsimp only
    | fail_if_no_progress with_reducible apply Keeps.fields | with_reducible apply Keeps.ofCcs

theorem resetDeassert_keeps {s0 : State} (s : State) (kp : Keeps s0 s) :
    Keeps s0 (resetDeassert s) := by
  unfold resetDeassert
  repeat'
    first
    | with_reducible assumption | with_reducible exact id | with_reducible exact fun _ => id
    | with_reducible apply tput_twf | exact rfl | (intro _) | with_reducible apply setBoot_keeps
    | with_reducible apply Keeps.ite | split | dsimp only
    | fail_if_no_progress with_reducible apply Keeps.fields

theorem resetRelease_keeps {s0 : State} (s : State) (twinEn twinSide : Bool) (mode : Nat) (kp : Keeps s0 s) :
    Keeps s0 (resetRelease s twinEn twinSide mode) := by
  unfold resetRelease
  repeat'
    first
    | with_reducible assumption | with_reducible exact id | with_reducible exact fun _ => id
    | with_reducible apply tput_twf | exact rfl | (intro _) | with_reducible apply setBoot_keeps
    | with_reducible apply Keeps.ite | split | dsimp only
    | fail_if_no_progress with_reducible apply Keeps.fields

theorem pllLock_keeps {s0 : State} (s : State) (kp : Keeps s0 s) :
    Keeps s0 (pllLock s) := by
  unfold pllLock
  split
  · exact setCvu_keeps _ _ _ (setTim_keeps _ _ (setBoot_keeps _ _ kp) (fun _ a => a.2.1)
      fun a => ⟨a.stamps, a.pulses, a.caps⟩)
  · exact kp

theorem keysLoaded_keeps {s0 : State} (s : State) (kp : Keeps s0 s) :
    Keeps s0 (keysLoaded s) := by
  unfold keysLoaded
  repeat'
    first
    | with_reducible assumption | with_reducible exact id | with_reducible exact fun _ => id
    | with_reducible apply tput_twf | exact rfl | (intro _) | with_reducible apply loadKeys_keeps
    | with_reducible apply setBoot_keeps | with_reducible apply Keeps.ite | split | dsimp only
    | fail_if_no_progress with_reducible apply Keeps.fields

theorem memReady_keeps {s0 : State} (s : State) (kp : Keeps s0 s) :
    Keeps s0 (memReady s) := by
  unfold memReady
  repeat'
    first
    | with_reducible assumption | with_reducible exact id | with_reducible exact fun _ => id
    | with_reducible apply tput_twf | exact rfl | (intro _) | with_reducible apply flushLost_keeps
    | with_reducible apply setBoot_keeps | with_reducible apply Keeps.ite | split | dsimp only
    | fail_if_no_progress with_reducible apply Keeps.fields

theorem bootErr_keeps {s0 : State} (s : State) (e : Nat) (kp : Keeps s0 s) :
    Keeps s0 (bootErr s e) := by
  unfold bootErr
  repeat'
    first
    | with_reducible assumption | with_reducible exact id | with_reducible exact fun _ => id
    | with_reducible apply tput_twf | exact rfl | (intro _) | with_reducible apply setBoot_keeps
    | with_reducible apply Keeps.ite | split | dsimp only
    | fail_if_no_progress with_reducible apply Keeps.fields

theorem bootFail_keeps {s0 : State} (s : State) (e : Nat) (kp : Keeps s0 s) :
    Keeps s0 (bootFail s e) := by
  unfold bootFail
  repeat'
    first
    | with_reducible assumption | with_reducible exact id | with_reducible exact fun _ => id
    | with_reducible apply tput_twf | exact rfl | (intro _) | with_reducible apply setBoot_keeps
    | with_reducible apply Keeps.ite | split | dsimp only
    | fail_if_no_progress with_reducible apply Keeps.fields

theorem bootBegin_keeps {s0 : State} (s : State) (kp : Keeps s0 s) :
    Keeps s0 (bootBegin s) := by
  unfold bootBegin
  repeat'
    first
    | with_reducible assumption | with_reducible exact id | with_reducible exact fun _ => id
    | with_reducible apply tput_twf | exact rfl | (intro _) | with_reducible apply bootErr_keeps
    | with_reducible apply running_keeps | with_reducible apply setBoot_keeps
    | with_reducible apply Keeps.ite | split | dsimp only
    | fail_if_no_progress with_reducible apply Keeps.fields

theorem bootCleared_keeps {s0 : State} (s : State) (kp : Keeps s0 s) :
    Keeps s0 (bootCleared s) := by
  unfold bootCleared
  repeat'
    first
    | with_reducible assumption | with_reducible exact id | with_reducible exact fun _ => id
    | with_reducible apply tput_twf | exact rfl | (intro _) | with_reducible apply setBoot_keeps
    | with_reducible apply clearCores_keeps | with_reducible apply Keeps.ite | split | dsimp only
    | fail_if_no_progress with_reducible apply Keeps.fields

theorem bootPush_keeps {s0 : State} (s : State) (master : Bool) (kp : Keeps s0 s) :
    Keeps s0 (bootPush s master) := by
  unfold bootPush
  repeat'
    first
    | with_reducible assumption | with_reducible exact id | with_reducible exact fun _ => id
    | with_reducible apply tput_twf | exact rfl | (intro _) | with_reducible apply bootErr_keeps
    | with_reducible apply setBoot_keeps | with_reducible apply Keeps.ite | split | dsimp only
    | fail_if_no_progress with_reducible apply Keeps.fields

theorem bootAbort_keeps {s0 : State} (s : State) (kp : Keeps s0 s) :
    Keeps s0 (bootAbort s) := by
  unfold bootAbort
  repeat'
    first
    | with_reducible assumption | with_reducible exact id | with_reducible exact fun _ => id
    | with_reducible apply tput_twf | exact rfl | (intro _) | with_reducible apply bootErr_keeps
    | with_reducible apply setBoot_keeps | with_reducible apply Keeps.ite | split | dsimp only
    | fail_if_no_progress with_reducible apply Keeps.fields

theorem bootBlock_keeps {s0 : State} (s : State) (data : Option (List Byte)) (kp : Keeps s0 s) :
    Keeps s0 (bootBlock s data) := by
  unfold bootBlock
  repeat'
    first
    | with_reducible assumption | with_reducible exact id | with_reducible exact fun _ => id
    | with_reducible apply tput_twf | exact rfl | (intro _) | with_reducible apply bootFail_keeps
    | with_reducible apply setBoot_keeps | with_reducible apply writeSections_keeps
    | with_reducible apply Keeps.ite | split | dsimp only
    | fail_if_no_progress with_reducible apply Keeps.fields

theorem bootVerify_keeps {s0 : State} (s : State) (kp : Keeps s0 s) :
    Keeps s0 (bootVerify s) := by
  unfold bootVerify
  repeat'
    first
    | with_reducible assumption | with_reducible exact id | with_reducible exact fun _ => id
    | with_reducible apply tput_twf | exact rfl | (intro _) | with_reducible apply bootFail_keeps
    | with_reducible apply setBoot_keeps | with_reducible apply cvuFree_keeps
    | with_reducible apply running_keeps | with_reducible apply flushLost_keeps
    | with_reducible apply startFirmware_keeps | with_reducible apply Keeps.ite | split | dsimp only
    | fail_if_no_progress with_reducible apply Keeps.fields

theorem liftPort_keeps {s0 : State} (s : State) (p : Nat) (kp : Keeps s0 s) :
    Keeps s0 (liftPort s p) := by
  unfold liftPort
  repeat'
    first
    | with_reducible assumption | with_reducible exact id | with_reducible exact fun _ => id
    | with_reducible apply tput_twf | exact rfl | (intro _) | with_reducible apply setBoot_keeps
    | with_reducible apply setPort_keeps | with_reducible apply Keeps.ite | split | dsimp only
    | fail_if_no_progress with_reducible apply Keeps.fields

theorem liftPorts_keeps {s0 : State} (s : State) (step : Nat) (ports : List Nat) (kp : Keeps s0 s) :
    Keeps s0 (liftPorts s step ports) := by
  unfold liftPorts
  repeat'
    first
    | with_reducible assumption | (intro _) | with_reducible apply notice_keeps
    | with_reducible apply liftPort_keeps | with_reducible apply Keeps.foldl
    | with_reducible apply Keeps.foldlPair | with_reducible apply Keeps.ite | split | dsimp only

theorem bringUp_keeps {s0 : State} (s : State) (kp : Keeps s0 s) :
    Keeps s0 (bringUp s) := by
  unfold bringUp
  repeat'
    first
    | with_reducible assumption | with_reducible exact id | with_reducible exact fun _ => id
    | with_reducible apply tput_twf | exact rfl | (intro _) | with_reducible apply setBoot_keeps
    | with_reducible apply Keeps.ite | split | dsimp only
    | fail_if_no_progress with_reducible apply Keeps.fields

theorem bringUpStep_keeps {s0 : State} (s : State) (kp : Keeps s0 s) :
    Keeps s0 (bringUpStep s) := by
  unfold bringUpStep
  repeat'
    first
    | with_reducible assumption | with_reducible exact id | with_reducible exact fun _ => id
    | with_reducible apply tput_twf | exact rfl | (intro _) | with_reducible apply runToCycle_keeps
    | with_reducible apply liftPorts_keeps | with_reducible apply setBoot_keeps
    | with_reducible apply Keeps.ite | split | dsimp only
    | fail_if_no_progress with_reducible apply Keeps.fields

theorem holdClear_keeps {s0 : State} (s : State) (kp : Keeps s0 s) :
    Keeps s0 (holdClear s) := by
  unfold holdClear
  repeat'
    first
    | with_reducible assumption | with_reducible exact id | with_reducible exact fun _ => id
    | with_reducible apply tput_twf | exact rfl | (intro _) | with_reducible apply setBoot_keeps
    | with_reducible apply liftPorts_keeps | with_reducible apply Keeps.ite | split | dsimp only
    | fail_if_no_progress with_reducible apply Keeps.fields

theorem squelchWrite_keeps {s0 : State} (s : State) (v : Word) (kp : Keeps s0 s) :
    Keeps s0 (squelchWrite s v) := by
  unfold squelchWrite
  repeat'
    first
    | with_reducible assumption | (intro _) | with_reducible apply plainWrite_keeps
    | with_reducible apply holdClear_keeps | with_reducible apply bringUp_keeps
    | with_reducible apply Keeps.ite | split | dsimp only

theorem bootCtrlWrite_keeps {s0 : State} (s : State) (v : Word) (master : Bool) (kp : Keeps s0 s) :
    Keeps s0 (bootCtrlWrite s v master) := by
  unfold bootCtrlWrite
  repeat'
    first
    | with_reducible assumption | (intro _) | with_reducible apply bootBegin_keeps
    | with_reducible apply bootPush_keeps | with_reducible apply bootAbort_keeps
    | with_reducible apply Keeps.ite | split | dsimp only

end Sys2Proof.Machine
end

