-- ==== Sys2Proof/Laws/KeepsUpd.lean ====
section
/-! SUPPORT. Laws/KeepsUpd.lean: every operation of Machine/Upd.lean keeps what `Keeps` names. -/
namespace Sys2Proof.Machine

/-- With no fallback copy there is nothing to hold canonical. -/
theorem noFallback_canon : ∀ f : Fallback, none = some f → f.canon := nofun

theorem setUpd_keeps {s0 : State} (s : State) (u : Upd) (kp : Keeps s0 s) (hc : s0.canon → s.upd.canon → u.canon) :
    Keeps s0 (setUpd s u) :=
  ⟨kp.pending, kp.sound, kp.out, kp.wear, fun b => (Keeps.ofUpd kp (hc b)).canon b⟩

theorem setKeep_keeps {s0 : State} (s : State) (k : Keep) (kp : Keeps s0 s) (hw : s.keep.wear ≤ k.wear)
    (hc : s.keep.canon → k.canon) : Keeps s0 (setKeep s k) := Keeps.keep kp hw hc

theorem judgeBlock_keeps {s0 : State} (s : State) (t : Track) (kp : Keeps s0 s) :
    Keeps s0 (judgeBlock s t) := by
  unfold judgeBlock
  repeat'
    first
    | with_reducible assumption | (intro _) | with_reducible apply finish_keeps
    | with_reducible apply running_keeps | with_reducible apply Keeps.ite | split | dsimp only

theorem serveBlocks_keeps {s0 : State} (n : Nat) (s : State) (kp : Keeps s0 s) : Keeps s0 (serveBlocks n s) := by
  induction n generalizing s with
  | zero => exact kp
  | succ n ih =>
    unfold serveBlocks
    split
    · exact kp
    · split
      · exact ih _ (judgeBlock_keeps _ _ kp)
      · exact kp

theorem nextBlock_keeps {s0 : State} (s : State) (kp : Keeps s0 s) :
    Keeps s0 (nextBlock s) := by
  unfold nextBlock
  repeat'
    first
    | with_reducible assumption | (intro _) | with_reducible apply serveBlocks_keeps
    | with_reducible apply Keeps.ite | split | dsimp only

theorem startBlock_keeps {s0 : State} (s : State) (_t : Track) (kp : Keeps s0 s) :
    Keeps s0 (startBlock s _t) := by
  unfold startBlock
  repeat'
    first
    | with_reducible assumption | (intro _) | with_reducible apply nextBlock_keeps
    | with_reducible apply Keeps.ite | split | dsimp only

theorem finishBlock_keeps {s0 : State} (s : State) (t : Track) (st r0 r1 : Nat) (kp : Keeps s0 s) :
    Keeps s0 (finishBlock s t st r0 r1) := by
  unfold finishBlock
  repeat'
    first
    | with_reducible assumption | (intro _) | with_reducible apply nextBlock_keeps
    | with_reducible apply finish_keeps | with_reducible apply Keeps.ite | split | dsimp only

theorem blockStart_keeps {s0 : State} (s : State) (d : Desc) (kp : Keeps s0 s) :
    Keeps s0 (blockStart s d) := by
  unfold blockStart
  repeat'
    first
    | with_reducible assumption | with_reducible exact id | with_reducible exact fun _ => id
    | with_reducible apply tput_twf | exact rfl | (intro _ a; exact a) | (intro _)
    | with_reducible apply setUpd_keeps | with_reducible apply Keeps.ite | split | dsimp only
    | fail_if_no_progress with_reducible apply Keeps.fields

theorem imageBlockFailed_keeps {s0 : State} (s : State) (t : Track) (lo hi : Nat) (kp : Keeps s0 s) :
    Keeps s0 (imageBlockFailed s t lo hi) := by
  unfold imageBlockFailed
  repeat'
    first
    | with_reducible assumption | with_reducible exact id | with_reducible exact fun _ => id
    | with_reducible apply tput_twf | exact rfl | (intro _ a; exact a) | (intro _)
    | with_reducible apply setUpd_keeps | with_reducible apply blockStart_keeps
    | with_reducible apply finishBlock_keeps | with_reducible apply Keeps.ite | split | dsimp only
    | fail_if_no_progress with_reducible apply Keeps.fields

theorem writeBlock_keeps {s0 : State} (s : State) (t : Track) (data : List Byte) (kp : Keeps s0 s) :
    Keeps s0 (writeBlock s t data) := by
  unfold writeBlock
  repeat'
    first
    | with_reducible assumption | with_reducible exact id | with_reducible exact fun _ => id
    | with_reducible apply tput_twf | exact rfl | (intro _ a; exact a) | (intro _)
    | with_reducible apply begin_keeps | with_reducible apply blockStart_keeps
    | with_reducible apply finishBlock_keeps | with_reducible apply setUpd_keeps
    | with_reducible apply Keeps.ite | split | dsimp only
    | fail_if_no_progress with_reducible apply Keeps.fields

theorem imageBlockDone_keeps {s0 : State} (s : State) (t : Track) (data : List Byte) (kp : Keeps s0 s) :
    Keeps s0 (imageBlockDone s t data) := by
  unfold imageBlockDone
  repeat'
    first
    | with_reducible assumption | (intro _) | with_reducible apply finishBlock_keeps
    | with_reducible apply writeBlock_keeps | with_reducible apply Keeps.ite | split | dsimp only

theorem startVerify_keeps {s0 : State} (s : State) (t : Track) (kp : Keeps s0 s) :
    Keeps s0 (startVerify s t) := by
  unfold startVerify
  repeat'
    first
    | with_reducible assumption | with_reducible exact id | with_reducible exact fun _ => id
    | with_reducible apply tput_twf | exact rfl | (intro _ a; exact a) | (intro _)
    | with_reducible apply finish_keeps | with_reducible apply setUpd_keeps
    | with_reducible apply begin_keeps | with_reducible apply setCvu_keeps
    | with_reducible apply Keeps.ite | split | dsimp only
    | fail_if_no_progress with_reducible apply Keeps.fields

theorem verifyComplete_keeps {s0 : State} (s : State) (e : EccRead) (kp : Keeps s0 s) :
    Keeps s0 (verifyComplete s e) := by
  unfold verifyComplete
  repeat'
    first
    | with_reducible assumption | with_reducible exact id | with_reducible exact fun _ => id
    | with_reducible apply tput_twf | exact rfl | (intro _ a; exact a) | (intro _)
    | with_reducible apply setUpd_keeps | with_reducible apply cvuFree_keeps
    | with_reducible apply finish_keeps | with_reducible apply Keeps.ite | split | dsimp only
    | fail_if_no_progress with_reducible apply Keeps.fields

theorem putJournal_keeps {s0 : State} (s : State) (i : Nat) (j : Option Journal) (kp : Keeps s0 s) :
    Keeps s0 (putJournal s i j) := by
  unfold putJournal
  repeat'
    first
    | with_reducible assumption | exact Nat.le_refl _ | exact Nat.le_succ _
    | exact fun a => ⟨a.sectors, a.journal⟩ | exact fun a => ⟨tput_twf a.sectors, a.journal⟩
    | exact fun a => ⟨a.sectors, tput_twf a.journal⟩ | with_reducible exact id
    | with_reducible exact fun _ => id | with_reducible apply tput_twf
    | (intro b a; cases a; cases (kp.canon b).keep; apply Keep.canon.mk) | exact fun _ a => a.2.1
    | exact rfl | (intro _) | with_reducible apply setKeep_keeps | with_reducible apply Keeps.ite
    | split | dsimp only | fail_if_no_progress with_reducible apply Keeps.fields

theorem storeOutcome_keeps {s0 : State} (s : State) (j : StoreJob) (st r0 : Nat) (kp : Keeps s0 s) :
    Keeps s0 (storeOutcome s j st r0) := by
  unfold storeOutcome
  repeat'
    first
    | with_reducible assumption | with_reducible exact id | with_reducible exact fun _ => id
    | with_reducible apply tput_twf | exact rfl | (intro _ a; exact a) | (intro _)
    | with_reducible apply finish_keeps | with_reducible apply setUpd_keeps
    | with_reducible apply notice_keeps | with_reducible apply Keeps.ite | split | dsimp only
    | fail_if_no_progress with_reducible apply Keeps.fields

theorem schedule_keeps {s0 : State} (s : State) (id : Nat) (kp : Keeps s0 s) :
    Keeps s0 (schedule s id) := by
  unfold schedule
  repeat'
    first
    | with_reducible assumption | with_reducible exact id | with_reducible exact fun _ => id
    | with_reducible apply tput_twf | exact rfl | (intro _ a; exact a) | (intro _)
    | with_reducible apply finish_keeps | with_reducible apply setUpd_keeps
    | with_reducible apply joinTrack_keeps | with_reducible apply modTrack_keeps
    | with_reducible apply Keeps.ite | split | dsimp only
    | fail_if_no_progress with_reducible apply Keeps.fields

theorem confirmed_keeps {s0 : State} (s : State) (kp : Keeps s0 s) :
    Keeps s0 (confirmed s) := by
  unfold confirmed
  exact noticeBoth_keeps _ _ _ _ (setUpd_keeps _ _ kp fun _ _ => noFallback_canon)

theorem jobDone_keeps {s0 : State} (s : State) (j : StoreJob) (kp : Keeps s0 s) :
    Keeps s0 (jobDone s j) := by
  unfold jobDone
  repeat'
    first
    | with_reducible assumption | (intro _) | with_reducible apply schedule_keeps
    | with_reducible apply confirmed_keeps | with_reducible apply storeOutcome_keeps
    | with_reducible apply Keeps.ite | split | dsimp only

theorem popJob_keeps {s0 : State} (s : State) (kp : Keeps s0 s) :
    Keeps s0 (popJob s) := by
  unfold popJob
  repeat'
    first
    | with_reducible assumption | with_reducible exact id | with_reducible exact fun _ => id
    | with_reducible apply tput_twf | exact rfl | (intro _ a; exact a) | (intro _)
    | with_reducible apply setUpd_keeps | with_reducible apply Keeps.ite | split | dsimp only
    | fail_if_no_progress with_reducible apply Keeps.fields

theorem setJob_keeps {s0 : State} (s : State) (j : StoreJob) (kp : Keeps s0 s) :
    Keeps s0 (setJob s j) := by
  unfold setJob
  repeat'
    first
    | with_reducible assumption | with_reducible exact id | with_reducible exact fun _ => id
    | with_reducible apply tput_twf | exact rfl | (intro _ a; exact a) | (intro _)
    | with_reducible apply setUpd_keeps | with_reducible apply Keeps.ite | split | dsimp only
    | fail_if_no_progress with_reducible apply Keeps.fields

theorem serveRead_keeps {s0 : State} (s : State) (j : StoreJob) (kp : Keeps s0 s) :
    Keeps s0 (serveRead s j) := by
  unfold serveRead
  repeat'
    first
    | with_reducible assumption | with_reducible exact id | with_reducible exact fun _ => id
    | with_reducible apply tput_twf | exact rfl | (intro _)
    | with_reducible apply storeOutcome_keeps | with_reducible apply popJob_keeps
    | with_reducible apply begin_keeps | with_reducible apply setJob_keeps
    | with_reducible apply sharedWrite_keeps | with_reducible apply Keeps.ite | split | dsimp only
    | fail_if_no_progress with_reducible apply Keeps.fields

theorem startJob_keeps {s0 : State} (s : State) (j : StoreJob) (kp : Keeps s0 s) :
    Keeps s0 (startJob s j) := by
  unfold startJob
  repeat'
    first
    | with_reducible assumption | with_reducible exact id | with_reducible exact fun _ => id
    | with_reducible apply tput_twf | exact rfl | (intro _) | with_reducible apply setJob_keeps
    | with_reducible apply begin_keeps | with_reducible apply Keeps.ite | split | dsimp only
    | fail_if_no_progress with_reducible apply Keeps.fields

theorem resumeWindow_keeps {s0 : State} (s : State) (kp : Keeps s0 s) :
    Keeps s0 (resumeWindow s) := by
  unfold resumeWindow
  repeat'
    first
    | with_reducible assumption | with_reducible exact id | with_reducible exact fun _ => id
    | with_reducible apply tput_twf | exact rfl | (intro _ a; exact a) | (intro _)
    | with_reducible apply setUpd_keeps | with_reducible apply Keeps.ite | split | dsimp only
    | fail_if_no_progress with_reducible apply Keeps.fields

theorem refuseSupply_keeps {s0 : State} (s : State) (j : StoreJob) (r0 : Nat) (kp : Keeps s0 s) :
    Keeps s0 (refuseSupply s j r0) := by
  unfold refuseSupply
  repeat'
    first
    | with_reducible assumption | (intro _) | with_reducible apply resumeWindow_keeps
    | with_reducible apply storeOutcome_keeps | with_reducible apply popJob_keeps
    | with_reducible apply Keeps.ite | split | dsimp only

theorem serveJobs_keeps {s0 : State} (n : Nat) (s : State) (h : Keeps s0 s) : Keeps s0 (serveJobs n s) := by
  induction n generalizing s with
  | zero => exact h
  | succ n ih =>
    unfold serveJobs
    repeat'
      first
      | with_reducible assumption | with_reducible apply ih | with_reducible apply serveRead_keeps
      | with_reducible apply refuseSupply_keeps | with_reducible apply popJob_keeps
      | with_reducible apply startJob_keeps | with_reducible apply Keeps.ite | split

theorem serve_keeps {s0 : State} (s : State) (kp : Keeps s0 s) :
    Keeps s0 (serve s) := by
  unfold serve
  repeat'
    first
    | with_reducible assumption | (intro _) | with_reducible apply serveJobs_keeps
    | with_reducible apply Keeps.ite | split | dsimp only

theorem storeReadDone_keeps {s0 : State} (s : State) (t : Track) (failed : Option (Nat × Nat)) (kp : Keeps s0 s) :
    Keeps s0 (storeReadDone s t failed) := by
  unfold storeReadDone
  repeat'
    first
    | with_reducible assumption | with_reducible exact id | with_reducible exact fun _ => id
    | with_reducible apply tput_twf | exact rfl | (intro _) | with_reducible apply popJob_keeps
    | with_reducible apply serve_keeps | with_reducible apply finish_keeps
    | with_reducible apply storeOutcome_keeps | with_reducible apply Keeps.ite | split | dsimp only
    | fail_if_no_progress with_reducible apply Keeps.fields | with_reducible apply Keeps.fieldsSent
    | with_reducible apply Keeps.litSent

theorem settleJobs_keeps {s0 : State} (s : State) (kp : Keeps s0 s) :
    Keeps s0 (settleJobs s) := by
  unfold settleJobs
  repeat'
    first
    | with_reducible assumption | with_reducible exact id | with_reducible exact fun _ => id
    | with_reducible apply tput_twf | with_reducible apply filter_twf | exact rfl
    | (intro _ a; exact a) | (intro _) | with_reducible apply serve_keeps
    | with_reducible apply setUpd_keeps | with_reducible apply Keeps.ite | split | dsimp only
    | fail_if_no_progress with_reducible apply Keeps.fields

theorem submit_keeps {s0 : State} (s : State) (j : StoreJob) (kp : Keeps s0 s) :
    Keeps s0 (submit s j) := by
  unfold submit
  repeat'
    first
    | with_reducible assumption | with_reducible exact id | with_reducible exact fun _ => id
    | with_reducible apply tput_twf | exact rfl | (intro _ a; exact a) | (intro _)
    | with_reducible apply serve_keeps | with_reducible apply setUpd_keeps
    | with_reducible apply Keeps.ite | split | dsimp only
    | fail_if_no_progress with_reducible apply Keeps.fields

theorem doStep_keeps {s0 : State} (s : State) (j : StoreJob) (i : Nat) (kp : Keeps s0 s) :
    Keeps s0 (doStep s j i) := by
  unfold doStep
  repeat'
    first
    | with_reducible assumption | exact Nat.le_refl _ | exact Nat.le_succ _
    | exact fun a => ⟨a.sectors, a.journal⟩ | exact fun a => ⟨tput_twf a.sectors, a.journal⟩
    | exact fun a => ⟨a.sectors, tput_twf a.journal⟩ | with_reducible exact id
    | with_reducible exact fun _ => id | with_reducible apply tput_twf
    | (intro b a; cases a; cases (kp.canon b).keep; apply Keep.canon.mk) | exact fun _ a => a.2.1
    | exact rfl | (intro _) | with_reducible apply setKeep_keeps
    | with_reducible apply putJournal_keeps | with_reducible apply programSector_keeps
    | with_reducible apply Keeps.ite | split | dsimp only
    | fail_if_no_progress with_reducible apply Keeps.fields

theorem supplyWait_keeps {s0 : State} (s : State) (on : Bool) (kp : Keeps s0 s) :
    Keeps s0 (supplyWait s on) := by
  unfold supplyWait
  repeat'
    first
    | with_reducible assumption | (intro _) | with_reducible apply noticeBoth_keeps
    | with_reducible apply Keeps.ite | split | dsimp only

theorem storeStep_keeps {s0 : State} (s : State) (kp : Keeps s0 s) :
    Keeps s0 (storeStep s) := by
  unfold storeStep
  repeat'
    first
    | with_reducible assumption | with_reducible exact id | with_reducible exact fun _ => id
    | with_reducible apply tput_twf | exact rfl | (intro _) | with_reducible apply doStep_keeps
    | with_reducible apply serve_keeps | with_reducible apply jobDone_keeps
    | with_reducible apply popJob_keeps | with_reducible apply setJob_keeps
    | with_reducible apply supplyWait_keeps | with_reducible apply Keeps.ite | split | dsimp only
    | fail_if_no_progress with_reducible apply Keeps.fields

theorem repairLater_keeps {s0 : State} (s : State) (kp : Keeps s0 s) :
    Keeps s0 (repairLater s) := by
  unfold repairLater
  repeat'
    first
    | with_reducible assumption | with_reducible exact id | with_reducible exact fun _ => id
    | with_reducible apply tput_twf | exact rfl | (intro _ a; exact a) | (intro _)
    | with_reducible apply setUpd_keeps | with_reducible apply Keeps.ite | split | dsimp only
    | fail_if_no_progress with_reducible apply Keeps.fields

theorem storeResume_keeps {s0 : State} (s : State) (kp : Keeps s0 s) :
    Keeps s0 (storeResume s) := by
  unfold storeResume
  repeat'
    first
    | with_reducible assumption | with_reducible exact id | with_reducible exact fun _ => id
    | with_reducible apply tput_twf | exact rfl | (intro _) | with_reducible apply supplyWait_keeps
    | with_reducible apply setJob_keeps | with_reducible apply serve_keeps
    | with_reducible apply repairLater_keeps | with_reducible apply Keeps.ite | split | dsimp only
    | fail_if_no_progress with_reducible apply Keeps.fields

theorem storeTimeout_keeps {s0 : State} (s : State) (kp : Keeps s0 s) :
    Keeps s0 (storeTimeout s) := by
  unfold storeTimeout
  repeat'
    first
    | with_reducible assumption | (intro _) | with_reducible apply supplyWait_keeps
    | with_reducible apply runToCycle_keeps | with_reducible apply serve_keeps
    | with_reducible apply refuseSupply_keeps | with_reducible apply Keeps.ite | split | dsimp only

theorem storeRepair_keeps {s0 : State} (s : State) (kp : Keeps s0 s) :
    Keeps s0 (storeRepair s) := by
  unfold storeRepair
  repeat'
    first
    | with_reducible assumption | with_reducible exact id | with_reducible exact fun _ => id
    | with_reducible apply tput_twf | exact rfl | (intro _ a; exact a) | (intro _)
    | with_reducible apply serve_keeps | with_reducible apply setUpd_keeps
    | with_reducible apply programSector_keeps | with_reducible apply noticeBoth_keeps
    | with_reducible apply putJournal_keeps | with_reducible apply Keeps.ite | split | dsimp only
    | fail_if_no_progress with_reducible apply Keeps.fields

theorem startStoreWrite_keeps {s0 : State} (s : State) (t : Track) (kp : Keeps s0 s) :
    Keeps s0 (startStoreWrite s t) := by
  unfold startStoreWrite
  repeat'
    first
    | with_reducible assumption | (intro _) | with_reducible apply finish_keeps
    | with_reducible apply submit_keeps | with_reducible apply running_keeps
    | with_reducible apply Keeps.ite | split | dsimp only

theorem storeWriteRead_keeps {s0 : State} (s : State) (t : Track) (data : List Byte) (kp : Keeps s0 s) :
    Keeps s0 (storeWriteRead s t data) := by
  unfold storeWriteRead
  repeat'
    first
    | with_reducible assumption | (intro _) | with_reducible apply submit_keeps
    | with_reducible apply Keeps.ite | split | dsimp only

theorem startStoreRead_keeps {s0 : State} (s : State) (t : Track) (kp : Keeps s0 s) :
    Keeps s0 (startStoreRead s t) := by
  unfold startStoreRead
  repeat'
    first
    | with_reducible assumption | (intro _) | with_reducible apply finish_keeps
    | with_reducible apply submit_keeps | with_reducible apply running_keeps
    | with_reducible apply Keeps.ite | split | dsimp only

theorem fwStore_keeps {s0 : State} (s : State) (write : Bool) (kp : Keeps s0 s) :
    Keeps s0 (fwStore s write) := by
  unfold fwStore
  repeat'
    first
    | with_reducible assumption | with_reducible exact id | with_reducible exact fun _ => id
    | with_reducible apply tput_twf | exact rfl | (intro _ a; exact a) | (intro _)
    | with_reducible apply setUpd_keeps | with_reducible apply storeOutcome_keeps
    | with_reducible apply submit_keeps | with_reducible apply Keeps.ite | split | dsimp only
    | fail_if_no_progress with_reducible apply Keeps.fields

theorem fwCmdWrite_keeps {s0 : State} (s : State) (v : Word) (kp : Keeps s0 s) :
    Keeps s0 (fwCmdWrite s v) := by
  unfold fwCmdWrite
  repeat'
    first
    | with_reducible assumption | (intro _) | with_reducible apply plainWrite_keeps
    | with_reducible apply fwStore_keeps | with_reducible apply Keeps.ite | split | dsimp only

theorem startActivate_keeps {s0 : State} (s : State) (t : Track) (kp : Keeps s0 s) :
    Keeps s0 (startActivate s t) := by
  unfold startActivate
  repeat'
    first
    | with_reducible assumption | (intro _) | with_reducible apply finish_keeps
    | with_reducible apply submit_keeps | with_reducible apply running_keeps
    | with_reducible apply Keeps.ite | split | dsimp only

theorem settleAct_keeps {s0 : State} (s : State) (kp : Keeps s0 s) :
    Keeps s0 (settleAct s) := by
  unfold settleAct
  repeat'
    first
    | with_reducible assumption | with_reducible exact id | with_reducible exact fun _ => id
    | with_reducible apply tput_twf | exact rfl | (intro _ a; exact a) | (intro _)
    | with_reducible apply setUpd_keeps | with_reducible apply Keeps.ite | split | dsimp only
    | fail_if_no_progress with_reducible apply Keeps.fields

theorem haltThreads_keeps {s0 : State} (s : State) (kp : Keeps s0 s) :
    Keeps s0 (haltThreads s) := by
  unfold haltThreads
  repeat'
    first
    | with_reducible assumption | with_reducible exact id | with_reducible exact fun _ => id
    | with_reducible apply tput_twf | with_reducible apply foldl_twf | exact rfl | (intro _)
    | with_reducible apply haltThread_keeps | with_reducible apply setCore_keeps
    | with_reducible apply Keeps.foldl | with_reducible apply Keeps.foldlPair
    | with_reducible apply Keeps.ite | split | dsimp only
    | fail_if_no_progress with_reducible apply Keeps.fields

theorem activateAt_keeps {s0 : State} (s : State) (b : Hoop) (kp : Keeps s0 s) :
    Keeps s0 (activateAt s b) := by
  unfold activateAt
  split
  · dsimp only
    have h1 := Keeps.foldl (f := fun s p => setReg s (MAC_FW_RX_BASE p) 0) (l := List.range 38)
      (fun t p ht => setReg_keeps t _ _ ht) (haltThreads_keeps s kp)
    generalize List.foldl _ (haltThreads s) (List.range 38) = t at *
    exact setUpd_keeps _ _ h1 fun _ _ f h => by cases h; exact ⟨rfl, rfl, rfl, rfl⟩
  · exact kp

theorem withoutThreadRegs_keeps {s0 : State} (s : State) (n : Nat) (kp : Keeps s0 s) :
    Keeps s0 (withoutThreadRegs s n) := by
  exact Keeps.regs kp filter_twf

theorem freeUnits_keeps {s0 : State} (s : State) (kp : Keeps s0 s) :
    Keeps s0 (freeUnits s) := by
  unfold freeUnits
  repeat'
    first
    | with_reducible assumption | (intro _) | with_reducible apply cvuFree_keeps
    | with_reducible apply Keeps.foldl | with_reducible apply Keeps.foldlPair
    | with_reducible apply Keeps.ite | split | dsimp only

theorem clearThreads_keeps {s0 : State} (s : State) (kp : Keeps s0 s) :
    Keeps s0 (clearThreads s) := by
  unfold clearThreads
  repeat'
    first
    | with_reducible assumption | with_reducible exact id | with_reducible exact fun _ => id
    | with_reducible apply tput_twf | with_reducible apply tmap_twf
    | (intro a; cases a; apply Ccs.canon.mk) | exact rfl | (intro _)
    | with_reducible apply Keeps.ite | split | dsimp only
    | fail_if_no_progress with_reducible apply Keeps.fields | with_reducible apply Keeps.ofCcs

theorem activationDone_keeps {s0 : State} (s : State) (kp : Keeps s0 s) :
    Keeps s0 (activationDone s) := by
  unfold activationDone
  split
  · split
    · dsimp only
      have hf : s0.canon → ∀ f, (s.upd.fallback.map fun f => { f with
          imem := s.ccs.imem, dmem := s.ccs.dmem, shared := s.ccs.shared, tcb := s.ccs.tcb, regs := threadRegs s })
          = some f → f.canon := fun b f h => by
        rw [Option.map_eq_some_iff] at h
        obtain ⟨g, -, rfl⟩ := h
        exact ⟨(kp.canon b).ccs.imem, (kp.canon b).ccs.dmem, (kp.canon b).ccs.shared, (kp.canon b).ccs.tcb⟩
      generalize Option.map _ s.upd.fallback = fb at *
      apply finishAt_keeps
      apply noticeBoth_keeps
      refine Keeps.foldl (fun t k ht => setCore_keeps t k _ ht) ?_
      apply startFirmware_keeps
      refine setUpd_keeps _ _ ?_ fun b _ => hf b
      apply freeUnits_keeps
      apply clearThreads_keeps
      apply withoutThreadRegs_keeps
      refine Keeps.ofCcs (writeSections_keeps _ _ _ _ (clearCores_keeps _ kp)) fun a => ?_
      cases a
      constructor
      all_goals first | with_reducible assumption | exact rfl
    · exact kp
  · exact kp

theorem startRevert_keeps {s0 : State} (s : State) (why : Nat) (kp : Keeps s0 s) :
    Keeps s0 (startRevert s why) := by
  unfold startRevert
  repeat'
    first
    | with_reducible assumption | with_reducible exact id | with_reducible exact fun _ => id
    | with_reducible apply tput_twf | exact rfl | (intro _ a; exact a) | (intro _)
    | with_reducible apply haltThreads_keeps | with_reducible apply setUpd_keeps
    | with_reducible apply Keeps.ite | split | dsimp only
    | fail_if_no_progress with_reducible apply Keeps.fields

theorem confirmExpiry_keeps {s0 : State} (s : State) (kp : Keeps s0 s) :
    Keeps s0 (confirmExpiry s) := by
  unfold confirmExpiry
  repeat'
    first
    | with_reducible assumption | (intro _) | with_reducible apply startRevert_keeps
    | with_reducible apply runToCycle_keeps | with_reducible apply Keeps.ite | split | dsimp only

theorem revertDone_keeps {s0 : State} (s : State) (kp : Keeps s0 s) :
    Keeps s0 (revertDone s) := by
  unfold revertDone
  split
  · rename_i why f _ hu
    have h1 : Keeps s0 { s with ccs := { s.ccs with
        imem := f.imem, dmem := f.dmem, shared := f.shared, tcb := f.tcb } } :=
      ⟨kp.pending, kp.sound, kp.out, kp.wear, fun b => (Keeps.ofCcs kp fun a => by
        have hf := (kp.canon b).upd f hu
        cases a
        cases hf
        constructor
        all_goals with_reducible assumption).canon b⟩
    generalize { s with ccs := { s.ccs with
        imem := f.imem, dmem := f.dmem, shared := f.shared, tcb := f.tcb } } = t at *
    dsimp only
    refine Keeps.foldl (fun t k ht => finish_keeps t _ _ _ _ ht) ?_
    apply noticeBoth_keeps
    refine setUpd_keeps _ _ ?_ fun _ _ => noFallback_canon
    refine Keeps.foldl (fun t k ht => setCore_keeps t k _ ht) ?_
    apply dispatch_keeps
    refine Keeps.foldl (fun t k ht => makeReady_keeps t _ _ ht) ?_
    refine Keeps.foldl (fun t k ht => setThread_keeps t _ _ ht) ?_
    refine Keeps.foldl (fun t k ht => setReg_keeps t _ _ ht) ?_
    refine Keeps.foldl (fun t k ht => setReg_keeps t _ _ ht) ?_
    exact freeUnits_keeps _ (clearThreads_keeps _ (withoutThreadRegs_keeps _ _ h1))
  · exact kp

theorem startConfirm_keeps {s0 : State} (s : State) (t : Track) (kp : Keeps s0 s) :
    Keeps s0 (startConfirm s t) := by
  unfold startConfirm
  repeat'
    first
    | with_reducible assumption | with_reducible exact id | with_reducible exact fun _ => id
    | with_reducible apply tput_twf | exact rfl | (intro _ a; exact a) | (intro _)
    | with_reducible apply finish_keeps | with_reducible apply startRevert_keeps
    | with_reducible apply begin_keeps | with_reducible apply setUpd_keeps
    | with_reducible apply submit_keeps | with_reducible apply Keeps.ite | split | dsimp only
    | fail_if_no_progress with_reducible apply Keeps.fields

end Sys2Proof.Machine
end

