-- ==== Sys2Proof/Laws/KeepsSystem.lean ====
section
/-! SUPPORT. Laws/KeepsSystem.lean: every operation of Machine/System.lean keeps what `Keeps` names. -/
namespace Sys2Proof.Machine

theorem tearStore_keeps {s0 : State} (s : State) (kp : Keeps s0 s) :
    Keeps s0 (tearStore s) := by
  unfold tearStore
  repeat'
    first
    | with_reducible assumption | (intro _) | with_reducible apply putJournal_keeps
    | with_reducible apply programSector_keeps | with_reducible apply Keeps.ite | split | dsimp only

theorem tearKey_keeps {s0 : State} (s : State) (kp : Keeps s0 s) :
    Keeps s0 (tearKey s) := by
  unfold tearKey
  repeat'
    first
    | with_reducible assumption | (intro _) | with_reducible apply programSector_keeps
    | with_reducible apply Keeps.ite | split | dsimp only

theorem deviceReset_keeps {s0 : State} (s : State) (cause rail : Nat) (kp : Keeps s0 s) :
    Keeps s0 (deviceReset s cause rail) := by
  have hk := tearKey_keeps _ (tearStore_keeps s kp)
  unfold deviceReset
  refine setReg_keeps _ _ _ ⟨kp.pending, fun _ => ?_, kp.out, hk.wear, fun b => ?_⟩
  case refine_2 =>
    have hc := (hk.canon b).keep
    constructor
    all_goals
      first
      | exact hc | exact rfl | (constructor <;> exact rfl) | exact fun _ h => (Option.some_ne_none _ h.symm).elim
      | exact ⟨rfl, fun _ h => (Option.some_ne_none _ h.symm).elim⟩
  exact ⟨rfl, (by decide : Tim.reset.acc < secUnits ∧ Tim.reset.sec < 2 ^ 48 ∧ Tim.reset.blk < 1024),
    (by intro h; exact absurd h Bool.false_ne_true),
    (by decide : Lgw.reset.latch.length < 4 ∧ Lgw.reset.addr < 65536 ∧ Lgw.reset.dropped < 256)⟩

theorem railPowerOn_keeps {s0 : State} (s : State) (kp : Keeps s0 s) :
    Keeps s0 (railPowerOn s) := by
  exact deviceReset_keeps _ _ _ (Keeps.psm kp (fun _ a => a.2.2.1) fun a => ⟨a.mv⟩)

theorem bootReset_keeps {s0 : State} (s : State) (v : Word) (kp : Keeps s0 s) :
    Keeps s0 (bootReset s v) := by
  unfold bootReset
  repeat'
    first
    | with_reducible assumption | (intro _) | with_reducible apply deviceReset_keeps
    | with_reducible apply Keeps.ite | split | dsimp only

theorem floatLane_keeps {s0 : State} (s : State) (g : Nat) (kp : Keeps s0 s) :
    Keeps s0 (floatLane s g) := by
  unfold floatLane
  repeat'
    first
    | with_reducible assumption | (intro _) | with_reducible apply stopPass_keeps
    | with_reducible apply Keeps.ite | split | dsimp only

theorem clockLoss_keeps {s0 : State} (s : State) (domain : Nat) (kp : Keeps s0 s) :
    Keeps s0 (clockLoss s domain) := by
  unfold clockLoss
  repeat'
    first
    | with_reducible assumption | with_reducible exact id | with_reducible exact fun _ => id
    | with_reducible apply tput_twf | with_reducible apply foldl_twf
    | with_reducible exact noClosed_canon
    | (intro b a; cases a; cases (kp.canon b).twn; apply Twn.canon.mk)
    | (intro a; cases a; apply Tim.canon.mk) | exact fun _ a => a.2.1 | exact rfl | (intro _)
    | with_reducible apply floatLane_keeps | with_reducible apply setTwn_keeps
    | with_reducible apply setTim_keeps | with_reducible apply running_keeps
    | with_reducible apply notice_keeps | with_reducible apply Keeps.foldl
    | with_reducible apply Keeps.foldlPair | with_reducible apply Keeps.ite | split | dsimp only
    | fail_if_no_progress with_reducible apply Keeps.fields

theorem memWord_keeps {s0 : State} (s : State) (stack addr : Nat) (e : EccRead) (kp : Keeps s0 s) :
    Keeps s0 (memWord s stack addr e) := by
  unfold memWord
  repeat'
    first
    | with_reducible assumption | with_reducible exact id | with_reducible exact fun _ => id
    | with_reducible apply tput_twf | exact rfl | (intro _) | with_reducible apply latchCount_keeps
    | with_reducible apply noticeBoth_keeps | with_reducible apply Keeps.ite | split | dsimp only
    | fail_if_no_progress with_reducible apply Keeps.fields

theorem pipelineUncorrectable_keeps {s0 : State} (s : State) (store stack addr : Nat) (kp : Keeps s0 s) :
    Keeps s0 (pipelineUncorrectable s store stack addr) := by
  unfold pipelineUncorrectable
  repeat'
    first
    | with_reducible assumption | (intro _) | with_reducible apply memWord_keeps
    | with_reducible apply noticeBoth_keeps | with_reducible apply latch_keeps
    | with_reducible apply abortHoop_keeps | with_reducible apply Keeps.ite | split | dsimp only

theorem behavWrite_keeps {s0 : State} (s : State) (v : Word) (kp : Keeps s0 s) :
    Keeps s0 (behavWrite s v) := by
  unfold behavWrite
  repeat'
    first
    | with_reducible assumption | (intro _) | with_reducible apply running_keeps
    | with_reducible apply latch_keeps | with_reducible apply plainWrite_keeps
    | with_reducible apply Keeps.ite | split | dsimp only

theorem refuseWrites_keeps {s0 : State} (s : State) (n : Nat) (kp : Keeps s0 s) :
    Keeps s0 (refuseWrites s n) := by
  unfold refuseWrites
  split
  · exact kp
  · have h1 := Keeps.psm (x := { s.psm with refusing := s.psm.refusing ||| 2 ^ (n - 1), writeOk := false }) kp
      (by intro _ _ h; exact absurd h Bool.false_ne_true) fun a => ⟨a.mv⟩
    exact Keeps.ite (noticeBoth_keeps _ _ _ _ (latchCount_keeps _ _ _ _ _ h1)) h1

theorem grantWrites_keeps {s0 : State} (s : State) (kp : Keeps s0 s) :
    Keeps s0 (grantWrites s) := by
  unfold grantWrites
  split
  · exact kp
  · have h1 := Keeps.psm (x := { s.psm with refusing := 0, writeOk := true }) kp (by intro _ _ _; rfl) fun a => ⟨a.mv⟩
    exact storeResume_keeps _ (keyResume_keeps _ (noticeBoth_keeps _ _ _ _ h1))

theorem sensorUpdate_keeps {s0 : State} (s : State) (tj : Int) (hbm : List Int) (mv : List Nat) (kp : Keeps s0 s) :
    Keeps s0 (sensorUpdate s tj hbm mv) := by
  unfold sensorUpdate
  refine Keeps.ite (noticeBoth_keeps _ _ _ _ (Keeps.psm kp (fun _ a => a.2.2.1) ?_)) (Keeps.psm kp (fun _ a => a.2.2.1) ?_)
  all_goals first | exact fun a => ⟨a.mv⟩ | exact fun a => ⟨tput_twf a.mv⟩ | exact fun a => ⟨foldl_twf (fun _ _ h => tput_twf h) a.mv⟩

end Sys2Proof.Machine
end

