-- ==== Sys2Proof/Laws/KeepsLgw.lean ====
section
/-! SUPPORT. Laws/KeepsLgw.lean: every operation of Machine/Lgw.lean keeps what `Keeps` names. -/
namespace Sys2Proof.Machine

theorem lgwDrop_dropped {l : Lgw} {n : Nat} : (lgwDrop l n).dropped < 256 := by
  show min (l.dropped + n) 255 < 256
  omega

theorem lgwPut_dropped (l : Lgw) (a v : Nat) : (lgwPut l a v).dropped = l.dropped := by
  unfold lgwPut
  dsimp only
  repeat' split
  all_goals rfl

theorem lgwPut_canon {l : Lgw} {a v : Nat} (h : l.canon) : (lgwPut l a v).canon := by
  unfold lgwPut
  dsimp only
  repeat' split
  · exact ⟨tput_twf h.args, h.staged⟩
  · exact ⟨h.args, tput_twf h.staged⟩
  · exact ⟨h.args, tput_twf h.staged⟩
  · exact ⟨h.args, h.staged⟩
  · exact h

theorem setLgw_keeps {s0 : State} (s : State) (l : Lgw) (kp : Keeps s0 s) (hl : s.lgw.sound → l.sound)
    (hc : s.lgw.canon → l.canon) : Keeps s0 (setLgw s l) := Keeps.lgw kp (fun _ a => hl a.2.2.2) hc

theorem settleLgw_keeps {s0 : State} (s : State) (kp : Keeps s0 s) :
    Keeps s0 (settleLgw s) := by
  unfold settleLgw
  exact Keeps.ite (setLgw_keeps _ _ kp (fun a => ⟨Nat.succ_pos _, a.2.1, lgwDrop_dropped⟩) fun a => ⟨a.args, rfl⟩) kp

theorem lgwClear_keeps {s0 : State} (s : State) (kp : Keeps s0 s) :
    Keeps s0 (lgwClear s) := by
  exact setLgw_keeps _ _ kp (fun a => ⟨Nat.succ_pos _, a.2⟩) fun a => ⟨a.args, a.staged⟩

theorem lgwAddrHigh_keeps {s0 : State} (s : State) (v : Nat) (kp : Keeps s0 s) :
    Keeps s0 (lgwAddrHigh s v) := by
  unfold lgwAddrHigh
  refine Keeps.ite kp (setLgw_keeps _ _ kp (fun a => ⟨Nat.succ_pos _, ?_, a.2.2⟩) fun a => ⟨a.args, a.staged⟩)
  show v % 256 * 256 + s.lgw.addr % 256 < 65536
  omega

theorem lgwAddrLow_keeps {s0 : State} (s : State) (v : Nat) (kp : Keeps s0 s) :
    Keeps s0 (lgwAddrLow s v) := by
  unfold lgwAddrLow
  refine Keeps.ite kp (setLgw_keeps _ _ kp (fun a => ⟨Nat.succ_pos _, ?_, a.2.2⟩) fun a => ⟨a.args, a.staged⟩)
  have := a.2.1
  show s.lgw.addr / 256 * 256 + v % 256 < 65536
  omega

theorem lgwData_keeps {s0 : State} (s : State) (v : Nat) (kp : Keeps s0 s) :
    Keeps s0 (lgwData s v) := by
  unfold lgwData
  split
  · exact kp
  · dsimp only
    split
    · rename_i hl
      exact setLgw_keeps _ _ kp (fun a => ⟨hl, a.2⟩) fun a => ⟨a.args, a.staged⟩
    · refine setLgw_keeps _ _ kp (fun a => ⟨Nat.succ_pos _, Nat.mod_lt _ (by decide), ?_⟩) fun a => ?_
      · show (lgwPut s.lgw _ _).dropped < 256
        rw [lgwPut_dropped]
        exact a.2.2
      · exact ⟨(lgwPut_canon a).args, (lgwPut_canon a).staged⟩

theorem lgwRead_keeps {s0 : State} (s : State) (kp : Keeps s0 s) :
    Keeps s0 (lgwRead s) := by
  unfold lgwRead
  split
  · exact Keeps.fields kp
  · have h1 : Keeps s0 (setLgw s { s.lgw with
        snap := lgwWord s s.lgw.addr % 2 ^ 24, addr := (s.lgw.addr + 1) % 65536 }) :=
      setLgw_keeps _ _ kp (fun a => ⟨a.1, Nat.mod_lt _ (by decide), a.2.2⟩) fun a => ⟨a.args, a.staged⟩
    exact Keeps.fields h1

theorem lgwOpen_keeps {s0 : State} (s : State) (kp : Keeps s0 s) :
    Keeps s0 (lgwOpen s) := by
  unfold lgwOpen
  repeat'
    first
    | with_reducible assumption | exact fun a => ⟨a.1, a.2.1, a.2.2⟩
    | exact fun a => ⟨a.1, a.2.1, Nat.succ_pos _⟩ | exact fun a => ⟨a.args, a.staged⟩
    | with_reducible exact id | with_reducible exact fun _ => id | with_reducible apply tput_twf
    | (intro b a; cases a; cases (kp.canon b).lgw; apply Lgw.canon.mk) | exact fun _ a => a.2.1
    | exact rfl | (intro _) | with_reducible apply setLgw_keeps | with_reducible apply Keeps.ite
    | split | dsimp only | fail_if_no_progress with_reducible apply Keeps.fields

theorem lgwMembers_keeps {s0 : State} (s : State) (c : Cfg) (kp : Keeps s0 s) :
    Keeps s0 (lgwMembers s c).2 := by
  unfold lgwMembers
  split
  · exact setLgw_keeps _ _ kp (fun a => ⟨a.1, a.2.1, lgwDrop_dropped⟩) fun a => ⟨a.args, rfl⟩
  · exact kp

theorem lgwWrite_keeps {s0 : State} (s : State) (off v : Nat) (kp : Keeps s0 s) :
    Keeps s0 (lgwWrite s off v) := by
  unfold lgwWrite
  repeat'
    first
    | with_reducible assumption | exact fun a => ⟨a.1, a.2.1, a.2.2⟩
    | exact fun a => ⟨a.1, a.2.1, Nat.succ_pos _⟩ | exact fun a => ⟨a.args, a.staged⟩
    | with_reducible exact id | with_reducible exact fun _ => id | with_reducible apply tput_twf
    | (intro b a; cases a; cases (kp.canon b).lgw; apply Lgw.canon.mk) | exact fun _ a => a.2.1
    | exact rfl | (intro _) | with_reducible apply lgwAddrHigh_keeps
    | with_reducible apply lgwAddrLow_keeps | with_reducible apply lgwData_keeps
    | with_reducible apply lgwOpen_keeps | with_reducible apply setLgw_keeps
    | with_reducible apply Keeps.ite | split | dsimp only
    | fail_if_no_progress with_reducible apply Keeps.fields

theorem lgwWidth_keeps {s0 : State} (s : State) (kp : Keeps s0 s) :
    Keeps s0 (lgwWidth s) := by
  unfold lgwWidth
  repeat'
    first
    | with_reducible assumption | exact fun a => ⟨a.1, a.2.1, a.2.2⟩
    | exact fun a => ⟨a.1, a.2.1, Nat.succ_pos _⟩ | exact fun a => ⟨a.args, a.staged⟩
    | with_reducible exact id | with_reducible exact fun _ => id | with_reducible apply tput_twf
    | (intro b a; cases a; cases (kp.canon b).lgw; apply Lgw.canon.mk) | exact fun _ a => a.2.1
    | exact rfl | (intro _) | with_reducible apply setLgw_keeps | with_reducible apply Keeps.ite
    | split | dsimp only | fail_if_no_progress with_reducible apply Keeps.fields

end Sys2Proof.Machine
end

