-- ==== Sys2Proof/Laws/KeepsCommit.lean ====
section
/-! SUPPORT. Laws/KeepsCommit.lean: every operation of Machine/Commit.lean keeps what `Keeps` names. -/
namespace Sys2Proof.Machine

theorem finishMembers_keeps {s0 : State} (s : State) (ms : List Member) (st : Nat) (kp : Keeps s0 s) :
    Keeps s0 (finishMembers s ms st) := by
  unfold finishMembers
  repeat'
    first
    | with_reducible assumption | (intro _) | with_reducible apply finishMember_keeps
    | with_reducible apply Keeps.foldl | with_reducible apply Keeps.foldlPair
    | with_reducible apply Keeps.ite | split | dsimp only

theorem judgeSet_keeps {s0 : State} (s : State) (e : EndState) (kp : Keeps s0 s) (he : s0.canon → e.cfg.canon) :
    Keeps s0 (judgeSet s e).2 := by
  unfold judgeSet
  split
  · exact settleAct_keeps _ (finishMembers_keeps _ _ _ (postRefusal_keeps _ _ kp))
  · dsimp only
    have h1 : Keeps s0 (e.members.foldl (fun s m =>
        if m.desc.opcode = 112 then
          roleClosed (if m.origin = .host then modTrack s m.id fun t => { t with phase := .accepted, past := true } else s) m.desc
        else if m.origin = .host then modTrack s m.id fun t => { t with phase := .accepted, past := true } else s)
        (acceptSet s e)) := by
      refine Keeps.foldl (fun t m ht => ?_) (acceptSet_keeps _ _ kp)
      repeat'
        first
        | with_reducible assumption | with_reducible apply Keeps.ite
        | with_reducible apply roleClosed_keeps | with_reducible apply modTrack_keeps
    exact setWin_keeps _ _ h1 fun b _ e' h => by cases h; exact he b

theorem closeWindow_keeps {s0 : State} (s : State) (kp : Keeps s0 s) :
    Keeps s0 (closeWindow s) := by
  unfold closeWindow
  split
  · dsimp only
    have h1 := forwardJoined_keeps _ (releaseHeld_keeps _ (runTo_keeps (moveQ s.hoop.bNext (-(leadQ s 1 : Nat))) s kp))
    generalize forwardJoined _ = t at *
    have h0 := forwardRoles_keeps t (List.filter (fun m => !roleRefused t m) t.win.members) h1
    generalize forwardRoles t _ = r at *
    have h2 := finishMembers_keeps _ (List.filter (roleRefused t) t.win.members) stState
      (setWin_keeps r { r.win with isOpen := false, members := [] } h0 fun _ a => a)
    generalize finishMembers _ _ _ = u at *
    have h3 := lgwMembers_keeps u (endStateOf u (List.filter (fun m => !roleRefused t m) t.win.members)).cfg h2
    apply sendClose_keeps
    split
    · exact h3
    · exact judgeSet_keeps _ _ h3 fun b => endStateOf_canon (h2.canon b).cfg
  · exact kp

theorem markChange_keeps {s0 : State} (s : State) (m : Nat) (kp : Keeps s0 s) :
    Keeps s0 (markChange s m) := by
  unfold markChange
  repeat'
    first
    | with_reducible assumption | with_reducible exact id | with_reducible exact fun _ => id
    | with_reducible apply tput_twf
    | (intro b a; cases a; cases (kp.canon b).egr; apply Egr.canon.mk) | exact rfl | (intro _)
    | with_reducible apply setEgress_keeps | with_reducible apply refreshMotif_keeps
    | with_reducible apply Keeps.ite | split | dsimp only
    | fail_if_no_progress with_reducible apply Keeps.fields

theorem applyCfg_keeps {s0 : State} (s : State) (e : EndState) (kp : Keeps s0 s) (he : s0.canon → e.cfg.canon) :
    Keeps s0 (applyCfg s e) := by
  have h1 : Keeps s0 { s with cfg := e.cfg } :=
    ⟨kp.pending, kp.sound, kp.out, kp.wear, fun b => (Keeps.ofCfg kp fun _ => he b).canon b⟩
  unfold applyCfg
  dsimp only
  generalize { s with cfg := e.cfg } = t at *
  repeat'
    first
    | with_reducible assumption | (intro _) | with_reducible apply Keeps.ite
    | with_reducible apply swapMotifs_keeps | with_reducible apply partActive_keeps
    | with_reducible apply applySession_keeps | with_reducible apply applySource_keeps
    | with_reducible apply prunePublished_keeps | with_reducible apply markChange_keeps
    | with_reducible apply prunePending_keeps | with_reducible apply Keeps.foldl

theorem memberEffect_keeps {s0 : State} (s : State) (m : Member) (kp : Keeps s0 s) :
    Keeps s0 (memberEffect s m).2 := by
  unfold memberEffect
  repeat'
    first
    | with_reducible assumption | (intro _) | with_reducible apply motifCommand_keeps
    | with_reducible apply portCheck_keeps | with_reducible apply applyPort_keeps
    | with_reducible apply applyOwner_keeps | with_reducible apply applyProgramSend_keeps
    | with_reducible apply activateAt_keeps | with_reducible apply applyPartnerRole_keeps
    | with_reducible apply applyRole_keeps
    | (refine Keeps.ofEq ?_ (by assumption); with_reducible apply applyRole_keeps)
    | with_reducible apply Keeps.ite | split | dsimp only

theorem applyMemberNow_keeps {s0 : State} (s : State) (m : Member) (kp : Keeps s0 s) :
    Keeps s0 (applyMemberNow s m) := by
  unfold applyMemberNow
  repeat'
    first
    | with_reducible assumption | (intro _) | with_reducible apply memberEffect_keeps
    | (refine Keeps.ofEq ?_ (by assumption); with_reducible apply memberEffect_keeps)
    | with_reducible apply finishMember_keeps | with_reducible apply Keeps.ite | split | dsimp only

theorem applySet_keeps {s0 : State} (s : State) (e : EndState) (h : Hoop) (kp : Keeps s0 s)
    (he : s0.canon → e.cfg.canon) : Keeps s0 (applySet s e h) := by
  have h1 := Keeps.foldl (f := applyMemberNow) (l := e.members) (fun t m ht => applyMemberNow_keeps t m ht)
    (applyCfg_keeps s e kp he)
  unfold applySet
  dsimp only
  generalize List.foldl applyMemberNow _ _ = t at *
  have h2 : Keeps s0 (setTwn t { t.twn with sets := h }) := setTwn_same h1 h1 rfl rfl
  exact Keeps.ite (stackWake_keeps _ _ (stackWake_keeps _ _ (setHoop_keeps _ _ h2))) h2

theorem applyOwn_keeps {s0 : State} (s : State) (kp : Keeps s0 s) :
    Keeps s0 (applyOwn s) := by
  unfold applyOwn
  split
  · rename_i e he
    exact applySet_keeps _ _ _ (setWin_keeps s _ kp fun _ _ _ h => (Option.some_ne_none _ h.symm).elim)
      fun b => (kp.canon b).win e he
  · exact kp

theorem applyForwardedSet_keeps {s0 : State} (s : State) (kp : Keeps s0 s) :
    Keeps s0 (applyForwardedSet s) := by
  unfold applyForwardedSet
  split
  · rename_i e he
    split
    · exact applySet_keeps _ _ _ (setTwn_keeps s _ kp fun _ a => ⟨a.frags, noClosed_canon⟩)
        fun b => (kp.canon b).twn.closed e he
    · exact kp
  · exact kp

theorem applyClosed_keeps {s0 : State} (s : State) (kp : Keeps s0 s) :
    Keeps s0 (applyClosed s) := by
  unfold applyClosed
  repeat'
    first
    | with_reducible assumption | (intro _) | with_reducible apply applyForwardedSet_keeps
    | with_reducible apply applyOwn_keeps | with_reducible apply Keeps.ite | split | dsimp only

theorem endRun_keeps {s0 : State} (s : State) (base : Nat) (kp : Keeps s0 s) :
    Keeps s0 (endRun s base) := by
  unfold endRun
  repeat'
    first
    | with_reducible assumption | with_reducible exact id | with_reducible exact fun _ => id
    | with_reducible apply tput_twf | with_reducible apply foldl_twf | exact rfl | (intro _)
    | with_reducible apply completeRun_keeps | with_reducible apply showRun_keeps
    | with_reducible apply setHoop_keeps | with_reducible apply Keeps.foldl
    | with_reducible apply Keeps.foldlPair | with_reducible apply Keeps.ite | split | dsimp only
    | fail_if_no_progress with_reducible apply Keeps.fields

theorem reanchorLanes_keeps {s0 : State} (s : State) (kp : Keeps s0 s) :
    Keeps s0 (reanchorLanes s) := by
  unfold reanchorLanes
  repeat'
    first
    | with_reducible assumption | (intro _) | with_reducible apply reanchorShow_keeps
    | with_reducible apply Keeps.foldl | with_reducible apply Keeps.foldlPair
    | with_reducible apply Keeps.ite | split | dsimp only

theorem carryOver_keeps {s0 : State} (s : State) (kp : Keeps s0 s) :
    Keeps s0 (carryOver s) := by
  unfold carryOver
  repeat'
    first
    | with_reducible assumption | with_reducible exact id | with_reducible exact fun _ => id
    | with_reducible apply tput_twf | exact rfl | (intro _ a; exact a) | (intro _)
    | with_reducible apply setWin_keeps | with_reducible apply Keeps.ite | split | dsimp only
    | fail_if_no_progress with_reducible apply Keeps.fields

theorem turnHoop_keeps {s0 : State} (s : State) (kp : Keeps s0 s) :
    Keeps s0 (turnHoop s) := by
  have h1 := reanchorLanes_keeps _ (endRun_keeps _ s.hoop.bThis (liveApply_keeps s kp))
  unfold turnHoop
  dsimp only
  generalize reanchorLanes (endRun (liveApply s) s.hoop.bThis) = t at *
  exact twinBoundary_keeps _ (applyClosed_keeps _ (carryOver_keeps _ (sendLive_keeps _ _ (setHoop_keeps _ _ h1))))

theorem settleHoop_keeps {s0 : State} (s : State) (kp : Keeps s0 s) :
    Keeps s0 (settleHoop s) := by
  have h1 := retireAt_keeps _ s.hoop.fNumber (expirePins_keeps _ s.hoop.fNumber kp)
  unfold settleHoop
  dsimp only
  generalize retireAt (expirePins s s.hoop.fNumber) s.hoop.fNumber = t at *
  exact egrBoundary_keeps _ (noteCurrent_keeps _ (landWrites_keeps _ (chooseSources_keeps _ (takeSnapshot_keeps _
    (setRun_keeps _ _ h1 fun _ a => ⟨a.grey, a.fixtures, a.frames⟩)))))

theorem openHoop_keeps {s0 : State} (s : State) (kp : Keeps s0 s) :
    Keeps s0 (openHoop s) := by
  unfold openHoop
  repeat'
    first
    | with_reducible assumption | exact fun a => ⟨a.1, a.2.1, a.2.2⟩
    | exact fun a => ⟨a.1, a.2.1, Nat.succ_pos _⟩ | exact fun a => ⟨a.args, a.staged⟩
    | with_reducible exact id | with_reducible exact fun _ => id | with_reducible apply tput_twf
    | with_reducible exact noClosed_canon
    | (intro b a; cases a; cases (kp.canon b).twn; apply Twn.canon.mk)
    | (intro b a; cases a; cases (kp.canon b).lgw; apply Lgw.canon.mk) | exact fun _ a => a.2.1
    | exact rfl | (intro _) | with_reducible apply forwardJoined_keeps
    | with_reducible apply openWindow_keeps | with_reducible apply setTwn_keeps
    | with_reducible apply setLgw_keeps | with_reducible apply Keeps.ite | split | dsimp only
    | fail_if_no_progress with_reducible apply Keeps.fields

theorem fclkBoundary_keeps {s0 : State} (s : State) (kp : Keeps s0 s) :
    Keeps s0 (fclkBoundary s) := by
  unfold fclkBoundary
  repeat'
    first
    | with_reducible assumption | (intro _) | with_reducible apply openHoop_keeps
    | with_reducible apply settleHoop_keeps | with_reducible apply turnHoop_keeps
    | with_reducible apply Keeps.ite | split | dsimp only

theorem hoopBoundary_keeps {s0 : State} (s : State) (kp : Keeps s0 s) :
    Keeps s0 (hoopBoundary s) := by
  unfold hoopBoundary
  repeat'
    first
    | with_reducible assumption | with_reducible exact id | with_reducible exact fun _ => id
    | with_reducible apply tput_twf | exact rfl | (intro _) | with_reducible apply setHoop_keeps
    | with_reducible apply fclkBoundary_keeps | with_reducible apply running_keeps
    | with_reducible apply runTo_keeps | with_reducible apply endRun_keeps
    | with_reducible apply landWrites_keeps | with_reducible apply releaseAll_keeps
    | with_reducible apply stopHoops_keeps | with_reducible apply raiseBoundary_keeps
    | with_reducible apply Keeps.ite | split | dsimp only
    | fail_if_no_progress with_reducible apply Keeps.fields

theorem hoopCtrlWrite_keeps {s0 : State} (s : State) (v : Word) (kp : Keeps s0 s) :
    Keeps s0 (hoopCtrlWrite s v) := by
  unfold hoopCtrlWrite
  repeat'
    first
    | with_reducible assumption | with_reducible exact id | with_reducible exact fun _ => id
    | with_reducible apply tput_twf | (intro a; cases a; apply Run.canon.mk)
    | (intro a; cases a; apply Egr.canon.mk) | exact rfl | (intro _)
    | with_reducible apply plainWrite_keeps | with_reducible apply running_keeps
    | with_reducible apply setHoop_keeps | with_reducible apply startHoops_keeps
    | with_reducible apply abortHoop_keeps | with_reducible apply fclkBoundary_keeps
    | with_reducible apply dueBoundary_keeps | with_reducible apply Keeps.ite | split | dsimp only
    | fail_if_no_progress with_reducible apply Keeps.fields | with_reducible apply Keeps.ofRun
    | with_reducible apply Keeps.ofEgr | with_reducible apply Keeps.lit

theorem noteFills_keeps {s0 : State} (s : State) (used32 used34 : Nat × Nat) (kp : Keeps s0 s) :
    Keeps s0 (noteFills s used32 used34) :=
  noteFill_keeps _ _ _ (noteFill_keeps _ _ _ (noteFill_keeps _ _ _ (noteFill_keeps _ _ _ kp)))

theorem ltrUpdate_keeps {s0 : State} (s : State) (walked slot : Nat) (used32 used34 : Nat × Nat) (kp : Keeps s0 s) :
    Keeps s0 (ltrUpdate s walked slot used32 used34) := by
  unfold ltrUpdate
  repeat'
    first
    | with_reducible assumption | with_reducible exact id | with_reducible exact fun _ => id
    | with_reducible apply tput_twf | exact rfl | (intro _) | with_reducible apply noteFills_keeps
    | with_reducible apply runToCycle_keeps
    | with_reducible apply running_keeps | with_reducible apply setHoop_keeps
    | with_reducible apply Keeps.ite | split | dsimp only
    | fail_if_no_progress with_reducible apply Keeps.fields

theorem ingestClose_keeps {s0 : State} (s : State) (kp : Keeps s0 s) :
    Keeps s0 (ingestClose s) := by
  unfold ingestClose
  repeat'
    first
    | with_reducible assumption | (intro _) | with_reducible apply running_keeps
    | with_reducible apply afterDeadline_keeps | with_reducible apply ingestDeadline_keeps
    | with_reducible apply Keeps.ite | split | dsimp only

end Sys2Proof.Machine
end

