-- ==== Sys2Proof/Laws/KeepsFollow.lean ====
section
/-! SUPPORT. Laws/KeepsFollow.lean: every operation of Machine/Follow.lean keeps what `Keeps` names. -/
namespace Sys2Proof.Machine

theorem closeMsg_keeps {s0 : State} (s : State) (m : TwinMsg) (kp : Keeps s0 s) :
    Keeps s0 (closeMsg s m) := by
  have h1 : Keeps s0 (setTwn s { s.twn with received := s.twn.received.filter fun f => decide (f.set ≠ m.hoop.toNat) }) :=
    setTwn_keeps s _ kp fun _ a => ⟨a.frags, a.closed⟩
  unfold closeMsg
  dsimp only
  generalize setTwn s _ = t at *
  have hj : ∀ u, Keeps s0 u → Keeps s0 (setTwn u { u.twn with closedHoop := some m.hoop }) :=
    fun u hu => setTwn_keeps u _ hu fun _ a => ⟨a.frags, a.closed⟩
  have he : ∀ ms, s0.canon → (endStateOf t ms).cfg.canon := fun ms b => endStateOf_canon (h1.canon b).cfg
  repeat'
    first
    | with_reducible assumption | with_reducible apply hj | with_reducible apply loseStep_keeps
    | with_reducible apply Keeps.ite
  · exact applySet_keeps _ _ _ (acceptSet_keeps _ _ h1) (he _)
  · have h2 := acceptSet_keeps _ (endStateOf t (List.map twinMember
      (List.filter (fun f => decide (f.set = m.hoop.toNat)) s.twn.received))) h1
    generalize acceptSet _ _ = u at *
    exact setTwn_keeps u _ h2 fun b a => ⟨a.frags, fun e h => by cases h; exact he _ b⟩

theorem takeForwarded_keeps {s0 : State} (s : State) (m : TwinMsg) (kp : Keeps s0 s) :
    Keeps s0 (takeForwarded s m) := by
  unfold takeForwarded
  repeat'
    first
    | with_reducible assumption | with_reducible exact id | with_reducible exact fun _ => id
    | with_reducible apply tput_twf | with_reducible exact noClosed_canon
    | (intro b a; cases a; cases (kp.canon b).twn; apply Twn.canon.mk) | exact rfl | (intro _)
    | with_reducible apply ackNow_keeps | with_reducible apply closeMsg_keeps
    | with_reducible apply sendAcks_keeps | with_reducible apply judgeAcks_keeps
    | with_reducible apply applyForwarded_keeps | with_reducible apply setTwn_keeps
    | with_reducible apply Keeps.ite | split | dsimp only
    | fail_if_no_progress with_reducible apply Keeps.fields

theorem drainBehind_keeps {s0 : State} (n : Nat) (s : State) (h : Keeps s0 s) : Keeps s0 (drainBehind n s) := by
  induction n generalizing s with
  | zero => exact h
  | succ n ih =>
    unfold drainBehind
    repeat'
      first
      | with_reducible assumption | with_reducible apply ih | with_reducible apply takeForwarded_keeps
      | with_reducible apply setTwn_keeps | with_reducible apply Keeps.ite | split | dsimp only
      | exact fun _ a => ⟨a.frags, a.closed⟩

theorem readyCheck_keeps {s0 : State} (s : State) (kp : Keeps s0 s) :
    Keeps s0 (readyCheck s) := by
  unfold readyCheck
  repeat'
    first
    | with_reducible assumption | with_reducible exact id | with_reducible exact fun _ => id
    | with_reducible apply tput_twf | with_reducible exact noClosed_canon
    | (intro b a; cases a; cases (kp.canon b).twn; apply Twn.canon.mk) | exact rfl | (intro _)
    | with_reducible apply setTwn_keeps | with_reducible apply Keeps.ite | split | dsimp only
    | fail_if_no_progress with_reducible apply Keeps.fields

theorem retryBehind_keeps {s0 : State} (s : State) (kp : Keeps s0 s) :
    Keeps s0 (retryBehind s) := by
  unfold retryBehind
  repeat'
    first
    | with_reducible assumption | (intro _) | with_reducible apply readyCheck_keeps
    | with_reducible apply drainBehind_keeps | with_reducible apply Keeps.ite | split | dsimp only

theorem forwardedMsg_keeps {s0 : State} (s : State) (m : TwinMsg) (kp : Keeps s0 s) :
    Keeps s0 (forwardedMsg s m) := by
  unfold forwardedMsg
  repeat'
    first
    | with_reducible assumption | with_reducible exact id | with_reducible exact fun _ => id
    | with_reducible apply tput_twf | with_reducible exact noClosed_canon
    | (intro b a; cases a; cases (kp.canon b).twn; apply Twn.canon.mk) | exact rfl | (intro _)
    | with_reducible apply retryBehind_keeps | with_reducible apply setTwn_keeps
    | with_reducible apply Keeps.ite | split | dsimp only
    | fail_if_no_progress with_reducible apply Keeps.fields

theorem dataMsg_keeps {s0 : State} (s : State) (m : TwinMsg) (kp : Keeps s0 s) :
    Keeps s0 (dataMsg s m) := by
  unfold dataMsg
  repeat'
    first
    | with_reducible assumption | with_reducible exact id | with_reducible exact fun _ => id
    | with_reducible apply tput_twf | with_reducible apply filter_twf
    | with_reducible apply foldl_twf | with_reducible exact noClosed_canon
    | (intro b a; cases a; cases (kp.canon b).twn; apply Twn.canon.mk) | exact rfl | (intro _)
    | with_reducible apply setTwn_keeps | with_reducible apply takeObject_keeps
    | (refine Keeps.ofEq ?_ (by assumption); with_reducible apply takeObject_keeps)
    | with_reducible apply retryBehind_keeps | with_reducible apply ackNow_keeps
    | with_reducible apply entryCheck_keeps | with_reducible apply Keeps.foldl
    | with_reducible apply Keeps.foldlPair | with_reducible apply Keeps.ite | split | dsimp only
    | fail_if_no_progress with_reducible apply Keeps.fields

end Sys2Proof.Machine
end

