-- ==== Sys2Proof/Laws/KeepsRecv.lean ====
section
/-! SUPPORT. Laws/KeepsRecv.lean: every operation of Machine/Recv.lean keeps what `Keeps` names. -/
namespace Sys2Proof.Machine

theorem ptpStage_keeps {s0 : State} (s : State) (p off : Nat) (f : RxFrame) (kp : Keeps s0 s) :
    Keeps s0 (ptpStage s p off f) := by
  unfold ptpStage
  repeat'
    first
    | with_reducible assumption | (intro _) | with_reducible apply announce_keeps
    | with_reducible apply fwReceive_keeps | with_reducible apply Keeps.ite | split | dsimp only

theorem xoffCheck_keeps {s0 : State} (s : State) (p used : Nat) (kp : Keeps s0 s) :
    Keeps s0 (xoffCheck s p used) := by
  unfold xoffCheck
  repeat'
    first
    | with_reducible assumption | (intro _) | with_reducible apply pauseRefresh_keeps
    | with_reducible apply Keeps.ite | split | dsimp only

theorem sessionStage_keeps {s0 : State} (s : State) (p k used : Nat) (rtp frame : List Byte) (kp : Keeps s0 s) :
    Keeps s0 (sessionStage s p k used rtp frame) := by
  unfold sessionStage
  repeat'
    first
    | with_reducible assumption | (intro _) | with_reducible apply noteFill_keeps
    | with_reducible apply xoffCheck_keeps | with_reducible apply memRequest_keeps
    | with_reducible apply sessionPacket_keeps | with_reducible apply Keeps.ite | split | dsimp only

theorem twinStage_keeps {s0 : State} (s : State) (p : Nat) (bytes : List Byte) (kp : Keeps s0 s) :
    Keeps s0 (twinStage s p bytes) := by
  unfold twinStage
  repeat'
    first
    | with_reducible assumption | (intro _) | with_reducible apply twinTake_keeps
    | (refine Keeps.ofEq ?_ (by assumption); with_reducible apply twinTake_keeps)
    | with_reducible apply onTwin_keeps | with_reducible apply statusMsg_keeps
    | with_reducible apply digestMsg_keeps | with_reducible apply forwardedMsg_keeps
    | with_reducible apply liveMsg_keeps | with_reducible apply dataMsg_keeps
    | with_reducible apply resignMsg_keeps | with_reducible apply ackTaken_keeps
    | with_reducible apply Keeps.ite | split | dsimp only

theorem hostOr_keeps {s0 : State} (s : State) (p : Nat) (f : RxFrame) (other : State → State) (kp : Keeps s0 s) (hother : ∀ (x0 : State), Keeps s0 x0 → Keeps s0 (other x0)) :
    Keeps s0 (hostOr s p f other) := by
  unfold hostOr
  split
  · exact hostStage_keeps _ _ _ kp (by assumption)
  · exact Keeps.ite kp (hother _ kp)

theorem threadStage_keeps {s0 : State} (s : State) (p : Nat) (f : RxFrame) (kp : Keeps s0 s) :
    Keeps s0 (threadStage s p f) := by
  unfold threadStage
  repeat'
    first
    | with_reducible assumption | (intro _) | with_reducible apply ptpStage_keeps
    | with_reducible apply classifyTirum_keeps | with_reducible apply hostOr_keeps
    | with_reducible apply latchCount_keeps | with_reducible apply Keeps.ite | split | dsimp only

theorem ingestStage_keeps {s0 : State} (s : State) (p used : Nat) (f : RxFrame) (kp : Keeps s0 s) :
    Keeps s0 (ingestStage s p used f) := by
  unfold ingestStage
  repeat'
    first
    | with_reducible assumption | (intro _) | with_reducible apply ptpStage_keeps
    | with_reducible apply sessionStage_keeps | with_reducible apply hostOr_keeps
    | with_reducible apply count_keeps | with_reducible apply Keeps.ite | split | dsimp only

theorem twinPortStage_keeps {s0 : State} (s : State) (p : Nat) (f : RxFrame) (kp : Keeps s0 s) :
    Keeps s0 (twinPortStage s p f) := by
  unfold twinPortStage
  repeat'
    first
    | with_reducible assumption | (intro _) | with_reducible apply ptpStage_keeps
    | with_reducible apply hostOr_keeps | with_reducible apply count_keeps
    | with_reducible apply Keeps.ite | split | dsimp only

theorem consume_keeps {s0 : State} (s : State) (p used : Nat) (f : RxFrame) (kp : Keeps s0 s) :
    Keeps s0 (consume s p used f) := by
  unfold consume
  exact Keeps.ite (hostOr_keeps _ _ _ _ kp fun _ h => h) (Keeps.ite (threadStage_keeps _ _ _ kp)
    (Keeps.ite (ingestStage_keeps _ _ _ _ kp) (twinPortStage_keeps _ _ _ kp)))

theorem receive_keeps {s0 : State} (s : State) (p : Nat) (bytes : List Byte) (fcsOk fifoFull : Bool) (phase used : Nat) (kp : Keeps s0 s) :
    Keeps s0 (receive s p bytes fcsOk fifoFull phase used) := by
  unfold receive
  repeat'
    first
    | with_reducible assumption | (intro _) | with_reducible apply latchCount_keeps
    | with_reducible apply count_keeps | with_reducible apply twinStage_keeps
    | with_reducible apply rxCheck_keeps
    | (refine Keeps.ofEq ?_ (by assumption); with_reducible apply rxCheck_keeps)
    | with_reducible apply pauseSeen_keeps | with_reducible apply consume_keeps
    | with_reducible apply Keeps.ite | split | dsimp only

theorem txDone_keeps {s0 : State} (s : State) (p : Nat) (kp : Keeps s0 s) :
    Keeps s0 (txDone s p) := by
  unfold txDone
  repeat'
    first
    | with_reducible assumption | with_reducible exact id | with_reducible exact fun _ => id
    | with_reducible apply tput_twf | exact rfl | (intro _) | with_reducible apply runToCycle_keeps
    | with_reducible apply setPort_keeps | with_reducible apply countFrame_keeps
    | with_reducible apply count_keeps | with_reducible apply notice_keeps
    | with_reducible apply finish_keeps | with_reducible apply fwAdmit_keeps
    | with_reducible apply enterQueues_keeps | with_reducible apply Keeps.ite | split | dsimp only
    | fail_if_no_progress with_reducible apply Keeps.fields | with_reducible apply Keeps.fieldsSent
    | with_reducible apply Keeps.litSent

theorem linkUp_keeps {s0 : State} (s : State) (p : Nat) (kp : Keeps s0 s) :
    Keeps s0 (linkUp s p) := by
  unfold linkUp
  repeat'
    first
    | with_reducible assumption | (intro _) | with_reducible apply linkRise_keeps
    | with_reducible apply refreshPort_keeps | with_reducible apply Keeps.ite | split | dsimp only

end Sys2Proof.Machine
end

