-- ==== Sys2Proof/Laws/KeepsStart.lean ====
section
/-! SUPPORT. Laws/KeepsStart.lean: every operation of Machine/Start.lean keeps what `Keeps` names. -/
namespace Sys2Proof.Machine

theorem settleWaiting_keeps {s0 : State} (s : State) (kp : Keeps s0 s) :
    Keeps s0 (settleWaiting s) := by
  unfold settleWaiting
  repeat'
    first
    | with_reducible assumption | (intro _) | with_reducible apply setWaitingAt_keeps
    | with_reducible apply Keeps.foldl | with_reducible apply Keeps.foldlPair
    | with_reducible apply Keeps.ite | split | dsimp only

theorem settle_keeps {s0 : State} (s : State) (kp : Keeps s0 s) :
    Keeps s0 (settle s) := by
  unfold settle
  repeat'
    first
    | with_reducible assumption | (intro _) | with_reducible apply nextLoad_keeps
    | with_reducible apply nextBlock_keeps | with_reducible apply settleJobs_keeps
    | with_reducible apply settleWaiting_keeps | with_reducible apply settleAct_keeps
    | with_reducible apply Keeps.foldl | with_reducible apply Keeps.foldlPair
    | with_reducible apply Keeps.ite | split | dsimp only

theorem startEntry_keeps {s0 : State} (s : State) (t : Track) (kp : Keeps s0 s) :
    Keeps s0 (startEntry s t) := by
  unfold startEntry
  repeat'
    first
    | with_reducible assumption | (intro _) | with_reducible apply handOver_keeps
    | with_reducible apply finish_keeps | with_reducible apply forwardStep_keeps
    | with_reducible apply startAlloc_keeps | with_reducible apply startWrite_keeps
    | with_reducible apply startRead_keeps | with_reducible apply startFree_keeps
    | with_reducible apply startLoad_keeps | with_reducible apply startTableRead_keeps
    | with_reducible apply startDigestRead_keeps | with_reducible apply startRawTx_keeps
    | with_reducible apply startRxPost_keeps | with_reducible apply startRxFilter_keeps
    | with_reducible apply startBlock_keeps | with_reducible apply startVerify_keeps
    | with_reducible apply startActivate_keeps | with_reducible apply startConfirm_keeps
    | with_reducible apply startStoreWrite_keeps | with_reducible apply startStoreRead_keeps
    | with_reducible apply settle_keeps | with_reducible apply runAbort_keeps
    | with_reducible apply startTwinSync_keeps | with_reducible apply startTwinMirror_keeps
    | with_reducible apply startSampler_keeps | with_reducible apply forwardJoined_keeps
    | with_reducible apply joinTrack_keeps | with_reducible apply Keeps.ite | split | dsimp only

theorem startReady_keeps {s0 : State} (s : State) (id : Nat) (kp : Keeps s0 s) :
    Keeps s0 (startReady s id) := by
  unfold startReady
  repeat'
    first
    | with_reducible assumption | (intro _) | with_reducible apply startEntry_keeps
    | with_reducible apply Keeps.ite | split | dsimp only

theorem startNext_keeps {s0 : State} (s : State) (t : Track) (kp : Keeps s0 s) :
    Keeps s0 (startNext s t) := by
  unfold startNext
  repeat'
    first
    | with_reducible assumption | (intro _) | with_reducible apply startReady_keeps
    | with_reducible apply release_keeps | with_reducible apply Keeps.ite | split | dsimp only

theorem startDesc_keeps {s0 : State} (s : State) (n : Nat) (d : Desc) (kp : Keeps s0 s) :
    Keeps s0 (startDesc s n d) := by
  unfold startDesc
  repeat'
    first
    | with_reducible assumption | with_reducible exact id | with_reducible exact fun _ => id
    | with_reducible apply tput_twf
    | (intro b a; cases a; cases (kp.canon b).hif; apply Hif.canon.mk) | exact rfl | (intro _)
    | with_reducible apply startNext_keeps | with_reducible apply setHif_keeps
    | with_reducible apply startReady_keeps | with_reducible apply fetchSlots_keeps
    | with_reducible apply Keeps.ite | split | dsimp only
    | fail_if_no_progress with_reducible apply Keeps.fields

theorem startHeld_keeps {s0 : State} (s : State) (n : Nat) (kp : Keeps s0 s) :
    Keeps s0 (startHeld s n) := by
  unfold startHeld
  repeat'
    first
    | with_reducible assumption | (intro _) | with_reducible apply startNext_keeps
    | with_reducible apply Keeps.ite | split | dsimp only

theorem transferDone_keeps {s0 : State} (s : State) (t : Track) (data : List Byte) (kp : Keeps s0 s) :
    Keeps s0 (transferDone s t data) := by
  unfold transferDone
  repeat'
    first
    | with_reducible assumption | (intro _) | with_reducible apply forwardData_keeps
    | with_reducible apply writeComplete_keeps | with_reducible apply readComplete_keeps
    | with_reducible apply blockWritten_keeps | with_reducible apply tableReadDone_keeps
    | with_reducible apply rawTxRead_keeps | with_reducible apply rxPostDone_keeps
    | with_reducible apply imageBlockDone_keeps | with_reducible apply storeWriteRead_keeps
    | with_reducible apply storeReadDone_keeps | with_reducible apply memRequest_keeps
    | with_reducible apply retryBehind_keeps | with_reducible apply Keeps.ite | split | dsimp only

theorem transferFailed_keeps {s0 : State} (s : State) (t : Track) (addr : Nat) (data : List Byte) (kp : Keeps s0 s) :
    Keeps s0 (transferFailed s t addr data) := by
  unfold transferFailed
  repeat'
    first
    | with_reducible assumption | (intro _) | with_reducible apply finish_keeps
    | with_reducible apply writeLines_keeps | with_reducible apply blockFailed_keeps
    | with_reducible apply nextLoad_keeps | with_reducible apply dropRead_keeps
    | with_reducible apply dropRxWrite_keeps | with_reducible apply imageBlockFailed_keeps
    | with_reducible apply storeReadDone_keeps | with_reducible apply Keeps.ite | split | dsimp only

theorem sqCtrlWrite_keeps {s0 : State} (s : State) (n : Nat) (v : Word) (kp : Keeps s0 s) :
    Keeps s0 (sqCtrlWrite s n v) := by
  unfold sqCtrlWrite
  repeat'
    first
    | with_reducible assumption | (intro _) | with_reducible apply settleLgw_keeps
    | with_reducible apply settle_keeps | with_reducible apply writeSqCtrl_keeps
    | with_reducible apply Keeps.ite | split | dsimp only

theorem hostReset_keeps {s0 : State} (s : State) (kp : Keeps s0 s) :
    Keeps s0 (hostReset s) := by
  unfold hostReset
  repeat'
    first
    | with_reducible assumption | with_reducible exact id | with_reducible exact fun _ => id
    | with_reducible apply tput_twf | with_reducible apply foldl_twf | exact rfl | (intro _)
    | with_reducible apply settle_keeps | with_reducible apply hifReset_keeps
    | with_reducible apply stampLostNotice_keeps | with_reducible apply Keeps.foldl
    | with_reducible apply Keeps.foldlPair | with_reducible apply Keeps.ite | split | dsimp only
    | fail_if_no_progress with_reducible apply Keeps.fields

end Sys2Proof.Machine
end

