-- ==== Sys2Proof/Laws/KeepsRegWrite.lean ====
section
/-! SUPPORT. Laws/KeepsRegWrite.lean: every operation of Machine/RegWrite.lean keeps what `Keeps` names. -/
namespace Sys2Proof.Machine

theorem storeLanes_twf {t : Table Byte} {a be : Nat} {w : Word} (h : twf (fun _ => 0) t = true) :
    twf (fun _ => 0) (storeLanes t a be w) = true := by
  refine foldl_twf (fun m i hm => ?_) h
  split
  · exact tput_twf hm
  · exact hm

theorem onIndex_keeps {s0 : State} (a base stride n : Nat) (f : Nat → State) (other : State)
    (hf : ∀ i, Keeps s0 (f i)) (ho : Keeps s0 other) : Keeps s0 (onIndex a base stride n f other) := by
  unfold onIndex
  split
  · exact hf _
  · exact ho

theorem writeGlb_keeps {s0 : State} (s : State) (a : Nat) (v : Word) (kp : Keeps s0 s) :
    Keeps s0 (writeGlb s a v) := by
  unfold writeGlb
  repeat'
    first
    | with_reducible assumption | (intro _) | with_reducible apply behavWrite_keeps
    | with_reducible apply onIndex_keeps | with_reducible apply plainWrite_keeps
    | with_reducible apply msixUnmask_keeps | with_reducible apply Keeps.ite | split | dsimp only

theorem writeHif_keeps {s0 : State} (s : State) (a : Nat) (v : Word) (kp : Keeps s0 s) :
    Keeps s0 (writeHif s a v) := by
  unfold writeHif
  repeat'
    first
    | with_reducible assumption | (intro _) | with_reducible apply writeHifCtrl_keeps
    | with_reducible apply onIndex_keeps | with_reducible apply sqCtrlWrite_keeps
    | with_reducible apply writeBase_keeps | with_reducible apply writeCqCtrl_keeps
    | with_reducible apply plainWrite_keeps | with_reducible apply Keeps.ite | split | dsimp only

theorem writeBoot_keeps {s0 : State} (s : State) (a : Nat) (v : Word) (kp : Keeps s0 s) :
    Keeps s0 (writeBoot s a v) := by
  unfold writeBoot
  repeat'
    first
    | with_reducible assumption | (intro _) | with_reducible apply bootCtrlWrite_keeps
    | with_reducible apply bootReset_keeps | with_reducible apply squelchWrite_keeps
    | with_reducible apply plainWrite_keeps | with_reducible apply Keeps.ite | split | dsimp only

theorem writeTim_keeps {s0 : State} (s : State) (a : Nat) (v : Word) (kp : Keeps s0 s) :
    Keeps s0 (writeTim s a v) := by
  unfold writeTim
  repeat'
    first
    | with_reducible assumption | (intro _) | with_reducible apply timCtrlWrite_keeps
    | with_reducible apply writeTimRate_keeps | with_reducible apply writeMasterCtrl_keeps
    | with_reducible apply onIndex_keeps | with_reducible apply writePulseCtrl_keeps
    | with_reducible apply plainWrite_keeps | with_reducible apply Keeps.ite | split | dsimp only

theorem writeHoop_keeps {s0 : State} (s : State) (a : Nat) (v : Word) (kp : Keeps s0 s) :
    Keeps s0 (writeHoop s a v) := by
  unfold writeHoop
  repeat'
    first
    | with_reducible assumption | (intro _) | with_reducible apply hoopCtrlWrite_keeps
    | with_reducible apply plainWrite_keeps | with_reducible apply running_keeps
    | with_reducible apply latch_keeps | with_reducible apply modeChanged_keeps
    | with_reducible apply Keeps.ite | split | dsimp only

theorem writeIng_keeps {s0 : State} (s : State) (a : Nat) (v : Word) (kp : Keeps s0 s) :
    Keeps s0 (writeIng s a v) := by
  unfold writeIng
  repeat'
    first
    | with_reducible assumption | (intro _) | with_reducible apply curveWrite_keeps
    | with_reducible apply plainWrite_keeps | with_reducible apply Keeps.ite | split | dsimp only

theorem writeSti_keeps {s0 : State} (s : State) (a : Nat) (v : Word) (kp : Keeps s0 s) :
    Keeps s0 (writeSti s a v) := by
  unfold writeSti
  repeat'
    first
    | with_reducible assumption | (intro _) | with_reducible apply onIndex_keeps
    | with_reducible apply laneCtrlWrite_keeps | with_reducible apply plainWrite_keeps
    | with_reducible apply Keeps.ite | split | dsimp only

theorem egrGuarded_keeps {s0 : State} (s : State) (a : Nat) (v mask : Word) (kp : Keeps s0 s) :
    Keeps s0 (egrGuarded s a v mask) := by
  unfold egrGuarded
  repeat'
    first
    | with_reducible assumption | (intro _) | with_reducible apply plainWrite_keeps
    | with_reducible apply latch_keeps | with_reducible apply Keeps.ite | split | dsimp only

theorem writeEgr_keeps {s0 : State} (s : State) (a : Nat) (v : Word) (kp : Keeps s0 s) :
    Keeps s0 (writeEgr s a v) := by
  unfold writeEgr
  repeat'
    first
    | with_reducible assumption | (intro _) | with_reducible apply latch_keeps
    | with_reducible apply plainWrite_keeps | with_reducible apply egrGuarded_keeps
    | with_reducible apply noteKey_keeps | with_reducible apply Keeps.ite | split | dsimp only

theorem writeMac_keeps {s0 : State} (s : State) (a : Nat) (v : Word) (kp : Keeps s0 s) :
    Keeps s0 (writeMac s a v) := by
  unfold writeMac
  repeat'
    first
    | with_reducible assumption | (intro _) | with_reducible apply portCheck_keeps
    | with_reducible apply macCtrlWrite_keeps | with_reducible apply macSettingWrite_keeps
    | with_reducible apply fwTxGo_keeps | with_reducible apply plainWrite_keeps
    | with_reducible apply fwRelease_keeps | with_reducible apply clearCounters_keeps
    | with_reducible apply Keeps.ite | split | dsimp only

theorem writeTwn_keeps {s0 : State} (s : State) (a : Nat) (v : Word) (kp : Keeps s0 s) :
    Keeps s0 (writeTwn s a v) := by
  unfold writeTwn
  repeat'
    first
    | with_reducible assumption | (intro _) | with_reducible apply linkWrite_keeps
    | with_reducible apply bootWrite_keeps | with_reducible apply plainWrite_keeps
    | with_reducible apply Keeps.ite | split | dsimp only

theorem writeCcs_keeps {s0 : State} (s : State) (a : Nat) (v : Word) (kp : Keeps s0 s) :
    Keeps s0 (writeCcs s a v) := by
  unfold writeCcs
  repeat'
    first
    | with_reducible assumption | (intro _) | with_reducible apply writeTcb_keeps
    | with_reducible apply onIndex_keeps | with_reducible apply writeCcsWdog_keeps
    | with_reducible apply writeNqCtrl_keeps | with_reducible apply writeThrCtrl_keeps
    | with_reducible apply plainWrite_keeps | with_reducible apply Keeps.ite | split | dsimp only

theorem writeCvu_keeps {s0 : State} (s : State) (src : Source) (a : Nat) (v : Word) (kp : Keeps s0 s) :
    Keeps s0 (writeCvu s src a v) := by
  unfold writeCvu
  repeat'
    first
    | with_reducible assumption | (intro _) | with_reducible apply fromCore_keeps
    | with_reducible apply onIndex_keeps | with_reducible apply writeCvuCtrl_keeps
    | with_reducible apply cvuFeed_keeps | with_reducible apply plainWrite_keeps
    | with_reducible apply Keeps.ite | split | dsimp only

theorem writeKey_keeps {s0 : State} (s : State) (src : Source) (a : Nat) (v : Word) (kp : Keeps s0 s) :
    Keeps s0 (writeKey s src a v) := by
  unfold writeKey
  repeat'
    first
    | with_reducible assumption | (intro _) | with_reducible apply keyCtrlWrite_keeps
    | with_reducible apply keyStatusWrite_keeps | with_reducible apply plainWrite_keeps
    | with_reducible apply noteKey_keeps | with_reducible apply keyGo_keeps
    | with_reducible apply onIndex_keeps | with_reducible apply keyDataWrite_keeps
    | with_reducible apply Keeps.ite | split | dsimp only

theorem writeUpd_keeps {s0 : State} (s : State) (a : Nat) (v : Word) (kp : Keeps s0 s) :
    Keeps s0 (writeUpd s a v) := by
  unfold writeUpd
  repeat'
    first
    | with_reducible assumption | (intro _) | with_reducible apply fwCmdWrite_keeps
    | with_reducible apply plainWrite_keeps | with_reducible apply Keeps.ite | split | dsimp only

theorem writeReg_keeps {s0 : State} (s : State) (src : Source) (a : Nat) (v : Word) (kp : Keeps s0 s) :
    Keeps s0 (writeReg s src a v) := by
  unfold writeReg
  repeat'
    first
    | with_reducible assumption | (intro _) | with_reducible apply writeGlb_keeps
    | with_reducible apply writeHif_keeps | with_reducible apply writeBoot_keeps
    | with_reducible apply plainWrite_keeps | with_reducible apply writeTim_keeps
    | with_reducible apply writeHoop_keeps | with_reducible apply writeIng_keeps
    | with_reducible apply writeSti_keeps | with_reducible apply writeEgr_keeps
    | with_reducible apply writeMac_keeps | with_reducible apply writeTwn_keeps
    | with_reducible apply writeCcs_keeps | with_reducible apply writeCvu_keeps
    | with_reducible apply writeKey_keeps | with_reducible apply writeUpd_keeps
    | with_reducible apply Keeps.ite | split | dsimp only

theorem writeLgwAt_keeps {s0 : State} (s : State) (a be : Nat) (v : Word) (kp : Keeps s0 s) :
    Keeps s0 (writeLgwAt s a be v) := by
  unfold writeLgwAt
  repeat'
    first
    | with_reducible assumption | (intro _) | with_reducible apply lgwWrite_keeps
    | with_reducible apply lgwWidth_keeps | with_reducible apply Keeps.ite | split | dsimp only

theorem writeBar0_keeps {s0 : State} (s : State) (src : Source) (a be : Nat) (v : Word) (kp : Keeps s0 s) :
    Keeps s0 (writeBar0 s src a be v) := by
  unfold writeBar0
  repeat'
    first
    | with_reducible assumption | (intro _) | with_reducible apply writeLgwAt_keeps
    | with_reducible apply latch_keeps | with_reducible apply writeReg_keeps
    | with_reducible apply Keeps.ite | split | dsimp only

theorem dropReserved_keeps {s0 : State} (s : State) (c a : Nat) (kp : Keeps s0 s) :
    Keeps s0 (dropReserved s c a) := by
  unfold dropReserved
  repeat'
    first
    | with_reducible assumption | with_reducible exact id | with_reducible exact fun _ => id
    | with_reducible apply tput_twf | with_reducible apply foldl_twf | exact rfl | (intro _)
    | with_reducible apply setCore_keeps | with_reducible apply Keeps.foldl
    | with_reducible apply Keeps.foldlPair | with_reducible apply Keeps.ite | split | dsimp only
    | fail_if_no_progress with_reducible apply Keeps.fields

theorem storeShared_keeps {s0 : State} (s : State) (c a be : Nat) (v : Word) (kp : Keeps s0 s) :
    Keeps s0 (storeShared s c a be v) := by
  unfold storeShared
  repeat'
    first
    | with_reducible assumption | with_reducible exact id | with_reducible exact fun _ => id
    | with_reducible apply tput_twf | with_reducible apply storeLanes_twf
    | (intro a; cases a; apply Ccs.canon.mk) | exact rfl | (intro _)
    | with_reducible apply dropReserved_keeps | with_reducible apply Keeps.ite | split | dsimp only
    | fail_if_no_progress with_reducible apply Keeps.fields | with_reducible apply Keeps.ofCcs

theorem storePackage_keeps {s0 : State} (s : State) (c a be : Nat) (v : Word) (kp : Keeps s0 s) :
    Keeps s0 (storePackage s c a be v) := by
  unfold storePackage
  repeat'
    first
    | with_reducible assumption | (intro _) | with_reducible apply memReady_keeps
    | with_reducible apply packageWrite_keeps | with_reducible apply stackRequest_keeps
    | with_reducible apply Keeps.foldl | with_reducible apply Keeps.foldlPair
    | with_reducible apply Keeps.ite | split | dsimp only

theorem writePort_keeps {s0 : State} (s : State) (c off : Nat) (v : Word) (kp : Keeps s0 s) :
    Keeps s0 (writePort s c off v) := by
  unfold writePort
  repeat'
    first
    | with_reducible assumption | (intro _) | with_reducible apply schWait_keeps
    | with_reducible apply schYield_keeps | with_reducible apply schExit_keeps
    | with_reducible apply schSignal_keeps | with_reducible apply schTimer_keeps
    | with_reducible apply schWdog_keeps | with_reducible apply writeStaged_keeps
    | with_reducible apply Keeps.ite | split | dsimp only

theorem writeCore_keeps {s0 : State} (s : State) (c : Fin 8) (a be : Nat) (v : Word) (kp : Keeps s0 s) :
    Keeps s0 (writeCore s c a be v) := by
  unfold writeCore
  repeat'
    first
    | with_reducible assumption | with_reducible exact id | with_reducible exact fun _ => id
    | with_reducible apply tput_twf | with_reducible apply storeLanes_twf
    | (intro a; cases a; apply Ccs.canon.mk) | exact rfl | (intro _)
    | with_reducible apply accessFault_keeps | with_reducible apply storeShared_keeps
    | with_reducible apply writeBar0_keeps | with_reducible apply writePort_keeps
    | with_reducible apply storePackage_keeps | with_reducible apply Keeps.ite | split | dsimp only
    | fail_if_no_progress with_reducible apply Keeps.fields | with_reducible apply Keeps.ofCcs

end Sys2Proof.Machine
end

