-- ==== Sys2Proof/Laws/KeepsAccess.lean ====
section
/-! SUPPORT. Laws/KeepsAccess.lean: every operation of Machine/Access.lean keeps what `Keeps` names. -/
namespace Sys2Proof.Machine

theorem loadReg_keeps {s0 : State} (s : State) (c : Fin 8) (a n : Nat) (kp : Keeps s0 s) :
    Keeps s0 (loadReg s c a n) := by
  unfold loadReg
  repeat'
    first
    | with_reducible assumption | with_reducible exact id | with_reducible exact fun _ => id
    | with_reducible apply tput_twf | exact rfl | (intro _) | with_reducible apply lgwWidth_keeps
    | with_reducible apply lgwRead_keeps | with_reducible apply popQueue_keeps
    | with_reducible apply curveRead_keeps | with_reducible apply Keeps.ite | split | dsimp only
    | fail_if_no_progress with_reducible apply Keeps.fields

theorem loadPort_keeps {s0 : State} (s : State) (c off : Nat) (kp : Keeps s0 s) :
    Keeps s0 (loadPort s c off) := by
  unfold loadPort
  repeat'
    first
    | with_reducible assumption | with_reducible exact id | with_reducible exact fun _ => id
    | with_reducible apply tput_twf | exact rfl | (intro _) | with_reducible apply schTake_keeps
    | with_reducible apply schPost_keeps | with_reducible apply Keeps.ite | split | dsimp only
    | fail_if_no_progress with_reducible apply Keeps.fields

theorem loadPackage_keeps {s0 : State} (s : State) (c a n : Nat) (kp : Keeps s0 s) :
    Keeps s0 (loadPackage s c a n) := by
  unfold loadPackage
  repeat'
    first
    | with_reducible assumption | with_reducible exact id | with_reducible exact fun _ => id
    | with_reducible apply tput_twf | exact rfl | (intro _) | with_reducible apply memReady_keeps
    | with_reducible apply stackRequest_keeps | with_reducible apply Keeps.ite | split | dsimp only
    | fail_if_no_progress with_reducible apply Keeps.fields

theorem coreLoad_keeps {s0 : State} (s : State) (c : Fin 8) (a n : Nat) (kp : Keeps s0 s) :
    Keeps s0 (coreLoad s c a n) := by
  unfold coreLoad
  repeat'
    first
    | with_reducible assumption | with_reducible exact id | with_reducible exact fun _ => id
    | with_reducible apply tput_twf | exact rfl | (intro _) | with_reducible apply loadReg_keeps
    | with_reducible apply loadPort_keeps | with_reducible apply loadPackage_keeps
    | with_reducible apply Keeps.ite | split | dsimp only
    | fail_if_no_progress with_reducible apply Keeps.fields

theorem coreLr_keeps {s0 : State} (s : State) (c : Fin 8) (a : Nat) (kp : Keeps s0 s) :
    Keeps s0 (coreLr s c a) := by
  unfold coreLr
  repeat'
    first
    | with_reducible assumption | with_reducible exact id | with_reducible exact fun _ => id
    | with_reducible apply tput_twf | exact rfl | (intro _) | with_reducible apply setCore_keeps
    | with_reducible apply Keeps.ite | split | dsimp only
    | fail_if_no_progress with_reducible apply Keeps.fields

theorem coreSc_keeps {s0 : State} (s : State) (c : Fin 8) (a : Nat) (v : Word) (kp : Keeps s0 s) :
    Keeps s0 (coreSc s c a v) := by
  unfold coreSc
  repeat'
    first
    | with_reducible assumption | with_reducible exact id | with_reducible exact fun _ => id
    | with_reducible apply tput_twf | exact rfl | (intro _) | with_reducible apply setCore_keeps
    | with_reducible apply writeCore_keeps | with_reducible apply Keeps.ite | split | dsimp only
    | fail_if_no_progress with_reducible apply Keeps.fields

theorem coreAmo_keeps {s0 : State} (s : State) (c : Fin 8) (a : Nat) (op : AmoOp) (v : Word) (kp : Keeps s0 s) :
    Keeps s0 (coreAmo s c a op v) := by
  unfold coreAmo
  repeat'
    first
    | with_reducible assumption | with_reducible exact id | with_reducible exact fun _ => id
    | with_reducible apply tput_twf | exact rfl | (intro _) | with_reducible apply writeCore_keeps
    | with_reducible apply Keeps.ite | split | dsimp only
    | fail_if_no_progress with_reducible apply Keeps.fields

theorem coreServe_keeps {s0 : State} (s : State) (c : Fin 8) (a : Nat) (kind : CoreAccess) (kp : Keeps s0 s) :
    Keeps s0 (coreServe s c a kind) := by
  unfold coreServe
  repeat'
    first
    | with_reducible assumption | (intro _) | with_reducible apply coreLr_keeps
    | with_reducible apply coreSc_keeps | with_reducible apply coreAmo_keeps
    | with_reducible apply coreLoad_keeps | with_reducible apply fetch_keeps
    | with_reducible apply Keeps.ite | split | dsimp only

theorem coreAccess_keeps {s0 : State} (s : State) (c : Fin 8) (a : Nat) (kind : CoreAccess) (e : EccRead) (kp : Keeps s0 s) :
    Keeps s0 (coreAccess s c a kind e) := by
  unfold coreAccess
  repeat'
    first
    | with_reducible assumption | (intro _) | with_reducible apply eccFault_keeps
    | with_reducible apply accessFault_keeps | with_reducible apply coreServe_keeps
    | with_reducible apply latchCount_keeps | with_reducible apply Keeps.ite | split | dsimp only

end Sys2Proof.Machine
end

