-- ==== Sys2Proof/Laws/State.lean ====
section
/-! SUPPORT. Laws/State.lean: what each update of the state leaves alone, one lemma per update and field. -/
namespace Sys2Proof.Machine

section
variable (s : State) (a : Nat) (v : Word)
@[simp] theorem setReg_pending : (setReg s a v).pending = s.pending := rfl
@[simp] theorem setReg_fresh : (setReg s a v).fresh = s.fresh := rfl
@[simp] theorem setReg_freshAt : (setReg s a v).freshAt = s.freshAt := rfl
@[simp] theorem setReg_hif : (setReg s a v).hif = s.hif := rfl
@[simp] theorem setReg_pcie : (setReg s a v).pcie = s.pcie := rfl
@[simp] theorem setReg_tim : (setReg s a v).tim = s.tim := rfl
@[simp] theorem setReg_hoop : (setReg s a v).hoop = s.hoop := rfl
@[simp] theorem setReg_win : (setReg s a v).win = s.win := rfl
@[simp] theorem setReg_cfg : (setReg s a v).cfg = s.cfg := rfl
@[simp] theorem setReg_ing : (setReg s a v).ing = s.ing := rfl
@[simp] theorem setReg_lay : (setReg s a v).lay = s.lay := rfl
@[simp] theorem setReg_stages : (setReg s a v).stages = s.stages := rfl
@[simp] theorem setReg_reads : (setReg s a v).reads = s.reads := rfl
@[simp] theorem setReg_package : (setReg s a v).package = s.package := rfl
@[simp] theorem setReg_spareReads : (setReg s a v).spareReads = s.spareReads := rfl
@[simp] theorem setReg_badEntry : (setReg s a v).badEntry = s.badEntry := rfl
@[simp] theorem setReg_badStep : (setReg s a v).badStep = s.badStep := rfl
@[simp] theorem setReg_col : (setReg s a v).col = s.col := rfl
@[simp] theorem setReg_run : (setReg s a v).run = s.run := rfl
@[simp] theorem setReg_live : (setReg s a v).live = s.live := rfl
@[simp] theorem setReg_sti : (setReg s a v).sti = s.sti := rfl
@[simp] theorem setReg_egr : (setReg s a v).egr = s.egr := rfl
@[simp] theorem setReg_mac : (setReg s a v).mac = s.mac := rfl
@[simp] theorem setReg_ccs : (setReg s a v).ccs = s.ccs := rfl
@[simp] theorem setReg_cvus : (setReg s a v).cvus = s.cvus := rfl
@[simp] theorem setReg_boot : (setReg s a v).boot = s.boot := rfl
@[simp] theorem setReg_upd : (setReg s a v).upd = s.upd := rfl
@[simp] theorem setReg_keep : (setReg s a v).keep = s.keep := rfl
@[simp] theorem setReg_key : (setReg s a v).key = s.key := rfl
@[simp] theorem setReg_glb : (setReg s a v).glb = s.glb := rfl
@[simp] theorem setReg_psm : (setReg s a v).psm = s.psm := rfl
@[simp] theorem setReg_lgw : (setReg s a v).lgw = s.lgw := rfl
@[simp] theorem setReg_twn : (setReg s a v).twn = s.twn := rfl
@[simp] theorem setReg_out : (setReg s a v).out = s.out := rfl
@[simp] theorem setReg_readValue : (setReg s a v).readValue = s.readValue := rfl
@[simp] theorem setReg_freeCount : (setReg s a v).freeCount = s.freeCount := rfl
end

section
variable (s : State) (a hi lo v : Nat)
@[simp] theorem setRegFld_pending : (setRegFld s a hi lo v).pending = s.pending := rfl
@[simp] theorem setRegFld_fresh : (setRegFld s a hi lo v).fresh = s.fresh := rfl
@[simp] theorem setRegFld_freshAt : (setRegFld s a hi lo v).freshAt = s.freshAt := rfl
@[simp] theorem setRegFld_hif : (setRegFld s a hi lo v).hif = s.hif := rfl
@[simp] theorem setRegFld_pcie : (setRegFld s a hi lo v).pcie = s.pcie := rfl
@[simp] theorem setRegFld_tim : (setRegFld s a hi lo v).tim = s.tim := rfl
@[simp] theorem setRegFld_hoop : (setRegFld s a hi lo v).hoop = s.hoop := rfl
@[simp] theorem setRegFld_win : (setRegFld s a hi lo v).win = s.win := rfl
@[simp] theorem setRegFld_cfg : (setRegFld s a hi lo v).cfg = s.cfg := rfl
@[simp] theorem setRegFld_ing : (setRegFld s a hi lo v).ing = s.ing := rfl
@[simp] theorem setRegFld_lay : (setRegFld s a hi lo v).lay = s.lay := rfl
@[simp] theorem setRegFld_stages : (setRegFld s a hi lo v).stages = s.stages := rfl
@[simp] theorem setRegFld_reads : (setRegFld s a hi lo v).reads = s.reads := rfl
@[simp] theorem setRegFld_package : (setRegFld s a hi lo v).package = s.package := rfl
@[simp] theorem setRegFld_spareReads : (setRegFld s a hi lo v).spareReads = s.spareReads := rfl
@[simp] theorem setRegFld_badEntry : (setRegFld s a hi lo v).badEntry = s.badEntry := rfl
@[simp] theorem setRegFld_badStep : (setRegFld s a hi lo v).badStep = s.badStep := rfl
@[simp] theorem setRegFld_col : (setRegFld s a hi lo v).col = s.col := rfl
@[simp] theorem setRegFld_run : (setRegFld s a hi lo v).run = s.run := rfl
@[simp] theorem setRegFld_live : (setRegFld s a hi lo v).live = s.live := rfl
@[simp] theorem setRegFld_sti : (setRegFld s a hi lo v).sti = s.sti := rfl
@[simp] theorem setRegFld_egr : (setRegFld s a hi lo v).egr = s.egr := rfl
@[simp] theorem setRegFld_mac : (setRegFld s a hi lo v).mac = s.mac := rfl
@[simp] theorem setRegFld_ccs : (setRegFld s a hi lo v).ccs = s.ccs := rfl
@[simp] theorem setRegFld_cvus : (setRegFld s a hi lo v).cvus = s.cvus := rfl
@[simp] theorem setRegFld_boot : (setRegFld s a hi lo v).boot = s.boot := rfl
@[simp] theorem setRegFld_upd : (setRegFld s a hi lo v).upd = s.upd := rfl
@[simp] theorem setRegFld_keep : (setRegFld s a hi lo v).keep = s.keep := rfl
@[simp] theorem setRegFld_key : (setRegFld s a hi lo v).key = s.key := rfl
@[simp] theorem setRegFld_glb : (setRegFld s a hi lo v).glb = s.glb := rfl
@[simp] theorem setRegFld_psm : (setRegFld s a hi lo v).psm = s.psm := rfl
@[simp] theorem setRegFld_lgw : (setRegFld s a hi lo v).lgw = s.lgw := rfl
@[simp] theorem setRegFld_twn : (setRegFld s a hi lo v).twn = s.twn := rfl
@[simp] theorem setRegFld_out : (setRegFld s a hi lo v).out = s.out := rfl
@[simp] theorem setRegFld_readValue : (setRegFld s a hi lo v).readValue = s.readValue := rfl
@[simp] theorem setRegFld_freeCount : (setRegFld s a hi lo v).freeCount = s.freeCount := rfl
end

section
variable (s : State) (a : Nat) (v gained : Word)
@[simp] theorem setLatch_pending : (setLatch s a v gained).pending = s.pending := by unfold setLatch; dsimp only; split <;> rfl
@[simp] theorem setLatch_hif : (setLatch s a v gained).hif = s.hif := by unfold setLatch; dsimp only; split <;> rfl
@[simp] theorem setLatch_pcie : (setLatch s a v gained).pcie = s.pcie := by unfold setLatch; dsimp only; split <;> rfl
@[simp] theorem setLatch_tim : (setLatch s a v gained).tim = s.tim := by unfold setLatch; dsimp only; split <;> rfl
@[simp] theorem setLatch_hoop : (setLatch s a v gained).hoop = s.hoop := by unfold setLatch; dsimp only; split <;> rfl
@[simp] theorem setLatch_win : (setLatch s a v gained).win = s.win := by unfold setLatch; dsimp only; split <;> rfl
@[simp] theorem setLatch_cfg : (setLatch s a v gained).cfg = s.cfg := by unfold setLatch; dsimp only; split <;> rfl
@[simp] theorem setLatch_ing : (setLatch s a v gained).ing = s.ing := by unfold setLatch; dsimp only; split <;> rfl
@[simp] theorem setLatch_lay : (setLatch s a v gained).lay = s.lay := by unfold setLatch; dsimp only; split <;> rfl
@[simp] theorem setLatch_stages : (setLatch s a v gained).stages = s.stages := by unfold setLatch; dsimp only; split <;> rfl
@[simp] theorem setLatch_reads : (setLatch s a v gained).reads = s.reads := by unfold setLatch; dsimp only; split <;> rfl
@[simp] theorem setLatch_package : (setLatch s a v gained).package = s.package := by unfold setLatch; dsimp only; split <;> rfl
@[simp] theorem setLatch_spareReads : (setLatch s a v gained).spareReads = s.spareReads := by unfold setLatch; dsimp only; split <;> rfl
@[simp] theorem setLatch_badEntry : (setLatch s a v gained).badEntry = s.badEntry := by unfold setLatch; dsimp only; split <;> rfl
@[simp] theorem setLatch_badStep : (setLatch s a v gained).badStep = s.badStep := by unfold setLatch; dsimp only; split <;> rfl
@[simp] theorem setLatch_col : (setLatch s a v gained).col = s.col := by unfold setLatch; dsimp only; split <;> rfl
@[simp] theorem setLatch_run : (setLatch s a v gained).run = s.run := by unfold setLatch; dsimp only; split <;> rfl
@[simp] theorem setLatch_live : (setLatch s a v gained).live = s.live := by unfold setLatch; dsimp only; split <;> rfl
@[simp] theorem setLatch_sti : (setLatch s a v gained).sti = s.sti := by unfold setLatch; dsimp only; split <;> rfl
@[simp] theorem setLatch_egr : (setLatch s a v gained).egr = s.egr := by unfold setLatch; dsimp only; split <;> rfl
@[simp] theorem setLatch_mac : (setLatch s a v gained).mac = s.mac := by unfold setLatch; dsimp only; split <;> rfl
@[simp] theorem setLatch_ccs : (setLatch s a v gained).ccs = s.ccs := by unfold setLatch; dsimp only; split <;> rfl
@[simp] theorem setLatch_cvus : (setLatch s a v gained).cvus = s.cvus := by unfold setLatch; dsimp only; split <;> rfl
@[simp] theorem setLatch_boot : (setLatch s a v gained).boot = s.boot := by unfold setLatch; dsimp only; split <;> rfl
@[simp] theorem setLatch_upd : (setLatch s a v gained).upd = s.upd := by unfold setLatch; dsimp only; split <;> rfl
@[simp] theorem setLatch_keep : (setLatch s a v gained).keep = s.keep := by unfold setLatch; dsimp only; split <;> rfl
@[simp] theorem setLatch_key : (setLatch s a v gained).key = s.key := by unfold setLatch; dsimp only; split <;> rfl
@[simp] theorem setLatch_glb : (setLatch s a v gained).glb = s.glb := by unfold setLatch; dsimp only; split <;> rfl
@[simp] theorem setLatch_psm : (setLatch s a v gained).psm = s.psm := by unfold setLatch; dsimp only; split <;> rfl
@[simp] theorem setLatch_lgw : (setLatch s a v gained).lgw = s.lgw := by unfold setLatch; dsimp only; split <;> rfl
@[simp] theorem setLatch_twn : (setLatch s a v gained).twn = s.twn := by unfold setLatch; dsimp only; split <;> rfl
@[simp] theorem setLatch_out : (setLatch s a v gained).out = s.out := by unfold setLatch; dsimp only; split <;> rfl
@[simp] theorem setLatch_readValue : (setLatch s a v gained).readValue = s.readValue := by unfold setLatch; dsimp only; split <;> rfl
@[simp] theorem setLatch_freeCount : (setLatch s a v gained).freeCount = s.freeCount := by unfold setLatch; dsimp only; split <;> rfl
end

section
variable (s : State) (a k : Nat)
@[simp] theorem latch_pending : (latch s a k).pending = s.pending := setLatch_pending _ _ _ _
@[simp] theorem latch_hif : (latch s a k).hif = s.hif := setLatch_hif _ _ _ _
@[simp] theorem latch_pcie : (latch s a k).pcie = s.pcie := setLatch_pcie _ _ _ _
@[simp] theorem latch_tim : (latch s a k).tim = s.tim := setLatch_tim _ _ _ _
@[simp] theorem latch_hoop : (latch s a k).hoop = s.hoop := setLatch_hoop _ _ _ _
@[simp] theorem latch_win : (latch s a k).win = s.win := setLatch_win _ _ _ _
@[simp] theorem latch_cfg : (latch s a k).cfg = s.cfg := setLatch_cfg _ _ _ _
@[simp] theorem latch_ing : (latch s a k).ing = s.ing := setLatch_ing _ _ _ _
@[simp] theorem latch_lay : (latch s a k).lay = s.lay := setLatch_lay _ _ _ _
@[simp] theorem latch_stages : (latch s a k).stages = s.stages := setLatch_stages _ _ _ _
@[simp] theorem latch_reads : (latch s a k).reads = s.reads := setLatch_reads _ _ _ _
@[simp] theorem latch_package : (latch s a k).package = s.package := setLatch_package _ _ _ _
@[simp] theorem latch_spareReads : (latch s a k).spareReads = s.spareReads := setLatch_spareReads _ _ _ _
@[simp] theorem latch_badEntry : (latch s a k).badEntry = s.badEntry := setLatch_badEntry _ _ _ _
@[simp] theorem latch_badStep : (latch s a k).badStep = s.badStep := setLatch_badStep _ _ _ _
@[simp] theorem latch_col : (latch s a k).col = s.col := setLatch_col _ _ _ _
@[simp] theorem latch_run : (latch s a k).run = s.run := setLatch_run _ _ _ _
@[simp] theorem latch_live : (latch s a k).live = s.live := setLatch_live _ _ _ _
@[simp] theorem latch_sti : (latch s a k).sti = s.sti := setLatch_sti _ _ _ _
@[simp] theorem latch_egr : (latch s a k).egr = s.egr := setLatch_egr _ _ _ _
@[simp] theorem latch_mac : (latch s a k).mac = s.mac := setLatch_mac _ _ _ _
@[simp] theorem latch_ccs : (latch s a k).ccs = s.ccs := setLatch_ccs _ _ _ _
@[simp] theorem latch_cvus : (latch s a k).cvus = s.cvus := setLatch_cvus _ _ _ _
@[simp] theorem latch_boot : (latch s a k).boot = s.boot := setLatch_boot _ _ _ _
@[simp] theorem latch_upd : (latch s a k).upd = s.upd := setLatch_upd _ _ _ _
@[simp] theorem latch_keep : (latch s a k).keep = s.keep := setLatch_keep _ _ _ _
@[simp] theorem latch_key : (latch s a k).key = s.key := setLatch_key _ _ _ _
@[simp] theorem latch_glb : (latch s a k).glb = s.glb := setLatch_glb _ _ _ _
@[simp] theorem latch_psm : (latch s a k).psm = s.psm := setLatch_psm _ _ _ _
@[simp] theorem latch_lgw : (latch s a k).lgw = s.lgw := setLatch_lgw _ _ _ _
@[simp] theorem latch_twn : (latch s a k).twn = s.twn := setLatch_twn _ _ _ _
@[simp] theorem latch_out : (latch s a k).out = s.out := setLatch_out _ _ _ _
@[simp] theorem latch_readValue : (latch s a k).readValue = s.readValue := setLatch_readValue _ _ _ _
@[simp] theorem latch_freeCount : (latch s a k).freeCount = s.freeCount := setLatch_freeCount _ _ _ _
end

section
variable (s : State) (a hi lo n : Nat)
@[simp] theorem latchCount_pending : (latchCount s a hi lo n).pending = s.pending := setLatch_pending _ _ _ _
@[simp] theorem latchCount_hif : (latchCount s a hi lo n).hif = s.hif := setLatch_hif _ _ _ _
@[simp] theorem latchCount_pcie : (latchCount s a hi lo n).pcie = s.pcie := setLatch_pcie _ _ _ _
@[simp] theorem latchCount_tim : (latchCount s a hi lo n).tim = s.tim := setLatch_tim _ _ _ _
@[simp] theorem latchCount_hoop : (latchCount s a hi lo n).hoop = s.hoop := setLatch_hoop _ _ _ _
@[simp] theorem latchCount_win : (latchCount s a hi lo n).win = s.win := setLatch_win _ _ _ _
@[simp] theorem latchCount_cfg : (latchCount s a hi lo n).cfg = s.cfg := setLatch_cfg _ _ _ _
@[simp] theorem latchCount_ing : (latchCount s a hi lo n).ing = s.ing := setLatch_ing _ _ _ _
@[simp] theorem latchCount_lay : (latchCount s a hi lo n).lay = s.lay := setLatch_lay _ _ _ _
@[simp] theorem latchCount_stages : (latchCount s a hi lo n).stages = s.stages := setLatch_stages _ _ _ _
@[simp] theorem latchCount_reads : (latchCount s a hi lo n).reads = s.reads := setLatch_reads _ _ _ _
@[simp] theorem latchCount_package : (latchCount s a hi lo n).package = s.package := setLatch_package _ _ _ _
@[simp] theorem latchCount_spareReads : (latchCount s a hi lo n).spareReads = s.spareReads := setLatch_spareReads _ _ _ _
@[simp] theorem latchCount_badEntry : (latchCount s a hi lo n).badEntry = s.badEntry := setLatch_badEntry _ _ _ _
@[simp] theorem latchCount_badStep : (latchCount s a hi lo n).badStep = s.badStep := setLatch_badStep _ _ _ _
@[simp] theorem latchCount_col : (latchCount s a hi lo n).col = s.col := setLatch_col _ _ _ _
@[simp] theorem latchCount_run : (latchCount s a hi lo n).run = s.run := setLatch_run _ _ _ _
@[simp] theorem latchCount_live : (latchCount s a hi lo n).live = s.live := setLatch_live _ _ _ _
@[simp] theorem latchCount_sti : (latchCount s a hi lo n).sti = s.sti := setLatch_sti _ _ _ _
@[simp] theorem latchCount_egr : (latchCount s a hi lo n).egr = s.egr := setLatch_egr _ _ _ _
@[simp] theorem latchCount_mac : (latchCount s a hi lo n).mac = s.mac := setLatch_mac _ _ _ _
@[simp] theorem latchCount_ccs : (latchCount s a hi lo n).ccs = s.ccs := setLatch_ccs _ _ _ _
@[simp] theorem latchCount_cvus : (latchCount s a hi lo n).cvus = s.cvus := setLatch_cvus _ _ _ _
@[simp] theorem latchCount_boot : (latchCount s a hi lo n).boot = s.boot := setLatch_boot _ _ _ _
@[simp] theorem latchCount_upd : (latchCount s a hi lo n).upd = s.upd := setLatch_upd _ _ _ _
@[simp] theorem latchCount_keep : (latchCount s a hi lo n).keep = s.keep := setLatch_keep _ _ _ _
@[simp] theorem latchCount_key : (latchCount s a hi lo n).key = s.key := setLatch_key _ _ _ _
@[simp] theorem latchCount_glb : (latchCount s a hi lo n).glb = s.glb := setLatch_glb _ _ _ _
@[simp] theorem latchCount_psm : (latchCount s a hi lo n).psm = s.psm := setLatch_psm _ _ _ _
@[simp] theorem latchCount_lgw : (latchCount s a hi lo n).lgw = s.lgw := setLatch_lgw _ _ _ _
@[simp] theorem latchCount_twn : (latchCount s a hi lo n).twn = s.twn := setLatch_twn _ _ _ _
@[simp] theorem latchCount_out : (latchCount s a hi lo n).out = s.out := setLatch_out _ _ _ _
@[simp] theorem latchCount_readValue : (latchCount s a hi lo n).readValue = s.readValue := setLatch_readValue _ _ _ _
@[simp] theorem latchCount_freeCount : (latchCount s a hi lo n).freeCount = s.freeCount := setLatch_freeCount _ _ _ _
end

section
variable (s : State) (v : Nat) (x : Vec)
@[simp] theorem setVec_pending : (setVec s v x).pending = s.pending := rfl
@[simp] theorem setVec_regs : (setVec s v x).regs = s.regs := rfl
@[simp] theorem setVec_fresh : (setVec s v x).fresh = s.fresh := rfl
@[simp] theorem setVec_freshAt : (setVec s v x).freshAt = s.freshAt := rfl
@[simp] theorem setVec_pcie : (setVec s v x).pcie = s.pcie := rfl
@[simp] theorem setVec_tim : (setVec s v x).tim = s.tim := rfl
@[simp] theorem setVec_hoop : (setVec s v x).hoop = s.hoop := rfl
@[simp] theorem setVec_win : (setVec s v x).win = s.win := rfl
@[simp] theorem setVec_cfg : (setVec s v x).cfg = s.cfg := rfl
@[simp] theorem setVec_ing : (setVec s v x).ing = s.ing := rfl
@[simp] theorem setVec_lay : (setVec s v x).lay = s.lay := rfl
@[simp] theorem setVec_stages : (setVec s v x).stages = s.stages := rfl
@[simp] theorem setVec_reads : (setVec s v x).reads = s.reads := rfl
@[simp] theorem setVec_package : (setVec s v x).package = s.package := rfl
@[simp] theorem setVec_spareReads : (setVec s v x).spareReads = s.spareReads := rfl
@[simp] theorem setVec_badEntry : (setVec s v x).badEntry = s.badEntry := rfl
@[simp] theorem setVec_badStep : (setVec s v x).badStep = s.badStep := rfl
@[simp] theorem setVec_col : (setVec s v x).col = s.col := rfl
@[simp] theorem setVec_run : (setVec s v x).run = s.run := rfl
@[simp] theorem setVec_live : (setVec s v x).live = s.live := rfl
@[simp] theorem setVec_sti : (setVec s v x).sti = s.sti := rfl
@[simp] theorem setVec_egr : (setVec s v x).egr = s.egr := rfl
@[simp] theorem setVec_mac : (setVec s v x).mac = s.mac := rfl
@[simp] theorem setVec_ccs : (setVec s v x).ccs = s.ccs := rfl
@[simp] theorem setVec_cvus : (setVec s v x).cvus = s.cvus := rfl
@[simp] theorem setVec_boot : (setVec s v x).boot = s.boot := rfl
@[simp] theorem setVec_upd : (setVec s v x).upd = s.upd := rfl
@[simp] theorem setVec_keep : (setVec s v x).keep = s.keep := rfl
@[simp] theorem setVec_key : (setVec s v x).key = s.key := rfl
@[simp] theorem setVec_glb : (setVec s v x).glb = s.glb := rfl
@[simp] theorem setVec_psm : (setVec s v x).psm = s.psm := rfl
@[simp] theorem setVec_lgw : (setVec s v x).lgw = s.lgw := rfl
@[simp] theorem setVec_twn : (setVec s v x).twn = s.twn := rfl
@[simp] theorem setVec_out : (setVec s v x).out = s.out := rfl
@[simp] theorem setVec_readValue : (setVec s v x).readValue = s.readValue := rfl
@[simp] theorem setVec_freeCount : (setVec s v x).freeCount = s.freeCount := rfl
end

section
variable (s : State) (src : Nat) (o : Outbox)
@[simp] theorem setOutbox_pending : (setOutbox s src o).pending = s.pending := rfl
@[simp] theorem setOutbox_regs : (setOutbox s src o).regs = s.regs := rfl
@[simp] theorem setOutbox_fresh : (setOutbox s src o).fresh = s.fresh := rfl
@[simp] theorem setOutbox_freshAt : (setOutbox s src o).freshAt = s.freshAt := rfl
@[simp] theorem setOutbox_hif : (setOutbox s src o).hif = s.hif := rfl
@[simp] theorem setOutbox_pcie : (setOutbox s src o).pcie = s.pcie := rfl
@[simp] theorem setOutbox_tim : (setOutbox s src o).tim = s.tim := rfl
@[simp] theorem setOutbox_hoop : (setOutbox s src o).hoop = s.hoop := rfl
@[simp] theorem setOutbox_win : (setOutbox s src o).win = s.win := rfl
@[simp] theorem setOutbox_cfg : (setOutbox s src o).cfg = s.cfg := rfl
@[simp] theorem setOutbox_ing : (setOutbox s src o).ing = s.ing := rfl
@[simp] theorem setOutbox_lay : (setOutbox s src o).lay = s.lay := rfl
@[simp] theorem setOutbox_stages : (setOutbox s src o).stages = s.stages := rfl
@[simp] theorem setOutbox_reads : (setOutbox s src o).reads = s.reads := rfl
@[simp] theorem setOutbox_package : (setOutbox s src o).package = s.package := rfl
@[simp] theorem setOutbox_spareReads : (setOutbox s src o).spareReads = s.spareReads := rfl
@[simp] theorem setOutbox_badEntry : (setOutbox s src o).badEntry = s.badEntry := rfl
@[simp] theorem setOutbox_badStep : (setOutbox s src o).badStep = s.badStep := rfl
@[simp] theorem setOutbox_col : (setOutbox s src o).col = s.col := rfl
@[simp] theorem setOutbox_run : (setOutbox s src o).run = s.run := rfl
@[simp] theorem setOutbox_live : (setOutbox s src o).live = s.live := rfl
@[simp] theorem setOutbox_sti : (setOutbox s src o).sti = s.sti := rfl
@[simp] theorem setOutbox_egr : (setOutbox s src o).egr = s.egr := rfl
@[simp] theorem setOutbox_mac : (setOutbox s src o).mac = s.mac := rfl
@[simp] theorem setOutbox_cvus : (setOutbox s src o).cvus = s.cvus := rfl
@[simp] theorem setOutbox_boot : (setOutbox s src o).boot = s.boot := rfl
@[simp] theorem setOutbox_upd : (setOutbox s src o).upd = s.upd := rfl
@[simp] theorem setOutbox_keep : (setOutbox s src o).keep = s.keep := rfl
@[simp] theorem setOutbox_key : (setOutbox s src o).key = s.key := rfl
@[simp] theorem setOutbox_glb : (setOutbox s src o).glb = s.glb := rfl
@[simp] theorem setOutbox_psm : (setOutbox s src o).psm = s.psm := rfl
@[simp] theorem setOutbox_lgw : (setOutbox s src o).lgw = s.lgw := rfl
@[simp] theorem setOutbox_twn : (setOutbox s src o).twn = s.twn := rfl
@[simp] theorem setOutbox_out : (setOutbox s src o).out = s.out := rfl
@[simp] theorem setOutbox_readValue : (setOutbox s src o).readValue = s.readValue := rfl
@[simp] theorem setOutbox_freeCount : (setOutbox s src o).freeCount = s.freeCount := rfl
end

section
variable (s : State) (id : Nat) (f : Track → Track)
@[simp] theorem modTrack_pending : (modTrack s id f).pending = s.pending := rfl
@[simp] theorem modTrack_regs : (modTrack s id f).regs = s.regs := rfl
@[simp] theorem modTrack_fresh : (modTrack s id f).fresh = s.fresh := rfl
@[simp] theorem modTrack_freshAt : (modTrack s id f).freshAt = s.freshAt := rfl
@[simp] theorem modTrack_pcie : (modTrack s id f).pcie = s.pcie := rfl
@[simp] theorem modTrack_tim : (modTrack s id f).tim = s.tim := rfl
@[simp] theorem modTrack_hoop : (modTrack s id f).hoop = s.hoop := rfl
@[simp] theorem modTrack_win : (modTrack s id f).win = s.win := rfl
@[simp] theorem modTrack_cfg : (modTrack s id f).cfg = s.cfg := rfl
@[simp] theorem modTrack_ing : (modTrack s id f).ing = s.ing := rfl
@[simp] theorem modTrack_lay : (modTrack s id f).lay = s.lay := rfl
@[simp] theorem modTrack_stages : (modTrack s id f).stages = s.stages := rfl
@[simp] theorem modTrack_reads : (modTrack s id f).reads = s.reads := rfl
@[simp] theorem modTrack_package : (modTrack s id f).package = s.package := rfl
@[simp] theorem modTrack_spareReads : (modTrack s id f).spareReads = s.spareReads := rfl
@[simp] theorem modTrack_badEntry : (modTrack s id f).badEntry = s.badEntry := rfl
@[simp] theorem modTrack_badStep : (modTrack s id f).badStep = s.badStep := rfl
@[simp] theorem modTrack_col : (modTrack s id f).col = s.col := rfl
@[simp] theorem modTrack_run : (modTrack s id f).run = s.run := rfl
@[simp] theorem modTrack_live : (modTrack s id f).live = s.live := rfl
@[simp] theorem modTrack_sti : (modTrack s id f).sti = s.sti := rfl
@[simp] theorem modTrack_egr : (modTrack s id f).egr = s.egr := rfl
@[simp] theorem modTrack_mac : (modTrack s id f).mac = s.mac := rfl
@[simp] theorem modTrack_ccs : (modTrack s id f).ccs = s.ccs := rfl
@[simp] theorem modTrack_cvus : (modTrack s id f).cvus = s.cvus := rfl
@[simp] theorem modTrack_boot : (modTrack s id f).boot = s.boot := rfl
@[simp] theorem modTrack_upd : (modTrack s id f).upd = s.upd := rfl
@[simp] theorem modTrack_keep : (modTrack s id f).keep = s.keep := rfl
@[simp] theorem modTrack_key : (modTrack s id f).key = s.key := rfl
@[simp] theorem modTrack_glb : (modTrack s id f).glb = s.glb := rfl
@[simp] theorem modTrack_psm : (modTrack s id f).psm = s.psm := rfl
@[simp] theorem modTrack_lgw : (modTrack s id f).lgw = s.lgw := rfl
@[simp] theorem modTrack_twn : (modTrack s id f).twn = s.twn := rfl
@[simp] theorem modTrack_out : (modTrack s id f).out = s.out := rfl
@[simp] theorem modTrack_readValue : (modTrack s id f).readValue = s.readValue := rfl
@[simp] theorem modTrack_freeCount : (modTrack s id f).freeCount = s.freeCount := rfl
end

section
variable (s : State) (t : Nat) (x : Thread)
@[simp] theorem setThread_pending : (setThread s t x).pending = s.pending := rfl
@[simp] theorem setThread_regs : (setThread s t x).regs = s.regs := rfl
@[simp] theorem setThread_fresh : (setThread s t x).fresh = s.fresh := rfl
@[simp] theorem setThread_freshAt : (setThread s t x).freshAt = s.freshAt := rfl
@[simp] theorem setThread_hif : (setThread s t x).hif = s.hif := rfl
@[simp] theorem setThread_pcie : (setThread s t x).pcie = s.pcie := rfl
@[simp] theorem setThread_tim : (setThread s t x).tim = s.tim := rfl
@[simp] theorem setThread_hoop : (setThread s t x).hoop = s.hoop := rfl
@[simp] theorem setThread_win : (setThread s t x).win = s.win := rfl
@[simp] theorem setThread_cfg : (setThread s t x).cfg = s.cfg := rfl
@[simp] theorem setThread_ing : (setThread s t x).ing = s.ing := rfl
@[simp] theorem setThread_lay : (setThread s t x).lay = s.lay := rfl
@[simp] theorem setThread_stages : (setThread s t x).stages = s.stages := rfl
@[simp] theorem setThread_reads : (setThread s t x).reads = s.reads := rfl
@[simp] theorem setThread_package : (setThread s t x).package = s.package := rfl
@[simp] theorem setThread_spareReads : (setThread s t x).spareReads = s.spareReads := rfl
@[simp] theorem setThread_badEntry : (setThread s t x).badEntry = s.badEntry := rfl
@[simp] theorem setThread_badStep : (setThread s t x).badStep = s.badStep := rfl
@[simp] theorem setThread_col : (setThread s t x).col = s.col := rfl
@[simp] theorem setThread_run : (setThread s t x).run = s.run := rfl
@[simp] theorem setThread_live : (setThread s t x).live = s.live := rfl
@[simp] theorem setThread_sti : (setThread s t x).sti = s.sti := rfl
@[simp] theorem setThread_egr : (setThread s t x).egr = s.egr := rfl
@[simp] theorem setThread_mac : (setThread s t x).mac = s.mac := rfl
@[simp] theorem setThread_cvus : (setThread s t x).cvus = s.cvus := rfl
@[simp] theorem setThread_boot : (setThread s t x).boot = s.boot := rfl
@[simp] theorem setThread_upd : (setThread s t x).upd = s.upd := rfl
@[simp] theorem setThread_keep : (setThread s t x).keep = s.keep := rfl
@[simp] theorem setThread_key : (setThread s t x).key = s.key := rfl
@[simp] theorem setThread_glb : (setThread s t x).glb = s.glb := rfl
@[simp] theorem setThread_psm : (setThread s t x).psm = s.psm := rfl
@[simp] theorem setThread_lgw : (setThread s t x).lgw = s.lgw := rfl
@[simp] theorem setThread_twn : (setThread s t x).twn = s.twn := rfl
@[simp] theorem setThread_out : (setThread s t x).out = s.out := rfl
@[simp] theorem setThread_readValue : (setThread s t x).readValue = s.readValue := rfl
@[simp] theorem setThread_freeCount : (setThread s t x).freeCount = s.freeCount := rfl
end

section
variable (s : State) (c : Nat) (x : CoreUnit)
@[simp] theorem setCore_pending : (setCore s c x).pending = s.pending := rfl
@[simp] theorem setCore_regs : (setCore s c x).regs = s.regs := rfl
@[simp] theorem setCore_fresh : (setCore s c x).fresh = s.fresh := rfl
@[simp] theorem setCore_freshAt : (setCore s c x).freshAt = s.freshAt := rfl
@[simp] theorem setCore_hif : (setCore s c x).hif = s.hif := rfl
@[simp] theorem setCore_pcie : (setCore s c x).pcie = s.pcie := rfl
@[simp] theorem setCore_tim : (setCore s c x).tim = s.tim := rfl
@[simp] theorem setCore_hoop : (setCore s c x).hoop = s.hoop := rfl
@[simp] theorem setCore_win : (setCore s c x).win = s.win := rfl
@[simp] theorem setCore_cfg : (setCore s c x).cfg = s.cfg := rfl
@[simp] theorem setCore_ing : (setCore s c x).ing = s.ing := rfl
@[simp] theorem setCore_lay : (setCore s c x).lay = s.lay := rfl
@[simp] theorem setCore_stages : (setCore s c x).stages = s.stages := rfl
@[simp] theorem setCore_reads : (setCore s c x).reads = s.reads := rfl
@[simp] theorem setCore_package : (setCore s c x).package = s.package := rfl
@[simp] theorem setCore_spareReads : (setCore s c x).spareReads = s.spareReads := rfl
@[simp] theorem setCore_badEntry : (setCore s c x).badEntry = s.badEntry := rfl
@[simp] theorem setCore_badStep : (setCore s c x).badStep = s.badStep := rfl
@[simp] theorem setCore_col : (setCore s c x).col = s.col := rfl
@[simp] theorem setCore_run : (setCore s c x).run = s.run := rfl
@[simp] theorem setCore_live : (setCore s c x).live = s.live := rfl
@[simp] theorem setCore_sti : (setCore s c x).sti = s.sti := rfl
@[simp] theorem setCore_egr : (setCore s c x).egr = s.egr := rfl
@[simp] theorem setCore_mac : (setCore s c x).mac = s.mac := rfl
@[simp] theorem setCore_cvus : (setCore s c x).cvus = s.cvus := rfl
@[simp] theorem setCore_boot : (setCore s c x).boot = s.boot := rfl
@[simp] theorem setCore_upd : (setCore s c x).upd = s.upd := rfl
@[simp] theorem setCore_keep : (setCore s c x).keep = s.keep := rfl
@[simp] theorem setCore_key : (setCore s c x).key = s.key := rfl
@[simp] theorem setCore_glb : (setCore s c x).glb = s.glb := rfl
@[simp] theorem setCore_psm : (setCore s c x).psm = s.psm := rfl
@[simp] theorem setCore_lgw : (setCore s c x).lgw = s.lgw := rfl
@[simp] theorem setCore_twn : (setCore s c x).twn = s.twn := rfl
@[simp] theorem setCore_out : (setCore s c x).out = s.out := rfl
@[simp] theorem setCore_readValue : (setCore s c x).readValue = s.readValue := rfl
@[simp] theorem setCore_freeCount : (setCore s c x).freeCount = s.freeCount := rfl
end

section
variable (s : State) (p : Nat) (l : List Nat)
@[simp] theorem setList_pending : (setList s p l).pending = s.pending := rfl
@[simp] theorem setList_regs : (setList s p l).regs = s.regs := rfl
@[simp] theorem setList_fresh : (setList s p l).fresh = s.fresh := rfl
@[simp] theorem setList_freshAt : (setList s p l).freshAt = s.freshAt := rfl
@[simp] theorem setList_hif : (setList s p l).hif = s.hif := rfl
@[simp] theorem setList_pcie : (setList s p l).pcie = s.pcie := rfl
@[simp] theorem setList_tim : (setList s p l).tim = s.tim := rfl
@[simp] theorem setList_hoop : (setList s p l).hoop = s.hoop := rfl
@[simp] theorem setList_win : (setList s p l).win = s.win := rfl
@[simp] theorem setList_cfg : (setList s p l).cfg = s.cfg := rfl
@[simp] theorem setList_ing : (setList s p l).ing = s.ing := rfl
@[simp] theorem setList_lay : (setList s p l).lay = s.lay := rfl
@[simp] theorem setList_stages : (setList s p l).stages = s.stages := rfl
@[simp] theorem setList_reads : (setList s p l).reads = s.reads := rfl
@[simp] theorem setList_package : (setList s p l).package = s.package := rfl
@[simp] theorem setList_spareReads : (setList s p l).spareReads = s.spareReads := rfl
@[simp] theorem setList_badEntry : (setList s p l).badEntry = s.badEntry := rfl
@[simp] theorem setList_badStep : (setList s p l).badStep = s.badStep := rfl
@[simp] theorem setList_col : (setList s p l).col = s.col := rfl
@[simp] theorem setList_run : (setList s p l).run = s.run := rfl
@[simp] theorem setList_live : (setList s p l).live = s.live := rfl
@[simp] theorem setList_sti : (setList s p l).sti = s.sti := rfl
@[simp] theorem setList_egr : (setList s p l).egr = s.egr := rfl
@[simp] theorem setList_mac : (setList s p l).mac = s.mac := rfl
@[simp] theorem setList_cvus : (setList s p l).cvus = s.cvus := rfl
@[simp] theorem setList_boot : (setList s p l).boot = s.boot := rfl
@[simp] theorem setList_upd : (setList s p l).upd = s.upd := rfl
@[simp] theorem setList_keep : (setList s p l).keep = s.keep := rfl
@[simp] theorem setList_key : (setList s p l).key = s.key := rfl
@[simp] theorem setList_glb : (setList s p l).glb = s.glb := rfl
@[simp] theorem setList_psm : (setList s p l).psm = s.psm := rfl
@[simp] theorem setList_lgw : (setList s p l).lgw = s.lgw := rfl
@[simp] theorem setList_twn : (setList s p l).twn = s.twn := rfl
@[simp] theorem setList_out : (setList s p l).out = s.out := rfl
@[simp] theorem setList_readValue : (setList s p l).readValue = s.readValue := rfl
@[simp] theorem setList_freeCount : (setList s p l).freeCount = s.freeCount := rfl
end

section
variable (s : State) (q : Nat) (x : NQueue)
@[simp] theorem setQueue_pending : (setQueue s q x).pending = s.pending := rfl
@[simp] theorem setQueue_regs : (setQueue s q x).regs = s.regs := rfl
@[simp] theorem setQueue_fresh : (setQueue s q x).fresh = s.fresh := rfl
@[simp] theorem setQueue_freshAt : (setQueue s q x).freshAt = s.freshAt := rfl
@[simp] theorem setQueue_hif : (setQueue s q x).hif = s.hif := rfl
@[simp] theorem setQueue_pcie : (setQueue s q x).pcie = s.pcie := rfl
@[simp] theorem setQueue_tim : (setQueue s q x).tim = s.tim := rfl
@[simp] theorem setQueue_hoop : (setQueue s q x).hoop = s.hoop := rfl
@[simp] theorem setQueue_win : (setQueue s q x).win = s.win := rfl
@[simp] theorem setQueue_cfg : (setQueue s q x).cfg = s.cfg := rfl
@[simp] theorem setQueue_ing : (setQueue s q x).ing = s.ing := rfl
@[simp] theorem setQueue_lay : (setQueue s q x).lay = s.lay := rfl
@[simp] theorem setQueue_stages : (setQueue s q x).stages = s.stages := rfl
@[simp] theorem setQueue_reads : (setQueue s q x).reads = s.reads := rfl
@[simp] theorem setQueue_package : (setQueue s q x).package = s.package := rfl
@[simp] theorem setQueue_spareReads : (setQueue s q x).spareReads = s.spareReads := rfl
@[simp] theorem setQueue_badEntry : (setQueue s q x).badEntry = s.badEntry := rfl
@[simp] theorem setQueue_badStep : (setQueue s q x).badStep = s.badStep := rfl
@[simp] theorem setQueue_col : (setQueue s q x).col = s.col := rfl
@[simp] theorem setQueue_run : (setQueue s q x).run = s.run := rfl
@[simp] theorem setQueue_live : (setQueue s q x).live = s.live := rfl
@[simp] theorem setQueue_sti : (setQueue s q x).sti = s.sti := rfl
@[simp] theorem setQueue_egr : (setQueue s q x).egr = s.egr := rfl
@[simp] theorem setQueue_mac : (setQueue s q x).mac = s.mac := rfl
@[simp] theorem setQueue_cvus : (setQueue s q x).cvus = s.cvus := rfl
@[simp] theorem setQueue_boot : (setQueue s q x).boot = s.boot := rfl
@[simp] theorem setQueue_upd : (setQueue s q x).upd = s.upd := rfl
@[simp] theorem setQueue_keep : (setQueue s q x).keep = s.keep := rfl
@[simp] theorem setQueue_key : (setQueue s q x).key = s.key := rfl
@[simp] theorem setQueue_glb : (setQueue s q x).glb = s.glb := rfl
@[simp] theorem setQueue_psm : (setQueue s q x).psm = s.psm := rfl
@[simp] theorem setQueue_lgw : (setQueue s q x).lgw = s.lgw := rfl
@[simp] theorem setQueue_twn : (setQueue s q x).twn = s.twn := rfl
@[simp] theorem setQueue_out : (setQueue s q x).out = s.out := rfl
@[simp] theorem setQueue_readValue : (setQueue s q x).readValue = s.readValue := rfl
@[simp] theorem setQueue_freeCount : (setQueue s q x).freeCount = s.freeCount := rfl
end

section
variable (s : State) (t : Nat) (x : Staged)
@[simp] theorem setStaged_pending : (setStaged s t x).pending = s.pending := rfl
@[simp] theorem setStaged_regs : (setStaged s t x).regs = s.regs := rfl
@[simp] theorem setStaged_fresh : (setStaged s t x).fresh = s.fresh := rfl
@[simp] theorem setStaged_freshAt : (setStaged s t x).freshAt = s.freshAt := rfl
@[simp] theorem setStaged_hif : (setStaged s t x).hif = s.hif := rfl
@[simp] theorem setStaged_pcie : (setStaged s t x).pcie = s.pcie := rfl
@[simp] theorem setStaged_tim : (setStaged s t x).tim = s.tim := rfl
@[simp] theorem setStaged_hoop : (setStaged s t x).hoop = s.hoop := rfl
@[simp] theorem setStaged_win : (setStaged s t x).win = s.win := rfl
@[simp] theorem setStaged_cfg : (setStaged s t x).cfg = s.cfg := rfl
@[simp] theorem setStaged_ing : (setStaged s t x).ing = s.ing := rfl
@[simp] theorem setStaged_lay : (setStaged s t x).lay = s.lay := rfl
@[simp] theorem setStaged_stages : (setStaged s t x).stages = s.stages := rfl
@[simp] theorem setStaged_reads : (setStaged s t x).reads = s.reads := rfl
@[simp] theorem setStaged_package : (setStaged s t x).package = s.package := rfl
@[simp] theorem setStaged_spareReads : (setStaged s t x).spareReads = s.spareReads := rfl
@[simp] theorem setStaged_badEntry : (setStaged s t x).badEntry = s.badEntry := rfl
@[simp] theorem setStaged_badStep : (setStaged s t x).badStep = s.badStep := rfl
@[simp] theorem setStaged_col : (setStaged s t x).col = s.col := rfl
@[simp] theorem setStaged_run : (setStaged s t x).run = s.run := rfl
@[simp] theorem setStaged_live : (setStaged s t x).live = s.live := rfl
@[simp] theorem setStaged_sti : (setStaged s t x).sti = s.sti := rfl
@[simp] theorem setStaged_egr : (setStaged s t x).egr = s.egr := rfl
@[simp] theorem setStaged_mac : (setStaged s t x).mac = s.mac := rfl
@[simp] theorem setStaged_cvus : (setStaged s t x).cvus = s.cvus := rfl
@[simp] theorem setStaged_boot : (setStaged s t x).boot = s.boot := rfl
@[simp] theorem setStaged_upd : (setStaged s t x).upd = s.upd := rfl
@[simp] theorem setStaged_keep : (setStaged s t x).keep = s.keep := rfl
@[simp] theorem setStaged_key : (setStaged s t x).key = s.key := rfl
@[simp] theorem setStaged_glb : (setStaged s t x).glb = s.glb := rfl
@[simp] theorem setStaged_psm : (setStaged s t x).psm = s.psm := rfl
@[simp] theorem setStaged_lgw : (setStaged s t x).lgw = s.lgw := rfl
@[simp] theorem setStaged_twn : (setStaged s t x).twn = s.twn := rfl
@[simp] theorem setStaged_out : (setStaged s t x).out = s.out := rfl
@[simp] theorem setStaged_readValue : (setStaged s t x).readValue = s.readValue := rfl
@[simp] theorem setStaged_freeCount : (setStaged s t x).freeCount = s.freeCount := rfl
end

section
variable (s : State) (u : Nat) (x : Cvu)
@[simp] theorem setCvu_pending : (setCvu s u x).pending = s.pending := rfl
@[simp] theorem setCvu_regs : (setCvu s u x).regs = s.regs := rfl
@[simp] theorem setCvu_fresh : (setCvu s u x).fresh = s.fresh := rfl
@[simp] theorem setCvu_freshAt : (setCvu s u x).freshAt = s.freshAt := rfl
@[simp] theorem setCvu_hif : (setCvu s u x).hif = s.hif := rfl
@[simp] theorem setCvu_pcie : (setCvu s u x).pcie = s.pcie := rfl
@[simp] theorem setCvu_tim : (setCvu s u x).tim = s.tim := rfl
@[simp] theorem setCvu_hoop : (setCvu s u x).hoop = s.hoop := rfl
@[simp] theorem setCvu_win : (setCvu s u x).win = s.win := rfl
@[simp] theorem setCvu_cfg : (setCvu s u x).cfg = s.cfg := rfl
@[simp] theorem setCvu_ing : (setCvu s u x).ing = s.ing := rfl
@[simp] theorem setCvu_lay : (setCvu s u x).lay = s.lay := rfl
@[simp] theorem setCvu_stages : (setCvu s u x).stages = s.stages := rfl
@[simp] theorem setCvu_reads : (setCvu s u x).reads = s.reads := rfl
@[simp] theorem setCvu_package : (setCvu s u x).package = s.package := rfl
@[simp] theorem setCvu_spareReads : (setCvu s u x).spareReads = s.spareReads := rfl
@[simp] theorem setCvu_badEntry : (setCvu s u x).badEntry = s.badEntry := rfl
@[simp] theorem setCvu_badStep : (setCvu s u x).badStep = s.badStep := rfl
@[simp] theorem setCvu_col : (setCvu s u x).col = s.col := rfl
@[simp] theorem setCvu_run : (setCvu s u x).run = s.run := rfl
@[simp] theorem setCvu_live : (setCvu s u x).live = s.live := rfl
@[simp] theorem setCvu_sti : (setCvu s u x).sti = s.sti := rfl
@[simp] theorem setCvu_egr : (setCvu s u x).egr = s.egr := rfl
@[simp] theorem setCvu_mac : (setCvu s u x).mac = s.mac := rfl
@[simp] theorem setCvu_ccs : (setCvu s u x).ccs = s.ccs := rfl
@[simp] theorem setCvu_boot : (setCvu s u x).boot = s.boot := rfl
@[simp] theorem setCvu_upd : (setCvu s u x).upd = s.upd := rfl
@[simp] theorem setCvu_keep : (setCvu s u x).keep = s.keep := rfl
@[simp] theorem setCvu_key : (setCvu s u x).key = s.key := rfl
@[simp] theorem setCvu_glb : (setCvu s u x).glb = s.glb := rfl
@[simp] theorem setCvu_psm : (setCvu s u x).psm = s.psm := rfl
@[simp] theorem setCvu_lgw : (setCvu s u x).lgw = s.lgw := rfl
@[simp] theorem setCvu_twn : (setCvu s u x).twn = s.twn := rfl
@[simp] theorem setCvu_out : (setCvu s u x).out = s.out := rfl
@[simp] theorem setCvu_readValue : (setCvu s u x).readValue = s.readValue := rfl
@[simp] theorem setCvu_freeCount : (setCvu s u x).freeCount = s.freeCount := rfl
end

section
variable (s : State) (t : Tim)
@[simp] theorem setTim_pending : (setTim s t).pending = s.pending := rfl
@[simp] theorem setTim_regs : (setTim s t).regs = s.regs := rfl
@[simp] theorem setTim_fresh : (setTim s t).fresh = s.fresh := rfl
@[simp] theorem setTim_freshAt : (setTim s t).freshAt = s.freshAt := rfl
@[simp] theorem setTim_hif : (setTim s t).hif = s.hif := rfl
@[simp] theorem setTim_pcie : (setTim s t).pcie = s.pcie := rfl
@[simp] theorem setTim_hoop : (setTim s t).hoop = s.hoop := rfl
@[simp] theorem setTim_win : (setTim s t).win = s.win := rfl
@[simp] theorem setTim_cfg : (setTim s t).cfg = s.cfg := rfl
@[simp] theorem setTim_ing : (setTim s t).ing = s.ing := rfl
@[simp] theorem setTim_lay : (setTim s t).lay = s.lay := rfl
@[simp] theorem setTim_stages : (setTim s t).stages = s.stages := rfl
@[simp] theorem setTim_reads : (setTim s t).reads = s.reads := rfl
@[simp] theorem setTim_package : (setTim s t).package = s.package := rfl
@[simp] theorem setTim_spareReads : (setTim s t).spareReads = s.spareReads := rfl
@[simp] theorem setTim_badEntry : (setTim s t).badEntry = s.badEntry := rfl
@[simp] theorem setTim_badStep : (setTim s t).badStep = s.badStep := rfl
@[simp] theorem setTim_col : (setTim s t).col = s.col := rfl
@[simp] theorem setTim_run : (setTim s t).run = s.run := rfl
@[simp] theorem setTim_live : (setTim s t).live = s.live := rfl
@[simp] theorem setTim_sti : (setTim s t).sti = s.sti := rfl
@[simp] theorem setTim_egr : (setTim s t).egr = s.egr := rfl
@[simp] theorem setTim_mac : (setTim s t).mac = s.mac := rfl
@[simp] theorem setTim_ccs : (setTim s t).ccs = s.ccs := rfl
@[simp] theorem setTim_cvus : (setTim s t).cvus = s.cvus := rfl
@[simp] theorem setTim_boot : (setTim s t).boot = s.boot := rfl
@[simp] theorem setTim_upd : (setTim s t).upd = s.upd := rfl
@[simp] theorem setTim_keep : (setTim s t).keep = s.keep := rfl
@[simp] theorem setTim_key : (setTim s t).key = s.key := rfl
@[simp] theorem setTim_glb : (setTim s t).glb = s.glb := rfl
@[simp] theorem setTim_psm : (setTim s t).psm = s.psm := rfl
@[simp] theorem setTim_lgw : (setTim s t).lgw = s.lgw := rfl
@[simp] theorem setTim_twn : (setTim s t).twn = s.twn := rfl
@[simp] theorem setTim_out : (setTim s t).out = s.out := rfl
@[simp] theorem setTim_readValue : (setTim s t).readValue = s.readValue := rfl
@[simp] theorem setTim_freeCount : (setTim s t).freeCount = s.freeCount := rfl
@[simp] theorem setTim_tim : (setTim s t).tim = t := rfl
end

section
variable (s : State) (h : HoopGen)
@[simp] theorem setHoop_pending : (setHoop s h).pending = s.pending := rfl
@[simp] theorem setHoop_regs : (setHoop s h).regs = s.regs := rfl
@[simp] theorem setHoop_fresh : (setHoop s h).fresh = s.fresh := rfl
@[simp] theorem setHoop_freshAt : (setHoop s h).freshAt = s.freshAt := rfl
@[simp] theorem setHoop_hif : (setHoop s h).hif = s.hif := rfl
@[simp] theorem setHoop_pcie : (setHoop s h).pcie = s.pcie := rfl
@[simp] theorem setHoop_tim : (setHoop s h).tim = s.tim := rfl
@[simp] theorem setHoop_win : (setHoop s h).win = s.win := rfl
@[simp] theorem setHoop_cfg : (setHoop s h).cfg = s.cfg := rfl
@[simp] theorem setHoop_ing : (setHoop s h).ing = s.ing := rfl
@[simp] theorem setHoop_lay : (setHoop s h).lay = s.lay := rfl
@[simp] theorem setHoop_stages : (setHoop s h).stages = s.stages := rfl
@[simp] theorem setHoop_reads : (setHoop s h).reads = s.reads := rfl
@[simp] theorem setHoop_package : (setHoop s h).package = s.package := rfl
@[simp] theorem setHoop_spareReads : (setHoop s h).spareReads = s.spareReads := rfl
@[simp] theorem setHoop_badEntry : (setHoop s h).badEntry = s.badEntry := rfl
@[simp] theorem setHoop_badStep : (setHoop s h).badStep = s.badStep := rfl
@[simp] theorem setHoop_col : (setHoop s h).col = s.col := rfl
@[simp] theorem setHoop_run : (setHoop s h).run = s.run := rfl
@[simp] theorem setHoop_live : (setHoop s h).live = s.live := rfl
@[simp] theorem setHoop_sti : (setHoop s h).sti = s.sti := rfl
@[simp] theorem setHoop_egr : (setHoop s h).egr = s.egr := rfl
@[simp] theorem setHoop_mac : (setHoop s h).mac = s.mac := rfl
@[simp] theorem setHoop_ccs : (setHoop s h).ccs = s.ccs := rfl
@[simp] theorem setHoop_cvus : (setHoop s h).cvus = s.cvus := rfl
@[simp] theorem setHoop_boot : (setHoop s h).boot = s.boot := rfl
@[simp] theorem setHoop_upd : (setHoop s h).upd = s.upd := rfl
@[simp] theorem setHoop_keep : (setHoop s h).keep = s.keep := rfl
@[simp] theorem setHoop_key : (setHoop s h).key = s.key := rfl
@[simp] theorem setHoop_glb : (setHoop s h).glb = s.glb := rfl
@[simp] theorem setHoop_psm : (setHoop s h).psm = s.psm := rfl
@[simp] theorem setHoop_lgw : (setHoop s h).lgw = s.lgw := rfl
@[simp] theorem setHoop_twn : (setHoop s h).twn = s.twn := rfl
@[simp] theorem setHoop_out : (setHoop s h).out = s.out := rfl
@[simp] theorem setHoop_readValue : (setHoop s h).readValue = s.readValue := rfl
@[simp] theorem setHoop_freeCount : (setHoop s h).freeCount = s.freeCount := rfl
@[simp] theorem setHoop_hoop : (setHoop s h).hoop = h := rfl
end

section
variable (s : State) (i : Nat) (p : Pulse)
@[simp] theorem setPulse_pending : (setPulse s i p).pending = s.pending := rfl
@[simp] theorem setPulse_regs : (setPulse s i p).regs = s.regs := rfl
@[simp] theorem setPulse_fresh : (setPulse s i p).fresh = s.fresh := rfl
@[simp] theorem setPulse_freshAt : (setPulse s i p).freshAt = s.freshAt := rfl
@[simp] theorem setPulse_hif : (setPulse s i p).hif = s.hif := rfl
@[simp] theorem setPulse_pcie : (setPulse s i p).pcie = s.pcie := rfl
@[simp] theorem setPulse_hoop : (setPulse s i p).hoop = s.hoop := rfl
@[simp] theorem setPulse_win : (setPulse s i p).win = s.win := rfl
@[simp] theorem setPulse_cfg : (setPulse s i p).cfg = s.cfg := rfl
@[simp] theorem setPulse_ing : (setPulse s i p).ing = s.ing := rfl
@[simp] theorem setPulse_lay : (setPulse s i p).lay = s.lay := rfl
@[simp] theorem setPulse_stages : (setPulse s i p).stages = s.stages := rfl
@[simp] theorem setPulse_reads : (setPulse s i p).reads = s.reads := rfl
@[simp] theorem setPulse_package : (setPulse s i p).package = s.package := rfl
@[simp] theorem setPulse_spareReads : (setPulse s i p).spareReads = s.spareReads := rfl
@[simp] theorem setPulse_badEntry : (setPulse s i p).badEntry = s.badEntry := rfl
@[simp] theorem setPulse_badStep : (setPulse s i p).badStep = s.badStep := rfl
@[simp] theorem setPulse_col : (setPulse s i p).col = s.col := rfl
@[simp] theorem setPulse_run : (setPulse s i p).run = s.run := rfl
@[simp] theorem setPulse_live : (setPulse s i p).live = s.live := rfl
@[simp] theorem setPulse_sti : (setPulse s i p).sti = s.sti := rfl
@[simp] theorem setPulse_egr : (setPulse s i p).egr = s.egr := rfl
@[simp] theorem setPulse_mac : (setPulse s i p).mac = s.mac := rfl
@[simp] theorem setPulse_ccs : (setPulse s i p).ccs = s.ccs := rfl
@[simp] theorem setPulse_cvus : (setPulse s i p).cvus = s.cvus := rfl
@[simp] theorem setPulse_boot : (setPulse s i p).boot = s.boot := rfl
@[simp] theorem setPulse_upd : (setPulse s i p).upd = s.upd := rfl
@[simp] theorem setPulse_keep : (setPulse s i p).keep = s.keep := rfl
@[simp] theorem setPulse_key : (setPulse s i p).key = s.key := rfl
@[simp] theorem setPulse_glb : (setPulse s i p).glb = s.glb := rfl
@[simp] theorem setPulse_psm : (setPulse s i p).psm = s.psm := rfl
@[simp] theorem setPulse_lgw : (setPulse s i p).lgw = s.lgw := rfl
@[simp] theorem setPulse_twn : (setPulse s i p).twn = s.twn := rfl
@[simp] theorem setPulse_out : (setPulse s i p).out = s.out := rfl
@[simp] theorem setPulse_readValue : (setPulse s i p).readValue = s.readValue := rfl
@[simp] theorem setPulse_freeCount : (setPulse s i p).freeCount = s.freeCount := rfl
end

section
variable (s : State) (p : Nat) (q : StampQueue)
@[simp] theorem setStamps_pending : (setStamps s p q).pending = s.pending := rfl
@[simp] theorem setStamps_regs : (setStamps s p q).regs = s.regs := rfl
@[simp] theorem setStamps_fresh : (setStamps s p q).fresh = s.fresh := rfl
@[simp] theorem setStamps_freshAt : (setStamps s p q).freshAt = s.freshAt := rfl
@[simp] theorem setStamps_hif : (setStamps s p q).hif = s.hif := rfl
@[simp] theorem setStamps_pcie : (setStamps s p q).pcie = s.pcie := rfl
@[simp] theorem setStamps_hoop : (setStamps s p q).hoop = s.hoop := rfl
@[simp] theorem setStamps_win : (setStamps s p q).win = s.win := rfl
@[simp] theorem setStamps_cfg : (setStamps s p q).cfg = s.cfg := rfl
@[simp] theorem setStamps_ing : (setStamps s p q).ing = s.ing := rfl
@[simp] theorem setStamps_lay : (setStamps s p q).lay = s.lay := rfl
@[simp] theorem setStamps_stages : (setStamps s p q).stages = s.stages := rfl
@[simp] theorem setStamps_reads : (setStamps s p q).reads = s.reads := rfl
@[simp] theorem setStamps_package : (setStamps s p q).package = s.package := rfl
@[simp] theorem setStamps_spareReads : (setStamps s p q).spareReads = s.spareReads := rfl
@[simp] theorem setStamps_badEntry : (setStamps s p q).badEntry = s.badEntry := rfl
@[simp] theorem setStamps_badStep : (setStamps s p q).badStep = s.badStep := rfl
@[simp] theorem setStamps_col : (setStamps s p q).col = s.col := rfl
@[simp] theorem setStamps_run : (setStamps s p q).run = s.run := rfl
@[simp] theorem setStamps_live : (setStamps s p q).live = s.live := rfl
@[simp] theorem setStamps_sti : (setStamps s p q).sti = s.sti := rfl
@[simp] theorem setStamps_egr : (setStamps s p q).egr = s.egr := rfl
@[simp] theorem setStamps_mac : (setStamps s p q).mac = s.mac := rfl
@[simp] theorem setStamps_ccs : (setStamps s p q).ccs = s.ccs := rfl
@[simp] theorem setStamps_cvus : (setStamps s p q).cvus = s.cvus := rfl
@[simp] theorem setStamps_boot : (setStamps s p q).boot = s.boot := rfl
@[simp] theorem setStamps_upd : (setStamps s p q).upd = s.upd := rfl
@[simp] theorem setStamps_keep : (setStamps s p q).keep = s.keep := rfl
@[simp] theorem setStamps_key : (setStamps s p q).key = s.key := rfl
@[simp] theorem setStamps_glb : (setStamps s p q).glb = s.glb := rfl
@[simp] theorem setStamps_psm : (setStamps s p q).psm = s.psm := rfl
@[simp] theorem setStamps_lgw : (setStamps s p q).lgw = s.lgw := rfl
@[simp] theorem setStamps_twn : (setStamps s p q).twn = s.twn := rfl
@[simp] theorem setStamps_out : (setStamps s p q).out = s.out := rfl
@[simp] theorem setStamps_readValue : (setStamps s p q).readValue = s.readValue := rfl
@[simp] theorem setStamps_freeCount : (setStamps s p q).freeCount = s.freeCount := rfl
end

section
variable (s : State) (i : Nat) (c : Capture)
@[simp] theorem setCap_pending : (setCap s i c).pending = s.pending := rfl
@[simp] theorem setCap_regs : (setCap s i c).regs = s.regs := rfl
@[simp] theorem setCap_fresh : (setCap s i c).fresh = s.fresh := rfl
@[simp] theorem setCap_freshAt : (setCap s i c).freshAt = s.freshAt := rfl
@[simp] theorem setCap_hif : (setCap s i c).hif = s.hif := rfl
@[simp] theorem setCap_pcie : (setCap s i c).pcie = s.pcie := rfl
@[simp] theorem setCap_hoop : (setCap s i c).hoop = s.hoop := rfl
@[simp] theorem setCap_win : (setCap s i c).win = s.win := rfl
@[simp] theorem setCap_cfg : (setCap s i c).cfg = s.cfg := rfl
@[simp] theorem setCap_ing : (setCap s i c).ing = s.ing := rfl
@[simp] theorem setCap_lay : (setCap s i c).lay = s.lay := rfl
@[simp] theorem setCap_stages : (setCap s i c).stages = s.stages := rfl
@[simp] theorem setCap_reads : (setCap s i c).reads = s.reads := rfl
@[simp] theorem setCap_package : (setCap s i c).package = s.package := rfl
@[simp] theorem setCap_spareReads : (setCap s i c).spareReads = s.spareReads := rfl
@[simp] theorem setCap_badEntry : (setCap s i c).badEntry = s.badEntry := rfl
@[simp] theorem setCap_badStep : (setCap s i c).badStep = s.badStep := rfl
@[simp] theorem setCap_col : (setCap s i c).col = s.col := rfl
@[simp] theorem setCap_run : (setCap s i c).run = s.run := rfl
@[simp] theorem setCap_live : (setCap s i c).live = s.live := rfl
@[simp] theorem setCap_sti : (setCap s i c).sti = s.sti := rfl
@[simp] theorem setCap_egr : (setCap s i c).egr = s.egr := rfl
@[simp] theorem setCap_mac : (setCap s i c).mac = s.mac := rfl
@[simp] theorem setCap_ccs : (setCap s i c).ccs = s.ccs := rfl
@[simp] theorem setCap_cvus : (setCap s i c).cvus = s.cvus := rfl
@[simp] theorem setCap_boot : (setCap s i c).boot = s.boot := rfl
@[simp] theorem setCap_upd : (setCap s i c).upd = s.upd := rfl
@[simp] theorem setCap_keep : (setCap s i c).keep = s.keep := rfl
@[simp] theorem setCap_key : (setCap s i c).key = s.key := rfl
@[simp] theorem setCap_glb : (setCap s i c).glb = s.glb := rfl
@[simp] theorem setCap_psm : (setCap s i c).psm = s.psm := rfl
@[simp] theorem setCap_lgw : (setCap s i c).lgw = s.lgw := rfl
@[simp] theorem setCap_twn : (setCap s i c).twn = s.twn := rfl
@[simp] theorem setCap_out : (setCap s i c).out = s.out := rfl
@[simp] theorem setCap_readValue : (setCap s i c).readValue = s.readValue := rfl
@[simp] theorem setCap_freeCount : (setCap s i c).freeCount = s.freeCount := rfl
end

section
variable (s : State) (h : Hif)
@[simp] theorem setHif_pending : (setHif s h).pending = s.pending := rfl
@[simp] theorem setHif_regs : (setHif s h).regs = s.regs := rfl
@[simp] theorem setHif_fresh : (setHif s h).fresh = s.fresh := rfl
@[simp] theorem setHif_freshAt : (setHif s h).freshAt = s.freshAt := rfl
@[simp] theorem setHif_pcie : (setHif s h).pcie = s.pcie := rfl
@[simp] theorem setHif_tim : (setHif s h).tim = s.tim := rfl
@[simp] theorem setHif_hoop : (setHif s h).hoop = s.hoop := rfl
@[simp] theorem setHif_win : (setHif s h).win = s.win := rfl
@[simp] theorem setHif_cfg : (setHif s h).cfg = s.cfg := rfl
@[simp] theorem setHif_ing : (setHif s h).ing = s.ing := rfl
@[simp] theorem setHif_lay : (setHif s h).lay = s.lay := rfl
@[simp] theorem setHif_stages : (setHif s h).stages = s.stages := rfl
@[simp] theorem setHif_reads : (setHif s h).reads = s.reads := rfl
@[simp] theorem setHif_package : (setHif s h).package = s.package := rfl
@[simp] theorem setHif_spareReads : (setHif s h).spareReads = s.spareReads := rfl
@[simp] theorem setHif_badEntry : (setHif s h).badEntry = s.badEntry := rfl
@[simp] theorem setHif_badStep : (setHif s h).badStep = s.badStep := rfl
@[simp] theorem setHif_col : (setHif s h).col = s.col := rfl
@[simp] theorem setHif_run : (setHif s h).run = s.run := rfl
@[simp] theorem setHif_live : (setHif s h).live = s.live := rfl
@[simp] theorem setHif_sti : (setHif s h).sti = s.sti := rfl
@[simp] theorem setHif_egr : (setHif s h).egr = s.egr := rfl
@[simp] theorem setHif_mac : (setHif s h).mac = s.mac := rfl
@[simp] theorem setHif_ccs : (setHif s h).ccs = s.ccs := rfl
@[simp] theorem setHif_cvus : (setHif s h).cvus = s.cvus := rfl
@[simp] theorem setHif_boot : (setHif s h).boot = s.boot := rfl
@[simp] theorem setHif_upd : (setHif s h).upd = s.upd := rfl
@[simp] theorem setHif_keep : (setHif s h).keep = s.keep := rfl
@[simp] theorem setHif_key : (setHif s h).key = s.key := rfl
@[simp] theorem setHif_glb : (setHif s h).glb = s.glb := rfl
@[simp] theorem setHif_psm : (setHif s h).psm = s.psm := rfl
@[simp] theorem setHif_lgw : (setHif s h).lgw = s.lgw := rfl
@[simp] theorem setHif_twn : (setHif s h).twn = s.twn := rfl
@[simp] theorem setHif_out : (setHif s h).out = s.out := rfl
@[simp] theorem setHif_readValue : (setHif s h).readValue = s.readValue := rfl
@[simp] theorem setHif_freeCount : (setHif s h).freeCount = s.freeCount := rfl
@[simp] theorem setHif_hif : (setHif s h).hif = h := rfl
end

section
variable (s : State) (w : Window)
@[simp] theorem setWin_pending : (setWin s w).pending = s.pending := rfl
@[simp] theorem setWin_regs : (setWin s w).regs = s.regs := rfl
@[simp] theorem setWin_fresh : (setWin s w).fresh = s.fresh := rfl
@[simp] theorem setWin_freshAt : (setWin s w).freshAt = s.freshAt := rfl
@[simp] theorem setWin_hif : (setWin s w).hif = s.hif := rfl
@[simp] theorem setWin_pcie : (setWin s w).pcie = s.pcie := rfl
@[simp] theorem setWin_tim : (setWin s w).tim = s.tim := rfl
@[simp] theorem setWin_hoop : (setWin s w).hoop = s.hoop := rfl
@[simp] theorem setWin_cfg : (setWin s w).cfg = s.cfg := rfl
@[simp] theorem setWin_ing : (setWin s w).ing = s.ing := rfl
@[simp] theorem setWin_lay : (setWin s w).lay = s.lay := rfl
@[simp] theorem setWin_stages : (setWin s w).stages = s.stages := rfl
@[simp] theorem setWin_reads : (setWin s w).reads = s.reads := rfl
@[simp] theorem setWin_package : (setWin s w).package = s.package := rfl
@[simp] theorem setWin_spareReads : (setWin s w).spareReads = s.spareReads := rfl
@[simp] theorem setWin_badEntry : (setWin s w).badEntry = s.badEntry := rfl
@[simp] theorem setWin_badStep : (setWin s w).badStep = s.badStep := rfl
@[simp] theorem setWin_col : (setWin s w).col = s.col := rfl
@[simp] theorem setWin_run : (setWin s w).run = s.run := rfl
@[simp] theorem setWin_live : (setWin s w).live = s.live := rfl
@[simp] theorem setWin_sti : (setWin s w).sti = s.sti := rfl
@[simp] theorem setWin_egr : (setWin s w).egr = s.egr := rfl
@[simp] theorem setWin_mac : (setWin s w).mac = s.mac := rfl
@[simp] theorem setWin_ccs : (setWin s w).ccs = s.ccs := rfl
@[simp] theorem setWin_cvus : (setWin s w).cvus = s.cvus := rfl
@[simp] theorem setWin_boot : (setWin s w).boot = s.boot := rfl
@[simp] theorem setWin_upd : (setWin s w).upd = s.upd := rfl
@[simp] theorem setWin_keep : (setWin s w).keep = s.keep := rfl
@[simp] theorem setWin_key : (setWin s w).key = s.key := rfl
@[simp] theorem setWin_glb : (setWin s w).glb = s.glb := rfl
@[simp] theorem setWin_psm : (setWin s w).psm = s.psm := rfl
@[simp] theorem setWin_lgw : (setWin s w).lgw = s.lgw := rfl
@[simp] theorem setWin_twn : (setWin s w).twn = s.twn := rfl
@[simp] theorem setWin_out : (setWin s w).out = s.out := rfl
@[simp] theorem setWin_readValue : (setWin s w).readValue = s.readValue := rfl
@[simp] theorem setWin_freeCount : (setWin s w).freeCount = s.freeCount := rfl
@[simp] theorem setWin_win : (setWin s w).win = w := rfl
end

section
variable (s : State) (l : Lay)
@[simp] theorem setLay_pending : (setLay s l).pending = s.pending := rfl
@[simp] theorem setLay_regs : (setLay s l).regs = s.regs := rfl
@[simp] theorem setLay_fresh : (setLay s l).fresh = s.fresh := rfl
@[simp] theorem setLay_freshAt : (setLay s l).freshAt = s.freshAt := rfl
@[simp] theorem setLay_hif : (setLay s l).hif = s.hif := rfl
@[simp] theorem setLay_pcie : (setLay s l).pcie = s.pcie := rfl
@[simp] theorem setLay_tim : (setLay s l).tim = s.tim := rfl
@[simp] theorem setLay_hoop : (setLay s l).hoop = s.hoop := rfl
@[simp] theorem setLay_win : (setLay s l).win = s.win := rfl
@[simp] theorem setLay_cfg : (setLay s l).cfg = s.cfg := rfl
@[simp] theorem setLay_ing : (setLay s l).ing = s.ing := rfl
@[simp] theorem setLay_stages : (setLay s l).stages = s.stages := rfl
@[simp] theorem setLay_reads : (setLay s l).reads = s.reads := rfl
@[simp] theorem setLay_package : (setLay s l).package = s.package := rfl
@[simp] theorem setLay_spareReads : (setLay s l).spareReads = s.spareReads := rfl
@[simp] theorem setLay_badEntry : (setLay s l).badEntry = s.badEntry := rfl
@[simp] theorem setLay_badStep : (setLay s l).badStep = s.badStep := rfl
@[simp] theorem setLay_col : (setLay s l).col = s.col := rfl
@[simp] theorem setLay_run : (setLay s l).run = s.run := rfl
@[simp] theorem setLay_live : (setLay s l).live = s.live := rfl
@[simp] theorem setLay_sti : (setLay s l).sti = s.sti := rfl
@[simp] theorem setLay_egr : (setLay s l).egr = s.egr := rfl
@[simp] theorem setLay_mac : (setLay s l).mac = s.mac := rfl
@[simp] theorem setLay_ccs : (setLay s l).ccs = s.ccs := rfl
@[simp] theorem setLay_cvus : (setLay s l).cvus = s.cvus := rfl
@[simp] theorem setLay_boot : (setLay s l).boot = s.boot := rfl
@[simp] theorem setLay_upd : (setLay s l).upd = s.upd := rfl
@[simp] theorem setLay_keep : (setLay s l).keep = s.keep := rfl
@[simp] theorem setLay_key : (setLay s l).key = s.key := rfl
@[simp] theorem setLay_glb : (setLay s l).glb = s.glb := rfl
@[simp] theorem setLay_psm : (setLay s l).psm = s.psm := rfl
@[simp] theorem setLay_lgw : (setLay s l).lgw = s.lgw := rfl
@[simp] theorem setLay_twn : (setLay s l).twn = s.twn := rfl
@[simp] theorem setLay_out : (setLay s l).out = s.out := rfl
@[simp] theorem setLay_readValue : (setLay s l).readValue = s.readValue := rfl
@[simp] theorem setLay_freeCount : (setLay s l).freeCount = s.freeCount := rfl
@[simp] theorem setLay_lay : (setLay s l).lay = l := rfl
end

section
variable (s : State) (g : Ing)
@[simp] theorem setIng_pending : (setIng s g).pending = s.pending := rfl
@[simp] theorem setIng_regs : (setIng s g).regs = s.regs := rfl
@[simp] theorem setIng_fresh : (setIng s g).fresh = s.fresh := rfl
@[simp] theorem setIng_freshAt : (setIng s g).freshAt = s.freshAt := rfl
@[simp] theorem setIng_hif : (setIng s g).hif = s.hif := rfl
@[simp] theorem setIng_pcie : (setIng s g).pcie = s.pcie := rfl
@[simp] theorem setIng_tim : (setIng s g).tim = s.tim := rfl
@[simp] theorem setIng_hoop : (setIng s g).hoop = s.hoop := rfl
@[simp] theorem setIng_win : (setIng s g).win = s.win := rfl
@[simp] theorem setIng_cfg : (setIng s g).cfg = s.cfg := rfl
@[simp] theorem setIng_lay : (setIng s g).lay = s.lay := rfl
@[simp] theorem setIng_stages : (setIng s g).stages = s.stages := rfl
@[simp] theorem setIng_reads : (setIng s g).reads = s.reads := rfl
@[simp] theorem setIng_package : (setIng s g).package = s.package := rfl
@[simp] theorem setIng_spareReads : (setIng s g).spareReads = s.spareReads := rfl
@[simp] theorem setIng_badEntry : (setIng s g).badEntry = s.badEntry := rfl
@[simp] theorem setIng_badStep : (setIng s g).badStep = s.badStep := rfl
@[simp] theorem setIng_col : (setIng s g).col = s.col := rfl
@[simp] theorem setIng_run : (setIng s g).run = s.run := rfl
@[simp] theorem setIng_live : (setIng s g).live = s.live := rfl
@[simp] theorem setIng_sti : (setIng s g).sti = s.sti := rfl
@[simp] theorem setIng_egr : (setIng s g).egr = s.egr := rfl
@[simp] theorem setIng_mac : (setIng s g).mac = s.mac := rfl
@[simp] theorem setIng_ccs : (setIng s g).ccs = s.ccs := rfl
@[simp] theorem setIng_cvus : (setIng s g).cvus = s.cvus := rfl
@[simp] theorem setIng_boot : (setIng s g).boot = s.boot := rfl
@[simp] theorem setIng_upd : (setIng s g).upd = s.upd := rfl
@[simp] theorem setIng_keep : (setIng s g).keep = s.keep := rfl
@[simp] theorem setIng_key : (setIng s g).key = s.key := rfl
@[simp] theorem setIng_glb : (setIng s g).glb = s.glb := rfl
@[simp] theorem setIng_psm : (setIng s g).psm = s.psm := rfl
@[simp] theorem setIng_lgw : (setIng s g).lgw = s.lgw := rfl
@[simp] theorem setIng_twn : (setIng s g).twn = s.twn := rfl
@[simp] theorem setIng_out : (setIng s g).out = s.out := rfl
@[simp] theorem setIng_readValue : (setIng s g).readValue = s.readValue := rfl
@[simp] theorem setIng_freeCount : (setIng s g).freeCount = s.freeCount := rfl
@[simp] theorem setIng_ing : (setIng s g).ing = g := rfl
end

section
variable (s : State) (n : Nat) (h : Handle)
@[simp] theorem setHandle_pending : (setHandle s n h).pending = s.pending := rfl
@[simp] theorem setHandle_regs : (setHandle s n h).regs = s.regs := rfl
@[simp] theorem setHandle_fresh : (setHandle s n h).fresh = s.fresh := rfl
@[simp] theorem setHandle_freshAt : (setHandle s n h).freshAt = s.freshAt := rfl
@[simp] theorem setHandle_hif : (setHandle s n h).hif = s.hif := rfl
@[simp] theorem setHandle_pcie : (setHandle s n h).pcie = s.pcie := rfl
@[simp] theorem setHandle_tim : (setHandle s n h).tim = s.tim := rfl
@[simp] theorem setHandle_hoop : (setHandle s n h).hoop = s.hoop := rfl
@[simp] theorem setHandle_win : (setHandle s n h).win = s.win := rfl
@[simp] theorem setHandle_cfg : (setHandle s n h).cfg = s.cfg := rfl
@[simp] theorem setHandle_ing : (setHandle s n h).ing = s.ing := rfl
@[simp] theorem setHandle_stages : (setHandle s n h).stages = s.stages := rfl
@[simp] theorem setHandle_reads : (setHandle s n h).reads = s.reads := rfl
@[simp] theorem setHandle_package : (setHandle s n h).package = s.package := rfl
@[simp] theorem setHandle_spareReads : (setHandle s n h).spareReads = s.spareReads := rfl
@[simp] theorem setHandle_badEntry : (setHandle s n h).badEntry = s.badEntry := rfl
@[simp] theorem setHandle_badStep : (setHandle s n h).badStep = s.badStep := rfl
@[simp] theorem setHandle_col : (setHandle s n h).col = s.col := rfl
@[simp] theorem setHandle_run : (setHandle s n h).run = s.run := rfl
@[simp] theorem setHandle_live : (setHandle s n h).live = s.live := rfl
@[simp] theorem setHandle_sti : (setHandle s n h).sti = s.sti := rfl
@[simp] theorem setHandle_egr : (setHandle s n h).egr = s.egr := rfl
@[simp] theorem setHandle_mac : (setHandle s n h).mac = s.mac := rfl
@[simp] theorem setHandle_ccs : (setHandle s n h).ccs = s.ccs := rfl
@[simp] theorem setHandle_cvus : (setHandle s n h).cvus = s.cvus := rfl
@[simp] theorem setHandle_boot : (setHandle s n h).boot = s.boot := rfl
@[simp] theorem setHandle_upd : (setHandle s n h).upd = s.upd := rfl
@[simp] theorem setHandle_keep : (setHandle s n h).keep = s.keep := rfl
@[simp] theorem setHandle_key : (setHandle s n h).key = s.key := rfl
@[simp] theorem setHandle_glb : (setHandle s n h).glb = s.glb := rfl
@[simp] theorem setHandle_psm : (setHandle s n h).psm = s.psm := rfl
@[simp] theorem setHandle_lgw : (setHandle s n h).lgw = s.lgw := rfl
@[simp] theorem setHandle_twn : (setHandle s n h).twn = s.twn := rfl
@[simp] theorem setHandle_out : (setHandle s n h).out = s.out := rfl
@[simp] theorem setHandle_readValue : (setHandle s n h).readValue = s.readValue := rfl
@[simp] theorem setHandle_freeCount : (setHandle s n h).freeCount = s.freeCount := rfl
end

section
variable (n : Nat) (s : State) (x : Nat × BitVec 64)
@[simp] theorem putPixel_pending : (putPixel n s x).pending = s.pending := rfl
@[simp] theorem putPixel_regs : (putPixel n s x).regs = s.regs := rfl
@[simp] theorem putPixel_fresh : (putPixel n s x).fresh = s.fresh := rfl
@[simp] theorem putPixel_freshAt : (putPixel n s x).freshAt = s.freshAt := rfl
@[simp] theorem putPixel_hif : (putPixel n s x).hif = s.hif := rfl
@[simp] theorem putPixel_pcie : (putPixel n s x).pcie = s.pcie := rfl
@[simp] theorem putPixel_tim : (putPixel n s x).tim = s.tim := rfl
@[simp] theorem putPixel_hoop : (putPixel n s x).hoop = s.hoop := rfl
@[simp] theorem putPixel_win : (putPixel n s x).win = s.win := rfl
@[simp] theorem putPixel_cfg : (putPixel n s x).cfg = s.cfg := rfl
@[simp] theorem putPixel_ing : (putPixel n s x).ing = s.ing := rfl
@[simp] theorem putPixel_stages : (putPixel n s x).stages = s.stages := rfl
@[simp] theorem putPixel_reads : (putPixel n s x).reads = s.reads := rfl
@[simp] theorem putPixel_package : (putPixel n s x).package = s.package := rfl
@[simp] theorem putPixel_spareReads : (putPixel n s x).spareReads = s.spareReads := rfl
@[simp] theorem putPixel_badEntry : (putPixel n s x).badEntry = s.badEntry := rfl
@[simp] theorem putPixel_badStep : (putPixel n s x).badStep = s.badStep := rfl
@[simp] theorem putPixel_col : (putPixel n s x).col = s.col := rfl
@[simp] theorem putPixel_run : (putPixel n s x).run = s.run := rfl
@[simp] theorem putPixel_live : (putPixel n s x).live = s.live := rfl
@[simp] theorem putPixel_sti : (putPixel n s x).sti = s.sti := rfl
@[simp] theorem putPixel_egr : (putPixel n s x).egr = s.egr := rfl
@[simp] theorem putPixel_mac : (putPixel n s x).mac = s.mac := rfl
@[simp] theorem putPixel_ccs : (putPixel n s x).ccs = s.ccs := rfl
@[simp] theorem putPixel_cvus : (putPixel n s x).cvus = s.cvus := rfl
@[simp] theorem putPixel_boot : (putPixel n s x).boot = s.boot := rfl
@[simp] theorem putPixel_upd : (putPixel n s x).upd = s.upd := rfl
@[simp] theorem putPixel_keep : (putPixel n s x).keep = s.keep := rfl
@[simp] theorem putPixel_key : (putPixel n s x).key = s.key := rfl
@[simp] theorem putPixel_glb : (putPixel n s x).glb = s.glb := rfl
@[simp] theorem putPixel_psm : (putPixel n s x).psm = s.psm := rfl
@[simp] theorem putPixel_lgw : (putPixel n s x).lgw = s.lgw := rfl
@[simp] theorem putPixel_twn : (putPixel n s x).twn = s.twn := rfl
@[simp] theorem putPixel_out : (putPixel n s x).out = s.out := rfl
@[simp] theorem putPixel_readValue : (putPixel n s x).readValue = s.readValue := rfl
@[simp] theorem putPixel_freeCount : (putPixel n s x).freeCount = s.freeCount := rfl
end

section
variable (s : State) (n : Nat) (b : Hoop)
@[simp] theorem pin_pending : (pin s n b).pending = s.pending := rfl
@[simp] theorem pin_regs : (pin s n b).regs = s.regs := rfl
@[simp] theorem pin_fresh : (pin s n b).fresh = s.fresh := rfl
@[simp] theorem pin_freshAt : (pin s n b).freshAt = s.freshAt := rfl
@[simp] theorem pin_hif : (pin s n b).hif = s.hif := rfl
@[simp] theorem pin_pcie : (pin s n b).pcie = s.pcie := rfl
@[simp] theorem pin_tim : (pin s n b).tim = s.tim := rfl
@[simp] theorem pin_hoop : (pin s n b).hoop = s.hoop := rfl
@[simp] theorem pin_win : (pin s n b).win = s.win := rfl
@[simp] theorem pin_cfg : (pin s n b).cfg = s.cfg := rfl
@[simp] theorem pin_lay : (pin s n b).lay = s.lay := rfl
@[simp] theorem pin_stages : (pin s n b).stages = s.stages := rfl
@[simp] theorem pin_reads : (pin s n b).reads = s.reads := rfl
@[simp] theorem pin_package : (pin s n b).package = s.package := rfl
@[simp] theorem pin_spareReads : (pin s n b).spareReads = s.spareReads := rfl
@[simp] theorem pin_badEntry : (pin s n b).badEntry = s.badEntry := rfl
@[simp] theorem pin_badStep : (pin s n b).badStep = s.badStep := rfl
@[simp] theorem pin_col : (pin s n b).col = s.col := rfl
@[simp] theorem pin_run : (pin s n b).run = s.run := rfl
@[simp] theorem pin_live : (pin s n b).live = s.live := rfl
@[simp] theorem pin_sti : (pin s n b).sti = s.sti := rfl
@[simp] theorem pin_egr : (pin s n b).egr = s.egr := rfl
@[simp] theorem pin_mac : (pin s n b).mac = s.mac := rfl
@[simp] theorem pin_ccs : (pin s n b).ccs = s.ccs := rfl
@[simp] theorem pin_cvus : (pin s n b).cvus = s.cvus := rfl
@[simp] theorem pin_boot : (pin s n b).boot = s.boot := rfl
@[simp] theorem pin_upd : (pin s n b).upd = s.upd := rfl
@[simp] theorem pin_keep : (pin s n b).keep = s.keep := rfl
@[simp] theorem pin_key : (pin s n b).key = s.key := rfl
@[simp] theorem pin_glb : (pin s n b).glb = s.glb := rfl
@[simp] theorem pin_psm : (pin s n b).psm = s.psm := rfl
@[simp] theorem pin_lgw : (pin s n b).lgw = s.lgw := rfl
@[simp] theorem pin_twn : (pin s n b).twn = s.twn := rfl
@[simp] theorem pin_out : (pin s n b).out = s.out := rfl
@[simp] theorem pin_readValue : (pin s n b).readValue = s.readValue := rfl
@[simp] theorem pin_freeCount : (pin s n b).freeCount = s.freeCount := rfl
end

section
variable (s : State) (b : Hoop)
@[simp] theorem expirePins_pending : (expirePins s b).pending = s.pending := rfl
@[simp] theorem expirePins_regs : (expirePins s b).regs = s.regs := rfl
@[simp] theorem expirePins_fresh : (expirePins s b).fresh = s.fresh := rfl
@[simp] theorem expirePins_freshAt : (expirePins s b).freshAt = s.freshAt := rfl
@[simp] theorem expirePins_hif : (expirePins s b).hif = s.hif := rfl
@[simp] theorem expirePins_pcie : (expirePins s b).pcie = s.pcie := rfl
@[simp] theorem expirePins_tim : (expirePins s b).tim = s.tim := rfl
@[simp] theorem expirePins_hoop : (expirePins s b).hoop = s.hoop := rfl
@[simp] theorem expirePins_win : (expirePins s b).win = s.win := rfl
@[simp] theorem expirePins_cfg : (expirePins s b).cfg = s.cfg := rfl
@[simp] theorem expirePins_lay : (expirePins s b).lay = s.lay := rfl
@[simp] theorem expirePins_stages : (expirePins s b).stages = s.stages := rfl
@[simp] theorem expirePins_reads : (expirePins s b).reads = s.reads := rfl
@[simp] theorem expirePins_package : (expirePins s b).package = s.package := rfl
@[simp] theorem expirePins_spareReads : (expirePins s b).spareReads = s.spareReads := rfl
@[simp] theorem expirePins_badEntry : (expirePins s b).badEntry = s.badEntry := rfl
@[simp] theorem expirePins_badStep : (expirePins s b).badStep = s.badStep := rfl
@[simp] theorem expirePins_col : (expirePins s b).col = s.col := rfl
@[simp] theorem expirePins_run : (expirePins s b).run = s.run := rfl
@[simp] theorem expirePins_live : (expirePins s b).live = s.live := rfl
@[simp] theorem expirePins_sti : (expirePins s b).sti = s.sti := rfl
@[simp] theorem expirePins_egr : (expirePins s b).egr = s.egr := rfl
@[simp] theorem expirePins_mac : (expirePins s b).mac = s.mac := rfl
@[simp] theorem expirePins_ccs : (expirePins s b).ccs = s.ccs := rfl
@[simp] theorem expirePins_cvus : (expirePins s b).cvus = s.cvus := rfl
@[simp] theorem expirePins_boot : (expirePins s b).boot = s.boot := rfl
@[simp] theorem expirePins_upd : (expirePins s b).upd = s.upd := rfl
@[simp] theorem expirePins_keep : (expirePins s b).keep = s.keep := rfl
@[simp] theorem expirePins_key : (expirePins s b).key = s.key := rfl
@[simp] theorem expirePins_glb : (expirePins s b).glb = s.glb := rfl
@[simp] theorem expirePins_psm : (expirePins s b).psm = s.psm := rfl
@[simp] theorem expirePins_lgw : (expirePins s b).lgw = s.lgw := rfl
@[simp] theorem expirePins_twn : (expirePins s b).twn = s.twn := rfl
@[simp] theorem expirePins_out : (expirePins s b).out = s.out := rfl
@[simp] theorem expirePins_readValue : (expirePins s b).readValue = s.readValue := rfl
@[simp] theorem expirePins_freeCount : (expirePins s b).freeCount = s.freeCount := rfl
end

section
variable (s : State) (k : Nat) (x : SessRt)
@[simp] theorem setSess_pending : (setSess s k x).pending = s.pending := rfl
@[simp] theorem setSess_regs : (setSess s k x).regs = s.regs := rfl
@[simp] theorem setSess_fresh : (setSess s k x).fresh = s.fresh := rfl
@[simp] theorem setSess_freshAt : (setSess s k x).freshAt = s.freshAt := rfl
@[simp] theorem setSess_hif : (setSess s k x).hif = s.hif := rfl
@[simp] theorem setSess_pcie : (setSess s k x).pcie = s.pcie := rfl
@[simp] theorem setSess_tim : (setSess s k x).tim = s.tim := rfl
@[simp] theorem setSess_hoop : (setSess s k x).hoop = s.hoop := rfl
@[simp] theorem setSess_win : (setSess s k x).win = s.win := rfl
@[simp] theorem setSess_cfg : (setSess s k x).cfg = s.cfg := rfl
@[simp] theorem setSess_lay : (setSess s k x).lay = s.lay := rfl
@[simp] theorem setSess_stages : (setSess s k x).stages = s.stages := rfl
@[simp] theorem setSess_reads : (setSess s k x).reads = s.reads := rfl
@[simp] theorem setSess_package : (setSess s k x).package = s.package := rfl
@[simp] theorem setSess_spareReads : (setSess s k x).spareReads = s.spareReads := rfl
@[simp] theorem setSess_badEntry : (setSess s k x).badEntry = s.badEntry := rfl
@[simp] theorem setSess_badStep : (setSess s k x).badStep = s.badStep := rfl
@[simp] theorem setSess_col : (setSess s k x).col = s.col := rfl
@[simp] theorem setSess_run : (setSess s k x).run = s.run := rfl
@[simp] theorem setSess_live : (setSess s k x).live = s.live := rfl
@[simp] theorem setSess_sti : (setSess s k x).sti = s.sti := rfl
@[simp] theorem setSess_egr : (setSess s k x).egr = s.egr := rfl
@[simp] theorem setSess_mac : (setSess s k x).mac = s.mac := rfl
@[simp] theorem setSess_ccs : (setSess s k x).ccs = s.ccs := rfl
@[simp] theorem setSess_cvus : (setSess s k x).cvus = s.cvus := rfl
@[simp] theorem setSess_boot : (setSess s k x).boot = s.boot := rfl
@[simp] theorem setSess_upd : (setSess s k x).upd = s.upd := rfl
@[simp] theorem setSess_keep : (setSess s k x).keep = s.keep := rfl
@[simp] theorem setSess_key : (setSess s k x).key = s.key := rfl
@[simp] theorem setSess_glb : (setSess s k x).glb = s.glb := rfl
@[simp] theorem setSess_psm : (setSess s k x).psm = s.psm := rfl
@[simp] theorem setSess_lgw : (setSess s k x).lgw = s.lgw := rfl
@[simp] theorem setSess_twn : (setSess s k x).twn = s.twn := rfl
@[simp] theorem setSess_out : (setSess s k x).out = s.out := rfl
@[simp] theorem setSess_readValue : (setSess s k x).readValue = s.readValue := rfl
@[simp] theorem setSess_freeCount : (setSess s k x).freeCount = s.freeCount := rfl
end

section
variable (s : State) (l : Nat) (x : SourceRt)
@[simp] theorem setSource_pending : (setSource s l x).pending = s.pending := rfl
@[simp] theorem setSource_regs : (setSource s l x).regs = s.regs := rfl
@[simp] theorem setSource_fresh : (setSource s l x).fresh = s.fresh := rfl
@[simp] theorem setSource_freshAt : (setSource s l x).freshAt = s.freshAt := rfl
@[simp] theorem setSource_hif : (setSource s l x).hif = s.hif := rfl
@[simp] theorem setSource_pcie : (setSource s l x).pcie = s.pcie := rfl
@[simp] theorem setSource_tim : (setSource s l x).tim = s.tim := rfl
@[simp] theorem setSource_hoop : (setSource s l x).hoop = s.hoop := rfl
@[simp] theorem setSource_win : (setSource s l x).win = s.win := rfl
@[simp] theorem setSource_cfg : (setSource s l x).cfg = s.cfg := rfl
@[simp] theorem setSource_lay : (setSource s l x).lay = s.lay := rfl
@[simp] theorem setSource_stages : (setSource s l x).stages = s.stages := rfl
@[simp] theorem setSource_reads : (setSource s l x).reads = s.reads := rfl
@[simp] theorem setSource_package : (setSource s l x).package = s.package := rfl
@[simp] theorem setSource_spareReads : (setSource s l x).spareReads = s.spareReads := rfl
@[simp] theorem setSource_badEntry : (setSource s l x).badEntry = s.badEntry := rfl
@[simp] theorem setSource_badStep : (setSource s l x).badStep = s.badStep := rfl
@[simp] theorem setSource_col : (setSource s l x).col = s.col := rfl
@[simp] theorem setSource_run : (setSource s l x).run = s.run := rfl
@[simp] theorem setSource_live : (setSource s l x).live = s.live := rfl
@[simp] theorem setSource_sti : (setSource s l x).sti = s.sti := rfl
@[simp] theorem setSource_egr : (setSource s l x).egr = s.egr := rfl
@[simp] theorem setSource_mac : (setSource s l x).mac = s.mac := rfl
@[simp] theorem setSource_ccs : (setSource s l x).ccs = s.ccs := rfl
@[simp] theorem setSource_cvus : (setSource s l x).cvus = s.cvus := rfl
@[simp] theorem setSource_boot : (setSource s l x).boot = s.boot := rfl
@[simp] theorem setSource_upd : (setSource s l x).upd = s.upd := rfl
@[simp] theorem setSource_keep : (setSource s l x).keep = s.keep := rfl
@[simp] theorem setSource_key : (setSource s l x).key = s.key := rfl
@[simp] theorem setSource_glb : (setSource s l x).glb = s.glb := rfl
@[simp] theorem setSource_psm : (setSource s l x).psm = s.psm := rfl
@[simp] theorem setSource_lgw : (setSource s l x).lgw = s.lgw := rfl
@[simp] theorem setSource_twn : (setSource s l x).twn = s.twn := rfl
@[simp] theorem setSource_out : (setSource s l x).out = s.out := rfl
@[simp] theorem setSource_readValue : (setSource s l x).readValue = s.readValue := rfl
@[simp] theorem setSource_freeCount : (setSource s l x).freeCount = s.freeCount := rfl
end

section
variable (s : State) (p : Nat) (x : Stage)
@[simp] theorem setStage_pending : (setStage s p x).pending = s.pending := rfl
@[simp] theorem setStage_regs : (setStage s p x).regs = s.regs := rfl
@[simp] theorem setStage_fresh : (setStage s p x).fresh = s.fresh := rfl
@[simp] theorem setStage_freshAt : (setStage s p x).freshAt = s.freshAt := rfl
@[simp] theorem setStage_hif : (setStage s p x).hif = s.hif := rfl
@[simp] theorem setStage_pcie : (setStage s p x).pcie = s.pcie := rfl
@[simp] theorem setStage_tim : (setStage s p x).tim = s.tim := rfl
@[simp] theorem setStage_hoop : (setStage s p x).hoop = s.hoop := rfl
@[simp] theorem setStage_win : (setStage s p x).win = s.win := rfl
@[simp] theorem setStage_cfg : (setStage s p x).cfg = s.cfg := rfl
@[simp] theorem setStage_ing : (setStage s p x).ing = s.ing := rfl
@[simp] theorem setStage_lay : (setStage s p x).lay = s.lay := rfl
@[simp] theorem setStage_reads : (setStage s p x).reads = s.reads := rfl
@[simp] theorem setStage_package : (setStage s p x).package = s.package := rfl
@[simp] theorem setStage_spareReads : (setStage s p x).spareReads = s.spareReads := rfl
@[simp] theorem setStage_badEntry : (setStage s p x).badEntry = s.badEntry := rfl
@[simp] theorem setStage_badStep : (setStage s p x).badStep = s.badStep := rfl
@[simp] theorem setStage_col : (setStage s p x).col = s.col := rfl
@[simp] theorem setStage_run : (setStage s p x).run = s.run := rfl
@[simp] theorem setStage_live : (setStage s p x).live = s.live := rfl
@[simp] theorem setStage_sti : (setStage s p x).sti = s.sti := rfl
@[simp] theorem setStage_egr : (setStage s p x).egr = s.egr := rfl
@[simp] theorem setStage_mac : (setStage s p x).mac = s.mac := rfl
@[simp] theorem setStage_ccs : (setStage s p x).ccs = s.ccs := rfl
@[simp] theorem setStage_cvus : (setStage s p x).cvus = s.cvus := rfl
@[simp] theorem setStage_boot : (setStage s p x).boot = s.boot := rfl
@[simp] theorem setStage_upd : (setStage s p x).upd = s.upd := rfl
@[simp] theorem setStage_keep : (setStage s p x).keep = s.keep := rfl
@[simp] theorem setStage_key : (setStage s p x).key = s.key := rfl
@[simp] theorem setStage_glb : (setStage s p x).glb = s.glb := rfl
@[simp] theorem setStage_psm : (setStage s p x).psm = s.psm := rfl
@[simp] theorem setStage_lgw : (setStage s p x).lgw = s.lgw := rfl
@[simp] theorem setStage_twn : (setStage s p x).twn = s.twn := rfl
@[simp] theorem setStage_out : (setStage s p x).out = s.out := rfl
@[simp] theorem setStage_readValue : (setStage s p x).readValue = s.readValue := rfl
@[simp] theorem setStage_freeCount : (setStage s p x).freeCount = s.freeCount := rfl
end

section
variable (s : State) (c : Col)
@[simp] theorem setCol_pending : (setCol s c).pending = s.pending := rfl
@[simp] theorem setCol_regs : (setCol s c).regs = s.regs := rfl
@[simp] theorem setCol_fresh : (setCol s c).fresh = s.fresh := rfl
@[simp] theorem setCol_freshAt : (setCol s c).freshAt = s.freshAt := rfl
@[simp] theorem setCol_hif : (setCol s c).hif = s.hif := rfl
@[simp] theorem setCol_pcie : (setCol s c).pcie = s.pcie := rfl
@[simp] theorem setCol_tim : (setCol s c).tim = s.tim := rfl
@[simp] theorem setCol_hoop : (setCol s c).hoop = s.hoop := rfl
@[simp] theorem setCol_win : (setCol s c).win = s.win := rfl
@[simp] theorem setCol_cfg : (setCol s c).cfg = s.cfg := rfl
@[simp] theorem setCol_ing : (setCol s c).ing = s.ing := rfl
@[simp] theorem setCol_lay : (setCol s c).lay = s.lay := rfl
@[simp] theorem setCol_stages : (setCol s c).stages = s.stages := rfl
@[simp] theorem setCol_reads : (setCol s c).reads = s.reads := rfl
@[simp] theorem setCol_package : (setCol s c).package = s.package := rfl
@[simp] theorem setCol_spareReads : (setCol s c).spareReads = s.spareReads := rfl
@[simp] theorem setCol_badEntry : (setCol s c).badEntry = s.badEntry := rfl
@[simp] theorem setCol_badStep : (setCol s c).badStep = s.badStep := rfl
@[simp] theorem setCol_run : (setCol s c).run = s.run := rfl
@[simp] theorem setCol_live : (setCol s c).live = s.live := rfl
@[simp] theorem setCol_sti : (setCol s c).sti = s.sti := rfl
@[simp] theorem setCol_egr : (setCol s c).egr = s.egr := rfl
@[simp] theorem setCol_mac : (setCol s c).mac = s.mac := rfl
@[simp] theorem setCol_ccs : (setCol s c).ccs = s.ccs := rfl
@[simp] theorem setCol_cvus : (setCol s c).cvus = s.cvus := rfl
@[simp] theorem setCol_boot : (setCol s c).boot = s.boot := rfl
@[simp] theorem setCol_upd : (setCol s c).upd = s.upd := rfl
@[simp] theorem setCol_keep : (setCol s c).keep = s.keep := rfl
@[simp] theorem setCol_key : (setCol s c).key = s.key := rfl
@[simp] theorem setCol_glb : (setCol s c).glb = s.glb := rfl
@[simp] theorem setCol_psm : (setCol s c).psm = s.psm := rfl
@[simp] theorem setCol_lgw : (setCol s c).lgw = s.lgw := rfl
@[simp] theorem setCol_twn : (setCol s c).twn = s.twn := rfl
@[simp] theorem setCol_out : (setCol s c).out = s.out := rfl
@[simp] theorem setCol_readValue : (setCol s c).readValue = s.readValue := rfl
@[simp] theorem setCol_freeCount : (setCol s c).freeCount = s.freeCount := rfl
@[simp] theorem setCol_col : (setCol s c).col = c := rfl
end

section
variable (s : State) (m : Nat) (v : Live)
@[simp] theorem setLive_pending : (setLive s m v).pending = s.pending := rfl
@[simp] theorem setLive_regs : (setLive s m v).regs = s.regs := rfl
@[simp] theorem setLive_fresh : (setLive s m v).fresh = s.fresh := rfl
@[simp] theorem setLive_freshAt : (setLive s m v).freshAt = s.freshAt := rfl
@[simp] theorem setLive_hif : (setLive s m v).hif = s.hif := rfl
@[simp] theorem setLive_pcie : (setLive s m v).pcie = s.pcie := rfl
@[simp] theorem setLive_tim : (setLive s m v).tim = s.tim := rfl
@[simp] theorem setLive_hoop : (setLive s m v).hoop = s.hoop := rfl
@[simp] theorem setLive_win : (setLive s m v).win = s.win := rfl
@[simp] theorem setLive_cfg : (setLive s m v).cfg = s.cfg := rfl
@[simp] theorem setLive_ing : (setLive s m v).ing = s.ing := rfl
@[simp] theorem setLive_lay : (setLive s m v).lay = s.lay := rfl
@[simp] theorem setLive_stages : (setLive s m v).stages = s.stages := rfl
@[simp] theorem setLive_reads : (setLive s m v).reads = s.reads := rfl
@[simp] theorem setLive_package : (setLive s m v).package = s.package := rfl
@[simp] theorem setLive_spareReads : (setLive s m v).spareReads = s.spareReads := rfl
@[simp] theorem setLive_badEntry : (setLive s m v).badEntry = s.badEntry := rfl
@[simp] theorem setLive_badStep : (setLive s m v).badStep = s.badStep := rfl
@[simp] theorem setLive_col : (setLive s m v).col = s.col := rfl
@[simp] theorem setLive_run : (setLive s m v).run = s.run := rfl
@[simp] theorem setLive_sti : (setLive s m v).sti = s.sti := rfl
@[simp] theorem setLive_egr : (setLive s m v).egr = s.egr := rfl
@[simp] theorem setLive_mac : (setLive s m v).mac = s.mac := rfl
@[simp] theorem setLive_ccs : (setLive s m v).ccs = s.ccs := rfl
@[simp] theorem setLive_cvus : (setLive s m v).cvus = s.cvus := rfl
@[simp] theorem setLive_boot : (setLive s m v).boot = s.boot := rfl
@[simp] theorem setLive_upd : (setLive s m v).upd = s.upd := rfl
@[simp] theorem setLive_keep : (setLive s m v).keep = s.keep := rfl
@[simp] theorem setLive_key : (setLive s m v).key = s.key := rfl
@[simp] theorem setLive_glb : (setLive s m v).glb = s.glb := rfl
@[simp] theorem setLive_psm : (setLive s m v).psm = s.psm := rfl
@[simp] theorem setLive_lgw : (setLive s m v).lgw = s.lgw := rfl
@[simp] theorem setLive_twn : (setLive s m v).twn = s.twn := rfl
@[simp] theorem setLive_out : (setLive s m v).out = s.out := rfl
@[simp] theorem setLive_readValue : (setLive s m v).readValue = s.readValue := rfl
@[simp] theorem setLive_freeCount : (setLive s m v).freeCount = s.freeCount := rfl
end

section
variable (s : State) (m k : Nat) (e : Estimate)
@[simp] theorem setEst_pending : (setEst s m k e).pending = s.pending := rfl
@[simp] theorem setEst_regs : (setEst s m k e).regs = s.regs := rfl
@[simp] theorem setEst_fresh : (setEst s m k e).fresh = s.fresh := rfl
@[simp] theorem setEst_freshAt : (setEst s m k e).freshAt = s.freshAt := rfl
@[simp] theorem setEst_hif : (setEst s m k e).hif = s.hif := rfl
@[simp] theorem setEst_pcie : (setEst s m k e).pcie = s.pcie := rfl
@[simp] theorem setEst_tim : (setEst s m k e).tim = s.tim := rfl
@[simp] theorem setEst_hoop : (setEst s m k e).hoop = s.hoop := rfl
@[simp] theorem setEst_win : (setEst s m k e).win = s.win := rfl
@[simp] theorem setEst_cfg : (setEst s m k e).cfg = s.cfg := rfl
@[simp] theorem setEst_ing : (setEst s m k e).ing = s.ing := rfl
@[simp] theorem setEst_lay : (setEst s m k e).lay = s.lay := rfl
@[simp] theorem setEst_stages : (setEst s m k e).stages = s.stages := rfl
@[simp] theorem setEst_reads : (setEst s m k e).reads = s.reads := rfl
@[simp] theorem setEst_package : (setEst s m k e).package = s.package := rfl
@[simp] theorem setEst_spareReads : (setEst s m k e).spareReads = s.spareReads := rfl
@[simp] theorem setEst_badEntry : (setEst s m k e).badEntry = s.badEntry := rfl
@[simp] theorem setEst_badStep : (setEst s m k e).badStep = s.badStep := rfl
@[simp] theorem setEst_run : (setEst s m k e).run = s.run := rfl
@[simp] theorem setEst_live : (setEst s m k e).live = s.live := rfl
@[simp] theorem setEst_sti : (setEst s m k e).sti = s.sti := rfl
@[simp] theorem setEst_egr : (setEst s m k e).egr = s.egr := rfl
@[simp] theorem setEst_mac : (setEst s m k e).mac = s.mac := rfl
@[simp] theorem setEst_ccs : (setEst s m k e).ccs = s.ccs := rfl
@[simp] theorem setEst_cvus : (setEst s m k e).cvus = s.cvus := rfl
@[simp] theorem setEst_boot : (setEst s m k e).boot = s.boot := rfl
@[simp] theorem setEst_upd : (setEst s m k e).upd = s.upd := rfl
@[simp] theorem setEst_keep : (setEst s m k e).keep = s.keep := rfl
@[simp] theorem setEst_key : (setEst s m k e).key = s.key := rfl
@[simp] theorem setEst_glb : (setEst s m k e).glb = s.glb := rfl
@[simp] theorem setEst_psm : (setEst s m k e).psm = s.psm := rfl
@[simp] theorem setEst_lgw : (setEst s m k e).lgw = s.lgw := rfl
@[simp] theorem setEst_twn : (setEst s m k e).twn = s.twn := rfl
@[simp] theorem setEst_out : (setEst s m k e).out = s.out := rfl
@[simp] theorem setEst_readValue : (setEst s m k e).readValue = s.readValue := rfl
@[simp] theorem setEst_freeCount : (setEst s m k e).freeCount = s.freeCount := rfl
end

section
variable (s : State) (n : Nat) (bs : List Byte)
@[simp] theorem programSector_pending : (programSector s n bs).pending = s.pending := rfl
@[simp] theorem programSector_regs : (programSector s n bs).regs = s.regs := rfl
@[simp] theorem programSector_fresh : (programSector s n bs).fresh = s.fresh := rfl
@[simp] theorem programSector_freshAt : (programSector s n bs).freshAt = s.freshAt := rfl
@[simp] theorem programSector_hif : (programSector s n bs).hif = s.hif := rfl
@[simp] theorem programSector_pcie : (programSector s n bs).pcie = s.pcie := rfl
@[simp] theorem programSector_tim : (programSector s n bs).tim = s.tim := rfl
@[simp] theorem programSector_hoop : (programSector s n bs).hoop = s.hoop := rfl
@[simp] theorem programSector_win : (programSector s n bs).win = s.win := rfl
@[simp] theorem programSector_cfg : (programSector s n bs).cfg = s.cfg := rfl
@[simp] theorem programSector_ing : (programSector s n bs).ing = s.ing := rfl
@[simp] theorem programSector_lay : (programSector s n bs).lay = s.lay := rfl
@[simp] theorem programSector_stages : (programSector s n bs).stages = s.stages := rfl
@[simp] theorem programSector_reads : (programSector s n bs).reads = s.reads := rfl
@[simp] theorem programSector_package : (programSector s n bs).package = s.package := rfl
@[simp] theorem programSector_spareReads : (programSector s n bs).spareReads = s.spareReads := rfl
@[simp] theorem programSector_badEntry : (programSector s n bs).badEntry = s.badEntry := rfl
@[simp] theorem programSector_badStep : (programSector s n bs).badStep = s.badStep := rfl
@[simp] theorem programSector_col : (programSector s n bs).col = s.col := rfl
@[simp] theorem programSector_run : (programSector s n bs).run = s.run := rfl
@[simp] theorem programSector_live : (programSector s n bs).live = s.live := rfl
@[simp] theorem programSector_sti : (programSector s n bs).sti = s.sti := rfl
@[simp] theorem programSector_egr : (programSector s n bs).egr = s.egr := rfl
@[simp] theorem programSector_mac : (programSector s n bs).mac = s.mac := rfl
@[simp] theorem programSector_ccs : (programSector s n bs).ccs = s.ccs := rfl
@[simp] theorem programSector_cvus : (programSector s n bs).cvus = s.cvus := rfl
@[simp] theorem programSector_boot : (programSector s n bs).boot = s.boot := rfl
@[simp] theorem programSector_upd : (programSector s n bs).upd = s.upd := rfl
@[simp] theorem programSector_key : (programSector s n bs).key = s.key := rfl
@[simp] theorem programSector_glb : (programSector s n bs).glb = s.glb := rfl
@[simp] theorem programSector_psm : (programSector s n bs).psm = s.psm := rfl
@[simp] theorem programSector_lgw : (programSector s n bs).lgw = s.lgw := rfl
@[simp] theorem programSector_twn : (programSector s n bs).twn = s.twn := rfl
@[simp] theorem programSector_out : (programSector s n bs).out = s.out := rfl
@[simp] theorem programSector_readValue : (programSector s n bs).readValue = s.readValue := rfl
@[simp] theorem programSector_freeCount : (programSector s n bs).freeCount = s.freeCount := rfl
end

section
variable (s : State) (k : Key)
@[simp] theorem setKey_pending : (setKey s k).pending = s.pending := rfl
@[simp] theorem setKey_regs : (setKey s k).regs = s.regs := rfl
@[simp] theorem setKey_fresh : (setKey s k).fresh = s.fresh := rfl
@[simp] theorem setKey_freshAt : (setKey s k).freshAt = s.freshAt := rfl
@[simp] theorem setKey_hif : (setKey s k).hif = s.hif := rfl
@[simp] theorem setKey_pcie : (setKey s k).pcie = s.pcie := rfl
@[simp] theorem setKey_tim : (setKey s k).tim = s.tim := rfl
@[simp] theorem setKey_hoop : (setKey s k).hoop = s.hoop := rfl
@[simp] theorem setKey_win : (setKey s k).win = s.win := rfl
@[simp] theorem setKey_cfg : (setKey s k).cfg = s.cfg := rfl
@[simp] theorem setKey_ing : (setKey s k).ing = s.ing := rfl
@[simp] theorem setKey_lay : (setKey s k).lay = s.lay := rfl
@[simp] theorem setKey_stages : (setKey s k).stages = s.stages := rfl
@[simp] theorem setKey_reads : (setKey s k).reads = s.reads := rfl
@[simp] theorem setKey_package : (setKey s k).package = s.package := rfl
@[simp] theorem setKey_spareReads : (setKey s k).spareReads = s.spareReads := rfl
@[simp] theorem setKey_badEntry : (setKey s k).badEntry = s.badEntry := rfl
@[simp] theorem setKey_badStep : (setKey s k).badStep = s.badStep := rfl
@[simp] theorem setKey_col : (setKey s k).col = s.col := rfl
@[simp] theorem setKey_run : (setKey s k).run = s.run := rfl
@[simp] theorem setKey_live : (setKey s k).live = s.live := rfl
@[simp] theorem setKey_sti : (setKey s k).sti = s.sti := rfl
@[simp] theorem setKey_egr : (setKey s k).egr = s.egr := rfl
@[simp] theorem setKey_mac : (setKey s k).mac = s.mac := rfl
@[simp] theorem setKey_ccs : (setKey s k).ccs = s.ccs := rfl
@[simp] theorem setKey_cvus : (setKey s k).cvus = s.cvus := rfl
@[simp] theorem setKey_boot : (setKey s k).boot = s.boot := rfl
@[simp] theorem setKey_upd : (setKey s k).upd = s.upd := rfl
@[simp] theorem setKey_keep : (setKey s k).keep = s.keep := rfl
@[simp] theorem setKey_glb : (setKey s k).glb = s.glb := rfl
@[simp] theorem setKey_psm : (setKey s k).psm = s.psm := rfl
@[simp] theorem setKey_lgw : (setKey s k).lgw = s.lgw := rfl
@[simp] theorem setKey_twn : (setKey s k).twn = s.twn := rfl
@[simp] theorem setKey_out : (setKey s k).out = s.out := rfl
@[simp] theorem setKey_readValue : (setKey s k).readValue = s.readValue := rfl
@[simp] theorem setKey_freeCount : (setKey s k).freeCount = s.freeCount := rfl
@[simp] theorem setKey_key : (setKey s k).key = k := rfl
end

section
variable (s : State) (k : Nat) (x : KeySlot)
@[simp] theorem setSlot_pending : (setSlot s k x).pending = s.pending := rfl
@[simp] theorem setSlot_regs : (setSlot s k x).regs = s.regs := rfl
@[simp] theorem setSlot_fresh : (setSlot s k x).fresh = s.fresh := rfl
@[simp] theorem setSlot_freshAt : (setSlot s k x).freshAt = s.freshAt := rfl
@[simp] theorem setSlot_hif : (setSlot s k x).hif = s.hif := rfl
@[simp] theorem setSlot_pcie : (setSlot s k x).pcie = s.pcie := rfl
@[simp] theorem setSlot_tim : (setSlot s k x).tim = s.tim := rfl
@[simp] theorem setSlot_hoop : (setSlot s k x).hoop = s.hoop := rfl
@[simp] theorem setSlot_win : (setSlot s k x).win = s.win := rfl
@[simp] theorem setSlot_cfg : (setSlot s k x).cfg = s.cfg := rfl
@[simp] theorem setSlot_ing : (setSlot s k x).ing = s.ing := rfl
@[simp] theorem setSlot_lay : (setSlot s k x).lay = s.lay := rfl
@[simp] theorem setSlot_stages : (setSlot s k x).stages = s.stages := rfl
@[simp] theorem setSlot_reads : (setSlot s k x).reads = s.reads := rfl
@[simp] theorem setSlot_package : (setSlot s k x).package = s.package := rfl
@[simp] theorem setSlot_spareReads : (setSlot s k x).spareReads = s.spareReads := rfl
@[simp] theorem setSlot_badEntry : (setSlot s k x).badEntry = s.badEntry := rfl
@[simp] theorem setSlot_badStep : (setSlot s k x).badStep = s.badStep := rfl
@[simp] theorem setSlot_col : (setSlot s k x).col = s.col := rfl
@[simp] theorem setSlot_run : (setSlot s k x).run = s.run := rfl
@[simp] theorem setSlot_live : (setSlot s k x).live = s.live := rfl
@[simp] theorem setSlot_sti : (setSlot s k x).sti = s.sti := rfl
@[simp] theorem setSlot_egr : (setSlot s k x).egr = s.egr := rfl
@[simp] theorem setSlot_mac : (setSlot s k x).mac = s.mac := rfl
@[simp] theorem setSlot_ccs : (setSlot s k x).ccs = s.ccs := rfl
@[simp] theorem setSlot_cvus : (setSlot s k x).cvus = s.cvus := rfl
@[simp] theorem setSlot_boot : (setSlot s k x).boot = s.boot := rfl
@[simp] theorem setSlot_upd : (setSlot s k x).upd = s.upd := rfl
@[simp] theorem setSlot_keep : (setSlot s k x).keep = s.keep := rfl
@[simp] theorem setSlot_glb : (setSlot s k x).glb = s.glb := rfl
@[simp] theorem setSlot_psm : (setSlot s k x).psm = s.psm := rfl
@[simp] theorem setSlot_lgw : (setSlot s k x).lgw = s.lgw := rfl
@[simp] theorem setSlot_twn : (setSlot s k x).twn = s.twn := rfl
@[simp] theorem setSlot_out : (setSlot s k x).out = s.out := rfl
@[simp] theorem setSlot_readValue : (setSlot s k x).readValue = s.readValue := rfl
@[simp] theorem setSlot_freeCount : (setSlot s k x).freeCount = s.freeCount := rfl
end

section
variable (s : State) (g : Nat) (x : Lane)
@[simp] theorem setLane_pending : (setLane s g x).pending = s.pending := rfl
@[simp] theorem setLane_regs : (setLane s g x).regs = s.regs := rfl
@[simp] theorem setLane_fresh : (setLane s g x).fresh = s.fresh := rfl
@[simp] theorem setLane_freshAt : (setLane s g x).freshAt = s.freshAt := rfl
@[simp] theorem setLane_hif : (setLane s g x).hif = s.hif := rfl
@[simp] theorem setLane_pcie : (setLane s g x).pcie = s.pcie := rfl
@[simp] theorem setLane_tim : (setLane s g x).tim = s.tim := rfl
@[simp] theorem setLane_hoop : (setLane s g x).hoop = s.hoop := rfl
@[simp] theorem setLane_win : (setLane s g x).win = s.win := rfl
@[simp] theorem setLane_cfg : (setLane s g x).cfg = s.cfg := rfl
@[simp] theorem setLane_ing : (setLane s g x).ing = s.ing := rfl
@[simp] theorem setLane_lay : (setLane s g x).lay = s.lay := rfl
@[simp] theorem setLane_stages : (setLane s g x).stages = s.stages := rfl
@[simp] theorem setLane_reads : (setLane s g x).reads = s.reads := rfl
@[simp] theorem setLane_package : (setLane s g x).package = s.package := rfl
@[simp] theorem setLane_spareReads : (setLane s g x).spareReads = s.spareReads := rfl
@[simp] theorem setLane_badEntry : (setLane s g x).badEntry = s.badEntry := rfl
@[simp] theorem setLane_badStep : (setLane s g x).badStep = s.badStep := rfl
@[simp] theorem setLane_col : (setLane s g x).col = s.col := rfl
@[simp] theorem setLane_run : (setLane s g x).run = s.run := rfl
@[simp] theorem setLane_live : (setLane s g x).live = s.live := rfl
@[simp] theorem setLane_egr : (setLane s g x).egr = s.egr := rfl
@[simp] theorem setLane_mac : (setLane s g x).mac = s.mac := rfl
@[simp] theorem setLane_ccs : (setLane s g x).ccs = s.ccs := rfl
@[simp] theorem setLane_cvus : (setLane s g x).cvus = s.cvus := rfl
@[simp] theorem setLane_boot : (setLane s g x).boot = s.boot := rfl
@[simp] theorem setLane_upd : (setLane s g x).upd = s.upd := rfl
@[simp] theorem setLane_keep : (setLane s g x).keep = s.keep := rfl
@[simp] theorem setLane_key : (setLane s g x).key = s.key := rfl
@[simp] theorem setLane_glb : (setLane s g x).glb = s.glb := rfl
@[simp] theorem setLane_psm : (setLane s g x).psm = s.psm := rfl
@[simp] theorem setLane_lgw : (setLane s g x).lgw = s.lgw := rfl
@[simp] theorem setLane_twn : (setLane s g x).twn = s.twn := rfl
@[simp] theorem setLane_out : (setLane s g x).out = s.out := rfl
@[simp] theorem setLane_readValue : (setLane s g x).readValue = s.readValue := rfl
@[simp] theorem setLane_freeCount : (setLane s g x).freeCount = s.freeCount := rfl
end

section
variable (s : State) (p : Nat) (x : MacPort)
@[simp] theorem setPort_pending : (setPort s p x).pending = s.pending := rfl
@[simp] theorem setPort_regs : (setPort s p x).regs = s.regs := rfl
@[simp] theorem setPort_fresh : (setPort s p x).fresh = s.fresh := rfl
@[simp] theorem setPort_freshAt : (setPort s p x).freshAt = s.freshAt := rfl
@[simp] theorem setPort_hif : (setPort s p x).hif = s.hif := rfl
@[simp] theorem setPort_pcie : (setPort s p x).pcie = s.pcie := rfl
@[simp] theorem setPort_tim : (setPort s p x).tim = s.tim := rfl
@[simp] theorem setPort_hoop : (setPort s p x).hoop = s.hoop := rfl
@[simp] theorem setPort_win : (setPort s p x).win = s.win := rfl
@[simp] theorem setPort_cfg : (setPort s p x).cfg = s.cfg := rfl
@[simp] theorem setPort_ing : (setPort s p x).ing = s.ing := rfl
@[simp] theorem setPort_lay : (setPort s p x).lay = s.lay := rfl
@[simp] theorem setPort_stages : (setPort s p x).stages = s.stages := rfl
@[simp] theorem setPort_reads : (setPort s p x).reads = s.reads := rfl
@[simp] theorem setPort_package : (setPort s p x).package = s.package := rfl
@[simp] theorem setPort_spareReads : (setPort s p x).spareReads = s.spareReads := rfl
@[simp] theorem setPort_badEntry : (setPort s p x).badEntry = s.badEntry := rfl
@[simp] theorem setPort_badStep : (setPort s p x).badStep = s.badStep := rfl
@[simp] theorem setPort_col : (setPort s p x).col = s.col := rfl
@[simp] theorem setPort_run : (setPort s p x).run = s.run := rfl
@[simp] theorem setPort_live : (setPort s p x).live = s.live := rfl
@[simp] theorem setPort_sti : (setPort s p x).sti = s.sti := rfl
@[simp] theorem setPort_egr : (setPort s p x).egr = s.egr := rfl
@[simp] theorem setPort_ccs : (setPort s p x).ccs = s.ccs := rfl
@[simp] theorem setPort_cvus : (setPort s p x).cvus = s.cvus := rfl
@[simp] theorem setPort_boot : (setPort s p x).boot = s.boot := rfl
@[simp] theorem setPort_upd : (setPort s p x).upd = s.upd := rfl
@[simp] theorem setPort_keep : (setPort s p x).keep = s.keep := rfl
@[simp] theorem setPort_key : (setPort s p x).key = s.key := rfl
@[simp] theorem setPort_glb : (setPort s p x).glb = s.glb := rfl
@[simp] theorem setPort_psm : (setPort s p x).psm = s.psm := rfl
@[simp] theorem setPort_lgw : (setPort s p x).lgw = s.lgw := rfl
@[simp] theorem setPort_twn : (setPort s p x).twn = s.twn := rfl
@[simp] theorem setPort_out : (setPort s p x).out = s.out := rfl
@[simp] theorem setPort_readValue : (setPort s p x).readValue = s.readValue := rfl
@[simp] theorem setPort_freeCount : (setPort s p x).freeCount = s.freeCount := rfl
end

section
variable (s : State) (p : Nat) (x : EgrPort)
@[simp] theorem setEgr_pending : (setEgr s p x).pending = s.pending := rfl
@[simp] theorem setEgr_regs : (setEgr s p x).regs = s.regs := rfl
@[simp] theorem setEgr_fresh : (setEgr s p x).fresh = s.fresh := rfl
@[simp] theorem setEgr_freshAt : (setEgr s p x).freshAt = s.freshAt := rfl
@[simp] theorem setEgr_hif : (setEgr s p x).hif = s.hif := rfl
@[simp] theorem setEgr_pcie : (setEgr s p x).pcie = s.pcie := rfl
@[simp] theorem setEgr_tim : (setEgr s p x).tim = s.tim := rfl
@[simp] theorem setEgr_hoop : (setEgr s p x).hoop = s.hoop := rfl
@[simp] theorem setEgr_win : (setEgr s p x).win = s.win := rfl
@[simp] theorem setEgr_cfg : (setEgr s p x).cfg = s.cfg := rfl
@[simp] theorem setEgr_ing : (setEgr s p x).ing = s.ing := rfl
@[simp] theorem setEgr_lay : (setEgr s p x).lay = s.lay := rfl
@[simp] theorem setEgr_stages : (setEgr s p x).stages = s.stages := rfl
@[simp] theorem setEgr_reads : (setEgr s p x).reads = s.reads := rfl
@[simp] theorem setEgr_package : (setEgr s p x).package = s.package := rfl
@[simp] theorem setEgr_spareReads : (setEgr s p x).spareReads = s.spareReads := rfl
@[simp] theorem setEgr_badEntry : (setEgr s p x).badEntry = s.badEntry := rfl
@[simp] theorem setEgr_badStep : (setEgr s p x).badStep = s.badStep := rfl
@[simp] theorem setEgr_col : (setEgr s p x).col = s.col := rfl
@[simp] theorem setEgr_run : (setEgr s p x).run = s.run := rfl
@[simp] theorem setEgr_live : (setEgr s p x).live = s.live := rfl
@[simp] theorem setEgr_sti : (setEgr s p x).sti = s.sti := rfl
@[simp] theorem setEgr_mac : (setEgr s p x).mac = s.mac := rfl
@[simp] theorem setEgr_ccs : (setEgr s p x).ccs = s.ccs := rfl
@[simp] theorem setEgr_cvus : (setEgr s p x).cvus = s.cvus := rfl
@[simp] theorem setEgr_boot : (setEgr s p x).boot = s.boot := rfl
@[simp] theorem setEgr_upd : (setEgr s p x).upd = s.upd := rfl
@[simp] theorem setEgr_keep : (setEgr s p x).keep = s.keep := rfl
@[simp] theorem setEgr_key : (setEgr s p x).key = s.key := rfl
@[simp] theorem setEgr_glb : (setEgr s p x).glb = s.glb := rfl
@[simp] theorem setEgr_psm : (setEgr s p x).psm = s.psm := rfl
@[simp] theorem setEgr_lgw : (setEgr s p x).lgw = s.lgw := rfl
@[simp] theorem setEgr_twn : (setEgr s p x).twn = s.twn := rfl
@[simp] theorem setEgr_out : (setEgr s p x).out = s.out := rfl
@[simp] theorem setEgr_readValue : (setEgr s p x).readValue = s.readValue := rfl
@[simp] theorem setEgr_freeCount : (setEgr s p x).freeCount = s.freeCount := rfl
end

section
variable (s : State) (e : Egr)
@[simp] theorem setEgress_pending : (setEgress s e).pending = s.pending := rfl
@[simp] theorem setEgress_regs : (setEgress s e).regs = s.regs := rfl
@[simp] theorem setEgress_fresh : (setEgress s e).fresh = s.fresh := rfl
@[simp] theorem setEgress_freshAt : (setEgress s e).freshAt = s.freshAt := rfl
@[simp] theorem setEgress_hif : (setEgress s e).hif = s.hif := rfl
@[simp] theorem setEgress_pcie : (setEgress s e).pcie = s.pcie := rfl
@[simp] theorem setEgress_tim : (setEgress s e).tim = s.tim := rfl
@[simp] theorem setEgress_hoop : (setEgress s e).hoop = s.hoop := rfl
@[simp] theorem setEgress_win : (setEgress s e).win = s.win := rfl
@[simp] theorem setEgress_cfg : (setEgress s e).cfg = s.cfg := rfl
@[simp] theorem setEgress_ing : (setEgress s e).ing = s.ing := rfl
@[simp] theorem setEgress_lay : (setEgress s e).lay = s.lay := rfl
@[simp] theorem setEgress_stages : (setEgress s e).stages = s.stages := rfl
@[simp] theorem setEgress_reads : (setEgress s e).reads = s.reads := rfl
@[simp] theorem setEgress_package : (setEgress s e).package = s.package := rfl
@[simp] theorem setEgress_spareReads : (setEgress s e).spareReads = s.spareReads := rfl
@[simp] theorem setEgress_badEntry : (setEgress s e).badEntry = s.badEntry := rfl
@[simp] theorem setEgress_badStep : (setEgress s e).badStep = s.badStep := rfl
@[simp] theorem setEgress_col : (setEgress s e).col = s.col := rfl
@[simp] theorem setEgress_run : (setEgress s e).run = s.run := rfl
@[simp] theorem setEgress_live : (setEgress s e).live = s.live := rfl
@[simp] theorem setEgress_sti : (setEgress s e).sti = s.sti := rfl
@[simp] theorem setEgress_mac : (setEgress s e).mac = s.mac := rfl
@[simp] theorem setEgress_ccs : (setEgress s e).ccs = s.ccs := rfl
@[simp] theorem setEgress_cvus : (setEgress s e).cvus = s.cvus := rfl
@[simp] theorem setEgress_boot : (setEgress s e).boot = s.boot := rfl
@[simp] theorem setEgress_upd : (setEgress s e).upd = s.upd := rfl
@[simp] theorem setEgress_keep : (setEgress s e).keep = s.keep := rfl
@[simp] theorem setEgress_key : (setEgress s e).key = s.key := rfl
@[simp] theorem setEgress_glb : (setEgress s e).glb = s.glb := rfl
@[simp] theorem setEgress_psm : (setEgress s e).psm = s.psm := rfl
@[simp] theorem setEgress_lgw : (setEgress s e).lgw = s.lgw := rfl
@[simp] theorem setEgress_twn : (setEgress s e).twn = s.twn := rfl
@[simp] theorem setEgress_out : (setEgress s e).out = s.out := rfl
@[simp] theorem setEgress_readValue : (setEgress s e).readValue = s.readValue := rfl
@[simp] theorem setEgress_freeCount : (setEgress s e).freeCount = s.freeCount := rfl
@[simp] theorem setEgress_egr : (setEgress s e).egr = e := rfl
end

section
variable (s : State) (p k : Nat) (f : List Byte)
@[simp] theorem putFrame_pending : (putFrame s p k f).pending = s.pending := rfl
@[simp] theorem putFrame_regs : (putFrame s p k f).regs = s.regs := rfl
@[simp] theorem putFrame_fresh : (putFrame s p k f).fresh = s.fresh := rfl
@[simp] theorem putFrame_freshAt : (putFrame s p k f).freshAt = s.freshAt := rfl
@[simp] theorem putFrame_hif : (putFrame s p k f).hif = s.hif := rfl
@[simp] theorem putFrame_pcie : (putFrame s p k f).pcie = s.pcie := rfl
@[simp] theorem putFrame_tim : (putFrame s p k f).tim = s.tim := rfl
@[simp] theorem putFrame_hoop : (putFrame s p k f).hoop = s.hoop := rfl
@[simp] theorem putFrame_win : (putFrame s p k f).win = s.win := rfl
@[simp] theorem putFrame_cfg : (putFrame s p k f).cfg = s.cfg := rfl
@[simp] theorem putFrame_ing : (putFrame s p k f).ing = s.ing := rfl
@[simp] theorem putFrame_lay : (putFrame s p k f).lay = s.lay := rfl
@[simp] theorem putFrame_stages : (putFrame s p k f).stages = s.stages := rfl
@[simp] theorem putFrame_reads : (putFrame s p k f).reads = s.reads := rfl
@[simp] theorem putFrame_package : (putFrame s p k f).package = s.package := rfl
@[simp] theorem putFrame_spareReads : (putFrame s p k f).spareReads = s.spareReads := rfl
@[simp] theorem putFrame_badEntry : (putFrame s p k f).badEntry = s.badEntry := rfl
@[simp] theorem putFrame_badStep : (putFrame s p k f).badStep = s.badStep := rfl
@[simp] theorem putFrame_col : (putFrame s p k f).col = s.col := rfl
@[simp] theorem putFrame_live : (putFrame s p k f).live = s.live := rfl
@[simp] theorem putFrame_sti : (putFrame s p k f).sti = s.sti := rfl
@[simp] theorem putFrame_egr : (putFrame s p k f).egr = s.egr := rfl
@[simp] theorem putFrame_mac : (putFrame s p k f).mac = s.mac := rfl
@[simp] theorem putFrame_ccs : (putFrame s p k f).ccs = s.ccs := rfl
@[simp] theorem putFrame_cvus : (putFrame s p k f).cvus = s.cvus := rfl
@[simp] theorem putFrame_boot : (putFrame s p k f).boot = s.boot := rfl
@[simp] theorem putFrame_upd : (putFrame s p k f).upd = s.upd := rfl
@[simp] theorem putFrame_keep : (putFrame s p k f).keep = s.keep := rfl
@[simp] theorem putFrame_key : (putFrame s p k f).key = s.key := rfl
@[simp] theorem putFrame_glb : (putFrame s p k f).glb = s.glb := rfl
@[simp] theorem putFrame_psm : (putFrame s p k f).psm = s.psm := rfl
@[simp] theorem putFrame_lgw : (putFrame s p k f).lgw = s.lgw := rfl
@[simp] theorem putFrame_twn : (putFrame s p k f).twn = s.twn := rfl
@[simp] theorem putFrame_out : (putFrame s p k f).out = s.out := rfl
@[simp] theorem putFrame_readValue : (putFrame s p k f).readValue = s.readValue := rfl
@[simp] theorem putFrame_freeCount : (putFrame s p k f).freeCount = s.freeCount := rfl
end

section
variable (s : State) (r : Run)
@[simp] theorem setRun_pending : (setRun s r).pending = s.pending := rfl
@[simp] theorem setRun_regs : (setRun s r).regs = s.regs := rfl
@[simp] theorem setRun_fresh : (setRun s r).fresh = s.fresh := rfl
@[simp] theorem setRun_freshAt : (setRun s r).freshAt = s.freshAt := rfl
@[simp] theorem setRun_hif : (setRun s r).hif = s.hif := rfl
@[simp] theorem setRun_pcie : (setRun s r).pcie = s.pcie := rfl
@[simp] theorem setRun_tim : (setRun s r).tim = s.tim := rfl
@[simp] theorem setRun_hoop : (setRun s r).hoop = s.hoop := rfl
@[simp] theorem setRun_win : (setRun s r).win = s.win := rfl
@[simp] theorem setRun_cfg : (setRun s r).cfg = s.cfg := rfl
@[simp] theorem setRun_ing : (setRun s r).ing = s.ing := rfl
@[simp] theorem setRun_lay : (setRun s r).lay = s.lay := rfl
@[simp] theorem setRun_stages : (setRun s r).stages = s.stages := rfl
@[simp] theorem setRun_reads : (setRun s r).reads = s.reads := rfl
@[simp] theorem setRun_package : (setRun s r).package = s.package := rfl
@[simp] theorem setRun_spareReads : (setRun s r).spareReads = s.spareReads := rfl
@[simp] theorem setRun_badEntry : (setRun s r).badEntry = s.badEntry := rfl
@[simp] theorem setRun_badStep : (setRun s r).badStep = s.badStep := rfl
@[simp] theorem setRun_col : (setRun s r).col = s.col := rfl
@[simp] theorem setRun_live : (setRun s r).live = s.live := rfl
@[simp] theorem setRun_sti : (setRun s r).sti = s.sti := rfl
@[simp] theorem setRun_egr : (setRun s r).egr = s.egr := rfl
@[simp] theorem setRun_mac : (setRun s r).mac = s.mac := rfl
@[simp] theorem setRun_ccs : (setRun s r).ccs = s.ccs := rfl
@[simp] theorem setRun_cvus : (setRun s r).cvus = s.cvus := rfl
@[simp] theorem setRun_boot : (setRun s r).boot = s.boot := rfl
@[simp] theorem setRun_upd : (setRun s r).upd = s.upd := rfl
@[simp] theorem setRun_keep : (setRun s r).keep = s.keep := rfl
@[simp] theorem setRun_key : (setRun s r).key = s.key := rfl
@[simp] theorem setRun_glb : (setRun s r).glb = s.glb := rfl
@[simp] theorem setRun_psm : (setRun s r).psm = s.psm := rfl
@[simp] theorem setRun_lgw : (setRun s r).lgw = s.lgw := rfl
@[simp] theorem setRun_twn : (setRun s r).twn = s.twn := rfl
@[simp] theorem setRun_out : (setRun s r).out = s.out := rfl
@[simp] theorem setRun_readValue : (setRun s r).readValue = s.readValue := rfl
@[simp] theorem setRun_freeCount : (setRun s r).freeCount = s.freeCount := rfl
@[simp] theorem setRun_run : (setRun s r).run = r := rfl
end

section
variable (s : State) (t : Twn)
@[simp] theorem setTwn_pending : (setTwn s t).pending = s.pending := rfl
@[simp] theorem setTwn_regs : (setTwn s t).regs = s.regs := rfl
@[simp] theorem setTwn_fresh : (setTwn s t).fresh = s.fresh := rfl
@[simp] theorem setTwn_freshAt : (setTwn s t).freshAt = s.freshAt := rfl
@[simp] theorem setTwn_hif : (setTwn s t).hif = s.hif := rfl
@[simp] theorem setTwn_pcie : (setTwn s t).pcie = s.pcie := rfl
@[simp] theorem setTwn_tim : (setTwn s t).tim = s.tim := rfl
@[simp] theorem setTwn_hoop : (setTwn s t).hoop = s.hoop := rfl
@[simp] theorem setTwn_win : (setTwn s t).win = s.win := rfl
@[simp] theorem setTwn_cfg : (setTwn s t).cfg = s.cfg := rfl
@[simp] theorem setTwn_ing : (setTwn s t).ing = s.ing := rfl
@[simp] theorem setTwn_lay : (setTwn s t).lay = s.lay := rfl
@[simp] theorem setTwn_stages : (setTwn s t).stages = s.stages := rfl
@[simp] theorem setTwn_reads : (setTwn s t).reads = s.reads := rfl
@[simp] theorem setTwn_package : (setTwn s t).package = s.package := rfl
@[simp] theorem setTwn_spareReads : (setTwn s t).spareReads = s.spareReads := rfl
@[simp] theorem setTwn_badEntry : (setTwn s t).badEntry = s.badEntry := rfl
@[simp] theorem setTwn_badStep : (setTwn s t).badStep = s.badStep := rfl
@[simp] theorem setTwn_col : (setTwn s t).col = s.col := rfl
@[simp] theorem setTwn_run : (setTwn s t).run = s.run := rfl
@[simp] theorem setTwn_live : (setTwn s t).live = s.live := rfl
@[simp] theorem setTwn_sti : (setTwn s t).sti = s.sti := rfl
@[simp] theorem setTwn_egr : (setTwn s t).egr = s.egr := rfl
@[simp] theorem setTwn_mac : (setTwn s t).mac = s.mac := rfl
@[simp] theorem setTwn_ccs : (setTwn s t).ccs = s.ccs := rfl
@[simp] theorem setTwn_cvus : (setTwn s t).cvus = s.cvus := rfl
@[simp] theorem setTwn_boot : (setTwn s t).boot = s.boot := rfl
@[simp] theorem setTwn_upd : (setTwn s t).upd = s.upd := rfl
@[simp] theorem setTwn_keep : (setTwn s t).keep = s.keep := rfl
@[simp] theorem setTwn_key : (setTwn s t).key = s.key := rfl
@[simp] theorem setTwn_glb : (setTwn s t).glb = s.glb := rfl
@[simp] theorem setTwn_psm : (setTwn s t).psm = s.psm := rfl
@[simp] theorem setTwn_lgw : (setTwn s t).lgw = s.lgw := rfl
@[simp] theorem setTwn_out : (setTwn s t).out = s.out := rfl
@[simp] theorem setTwn_readValue : (setTwn s t).readValue = s.readValue := rfl
@[simp] theorem setTwn_freeCount : (setTwn s t).freeCount = s.freeCount := rfl
@[simp] theorem setTwn_twn : (setTwn s t).twn = t := rfl
end

section
variable (s : State) (b : Boot)
@[simp] theorem setBoot_pending : (setBoot s b).pending = s.pending := rfl
@[simp] theorem setBoot_regs : (setBoot s b).regs = s.regs := rfl
@[simp] theorem setBoot_fresh : (setBoot s b).fresh = s.fresh := rfl
@[simp] theorem setBoot_freshAt : (setBoot s b).freshAt = s.freshAt := rfl
@[simp] theorem setBoot_hif : (setBoot s b).hif = s.hif := rfl
@[simp] theorem setBoot_pcie : (setBoot s b).pcie = s.pcie := rfl
@[simp] theorem setBoot_tim : (setBoot s b).tim = s.tim := rfl
@[simp] theorem setBoot_hoop : (setBoot s b).hoop = s.hoop := rfl
@[simp] theorem setBoot_win : (setBoot s b).win = s.win := rfl
@[simp] theorem setBoot_cfg : (setBoot s b).cfg = s.cfg := rfl
@[simp] theorem setBoot_ing : (setBoot s b).ing = s.ing := rfl
@[simp] theorem setBoot_lay : (setBoot s b).lay = s.lay := rfl
@[simp] theorem setBoot_stages : (setBoot s b).stages = s.stages := rfl
@[simp] theorem setBoot_reads : (setBoot s b).reads = s.reads := rfl
@[simp] theorem setBoot_package : (setBoot s b).package = s.package := rfl
@[simp] theorem setBoot_spareReads : (setBoot s b).spareReads = s.spareReads := rfl
@[simp] theorem setBoot_badEntry : (setBoot s b).badEntry = s.badEntry := rfl
@[simp] theorem setBoot_badStep : (setBoot s b).badStep = s.badStep := rfl
@[simp] theorem setBoot_col : (setBoot s b).col = s.col := rfl
@[simp] theorem setBoot_run : (setBoot s b).run = s.run := rfl
@[simp] theorem setBoot_live : (setBoot s b).live = s.live := rfl
@[simp] theorem setBoot_sti : (setBoot s b).sti = s.sti := rfl
@[simp] theorem setBoot_egr : (setBoot s b).egr = s.egr := rfl
@[simp] theorem setBoot_mac : (setBoot s b).mac = s.mac := rfl
@[simp] theorem setBoot_ccs : (setBoot s b).ccs = s.ccs := rfl
@[simp] theorem setBoot_cvus : (setBoot s b).cvus = s.cvus := rfl
@[simp] theorem setBoot_upd : (setBoot s b).upd = s.upd := rfl
@[simp] theorem setBoot_keep : (setBoot s b).keep = s.keep := rfl
@[simp] theorem setBoot_key : (setBoot s b).key = s.key := rfl
@[simp] theorem setBoot_glb : (setBoot s b).glb = s.glb := rfl
@[simp] theorem setBoot_psm : (setBoot s b).psm = s.psm := rfl
@[simp] theorem setBoot_lgw : (setBoot s b).lgw = s.lgw := rfl
@[simp] theorem setBoot_twn : (setBoot s b).twn = s.twn := rfl
@[simp] theorem setBoot_out : (setBoot s b).out = s.out := rfl
@[simp] theorem setBoot_readValue : (setBoot s b).readValue = s.readValue := rfl
@[simp] theorem setBoot_freeCount : (setBoot s b).freeCount = s.freeCount := rfl
@[simp] theorem setBoot_boot : (setBoot s b).boot = b := rfl
end

section
variable (s : State) (u : Upd)
@[simp] theorem setUpd_pending : (setUpd s u).pending = s.pending := rfl
@[simp] theorem setUpd_regs : (setUpd s u).regs = s.regs := rfl
@[simp] theorem setUpd_fresh : (setUpd s u).fresh = s.fresh := rfl
@[simp] theorem setUpd_freshAt : (setUpd s u).freshAt = s.freshAt := rfl
@[simp] theorem setUpd_hif : (setUpd s u).hif = s.hif := rfl
@[simp] theorem setUpd_pcie : (setUpd s u).pcie = s.pcie := rfl
@[simp] theorem setUpd_tim : (setUpd s u).tim = s.tim := rfl
@[simp] theorem setUpd_hoop : (setUpd s u).hoop = s.hoop := rfl
@[simp] theorem setUpd_win : (setUpd s u).win = s.win := rfl
@[simp] theorem setUpd_cfg : (setUpd s u).cfg = s.cfg := rfl
@[simp] theorem setUpd_ing : (setUpd s u).ing = s.ing := rfl
@[simp] theorem setUpd_lay : (setUpd s u).lay = s.lay := rfl
@[simp] theorem setUpd_stages : (setUpd s u).stages = s.stages := rfl
@[simp] theorem setUpd_reads : (setUpd s u).reads = s.reads := rfl
@[simp] theorem setUpd_package : (setUpd s u).package = s.package := rfl
@[simp] theorem setUpd_spareReads : (setUpd s u).spareReads = s.spareReads := rfl
@[simp] theorem setUpd_badEntry : (setUpd s u).badEntry = s.badEntry := rfl
@[simp] theorem setUpd_badStep : (setUpd s u).badStep = s.badStep := rfl
@[simp] theorem setUpd_col : (setUpd s u).col = s.col := rfl
@[simp] theorem setUpd_run : (setUpd s u).run = s.run := rfl
@[simp] theorem setUpd_live : (setUpd s u).live = s.live := rfl
@[simp] theorem setUpd_sti : (setUpd s u).sti = s.sti := rfl
@[simp] theorem setUpd_egr : (setUpd s u).egr = s.egr := rfl
@[simp] theorem setUpd_mac : (setUpd s u).mac = s.mac := rfl
@[simp] theorem setUpd_ccs : (setUpd s u).ccs = s.ccs := rfl
@[simp] theorem setUpd_cvus : (setUpd s u).cvus = s.cvus := rfl
@[simp] theorem setUpd_boot : (setUpd s u).boot = s.boot := rfl
@[simp] theorem setUpd_keep : (setUpd s u).keep = s.keep := rfl
@[simp] theorem setUpd_key : (setUpd s u).key = s.key := rfl
@[simp] theorem setUpd_glb : (setUpd s u).glb = s.glb := rfl
@[simp] theorem setUpd_psm : (setUpd s u).psm = s.psm := rfl
@[simp] theorem setUpd_lgw : (setUpd s u).lgw = s.lgw := rfl
@[simp] theorem setUpd_twn : (setUpd s u).twn = s.twn := rfl
@[simp] theorem setUpd_out : (setUpd s u).out = s.out := rfl
@[simp] theorem setUpd_readValue : (setUpd s u).readValue = s.readValue := rfl
@[simp] theorem setUpd_freeCount : (setUpd s u).freeCount = s.freeCount := rfl
@[simp] theorem setUpd_upd : (setUpd s u).upd = u := rfl
end

section
variable (s : State) (k : Keep)
@[simp] theorem setKeep_pending : (setKeep s k).pending = s.pending := rfl
@[simp] theorem setKeep_regs : (setKeep s k).regs = s.regs := rfl
@[simp] theorem setKeep_fresh : (setKeep s k).fresh = s.fresh := rfl
@[simp] theorem setKeep_freshAt : (setKeep s k).freshAt = s.freshAt := rfl
@[simp] theorem setKeep_hif : (setKeep s k).hif = s.hif := rfl
@[simp] theorem setKeep_pcie : (setKeep s k).pcie = s.pcie := rfl
@[simp] theorem setKeep_tim : (setKeep s k).tim = s.tim := rfl
@[simp] theorem setKeep_hoop : (setKeep s k).hoop = s.hoop := rfl
@[simp] theorem setKeep_win : (setKeep s k).win = s.win := rfl
@[simp] theorem setKeep_cfg : (setKeep s k).cfg = s.cfg := rfl
@[simp] theorem setKeep_ing : (setKeep s k).ing = s.ing := rfl
@[simp] theorem setKeep_lay : (setKeep s k).lay = s.lay := rfl
@[simp] theorem setKeep_stages : (setKeep s k).stages = s.stages := rfl
@[simp] theorem setKeep_reads : (setKeep s k).reads = s.reads := rfl
@[simp] theorem setKeep_package : (setKeep s k).package = s.package := rfl
@[simp] theorem setKeep_spareReads : (setKeep s k).spareReads = s.spareReads := rfl
@[simp] theorem setKeep_badEntry : (setKeep s k).badEntry = s.badEntry := rfl
@[simp] theorem setKeep_badStep : (setKeep s k).badStep = s.badStep := rfl
@[simp] theorem setKeep_col : (setKeep s k).col = s.col := rfl
@[simp] theorem setKeep_run : (setKeep s k).run = s.run := rfl
@[simp] theorem setKeep_live : (setKeep s k).live = s.live := rfl
@[simp] theorem setKeep_sti : (setKeep s k).sti = s.sti := rfl
@[simp] theorem setKeep_egr : (setKeep s k).egr = s.egr := rfl
@[simp] theorem setKeep_mac : (setKeep s k).mac = s.mac := rfl
@[simp] theorem setKeep_ccs : (setKeep s k).ccs = s.ccs := rfl
@[simp] theorem setKeep_cvus : (setKeep s k).cvus = s.cvus := rfl
@[simp] theorem setKeep_boot : (setKeep s k).boot = s.boot := rfl
@[simp] theorem setKeep_upd : (setKeep s k).upd = s.upd := rfl
@[simp] theorem setKeep_key : (setKeep s k).key = s.key := rfl
@[simp] theorem setKeep_glb : (setKeep s k).glb = s.glb := rfl
@[simp] theorem setKeep_psm : (setKeep s k).psm = s.psm := rfl
@[simp] theorem setKeep_lgw : (setKeep s k).lgw = s.lgw := rfl
@[simp] theorem setKeep_twn : (setKeep s k).twn = s.twn := rfl
@[simp] theorem setKeep_out : (setKeep s k).out = s.out := rfl
@[simp] theorem setKeep_readValue : (setKeep s k).readValue = s.readValue := rfl
@[simp] theorem setKeep_freeCount : (setKeep s k).freeCount = s.freeCount := rfl
@[simp] theorem setKeep_keep : (setKeep s k).keep = k := rfl
end

section
variable (s : State) (i : Nat) (j : Option Journal)
@[simp] theorem putJournal_pending : (putJournal s i j).pending = s.pending := rfl
@[simp] theorem putJournal_regs : (putJournal s i j).regs = s.regs := rfl
@[simp] theorem putJournal_fresh : (putJournal s i j).fresh = s.fresh := rfl
@[simp] theorem putJournal_freshAt : (putJournal s i j).freshAt = s.freshAt := rfl
@[simp] theorem putJournal_hif : (putJournal s i j).hif = s.hif := rfl
@[simp] theorem putJournal_pcie : (putJournal s i j).pcie = s.pcie := rfl
@[simp] theorem putJournal_tim : (putJournal s i j).tim = s.tim := rfl
@[simp] theorem putJournal_hoop : (putJournal s i j).hoop = s.hoop := rfl
@[simp] theorem putJournal_win : (putJournal s i j).win = s.win := rfl
@[simp] theorem putJournal_cfg : (putJournal s i j).cfg = s.cfg := rfl
@[simp] theorem putJournal_ing : (putJournal s i j).ing = s.ing := rfl
@[simp] theorem putJournal_lay : (putJournal s i j).lay = s.lay := rfl
@[simp] theorem putJournal_stages : (putJournal s i j).stages = s.stages := rfl
@[simp] theorem putJournal_reads : (putJournal s i j).reads = s.reads := rfl
@[simp] theorem putJournal_package : (putJournal s i j).package = s.package := rfl
@[simp] theorem putJournal_spareReads : (putJournal s i j).spareReads = s.spareReads := rfl
@[simp] theorem putJournal_badEntry : (putJournal s i j).badEntry = s.badEntry := rfl
@[simp] theorem putJournal_badStep : (putJournal s i j).badStep = s.badStep := rfl
@[simp] theorem putJournal_col : (putJournal s i j).col = s.col := rfl
@[simp] theorem putJournal_run : (putJournal s i j).run = s.run := rfl
@[simp] theorem putJournal_live : (putJournal s i j).live = s.live := rfl
@[simp] theorem putJournal_sti : (putJournal s i j).sti = s.sti := rfl
@[simp] theorem putJournal_egr : (putJournal s i j).egr = s.egr := rfl
@[simp] theorem putJournal_mac : (putJournal s i j).mac = s.mac := rfl
@[simp] theorem putJournal_ccs : (putJournal s i j).ccs = s.ccs := rfl
@[simp] theorem putJournal_cvus : (putJournal s i j).cvus = s.cvus := rfl
@[simp] theorem putJournal_boot : (putJournal s i j).boot = s.boot := rfl
@[simp] theorem putJournal_upd : (putJournal s i j).upd = s.upd := rfl
@[simp] theorem putJournal_key : (putJournal s i j).key = s.key := rfl
@[simp] theorem putJournal_glb : (putJournal s i j).glb = s.glb := rfl
@[simp] theorem putJournal_psm : (putJournal s i j).psm = s.psm := rfl
@[simp] theorem putJournal_lgw : (putJournal s i j).lgw = s.lgw := rfl
@[simp] theorem putJournal_twn : (putJournal s i j).twn = s.twn := rfl
@[simp] theorem putJournal_out : (putJournal s i j).out = s.out := rfl
@[simp] theorem putJournal_readValue : (putJournal s i j).readValue = s.readValue := rfl
@[simp] theorem putJournal_freeCount : (putJournal s i j).freeCount = s.freeCount := rfl
end

section
variable (s : State) (j : StoreJob)
@[simp] theorem setJob_pending : (setJob s j).pending = s.pending := rfl
@[simp] theorem setJob_regs : (setJob s j).regs = s.regs := rfl
@[simp] theorem setJob_fresh : (setJob s j).fresh = s.fresh := rfl
@[simp] theorem setJob_freshAt : (setJob s j).freshAt = s.freshAt := rfl
@[simp] theorem setJob_hif : (setJob s j).hif = s.hif := rfl
@[simp] theorem setJob_pcie : (setJob s j).pcie = s.pcie := rfl
@[simp] theorem setJob_tim : (setJob s j).tim = s.tim := rfl
@[simp] theorem setJob_hoop : (setJob s j).hoop = s.hoop := rfl
@[simp] theorem setJob_win : (setJob s j).win = s.win := rfl
@[simp] theorem setJob_cfg : (setJob s j).cfg = s.cfg := rfl
@[simp] theorem setJob_ing : (setJob s j).ing = s.ing := rfl
@[simp] theorem setJob_lay : (setJob s j).lay = s.lay := rfl
@[simp] theorem setJob_stages : (setJob s j).stages = s.stages := rfl
@[simp] theorem setJob_reads : (setJob s j).reads = s.reads := rfl
@[simp] theorem setJob_package : (setJob s j).package = s.package := rfl
@[simp] theorem setJob_spareReads : (setJob s j).spareReads = s.spareReads := rfl
@[simp] theorem setJob_badEntry : (setJob s j).badEntry = s.badEntry := rfl
@[simp] theorem setJob_badStep : (setJob s j).badStep = s.badStep := rfl
@[simp] theorem setJob_col : (setJob s j).col = s.col := rfl
@[simp] theorem setJob_run : (setJob s j).run = s.run := rfl
@[simp] theorem setJob_live : (setJob s j).live = s.live := rfl
@[simp] theorem setJob_sti : (setJob s j).sti = s.sti := rfl
@[simp] theorem setJob_egr : (setJob s j).egr = s.egr := rfl
@[simp] theorem setJob_mac : (setJob s j).mac = s.mac := rfl
@[simp] theorem setJob_ccs : (setJob s j).ccs = s.ccs := rfl
@[simp] theorem setJob_cvus : (setJob s j).cvus = s.cvus := rfl
@[simp] theorem setJob_boot : (setJob s j).boot = s.boot := rfl
@[simp] theorem setJob_keep : (setJob s j).keep = s.keep := rfl
@[simp] theorem setJob_key : (setJob s j).key = s.key := rfl
@[simp] theorem setJob_glb : (setJob s j).glb = s.glb := rfl
@[simp] theorem setJob_psm : (setJob s j).psm = s.psm := rfl
@[simp] theorem setJob_lgw : (setJob s j).lgw = s.lgw := rfl
@[simp] theorem setJob_twn : (setJob s j).twn = s.twn := rfl
@[simp] theorem setJob_out : (setJob s j).out = s.out := rfl
@[simp] theorem setJob_readValue : (setJob s j).readValue = s.readValue := rfl
@[simp] theorem setJob_freeCount : (setJob s j).freeCount = s.freeCount := rfl
end

section
variable (s : State) (l : Lgw)
@[simp] theorem setLgw_pending : (setLgw s l).pending = s.pending := rfl
@[simp] theorem setLgw_regs : (setLgw s l).regs = s.regs := rfl
@[simp] theorem setLgw_fresh : (setLgw s l).fresh = s.fresh := rfl
@[simp] theorem setLgw_freshAt : (setLgw s l).freshAt = s.freshAt := rfl
@[simp] theorem setLgw_hif : (setLgw s l).hif = s.hif := rfl
@[simp] theorem setLgw_pcie : (setLgw s l).pcie = s.pcie := rfl
@[simp] theorem setLgw_tim : (setLgw s l).tim = s.tim := rfl
@[simp] theorem setLgw_hoop : (setLgw s l).hoop = s.hoop := rfl
@[simp] theorem setLgw_win : (setLgw s l).win = s.win := rfl
@[simp] theorem setLgw_cfg : (setLgw s l).cfg = s.cfg := rfl
@[simp] theorem setLgw_ing : (setLgw s l).ing = s.ing := rfl
@[simp] theorem setLgw_lay : (setLgw s l).lay = s.lay := rfl
@[simp] theorem setLgw_stages : (setLgw s l).stages = s.stages := rfl
@[simp] theorem setLgw_reads : (setLgw s l).reads = s.reads := rfl
@[simp] theorem setLgw_package : (setLgw s l).package = s.package := rfl
@[simp] theorem setLgw_spareReads : (setLgw s l).spareReads = s.spareReads := rfl
@[simp] theorem setLgw_badEntry : (setLgw s l).badEntry = s.badEntry := rfl
@[simp] theorem setLgw_badStep : (setLgw s l).badStep = s.badStep := rfl
@[simp] theorem setLgw_col : (setLgw s l).col = s.col := rfl
@[simp] theorem setLgw_run : (setLgw s l).run = s.run := rfl
@[simp] theorem setLgw_live : (setLgw s l).live = s.live := rfl
@[simp] theorem setLgw_sti : (setLgw s l).sti = s.sti := rfl
@[simp] theorem setLgw_egr : (setLgw s l).egr = s.egr := rfl
@[simp] theorem setLgw_mac : (setLgw s l).mac = s.mac := rfl
@[simp] theorem setLgw_ccs : (setLgw s l).ccs = s.ccs := rfl
@[simp] theorem setLgw_cvus : (setLgw s l).cvus = s.cvus := rfl
@[simp] theorem setLgw_boot : (setLgw s l).boot = s.boot := rfl
@[simp] theorem setLgw_upd : (setLgw s l).upd = s.upd := rfl
@[simp] theorem setLgw_keep : (setLgw s l).keep = s.keep := rfl
@[simp] theorem setLgw_key : (setLgw s l).key = s.key := rfl
@[simp] theorem setLgw_glb : (setLgw s l).glb = s.glb := rfl
@[simp] theorem setLgw_psm : (setLgw s l).psm = s.psm := rfl
@[simp] theorem setLgw_twn : (setLgw s l).twn = s.twn := rfl
@[simp] theorem setLgw_out : (setLgw s l).out = s.out := rfl
@[simp] theorem setLgw_readValue : (setLgw s l).readValue = s.readValue := rfl
@[simp] theorem setLgw_freeCount : (setLgw s l).freeCount = s.freeCount := rfl
@[simp] theorem setLgw_lgw : (setLgw s l).lgw = l := rfl
end

end Sys2Proof.Machine
end

