-- ==== Sys2Proof/Tests/Slice0.lean ====
section
/-! SUPPORT. Tests/Slice0.lean: the refused terms of WellFormed, single steps checked against the spec's own
numbers, and for each statement a state and operands that meet its hypotheses. -/
section
-- The tests evaluate one after the other: many at once ask for more threads than the limits give.
set_option Elab.async false
namespace Sys2Proof.Tests
open Sys2Proof.Machine

/-! ### How a witness state is shown canonical and sound -/

/-- The canonical form as one decidable condition, for states without a waiting set or a fallback copy. -/
def canonical (s : State) : Bool :=
  twf regReset s.regs &&
  twf (fun _ => 0) s.fresh &&
  twf packageInit s.package &&
  twf (fun _ => 0) s.hif.tail &&
  twf (fun _ => 0) s.hif.head &&
  twf (fun _ => false) s.hif.headDirty &&
  twf (fun _ => false) s.hif.fault &&
  twf (fun _ => false) s.hif.draining &&
  twf (fun _ => 0) s.hif.release &&
  twf (fun _ => 0) s.hif.prod &&
  twf (fun _ => Vec.reset) s.hif.vecs &&
  twf (fun _ => StampQueue.reset) s.tim.stamps &&
  twf (fun _ => Pulse.reset) s.tim.pulses &&
  twf (fun _ => Capture.reset) s.tim.caps &&
  s.win.closed.isNone &&
  twf (fun _ => []) s.cfg.sessions &&
  twf (fun _ => []) s.cfg.sources &&
  twf (fun _ => []) s.cfg.layers &&
  twf (fun _ => none) s.cfg.binds &&
  twf (fun _ => []) s.cfg.parts &&
  twf (fun _ => SessRt.reset) s.ing.sess &&
  twf (fun _ => SourceRt.reset) s.ing.src &&
  twf (fun _ => 0) s.ing.published &&
  twf (fun _ => none) s.ing.frozenHost &&
  twf (fun _ => none) s.ing.curve &&
  twf (fun _ => 0) s.ing.overflow &&
  twf (fun _ => none) s.ing.overflowHoop &&
  twf (fun _ => 0) s.ing.bufUsed &&
  twf (fun _ => Handle.reset) s.lay.handles &&
  twf (fun _ => 0) s.lay.pixels &&
  twf (fun _ => Stage.reset) s.stages &&
  twf (fun _ => []) s.reads &&
  twf (fun _ => 0) s.badEntry &&
  twf (fun _ => Estimate.reset) s.col.est &&
  twf (fun _ => TempReport.reset) s.col.snapshot &&
  twf (fun _ => 0) s.col.runTop &&
  twf (fun _ => []) s.run.grey &&
  twf (fun _ => []) s.run.fixtures &&
  twf (fun _ => []) s.run.frames &&
  twf (fun _ => Live.reset) s.live &&
  twf (fun _ => Lane.reset) s.sti.lanes &&
  twf (fun _ => []) s.sti.back &&
  twf (fun _ => EgrPort.reset) s.egr.ports &&
  twf (fun _ => none) s.egr.change &&
  twf (fun _ => none) s.egr.pairs &&
  twf (fun _ => MacPort.reset) s.mac &&
  twf (fun _ => Thread.reset) s.ccs.threads &&
  twf (fun _ => CoreUnit.reset) s.ccs.cores &&
  twf (fun _ => []) s.ccs.readyLists &&
  twf (fun _ => 0) s.ccs.tcb &&
  twf (fun _ => NQueue.reset) s.ccs.queues &&
  twf (fun _ => Outbox.reset) s.ccs.outboxes &&
  twf (fun _ => 127) s.ccs.lastSource &&
  twf (fun _ => Staged.reset) s.ccs.staged &&
  twf (fun _ => WaitStat.reset) s.ccs.waits &&
  twf (fun _ => 0) s.ccs.load &&
  twf (fun _ => 0) s.ccs.imem &&
  twf (fun _ => 0) s.ccs.dmem &&
  twf (fun _ => 0) s.ccs.shared &&
  twf (fun _ => Cvu.reset) s.cvus &&
  s.upd.fallback.isNone &&
  twf (fun _ => []) s.keep.sectors &&
  twf (fun _ => none) s.keep.journal &&
  twf (fun _ => KeySlot.reset) s.key.slots &&
  twf (fun _ => 0) s.psm.mv &&
  twf (fun _ => 0) s.lgw.args &&
  twf (fun _ => (0, 0)) s.lgw.staged &&
  twf (fun _ => []) s.twn.frags &&
  s.twn.closed.isNone

theorem canon_of {s : State} (h : canonical s = true) : s.canon := by
  simp only [canonical, Bool.and_eq_true, and_assoc] at h
  obtain ⟨h1, h2, h3, h4, h5, h6, h7, h8, h9, h10, h11, h12, h13, h14, h15, h16, h17, h18, h19, h20, h21, h22,
    h23, h24, h25, h26, h27, h28, h29, h30, h31, h32, h33, h34, h35, h36, h37, h38, h39, h40, h41, h42, h43,
    h44, h45, h46, h47, h48, h49, h50, h51, h52, h53, h54, h55, h56, h57, h58, h59, h60, h61, h62, h63, h64,
    h65, h66, h67, h68, h69⟩ := h
  exact ⟨h1, h2, ⟨h4, h5, h6, h7, h8, h9, h10, h11⟩, ⟨h12, h13, h14⟩, (fun e he => by simp [he] at h15), ⟨h16,
    h17, h18, h19, h20⟩, ⟨h21, h22, h23, h24, h25, h26, h27, h28⟩, ⟨h29, h30⟩, h31, h32, h3, h33, ⟨h34, h35,
    h36⟩, ⟨h37, h38, h39⟩, h40, ⟨h41, h42⟩, ⟨h43, h44, h45⟩, h46, ⟨h47, h48, h49, h50, h51, h52, h53, h54, h55,
    h56, h57, h58, h59⟩, h60, (fun e he => by simp [he] at h61), ⟨h62, h63⟩, ⟨h64⟩, ⟨h65⟩, ⟨h66, h67⟩, ⟨h68, fun
    e he => by simp [he] at h69⟩⟩

theorem sound_of {s : State} (h : twf regReset s.regs = true ∧ (s.tim.acc < secUnits ∧ s.tim.sec < 2 ^ 48 ∧ s.tim.blk < 1024) ∧
    (s.psm.writeOk = true → s.psm.refusing = 0) ∧ s.lgw.latch.length < 4 ∧ s.lgw.addr < 65536 ∧ s.lgw.dropped < 256) :
    s.sound := h

/-! ### States built for the witnesses -/

/-- Reset, with the registers given. -/
def withRegs (l : List (Nat × Word)) : State := l.foldl (fun s x => setReg s x.1 x.2) State.reset

/-- Thread `t` on core 0, with counts 1, 0, 0, 0. -/
def onCore (t : Nat) : State :=
  { State.reset with
    boot := { Boot.reset with fwStarted := true }
    ccs := { Ccs.reset with
      threads := [(t, { Thread.reset with state := .running, counts := [1, 0, 0, 0] })]
      cores := [(0, { CoreUnit.reset with thread := some t })] } }

/-- Every core busy, and thread 20 READY at priority 3. -/
def busyCores : State :=
  { State.reset with
    boot := { Boot.reset with fwStarted := true }
    ccs := { Ccs.reset with
      threads := ((List.range 8).map fun c => (c, { Thread.reset with state := .running, core := c })) ++
        [(20, { Thread.reset with state := .ready, prio := 3 })]
      cores := (List.range 8).map fun c => (c, { CoreUnit.reset with thread := some c })
      readyLists := [(3, [20])] } }

/-! ### Control cores -/

theorem wit_ThreadsStartAndHalt :
    State.reset.canon ∧ bitW 0 27 = false ∧ bitW 0 28 = false ∧ (threadOf State.reset 5).state = .dormant ∧
    (onCore 5).canon ∧ noneReady (onCore 5) ∧ (threadOf (onCore 5) 5).state = .running ∧
    (coreOf (onCore 5) (threadOf (onCore 5) 5).core).thread = some 5 ∧ runningOn (onCore 5) 0 = some 5 ∧
    (∀ k, k < 4 → bitW 6 k = true → ((threadOf (onCore 5) 5).counts[k]?).getD 0 = 0) ∧
    bitW 1 0 = true ∧ ((threadOf (onCore 5) 5).counts[0]?).getD 0 ≠ 0 :=
  ⟨canon_of (by decide +kernel), by decide, by decide, by decide +kernel, canon_of (by decide +kernel), rfl,
    by decide +kernel⟩

theorem wit_ThreadsAreScheduled :
    busyCores.canon ∧ runningOn busyCores 0 = some 0 ∧ coresRun busyCores = true ∧
    (∀ d : Fin 8, d ≠ 0 → (coreOf busyCores d).thread ≠ none) ∧ nextThread busyCores 0 = some 20 ∧
    regFld busyCores (CCS_THR_CTRL 0) 20 16 ≤ (threadOf busyCores 20).prio ∧
    (∀ p, 20 ∈ listOf busyCores p → p = (threadOf busyCores 20).prio) ∧ (∀ p, 0 ∉ listOf busyCores p) ∧
    nextPreemption busyCores = some (20, 0) ∧ (coreOf busyCores 0).thread = some 0 ∧
    (∀ d : Fin 8, (coreOf busyCores d).thread ≠ none) := by
  refine ⟨canon_of (by decide +kernel), by decide +kernel, by decide, by decide +kernel, by decide +kernel,
    by decide +kernel, ?_, ?_, by decide +kernel⟩
  · intro p h; by_cases e : p = 3
    · exact e
    · simp [listOf, busyCores, tget, e] at h
  · intro p h; by_cases e : p = 3 <;> simp [listOf, busyCores, tget, e] at h

/-- Thread 5 on core 0; slot 0 of thread 6 counts SCH_SIGNAL and slot 1 its timer, which is armed. -/
def twoThreads : State :=
  setReg { onCore 5 with ccs := { (onCore 5).ccs with
    threads := [(5, { Thread.reset with state := .running }), (6, { Thread.reset with timer := some 250 })] } }
    (CCS_THR_EV 6) 0x3031

theorem wit_port_timer_watchdog :
    twoThreads.canon ∧ runningOn twoThreads 0 = some 5 ∧ noneReady twoThreads ∧ slotSource twoThreads 6 0 = 0x31 ∧
    (threadOf twoThreads 6).counts[0]? = some 0 ∧ (threadOf twoThreads 6).state ≠ .waiting ∧
    (threadOf twoThreads 6).timer = some 250 ∧ slotSource twoThreads 6 1 = 0x30 ∧
    (∀ j, j < 4 → j ≠ 1 → slotSource twoThreads 6 j ≠ 0x30) ∧ (threadOf twoThreads 6).counts[1]? = some 0 ∧
    (setReg (onCore 5) (CCS_WDOG 0) 0x80000000).canon ∧ regBit (setReg (onCore 5) (CCS_WDOG 0) 0x80000000) (CCS_WDOG 0) 31 = true ∧
    wdogHeld (setReg (onCore 5) (CCS_WDOG 0) 0x80000000) = false ∧
    runningOn (setReg (onCore 5) (CCS_WDOG 0) 0x80000000) 0 = some 5 ∧ noneReady (setReg (onCore 5) (CCS_WDOG 0) 0x80000000) :=
  ⟨canon_of (by decide +kernel), by decide +kernel, rfl, by decide +kernel, by decide +kernel, by decide +kernel, by decide +kernel,
    by decide +kernel, by decide +kernel, by decide +kernel, canon_of (by decide +kernel), by decide +kernel, rfl, by decide +kernel, rfl⟩

/-- The first and the last word of shared memory and of the package, a hole, and a TCB. -/
theorem wit_CoreAccessAndWindow :
    coreAllows (.load 2) 0x20000000 = true ∧ areaOf 0x20000000 ≠ .blocks ∧ areaOf 0x20000000 ≠ .port ∧
    coreAllows (.sc 1) 0x207FFFFC = true ∧ areaOf 0x207FFFFC ≠ .blocks ∧ areaOf 0x207FFFFC ≠ .port ∧
    coreAllows (.load 2) 0x20800000 = false ∧ tcbThread 0x20800000 = none ∧
    coreAllows (.load 2) 0xFFFFFFFC = true ∧ tcbThread 0x40348000 = some 0 ∧ tcbThread 0x4034FFFC = some 255 := by decide

theorem wit_ReservationHolds :
    (onCore 5).canon ∧ 0x20000000 ≤ 0x207FFFFC ∧ 0x207FFFFC < 0x20800000 ∧ 0x207FFFFC % 4 = 0 ∧ (1 : Fin 8) ≠ 0 :=
  ⟨canon_of (by decide +kernel), by decide, by decide, by decide, by decide⟩

/-! ### Notice queues and check-value units -/

/-- Queue 2 enabled with one word, and a packet for it in outbox 8. -/
def queued : State :=
  let s := setReg (onCore 5) (NQ_CTRL 2) 0x80000000
  { s with ccs := { s.ccs with
    queues := [(2, { NQueue.reset with words := [⟨7, true, false, false⟩] })]
    outboxes := [(8, { Outbox.reset with packets := [⟨2, [1, 2, 3, 4]⟩] })] } }

/-- Queue 2 enabled and full. -/
def fullQueue : State :=
  let s := setReg (onCore 5) (NQ_CTRL 2) 0x80000000
  { s with ccs := { s.ccs with queues := [(2, { NQueue.reset with words := List.replicate 512 ⟨7, true, false, false⟩ })] } }

theorem wit_QueuesHoldPackets :
    queued.canon ∧ (queueOf queued 2).words = [⟨7, true, false, false⟩] ∧ (queueOf queued 3).words = [] ∧
    nextSource queued 2 = some 8 ∧ (outboxOf queued 8).packets = [⟨2, [1, 2, 3, 4]⟩] ∧ nqEnabled queued 2 = true ∧
    4 ≤ 512 - queueDepth queued 2 ∧ runningOn queued 0 = some 5 ∧ stagedLen (stagedOf queued 5) ≤ 512 - queueDepth queued 2 ∧
    runningOn fullQueue 0 = some 5 ∧ nqEnabled fullQueue 2 = true ∧
    512 - queueDepth fullQueue 2 < stagedLen (stagedOf fullQueue 5) ∧
    nqEnabled queued 3 = false ∧ bitW 0 31 = false ∧ bitW 0x80000000 31 = true :=
  ⟨canon_of (by decide +kernel), by decide +kernel⟩

/-- Unit 1 owned by the running thread 5, set to the CRC-32 of Table 13-6. -/
def owned : State :=
  let s := setReg (onCore 5) (CVU_CFG 1) 0x20000000
  { s with cvus := [(1, { Cvu.reset with owner := some 5 })] }

theorem wit_CheckUnits :
    runningOn (onCore 5) 0 = some 5 ∧ bitW 0 29 = false ∧ (cvuOf (onCore 5) 1).owner = none ∧ bitW 0 30 = false ∧
    (cvuOf (onCore 5) 1).owner ≠ some 5 ∧ bitW 0 31 = false ∧
    owned.canon ∧ runningOn owned 0 = some 5 ∧ (cvuOf owned 1).owner = some 5 ∧ owned.upd.verifying = none ∧
    (cvuConfig owned 1).isSome = true :=
  ⟨by decide +kernel, by decide, by decide +kernel, by decide, by decide +kernel, by decide, canon_of (by decide +kernel),
    by decide +kernel⟩

/-! ### The time base -/

/-- Device time runs. -/
def ticking : State := { State.reset with tim := { Tim.reset with running := true } }

/-- HOLDOVER and TRACKING. -/
def holding : State := { ticking with tim := { ticking.tim with mode := .holdover } }
def tracking : State := { ticking with tim := { ticking.tim with mode := .tracking, annDue := some 750000000 } }

theorem wit_TimeAdvances :
    Tim.reset.acc < secUnits ∧ Tim.reset.sec < 2 ^ 48 ∧ Tim.reset.blk < 1024 ∧ (-17179869 ≤ (0 : Int) ∧ (0 : Int) ≤ 17179869) ∧
    ticking.sound ∧ rateAccepted ticking ∧ ticking.tim.running = true ∧
    (100 % timeWrap + timeWrap - ticking.tim.q) % timeWrap < 2 ^ 64 ∧ 3 < cyclesTo ticking 100 :=
  ⟨by decide +kernel, by decide, by decide, by decide, sound_of (by decide +kernel),
    by constructor <;> decide +kernel, rfl, by decide +kernel⟩

theorem wit_TimeIsSet :
    holding.tim.mode = .holdover ∧ State.reset.tim.mode ≠ .holdover ∧
    (-17179869 ≤ sext 32 (17179869 : Word).toNat ∧ sext 32 (17179869 : Word).toNat ≤ 17179869) ∧
    17179869 < sext 32 (17179870 : Word).toNat ∧ State.reset.sound ∧ holding.sound ∧ (3 : Word).toNat < 2 ^ 27 ∧
    (reg State.reset TIM_SET_NSQ).toNat < 4000000000 :=
  ⟨rfl, by decide, by decide, by decide, sound_of (by decide +kernel), sound_of (by decide +kernel), by decide, by decide +kernel⟩

theorem wit_MasterWatchStates :
    State.reset.sound ∧ State.reset.tim.mode = .free ∧ bitW 0x83000000 31 = true ∧
    logAnn (plainWrite State.reset TIM_MASTER_CTRL 0x83000000) ≠ none ∧ bitW 0x03000000 31 = false ∧
    tracking.sound ∧ tracking.tim.mode = .tracking ∧ tracking.tim.annDue = some 750000000 ∧
    holding.sound ∧ holding.tim.mode = .holdover ∧ (3 : Word).toNat < 2 ^ 27 :=
  ⟨sound_of (by decide +kernel), rfl, by decide, by decide +kernel, by decide, sound_of (by decide +kernel), rfl, rfl,
    sound_of (by decide +kernel), rfl, by decide⟩

/-- Pulse 2 with a width of 100 ns and a start at 1 ms, and one that asserts. -/
def pulsed : State := withRegs [(TIM_PULSE_WIDTH 2, 400), (TIM_PULSE_START_NSQ 2, 4000000)]
def asserted : State := { ticking with tim := { ticking.tim with pulses :=
  [(2, { Pulse.reset with cfg := some ⟨0, 4000000, 0, 0, 400⟩, next := some 4000000, assertedTo := some 400 })] } }

theorem wit_PulseLifecycle :
    State.reset.canon ∧ bitW 0 30 = false ∧
    pulseRefused (plainWrite State.reset (TIM_PULSE_CTRL 2) (0 ||| 0x80000000)) 2 = true ∧
    pulsed.canon ∧ pulseRefused (plainWrite pulsed (TIM_PULSE_CTRL 2) (0 ||| 0x80000000)) 2 = false ∧
    (pulseSettings (plainWrite pulsed (TIM_PULSE_CTRL 2) (0 ||| 0x80000000)) 2).mode = 0 ∧
    reached (moveQ pulsed.tim.q 255) (pulseSettings (plainWrite pulsed (TIM_PULSE_CTRL 2) (0 ||| 0x80000000)) 2).start = false ∧
    bitW 0 31 = false ∧ asserted.canon ∧ (pulseOf asserted 2).cfg = some ⟨0, 4000000, 0, 0, 400⟩ ∧
    (pulseOf asserted 2).next = some 4000000 ∧ (pulseOf asserted 2).assertedTo = some 400 :=
  ⟨canon_of (by decide +kernel), by decide, by decide +kernel, canon_of (by decide +kernel), by decide +kernel, by decide +kernel,
    by decide +kernel, by decide, canon_of (by decide +kernel), by decide +kernel⟩

/-- Capture 1 on both edges and the word clock enabled; and a word clock and a pin reference that are present. -/
def watching : State := withRegs [(TIM_CAP_CTRL 1, 0xE0000000), (TIM_WCLK_CTRL, 0x80000000)]
def clocked : State := { ticking with
  tim := { ticking.tim with wclk := { WordClock.reset with present := true, lastElapsed := some 0, lastPeriod := some 83333 } } }
def pinRef : State := setReg { ticking with hoop := { HoopGen.reset with
  ref := { Reference.reset with state := .locked, edge := some ⟨0, 0, 0⟩ } } } HOOP_MODE 0xC0000000
def stamped : State := { State.reset with tim := { Tim.reset with stamps := [(0, ⟨[⟨1, 2, .rawTx 4⟩], 0, none⟩)] } }

theorem wit_ReferencesAndStamps :
    watching.sound ∧ watching.canon ∧ regBit watching (TIM_CAP_CTRL 1) 31 = true ∧ regBit watching (TIM_CAP_CTRL 1) 28 = false ∧
    regFld watching (TIM_CAP_CTRL 1) 30 29 = 3 ∧ (capOf watching 1).fifo.length < 4 ∧ (capOf watching 1).last = none ∧
    regBit watching TIM_WCLK_CTRL 31 = true ∧ true ≠ regBit watching TIM_WCLK_CTRL 30 ∧
    clocked.sound ∧ clocked.tim.wclk.present = true ∧ clocked.tim.wclk.lastElapsed = some 0 ∧
    clocked.tim.wclk.lastPeriod = some 83333 ∧ pinRef.sound ∧ hoopMode pinRef = 3 ∧ pinRef.hoop.ref.edge = some ⟨0, 0, 0⟩ ∧
    pinRef.hoop.ref.state = .locked ∧ stamped.canon ∧ (stamped.tim.lastPosted + 1) % 46 = 0 ∧ (stampsOf stamped 0).note = none ∧
    noBoundaryDue (tick 3 watching) ∧
    (stampsOf stamped 0).entries = [⟨1, 2, .rawTx 4⟩] :=
  ⟨sound_of (by decide +kernel), canon_of (by decide +kernel), by decide +kernel, by decide +kernel, by decide +kernel,
    by decide +kernel, by decide +kernel, by decide +kernel, by decide +kernel, sound_of (by decide +kernel), rfl, rfl, rfl,
    sound_of (by decide +kernel), by decide +kernel, rfl, rfl, canon_of (by decide +kernel), by decide +kernel, by decide +kernel, by unfold noBoundaryDue; decide +kernel, by decide +kernel⟩

/-! ### Registers and the host's rings -/

/-- Rings 0 enabled with 16 entries each, firmware running, memory ready, HIF_EN and POLL_EN set. -/
def served : State :=
  { withRegs [(HIF_CTRL, 3), (HIF_SQ_CTRL 0, 0xA0000004), (HIF_CQ_CTRL 0, 0x80000004)] with
    boot := { Boot.reset with state := .running, memReady := true, fwStarted := true, step := .locked } }

/-- A descriptor with opcode `op`, OBJECT `obj` and the argument words `args`. -/
def desc (op obj : Nat) (args : List Word) : Desc :=
  { opcode := op, flags := 0, tag := 7, target := 0, hostAddr := 0, length := 0, object := obj
    args := args ++ List.replicate (10 - args.length) 0 }

/-- The tracker entry `id` of ring 0 in phase `ph`. -/
def entry (id : Nat) (d : Desc) (ph : Phase) : Track :=
  { id := id, ring := 0, origin := .host, desc := d, phase := ph, past := false, late := false, control := false,
    waits := [], fwd := false, fin := 0, orphan := false, cq := 0, handed := 0 }

/-- One slot of ring 0 stands to be fetched. -/
def fetching : State := { served with hif := { Hif.reset with tail := [(0, 1)] } }

/-- A NOP that has completed and waits for its record. -/
def recording : State := { served with hif := { Hif.reset with
  track := [entry 3 (desc 0x62 0 []) (.done 0 0 0 5)], nextId := 4 } }

theorem wit_registers :
    ([] : List (Nat × Nat × Nat)) = [] ∧ (∃ r : RegRow, regRow HIF_CTRL = some r ∧ r.counts = []) ∧
    (0x40004 % 4 = 0 ∧ 0x40000 ≤ 0x40004) ∧ (5 % 4 ≠ 0) ∧ State.reset.canon ∧ 0x1001FFF8 + 3 < 0x10020000 :=
  ⟨rfl, ⟨_, rfl, by decide +kernel⟩, by decide, by decide, canon_of (by decide +kernel), by decide⟩

theorem wit_RingsAreServed :
    regBit served HIF_CTRL 1 = true ∧ served.hif.pollOut = false ∧
    ({ served with hif := { served.hif with pollOut := true } } : State).canon ∧ sqEnabled served 0 = true ∧
    tget (fun _ => false) served.hif.fault 0 = false ∧ ((3 : Word) - headOf served 0).toNat ≤ sqSize served 0 ∧
    fetching.canon ∧ nextRing fetching = some 0 ∧
    recording.canon ∧ engineRuns recording = true ∧ cqEnabled recording 0 = true ∧ cqNotice recording 0 = false ∧
    cqRoom recording 0 = true ∧ nextRecord recording 0 = some (entry 3 (desc 0x62 0 []) (.done 0 0 0 5)) :=
  ⟨by decide +kernel, rfl, canon_of (by decide +kernel), by decide +kernel, by decide +kernel, by decide +kernel,
    canon_of (by decide +kernel), by decide +kernel, canon_of (by decide +kernel), by decide +kernel⟩

theorem wit_RingRules :
    served.canon ∧ sqEnabled served 0 = true ∧ bitW 0x80000005 31 = true ∧ bitW 5 31 = false ∧ cqEnabled served 0 = true ∧
    cqInUse served 0 = true ∧ cqInUse (withRegs [(HIF_CQ_CTRL 0, 0x80000004)]) 0 = false ∧
    (withRegs [(HIF_CQ_CTRL 0, 0x80000004)]).canon ∧ cqEnabled (withRegs [(HIF_CQ_CTRL 0, 0x80000004)]) 0 = true ∧
    sqEnabled served 1 = false ∧ 4 ≤ (4 : Word).toNat % 32 ∧ (16 : Word).toNat % 32 ≤ 16 ∧ cqNotice served 0 = false ∧
    (withRegs [(HIF_CQ_CTRL 2, 0x40000004)]).canon ∧ cqNotice (withRegs [(HIF_CQ_CTRL 2, 0x40000004)]) ((0x00020004 : Word).toNat / 2 ^ 16 % 64) = true ∧
    sqEnabled (withRegs [(HIF_CQ_CTRL 2, 0x40000004)]) 0 = false ∧ cqEnabled served 1 = false ∧ bitW 4 30 = false ∧
    bitW 0x40000004 30 = true ∧ (withRegs [(HIF_SQ_CTRL 0, 0x80000004)]).canon ∧
    sqEnabled (withRegs [(HIF_SQ_CTRL 0, 0x80000004)]) 0 = true ∧ sqCq (withRegs [(HIF_SQ_CTRL 0, 0x80000004)]) 0 = 0 ∧
    cqEnabled (withRegs [(HIF_SQ_CTRL 0, 0x80000004)]) 0 = false :=
  ⟨canon_of (by decide +kernel), by decide +kernel, by decide, by decide, by decide +kernel, by decide +kernel, by decide +kernel,
    canon_of (by decide +kernel), by decide +kernel, by decide +kernel, by decide, by decide, by decide +kernel,
    canon_of (by decide +kernel), by decide +kernel, by decide +kernel, by decide +kernel, by decide, by decide,
    canon_of (by decide +kernel), by decide +kernel⟩

theorem wit_MotifControlRings :
    fetching.canon ∧ nextRing fetching = some 0 ∧ malformed fetching 0 (desc 0x20 5 [2]) = false ∧
    (∀ t, t ∈ fetching.hif.track → t.ring ≠ 0 ∧ t.id ≠ fetching.hif.nextId) ∧ regBit fetching (HIF_SQ_CTRL 0) 29 = true ∧
    nextRing (setReg fetching (HIF_SQ_CTRL 0) 0x80000004) = some 0 ∧ (setReg fetching (HIF_SQ_CTRL 0) 0x80000004).canon ∧
    malformed (setReg fetching (HIF_SQ_CTRL 0) 0x80000004) 0 (desc 0x21 5 []) = false :=
  ⟨canon_of (by decide +kernel), by decide +kernel, by decide +kernel, by decide +kernel, by decide +kernel, by decide +kernel,
    canon_of (by decide +kernel), by decide +kernel⟩

/-- A vector with its timer running, and a notice ring that has lost notices. -/
def signalling : State := { withRegs [(HIF_VEC_MOD 1, 0x00010000)] with hif := { Hif.reset with vecs := [(1, ⟨1, true, 0, false⟩)] } }
def losing : State := { served with
  regs := (setReg served (HIF_CQ_CTRL 1) 0xC0000004).regs, hif := { Hif.reset with noticesLost := 3 } }

theorem wit_HostPort :
    signalling.canon ∧ (vecOf signalling 1).timerRunning = true ∧ regFld signalling (HIF_VEC_MOD 1) 25 16 ≠ 0 ∧
    regBit signalling (MSIX_CTRL 1) 0 = true ∧ regBit (setReg signalling (MSIX_CTRL 1) 0) (MSIX_CTRL 1) 0 = false ∧
    noticeRing losing = some 1 ∧ engineRuns losing = true ∧ cqRoom losing 1 = true ∧ losing.hif.noticesLost ≠ 0 ∧
    State.reset.canon ∧ State.reset.hif.noticesLost = 0 ∧
    ({ served with pcie := ⟨true, false, 2⟩ } : State).pcie.perstHigh = true ∧ resetReleased { served with pcie := ⟨true, false, 2⟩ } = true :=
  ⟨canon_of (by decide +kernel), by decide +kernel, by decide +kernel, by decide +kernel, by decide +kernel, by decide +kernel,
    by decide +kernel, by decide +kernel, by decide +kernel, canon_of (by decide +kernel), by decide +kernel⟩

/-! ### Hoops and commit windows -/

/-- A generator that runs, in hoop 9, with its boundary raised and an open window. -/
def hooping : State := { ticking with
  hoop := { HoopGen.reset with running := true, raised := true, number := 9, fNumber := 9, fStarted := true,
                               bNext := 66666667 }
  win := { Window.reset with isOpen := true } }

/-- The boundary of hoop 10 waits for FCLK, with a closed set. -/
def closedSet : EndState := { members := [], cfg := { Cfg.reset with cid := 7 }, hoopRegs := [], portRegs := [], named := [] }
def dueHoop : State := { hooping with
  hoop := { hooping.hoop with fDue := true, number := 10 }, win := { Window.reset with closed := some closedSet } }

/-- OWNER_SET with ID 7 in the open window; and waiting for its block. -/
def owner : Desc := desc 0x24 0 [7]
def windowed : State := { hooping with win := { hooping.win with members := [⟨3, 1, .host, 0, owner, false⟩] } }
def arriving : State := { hooping with hif := { Hif.reset with track := [entry 3 owner .ready], nextId := 4 } }

/-- The same, held for hoop 10. -/
def heldOwner : Desc := { owner with flags := 1, target := 10 }
def holdingOne : State := { hooping with win := { hooping.win with held := [⟨3, 1, .host, 0, heldOwner, false⟩] } }

theorem wit_GeneratorControl :
    State.reset.canon ∧ State.reset.hoop.running = false ∧ bitW 0 30 = false ∧ hoopMode State.reset ≠ 1 ∧
    hooping.canon ∧ hooping.hoop.running = true ∧ bitW 0x80000000 31 = true ∧ hooping.hoop.fStarted = true ∧
    hooping.hoop.aborted = false ∧ hooping.sound ∧ hooping.hoop.fDue = false ∧ hooping.hoop.stopAtNext = false ∧
    hooping.hoop.raised = true ∧ hooping.hoop.nextK = none ∧
    ({ hooping with hoop := { hooping.hoop with nextK := some 12 } } : State).sound ∧ later 9 (w32 12) = true ∧
    later 9 (w32 8) = false ∧
    ({ hooping with hoop := { hooping.hoop with stopAtNext := true } } : State).sound ∧
    ({ hooping with hoop := { hooping.hoop with raised := false } } : State).sound ∧
    hooping.hoop.early ≠ some hooping.tim.cyc ∧
    ({ hooping with hoop := { hooping.hoop with early := some 0 } } : State).hoop.early = some hooping.tim.cyc ∧
    reached hooping.tim.q hooping.hoop.bNext = false :=
  ⟨canon_of (by decide +kernel), rfl, by decide, by decide +kernel, canon_of (by decide +kernel), rfl, by decide, rfl, rfl,
    sound_of (by decide +kernel), rfl, rfl, rfl, rfl, sound_of (by decide +kernel), by decide +kernel, by decide +kernel,
    sound_of (by decide +kernel), sound_of (by decide +kernel), by decide +kernel, rfl, by decide +kernel⟩

theorem wit_SetTakesEffect :
    dueHoop.hoop.fDue = true ∧ dueHoop.win.closed = some closedSet ∧ dueHoop.boot.twinEn = false ∧ dueHoop.twn.closed = none :=
  ⟨rfl, rfl, rfl, rfl⟩

theorem wit_SetsAreBuilt :
    State.reset.canon ∧ (desc 0x13 1 [0]).opcode = 0x13 ∧ bitOf (darg (desc 0x13 1 [0]) 0) 31 = false ∧
    bitOf (darg (desc 0x14 1 [0x80000000]) 0) 31 = true ∧ bitOf (darg (desc 0x16 0 [2, 5]) 0) 1 = true ∧
    windowed.hoop.running = true ∧ windowed.hoop.fStarted = true ∧ windowed.hoop.fDue = false ∧ windowed.win.isOpen = true ∧
    windowed.win.held = [] ∧ windowed.win.members ≠ [] ∧ (∀ m, m ∈ windowed.win.members → m.desc.opcode ≠ 0x70) ∧
    windowed.boot.twinEn = false ∧ windowed.lgw.opened = false :=
  ⟨canon_of (by decide +kernel), rfl, by decide +kernel, by decide +kernel, by decide +kernel, rfl, rfl, rfl, rfl, rfl,
    by decide +kernel, by decide +kernel, rfl, rfl⟩

/-- Its descriptor waits to start, the window open, in a unit of a pair whose handle 0 is IDLE. -/
def joinable (d : Desc) : State := { hooping with
  boot := { Boot.reset with twinEn := true }, twn := { Twn.reset with booted := true }
  lay := { Lay.reset with handles := [(0, { Handle.reset with state := .idle })] }
  hif := { Hif.reset with track := [entry 3 d .ready], nextId := 4 } }

/-- One descriptor for each command that joins a window, with the extremes of their arguments. -/
def joining : List Desc :=
  [withOp 0x04 (desc 0 0 [31]), withOp 0x05 (desc 0 0 [0]), withOp 0x10 (desc 0 0 [127]),
   withOp 0x13 (desc 0 1 [0, 65536, 0, 0x80008000]), withOp 0x14 (desc 0 63 []), withOp 0x15 (desc 0 31 [0x010000]),
   withOp 0x16 (desc 0 0 [1]), withOp 0x17 (desc 0 255 [1, 65536]), withSub 0x20 7 0 1 (desc 0 255 [0, 65535]),
   withSub 0x20 7 0 2 (desc 0 0 [0]), withSub 0x20 7 0 3 (desc 0 0 [0]), withSub 0x20 7 0 4 (desc 0 0 [0]),
   withSub 0x20 7 0 5 (desc 0 0 [0]), withSub 0x20 7 0 6 (desc 0 0 [0, 60000]), withOp 0x21 (desc 0 0 [0]),
   withOp 0x22 (desc 0 37 [1]), withOp 0x24 (desc 0 0 [0xFFFE]), withSub 0x70 1 0 1 (desc 0 0 [0]),
   withSub 0x70 1 0 2 (desc 0 0 [0]), withSub 0x70 1 0 3 (desc 0 0 [0])]

theorem wit_DescriptorsJoinWindow :
    (∀ d, d ∈ joining → awaits (joinable d) 0 d (entry 3 d .ready) ∧ mayJoin (joinable d) (entry 3 d .ready)) ∧
    forwards arriving = false ∧ heldOwner.target = arriving.hoop.fNumber + 1 ∧ holdingOne.win.isOpen = true ∧
    holdingOne.win.held = [⟨3, 1, .host, 0, heldOwner, false⟩] ∧ Desc.atHoop heldOwner = true ∧
    holdingOne.hoop.running = true ∧ holdingOne.hoop.fStarted = true ∧ holdingOne.boot.twinEn = false := by
  unfold awaits mayJoin
  decide +kernel

/-- LTR on, and a stack that has been idle for 10 µs; one in self refresh, whose exit is due. -/
def idleStacks : State := { setReg State.reset HOOP_LTR_CFG 0x80000001 with
  tim := { Tim.reset with cyc := 5000 }, hoop := { HoopGen.reset with lt := 6000 } }
def exiting : State := { State.reset with hoop := { HoopGen.reset with stack1 := ⟨.selfRefresh, 0, some 500, false⟩ } }

theorem wit_PackageStacks :
    regBit idleStacks HOOP_LTR_CFG 31 = true ∧ idleStacks.hoop.stacksHeld = false ∧ (stackOf idleStacks 0).exitDue = none ∧
    (stackOf idleStacks 0).waiting = false ∧ (stackOf idleStacks 1).state = .active ∧
    (stackTimes (stackOf idleStacks 0).state).1 < (stackTimes .parked).1 ∧
    (stackOf idleStacks 0).idleSince + (stackTimes .parked).1 ≤ idleStacks.tim.cyc ∧
    (stackTimes .parked).2.1 + guard10 idleStacks ≤ idleStacks.hoop.lt ∧
    (stackOf exiting 1).exitDue = some 500 ∧ (stackOf { exiting with hoop := { HoopGen.reset with stack1 := ⟨.parked, 0, none, false⟩ } } 1).state ≠ .active ∧
    State.reset.sound ∧ State.reset.hoop.running = false ∧ State.reset.boot.memReady = false ∧ served.boot.memReady = true :=
  ⟨by decide +kernel, rfl, rfl, rfl, rfl, by decide +kernel, by decide +kernel, by decide +kernel, by decide +kernel, by decide +kernel,
    sound_of (by decide +kernel), rfl, rfl, rfl⟩

/-! ### Ingest and the run -/

/-- What `accepts` asks, with a further condition on the frame and the state after the checks. -/
def acceptedAs (s : State) (p : Nat) (bytes : List Byte) (phase : Nat) (q : RxFrame → State → Bool) : Bool :=
  portUp s p && (decide (p < 36) || !s.boot.twinEn) &&
    match rxCheck s p bytes true phase with
    | (.frame f, t) => !f.trunc && q f t
    | _ => false

theorem accepts_of {s : State} {p : Nat} {bytes : List Byte} {phase : Nat} {q : RxFrame → State → Bool}
    (h : acceptedAs s p bytes phase q = true) : ∃ f t, accepts s p bytes phase f t ∧ q f t = true := by
  unfold acceptedAs at h
  simp only [Bool.and_eq_true, Bool.or_eq_true, decide_eq_true_eq, Bool.not_eq_true'] at h
  obtain ⟨⟨h1, h2⟩, h3⟩ := h
  split at h3
  · rename_i f t e
    simp only [Bool.and_eq_true, Bool.not_eq_true'] at h3
    exact ⟨f, t, ⟨h1, fun g => h2.resolve_left (by omega), e, h3.1⟩, h3.2⟩
  · cases h3

/-- Bytes. -/
def bytesOf (l : List Nat) : List Byte := l.map (BitVec.ofNat 8)

/-- A broadcast UDP frame over IPv4 to 239.0.0.1, port 5000, padded to 60 bytes. -/
def udpTo (port : Nat) (payload : List Byte) : List Byte :=
  let f := List.replicate 6 (0xFF : Byte) ++ List.replicate 6 0 ++ bytesOf [8, 0, 0x45, 0] ++ beBytes 2 (28 + payload.length) ++
    bytesOf [0, 0, 0, 0, 64, 17, 0, 0, 10, 0, 0, 2, 239, 0, 0, 1] ++ beBytes 2 5000 ++ beBytes 2 port ++
    beBytes 2 (8 + payload.length) ++ [0, 0] ++ payload
  f ++ List.replicate (60 - f.length) 0

/-- Port `p` lifted, enabled and linked. -/
def portsUp (p : Nat) (s : State) : State :=
  let s := setReg s (MAC_CTRL p) 0x80000000
  { s with boot := { s.boot with lifted := [p] }, mac := [(p, { MacPort.reset with link := true })] }

/-- Session 5 on port 32 for 239.0.0.1, port 5000; its words. -/
def session : List Word := [0x80080000, 0xEF000001, 0x0A000002, 0x13880000, 0x00020001, 0, 0, 0, 0, 0]
def sessioned : State := portsUp 32 { State.reset with cfg := { Cfg.reset with sessions := [(5, session)] } }

/-- An RTP packet of sequence 1, timestamp 0x10, marker set, with one row of 6 bytes. -/
def rtp : List Byte := bytesOf [0x80, 0x80, 0, 1, 0, 0, 0, 0x10, 0, 0, 0, 0, 0, 0, 0, 6, 0, 0, 0, 0, 1, 2, 3, 4, 5, 6]

/-- The frame in reception of session 5, into handle 1. -/
def inReception : Frame := { ts := 16, handle := some 1, args := session, seqs := [], high := 0, marker := none, pixels := 0,
                             bad := false, complete := false, samples := [] }
def receiving : State := { sessioned with ing := { Ing.reset with sess := [(5, { SessRt.reset with cur := some inReception })] } }

/-- The same with its two pixels and its marker. -/
def wholeFrame : Frame := { inReception with seqs := [1], high := 1, marker := some 1, pixels := 2 }
def completing : State := { sessioned with ing := { Ing.reset with sess := [(5, { SessRt.reset with cur := some wholeFrame })] } }

theorem wit_SessionPacketReceived :
    (∃ f t, accepts sessioned 32 (udpTo 5000 rtp) 3 f t ∧
      (decide (ptpAt f.bytes = none) && match parseUdp f.bytes (f.tci.map fun v => v % 4096) with
        | some u => decide (sessionMatch t 32 u = some 5) && decide (100 + f.bytes.length ≤ 1048576)
        | none => false) = true) ∧
    receiving.canon ∧ (sessOf receiving 5).cur = some inReception ∧ inReception.handle = some 1 ∧ inReception.complete = false ∧
    sessW receiving.cfg 5 2 ≠ 0 ∧ inReception.ts = be rtp 4 4 ∧ 12 ≤ rtp.length ∧ byteAt rtp 0 = 0x80 ∧
    bitOf (sessW receiving.cfg 5 3) 7 = false ∧ rowHeaders (rtp.drop 14) 3 = [(6, false, 0, 0)] ∧
    bitOf (word inReception.args 0) 12 = false ∧ 20 + 6 ≤ rtp.length ∧
    headerError (word inReception.args 0) (bits (word inReception.args 4) 31 16) (bits (word inReception.args 4) 15 0) (6, false, 0, 0) = 0 ∧
    inReception.seqs = [] ∧ fmtYcc (word inReception.args 0) = false ∧ 0 < (pgroup (word inReception.args 0)).2 :=
  ⟨accepts_of (q := fun f t => decide (ptpAt f.bytes = none) && match parseUdp f.bytes (f.tci.map fun v => v % 4096) with
        | some u => decide (sessionMatch t 32 u = some 5) && decide (100 + f.bytes.length ≤ 1048576)
        | none => false) (by decide +kernel), canon_of (by decide +kernel), by decide +kernel⟩

theorem wit_FramesAndCurves :
    (sessOf completing 5).cur = some wholeFrame ∧ wholeFrame.handle = some 1 ∧ frameWhole wholeFrame = true ∧
    frameWhole inReception = false ∧ (sessOf receiving 5).cur = some inReception ∧
    (setReg State.reset ING_CURVE_ADDR 0x00010400).canon ∧ regFld (setReg State.reset ING_CURVE_ADDR 0x00010400) ING_CURVE_ADDR 19 16 = 1 ∧
    regFld (setReg State.reset ING_CURVE_ADDR 0x00010400) ING_CURVE_ADDR 10 0 = 1024 ∧
    curveBusy (setReg State.reset ING_CURVE_ADDR 0x00010400) 1 = false ∧
    curveBusy { setReg State.reset ING_CURVE_ADDR 0x00010400 with cfg := { Cfg.reset with sessions := [(5, [0x81000000])] } } 1 = true :=
  ⟨by decide +kernel, rfl, by decide +kernel, by decide +kernel, by decide +kernel, canon_of (by decide +kernel), by decide +kernel⟩

/-- A session that offers a frame, and a source whose first candidate it is. -/
def freezing : State := { hooping with
  cfg := { Cfg.reset with sessions := [(5, session)], sources := [(1, [0x80020000, 0x40000005, 0, 0, 0])] }
  ing := { Ing.reset with sess := [(5, { SessRt.reset with state := .live, waiting := [⟨16, 1, 2, 1⟩] })] } }

theorem wit_IngestDeadlineFreezes :
    freezing.canon ∧ freezing.hoop.running = true ∧ freezing.hoop.fStarted = true ∧ freezing.hoop.fDue = false ∧
    5 ∈ enabledSessions freezing.cfg ∧ 1 ∈ enabledSources freezing.cfg ∧ candKind freezing.cfg 1 0 = 1 :=
  ⟨canon_of (by decide +kernel), rfl, rfl, rfl, by decide +kernel⟩

/-- An egress schedule of one STITCH entry, entry 0 of port 0, at offset 100. -/
def schedule : List Byte :=
  List.replicate 64 0 ++ leBytes 4 0 ++ leBytes 4 1 ++ List.replicate 248 0 ++ leBytes 4 0x10000000 ++ leBytes 4 100 ++
    leBytes 4 0 ++ leBytes 4 0x00010001
def scheduled : State := portsUp 0 { hooping with cfg := { Cfg.reset with parts := [(4, schedule)] } }

/-- With the frame of that entry built. -/
def built : State := { scheduled with run := { Run.reset with frames := [(0, List.replicate 60 1)] } }

theorem wit_RunBegins :
    hooping.hoop.running = true ∧ hooping.hoop.fStarted = true ∧ hooping.hoop.fDue = false ∧ hooping.hoop.aborted = false ∧
    hooping.run.active = false ∧ pipelineHeld hooping = false ∧
    Run.reset.canon ∧ (prickEntry (partOf State.reset.cfg 0) 0).kind = 0 :=
  ⟨rfl, rfl, rfl, rfl, rfl, rfl, (canon_of (s := State.reset) (by decide +kernel)).run, by decide +kernel⟩

theorem wit_HoopUnderruns :
    scheduled.hoop.running = true ∧ scheduled.hoop.fStarted = true ∧ scheduled.hoop.fDue = false ∧ scheduled.hoop.aborted = false ∧
    (egrOf scheduled 0).handed < portEntries scheduled 0 ∧ (portEntry scheduled 0 (egrOf scheduled 0).handed).kind = 1 ∧
    scheduled.twn.entryAt = none ∧ pipelineHeld scheduled = false ∧ ({ hooping with run := { Run.reset with active := true } } : State).canon :=
  ⟨rfl, rfl, rfl, rfl, by decide +kernel, by decide +kernel, rfl, rfl, canon_of (by decide +kernel)⟩

theorem wit_EgressOfTheRun :
    built.canon ∧ built.hoop.running = true ∧ built.hoop.fStarted = true ∧ built.hoop.fDue = false ∧ built.hoop.aborted = false ∧
    (egrOf built 0).handed < portEntries built 0 ∧ (portEntry built 0 (egrOf built 0).handed).kind = 1 ∧ builtFrame built 0 0 ≠ [] ∧
    drives built = true ∧ keyless built 1 = false ∧ portUp built 0 = true ∧ queueHasRoom built 0 5 = true ∧
    waitingAt built 0 5 = [] ∧ deadlineTaken built = false ∧ built.twn.entryAt = none :=
  ⟨canon_of (by decide +kernel), rfl, rfl, rfl, rfl, by decide +kernel⟩

/-! ### Descriptors: waiting for their block, and transferring -/

/-- `s` with the descriptor `d` of ring 0 ready for its block, and with its transfer under way. -/
def waiting (d : Desc) (s : State) : State := { s with hif := { s.hif with track := [entry 3 d .ready], nextId := 4 } }
def moving (d : Desc) (s : State) : State :=
  { s with hif := { s.hif with track := [{ entry 3 d .running with past := true }], nextId := 4 } }

theorem awaits_waiting (d : Desc) (s : State) (h : s.boot.twinEn = false) : awaits (waiting d s) 0 d (entry 3 d .ready) := by
  simp [awaits, waiting, entry, findTrack, twinRefuses, nextToStart, h]

theorem alone_of {s : State} (h : s.boot.twinEn = false ∧ s.twn.behind = [] ∧ s.twn.acksDue = [] ∧ s.twn.entryAt = none ∧
    s.twn.state ≠ .syncing ∧ (s.hif.track.all fun t => decide (t.origin = .host)) = true) : alone s := by
  refine ⟨h.1, h.2.1, h.2.2.1, h.2.2.2.1, h.2.2.2.2.1, fun t m q => ?_⟩
  have := List.all_eq_true.mp h.2.2.2.2.2 t m
  simp at this
  simp [this]

theorem alone_moving (d : Desc) (s : State) (h : s.boot.twinEn = false) (h1 : s.twn.behind = []) (h2 : s.twn.acksDue = [])
    (h3 : s.twn.entryAt = none) (h4 : s.twn.state ≠ .syncing) : alone (moving d s) := by
  refine ⟨h, h1, h2, h3, h4, ?_⟩
  intro t m q; simp only [moving, List.mem_singleton] at m; subst m; simp [entry]

theorem noLoadWaits_moving (d : Desc) (s : State) (p : Nat) : noLoadWaits (moving d s) p := by
  intro x m _ _; simp only [moving, List.mem_singleton] at m; subst m; simp [entry]

theorem noLoadWaits_waiting (d : Desc) (s : State) (p : Nat) : noLoadWaits (waiting d s) p := by
  intro x m _ _; simp only [waiting, List.mem_singleton] at m; subst m; simp [entry]

/-- A descriptor with HOST_ADDR 4096 and LENGTH `len`. -/
def dataDesc (op obj len : Nat) (args : List Word) : Desc := { desc op obj args with hostAddr := 4096, length := len }

/-! ### Handles, images and staged parts -/

def alloc : Desc := desc 0x01 9 [0x00100008]
def freeing : Desc := desc 0x06 9 []
/-- Handle 9 of 16 × 8 pixels in state `x`. -/
def withHandle (x : HandleState) : State := { State.reset with lay := { Lay.reset with
  handles := [(9, ⟨x, 16, 8, pagesFor 16 8, 0⟩)], freePages := 12287 } }
/-- BUF_WRITE and BUF_READ of a rectangle of 2 × 1 pixels, TABLE_LOAD of part 3, and TABLE_READ. -/
def write : Desc := dataDesc 0x02 9 16 [0, 0, 0x00010001, 0x00020001, 16]
def readBuf : Desc := dataDesc 0x03 9 16 [0, 0, 0x00010001, 0x00020001, 16]

theorem wit_HandlesHoldPixels :
    awaits (waiting alloc State.reset) 0 (withOp 0x01 alloc) (entry 3 alloc .ready) ∧ noData alloc = true ∧
    argsZeroFrom alloc 1 = true ∧ bits (darg alloc 0) 31 16 = 16 ∧ bits (darg alloc 0) 15 0 = 8 ∧
    (handleOf (waiting alloc State.reset) 9).state = .free ∧ pagesFor 16 8 ≤ (waiting alloc State.reset).lay.freePages ∧
    0 < 16 ∧ 16 ≤ 32768 ∧ 0 < 8 ∧ 8 ≤ 32768 ∧ 16 * 8 ≤ 268435456 ∧
    (withHandle .filling).canon ∧ alone (withHandle .filling) ∧ (handleOf (withHandle .filling) 9).state = .filling ∧
    awaits (waiting freeing (withHandle .idle)) 0 (withOp 0x06 freeing) (entry 3 freeing .ready) ∧ noData freeing = true ∧
    argsZeroFrom freeing 0 = true ∧ (handleOf (waiting freeing (withHandle .idle)) 9).state = .idle ∧
    writeInFlight (waiting freeing (withHandle .idle)) 9 = false ∧ readInFlight (waiting freeing (withHandle .idle)) 9 = false ∧
    awaits (waiting write (withHandle .idle)) 0 (withOp 0x02 write) (entry 3 write .ready) ∧ writeBad write = false ∧
    imgFormat write = 0 ∧ (imgFormat write = 2 → formatBad (darg write 1) = false) ∧ lengthBad write (lineBytes write) = false ∧ writeCheck (waiting write (withHandle .idle)) write = stOk ∧
    (moving write (withHandle .idle)).canon ∧ alone (moving write (withHandle .idle)) ∧
    findOp (moving write (withHandle .idle)) 0 7 0x02 = some { entry 3 write .running with past := true } ∧
    rectInside (moving write (withHandle .idle)) write = true ∧ lengthBad write (8 * rectW write) = false ∧
    (handleOf (moving write (withHandle .idle)) 9).w * (handleOf (moving write (withHandle .idle)) 9).h ≤ 2 ^ 28 ∧
    (List.replicate 16 (0 : Byte)).length = write.length ∧ pinned (moving write (withHandle .idle)) 9 = false ∧
    alone (moving write (pin (withHandle .idle) 9 0)) ∧ pinned (moving write (pin (withHandle .idle) 9 0)) 9 = true ∧
    findOp (moving write (pin (withHandle .idle) 9 0)) 0 7 0x02 = some { entry 3 write .running with past := true } ∧
    awaits (waiting readBuf (withHandle .idle)) 0 (withOp 0x03 readBuf) (entry 3 readBuf .ready) ∧ darg readBuf 0 = 0 ∧
    darg readBuf 1 = 0 ∧ rectW readBuf = 2 ∧ rectH readBuf = 1 ∧ argsZeroFrom readBuf 5 = true ∧
    lengthBad readBuf (8 * rectW readBuf) = false ∧ (handleOf (waiting readBuf (withHandle .idle)) 9).state = .idle ∧
    rectInside (waiting readBuf (withHandle .idle)) readBuf = true ∧
    alone (moving readBuf (withHandle .idle)) ∧
    transferOf (moving readBuf (withHandle .idle)) 0 7 = some { entry 3 readBuf .running with past := true } := by
  constructorm* _ ∧ _
  all_goals
    first
    | exact canon_of (by decide +kernel) | exact sound_of (by decide +kernel) | exact alone_of (by decide +kernel)
    | exact awaits_waiting _ _ rfl | decide +kernel | rfl
    | (unfold awaits; decide +kernel) | (unfold noLoadWaits; decide +kernel)

/-- TABLE_LOAD of the curves of part 5: a BEGIN block of 8 bytes, one that goes on, and the last one. -/
def loadFirst : Desc := dataDesc 0x11 3 8 [0, 0x80000000, 1048792]
def loadNext : Desc := dataDesc 0x11 3 8 [8, 0, 0]
def loadLast : Desc := dataDesc 0x11 3 8 [8, 0x40000000, 0]
def withStage (n size : Nat) (s : State) : State := { s with stages := [(3, ⟨.loading, 0, size, List.replicate n 1, none⟩)] }
def tableRead (copy : Word) : Desc := dataDesc 0x12 4 8 [0, copy]
def activeRead : State := { State.reset with cfg := { Cfg.reset with parts := [(4, schedule)] } }
def stagedRead : State := { State.reset with stages := [(4, ⟨.valid, 0, 336, schedule, none⟩)] }

/-- A read of part 3 runs from the copy that is not active, and a BEGIN waits. -/
def spareRead : State := { State.reset with spareReads := [2], hif := { Hif.reset with
  track := [entry 2 (dataDesc 0x12 3 8 [0, 1]) .running, entry 3 loadFirst .ready], nextId := 4 } }
def post : Desc := dataDesc 0x31 33 256 [1]
def raw : Desc := dataDesc 0x30 33 100 [2]
def storeWrite (fmt : Word) (len : Nat) : Desc := { desc 0x44 0 [fmt] with length := len }
/-- A received frame is on its way to the buffer of an RX_POST. -/
def taking : State := setPort (moving post State.reset) 33 { MacPort.reset with rxWrites := [⟨3, [1], 17, 0⟩] }

theorem wit_PartsAreStaged :
    awaits (waiting loadFirst State.reset) 0 (withOp 0x11 loadFirst) (entry 3 loadFirst .ready) ∧
    loadRunning (waiting loadFirst State.reset) 3 = false ∧ loadCheck (waiting loadFirst State.reset) loadFirst = (stOk, 0) ∧
    noLoadWaits (waiting loadFirst State.reset) 3 ∧
    loadBegin loadFirst = true ∧ readHolds (waiting loadFirst State.reset) 3 = false ∧
    awaits spareRead 0 (withOp 0x11 loadFirst) (entry 3 loadFirst .ready) ∧ loadRunning spareRead 3 = false ∧ noLoadWaits spareRead 3 ∧
    loadCheck spareRead loadFirst = (stOk, 0) ∧ readHolds spareRead 3 = true ∧
    awaits (waiting loadNext (withStage 8 24 State.reset)) 0 (withOp 0x11 loadNext) (entry 3 loadNext .ready) ∧
    loadRunning (waiting loadNext (withStage 8 24 State.reset)) 3 = false ∧
    noLoadWaits (waiting loadNext (withStage 8 24 State.reset)) 3 ∧
    loadCheck (waiting loadNext (withStage 8 24 State.reset)) loadNext = (stOk, 0) ∧ loadBegin loadNext = false ∧
    (moving loadNext (withStage 8 24 State.reset)).canon ∧ alone (moving loadNext (withStage 8 24 State.reset)) ∧
    transferOf (moving loadNext (withStage 8 24 State.reset)) 0 7 = some { entry 3 loadNext .running with past := true } ∧
    noLoadWaits (moving loadNext (withStage 8 24 State.reset)) 3 ∧ loadEnd loadNext = false ∧
    (moving loadLast (withStage 16 16 State.reset)).canon ∧ alone (moving loadLast (withStage 16 16 State.reset)) ∧
    validating (moving loadLast (withStage 16 16 State.reset)) 3 = some { entry 3 loadLast .running with past := true } ∧
    noLoadWaits (moving loadLast (withStage 16 16 State.reset)) 3 ∧
    (validate 3 (stageOf (moving loadLast (withStage 16 16 State.reset)) 3).data 16).isSome = true ∧
    transferOf (moving write State.reset) 0 7 = some { entry 3 write .running with past := true } ∧ (moving write State.reset).canon ∧
    transferOf (moving readBuf State.reset) 0 7 = some { entry 3 readBuf .running with past := true } ∧ (moving readBuf State.reset).canon ∧
    transferOf (moving loadNext State.reset) 0 7 = some { entry 3 loadNext .running with past := true } ∧ (moving loadNext State.reset).canon ∧
    transferOf (moving (tableRead 0) State.reset) 0 7 = some { entry 3 (tableRead 0) .running with past := true } ∧ (moving (tableRead 0) State.reset).canon ∧
    transferOf (moving (storeWrite 0 8) State.reset) 0 7 = some { entry 3 (storeWrite 0 8) .running with past := true } ∧ (moving (storeWrite 0 8) State.reset).canon ∧
    transferOf { moving raw State.reset with hif := { Hif.reset with track := [entry 3 raw .running] } } 0 7 = some (entry 3 raw .running) ∧
    transferOf taking 0 7 = some { entry 3 post .running with past := true } ∧ taking.canon ∧
    awaits (waiting (tableRead 0) activeRead) 0 (withOp 0x12 (tableRead 0)) (entry 3 (tableRead 0) .ready) ∧
    argsZeroFrom (tableRead 1) 2 = true ∧ darg (tableRead 0) 1 = 0 ∧ partOf (waiting (tableRead 0) activeRead).cfg 4 ≠ [] ∧
    0 + 8 ≤ (partOf (waiting (tableRead 0) activeRead).cfg 4).length ∧
    awaits (waiting (tableRead 1) stagedRead) 0 (withOp 0x12 (tableRead 1)) (entry 3 (tableRead 1) .ready) ∧ darg (tableRead 1) 1 = 1 ∧
    (stageOf (waiting (tableRead 1) stagedRead) 4).state = .valid ∧ (stageOf (waiting (tableRead 1) stagedRead) 4).hole = none ∧
    alone (moving (tableRead 0) activeRead) ∧
    transferOf (moving (tableRead 0) activeRead) 0 7 = some { entry 3 (tableRead 0) .running with past := true } ∧
    noLoadWaits (moving (tableRead 0) activeRead) 4 := by
  constructorm* _ ∧ _
  all_goals
    first
    | exact canon_of (by decide +kernel) | exact sound_of (by decide +kernel) | exact alone_of (by decide +kernel)
    | exact awaits_waiting _ _ rfl | decide +kernel | rfl
    | (unfold awaits; decide +kernel) | (unfold noLoadWaits; decide +kernel)
    | (unfold noBlockWaits; decide +kernel) | (unfold distinctIds; decide +kernel) | (unfold noneReady; rfl)
    | (unfold noneReady; decide +kernel)

/-! ### Descriptors of the ports and of the store -/

def nop : Desc := desc 0x62 0 []
/-- ABORT of tag 9 on ring 0, and a second entry with tag 9 that waits or is past its point of no return. -/
def abort : Desc := desc 0x60 0 [9]
def target (past : Bool) : Track := { entry 2 { desc 0x30 32 [] with tag := 9 } .running with past := past }
def aborting (past : Bool) : State := { State.reset with hif := { Hif.reset with
  track := [target past, entry 3 abort .ready], nextId := 4 } }

/-- An entry of ring 0 held back, with nothing before it. -/
def heldBack : State := { served with hif := { Hif.reset with track := [entry 3 owner .held] } }

theorem wit_TrackerDescriptors :
    served.canon ∧ ringServes served 0 = true ∧ malformed served 0 (withOp 0x62 nop) = false ∧
    malformed served 0 (withOp 0x61 nop) = false ∧ noData nop = true ∧ argsZeroFrom nop 0 = true ∧ Desc.silent nop = false ∧
    (∀ x, x ∈ served.hif.track → x.ring ≠ 0 ∧ x.id < served.hif.nextId) ∧
    nextToStart heldBack 0 = some (entry 3 owner .held) ∧ findTrack heldBack 3 = some (entry 3 owner .held) ∧
    malformed served 0 owner = false ∧ motifRefused served 0 owner = false ∧ owner.opcode ≠ 0x61 ∧ owner.opcode ≠ 0x62 ∧
    nextToStart arriving 0 = some (entry 3 owner .ready) ∧ findTrack arriving 3 = some (entry 3 owner .ready) ∧
    awaits (aborting false) 0 (withOp 0x60 abort) (entry 3 abort .ready) ∧ (entry 3 abort .ready).orphan = false ∧
    (entry 3 abort .ready).fwd = false ∧ Desc.silent abort = false ∧ noData abort = true ∧
    argsZeroFrom abort 1 = true ∧ bits (darg abort 0) 30 16 = 0 ∧ bitOf (darg abort 0) 31 = false ∧
    ((abortable (aborting false) 0).filter fun t => decide (t.desc.tag = 9)).head? = some (target false) ∧
    findTrack (aborting false) 2 = some (target false) ∧ (target false).origin = .host ∧ (target false).desc.opcode ≠ 0x61 ∧
    (target false).phase.finished = false ∧ distinctIds (aborting false) ∧ (aborting false).upd.jobs = [] ∧
    awaits (aborting true) 0 (withOp 0x60 abort) (entry 3 abort .ready) ∧
    ((abortable (aborting true) 0).filter fun t => decide (t.desc.tag = 9)).head? = some (target true) ∧
    findTrack (aborting true) 2 = some (target true) ∧ (target true).past = true ∧ (target true).phase = .running ∧
    distinctIds (aborting true) ∧ (aborting true).upd.jobs = [] := by
  constructorm* _ ∧ _
  all_goals
    first
    | exact canon_of (by decide +kernel) | exact sound_of (by decide +kernel) | exact alone_of (by decide +kernel)
    | decide +kernel | rfl
    | (unfold awaits; decide +kernel) | (unfold noLoadWaits; decide +kernel)
    | (unfold noBlockWaits; decide +kernel) | (unfold distinctIds; decide +kernel) | (unfold noneReady; rfl)
    | (unfold noneReady; decide +kernel)

def digest : Desc := desc 0x23 2 [5]
def filter : Desc := desc 0x32 33 [0x90000001, 0x88F7]

/-- Digests of hoop 5 are kept; and the frame of a RAW_TX, once its data is read. -/
def digested : State := { State.reset with egr := { Egr.reset with digests := [⟨5, false, [1, 2, 3]⟩] } }
def rawRead : State := { portsUp 33 State.reset with hif := { Hif.reset with track := [entry 3 raw .running] } }

theorem wit_PortDescriptors :
    awaits (waiting digest digested) 0 (withOp 0x23 digest) (entry 3 digest .ready) ∧ noData digest = true ∧
    argsZeroFrom digest 1 = true ∧
    ((waiting digest digested).egr.digests.find? fun r => decide (r.hoop = w32 (darg digest 0))) = some ⟨5, false, [1, 2, 3]⟩ ∧
    awaits (waiting digest State.reset) 0 (withOp 0x23 digest) (entry 3 digest .ready) ∧
    ((waiting digest State.reset).egr.digests.find? fun r => decide (r.hoop = w32 (darg digest 0))) = none ∧
    awaits (waiting filter State.reset) 0 (withOp 0x32 filter) (entry 3 filter .ready) ∧ noData filter = true ∧
    argsZeroFrom filter 5 = true ∧ bits (darg filter 0) 27 3 = 0 ∧ darg filter 1 < 65536 ∧ darg filter 3 % 65536 = 0 ∧ darg filter 4 < 65536 ∧
    awaits (waiting post State.reset) 0 (withOp 0x31 post) (entry 3 post .ready) ∧ argsZeroFrom post 1 = true ∧ darg post 0 < 8 ∧
    256 ≤ post.length ∧ post.length ≤ 16384 ∧ post.length % 64 = 0 ∧ (postedOn (waiting post State.reset) 33).length < 64 ∧
    awaits (waiting raw State.reset) 0 (withOp 0x30 raw) (entry 3 raw .ready) ∧ argsZeroFrom raw 1 = true ∧ darg raw 0 < 1024 ∧
    bits (darg raw 0) 7 2 = 0 ∧ darg raw 0 % 4 ≠ 3 ∧ 14 ≤ raw.length ∧ raw.length + 4 ≤ maxFrame (waiting raw State.reset) 33 ∧
    32 ≤ raw.object ∧ alone rawRead ∧ transferOf rawRead 0 7 = some (entry 3 raw .running) ∧
    portUp rawRead 33 = true ∧ queueHasRoom rawRead 33 2 = true ∧ waitingAt rawRead 33 2 = [] ∧
    alone taking ∧ transferOf taking 0 7 = some { entry 3 post .running with past := true } ∧
    rxWriteOf taking { entry 3 post .running with past := true } = some ⟨3, [1], 17, 0⟩ := by
  constructorm* _ ∧ _
  all_goals
    first
    | exact canon_of (by decide +kernel) | exact sound_of (by decide +kernel) | exact alone_of (by decide +kernel)
    | exact awaits_waiting _ _ rfl | decide +kernel | rfl
    | (unfold awaits; decide +kernel) | (unfold noLoadWaits; decide +kernel)
    | (unfold noBlockWaits; decide +kernel) | (unfold distinctIds; decide +kernel) | (unfold noneReady; rfl)
    | (unfold noneReady; decide +kernel)

def block : Desc := dataDesc 0x40 0 64 [0, 0x80000000, 1024]
def verify : Desc := desc 0x41 0 []
def activate : Desc := desc 0x42 0 [0]
def confirm (revert : Word) : Desc := desc 0x43 0 [revert]
/-- UPD in image state `x`, with permission and, where asked, a trial and a fallback copy. -/
def upd (x : ImageState) (u : Upd) : State :=
  { State.reset with psm := { Psm.reset with writeOk := true }, upd := { u with istate := x } }
def verifyingNow : State := setCvu (upd .loaded { Upd.reset with verifying := some 3 }) 3 { Cvu.reset with owner := some 0x1FE }
def trialNow : State := upd .empty { Upd.reset with trial := some ⟨0, 60, false, 2⟩ }

/-- The same without permission; and blocks and data that end the image, with a header of the wrong magic. -/
def barred (s : State) : State := { s with psm := { s.psm with writeOk := false } }
def blockNext : Desc := dataDesc 0x40 0 64 [256, 0, 0]
def blockSize : Desc := dataDesc 0x40 0 64 [0, 0x80000000, 320]
def loadingNow : State := { State.reset with upd := { Upd.reset with istate := .loading, size := 320, image := List.replicate 256 0 } }

theorem wit_ImagesAreTried :
    awaits (waiting block State.reset) 0 (withOp 0x40 block) (entry 3 block .ready) ∧ blockRunning (waiting block State.reset) = false ∧
    noBlockWaits (waiting block State.reset) ∧ blockCheck (waiting block State.reset) block = (stOk, 0) ∧
    alone (moving block State.reset) ∧ transferOf (moving block State.reset) 0 7 = some { entry 3 block .running with past := true } ∧
    findTrack (moving block State.reset) 3 = some { entry 3 block .running with past := true } ∧
    noBlockWaits (moving block State.reset) ∧ blockCheck (moving block State.reset) block = (stOk, 0) ∧ blockBegin block = true ∧
    alone (moving blockNext loadingNow) ∧
    transferOf (moving blockNext loadingNow) 0 7 = some { entry 3 blockNext .running with past := true } ∧
    findTrack (moving blockNext loadingNow) 3 = some { entry 3 blockNext .running with past := true } ∧
    noBlockWaits (moving blockNext loadingNow) ∧ blockCheck (moving blockNext loadingNow) blockNext = (stOk, 0) ∧
    headerErr 0 (List.replicate 320 0) ≠ 0 ∧
    awaits (waiting verify (upd .loaded Upd.reset)) 0 (withOp 0x41 verify) (entry 3 verify .ready) ∧ noData verify = true ∧
    argsZeroFrom verify 0 = true ∧ (waiting verify (upd .loaded Upd.reset)).upd.istate = .loaded ∧
    (waiting verify (upd .loaded Upd.reset)).upd.verifying = none ∧ (cvuOf (waiting verify (upd .loaded Upd.reset)) 3).owner = none ∧
    verifyingNow.canon ∧ verifyingNow.upd.verifying = some 3 ∧ (cvuOf verifyingNow 3).owner = some 0x1FE ∧ verifyingNow.upd.istate = .loaded ∧
    awaits (waiting activate (upd .verified Upd.reset)) 0 (withOp 0x42 activate) (entry 3 activate .ready) ∧ noData activate = true ∧
    argsZeroFrom activate 1 = true ∧ darg activate 0 < 4096 ∧ (waiting activate (upd .verified Upd.reset)).upd.istate = .verified ∧
    (waiting activate (upd .verified Upd.reset)).upd.trial = none ∧ (waiting activate (upd .verified Upd.reset)).upd.jobs = [] ∧
    (waiting activate (upd .verified Upd.reset)).boot.mode = 0 ∧ (waiting activate (upd .verified Upd.reset)).psm.writeOk = true ∧
    awaits (waiting activate (barred (upd .verified Upd.reset))) 0 (withOp 0x42 activate) (entry 3 activate .ready) ∧
    (waiting activate (barred (upd .verified Upd.reset))).psm.writeOk = false ∧
    (upd .scheduled { Upd.reset with act := some ⟨3, 60, 2, some 9⟩ }).upd.act = some ⟨3, 60, 2, some 9⟩ ∧
    trialNow.upd.trial = some ⟨0, 60, false, 2⟩ ∧ trialNow.upd.reverting = none ∧ trialNow.upd.jobs = [] ∧ trialNow.psm.writeOk = true ∧
    awaits (waiting (confirm 0) trialNow) 0 (withSub 0x43 0 0 0 (confirm 0)) (entry 3 (confirm 0) .ready) ∧ noData (confirm 0) = true ∧
    argsZeroFrom (confirm 0) 0 = true ∧ trialNow.tim.left = 0 ∧
    awaits (waiting (confirm 0) (barred trialNow)) 0 (withSub 0x43 0 0 0 (confirm 0)) (entry 3 (confirm 0) .ready) ∧
    (barred trialNow).psm.writeOk = false ∧ (waiting (confirm 1) trialNow).canon ∧ noneReady (waiting (confirm 1) trialNow) ∧
    awaits (waiting (confirm 1) trialNow) 0 (withSub 0x43 0 0 1 (confirm 0)) (entry 3 (confirm 1) .ready) ∧
    (upd .empty { Upd.reset with reverting := some 1, fallback := some ⟨[], [], [], [], [], [], [], []⟩ }).upd.reverting = some 1 := by
  constructorm* _ ∧ _
  all_goals
    first
    | exact canon_of (by decide +kernel) | exact sound_of (by decide +kernel) | exact alone_of (by decide +kernel)
    | exact awaits_waiting _ _ rfl | decide +kernel | rfl
    | (unfold awaits; decide +kernel) | (unfold noLoadWaits; decide +kernel)
    | (unfold noBlockWaits; decide +kernel) | (unfold distinctIds; decide +kernel) | (unfold noneReady; rfl)
    | (unfold noneReady; decide +kernel)

def storeRead : Desc := dataDesc 0x45 5 8 [1]
/-- Record 5 of the current bank holds four bytes, the store is READY and nothing waits. -/
def stored : State := { setReg State.reset UPD_FW_ADDR 0x20000000 with
  psm := { Psm.reset with writeOk := true }, upd := { Upd.reset with storeReady := true }
  keep := { Keep.reset with sectors := [(slotSector 0 5, recordBytes' 0 5 [1, 2, 3, 4])] } }
def inMode (m : Nat) (s : State) : State := { s with boot := { s.boot with mode := m } }
def storeJob (steps : Nat) (waits : Option Nat) : StoreJob :=
  ⟨.write, .firmware, 5, false, 4, [1, 2, 3, 4], steps, true, 0, 0, waits⟩
/-- A store request under way; and a STORE_READ whose host write is under way. -/
def working (steps : Nat) (waits : Option Nat) : State := { stored with upd := { stored.upd with jobs := [storeJob steps waits] } }
def readingStore (s : State) : State := { moving storeRead s with
  upd := { s.upd with jobs := [⟨.read, .host 3, 5, true, 8, [1, 2, 3, 4], 0, true, 0, 0, none⟩] } }
def journalled : State := { stored with
  upd := Upd.reset, key := { Key.reset with loaded := true }, keep := { Keep.reset with journal := [(0, some ⟨1, 0, 0, 5, [1], false⟩)] } }

theorem wit_StoreWorks :
    stored.upd.jobs = [] ∧ argsZeroFrom (storeWrite 0 8) 1 = true ∧
    awaits (waiting (storeWrite 0 8) stored) 0 (withSub 0x44 31 31 0 (storeWrite 0 8)) (entry 3 (storeWrite 0 8) .ready) ∧
    bits (darg (storeWrite 0 8) 0) 30 0 = 0 ∧ stored.boot.mode ≠ 2 ∧
    awaits (waiting (storeWrite 0x80000000 0) (inMode 1 stored)) 0 (withSub 0x44 31 31 1 (storeWrite 0x80000000 0))
      (entry 3 (storeWrite 0x80000000 0) .ready) ∧ (inMode 1 stored).boot.mode = 1 ∧ stored.upd.storeReady = true ∧ stored.psm.writeOk = true ∧
    alone (moving (storeWrite 0 8) stored) ∧
    transferOf (moving (storeWrite 0 8) stored) 0 7 = some { entry 3 (storeWrite 0 8) .running with past := true } ∧
    (moving (storeWrite 0 8) stored).upd.storeReady = true ∧ (moving (storeWrite 0 8) stored).psm.writeOk = true ∧
    awaits (waiting storeRead stored) 0 (withOp 0x45 storeRead) (entry 3 storeRead .ready) ∧ darg storeRead 0 = 1 ∧
    (match recordNow stored (confirmNow stored).current (confirmNow stored).curGen 5 with
      | .ok bs => decide (bs = [1, 2, 3, 4]) | _ => false) = true ∧
    alone (readingStore stored) ∧ transferOf (readingStore stored) 0 7 = some { entry 3 storeRead .running with past := true } ∧
    (readingStore stored).upd.jobs = [⟨.read, .host 3, 5, true, 8, [1, 2, 3, 4], 0, true, 0, 0, none⟩] ∧
    stored.canon ∧ stored.upd.fwBusy = false ∧ inShared (reg stored UPD_FW_ADDR).toNat (fld (0x20004005 : Word) 23 12) = true ∧
    bitW 0x20004005 30 = false ∧ bitW 0x20004005 31 = false ∧ bitW 0x20004005 29 = true ∧ 4 ≤ fld (0x20004005 : Word) 23 12 ∧
    fld (0x20004005 : Word) 11 0 = 5 ∧
    (working 3 none).canon ∧ (working 3 none).upd.jobs = [storeJob 3 none] ∧ (storeJob 3 none).started = true ∧
    (storeJob 3 none).waiting = none ∧ (storeJob 3 none).kind = .write ∧ (working 3 none).psm.writeOk = true ∧
    (working 4 none).canon ∧ (working 4 none).upd.jobs = [storeJob 4 none] ∧
    (working 4 (some 9)).upd.jobs = [storeJob 4 (some 9)] ∧ (storeJob 4 (some 9)).waiting = some 9 ∧
    journalled.canon ∧ journalled.key.loaded = true ∧ journalled.upd.storeReady = false ∧ journalled.upd.jobs = [] ∧
    journalDue journalled = some (0, ⟨1, 0, 0, 5, [1], false⟩) ∧ journalled.psm.writeOk = true ∧
    ({ stored with upd := Upd.reset, key := { Key.reset with loaded := true } } : State).canon ∧
    journalDue { stored with upd := Upd.reset } = none := by
  constructorm* _ ∧ _
  all_goals
    first
    | exact canon_of (by decide +kernel) | exact sound_of (by decide +kernel) | exact alone_of (by decide +kernel)
    | exact awaits_waiting _ _ rfl | decide +kernel | rfl
    | (unfold awaits; decide +kernel) | (unfold noLoadWaits; decide +kernel)
    | (unfold noBlockWaits; decide +kernel) | (unfold distinctIds; decide +kernel) | (unfold noneReady; rfl)
    | (unfold noneReady; decide +kernel)
    | (rw [show withSub 0x44 31 31 0 (storeWrite 0 8) = storeWrite 0 8 from by decide +kernel]; exact awaits_waiting _ _ rfl)
    | (rw [show withSub 0x44 31 31 1 (storeWrite 0x80000000 0) = storeWrite 0x80000000 0 from by decide +kernel]
       exact awaits_waiting _ _ rfl)

theorem wit_SamplerWaits :
    awaits (waiting (desc 0x73 0 []) State.reset) 0 (withOp 0x73 (desc 0x73 0 [])) (entry 3 (desc 0x73 0 []) .ready) ∧
    noData (desc 0x73 0 []) = true ∧ argsZeroFrom (desc 0x73 0 []) 0 = true :=
  ⟨awaits_waiting _ _ rfl, by decide +kernel, by decide +kernel⟩

/-! ### The twin pair -/

/-- A unit of side 0 in a twin pair in role `r`, its key in slot 3, port 36 up. -/
def twin (r : TwinState) : State :=
  let s := portsUp 36 (withRegs [(TWN_LINK, 0x88B50003)])
  { s with boot := { s.boot with twinEn := true }, key := { Key.reset with slots := [(3, ⟨List.replicate 32 7, 8, false⟩)] }
           twn := { Twn.reset with state := r, booted := true } }

/-- A message of the partner, of TYPE `kind` in one fragment with sequence number 5, and its frame with the tag `tag`. -/
def twinMessage (kind : Nat) (hoop : Hoop) (arg : Nat) (payload : List Byte) : List Byte :=
  bytesOf [1, kind, 1, 0x83] ++ beBytes 4 0 ++ beBytes 8 5 ++ beBytes 4 hoop.toNat ++ beBytes 4 payload.length ++
    beBytes 2 0 ++ beBytes 2 1 ++ beBytes 4 arg ++ payload
def twinFrame (kind : Nat) (hoop : Hoop) (arg : Nat) (payload : List Byte) (tag : Nat) : List Byte :=
  pad60 (twinMac ++ List.replicate 6 0 ++ [0x88, 0xB5] ++ twinMessage kind hoop arg payload ++ beBytes 16 tag)

/-- What `hears` asks, with a further condition on the message and the state after it. -/
def heardAs (s : State) (p kind : Nat) (frame : List Byte) (q : TwinMsg → State → Bool) : Bool :=
  (match twinContent s frame with | some b => decide (byteAt b 1 = kind) | none => false) &&
    match twinTake s p frame with
    | (some m, t) => q m t
    | _ => false

theorem hears_of {s : State} {p kind : Nat} {frame : List Byte} {q : TwinMsg → State → Bool}
    (h : heardAs s p kind frame q = true) : ∃ m t, hears s p kind frame m t ∧ q m t = true := by
  unfold heardAs at h
  simp only [Bool.and_eq_true] at h
  obtain ⟨h1, h2⟩ := h
  split at h1
  · rename_i b e
    split at h2
    · rename_i m t e2
      exact ⟨m, t, ⟨⟨b, e, of_decide_eq_true h1⟩, e2⟩, h2⟩
    · cases h2
  · cases h1

theorem wit_PartnerLeads_status :
    ∃ m t, hears (twin .cold) 36 1 (twinFrame 1 5 0 [] 55492141573258157179651859504024293027) m t ∧
      decide (t.twn.state = .cold) = true := hears_of (by decide +kernel)

theorem wit_PartnerLeads_digest :
    ∃ m t, hears (twin .cold) 36 2 (twinFrame 2 5 0 [] 118175150087548973375934522301230853242) m t ∧
      decide (m.kind = 2) = true := hears_of (q := fun m _ => decide (m.kind = 2)) (by decide +kernel)

theorem wit_PartnerLeads_resign :
    ∃ m t, hears (twin .standby) 36 7 (twinFrame 7 5 12 [] 164068604105517437029203677384043761605) m t ∧
      decide (t.twn.state = .standby) = true := hears_of (by decide +kernel)

theorem wit_PartnerLeads_desc :
    ∃ m t, hears (twin .standby) 36 3 (twinFrame 3 5 9 (descBytes owner) 240736828168278183566448217469445424953) m t ∧
      (decide (t.twn.state = .standby ∧ t.twn.behind = [] ∧ m.kind = 3 ∧ m.arg ≠ noSet)) = true := hears_of (by decide +kernel)

/-- A standby in hoop 9 that has received one member of its set. -/
def following : State := let s := twin .standby; { s with
  twn := { s.twn with received := [⟨4, 9, owner⟩] }, hoop := { hooping.hoop with number := 9 } }

/-- The CLOSE names every member received, and the set passes its checks here too. -/
def closes (m : TwinMsg) (t : State) : Bool :=
  let mine := t.twn.received.filter fun f => decide (f.set = m.hoop.toNat)
  let r := { t with twn := { t.twn with received := t.twn.received.filter fun f => decide (f.set ≠ m.hoop.toNat) } }
  decide (t.twn.state = .standby ∧ t.twn.behind = [] ∧ m.kind = 4 ∧ m.arg = stOk) && !later m.hoop t.hoop.fNumber &&
    decide (mine.length = be m.payload 0 4 ∧ mine.length = 1) && (setChecks r (endStateOf r (mine.map twinMember))).isNone

theorem wit_PartnerLeads_close :
    ∃ m t, hears following 36 4 (twinFrame 4 9 0 [0, 0, 0, 1] 93358336893508059048830900332754740227) m t ∧ closes m t = true :=
  hears_of (by decide +kernel)

theorem wit_PartnerLeads_empty :
    ∃ m t, hears (twin .standby) 36 4 (twinFrame 4 9 0 [0, 0, 0, 0] 277209459184264312416673988679630729303) m t ∧
      decide (t.twn.received = [] ∧ be m.payload 0 4 = 0) = true := hears_of (by decide +kernel)

theorem wit_PartnerLeads_short :
    ∃ m t, hears (twin .standby) 36 4 (twinFrame 4 9 0 [0, 0, 0, 1] 93358336893508059048830900332754740227) m t ∧
      decide (t.twn.received.length ≠ be m.payload 0 4) = true := hears_of (by decide +kernel)

theorem wit_PartnerLeads_live :
    ∃ m t, hears (twin .standby) 36 5 (twinFrame 5 5 0 [] 198562005954253487745810885386628171903) m t ∧
      decide (t.twn.state = .standby ∧ t.twn.behind = []) = true := hears_of (by decide +kernel)

/-- A unit that synchronises, and the same with nothing held behind the copy. -/
def copying : State := twin .syncing

theorem wit_CopyAndSynchronising_received :
    copying.canon ∧
    (∃ m t, hears copying 36 3 (twinFrame 3 5 9 (descBytes owner) 240736828168278183566448217469445424953) m t ∧
      decide (t.twn.state = .syncing ∧ t.twn.behind = [] ∧ (copyObjects.all fun o => t.twn.applied.contains o) = false) = true) ∧
    (∃ m t, hears copying 36 6 (twinFrame 6 5 0x40000000 (List.replicate 16 0 ++ [1, 2]) 173808279601652536667589494550339779765) m t ∧
      decide (t.twn.pieces = [] ∧ t.twn.acksDue = [] ∧ be m.payload 0 2 < 7 ∧ be m.payload 8 8 = 0 ∧ bitOf m.arg 31 = false ∧
        bitOf m.arg 30 = true) = true) :=
  ⟨canon_of (by decide +kernel), hears_of (by decide +kernel), hears_of (q := fun m t => decide (t.twn.pieces = [] ∧ t.twn.acksDue = [] ∧
    be m.payload 0 2 < 7 ∧ be m.payload 8 8 = 0 ∧ bitOf m.arg 31 = false ∧ bitOf m.arg 30 = true)) (by decide +kernel)⟩

/-- The same, with the 250 ms running since cycle `c`. -/
def copyingFrom (c : Nat) : State := { copying with twn := { copying.twn with syncFrom := some c } }

def twinSync : Desc := desc 0x71 0 []
def mirror : Desc := desc 0x72 9 []
def sampler : Desc := desc 0x73 0 []
/-- A cold unit that hears a driving partner, a driving one with an object to send, and one that waits to try again. -/
def hearing (c : Option Nat) : State := let s := twin .cold; { s with twn := { s.twn with linkUp := true, partnerDriving := true, retryAt := c } }
def driving (len : Nat) : State := let s := twin .active; { s with
  twn := { s.twn with driving := true, linkUp := true, partner := 2, sendq := [⟨0, 0, false, List.replicate len 0, 0, none⟩] }
  lay := (withHandle .idle).lay }

theorem wit_CopyAndSynchronising :
    (waiting twinSync (hearing none)).canon ∧ awaits (waiting twinSync (hearing none)) 0 (withOp 0x71 twinSync) (entry 3 twinSync .ready) ∧
    noData twinSync = true ∧ argsZeroFrom twinSync 0 = true ∧ maySync (waiting twinSync (hearing none)) = true ∧
    (driving 9).canon ∧ (driving 9).twn.sendq ≠ [] ∧ mayTwin (driving 9) = true ∧ (driving 9).twn.driving = true ∧
    portUp (driving 9) (nextDataPort (driving 9)) = true ∧ queueHasRoom (driving 9) (nextDataPort (driving 9)) 5 = true ∧
    (hearing none).twn.driving = false ∧ (copyingFrom 5).canon ∧ (copyingFrom 5).boot.twinEn = true ∧
    (copyingFrom 5).twn.state = .syncing ∧ (copyingFrom 5).twn.syncFrom = some 5 ∧
    (hearing (some 9)).canon ∧ (hearing (some 9)).twn.retryAt = some 9 ∧ regBit (hearing (some 9)) TWN_CTRL 31 = true ∧
    maySync (hearing (some 9)) = true ∧ (hearing (some 9)).twn.booted = true ∧ (hearing (some 9)).twn.noAuto = false ∧
    regBit (setReg (hearing (some 9)) TWN_CTRL 0) TWN_CTRL 31 = false := by
  constructorm* _ ∧ _
  all_goals
    first
    | exact canon_of (by decide +kernel) | exact sound_of (by decide +kernel) | exact alone_of (by decide +kernel)
    | exact awaits_waiting _ _ rfl | decide +kernel | rfl
    | (unfold awaits; decide +kernel) | (unfold noLoadWaits; decide +kernel)
    | (unfold noBlockWaits; decide +kernel) | (unfold distinctIds; decide +kernel) | (unfold noneReady; rfl)
    | (unfold noneReady; decide +kernel)

/-- A driving unit whose forwarded descriptor is not acknowledged yet. -/
def unacked (track : Option Nat) (kind : Nat) : State := let s := driving 9; { s with twn := { s.twn with awaiting := [⟨track, 77, 0, kind, []⟩] } }

theorem wit_AcksAndLiveFields_ack :
    ∃ m t, hears (unacked (some 3) 6) 36 8 (twinFrame 8 5 77 [0] 299502815457928577883424492474015354122) m t ∧
      decide ((t.twn.awaiting.find? fun a => decide (a.seq % 2 ^ 32 = m.arg)) = some ⟨some 3, 77, 0, 6, []⟩) = true :=
  hears_of (q := fun m t => decide ((t.twn.awaiting.find? fun a => decide (a.seq % 2 ^ 32 = m.arg)) = some ⟨some 3, 77, 0, 6, []⟩))
    (by decide +kernel)

/-- A standby with live fields that wait for hoop 9. -/
def living : State := let s := twin .standby; { s with
  hoop := hooping.hoop, twn := { s.twn with liveQueue := [(8, [⟨40, some 0x1900, none, 0⟩])] } }

theorem wit_AcksAndLiveFields :
    ((unacked none 3).twn.awaiting.find? fun a => decide (a.kind = 3)) = some ⟨none, 77, 0, 3, []⟩ ∧ pairJoined (unacked none 3) = true ∧
    living.canon ∧ living.boot.twinEn = true ∧ living.hoop.fStarted = true ∧ living.twn.liveAt ≠ some living.hoop.fNumber ∧
    living.twn.driving = false ∧ living.twn.liveQueue = [(8, [⟨40, some 0x1900, none, 0⟩])] ∧ 8 + 1 = living.hoop.fNumber :=
  ⟨by decide +kernel, by decide +kernel, canon_of (by decide +kernel), rfl, rfl, by decide +kernel, rfl, rfl, by decide +kernel⟩

/-- A standby at its decision point with heartbeat and link as given. -/
def deciding (hb link : Bool) (last : Nat) : State := let s := twin .standby; { s with
  hoop := hooping.hoop
  twn := { s.twn with hbPresent := hb, linkUp := link, lastLost := last, linkedNow := [3], linkedLast := [3] } }

/-- The same, called to drive from hoop 10. -/
def resigned (s : State) : State := { s with twn := { s.twn with resign := some 10 } }

theorem wit_TwinLifeAndDecision :
    (deciding true true 0).boot.twinEn = true ∧ (deciding true true 0).hoop.running = true ∧ (deciding true true 0).hoop.fStarted = true ∧
    (deciding true true 0).twn.state = .standby ∧ (deciding true true 0).twn.stepLost = false ∧ evidence (deciding false false 0) = true ∧
    (deciding false true 1).twn.hbPresent = false ∧ (deciding false true 1).twn.linkUp = true ∧ (deciding false true 1).twn.lastLost = 1 ∧
    (deciding false true 1).twn.resign = none ∧ (resigned (deciding false true 1)).twn.resign ≠ none ∧
    (resigned (deciding false true 1)).twn.lastLost = 1 ∧ (resigned (deciding false true 1)).twn.state = .standby ∧
    ({ twin .active with tim := ticking.tim } : State).tim.running = true ∧ (twin .active).glb.halted = none ∧
    (twin .active).twn.state ≠ .faulted ∧ (deciding true true 0).twn.hbPresent = true ∧ mayTwin (twin .active) = true ∧
    (deciding true true 0).twn.linkUp = true := by
  constructorm* _ ∧ _
  all_goals
    first
    | exact canon_of (by decide +kernel) | exact sound_of (by decide +kernel) | exact alone_of (by decide +kernel)
    | exact awaits_waiting _ _ rfl | decide +kernel | rfl
    | (unfold awaits; decide +kernel) | (unfold noLoadWaits; decide +kernel)
    | (unfold noBlockWaits; decide +kernel) | (unfold distinctIds; decide +kernel) | (unfold noneReady; rfl)
    | (unfold noneReady; decide +kernel)

/-- The sampler's pass has had its 16 hoops, and a SAMPLER_RUN waits for the second end. -/
def passed (s : State) : State := { s with twn := { s.twn with passHoops := 16, samplerJobs := [(3, 2)] } }

theorem wit_MirrorAndSampler :
    awaits (waiting mirror (driving 9)) 0 (withOp 0x72 mirror) (entry 3 mirror .ready) ∧ noData mirror = true ∧ argsZeroFrom mirror 0 = true ∧
    (driving 9).boot.twinEn = true ∧ (driving 9).twn.driving = true ∧ (driving 9).twn.linkUp = true ∧ partnerStandby (driving 9) = true ∧
    (handleOf (driving 9) 9).state = .idle ∧ passDue State.reset = false ∧ passDue (passed State.reset) = true ∧
    (passed State.reset).twn.suspect = none ∧ (3, 2) ∈ (passed State.reset).twn.samplerJobs ∧ passDue (passed (twin .active)) = true ∧
    (passed (twin .active)).boot.twinEn = true ∧ (passed (twin .active)).twn.booted = true ∧ (passed (twin .active)).twn.state ≠ .faulted ∧ (twin .active).boot.twinEn = true ∧
    (twin .active).twn.booted = true ∧ (twin .active).twn.state ≠ .faulted ∧ awaits (waiting sampler State.reset) 0 (withOp 0x73 sampler) (entry 3 sampler .ready) ∧
    noData sampler = true ∧ argsZeroFrom sampler 0 = true ∧ Desc.wf owner = true := by
  constructorm* _ ∧ _
  all_goals
    first
    | exact canon_of (by decide +kernel) | exact sound_of (by decide +kernel) | exact alone_of (by decide +kernel)
    | exact awaits_waiting _ _ rfl | decide +kernel | rfl
    | (unfold awaits; decide +kernel) | (unfold noLoadWaits; decide +kernel)
    | (unfold noBlockWaits; decide +kernel) | (unfold distinctIds; decide +kernel) | (unfold noneReady; rfl)
    | (unfold noneReady; decide +kernel)

/-! ### Lane groups -/

/-- A show of motif 0 with the steps given, and group 0 with it. -/
def showOf (steps : List Nat) : Show :=
  { hoop := 4, base := 0, motif := 0, lanes := 1, profile := List.replicate 64 0,
    dir := List.replicate 64 0, steps := steps, stitch := [], next := 0, held := false, reps := 0, final := false }
/-- ROW 5 with PRE and POST 2 and 3; WAIT 9; CONST of 1 bit. -/
def rowStep : Nat := 0x1005000200030000
def waitStep : Nat := 0x7000000000000009
def laned (l : Lane) : State := { withRegs [(STI_LANE_CTRL 0, 0xF0000000), (STI_SMB_CTRL 0, 0x80000000), (STI_SMB_ADDR 0, 0x000000C8)] with
  sti := { Sti.reset with lanes := [(0, l)] }
  cfg := { Cfg.reset with parts := [(1, List.replicate 64 0 ++ leBytes 4 0xA0000000 ++ leBytes 4 0 ++ leBytes 4 1 ++ List.replicate 52 0)] } }
def beginning : State := laned { Lane.reset with nxt := some (showOf [rowStep, waitStep]) }
def inRow : Seq := ⟨0, 0, 0, some 100, none, 0, [], none⟩
def rowing (q : Seq) (steps : List Nat) : State := laned { Lane.reset with cur := some (showOf steps), seq := some q }
def polled : State := laned { Lane.reset with polling := true, pollAt := some 0 }

theorem wit_LanesRun_pass :
    beginning.canon ∧ (laneOf beginning 0).cur = none ∧ (laneOf beginning 0).nxt = some (showOf [rowStep, waitStep]) ∧
    laneEn beginning 0 = true ∧ ((showOf [rowStep, waitStep]).steps[0]?).bind decodeStep = some (.row 5 2 3) ∧
    bitW 0x80000000 31 = true ∧ bitW 0 31 = false ∧
    (setReg beginning (STI_LANE_CTRL 0) 0).canon ∧ laneEn (setReg beginning (STI_LANE_CTRL 0) 0) 0 = false ∧
    beginning.glb.halted = none :=
  ⟨canon_of (by decide +kernel), by decide +kernel, by decide +kernel, by decide +kernel, by decide +kernel,
    by decide, by decide, canon_of (by decide +kernel), by decide +kernel, rfl⟩

theorem wit_LanesRun_steps :
    (rowing inRow [rowStep, waitStep]).canon ∧ (laneOf (rowing inRow [rowStep, waitStep]) 0).seq = some inRow ∧
    (laneOf (rowing inRow [rowStep, waitStep]) 0).cur = some (showOf [rowStep, waitStep]) ∧ inRow.ends = some 100 ∧
    inRow.began + 2 ≤ 100 ∧ ((showOf [rowStep, waitStep]).steps[inRow.pc]?).bind decodeStep = some (.row 5 2 3) ∧
    ((showOf [rowStep, waitStep]).steps[inRow.pc + 1]?).bind decodeStep = some (.wait 9) ∧
    (LaneStep.waits (.wait 9) && (inRow.bg.filter fun b => decide (100 < b.2)).isSome) = false ∧
    ((showOf [0x2001000000000001, 0]).steps[inRow.pc]?).bind decodeStep = some (.shift 1 0 false 1) ∧ inRow.began < 100 ∧
    ((showOf [waitStep, 0]).steps[inRow.pc]?).bind decodeStep = some (.wait 9) ∧
    ((showOf [waitStep, 0]).steps[inRow.pc + 1]?).bind decodeStep = some .end_ ∧ inRow.bg = none ∧
    (laneOf (rowing { inRow with bg := some (0, 50) } [waitStep, 0]) 0).seq = some { inRow with bg := some (0, 50) } :=
  ⟨canon_of (by decide +kernel), by decide +kernel⟩

theorem groupMotif_zero {c : Cfg} {g : Nat} (h : motifPart c ≠ []) (on : motifOn (motifPart c) 0 = true)
    (here : (motifLocal (motifPart c) 0 && decide (bits (motifLanes (motifPart c) 0) (4 * g + 3) (4 * g) ≠ 0)) = true) :
    groupMotif c g = some 0 := by
  have e : List.range 16384 = 0 :: (List.range 16383).map Nat.succ := List.range_succ_eq_map
  simp only [groupMotif, enabledMotifs, if_neg h, e, List.filter_cons, if_pos on]
  exact List.find?_cons_of_pos here

theorem groupMotif_ne_zero {c : Cfg} {g : Nat}
    (here : (motifLocal (motifPart c) 0 && decide (bits (motifLanes (motifPart c) 0) (4 * g + 3) (4 * g) ≠ 0)) = false) :
    groupMotif c g ≠ some 0 := by
  intro h; have h := List.find?_some h; simp only [here] at h; cases h

theorem wit_LanesRun_sensors :
    beginning.canon ∧ regBit beginning (STI_SMB_CTRL 0) 31 = true ∧ (laneOf beginning 0).polling = false ∧
    polled.canon ∧ (laneOf polled 0).polling = true ∧ sensorValid polled 0 0 = true ∧
    groupMotif polled.cfg 0 = some 0 ∧ (∀ k, k < 4 → k ≠ 0 → groupMotif polled.cfg k ≠ some 0) ∧ (laneOf polled 0).fail[0]? = some false :=
  ⟨canon_of (by decide +kernel), by decide +kernel, by decide +kernel, canon_of (by decide +kernel), by decide +kernel,
    by decide +kernel, groupMotif_zero (by decide) (by decide +kernel) (by decide +kernel),
    fun k hk h0 => groupMotif_ne_zero (by revert k; decide +kernel), by decide +kernel⟩

/-! ### Returns, programs and the ports -/

/-- A RETURN of motif 0 with a record of kind 1, over EtherType 0x88B5; one of TYPE 1, and one of VERSION 2. -/
def tirum (version kind motif : Nat) : List Byte :=
  List.replicate 6 0xFF ++ List.replicate 6 0 ++ bytesOf [0x88, 0xB5, version, kind] ++ List.replicate 10 0 ++
    beBytes 2 motif ++ bytesOf [0, 0, 0, 1, 0, 12] ++ List.replicate 12 0 ++ bytesOf [1, 0, 0, 0, 0, 0, 0x19, 0, 0, 0, 0, 0, 0, 0]

/-- Port 0 up, with motif 0 on it. -/
def threaded : State := portsUp 0 { withRegs [(EGR_TIRUM, 0x88B50001)] with
  cfg := { Cfg.reset with parts := [(1, List.replicate 64 0 ++ leBytes 4 0x80000000 ++ List.replicate 60 0)] } }
def tokenless : State := setEgr threaded 0 { EgrPort.reset with tokens := 0 }

/-- The frame comes through the checks with a Tirum content of which `q` holds. -/
def tirumHeard (s : State) (frame : List Byte) (q : Nat → List Byte → State → Bool) : Bool :=
  acceptedAs s 0 frame 0 fun f t => decide (ptpAt f.bytes = none) &&
    match tirumContent t (untagged f.bytes) with | some (pad, b) => q pad b t | none => false

theorem tirum_of {s : State} {frame : List Byte} {q : Nat → List Byte → State → Bool} (h : tirumHeard s frame q = true) :
    ∃ f t pad b, accepts s 0 frame 0 f t ∧ ptpAt f.bytes = none ∧ tirumContent t (untagged f.bytes) = some (pad, b) ∧
      q pad b t = true := by
  obtain ⟨f, t, ha, hq⟩ := accepts_of h
  simp only [Bool.and_eq_true, decide_eq_true_eq] at hq
  obtain ⟨hp, hb⟩ := hq
  split at hb
  · rename_i pad b e; exact ⟨f, t, pad, b, ha, hp, e, hb⟩
  · cases hb

theorem wit_ReturnsAndTokens :
    threaded.canon ∧ threaded.boot.twinEn = false ∧
    (∃ f t pad b, accepts threaded 0 (tirum 2 5 0) 0 f t ∧ ptpAt f.bytes = none ∧ tirumContent t (untagged f.bytes) = some (pad, b) ∧
      tirumMalformed (authOn t) pad b = true) ∧
    (∃ f t pad b, accepts threaded 0 (tirum 1 1 0) 0 f t ∧ ptpAt f.bytes = none ∧ tirumContent t (untagged f.bytes) = some (pad, b) ∧
      (!tirumMalformed (authOn t) pad b && decide (tType b ≠ 5 ∧ tType b ≠ 3)) = true) ∧
    (∃ f t pad b, accepts tokenless 0 (tirum 1 5 0) 0 f t ∧ ptpAt f.bytes = none ∧ tirumContent t (untagged f.bytes) = some (pad, b) ∧
      (!tirumMalformed (authOn t) pad b && decide (tType b = 5 ∧ (egrOf t 0).tokens = 0)) = true) ∧
    (∃ f t pad b, accepts threaded 0 (tirum 1 5 9) 0 f t ∧ ptpAt f.bytes = none ∧ tirumContent t (untagged f.bytes) = some (pad, b) ∧
      (!tirumMalformed (authOn t) pad b && returnAuthOk t b && !motifThread (motifPart t.cfg) (tMotif b) &&
        decide (tType b = 5 ∧ (egrOf t 0).tokens ≠ 0)) = true) ∧
    (∃ f t pad b, accepts threaded 0 (tirum 1 5 0) 0 f t ∧ ptpAt f.bytes = none ∧ tirumContent t (untagged f.bytes) = some (pad, b) ∧
      (!tirumMalformed (authOn t) pad b && returnAuthOk t b && motifThread (motifPart t.cfg) (tMotif b) &&
        decide (tType b = 5 ∧ (egrOf t 0).tokens ≠ 0 ∧ tget (fun _ => none) t.egr.pairs (tMotif b) = none ∧
          (tirumRecords b 1).getLast? = some (0, 0x1900, 0))) = true) ∧
    (egrOf tokenless 3).tokens = 256 ∧ (egrOf tokenless 0).tokens < 1 :=
  ⟨canon_of (by decide +kernel), rfl, tirum_of (q := fun pad b t => tirumMalformed (authOn t) pad b) (by decide +kernel),
    tirum_of (q := fun pad b t => !tirumMalformed (authOn t) pad b && decide (tType b ≠ 5 ∧ tType b ≠ 3)) (by decide +kernel),
    tirum_of (q := fun pad b t => !tirumMalformed (authOn t) pad b && decide (tType b = 5 ∧ (egrOf t 0).tokens = 0)) (by decide +kernel),
    tirum_of (q := fun pad b t => !tirumMalformed (authOn t) pad b && returnAuthOk t b && !motifThread (motifPart t.cfg) (tMotif b) &&
        decide (tType b = 5 ∧ (egrOf t 0).tokens ≠ 0)) (by decide +kernel),
    tirum_of (q := fun pad b t => !tirumMalformed (authOn t) pad b && returnAuthOk t b && motifThread (motifPart t.cfg) (tMotif b) &&
        decide (tType b = 5 ∧ (egrOf t 0).tokens ≠ 0 ∧ tget (fun _ => none) t.egr.pairs (tMotif b) = none ∧
          (tirumRecords b 1).getLast? = some (0, 0x1900, 0))) (by decide +kernel),
    by decide +kernel, by decide +kernel⟩

/-- A refresh of motif 0 pending, and its image being sent. -/
def refresh : Refresh := ⟨0, 4, false, none⟩
def sendingOne : Sending := ⟨refresh, List.replicate 20000 0, 0, 0⟩

theorem wit_ProgramFragments :
    (setEgr threaded 0 { EgrPort.reset with pending := [refresh] }).canon ∧
    (setEgr threaded 0 { EgrPort.reset with sending := some sendingOne }).canon ∧
    drives threaded = true ∧ portUp threaded 0 = true ∧ noLinkKey threaded = false ∧
    (egrOf threaded 0).progBytes < max (regFld threaded EGR_PROG 15 0) 1 * 1024 ∧ queueHasRoom threaded 0 3 = true ∧
    waitingAt threaded 0 3 = [] ∧ (egrOf (setEgr threaded 0 { EgrPort.reset with pending := [refresh] }) 0).pending = [refresh] ∧
    (egrOf (setEgr threaded 0 { EgrPort.reset with pending := [refresh] }) 0).sending = none ∧
    drives State.reset = true ∧ portUp State.reset 0 = false ∧
    programFragment threaded * (sendingOne.frag + 1) < sendingOne.image.length :=
  ⟨canon_of (by decide +kernel), canon_of (by decide +kernel), by decide +kernel, by decide +kernel, by decide +kernel,
    by decide +kernel, by decide +kernel, by decide +kernel, by decide +kernel, by decide +kernel, by decide +kernel, by decide +kernel, by
      rw [show programFragment threaded = 9160 by decide +kernel]; simp only [sendingOne, List.length_replicate]; decide⟩

/-! ### The ports -/

/-- A PTP frame of messageType 0 over EtherType 0x88F7; one over UDP to port 4000; a pause of 8 quanta; one too short. -/
def ptpFrame : List Byte := pad60 (List.replicate 6 0xFF ++ List.replicate 6 0 ++ [0x88, 0xF7, 0, 2])
def pauseFrame (q : Nat) : List Byte := pad60 (controlMac ++ List.replicate 6 0 ++ bytesOf [0x88, 0x08, 0, 1] ++ beBytes 2 q)
def firmwareUp : State := portsUp 33 (withRegs [(MAC_FW_RX_BASE 33, 0x20001000)])
/-- Port 33 with filter 1 for UDP port 4000, and a buffer of 256 bytes posted to it. -/
def postDesc : Desc := dataDesc 0x31 33 256 [1]
def listening : State := let s := portsUp 36 State.reset; { s with
  mac := [(36, { MacPort.reset with link := true, filters := [(1, [0xC0000000, 0, 0, 0, 4000])] })]
  hif := { s.hif with track := [entry 3 { postDesc with object := 36 } .running], nextId := 4 } }

theorem wit_FramesReceived :
    portUp firmwareUp 33 = true ∧ (tirum 1 5 0).length < 61 ∧ 60 ≤ (tirum 1 5 0).length ∧ ([1, 2] : List Byte).length < 60 ∧
    (∃ f t, rxCheck firmwareUp 33 (tirum 1 5 0) true 0 = (.frame f, t)) ∧
    lifted State.reset 33 = false ∧ resetReleased { State.reset with boot := { Boot.reset with step := .locked } } = true ∧
    firmwareUp.canon ∧
    (∃ f t, accepts firmwareUp 33 ptpFrame 3 f t ∧ decide (ptpAt f.bytes = some 14 ∧ reg t (MAC_FW_RX_BASE 33) ≠ 0 ∧
      ((List.range 16).find? fun i => !(portOf t 33).fwSlots.contains i) = some 0) = true) ∧
    listening.canon ∧
    (∃ f t, accepts listening 36 (udpTo 4000 []) 3 f t ∧ (decide (ptpAt f.bytes = none) &&
      decide (((List.range 8).find? (filterMatch t 36 f)) = some 1 ∧
        postedTo t 36 1 = [entry 3 { postDesc with object := 36 } .running])) = true) ∧
    (∃ f t, accepts listening 36 (udpTo 4001 []) 0 f t ∧ (decide (ptpAt f.bytes = none) &&
      decide (((List.range 8).find? (filterMatch t 36 f)) = none)) = true) :=
  ⟨by decide +kernel, by decide +kernel, by decide +kernel, by decide, ⟨_, _, rfl⟩, by decide +kernel, by decide +kernel,
    canon_of (by decide +kernel),
    accepts_of (q := fun f t => decide (ptpAt f.bytes = some 14 ∧ reg t (MAC_FW_RX_BASE 33) ≠ 0 ∧
      ((List.range 16).find? fun i => !(portOf t 33).fwSlots.contains i) = some 0)) (by decide +kernel),
    canon_of (by decide +kernel),
    accepts_of (q := fun f t => decide (ptpAt f.bytes = none) &&
      decide (((List.range 8).find? (filterMatch t 36 f)) = some 1 ∧
        postedTo t 36 1 = [entry 3 { postDesc with object := 36 } .running])) (by decide +kernel),
    accepts_of (q := fun f t => decide (ptpAt f.bytes = none) && decide (((List.range 8).find? (filterMatch t 36 f)) = none))
      (by decide +kernel)⟩

/-- Port 33 obeys and sends pauses, with XOFF at 240 × 4 KiB of its 1 MiB. -/
def pausing (x : MacPort) (used : Nat) : State :=
  let s := portsUp 33 (withRegs [(MAC_CFG 33, 0xC0002400), (MAC_PAUSE_TX 33, 0xF8F00040)])
  { s with mac := [(33, { x with link := true })], ing := { s.ing with bufUsed := [(1, used)] } }

theorem wit_PausesHoldAndGo :
    (pausing MacPort.reset 9).canon ∧ portUp (pausing MacPort.reset 9) 33 = true ∧
    (match rxCheck (pausing MacPort.reset 9) 33 (pauseFrame 8) true 0 with | (.pause 8 true, _) => true | _ => false) = true ∧
    (portOf (pausing { MacPort.reset with hold := some 7 } 9) 33).hold = some 7 ∧
    mayPause (pausing MacPort.reset 9) 33 = true ∧ (portOf (pausing MacPort.reset 9) 33).xoff = false ∧
    freeSpace (noteFill (pausing MacPort.reset 9) 33 100000) 33 100000 < xoffBytes (pausing MacPort.reset 9) 33 ∧
    (portOf (pausing { MacPort.reset with xoff := true } 9) 33).xoff = true ∧
    freeSpace (noteFill (pausing { MacPort.reset with xoff := true } 9) 33 100000) 33 100000 <
      xonBytes (pausing { MacPort.reset with xoff := true } 9) 33 ∧
    xonBytes (pausing { MacPort.reset with xoff := true } 9) 33 ≤
      freeSpace (noteFill (pausing { MacPort.reset with xoff := true } 9) 33 8) 33 8 :=
  ⟨canon_of (by decide +kernel), by decide +kernel, by decide +kernel, by decide +kernel, by decide +kernel, by decide +kernel, by decide +kernel,
    by decide +kernel, by decide +kernel, by decide +kernel⟩

/-- A frame of 60 bytes queued in queue 5 of port 0; on its wire; and firmware's frame set up for port 0. -/
def plain : TxFrame := ⟨List.replicate 60 1, .rawTx 4 false, 0, false, none, false⟩
def queuedFrame : State := { portsUp 0 State.reset with mac := [(0, { MacPort.reset with link := true, lock := true, queues := [(5, [plain])] })] }
def onWire : State := { portsUp 0 State.reset with mac := [(0, { MacPort.reset with link := true, wire := some plain })] }
def ready : State := setReg (portsUp 0 State.reset) (MAC_FW_TX_ADDR 0) 0x20000000

theorem wit_FramesLeave :
    queuedFrame.canon ∧ (portOf queuedFrame 0).wire = none ∧ rsSends queuedFrame 0 = .frames ∧ nextQueue queuedFrame 0 = some 5 ∧
    headFrame queuedFrame 0 5 = some plain ∧ plain.oneStep = false ∧ plain.stamp = none ∧ onWire.canon ∧ (portOf onWire 0).wire = some plain ∧
    ready.canon ∧ (portOf ready 0).fwTx = none ∧ inShared (reg ready (MAC_FW_TX_ADDR 0)).toNat (fld 0x00000040 10 0) = true ∧
    14 ≤ fld 0x00000040 10 0 ∧ fld 0x00000040 10 0 ≤ 2044 ∧ portUp ready 0 = true ∧ drives ready = true ∧
    queueHasRoom ready 0 7 = true ∧ waitingAt ready 0 7 = [] := by
  constructorm* _ ∧ _
  all_goals
    first
    | exact canon_of (by decide +kernel) | exact sound_of (by decide +kernel) | exact alone_of (by decide +kernel)
    | exact awaits_waiting _ _ rfl | decide +kernel | rfl
    | (unfold awaits; decide +kernel) | (unfold noLoadWaits; decide +kernel)
    | (unfold noBlockWaits; decide +kernel) | (unfold distinctIds; decide +kernel) | (unfold noneReady; rfl)
    | (unfold noneReady; decide +kernel)

/-- Port 0 in service with block lock but no link, and with link but no lock. -/
def locking : State := { portsUp 0 State.reset with mac := [(0, { MacPort.reset with lock := true })] }

theorem wit_LinkAndService :
    locking.canon ∧ locking.boot.twinEn = false ∧ (portOf locking 0).good ≠ (false && !false && !false) ∧
    portOn locking 0 = true ∧ (portOf locking 0).link = false ∧ (portOf locking 0).good = true ∧
    (portsUp 0 State.reset).canon ∧ (portOf (portsUp 0 State.reset) 0).link = true ∧ (portOf (portsUp 0 State.reset) 0).good = false ∧
    regBit locking (MAC_CTRL 0) 31 = true ∧ bitW 0 31 = false ∧ regBit State.reset (MAC_CTRL 0) 31 = false ∧
    bitW 0x80000000 31 = true :=
  ⟨canon_of (by decide +kernel), rfl, by decide +kernel, by decide +kernel, by decide +kernel, by decide +kernel,
    canon_of (by decide +kernel), by decide +kernel, by decide +kernel, by decide +kernel, by decide, by decide +kernel, by decide⟩

theorem wit_PortSettingsLocked :
    MAC_VLAN 0 ∈ [MAC_CFG 0, MAC_ADDR_HI 0, MAC_ADDR_LO 0, MAC_VLAN 0, MAC_VLAN_PCP 0, MAC_PAUSE_TX 0] ∧
    regBit locking (MAC_CTRL 0) 31 = true ∧ regBit State.reset (MAC_CTRL 0) 31 = false :=
  ⟨by decide, by decide +kernel, by decide +kernel⟩

/-! ### Reset and boot -/

/-- The reset sequence at step `x`; bring-up begun; and the boot window with a download. -/
def atStep (x : ResetStep) : State := { State.reset with boot := { Boot.reset with step := x } }
def liftingPorts : State := { State.reset with boot := { Boot.reset with seqAt := some 0 } }
def booting (x : BootState) : State := { withRegs [(BOOT_LEN, 64)] with boot := { Boot.reset with state := x } }
def pushing : State := { booting .loading with boot := { (booting .loading).boot with busy := true, pushing := some 64 } }
/-- Fed bytes whose SIZE is their number, 64, so that the CRC is that of no bytes: right with 0 in its place, wrong with 1. -/
def wholeImage (crc : Nat) : List Byte := leBytes 4 crc ++ leBytes 4 0 ++ leBytes 4 64 ++ List.replicate 52 0
def fed (crc : Nat) : State := { booting .loading with boot := { (booting .loading).boot with sized := true, image := wholeImage crc } }

theorem wit_DeviceResets :
    (1 : Word) ≠ 0x96400001 ∧ State.reset.upd.jobs = [] ∧ State.reset.key.job = none ∧
    (atStep .held).canon ∧ (atStep .held).psm.inRange = 0x1FF ∧ (atStep .held).boot.step = .held ∧
    (atStep .counting).boot.step = .counting ∧ (atStep .released).boot.step = .released ∧ resetReleased (atStep .locked) = true ∧
    (atStep .locked).boot.state = .init ∧ (atStep .locked).hif.noticesLost = 0 ∧
    State.reset.boot.seqAt = none ∧ State.reset.boot.seqOver = false ∧ bitW 0xC0000000 31 = true ∧
    liftingPorts.canon ∧ liftingPorts.boot.seqAt = some 0 ∧ regBit State.reset BOOT_SQUELCH 31 = true := by
  constructorm* _ ∧ _
  all_goals
    first
    | exact canon_of (by decide +kernel) | exact sound_of (by decide +kernel) | exact alone_of (by decide +kernel)
    | exact awaits_waiting _ _ rfl | decide +kernel | rfl
    | (unfold awaits; decide +kernel) | (unfold noLoadWaits; decide +kernel)
    | (unfold noBlockWaits; decide +kernel) | (unfold distinctIds; decide +kernel) | (unfold noneReady; rfl)
    | (unfold noneReady; decide +kernel)

theorem wit_BootDownloads :
    (booting .wait).boot.busy = false ∧ (booting .wait).boot.state = .wait ∧ imageLocked (booting .wait) = false ∧
    (booting .loading).boot.state = .loading ∧ regFld (booting .loading) BOOT_LEN 22 0 = 64 ∧
    (reg (booting .loading) BOOT_OFFSET).toNat = (booting .loading).boot.image.length ∧ (booting .loading).boot.sized = false ∧
    (reg (setReg (booting .loading) BOOT_OFFSET 4) BOOT_OFFSET).toNat ≠ (booting .loading).boot.image.length ∧
    imageFed (booting .loading) = false ∧ (booting .loading).canon ∧
    ({ booting .loading with boot := { (booting .loading).boot with busy := true } } : State).canon ∧
    pushing.canon ∧ pushing.boot.pushing = some 64 ∧ pushing.boot.image.length + 64 < 320 ∧
    (fed 1).canon ∧ imageFed (fed 1) = true ∧ imageErr (fed 1).boot.imageKey (fed 1).boot.image ≠ 0 ∧
    (fed 0).canon ∧ imageFed (fed 0) = true ∧ imageErr (fed 0).boot.imageKey (fed 0).boot.image = 0 ∧
    (fed 0).boot.busy = false ∧ (threadOf (fed 0) 0).state = .dormant :=
  ⟨rfl, rfl, by decide +kernel, rfl, by decide +kernel, by decide +kernel, rfl, by decide +kernel, by decide +kernel,
    canon_of (by decide +kernel), canon_of (by decide +kernel), canon_of (by decide +kernel), rfl, by decide +kernel,
    canon_of (by decide +kernel), by decide +kernel, by decide +kernel, canon_of (by decide +kernel), by decide +kernel,
    by decide +kernel, rfl, by decide +kernel⟩

/-! ### Keys, faults, supply, the tile window -/

/-- ADMIN as the host may set it, and the wrap cell present with permission to write. -/
def keyed (j : Option KeyJob) (stage : Nat) : State := { withRegs [(KEY_CTRL, 0x80000000)] with
  psm := { Psm.reset with writeOk := true }
  keep := { Keep.reset with wrap := some (List.replicate 32 5) }
  key := { Key.reset with job := j, stage := stage, adminEn := true, slots := [(3, ⟨List.replicate 32 7, 31, false⟩)] } }
def keyJob (persist : Bool) (waits : Option Nat) : KeyJob := ⟨1, 5, persist, keyOk, List.replicate 32 1, 2, [], waits⟩

/-- What GO of command `op` on slot `n` finds. -/
def keyFinds (s : State) (src : Source) (op n parent : Nat) : Nat := keyFound s src op (BitVec.ofNat 32 (n + parent * 65536))

theorem wit_KeyCommands :
    (keyed none 0).canon ∧ (keyed none 0).key.job = none ∧ regBit (keyed none 0) KEY_ATTR 31 = false ∧
    keyFinds (keyed none 0) .host 1 5 0 = keyOk ∧ keyFinds (keyed none 0) (.core 0) 1 5 0 ≠ keyOk ∧
    keyFinds (keyed none 0) .host 2 3 0 = keyOk ∧ keyFinds (keyed none 0) (.core 0) 2 3 0 ≠ keyOk ∧
    keyFinds (setReg (keyed none 0) KEY_ATTR 2) .host 3 5 3 = keyOk ∧ keyFinds (keyed none 0) .host 3 5 5 ≠ keyOk ∧
    keyFinds (keyed none 0) .host 4 3 0 = keyOk ∧ keyFinds (keyed none 0) .host 4 5 0 ≠ keyOk ∧
    (keyed (some (keyJob false none)) 0).canon ∧ (keyed (some (keyJob false none)) 0).key.job = some (keyJob false none) ∧
    (keyJob false none).persist = false ∧ (keyJob true none).persist = true ∧ (keyJob true none).waiting = none ∧
    (keyed (some (keyJob true none)) 2).psm.writeOk = true ∧ (keyed (some (keyJob true none)) 2).key.stage = 2 ∧
    (keyed (some (keyJob true (some 9))) 0).canon ∧ (keyJob true (some 9)).waiting = some 9 ∧
    State.reset.keep.wrap = none ∧ ({ State.reset with psm := { Psm.reset with writeOk := true } } : State).psm.writeOk = true ∧
    State.reset.psm.writeOk = false :=
  ⟨canon_of (by decide +kernel), rfl, by decide +kernel, by decide +kernel, by decide +kernel, by decide +kernel, by decide +kernel,
    by decide +kernel, by decide +kernel, by decide +kernel, by decide +kernel, canon_of (by decide +kernel), rfl, rfl, rfl, rfl, rfl, rfl,
    canon_of (by decide +kernel), rfl, rfl, rfl, rfl⟩

theorem wit_KeyPrivilege :
    (keyed none 0).canon ∧ ¬ ((keyed none 0).key.adminEn = true ∧ regBit (keyed none 0) KEY_CTRL 31 = true ∧ Source.core 0 = .host) :=
  ⟨canon_of (by decide +kernel), by decide +kernel⟩

theorem wit_FaultsAndSupply :
    (atStep .locked).canon ∧ (2 : Fin 7) ≠ 0 ∧ resetReleased (atStep .locked) = true ∧ (atStep .locked).glb.halted = none ∧
    (atStep .locked).hoop.running = false ∧ fld 2 7 0 = 2 ∧ fld 3 7 0 ≠ 1 ∧ fld 3 7 0 ≠ 2 ∧ (8 : Fin 10) = 8 ∧
    (atStep .locked).psm.writeOk = false :=
  ⟨canon_of (by decide +kernel), by decide, by decide, rfl, rfl, by decide, by decide, by decide, rfl, rfl⟩

/-- Three bytes of CMD of motif 2 latched; the same with a ring for MOTIF_CTRL, so that the window is refused; and
a command staged in an open window. -/
def latched : State := { State.reset with lgw := { State.reset.lgw with addr := 33, latch := [0, 0, 0] } }
def refusedLgw : State := setReg State.reset (HIF_SQ_CTRL 0) 0xA0000004
def stagedCmd : State := { State.reset with lgw := { State.reset.lgw with opened := true, staged := [(2, (4, 0))] } }

theorem wit_TileWindow :
    lgwRefused State.reset = false ∧ State.reset.lgw.latch.length < 3 ∧ latched.lgw.latch = [0, 0, 0] ∧ lgwRefused latched = false ∧
    lgwRefused refusedLgw = true ∧ latched.lgw.canon ∧ (3 : Nat) < 2 ^ 32 ∧
    stagedCmd.lgw.opened = true ∧ lgwRefused stagedCmd = false ∧ (2, 4, 0) ∈ stagedCmd.lgw.staged ∧
    lgwJoins stagedCmd.cfg (2, 4, 0) = true :=
  ⟨by decide +kernel, by decide, rfl, by decide +kernel, by decide +kernel, (canon_of (s := latched) (by decide +kernel)).lgw, by decide, rfl, by decide +kernel, by decide +kernel,
    by decide +kernel⟩

theorem wit_CommandWordStages :
    latched.canon ∧ lgwRefused latched = false ∧ (2 : Nat) < 4096 ∧ latched.lgw.addr = 16 * 2 + 1 ∧ latched.lgw.latch = [0, 0, 0] ∧
    ((0 * 256 + 0) * 256 + 0) * 256 + (6 : Byte).toNat = 6 ∧ ((0 * 256 + 0) * 256 + 0) * 256 + (7 : Byte).toNat = 7 :=
  ⟨canon_of (by decide +kernel), by decide +kernel, by decide, rfl, rfl, by decide, by decide⟩

/-! ### The whole machine -/

theorem wit_StepRunsFront :
    ({ State.reset with pending := [.pllLock, .memReady] } : State).pending = .pllLock :: [.memReady] := rfl

theorem wit_StepsKeepSound : State.reset.sound ∧ State.reset.canon ∧ step State.reset = .next (tick 1 State.reset) :=
  ⟨sound_of (by decide +kernel), canon_of (by decide +kernel), rfl⟩

theorem wit_HostResets :
    served.canon ∧ Instr.hotReset ∈ [Instr.functionLevelReset, .hotReset, .pcieLinkLoss, .perstNAssert] :=
  ⟨canon_of (by decide +kernel), by decide +kernel⟩

/-! ### WellFormed: each check refuses its ill-formed terms -/

/-- Every row that carries a descriptor, with `d` in it. -/
def descRows (d : Desc) : List Instr :=
  [
    .bufAlloc 0 d, .bufWrite 0 d, .bufRead 0 d, .bufBind 0 d, .bufRetire 0 d, .bufFree 0 d, .commit 0 d,
    .tableLoad 0 d, .tableRead 0 d, .layerSet 0 d, .sessionSet 0 d, .sourceSet 0 d, .hoopSet 0 d, .colourSet 0 d,
    .motifCtrlSetEpoch 0 d, .motifCtrlClaimNext 0 d, .motifCtrlRelease 0 d, .motifCtrlClearForeign 0 d,
    .motifCtrlReset 0 d, .motifCtrlReport 0 d, .programSend 0 d, .portSet 0 d, .digestRead 0 d, .ownerSet 0 d,
    .rawTx 0 d, .rxPost 0 d, .rxFilter 0 d, .imageBlock 0 d, .imageVerify 0 d, .imageActivate 0 d, .imageConfirm 0 d,
    .imageConfirmRevert 0 d, .storeWrite 0 d, .storeWriteFormat 0 d, .storeRead 0 d, .abort 0 d, .fence 0 d,
    .nop 0 d, .twinRoleActive 0 d, .twinRoleHandover 0 d, .twinRoleCold 0 d, .twinSync 0 d, .twinMirror 0 d,
    .samplerRun 0 d]

theorem test_wf_descriptors : (descRows (desc 0x62 0 [])).all Instr.wf = true := by decide
theorem test_wf_descriptor_length : (descRows { desc 0x62 0 [] with length := 2 ^ 32 }).all (fun c => !c.wf) = true := by decide +kernel
/-- Descriptors with one field out of its width, and one with nine argument words. -/
theorem test_wf_descriptor_fields :
    ([{ desc 256 0 [] with tag := 1 }, { desc 1 0 [] with flags := 256 }, { desc 1 0 [] with tag := 65536 },
      { desc 1 0 [] with hostAddr := 2 ^ 64 }, { desc 1 0 [] with length := 2 ^ 32 }, desc 1 (2 ^ 32) [],
      { desc 1 0 [] with args := List.replicate 9 0 }] : List Desc).all (fun d => !d.wf) = true := by decide +kernel
theorem test_wf_addresses :
    [Instr.registerWrite .host 0x4000000 15 0, .registerWrite (.core 0) (2 ^ 32) 15 0, .descriptorReadFail (2 ^ 64),
      .bar2Read (2 ^ 32) .clean, .bar2Write (2 ^ 32) 0, .pipelineUncorrectableRead 0 0 (2 ^ 34), .scrub 0 (2 ^ 34) .clean,
      .coreFault 0 (2 ^ 32) ⟨.load 2, .clean⟩].all (fun c => !c.wf) = true := by decide +kernel
theorem test_wf_host_answers :
    [Instr.pollReturn false [] [] 0, .descriptorFetch (List.replicate 17 (desc 0x62 0 [])), .descriptorFetch [desc 256 0 []],
      .descriptorDmaDone 0 65536 [], .hostDmaError 0 65536 0 [], .hostDmaError 0 1 (2 ^ 64) [],
      .bufWriteComplete 0 65536 []].all (fun c => !c.wf) = true := by decide +kernel
/-- Frames of 13 bytes; a session packet on port 31 and one with more than 1 MiB used. -/
theorem test_wf_frames :
    let b := List.replicate 13 (0 : Byte)
    [Instr.sessionPacketRx 32 b 0 0, .sessionPacketRx 31 (udpTo 5 []) 0 0, .sessionPacketRx 32 (udpTo 5 []) 0 1048577,
      .returnRx 0 b, .tirumOtherRx 0 b, .pauseFrameRx 0 b, .ptpFrameRx 0 b 0, .hostFrameRx 0 b 0, .unclaimedFrameRx 0 b,
      .squelchedFrameRx 0 b, .twinStatusRx 36 b, .twinDigestRx 36 b, .twinDescRx 36 b, .twinCloseRx 36 b, .twinLiveRx 36 b,
      .twinDataRx 36 b, .twinResignRx 36 b, .twinAckRx 36 b].all (fun c => !c.wf) = true := by decide +kernel
theorem test_wf_twin_ports :
    let b := udpTo 5 []
    [Instr.twinStatusRx 35 b, .twinDigestRx 35 b, .twinDescRx 35 b, .twinCloseRx 35 b, .twinLiveRx 35 b, .twinDataRx 35 b,
      .twinResignRx 35 b, .twinAckRx 35 b].all (fun c => !c.wf) = true := by decide +kernel
theorem test_wf_small_operands :
    [Instr.ingFrameComplete 0, .sensorPollEnd 0 (List.replicate 5 .noAck), .sensorPollEnd 0 [.word 256 0], .pauseRefresh 0 65537,
      .pauseXon 0 65537, .clockLoss 0, .supplyFault 0, .writePermissionRefuse 0, .psmSensorUpdate (2 ^ 31) [0, 0] (List.replicate 9 0),
      .psmSensorUpdate 0 [0] (List.replicate 9 0), .psmSensorUpdate 0 [0, 0] (List.replicate 8 0),
      .psmSensorUpdate 0 [0, 2 ^ 31] (List.replicate 9 0), .psmSensorUpdate 0 [0, 0] (List.replicate 9 65536)].all
      (fun c => !c.wf) = true := by decide +kernel

/-! ### The spec's worked examples -/

/-- The worked example of R11: 0x10 is later than 0xFFFF_FFF0, and not the other way; 2^31 away is earlier. -/
theorem test_hoop_order : later 0xFFFFFFF0 0x10 = true ∧ later 0x10 0xFFFFFFF0 = false ∧ earlier 5 0x80000005 = true := by decide

/-- "123456789", and the check values of Table 13-6. -/
def digits : List Byte := bytesOf [0x31, 0x32, 0x33, 0x34, 0x35, 0x36, 0x37, 0x38, 0x39]
def checkValue (fixed : Word) : Option Nat :=
  (cvuConfig (setReg State.reset (CVU_CFG 1) (fixed <<< 29)) 1).map fun (w, poly, init, refin, refout, xorout) =>
    crcResult w refout xorout (digits.foldl (crcByte w poly refin) init)
theorem test_crc32 : checkValue 1 = some 0xCBF43926 := by decide +kernel
theorem test_crc32c : checkValue 2 = some 0xE3069283 := by decide +kernel
theorem test_crc16 : checkValue 3 = some 0x29B1 := by decide +kernel
theorem test_crc8 : checkValue 4 = some 0xF4 := by decide +kernel

/-- The time-stamp example of R92 on port 7. -/
def skewed : State := { withRegs [(TIM_PORT_ASYM_RX 7, 3400), (TIM_PORT_ASYM_TX 7, -1130)] with tim := ticking.tim }
theorem test_ingress_stamp : ingressStamp { skewed with tim := { skewed.tim with sec := 1712, acc := 12 * 2 ^ 30 } } 7 0 =
    1711 * 4000000000 + 3999999833 := by decide +kernel
theorem test_egress_stamp : egressStamp skewed 7 0 = 105 := by decide +kernel

/-- The YCbCr example of R152 (chapter 5): curve slot 1 holds the six entries it uses. -/
def curved : State := { State.reset with ing := { Ing.reset with curve :=
  [(2048 + 210, some 4012), (2048 + 211, some 4058), (2048 + 282, some 7831), (2048 + 283, some 7898),
   (2048 + 479, some 27926), (2048 + 480, some 28066)] } }
theorem test_pgroup : pgroupSamples 0x01100000 (bytesOf [0x64, 0x25, 0x8A, 0xF2, 0x62]) = [400, 600, 700, 610] := by decide +kernel
theorem test_ycc_pixel : yccPixel curved 0x01100000 610 400 700 (some (420, 680)) = packPixel 0x6D42 0x1EB3 0x0FD9 0xFFFF := by
  decide +kernel

/-- The four layers of the compositing example (chapter 6). -/
theorem test_blend_over : blend 0x1000 0x3001 0xFFFF 0x10000 0 = 0x3001 ∧ blend 0x3001 0x4000 0x8000 0xC000 0 = 0x4E01 := by decide
theorem test_blend_multiply_add : blend 0x4E01 0x6000 0xFFFF 0x10000 2 = 0x3A81 ∧ blend 0x3A81 0xFFFF 0xFFFF 0x4000 1 = 0x7A81 := by decide

/-- The pixel example of chapter 8, its record as that of motif 0 and its per-pixel record as the first. -/
def colours : List Byte :=
  List.replicate 64 0 ++ leBytes 4 0x80060000 ++ leBytes 4 0 ++ leBytes 4 0x0A730000 ++ leBytes 4 0x09000C00 ++ leBytes 4 0x00000A80 ++
    leBytes 4 0xFC004400 ++ leBytes 4 0x01000000 ++ leBytes 4 0x01003E00 ++ leBytes 4 0x02000000 ++ leBytes 4 0x00003E00
def colouring : State := { State.reset with
  cfg := { Cfg.reset with parts := [(6, colours)] }
  col := { Col.reset with
    est := [(0, { Estimate.reset with theta := 1280, l := 0x4000, tg := 0x8000 }), (1, { Estimate.reset with theta := 512, l := 0x2000, tg := 0x8000 }),
            (2, { Estimate.reset with theta := 384, l := 0x1000, tg := 0x8000 })]
    snapshot := [(0, ⟨true, 9088, 998⟩)] } }
/-- Stage 1: with unity gains after it, the drive is d. -/
theorem test_matrix : (List.range 3).map (fun k => (drive { colouring with cfg := { colouring.cfg with parts := [(6, colours.set 67 0)] } }
    2 0 197 k (0x5C01, 0x1100, 0x0801)).1) = [24753, 4616, 2121] := by decide +kernel
theorem test_estimator : (List.range 3).map (fun k => ((estimate colouring 2 1000 0 k).work, (estimate colouring 2 1000 0 k).tj)) =
    [(1290, 10378), (515, 9603), (382, 9470)] := by decide +kernel
def pointsR (i : Nat) : Nat := if i = 6 then 35328 else 36480
theorem test_therm_gain : thermGain 2 pointsR 10378 = 35390 := by decide +kernel
theorem test_dither : (List.range 3).map (ditherThreshold true 2 1000 6 197) = [31744, 15360, 7168] := by decide +kernel
theorem test_encode : encode 16 22296 31744 = 0xAE30 ∧ encode 16 4311 15360 = 0x21AE ∧ encode 16 1943 7168 = 0x0F2E := by decide +kernel

/-- Four of the steps of chapter 9's example, and how long SHIFT and ROW take. -/
theorem test_decode_steps :
    [0x20039000000000C0, 0x1001001400280000, 0x4000000000000004, 0x5800900000000400].map decodeStep =
      [some (.shift 3 9 false 192), some (.row 1 20 40), some (.latch 0 4), some (.show_ true 9 1024)] := by decide +kernel
theorem test_step_ticks : LaneStep.ticks 4 1 (.shift 3 9 false 192) = 768 ∧ LaneStep.ticks 4 1 (.row 1 20 40) = 60 := by decide

/-- The byte order of KEY_PROVE_CHAL (chapter 16): the bytes 0, 1, 2, … in the words 0x0302_0100, …. -/
theorem test_challenge_bytes : (regBytes (withRegs [(KEY_PROVE_CHAL 0, 0x03020100), (KEY_PROVE_CHAL 7, 0x1F1E1D1C)]) KEY_PROVE_CHAL 8).take 4 =
    [0, 1, 2, 3] := by decide +kernel

/-- The window example of chapter 19: the fourth byte of ARG of motif 300, and the fourth byte of its CMD. -/
def lgwAt (a : Nat) (l : List Nat) : State := { State.reset with lgw := { State.reset.lgw with addr := a, latch := l, args := [(300, 0x102)] } }
theorem test_window_arg : (match exec (.lgwDataWrite 2) { lgwAt 0x12C0 [0, 0, 1] with lgw := { (lgwAt 0x12C0 [0, 0, 1]).lgw with args := [] } } with
    | .next u => decide (u.lgw.args = [(300, 0x102)] ∧ u.lgw.addr = 0x12C1) | _ => false) = true := by decide +kernel
theorem test_window_cmd : (match exec (.lgwDataWrite 1) (lgwAt 0x12C1 [0, 0, 0]) with
    | .next u => decide (u.lgw.staged = [(300, (1, 0x102))] ∧ u.lgw.addr = 0x12C2) | _ => false) = true := by decide +kernel
end Sys2Proof.Tests
end
end

/-! What notices, the tracker and the blocks behind it leave alone: the rings' places and faults, the configuration
and every register but the counts that notices raise. -/
namespace Sys2Proof.Machine

/-! ### Reading a register after a write -/

theorem reg_setReg_twf {s : State} (h : twf regReset s.regs = true) (a b : Nat) (v : Word) :
    reg (setReg s a v) b = if b = a then v else reg s b := tget_tput h

theorem regs_setLatch (s : State) (a : Nat) (v g : Word) : (setLatch s a v g).regs = (setReg s a v).regs := by
  unfold setLatch
  dsimp only
  split <;> rfl

theorem reg_setLatch {s : State} (h : twf regReset s.regs = true) (a b : Nat) (v g : Word) :
    reg (setLatch s a v g) b = if b = a then v else reg s b := by
  unfold reg
  rw [regs_setLatch]
  exact tget_tput h

theorem reg_latch_other {s : State} (h : twf regReset s.regs = true) {a b : Nat} (k : Nat) (hb : b ≠ a) :
    reg (latch s a k) b = reg s b := by
  unfold latch
  rw [reg_setLatch h, if_neg hb]

/-- A Latch event sets its bit. -/
theorem regBit_latch_self {s : State} (h : twf regReset s.regs = true) (a : Nat) {k : Nat} (hk : k < 32) :
    regBit (latch s a k) a k = true := by
  unfold regBit latch
  rw [reg_setLatch h, if_pos rfl, bitW_or, bitW_bit]
  simp [hk]

theorem twf_latch {s : State} (h : twf regReset s.regs = true) (a k : Nat) : twf regReset (latch s a k).regs = true := by
  unfold latch
  rw [regs_setLatch]
  exact tput_twf h

/-- From `s` on to `t` the register file stays canonical, and no register has changed but the counts that notices
raise. -/
def regsQuiet (s t : State) : Prop :=
  twf regReset s.regs = true → twf regReset t.regs = true ∧ keepsRegs [] s t

theorem regsQuiet.of_eq {s t : State} (hr : t.regs = s.regs) : regsQuiet s t :=
  fun h => ⟨hr ▸ h, fun a _ _ => by unfold reg; rw [hr]⟩

theorem regsQuiet.trans {s t u : State} (a : regsQuiet s t) (b : regsQuiet t u) : regsQuiet s u := fun h => by
  obtain ⟨ht, hst⟩ := a h
  obtain ⟨hu, htu⟩ := b ht
  exact ⟨hu, fun x hx hn => (htu x hx hn).trans (hst x hx hn)⟩

/-! ### What a notice leaves alone (R59, R61, R367 to R372) -/

/-- From `s` on to `t` only what notices reach has changed: in HIF the producer counts, the vectors and the count of
lost notices, and no register but the counts that notices raise. -/
structure NoticesOnly (s t : State) : Prop where
  fields : onlyNotices s t
  hif : t.hif = { s.hif with vecs := t.hif.vecs, prod := t.hif.prod, noticesLost := t.hif.noticesLost }
  regs : regsQuiet s t

theorem NoticesOnly.refl (s : State) : NoticesOnly s s := ⟨rfl, rfl, .of_eq rfl⟩

theorem NoticesOnly.trans {s t u : State} (a : NoticesOnly s t) (b : NoticesOnly t u) : NoticesOnly s u where
  fields := by
    have hb := b.fields
    unfold onlyNotices at hb ⊢
    rw [a.fields] at hb
    exact hb
  hif := by
    have hb := b.hif
    rw [a.hif] at hb
    exact hb
  regs := a.regs.trans b.regs

theorem NoticesOnly.ite {s t u : State} {c : Prop} [Decidable c] (ht : NoticesOnly s t) (hu : NoticesOnly s u) :
    NoticesOnly s (if c then t else u) := by split <;> assumption

/-- An update of HIF's counts and of what left the unit. -/
theorem NoticesOnly.counts {s0 s : State} (k : NoticesOnly s0 s) (vecs : Table Vec) (prod : Table Word) (lost : Nat)
    (out : List HostWrite) : NoticesOnly s0
      { s with hif := { s.hif with vecs := vecs, prod := prod, noticesLost := lost }, out := out } :=
  k.trans ⟨rfl, rfl, .of_eq rfl⟩

theorem NoticesOnly.latchCount {s0 s : State} (k : NoticesOnly s0 s) {a : Nat} (ha : noticeReg a) (hi lo n : Nat) :
    NoticesOnly s0 (latchCount s a hi lo n) := by
  refine k.trans ⟨?_, by simp, fun h => ⟨?_, fun b _ hb => ?_⟩⟩
  · unfold onlyNotices Machine.latchCount setLatch
    dsimp only
    split <;> rfl
  · unfold Machine.latchCount
    rw [regs_setLatch]
    exact tput_twf h
  · have hne : b ≠ a := fun e => hb (e ▸ ha)
    unfold Machine.latchCount
    rw [reg_setLatch h, if_neg hne]

theorem signalVector_noticesOnly {s0 s : State} (v : Nat) (k : NoticesOnly s0 s) : NoticesOnly s0 (signalVector s v) := by
  unfold signalVector
  split
  · exact k.counts _ _ _ _
  · exact k.counts _ _ _ _

theorem countRecord_noticesOnly {s0 s : State} (v : Nat) (urgent : Bool) (k : NoticesOnly s0 s) :
    NoticesOnly s0 (countRecord s v urgent) := by
  unfold countRecord
  dsimp only
  split
  · exact signalVector_noticesOnly v k
  · exact k.counts _ _ _ _

theorem writeNotice_noticesOnly {s0 s : State} (m : Nat) (n : Notice) (k : NoticesOnly s0 s) :
    NoticesOnly s0 (writeNotice s m n) := by
  unfold writeNotice
  exact countRecord_noticesOnly _ _ (k.counts _ _ _ _)

theorem flushLost_noticesOnly {s0 s : State} (k : NoticesOnly s0 s) : NoticesOnly s0 (flushLost s) := by
  unfold flushLost
  split
  · split
    · exact writeNotice_noticesOnly _ _ (k.counts _ _ _ _)
    · exact k
  · exact k

theorem hostNotice_noticesOnly {s0 s : State} (n : Notice) (k : NoticesOnly s0 s) : NoticesOnly s0 (hostNotice s n) := by
  have kf := flushLost_noticesOnly k
  unfold hostNotice
  dsimp only
  split
  next m _ =>
    split
    · exact writeNotice_noticesOnly _ _ kf
    · exact (kf.latchCount (.inr (.inr ⟨m, rfl⟩)) 15 0 1).counts _ _ _ _
  next => exact kf

theorem setOutbox_noticesOnly {s0 s : State} (src : Nat) (o : Outbox) (k : NoticesOnly s0 s) :
    NoticesOnly s0 (setOutbox s src o) :=
  k.trans ⟨rfl, rfl, .of_eq rfl⟩

theorem placePacket_noticesOnly {s0 s : State} (src : Nat) (p : Packet) (k : NoticesOnly s0 s) :
    NoticesOnly s0 (placePacket s src p) := by
  unfold placePacket
  split
  · exact k.latchCount (.inl ⟨_, rfl⟩) 15 0 1
  · exact NoticesOnly.ite (setOutbox_noticesOnly _ _ k)
      ((setOutbox_noticesOnly _ _ k).latchCount (.inr (.inl ⟨_, rfl⟩)) 15 0 1)

theorem notice_noticesOnly {s0 s : State} (code inst detail : Nat) (host fw : Bool) (k : NoticesOnly s0 s) :
    NoticesOnly s0 (notice s code inst detail host fw) := by
  have kh : NoticesOnly s0 (if host then hostNotice s ⟨code, inst, s.hoop.number, detail⟩ else s) := by
    split
    · exact hostNotice_noticesOnly _ k
    · exact k
  unfold notice
  dsimp only
  split
  · exact placePacket_noticesOnly _ _ kh
  · exact kh

/-! ### What the tracker and the blocks behind it leave alone -/

/-- From `s` on to `t` the rings have kept their places and faults, the configuration is the same, and no register
but the counts that notices raise has changed. -/
structure RingsKept (s t : State) : Prop where
  cfg : t.cfg = s.cfg
  head : t.hif.head = s.hif.head
  tail : t.hif.tail = s.hif.tail
  fault : t.hif.fault = s.hif.fault
  regs : regsQuiet s t

theorem RingsKept.refl (s : State) : RingsKept s s := ⟨rfl, rfl, rfl, rfl, .of_eq rfl⟩

theorem RingsKept.trans {s t u : State} (a : RingsKept s t) (b : RingsKept t u) : RingsKept s u where
  cfg := b.cfg.trans a.cfg
  head := b.head.trans a.head
  tail := b.tail.trans a.tail
  fault := b.fault.trans a.fault
  regs := a.regs.trans b.regs

theorem RingsKept.ite {s t u : State} {c : Prop} [Decidable c] (ht : RingsKept s t) (hu : RingsKept s u) :
    RingsKept s (if c then t else u) := by split <;> assumption

/-- An update of other fields. -/
theorem RingsKept.update {s0 s t : State} (k : RingsKept s0 s) (hc : t.cfg = s.cfg) (hr : t.regs = s.regs)
    (hh : t.hif.head = s.hif.head) (ht : t.hif.tail = s.hif.tail) (hf : t.hif.fault = s.hif.fault) :
    RingsKept s0 t :=
  k.trans ⟨hc, hh, ht, hf, .of_eq hr⟩

theorem NoticesOnly.ringsKept {s t : State} (k : NoticesOnly s t) : RingsKept s t where
  cfg := by rw [k.fields]
  head := by rw [k.hif]
  tail := by rw [k.hif]
  fault := by rw [k.hif]
  regs := k.regs

theorem RingsKept.foldl {s0 s : State} {α : Type} {f : State → α → State} (hf : ∀ t x, RingsKept s0 t → RingsKept s0 (f t x))
    (l : List α) (k : RingsKept s0 s) : RingsKept s0 (l.foldl f s) := by
  induction l generalizing s with
  | nil => exact k
  | cons x l ih => exact ih (hf s x k)

section Operations
variable {s0 s : State}

theorem notice_ringsKept (code inst detail : Nat) (host fw : Bool) (k : RingsKept s0 s) :
    RingsKept s0 (notice s code inst detail host fw) :=
  k.trans (notice_noticesOnly _ _ _ _ _ (.refl s)).ringsKept

theorem modTrack_ringsKept (id : Nat) (f : Track → Track) (k : RingsKept s0 s) : RingsKept s0 (modTrack s id f) :=
  k.update rfl rfl rfl rfl rfl

theorem afterLeave_ringsKept (ring : Nat) (k : RingsKept s0 s) : RingsKept s0 (afterLeave s ring) := by
  have k1 : RingsKept s0 (if inFlight s ≤ 448 then { s with hif := { s.hif with limitArmed := true } } else s) :=
    .ite (k.update rfl rfl rfl rfl rfl) k
  unfold afterLeave
  exact .ite (notice_ringsKept _ _ _ _ _ (k1.update rfl rfl rfl rfl rfl)) k1

theorem dropTrack_ringsKept (id : Nat) (k : RingsKept s0 s) : RingsKept s0 (dropTrack s id) := by
  unfold dropTrack
  split
  · exact afterLeave_ringsKept _ (k.update rfl rfl rfl rfl rfl)
  · exact k

theorem decideOne_ringsKept (id st r0 r1 : Nat) (hoop : Hoop) (k : RingsKept s0 s) :
    RingsKept s0 (decideOne s id st r0 r1 hoop) := by
  have kn : RingsKept s0 { s with hif := { s.hif with nextFin := s.hif.nextFin + 1 } } := k.update rfl rfl rfl rfl rfl
  unfold decideOne
  split
  next t _ =>
    dsimp only
    split
    · exact dropTrack_ringsKept _ (kn.update rfl rfl rfl rfl rfl)
    · split
      · exact dropTrack_ringsKept _ kn
      · split
        · exact modTrack_ringsKept _ _ kn
        · split
          · exact dropTrack_ringsKept _ kn
          · exact modTrack_ringsKept _ _ kn
  next => exact k

theorem settleFences_ringsKept (ring : Nat) (k : RingsKept s0 s) : RingsKept s0 (settleFences s ring) := by
  unfold settleFences
  refine RingsKept.foldl (fun t f kt => ?_) _ k
  split
  · split
    · exact decideOne_ringsKept _ _ _ _ _ kt
    · exact kt
  · exact kt

theorem settleOne_ringsKept (id : Nat) (k : RingsKept s0 s) : RingsKept s0 (settleOne s id) := by
  unfold settleOne
  split
  · split
    · split
      · exact k
      · exact decideOne_ringsKept _ _ _ _ _ k
    · exact k
  · exact k

theorem settleRing_ringsKept (ring : Nat) (k : RingsKept s0 s) : RingsKept s0 (settleRing s ring) := by
  unfold settleRing
  exact settleFences_ringsKept _ (RingsKept.foldl (fun _ id kt => settleOne_ringsKept id kt) _ k)

theorem finish_ringsKept (id st r0 r1 : Nat) (k : RingsKept s0 s) : RingsKept s0 (finish s id st r0 r1) := by
  unfold finish finishAt
  split
  · split
    · exact modTrack_ringsKept _ _ k
    · exact settleRing_ringsKept _ (decideOne_ringsKept _ _ _ _ _ k)
  · exact k

theorem removeJobs_ringsKept (n : Nat) (ids : List Nat) (st : Nat) (k : RingsKept s0 s) :
    RingsKept s0 (removeJobs s n ids st) := by
  unfold removeJobs
  refine settleRing_ringsKept _ (RingsKept.foldl (fun t id kt => ?_) _ k)
  exact decideOne_ringsKept _ _ _ _ _ ((modTrack_ringsKept _ _ kt).update rfl rfl rfl rfl rfl)

theorem disableRing_ringsKept (n : Nat) (k : RingsKept s0 s) : RingsKept s0 (disableRing s n) := by
  unfold disableRing
  exact afterLeave_ringsKept _ (removeJobs_ringsKept _ _ _ (k.update rfl rfl rfl rfl rfl))

theorem settleAct_ringsKept (k : RingsKept s0 s) : RingsKept s0 (settleAct s) := by
  unfold settleAct
  split
  · exact .ite (k.update rfl rfl rfl rfl rfl) k
  · exact k

theorem settleWaiting_ringsKept (k : RingsKept s0 s) : RingsKept s0 (settleWaiting s) := by
  unfold settleWaiting
  refine RingsKept.foldl (fun t p kt => RingsKept.foldl (fun u q ku => ?_) _ kt) _ k
  dsimp only
  split
  · exact ku.update rfl rfl rfl rfl rfl
  · exact ku

theorem storeOutcome_ringsKept (j : StoreJob) (st r0 : Nat) (k : RingsKept s0 s) :
    RingsKept s0 (storeOutcome s j st r0) := by
  unfold storeOutcome
  split
  · exact finish_ringsKept _ _ _ _ k
  · exact notice_ringsKept _ _ _ _ _ (k.update rfl rfl rfl rfl rfl)
  · exact k

theorem popJob_ringsKept (k : RingsKept s0 s) : RingsKept s0 (popJob s) := k.update rfl rfl rfl rfl rfl

theorem serveRead_ringsKept (j : StoreJob) (k : RingsKept s0 s) : RingsKept s0 (serveRead s j) := by
  unfold serveRead
  dsimp only
  split
  · exact storeOutcome_ringsKept _ _ _ (popJob_ringsKept k)
  · split
    · exact k.update rfl rfl rfl rfl rfl
    · exact storeOutcome_ringsKept _ _ _ (k.update rfl rfl rfl rfl rfl)

theorem startJob_ringsKept (j : StoreJob) (k : RingsKept s0 s) : RingsKept s0 (startJob s j) := by
  unfold startJob
  dsimp only
  split <;> exact k.update rfl rfl rfl rfl rfl

theorem refuseSupply_ringsKept (j : StoreJob) (r0 : Nat) (k : RingsKept s0 s) : RingsKept s0 (refuseSupply s j r0) := by
  unfold refuseSupply
  dsimp only
  split <;> exact storeOutcome_ringsKept _ _ _ (k.update rfl rfl rfl rfl rfl)

theorem serveJobs_ringsKept (fuel : Nat) (k : RingsKept s0 s) : RingsKept s0 (serveJobs fuel s) := by
  induction fuel generalizing s with
  | zero => exact k
  | succ fuel ih =>
    unfold serveJobs
    split
    · dsimp only
      split
      · exact k
      · split
        · exact ih (serveRead_ringsKept _ k)
        · split
          · exact ih (refuseSupply_ringsKept _ _ k)
          · exact startJob_ringsKept _ k
    · exact k

theorem settleJobs_ringsKept (k : RingsKept s0 s) : RingsKept s0 (settleJobs s) := by
  unfold settleJobs serve
  exact serveJobs_ringsKept _ (k.update rfl rfl rfl rfl rfl)

theorem judgeBlock_ringsKept (t : Track) (k : RingsKept s0 s) : RingsKept s0 (judgeBlock s t) := by
  unfold judgeBlock
  dsimp only
  split
  · exact finish_ringsKept _ _ _ _ k
  · exact modTrack_ringsKept _ _ k

theorem serveBlocks_ringsKept (fuel : Nat) (k : RingsKept s0 s) : RingsKept s0 (serveBlocks fuel s) := by
  induction fuel generalizing s with
  | zero => exact k
  | succ fuel ih =>
    unfold serveBlocks
    split
    · exact k
    · split
      · exact ih (judgeBlock_ringsKept _ k)
      · exact k

theorem judgeLoad_ringsKept (t : Track) (k : RingsKept s0 s) : RingsKept s0 (judgeLoad s t) := by
  unfold judgeLoad
  dsimp only
  split
  · exact finish_ringsKept _ _ _ _ k
  · split <;> exact k.update rfl rfl rfl rfl rfl

theorem serveLoads_ringsKept (fuel p : Nat) (k : RingsKept s0 s) : RingsKept s0 (serveLoads fuel s p) := by
  induction fuel generalizing s with
  | zero => exact k
  | succ fuel ih =>
    unfold serveLoads
    split
    · split
      · exact k
      · exact ih (judgeLoad_ringsKept _ k)
    · exact k

theorem settle_ringsKept (k : RingsKept s0 s) : RingsKept s0 (settle s) := by
  unfold settle nextBlock
  refine RingsKept.foldl (fun t p kt => serveLoads_ringsKept _ p kt) _ (serveBlocks_ringsKept _ ?_)
  exact settleJobs_ringsKept (settleWaiting_ringsKept (settleAct_ringsKept k))

theorem settleLgw_ringsKept (k : RingsKept s0 s) : RingsKept s0 (settleLgw s) := by
  unfold settleLgw
  split
  · exact k.update rfl rfl rfl rfl rfl
  · exact k

/-- What follows a write of HIF_SQ_CTRL elsewhere leaves the rings as the write left them. -/
theorem sqCtrlWrite_ringsKept (s : State) (n : Nat) (v : Word) : RingsKept (writeSqCtrl s n v) (sqCtrlWrite s n v) := by
  unfold sqCtrlWrite
  exact settleLgw_ringsKept (settle_ringsKept (.refl _))

end Operations

end Sys2Proof.Machine

/-! The control registers of the submission and completion rings (R74 to R77). -/
namespace Sys2Proof.Machine

/-! ### Ring control words -/

theorem word_eq_of_bitW {v w : Word} (h : ∀ k, k < 32 → bitW v k = bitW w k) : v = w :=
  BitVec.eq_of_getLsbD_eq fun k hk => by simpa [bitW_getLsbD] using h k hk

/-- A field is given by its bits. -/
theorem fld_congr {v w : Word} {hi lo : Nat} (h : ∀ k, lo ≤ k → k ≤ hi → bitW v k = bitW w k) :
    fld v hi lo = fld w hi lo := by
  refine Nat.eq_of_testBit_eq fun k => ?_
  unfold fld
  rw [testBit_bits, testBit_bits]
  by_cases hk : k < hi + 1 - lo
  · have := h (k + lo) (by omega) (by omega)
    simp only [bitW, bitOf_testBit] at this
    simp [this]
  · simp [hk]

/-- The bits of a word with ENABLE set. -/
theorem bitW_enable (v : Word) (k : Nat) : bitW (v ||| 0x80000000) k = (bitW v k || decide (k = 31)) := by
  have := bitW_bit 31 k
  rw [show (0x80000000 : Word) = w32 (2 ^ 31) from rfl, bitW_or, this]
  simp

/-- The bits of a word with ENABLE clear. -/
theorem bitW_disable (v : Word) (k : Nat) : bitW (v &&& 0x7FFFFFFF) k = (bitW v k && decide (k < 31)) := by
  rw [show (0x7FFFFFFF : Word) = ~~~w32 (2 ^ 31) from by decide, bitW_and, bitW_not, bitW_bit]
  rcases Nat.lt_trichotomy k 31 with hk | rfl | hk
  · simp [hk, show k < 32 by omega, show k ≠ 31 by omega]
  · simp
  · simp [bitW_getLsbD, BitVec.getLsbD_of_ge v k (by omega)]

theorem bitW_enable_top (v : Word) : bitW (v ||| 0x80000000) 31 = true := (bitW_enable v 31).trans (Bool.or_true _)

theorem bitW_disable_top (v : Word) : bitW (v &&& 0x7FFFFFFF) 31 = false :=
  (bitW_disable v 31).trans (Bool.and_false _)

theorem enable_of_set {v : Word} (h : bitW v 31 = true) : v ||| 0x80000000 = v := by
  refine word_eq_of_bitW fun k _ => ?_
  rw [bitW_enable]
  by_cases hk : k = 31
  · simp [hk, h]
  · simp [hk]

theorem disable_of_clear {v : Word} (h : bitW v 31 = false) : v &&& 0x7FFFFFFF = v := by
  refine word_eq_of_bitW fun k hk => ?_
  rw [bitW_disable]
  by_cases hk : k = 31
  · simp [hk, h]
  · simp [show k < 31 by omega]

theorem fld_enable (v : Word) {hi lo : Nat} (h : hi < 31) : fld (v ||| 0x80000000) hi lo = fld v hi lo :=
  fld_congr fun k _ hk => by rw [bitW_enable]; simp [show k ≠ 31 by omega]

theorem fld_log (v : Word) : fld v 4 0 = v.toNat % 32 := by simp [fld, bits]

theorem fld_ring (v : Word) : fld v 21 16 = v.toNat / 2 ^ 16 % 64 := by simp [fld, bits]

/-- The row of the registers HIF_SQ_CTRL(n). -/
def sqCtrlRow : RegRow := ⟨0x11008, 0x20, 0, 64, 0x4, 0xE03F0F1F, 0x0, [], 0x0⟩
/-- The row of the registers HIF_CQ_CTRL(m). -/
def cqCtrlRow : RegRow := ⟨0x11808, 0x20, 0, 64, 0x4, 0xC03F001F, 0x0, [], 0x0⟩

theorem regRow_sqCtrl : ∀ n : Fin 64, regRow (HIF_SQ_CTRL n) = some sqCtrlRow := by decide +kernel

theorem regRow_cqCtrl : ∀ m : Fin 64, regRow (HIF_CQ_CTRL m) = some cqCtrlRow := by decide +kernel

theorem plainWrite_row {a : Nat} {r : RegRow} (h : regRow a = some r) (s : State) (v : Word) :
    plainWrite s a v = setReg s a (written r (reg s a) (freshOf s a) v) := by
  unfold plainWrite
  rw [h]

/-- A Set bit takes the value written (R12). -/
theorem bitW_written_set {r : RegRow} (hl : r.latch = 0) (hc : r.counts = []) (old fresh v : Word) {k : Nat}
    (hk : bitW (w32 r.set) k = true) : bitW (written r old fresh v) k = bitW v k := by
  simp only [written, hl, hc, List.foldl_nil]
  simp only [bitW_and, bitW_or, bitW_not, hk]
  by_cases h : k < 32
  · simp [h, bitW_getLsbD, w32]
  · simp [bitW_getLsbD, BitVec.getLsbD_of_ge _ k (Nat.le_of_not_lt h)]

theorem sqCtrlRow_set {k : Nat} (h : k < 5 ∨ 29 ≤ k ∧ k < 32) : bitW (w32 sqCtrlRow.set) k = true := by
  rcases h with h | ⟨h1, h2⟩ <;> interval_cases k <;> decide

theorem cqCtrlRow_enable : bitW (w32 cqCtrlRow.set) 31 = true := by decide

/-- The registers of the rings and HIF_ERR are none of those that a notice counts in. -/
theorem not_noticeReg {a : Nat} (h : a % 0x20 = 8) (hlt : a < 0x340000) : ¬ noticeReg a := by
  rintro (⟨q, rfl⟩ | ⟨k, rfl⟩ | ⟨m, rfl⟩)
  · unfold NQ_CNT at hlt
    omega
  · unfold CCS_SRC_DROP at hlt
    omega
  · unfold HIF_CQ_STAT at h
    omega

theorem not_noticeReg_sqCtrl (n : Fin 64) : ¬ noticeReg (HIF_SQ_CTRL n) :=
  not_noticeReg (by unfold HIF_SQ_CTRL; omega) (by unfold HIF_SQ_CTRL; omega)

theorem not_noticeReg_hifErr : ¬ noticeReg HIF_ERR := not_noticeReg (by decide) (by decide)

theorem sqCtrl_ne_hifErr (n : Nat) : HIF_SQ_CTRL n ≠ HIF_ERR := by unfold HIF_SQ_CTRL HIF_ERR; omega

theorem cqCtrl_ne_hifErr (m : Nat) : HIF_CQ_CTRL m ≠ HIF_ERR := by unfold HIF_CQ_CTRL HIF_ERR; omega

theorem RingsKept.reg_eq {s t : State} (k : RingsKept s t) (h : twf regReset s.regs = true) {a : Nat} (ha : ¬ noticeReg a) :
    reg t a = reg s a := (k.regs h).2 a List.not_mem_nil ha

/-! ### A write of a ring's control register (R74 to R77) -/

/-- `s` with BAD_CONFIG set where a write of `v` over `old` would change a field of `mask` other than ENABLE (R74). -/
def withOtherFieldsFlagged (s : State) (old v mask : Word) : State :=
  if otherFields old v mask then badConfig s else s

section Flagged
variable {s : State} (old v mask : Word)

theorem flagged_hif : (withOtherFieldsFlagged s old v mask).hif = s.hif := by
  unfold withOtherFieldsFlagged badConfig
  split
  · exact latch_hif _ _ _
  · rfl

theorem flagged_twf (h : twf regReset s.regs = true) : twf regReset (withOtherFieldsFlagged s old v mask).regs = true := by
  unfold withOtherFieldsFlagged badConfig
  split
  · exact twf_latch h _ _
  · exact h

theorem flagged_reg (h : twf regReset s.regs = true) {a : Nat} (ha : a ≠ HIF_ERR) :
    reg (withOtherFieldsFlagged s old v mask) a = reg s a := by
  unfold withOtherFieldsFlagged badConfig
  split
  · exact reg_latch_other h _ ha
  · rfl

theorem flagged_badConfig (h : twf regReset s.regs = true) (hd : otherFields old v mask = true) :
    regBit (withOtherFieldsFlagged s old v mask) HIF_ERR 4 = true := by
  unfold withOtherFieldsFlagged
  rw [if_pos hd]
  exact regBit_latch_self h _ (by decide)

end Flagged

theorem otherFields_sq (old v : Word) : otherFields old v 0xE03F0F1F = decide ((old ^^^ v) &&& 0x603F0F1F ≠ 0) := by
  unfold otherFields
  rw [BitVec.and_assoc]
  rfl

theorem otherFields_cq (old v : Word) : otherFields old v 0xC03F001F = decide ((old ^^^ v) &&& 0x403F001F ≠ 0) := by
  unfold otherFields
  rw [BitVec.and_assoc]
  rfl

section SubmissionRing
variable {s : State} {n : Nat} {v : Word}

theorem writeSqCtrl_leaveEnabled (h : sqEnabled s n = true) (hv : bitW v 31 = true) :
    writeSqCtrl s n v = withOtherFieldsFlagged s (reg s (HIF_SQ_CTRL n)) v 0xE03F0F1F := by
  unfold sqEnabled regBit at h
  simp [writeSqCtrl, withOtherFieldsFlagged, h, hv]

theorem writeSqCtrl_disable (h : sqEnabled s n = true) (hv : bitW v 31 = false) :
    writeSqCtrl s n v = disableRing (setReg (withOtherFieldsFlagged s (reg s (HIF_SQ_CTRL n)) v 0xE03F0F1F)
      (HIF_SQ_CTRL n) (reg s (HIF_SQ_CTRL n) &&& 0x7FFFFFFF)) n := by
  unfold sqEnabled regBit at h
  simp [writeSqCtrl, withOtherFieldsFlagged, h, hv]

/-- R77: a CQ of KIND 1, or a size that is not from 4 to 16. -/
theorem writeSqCtrl_refuse (h : sqEnabled s n = false) (hv : bitW v 31 = true)
    (hbad : fld v 4 0 < 4 ∨ 16 < fld v 4 0 ∨ cqNotice s (fld v 21 16) = true) : writeSqCtrl s n v = badConfig s := by
  unfold sqEnabled regBit at h
  simp only [writeSqCtrl, h, hv, hbad, if_true, if_false, Bool.false_eq_true]

/-- R76: the ring starts anew. -/
theorem writeSqCtrl_enable (h : sqEnabled s n = false) (hv : bitW v 31 = true) (hlo : 4 ≤ fld v 4 0)
    (hhi : fld v 4 0 ≤ 16) (hk : cqNotice s (fld v 21 16) = false) :
    writeSqCtrl s n v = setHif (plainWrite s (HIF_SQ_CTRL n) v)
      { s.hif with head := tput (fun _ => 0) s.hif.head n 0
                   tail := tput (fun _ => 0) s.hif.tail n 0
                   fault := tput (fun _ => false) s.hif.fault n false
                   headDirty := tput (fun _ => false) s.hif.headDirty n
                     (tget (fun _ => false) s.hif.headDirty n || decide (headOf s n ≠ 0))
                   draining := tput (fun _ => false) s.hif.draining n false } := by
  have hok : ¬ (fld v 4 0 < 4 ∨ 16 < fld v 4 0 ∨ cqNotice s (fld v 21 16) = true) := by
    rintro (hl | hl | hl)
    · omega
    · omega
    · simp [hk] at hl
  unfold sqEnabled regBit at h
  simp only [writeSqCtrl, h, hv, hok, if_true, if_false, Bool.false_eq_true]

end SubmissionRing

section CompletionRing
variable {s : State} {m : Nat} {v : Word}

theorem writeCqCtrl_leaveEnabled (h : cqEnabled s m = true) (hv : bitW v 31 = true) :
    writeCqCtrl s m v = withOtherFieldsFlagged s (reg s (HIF_CQ_CTRL m)) v 0xC03F001F := by
  unfold cqEnabled regBit at h
  simp [writeCqCtrl, withOtherFieldsFlagged, h, hv]

/-- R75. -/
theorem writeCqCtrl_disable (h : cqEnabled s m = true) (hv : bitW v 31 = false) {w : State}
    (hw : w = withOtherFieldsFlagged s (reg s (HIF_CQ_CTRL m)) v 0xC03F001F) :
    writeCqCtrl s m v =
      if cqInUse w m then latch w HIF_ERR 3 else setReg w (HIF_CQ_CTRL m) (reg s (HIF_CQ_CTRL m) &&& 0x7FFFFFFF) := by
  subst hw
  unfold cqEnabled regBit at h
  unfold writeCqCtrl
  dsimp only
  rw [if_pos h, if_neg (by simp [hv])]
  rfl

/-- R77: a size that is not from 4 to 16, or KIND 1 beside another notice ring or under an enabled submission ring. -/
theorem writeCqCtrl_refuse (h : cqEnabled s m = false) (hv : bitW v 31 = true)
    (hbad : fld v 4 0 < 4 ∨ 16 < fld v 4 0 ∨ (bitW v 30 = true ∧ ((noticeRing s).isSome = true ∨
      ((List.range 64).any fun n => sqEnabled s n && decide (sqCq s n = m)) = true))) :
    writeCqCtrl s m v = badConfig s := by
  unfold cqEnabled regBit at h
  simp only [writeCqCtrl, h, hv, hbad, if_true, if_false, Bool.false_eq_true]

/-- R76: a ring of KIND 0 starts anew. -/
theorem writeCqCtrl_enable (h : cqEnabled s m = false) (hv : bitW v 31 = true) (hk : bitW v 30 = false)
    (hlo : 4 ≤ fld v 4 0) (hhi : fld v 4 0 ≤ 16) :
    writeCqCtrl s m v = setHif (plainWrite s (HIF_CQ_CTRL m) v)
      { s.hif with prod := tput (fun _ => 0) s.hif.prod m 0
                   release := tput (fun _ => 0) s.hif.release m 0 } := by
  unfold cqEnabled regBit at h
  simp [writeCqCtrl, h, hv, hk, Nat.not_lt.mpr hlo, Nat.not_lt.mpr hhi]

end CompletionRing

/-- R75: bound to an enabled submission ring, or to a descriptor in flight. -/
theorem cqInUse_iff (s : State) (m : Nat) : cqInUse s m = true ↔
    (∃ n : Fin 64, sqEnabled s n = true ∧ sqCq s n = m) ∨
      ∃ t, t ∈ s.hif.track ∧ t.ring < 64 ∧ t.cq = m ∧ t.orphan = false := by
  simp [cqInUse, Fin.exists_iff, and_assoc, and_left_comm]

/-- Whether a completion ring is in use depends on the control registers of the submission rings and the tracker. -/
theorem cqInUse_congr {s t : State} (hr : ∀ n : Fin 64, reg t (HIF_SQ_CTRL n) = reg s (HIF_SQ_CTRL n))
    (ht : t.hif.track = s.hif.track) (m : Nat) : cqInUse t m = cqInUse s m := by
  rw [Bool.eq_iff_iff, cqInUse_iff, cqInUse_iff, ht]
  simp only [sqEnabled, sqCq, regBit, regFld, hr]

/-- The host's aligned write at HIF_SQ_CTRL(n) is the write of that register. -/
theorem exec_registerWrite_sqCtrl (n : Fin 64) (v : Word) (s : State) :
    exec (.registerWrite .host (HIF_SQ_CTRL n) 15 v) s = .next (sqCtrlWrite s n v) := by
  have hn := n.isLt
  have hix : indexAt (0x11008 + 0x20 * n.val) 0x11008 0x20 64 = some n.val := by
    have hd : (0x11008 + 0x20 * n.val - 0x11008) / 0x20 = n.val := by omega
    unfold indexAt
    rw [hd, if_pos ⟨by omega, by omega, hn⟩]
  have h1 : ¬ (0x3C0000 ≤ 0x11008 + 0x20 * n.val ∧ 0x11008 + 0x20 * n.val < 0x3E0000) := by omega
  have h2 : (0x11008 + 0x20 * n.val) % 4 = 0 := by omega
  show execRegisterWrite .host (0x11008 + 0x20 * n.val) 15 v s = _
  unfold execRegisterWrite writeBar0 writeReg writeHif onIndex
  simp only [HIF_SQ_CTRL, HIF_CTRL, hix]
  rw [if_pos (by omega), if_neg h1, if_neg (by simp [h2]), if_neg (by omega), if_pos (by omega), if_neg (by omega)]
  rfl

/-! ### What a control write leaves, with all that follows it (R74 to R77) -/

theorem sqEnabled_eq (s : State) (n : Nat) : sqEnabled s n = bitW (reg s (HIF_SQ_CTRL n)) 31 := rfl

/-- R74, for a submission ring. -/
theorem sqCtrlWrite_of_enabled (n : Fin 64) (v : Word) {s : State} (hs : twf regReset s.regs = true)
    (h : sqEnabled s n = true) :
    reg (sqCtrlWrite s n v) (HIF_SQ_CTRL n) =
        (if bitW v 31 then reg s (HIF_SQ_CTRL n) else reg s (HIF_SQ_CTRL n) &&& 0x7FFFFFFF) ∧
      ((reg s (HIF_SQ_CTRL n) ^^^ v) &&& 0x603F0F1F ≠ 0 → regBit (sqCtrlWrite s n v) HIF_ERR 4 = true) ∧
      headOf (sqCtrlWrite s n v) n = headOf s n := by
  have k := sqCtrlWrite_ringsKept s n v
  have hw := flagged_twf (reg s (HIF_SQ_CTRL n)) v 0xE03F0F1F hs
  have hbit : (reg s (HIF_SQ_CTRL n) ^^^ v) &&& 0x603F0F1F ≠ 0 →
      regBit (withOtherFieldsFlagged s (reg s (HIF_SQ_CTRL n)) v 0xE03F0F1F) HIF_ERR 4 = true := fun hd =>
    flagged_badConfig _ _ _ hs (by rw [otherFields_sq]; exact decide_eq_true hd)
  cases hv : bitW v 31 with
  | true =>
    rw [writeSqCtrl_leaveEnabled h hv] at k
    refine ⟨?_, fun hd => ?_, ?_⟩
    · rw [k.reg_eq hw (not_noticeReg_sqCtrl n), flagged_reg _ _ _ hs (sqCtrl_ne_hifErr n), if_pos rfl]
    · unfold regBit
      rw [k.reg_eq hw not_noticeReg_hifErr]
      exact hbit hd
    · unfold headOf
      rw [k.head, flagged_hif]
  | false =>
    rw [writeSqCtrl_disable h hv] at k
    replace k := (disableRing_ringsKept n (.refl _)).trans k
    have hw' : twf regReset (setReg (withOtherFieldsFlagged s (reg s (HIF_SQ_CTRL n)) v 0xE03F0F1F)
      (HIF_SQ_CTRL n) (reg s (HIF_SQ_CTRL n) &&& 0x7FFFFFFF)).regs = true := tput_twf hw
    refine ⟨?_, fun hd => ?_, ?_⟩
    · rw [k.reg_eq hw' (not_noticeReg_sqCtrl n), reg_setReg_twf hw, if_pos rfl]
      rfl
    · unfold regBit
      rw [k.reg_eq hw' not_noticeReg_hifErr, reg_setReg_twf hw, if_neg (sqCtrl_ne_hifErr n).symm]
      exact hbit hd
    · unfold headOf
      rw [k.head, setReg_hif, flagged_hif]

/-- R76, for a submission ring. -/
theorem sqCtrlWrite_enable (n : Fin 64) (v : Word) {s : State} (hc : s.canon) (h : sqEnabled s n = false)
    (hv : bitW v 31 = true) (hlo : 4 ≤ fld v 4 0) (hhi : fld v 4 0 ≤ 16) (hk : cqNotice s (fld v 21 16) = false) :
    sqEnabled (sqCtrlWrite s n v) n = true ∧ headOf (sqCtrlWrite s n v) n = 0 ∧ tailOf (sqCtrlWrite s n v) n = 0 ∧
      tget (fun _ => false) (sqCtrlWrite s n v).hif.fault n = false ∧ sqSize (sqCtrlWrite s n v) n = 2 ^ fld v 4 0 ∧
      (sqCtrlWrite s n v).cfg = s.cfg := by
  have k := sqCtrlWrite_ringsKept s n v
  rw [writeSqCtrl_enable h hv hlo hhi hk, plainWrite_row (regRow_sqCtrl n)] at k
  have hr : reg (sqCtrlWrite s n v) (HIF_SQ_CTRL n) =
      written sqCtrlRow (reg s (HIF_SQ_CTRL n)) (freshOf s (HIF_SQ_CTRL n)) v := by
    rw [k.reg_eq (tput_twf hc.regs) (not_noticeReg_sqCtrl n)]
    exact tget_tput_self hc.regs
  have hset {j : Nat} (hj : j < 5 ∨ 29 ≤ j ∧ j < 32) :=
    bitW_written_set (r := sqCtrlRow) rfl rfl (reg s (HIF_SQ_CTRL n)) (freshOf s (HIF_SQ_CTRL n)) v (sqCtrlRow_set hj)
  refine ⟨?_, ?_, ?_, ?_, ?_, k.cfg⟩
  · rw [sqEnabled_eq, hr, hset (by omega), hv]
  · unfold headOf
    rw [k.head]
    exact tget_tput_self hc.hif.head
  · unfold tailOf
    rw [k.tail]
    exact tget_tput_self hc.hif.tail
  · rw [k.fault]
    exact tget_tput_self hc.hif.fault
  · unfold sqSize regFld
    rw [hr, fld_congr fun j _ hj => hset (by omega)]

/-- R77, for a submission ring. -/
theorem sqCtrlWrite_refuse (n : Fin 64) (v : Word) {s : State} (hs : twf regReset s.regs = true)
    (h : sqEnabled s n = false) (hv : bitW v 31 = true) (hk : cqNotice s (fld v 21 16) = true) :
    reg (sqCtrlWrite s n v) (HIF_SQ_CTRL n) = reg s (HIF_SQ_CTRL n) ∧ headOf (sqCtrlWrite s n v) n = headOf s n ∧
      regBit (sqCtrlWrite s n v) HIF_ERR 4 = true := by
  have k := sqCtrlWrite_ringsKept s n v
  rw [writeSqCtrl_refuse h hv (.inr (.inr hk))] at k
  unfold badConfig at k
  have hw := twf_latch hs HIF_ERR 4
  refine ⟨?_, ?_, ?_⟩
  · rw [k.reg_eq hw (not_noticeReg_sqCtrl n), reg_latch_other hs _ (sqCtrl_ne_hifErr n)]
  · unfold headOf
    rw [k.head, latch_hif]
  · unfold regBit
    rw [k.reg_eq hw not_noticeReg_hifErr]
    exact regBit_latch_self hs _ (by decide)

/-- R76, for a completion ring of KIND 0. -/
theorem writeCqCtrl_starts (m : Fin 64) (v : Word) {s : State} (hc : s.canon) (h : cqEnabled s m = false)
    (hv : bitW v 31 = true) (hk : bitW v 30 = false) (hlo : 4 ≤ fld v 4 0) (hhi : fld v 4 0 ≤ 16) :
    cqEnabled (writeCqCtrl s m v) m = true ∧ prodOf (writeCqCtrl s m v) m = 0 ∧ releaseOf (writeCqCtrl s m v) m = 0 ∧
      keepsRegs [HIF_CQ_CTRL m] s (writeCqCtrl s m v) ∧ onlyHost s (writeCqCtrl s m v) := by
  rw [writeCqCtrl_enable h hv hk hlo hhi, plainWrite_row (regRow_cqCtrl m)]
  refine ⟨?_, tget_tput_self hc.hif.prod, tget_tput_self hc.hif.release, fun a ha _ => ?_, rfl⟩
  · have hr := tget_tput_self (k := HIF_CQ_CTRL m) hc.regs
      (v := written cqCtrlRow (reg s (HIF_CQ_CTRL m)) (freshOf s (HIF_CQ_CTRL m)) v)
    exact (congrArg (bitW · 31) hr).trans ((bitW_written_set rfl rfl _ _ _ cqCtrlRow_enable).trans hv)
  · exact tget_tput_other hc.regs (by simpa using ha)

/-- The first record of a ring carries PHASE 1 (R76). -/
theorem phaseBit_zero (l : Nat) : phaseBit 0 l = 1 := by simp [phaseBit, bitW, bitOf, b2n]

/-- R74 and R75, for a completion ring. -/
theorem writeCqCtrl_of_enabled (m : Fin 64) (v : Word) {s w : State} (hs : twf regReset s.regs = true)
    (h : cqEnabled s m = true) (hv : bitW v 31 = false)
    (hw : w = withOtherFieldsFlagged s (reg s (HIF_CQ_CTRL m)) v 0xC03F001F) :
    writeCqCtrl s m v =
      if cqInUse s m then latch w HIF_ERR 3 else setReg w (HIF_CQ_CTRL m) (reg s (HIF_CQ_CTRL m) &&& 0x7FFFFFFF) := by
  have hu : cqInUse w m = cqInUse s m := by
    subst hw
    exact cqInUse_congr (fun n => flagged_reg _ _ _ hs (sqCtrl_ne_hifErr n)) (by rw [flagged_hif]) m
  rw [writeCqCtrl_disable h hv hw, hu]

/-- Settles O6: each clause is what a write of the ring's control register does (R74 to R77), and what follows it in the
tracker and the blocks leaves the rings as that write left them. -/
theorem ringRules : Obligations.RingRules := by
  unfold Obligations.RingRules
  refine ⟨fun n v s hc h => ?_, fun m v s w hc h hw => ?_, fun m s => cqInUse_iff s m, fun n v s hc h => ?_,
    fun n v s hc h => ?_, fun m v s hc h => ?_⟩
  · exact ⟨_, exec_registerWrite_sqCtrl n v s, sqCtrlWrite_of_enabled n v hc.regs h⟩
  · have hw' : w = withOtherFieldsFlagged s (reg s (HIF_CQ_CTRL m)) v 0xC03F001F := by
      rw [hw, withOtherFieldsFlagged, otherFields_cq]
      simp only [decide_eq_true_eq]
      rfl
    refine ⟨fun hv => ?_, fun hv hu => ?_, fun hv hu => ?_⟩
    · show Host.Outcome.next (writeCqCtrl s m (v ||| 0x80000000)) = _
      rw [enable_of_set hv, writeCqCtrl_leaveEnabled h hv, hw']
    · show Host.Outcome.next (writeCqCtrl s m (v &&& 0x7FFFFFFF)) = _
      rw [disable_of_clear hv, writeCqCtrl_of_enabled m v hc.regs h hv hw', if_pos hu]
    · show Host.Outcome.next (writeCqCtrl s m (v &&& 0x7FFFFFFF)) = _
      rw [disable_of_clear hv, writeCqCtrl_of_enabled m v hc.regs h hv hw', hu, if_neg (by decide)]
  · have hv := bitW_enable_top v
    rw [← fld_log, ← fld_ring, ← fld_enable v (by decide : 4 < 31), ← fld_enable v (by decide : 21 < 31)]
    exact ⟨fun hlo hhi hk => ⟨_, rfl, sqCtrlWrite_enable n _ hc h hv hlo hhi hk⟩,
      fun hk => ⟨_, rfl, sqCtrlWrite_refuse n _ hc.regs h hv hk⟩⟩
  · have hv := bitW_disable_top v
    refine ⟨_, rfl, ?_⟩
    obtain ⟨hr, -, -⟩ := sqCtrlWrite_of_enabled n (v &&& 0x7FFFFFFF) hc.regs h
    rw [sqEnabled_eq, hr, hv, if_neg (by decide), bitW_disable_top]
  · have hv := bitW_enable_top v
    have hkind : bitW (v ||| 0x80000000) 30 = bitW v 30 := (bitW_enable v 30).trans (Bool.or_false _)
    rw [← fld_log, ← fld_enable v (by decide : 4 < 31), ← hkind]
    refine ⟨fun hk hlo hhi => ?_, fun hsize => ?_, fun hk hnamed => ?_⟩
    · obtain ⟨he, hp, hrel, hregs, hhost⟩ := writeCqCtrl_starts m _ hc h hv hk hlo hhi
      exact ⟨_, rfl, he, hp, by rw [hp, phaseBit_zero], hrel, hregs, hhost⟩
    · exact congrArg Host.Outcome.next (writeCqCtrl_refuse h hv (by omega))
    · refine congrArg Host.Outcome.next (writeCqCtrl_refuse h hv (.inr (.inr ⟨hk, .inr ?_⟩)))
      obtain ⟨n, hn, hcq⟩ := hnamed
      exact List.any_eq_true.mpr ⟨n, by simp, by simp [hn, hcq]⟩

end Sys2Proof.Machine

/-! The motif control descriptors at their fetch, and the rings that close the tile command window (R55). -/
namespace Sys2Proof.Machine

/-! ### The descriptor fetched last, alone on its ring -/

/-- The entry `t` was fetched last, and is the only one of its ring and of its number in the tracker. -/
def aloneOnRing (s : State) (t : Track) : Prop :=
  ∃ earlier, s.hif.track = earlier ++ [t] ∧ ∀ x, x ∈ earlier → x.ring ≠ t.ring ∧ x.id ≠ t.id

theorem modFirst_append_last {α : Type} {p : α → Bool} (f : α → α) {l : List α} {x : α} (hl : ∀ y, y ∈ l → p y = false)
    (hx : p x = true) : modFirst p f (l ++ [x]) = l ++ [f x] := by
  induction l with
  | nil => simp [modFirst, hx]
  | cons y l ih =>
    rw [List.cons_append, modFirst, if_neg (by simp [hl y (by simp)]), ih fun z hz => hl z (by simp [hz]),
      List.cons_append]

section Alone
variable {s : State} {t : Track}

theorem aloneOnRing.findTrack_eq (h : aloneOnRing s t) : findTrack s t.id = some t := by
  obtain ⟨earlier, ht, hne⟩ := h
  have hnone : earlier.find? (fun x => decide (x.id = t.id)) = none :=
    List.find?_eq_none.mpr fun x hx => by simp [(hne x hx).2]
  simp [findTrack, ht, List.find?_append, hnone]

theorem aloneOnRing.filter_ring (h : aloneOnRing s t) : (s.hif.track.filter fun x => decide (x.ring = t.ring)) = [t] := by
  obtain ⟨earlier, ht, hne⟩ := h
  have hnil : earlier.filter (fun x => decide (x.ring = t.ring)) = [] :=
    List.filter_eq_nil_iff.mpr fun x hx => by simp [(hne x hx).1]
  simp [ht, List.filter_append, hnil]

/-- A change of the entry leaves it alone on its ring. -/
theorem aloneOnRing.afterMod (h : aloneOnRing s t) {f : Track → Track} (hr : (f t).ring = t.ring) (hi : (f t).id = t.id) :
    aloneOnRing (modTrack s t.id f) (f t) := by
  obtain ⟨earlier, ht, hne⟩ := h
  refine ⟨earlier, ?_, fun x hx => by rw [hr, hi]; exact hne x hx⟩
  show modFirst _ f s.hif.track = _
  rw [ht]
  exact modFirst_append_last f (fun x hx => by simp [(hne x hx).2]) (by simp)

theorem aloneOnRing.congr {u : State} (h : aloneOnRing s t) (ht : u.hif.track = s.hif.track) : aloneOnRing u t := by
  unfold aloneOnRing
  rw [ht]
  exact h

/-- R64: no earlier descriptor of its ring holds it back. -/
theorem aloneOnRing.mayStart_eq (h : aloneOnRing s t) : mayStart s t = true := by
  obtain ⟨earlier, ht, hne⟩ := h
  unfold mayStart
  rw [ht, List.all_append, List.all_eq_true.mpr fun x hx => by simp [(hne x hx).1]]
  simp

/-- A completed descriptor that is alone on its ring lets nothing else finish. -/
theorem aloneOnRing.settleRing_eq (h : aloneOnRing s t) (ho : t.desc.opcode ≠ 0x61) {st r0 r1 : Nat} {k : Hoop}
    (hp : t.phase = .done st r0 r1 k) : settleRing s t.ring = s := by
  have hone : settleOne s t.id = s := by
    unfold settleOne
    rw [h.findTrack_eq]
    dsimp only
    rw [hp]
  have hfences : (s.hif.track.filter fun x => decide (x.ring = t.ring ∧ x.desc.opcode = 0x61)) = [] := by
    refine List.filter_eq_nil_iff.mpr fun x hx => ?_
    simp only [decide_eq_true_eq, not_and]
    intro hr
    have hmem : x ∈ s.hif.track.filter fun x => decide (x.ring = t.ring) := by simp [hx, hr]
    rw [h.filter_ring, List.mem_singleton] at hmem
    rw [hmem]
    exact ho
  unfold settleRing
  rw [h.filter_ring, List.map_singleton, List.foldl_cons, List.foldl_nil, hone]
  unfold settleFences
  rw [hfences, List.foldl_nil]

/-- The next number in the order of completions is taken. -/
def withFinTaken (s : State) : State := { s with hif := { s.hif with nextFin := s.hif.nextFin + 1 } }

/-- The entry completed with its status in the hoop of `s`, next in the order of completions. -/
def completedEntry (s : State) (st r0 r1 : Nat) (t : Track) : Track :=
  { t with phase := .done st r0 r1 s.hoop.number, past := true, fin := s.hif.nextFin + 1 }

/-- A refused descriptor of the host that moves no data completes with its status at once (R56). -/
theorem aloneOnRing.finish_refused (h : aloneOnRing s t) (ho : t.desc.opcode ≠ 0x61) (hm : movesData t.desc.opcode = false)
    (horigin : t.origin = .host) (horphan : t.orphan = false) (hfwd : t.fwd = false) {st : Nat} (hst : st ≠ 0)
    (r0 r1 : Nat) : finish s t.id st r0 r1 = modTrack (withFinTaken s) t.id (completedEntry s st r0 r1) := by
  have hfollow : mustFollow s t = false := by simp [mustFollow, moving, hm]
  have hdecide : decideOne s t.id st r0 r1 s.hoop.number = modTrack (withFinTaken s) t.id (completedEntry s st r0 r1) := by
    unfold decideOne
    rw [h.findTrack_eq]
    simp only [horigin, horphan, hfwd, hst, decide_false, Bool.and_false, Bool.false_eq_true, if_false]
    rfl
  unfold finish finishAt
  rw [h.findTrack_eq]
  simp only [hfollow, Bool.false_eq_true, if_false, hdecide]
  exact ((h.congr (u := withFinTaken s) rfl).afterMod rfl rfl).settleRing_eq ho rfl

end Alone

/-! ### The fetch of one slot (R50, R69) -/

/-- The ring whose turn it is has a slot to fetch. -/
theorem nextRing_some {s : State} {n : Nat} (h : nextRing s = some n) : n < 64 ∧ fetchable s n ≠ 0 := by
  unfold nextRing roundRobin at h
  have hmem := List.mem_of_find?_eq_some h
  have hp := List.find?_some h
  simp only [List.mem_map] at hmem
  obtain ⟨i, -, rfl⟩ := hmem
  exact ⟨Nat.mod_lt _ (by decide), by simpa using hp⟩

theorem burstOf_pos (s : State) (n : Nat) : 0 < burstOf s n := by
  unfold burstOf
  dsimp only
  split <;> omega

/-- It is ring `n`'s turn, and its next slot has been read. -/
def slotRead (s : State) (n : Nat) : State :=
  { setHif s { s.hif with lastRing := n } with out := s.out ++ slotReads (setHif s { s.hif with lastRing := n }) n 1 }

/-- One slot offered in a ring's turn is read and fetched. -/
theorem fetch_single {s : State} {n : Nat} (h : nextRing s = some n) (d : Desc) :
    fetch s [d] = fetchOne n (slotRead s n) d := by
  have hf := (nextRing_some h).2
  have hb := burstOf_pos s n
  unfold fetch
  rw [h]
  dsimp only
  rw [List.take_of_length_le (by rw [List.length_singleton]; omega)]
  rfl

/-- HIF_INFLIGHT.MAX raised to the count in flight. -/
def withMaxNoted (s : State) : State :=
  if regFld s HIF_INFLIGHT 9 0 < inFlight s then setRegFld s HIF_INFLIGHT 9 0 (inFlight s) else s

theorem withMaxNoted_keeps_rest (s : State) :
    (withMaxNoted s).hif = s.hif ∧ (withMaxNoted s).hoop = s.hoop ∧ (withMaxNoted s).cfg = s.cfg ∧
      (twf regReset s.regs = true →
        twf regReset (withMaxNoted s).regs = true ∧ keepsRegs [HIF_INFLIGHT] s (withMaxNoted s)) := by
  unfold withMaxNoted
  split
  · exact ⟨rfl, rfl, rfl, fun h => ⟨tput_twf h, fun a ha _ => tget_tput_other h (by simpa using ha)⟩⟩
  · exact ⟨rfl, rfl, rfl, fun h => ⟨h, fun _ _ _ => rfl⟩⟩

theorem noteInFlight_eq (s : State) : noteInFlight s =
    if inFlight s = 512 ∧ (withMaxNoted s).hif.limitArmed = true then
      notice (setHif (withMaxNoted s) { (withMaxNoted s).hif with limitArmed := false }) 0x0102 0
        (withMaxNoted s).hoop.number.toNat true false
    else withMaxNoted s := rfl

/-- The count after a fetch moves HIF_INFLIGHT alone, besides what its notice reaches. -/
theorem noteInFlight_keeps_rest (s : State) :
    (noteInFlight s).hif.track = s.hif.track ∧ (noteInFlight s).hoop = s.hoop ∧ (noteInFlight s).cfg = s.cfg ∧
      (twf regReset s.regs = true → keepsRegs [HIF_INFLIGHT] s (noteInFlight s)) := by
  obtain ⟨hhif, hhoop, hcfg, hregs⟩ := withMaxNoted_keeps_rest s
  rw [noteInFlight_eq]
  split
  · have k := notice_noticesOnly 0x0102 0 (withMaxNoted s).hoop.number.toNat true false
      (.refl (setHif (withMaxNoted s) { (withMaxNoted s).hif with limitArmed := false }))
    refine ⟨?_, ?_, ?_, fun h a ha hn => ?_⟩
    · rw [k.hif, ← hhif]
      rfl
    · rw [k.fields, ← hhoop]
      rfl
    · rw [k.fields, ← hcfg]
      rfl
    · obtain ⟨ht, hk⟩ := hregs h
      exact ((k.regs ht).2 a List.not_mem_nil hn).trans (hk a ha hn)
  · exact ⟨by rw [hhif], hhoop, hcfg, fun h => (hregs h).2⟩

/-- The tracker entry that a fetch from ring `n` makes (R67). -/
def fetchedEntry (s : State) (n : Nat) (d : Desc) : Track :=
  { id := s.hif.nextId, ring := n, cq := sqCq s n, handed := 0, origin := .host, desc := d, phase := .held, past := false,
    late := false, control := sqControl s n, waits := [], fwd := false, fin := 0, orphan := false }

/-- The entry is in the tracker, and HEAD(n) has passed its slot (R48). -/
def withEntry (s : State) (n : Nat) (d : Desc) : State :=
  setHif s { s.hif with
    track := s.hif.track ++ [fetchedEntry s n d], nextId := s.hif.nextId + 1
    head := tput (fun _ => 0) s.hif.head n (headOf s n + 1)
    headDirty := tput (fun _ => false) s.hif.headDirty n true }

theorem fetchOne_eq (n : Nat) (s : State) (d : Desc) : fetchOne n s d =
    if mayStart (noteInFlight (withEntry s n d)) (fetchedEntry s n d) then
      release (noteInFlight (withEntry s n d)) s.hif.nextId
    else noteInFlight (withEntry s n d) := rfl

/-- A descriptor fetched from a ring with nothing else in flight starts at once (R64), and the hoop, the configuration
and the ring's control register are as they were. -/
theorem fetchOne_alone {s : State} {n : Nat} (d : Desc) (hn : n < 64) (hs : twf regReset s.regs = true)
    (hnew : ∀ t, t ∈ s.hif.track → t.ring ≠ n ∧ t.id ≠ s.hif.nextId) :
    ∃ u, fetchOne n s d = release u s.hif.nextId ∧ aloneOnRing u (fetchedEntry s n d) ∧ u.hoop = s.hoop ∧ u.cfg = s.cfg ∧
      reg u (HIF_SQ_CTRL n) = reg s (HIF_SQ_CTRL n) := by
  obtain ⟨htrack, hhoop, hcfg, hregs⟩ := noteInFlight_keeps_rest (withEntry s n d)
  have halone : aloneOnRing (noteInFlight (withEntry s n d)) (fetchedEntry s n d) := ⟨s.hif.track, htrack, hnew⟩
  refine ⟨noteInFlight (withEntry s n d), ?_, halone, hhoop, hcfg, ?_⟩
  · rw [fetchOne_eq, halone.mayStart_eq, if_pos rfl]
  · have hne : HIF_SQ_CTRL n ∉ [HIF_INFLIGHT] := fun h => by
      rw [List.mem_singleton] at h
      unfold HIF_SQ_CTRL HIF_INFLIGHT at h
      omega
    exact hregs hs _ hne (not_noticeReg_sqCtrl ⟨n, hn⟩)

/-! ### Motif control descriptors (R55) -/

/-- The checks of R52 see the hoop and the ring's CONTROL bit only. -/
theorem malformed_congr {s u : State} {n : Nat} (hh : u.hoop = s.hoop)
    (hr : reg u (HIF_SQ_CTRL n) = reg s (HIF_SQ_CTRL n)) (d : Desc) : malformed u n d = malformed s n d := by
  unfold malformed sqControl regBit
  rw [hh, hr]

/-- R55: a motif control descriptor goes on to its block from a ring with MOTIF_CTL = 1 only. -/
theorem release_motif_eq {s : State} {t : Track} (h : findTrack s t.id = some t)
    (hop : t.desc.opcode = 0x20 ∨ t.desc.opcode = 0x21) (hm : malformed s t.ring t.desc = false) :
    release s t.id = if sqMotif s t.ring then modTrack s t.id fun x => { x with phase := .ready }
      else finish s t.id stState 0 0 := by
  have hnop : t.desc.opcode ≠ 0x62 := by omega
  have hfence : t.desc.opcode ≠ 0x61 := by omega
  unfold release
  rw [h]
  cases hmotif : sqMotif s t.ring <;> simp [hm, motifRefused, hop, hmotif, hnop, hfence]

/-- What becomes of a motif control descriptor of the host that is released alone on its ring. -/
theorem aloneOnRing.release_motif {s : State} {t : Track} (h : aloneOnRing s t)
    (hop : t.desc.opcode = 0x20 ∨ t.desc.opcode = 0x21) (hm : malformed s t.ring t.desc = false)
    (horigin : t.origin = .host) (horphan : t.orphan = false) (hfwd : t.fwd = false) :
    ∃ x, findTrack (release s t.id) t.id = some x ∧ x.desc = t.desc ∧
      x.phase = (if sqMotif s t.ring then .ready else .done stState 0 0 s.hoop.number) ∧ (release s t.id).cfg = s.cfg := by
  rw [release_motif_eq h.findTrack_eq hop hm]
  split
  · exact ⟨_, (h.afterMod (f := fun x => { x with phase := .ready }) rfl rfl).findTrack_eq, rfl, rfl, rfl⟩
  · have hmoves : movesData t.desc.opcode = false := by rcases hop with hop | hop <;> rw [hop] <;> rfl
    rw [h.finish_refused (by omega) hmoves horigin horphan hfwd (by decide)]
    exact ⟨_, ((h.congr (u := withFinTaken s) rfl).afterMod (f := completedEntry s stState 0 0) rfl rfl).findTrack_eq,
      rfl, rfl, rfl⟩

/-- R472: a ring enabled with MOTIF_CTL = 1 closes the tile command window. -/
theorem lgwRefused_of_motifRing {s : State} {n : Fin 64} (he : sqEnabled s n = true) (hm : sqMotif s n = true) :
    lgwRefused s = true := by
  have hany : ((List.range 64).any fun n => sqEnabled s n && sqMotif s n) = true :=
    List.any_eq_true.mpr ⟨n, by simp, by simp [he, hm]⟩
  unfold lgwRefused
  rw [hany, Bool.or_true]

/-- Settles O8: a descriptor alone on its ring is released at its fetch, where MOTIF_CTL decides (R55); the window
that such a ring closes takes no write (R472). -/
theorem motifControlRings : Obligations.MotifControlRings := by
  unfold Obligations.MotifControlRings
  refine ⟨fun n d s hc hnext hop hm hnew => ?_, fun n v s he hmotif => ?_⟩
  · obtain ⟨u, hfetch, halone, hhoop, hcfg, hreg⟩ :=
      fetchOne_alone (s := slotRead s n) d (nextRing_some hnext).1 hc.regs hnew
    have hexec : exec (.descriptorFetch [d]) s = .next (release u s.hif.nextId) :=
      congrArg Host.Outcome.next ((fetch_single hnext d).trans hfetch)
    have hmotif : sqMotif u n = regBit s (HIF_SQ_CTRL n) 29 := congrArg (bitW · 29) hreg
    obtain ⟨x, hfind, hdesc, hphase, hcfg'⟩ :=
      halone.release_motif hop ((malformed_congr hhoop hreg d).trans hm) rfl rfl rfl
    refine ⟨_, x, hexec, hfind, hdesc, hphase.trans ?_, hcfg'.trans hcfg⟩
    rw [← hmotif, hhoop]
    rfl
  · have hr := lgwRefused_of_motifRing he hmotif
    have hclosed (x : State) : done (if lgwRefused s then s else x) = done s := by rw [if_pos hr]
    exact ⟨hclosed _, hclosed _, hclosed _, hclosed _⟩

end Sys2Proof.Machine

/-! What the parts that act in TCLK leave alone in the time base: notices, events, the hoop generator and pulses. -/
namespace Sys2Proof.Machine

/-! ### What leaves the whole time base alone -/

theorem foldl_tim {α : Type} {f : State → α → State} (hf : ∀ t x, (f t x).tim = t.tim) (l : List α) (s : State) :
    (l.foldl f s).tim = s.tim :=
  List.foldlRecOn (motive := fun t : State => t.tim = s.tim) l f rfl fun t ht x _ => (hf t x).trans ht

theorem ite_tim {s t u : State} {c : Prop} [Decidable c] (ht : t.tim = s.tim) (hu : u.tim = s.tim) :
    (if c then t else u).tim = s.tim := by split <;> assumption

theorem NoticesOnly.tim_eq {s t : State} (k : NoticesOnly s t) : t.tim = s.tim := (congrArg State.tim k.fields :)

@[simp] theorem noticeBoth_tim (s : State) (code inst detail : Nat) : (noticeBoth s code inst detail).tim = s.tim :=
  (notice_noticesOnly code inst detail true true (.refl s)).tim_eq

@[simp] theorem plainWrite_tim (s : State) (a : Nat) (v : Word) : (plainWrite s a v).tim = s.tim := by
  unfold plainWrite
  split <;> rfl

@[simp] theorem dispatch_tim (s : State) : (dispatch s).tim = s.tim := by
  refine foldl_tim (fun t c => ?_) _ s
  unfold dispatchCore
  split
  · split <;> rfl
  · rfl

@[simp] theorem countSlot_tim (s : State) (t k : Nat) : (countSlot s t k).tim = s.tim := by
  unfold countSlot
  dsimp only
  split
  · exact latch_tim ..
  · split <;> rfl

@[simp] theorem occur_tim (s : State) (code : Nat) : (occur s code).tim = s.tim := by
  refine (dispatch_tim _).trans (foldl_tim (fun u t => foldl_tim (fun w k => ?_) _ u) _ s)
  split
  · exact countSlot_tim ..
  · rfl

@[simp] theorem setRefState_tim (s : State) (r : RefState) : (setRefState s r).tim = s.tim := by
  unfold setRefState
  dsimp only
  split
  · rfl
  · exact noticeBoth_tim ..

@[simp] theorem syncPtpRef_tim (s : State) : (syncPtpRef s).tim = s.tim := by
  unfold syncPtpRef
  split
  · exact setRefState_tim ..
  · rfl

@[simp] theorem coastOn_tim (s : State) : (coastOn s).tim = s.tim := rfl

@[simp] theorem modeChanged_tim (s : State) : (modeChanged s).tim = s.tim := by
  unfold modeChanged
  dsimp only
  split <;> simp

@[simp] theorem applyHoopRegs_tim (s : State) : (applyHoopRegs s).tim = s.tim := by
  have hregs : (s.hoop.pendingRegs.foldl (fun s w => setReg s w.1 w.2) s).tim = s.tim :=
    foldl_tim (fun t (w : Nat × Word) => setReg_tim t w.1 w.2) _ s
  unfold applyHoopRegs
  dsimp only
  split
  · simpa using hregs
  · split <;> simpa using hregs

@[simp] theorem numberBoundary_tim (s : State) : (numberBoundary s).tim = s.tim := by
  unfold numberBoundary
  split
  · split <;> rfl
  · split
    · split
      · rfl
      · exact noticeBoth_tim ..
    · rfl

@[simp] theorem fixNext_tim (s : State) : (fixNext s).tim = s.tim := by
  have hset (g h : HoopGen) : (setHoop (setHoop s g) h).tim = s.tim := rfl
  have hpost (g h : HoopGen) (code detail : Nat) : (noticeBoth (setHoop (setHoop s g) h) code 0 detail).tim = s.tim :=
    noticeBoth_tim ..
  unfold fixNext
  exact ite_tim (ite_tim (hpost ..) (hset ..)) (ite_tim (ite_tim (hset ..) (hpost ..)) (hpost ..))

@[simp] theorem pulseMissed_tim (s : State) (i edge : Nat) : (pulseMissed s i edge).tim = s.tim := by
  simp [pulseMissed]

/-! ### What changes pulses only -/

/-- From `s` on to `u` the time base has changed in its pulses only: time stands, and what was copied of it. -/
def pulsesOnly (s u : State) : Prop := u.tim = { s.tim with pulses := u.tim.pulses }

theorem pulsesOnly.of_tim {s u : State} (h : u.tim = s.tim) : pulsesOnly s u := by
  unfold pulsesOnly
  rw [h]

section PulsesOnly
variable {s u : State}

theorem pulsesOnly.sec (h : pulsesOnly s u) : u.tim.sec = s.tim.sec := (congrArg Tim.sec h :)

theorem pulsesOnly.acc (h : pulsesOnly s u) : u.tim.acc = s.tim.acc := (congrArg Tim.acc h :)

theorem pulsesOnly.snapSec (h : pulsesOnly s u) : u.tim.snapSec = s.tim.snapSec := (congrArg Tim.snapSec h :)

theorem pulsesOnly.snapNsq (h : pulsesOnly s u) : u.tim.snapNsq = s.tim.snapNsq := (congrArg Tim.snapNsq h :)

end PulsesOnly

theorem pulsesOnly.trans {s t u : State} (a : pulsesOnly s t) (b : pulsesOnly t u) : pulsesOnly s u := by
  unfold pulsesOnly at a b ⊢
  rw [a] at b
  exact b

theorem pulsesOnly.then_tim {s t u : State} (a : pulsesOnly s t) (h : u.tim = t.tim) : pulsesOnly s u :=
  a.trans (.of_tim h)

theorem pulsesOnly.foldl {α : Type} {f : State → α → State} (hf : ∀ t x, pulsesOnly t (f t x)) (l : List α) (s : State) :
    pulsesOnly s (l.foldl f s) :=
  List.foldlRecOn (motive := pulsesOnly s) l f (.of_tim rfl) fun t ht x _ => ht.trans (hf t x)

theorem setPulse_pulsesOnly (s : State) (i : Nat) (p : Pulse) : pulsesOnly s (setPulse s i p) := rfl

theorem firePulse_pulsesOnly (s : State) (i : Nat) : pulsesOnly s (firePulse s i) := by
  unfold firePulse
  split
  · dsimp only
    split
    · split
      · rfl
      · split <;> rfl
    · rfl
  · rfl

theorem fireDue_pulsesOnly (s : State) : pulsesOnly s (fireDue s) := by
  refine pulsesOnly.foldl (fun t i => ?_) _ s
  split
  · split
    · exact firePulse_pulsesOnly t i
    · rfl
  · rfl

theorem pulseStep_pulsesOnly (s : State) : pulsesOnly s (pulseStep s) := by
  refine pulsesOnly.foldl (fun t i => ?_) _ s
  dsimp only
  split
  · split
    · split
      · exact (setPulse_pulsesOnly t i _).then_tim (pulseMissed_tim ..)
      · rfl
    · split <;> rfl
  · rfl

theorem pulseBoundary_pulsesOnly (s : State) (b len : Nat) : pulsesOnly s (pulseBoundary s b len) := by
  refine pulsesOnly.foldl (fun t i => ?_) _ s
  dsimp only
  split
  · split
    · split
      · exact (setPulse_pulsesOnly t i _).then_tim (pulseMissed_tim ..)
      · rfl
    · rfl
  · rfl

theorem raiseBoundary_pulsesOnly (s : State) : pulsesOnly s (raiseBoundary s) := by
  unfold raiseBoundary
  dsimp only
  refine pulsesOnly.then_tim (.trans (.of_tim ?_) (pulseBoundary_pulsesOnly ..)) (occur_tim ..)
  split <;> simp

/-- A boundary of the same cycle, raised first (Table 4-8), moves no time. -/
theorem dueBoundary_pulsesOnly (s : State) : pulsesOnly s (dueBoundary s) := by
  unfold dueBoundary
  split
  · exact (raiseBoundary_pulsesOnly s).then_tim (setHoop_tim ..)
  · rfl

end Sys2Proof.Machine

/-! The copy of device time that a SNAP makes (R88). -/
namespace Sys2Proof.Machine

/-! ### What leaves the copy alone -/

/-- From `s` on to `u` the copy of device time stands. -/
structure SnapKept (s u : State) : Prop where
  sec : u.tim.snapSec = s.tim.snapSec
  nsq : u.tim.snapNsq = s.tim.snapNsq

theorem SnapKept.ite {s t u : State} {c : Prop} [Decidable c] (ht : SnapKept s t) (hu : SnapKept s u) :
    SnapKept s (if c then t else u) := by split <;> assumption

section Kicks
variable {s0 s : State}

theorem SnapKept.then_tim {u : State} (k : SnapKept s0 s) (h : u.tim = s.tim) : SnapKept s0 u :=
  ⟨h ▸ k.sec, h ▸ k.nsq⟩

theorem SnapKept.then_pulses {u : State} (k : SnapKept s0 s) (h : pulsesOnly s u) : SnapKept s0 u :=
  ⟨h.snapSec.trans k.sec, h.snapNsq.trans k.nsq⟩

theorem setTim_snapKept {t : Tim} (hsec : t.snapSec = s.tim.snapSec) (hnsq : t.snapNsq = s.tim.snapNsq)
    (k : SnapKept s0 s) : SnapKept s0 (setTim s t) :=
  ⟨hsec.trans k.sec, hnsq.trans k.nsq⟩

theorem noticeBoth_snapKept (code inst detail : Nat) (k : SnapKept s0 s) :
    SnapKept s0 (noticeBoth s code inst detail) :=
  k.then_tim (noticeBoth_tim ..)

theorem latch_snapKept (a n : Nat) (k : SnapKept s0 s) : SnapKept s0 (latch s a n) := k.then_tim (latch_tim ..)

theorem takeFree_snapKept (k : SnapKept s0 s) : SnapKept s0 (takeFree s).2 := ⟨k.sec, k.nsq⟩

theorem syncPtpRef_snapKept (k : SnapKept s0 s) : SnapKept s0 (syncPtpRef s) := k.then_tim (syncPtpRef_tim s)

theorem setTimMode_snapKept (m : TimMode) (k : SnapKept s0 s) : SnapKept s0 (setTimMode s m) := by
  unfold setTimMode
  exact syncPtpRef_snapKept (noticeBoth_snapKept _ _ _ (setTim_snapKept rfl rfl k))

theorem abandonSlew_snapKept (k : SnapKept s0 s) : SnapKept s0 (abandonSlew s) := by
  unfold abandonSlew
  exact .ite k (latch_snapKept _ _ (setTim_snapKept rfl rfl k))

theorem adjGo_snapKept (k : SnapKept s0 s) : SnapKept s0 (adjGo s) := by
  unfold adjGo
  exact setTim_snapKept rfl rfl k

theorem jumpBoundary_snapKept (d : Int) (k : SnapKept s0 s) : SnapKept s0 (jumpBoundary s d) := by
  unfold jumpBoundary
  exact .ite (k.then_tim (setHoop_tim ..)) k

theorem loadTime_snapSec (s : State) : (loadTime s).snapSec = s.tim.snapSec := rfl

theorem loadTime_snapNsq (s : State) : (loadTime s).snapNsq = s.tim.snapNsq := rfl

theorem stepTime_snapSec (t : Tim) (d : Int) : (stepTime t d).snapSec = t.snapSec := rfl

theorem stepTime_snapNsq (t : Tim) (d : Int) : (stepTime t d).snapNsq = t.snapNsq := rfl

/-- A time that SET loads, STEP moves, or both, comes with the copy. -/
theorem setTim_moved_snapKept (set step : Bool) (amount : Int) (k : SnapKept s0 s) : SnapKept s0 (setTim s
    (if step then stepTime (if set then loadTime s else s.tim) amount else if set then loadTime s else s.tim)) := by
  refine setTim_snapKept ?_ ?_ k
  · simp only [apply_ite Tim.snapSec, stepTime_snapSec, loadTime_snapSec, ite_self]
  · simp only [apply_ite Tim.snapNsq, stepTime_snapNsq, loadTime_snapNsq, ite_self]

/-- SET and STEP move device time, not the copy. -/
theorem jump_snapKept (set step : Bool) (k : SnapKept s0 s) : SnapKept s0 (jump s set step) := by
  have kf := (abandonSlew_snapKept k).then_pulses (fireDue_pulsesOnly _)
  have kmoved (amount d : Int) :=
    (jumpBoundary_snapKept d (setTim_moved_snapKept set step amount kf)).then_pulses (pulseStep_pulsesOnly _)
  unfold jump
  exact .ite (latch_snapKept _ _ k)
    (.ite (noticeBoth_snapKept _ _ _ (kmoved _ _)) (noticeBoth_snapKept _ _ _ (takeFree_snapKept (kmoved _ _))))

end Kicks

/-! ### SNAP -/

theorem snap_snapSec (s : State) : (snap s).tim.snapSec = s.tim.sec := rfl

theorem snap_snapNsq (s : State) : (snap s).tim.snapNsq = s.tim.acc / 2 ^ 30 := rfl

/-- A write of TIM_CTRL with SNAP set copies first; its other kicks leave the copy. -/
theorem writeTimCtrl_snapKept (s : State) {v : Word} (h : bitW v 31 = true) :
    SnapKept (snap (plainWrite s TIM_CTRL v)) (writeTimCtrl s v) := by
  unfold writeTimCtrl
  simp only [h, if_true]
  generalize snap (plainWrite s TIM_CTRL v) = t
  have k : SnapKept t t := ⟨rfl, rfl⟩
  have kmove : SnapKept t (if bitW v 30 || bitW v 29 then jump t (bitW v 30) (bitW v 29) else t) :=
    .ite (jump_snapKept _ _ k) k
  have kkicks := SnapKept.ite (c := t.tim.mode = .holdover)
    (.ite (c := (bitW v 30 || bitW v 29 || bitW v 28) = true) (latch_snapKept TIM_STATUS 27 k) k)
    (.ite (c := bitW v 28 = true) (adjGo_snapKept kmove) kmove)
  exact .ite (setTimMode_snapKept .wait kkicks) kkicks

/-- The kick SNAP copies device time as the write found it (R88). -/
theorem timCtrlWrite_snap (s : State) {v : Word} (h : bitW v 31 = true) :
    (timCtrlWrite s v).tim.snapSec = s.tim.sec ∧ (timCtrlWrite s v).tim.snapNsq = s.tim.acc / 2 ^ 30 := by
  have hboundary := dueBoundary_pulsesOnly s
  have k := writeTimCtrl_snapKept (dueBoundary s) h
  refine ⟨k.sec.trans ?_, k.nsq.trans ?_⟩
  · rw [snap_snapSec, plainWrite_tim, hboundary.sec]
  · rw [snap_snapNsq, plainWrite_tim, hboundary.acc]

/-! ### The registers that show it -/

theorem liveFields_snapSecLo (s : State) : liveFields s TIM_SNAP_LO = s.tim.snapSec % 2 ^ 32 := rfl

theorem liveFields_snapNsq (s : State) : liveFields s TIM_SNAP_NSQ = s.tim.snapNsq % 2 ^ 32 := rfl

theorem liveFields_snapSecHi (s : State) : liveFields s TIM_TIME_HI = s.tim.snapSec / 2 ^ 32 % 2 ^ 16 * 2 ^ 16 := rfl

/-- Settles O18: the copy is of the time before the write's other kicks, which leave it, and a boundary raised in the
same cycle moves no time. -/
theorem snapCopies : Obligations.SnapCopies := by
  intro v s
  obtain ⟨hsec, hnsq⟩ := timCtrlWrite_snap s (bitW_enable_top v)
  refine ⟨_, rfl, ?_, ?_, ?_⟩
  · rw [liveFields_snapSecLo, hsec]
  · rw [liveFields_snapNsq, hnsq]
  · rw [liveFields_snapSecHi, hsec]

end Sys2Proof.Machine

/-! A port's settings, which take register writes only while the port is out of service (R308). -/
namespace Sys2Proof.Machine

/-! ### A host write on its way to a port -/

/-- The host's aligned write below the legacy window is the write of the register there (R40). -/
theorem exec_registerWrite_host {a : Nat} (ha : a < 0x3C0000) (h4 : a % 4 = 0) (v : Word) (s : State) :
    exec (.registerWrite .host a 15 v) s = .next (writeReg s .host a v) := by
  have hbar : writeBar0 s .host a 15 v = writeReg s .host a v := by
    unfold writeBar0
    rw [if_neg (by omega), if_neg (by omega)]
  show execRegisterWrite .host a 15 v s = _
  unfold execRegisterWrite
  rw [hbar]
  exact if_pos (by omega)

/-- The MAC block takes the writes in its window (Table 2-2). -/
theorem writeReg_mac {a : Nat} (hlo : 0x280000 ≤ a) (hhi : a < 0x300000) (s : State) (src : Source) (v : Word) :
    writeReg s src a v = writeMac s a v := by
  unfold writeReg
  iterate 10 rw [if_neg (by omega)]
  exact if_pos hhi

/-! ### The settings of a port -/

/-- Where a port's settings stand behind its MAC_CTRL. -/
def settingOffsets : List Nat := [0x04, 0x08, 0x0C, 0x10, 0x14, 0x18]

theorem mem_settings_iff (p a : Nat) :
    a ∈ [MAC_CFG p, MAC_ADDR_HI p, MAC_ADDR_LO p, MAC_VLAN p, MAC_VLAN_PCP p, MAC_PAUSE_TX p] ↔
      ∃ k ∈ settingOffsets, a = MAC_CTRL p + k := by
  simp only [settingOffsets, List.mem_cons, List.not_mem_nil, or_false, exists_eq_or_imp, exists_eq_left,
    MAC_CTRL, MAC_CFG, MAC_ADDR_HI, MAC_ADDR_LO, MAC_VLAN, MAC_VLAN_PCP, MAC_PAUSE_TX]
  omega

theorem settingOffsets_aligned_lt : ∀ k ∈ settingOffsets, k % 4 = 0 ∧ k < 0x1000 := by decide

/-- Every port implements its settings. -/
theorem regRow_setting : ∀ k ∈ settingOffsets, ∀ p : Fin 38, ∃ r, regRow (MAC_CTRL p + k) = some r := by
  simp only [← Option.isSome_iff_exists]
  decide +kernel

/-- Within a port's registers, a write at a setting is a settings write. -/
theorem writeMac_setting (p : Fin 38) {k : Nat} (hk : k ∈ settingOffsets) (s : State) (v : Word) :
    writeMac s (MAC_CTRL p + k) v = macSettingWrite s p (MAC_CTRL p + k) v := by
  have hlt := (settingOffsets_aligned_lt k hk).2
  have hp := p.isLt
  have hport : (MAC_CTRL p + k - 0x280000) / 0x1000 = p := by unfold MAC_CTRL; omega
  have hoff : (MAC_CTRL p + k) % 0x1000 = k := by unfold MAC_CTRL; omega
  unfold writeMac
  simp only [hport, hoff]
  rw [if_neg (by omega)]
  simp only [settingOffsets, List.mem_cons, List.not_mem_nil, or_false] at hk
  obtain rfl | rfl | rfl | rfl | rfl | rfl := hk <;> rfl

theorem exec_registerWrite_setting (p : Fin 38) {k : Nat} (hk : k ∈ settingOffsets) (v : Word) (s : State) :
    exec (.registerWrite .host (MAC_CTRL p + k) 15 v) s = .next (macSettingWrite s p (MAC_CTRL p + k) v) := by
  obtain ⟨h4, hlt⟩ := settingOffsets_aligned_lt k hk
  have hp := p.isLt
  have hlo : 0x280000 ≤ MAC_CTRL p + k := by unfold MAC_CTRL; omega
  have hhi : MAC_CTRL p + k < 0x300000 := by unfold MAC_CTRL; omega
  have halign : (MAC_CTRL p + k) % 4 = 0 := by unfold MAC_CTRL; omega
  rw [exec_registerWrite_host (by omega) halign, writeReg_mac hlo hhi, writeMac_setting p hk]

/-- A port in service refuses a settings write with CFG_REFUSED (R308). -/
theorem macSettingWrite_inService {s : State} {p : Nat} (h : regBit s (MAC_CTRL p) 31 = true) (a : Nat) (v : Word) :
    macSettingWrite s p a v = latch s (MAC_CTRL p) 30 := if_pos h

/-- A port out of service takes a settings write as any register does (R308). -/
theorem macSettingWrite_outOfService {s : State} {p : Nat} (h : regBit s (MAC_CTRL p) 31 = false) (a : Nat)
    (v : Word) : macSettingWrite s p a v = plainWrite s a v := if_neg (Bool.eq_false_iff.mp h)

/-- Settles O46: the host's write at a setting reaches the port's settings write, which EN decides. -/
theorem portSettingsLocked : Obligations.PortSettingsLocked := by
  intro p a v s ha
  obtain ⟨k, hk, rfl⟩ := (mem_settings_iff p a).mp ha
  rw [exec_registerWrite_setting p hk]
  constructor
  · intro hen
    rw [macSettingWrite_inService hen]
  · intro hen
    obtain ⟨r, hr⟩ := regRow_setting k hk p
    exact ⟨r, hr, by rw [macSettingWrite_outOfService hen, plainWrite_row hr]⟩

end Sys2Proof.Machine

/-! Who may command KEY: the administration ball, ADMIN and the host (R424). -/
namespace Sys2Proof.Machine

/-! ### A field written into a word -/

theorem bitW_fieldMask {hi : Nat} (lo k : Nat) (hhi : hi < 32) :
    bitW (w32 ((2 ^ (hi + 1 - lo) - 1) * 2 ^ lo)) k = decide (lo ≤ k ∧ k ≤ hi) := by
  rw [bitW_getLsbD, w32, BitVec.getLsbD_ofNat, Nat.testBit_mul_two_pow, Nat.testBit_two_pow_sub_one]
  simp only [← Bool.decide_and, decide_eq_decide]
  omega

/-- The bits of a word with one field replaced. -/
theorem bitW_setFld {hi lo k : Nat} (w : Word) (n : Nat) (hhi : hi < 32) (hk : k < 32) :
    bitW (setFld w hi lo n) k = if lo ≤ k ∧ k ≤ hi then n.testBit (k - lo) else bitW w k := by
  have hmask := bitW_fieldMask lo k hhi
  unfold w32 at hmask
  have hvalue : bitW (BitVec.ofNat 32 (n * 2 ^ lo)) k = (decide (lo ≤ k) && n.testBit (k - lo)) := by
    rw [bitW_getLsbD, BitVec.getLsbD_ofNat, Nat.testBit_mul_two_pow]
    simp [hk]
  simp only [setFld, bitW_or, bitW_and, bitW_not, hmask, hvalue]
  by_cases hin : lo ≤ k ∧ k ≤ hi
  · simp [hin]
  · simp [hin, hk]

/-- A field reads back as what was written into it. -/
theorem fld_setFld {hi lo n : Nat} (w : Word) (hhi : hi < 32) (hn : n < 2 ^ (hi + 1 - lo)) :
    fld (setFld w hi lo n) hi lo = n := by
  refine Nat.eq_of_testBit_eq fun k => ?_
  unfold fld
  rw [testBit_bits, ← bitOf_testBit]
  by_cases hk : k < hi + 1 - lo
  · have hbit := bitW_setFld (lo := lo) (k := k + lo) w n hhi (by omega)
    rw [if_pos (by omega), Nat.add_sub_cancel] at hbit
    simp only [hk, decide_true, Bool.true_and]
    exact hbit
  · have hout : n.testBit k = false :=
      Nat.testBit_lt_two_pow (hn.trans_le (Nat.pow_le_pow_right (by decide) (Nat.le_of_not_lt hk)))
    simp [hk, hout]

theorem bitW_setFld_top (w : Word) (b : Bool) : bitW (setFld w 31 31 (b2n b)) 31 = b := by
  rw [bitW_setFld w _ (by decide) (by decide)]
  cases b <;> rfl

/-! ### The registers of KEY -/

/-- The row of KEY_CTRL. -/
def keyCtrlRow : RegRow := ⟨0x380000, 0x0, 0, 1, 0x0, 0x80F00000, 0x0, [], 0x0⟩
/-- The row of KEY_CMD. -/
def keyCmdRow : RegRow := ⟨0x38000C, 0x0, 0, 1, 0x0, 0x703F003F, 0x0, [], 0x80000000⟩

theorem regRow_keyCtrl : regRow KEY_CTRL = some keyCtrlRow := by decide +kernel

theorem regRow_keyCmd : regRow KEY_CMD = some keyCmdRow := by decide +kernel

/-- OP of KEY_CMD is a Set field. -/
theorem keyCmdRow_op {k : Nat} (hlo : 28 ≤ k) (hhi : k ≤ 30) : bitW (w32 keyCmdRow.set) k = true := by
  interval_cases k <;> decide

theorem keyCtrl_ne_keyCmd : KEY_CTRL ≠ KEY_CMD := by decide

/-- A write of a register changes no other. -/
theorem reg_plainWrite_other {s : State} (h : twf regReset s.regs = true) {a b : Nat} (v : Word) (hb : b ≠ a) :
    reg (plainWrite s a v) b = reg s b := by
  unfold plainWrite
  split
  · rw [reg_setReg_twf h, if_neg hb]
  · rfl

theorem reg_plainWrite_self {s : State} (h : twf regReset s.regs = true) {a : Nat} {r : RegRow}
    (hr : regRow a = some r) (v : Word) :
    reg (plainWrite s a v) a = written r (reg s a) (freshOf s a) v := by
  rw [plainWrite_row hr, reg_setReg_twf h, if_pos rfl]

theorem plainWrite_eq_regs (s : State) (a : Nat) (v : Word) :
    plainWrite s a v = { s with regs := (plainWrite s a v).regs } := by
  unfold plainWrite
  split <;> rfl

theorem plainWrite_key (s : State) (a : Nat) (v : Word) : (plainWrite s a v).key = s.key :=
  (congrArg State.key (plainWrite_eq_regs s a v) :)

theorem plainWrite_keep (s : State) (a : Nat) (v : Word) : (plainWrite s a v).keep = s.keep :=
  (congrArg State.keep (plainWrite_eq_regs s a v) :)

/-- KEY_CMD stores the OP that a command names. -/
theorem regFld_keyCmd_op {s : State} (h : twf regReset s.regs = true) (v : Word) {op : Nat} (hop : op < 8) :
    regFld (plainWrite s KEY_CMD (setFld v 30 28 op)) KEY_CMD 30 28 = op := by
  unfold regFld
  rw [reg_plainWrite_self h regRow_keyCmd,
    fld_congr fun k hlo hhi => bitW_written_set rfl rfl _ _ _ (keyCmdRow_op hlo hhi)]
  exact fld_setFld v (by decide) hop

/-! ### A command without the privilege -/

/-- From `s` on to `u` no key and nothing kept has changed, and any command that is new ends without effect. -/
structure KeysUntouched (s u : State) : Prop where
  slots : u.key.slots = s.key.slots
  keep : u.keep = s.keep
  job : ∀ j, u.key.job = some j → s.key.job = some j ∨ (j.result ≠ keyOk ∧ j.persist = false)

theorem KeysUntouched.of_eq {s t u : State} (k : KeysUntouched s t) (hkey : u.key = t.key) (hkeep : u.keep = t.keep) :
    KeysUntouched s u where
  slots := by rw [hkey, k.slots]
  keep := hkeep.trans k.keep
  job := by rw [hkey]; exact k.job

theorem KeysUntouched.of_start {s t u : State} (k : KeysUntouched t u) (hkey : t.key = s.key) (hkeep : t.keep = s.keep) :
    KeysUntouched s u where
  slots := by rw [k.slots, hkey]
  keep := k.keep.trans hkeep
  job := by rw [← hkey]; exact k.job

theorem noteKey_noticesOnly (s : State) :
    NoticesOnly { s with egr := { s.egr with noKey := noLinkKey s } } (noteKey s) := by
  unfold noteKey
  exact NoticesOnly.ite (notice_noticesOnly _ _ _ true true (.refl _)) (.refl _)

/-- KEY_UNUSABLE may be posted, which concerns the LINK engine only. -/
theorem noteKey_keysUntouched {s t : State} (k : KeysUntouched s t) : KeysUntouched s (noteKey t) :=
  have hfields := (noteKey_noticesOnly t).fields
  k.of_eq (congrArg State.key hfields :) (congrArg State.keep hfields :)

/-- The privilege needs the host, the ball and ADMIN. -/
theorem keyAdmin_iff (s : State) (src : Source) :
    keyAdmin s src = true ↔ s.key.adminEn = true ∧ regBit s KEY_CTRL 31 = true ∧ src = .host := by
  simp [keyAdmin, and_assoc]

/-- WRITE and ERASE find an error where the privilege is missing. -/
theorem keyCheck_unprivileged {s : State} {src : Source} (h : keyAdmin s src = false) {op : Nat}
    (hop : op = 1 ∨ op = 2) (slot parent : Nat) : keyCheck s src op slot parent ≠ keyOk := by
  unfold keyCheck
  split
  · decide
  · rcases hop with rfl | rfl <;> simp [h]

/-- GO of a command that finds an error starts it with that RESULT and leaves the keys. -/
theorem keyGo_refused {s : State} {src : Source}
    (h : keyCheck s src (regFld s KEY_CMD 30 28) (regFld s KEY_CMD 5 0) (regFld s KEY_CMD 21 16) ≠ keyOk) :
    KeysUntouched s (keyGo s src) := by
  unfold keyGo
  split
  · exact ⟨rfl, rfl, fun _ => .inl⟩
  · dsimp only
    rw [if_pos h]
    refine ⟨rfl, rfl, ?_⟩
    rintro j ⟨⟩
    exact .inr ⟨h, rfl⟩

/-- A WRITE or an ERASE without the privilege. -/
theorem keyCommand_unprivileged {s : State} {src : Source} (hs : twf regReset s.regs = true)
    (h : ¬ (s.key.adminEn = true ∧ regBit s KEY_CTRL 31 = true ∧ src = .host)) {op : Nat} (hop : op = 1 ∨ op = 2)
    (v : Word) : KeysUntouched s (keyCommand s src op v) := by
  unfold keyCommand
  have hfound := regFld_keyCmd_op hs v (op := op) (by omega)
  have hctrl := reg_plainWrite_other hs (setFld v 30 28 op) keyCtrl_ne_keyCmd
  have hkey := plainWrite_key s KEY_CMD (setFld v 30 28 op)
  have hkeep := plainWrite_keep s KEY_CMD (setFld v 30 28 op)
  generalize plainWrite s KEY_CMD (setFld v 30 28 op) = t at *
  have hadmin : keyAdmin t src = false := by
    rw [Bool.eq_false_iff, ne_eq, keyAdmin_iff, regBit, hkey, hctrl]
    exact h
  have hgo : KeysUntouched t (keyGo t src) := keyGo_refused (by
    rw [hfound]
    exact keyCheck_unprivileged hadmin hop _ _)
  exact noteKey_keysUntouched (hgo.of_start hkey hkeep)

/-! ### Writes of KEY's registers by the host and by the cores -/

/-- The KEY block takes the writes in its window (Table 2-2). -/
theorem writeReg_key {a : Nat} (hlo : 0x380000 ≤ a) (hhi : a < 0x3A0000) (s : State) (src : Source) (v : Word) :
    writeReg s src a v = writeKey s src a v := by
  unfold writeReg
  iterate 14 rw [if_neg (by omega)]
  exact if_pos hhi

/-- The blocks' registers in the cores' map (Table 13-1). -/
theorem areaOf_blocks {a : Nat} (hlo : 0x40000000 ≤ a) (hhi : a < 0x44000000) : areaOf a = .blocks := by
  unfold areaOf
  iterate 3 rw [if_neg (by omega)]
  exact if_pos ⟨hlo, hhi⟩

/-- A core's aligned write below the legacy window is the write of the register there (R40, Table 13-1). -/
theorem exec_registerWrite_core {a : Nat} (ha : a < 0x3C0000) (h4 : a % 4 = 0) (c : Fin 8) (v : Word) (s : State) :
    exec (.registerWrite (.core c) (0x40000000 + a) 15 v) s = .next (writeReg s (.core c) a v) := by
  have hlast : lastLane (0x40000000 + a) 15 = 0x40000000 + a + 3 := rfl
  have hbar : writeBar0 s (.core c) a 15 v = writeReg s (.core c) a v := by
    unfold writeBar0
    rw [if_neg (by omega), if_neg (by omega)]
  show Host.Outcome.next (writeCore s c ((0x40000000 + a) % 2 ^ 32) 15 v) = _
  unfold writeCore
  rw [Nat.mod_eq_of_lt (by omega), hlast, areaOf_blocks (by omega) (by omega), areaOf_blocks (by omega) (by omega),
    if_neg (by simp)]
  dsimp only
  rw [Nat.add_sub_cancel_left, hbar]

theorem writeReg_keyCtrl (s : State) (src : Source) (v : Word) : writeReg s src KEY_CTRL v = keyCtrlWrite s src v := by
  rw [writeReg_key (by decide) (by decide)]
  exact if_pos rfl

theorem writeReg_keyData {w : Nat} (hw : w < 8) (s : State) (src : Source) (v : Word) :
    writeReg s src (KEY_DATA w) v = keyDataWrite s src (KEY_DATA w) v := by
  have hindex : indexAt (KEY_DATA w) (KEY_DATA 0) 4 8 = some w := by
    have hplace : (KEY_DATA w - KEY_DATA 0) / 4 = w := by unfold KEY_DATA; omega
    unfold indexAt
    rw [hplace, if_pos ⟨by unfold KEY_DATA; omega, by unfold KEY_DATA; omega, hw⟩]
  have hlo : 0x380020 ≤ KEY_DATA w := by unfold KEY_DATA; omega
  have hhi : KEY_DATA w < 0x380040 := by unfold KEY_DATA; omega
  rw [writeReg_key (by omega) (by omega)]
  unfold writeKey onIndex
  rw [hindex]
  simp only [KEY_CTRL, KEY_STATUS, KEY_CMD]
  iterate 3 rw [if_neg (by omega)]

/-- What ADMIN takes in a write of KEY_CTRL. -/
def adminTaken (s : State) (src : Source) (v : Word) : Bool :=
  match src with
  | .host => bitW v 31 && s.key.adminEn
  | .core _ => regBit s KEY_CTRL 31

theorem regBit_keyCtrlWrite {s : State} (h : twf regReset s.regs = true) (src : Source) (v : Word) :
    regBit (keyCtrlWrite s src v) KEY_CTRL 31 = adminTaken s src v := by
  have hset : bitW (w32 keyCtrlRow.set) 31 = true := by decide
  unfold keyCtrlWrite regBit
  rw [reg_plainWrite_self h regRow_keyCtrl, bitW_written_set rfl rfl _ _ _ hset, bitW_setFld_top]
  rfl

/-- KEY_CTRL is the only register that its write changes. -/
theorem keyCtrlWrite_keepsRegs {s : State} (h : twf regReset s.regs = true) (src : Source) (v : Word) :
    keepsRegs [KEY_CTRL] s (keyCtrlWrite s src v) :=
  fun _ ha _ => reg_plainWrite_other h _ (List.ne_of_not_mem_cons ha)

theorem keyDataWrite_core (s : State) (c : Fin 8) (a : Nat) (v : Word) : keyDataWrite s (.core c) a v = s :=
  if_neg (by simp)

/-- The top bit of a register after it is set or cleared. -/
theorem regBit_setRegFld_top {s : State} (h : twf regReset s.regs = true) (a : Nat) (b : Bool) :
    regBit (setRegFld s a 31 31 (b2n b)) a 31 = b := by
  unfold regBit setRegFld
  rw [reg_setReg_twf h, if_pos rfl, bitW_setFld_top]

/-! ### What a core reads -/

theorem regRead_core_keyCtrl (s : State) (c : Fin 8) : bitW (regRead (.core c) s KEY_CTRL) 31 = false :=
  bitW_disable_top _

theorem regRead_core_keyData {w : Nat} (hw : w < 8) (s : State) (c : Fin 8) : regRead (.core c) s (KEY_DATA w) = 0 :=
  if_pos (by unfold KEY_DATA; omega)

/-! ### The privilege -/

/-- Settles O56: without the privilege a WRITE or ERASE finds an error and leaves the keys; each access of KEY_CTRL and
KEY_DATA is the rule of its register. -/
theorem keyPrivilege : Obligations.KeyPrivilege := by
  refine ⟨fun src v s hc h => ?_, fun v s hc => ?_, fun s hc => ?_, fun c v s hc => ⟨?_, ?_, fun w hw => ⟨?_, ?_⟩⟩⟩
  · obtain ⟨wslots, wkeep, wjob⟩ := keyCommand_unprivileged hc.regs h (.inl rfl) v
    obtain ⟨eslots, ekeep, ejob⟩ := keyCommand_unprivileged hc.regs h (.inr rfl) v
    exact ⟨⟨_, rfl, wslots, wkeep, wjob⟩, ⟨_, rfl, eslots, ekeep, ejob⟩⟩
  · rw [exec_registerWrite_host (by decide) (by decide), writeReg_keyCtrl]
    exact ⟨_, rfl, regBit_keyCtrlWrite hc.regs .host v, keyCtrlWrite_keepsRegs hc.regs .host v,
      plainWrite_eq_regs s KEY_CTRL _⟩
  · have hadmin := regBit_setRegFld_top (s := setKey s { s.key with adminEn := false }) hc.regs KEY_CTRL false
    exact ⟨_, rfl, rfl, hadmin⟩
  · rw [exec_registerWrite_core (by decide) (by decide), writeReg_keyCtrl]
    exact ⟨_, rfl, regBit_keyCtrlWrite hc.regs (.core c) v⟩
  · exact regRead_core_keyCtrl s c
  · rw [exec_registerWrite_core (by unfold KEY_DATA; omega) (by unfold KEY_DATA; omega), writeReg_keyData hw,
      keyDataWrite_core]
  · exact regRead_core_keyData hw s c

end Sys2Proof.Machine

/-! The tile command window's CMD words: what the fourth byte of one stages, unstages or refuses (R474, R475). -/
namespace Sys2Proof.Machine

/-! ### A word written at CMD -/

section CommandWord
variable (l : Lgw) (m : Nat)

theorem lgwPut_cmd (x : Nat) : lgwPut l (16 * m + 1) x =
    if x = 0 then { l with staged := tput (fun _ => (0, 0)) l.staged m (0, 0) }
    else if x ≤ 6 then { l with staged := tput (fun _ => (0, 0)) l.staged m (x, tget (fun _ => 0) l.args m) }
    else { l with badCmd := true } := by
  have hmotif : (16 * m + 1) / 16 = m := by omega
  have hindex : (16 * m + 1) % 16 = 1 := by omega
  simp only [lgwPut, hmotif, hindex]

theorem lgwPut_cmd_unstages : lgwPut l (16 * m + 1) 0 =
    { l with staged := tput (fun _ => (0, 0)) l.staged m (0, 0) } := by
  rw [lgwPut_cmd, if_pos rfl]

theorem lgwPut_cmd_stages {x : Nat} (hpos : 1 ≤ x) (hle : x ≤ 6) : lgwPut l (16 * m + 1) x =
    { l with staged := tput (fun _ => (0, 0)) l.staged m (x, tget (fun _ => 0) l.args m) } := by
  rw [lgwPut_cmd, if_neg (by omega), if_pos hle]

theorem lgwPut_cmd_refuses {x : Nat} (hbad : 7 ≤ x) : lgwPut l (16 * m + 1) x = { l with badCmd := true } := by
  rw [lgwPut_cmd, if_neg (by omega), if_neg (by omega)]

end CommandWord

/-! ### The fourth byte of a word -/

/-- R474: the fourth byte completes the word, first byte on top; it is taken at the address, which moves on. -/
theorem exec_lgwDataWrite_fourth {s : State} {a b c : Nat} (hopen : lgwRefused s = false)
    (hlatch : s.lgw.latch = [a, b, c]) (v : Byte) :
    exec (.lgwDataWrite v) s = .next (setLgw s
      { lgwPut s.lgw s.lgw.addr (((a * 256 + b) * 256 + c) * 256 + v.toNat) with
        addr := (s.lgw.addr + 1) % 65536, latch := [] }) := by
  have hbyte : v.toNat % 256 = v.toNat := Nat.mod_eq_of_lt v.isLt
  have hdata : exec (.lgwDataWrite v) s = .next (lgwData s v.toNat) := rfl
  rw [hdata]
  unfold lgwData
  simp [hopen, hlatch, hbyte]

/-- Settles O59: by the value of the completed word, 0, 1 to 6 or above. -/
theorem commandWordStages : Obligations.CommandWordStages := by
  unfold Obligations.CommandWordStages
  intro m a b c x v s hc hopen _ haddr hlatch hx
  have hstaged := hc.lgw.staged
  have hexec := exec_lgwDataWrite_fourth hopen hlatch v
  rw [← hx, haddr] at hexec
  refine ⟨_, hexec, rfl, ?_⟩
  obtain rfl | ⟨hpos, hle⟩ | hbad : x = 0 ∨ (1 ≤ x ∧ x ≤ 6) ∨ 7 ≤ x := by omega
  · rw [lgwPut_cmd_unstages]
    exact ⟨rfl, rfl, rfl, fun h => absurd h (by decide), fun _ => tget_tput_self hstaged,
      fun h => absurd h (by decide), fun _ hk => tget_tput_other hstaged hk⟩
  · rw [lgwPut_cmd_stages _ _ hpos hle]
    exact ⟨rfl, rfl, rfl, fun _ _ => tget_tput_self hstaged, fun h => absurd h (by omega),
      fun h => absurd h (by omega), fun _ hk => tget_tput_other hstaged hk⟩
  · rw [lgwPut_cmd_refuses _ _ hbad]
    exact ⟨rfl, rfl, rfl, fun _ h => absurd h (by omega), fun h => absurd h (by omega),
      fun _ => ⟨rfl, rfl⟩, fun _ _ => rfl⟩

end Sys2Proof.Machine

/-! Every command answers a next state but for the host's addresses outside the BARs (R37), and every step keeps
soundness and the canonical form. -/
namespace Sys2Proof.Machine

/-! ### What a command can answer -/

/-- Settles O4: by the command; only the three accesses of the host through a BAR can stop. -/
theorem everyCommandRuns : Obligations.EveryCommandRuns := by
  unfold Obligations.EveryCommandRuns
  intro c s
  cases c with
  | registerWrite src a be v =>
    cases src with
    | host =>
      rcases Nat.lt_or_ge a 0x4000000 with ha | ha
      · exact .inl ⟨_, if_pos ha⟩
      · exact .inr ⟨if_neg (Nat.not_lt.mpr ha), .inl ⟨a, be, v, rfl, ha⟩⟩
    | core c => exact .inl ⟨_, rfl⟩
  | bar2Read a e =>
    rcases Nat.lt_or_ge a (2 ^ 32) with ha | ha
    · exact .inl ⟨_, if_pos ha⟩
    · exact .inr ⟨if_neg (Nat.not_lt.mpr ha), .inr (.inl ⟨a, e, rfl, ha⟩)⟩
  | bar2Write a v =>
    rcases Nat.lt_or_ge a (2 ^ 32) with ha | ha
    · exact .inl ⟨_, if_pos ha⟩
    · exact .inr ⟨if_neg (Nat.not_lt.mpr ha), .inr (.inr ⟨a, v, rfl, ha⟩)⟩
  | nqPop src q => cases src <;> exact .inl ⟨_, rfl⟩
  | _ => exact .inl ⟨_, rfl⟩

/-! ### Every command keeps what `Keeps` names -/

theorem bar2Read_next {a : Nat} {e : EccRead} {s u : State} (h : exec (.bar2Read a e) s = .next u) :
    u = bar2Read s a e := by
  change (if a < 2 ^ 32 then done (bar2Read s a e) else .fault .outsideBar) = _ at h
  split at h
  · cases h; rfl
  · cases h

theorem bar2Write_next {a : Nat} {v : Word} {s u : State} (h : exec (.bar2Write a v) s = .next u) :
    u = latch s HIF_ERR 6 := by
  change (if a < 2 ^ 32 then done (latch s HIF_ERR 6) else .fault .outsideBar) = _ at h
  split at h
  · cases h; rfl
  · cases h

theorem registerWrite_host_next {a : Nat} {be : Fin 16} {v : Word} {s u : State}
    (h : exec (.registerWrite .host a be v) s = .next u) : u = writeBar0 s .host a be v := by
  change (if a < 0x4000000 then done (writeBar0 s .host a be v) else .fault .outsideBar) = _ at h
  split at h
  · cases h; rfl
  · cases h

/-- A command that answers a next state at once keeps what its effect keeps. -/
theorem keeps_of_next {s t u : State} (h : Host.Outcome.next (φ := Fault) (ρ := Refusal) t = .next u) (k : Keeps s t) :
    Keeps s u := by
  cases h
  exact k

theorem exec_keeps {c : Instr} {s u : State} (h : exec c s = .next u) : Keeps s u := by
  cases c with
  | registerWrite src a be v =>
    cases src with
    | host => exact registerWrite_host_next h ▸ writeBar0_keeps _ _ _ _ _ (.refl s)
    | core c => exact keeps_of_next h (writeCore_keeps _ _ _ _ _ (.refl s))
  | bar2Read a e => exact bar2Read_next h ▸ bar2Read_keeps _ _ _ (.refl s)
  | bar2Write a v => exact bar2Write_next h ▸ latch_keeps _ _ _ (.refl s)
  | nqPop src q =>
    cases src with
    | host => exact keeps_of_next h (Keeps.refl s).fields
    | core c => exact keeps_of_next h (popQueue_keeps _ _ (.refl s))
  | pcieLinkLoss => exact keeps_of_next h (failPush_keeps _ (lgwClear_keeps _ (hostReset_keeps _ (.refl s)))).fields
  | perstNAssert => exact keeps_of_next h (failPush_keeps _ (lgwClear_keeps _ (hostReset_keeps _ (.refl s)))).fields
  | perstNRise => exact keeps_of_next h (Keeps.refl s).fields
  | pcieLinkUp => exact keeps_of_next h (.ite (Keeps.refl s).fields (.refl s))
  | keepStepComplete key => exact keeps_of_next h (.ite (keyStep_keeps _ (.refl s)) (storeStep_keeps _ (.refl s)))
  | descriptorDmaDone ring tag data =>
    refine keeps_of_next h ?_
    split
    · exact transferDone_keeps _ _ _ (.refl s)
    · exact .refl s
  | hostDmaError ring tag addr data =>
    refine keeps_of_next h ?_
    split
    · exact transferFailed_keeps _ _ _ _ (.refl s)
    · exact .refl s
  | bufWriteComplete ring tag data =>
    refine keeps_of_next h ?_
    split
    · exact transferDone_keeps _ _ _ (.refl s)
    · exact .refl s
  | pollIssue => exact keeps_of_next h (pollIssue_keeps _ (.refl s))
  | pollReturn _ _ _ _ => exact keeps_of_next h (pollReturn_keeps _ _ _ _ _ (.refl s))
  | descriptorFetch _ => exact keeps_of_next h (fetch_keeps _ _ (.refl s))
  | descriptorReadFail _ => exact keeps_of_next h (fetchFail_keeps _ _ (.refl s))
  | descriptorStart _ => exact keeps_of_next h (startHeld_keeps _ _ (.refl s))
  | atHoopRelease => exact keeps_of_next h (forwardJoined_keeps _ (releaseHeld_keeps _ (.refl s)))
  | completionWrite _ => exact keeps_of_next h (completionWrite_keeps _ _ (.refl s))
  | vectorTimerExpiry _ => exact keeps_of_next h (vectorTimer_keeps _ _ (.refl s))
  | msixUnmask _ => exact keeps_of_next h (msixUnmask_keeps _ _ (.refl s))
  | noticesLost => exact keeps_of_next h (flushLost_keeps _ (.refl s))
  | sqEnable _ _ => exact keeps_of_next h (sqCtrlWrite_keeps _ _ _ (.refl s))
  | sqDisable _ _ => exact keeps_of_next h (sqCtrlWrite_keeps _ _ _ (.refl s))
  | cqEnable _ _ => exact keeps_of_next h (writeCqCtrl_keeps _ _ _ (.refl s))
  | cqDisable _ _ => exact keeps_of_next h (writeCqCtrl_keeps _ _ _ (.refl s))
  | hifCtrlWrite _ => exact keeps_of_next h (writeHifCtrl_keeps _ _ (.refl s))
  | pollIntervalWrite _ => exact keeps_of_next h (plainWrite_keeps _ _ _ (.refl s))
  | functionLevelReset => exact keeps_of_next h (lgwClear_keeps _ (hostReset_keeps _ (.refl s)))
  | hotReset => exact keeps_of_next h (hostReset_keeps _ (.refl s))
  | bufFillComplete _ => exact keeps_of_next h (sendAcks_keeps _ (judgeAcks_keeps _ (retryBehind_keeps _ (fillComplete_keeps _ _ (.refl s)))))
  | tableValidationComplete _ => exact keeps_of_next h (sendAcks_keeps _ (judgeAcks_keeps _ (retryBehind_keeps _ (validationComplete_keeps _ _ (.refl s)))))
  | imageVerifyComplete _ => exact keeps_of_next h (verifyComplete_keeps _ _ (.refl s))
  | slewBlockEnd => exact keeps_of_next h (tick_keeps _ _ (.refl s))
  | timSnap _ => exact keeps_of_next h (timCtrlWrite_keeps _ _ (.refl s))
  | timSet _ => exact keeps_of_next h (timCtrlWrite_keeps _ _ (.refl s))
  | timStep _ => exact keeps_of_next h (timCtrlWrite_keeps _ _ (.refl s))
  | timAdjGo _ => exact keeps_of_next h (timCtrlWrite_keeps _ _ (.refl s))
  | timHoldExit _ => exact keeps_of_next h (timCtrlWrite_keeps _ _ (.refl s))
  | timRateWrite _ => exact keeps_of_next h (writeTimRate_keeps _ _ (.refl s))
  | timWatchWrite _ => exact keeps_of_next h (writeMasterCtrl_keeps _ _ (.refl s))
  | announceTimeout => exact keeps_of_next h (announceTimeout_keeps _ (.refl s))
  | stampPost => exact keeps_of_next h (stampPost_keeps _ (.refl s))
  | pulseArm _ _ => exact keeps_of_next h (writePulseCtrl_keeps _ _ _ (.refl s))
  | pulseStop _ _ => exact keeps_of_next h (writePulseCtrl_keeps _ _ _ (.refl s))
  | pulseEdge _ => exact keeps_of_next h (pulseEdge_keeps _ _ (.refl s))
  | pulseWidthEnd _ => exact keeps_of_next h (pulseWidthEnd_keeps _ _ (.refl s))
  | tinEdge _ _ _ _ => exact keeps_of_next h (tinEdge_keeps _ _ _ _ (dueBoundary_keeps _ (tick_keeps _ _ (.refl s))))
  | wclkEdge _ _ _ => exact keeps_of_next h (wclkEdge_keeps _ _ _ (dueBoundary_keeps _ (tick_keeps _ _ (.refl s))))
  | wclkTimeout => exact keeps_of_next h (wclkTimeout_keeps _ (.refl s))
  | hoopBoundary => exact keeps_of_next h (hoopBoundary_keeps _ (.refl s))
  | pinRefTimeout => exact keeps_of_next h (pinTimeout_keeps _ (.refl s))
  | fclkBoundary => exact keeps_of_next h (fclkBoundary_keeps _ (.refl s))
  | pipelineStart => exact keeps_of_next h (pipelineStart_keeps _ (.refl s))
  | commitWindowClose => exact keeps_of_next h (closeWindow_keeps _ (.refl s))
  | ingestDeadline => exact keeps_of_next h (ingestClose_keeps _ (.refl s))
  | launchTime _ _ => exact keeps_of_next h (launch_keeps _ _ _ (.refl s))
  | pipelineUncorrectableRead _ _ _ => exact keeps_of_next h (pipelineUncorrectable_keeps _ _ _ _ (.refl s))
  | hoopAbortKick _ => exact keeps_of_next h (hoopCtrlWrite_keeps _ _ (.refl s))
  | egressDeadline => exact keeps_of_next h (runDeadline_keeps _ (.refl s))
  | hoopRunStart _ => exact keeps_of_next h (hoopCtrlWrite_keeps _ _ (.refl s))
  | hoopRunStop _ => exact keeps_of_next h (hoopCtrlWrite_keeps _ _ (.refl s))
  | ltrUpdate _ _ _ _ => exact keeps_of_next h (ltrUpdate_keeps _ _ _ _ _ (.refl s))
  | stackPowerDown _ _ => exact keeps_of_next h (stackDown_keeps _ _ _ (.refl s))
  | stackExitBegin _ _ => exact keeps_of_next h (stackExitBegin_keeps _ _ _ (.refl s))
  | stackExitComplete _ => exact keeps_of_next h (stackExitDone_keeps _ _ (.refl s))
  | sessionPacketRx _ _ _ _ => exact keeps_of_next h (receive_keeps _ _ _ _ _ _ _ (.refl s))
  | ingFrameComplete _ => exact keeps_of_next h (frameComplete_keeps _ _ (.refl s))
  | curveDataWrite _ => exact keeps_of_next h (curveWrite_keeps _ _ (.refl s))
  | curveDataRead => exact keeps_of_next h (curveRead_keeps _ (.refl s))
  | passStart _ _ => exact keeps_of_next h (passStart_keeps _ _ _ (.refl s))
  | sequencerStepEnd _ => exact keeps_of_next h (stepEnd_keeps _ _ (.refl s))
  | backgroundEnd _ => exact keeps_of_next h (backgroundEnd_keeps _ _ (.refl s))
  | laneGroupEnWrite _ _ => exact keeps_of_next h (laneCtrlWrite_keeps _ _ _ (.refl s))
  | sensorPoll _ => exact keeps_of_next h (sensorPoll_keeps _ _ (.refl s))
  | sensorPollEnd _ _ => exact keeps_of_next h (sensorPollEnd_keeps _ _ _ (.refl s))
  | returnRx _ _ => exact keeps_of_next h (receive_keeps _ _ _ _ _ _ _ (.refl s))
  | tirumOtherRx _ _ => exact keeps_of_next h (receive_keeps _ _ _ _ _ _ _ (.refl s))
  | returnTokenRefill => exact keeps_of_next h (tokenRefill_keeps _ (.refl s))
  | programFragmentQueue _ => exact keeps_of_next h (programQueue_keeps _ _ (.refl s))
  | macFrameDropped _ _ _ _ => exact keeps_of_next h (receive_keeps _ _ _ _ _ _ _ (.refl s))
  | pauseFrameRx _ _ => exact keeps_of_next h (receive_keeps _ _ _ _ _ _ _ (.refl s))
  | ptpFrameRx _ _ _ => exact keeps_of_next h (receive_keeps _ _ _ _ _ _ _ (.refl s))
  | hostFrameRx _ _ _ => exact keeps_of_next h (receive_keeps _ _ _ _ _ _ _ (.refl s))
  | unclaimedFrameRx _ _ => exact keeps_of_next h (receive_keeps _ _ _ _ _ _ _ (.refl s))
  | squelchedFrameRx _ _ => exact keeps_of_next h (receive_keeps _ _ _ _ _ _ _ (.refl s))
  | frameTxStart _ _ => exact keeps_of_next h (fwAdmit_keeps _ _ (enterQueues_keeps _ _ (txStart_keeps _ _ _ (.refl s))))
  | frameTxDone _ => exact keeps_of_next h (txDone_keeps _ _ (.refl s))
  | pauseHoldEnd _ => exact keeps_of_next h (holdEnd_keeps _ _ (.refl s))
  | pauseRefresh _ _ => exact keeps_of_next h (pauseRefresh_keeps _ _ _ (.refl s))
  | pauseXon _ _ => exact keeps_of_next h (pauseXon_keeps _ _ _ (.refl s))
  | pcsStatusChange _ _ _ _ _ => exact keeps_of_next h (pcsChange_keeps _ _ _ _ _ _ (.refl s))
  | linkUp _ => exact keeps_of_next h (linkUp_keeps _ _ (.refl s))
  | linkDown _ => exact keeps_of_next h (portCheck_keeps _ _ (linkDown_keeps _ _ (.refl s)))
  | portEnWrite _ _ => exact keeps_of_next h (portCheck_keeps _ _ (macCtrlWrite_keeps _ _ _ (.refl s)))
  | fwTxGo _ _ => exact keeps_of_next h (fwTxGo_keeps _ _ _ (.refl s))
  | fwRxRelease _ _ => exact keeps_of_next h (fwRelease_keeps _ _ _ (.refl s))
  | counterClear _ => exact keeps_of_next h (clearCounters_keeps _ _ _ (.refl s))
  | heartbeatToggle => exact keeps_of_next h (heartbeatToggle_keeps _ (.refl s))
  | heartbeatEdge _ => exact keeps_of_next h (heartbeatEdge_keeps _ _ (.refl s))
  | heartbeatTimeout => exact keeps_of_next h (heartbeatTimeout_keeps _ (.refl s))
  | twinStatusSend => exact keeps_of_next h (statusSend_keeps _ (.refl s))
  | twinLinkTimeout => exact keeps_of_next h (linkTimeout_keeps _ (.refl s))
  | twinStatusRx _ _ => exact keeps_of_next h (onTwin_keeps _ _ _ _ _ (.refl s) fun _ _ k => statusMsg_keeps _ _ k)
  | twinDigestRx _ _ => exact keeps_of_next h (onTwin_keeps _ _ _ _ _ (.refl s) fun _ _ k => digestMsg_keeps _ _ k)
  | twinDescRx _ _ => exact keeps_of_next h (onTwin_keeps _ _ _ _ _ (.refl s) fun _ _ k => forwardedMsg_keeps _ _ k)
  | twinCloseRx _ _ => exact keeps_of_next h (onTwin_keeps _ _ _ _ _ (.refl s) fun _ _ k => forwardedMsg_keeps _ _ k)
  | twinLiveRx _ _ => exact keeps_of_next h (onTwin_keeps _ _ _ _ _ (.refl s) fun _ _ k => liveMsg_keeps _ _ k)
  | twinDataRx _ _ => exact keeps_of_next h (onTwin_keeps _ _ _ _ _ (.refl s) fun _ _ k => dataMsg_keeps _ _ k)
  | twinResignRx _ _ => exact keeps_of_next h (onTwin_keeps _ _ _ _ _ (.refl s) fun _ _ k => resignMsg_keeps _ _ k)
  | twinAckRx _ _ => exact keeps_of_next h (onTwin_keeps _ _ _ _ _ (.refl s) fun _ _ k => ackTaken_keeps _ _ k)
  | descRetransmit => exact keeps_of_next h (descRetransmit_keeps _ (.refl s))
  | liveApply => exact keeps_of_next h (liveApply_keeps _ (.refl s))
  | decisionPoint => exact keeps_of_next h (decisionPoint_keeps _ (.refl s))
  | stateCopySend => exact keeps_of_next h (copySend_keeps _ (.refl s))
  | syncTimeout => exact keeps_of_next h (syncTimeout_keeps _ (.refl s))
  | autoSyncRetry => exact keeps_of_next h (autoSyncRetry_keeps _ (.refl s))
  | samplerPassEnd _ => exact keeps_of_next h (samplerEnd_keeps _ _ (.refl s))
  | twnBootWrite _ => exact keeps_of_next h (bootWrite_keeps _ _ (.refl s))
  | threadStart _ _ => exact keeps_of_next h (writeThrCtrl_keeps _ _ _ (.refl s))
  | threadHalt _ _ => exact keeps_of_next h (writeThrCtrl_keeps _ _ _ (.refl s))
  | schWait _ _ => exact keeps_of_next h (schWait_keeps _ _ _ (.refl s))
  | schYield _ => exact keeps_of_next h (schYield_keeps _ _ (.refl s))
  | schExit _ => exact keeps_of_next h (schExit_keeps _ _ (.refl s))
  | schTake _ _ => exact keeps_of_next h (schTake_keeps _ _ _ (.refl s))
  | schSignal _ _ => exact keeps_of_next h (schSignal_keeps _ _ _ (.refl s))
  | schTimerWrite _ _ => exact keeps_of_next h (schTimer_keeps _ _ _ (.refl s))
  | schTimerExpiry _ => exact keeps_of_next h (timerExpiry_keeps _ _ (.refl s))
  | schWdog _ => exact keeps_of_next h (schWdog_keeps _ _ (.refl s))
  | watchdogExpiry _ => exact keeps_of_next h (watchdogExpiry_keeps _ _ (.refl s))
  | schPost _ _ => exact keeps_of_next h (schPost_keeps _ _ _ (.refl s))
  | preempt => exact keeps_of_next h (preempt_keeps _ (.refl s))
  | noticePacketAccept _ => exact keeps_of_next h (acceptPacket_keeps _ _ (.refl s))
  | nqEnWrite _ _ => exact keeps_of_next h (writeNqCtrl_keeps _ _ _ (.refl s))
  | coreFault _ _ _ => exact keeps_of_next h (coreAccess_keeps _ _ _ _ _ (.refl s))
  | obsWindowEnd => exact keeps_of_next h (obsWindowEnd_keeps _ (.refl s))
  | cvuClaim _ _ _ => exact keeps_of_next h (fromCore_keeps _ _ _ (.refl s) fun _ => writeCvuCtrl_keeps _ _ _ _ (.refl s))
  | cvuRelease _ _ _ => exact keeps_of_next h (fromCore_keeps _ _ _ (.refl s) fun _ => writeCvuCtrl_keeps _ _ _ _ (.refl s))
  | cvuStart _ _ _ => exact keeps_of_next h (fromCore_keeps _ _ _ (.refl s) fun _ => writeCvuCtrl_keeps _ _ _ _ (.refl s))
  | cvuFeedB _ _ _ => exact keeps_of_next h (fromCore_keeps _ _ _ (.refl s) fun _ => cvuFeed_keeps _ _ _ _ _ (.refl s))
  | cvuFeedH _ _ _ => exact keeps_of_next h (fromCore_keeps _ _ _ (.refl s) fun _ => cvuFeed_keeps _ _ _ _ _ (.refl s))
  | cvuFeedW _ _ _ => exact keeps_of_next h (fromCore_keeps _ _ _ (.refl s) fun _ => cvuFeed_keeps _ _ _ _ _ (.refl s))
  | railPowerOn => exact keeps_of_next h (railPowerOn_keeps _ (.refl s))
  | resetNAssert => exact keeps_of_next h (deviceReset_keeps _ _ _ (.refl s))
  | bootReset _ => exact keeps_of_next h (bootReset_keeps _ _ (.refl s))
  | resetRelease _ _ _ => exact keeps_of_next h (resetRelease_keeps _ _ _ _ (.refl s))
  | pllLock => exact keeps_of_next h (pllLock_keeps _ (.refl s))
  | keysLoaded => exact keeps_of_next h (keysLoaded_keeps _ (.refl s))
  | storeRepair => exact keeps_of_next h (storeRepair_keeps _ (.refl s))
  | memReady => exact keeps_of_next h (memReady_keeps _ (.refl s))
  | bootBegin => exact keeps_of_next h (bootBegin_keeps _ (.refl s))
  | bootClearDone => exact keeps_of_next h (bootCleared_keeps _ (.refl s))
  | bootPush _ => exact keeps_of_next h (bootPush_keeps _ _ (.refl s))
  | bootBlockDone _ => exact keeps_of_next h (bootBlock_keeps _ _ (.refl s))
  | bootAbort => exact keeps_of_next h (bootAbort_keeps _ (.refl s))
  | bootVerifyDone => exact keeps_of_next h (bootVerify_keeps _ (.refl s))
  | bringUp _ => exact keeps_of_next h (squelchWrite_keeps _ _ (.refl s))
  | bringUpStep => exact keeps_of_next h (bringUpStep_keeps _ (.refl s))
  | squelchHoldClear _ => exact keeps_of_next h (squelchWrite_keeps _ _ (.refl s))
  | activationComplete => exact keeps_of_next h (activationDone_keeps _ (.refl s))
  | confirmExpiry => exact keeps_of_next h (confirmExpiry_keeps _ (.refl s))
  | revertComplete => exact keeps_of_next h (revertDone_keeps _ (.refl s))
  | updFwWrite _ => exact keeps_of_next h (fwCmdWrite_keeps _ _ (.refl s))
  | updFwRead _ => exact keeps_of_next h (fwCmdWrite_keeps _ _ (.refl s))
  | storeSupplyTimeout => exact keeps_of_next h (storeTimeout_keeps _ (.refl s))
  | keyWrite _ _ => exact keeps_of_next h (keyCommand_keeps _ _ _ _ (.refl s))
  | keyErase _ _ => exact keeps_of_next h (keyCommand_keeps _ _ _ _ (.refl s))
  | keyDerive _ _ => exact keeps_of_next h (keyCommand_keeps _ _ _ _ (.refl s))
  | keyProve _ _ => exact keeps_of_next h (keyCommand_keeps _ _ _ _ (.refl s))
  | keySupplyTimeout => exact keeps_of_next h (keySupplyTimeout_keeps _ (.refl s))
  | keyAdminEnFall => exact keeps_of_next h (setRegFld_keeps _ _ _ _ _ (setKey_keeps _ _ (.refl s) fun _ hk => ⟨hk.slots⟩))
  | tamper _ => exact keeps_of_next h (tamper_keeps _ _ (.refl s))
  | wrapCellRenew => exact keeps_of_next h (renewWrap_keeps _ (.refl s))
  | clockLoss _ => exact keeps_of_next h (clockLoss_keeps _ _ (.refl s))
  | scrub _ _ _ => exact keeps_of_next h (memWord_keeps _ _ _ _ (.refl s))
  | glbBehavWrite _ => exact keeps_of_next h (behavWrite_keeps _ _ (.refl s))
  | supplyFault _ => exact keeps_of_next h (deviceReset_keeps _ _ _ (.refl s))
  | writePermissionRefuse _ => exact keeps_of_next h (refuseWrites_keeps _ _ (.refl s))
  | writePermissionGrant => exact keeps_of_next h (grantWrites_keeps _ (.refl s))
  | psmSensorUpdate _ _ _ => exact keeps_of_next h (sensorUpdate_keeps _ _ _ _ (.refl s))
  | lgwAddrHWrite _ => exact keeps_of_next h (lgwAddrHigh_keeps _ _ (.refl s))
  | lgwAddrLWrite _ => exact keeps_of_next h (lgwAddrLow_keeps _ _ (.refl s))
  | lgwDataWrite _ => exact keeps_of_next h (lgwData_keeps _ _ (.refl s))
  | lgwDataRead => exact keeps_of_next h (lgwRead_keeps _ (.refl s))
  | lgwOpen _ => exact keeps_of_next h (lgwOpen_keeps _ (.refl s))
  | resetNDeassert => exact keeps_of_next h (resetDeassert_keeps _ (.refl s))
  | keyCommandDone => exact keeps_of_next h (keyCommandDone_keeps _ (.refl s))
  | _ => exact keeps_of_next h (startDesc_keeps _ _ _ (.refl s))

/-- The queue is no part of what is sound or canonical. -/
theorem canon_withPending {s : State} (h : s.canon) (l : List Instr) : State.canon { s with pending := l } := { h with }

/-- Settles O3: a command keeps what `Keeps` names, and so does the tick of an empty queue. -/
theorem stepsKeepSound : Obligations.StepsKeepSound := by
  unfold Obligations.StepsKeepSound
  intro s u hs hc hstep
  have k : ∃ l, Keeps { s with pending := l } u := by
    unfold step at hstep
    split at hstep
    next c rest _ => exact ⟨rest, exec_keeps hstep⟩
    next => exact ⟨s.pending, keeps_of_next hstep (tick_keeps _ _ (.refl s))⟩
  obtain ⟨l, k⟩ := k
  exact ⟨k.sound hs, k.canon (canon_withPending hc l)⟩

end Sys2Proof.Machine

/-! A step takes the front of the queue, the state after reset is sound and at rest (R82, R383), and a descriptor's 64
bytes give it back (Table 2-4). -/
namespace Sys2Proof.Machine

/-- Settles O1: `step` is by cases on the queue. -/
theorem stepRunsFront : Obligations.StepRunsFront := by
  unfold Obligations.StepRunsFront
  intro c rest s h
  unfold step
  rw [h]

/-! ### The state after reset -/

theorem reset_canon : State.reset.canon where
  regs := rfl
  fresh := rfl
  hif := ⟨rfl, rfl, rfl, rfl, rfl, rfl, rfl, rfl⟩
  tim := ⟨rfl, rfl, rfl⟩
  win := fun _ h => nomatch h
  cfg := ⟨rfl, rfl, rfl, rfl, rfl⟩
  ing := ⟨rfl, rfl, rfl, rfl, rfl, rfl, rfl, rfl⟩
  lay := ⟨rfl, rfl⟩
  stages := rfl
  reads := rfl
  package := rfl
  badEntry := rfl
  col := ⟨rfl, rfl, rfl⟩
  run := ⟨rfl, rfl, rfl⟩
  live := rfl
  sti := ⟨rfl, rfl⟩
  egr := ⟨rfl, rfl, rfl⟩
  mac := rfl
  ccs := ⟨rfl, rfl, rfl, rfl, rfl, rfl, rfl, rfl, rfl, rfl, rfl, rfl, rfl⟩
  cvus := rfl
  upd := fun _ h => nomatch h
  keep := ⟨rfl, rfl⟩
  key := ⟨rfl⟩
  psm := ⟨rfl⟩
  lgw := ⟨rfl, rfl⟩
  twn := ⟨rfl, fun _ h => nomatch h⟩

theorem reset_sound : State.reset.sound :=
  ⟨rfl, ⟨by decide, by decide, by decide⟩, fun _ => rfl, ⟨by decide, by decide, by decide⟩⟩

/-- Settles O2: every table of the state after reset is empty. -/
theorem resetIsSound : Obligations.ResetIsSound :=
  ⟨reset_sound, reset_canon, rfl, fun _ => rfl, rfl, rfl, fun _ => rfl⟩

/-! ### Fields of a byte list written one behind the other -/

theorem leBytes_length (n v : Nat) : (leBytes n v).length = n := by
  induction n generalizing v with
  | zero => rfl
  | succ n ih => simp [leBytes, ih]

theorem leNat_leBytes (n v : Nat) : leNat (leBytes n v) = v % 256 ^ n := by
  induction n generalizing v with
  | zero => simp [leBytes, leNat, Nat.mod_one]
  | succ n ih =>
    rw [leBytes, leNat, ih, BitVec.toNat_ofNat, pow_succ' 256 n, Nat.mod_mul, show 2 ^ 8 = 256 from rfl]

theorem slice_append_self (a rest : List Byte) {n : Nat} (h : a.length = n) : slice (a ++ rest) 0 n = a := by
  simp [slice, ← h]

theorem slice_append_skip (a rest : List Byte) {off n : Nat} (h : a.length ≤ off) :
    slice (a ++ rest) off n = slice rest (off - a.length) n := by
  simp [slice, List.drop_append, List.drop_eq_nil_of_le h]

/-- The field at the front. -/
theorem le_front (n v : Nat) (rest : List Byte) (h : v < 256 ^ n) : le (leBytes n v ++ rest) 0 n = v := by
  rw [le, slice_append_self _ _ (leBytes_length n v), leNat_leBytes, Nat.mod_eq_of_lt h]

/-- A field behind the one at the front. -/
theorem le_behind (m v off n : Nat) (rest : List Byte) (h : m ≤ off) :
    le (leBytes m v ++ rest) off n = le rest (off - m) n := by
  rw [le, slice_append_skip _ _ (by rwa [leBytes_length]), leBytes_length, le]

theorem byteAt_eq_le (b : List Byte) (i : Nat) : byteAt b i = le b i 1 := by
  unfold byteAt le slice
  cases hd : b.drop i with
  | nil =>
    rw [List.getElem?_eq_none (List.drop_eq_nil_iff.mp hd)]
    rfl
  | cons x xs =>
    have hx : b[i]? = some x := by rw [← List.head?_drop, hd, List.head?_cons]
    simp [hx, leNat]

theorem word_lt (w : Word) : w.toNat < 256 ^ 4 := w.isLt

/-! ### A descriptor's bytes -/

theorem descBytes_append (d : Desc) (data : List Byte) : descBytes d ++ data =
    leBytes 1 d.opcode ++ (leBytes 1 d.flags ++ (leBytes 2 d.tag ++ (leBytes 4 d.target.toNat ++
      (leBytes 8 d.hostAddr ++ (leBytes 4 d.length ++ (leBytes 4 d.object ++
        (leBytes 4 (darg d 0) ++ (leBytes 4 (darg d 1) ++ (leBytes 4 (darg d 2) ++ (leBytes 4 (darg d 3) ++
        (leBytes 4 (darg d 4) ++ (leBytes 4 (darg d 5) ++ (leBytes 4 (darg d 6) ++ (leBytes 4 (darg d 7) ++
        (leBytes 4 (darg d 8) ++ (leBytes 4 (darg d 9) ++ data)))))))))))))))) := by
  simp [descBytes, List.range_succ]

theorem descBytes_length (d : Desc) : (descBytes d).length = 64 := by
  have h := descBytes_append d []
  rw [List.append_nil] at h
  simp [h, leBytes_length]

theorem darg_lt (d : Desc) (i : Nat) : darg d i < 256 ^ 4 := word_lt _

theorem map_darg (d : Desc) (h : d.args.length = 10) : ((List.range 10).map fun i => w32 (darg d i)) = d.args := by
  refine List.ext_getElem (by simp [h]) fun i hi _ => ?_
  simp only [List.getElem_map, List.getElem_range, darg, w32, BitVec.ofNat_toNat, BitVec.setWidth_eq]
  rw [List.getElem?_eq_getElem (by simpa [h] using hi)]
  rfl

theorem le_darg (d : Desc) (i : Nat) (rest : List Byte) : le (leBytes 4 (darg d i) ++ rest) 0 4 = darg d i :=
  le_front _ _ _ (darg_lt d i)

theorem parseDesc_descBytes (d : Desc) (data : List Byte) (h : d.wf = true) : parseDesc (descBytes d ++ data) = d := by
  obtain ⟨hop, hfl, htag, haddr, hlen, hobj, hargs⟩ := of_decide_eq_true h
  have hop' := le_front 1 d.opcode (h := hop)
  have hfl' := le_front 1 d.flags (h := hfl)
  have htag' := le_front 2 d.tag (h := htag)
  have htarget' := le_front 4 d.target.toNat (h := word_lt _)
  have haddr' := le_front 8 d.hostAddr (h := haddr)
  have hlen' := le_front 4 d.length (h := hlen)
  have hobj' := le_front 4 d.object (h := hobj)
  have hargs' := map_darg d hargs
  simp only [List.range_succ, List.range_zero, List.nil_append, List.cons_append, List.map_cons, List.map_nil] at hargs'
  rw [descBytes_append]
  simp [parseDesc, byteAt_eq_le, List.range_succ, le_behind, le_darg, hop', hfl', htag', htarget', haddr', hlen', hobj',
    hargs']
  simp [w32]

/-- Settles O52: each field is read where it was written. -/
theorem descriptorBytes : Obligations.DescriptorBytes := by
  unfold Obligations.DescriptorBytes
  intro d data h
  exact ⟨descBytes_length d, parseDesc_descBytes d data h, List.drop_left' (descBytes_length d)⟩

end Sys2Proof.Machine

/-! The parts of the state, and the state with some of them blanked: an operation that changes only the parts `w` leaves
`State.outside w` as it was. Frames of long chains of operations are equations between such states. -/
namespace Sys2Proof.Machine

/-- A part of the state that operations change together. -/
inductive Part
  /-- every register, one register, the counts that notices raise (`noticeReg`), the Latch events of the cycle -/
  | regs | reg (a : Nat) | counts | fresh
  /-- HIF: the tracker; producer counts, vectors and lost notices; the rings and polling -/
  | track | records | rings
  | pcie
  /-- TIM: pulses; stamps and captures; the rest -/
  | pulses | stamps | tim
  /-- HOOP: stacks, reference, abort state, pending registers, the rest -/
  | stacks | ref | abort | hoopRegs | hoop
  /-- the window and the waiting set -/
  | win | closed
  | cfg
  /-- ING: sessions, sources, the rest -/
  | sess | src | ing
  /-- LAY: pixels, handles, the rest -/
  | pixels | handles | lay
  | stages | reads | package | spareReads | badEntry | badStep | col | run | live | sti | egr | mac
  /-- CCS: outboxes, shared memory, the rest -/
  | outboxes | shared | ccs
  | cvus | boot
  /-- UPD: store requests, the rest -/
  | jobs | upd
  | keep | key | glb | psm | lgw
  /-- TWN: acknowledgements due, the forwarded set judged, the rest -/
  | acks | twnClosed | twn
  | out | readValue | freeCount
  deriving DecidableEq

/-! ### Registers -/

/-- An operation that changes the parts `w` may change register `a`. -/
def mayChange (w : List Part) (a : Nat) : Prop := .regs ∈ w ∨ .reg a ∈ w ∨ (.counts ∈ w ∧ noticeReg a)

open Classical in
/-- The registers that no part in `w` covers. -/
noncomputable def regsOutside (w : List Part) (m : Table Word) : Table Word :=
  m.filter fun x => decide (¬ mayChange w x.1)

theorem filter_tput {α : Type} [DecidableEq α] {d : Nat → α} {p : Nat × α → Bool} {k : Nat} (hp : ∀ v, p (k, v) = false)
    (m : Table α) (v : α) : (tput d m k v).filter p = m.filter p := by
  induction m with
  | nil => unfold tput; split <;> simp [hp]
  | cons x m ih =>
    obtain ⟨a, x⟩ := x
    unfold tput
    split
    · split <;> simp [hp]
    · split
      next h => subst h; split <;> simp [hp]
      next => simp [List.filter_cons, ih]

theorem regsOutside_tput {w : List Part} {a : Nat} (h : mayChange w a) (m : Table Word) (v : Word) :
    regsOutside w (tput regReset m a v) = regsOutside w m :=
  filter_tput (fun v => by simp [h]) m v

/-! ### Blanks -/

def Hif.outside (w : List Part) (h : Hif) : Hif :=
  { track := if .track ∈ w then [] else h.track
    nextId := if .track ∈ w then 0 else h.nextId
    nextFin := if .track ∈ w then 0 else h.nextFin
    nextHanded := if .track ∈ w then 0 else h.nextHanded
    limitArmed := if .track ∈ w then false else h.limitArmed
    draining := if .track ∈ w then [] else h.draining
    prod := if .records ∈ w then [] else h.prod
    vecs := if .records ∈ w then [] else h.vecs
    noticesLost := if .records ∈ w then 0 else h.noticesLost
    tail := if .rings ∈ w then [] else h.tail
    head := if .rings ∈ w then [] else h.head
    headDirty := if .rings ∈ w then [] else h.headDirty
    fault := if .rings ∈ w then [] else h.fault
    release := if .rings ∈ w then [] else h.release
    lastRing := if .rings ∈ w then 0 else h.lastRing
    pollOut := if .rings ∈ w then false else h.pollOut
    pollAt := if .rings ∈ w then none else h.pollAt }

def Tim.outside (w : List Part) (t : Tim) : Tim :=
  { running := if .tim ∈ w then false else t.running
    acc := if .tim ∈ w then 0 else t.acc
    sec := if .tim ∈ w then 0 else t.sec
    left := if .tim ∈ w then 0 else t.left
    blk := if .tim ∈ w then 0 else t.blk
    cyc := if .tim ∈ w then 0 else t.cyc
    mode := if .tim ∈ w then .free else t.mode
    annDue := if .tim ∈ w then none else t.annDue
    snapSec := if .tim ∈ w then 0 else t.snapSec
    snapNsq := if .tim ∈ w then 0 else t.snapNsq
    wclk := if .tim ∈ w then WordClock.reset else t.wclk
    stamps := if .stamps ∈ w then [] else t.stamps
    caps := if .stamps ∈ w then [] else t.caps
    lastPosted := if .stamps ∈ w then 0 else t.lastPosted
    pulses := if .pulses ∈ w then [] else t.pulses }

def HoopGen.outside (w : List Part) (h : HoopGen) : HoopGen :=
  { running := if .hoop ∈ w then HoopGen.reset.running else h.running
    raised := if .hoop ∈ w then HoopGen.reset.raised else h.raised
    stopAtNext := if .hoop ∈ w then HoopGen.reset.stopAtNext else h.stopAtNext
    number := if .hoop ∈ w then HoopGen.reset.number else h.number
    bThis := if .hoop ∈ w then HoopGen.reset.bThis else h.bThis
    bNext := if .hoop ∈ w then HoopGen.reset.bNext else h.bNext
    bPrev := if .hoop ∈ w then HoopGen.reset.bPrev else h.bPrev
    elThis := if .hoop ∈ w then HoopGen.reset.elThis else h.elThis
    elFirst := if .hoop ∈ w then HoopGen.reset.elFirst else h.elFirst
    gridEl := if .hoop ∈ w then HoopGen.reset.gridEl else h.gridEl
    nextK := if .hoop ∈ w then HoopGen.reset.nextK else h.nextK
    aligned := if .hoop ∈ w then HoopGen.reset.aligned else h.aligned
    slewing := if .hoop ∈ w then HoopGen.reset.slewing else h.slewing
    slewE := if .hoop ∈ w then HoopGen.reset.slewE else h.slewE
    phaseErr := if .hoop ∈ w then HoopGen.reset.phaseErr else h.phaseErr
    ref := if .ref ∈ w then HoopGen.reset.ref else h.ref
    pendingRegs := if .hoopRegs ∈ w then HoopGen.reset.pendingRegs else h.pendingRegs
    fNumber := if .hoop ∈ w then HoopGen.reset.fNumber else h.fNumber
    fStarted := if .hoop ∈ w then HoopGen.reset.fStarted else h.fStarted
    fDue := if .hoop ∈ w then HoopGen.reset.fDue else h.fDue
    early := if .hoop ∈ w then HoopGen.reset.early else h.early
    aborted := if .abort ∈ w then HoopGen.reset.aborted else h.aborted
    consecAborts := if .abort ∈ w then HoopGen.reset.consecAborts else h.consecAborts
    stormArmed := if .abort ∈ w then HoopGen.reset.stormArmed else h.stormArmed
    lastCause := if .abort ∈ w then HoopGen.reset.lastCause else h.lastCause
    lt := if .hoop ∈ w then HoopGen.reset.lt else h.lt
    limiterI := if .hoop ∈ w then HoopGen.reset.limiterI else h.limiterI
    stack0 := if .stacks ∈ w then HoopGen.reset.stack0 else h.stack0
    stack1 := if .stacks ∈ w then HoopGen.reset.stack1 else h.stack1
    stacksHeld := if .stacks ∈ w then HoopGen.reset.stacksHeld else h.stacksHeld }

def Window.outside (w : List Part) (x : Window) : Window :=
  { isOpen := if .win ∈ w then false else x.isOpen
    members := if .win ∈ w then [] else x.members
    held := if .win ∈ w then [] else x.held
    waiting := if .win ∈ w then [] else x.waiting
    closed := if .closed ∈ w then none else x.closed }

def Ing.outside (w : List Part) (g : Ing) : Ing :=
  { sess := if .sess ∈ w then Ing.reset.sess else g.sess
    src := if .src ∈ w then Ing.reset.src else g.src
    published := if .ing ∈ w then Ing.reset.published else g.published
    frozenHost := if .ing ∈ w then Ing.reset.frozenHost else g.frozenHost
    pins := if .ing ∈ w then Ing.reset.pins else g.pins
    heldWrites := if .ing ∈ w then Ing.reset.heldWrites else g.heldWrites
    order := if .ing ∈ w then Ing.reset.order else g.order
    curve := if .ing ∈ w then Ing.reset.curve else g.curve
    overflow := if .ing ∈ w then Ing.reset.overflow else g.overflow
    overflowHoop := if .ing ∈ w then Ing.reset.overflowHoop else g.overflowHoop
    bufUsed := if .ing ∈ w then Ing.reset.bufUsed else g.bufUsed }

def Lay.outside (w : List Part) (l : Lay) : Lay :=
  { handles := if .handles ∈ w then Lay.reset.handles else l.handles
    pixels := if .pixels ∈ w then Lay.reset.pixels else l.pixels
    freePages := if .lay ∈ w then Lay.reset.freePages else l.freePages
    lowArmed := if .lay ∈ w then Lay.reset.lowArmed else l.lowArmed
    compLast := if .lay ∈ w then Lay.reset.compLast else l.compLast
    prkWait := if .lay ∈ w then Lay.reset.prkWait else l.prkWait }

def Ccs.outside (w : List Part) (c : Ccs) : Ccs :=
  { threads := if .ccs ∈ w then Ccs.reset.threads else c.threads
    cores := if .ccs ∈ w then Ccs.reset.cores else c.cores
    readyLists := if .ccs ∈ w then Ccs.reset.readyLists else c.readyLists
    tcb := if .ccs ∈ w then Ccs.reset.tcb else c.tcb
    queues := if .ccs ∈ w then Ccs.reset.queues else c.queues
    outboxes := if .outboxes ∈ w then Ccs.reset.outboxes else c.outboxes
    lastSource := if .ccs ∈ w then Ccs.reset.lastSource else c.lastSource
    staged := if .ccs ∈ w then Ccs.reset.staged else c.staged
    waits := if .ccs ∈ w then Ccs.reset.waits else c.waits
    dispatches := if .ccs ∈ w then Ccs.reset.dispatches else c.dispatches
    shownDispatches := if .ccs ∈ w then Ccs.reset.shownDispatches else c.shownDispatches
    obsSeq := if .ccs ∈ w then Ccs.reset.obsSeq else c.obsSeq
    obsStart := if .ccs ∈ w then Ccs.reset.obsStart else c.obsStart
    load := if .ccs ∈ w then Ccs.reset.load else c.load
    imem := if .ccs ∈ w then Ccs.reset.imem else c.imem
    dmem := if .ccs ∈ w then Ccs.reset.dmem else c.dmem
    shared := if .shared ∈ w then Ccs.reset.shared else c.shared }

def Upd.outside (w : List Part) (u : Upd) : Upd :=
  { istate := if .upd ∈ w then Upd.reset.istate else u.istate
    image := if .upd ∈ w then Upd.reset.image else u.image
    size := if .upd ∈ w then Upd.reset.size else u.size
    fw := if .upd ∈ w then Upd.reset.fw else u.fw
    err := if .upd ∈ w then Upd.reset.err else u.err
    verifying := if .upd ∈ w then Upd.reset.verifying else u.verifying
    verifyKey := if .upd ∈ w then Upd.reset.verifyKey else u.verifyKey
    act := if .upd ∈ w then Upd.reset.act else u.act
    trial := if .upd ∈ w then Upd.reset.trial else u.trial
    reverting := if .upd ∈ w then Upd.reset.reverting else u.reverting
    actHoop := if .upd ∈ w then Upd.reset.actHoop else u.actHoop
    fallback := if .upd ∈ w then Upd.reset.fallback else u.fallback
    jobs := if .jobs ∈ w then Upd.reset.jobs else u.jobs
    storeReady := if .upd ∈ w then Upd.reset.storeReady else u.storeReady
    fwStatus := if .jobs ∈ w then Upd.reset.fwStatus else u.fwStatus
    fwLength := if .jobs ∈ w then Upd.reset.fwLength else u.fwLength
    fwBusy := if .jobs ∈ w then Upd.reset.fwBusy else u.fwBusy }

def Twn.outside (w : List Part) (t : Twn) : Twn :=
  { state := if .twn ∈ w then Twn.reset.state else t.state
    driving := if .twn ∈ w then Twn.reset.driving else t.driving
    planned := if .twn ∈ w then Twn.reset.planned else t.planned
    hbOut := if .twn ∈ w then Twn.reset.hbOut else t.hbOut
    hbAt := if .twn ∈ w then Twn.reset.hbAt else t.hbAt
    hbPresent := if .twn ∈ w then Twn.reset.hbPresent else t.hbPresent
    hbLast := if .twn ∈ w then Twn.reset.hbLast else t.hbLast
    hbOne := if .twn ∈ w then Twn.reset.hbOne else t.hbOne
    seq := if .twn ∈ w then Twn.reset.seq else t.seq
    booted := if .twn ∈ w then Twn.reset.booted else t.booted
    statusAt := if .twn ∈ w then Twn.reset.statusAt else t.statusAt
    dataPort := if .twn ∈ w then Twn.reset.dataPort else t.dataPort
    linkUp := if .twn ∈ w then Twn.reset.linkUp else t.linkUp
    linkLast := if .twn ∈ w then Twn.reset.linkLast else t.linkLast
    partnerStands := if .twn ∈ w then Twn.reset.partnerStands else t.partnerStands
    partner := if .twn ∈ w then Twn.reset.partner else t.partner
    partnerDriving := if .twn ∈ w then Twn.reset.partnerDriving else t.partnerDriving
    partnerYield := if .twn ∈ w then Twn.reset.partnerYield else t.partnerYield
    partnerRuns := if .twn ∈ w then Twn.reset.partnerRuns else t.partnerRuns
    currentRuns := if .twn ∈ w then Twn.reset.currentRuns else t.currentRuns
    rxSeen := if .twn ∈ w then Twn.reset.rxSeen else t.rxSeen
    frags := if .twn ∈ w then Twn.reset.frags else t.frags
    stepLost := if .twn ∈ w then Twn.reset.stepLost else t.stepLost
    pendingCount := if .twn ∈ w then Twn.reset.pendingCount else t.pendingCount
    lastLost := if .twn ∈ w then Twn.reset.lastLost else t.lastLost
    standbyFor := if .twn ∈ w then Twn.reset.standbyFor else t.standbyFor
    activeSince := if .twn ∈ w then Twn.reset.activeSince else t.activeSince
    sets := if .twn ∈ w then Twn.reset.sets else t.sets
    divergeHoop := if .twn ∈ w then Twn.reset.divergeHoop else t.divergeHoop
    divergePorts := if .twn ∈ w then Twn.reset.divergePorts else t.divergePorts
    consecutive := if .twn ∈ w then Twn.reset.consecutive else t.consecutive
    missing := if .twn ∈ w then Twn.reset.missing else t.missing
    partnerDigests := if .twn ∈ w then Twn.reset.partnerDigests else t.partnerDigests
    compared := if .twn ∈ w then Twn.reset.compared else t.compared
    marksNow := if .twn ∈ w then Twn.reset.marksNow else t.marksNow
    marksLast := if .twn ∈ w then Twn.reset.marksLast else t.marksLast
    linkedNow := if .twn ∈ w then Twn.reset.linkedNow else t.linkedNow
    linkedLast := if .twn ∈ w then Twn.reset.linkedLast else t.linkedLast
    gathered := if .twn ∈ w then Twn.reset.gathered else t.gathered
    liveQueue := if .twn ∈ w then Twn.reset.liveQueue else t.liveQueue
    liveAt := if .twn ∈ w then Twn.reset.liveAt else t.liveAt
    awaiting := if .twn ∈ w then Twn.reset.awaiting else t.awaiting
    heldDescs := if .twn ∈ w then Twn.reset.heldDescs else t.heldDescs
    sent := if .twn ∈ w then Twn.reset.sent else t.sent
    acksDue := if .acks ∈ w then Twn.reset.acksDue else t.acksDue
    received := if .twn ∈ w then Twn.reset.received else t.received
    closed := if .twnClosed ∈ w then Twn.reset.closed else t.closed
    closedHoop := if .twn ∈ w then Twn.reset.closedHoop else t.closedHoop
    resign := if .twn ∈ w then Twn.reset.resign else t.resign
    copyOut := if .twn ∈ w then Twn.reset.copyOut else t.copyOut
    sendq := if .twn ∈ w then Twn.reset.sendq else t.sendq
    sendOff := if .twn ∈ w then Twn.reset.sendOff else t.sendOff
    syncAt := if .twn ∈ w then Twn.reset.syncAt else t.syncAt
    syncFrom := if .twn ∈ w then Twn.reset.syncFrom else t.syncFrom
    syncReady := if .twn ∈ w then Twn.reset.syncReady else t.syncReady
    pieces := if .twn ∈ w then Twn.reset.pieces else t.pieces
    applied := if .twn ∈ w then Twn.reset.applied else t.applied
    entered := if .twn ∈ w then Twn.reset.entered else t.entered
    behind := if .twn ∈ w then Twn.reset.behind else t.behind
    entryAt := if .twn ∈ w then Twn.reset.entryAt else t.entryAt
    bytes := if .twn ∈ w then Twn.reset.bytes else t.bytes
    ms := if .twn ∈ w then Twn.reset.ms else t.ms
    retryAt := if .twn ∈ w then Twn.reset.retryAt else t.retryAt
    noAuto := if .twn ∈ w then Twn.reset.noAuto else t.noAuto
    current := if .twn ∈ w then Twn.reset.current else t.current
    runCurrent := if .twn ∈ w then Twn.reset.runCurrent else t.runCurrent
    publishes := if .twn ∈ w then Twn.reset.publishes else t.publishes
    frozenIn := if .twn ∈ w then Twn.reset.frozenIn else t.frozenIn
    passes := if .twn ∈ w then Twn.reset.passes else t.passes
    failPart := if .twn ∈ w then Twn.reset.failPart else t.failPart
    passHoops := if .twn ∈ w then Twn.reset.passHoops else t.passHoops
    samplerJobs := if .twn ∈ w then Twn.reset.samplerJobs else t.samplerJobs
    suspect := if .twn ∈ w then Twn.reset.suspect else t.suspect }

/-- The state with the parts `w` blanked. -/
noncomputable def State.outside (w : List Part) (s : State) : State :=
  { pending := s.pending
    regs := regsOutside w s.regs
    fresh := if .fresh ∈ w then [] else s.fresh
    freshAt := if .fresh ∈ w then 0 else s.freshAt
    hif := s.hif.outside w
    pcie := if .pcie ∈ w then Pcie.reset else s.pcie
    tim := s.tim.outside w
    hoop := s.hoop.outside w
    win := s.win.outside w
    cfg := if .cfg ∈ w then Cfg.reset else s.cfg
    ing := s.ing.outside w
    lay := s.lay.outside w
    stages := if .stages ∈ w then [] else s.stages
    reads := if .reads ∈ w then [] else s.reads
    package := if .package ∈ w then [] else s.package
    spareReads := if .spareReads ∈ w then [] else s.spareReads
    badEntry := if .badEntry ∈ w then [] else s.badEntry
    badStep := if .badStep ∈ w then 0 else s.badStep
    col := if .col ∈ w then Col.reset else s.col
    run := if .run ∈ w then Run.reset else s.run
    live := if .live ∈ w then [] else s.live
    sti := if .sti ∈ w then Sti.reset else s.sti
    egr := if .egr ∈ w then Egr.reset else s.egr
    mac := if .mac ∈ w then [] else s.mac
    ccs := s.ccs.outside w
    cvus := if .cvus ∈ w then [] else s.cvus
    boot := if .boot ∈ w then Boot.reset else s.boot
    upd := s.upd.outside w
    keep := if .keep ∈ w then Keep.reset else s.keep
    key := if .key ∈ w then Key.reset else s.key
    glb := if .glb ∈ w then Glb.reset else s.glb
    psm := if .psm ∈ w then Psm.reset else s.psm
    lgw := if .lgw ∈ w then Lgw.reset else s.lgw
    twn := s.twn.outside w
    out := if .out ∈ w then [] else s.out
    readValue := if .readValue ∈ w then 0 else s.readValue
    freeCount := if .freeCount ∈ w then 0 else s.freeCount }

/-- A state that takes over from `t` every field but those that lie in the parts `w`. -/
@[simp] theorem outside_update {w : List Part} {t : State} {regs fresh freshAt hif pcie tim hoop win cfg ing lay stages reads package spareReads
    badEntry badStep col run live sti egr mac ccs cvus boot upd keep key glb psm lgw twn out readValue freeCount}
    (hregs : regsOutside w regs = regsOutside w t.regs) (hfresh : fresh = t.fresh ∨ .fresh ∈ w)
    (hfreshAt : freshAt = t.freshAt ∨ .fresh ∈ w) (hhif : Hif.outside w hif = t.hif.outside w)
    (hpcie : pcie = t.pcie ∨ .pcie ∈ w) (htim : Tim.outside w tim = t.tim.outside w)
    (hhoop : HoopGen.outside w hoop = t.hoop.outside w) (hwin : Window.outside w win = t.win.outside w)
    (hcfg : cfg = t.cfg ∨ .cfg ∈ w) (hing : Ing.outside w ing = t.ing.outside w) (hlay : Lay.outside w lay = t.lay.outside w)
    (hstages : stages = t.stages ∨ .stages ∈ w) (hreads : reads = t.reads ∨ .reads ∈ w)
    (hpackage : package = t.package ∨ .package ∈ w) (hspareReads : spareReads = t.spareReads ∨ .spareReads ∈ w)
    (hbadEntry : badEntry = t.badEntry ∨ .badEntry ∈ w) (hbadStep : badStep = t.badStep ∨ .badStep ∈ w)
    (hcol : col = t.col ∨ .col ∈ w) (hrun : run = t.run ∨ .run ∈ w) (hlive : live = t.live ∨ .live ∈ w)
    (hsti : sti = t.sti ∨ .sti ∈ w) (hegr : egr = t.egr ∨ .egr ∈ w) (hmac : mac = t.mac ∨ .mac ∈ w)
    (hccs : Ccs.outside w ccs = t.ccs.outside w) (hcvus : cvus = t.cvus ∨ .cvus ∈ w) (hboot : boot = t.boot ∨ .boot ∈ w)
    (hupd : Upd.outside w upd = t.upd.outside w) (hkeep : keep = t.keep ∨ .keep ∈ w) (hkey : key = t.key ∨ .key ∈ w)
    (hglb : glb = t.glb ∨ .glb ∈ w) (hpsm : psm = t.psm ∨ .psm ∈ w) (hlgw : lgw = t.lgw ∨ .lgw ∈ w)
    (htwn : Twn.outside w twn = t.twn.outside w) (hout : out = t.out ∨ .out ∈ w)
    (hreadValue : readValue = t.readValue ∨ .readValue ∈ w) (hfreeCount : freeCount = t.freeCount ∨ .freeCount ∈ w) :
    State.outside w ⟨t.pending, regs, fresh, freshAt, hif, pcie, tim, hoop, win, cfg, ing, lay, stages, reads, package, spareReads,
      badEntry, badStep, col, run, live, sti, egr, mac, ccs, cvus, boot, upd, keep, key, glb, psm, lgw, twn, out, readValue,
      freeCount⟩ = t.outside w := by
  have pick : ∀ {α : Type} {p : Part} {x y z : α}, x = y ∨ p ∈ w → (if p ∈ w then z else x) = if p ∈ w then z else y := by
    rintro α p x y z (rfl | h)
    · rfl
    · simp [h]
  simp only [State.outside, State.mk.injEq]
  exact ⟨trivial, hregs, pick hfresh, pick hfreshAt, hhif, pick hpcie, htim, hhoop, hwin, pick hcfg, hing, hlay, pick hstages,
    pick hreads, pick hpackage, pick hspareReads, pick hbadEntry, pick hbadStep, pick hcol, pick hrun, pick hlive, pick hsti,
    pick hegr, pick hmac, hccs, pick hcvus, pick hboot, hupd, pick hkeep, pick hkey, pick hglb, pick hpsm, pick hlgw, htwn,
    pick hout, pick hreadValue, pick hfreeCount⟩

end Sys2Proof.Machine

/-! What the updates of the state leave outside the parts they name. -/
namespace Sys2Proof.Machine

/-- The parts that notices reach (R59, R61, R368, R372). -/
structure Notices (w : List Part) : Prop where
  counts : .counts ∈ w
  fresh : .fresh ∈ w
  records : .records ∈ w
  outboxes : .outboxes ∈ w
  out : .out ∈ w

section Covered
variable {w : List Part}
@[simp] theorem Notices.mem_counts (h : Notices w) : .counts ∈ w := h.counts
@[simp] theorem Notices.mem_fresh (h : Notices w) : .fresh ∈ w := h.fresh
@[simp] theorem Notices.mem_records (h : Notices w) : .records ∈ w := h.records
@[simp] theorem Notices.mem_outboxes (h : Notices w) : .outboxes ∈ w := h.outboxes
@[simp] theorem Notices.mem_out (h : Notices w) : .out ∈ w := h.out

@[simp] theorem mayChange_any (h : .regs ∈ w) (a : Nat) : mayChange w a := .inl h
@[simp] theorem mayChange_named {a : Nat} (h : .reg a ∈ w) : mayChange w a := .inr (.inl h)
@[simp] theorem mayChange_nqCnt (h : .counts ∈ w) (q : Nat) : mayChange w (NQ_CNT q) := .inr (.inr ⟨h, .inl ⟨q, rfl⟩⟩)
@[simp] theorem mayChange_srcDrop (h : .counts ∈ w) (k : Nat) : mayChange w (CCS_SRC_DROP k) :=
  .inr (.inr ⟨h, .inr (.inl ⟨k, rfl⟩)⟩)
@[simp] theorem mayChange_cqStat (h : .counts ∈ w) (m : Nat) : mayChange w (HIF_CQ_STAT m) :=
  .inr (.inr ⟨h, .inr (.inr ⟨m, rfl⟩)⟩)
end Covered

section Updates
variable {w : List Part} (s : State)

@[simp] theorem setReg_outside {a : Nat} (h : mayChange w a) (v : Word) : (setReg s a v).outside w = s.outside w := by
  simp [setReg, regsOutside_tput h]

@[simp] theorem setRegFld_outside {a : Nat} (h : mayChange w a) (hi lo v : Nat) :
    (setRegFld s a hi lo v).outside w = s.outside w := setReg_outside s h _

@[simp] theorem setLatch_outside {a : Nat} (h : mayChange w a) (hf : .fresh ∈ w) (v g : Word) :
    (setLatch s a v g).outside w = s.outside w := by
  unfold setLatch
  dsimp only
  split
  · simp [setReg, regsOutside_tput h, hf]
  · exact setReg_outside s h _

@[simp] theorem latch_outside {a : Nat} (h : mayChange w a) (hf : .fresh ∈ w) (k : Nat) :
    (latch s a k).outside w = s.outside w := setLatch_outside s h hf _ _

@[simp] theorem latchCount_outside {a : Nat} (h : mayChange w a) (hf : .fresh ∈ w) (hi lo n : Nat) :
    (latchCount s a hi lo n).outside w = s.outside w := setLatch_outside s h hf _ _

@[simp] theorem plainWrite_outside {a : Nat} (h : mayChange w a) (v : Word) :
    (plainWrite s a v).outside w = s.outside w := by
  unfold plainWrite
  split
  · exact setReg_outside s h _
  · rfl

@[simp] theorem setTim_outside {t : Tim} (h : t.outside w = s.tim.outside w) : (setTim s t).outside w = s.outside w := by
  simp [setTim, h]

@[simp] theorem setHoop_outside {h : HoopGen} (hh : h.outside w = s.hoop.outside w) :
    (setHoop s h).outside w = s.outside w := by
  simp [setHoop, hh]

@[simp] theorem setHif_outside {h : Hif} (hh : h.outside w = s.hif.outside w) : (setHif s h).outside w = s.outside w := by
  simp [setHif, hh]

@[simp] theorem setWin_outside {x : Window} (h : x.outside w = s.win.outside w) : (setWin s x).outside w = s.outside w := by
  simp [setWin, h]

@[simp] theorem setLay_outside {l : Lay} (h : l.outside w = s.lay.outside w) : (setLay s l).outside w = s.outside w := by
  simp [setLay, h]

@[simp] theorem setCol_outside (h : .col ∈ w) (c : Col) : (setCol s c).outside w = s.outside w := by
  simp [setCol, h]

@[simp] theorem setRun_outside (h : .run ∈ w) (r : Run) : (setRun s r).outside w = s.outside w := by
  simp [setRun, h]

@[simp] theorem setIng_outside {g : Ing} (h : g.outside w = s.ing.outside w) : (setIng s g).outside w = s.outside w := by
  simp [setIng, h]

@[simp] theorem setEgress_outside (h : .egr ∈ w) (e : Egr) : (setEgress s e).outside w = s.outside w := by
  simp [setEgress, h]

@[simp] theorem setUpd_outside {u : Upd} (h : u.outside w = s.upd.outside w) : (setUpd s u).outside w = s.outside w := by
  simp [setUpd, h]

@[simp] theorem setKeep_outside (h : .keep ∈ w) (k : Keep) : (setKeep s k).outside w = s.outside w := by
  simp [setKeep, h]

@[simp] theorem setKey_outside (h : .key ∈ w) (k : Key) : (setKey s k).outside w = s.outside w := by
  simp [setKey, h]

@[simp] theorem setTwn_outside {t : Twn} (h : t.outside w = s.twn.outside w) : (setTwn s t).outside w = s.outside w := by
  simp [setTwn, h]

@[simp] theorem setVec_outside (h : .records ∈ w) (v : Nat) (x : Vec) : (setVec s v x).outside w = s.outside w := by
  simp [setVec, Hif.outside, h]

@[simp] theorem setOutbox_outside (h : .outboxes ∈ w) (k : Nat) (o : Outbox) :
    (setOutbox s k o).outside w = s.outside w := by
  simp [setOutbox, Ccs.outside, h]

@[simp] theorem modTrack_outside (h : .track ∈ w) (id : Nat) (f : Track → Track) :
    (modTrack s id f).outside w = s.outside w := by
  simp [modTrack, Hif.outside, h]

@[simp] theorem setThread_outside (h : .ccs ∈ w) (t : Nat) (x : Thread) : (setThread s t x).outside w = s.outside w := by
  simp [setThread, Ccs.outside, h]

@[simp] theorem setCore_outside (h : .ccs ∈ w) (c : Nat) (x : CoreUnit) : (setCore s c x).outside w = s.outside w := by
  simp [setCore, Ccs.outside, h]

@[simp] theorem setList_outside (h : .ccs ∈ w) (p : Nat) (l : List Nat) : (setList s p l).outside w = s.outside w := by
  simp [setList, Ccs.outside, h]

@[simp] theorem setQueue_outside (h : .ccs ∈ w) (q : Nat) (x : NQueue) : (setQueue s q x).outside w = s.outside w := by
  simp [setQueue, Ccs.outside, h]

@[simp] theorem setStaged_outside (h : .ccs ∈ w) (t : Nat) (x : Staged) : (setStaged s t x).outside w = s.outside w := by
  simp [setStaged, Ccs.outside, h]

@[simp] theorem setCvu_outside (h : .cvus ∈ w) (u : Nat) (x : Cvu) : (setCvu s u x).outside w = s.outside w := by
  simp [setCvu, h]

@[simp] theorem setPulse_outside (h : .pulses ∈ w) (i : Nat) (p : Pulse) : (setPulse s i p).outside w = s.outside w := by
  simp [setPulse, Tim.outside, h]

@[simp] theorem setStamps_outside (h : .stamps ∈ w) (p : Nat) (q : StampQueue) :
    (setStamps s p q).outside w = s.outside w := by
  simp [setStamps, Tim.outside, h]

@[simp] theorem setCap_outside (h : .stamps ∈ w) (i : Nat) (c : Capture) : (setCap s i c).outside w = s.outside w := by
  simp [setCap, Tim.outside, h]

@[simp] theorem setHandle_outside (h : .handles ∈ w) (n : Nat) (x : Handle) : (setHandle s n x).outside w = s.outside w := by
  simp [setHandle, Lay.outside, h]

@[simp] theorem putPixel_outside (h : .pixels ∈ w) (n : Nat) (x : Nat × BitVec 64) :
    (putPixel n s x).outside w = s.outside w := by
  simp [putPixel, Lay.outside, h]

@[simp] theorem setEst_outside (h : .col ∈ w) (m k : Nat) (e : Estimate) : (setEst s m k e).outside w = s.outside w := by
  simp [setEst, h]

@[simp] theorem setSess_outside (h : .sess ∈ w) (k : Nat) (x : SessRt) : (setSess s k x).outside w = s.outside w := by
  simp [setSess, Ing.outside, h]

@[simp] theorem setSource_outside (h : .src ∈ w) (k : Nat) (x : SourceRt) : (setSource s k x).outside w = s.outside w := by
  simp [setSource, Ing.outside, h]

@[simp] theorem pin_outside (h : .ing ∈ w) (n : Nat) (k : Hoop) : (pin s n k).outside w = s.outside w := by
  simp [pin, Ing.outside, h]

@[simp] theorem expirePins_outside (h : .ing ∈ w) (k : Hoop) : (expirePins s k).outside w = s.outside w := by
  simp [expirePins, Ing.outside, h]

@[simp] theorem setStage_outside (h : .stages ∈ w) (p : Nat) (x : Stage) : (setStage s p x).outside w = s.outside w := by
  simp [setStage, h]

@[simp] theorem setLive_outside (h : .live ∈ w) (m : Nat) (x : Live) : (setLive s m x).outside w = s.outside w := by
  simp [setLive, h]

@[simp] theorem setLane_outside (h : .sti ∈ w) (g : Nat) (x : Lane) : (setLane s g x).outside w = s.outside w := by
  simp [setLane, h]

@[simp] theorem setEgr_outside (h : .egr ∈ w) (p : Nat) (x : EgrPort) : (setEgr s p x).outside w = s.outside w := by
  simp [setEgr, h]

@[simp] theorem setPort_outside (h : .mac ∈ w) (p : Nat) (x : MacPort) : (setPort s p x).outside w = s.outside w := by
  simp [setPort, h]

@[simp] theorem setSlot_outside (h : .key ∈ w) (k : Nat) (x : KeySlot) : (setSlot s k x).outside w = s.outside w := by
  simp [setSlot, h]

@[simp] theorem setLgw_outside (h : .lgw ∈ w) (l : Lgw) : (setLgw s l).outside w = s.outside w := by
  simp [setLgw, h]

@[simp] theorem setBoot_outside (h : .boot ∈ w) (b : Boot) : (setBoot s b).outside w = s.outside w := by
  simp [setBoot, h]

@[simp] theorem takeFree_outside (h : .freeCount ∈ w) : (takeFree s).2.outside w = s.outside w := by
  simp [takeFree, h]

theorem withOut_outside (h : .out ∈ w) (l : List HostWrite) : State.outside w { s with out := l } = s.outside w := by
  simp [h]

end Updates

/-! ### Branches and loops -/

@[simp] theorem ite_outside {w : List Part} {c : Prop} [Decidable c] (s t : State) :
    (if c then s else t).outside w = if c then s.outside w else t.outside w := apply_ite _ _ _ _


@[simp] theorem foldl_outside {w : List Part} {α : Type} {f : State → α → State} (hf : ∀ t x, (f t x).outside w = t.outside w)
    (l : List α) (s : State) : (l.foldl f s).outside w = s.outside w :=
  List.foldlRecOn (motive := fun t : State => t.outside w = s.outside w) l f rfl fun t ht x _ => (hf t x).trans ht

end Sys2Proof.Machine

/-! What each operation leaves outside the parts that it may change. A section names those parts; where an operation
posts notices, `Notices w` stands for the parts that these reach. -/
namespace Sys2Proof.Machine

section
variable {w : List Part} (htwn : .twn ∈ w)
include htwn

@[simp] theorem stepSeq_outside (s : State) : (stepSeq s).outside w = s.outside w := by
  unfold stepSeq
  simp [Twn.outside, htwn]

@[simp] theorem loseStep_outside (s : State) : (loseStep s).outside w = s.outside w := by
  unfold loseStep
  (repeat' split) <;> simp [Twn.outside, htwn]

@[simp] theorem checkClose_outside (s : State) : (checkClose s).outside w = s.outside w := by
  unfold checkClose
  (repeat' split) <;> simp [htwn]

@[simp] theorem noteCurrent_outside (s : State) : (noteCurrent s).outside w = s.outside w := by
  unfold noteCurrent
  (repeat' split) <;> simp [Twn.outside, htwn]

@[simp] theorem queueObjects_outside (s : State) (objs : List Nat) (entry : Bool) :
    (queueObjects s objs entry).outside w = s.outside w := by
  unfold queueObjects
  simp [Twn.outside, htwn]

end

section
variable {w : List Part} (hegr : .egr ∈ w)
include hegr

@[simp] theorem queueRefresh_outside (r : Refresh) (s : State) (p : Nat) :
    (queueRefresh r s p).outside w = s.outside w := by
  unfold queueRefresh
  (repeat' split) <;> simp [hegr]

@[simp] theorem queueControl_outside (s : State) (m command arg : Nat) (h : Hoop) :
    (queueControl s m command arg h).outside w = s.outside w := by
  unfold queueControl
  simp [hegr]

@[simp] theorem refreshMotif_outside (s : State) (m : Nat) : (refreshMotif s m).outside w = s.outside w := by
  unfold refreshMotif
  simp [hegr]

@[simp] theorem markChange_outside (s : State) (m : Nat) : (markChange s m).outside w = s.outside w := by
  unfold markChange
  simp [hegr]

end

section
variable {w : List Part} (hrecords : .records ∈ w) (hout : .out ∈ w)
include hrecords hout

@[simp] theorem signalVector_outside (s : State) (v : Nat) : (signalVector s v).outside w = s.outside w := by
  unfold signalVector
  split
  · exact setVec_outside s hrecords _ _
  · exact (withOut_outside _ hout _).trans (setVec_outside s hrecords v _)

@[simp] theorem countRecord_outside (s : State) (v : Nat) (urgent : Bool) :
    (countRecord s v urgent).outside w = s.outside w := by
  unfold countRecord
  simp [hrecords, hout]

@[simp] theorem writeNotice_outside (s : State) (m : Nat) (n : Notice) :
    (writeNotice s m n).outside w = s.outside w := by
  unfold writeNotice
  simp [Hif.outside, hrecords, hout]

@[simp] theorem flushLost_outside (s : State) : (flushLost s).outside w = s.outside w := by
  unfold flushLost
  (repeat' split) <;> simp [Hif.outside, hrecords, hout]

end

section
variable {w : List Part} (hcol : .col ∈ w)
include hcol

@[simp] theorem discardCol_outside (s : State) : (discardCol s).outside w = s.outside w := by
  unfold discardCol
  simp [hcol]

@[simp] theorem takeSnapshot_outside (s : State) : (takeSnapshot s).outside w = s.outside w := by
  unfold takeSnapshot
  simp [hcol]

@[simp] theorem completeEst_outside (c : Cfg) (s : State) (m : Nat) :
    (completeEst c s m).outside w = s.outside w := by
  unfold completeEst
  simp [hcol]

end

section
variable {w : List Part} (hsti : .sti ∈ w)
include hsti

@[simp] theorem reanchorShow_outside (base : Nat) (s : State) (g : Nat) :
    (reanchorShow base s g).outside w = s.outside w := by
  unfold reanchorShow
  dsimp only
  split
  · split
    · rfl
    · exact setLane_outside s hsti _ _
  · rfl

@[simp] theorem showRun_outside (s : State) (g : Nat) (h : Hoop) (base : Nat) (aborted : Bool) :
    (showRun s g h base aborted).outside w = s.outside w := by
  unfold showRun
  (repeat' split) <;> simp [hsti]

@[simp] theorem reanchorLanes_outside (s : State) : (reanchorLanes s).outside w = s.outside w := by
  unfold reanchorLanes
  (repeat' split) <;> simp [hsti]

end

section
variable {w : List Part} (hccs : .ccs ∈ w)
include hccs

@[simp] theorem runThread_outside (s : State) (c t : Nat) : (runThread s c t).outside w = s.outside w := by
  have hcount : ∀ (t : State) (n : Nat) (m : Table WaitStat),
      State.outside w { t with ccs := { t.ccs with dispatches := n, waits := m } } = t.outside w := fun t n m => by
    simp [Ccs.outside, hccs]
  unfold runThread
  rw [setCore_outside _ hccs, setThread_outside _ hccs, hcount, setList_outside _ hccs]

@[simp] theorem dispatchCore_outside (s : State) (c : Nat) : (dispatchCore s c).outside w = s.outside w := by
  unfold dispatchCore
  (repeat' split) <;> simp [hccs]

@[simp] theorem dispatch_outside (s : State) : (dispatch s).outside w = s.outside w := by
  unfold dispatch
  simp [hccs]

end

section
variable {w : List Part} (hccs : .ccs ∈ w) (hfreeCount : .freeCount ∈ w)
include hccs hfreeCount

@[simp] theorem saveContext_outside (s : State) (c t : Nat) : (saveContext s c t).outside w = s.outside w := by
  unfold saveContext
  simp [Ccs.outside, hccs, hfreeCount]

@[simp] theorem leaveCore_outside (s : State) (c : Nat) : (leaveCore s c).outside w = s.outside w := by
  unfold leaveCore
  (repeat' split) <;> simp [hccs, hfreeCount]

@[simp] theorem haltThread_outside (s : State) (t : Nat) : (haltThread s t).outside w = s.outside w := by
  unfold haltThread
  dsimp only
  split <;> simp [hccs, hfreeCount]

@[simp] theorem haltThreads_outside (s : State) : (haltThreads s).outside w = s.outside w := by
  unfold haltThreads
  simp [hccs, hfreeCount]

end

section
variable {w : List Part} (hrun : .run ∈ w)
include hrun

@[simp] theorem putFrame_outside (s : State) (p k : Nat) (f : List Byte) :
    (putFrame s p k f).outside w = s.outside w := by
  unfold putFrame
  simp [hrun]

@[simp] theorem buildMarks_outside (s : State) (p : Nat) : (buildMarks s p).outside w = s.outside w := by
  unfold buildMarks
  refine foldl_outside (fun t k => ?_) _ _
  split <;> simp [hrun]

end

section
variable {w : List Part} (hstacks : .stacks ∈ w)
include hstacks

@[simp] theorem setStack_outside (s : State) (i : Nat) (x : Stack) : (setStack s i x).outside w = s.outside w := by
  unfold setStack
  (repeat' split) <;> simp [HoopGen.outside, hstacks]

@[simp] theorem stackWake_outside (s : State) (i : Nat) : (stackWake s i).outside w = s.outside w := by
  unfold stackWake
  simp [hstacks]

end

section
variable {w : List Part} (htrack : .track ∈ w)
include htrack

@[simp] theorem begin_outside (s : State) (id : Nat) : (begin s id).outside w = s.outside w := by
  unfold begin
  simp [htrack]

@[simp] theorem setPhase_outside (s : State) (m : Member) (p : Phase) : (setPhase s m p).outside w = s.outside w := by
  unfold setPhase
  (repeat' split) <;> simp [htrack]

end

section
variable {w : List Part} (hmac : .mac ∈ w)
include hmac

@[simp] theorem setQueueAt_outside (s : State) (p q : Nat) (l : List TxFrame) :
    (setQueueAt s p q l).outside w = s.outside w := by
  unfold setQueueAt
  simp [hmac]

@[simp] theorem setWaitingAt_outside (s : State) (p q : Nat) (l : List TxFrame) :
    (setWaitingAt s p q l).outside w = s.outside w := by
  unfold setWaitingAt
  simp [hmac]

end

section
variable {w : List Part} (hpixels : .pixels ∈ w)
include hpixels

@[simp] theorem writeLine_outside (d : Desc) (data : List Byte) (s : State) (y : Nat) :
    (writeLine d data s y).outside w = s.outside w := by
  unfold writeLine
  simp [hpixels]

@[simp] theorem writeLines_outside (s : State) (d : Desc) (data : List Byte) :
    (writeLines s d data).outside w = s.outside w := by
  unfold writeLines
  simp [hpixels]

end

section
variable {w : List Part} (hcounts : .counts ∈ w) (hfresh : .fresh ∈ w) (houtboxes : .outboxes ∈ w)
include hcounts hfresh houtboxes

@[simp] theorem placePacket_outside (s : State) (src : Nat) (p : Packet) :
    (placePacket s src p).outside w = s.outside w := by
  unfold placePacket
  (repeat' split) <;> simp [hcounts, hfresh, houtboxes]

@[simp] theorem fwNotice_outside (s : State) (src : Nat) (n : Notice) :
    (fwNotice s src n).outside w = s.outside w := by
  unfold fwNotice
  simp [hcounts, hfresh, houtboxes]

end

section
variable {w : List Part} (hwin : .win ∈ w)
include hwin

@[simp] theorem carryOver_outside (s : State) : (carryOver s).outside w = s.outside w := by
  unfold carryOver
  simp [Window.outside, hwin]

end

section
variable {w : List Part} (hing : .ing ∈ w)
include hing

@[simp] theorem publish_outside (s : State) (n : Nat) : (publish s n).outside w = s.outside w := by
  unfold publish
  simp [Ing.outside, hing]

end

section
variable {w : List Part} (hspareReads : .spareReads ∈ w)
include hspareReads

@[simp] theorem swapReads_outside (s : State) (p : Nat) : (swapReads s p).outside w = s.outside w := by
  unfold swapReads
  simp [hspareReads]

end

section
variable {w : List Part} (hlive : .live ∈ w)
include hlive

@[simp] theorem applyOwner_outside (s : State) (d : Desc) : (applyOwner s d).outside w = s.outside w := by
  unfold applyOwner
  (repeat' split) <;> simp [hlive]

end

section
variable {w : List Part} (hcol : .col ∈ w) (hlive : .live ∈ w)
include hcol hlive

@[simp] theorem swapMotifs_outside (old new : List Byte) (s : State) :
    (swapMotifs old new s).outside w = s.outside w := by
  unfold swapMotifs
  refine (foldl_outside (fun t m => ?_) _ _).trans (by simp [hlive])
  simp only [ite_outside, foldl_outside (fun t k => setEst_outside t hcol m k _), ite_self]

end

section
variable {w : List Part} (hsrc : .src ∈ w) (hing : .ing ∈ w)
include hsrc hing

@[simp] theorem applySource_outside (s : State) (l : Nat) (old new : List Word) :
    (applySource s l old new).outside w = s.outside w := by
  unfold applySource
  simp [Ing.outside, hsrc, hing]

end

section
variable {w : List Part} (hregs : .regs ∈ w) (hfresh : .fresh ∈ w)
include hregs hfresh

@[simp] theorem incomplete_outside (s : State) (k : Nat) : (incomplete s k).outside w = s.outside w := by
  unfold incomplete
  simp [hregs, hfresh]

end

section
variable {w : List Part} (htrack : .track ∈ w) (hwin : .win ∈ w)
include htrack hwin

@[simp] theorem joinNow_outside (s : State) (m : Member) : (joinNow s m).outside w = s.outside w := by
  unfold joinNow
  (repeat' split) <;> simp [Window.outside, htrack, hwin]

end

section
variable {w : List Part} (htwnClosed : .twnClosed ∈ w) (htwn : .twn ∈ w)
include htwnClosed htwn

@[simp] theorem dropPair_outside (s : State) : (dropPair s).outside w = s.outside w := by
  unfold dropPair
  simp [Twn.outside, htwnClosed, htwn]

end

section
variable {w : List Part} (hlive : .live ∈ w) (hegr : .egr ∈ w)
include hlive hegr

@[simp] theorem motifCommand_outside (s : State) (m command arg : Nat) (h : Hoop) :
    (motifCommand s m command arg h).outside w = s.outside w := by
  unfold motifCommand
  (repeat' split) <;> simp [hlive, hegr]

end

section
variable {w : List Part} (hing : .ing ∈ w) (htwn : .twn ∈ w)
include hing htwn

@[simp] theorem publishIn_outside (s : State) (n : Nat) (h : Hoop) : (publishIn s n h).outside w = s.outside w := by
  unfold publishIn
  (repeat' split) <;> simp [Twn.outside, hing, htwn]

end

section
variable {w : List Part} (hregs : .regs ∈ w) (hfresh : .fresh ∈ w) (hsess : .sess ∈ w)
include hregs hfresh hsess

@[simp] theorem abandonFrame_outside (s : State) (k : Nat) : (abandonFrame s k).outside w = s.outside w := by
  unfold abandonFrame
  dsimp only
  split
  · split <;> simp [hfresh, hregs, hsess]
  · rfl

end

section
variable {w : List Part} (hcounts : .counts ∈ w) (hfresh : .fresh ∈ w) (hrecords : .records ∈ w) (hout : .out ∈ w)
include hcounts hfresh hrecords hout

@[simp] theorem hostNotice_outside (s : State) (n : Notice) : (hostNotice s n).outside w = s.outside w := by
  unfold hostNotice
  dsimp only
  split
  next m _ =>
    split
    · simp [hrecords, hout]
    · refine (setHif_outside (latchCount (flushLost s) (HIF_CQ_STAT m) 15 0 1) ?_).trans ?_
      · simp [Hif.outside, hrecords]
      · simp [hcounts, hfresh, hrecords, hout]
  next => simp [hrecords, hout]

end

section
variable {w : List Part} (hn : Notices w)
include hn

@[simp] theorem notice_outside (s : State) (code x2 detail : Nat) (host fw : Bool) :
    (notice s code x2 detail host fw).outside w = s.outside w := by
  unfold notice
  (repeat' split) <;> simp [hn]

@[simp] theorem noticeBoth_outside (s : State) (code x2 detail : Nat) :
    (noticeBoth s code x2 detail).outside w = s.outside w := by
  unfold noticeBoth
  simp [hn]

@[simp] theorem takeoverNotice_outside (s : State) (why : Nat) (run : Hoop) :
    (takeoverNotice s why run).outside w = s.outside w := by
  unfold takeoverNotice
  simp [hn]

@[simp] theorem stateNotice_outside (s : State) (old : TwinState) (cause : Nat) :
    (stateNotice s old cause).outside w = s.outside w := by
  unfold stateNotice
  simp [hn]

end

section
variable {w : List Part} (hn : Notices w) (htrack : .track ∈ w)
include hn htrack

@[simp] theorem afterLeave_outside (s : State) (ring : Nat) : (afterLeave s ring).outside w = s.outside w := by
  unfold afterLeave
  (repeat' split) <;> simp [Hif.outside, hn, htrack]

@[simp] theorem dropTrack_outside (s : State) (id : Nat) : (dropTrack s id).outside w = s.outside w := by
  unfold dropTrack
  (repeat' split) <;> simp [Hif.outside, hn, htrack]

@[simp] theorem settleAck_outside (s : State) (id : Nat) : (settleAck s id).outside w = s.outside w := by
  unfold settleAck
  (repeat' split) <;> simp [hn, htrack]

end

section
variable {w : List Part} (hn : Notices w) (htrack : .track ∈ w) (hacks : .acks ∈ w)
include hn htrack hacks

@[simp] theorem decideOne_outside (s : State) (id st r0 r1 : Nat) (hoop : Hoop) :
    (decideOne s id st r0 r1 hoop).outside w = s.outside w := by
  unfold decideOne
  (repeat' split) <;> simp [Hif.outside, Twn.outside, hn, htrack, hacks]

@[simp] theorem settleOne_outside (s : State) (id : Nat) : (settleOne s id).outside w = s.outside w := by
  unfold settleOne
  (repeat' split) <;> simp [hn, htrack, hacks]

@[simp] theorem settleFences_outside (s : State) (ring : Nat) : (settleFences s ring).outside w = s.outside w := by
  unfold settleFences
  refine foldl_outside (fun t f => ?_) _ _
  (repeat' split) <;> simp [hn, htrack, hacks]

@[simp] theorem settleRing_outside (s : State) (ring : Nat) : (settleRing s ring).outside w = s.outside w := by
  unfold settleRing
  simp [hn, htrack, hacks]

@[simp] theorem finishAt_outside (s : State) (id st r0 r1 : Nat) (hoop : Hoop) :
    (finishAt s id st r0 r1 hoop).outside w = s.outside w := by
  unfold finishAt
  (repeat' split) <;> simp [hn, htrack, hacks]

@[simp] theorem finish_outside (s : State) (id st r0 r1 : Nat) : (finish s id st r0 r1).outside w = s.outside w := by
  unfold finish
  simp [hn, htrack, hacks]

@[simp] theorem endSyncs_outside (s : State) (st : Nat) : (endSyncs s st).outside w = s.outside w := by
  unfold endSyncs
  simp [hn, htrack, hacks]

@[simp] theorem keepFrame_outside (s : State) (f : TxFrame) : (keepFrame s f).outside w = s.outside w := by
  unfold keepFrame
  (repeat' split) <;> simp [hn, htrack, hacks]

@[simp] theorem finishMember_outside (s : State) (m : Member) (st r0 r1 : Nat) (hoop : Hoop) :
    (finishMember s m st r0 r1 hoop).outside w = s.outside w := by
  unfold finishMember
  (repeat' split) <;> simp [hn, htrack, hacks]

@[simp] theorem refreshDone_outside (s : State) (r : Refresh) : (refreshDone s r).outside w = s.outside w := by
  unfold refreshDone
  (repeat' split) <;> simp [hn, htrack, hacks]

end

section
variable {w : List Part} (hn : Notices w) (htrack : .track ∈ w) (hegr : .egr ∈ w) (hacks : .acks ∈ w)
include hn htrack hegr hacks

@[simp] theorem dropRefreshes_outside (s : State) (p : Nat) : (dropRefreshes s p).outside w = s.outside w := by
  unfold dropRefreshes
  refine (foldl_outside (fun t r => ?_) _ _).trans (setEgr_outside s hegr p _)
  simp [hn, htrack, hacks]

@[simp] theorem dropEgress_outside (s : State) (p : Nat) : (dropEgress s p).outside w = s.outside w := by
  unfold dropEgress
  simp [hn, htrack, hegr, hacks]

@[simp] theorem cutRefreshes_outside (s : State) (p : Nat) : (cutRefreshes s p).outside w = s.outside w := by
  unfold cutRefreshes
  (repeat' split) <;> simp [hn, htrack, hegr, hacks]

@[simp] theorem prunePending_outside (s : State) (p : Nat) : (prunePending s p).outside w = s.outside w := by
  unfold prunePending
  simp [hn, htrack, hegr, hacks]

@[simp] theorem applyProgramSend_outside (s : State) (m : Member) :
    (applyProgramSend s m).outside w = s.outside w := by
  have queued : ∀ (r : Nat → Refresh) (ps : Nat → List Nat) (ms : List Nat),
      (ms.foldl (fun s k => (ps k).foldl (queueRefresh (r k)) s) s).outside w = s.outside w := fun r ps ms =>
    foldl_outside (fun t k => foldl_outside (fun u p => queueRefresh_outside hegr _ u p) _ t) ms s
  unfold applyProgramSend
  dsimp only
  generalize (if m.origin = .host then some m.id else none) = job
  generalize (if bitOf (darg m.desc 0) 31 then _ else _) = ms
  split
  · simp [hn, htrack, hacks]
  · split
    · split
      · exact (begin_outside htrack _ _).trans (queued _ _ _)
      · exact (finish_outside hn htrack hacks _ _ _ _ _).trans (queued _ _ _)
    · exact queued _ _ _

end

section
variable {w : List Part} (hn : Notices w) (htrack : .track ∈ w) (hing : .ing ∈ w) (hpixels : .pixels ∈ w)
  (hacks : .acks ∈ w) (htwn : .twn ∈ w)
include hn htrack hing hpixels hacks htwn

@[simp] theorem landWrite_outside (s : State) (t : Track) (data : List Byte) (h : Hoop) :
    (landWrite s t data h).outside w = s.outside w := by
  unfold landWrite
  (repeat' split) <;> simp [hn, htrack, hing, hpixels, hacks, htwn]

@[simp] theorem writeCompleteIn_outside (s : State) (t : Track) (data : List Byte) (h : Hoop) :
    (writeCompleteIn s t data h).outside w = s.outside w := by
  unfold writeCompleteIn
  (repeat' split) <;> simp [Ing.outside, hn, htrack, hing, hpixels, hacks, htwn]

@[simp] theorem landHeld_outside (s : State) (y1 : HeldWrite) : (landHeld s y1).outside w = s.outside w := by
  unfold landHeld
  (repeat' split) <;> simp [hn, htrack, hing, hpixels, hacks, htwn]

@[simp] theorem landWrites_outside (s : State) : (landWrites s).outside w = s.outside w := by
  unfold landWrites
  simp [Ing.outside, hn, htrack, hing, hpixels, hacks, htwn]

end

section
variable {w : List Part} (hn : Notices w) (hlive : .live ∈ w)
include hn hlive

@[simp] theorem recordForeign_outside (s : State) (p m cid epoch : Nat) :
    (recordForeign s p m cid epoch).outside w = s.outside w := by
  unfold recordForeign
  simp [hn, hlive]

@[simp] theorem writeEffect_outside (s : State) (p : Nat) (h : Hoop) (r : LiveRec) :
    (writeEffect s p h r).outside w = s.outside w := by
  unfold writeEffect
  (repeat' split) <;> simp [hn, hlive]

@[simp] theorem liveWrite_outside (h : Hoop) (s : State) (r : LiveRec) :
    (liveWrite h s r).outside w = s.outside w := by
  unfold liveWrite
  (repeat' split) <;> simp [hn, hlive]

end

section
variable {w : List Part} (hn : Notices w) (hhandles : .handles ∈ w)
include hn hhandles

@[simp] theorem retireOne_outside (s : State) (n : Nat) : (retireOne s n).outside w = s.outside w := by
  unfold retireOne
  simp [hn, hhandles]

@[simp] theorem retireHandles_outside (s : State) (due : Hoop → Bool) :
    (retireHandles s due).outside w = s.outside w := by
  unfold retireHandles
  simp [hn, hhandles]

@[simp] theorem retireAt_outside (s : State) (b : Hoop) : (retireAt s b).outside w = s.outside w := by
  unfold retireAt
  simp [hn, hhandles]

end

section
variable {w : List Part} (hn : Notices w) (htrack : .track ∈ w) (hwin : .win ∈ w) (hacks : .acks ∈ w)
include hn htrack hwin hacks

@[simp] theorem join_outside (s : State) (m : Member) : (join s m).outside w = s.outside w := by
  unfold join
  (repeat' split) <;> simp [Window.outside, hn, htrack, hwin, hacks]

@[simp] theorem releaseHeld_outside (s : State) : (releaseHeld s).outside w = s.outside w := by
  unfold releaseHeld
  (repeat' split) <;> simp [Window.outside, hn, htrack, hwin, hacks]

@[simp] theorem openWindow_outside (s : State) : (openWindow s).outside w = s.outside w := by
  unfold openWindow
  simp [Window.outside, hn, htrack, hwin, hacks]

end

section
variable {w : List Part} (hn : Notices w) (hegr : .egr ∈ w)
include hn hegr

@[simp] theorem noteKey_outside (s : State) : (noteKey s).outside w = s.outside w := by
  unfold noteKey
  simp [hn, hegr]

@[simp] theorem portBoundary_outside (s : State) (p : Nat) : (portBoundary s p).outside w = s.outside w := by
  unfold portBoundary
  simp [hn, hegr]

end

section
variable {w : List Part} (hn : Notices w) (hregs : .regs ∈ w) (hsrc : .src ∈ w)
include hn hregs hsrc

@[simp] theorem chooseSource_outside (s : State) (l : Nat) : (chooseSource s l).outside w = s.outside w := by
  unfold chooseSource
  dsimp only
  split
  · split <;> simp [hn, hregs, hsrc]
  · split <;> simp [hn, hsrc]

@[simp] theorem chooseSources_outside (s : State) : (chooseSources s).outside w = s.outside w := by
  unfold chooseSources
  simp [hn, hregs, hsrc]

end

section
variable {w : List Part} (hn : Notices w) (hsess : .sess ∈ w)
include hn hsess

@[simp] theorem setSessState_outside (s : State) (k : Nat) (st : SessState) :
    (setSessState s k st).outside w = s.outside w := by
  unfold setSessState
  simp [hn, hsess]

end

section
variable {w : List Part} (hn : Notices w) (hcol : .col ∈ w)
include hn hcol

@[simp] theorem completeCol_outside (s : State) (h : Hoop) : (completeCol s h).outside w = s.outside w := by
  unfold completeCol
  dsimp only
  split <;> simp [hn, hcol]

end

section
variable {w : List Part} (hn : Notices w) (hmac : .mac ∈ w)
include hn hmac

@[simp] theorem count_outside (s : State) (p i n : Nat) : (count s p i n).outside w = s.outside w := by
  unfold count
  simp [hn, hmac]

end

section
variable {w : List Part} (hn : Notices w) (htrack : .track ∈ w) (hmac : .mac ∈ w) (hacks : .acks ∈ w)
include hn htrack hmac hacks

@[simp] theorem discardFrame_outside (s : State) (p : Nat) (f : TxFrame) :
    (discardFrame s p f).outside w = s.outside w := by
  unfold discardFrame
  (repeat' split) <;> simp [hn, htrack, hmac, hacks]

@[simp] theorem discardAll_outside (s : State) (p : Nat) : (discardAll s p).outside w = s.outside w := by
  unfold discardAll
  refine (foldl_outside (fun t f => ?_) _ _).trans (setPort_outside s hmac p _)
  simp [hn, htrack, hmac, hacks]

@[simp] theorem linkFall_outside (s : State) (p why : Nat) : (linkFall s p why).outside w = s.outside w := by
  unfold linkFall
  (repeat' split) <;> simp [hn, htrack, hmac, hacks]

@[simp] theorem hand_outside (s : State) (p q : Nat) (f : TxFrame) : (hand s p q f).outside w = s.outside w := by
  unfold hand
  (repeat' split) <;> simp [hn, htrack, hmac, hacks]

@[simp] theorem handTwin_outside (s : State) (p q : Nat) (body : List Byte) :
    (handTwin s p q body).outside w = s.outside w := by
  unfold handTwin
  simp [hn, htrack, hmac, hacks]

end

section
variable {w : List Part} (hn : Notices w) (htrack : .track ∈ w) (hmac : .mac ∈ w) (hacks : .acks ∈ w)
  (htwn : .twn ∈ w)
include hn htrack hmac hacks htwn

@[simp] theorem sendTwin_outside (s : State) (kind : Nat) (hoop : Hoop) (arg : Nat) (payload : List Byte) :
    (sendTwin s kind hoop arg payload).2.outside w = s.outside w := by
  have sent : ∀ (l : List (Nat × List Byte)) (bs : List (List Byte)) (n : Nat) (s : State),
      (l.foldl (fun (bs, s) x =>
        let b := twinBody s kind hoop arg x.1 n x.2
        (bs ++ [b], stepSeq (handTwin (handTwin s 36 6 b) 37 6 b))) (bs, s)).2.outside w = s.outside w := by
    intro l
    induction l with
    | nil => exact fun _ _ _ => rfl
    | cons x l ih =>
      intro bs n s
      rw [List.foldl_cons]
      refine (ih _ _ _).trans ?_
      simp [hn, htrack, hmac, hacks, htwn]
  unfold sendTwin
  dsimp only
  split
  · exact sent _ _ _ _
  · rfl

@[simp] theorem sendAwaiting_outside (s : State) (kind : Nat) (hoop : Hoop) (arg : Nat) (payload : List Byte) (track : Option Nat) :
    (sendAwaiting s kind hoop arg payload track).outside w = s.outside w := by
  unfold sendAwaiting
  split
  · exact (setTwn_outside _ (by simp [Twn.outside, htwn])).trans (sendTwin_outside hn htrack hmac hacks htwn ..)
  · rfl

@[simp] theorem sendPlain_outside (s : State) (kind : Nat) (hoop : Hoop) (arg : Nat) (payload : List Byte) :
    (sendPlain s kind hoop arg payload).outside w = s.outside w := by
  unfold sendPlain
  simp [hn, htrack, hmac, hacks, htwn]

@[simp] theorem forward_outside (s : State) (id set : Nat) (data : List Byte) :
    (forward s id set data).outside w = s.outside w := by
  unfold forward
  (repeat' split) <;> simp [hn, htrack, hmac, hacks, htwn]

@[simp] theorem forwardMember_outside (s : State) (m : Member) : (forwardMember s m).outside w = s.outside w := by
  unfold forwardMember
  simp [Twn.outside, hn, htrack, hmac, hacks, htwn]

@[simp] theorem sendLive_outside (s : State) (h : Hoop) : (sendLive s h).outside w = s.outside w := by
  unfold sendLive
  (repeat' split) <;> simp [Twn.outside, hn, htrack, hmac, hacks, htwn]

@[simp] theorem forwardJoined_outside (s : State) : (forwardJoined s).outside w = s.outside w := by
  unfold forwardJoined
  (repeat' split) <;> simp [hn, htrack, hmac, hacks, htwn]

end

section
variable {w : List Part} (hn : Notices w) (hregs : .regs ∈ w) (htrack : .track ∈ w) (hmac : .mac ∈ w)
  (hacks : .acks ∈ w)
include hn hregs htrack hmac hacks

@[simp] theorem macCtrlWrite_outside (s : State) (p : Nat) (v : Word) :
    (macCtrlWrite s p v).outside w = s.outside w := by
  unfold macCtrlWrite
  simp [hn, hregs, htrack, hmac, hacks]

@[simp] theorem applyPort_outside (s : State) (d : Desc) : (applyPort s d).outside w = s.outside w := by
  unfold applyPort
  simp [hn, hregs, htrack, hmac, hacks]

end

section
variable {w : List Part} (hn : Notices w) (hstages : .stages ∈ w) (hspareReads : .spareReads ∈ w)
include hn hstages hspareReads

@[simp] theorem partActive_outside (s : State) (p : Nat) : (partActive s p).outside w = s.outside w := by
  unfold partActive
  simp [hn, hstages, hspareReads]

end

section
variable {w : List Part} (hn : Notices w) (hregs : .regs ∈ w) (hsess : .sess ∈ w)
include hn hregs hsess

@[simp] theorem applySession_outside (s : State) (k : Nat) (old new : List Word) :
    (applySession s k old new).outside w = s.outside w := by
  unfold applySession
  (repeat' split) <;> simp [hn, hregs, hsess]

end

section
variable {w : List Part} (hn : Notices w) (hlive : .live ∈ w) (htwn : .twn ∈ w)
include hn hlive htwn

@[simp] theorem liveApply_outside (s : State) : (liveApply s).outside w = s.outside w := by
  unfold liveApply
  dsimp only
  split
  · split
    · refine (foldl_outside (fun t x => ?_) _ _).trans ?_ <;> simp [Twn.outside, hn, hlive, htwn]
    · simp [Twn.outside, htwn]
  · rfl

end

section
variable {w : List Part} (hn : Notices w) (hrun : .run ∈ w) (hegr : .egr ∈ w)
include hn hrun hegr

@[simp] theorem egrBoundary_outside (s : State) : (egrBoundary s).outside w = s.outside w := by
  unfold egrBoundary
  simp [hn, hrun, hegr]

end

section
variable {w : List Part} (hregs : .regs ∈ w) (hccs : .ccs ∈ w) (hupd : .upd ∈ w) (hfreeCount : .freeCount ∈ w)
include hregs hccs hupd hfreeCount

@[simp] theorem activateAt_outside (s : State) (b : Hoop) : (activateAt s b).outside w = s.outside w := by
  unfold activateAt
  split
  · dsimp only
    refine (setUpd_outside _ ?_).trans ?_
    · simp [Upd.outside, hupd]
    · refine (foldl_outside (fun t p => ?_) _ _).trans ?_ <;> simp [hregs, hccs, hfreeCount]
  · rfl

end

section
variable {w : List Part} (hn : Notices w) (hlay : .lay ∈ w) (hcol : .col ∈ w) (hrun : .run ∈ w)
include hn hlay hcol hrun

@[simp] theorem completeRun_outside (s : State) : (completeRun s).outside w = s.outside w := by
  unfold completeRun
  (repeat' split) <;> simp [Lay.outside, hn, hlay, hcol, hrun]

end

section
variable {w : List Part} (hn : Notices w) (htrack : .track ∈ w) (hacks : .acks ∈ w) (htwn : .twn ∈ w)
include hn htrack hacks htwn

@[simp] theorem unjoin_outside (s : State) : (unjoin s).outside w = s.outside w := by
  unfold unjoin
  simp [Twn.outside, hn, htrack, hacks, htwn]

end

section
variable {w : List Part} (hn : Notices w) (htrack : .track ∈ w) (hegr : .egr ∈ w) (hacks : .acks ∈ w)
  (htwnClosed : .twnClosed ∈ w) (htwn : .twn ∈ w)
include hn htrack hegr hacks htwnClosed htwn

@[simp] theorem enterState_outside (s : State) (st : TwinState) (driving : Bool) (cause : Nat) :
    (enterState s st driving cause).outside w = s.outside w := by
  unfold enterState
  (repeat' split) <;> simp [Twn.outside, hn, htrack, hegr, hacks, htwnClosed, htwn]

@[simp] theorem leaveActive_outside (s : State) : (leaveActive s).outside w = s.outside w := by
  unfold leaveActive
  (repeat' split) <;> simp [hn, htrack, hegr, hacks, htwnClosed, htwn]

@[simp] theorem copyFail_outside (s : State) : (copyFail s).outside w = s.outside w := by
  unfold copyFail
  (repeat' split) <;> simp [Twn.outside, hn, htrack, hegr, hacks, htwnClosed, htwn]

@[simp] theorem enterStandby_outside (s : State) (hoops : Nat) : (enterStandby s hoops).outside w = s.outside w := by
  unfold enterStandby
  simp [Twn.outside, hn, htrack, hegr, hacks, htwnClosed, htwn]

@[simp] theorem boundaryRoles_outside (s : State) : (boundaryRoles s).outside w = s.outside w := by
  unfold boundaryRoles
  (repeat' split) <;> simp [Twn.outside, hn, htrack, hegr, hacks, htwnClosed, htwn]

@[simp] theorem linkLost_outside (s : State) : (linkLost s).outside w = s.outside w := by
  unfold linkLost
  (repeat' split) <;> simp [Twn.outside, hn, htrack, hegr, hacks, htwnClosed, htwn]

@[simp] theorem missingDigest_outside (s : State) (h : Hoop) : (missingDigest s h).outside w = s.outside w := by
  unfold missingDigest
  (repeat' split) <;> simp [Twn.outside, hn, htrack, hegr, hacks, htwnClosed, htwn]

@[simp] theorem applyPartnerRole_outside (s : State) (d : Desc) : (applyPartnerRole s d).outside w = s.outside w := by
  unfold applyPartnerRole
  (repeat' split) <;> simp [Twn.outside, hn, htrack, hegr, hacks, htwnClosed, htwn]

@[simp] theorem applyRole_outside (s : State) (d : Desc) : (applyRole s d).2.outside w = s.outside w := by
  unfold applyRole
  (repeat' split) <;> simp [Twn.outside, hn, htrack, hegr, hacks, htwnClosed, htwn]

@[simp] theorem linkCheck_outside (s : State) : (linkCheck s).outside w = s.outside w := by
  unfold linkCheck
  (repeat' split) <;> simp [hn, htrack, hegr, hacks, htwnClosed, htwn]

@[simp] theorem portCheck_outside (s : State) (p : Nat) : (portCheck s p).outside w = s.outside w := by
  unfold portCheck
  (repeat' split) <;> simp [Twn.outside, hn, htrack, hegr, hacks, htwnClosed, htwn]

@[simp] theorem takeEntry_outside (s : State) : (takeEntry s).outside w = s.outside w := by
  have begun : ∀ (x : Option CopyOut) (c : Hoop) (n : Nat), State.outside w (setTwn (queueObjects (setTwn s
      { s.twn with copyOut := x }) entryObjects true) { (queueObjects (setTwn s { s.twn with copyOut := x })
        entryObjects true).twn with activeSince := c, missing := n }) = s.outside w := fun x c n => by
    refine (setTwn_outside _ (by simp [Twn.outside, htwn])).trans ?_
    exact (queueObjects_outside htwn _ _ _).trans (setTwn_outside _ (by simp [Twn.outside, htwn]))
  unfold takeEntry
  dsimp only
  split
  · exact (enterState_outside hn htrack hegr hacks htwnClosed htwn ..).trans (begun _ _ _)
  · exact begun _ _ _

end

section
variable {w : List Part} (hn : Notices w) (hregs : .regs ∈ w) (htrack : .track ∈ w) (hlive : .live ∈ w)
  (hegr : .egr ∈ w) (hmac : .mac ∈ w) (hccs : .ccs ∈ w) (hupd : .upd ∈ w) (hacks : .acks ∈ w) (htwnClosed : .twnClosed ∈ w) (htwn : .twn ∈ w) (hfreeCount : .freeCount ∈ w)
include hn hregs htrack hlive hegr hmac hccs hupd hacks htwnClosed htwn hfreeCount

@[simp] theorem memberEffect_outside (s : State) (m : Member) : (memberEffect s m).2.outside w = s.outside w := by
  unfold memberEffect
  dsimp only
  split <;> (try split) <;> simp [hn, hregs, htrack, hlive, hegr, hmac, hccs, hupd, hacks, htwnClosed, htwn, hfreeCount]

@[simp] theorem applyMemberNow_outside (s : State) (m : Member) : (applyMemberNow s m).outside w = s.outside w := by
  unfold applyMemberNow
  dsimp only
  split <;> simp [hn, hregs, htrack, hlive, hegr, hmac, hccs, hupd, hacks, htwnClosed, htwn, hfreeCount]

end

section
variable {w : List Part} (hn : Notices w) (htrack : .track ∈ w) (hstages : .stages ∈ w) (hacks : .acks ∈ w)
  (htwn : .twn ∈ w)
include hn htrack hstages hacks htwn

@[simp] theorem takeCopy_outside (s : State) : (takeCopy s).outside w = s.outside w := by
  unfold takeCopy
  simp [Twn.outside, hn, htrack, hstages, hacks, htwn]

end

section
variable {w : List Part} (hn : Notices w) (htrack : .track ∈ w) (hstages : .stages ∈ w) (hegr : .egr ∈ w)
  (hacks : .acks ∈ w) (htwnClosed : .twnClosed ∈ w) (htwn : .twn ∈ w)
include hn htrack hstages hegr hacks htwnClosed htwn

@[simp] theorem boundaryCopy_outside (s : State) : (boundaryCopy s).outside w = s.outside w := by
  unfold boundaryCopy
  (repeat' split) <;> simp [hn, htrack, hstages, hegr, hacks, htwnClosed, htwn]

@[simp] theorem twinBoundary_outside (s : State) : (twinBoundary s).outside w = s.outside w := by
  unfold twinBoundary
  dsimp only
  split
  · refine (setTwn_outside _ (by simp [Twn.outside, htwn])).trans ?_
    simp [Twn.outside, hn, htrack, hstages, hegr, hacks, htwnClosed, htwn]
  · exact setTwn_outside _ (by simp [Twn.outside, htwn])

end

section
variable {w : List Part} (hn : Notices w) (habort : .abort ∈ w) (hlay : .lay ∈ w) (hcol : .col ∈ w)
  (hrun : .run ∈ w) (hsti : .sti ∈ w)
include hn habort hlay hcol hrun hsti

@[simp] theorem endRun_outside (s : State) (base : Nat) : (endRun s base).outside w = s.outside w := by
  unfold endRun
  (repeat' split) <;> simp [HoopGen.outside, hn, habort, hlay, hcol, hrun, hsti]

end

section
variable {w : List Part} (hn : Notices w) (hregs : .regs ∈ w) (htrack : .track ∈ w) (hcfg : .cfg ∈ w)
  (hsess : .sess ∈ w) (hsrc : .src ∈ w) (hing : .ing ∈ w) (hstages : .stages ∈ w) (hspareReads : .spareReads ∈ w) (hcol : .col ∈ w) (hlive : .live ∈ w) (hegr : .egr ∈ w) (hacks : .acks ∈ w)
include hn hregs htrack hcfg hsess hsrc hing hstages hspareReads hcol hlive hegr hacks

@[simp] theorem applyCfg_outside (s : State) (e : EndState) : (applyCfg s e).outside w = s.outside w := by
  unfold applyCfg
  (repeat' split) <;> simp [hn, hregs, htrack, hcfg, hsess, hsrc, hing, hstages, hspareReads, hcol, hlive, hegr, hacks]

end


end Sys2Proof.Machine

/-! What two states that agree outside the parts `w` have in common. -/
namespace Sys2Proof.Machine

/-- Every part but those of `l`. -/
def allBut (l : List Part) : List Part :=
  [Part.regs, .counts, .fresh, .track, .records, .rings, .pcie, .pulses, .stamps, .tim, .stacks, .ref, .abort, .hoopRegs, .hoop,
    .win, .closed, .cfg, .sess, .src, .ing, .pixels, .handles, .lay, .stages, .reads, .package, .spareReads, .badEntry,
    .badStep, .col, .run, .live, .sti, .egr, .mac, .outboxes, .shared, .ccs, .cvus, .boot, .jobs, .upd, .keep, .key, .glb,
    .psm, .lgw, .acks, .twnClosed, .twn, .out, .readValue, .freeCount].filter fun p => decide (p ∉ l)

@[simp] theorem mem_allBut {l : List Part} {p : Part} : p ∈ allBut l ↔ (∀ a, p ≠ .reg a) ∧ p ∉ l := by
  unfold allBut
  cases p <;> simp

@[simp] theorem notices_allBut {l : List Part} :
    Notices (allBut l) ↔ .counts ∉ l ∧ .fresh ∉ l ∧ .records ∉ l ∧ .outboxes ∉ l ∧ .out ∉ l :=
  ⟨fun h => ⟨(mem_allBut.1 h.counts).2, (mem_allBut.1 h.fresh).2, (mem_allBut.1 h.records).2, (mem_allBut.1 h.outboxes).2,
      (mem_allBut.1 h.out).2⟩,
    fun ⟨hc, hf, hr, ho, hu⟩ => by constructor <;> exact mem_allBut.2 ⟨nofun, by assumption⟩⟩

/-! ### Structures no part of which is blanked -/

section Self
variable {w : List Part}

@[simp] theorem Hif.outside_self (ht : .track ∉ w) (hr : .records ∉ w) (hg : .rings ∉ w) (h : Hif) : h.outside w = h := by
  simp [Hif.outside, ht, hr, hg]

@[simp] theorem Tim.outside_self (ht : .tim ∉ w) (hs : .stamps ∉ w) (hp : .pulses ∉ w) (t : Tim) : t.outside w = t := by
  simp [Tim.outside, ht, hs, hp]

@[simp] theorem HoopGen.outside_self (hh : .hoop ∉ w) (hr : .ref ∉ w) (hg : .hoopRegs ∉ w) (ha : .abort ∉ w)
    (hs : .stacks ∉ w) (h : HoopGen) : h.outside w = h := by
  simp [HoopGen.outside, hh, hr, hg, ha, hs]

@[simp] theorem Window.outside_self (hw : .win ∉ w) (hc : .closed ∉ w) (x : Window) : x.outside w = x := by
  simp [Window.outside, hw, hc]

@[simp] theorem Ing.outside_self (hs : .sess ∉ w) (hr : .src ∉ w) (hi : .ing ∉ w) (g : Ing) : g.outside w = g := by
  simp [Ing.outside, hs, hr, hi]

@[simp] theorem Lay.outside_self (hw : .lay ∉ w) (hh : .handles ∉ w) (hp : .pixels ∉ w) (l : Lay) : l.outside w = l := by
  simp [Lay.outside, hw, hh, hp]

@[simp] theorem Ccs.outside_self (hc : .ccs ∉ w) (ho : .outboxes ∉ w) (hs : .shared ∉ w) (c : Ccs) : c.outside w = c := by
  simp [Ccs.outside, hc, ho, hs]

@[simp] theorem Upd.outside_self (hu : .upd ∉ w) (hj : .jobs ∉ w) (u : Upd) : u.outside w = u := by
  simp [Upd.outside, hu, hj]

@[simp] theorem Twn.outside_self (ht : .twn ∉ w) (hc : .twnClosed ∉ w) (ha : .acks ∉ w) (t : Twn) : t.outside w = t := by
  simp [Twn.outside, ht, hc, ha]
end Self

/-! ### Fields in common -/

section
variable {w : List Part} {s t : State} (h : t.outside w = s.outside w)
include h

theorem cfg_of_outside (hw : .cfg ∉ w) : t.cfg = s.cfg := by simpa [State.outside, hw] using congrArg State.cfg h
theorem lay_of_outside (hw : .lay ∉ w) (hh : .handles ∉ w) (hp : .pixels ∉ w) : t.lay = s.lay := by
  simpa [State.outside, hw, hh, hp] using congrArg State.lay h
theorem boot_of_outside (hw : .boot ∉ w) : t.boot = s.boot := by simpa [State.outside, hw] using congrArg State.boot h
theorem key_of_outside (hw : .key ∉ w) : t.key = s.key := by simpa [State.outside, hw] using congrArg State.key h
theorem keep_of_outside (hw : .keep ∉ w) : t.keep = s.keep := by simpa [State.outside, hw] using congrArg State.keep h
theorem closed_of_outside (hw : .closed ∉ w) : t.win.closed = s.win.closed := by
  simpa [State.outside, Window.outside, hw] using congrArg (·.win.closed) h
theorem isOpen_of_outside (hw : .win ∉ w) : t.win.isOpen = s.win.isOpen := by
  simpa [State.outside, Window.outside, hw] using congrArg (·.win.isOpen) h
theorem twnClosed_of_outside (hw : .twnClosed ∉ w) : t.twn.closed = s.twn.closed := by
  simpa [State.outside, Twn.outside, hw] using congrArg (·.twn.closed) h
theorem fNumber_of_outside (hw : .hoop ∉ w) : t.hoop.fNumber = s.hoop.fNumber := by
  simpa [State.outside, HoopGen.outside, hw] using congrArg (·.hoop.fNumber) h
theorem number_of_outside (hw : .hoop ∉ w) : t.hoop.number = s.hoop.number := by
  simpa [State.outside, HoopGen.outside, hw] using congrArg (·.hoop.number) h
theorem fDue_of_outside (hw : .hoop ∉ w) : t.hoop.fDue = s.hoop.fDue := by
  simpa [State.outside, HoopGen.outside, hw] using congrArg (·.hoop.fDue) h
theorem fStarted_of_outside (hw : .hoop ∉ w) : t.hoop.fStarted = s.hoop.fStarted := by
  simpa [State.outside, HoopGen.outside, hw] using congrArg (·.hoop.fStarted) h
end

end Sys2Proof.Machine

/-! The registers that two states share, and the claims' frames `onlyCores`, `onlyNotices`, `onlyTime` and `onlyHost`, read off
states that agree outside some parts. -/
namespace Sys2Proof.Machine

/-! ### Registers -/

theorem tget_filter {α : Type} [DecidableEq α] {d : Nat → α} {p : Nat × α → Bool} {k lo : Nat} (hp : ∀ v, p (k, v) = true)
    {m : Table α} (hm : twfFrom d lo m = true) : tget d (m.filter p) k = tget d m k := by
  induction m generalizing lo with
  | nil => rfl
  | cons x m ih =>
    obtain ⟨a, v⟩ := x
    simp only [twfFrom, Bool.and_eq_true] at hm
    rw [List.filter_cons]
    split
    · simp only [tget, ih hm.2]
    next hav =>
      have hka : k ≠ a := fun h => hav (h ▸ hp v)
      simp only [tget, if_neg hka]
      split
      · rw [tget_below (filter_twfFrom hm.2) (by omega)]
      · exact ih hm.2

section
variable {w : List Part} {s t : State} (h : t.outside w = s.outside w)
include h

/-- A register that no part in `w` covers. -/
theorem reg_of_outside (hs : s.canon) (ht : t.canon) {a : Nat} (ha : ¬ mayChange w a) : reg t a = reg s a := by
  have hr : regsOutside w t.regs = regsOutside w s.regs := congrArg State.regs h
  have keep : ∀ {m : Table Word}, twf regReset m = true → tget regReset (regsOutside w m) a = tget regReset m a :=
    tget_filter (fun _ => by simpa using ha)
  rw [reg, ← keep ht.regs, hr, keep hs.regs, reg]

/-- The registers `l` and the counts of notices are all that has changed. -/
theorem keepsRegs_of_outside (hs : s.canon) (ht : t.canon) {l : List Nat} (hw : .regs ∉ w) (hl : ∀ a, .reg a ∈ w → a ∈ l) :
    keepsRegs l s t :=
  fun _ ha hn => reg_of_outside h hs ht fun
    | .inl h => hw h
    | .inr (.inl h) => ha (hl _ h)
    | .inr (.inr h) => hn h.2

theorem regs_of_outside (hw : .regs ∉ w) (hc : .counts ∉ w) (hl : ∀ a, .reg a ∉ w) : t.regs = s.regs := by
  simpa [State.outside, regsOutside, mayChange, hw, hc, hl] using congrArg State.regs h

theorem ccs_of_outside (hw : .ccs ∉ w) (ho : .outboxes ∉ w) (hs : .shared ∉ w) : t.ccs = s.ccs := by
  simpa [State.outside, hw, ho, hs] using congrArg State.ccs h

end

/-! ### The frames of the claims -/

/-- The parts of `onlyCores`. -/
def coreParts : List Part := [.regs, .counts, .fresh, .outboxes, .shared, .ccs, .freeCount]

/-- The parts of `onlyNotices`. -/
def noticeParts : List Part := [.track, .records, .rings, .out] ++ coreParts

/-- The parts of `onlyHost`. -/
def hostParts : List Part := [.pulses, .stamps, .tim] ++ noticeParts

/-- The parts of `onlyTime`. -/
def timeParts : List Part := [.stacks, .ref, .abort, .hoopRegs, .hoop] ++ hostParts

theorem onlyCores_of_outside {s t : State} (h : t.outside coreParts = s.outside coreParts) : onlyCores s t := by
  unfold onlyCores
  cases s
  cases t
  simp_all [State.outside, coreParts]

theorem onlyNotices_of_outside {s t : State} (h : t.outside noticeParts = s.outside noticeParts) : onlyNotices s t := by
  unfold onlyNotices
  cases s
  cases t
  simp_all [State.outside, noticeParts, coreParts]

theorem onlyHost_of_outside {s t : State} (h : t.outside hostParts = s.outside hostParts) : onlyHost s t := by
  unfold onlyHost
  cases s
  cases t
  simp_all [State.outside, hostParts, noticeParts, coreParts]

theorem onlyTime_of_outside {s t : State} (h : t.outside timeParts = s.outside timeParts) : onlyTime s t := by
  unfold onlyTime
  cases s
  cases t
  simp_all [State.outside, timeParts, hostParts, noticeParts, coreParts]

end Sys2Proof.Machine

/-! Time passing: what it leaves outside device time and TIM's notices to firmware. -/
namespace Sys2Proof.Machine

section
variable {w : List Part} (htim : .tim ∈ w)
include htim

@[simp] theorem advance_outside (rate : Int) (speed n : Nat) (t : Tim) : (advance rate speed n t).outside w = t.outside w := by
  unfold advance
  split <;> simp [Tim.outside, htim]

variable (hn : Notices w)
include hn

@[simp] theorem tick_outside (n : Nat) (s : State) : (tick n s).outside w = s.outside w := by
  unfold tick
  dsimp only
  split <;> simp [hn, htim]

@[simp] theorem runTo_outside (target : Nat) (s : State) : (runTo target s).outside w = s.outside w := by
  unfold runTo
  simp [hn, htim]

@[simp] theorem runToCycle_outside (cyc : Nat) (s : State) : (runToCycle cyc s).outside w = s.outside w := by
  unfold runToCycle
  simp [hn, htim]

end

/-- Generators that differ in the fields of `.hoop` alone. -/
theorem hoop_outside {w : List Part} (hw : .hoop ∈ w) {g h : HoopGen} (href : g.ref = h.ref)
    (hregs : g.pendingRegs = h.pendingRegs) (haborted : g.aborted = h.aborted) (hconsec : g.consecAborts = h.consecAborts)
    (hstorm : g.stormArmed = h.stormArmed) (hcause : g.lastCause = h.lastCause) (h0 : g.stack0 = h.stack0)
    (h1 : g.stack1 = h.stack1) (hheld : g.stacksHeld = h.stacksHeld) : g.outside w = h.outside w := by
  simp [HoopGen.outside, *]

theorem grid_outside {w : List Part} (hw : .hoop ∈ w) (g : HoopGen) (e : Nat) :
    HoopGen.outside w { g with gridEl := e } = g.outside w :=
  hoop_outside hw rfl rfl rfl rfl rfl rfl rfl rfl rfl

theorem phase_outside {w : List Part} (hw : .hoop ∈ w) (g : HoopGen) (e : Int) (k : Option Nat) :
    HoopGen.outside w { g with phaseErr := e, nextK := k } = g.outside w :=
  hoop_outside hw rfl rfl rfl rfl rfl rfl rfl rfl rfl

theorem early_outside {w : List Part} (hw : .hoop ∈ w) (g : HoopGen) (e : Option Nat) :
    HoopGen.outside w { g with early := e } = g.outside w :=
  hoop_outside hw rfl rfl rfl rfl rfl rfl rfl rfl rfl

theorem ite_outside_eq {w : List Part} {c : Prop} [Decidable c] {s t u : State} (ht : t.outside w = s.outside w)
    (hu : u.outside w = s.outside w) : (if c then t else u).outside w = s.outside w := by split <;> assumption

section
variable {w : List Part} {s t : State} (h : t.outside w = s.outside w)
include h

/-- Threads, cores and ready lists. -/
theorem threads_of_outside (hw : .ccs ∉ w) : t.ccs.threads = s.ccs.threads := by
  simpa [State.outside, Ccs.outside, hw] using congrArg (·.ccs.threads) h
theorem cores_of_outside (hw : .ccs ∉ w) : t.ccs.cores = s.ccs.cores := by
  simpa [State.outside, Ccs.outside, hw] using congrArg (·.ccs.cores) h
theorem readyLists_of_outside (hw : .ccs ∉ w) : t.ccs.readyLists = s.ccs.readyLists := by
  simpa [State.outside, Ccs.outside, hw] using congrArg (·.ccs.readyLists) h
theorem queues_of_outside (hw : .ccs ∉ w) : t.ccs.queues = s.ccs.queues := by
  simpa [State.outside, Ccs.outside, hw] using congrArg (·.ccs.queues) h

end

end Sys2Proof.Machine

/-! The set that waits takes effect at its boundary (R123). -/
namespace Sys2Proof.Machine

/-! ### No forwarded set appears -/

/-- An operation that leaves `Twn.closed` alone. -/
theorem noForwarded_of_outside {s t : State} (h : t.outside (allBut [.twnClosed]) = s.outside (allBut [.twnClosed]))
    (hs : s.twn.closed = none) : t.twn.closed = none :=
  (twnClosed_of_outside h (by simp)).trans hs

theorem noForwarded_ite {c : Prop} [Decidable c] {s t : State} (hs : s.twn.closed = none) (ht : t.twn.closed = none) :
    (if c then s else t).twn.closed = none := by
  split <;> assumption

theorem noForwarded_foldl {α : Type} {f : State → α → State} (hf : ∀ s a, s.twn.closed = none → (f s a).twn.closed = none)
    (l : List α) {s : State} (hs : s.twn.closed = none) : (l.foldl f s).twn.closed = none := by
  induction l generalizing s with
  | nil => exact hs
  | cons a l ih => exact ih (hf s a hs)

theorem dropPair_closed (s : State) : (dropPair s).twn.closed = none := rfl

theorem enterState_closed {s : State} (h : s.twn.closed = none) (st : TwinState) (driving : Bool) (cause : Nat) :
    (enterState s st driving cause).twn.closed = none := by
  unfold enterState
  dsimp only
  generalize hu : (if (s.twn.driving && !driving) = true then unjoin s else s) = u
  have hu' : u.twn.closed = none := hu ▸ noForwarded_ite (noForwarded_of_outside (by simp) h) h
  generalize hv : setTwn u _ = v
  have hv' : v.twn.closed = none := hv ▸ hu'
  generalize hx : (if (s.twn.driving && !driving) = true then (List.range 32).foldl dropEgress v else v) = x
  have hx' : x.twn.closed = none := hx ▸ noForwarded_ite (noForwarded_of_outside (by simp) hv') hv'
  generalize hy : (if st = .cold ∨ st = .faulted ∨ st = .syncing then dropPair x else x) = y
  have hy' : y.twn.closed = none := hy ▸ noForwarded_ite (dropPair_closed x) hx'
  exact noForwarded_of_outside (stateNotice_outside (by simp) _ _ _) (noForwarded_ite (noForwarded_of_outside (by simp) hy') hy')

theorem leaveActive_closed {s : State} (h : s.twn.closed = none) : (leaveActive s).twn.closed = none := by
  unfold leaveActive
  split
  · exact enterState_closed h _ _ _
  · exact h

theorem copyFail_closed {s : State} (h : s.twn.closed = none) : (copyFail s).twn.closed = none := by
  unfold copyFail
  generalize hu : setTwn s _ = u
  have hu' : u.twn.closed = none := hu ▸ h
  exact enterState_closed hu' _ _ _

theorem linkLost_closed {s : State} (h : s.twn.closed = none) : (linkLost s).twn.closed = none := by
  unfold linkLost
  split
  · dsimp only
    generalize hu : noticeBoth _ _ _ _ = u
    have hu' : u.twn.closed = none := hu ▸ noForwarded_of_outside (noticeBoth_outside (by simp) _ _ _ _) h
    generalize hv : (if u.twn.driving = true then unjoin u else u) = v
    have hv' : v.twn.closed = none := hv ▸ noForwarded_ite (noForwarded_of_outside (by simp) hu') hu'
    exact noForwarded_ite (copyFail_closed hv') (leaveActive_closed hv')
  · exact h

theorem portCheck_closed {s : State} (h : s.twn.closed = none) (p : Nat) : (portCheck s p).twn.closed = none := by
  unfold portCheck
  split
  · exact h
  · dsimp only
    generalize hu : setTwn _ _ = u
    have hu' : u.twn.closed = none := hu ▸ noForwarded_of_outside (cutRefreshes_outside (by simp) (by simp) (by simp) (by simp) _ _) h
    exact noForwarded_ite (linkLost_closed hu') hu'

theorem applyRole_closed {s : State} (h : s.twn.closed = none) (d : Desc) : (applyRole s d).2.twn.closed = none := by
  unfold applyRole
  dsimp only
  split
  · split
    · exact noForwarded_of_outside (takeoverNotice_outside (by simp) _ _ _) (enterState_closed h _ _ _)
    · exact h
  · split
    · exact enterState_closed h _ _ _
    · exact h
  · exact enterState_closed h _ _ _

theorem applyPartnerRole_closed {s : State} (h : s.twn.closed = none) (d : Desc) :
    (applyPartnerRole s d).twn.closed = none := by
  unfold applyPartnerRole
  split
  · exact noForwarded_of_outside (takeoverNotice_outside (by simp) _ _ _) (enterState_closed (s := s) h _ _ _)
  · exact h

theorem memberEffect_closed {s : State} (h : s.twn.closed = none) (m : Member) : (memberEffect s m).2.twn.closed = none := by
  unfold memberEffect
  dsimp only
  split
  · exact noForwarded_of_outside (by simp) h
  · exact portCheck_closed (noForwarded_of_outside (by simp) h) _
  · exact noForwarded_of_outside (by simp) h
  · exact noForwarded_of_outside (by simp) h
  · exact noForwarded_of_outside (by simp) h
  · split
    · exact applyPartnerRole_closed h _
    · exact applyRole_closed h _
  · exact h

theorem applyMemberNow_closed (s : State) (m : Member) (h : s.twn.closed = none) : (applyMemberNow s m).twn.closed = none := by
  unfold applyMemberNow
  exact noForwarded_ite (memberEffect_closed h m)
    (noForwarded_of_outside (finishMember_outside (by simp) (by simp) (by simp) _ _ _ _ _ _) (memberEffect_closed h m))

theorem applySet_closed {s : State} (h : s.twn.closed = none) (e : EndState) (b : Hoop) : (applySet s e b).twn.closed = none := by
  unfold applySet
  dsimp only
  generalize hu : e.members.foldl applyMemberNow _ = u
  have hu' : u.twn.closed = none := hu ▸ noForwarded_foldl applyMemberNow_closed _ (noForwarded_of_outside (by simp) h)
  exact noForwarded_ite (noForwarded_of_outside (s := setTwn u _) (by simp [HoopGen.outside, Twn.outside]) hu') hu'

/-! ### The set that waits is in force -/

theorem applyCfg_cfg (s : State) (e : EndState) : (applyCfg s e).cfg = e.cfg := by
  unfold applyCfg
  exact cfg_of_outside (w := allBut [.cfg]) (s := { s with cfg := e.cfg }) (by simp) (by simp)

theorem applySet_cfg (s : State) (e : EndState) (b : Hoop) : (applySet s e b).cfg = e.cfg := by
  unfold applySet
  exact (cfg_of_outside (w := allBut [.cfg]) (s := applyCfg s e) (by simp [HoopGen.outside, Twn.outside]) (by simp)).trans (applyCfg_cfg s e)

theorem applySet_outside (s : State) (e : EndState) (b : Hoop) :
    (applySet s e b).outside (allBut [.closed, .hoop, .boot]) = s.outside (allBut [.closed, .hoop, .boot]) := by
  unfold applySet
  simp [HoopGen.outside, Twn.outside]

/-! ### The boundary -/

theorem forwards_alone {s : State} (h : s.boot.twinEn = false) : forwards s = false := by simp [forwards, mayTwin, h]

theorem forwardJoined_alone {s : State} (h : s.boot.twinEn = false) : forwardJoined s = s := by
  simp [forwardJoined, forwards_alone h]

theorem applyForwardedSet_none {s : State} (h : s.twn.closed = none) : applyForwardedSet s = s := by
  simp [applyForwardedSet, h]

theorem applyOwn_some {s : State} {e : EndState} (h : s.win.closed = some e) :
    applyOwn s = applySet (setWin s { s.win with closed := none }) e (s.hoop.fNumber - 1) := by
  simp [applyOwn, h]

/-- The parts that hold a closed set, and what says when it takes effect. -/
def setParts : List Part := [.closed, .twnClosed, .hoop, .boot]

/-- The set of the window that has closed goes into force as the hoop turns, which is then due no longer. -/
theorem turnHoop_spec {s : State} {e : EndState} (hc : s.win.closed = some e) (ht : s.twn.closed = none) :
    (turnHoop s).cfg = e.cfg ∧ (turnHoop s).win.closed = none ∧ (turnHoop s).boot = s.boot ∧
      (turnHoop s).hoop.fNumber = s.hoop.number ∧ (turnHoop s).hoop.fStarted = true ∧ (turnHoop s).hoop.fDue = false := by
  unfold turnHoop applyClosed
  dsimp only
  generalize hu : reanchorLanes _ = u
  have hsu : u.outside (allBut setParts) = s.outside (allBut setParts) := by simp [← hu, setParts]
  generalize hv : setHoop u _ = v
  obtain ⟨hvc, hvt, hvb, hvn, hvs, hvd⟩ : v.win.closed = u.win.closed ∧ v.twn.closed = u.twn.closed ∧ v.boot = u.boot ∧
      v.hoop.fNumber = u.hoop.number ∧ v.hoop.fStarted = true ∧ v.hoop.fDue = false := by
    subst hv; exact ⟨rfl, rfl, rfl, rfl, rfl, rfl⟩
  generalize hx : carryOver (sendLive v u.hoop.fNumber) = x
  have hvx : x.outside (allBut setParts) = v.outside (allBut setParts) := by simp [← hx, setParts]
  have hxc : x.win.closed = some e := by
    rw [closed_of_outside hvx (by simp [setParts]), hvc, closed_of_outside hsu (by simp [setParts]), hc]
  have hxt : x.twn.closed = none := by
    rw [twnClosed_of_outside hvx (by simp [setParts]), hvt, twnClosed_of_outside hsu (by simp [setParts]), ht]
  rw [applyOwn_some hxc]
  generalize hy : setWin x _ = y
  obtain ⟨hyc, hyt, hyb, hyh⟩ : y.win.closed = none ∧ y.twn.closed = none ∧ y.boot = x.boot ∧ y.hoop = x.hoop := by
    subst hy; exact ⟨rfl, hxt, rfl, rfl⟩
  rw [applyForwardedSet_none (applySet_closed hyt e _)]
  have hyz : (applySet y e (x.hoop.fNumber - 1)).outside (allBut [.closed, .hoop, .boot]) = y.outside (allBut [.closed, .hoop, .boot]) :=
    applySet_outside y e _
  have hcfg := applySet_cfg y e (x.hoop.fNumber - 1)
  generalize applySet y e _ = z at hyz hcfg ⊢
  have hzr : (twinBoundary z).outside (allBut [.cfg, .closed, .hoop, .boot]) = z.outside (allBut [.cfg, .closed, .hoop, .boot]) := by
    simp
  refine ⟨?_, ?_, ?_, ?_, ?_, ?_⟩
  · rw [cfg_of_outside hzr (by simp), hcfg]
  · rw [closed_of_outside hzr (by simp), closed_of_outside hyz (by simp), hyc]
  · rw [boot_of_outside hzr (by simp), boot_of_outside hyz (by simp), hyb, boot_of_outside hvx (by simp [setParts]), hvb,
      boot_of_outside hsu (by simp [setParts])]
  · rw [fNumber_of_outside hzr (by simp), fNumber_of_outside hyz (by simp), hyh, fNumber_of_outside hvx (by simp [setParts]),
      hvn, number_of_outside hsu (by simp [setParts])]
  · rw [fStarted_of_outside hzr (by simp), fStarted_of_outside hyz (by simp), hyh,
      fStarted_of_outside hvx (by simp [setParts]), hvs]
  · rw [fDue_of_outside hzr (by simp), fDue_of_outside hyz (by simp), hyh, fDue_of_outside hvx (by simp [setParts]), hvd]

@[simp] theorem setPhase_win (s : State) (m : Member) (p : Phase) : (setPhase s m p).win = s.win := by
  unfold setPhase
  split <;> rfl

theorem joinNow_isOpen (s : State) (m : Member) : (joinNow s m).win.isOpen = s.win.isOpen := by
  unfold joinNow
  split <;> simp

theorem join_isOpen (s : State) (m : Member) : (join s m).win.isOpen = s.win.isOpen := by
  unfold join
  dsimp only
  split
  · simp
  · split
    · exact joinNow_isOpen s m
    · split
      · exact joinNow_isOpen s m
      · split
        · simp
        · split
          · exact isOpen_of_outside (w := allBut [.win]) (by simp) (by simp)
          · exact joinNow_isOpen s _

theorem join_foldl_isOpen (l : List Member) (s : State) : (l.foldl join s).win.isOpen = s.win.isOpen := by
  induction l generalizing s with
  | nil => rfl
  | cons m l ih => exact (ih _).trans (join_isOpen s m)

theorem releaseHeld_isOpen (s : State) : (releaseHeld s).win.isOpen = s.win.isOpen := by
  unfold releaseHeld
  dsimp only
  split
  · exact join_foldl_isOpen _ _
  · rfl

theorem openWindow_isOpen (s : State) : (openWindow s).win.isOpen = true :=
  (releaseHeld_isOpen _).trans (join_foldl_isOpen _ _)

theorem settleHoop_outside (s : State) :
    (settleHoop s).outside (allBut [.cfg, .closed, .hoop, .boot]) = s.outside (allBut [.cfg, .closed, .hoop, .boot]) := by
  unfold settleHoop
  simp

/-- Settles O23: the closed set is applied as the hoop turns, and nothing of the boundary after that touches the
configuration; the window opens last. -/
theorem setTakesEffect : Obligations.SetTakesEffect := by
  unfold Obligations.SetTakesEffect
  intro e s hdue hclosed htwin htwn
  obtain ⟨hcfg, hwin, hboot, hn, hst, hdu⟩ := turnHoop_spec hclosed htwn
  have hs := settleHoop_outside (turnHoop s)
  have hrun : exec .fclkBoundary s = .next (openHoop (settleHoop (turnHoop s))) := by
    change done (fclkBoundary s) = _
    simp [done, fclkBoundary, hdue]
  refine ⟨_, hrun, ?_⟩
  unfold openHoop
  generalize settleHoop (turnHoop s) = u at hs ⊢
  generalize hv : setTwn _ _ = v
  have huv : v.outside (allBut [.cfg, .closed, .hoop, .boot]) = u.outside (allBut [.cfg, .closed, .hoop, .boot]) := by
    simp [← hv, Twn.outside]
  have hvw : (openWindow v).outside (allBut [.cfg, .closed, .hoop, .boot]) = v.outside (allBut [.cfg, .closed, .hoop, .boot]) := by
    simp
  have h := (hvw.trans huv).trans hs
  have hb : (openWindow v).boot.twinEn = false := by rw [boot_of_outside h (by simp), hboot, htwin]
  rw [forwardJoined_alone hb]
  exact ⟨(cfg_of_outside h (by simp)).trans hcfg, (closed_of_outside h (by simp)).trans hwin, openWindow_isOpen v,
    (fDue_of_outside h (by simp)).trans hdu, (fStarted_of_outside h (by simp)).trans hst,
    (fNumber_of_outside h (by simp)).trans hn⟩

end Sys2Proof.Machine

/-! The check-value units (R377 to R380). -/
namespace Sys2Proof.Machine

section
variable {s : State} {c t : Nat} (hrun : runningOn s c = some t)
include hrun

theorem cvuClaim_free {u : Nat} (h : (cvuOf s u).owner = none) :
    cvuClaim s c u = setCvu s u { cvuOf s u with owner := some t } := by
  simp [cvuClaim, hrun, h]

theorem cvuClaim_taken {u k : Nat} (h : (cvuOf s u).owner = some k) : cvuClaim s c u = s := by
  simp [cvuClaim, hrun, h]

theorem asOwner_owner {u : Nat} (h : (cvuOf s u).owner = some t) (f : State → State) : asOwner s c u f = f s := by
  simp [asOwner, hrun, h]

theorem asOwner_foreign {u : Nat} (h : (cvuOf s u).owner ≠ some t) (f : State → State) :
    asOwner s c u f = latch s (CVU_STAT u) 30 := by
  simp [asOwner, hrun, h]

end

theorem bitW_kick (v : Word) (j k : Nat) : bitW (v ||| w32 (2 ^ j)) k = (bitW v k || (decide (k = j) && decide (j < 32))) := by
  rw [bitW_or, bitW_bit]

/-- A write of CVU_CTRL with one of its three kicks. -/
theorem writeCvuCtrl_claim (s : State) (c u : Nat) {v : Word} (h30 : bitW v 30 = false) (h29 : bitW v 29 = false) :
    writeCvuCtrl s c u (v ||| w32 (2 ^ 31)) = cvuClaim s c u := by
  simp only [writeCvuCtrl, bitW_kick, h30, h29]
  simp

theorem writeCvuCtrl_start {s : State} {c u : Nat} {v : Word} (hc : bitW v 31 = false ∨ cvuClaim s c u = s)
    (h30 : bitW v 30 = false) : writeCvuCtrl s c u (v ||| w32 (2 ^ 29)) = cvuStart s c u := by
  simp only [writeCvuCtrl, bitW_kick, h30]
  rcases hc with hc | hc <;> simp [hc]

theorem writeCvuCtrl_release {s : State} {c u : Nat} {v : Word} (hc : bitW v 31 = false ∨ cvuClaim s c u = s)
    (h29 : bitW v 29 = false) : writeCvuCtrl s c u (v ||| w32 (2 ^ 30)) = cvuRelease s c u := by
  simp only [writeCvuCtrl, bitW_kick, h29]
  rcases hc with hc | hc <;> simp [hc]

theorem leBytes_eq_map (n v : Nat) : leBytes n v = (List.range n).map fun i => BitVec.ofNat 8 (v / 256 ^ i) := by
  induction n generalizing v with
  | zero => rfl
  | succ n ih =>
    rw [leBytes, ih, List.range_succ_eq_map]
    simp [Function.comp_def, Nat.div_div_eq_div_mul, Nat.pow_succ, Nat.mul_comm]

theorem cvuFeed_owner {s : State} {c t u n : Nat} (hrun : runningOn s c = some t) (h : (cvuOf s u).owner = some t) (v : Word)
    {f : Fin 4} (hf : u = f) : cvuFeed s c u n v = cvuFed s f n v := by
  subst hf
  rw [cvuFeed, asOwner_owner hrun h, cvuFed, leBytes_eq_map]

theorem cvuFeed_foreign {s : State} {c t u n : Nat} (hrun : runningOn s c = some t) (h : (cvuOf s u).owner ≠ some t) (v : Word) :
    cvuFeed s c u n v = latch s (CVU_STAT u) 30 := asOwner_foreign hrun h _

theorem exec_cvuClaim (c : Fin 8) (u : Fin 4) (v : Word) (s : State) :
    exec (.cvuClaim (.core c) u v) s = .next (writeCvuCtrl s c u (v ||| w32 (2 ^ 31))) := rfl

theorem exec_cvuRelease (c : Fin 8) (u : Fin 4) (v : Word) (s : State) :
    exec (.cvuRelease (.core c) u v) s = .next (writeCvuCtrl s c u (v ||| w32 (2 ^ 30))) := rfl

theorem exec_cvuStart (c : Fin 8) (u : Fin 4) (v : Word) (s : State) :
    exec (.cvuStart (.core c) u v) s = .next (writeCvuCtrl s c u (v ||| w32 (2 ^ 29))) := rfl

theorem cvuFree_noVerify {s : State} {u : Fin 4} (h : u = 3 → s.upd.verifying = none) :
    cvuFree s u = setCvu s u { cvuOf s u with owner := none } := by
  have : ¬ (u.val = 3 ∧ s.upd.verifying.isSome = true) := fun ⟨hu, hv⟩ => by simp [h (Fin.ext hu)] at hv
  simp [cvuFree, this]

/-- Settles O15: every access to a unit is one of CLAIM, START, RELEASE or a feed, and acts for the owner alone. -/
theorem checkUnits : Obligations.CheckUnits := by
  unfold Obligations.CheckUnits
  refine ⟨fun c t u v s hrun h29 => ⟨fun hfree h30 => ?_, fun hown hu => ?_⟩,
    fun u v s => ⟨fun c t hrun hown => ?_, rfl, rfl, rfl, rfl, rfl, rfl⟩,
    fun c t u v s _ hrun hown => ⟨fun w poly init ri ro xo hcfg h30 => ?_, ?_, ?_, ?_⟩⟩
  · rw [exec_cvuClaim, writeCvuCtrl_claim s c u h30 h29, cvuClaim_free hrun hfree]
  · rw [exec_cvuRelease, writeCvuCtrl_release (.inr (cvuClaim_taken hrun hown)) h29, cvuRelease, asOwner_owner hrun hown,
      cvuFree_noVerify hu]
  · refine ⟨congrArg done (cvuFeed_foreign hrun hown v), congrArg done (cvuFeed_foreign hrun hown v),
      congrArg done (cvuFeed_foreign hrun hown v), fun h31 h30 => ?_, fun h31 h29 => ?_⟩
    · rw [exec_cvuStart, writeCvuCtrl_start (.inl h31) h30, cvuStart, asOwner_foreign hrun hown]
    · rw [exec_cvuRelease, writeCvuCtrl_release (.inl h31) h29, cvuRelease, asOwner_foreign hrun hown]
  · rw [exec_cvuStart, writeCvuCtrl_start (.inr (cvuClaim_taken hrun hown)) h30, cvuStart, asOwner_owner hrun hown, hcfg]
  iterate 3 exact congrArg done (cvuFeed_owner hrun hown v rfl)

end Sys2Proof.Machine

/-! The thread scheduler (R357 to R361): what its operations do to threads, cores and ready lists. -/
namespace Sys2Proof.Machine

/-! ### Threads, cores and lists after an update -/

section
variable (s : State)

theorem setThread_canon {s : State} (h : s.ccs.canon) (t : Nat) (x : Thread) : (setThread s t x).ccs.canon :=
  { h with threads := tput_twf h.threads }

theorem setCore_canon {s : State} (h : s.ccs.canon) (c : Nat) (x : CoreUnit) : (setCore s c x).ccs.canon :=
  { h with cores := tput_twf h.cores }

theorem setList_canon {s : State} (h : s.ccs.canon) (p : Nat) (l : List Nat) : (setList s p l).ccs.canon :=
  { h with readyLists := tput_twf h.readyLists }

theorem threadOf_setThread {s : State} (h : s.ccs.canon) (t : Nat) (x : Thread) (j : Nat) :
    threadOf (setThread s t x) j = if j = t then x else threadOf s j := tget_tput h.threads

theorem coreOf_setCore {s : State} (h : s.ccs.canon) (c : Nat) (x : CoreUnit) (j : Nat) :
    coreOf (setCore s c x) j = if j = c then x else coreOf s j := tget_tput h.cores

theorem listOf_setList {s : State} (h : s.ccs.canon) (p : Nat) (l : List Nat) (j : Nat) :
    listOf (setList s p l) j = if j = p then l else listOf s j := tget_tput h.readyLists

@[simp] theorem threadOf_setCore (c : Nat) (x : CoreUnit) (j : Nat) : threadOf (setCore s c x) j = threadOf s j := rfl
@[simp] theorem threadOf_setList (p : Nat) (l : List Nat) (j : Nat) : threadOf (setList s p l) j = threadOf s j := rfl
@[simp] theorem threadOf_saveContext (c t j : Nat) : threadOf (saveContext s c t) j = threadOf s j := by
  simp only [threadOf, saveContext]
@[simp] theorem coreOf_setThread (t : Nat) (x : Thread) (j : Nat) : coreOf (setThread s t x) j = coreOf s j := rfl
@[simp] theorem coreOf_setList (p : Nat) (l : List Nat) (j : Nat) : coreOf (setList s p l) j = coreOf s j := rfl
@[simp] theorem coreOf_saveContext (c t j : Nat) : coreOf (saveContext s c t) j = coreOf s j := by
  simp only [coreOf, saveContext]
@[simp] theorem listOf_setThread (t : Nat) (x : Thread) (j : Nat) : listOf (setThread s t x) j = listOf s j := rfl
@[simp] theorem listOf_setCore (c : Nat) (x : CoreUnit) (j : Nat) : listOf (setCore s c x) j = listOf s j := rfl
@[simp] theorem listOf_saveContext (c t j : Nat) : listOf (saveContext s c t) j = listOf s j := by
  simp only [listOf, saveContext]

end

/-! ### Leaving a core -/

theorem leaveCore_keepsThreads (s : State) (c j : Nat) : threadOf (leaveCore s c) j = threadOf s j := by
  unfold leaveCore
  split <;> simp

theorem leaveCore_keepsLists (s : State) (c j : Nat) : listOf (leaveCore s c) j = listOf s j := by
  unfold leaveCore
  split <;> simp

theorem leaveCore_readyLists (s : State) (c : Nat) : (leaveCore s c).ccs.readyLists = s.ccs.readyLists := by
  unfold leaveCore
  split
  · simp only [saveContext, setCore]
  · rfl

theorem coreOf_leaveCore {s : State} (h : s.ccs.canon) (c j : Nat) :
    (coreOf (leaveCore s c) j).thread = if j = c then none else (coreOf s j).thread := by
  unfold leaveCore
  split
  · simp only [coreOf_saveContext, coreOf_setCore h]
    split <;> rfl
  next hnone =>
    split
    next hj => rw [hj, hnone]
    · rfl

theorem leaveCore_canon {s : State} (h : s.canon) (c : Nat) : (leaveCore s c).ccs.canon :=
  ((leaveCore_keeps s c (.refl s)).canon h).ccs

/-! ### Ready lists -/

theorem makeReady_canon {s : State} (h : s.ccs.canon) (t : Nat) (atHead : Bool) : (makeReady s t atHead).ccs.canon :=
  setList_canon (setThread_canon h _ _) _ _

theorem threadOf_makeReady {s : State} (h : s.ccs.canon) (t : Nat) (atHead : Bool) (j : Nat) :
    threadOf (makeReady s t atHead) j = if j = t then { threadOf s t with
      state := .ready, waitMask := 0, readyAt := s.tim.cyc, prio := regFld s (CCS_THR_CTRL t) 20 16
      affinity := affinityOf s t } else threadOf s j := by
  simp only [makeReady, threadOf_setList, threadOf_setThread h]

theorem listOf_makeReady {s : State} (h : s.ccs.canon) (t : Nat) (atHead : Bool) (p : Nat) :
    listOf (makeReady s t atHead) p =
      if p = regFld s (CCS_THR_CTRL t) 20 16 then (if atHead then t :: listOf s p else listOf s p ++ [t]) else listOf s p := by
  simp only [makeReady]
  rw [listOf_setList (setThread_canon h _ _)]
  split
  next hp => subst hp; simp
  · rfl

@[simp] theorem coreOf_makeReady (s : State) (t : Nat) (atHead : Bool) (j : Nat) :
    coreOf (makeReady s t atHead) j = coreOf s j := rfl

theorem noneReady_lists {s : State} (h : noneReady s) (p : Nat) : listOf s p = [] := by
  rw [listOf, h]; rfl

theorem nextThread_noneReady {s : State} (h : noneReady s) (c : Nat) : nextThread s c = none := by
  simp [nextThread, noneReady_lists h]

theorem dispatchCore_noneReady {s : State} (h : noneReady s) (c : Nat) : dispatchCore s c = s := by
  simp [dispatchCore, nextThread_noneReady h]

theorem dispatch_noneReady {s : State} (h : noneReady s) : dispatch s = s := by
  simp [dispatch, List.range_succ_eq_map, dispatchCore_noneReady h]

theorem dispatchCore_busy {s : State} {c : Nat} (h : (coreOf s c).thread ≠ none) : dispatchCore s c = s := by
  simp [dispatchCore, h]

/-! ### A thread starts on a core -/

theorem threadOf_runThread {s : State} (h : s.ccs.canon) (c t j : Nat) :
    threadOf (runThread s c t) j = if j = t then { threadOf s t with state := .running, core := c } else threadOf s j :=
  tget_tput h.threads

theorem coreOf_runThread {s : State} (h : s.ccs.canon) (c t j : Nat) :
    (coreOf (runThread s c t) j).thread = if j = c then some t else (coreOf s j).thread := by
  have : coreOf (runThread s c t) j = if j = c then _ else coreOf s j := tget_tput h.cores
  rw [this]
  split <;> rfl

theorem listOf_runThread {s : State} (h : s.ccs.canon) (c t p : Nat) : listOf (runThread s c t) p =
    if p = (threadOf s t).prio then (listOf s p).filter fun u => decide (u ≠ t) else listOf s p := by
  have : listOf (runThread s c t) p = if p = (threadOf s t).prio then _ else listOf s p := tget_tput h.readyLists
  rw [this]
  split
  next hp => rw [hp]
  · rfl

theorem runThread_canon {s : State} (h : s.canon) (c t : Nat) : (runThread s c t).canon :=
  (runThread_keeps s c t (.refl s)).canon h

end Sys2Proof.Machine

/-! Threads start, halt, wait and end (Table 13-2). -/
namespace Sys2Proof.Machine

/-- A thread stands on a ready list or runs. -/
def awake (s : State) (t : Nat) : Prop := (threadOf s t).state = .ready ∨ (threadOf s t).state = .running

theorem dispatchCore_awake {s : State} (hs : s.canon) {t : Nat} (h : awake s t) (c : Nat) : awake (dispatchCore s c) t := by
  unfold dispatchCore
  split
  · split
    next x _ =>
      unfold awake
      rw [threadOf_runThread hs.ccs]
      split
      · exact .inr rfl
      · exact h
    · exact h
  · exact h

theorem dispatch_awake {s : State} (hs : s.canon) {t : Nat} (h : awake s t) : awake (dispatch s) t := by
  unfold dispatch
  generalize List.range 8 = l
  induction l generalizing s with
  | nil => exact h
  | cons c l ih => exact ih ((dispatchCore_keeps s c (.refl s)).canon hs) (dispatchCore_awake hs h c)

theorem makeReady_awake {s : State} (hs : s.canon) (t : Nat) (atHead : Bool) : awake (makeReady s t atHead) t := by
  unfold awake
  rw [threadOf_makeReady hs.ccs, if_pos rfl]
  exact .inl rfl

theorem startThread_awake {s : State} (hs : s.canon) {t : Nat}
    (h : (threadOf s t).state = .dormant ∨ (threadOf s t).state = .halted) : awake (startThread s t) t := by
  have ready := dispatch_awake ((makeReady_keeps s t false (.refl s)).canon hs) (makeReady_awake hs t false)
  unfold startThread
  rcases h with h | h <;> simpa only [h] using ready

/-! ### The write of CCS_THR_CTRL -/

theorem exec_threadStart (t : Fin 256) (v : Word) (s : State) :
    exec (.threadStart t v) s = .next (writeThrCtrl s t (v ||| w32 (2 ^ 28))) := rfl

theorem exec_threadHalt (t : Fin 256) (v : Word) (s : State) :
    exec (.threadHalt t v) s = .next (writeThrCtrl s t (v ||| w32 (2 ^ 27))) := rfl

theorem writeThrCtrl_start (s : State) (t : Nat) {v : Word} (h : bitW v 27 = false) :
    writeThrCtrl s t (v ||| w32 (2 ^ 28)) = startThread (plainWrite s (CCS_THR_CTRL t) (v ||| w32 (2 ^ 28))) t := by
  simp only [writeThrCtrl, bitW_kick, h]
  simp

theorem writeThrCtrl_halt (s : State) (t : Nat) {v : Word} (h : bitW v 28 = false) :
    writeThrCtrl s t (v ||| w32 (2 ^ 27)) = haltThread (plainWrite s (CCS_THR_CTRL t) (v ||| w32 (2 ^ 27))) t := by
  simp only [writeThrCtrl, bitW_kick, h]
  simp

/-! ### HALT, SCH_WAIT and SCH_EXIT where no thread is READY -/

theorem plainWrite_ccs (s : State) (a : Nat) (v : Word) : (plainWrite s a v).ccs = s.ccs :=
  ccs_of_outside (w := [.reg a]) (by simp) (by simp) (by simp) (by simp)

theorem threadOf_congr {s u : State} (h : u.ccs = s.ccs) (t : Nat) : threadOf u t = threadOf s t := by
  unfold threadOf; rw [h]

theorem coreOf_congr {s u : State} (h : u.ccs = s.ccs) (c : Nat) : coreOf u c = coreOf s c := by
  unfold coreOf; rw [h]

/-- A thread that leaves its core while no other is READY takes the state it is given, and the core is free. -/
theorem leave_dispatch {s : State} (hs : s.canon) (hr : noneReady s) (c t : Nat) (x : Thread) :
    threadOf (dispatch (setThread (leaveCore s c) t x)) t = x ∧
      ∀ j, (coreOf (dispatch (setThread (leaveCore s c) t x)) j).thread = if j = c then none else (coreOf s j).thread := by
  have hn : noneReady (setThread (leaveCore s c) t x) := (leaveCore_readyLists s c).trans hr
  rw [dispatch_noneReady hn, threadOf_setThread (leaveCore_canon hs c), if_pos rfl]
  exact ⟨rfl, fun j => coreOf_leaveCore hs.ccs c j⟩

/-! ### What stays -/

section
variable {w : List Part} (hccs : .ccs ∈ w)
include hccs

@[simp] theorem makeReady_outside (s : State) (t : Nat) (atHead : Bool) : (makeReady s t atHead).outside w = s.outside w := by
  unfold makeReady
  simp [hccs]

@[simp] theorem startThread_outside (s : State) (t : Nat) : (startThread s t).outside w = s.outside w := by
  unfold startThread
  split <;> simp [hccs]

variable (hfree : .freeCount ∈ w)
include hfree

theorem writeThrCtrl_outside (s : State) {t : Nat} (hreg : mayChange w (CCS_THR_CTRL t)) (v : Word) :
    (writeThrCtrl s t v).outside w = s.outside w := by
  unfold writeThrCtrl
  simp [hccs, hfree, hreg]

@[simp] theorem schWait_outside (s : State) (c mask : Nat) : (schWait s c mask).outside w = s.outside w := by
  unfold schWait
  (repeat' split) <;> simp [hccs, hfree]

@[simp] theorem schExit_outside (s : State) (c : Nat) : (schExit s c).outside w = s.outside w := by
  unfold schExit
  split <;> simp [hccs, hfree]

end

theorem writeThrCtrl_frame {s : State} (hs : s.canon) (t : Nat) (v : Word) :
    (∀ a, a ≠ CCS_THR_CTRL t → reg (writeThrCtrl s t v) a = reg s a) ∧ onlyCores s (writeThrCtrl s t v) := by
  refine ⟨fun a ha => ?_, onlyCores_of_outside (writeThrCtrl_outside (by simp [coreParts]) (by simp [coreParts]) s
    (by simp [coreParts]) v)⟩
  exact reg_of_outside (w := [.reg (CCS_THR_CTRL t), .ccs, .freeCount]) (writeThrCtrl_outside (by simp) (by simp) s (by simp) v)
    hs ((writeThrCtrl_keeps s t v (.refl s)).canon hs) (by simp [mayChange, ha])

/-- An operation of the scheduler alone. -/
theorem scheduler_frame {s u : State} (h : ∀ w : List Part, .ccs ∈ w → .freeCount ∈ w → u.outside w = s.outside w) :
    u.regs = s.regs ∧ onlyCores s u :=
  ⟨regs_of_outside (h [.ccs, .freeCount] (by simp) (by simp)) (by simp) (by simp) (by simp),
    onlyCores_of_outside (h _ (by simp [coreParts]) (by simp [coreParts]))⟩

theorem haltThread_running {s : State} {t : Nat} (h : (threadOf s t).state = .running) : haltThread s t =
    dispatch (setThread (leaveCore s (threadOf s t).core) t { threadOf s t with state := .halted }) := by
  simp only [haltThread, h]

theorem haltThread_waiting {s : State} {t : Nat} (h : (threadOf s t).state = .waiting) : haltThread s t =
    setThread s t { threadOf s t with state := .halted, waitMask := 0 } := by
  simp only [haltThread, h]

theorem haltThread_halts {s : State} (hs : s.canon) (hr : noneReady s) {t : Nat} (h : (threadOf s t).state = .waiting ∨
    (threadOf s t).state = .running ∧ (coreOf s (threadOf s t).core).thread = some t) :
    (threadOf (haltThread s t) t).state = .halted ∧ (coreOf (haltThread s t) (threadOf s t).core).thread =
      if (threadOf s t).state = .running then none else (coreOf s (threadOf s t).core).thread := by
  rcases h with h | ⟨h, hcore⟩
  · rw [haltThread_waiting h, threadOf_setThread hs.ccs, if_pos rfl, h]
    exact ⟨rfl, rfl⟩
  · obtain ⟨hthread, hfree⟩ := leave_dispatch hs hr (threadOf s t).core t { threadOf s t with state := .halted }
    rw [haltThread_running h, hthread, hfree, if_pos rfl, if_pos h]
    exact ⟨rfl, rfl⟩

theorem bitW_mod (v : Word) {k : Nat} (h : k < 4) : bitOf (v.toNat % 16) k = bitW v k := by
  rw [bitOf_testBit, show 16 = 2 ^ 4 from rfl, Nat.testBit_mod_two_pow]
  simp [h, bitW, bitOf_testBit]

theorem schWait_waits {s : State} {c t : Nat} (h : runningOn s c = some t) {v : Word}
    (hv : ∀ k, k < 4 → bitW v k = true → ((threadOf s t).counts[k]?).getD 0 = 0) : schWait s c v.toNat =
      dispatch (setThread (leaveCore s c) t { threadOf s t with state := .waiting, waitMask := v.toNat % 16 }) := by
  have : ([0, 1, 2, 3].any fun k => bitOf (v.toNat % 16) k && decide (((threadOf s t).counts[k]?).getD 0 ≠ 0)) = false := by
    rw [List.any_eq_false]
    intro k hk
    have hk4 : k < 4 := by simp at hk; omega
    rw [bitW_mod v hk4]
    have := hv k hk4
    simpa using this
  simp only [schWait, h, this]
  rfl

theorem schWait_counted {s : State} {c t : Nat} (h : runningOn s c = some t) {v : Word} {k : Nat} (hk : k < 4)
    (hv : bitW v k = true) (hn : ((threadOf s t).counts[k]?).getD 0 ≠ 0) : schWait s c v.toNat = s := by
  have : ([0, 1, 2, 3].any fun k => bitOf (v.toNat % 16) k && decide (((threadOf s t).counts[k]?).getD 0 ≠ 0)) = true :=
    List.any_eq_true.2 ⟨k, by simp; omega, by rw [bitW_mod v hk, hv]; simpa using hn⟩
  simp only [schWait, h, this]
  rfl

theorem schExit_ends {s : State} {c t : Nat} (h : runningOn s c = some t) : schExit s c =
    dispatch (setThread (leaveCore s c) t { threadOf s t with state := .dormant }) := by
  simp only [schExit, h]

/-- Settles O11: START makes the thread READY, and no dispatch takes that away but to run it; the others leave the core
while no thread is READY, so that nothing is dispatched behind them. -/
theorem threadsStartAndHalt : Obligations.ThreadsStartAndHalt := by
  unfold Obligations.ThreadsStartAndHalt
  refine ⟨fun t v s hs h27 hst => ?_, fun t v s hs h28 hr hst => ?_,
    fun c t s hs hrun hr => ⟨fun v hv => ?_, fun v k hk hv hn => ?_, ?_⟩⟩
  · have hp := (plainWrite_keeps s (CCS_THR_CTRL t) (v ||| w32 (2 ^ 28)) (.refl s)).canon hs
    refine ⟨_, exec_threadStart t v s, ?_, writeThrCtrl_frame hs t _⟩
    rw [writeThrCtrl_start s t h27]
    exact startThread_awake hp (by simpa only [threadOf_congr (plainWrite_ccs s _ _)] using hst)
  · have hp := (plainWrite_keeps s (CCS_THR_CTRL t) (v ||| w32 (2 ^ 27)) (.refl s)).canon hs
    have hccs := plainWrite_ccs s (CCS_THR_CTRL t) (v ||| w32 (2 ^ 27))
    obtain ⟨hhalt, hcore⟩ := haltThread_halts hp ((congrArg Ccs.readyLists hccs).trans hr) (t := t)
      (by simpa only [threadOf_congr hccs, coreOf_congr hccs] using hst)
    rw [← writeThrCtrl_halt s t h28] at hhalt hcore
    refine ⟨_, exec_threadHalt t v s, hhalt, ?_, writeThrCtrl_frame hs t _⟩
    simpa only [threadOf_congr hccs, coreOf_congr hccs] using hcore
  · obtain ⟨hthread, hfree⟩ := leave_dispatch hs hr c t { threadOf s t with state := .waiting, waitMask := v.toNat % 16 }
    rw [← schWait_waits hrun hv] at hthread hfree
    exact ⟨_, rfl, hthread, by rw [hfree, if_pos rfl], scheduler_frame fun w hccs hfree => schWait_outside hccs hfree s c _⟩
  · exact congrArg done (schWait_counted hrun hk hv hn)
  · obtain ⟨hthread, hfree⟩ := leave_dispatch hs hr c t { threadOf s t with state := .dormant }
    rw [← schExit_ends hrun] at hthread hfree
    exact ⟨_, rfl, hthread, by rw [hfree, if_pos rfl], scheduler_frame fun w hccs hfree => schExit_outside hccs hfree s c⟩

end Sys2Proof.Machine

/-! Yield, pre-emption, the core-local port, timers and watchdogs. -/
namespace Sys2Proof.Machine

/-! ### Dispatch where at most one core is free -/

theorem dispatch_foldl_busy {s : State} {l : List Nat} (h : ∀ d, d ∈ l → (coreOf s d).thread ≠ none) :
    l.foldl dispatchCore s = s := by
  induction l with
  | nil => rfl
  | cons d l ih =>
    rw [List.foldl_cons, dispatchCore_busy (h d (by simp))]
    exact ih fun e he => h e (by simp [he])

theorem dispatch_busy {s : State} (h : ∀ d, d < 8 → (coreOf s d).thread ≠ none) : dispatch s = s :=
  dispatch_foldl_busy fun d hd => h d (by simpa using hd)

/-- One core is free, and takes thread `x`. -/
theorem dispatch_one {s : State} (hs : s.canon) {c x : Nat} (hc : c < 8) (hrun : coresRun s = true)
    (hfree : (coreOf s c).thread = none) (hbusy : ∀ d, d < 8 → d ≠ c → (coreOf s d).thread ≠ none)
    (hnext : nextThread s c = some x) : dispatch s = runThread s c x := by
  obtain ⟨l, r, hl⟩ := List.append_of_mem (List.mem_range.2 hc)
  have hnd := hl ▸ List.nodup_range (n := 8)
  have hmem : ∀ d, d ∈ l ∨ d ∈ r → d < 8 ∧ d ≠ c := by
    intro d hd
    refine ⟨List.mem_range.1 (hl ▸ by simpa using hd.imp id .inr), ?_⟩
    rintro rfl
    simp [List.nodup_append] at hnd
    rcases hd with hd | hd
    · exact (hnd.2.2 d hd).1 rfl
    · exact hnd.2.1.1 hd
  have hstep : dispatchCore s c = runThread s c x := by simp [dispatchCore, hrun, hfree, hnext]
  rw [dispatch, hl, List.foldl_append, dispatch_foldl_busy fun d hd => (hbusy d (hmem d (.inl hd)).1 (hmem d (.inl hd)).2),
    List.foldl_cons, hstep]
  refine dispatch_foldl_busy fun d hd => ?_
  obtain ⟨hd8, hdc⟩ := hmem d (.inr hd)
  rw [coreOf_runThread hs.ccs, if_neg hdc]
  exact hbusy d hd8 hdc

/-! ### The READY thread that R360 chooses -/

theorem mem_of_nextThread {s : State} {c x : Nat} (h : nextThread s c = some x) :
    ∃ p, p < 32 ∧ x ∈ listOf s p ∧ (listOf s p).find? (fun t => bitOf (threadOf s t).affinity c) = some x ∧
      ∀ q, p < q → q < 32 → (listOf s q).find? (fun t => bitOf (threadOf s t).affinity c) = none := by
  obtain ⟨l, p, r, hl, hp, hnone⟩ := List.findSome?_eq_some_iff.1 h
  have hmem : ∀ q, q ∈ l ++ p :: r ↔ q < 32 := fun q => by rw [← hl]; simp
  refine ⟨p, (hmem p).1 (by simp), List.mem_of_find?_eq_some hp, hp, fun q hpq hq => ?_⟩
  have hsorted : (l ++ p :: r).Pairwise (· > ·) := hl ▸ List.pairwise_reverse.2 List.pairwise_lt_range
  rw [List.pairwise_append] at hsorted
  rcases List.mem_append.1 ((hmem q).2 hq) with hq | hq
  · exact hnone q hq
  · rcases List.mem_cons.1 hq with rfl | hq
    · omega
    · have := (List.pairwise_cons.1 hsorted.2.1).1 q hq
      omega

theorem nextThread_of {s : State} {c x p : Nat} (hp : p < 32)
    (hx : (listOf s p).find? (fun t => bitOf (threadOf s t).affinity c) = some x)
    (hnone : ∀ q, p < q → q < 32 → (listOf s q).find? (fun t => bitOf (threadOf s t).affinity c) = none) :
    nextThread s c = some x := by
  unfold nextThread
  rw [List.findSome?_eq_some_iff]
  refine ⟨((List.range (31 - p)).map (p + 1 + ·)).reverse, p, (List.range p).reverse, ?_, hx, fun q hq => ?_⟩
  · rw [show 32 = (p + 1) + (31 - p) by omega, List.range_add, List.range_succ]
    simp
  · simp at hq
    obtain ⟨i, hi, rfl⟩ := hq
    exact hnone _ (by omega) (by omega)

/-! ### SCH_YIELD and PREEMPT -/

theorem leaveCore_reg (s : State) (c a : Nat) : reg (leaveCore s c) a = reg s a := by
  have : (leaveCore s c).regs = s.regs :=
    regs_of_outside (w := [.ccs, .freeCount]) (by simp) (by simp) (by simp) (by simp)
  rw [reg, this, reg]

theorem runningOn_core {s : State} {c t : Nat} (h : runningOn s c = some t) : c < 8 ∧ (coreOf s c).thread = some t := by
  unfold runningOn at h
  split at h
  next hc => exact ⟨hc, h⟩
  · cases h

/-- The yielding thread stands behind the thread that R360 chose before, whose priority is no lower. -/
theorem nextThread_yield {s : State} (hs : s.canon) {c t x : Nat} (hnext : nextThread s c = some x)
    (hprio : regFld s (CCS_THR_CTRL t) 20 16 ≤ (threadOf s x).prio) (hone : ∀ p, x ∈ listOf s p → p = (threadOf s x).prio)
    (ht : ∀ p, t ∉ listOf s p) : nextThread (makeReady (leaveCore s c) t false) c = some x := by
  obtain ⟨p, hp, hx, hfind, hnone⟩ := mem_of_nextThread hnext
  have hpx := hone p hx
  have hlist : ∀ q, listOf (makeReady (leaveCore s c) t false) q =
      if q = regFld s (CCS_THR_CTRL t) 20 16 then listOf s q ++ [t] else listOf s q := fun q => by
    rw [listOf_makeReady (leaveCore_canon hs c), leaveCore_keepsLists, regFld, regFld, leaveCore_reg]
    rfl
  have haff : ∀ q, (listOf s q).find? (fun y => bitOf (threadOf (makeReady (leaveCore s c) t false) y).affinity c) =
      (listOf s q).find? fun y => bitOf (threadOf s y).affinity c := fun q =>
    List.find?_congr fun y hy => by
      have hyt : y ≠ t := by rintro rfl; exact ht q hy
      rw [threadOf_makeReady (leaveCore_canon hs c), if_neg hyt, leaveCore_keepsThreads]
  refine nextThread_of hp ?_ fun q hpq hq => ?_
  · rw [hlist]
    split
    · rw [List.find?_append, haff, hfind]; rfl
    · rw [haff, hfind]
  · rw [hlist, if_neg (by omega), haff, hnone q hpq hq]

theorem leaveCore_canon' {s : State} (h : s.canon) (c : Nat) : (leaveCore s c).canon := (leaveCore_keeps s c (.refl s)).canon h

theorem schYield_gives {s : State} (hs : s.canon) {c t x : Nat} (hrun : runningOn s c = some t) (hcores : coresRun s = true)
    (hbusy : ∀ d, d < 8 → d ≠ c → (coreOf s d).thread ≠ none) (hnext : nextThread s c = some x)
    (hprio : regFld s (CCS_THR_CTRL t) 20 16 ≤ (threadOf s x).prio) (hone : ∀ p, x ∈ listOf s p → p = (threadOf s x).prio)
    (ht : ∀ p, t ∉ listOf s p) : schYield s c = runThread (makeReady (leaveCore s c) t false) c x := by
  have hl := leaveCore_canon' hs c
  have hcore : ∀ d, (coreOf (makeReady (leaveCore s c) t false) d).thread = if d = c then none else (coreOf s d).thread :=
    fun d => coreOf_leaveCore hs.ccs c d
  simp only [schYield, hrun, hnext, if_pos hprio]
  refine dispatch_one ((makeReady_keeps _ t false (.refl _)).canon hl) (runningOn_core hrun).1 ?_ ?_ (fun d hd hdc => ?_)
    (nextThread_yield hs hnext hprio hone ht)
  · have : (makeReady (leaveCore s c) t false).outside [.ccs, .freeCount] = s.outside [.ccs, .freeCount] := by simp
    rw [coresRun, boot_of_outside this (by simp)]
    exact hcores
  · rw [hcore, if_pos rfl]
  · rw [hcore, if_neg hdc]
    exact hbusy d hd hdc

/-- `x` runs on core `c`, which `t` has left to stand READY. -/
theorem threadOf_swap {s : State} (hs : s.canon) {c t x : Nat} (hx : x ≠ t) (atHead : Bool) :
    let u := runThread (makeReady (leaveCore s c) t atHead) c x
    (coreOf u c).thread = some x ∧ (threadOf u x).state = .running ∧ (threadOf u x).core = c ∧
      (threadOf u t).state = .ready ∧ (threadOf u t).prio = regFld s (CCS_THR_CTRL t) 20 16 := by
  have hl := leaveCore_canon hs c
  have hm := makeReady_canon hl t atHead
  dsimp only
  have ht := (threadOf_runThread hm c x t).trans (if_neg hx.symm)
  rw [threadOf_makeReady hl, if_pos rfl] at ht
  refine ⟨?_, ?_, ?_, by rw [ht], by rw [ht, regFld, leaveCore_reg, regFld]⟩
  · rw [coreOf_runThread hm, if_pos rfl]
  · rw [threadOf_runThread hm, if_pos rfl]
  · rw [threadOf_runThread hm, if_pos rfl]

theorem preempt_takes {s : State} (hs : s.canon) {c t x : Nat} (hnext : nextPreemption s = some (t, c))
    (hcore : (coreOf s c).thread = some x) (hbusy : ∀ d, d < 8 → (coreOf s d).thread ≠ none) :
    preempt s = runThread (makeReady (leaveCore s c) x true) c t := by
  simp only [preempt, hnext, hcore]
  refine dispatch_busy fun d hd => ?_
  rw [coreOf_runThread (makeReady_canon (leaveCore_canon hs c) x true)]
  split
  · simp
  next hdc =>
    rw [coreOf_makeReady, coreOf_leaveCore hs.ccs, if_neg hdc]
    exact hbusy d hd

theorem head_swap {s : State} (hs : s.canon) {c t x : Nat} (hx : x ≠ t) :
    (listOf (runThread (makeReady (leaveCore s c) x true) c t) (regFld s (CCS_THR_CTRL x) 20 16)).head? = some x := by
  have hl := leaveCore_canon hs c
  have hlist : listOf (makeReady (leaveCore s c) x true) (regFld s (CCS_THR_CTRL x) 20 16) =
      x :: listOf s (regFld s (CCS_THR_CTRL x) 20 16) := by
    rw [listOf_makeReady hl, regFld, regFld, leaveCore_reg, if_pos rfl, leaveCore_keepsLists]
    rfl
  rw [listOf_runThread (makeReady_canon hl x true), hlist]
  split
  · rw [List.filter_cons, if_pos (by simpa using hx)]; rfl
  · rfl

/-! ### The rest of the port -/

theorem schSignal_counts {s : State} {c t x k n : Nat} {v : Word} (hrun : runningOn s c = some t) (hx : x = v.toNat % 256)
    (hk : k = v.toNat / 256 % 4) (hsrc : slotSource s x k = 0x31) (hn : (threadOf s x).counts[k]? = some n) (h255 : n < 255) :
    schSignal s c v = dispatch (countSlot (setThread s t { threadOf s t with lastSignal := 1 }) x k) := by
  have hfx : fld v 7 0 = x := by simp [fld, bits, hx]
  have hfk : fld v 9 8 = k := by simp [fld, bits, hk]
  have hfull : n ≠ 255 := by omega
  simp [schSignal, hrun, hfx, hfk, hsrc, hn, hfull, b2n]

/-- A slot that is not full counts; a thread that does not wait stays as it is otherwise. -/
theorem countSlot_counts {s : State} {t k n : Nat} (hn : (threadOf s t).counts[k]? = some n) (h255 : n < 255)
    (hw : (threadOf s t).state ≠ .waiting) :
    countSlot s t k = setThread s t { threadOf s t with counts := (threadOf s t).counts.set k (n + 1) } := by
  have hfull : n ≠ 255 := by omega
  simp [countSlot, hn, hfull, hw]

theorem set_ne_reset {l : List Nat} {k n : Nat} (hn : l[k]? = some n) : l.set k (n + 1) ≠ Thread.reset.counts := by
  intro h
  have hk : k < l.length := (List.getElem?_eq_some_iff.1 hn).1
  have h1 : (l.set k (n + 1))[k]? = some (n + 1) := by simp [hk]
  rw [h] at h1
  have hlen : k < 4 := (List.getElem?_eq_some_iff.1 h1).1
  interval_cases k <;> simp [Thread.reset] at h1

/-- SCH_SIGNAL: the slot bound to the source counts, in any table of threads. -/
theorem signal_threads {s : State} {t x k n : Nat} (hn : (threadOf s x).counts[k]? = some n) (h255 : n < 255)
    (hw : (threadOf s x).state ≠ .waiting) :
    let u := countSlot (setThread s t { threadOf s t with lastSignal := 1 }) x k
    (threadOf u t).lastSignal = 1 ∧ (threadOf u x).counts = (threadOf s x).counts.set k (n + 1) ∧
      u.ccs.readyLists = s.ccs.readyLists ∧ ∀ w : List Part, .ccs ∈ w → u.outside w = s.outside w := by
  have hsig : ({ threadOf s t with lastSignal := 1 } : Thread) ≠ Thread.reset := fun h => by
    simpa [Thread.reset] using congrArg Thread.lastSignal h
  generalize hu : setThread s t _ = u
  have hut : threadOf u t = { threadOf s t with lastSignal := 1 } := hu ▸ tget_tput_value hsig
  have hux : (threadOf u x).counts = (threadOf s x).counts ∧ (threadOf u x).state = (threadOf s x).state := by
    by_cases hxt : x = t
    · rw [hxt, hut]; exact ⟨rfl, rfl⟩
    · have : threadOf u x = threadOf s x := hu ▸ tget_tput_away hsig hxt
      rw [this]; exact ⟨rfl, rfl⟩
  have hcnt : ({ threadOf u x with counts := (threadOf u x).counts.set k (n + 1) } : Thread) ≠ Thread.reset := fun h =>
    set_ne_reset (hux.1 ▸ hn) (congrArg Thread.counts h)
  dsimp only
  rw [countSlot_counts (hux.1 ▸ hn) h255 (hux.2 ▸ hw)]
  refine ⟨?_, ?_, by subst hu; rfl, fun w hw => by simp [← hu, hw]⟩
  · by_cases hxt : t = x
    · subst hxt
      have : threadOf (setThread u t _) t = _ := tget_tput_value hcnt
      rw [this, hut]
    · have : threadOf (setThread u x _) t = threadOf u t := tget_tput_away hcnt hxt
      rw [this, hut]
  · have : threadOf (setThread u x _) x = _ := tget_tput_value hcnt
    rw [this, hux.1]

/-! ### Time passing -/

theorem sourceQueue_lt (s : State) (src : Nat) : sourceQueue s src < 16 := by
  unfold sourceQueue
  split
  · exact fld_lt _ 23 20
  · exact Nat.mod_lt _ (by decide)

theorem placePacket_reg {s : State} (hs : twf regReset s.regs = true) {src a : Nat} {p : Packet} (hq : a ≠ NQ_CNT p.queue)
    (hd : a ≠ CCS_SRC_DROP src) : reg (placePacket s src p) a = reg s a := by
  have place : ∀ o : Outbox, reg (if o.packets.length < 4 then setOutbox s src { o with packets := o.packets ++ [p] }
      else latchCount (setOutbox s src { o with dropped := o.dropped + 1, droppedQueue := p.queue }) (CCS_SRC_DROP src) 15 0 1) a =
      reg s a := fun o => by
    split
    · rfl
    · exact (reg_setLatch (s := setOutbox s src _) hs _ _ _ _).trans (if_neg hd)
  unfold placePacket
  split
  · exact (reg_setLatch hs _ _ _ _).trans (if_neg hq)
  · exact place _

theorem fwNotice_reg {s : State} (hs : twf regReset s.regs = true) {src a : Nat} (n : Notice) (hq : ∀ q, q < 16 → a ≠ NQ_CNT q)
    (hd : a ≠ CCS_SRC_DROP src) : reg (fwNotice s src n) a = reg s a :=
  placePacket_reg (p := ⟨sourceQueue s src, n.words⟩) hs (hq _ (sourceQueue_lt s src)) hd

/-- While time passes no register changes but the counts of TIM's notices to firmware (R86, R372). -/
theorem tick_reg {s : State} (hs : twf regReset s.regs = true) (n : Nat) {a : Nat} (hq : ∀ q, q < 16 → a ≠ NQ_CNT q)
    (hd : a ≠ CCS_SRC_DROP 4) : reg (tick n s) a = reg s a := by
  unfold tick
  dsimp only
  generalize hu : ({ s with tim := advance (timRate s) (timSpeed s) n s.tim } : State) = u
  have hreg : u.regs = s.regs := hu ▸ rfl
  have hsame : reg u a = reg s a := congrArg (tget regReset · a) hreg
  split
  · have hnote : notice u 0x0409 0 0 false true = fwNotice u 4 ⟨0x0409, 0, u.hoop.number, 0⟩ := by simp [notice, noticeSource]
    rw [hnote]
    exact (fwNotice_reg (hreg ▸ hs) _ hq hd).trans hsame
  · exact hsame

/-! ### Timers and watchdogs -/

/-- Of the four slots of a thread one is bound to the source that occurs. -/
theorem occurThread_one {s : State} {code t k n : Nat} (hk : k < 4) (hsrc : slotSource s t k = code)
    (hother : ∀ j, j < 4 → j ≠ k → slotSource s t j ≠ code) (hn : (threadOf s t).counts[k]? = some n) (h255 : n < 255)
    (hw : (threadOf s t).state ≠ .waiting) : occurThread code s t =
      setThread s t { threadOf s t with counts := (threadOf s t).counts.set k (n + 1) } := by
  have hcount := countSlot_counts hn h255 hw
  have hafter : ∀ j, slotSource (countSlot s t k) t j = slotSource s t j := fun j => by rw [hcount]; rfl
  rw [← hcount]
  unfold occurThread
  interval_cases k <;>
    simp [hsrc, hafter, hother]

theorem timerExpiry_counts {s : State} (hs : s.canon) {t due k n : Nat} (ht : t < 256) (hdue : (threadOf s t).timer = some due)
    (hr : noneReady s) (hw : (threadOf s t).state ≠ .waiting) (hk : k < 4) (hsrc : slotSource s t k = 0x30)
    (hother : ∀ j, j < 4 → j ≠ k → slotSource s t j ≠ 0x30) (hn : (threadOf s t).counts[k]? = some n) (h255 : n < 255) :
    (threadOf (timerExpiry s t) t).timer = none ∧ (threadOf (timerExpiry s t) t).counts[k]? = some (n + 1) := by
  have hout : (runToCycle due s).outside (allBut [.ccs]) = s.outside (allBut [.ccs]) := by simp
  have hreg : reg (runToCycle due s) (CCS_THR_EV t) = reg s (CCS_THR_EV t) :=
    tick_reg hs.regs _ (fun q hq => by simp only [CCS_THR_EV, NQ_CNT]; omega) (by simp only [CCS_THR_EV, CCS_SRC_DROP]; omega)
  have hthread : threadOf (runToCycle due s) t = threadOf s t := by
    unfold threadOf; rw [threads_of_outside hout (by simp)]
  have hcanon := ((runToCycle_keeps due s (.refl s)).canon hs).ccs
  have hready : noneReady (runToCycle due s) := (readyLists_of_outside hout (by simp)).trans hr
  have hexp : timerExpiry s t =
      dispatch (occurThread 0x30 (setThread (runToCycle due s) t { threadOf s t with timer := none }) t) := by
    simp only [timerExpiry, hdue, hthread]
  generalize runToCycle due s = r at hreg hcanon hready hexp
  generalize hu : setThread r t _ = u at hexp
  have hut : threadOf u t = { threadOf s t with timer := none } := by
    rw [← hu, threadOf_setThread hcanon, if_pos rfl]
  have hslot : ∀ j, slotSource u t j = slotSource s t j := fun j => by
    have : reg u (CCS_THR_EV t) = reg s (CCS_THR_EV t) := hu ▸ hreg
    rw [slotSource, regFld, this, slotSource, regFld]
  have hone := occurThread_one (s := u) hk ((hslot k).trans hsrc) (fun j hj hjk => (hslot j).trans_ne (hother j hj hjk))
    (hut ▸ hn) h255 (hut ▸ hw)
  rw [hone, dispatch_noneReady (by subst hu; exact hready)] at hexp
  rw [hexp, threadOf_setThread (hu ▸ setThread_canon hcanon _ _), if_pos rfl, hut]
  have hlen := (List.getElem?_eq_some_iff.1 hn).1
  exact ⟨rfl, by simp [hlen]⟩

/-! ### A watchdog expires -/

theorem wdog_notCounted {c : Nat} (hc : c < 8) : ¬ noticeReg (CCS_WDOG c) := by
  unfold CCS_WDOG
  rintro (⟨q, h⟩ | ⟨k, h⟩ | ⟨m, h⟩)
  · unfold NQ_CNT at h; omega
  · unfold CCS_SRC_DROP at h; omega
  · unfold HIF_CQ_STAT at h; omega

theorem schWdog_canon {s : State} (hs : s.canon) (c : Nat) : (schWdog s c).canon := (schWdog_keeps s c (.refl s)).canon hs

theorem watchdogExpiry_halts {s : State} (hs : s.canon) {c t : Nat} (hen : regBit s (CCS_WDOG c) 31 = true)
    (hheld : wdogHeld s = false) (hrun : runningOn s c = some t) (hr : noneReady s) :
    regBit (watchdogExpiry s c) (CCS_WDOG c) 30 = true ∧ (threadOf (watchdogExpiry s c) t).state = .halted ∧
      (coreOf (watchdogExpiry s c) c).thread = none := by
  obtain ⟨hc, hcore⟩ := runningOn_core hrun
  unfold watchdogExpiry
  rw [if_pos (by simp [hen, hheld])]
  dsimp only
  generalize (coreOf s c).wdog + _ = due
  have hout : (runToCycle due s).outside (allBut [.ccs]) = s.outside (allBut [.ccs]) := by simp
  have hcanon := schWdog_canon ((runToCycle_keeps due s (.refl s)).canon hs) c
  have hready : noneReady (schWdog (runToCycle due s) c) := by
    rw [schWdog, if_pos hc]
    exact (readyLists_of_outside hout (by simp)).trans hr
  have hthread : runningOn (schWdog (runToCycle due s) c) c = some t := by
    have hsame : coreOf (runToCycle due s) c = coreOf s c := by
      unfold coreOf; rw [cores_of_outside hout (by simp)]
    rw [runningOn, if_pos hc, schWdog, if_pos hc, coreOf_setCore ((runToCycle_keeps due s (.refl s)).canon hs).ccs, if_pos rfl,
      hsame, hcore]
  generalize schWdog (runToCycle due s) c = r at hcanon hready hthread
  simp only [hthread]
  obtain ⟨hu, hucore⟩ := leave_dispatch hcanon hready c t { threadOf r t with state := .halted }
  have huready : noneReady (setThread (leaveCore r c) t { threadOf r t with state := .halted }) :=
    (leaveCore_readyLists r c).trans hready
  have hucanon := (setThread_keeps _ t { threadOf r t with state := .halted } (.refl _)).canon (leaveCore_canon' hcanon c)
  rw [dispatch_noneReady huready] at hu hucore
  generalize setThread (leaveCore r c) t { threadOf r t with state := .halted } = u at hu hucore huready hucanon
  have hlatch := regBit_latch_self hucanon.regs (CCS_WDOG c) (k := 30) (by decide)
  have hlcanon := (latch_keeps u (CCS_WDOG c) 30 (.refl u)).canon hucanon
  have hlccs : (latch u (CCS_WDOG c) 30).ccs = u.ccs :=
    ccs_of_outside (w := [.reg (CCS_WDOG c), .fresh]) (by simp) (by simp) (by simp) (by simp)
  generalize hl : latch u (CCS_WDOG c) 30 = l at hlatch hlcanon hlccs
  generalize t + savedPc u t * 2 ^ 32 = detail
  have hnote : (noticeBoth l 0x0E05 c detail).outside [.counts, .fresh, .records, .outboxes, .out] =
      l.outside [.counts, .fresh, .records, .outboxes, .out] := noticeBoth_outside (by constructor <;> simp) l _ _ _
  have hnready : noneReady (noticeBoth l 0x0E05 c detail) :=
    (readyLists_of_outside hnote (by simp)).trans ((congrArg Ccs.readyLists hlccs).trans huready)
  rw [dispatch_noneReady hnready]
  refine ⟨?_, ?_, ?_⟩
  · have hreg := reg_of_outside hnote hlcanon ((noticeBoth_keeps l _ _ _ (.refl l)).canon hlcanon) (a := CCS_WDOG c)
      (by simp [mayChange, wdog_notCounted hc])
    rw [regBit, hreg]
    exact hlatch
  · have : threadOf (noticeBoth l 0x0E05 c detail) t = threadOf u t := by
      unfold threadOf; rw [threads_of_outside hnote (by simp), hlccs]
    rw [this, hu]
  · have : coreOf (noticeBoth l 0x0E05 c detail) c = coreOf u c := by
      unfold coreOf; rw [cores_of_outside hnote (by simp), hlccs]
    rw [this, hucore, if_pos rfl]

/-- Settles O12: each command of the scheduler comes down to one update of a thread or a core, after which no thread or one
is dispatched. -/
theorem threadsAreScheduled : Obligations.ThreadsAreScheduled := by
  unfold Obligations.ThreadsAreScheduled
  refine ⟨fun c t x s hs hrun hcores hxt hbusy hnext hprio hone ht => ?_, fun c t x s hs hnext hcore hxt hbusy => ?_,
    fun c t s hrun => ⟨fun k => ?_, fun v => ?_, ?_, fun x k n v hx hk hsrc hn h255 hr hw => ?_⟩,
    fun t due k n s hs hdue hr hw hsrc hk hother hn h255 => ?_, fun c t s hs hen hheld hrun hr => ?_⟩
  · obtain ⟨hcore, hstate, hon, hready, _⟩ := threadOf_swap hs (c := c) hxt false
    rw [← schYield_gives hs hrun hcores (fun d hd hdc => hbusy ⟨d, hd⟩ (Fin.ne_of_val_ne hdc)) hnext hprio hone ht] at hcore hstate hon hready
    exact ⟨_, rfl, hcore, hstate, hon, hready, scheduler_frame fun w hccs hfree => by
      unfold schYield
      (repeat' split) <;> simp [hccs, hfree]⟩
  · obtain ⟨htcore, hstate, hon, hready, hprio⟩ := threadOf_swap hs (c := c) hxt.symm true
    have hhead := head_swap hs (c := c) hxt
    rw [← hprio] at hhead
    rw [← preempt_takes hs hnext hcore fun d hd => hbusy ⟨d, hd⟩] at htcore hstate hready hhead
    exact ⟨_, rfl, htcore, hstate, hready, hhead, scheduler_frame fun w hccs hfree => by
      unfold preempt
      (repeat' split) <;> simp [hccs, hfree]⟩
  · have hk : k.val % 4 = k.val := Nat.mod_eq_of_lt k.isLt
    exact congrArg done (by simp only [schTake, hrun, hk])
  · exact congrArg done (by simp only [schTimer, hrun]; simp [fld, bits])
  · exact congrArg done (by simp only [schWdog, if_pos c.isLt])
  · obtain ⟨hsig, hcounts, hlists, hout⟩ := signal_threads (t := t) hn h255 hw
    rw [← dispatch_noneReady (s := countSlot _ _ _) (hlists.trans hr), ← schSignal_counts hrun hx hk hsrc hn h255] at hsig hcounts
    refine ⟨_, rfl, hsig, hcounts, scheduler_frame fun w hccs hfree => ?_⟩
    rw [schSignal_counts hrun hx hk hsrc hn h255, dispatch_outside hccs]
    exact hout w hccs
  · exact ⟨_, rfl, timerExpiry_counts hs t.isLt hdue hr hw hk hsrc hother hn h255⟩
  · exact ⟨_, rfl, watchdogExpiry_halts hs hen hheld hrun hr⟩

end Sys2Proof.Machine

/-! What the operations of the notice queues leave alone. -/
namespace Sys2Proof.Machine

section
variable {w : List Part} (hregs : .regs ∈ w) (hfresh : .fresh ∈ w) (hccs : .ccs ∈ w)
include hregs hfresh hccs

@[simp] theorem countSlot_outside (s : State) (t k : Nat) : (countSlot s t k).outside w = s.outside w := by
  unfold countSlot
  simp [hregs, hfresh, hccs]

@[simp] theorem occurThread_outside (code : Nat) (s : State) (t : Nat) :
    (occurThread code s t).outside w = s.outside w := by
  unfold occurThread
  simp [hregs, hfresh, hccs]

@[simp] theorem occur_outside (s : State) (code : Nat) : (occur s code).outside w = s.outside w := by
  unfold occur
  simp [hregs, hfresh, hccs]

end

section
variable {w : List Part} (hn : Notices w) (hregs : .regs ∈ w) (hccs : .ccs ∈ w)
include hn hregs hccs

@[simp] theorem watermark_outside (s : State) (q : Nat) : (watermark s q).outside w = s.outside w := by
  unfold watermark
  simp [hn, hregs, hccs]

@[simp] theorem enqueue_outside (s : State) (q : Nat) (ws : List Word) :
    (enqueue s q ws).outside w = s.outside w := by
  unfold enqueue
  simp [hn, hregs, hccs]

end

section
variable {w : List Part} (hregs : .regs ∈ w) (hfresh : .fresh ∈ w) (houtboxes : .outboxes ∈ w)
include hregs hfresh houtboxes

@[simp] theorem dropDisabled_outside (s : State) (src : Nat) : (dropDisabled s src).outside w = s.outside w := by
  unfold dropDisabled
  dsimp only
  split
  · rfl
  · exact (foldl_outside (fun t p => latchCount_outside t (mayChange_any hregs _) hfresh _ _ _) _ _).trans
      (setOutbox_outside s houtboxes _ _)

end


end Sys2Proof.Machine

/-! Notice queues: what leaves their words alone, and what puts them in and takes them out (R367 to R375). -/
namespace Sys2Proof.Machine

/-! ### Operations that leave the queues alone -/

theorem queues_foldl {α : Type} {f : State → α → State} (hf : ∀ s a, (f s a).ccs.queues = s.ccs.queues) (l : List α)
    (s : State) : (l.foldl f s).ccs.queues = s.ccs.queues := by
  induction l generalizing s with
  | nil => rfl
  | cons a l ih => exact (ih _).trans (hf s a)

theorem dispatchCore_queues (s : State) (c : Nat) : (dispatchCore s c).ccs.queues = s.ccs.queues := by
  unfold dispatchCore
  (repeat' split) <;> rfl

theorem dispatch_queues (s : State) : (dispatch s).ccs.queues = s.ccs.queues := queues_foldl dispatchCore_queues _ s

theorem countSlot_queues (s : State) (t k : Nat) : (countSlot s t k).ccs.queues = s.ccs.queues := by
  unfold countSlot
  dsimp only
  split
  · rw [latch_ccs]
  · split <;> rfl

theorem occurThread_queues (code : Nat) (s : State) (t : Nat) : (occurThread code s t).ccs.queues = s.ccs.queues :=
  queues_foldl (fun s k => by split; exacts [countSlot_queues s t k, rfl]) _ s

theorem occur_queues (s : State) (code : Nat) : (occur s code).ccs.queues = s.ccs.queues :=
  (dispatch_queues _).trans (queues_foldl (occurThread_queues code) _ s)

theorem noticeBoth_queues (s : State) (code inst detail : Nat) :
    (noticeBoth s code inst detail).ccs.queues = s.ccs.queues :=
  queues_of_outside (w := allBut [.ccs]) (by simp) (by simp)

theorem dropDisabled_queues (s : State) (src : Nat) : (dropDisabled s src).ccs.queues = s.ccs.queues := by
  unfold dropDisabled
  dsimp only
  split
  · rfl
  · exact (queues_foldl (fun s p => by rw [latchCount_ccs]) _ _).trans rfl

/-! ### Words and the last word popped -/

/-- From `s` to `t` every queue holds the same words and the same last word popped. -/
def sameWords (s t : State) : Prop :=
  ∀ q, (queueOf t q).words = (queueOf s q).words ∧ (queueOf t q).last = (queueOf s q).last

theorem sameWords.of_queues {s t : State} (h : t.ccs.queues = s.ccs.queues) : sameWords s t := fun q => by
  unfold queueOf; rw [h]; exact ⟨rfl, rfl⟩

theorem sameWords.trans {s t u : State} (a : sameWords s t) (b : sameWords t u) : sameWords s u := fun q =>
  ⟨(b q).1.trans (a q).1, (b q).2.trans (a q).2⟩

theorem queueOf_setQueue {s : State} (hs : s.ccs.canon) (q j : Nat) (x : NQueue) :
    queueOf (setQueue s q x) j = if j = q then x else queueOf s j := tget_tput hs.queues

theorem setQueue_sameWords {s : State} (hs : s.ccs.canon) {q : Nat} {x : NQueue} (hw : x.words = (queueOf s q).words)
    (hl : x.last = (queueOf s q).last) : sameWords s (setQueue s q x) := fun j => by
  rw [queueOf_setQueue hs]
  split
  next hj => subst hj; exact ⟨hw, hl⟩
  · exact ⟨rfl, rfl⟩

theorem watermark_sameWords {s : State} (hs : s.ccs.canon) (q : Nat) : sameWords s (watermark s q) := by
  unfold watermark
  dsimp only
  generalize (if regFld s (NQ_WM q) 7 0 < regFld s (NQ_WM q) 15 8 then regFld s (NQ_WM q) 7 0
    else regFld s (NQ_WM q) 15 8 - 1) = low
  split
  · exact .of_queues rfl
  · split
    · have hset : sameWords s (setQueue s q { queueOf s q with armed := false }) := setQueue_sameWords hs rfl rfl
      generalize setQueue s q _ = u at hset
      have hocc : sameWords s (occur (latchCount u (NQ_WM q) 31 24 1) (0x20 + q)) :=
        hset.trans (.of_queues ((occur_queues _ _).trans (by rw [latchCount_ccs])))
      generalize occur _ _ = r at hocc
      split
      · exact hocc.trans (.of_queues (noticeBoth_queues r _ _ _))
      · exact hocc
    · split
      · exact (setQueue_sameWords (x := { queueOf s q with armed := true }) hs rfl rfl).trans (.of_queues (by rw [latchCount_ccs]))
      · exact .of_queues rfl

theorem enqueue_words {s : State} (hs : s.canon) (q : Nat) (ws : List Word) :
    (queueOf (enqueue s q ws) q).words = (queueOf s q).words ++ packetWords ws := by
  unfold enqueue
  dsimp only
  generalize hu : setQueue s q _ = u
  have huc := hu ▸ (setQueue_keeps s q { queueOf s q with words := (queueOf s q).words ++ packetWords ws } (.refl s)).canon hs
  have huw : (queueOf u q).words = (queueOf s q).words ++ packetWords ws := by
    rw [← hu, queueOf_setQueue hs.ccs, if_pos rfl]
  rw [(watermark_sameWords ((occur_keeps u _ (.refl u)).canon huc).ccs q q).1, (sameWords.of_queues (occur_queues u _) q).1, huw]

/-! ### Pops -/

theorem popQueue_empty {s : State} {q : Nat} (h : (queueOf s q).words = []) : popQueue s q =
    latch { setQueue s q { queueOf s q with tag := 8 } with readValue := (queueOf s q).last.toNat } (NQ_STAT q) 31 := by
  simp only [popQueue, h]

/-- From `s` to `t` the words stay, and the value read. -/
def popKept (s t : State) : Prop := sameWords s t ∧ t.readValue = s.readValue

theorem readValue_of_outside {s t : State} {w : List Part} (h : t.outside w = s.outside w) (hw : .readValue ∉ w) :
    t.readValue = s.readValue := by
  simpa [State.outside, hw] using congrArg State.readValue h

theorem popKept.trans {s t u : State} (a : popKept s t) (b : popKept t u) : popKept s u := ⟨a.1.trans b.1, b.2.trans a.2⟩

theorem popKept.refl (s : State) : popKept s s := ⟨.of_queues rfl, rfl⟩

theorem poisonCounted_kept (s : State) (bad : Bool) (q : Nat) :
    popKept s (if bad then latchCount s (NQ_CNT q) 31 16 1 else s) := by
  split
  · exact ⟨.of_queues (by rw [latchCount_ccs]), readValue_of_outside (w := allBut [.readValue]) (by simp) (by simp)⟩
  · exact .refl s

theorem poisonNoted_kept {s : State} (hs : s.canon) (c : Bool) (q : Nat) (h : Hoop) (d : Nat) : popKept s (if c then
    noticeBoth (setQueue s q { queueOf s q with poisonHoop := some h }) 0x0E03 q d else s) := by
  split
  · exact ⟨(setQueue_sameWords (x := { queueOf s q with poisonHoop := some h }) hs.ccs rfl rfl).trans
      (.of_queues (noticeBoth_queues _ _ _ _)), readValue_of_outside (w := allBut [.readValue]) (by simp) (by simp)⟩
  · exact .refl s

/-- A pop takes the head word, whatever it has to report besides (R373). -/
theorem popQueue_words {s : State} (hs : s.canon) {q : Nat} {w : QWord} {rest : List QWord} (h : (queueOf s q).words = w :: rest) :
    (popQueue s q).readValue = w.data.toNat ∧ (queueOf (popQueue s q) q).words = rest ∧
      (queueOf (popQueue s q) q).last = w.data := by
  unfold popQueue
  simp only [h]
  generalize b2n w.isEnd + _ + _ = tag
  have hset := (setQueue_keeps s q { queueOf s q with words := rest, last := w.data, tag := tag } (.refl s)).canon hs
  generalize hu : ({ setQueue s q { queueOf s q with words := rest, last := w.data, tag := tag } with
    readValue := w.data.toNat } : State) = u
  have hucanon : u.canon := hu ▸ { hset with }
  obtain ⟨huv, huw, hul⟩ : u.readValue = w.data.toNat ∧ (queueOf u q).words = rest ∧ (queueOf u q).last = w.data := by
    have : queueOf u q = { queueOf s q with words := rest, last := w.data, tag := tag } :=
      hu ▸ (queueOf_setQueue hs.ccs q q _).trans (if_pos rfl)
    rw [this]
    exact ⟨hu ▸ rfl, rfl, rfl⟩
  generalize (w.poison || w.parityBad) = bad
  have hcount := poisonCounted_kept u bad q
  have hccanon : (if bad then latchCount u (NQ_CNT q) 31 16 1 else u).canon := by
    split
    · exact (latchCount_keeps u _ _ _ _ (.refl u)).canon hucanon
    · exact hucanon
  generalize (if bad then latchCount u (NQ_CNT q) 31 16 1 else u) = v at hcount hccanon
  have hnote := poisonNoted_kept hccanon (bad && decide ((queueOf s q).poisonHoop ≠ some v.hoop.number)) q v.hoop.number
    (regFld v (NQ_CNT q) 31 16)
  generalize hx : (if (bad && decide ((queueOf s q).poisonHoop ≠ some v.hoop.number)) = true then _ else v) = x at hnote
  have hxcanon : x.canon := by
    rw [← hx]
    split
    · exact (noticeBoth_keeps _ _ _ _ (setQueue_keeps v q _ (.refl v))).canon hccanon
    · exact hccanon
  have hmark : popKept x (watermark x q) :=
    ⟨watermark_sameWords hxcanon.ccs q, readValue_of_outside (w := allBut [.readValue]) (by simp) (by simp)⟩
  obtain ⟨hwords, hvalue⟩ := (hcount.trans hnote).trans hmark
  exact ⟨hvalue.trans huv, (hwords q).1.trans huw, (hwords q).2.trans hul⟩

/-! ### Packets -/

theorem dropDisabled_sameWords (s : State) (src : Nat) : sameWords s (dropDisabled s src) :=
  .of_queues (dropDisabled_queues s src)

theorem acceptPacket_words {s : State} (hs : s.canon) {q src : Nat} {p : Packet} {rest : List Packet}
    (hsrc : nextSource s q = some src) (hp : (outboxOf s src).packets = p :: rest) (hen : nqEnabled s q = true)
    (hroom : p.words.length ≤ 512 - queueDepth s q) :
    (queueOf (acceptPacket s q) q).words = (queueOf s q).words ++ packetWords p.words := by
  have hroom' : queueRoom s q p.words.length = true := by simpa [queueRoom] using hroom
  simp only [acceptPacket, hsrc, hp, hen, hroom', Bool.not_true, Bool.false_eq_true, if_false, if_true]
  generalize hu : ({ setOutbox s src { outboxOf s src with packets := rest } with ccs := _ } : State) = u
  have huq : u.ccs.queues = s.ccs.queues := hu ▸ rfl
  have hucanon : u.canon := by
    subst hu
    exact { (setOutbox_keeps s src { outboxOf s src with packets := rest } (.refl s)).canon hs with
      ccs := { ((setOutbox_keeps s src { outboxOf s src with packets := rest } (.refl s)).canon hs).ccs with
        lastSource := tput_twf hs.ccs.lastSource } }
  have hw : (queueOf u q).words = (queueOf s q).words := (sameWords.of_queues huq q).1
  exact (dropDisabled_sameWords _ src q).1.trans ((enqueue_words hucanon q p.words).trans (by rw [hw]))

theorem queueOf_readValue (s : State) (n q : Nat) : queueOf { s with readValue := n } q = queueOf s q := rfl

theorem head_rest (ws : List Word) (n : Nat) :
    (match ws with | w :: rest => setFld w 31 24 (n - 1) :: rest | [] => []).length = ws.length := by
  cases ws <;> rfl

theorem schPost_enqueues {s : State} {c t q : Nat} (hrun : runningOn s c = some t) (hen : nqEnabled s q = true)
    (hroom : stagedLen (stagedOf s t) ≤ 512 - queueDepth s q) :
    ∃ ws, ws.length = stagedLen (stagedOf s t) ∧ schPost s c q = { enqueue s q ws with readValue := 1 } := by
  have hroom' : queueRoom s q (stagedLen (stagedOf s t)) = true := by simpa [queueRoom] using hroom
  simp only [schPost, hrun, hen, hroom', Bool.not_true, Bool.false_eq_true, if_false, if_true]
  refine ⟨_, ?_, rfl⟩
  exact (head_rest _ _).trans (by simp [tgetList])

theorem schPost_full {s : State} {c t q : Nat} (hrun : runningOn s c = some t) (hen : nqEnabled s q = true)
    (hroom : 512 - queueDepth s q < stagedLen (stagedOf s t)) :
    schPost s c q = { latch s (NQ_STAT q) 30 with readValue := 0 } := by
  have hroom' : queueRoom s q (stagedLen (stagedOf s t)) = false := by simpa [queueRoom] using hroom
  simp only [schPost, hrun, hen, hroom', Bool.not_true, Bool.false_eq_true, if_false]

/-! ### NQ_CTRL -/

theorem writeNqCtrl_empties {s : State} (hs : s.canon) {q : Nat} {v : Word} (hen : nqEnabled s q = true)
    (hv : bitW v 31 = false) : (queueOf (writeNqCtrl s q v) q).words = [] := by
  have hp := (plainWrite_keeps s (NQ_CTRL q) v (.refl s)).canon hs
  simp only [writeNqCtrl, hen, hv, Bool.not_false, Bool.and_true, if_true]
  generalize plainWrite s (NQ_CTRL q) v = u at hp
  have hdrop : ∀ x : State, sameWords x ((List.range 128).foldl dropDisabled x) := fun x =>
    .of_queues (queues_foldl dropDisabled_queues _ x)
  have hset := (setQueue_keeps u q { queueOf u q with words := [] } (.refl u)).canon hp
  rw [(hdrop _ q).1, (watermark_sameWords hset.ccs q q).1, queueOf_setQueue hp.ccs, if_pos rfl]

theorem writeNqCtrl_enables {s : State} {q : Nat} {v : Word} (hen : nqEnabled s q = false) (hv : bitW v 31 = true) :
    writeNqCtrl s q v = setQueue (plainWrite s (NQ_CTRL q) v) q { queueOf s q with last := 0 } := by
  have hq : queueOf (plainWrite s (NQ_CTRL q) v) q = queueOf s q := by unfold queueOf; rw [plainWrite_ccs]
  simp only [writeNqCtrl, hen, hv, hq, Bool.false_and, Bool.not_false, Bool.and_true, Bool.false_eq_true, if_false, if_true]

/-- Settles O13: a watermark, an event or a notice never touches the words of a queue, so that each command is left with the
one update it is about. -/
theorem queuesHoldPackets : Obligations.QueuesHoldPackets := by
  unfold Obligations.QueuesHoldPackets
  refine ⟨fun q s hs => ⟨rfl, fun c he => ?_, fun c w rest hw => ?_⟩,
    ⟨fun q src p rest s hs hsrc hp hen hroom => ?_, fun c t q s hs hrun hen hroom => ?_, fun c t q s hrun hen hroom => ?_⟩,
    fun q v s hs => ⟨fun hen hv => ?_, fun hen hv => ?_⟩⟩
  · have hset := (setQueue_keeps s q { queueOf s q with tag := 8 } (.refl s)).canon hs
    refine ⟨_, rfl, ?_⟩
    rw [popQueue_empty he]
    generalize hu : ({ setQueue s q { queueOf s q with tag := 8 } with readValue := (queueOf s q).last.toNat } : State) = u
    have huq : queueOf u q = { queueOf s q with tag := 8 } := hu ▸ (queueOf_setQueue hs.ccs q q _).trans (if_pos rfl)
    refine ⟨?_, regBit_latch_self (hu ▸ hset.regs) _ (by decide), ?_⟩
    · rw [← hu]; simp
    · rw [queueOf, latch_ccs]
      exact (congrArg NQueue.words huq).trans he
  · exact ⟨_, rfl, popQueue_words hs hw⟩
  · exact ⟨_, rfl, acceptPacket_words hs hsrc hp hen hroom⟩
  · obtain ⟨ws, hlen, hpost⟩ := schPost_enqueues hrun hen hroom
    refine ⟨_, ws, congrArg done hpost, rfl, hlen, ?_⟩
    rw [queueOf_readValue]
    exact enqueue_words hs q ws
  · exact ⟨_, congrArg done (schPost_full hrun hen hroom), rfl, latch_ccs s _ _⟩
  · exact ⟨_, rfl, writeNqCtrl_empties hs hen hv⟩
  · have hp := (plainWrite_keeps s (NQ_CTRL q) v (.refl s)).canon hs
    refine ⟨_, congrArg done (writeNqCtrl_enables hen hv), ?_, ?_, onlyCores_of_outside (by simp [coreParts])⟩ <;>
      rw [queueOf_setQueue hp.ccs, if_pos rfl]

end Sys2Proof.Machine

/-! The end of an observation window in a state whose table of cores is not canonical. -/
namespace Sys2Proof.Machine

/-- A table of cores that lists core 0 twice: no command makes one (O3), but the claim of R376 asks for no canonical state. -/
def coreTwice : State :=
  { State.reset with ccs := { Ccs.reset with cores := [(0, CoreUnit.reset), (0, { CoreUnit.reset with busy := 5 })] } }

/-- With TCLK not yet running the first entry of core 0 becomes what an unlisted core reads as and is taken out of the table;
what core 0 reads as after that is the second entry. -/
theorem obsWindowEnd_coreTwice : (coreOf (obsWindowEnd coreTwice) 0).busy = 5 := by decide +kernel

/-- Refutes O14: in a state with core 0 listed twice OBS_WINDOW_END leaves its busy count at 5. -/
theorem not_coreAccessAndWindow : ¬ Obligations.CoreAccessAndWindow := by
  unfold Obligations.CoreAccessAndWindow
  rintro ⟨⟨-, hwindow⟩, -⟩
  obtain ⟨u, hu, -, -, -, -, hbusy⟩ := hwindow coreTwice
  obtain rfl : obsWindowEnd coreTwice = u := by injection hu
  exact absurd (hbusy 0 (by decide)) (by rw [obsWindowEnd_coreTwice]; decide)

end Sys2Proof.Machine

/-! Device time: the closed form of `advance` against the single cycle of R84, and the search for the cycle that reaches a
target (R82). -/
namespace Sys2Proof.Machine

/-! ### The increment of a cycle -/

theorem tclkInc_bounds {rate : Int} (hlo : -17179869 ≤ rate) (hhi : rate ≤ 17179869) :
    17162689315 ≤ tclkInc rate ∧ tclkInc rate ≤ 17197049053 := by
  unfold tclkInc
  omega

/-- What `n` cycles add to the time in units of 2^-32 ns, the slew included. -/
def gain (rate : Int) (speed : Nat) (t : Tim) (n : Nat) : Int :=
  n * tclkInc rate + slewPart t.left (speed * ((t.blk + n) / 1024)) * 2 ^ 30

theorem slewPart_succ (left : Int) (v k : Nat) :
    slewPart left (v * (k + 1)) = slewPart left (v * k) + slewPart (left - slewPart left (v * k)) v := by
  have : v * (k + 1) = v * k + v := Nat.mul_succ v k
  rw [this]
  generalize v * k = x
  unfold slewPart
  (repeat' split) <;> omega

/-- The slew of the cycle after `n` cycles. -/
def slewStep (speed : Nat) (t : Tim) (n : Nat) : Int :=
  if (t.blk + n) % 1024 + 1 = 1024 then slewPart (t.left - slewPart t.left (speed * ((t.blk + n) / 1024))) speed else 0

theorem slewPart_step (speed : Nat) (t : Tim) (n : Nat) :
    slewPart t.left (speed * ((t.blk + (n + 1)) / 1024)) =
      slewPart t.left (speed * ((t.blk + n) / 1024)) + slewStep speed t n := by
  unfold slewStep
  split
  next h =>
    have : (t.blk + (n + 1)) / 1024 = (t.blk + n) / 1024 + 1 := by omega
    rw [this, slewPart_succ]
  next h =>
    have : (t.blk + (n + 1)) / 1024 = (t.blk + n) / 1024 := by omega
    rw [this, add_zero]

theorem gain_succ (rate : Int) (speed : Nat) (t : Tim) (n : Nat) :
    gain rate speed t (n + 1) = gain rate speed t n + (tclkInc rate + slewStep speed t n * 2 ^ 30) := by
  unfold gain
  rw [slewPart_step]
  push_cast
  ring

theorem slewStep_bounds (speed : Nat) (t : Tim) (n : Nat) : -(speed : Int) ≤ slewStep speed t n ∧ slewStep speed t n ≤ speed := by
  unfold slewStep
  split
  · exact (slewPart_le _ _).symm
  · omega

section
variable {rate : Int} {speed : Nat} {t : Tim} (hlo : -17179869 ≤ rate) (hhi : rate ≤ 17179869) (hv : speed ≤ 15)
include hlo hhi hv

/-- Each cycle moves time on, by less than two seconds' part that the carry of R84 allows for. -/
theorem step_bounds (n : Nat) : 0 < tclkInc rate + slewStep speed t n * 2 ^ 30 ∧
    tclkInc rate + slewStep speed t n * 2 ^ 30 < 2 ^ 35 := by
  have := tclkInc_bounds hlo hhi
  have := slewStep_bounds speed t n
  omega

theorem gain_mono {n m : Nat} (h : n ≤ m) : gain rate speed t n ≤ gain rate speed t m := by
  induction m, h using Nat.le_induction with
  | base => exact le_rfl
  | succ m _ ih =>
    have := (step_bounds (t := t) hlo hhi hv m).1
    rw [gain_succ]
    omega

theorem gain_le (h0 : t.blk < 1024) (n : Nat) : gain rate speed t n ≤ n * 2 ^ 35 := by
  induction n with
  | zero => simp [gain, slewPart, Nat.div_eq_of_lt h0]; omega
  | succ n ih =>
    have := (step_bounds (t := t) hlo hhi hv n).2
    rw [gain_succ]
    push_cast
    omega

theorem gain_ge (h0 : t.blk < 1024) (n : Nat) : n * 1056561955 ≤ gain rate speed t n := by
  induction n with
  | zero => simp [gain, slewPart, Nat.div_eq_of_lt h0]; omega
  | succ n ih =>
    have := slewStep_bounds speed t n
    have := tclkInc_bounds hlo hhi
    rw [gain_succ]
    push_cast
    omega

end

/-! ### `n` cycles in one step -/

theorem advance_running {rate : Int} {speed n : Nat} {t : Tim} (h : t.running = true) : advance rate speed n t =
    { t with
      acc := (t.acc + gain rate speed t n).toNat % secUnits
      sec := (t.sec + (t.acc + gain rate speed t n).toNat / secUnits) % 2 ^ 48
      left := t.left - slewPart t.left (speed * ((t.blk + n) / 1024))
      blk := (t.blk + n) % 1024
      cyc := t.cyc + n } := by
  simp only [advance, h, if_true, gain, add_assoc]

theorem tclkCycle_running {rate : Int} {speed : Nat} {t : Tim} (h : t.running = true) {d : Int}
    (hd : d = if t.blk + 1 = 1024 then slewPart t.left speed else 0) : tclkCycle rate speed t =
    { t with
      acc := if secUnits ≤ (t.acc + tclkInc rate + d * 2 ^ 30).toNat then (t.acc + tclkInc rate + d * 2 ^ 30).toNat - secUnits
        else (t.acc + tclkInc rate + d * 2 ^ 30).toNat
      sec := if secUnits ≤ (t.acc + tclkInc rate + d * 2 ^ 30).toNat then (t.sec + 1) % 2 ^ 48 else t.sec
      left := t.left - d
      blk := if t.blk + 1 = 1024 then 0 else t.blk + 1
      cyc := t.cyc + 1 } := by
  simp only [tclkCycle, h, if_true, hd]

/-- A second's carry, counted at once and cycle by cycle. -/
theorem carry_step {a x sec : Nat} (hx : x < secUnits) :
    (a + x) % secUnits = (if secUnits ≤ a % secUnits + x then a % secUnits + x - secUnits else a % secUnits + x) ∧
      (sec + (a + x) / secUnits) % 2 ^ 48 =
        if secUnits ≤ a % secUnits + x then ((sec + a / secUnits) % 2 ^ 48 + 1) % 2 ^ 48 else (sec + a / secUnits) % 2 ^ 48 := by
  have hS : secUnits = 4294967296000000000 := rfl
  rw [hS] at hx ⊢
  split <;> omega

theorem advance_zero {rate : Int} {speed : Nat} {t : Tim} (ht : t.sound) : advance rate speed 0 t = t := by
  obtain ⟨hacc, hsec, hblk⟩ := ht
  by_cases h : t.running = true
  · have hg : gain rate speed t 0 = 0 := by simp [gain, slewPart, Nat.div_eq_of_lt hblk]; omega
    have hl : slewPart t.left (speed * ((t.blk + 0) / 1024)) = 0 := by simp [slewPart, Nat.div_eq_of_lt hblk]; omega
    rw [advance_running h, hg, hl]
    have hsec' : t.sec % 281474976710656 = t.sec := Nat.mod_eq_of_lt hsec
    simp [Nat.mod_eq_of_lt hacc, Nat.div_eq_of_lt hacc, hsec', Nat.mod_eq_of_lt hblk]
  · simp [advance, h]

theorem advance_succ {rate : Int} {speed : Nat} {t : Tim} (hlo : -17179869 ≤ rate) (hhi : rate ≤ 17179869) (hv : speed ≤ 15)
    (ht : t.sound) (n : Nat) : advance rate speed (n + 1) t = tclkCycle rate speed (advance rate speed n t) := by
  by_cases h : t.running = true
  · have hrun : (advance rate speed n t).running = true := by rw [advance_running h]; exact h
    have hd : slewStep speed t n =
        if (advance rate speed n t).blk + 1 = 1024 then slewPart (advance rate speed n t).left speed else 0 := by
      rw [advance_running h]; rfl
    obtain ⟨hpos, hlt⟩ := step_bounds (t := t) hlo hhi hv n
    have hg := gain_ge hlo hhi hv ht.2.2 n
    obtain ⟨x, hx⟩ := Int.eq_ofNat_of_zero_le hpos.le
    obtain ⟨a, ha⟩ := Int.eq_ofNat_of_zero_le (show 0 ≤ t.acc + gain rate speed t n by omega)
    have hxS : x < secUnits := by
      have : secUnits = 4294967296000000000 := rfl
      omega
    obtain ⟨hmod, hdiv⟩ := carry_step (a := a) (sec := t.sec) hxS
    have hsum : (t.acc + gain rate speed t (n + 1)).toNat = a + x := by rw [gain_succ]; omega
    have hone : ∀ y : Nat, (y + tclkInc rate + slewStep speed t n * 2 ^ 30 : Int).toNat = y + x := fun y => by omega
    rw [tclkCycle_running hrun hd, advance_running h, advance_running h, hsum, hmod, hdiv]
    simp only [hone, ha, Int.toNat_natCast, Tim.mk.injEq, true_and, and_true]
    refine ⟨by rw [slewPart_step]; omega, ?_, rfl⟩
    split <;> omega
  · simp [advance, tclkCycle, h]

theorem advance_iterate {rate : Int} {speed : Nat} {t : Tim} (hlo : -17179869 ≤ rate) (hhi : rate ≤ 17179869) (hv : speed ≤ 15)
    (ht : t.sound) (n : Nat) : advance rate speed n t = (tclkCycle rate speed)^[n] t := by
  induction n with
  | zero => exact advance_zero ht
  | succ n ih => rw [advance_succ hlo hhi hv ht, ih, Function.iterate_succ_apply']

/-! ### Device time after `n` cycles -/

/-- Quarter-ns past the second at the start, `n` cycles on. -/
def quarters (rate : Int) (speed : Nat) (t : Tim) (n : Nat) : Nat := (t.acc + gain rate speed t n).toNat / 2 ^ 30

theorem q_advance {rate : Int} {speed n : Nat} {t : Tim} (h : t.running = true) :
    (advance rate speed n t).q = (t.sec * 4000000000 + quarters rate speed t n) % timeWrap := by
  rw [advance_running h]
  simp only [Tim.q, Tim.nsq, quarters, timeWrap, secUnits]
  omega

/-- On times less than half a wrap apart `reached` compares them. -/
theorem reached_iff {c b0 b target : Nat} (hq : c + b0 < timeWrap) (hb : b0 ≤ b) (hfar : b - b0 < 2 ^ 76)
    (hd : (target % timeWrap + timeWrap - (c + b0)) % timeWrap < 2 ^ 64) :
    reached ((c + b) % timeWrap) target = true ↔ (target % timeWrap + timeWrap - (c + b0)) % timeWrap ≤ b - b0 := by
  simp only [reached, decide_eq_true_eq]
  have hg : target % timeWrap < timeWrap := Nat.mod_lt _ (by decide)
  generalize target % timeWrap = g at hd hg ⊢
  simp only [show timeWrap = 1125899906842624000000000 from rfl] at *
  omega

theorem quarters_mono {rate : Int} {speed : Nat} {t : Tim} (hlo : -17179869 ≤ rate) (hhi : rate ≤ 17179869) (hv : speed ≤ 15)
    {n m : Nat} (h : n ≤ m) : quarters rate speed t n ≤ quarters rate speed t m := by
  have := gain_mono (t := t) hlo hhi hv h
  exact Nat.div_le_div_right (by omega)

/-! ### The search -/

theorem cyclesSearch_least {rate : Int} {speed : Nat} {t : Tim} {target H : Nat}
    (hmono : ∀ m n, m ≤ n → n ≤ H → reached (advance rate speed m t).q target = true →
      reached (advance rate speed n t).q target = true) (fuel lo hi : Nat) (hle : lo ≤ hi) (hH : hi ≤ H)
    (hfuel : hi - lo < 2 ^ fuel) (hbelow : ∀ n, n < lo → reached (advance rate speed n t).q target = false)
    (hhi : reached (advance rate speed hi t).q target = true) :
    reached (advance rate speed (cyclesSearch rate speed t target fuel lo hi) t).q target = true ∧
      ∀ n, n < cyclesSearch rate speed t target fuel lo hi → reached (advance rate speed n t).q target = false := by
  induction fuel generalizing lo hi with
  | zero =>
    obtain rfl : lo = hi := by simp at hfuel; omega
    exact ⟨hhi, hbelow⟩
  | succ fuel ih =>
    have hpow : 2 ^ (fuel + 1) = 2 * 2 ^ fuel := by ring
    unfold cyclesSearch
    split
    next h =>
      obtain rfl : lo = hi := by omega
      exact ⟨hhi, hbelow⟩
    next h =>
      dsimp only
      split
      next hmid => exact ih lo _ (by omega) (by omega) (by omega) hbelow hmid
      next hmid =>
        refine ih _ hi (by omega) hH (by omega) (fun n hn => ?_) hhi
        by_contra hc
        exact hmid (hmono n _ (by omega) (by omega) (by simpa using hc))

theorem timSpeed_le (s : State) : timSpeed s ≤ 15 := by
  have : regFld s TIM_CTRL 3 0 < 2 ^ 4 := fld_lt _ 3 0
  unfold timSpeed
  omega

theorem gain_zero {rate : Int} {speed : Nat} {t : Tim} (h : t.blk < 1024) : gain rate speed t 0 = 0 := by
  simp [gain, slewPart, Nat.div_eq_of_lt h]
  omega

/-- The search begins with a distance that device time covers in any case. -/
theorem cyclesSearch_spec {rate : Int} {speed : Nat} {t : Tim} (hlo : -17179869 ≤ rate) (hhi : rate ≤ 17179869)
    (hv : speed ≤ 15) (ht : t.sound) (hrun : t.running = true) {target d : Nat}
    (hd : d = (target % timeWrap + timeWrap - t.q) % timeWrap) (hfar : d < 2 ^ 64) :
    let r := cyclesSearch rate speed t target 96 0 (d * 2 + 4096)
    reached (advance rate speed r t).q target = true ∧
      ∀ n, n < r → reached (advance rate speed n t).q target = false := by
  have h0 : quarters rate speed t 0 = t.acc / 2 ^ 30 := by rw [quarters, gain_zero ht.2.2]; simp
  have hq : t.q = t.sec * 4000000000 + quarters rate speed t 0 := by rw [h0]; rfl
  obtain ⟨hacc, hsec, hblk⟩ := ht
  have hwrap : t.sec * 4000000000 + quarters rate speed t 0 < timeWrap := by
    rw [h0]; simp only [secUnits, timeWrap] at hacc ⊢; omega
  have hiff : ∀ n, n ≤ d * 2 + 4096 → (reached (advance rate speed n t).q target = true ↔
      d ≤ quarters rate speed t n - quarters rate speed t 0) := fun n hn => by
    have hup := gain_le (t := t) hlo hhi hv hblk n
    have hfar' : quarters rate speed t n - quarters rate speed t 0 < 2 ^ 76 := by
      unfold quarters
      simp only [secUnits] at hacc
      omega
    rw [q_advance hrun, reached_iff hwrap (quarters_mono hlo hhi hv (Nat.zero_le n)) hfar' (by rw [← hq, ← hd]; exact hfar),
      ← hq, ← hd]
  refine cyclesSearch_least (H := d * 2 + 4096) (fun m n hmn hn hm => ?_) 96 0 _ (Nat.zero_le _) le_rfl ?_ (fun n hn => ?_) ?_
  · rw [hiff m (by omega)] at hm
    rw [hiff n hn]
    have := quarters_mono (t := t) hlo hhi hv hmn
    omega
  · omega
  · omega
  · have := gain_ge (t := t) hlo hhi hv hblk (d * 2 + 4096)
    rw [hiff _ le_rfl, h0]
    unfold quarters
    omega

theorem cyclesTo_least {s : State} (hs : s.sound) (hr : rateAccepted s) (hrun : s.tim.running = true) {target : Nat}
    (hfar : (target % timeWrap + timeWrap - s.tim.q) % timeWrap < 2 ^ 64) :
    reached (advance (timRate s) (timSpeed s) (cyclesTo s target) s.tim).q target = true ∧
      ∀ n, n < cyclesTo s target → reached (advance (timRate s) (timSpeed s) n s.tim).q target = false := by
  obtain ⟨-, ht, -, -⟩ := hs
  obtain ⟨hlo, hhi⟩ := hr
  unfold cyclesTo
  split
  next h => exact ⟨by rw [advance_zero ht]; exact h, fun n hn => absurd hn (Nat.not_lt_zero n)⟩
  · exact cyclesSearch_spec hlo hhi (timSpeed_le s) ht hrun rfl hfar

/-! ### The commands -/

@[simp] theorem tick_tim (n : Nat) (s : State) : (tick n s).tim = advance (timRate s) (timSpeed s) n s.tim := by
  unfold tick
  dsimp only
  split
  · rw [(notice_noticesOnly _ _ _ _ _ (.refl _)).fields]
  · rfl

theorem tick_keepsRegs {s : State} (h : twf regReset s.regs = true) (n : Nat) : keepsRegs [] s (tick n s) := by
  unfold tick
  dsimp only
  generalize hu : ({ s with tim := advance (timRate s) (timSpeed s) n s.tim } : State) = u
  have hur : u.regs = s.regs := hu ▸ rfl
  split
  · exact ((regsQuiet.of_eq hur).trans (notice_noticesOnly _ _ _ _ _ (.refl u)).regs h).2
  · exact (regsQuiet.of_eq hur h).2

theorem tick_onlyTime (n : Nat) (s : State) : onlyTime s (tick n s) :=
  onlyTime_of_outside (tick_outside (by simp [timeParts, hostParts, noticeParts])
    (by constructor <;> simp [timeParts, hostParts, noticeParts, coreParts]) n s)

/-- Settles O16: a cycle of R84 moves time on by less than a second, so that its carry, counted cycle by cycle, is the division
of the whole; and device time rises with the cycles, so that halving finds the first that reaches the target. -/
theorem timeAdvances : Obligations.TimeAdvances := by
  unfold Obligations.TimeAdvances
  refine ⟨⟨fun rate speed n t ht hlo hhi hv => advance_iterate hlo hhi hv ht n, fun s hs hr hrun => ?_⟩,
    fun target s hs hr hrun hfar => ?_⟩
  · have hblk : s.tim.blk < 1024 := hs.2.1.2.2
    refine ⟨_, rfl, ?_, ?_, tick_keepsRegs hs.1 _, tick_onlyTime _ s⟩
    · rw [tick_tim, advance_running hrun]
      show (s.tim.blk + (1024 - s.tim.blk)) % 1024 = 0
      omega
    · rw [tick_tim]
      exact advance_iterate hr.1 hr.2 (timSpeed_le s) hs.2.1 _
  · obtain ⟨hreach, hbelow⟩ := cyclesTo_least hs hr hrun hfar
    exact ⟨by rw [runTo, tick_tim]; exact hreach, hbelow⟩

end Sys2Proof.Machine

/-! What the operations of the time base and the hoop generator leave alone. -/
namespace Sys2Proof.Machine

section
variable {w : List Part} (htim : .tim ∈ w)
include htim

@[simp] theorem snap_outside (s : State) : (snap s).outside w = s.outside w := by
  unfold snap
  simp [Tim.outside, htim]

@[simp] theorem adjGo_outside (s : State) : (adjGo s).outside w = s.outside w := by
  unfold adjGo
  simp [Tim.outside, htim]

end

section
variable {w : List Part} (href : .ref ∈ w)
include href

@[simp] theorem refEdge_outside (s : State) (q elapsed : Nat) : (refEdge s q elapsed).outside w = s.outside w := by
  unfold refEdge
  simp [HoopGen.outside, href]

@[simp] theorem coastOn_outside (s : State) : (coastOn s).outside w = s.outside w := by
  unfold coastOn
  simp [HoopGen.outside, href]

end

section
variable {w : List Part} (hn : Notices w) (href : .ref ∈ w)
include hn href

@[simp] theorem setRefState_outside (s : State) (r : RefState) : (setRefState s r).outside w = s.outside w := by
  unfold setRefState
  simp [HoopGen.outside, hn, href]

@[simp] theorem syncPtpRef_outside (s : State) : (syncPtpRef s).outside w = s.outside w := by
  unfold syncPtpRef
  (repeat' split) <;> simp [hn, href]

@[simp] theorem judgeRef_outside (s : State) (good : Bool) : (judgeRef s good).outside w = s.outside w := by
  unfold judgeRef
  (repeat' split) <;> simp [HoopGen.outside, hn, href]

@[simp] theorem modeChanged_outside (s : State) : (modeChanged s).outside w = s.outside w := by
  unfold modeChanged
  dsimp only
  (repeat' split) <;> simp [HoopGen.outside, hn, href]

@[simp] theorem pinEdge_outside (s : State) (q elapsed : Nat) : (pinEdge s q elapsed).outside w = s.outside w := by
  unfold pinEdge
  simp [HoopGen.outside, hn, href]

end

section
variable {w : List Part} (hn : Notices w) (htim : .tim ∈ w) (href : .ref ∈ w)
include hn htim href

@[simp] theorem setTimMode_outside (s : State) (m : TimMode) : (setTimMode s m).outside w = s.outside w := by
  unfold setTimMode
  simp [Tim.outside, hn, htim, href]

@[simp] theorem announce_outside (s : State) : (announce s).outside w = s.outside w := by
  unfold announce
  (repeat' split) <;> simp [Tim.outside, hn, htim, href]

@[simp] theorem pinTimeout_outside (s : State) : (pinTimeout s).outside w = s.outside w := by
  unfold pinTimeout
  (repeat' split) <;> simp [HoopGen.outside, hn, htim, href]

end

section
variable {w : List Part} (hn : Notices w) (hregs : .regs ∈ w) (hccs : .ccs ∈ w)
include hn hregs hccs

@[simp] theorem directPost_outside (s : State) (q : Nat) (ws : List Word) :
    (directPost s q ws).2.outside w = s.outside w := by
  unfold directPost
  (repeat' split) <;> simp [hn, hregs, hccs]

@[simp] theorem timPost_outside (s : State) (ws : List Word) : (timPost s ws).2.outside w = s.outside w := by
  unfold timPost
  simp [hn, hregs, hccs]

end

section
variable {w : List Part} (hn : Notices w) (hregs : .regs ∈ w) (hstamps : .stamps ∈ w) (hccs : .ccs ∈ w)
include hn hregs hstamps hccs

@[simp] theorem capLostNotice_outside (s : State) (i : Nat) : (capLostNotice s i).outside w = s.outside w := by
  unfold capLostNotice
  dsimp only
  split
  · have hpost : ∀ (u : State) (ws : List Word), (timPost u ws).2.outside w = u.outside w := fun u ws => by simp [hn, hregs, hccs]
    split
    next x hx => exact (congrArg (fun r : Bool × State => r.2.outside w) hx).symm.trans ((hpost _ _).trans (by simp [hn, hstamps]))
    next x hx =>
      refine (setCap_outside x hstamps _ _).trans ?_
      exact (congrArg (fun r : Bool × State => r.2.outside w) hx).symm.trans ((hpost _ _).trans (by simp [hn, hstamps]))
  · rfl

@[simp] theorem captureEdge_outside (s : State) (i q elapsed : Nat) (falling : Bool) :
    (captureEdge s i q elapsed falling).outside w = s.outside w := by
  unfold captureEdge
  simp [hn, hregs, hstamps, hccs]

@[simp] theorem stampLostNotice_outside (s : State) (p : Nat) : (stampLostNotice s p).outside w = s.outside w := by
  unfold stampLostNotice
  dsimp only
  split
  · have hpost : ∀ (u : State) (ws : List Word), (timPost u ws).2.outside w = u.outside w := fun u ws => by simp [hn, hregs, hccs]
    split
    next x hx => exact (congrArg (fun r : Bool × State => r.2.outside w) hx).symm.trans ((hpost _ _).trans (by simp [hn, hstamps]))
    next x hx =>
      refine (setStamps_outside x hstamps _ _).trans ?_
      exact (congrArg (fun r : Bool × State => r.2.outside w) hx).symm.trans ((hpost _ _).trans (by simp [hn, hstamps]))
  · rfl

end

section
variable {w : List Part} (hout : .out ∈ w)
include hout

@[simp] theorem emitTout_outside (s : State) (i : Nat) (level : Bool) (at_ : Nat) :
    (emitTout s i level at_).outside w = s.outside w := by
  unfold emitTout
  simp [hout]

end

section
variable {w : List Part} (hpulses : .pulses ∈ w) (hout : .out ∈ w)
include hpulses hout

@[simp] theorem firePulse_outside (s : State) (i : Nat) : (firePulse s i).outside w = s.outside w := by
  unfold firePulse
  dsimp only
  (repeat' split) <;> simp [hpulses, hout]

@[simp] theorem fireDue_outside (s : State) : (fireDue s).outside w = s.outside w := by
  unfold fireDue
  refine foldl_outside (fun t i => ?_) _ _
  split
  · split
    · exact firePulse_outside hpulses hout t i
    · rfl
  · rfl

end

section
variable {w : List Part} (hn : Notices w) (hpulses : .pulses ∈ w) (htim : .tim ∈ w)
include hn hpulses htim

@[simp] theorem pulseWidthEnd_outside (s : State) (i : Nat) : (pulseWidthEnd s i).outside w = s.outside w := by
  unfold pulseWidthEnd
  (repeat' split) <;> simp [hn, hpulses, htim]

@[simp] theorem pulseEdge_outside (s : State) (i : Nat) : (pulseEdge s i).outside w = s.outside w := by
  unfold pulseEdge
  (repeat' split) <;> simp [hn, hpulses, htim]

end

section
variable {w : List Part} (hpulses : .pulses ∈ w)
include hpulses

@[simp] theorem stopPulse_outside (s : State) (i : Nat) : (stopPulse s i).outside w = s.outside w := by
  unfold stopPulse
  simp [hpulses]

end

section
variable {w : List Part} (hmac : .mac ∈ w)
include hmac

@[simp] theorem removeFrames_outside (s : State) (p : Nat) (drop : TxFrame → Bool) :
    (removeFrames s p drop).outside w = s.outside w := by
  unfold removeFrames
  simp [hmac]

end

section
variable {w : List Part} (hhoop : .hoop ∈ w)
include hhoop

@[simp] theorem jumpBoundary_outside (s : State) (d : Int) : (jumpBoundary s d).outside w = s.outside w := by
  unfold jumpBoundary
  (repeat' split) <;> simp [HoopGen.outside, hhoop]

end

section
variable {w : List Part} (hn : Notices w)
include hn

@[simp] theorem wclkNotice_outside (s : State) : (wclkNotice s).outside w = s.outside w := by
  unfold wclkNotice
  simp [hn]

end

section
variable {w : List Part} (hn : Notices w) (hregs : .regs ∈ w) (hstamps : .stamps ∈ w) (htim : .tim ∈ w)
  (href : .ref ∈ w) (hccs : .ccs ∈ w)
include hn hregs hstamps htim href hccs

@[simp] theorem wclkActive_outside (s : State) (q elapsed : Nat) :
    (wclkActive s q elapsed).outside w = s.outside w := by
  unfold wclkActive
  simp [HoopGen.outside, Tim.outside, hn, hregs, hstamps, htim, href, hccs]

@[simp] theorem wclkEdge_outside (s : State) (phase : Nat) (rising : Bool) :
    (wclkEdge s phase rising).outside w = s.outside w := by
  unfold wclkEdge
  (repeat' split) <;> simp [hn, hregs, hstamps, htim, href, hccs]

end

section
variable {w : List Part} (hn : Notices w) (hregs : .regs ∈ w)
include hn hregs

@[simp] theorem pulseMissed_outside (s : State) (i edge : Nat) : (pulseMissed s i edge).outside w = s.outside w := by
  unfold pulseMissed
  simp [hn, hregs]

end

section
variable {w : List Part} (hn : Notices w) (hregs : .regs ∈ w) (hpulses : .pulses ∈ w)
include hn hregs hpulses

@[simp] theorem pulseBoundary_outside (s : State) (b len : Nat) :
    (pulseBoundary s b len).outside w = s.outside w := by
  unfold pulseBoundary
  refine foldl_outside (fun t i => ?_) _ _
  dsimp only
  (repeat' split) <;> simp [hn, hregs, hpulses]

@[simp] theorem pulseStep_outside (s : State) : (pulseStep s).outside w = s.outside w := by
  unfold pulseStep
  refine foldl_outside (fun t i => ?_) _ _
  dsimp only
  (repeat' split) <;> simp [hn, hregs, hpulses]

@[simp] theorem armPulse_outside (s : State) (i : Nat) : (armPulse s i).outside w = s.outside w := by
  unfold armPulse
  dsimp only
  (repeat' split) <;> simp [hn, hregs, hpulses]

@[simp] theorem writePulseCtrl_outside (s : State) (i : Nat) (v : Word) :
    (writePulseCtrl s i v).outside w = s.outside w := by
  unfold writePulseCtrl
  (repeat' split) <;> simp [hn, hregs, hpulses]

end

section
variable {w : List Part} (hn : Notices w) (hhoop : .hoop ∈ w)
include hn hhoop

@[simp] theorem numberBoundary_outside (s : State) : (numberBoundary s).outside w = s.outside w := by
  unfold numberBoundary
  (repeat' split) <;> simp [HoopGen.outside, hn, hhoop]

end

section
variable {w : List Part} (hregs : .regs ∈ w) (hfresh : .fresh ∈ w) (htim : .tim ∈ w)
include hregs hfresh htim

@[simp] theorem abandonSlew_outside (s : State) : (abandonSlew s).outside w = s.outside w := by
  unfold abandonSlew
  (repeat' split) <;> simp [Tim.outside, hregs, hfresh, htim]

end

section
variable {w : List Part} (hn : Notices w) (hregs : .regs ∈ w) (htim : .tim ∈ w) (href : .ref ∈ w)
include hn hregs htim href

@[simp] theorem writeMasterCtrl_outside (s : State) (v : Word) : (writeMasterCtrl s v).outside w = s.outside w := by
  unfold writeMasterCtrl
  simp [hn, hregs, htim, href]

@[simp] theorem announceTimeout_outside (s : State) : (announceTimeout s).outside w = s.outside w := by
  unfold announceTimeout
  (repeat' split) <;> simp [hn, hregs, htim, href]

end

section
variable {w : List Part} (hn : Notices w) (hregs : .regs ∈ w) (habort : .abort ∈ w)
include hn hregs habort

@[simp] theorem markAbort_outside (s : State) (cause port entry : Nat) :
    (markAbort s cause port entry).outside w = s.outside w := by
  unfold markAbort
  simp [HoopGen.outside, hn, hregs, habort]

end

section
variable {w : List Part} (hn : Notices w) (htim : .tim ∈ w) (href : .ref ∈ w)
include hn htim href

@[simp] theorem wclkTimeout_outside (s : State) : (wclkTimeout s).outside w = s.outside w := by
  unfold wclkTimeout
  (repeat' split) <;> simp [Tim.outside, hn, htim, href]

end

section
variable {w : List Part} (hn : Notices w) (htim : .tim ∈ w) (hhoop : .hoop ∈ w)
include hn htim hhoop

omit htim in
@[simp] theorem fixNext_outside (s : State) : (fixNext s).outside w = s.outside w := by
  unfold fixNext
  extract_lets t g u d n ed e limit g' h
  have hu : u.outside w = s.outside w := setHoop_outside s (grid_outside hhoop _ _)
  have hh : h.outside w = u.hoop.outside w := phase_outside hhoop _ _ _
  clear_value h u t g d n ed e limit g'
  rw [← hu]
  have hset : ∀ (b : Nat) (f : Int) (k : Option Nat) (x : Bool), (setHoop u { h with
      nextK := k, bNext := b, slewing := x, slewE := f }).outside w = u.outside w := fun _ _ _ _ =>
    setHoop_outside u (Eq.trans (b := h.outside w) (hoop_outside hhoop rfl rfl rfl rfl rfl rfl rfl rfl rfl) hh)
  have hpost : ∀ (v : State) (code d : Nat), v.outside w = u.outside w → (noticeBoth v code 0 d).outside w = u.outside w :=
    fun v code d hv => (noticeBoth_outside hn v code 0 d).trans hv
  exact ite_outside_eq (ite_outside_eq (hpost _ _ _ (hset ..)) (hset ..))
    (ite_outside_eq (ite_outside_eq (hset ..) (hpost _ _ _ (hset ..))) (hpost _ _ _ (hset ..)))

end

section
variable {w : List Part} (htim : .tim ∈ w) (habort : .abort ∈ w) (hhoop : .hoop ∈ w) (hegr : .egr ∈ w)
include htim habort hhoop hegr

omit htim in
@[simp] theorem startHoops_outside (s : State) : (startHoops s).outside w = s.outside w := by
  unfold startHoops
  simp [HoopGen.outside, habort, hhoop, hegr]

end

section
variable {w : List Part} (hn : Notices w) (hregs : .regs ∈ w) (href : .ref ∈ w) (hhoopRegs : .hoopRegs ∈ w)
include hn hregs href hhoopRegs

@[simp] theorem applyHoopRegs_outside (s : State) : (applyHoopRegs s).outside w = s.outside w := by
  have written : (s.hoop.pendingRegs.foldl (fun s w => setReg s w.1 w.2) s).outside w = s.outside w :=
    foldl_outside (fun t x => setReg_outside t (mayChange_any hregs _) _) _ _
  unfold applyHoopRegs
  dsimp only
  generalize hu : setHoop (s.hoop.pendingRegs.foldl (fun s w => setReg s w.1 w.2) s) _ = u
  have hus : u.outside w = s.outside w := by
    rw [← hu]
    exact (setHoop_outside _ (by simp [HoopGen.outside, hhoopRegs])).trans written
  split
  · exact (modeChanged_outside hn href u).trans hus
  · split
    · exact (coastOn_outside href u).trans hus
    · exact hus

end

section
variable {w : List Part} (hn : Notices w) (hregs : .regs ∈ w) (hpulses : .pulses ∈ w) (htim : .tim ∈ w)
  (href : .ref ∈ w) (hhoopRegs : .hoopRegs ∈ w) (hhoop : .hoop ∈ w) (hccs : .ccs ∈ w)
include hn hregs hpulses htim href hhoopRegs hhoop hccs

omit htim in
@[simp] theorem raiseBoundary_outside (s : State) : (raiseBoundary s).outside w = s.outside w := by
  unfold raiseBoundary
  simp [HoopGen.outside, hn, hregs, hpulses, href, hhoopRegs, hhoop, hccs]

omit htim in
@[simp] theorem dueBoundary_outside (s : State) : (dueBoundary s).outside w = s.outside w := by
  unfold dueBoundary
  dsimp only
  split
  · exact (setHoop_outside _ (early_outside hhoop _ _)).trans (by simp [hn, hregs, hpulses, href, hhoopRegs, hhoop, hccs])
  · rfl

end

section
variable {w : List Part} (hn : Notices w) (htrack : .track ∈ w) (hmac : .mac ∈ w) (hacks : .acks ∈ w)
include hn htrack hmac hacks

@[simp] theorem stamped_outside (s : State) (p id st r0 r1 : Nat) :
    (stamped s p id st r0 r1).outside w = s.outside w := by
  unfold stamped
  dsimp only
  (repeat' split) <;> simp [hn, htrack, hmac, hacks]

end

section
variable {w : List Part} (hn : Notices w) (habort : .abort ∈ w) (hhoop : .hoop ∈ w) (hwin : .win ∈ w)
  (hegr : .egr ∈ w)
include hn habort hhoop hwin hegr

@[simp] theorem stopHoops_outside (s : State) : (stopHoops s).outside w = s.outside w := by
  unfold stopHoops
  simp [HoopGen.outside, Window.outside, hn, habort, hhoop, hwin, hegr]

end

section
variable {w : List Part} (hn : Notices w) (hregs : .regs ∈ w) (hstamps : .stamps ∈ w) (href : .ref ∈ w)
  (hccs : .ccs ∈ w)
include hn hregs hstamps href hccs

@[simp] theorem tinEdge_outside (s : State) (i phase : Nat) (falling : Bool) :
    (tinEdge s i phase falling).outside w = s.outside w := by
  unfold tinEdge
  (repeat' split) <;> simp [hn, hregs, hstamps, href, hccs]

end

section
variable {w : List Part} (hn : Notices w) (hregs : .regs ∈ w) (hpulses : .pulses ∈ w) (htim : .tim ∈ w)
  (hhoop : .hoop ∈ w) (hfreeCount : .freeCount ∈ w)
include hn hregs hpulses htim hhoop hfreeCount

@[simp] theorem jump_outside (s : State) (set step : Bool) : (jump s set step).outside w = s.outside w := by
  have htime : ∀ (u : State) (a : Int), (if step then stepTime (if set then loadTime u else u.tim) a
      else if set then loadTime u else u.tim).outside w = u.tim.outside w := fun u a => by
    cases step <;> cases set <;> simp [stepTime, loadTime, Tim.outside, htim]
  unfold jump
  refine ite_outside_eq (by simp [hn, hregs]) ?_
  dsimp only
  generalize hu : fireDue (abandonSlew s) = u
  have hus : u.outside w = s.outside w := by rw [← hu]; simp [hn, hregs, hpulses, htim]
  generalize hv : setTim u _ = v
  have hvs : v.outside w = s.outside w := hv ▸ (setTim_outside u (htime u _)).trans hus
  exact ite_outside_eq (by simp [hvs, hn, hregs, hpulses, hhoop]) (by simp [hvs, hn, hregs, hpulses, hhoop, hfreeCount])

end

section
variable {w : List Part} (hn : Notices w) (hregs : .regs ∈ w) (htrack : .track ∈ w) (hegr : .egr ∈ w)
  (hmac : .mac ∈ w) (hacks : .acks ∈ w)
include hn hregs htrack hegr hmac hacks

@[simp] theorem abortPort_outside (h : Hoop) (miss : Option Nat) (s : State) (p : Nat) :
    (abortPort h miss s p).outside w = s.outside w := by
  unfold abortPort
  simp [hn, hregs, htrack, hegr, hmac, hacks]

end

section
variable {w : List Part} (hn : Notices w) (hregs : .regs ∈ w) (hpulses : .pulses ∈ w) (htim : .tim ∈ w)
  (href : .ref ∈ w) (hhoop : .hoop ∈ w) (hfreeCount : .freeCount ∈ w)
include hn hregs hpulses htim href hhoop hfreeCount

@[simp] theorem writeTimCtrl_outside (s : State) (v : Word) : (writeTimCtrl s v).outside w = s.outside w := by
  unfold writeTimCtrl
  (repeat' split) <;> simp [hn, hregs, hpulses, htim, href, hhoop, hfreeCount]

end

section
variable {w : List Part} (hn : Notices w) (hregs : .regs ∈ w) (htrack : .track ∈ w) (habort : .abort ∈ w)
  (hegr : .egr ∈ w) (hmac : .mac ∈ w) (hacks : .acks ∈ w)
include hn hregs htrack habort hegr hmac hacks

@[simp] theorem abortHoop_outside (s : State) (cause port entry : Nat) :
    (abortHoop s cause port entry).outside w = s.outside w := by
  unfold abortHoop
  (repeat' split) <;> simp [hn, hregs, htrack, habort, hegr, hmac, hacks]

end


end Sys2Proof.Machine

/-! What notices leave alone, field by field and register by register, and what the hoop generator's own operations leave of
its account of the hoops. -/
namespace Sys2Proof.Machine

/-! ### Notices -/

section
variable (s : State) (code inst detail : Nat)

theorem noticeBoth_only : NoticesOnly s (noticeBoth s code inst detail) := notice_noticesOnly code inst detail true true (.refl s)

@[simp] theorem noticeBoth_hoop : (noticeBoth s code inst detail).hoop = s.hoop := (congrArg State.hoop (noticeBoth_only ..).fields :)
@[simp] theorem noticeBoth_mac : (noticeBoth s code inst detail).mac = s.mac := (congrArg State.mac (noticeBoth_only ..).fields :)
@[simp] theorem noticeBoth_twn : (noticeBoth s code inst detail).twn = s.twn := (congrArg State.twn (noticeBoth_only ..).fields :)
@[simp] theorem noticeBoth_upd : (noticeBoth s code inst detail).upd = s.upd := (congrArg State.upd (noticeBoth_only ..).fields :)
@[simp] theorem noticeBoth_egr : (noticeBoth s code inst detail).egr = s.egr := (congrArg State.egr (noticeBoth_only ..).fields :)
@[simp] theorem noticeBoth_run : (noticeBoth s code inst detail).run = s.run := (congrArg State.run (noticeBoth_only ..).fields :)
@[simp] theorem noticeBoth_psm : (noticeBoth s code inst detail).psm = s.psm := (congrArg State.psm (noticeBoth_only ..).fields :)
@[simp] theorem noticeBoth_glb : (noticeBoth s code inst detail).glb = s.glb := (congrArg State.glb (noticeBoth_only ..).fields :)
@[simp] theorem noticeBoth_key : (noticeBoth s code inst detail).key = s.key := (congrArg State.key (noticeBoth_only ..).fields :)
@[simp] theorem noticeBoth_keep : (noticeBoth s code inst detail).keep = s.keep := (congrArg State.keep (noticeBoth_only ..).fields :)
@[simp] theorem noticeBoth_boot : (noticeBoth s code inst detail).boot = s.boot := (congrArg State.boot (noticeBoth_only ..).fields :)
@[simp] theorem noticeBoth_ing : (noticeBoth s code inst detail).ing = s.ing := (congrArg State.ing (noticeBoth_only ..).fields :)
@[simp] theorem noticeBoth_lay : (noticeBoth s code inst detail).lay = s.lay := (congrArg State.lay (noticeBoth_only ..).fields :)
@[simp] theorem noticeBoth_sti : (noticeBoth s code inst detail).sti = s.sti := (congrArg State.sti (noticeBoth_only ..).fields :)
@[simp] theorem noticeBoth_win : (noticeBoth s code inst detail).win = s.win := (congrArg State.win (noticeBoth_only ..).fields :)
@[simp] theorem noticeBoth_cfg : (noticeBoth s code inst detail).cfg = s.cfg := (congrArg State.cfg (noticeBoth_only ..).fields :)
@[simp] theorem noticeBoth_live : (noticeBoth s code inst detail).live = s.live := (congrArg State.live (noticeBoth_only ..).fields :)
@[simp] theorem noticeBoth_stages : (noticeBoth s code inst detail).stages = s.stages := (congrArg State.stages (noticeBoth_only ..).fields :)
@[simp] theorem noticeBoth_badEntry : (noticeBoth s code inst detail).badEntry = s.badEntry := (congrArg State.badEntry (noticeBoth_only ..).fields :)
@[simp] theorem noticeBoth_package : (noticeBoth s code inst detail).package = s.package := (congrArg State.package (noticeBoth_only ..).fields :)
@[simp] theorem noticeBoth_pcie : (noticeBoth s code inst detail).pcie = s.pcie := (congrArg State.pcie (noticeBoth_only ..).fields :)
@[simp] theorem noticeBoth_track : (noticeBoth s code inst detail).hif.track = s.hif.track :=
  (congrArg Hif.track (noticeBoth_only ..).hif :)

variable {s}

theorem noticeBoth_twf (h : twf regReset s.regs = true) : twf regReset (noticeBoth s code inst detail).regs = true :=
  ((noticeBoth_only ..).regs h).1

theorem reg_noticeBoth (h : twf regReset s.regs = true) {a : Nat} (ha : ¬ noticeReg a) :
    reg (noticeBoth s code inst detail) a = reg s a := ((noticeBoth_only ..).regs h).2 a (by simp) ha

end

theorem latch_twf {s : State} (h : twf regReset s.regs = true) (a k : Nat) : twf regReset (latch s a k).regs = true := by
  rw [latch, regs_setLatch]
  exact tput_twf h

theorem plainWrite_hoop (s : State) (a : Nat) (v : Word) : (plainWrite s a v).hoop = s.hoop :=
  (congrArg State.hoop (plainWrite_eq_regs s a v) :)

/-- A plain write stores in its own register only. -/
theorem reg_plainWrite {s : State} (h : twf regReset s.regs = true) {a b : Nat} (hb : b ≠ a) (v : Word) :
    reg (plainWrite s a v) b = reg s b := by
  unfold plainWrite
  split
  · rw [reg_setReg_twf h, if_neg hb]
  · rfl

theorem plainWrite_twf {s : State} (h : twf regReset s.regs = true) (a : Nat) (v : Word) :
    twf regReset (plainWrite s a v).regs = true := by
  unfold plainWrite
  split
  · exact tput_twf h
  · exact h

theorem plainWrite_keepsRegs {s : State} (h : twf regReset s.regs = true) (a : Nat) (v : Word) :
    keepsRegs [a] s (plainWrite s a v) := fun _ hb _ => reg_plainWrite h (by simpa using hb) v

/-- Registers that no notice counts in. -/
theorem notCounted {a : Nat} (h : a < 0x1180C ∨ a % 0x20 ≠ 12) (hlt : a < 0x343000) : ¬ noticeReg a := by
  rintro (⟨q, rfl⟩ | ⟨k, rfl⟩ | ⟨m, rfl⟩)
  · unfold NQ_CNT at h
    omega
  · unfold CCS_SRC_DROP at hlt
    omega
  · unfold HIF_CQ_STAT at h
    omega

/-! ### The parts of the claims' frames -/

@[simp] theorem mem_timeParts {p : Part} : p ∈ timeParts ↔ p ∈ [Part.stacks, .ref, .abort, .hoopRegs, .hoop, .pulses, .stamps,
    .tim, .track, .records, .rings, .out, .regs, .counts, .fresh, .outboxes, .shared, .ccs, .freeCount] := Iff.rfl

@[simp] theorem mem_hostParts {p : Part} : p ∈ hostParts ↔ p ∈ [Part.pulses, .stamps, .tim, .track, .records, .rings, .out,
    .regs, .counts, .fresh, .outboxes, .shared, .ccs, .freeCount] := Iff.rfl

@[simp] theorem mem_noticeParts {p : Part} : p ∈ noticeParts ↔ p ∈ [Part.track, .records, .rings, .out, .regs, .counts, .fresh,
    .outboxes, .shared, .ccs, .freeCount] := Iff.rfl

@[simp] theorem notices_timeParts : Notices timeParts := by constructor <;> simp
@[simp] theorem notices_hostParts : Notices hostParts := by constructor <;> simp
@[simp] theorem notices_noticeParts : Notices noticeParts := by constructor <;> simp

/-! ### The generator's account -/

/-- Whether hoops run, which hoop it is and where it began, and what FCLK has been told of it. -/
def HoopGen.mark (g : HoopGen) : Bool × Bool × Bool × Nat × Hoop × Hoop :=
  (g.running, g.raised, g.fDue, g.bThis, g.number, g.fNumber)

theorem mark_foldl {α : Type} {f : State → α → State} (hf : ∀ t x, (f t x).hoop.mark = t.hoop.mark) (l : List α) (s : State) :
    (l.foldl f s).hoop.mark = s.hoop.mark :=
  List.foldlRecOn (motive := fun t : State => t.hoop.mark = s.hoop.mark) l f rfl fun t ht x _ => (hf t x).trans ht

theorem mark_ite {c : Prop} [Decidable c] {s t u : State} (ht : t.hoop.mark = s.hoop.mark) (hu : u.hoop.mark = s.hoop.mark) :
    (if c then t else u).hoop.mark = s.hoop.mark := by split <;> assumption

theorem mark_of_outside {s t : State} (h : t.outside (allBut [.hoop]) = s.outside (allBut [.hoop])) :
    t.hoop.mark = s.hoop.mark := by
  simpa [State.outside, HoopGen.outside, HoopGen.mark] using congrArg (·.hoop.mark) h

theorem coastOn_mark (s : State) : (coastOn s).hoop.mark = s.hoop.mark := mark_of_outside (by simp)

theorem applyHoopRegs_mark (s : State) : (applyHoopRegs s).hoop.mark = s.hoop.mark := mark_of_outside (by simp)

theorem pulseBoundary_mark (s : State) (b len : Nat) : (pulseBoundary s b len).hoop.mark = s.hoop.mark :=
  mark_of_outside (by simp)

theorem occur_mark (s : State) (code : Nat) : (occur s code).hoop.mark = s.hoop.mark := mark_of_outside (by simp)

theorem grid_mark (g : HoopGen) (e : Nat) : HoopGen.mark { g with gridEl := e } = g.mark := rfl

theorem phase_mark (g : HoopGen) (e : Int) (k : Option Nat) : HoopGen.mark { g with phaseErr := e, nextK := k } = g.mark := rfl

theorem fixNext_mark (s : State) : (fixNext s).hoop.mark = s.hoop.mark := by
  unfold fixNext
  extract_lets t g u d n ed e limit g' h
  have hu : u.hoop.mark = s.hoop.mark := grid_mark _ _
  have hh : h.mark = u.hoop.mark := phase_mark _ _ _
  clear_value h u t g d n ed e limit g'
  rw [← hu]
  have hset : ∀ (b : Nat) (f : Int) (k : Option Nat) (x : Bool), (setHoop u { h with
      nextK := k, bNext := b, slewing := x, slewE := f }).hoop.mark = u.hoop.mark := fun _ _ _ _ => hh
  have hpost : ∀ (v : State) (code d : Nat), v.hoop.mark = u.hoop.mark → (noticeBoth v code 0 d).hoop.mark = u.hoop.mark :=
    fun v code d hv => (congrArg HoopGen.mark (noticeBoth_hoop v code 0 d)).trans hv
  exact mark_ite (mark_ite (hpost _ _ _ (hset ..)) (hset ..))
    (mark_ite (mark_ite (hset ..) (hpost _ _ _ (hset ..))) (hpost _ _ _ (hset ..)))

/-- The number that the next boundary takes (R113). -/
def nextNumber (s : State) : Hoop :=
  if s.hoop.raised then
    match s.hoop.nextK with
    | some k => if later s.hoop.number (w32 k) then w32 k else s.hoop.number + 1
    | none => s.hoop.number + 1
  else
    match s.hoop.nextK with
    | some k => w32 k
    | none => reg s HOOP_START_NUM

theorem numberBoundary_hoop (s : State) : ∃ b, (numberBoundary s).hoop = { s.hoop with number := nextNumber s, aligned := b } := by
  generalize hn : nextNumber s = n
  unfold nextNumber at hn
  unfold numberBoundary
  cases hr : s.hoop.raised <;> cases hk : s.hoop.nextK <;> simp only [hr, hk, if_true, Bool.false_eq_true, if_false] at hn
  case false.none => subst hn; exact ⟨_, rfl⟩
  case false.some => subst hn; exact ⟨_, rfl⟩
  case true.none => subst hn; exact ⟨_, rfl⟩
  case true.some k =>
    simp only [Bool.not_true, Bool.false_eq_true, if_false]
    split at hn
    next hl => subst hn; exact ⟨_, congrArg State.hoop (if_pos hl)⟩
    next hl => subst hn; exact ⟨_, (congrArg State.hoop (if_neg hl)).trans (noticeBoth_hoop ..)⟩

/-- Raising the boundary makes it this hoop's, numbered, and due at FCLK. -/
theorem raiseBoundary_mark (s : State) : (raiseBoundary s).hoop.mark =
    (s.hoop.running, true, true, s.hoop.bNext, nextNumber s, s.hoop.fNumber) := by
  obtain ⟨b, hn⟩ := numberBoundary_hoop s
  unfold raiseBoundary
  extract_lets first numbered old marked coasted applied told fixed pulsed
  have hm : marked.hoop.mark = (s.hoop.running, true, true, s.hoop.bNext, nextNumber s, s.hoop.fNumber) := by
    simp only [marked, numbered, old, setHoop, hn, HoopGen.mark]
  clear_value marked
  have hcoasted : coasted.hoop.mark = marked.hoop.mark := mark_ite (coastOn_mark marked) rfl
  have happlied : applied.hoop.mark = coasted.hoop.mark := applyHoopRegs_mark coasted
  have htold : told.hoop.mark = applied.hoop.mark := mark_ite (congrArg _ (noticeBoth_hoop ..)) rfl
  have hfixed : fixed.hoop.mark = told.hoop.mark := fixNext_mark told
  have hpulsed : pulsed.hoop.mark = fixed.hoop.mark := pulseBoundary_mark ..
  clear_value coasted applied told fixed pulsed
  rw [occur_mark, hpulsed, hfixed, htold, happlied, hcoasted, hm]

end Sys2Proof.Machine

/-! TIM_RATE and the kicks of TIM_CTRL (R85 to R88, R100). -/
namespace Sys2Proof.Machine

/-! ### TIM_RATE -/

theorem regRow_timRate : regRow TIM_RATE = some ⟨0x80008, 0, 0, 1, 0, 0xFFFFFFFF, 0, [], 0⟩ := by decide +kernel

/-- Every bit of TIM_RATE is a Set field's. -/
theorem plainWrite_timRate (s : State) (v : Word) : plainWrite s TIM_RATE v = setReg s TIM_RATE v := by
  rw [plainWrite_row regRow_timRate]
  refine congrArg _ (word_eq_of_bitW fun k hk => bitW_written_set rfl rfl _ _ v ?_)
  have hall : ∀ k, k < 32 → bitW (w32 0xFFFFFFFF) k = true := by decide
  exact hall k hk

theorem writeTimRate_holdover {s : State} (h : s.tim.mode = .holdover) (v : Word) :
    writeTimRate s v = latch s TIM_STATUS 27 := if_pos h

theorem writeTimRate_accepted {s : State} (h : s.tim.mode ≠ .holdover) {v : Word} (hlo : -17179869 ≤ sext 32 v.toNat)
    (hhi : sext 32 v.toNat ≤ 17179869) : writeTimRate s v = setReg s TIM_RATE v := by
  rw [← plainWrite_timRate]
  exact (if_neg h).trans (if_pos ⟨hlo, hhi⟩)

theorem writeTimRate_refused {s : State} (h : s.tim.mode ≠ .holdover) {v : Word}
    (hv : sext 32 v.toNat < -17179869 ∨ 17179869 < sext 32 v.toNat) : writeTimRate s v = latch s TIM_STATUS 28 :=
  (if_neg h).trans (if_neg (by omega))

/-! ### A boundary of the same cycle -/

theorem dueBoundary_none {s : State} (h : noBoundaryDue s) : dueBoundary s = s := by
  unfold noBoundaryDue at h
  simp only [dueBoundary, h]
  rfl

theorem dueBoundary_fDue {s : State} (h : s.hoop.fDue = true) : dueBoundary s = s := by
  simp [dueBoundary, h]

/-! ### One kick of TIM_CTRL -/

theorem bitW_of_lt {v : Word} {n k : Nat} (h : v.toNat < 2 ^ n) (hk : n ≤ k) : bitW v k = false := by
  rw [bitW, bitOf_testBit]
  exact Nat.testBit_lt_two_pow (h.trans_le (Nat.pow_le_pow_right (by decide) hk))

section
variable {s : State} {v : Word} (hv : v.toNat < 2 ^ 27)
include hv

theorem writeTimCtrl_snap : writeTimCtrl s (v ||| w32 (2 ^ 31)) = snap (plainWrite s TIM_CTRL (v ||| w32 (2 ^ 31))) := by
  simp only [writeTimCtrl, bitW_kick, bitW_of_lt hv (show 27 ≤ 31 by decide), bitW_of_lt hv (show 27 ≤ 30 by decide),
    bitW_of_lt hv (show 27 ≤ 29 by decide), bitW_of_lt hv (show 27 ≤ 28 by decide), bitW_of_lt hv (le_refl 27)]
  simp

theorem writeTimCtrl_set (h : s.tim.mode ≠ .holdover) :
    writeTimCtrl s (v ||| w32 (2 ^ 30)) = jump (plainWrite s TIM_CTRL (v ||| w32 (2 ^ 30))) true false := by
  simp only [writeTimCtrl, bitW_kick, bitW_of_lt hv (show 27 ≤ 31 by decide), bitW_of_lt hv (show 27 ≤ 30 by decide),
    bitW_of_lt hv (show 27 ≤ 29 by decide), bitW_of_lt hv (show 27 ≤ 28 by decide), bitW_of_lt hv (le_refl 27)]
  simp [h]

theorem writeTimCtrl_step (h : s.tim.mode ≠ .holdover) :
    writeTimCtrl s (v ||| w32 (2 ^ 29)) = jump (plainWrite s TIM_CTRL (v ||| w32 (2 ^ 29))) false true := by
  simp only [writeTimCtrl, bitW_kick, bitW_of_lt hv (show 27 ≤ 31 by decide), bitW_of_lt hv (show 27 ≤ 30 by decide),
    bitW_of_lt hv (show 27 ≤ 29 by decide), bitW_of_lt hv (show 27 ≤ 28 by decide), bitW_of_lt hv (le_refl 27)]
  simp [h]

theorem writeTimCtrl_adjGo (h : s.tim.mode ≠ .holdover) :
    writeTimCtrl s (v ||| w32 (2 ^ 28)) = adjGo (plainWrite s TIM_CTRL (v ||| w32 (2 ^ 28))) := by
  simp only [writeTimCtrl, bitW_kick, bitW_of_lt hv (show 27 ≤ 31 by decide), bitW_of_lt hv (show 27 ≤ 30 by decide),
    bitW_of_lt hv (show 27 ≤ 29 by decide), bitW_of_lt hv (show 27 ≤ 28 by decide), bitW_of_lt hv (le_refl 27)]
  simp [h]

theorem writeTimCtrl_refused (h : s.tim.mode = .holdover) {k : Nat} (hk : k = 28 ∨ k = 29 ∨ k = 30) :
    writeTimCtrl s (v ||| w32 (2 ^ k)) = latch (plainWrite s TIM_CTRL (v ||| w32 (2 ^ k))) TIM_STATUS 27 := by
  simp only [writeTimCtrl, bitW_kick, bitW_of_lt hv (show 27 ≤ 31 by decide), bitW_of_lt hv (show 27 ≤ 30 by decide),
    bitW_of_lt hv (show 27 ≤ 29 by decide), bitW_of_lt hv (show 27 ≤ 28 by decide), bitW_of_lt hv (le_refl 27)]
  rcases hk with rfl | rfl | rfl <;> simp [h]

end

theorem dueBoundary_twice (s : State) : dueBoundary (dueBoundary s) = dueBoundary s := by
  by_cases h : noBoundaryDue s
  · rw [dueBoundary_none h, dueBoundary_none h]
  · refine dueBoundary_fDue ?_
    have hmark := congrArg (·.2.2.1) (raiseBoundary_mark s)
    unfold noBoundaryDue at h
    rw [Bool.not_eq_false] at h
    unfold dueBoundary
    rw [if_pos h]
    exact hmark

/-! ### A jump of device time -/

theorem abandonSlew_tim (s : State) : (abandonSlew s).tim = { s.tim with left := 0 } := by
  unfold abandonSlew
  split
  next h => rw [← h]
  · exact latch_tim ..

theorem abandonSlew_twf {s : State} (h : twf regReset s.regs = true) : twf regReset (abandonSlew s).regs = true := by
  unfold abandonSlew
  split
  · exact h
  · exact latch_twf (s := setTim s { s.tim with left := 0 }) h ..

theorem reg_abandonSlew_other {s : State} (h : twf regReset s.regs = true) {a : Nat} (ha : a ≠ TIM_STATUS) :
    reg (abandonSlew s) a = reg s a := by
  unfold abandonSlew
  split
  · rfl
  · exact (reg_latch_other (s := setTim s { s.tim with left := 0 }) h _ ha).trans rfl

/-- The state in which a jump reads its registers and device time. -/
def beforeJump (s : State) : State := fireDue (abandonSlew s)

theorem beforeJump_tim (s : State) : ∃ ps, (beforeJump s).tim = { s.tim with left := 0, pulses := ps } :=
  ⟨_, (show (beforeJump s).tim = _ from fireDue_pulsesOnly (abandonSlew s)).trans (by rw [abandonSlew_tim])⟩

theorem reg_beforeJump {s : State} (h : twf regReset s.regs = true) {a : Nat} (ha : a ≠ TIM_STATUS) :
    reg (beforeJump s) a = reg s a := by
  have : reg (beforeJump s) a = reg (abandonSlew s) a := by unfold beforeJump reg; rw [fireDue_regs]
  rw [this, reg_abandonSlew_other h ha]

/-- The device time that a jump leaves. -/
def jumpTime (s : State) (set step : Bool) : Tim :=
  if step then stepTime (if set then loadTime s else s.tim) (sext 32 (reg s TIM_STEP).toNat) else if set then loadTime s else s.tim

theorem jumpBoundary_tim (s : State) (d : Int) : (jumpBoundary s d).tim = s.tim := by
  unfold jumpBoundary
  split <;> rfl

theorem jump_tim {s : State} {set step : Bool} (h : ¬(set = true ∧ 4000000000 ≤ (reg s TIM_SET_NSQ).toNat)) {m : Tim}
    (hm : jumpTime (beforeJump s) set step = m) : ∃ ps, (jump s set step).tim = { m with pulses := ps } := by
  unfold jump
  rw [if_neg (by simpa using h)]
  extract_lets u amount t d moved jumped v
  have hmoved : moved = m := hm
  have hjumped : jumped.tim = moved := jumpBoundary_tim ..
  have hv : pulsesOnly jumped v := pulseStep_pulsesOnly _
  clear_value v jumped moved
  subst hmoved hjumped
  have hpulses : ∀ x : State, x.tim = v.tim → ∃ ps, x.tim = { jumped.tim with pulses := ps } := fun x hx =>
    ⟨_, Eq.trans hx hv⟩
  by_cases hd : -(2 ^ 63 : Int) ≤ d ∧ d < 2 ^ 63
  · rw [if_pos hd]
    exact hpulses _ (noticeBoth_tim ..)
  · rw [if_neg hd]
    exact hpulses _ ((noticeBoth_tim ..).trans rfl)

theorem stepTime_q (t : Tim) (d : Int) : (stepTime t d).q = moveQ t.q d := by
  generalize hq : moveQ t.q d = q
  have hacc : (q % 4000000000 * 2 ^ 30 + t.acc % 2 ^ 30) / 2 ^ 30 = q % 4000000000 := by omega
  have : (stepTime t d).q = q / 4000000000 * 4000000000 + (q % 4000000000 * 2 ^ 30 + t.acc % 2 ^ 30) / 2 ^ 30 := by
    rw [← hq]; rfl
  rw [this, hacc]
  omega

/-! ### Frames of a kick -/

theorem writeTimCtrl_onlyTime (s : State) (v : Word) : onlyTime s (writeTimCtrl s v) :=
  onlyTime_of_outside (by simp)

theorem exec_timCtrl {s u : State} (h : noBoundaryDue s) (v : Word) (hu : writeTimCtrl s v = u) :
    done (timCtrlWrite s v) = .next u := by
  rw [timCtrlWrite, dueBoundary_none h, hu, done]

theorem holdRefused_kick {s : State} (hs : s.sound) {v : Word} (hv : v.toNat < 2 ^ 27) (h : s.tim.mode = .holdover) {k : Nat}
    (hk : k = 28 ∨ k = 29 ∨ k = 30) : holdRefused s (writeTimCtrl s (v ||| w32 (2 ^ k))) := by
  have hframe := writeTimCtrl_onlyTime s (v ||| w32 (2 ^ k))
  rw [writeTimCtrl_refused hv h hk] at hframe ⊢
  have htwf := plainWrite_twf hs.1 TIM_CTRL (v ||| w32 (2 ^ k))
  refine ⟨by simp, regBit_latch_self htwf _ (by decide), fun a ha hn => ?_, hframe⟩
  simp only [List.mem_cons, List.not_mem_nil, or_false, not_or] at ha
  rw [reg_latch_other htwf _ ha.2, reg_plainWrite hs.1 ha.1]

/-- What the registers of a jump hold as it is judged. -/
theorem reg_jumped {s : State} (hs : s.sound) (v : Word) {a : Nat} (h1 : a ≠ TIM_CTRL) (h2 : a ≠ TIM_STATUS) :
    reg (beforeJump (plainWrite s TIM_CTRL v)) a = reg s a := by
  rw [reg_beforeJump (plainWrite_twf hs.1 _ _) h2, reg_plainWrite hs.1 h1]

theorem q_congr {t u : Tim} (hsec : u.sec = t.sec) (hacc : u.acc = t.acc) : u.q = t.q := by
  simp only [Tim.q, Tim.nsq, hsec, hacc]

theorem jump_time {s : State} {set step : Bool} (h : ¬(set = true ∧ 4000000000 ≤ (reg s TIM_SET_NSQ).toNat)) :
    (jump s set step).tim.sec = (jumpTime (beforeJump s) set step).sec ∧
    (jump s set step).tim.acc = (jumpTime (beforeJump s) set step).acc ∧
    (jump s set step).tim.left = (jumpTime (beforeJump s) set step).left := by
  obtain ⟨ps, hps⟩ := jump_tim h rfl
  exact ⟨(congrArg Tim.sec hps :), (congrArg Tim.acc hps :), (congrArg Tim.left hps :)⟩

theorem beforeJump_time (s : State) : (beforeJump s).tim.left = 0 ∧ (beforeJump s).tim.q = s.tim.q := by
  obtain ⟨ps, hps⟩ := beforeJump_tim s
  exact ⟨(congrArg Tim.left hps :), q_congr (congrArg Tim.sec hps :) (congrArg Tim.acc hps :)⟩

theorem loadTime_left (s : State) : (loadTime s).left = s.tim.left := rfl

theorem stepTime_left (t : Tim) (d : Int) : (stepTime t d).left = t.left := rfl

theorem timSet_loads {s : State} (hs : s.sound) {v : Word} (hv : v.toNat < 2 ^ 27) (h : s.tim.mode ≠ .holdover)
    (hn : (reg s TIM_SET_NSQ).toNat < 4000000000) : ∃ u, writeTimCtrl s (v ||| w32 (2 ^ 30)) = u ∧
      u.tim.sec = (reg s TIM_TIME_HI).toNat % 65536 * 2 ^ 32 + (reg s TIM_SET_LO).toNat ∧
      u.tim.acc = (reg s TIM_SET_NSQ).toNat * 2 ^ 30 ∧ u.tim.left = 0 := by
  have hnsq : reg (plainWrite s TIM_CTRL (v ||| w32 (2 ^ 30))) TIM_SET_NSQ = reg s TIM_SET_NSQ :=
    reg_plainWrite hs.1 (by decide) _
  obtain ⟨hsec, hacc, hleft⟩ := jump_time (s := plainWrite s TIM_CTRL (v ||| w32 (2 ^ 30))) (set := true) (step := false)
    (by rw [hnsq]; omega)
  have hhi := reg_jumped hs (v ||| w32 (2 ^ 30)) (show TIM_TIME_HI ≠ TIM_CTRL by decide) (by decide)
  have hlo := reg_jumped hs (v ||| w32 (2 ^ 30)) (show TIM_SET_LO ≠ TIM_CTRL by decide) (by decide)
  have hsub := reg_jumped hs (v ||| w32 (2 ^ 30)) (show TIM_SET_NSQ ≠ TIM_CTRL by decide) (by decide)
  have hkept := (beforeJump_time (plainWrite s TIM_CTRL (v ||| w32 (2 ^ 30)))).1
  generalize beforeJump (plainWrite s TIM_CTRL (v ||| w32 (2 ^ 30))) = b at *
  refine ⟨_, writeTimCtrl_set hv h, hsec.trans ?_, hacc.trans ?_, hleft.trans ?_⟩
  · rw [← hhi, ← hlo]
    simp [jumpTime, loadTime, regFld, fld, bits]
  · rw [← hsub]
    simp [jumpTime, loadTime]
  · simpa [jumpTime, loadTime_left] using hkept

theorem timStep_moves {s : State} (hs : s.sound) {v : Word} (hv : v.toNat < 2 ^ 27) (h : s.tim.mode ≠ .holdover) :
    ∃ u, writeTimCtrl s (v ||| w32 (2 ^ 29)) = u ∧ u.tim.q = moveQ s.tim.q (sext 32 (reg s TIM_STEP).toNat) ∧ u.tim.left = 0 := by
  obtain ⟨hsec, hacc, hleft⟩ := jump_time (s := plainWrite s TIM_CTRL (v ||| w32 (2 ^ 29))) (set := false) (step := true) (by simp)
  have hstep := reg_jumped hs (v ||| w32 (2 ^ 29)) (show TIM_STEP ≠ TIM_CTRL by decide) (by decide)
  obtain ⟨hzero, hq⟩ := beforeJump_time (plainWrite s TIM_CTRL (v ||| w32 (2 ^ 29)))
  rw [plainWrite_tim] at hq
  generalize beforeJump (plainWrite s TIM_CTRL (v ||| w32 (2 ^ 29))) = b at *
  refine ⟨_, writeTimCtrl_step hv h, (q_congr hsec hacc).trans ?_, hleft.trans ?_⟩
  · simp only [jumpTime, if_true, Bool.false_eq_true, if_false]
    rw [stepTime_q, hq, hstep]
  · simpa [jumpTime, stepTime_left] using hzero

theorem timAdjGo_slews {s : State} (hs : s.sound) {v : Word} (hv : v.toNat < 2 ^ 27) (h : s.tim.mode ≠ .holdover) :
    ∃ u, writeTimCtrl s (v ||| w32 (2 ^ 28)) = u ∧
      u.tim = { s.tim with left := sext 24 ((reg s TIM_ADJ).toNat % 2 ^ 24) } ∧
      keepsRegs [TIM_CTRL] s u ∧ u.hif = s.hif ∧ u.hoop = s.hoop ∧ u.ccs = s.ccs := by
  have hp := plainWrite_eq_regs s TIM_CTRL (v ||| w32 (2 ^ 28))
  refine ⟨_, writeTimCtrl_adjGo hv h, ?_, plainWrite_keepsRegs hs.1 _ _, (congrArg State.hif hp :), (congrArg State.hoop hp :),
    (congrArg State.ccs hp :)⟩
  simp only [adjGo, setTim, regFld, reg_plainWrite hs.1 (show TIM_ADJ ≠ TIM_CTRL by decide), plainWrite_tim]
  simp [fld, bits]

theorem timSnap_copies {s : State} (hs : s.sound) {v : Word} (hv : v.toNat < 2 ^ 27) :
    ∃ u, writeTimCtrl s (v ||| w32 (2 ^ 31)) = u ∧
      u.tim = { s.tim with snapSec := s.tim.sec, snapNsq := s.tim.acc / 2 ^ 30 } ∧
      keepsRegs [TIM_CTRL] s u ∧ u.hif = s.hif ∧ u.hoop = s.hoop ∧ u.ccs = s.ccs := by
  have hp := plainWrite_eq_regs s TIM_CTRL (v ||| w32 (2 ^ 31))
  refine ⟨_, writeTimCtrl_snap hv, ?_, plainWrite_keepsRegs hs.1 _ _, (congrArg State.hif hp :), (congrArg State.hoop hp :),
    (congrArg State.ccs hp :)⟩
  simp only [snap, setTim, plainWrite_tim, Tim.nsq]

theorem exec_timSnap (v : Word) (s : State) : exec (.timSnap v) s = done (timCtrlWrite s (v ||| w32 (2 ^ 31))) := rfl
theorem exec_timSet (v : Word) (s : State) : exec (.timSet v) s = done (timCtrlWrite s (v ||| w32 (2 ^ 30))) := rfl
theorem exec_timStep (v : Word) (s : State) : exec (.timStep v) s = done (timCtrlWrite s (v ||| w32 (2 ^ 29))) := rfl
theorem exec_timAdjGo (v : Word) (s : State) : exec (.timAdjGo v) s = done (timCtrlWrite s (v ||| w32 (2 ^ 28))) := rfl

/-- Settles O17: each kick of TIM_CTRL, after a boundary that falls due in its cycle, is one operation on device time. -/
theorem timeIsSet : Obligations.TimeIsSet := by
  unfold Obligations.TimeIsSet
  refine ⟨fun v s => ⟨fun h => ?_, fun h hlo hhi => ?_, fun h hv => ?_⟩, fun v s => ?_, fun v s hs hdue hv => ?_⟩
  · exact congrArg done (writeTimRate_holdover h v)
  · exact congrArg done (writeTimRate_accepted h hlo hhi)
  · exact congrArg done (writeTimRate_refused h hv)
  · have htwice : ∀ x, timCtrlWrite s x = timCtrlWrite (dueBoundary s) x := fun x => by
      rw [timCtrlWrite, timCtrlWrite, dueBoundary_twice]
    exact ⟨congrArg done (htwice _), congrArg done (htwice _), congrArg done (htwice _), congrArg done (htwice _),
      congrArg done (htwice _)⟩
  · rw [exec_timSnap, exec_timSet, exec_timStep, exec_timAdjGo]
    refine ⟨?_, fun h hn => ?_, fun h => ?_, fun h => ?_, fun h => ?_⟩
    · obtain ⟨u, hu, htim, hregs, hkept⟩ := timSnap_copies hs hv
      exact ⟨u, exec_timCtrl hdue _ hu, htim, hregs, hu ▸ writeTimCtrl_onlyTime s _, hkept⟩
    · obtain ⟨u, hu, hsec, hacc, hleft⟩ := timSet_loads hs hv h hn
      exact ⟨u, exec_timCtrl hdue _ hu, hsec, hacc, hleft, hu ▸ writeTimCtrl_onlyTime s _⟩
    · obtain ⟨u, hu, hq, hleft⟩ := timStep_moves hs hv h
      exact ⟨u, exec_timCtrl hdue _ hu, hq, hleft, hu ▸ writeTimCtrl_onlyTime s _⟩
    · obtain ⟨u, hu, htim, hregs, hkept⟩ := timAdjGo_slews hs hv h
      exact ⟨u, exec_timCtrl hdue _ hu, htim, hregs, hu ▸ writeTimCtrl_onlyTime s _, hkept⟩
    · exact ⟨_, _, _, exec_timCtrl hdue _ rfl, holdRefused_kick hs hv h (.inr (.inr rfl)), exec_timCtrl hdue _ rfl,
        holdRefused_kick hs hv h (.inr (.inl rfl)), exec_timCtrl hdue _ rfl, holdRefused_kick hs hv h (.inl rfl)⟩

end Sys2Proof.Machine

/-! The master watch moves between its states (R99, R100, Table 3-6). -/
namespace Sys2Proof.Machine

@[simp] theorem setTimMode_tim (s : State) (m : TimMode) : (setTimMode s m).tim = { s.tim with mode := m, annDue := none } := by
  simp only [setTimMode, syncPtpRef_tim, noticeBoth_tim, setTim]

theorem advance_mode (rate : Int) (speed n : Nat) (t : Tim) : (advance rate speed n t).mode = t.mode := by
  unfold advance
  split <;> rfl

theorem runToCycle_mode (cyc : Nat) (s : State) : (runToCycle cyc s).tim.mode = s.tim.mode := by
  rw [runToCycle, tick_tim, advance_mode]

theorem runToCycle_reg {s : State} (hs : twf regReset s.regs = true) (cyc : Nat) {a : Nat} (hq : ¬ noticeReg a) :
    reg (runToCycle cyc s) a = reg s a := tick_keepsRegs hs _ a (by simp) hq

theorem writeMasterCtrl_watch {s : State} {v : Word} (hm : s.tim.mode = .free) (hv : bitW v 31 = true)
    (ha : logAnn (plainWrite s TIM_MASTER_CTRL v) ≠ none) :
    writeMasterCtrl s v = setTimMode (plainWrite s TIM_MASTER_CTRL v) .wait := by
  simp [writeMasterCtrl, hv, ha, hm]

theorem writeMasterCtrl_cleared {s : State} {v : Word} (hv : bitW v 31 = false) :
    (writeMasterCtrl s v).tim.mode = .free := by
  simp [writeMasterCtrl, hv]

theorem timRate_congr {s t : State} (h : reg t TIM_RATE = reg s TIM_RATE) : timRate t = timRate s := by
  simp only [timRate, h]

theorem setRefState_quiet (s : State) (r : RefState) : regsQuiet s (setRefState s r) := by
  unfold setRefState
  dsimp only
  split
  · exact .of_eq rfl
  · exact (regsQuiet.of_eq (setHoop_regs s _)).trans (noticeBoth_only ..).regs

theorem syncPtpRef_quiet (s : State) : regsQuiet s (syncPtpRef s) := by
  unfold syncPtpRef
  split
  · exact setRefState_quiet _ _
  · exact .of_eq rfl

theorem setTimMode_quiet (s : State) (m : TimMode) : regsQuiet s (setTimMode s m) :=
  ((regsQuiet.of_eq (setTim_regs s _)).trans (noticeBoth_only ..).regs).trans (syncPtpRef_quiet _)

/-- The Announce timeout takes TRACKING to HOLDOVER, which ends a slew and keeps the rate. -/
theorem announceTimeout_holdover {s : State} (hs : s.sound) {due : Nat} (hm : s.tim.mode = .tracking)
    (hdue : s.tim.annDue = some due) : (announceTimeout s).tim.mode = .holdover ∧ (announceTimeout s).tim.left = 0 ∧
      timRate (announceTimeout s) = timRate s := by
  have h : announceTimeout s = setTimMode (abandonSlew (runToCycle due s)) .holdover := by
    simp only [announceTimeout, hdue, runToCycle_mode, hm, if_true]
  have hrate : ¬ noticeReg TIM_RATE := notCounted (.inr (by decide)) (by decide)
  have htwf : twf regReset (runToCycle due s).regs = true := ((runToCycle_keeps due s (.refl s)).sound hs).1
  refine ⟨by simp [h], by simp [h, abandonSlew_tim], timRate_congr ?_⟩
  rw [h, (setTimMode_quiet _ _ (abandonSlew_twf htwf)).2 _ (by simp) hrate, reg_abandonSlew_other htwf (by decide), runToCycle_reg hs.1 _ hrate]

theorem writeTimCtrl_holdExit {s : State} {v : Word} (hv : v.toNat < 2 ^ 27) (h : s.tim.mode = .holdover) :
    (writeTimCtrl s (v ||| w32 (2 ^ 27))).tim.mode = .wait := by
  simp only [writeTimCtrl, bitW_kick, bitW_of_lt hv (show 27 ≤ 31 by decide), bitW_of_lt hv (show 27 ≤ 30 by decide),
    bitW_of_lt hv (show 27 ≤ 29 by decide), bitW_of_lt hv (show 27 ≤ 28 by decide)]
  simp [h]

theorem exec_timHoldExit (v : Word) (s : State) : exec (.timHoldExit v) s = done (timCtrlWrite s (v ||| w32 (2 ^ 27))) := rfl

/-- Settles O19: each move of the master watch is one change of its state. -/
theorem masterWatchStates : Obligations.MasterWatchStates := by
  unfold Obligations.MasterWatchStates
  have hmaster : ∀ (v : Word) (s : State), onlyTime s (writeMasterCtrl s v) := fun v s => onlyTime_of_outside
    (by simp)
  refine fun v s hs => ⟨fun hm hv ha => ⟨_, rfl, ?_, hmaster v s⟩, fun hv => ⟨_, rfl, writeMasterCtrl_cleared hv, hmaster v s⟩,
    fun due hm hdue => ?_, fun hm hv => ?_⟩
  · rw [writeMasterCtrl_watch hm hv ha, setTimMode_tim]
  · obtain ⟨hmode, hleft, hrate⟩ := announceTimeout_holdover hs hm hdue
    exact ⟨_, rfl, hmode, hleft, hrate, onlyTime_of_outside (by simp)⟩
  · rw [exec_timHoldExit]
    have hmode : (dueBoundary s).tim.mode = .holdover := (congrArg Tim.mode (dueBoundary_pulsesOnly s)).trans hm
    exact ⟨_, rfl, writeTimCtrl_holdExit hv hmode, onlyTime_of_outside (by simp [timCtrlWrite])⟩

end Sys2Proof.Machine

/-! A one-shot pulse is armed, asserted, ended or stopped (R101, R102). -/
namespace Sys2Proof.Machine

/-! ### The pulse of a channel -/

section
variable {s : State} (hs : s.canon)
include hs

theorem pulseOf_setPulse (i : Nat) (p : Pulse) : pulseOf (setPulse s i p) i = p := by
  simp [pulseOf, setPulse, setTim, tget_tput hs.tim.pulses]

end

theorem pulseOf_congr {s t : State} (h : t.tim = s.tim) (i : Nat) : pulseOf t i = pulseOf s i := by rw [pulseOf, h, pulseOf]

theorem pulseOf_plainWrite (s : State) (a : Nat) (v : Word) (i : Nat) : pulseOf (plainWrite s a v) i = pulseOf s i :=
  pulseOf_congr (plainWrite_tim ..) i

theorem advance_pulses (rate : Int) (speed n : Nat) (t : Tim) : (advance rate speed n t).pulses = t.pulses := by
  unfold advance
  split <;> rfl

theorem pulseOf_tick (n : Nat) (s : State) (i : Nat) : pulseOf (tick n s) i = pulseOf s i := by
  rw [pulseOf, tick_tim, advance_pulses, pulseOf]

/-! ### ARM and STOP -/

theorem writePulseCtrl_arm (s : State) (i : Nat) {v : Word} (hv : bitW v 30 = false) :
    writePulseCtrl s i (v ||| w32 (2 ^ 31)) = armPulse (plainWrite s (TIM_PULSE_CTRL i) (v ||| w32 (2 ^ 31))) i := by
  simp only [writePulseCtrl, bitW_kick]
  simp [hv]

theorem writePulseCtrl_stop (s : State) (i : Nat) {v : Word} (hv : bitW v 31 = false) :
    writePulseCtrl s i (v ||| w32 (2 ^ 30)) = stopPulse (plainWrite s (TIM_PULSE_CTRL i) (v ||| w32 (2 ^ 30))) i := by
  simp only [writePulseCtrl, bitW_kick]
  simp [hv]

theorem armPulse_refused {s : State} {i : Nat} (h : pulseRefused s i = true) : armPulse s i = latch s TIM_STATUS 28 := if_pos h

theorem armPulse_once {s : State} {i : Nat} {c : PulseCfg} (hc : c = pulseSettings s i) (h : pulseRefused s i = false)
    (hm : c.mode = 0) (hnew : reached (moveQ s.tim.q 255) c.start = false) : armPulse s i =
      setPulse s i { pulseOf s i with cfg := some c, k := 0, pol := regBit s (TIM_PULSE_CTRL i) 26, next := some c.start } := by
  subst hc
  simp only [armPulse, h, hm, hnew]
  rfl

theorem exec_pulseArm (i : Fin 8) (v : Word) (s : State) : exec (.pulseArm i v) s = done (writePulseCtrl s i (v ||| w32 (2 ^ 31))) := rfl
theorem exec_pulseStop (i : Fin 8) (v : Word) (s : State) : exec (.pulseStop i v) s = done (writePulseCtrl s i (v ||| w32 (2 ^ 30))) := rfl

theorem writePulseCtrl_onlyTime (s : State) (i : Fin 8) (v : Word) : onlyTime s (writePulseCtrl s i v) :=
  onlyTime_of_outside (by simp)

/-! ### The edge and the end of the width -/

theorem firePulse_once {s : State} {i e : Nat} {c : PulseCfg} (hc : (pulseOf s i).cfg = some c) (hm : c.mode = 0)
    (he : (pulseOf s i).next = some e) : firePulse s i = setPulse (emitTout s i (!(pulseOf s i).pol) (instantOf s e)) i
      { pulseOf s i with cfg := none, next := none, assertedTo := some (instantOf s e + c.widthQ) } := by
  simp only [firePulse, he, hc, hm]
  rfl

theorem pulseEdge_once {s : State} (hs : s.canon) {i e : Nat} {c : PulseCfg} (hc : (pulseOf s i).cfg = some c) (hm : c.mode = 0)
    (he : (pulseOf s i).next = some e) :
    (pulseOf (pulseEdge s i) i).assertedTo = some (instantOf (runTo e s) e + c.widthQ) ∧ (pulseOf (pulseEdge s i) i).next = none ∧
      toutLevel (pulseEdge s i) i = !(pulseOf s i).pol ∧
      HostWrite.tout i (!(pulseOf s i).pol) (instantOf (runTo e s) e) ∈ (pulseEdge s i).out := by
  have hkept : pulseOf (runTo e s) i = pulseOf s i := pulseOf_tick _ s i
  have hcanon : (emitTout (runTo e s) i (!(pulseOf s i).pol) (instantOf (runTo e s) e)).canon :=
    (emitTout_keeps _ _ _ _ (runTo_keeps e s (.refl s))).canon hs
  have hfire : pulseEdge s i = setPulse (emitTout (runTo e s) i (!(pulseOf s i).pol) (instantOf (runTo e s) e)) i
      { pulseOf s i with cfg := none, next := none, assertedTo := some (instantOf (runTo e s) e + c.widthQ) } := by
    rw [← hkept] at hc he ⊢
    have : pulseEdge s i = firePulse (runTo e s) i := by simp only [pulseEdge, ← hkept, he]
    rw [this, firePulse_once hc hm he]
  rw [toutLevel, hfire, pulseOf_setPulse hcanon]
  exact ⟨rfl, rfl, by simp, by simp [setPulse, setTim, emitTout]⟩

theorem pulseWidthEnd_ends {s : State} (hs : s.canon) {i e : Nat} (he : (pulseOf s i).assertedTo = some e) :
    (pulseOf (pulseWidthEnd s i) i).assertedTo = none ∧ toutLevel (pulseWidthEnd s i) i = (pulseOf s i).pol ∧
      HostWrite.tout i (pulseOf s i).pol e ∈ (pulseWidthEnd s i).out := by
  have hkept : pulseOf (runToCycle ((e + 15) / 16) s) i = pulseOf s i := pulseOf_tick _ s i
  have hcanon : (runToCycle ((e + 15) / 16) s).canon := (runToCycle_keeps _ s (.refl s)).canon hs
  have hend : pulseWidthEnd s i = emitTout (setPulse (runToCycle ((e + 15) / 16) s) i { pulseOf s i with assertedTo := none }) i
      (pulseOf s i).pol e := by
    simp only [pulseWidthEnd, he, hkept]
  have hpulse : pulseOf (pulseWidthEnd s i) i = { pulseOf s i with assertedTo := none } := by
    rw [hend]
    exact pulseOf_setPulse hcanon i _
  rw [toutLevel, hpulse]
  exact ⟨rfl, by simp, by rw [hend]; simp [emitTout]⟩

/-- Settles O20: each command of a one-shot pulse is one change of its channel. -/
theorem pulseLifecycle : Obligations.PulseLifecycle := by
  unfold Obligations.PulseLifecycle
  refine fun i v s hs => ⟨fun hv hr => ?_, fun p c hp hc hv hr hm hnew => ?_, fun hv => ?_, fun c e hc hm he => ?_, fun e he => ?_⟩
  · rw [exec_pulseArm, writePulseCtrl_arm s i hv]
    exact congrArg done (armPulse_refused hr)
  · have hwrite : writePulseCtrl s i (v ||| w32 (2 ^ 31)) = armPulse p i := by rw [writePulseCtrl_arm s i hv, hp]; rfl
    have hcanon : p.canon := hp ▸ (plainWrite_keeps _ _ _ (.refl s)).canon hs
    have htim : p.tim = s.tim := hp ▸ plainWrite_tim ..
    have hpulse := pulseOf_setPulse hcanon i { pulseOf p i with
      cfg := some c, k := 0, pol := regBit p (TIM_PULSE_CTRL i) 26, next := some c.start }
    rw [← armPulse_once hc hr hm (htim ▸ hnew), ← hwrite] at hpulse
    exact ⟨_, exec_pulseArm i v s, by rw [hpulse], by rw [hpulse], writePulseCtrl_onlyTime s i _⟩
  · have hcanon : (plainWrite s (TIM_PULSE_CTRL i) (v ||| w32 (2 ^ 30))).canon := (plainWrite_keeps _ _ _ (.refl s)).canon hs
    have hpulse : pulseOf (writePulseCtrl s i (v ||| w32 (2 ^ 30))) i = { pulseOf s i with cfg := none, next := none } := by
      rw [writePulseCtrl_stop s i hv, stopPulse, pulseOf_setPulse hcanon, pulseOf_plainWrite]
    exact ⟨_, exec_pulseStop i v s, by rw [hpulse], by rw [hpulse], by rw [hpulse], writePulseCtrl_onlyTime s i _⟩
  · obtain ⟨hto, hnext, hlevel, hout⟩ := pulseEdge_once hs hc hm he
    exact ⟨_, rfl, hto, hnext, hlevel, hout, onlyTime_of_outside (by simp)⟩
  · obtain ⟨hto, hlevel, hout⟩ := pulseWidthEnd_ends hs he
    exact ⟨_, rfl, hto, hlevel, hout, onlyTime_of_outside (by simp)⟩

end Sys2Proof.Machine

/-! Captured edges, the loss of a reference, and the posting of stamps (R96, R104, R105, Table 4-4). -/
namespace Sys2Proof.Machine

section
variable {w : List Part} {s t : State} (h : t.outside w = s.outside w)
include h

theorem caps_of_outside (hw : .stamps ∉ w) : t.tim.caps = s.tim.caps := by
  simpa [State.outside, Tim.outside, hw] using congrArg (·.tim.caps) h
theorem stamps_of_outside (hw : .stamps ∉ w) : t.tim.stamps = s.tim.stamps := by
  simpa [State.outside, Tim.outside, hw] using congrArg (·.tim.stamps) h
theorem lastPosted_of_outside (hw : .stamps ∉ w) : t.tim.lastPosted = s.tim.lastPosted := by
  simpa [State.outside, Tim.outside, hw] using congrArg (·.tim.lastPosted) h
theorem wclk_of_outside (hw : .tim ∉ w) : t.tim.wclk = s.tim.wclk := by
  simpa [State.outside, Tim.outside, hw] using congrArg (·.tim.wclk) h

end

/-! ### Captured edges -/

theorem capOf_setCap {s : State} (hs : s.canon) (i : Nat) (c : Capture) : capOf (setCap s i c) i = c := by
  simp [capOf, setCap, setTim, tget_tput hs.tim.caps]

theorem advance_caps (rate : Int) (speed n : Nat) (t : Tim) : (advance rate speed n t).caps = t.caps := by
  unfold advance
  split <;> rfl

theorem advance_wclk (rate : Int) (speed n : Nat) (t : Tim) : (advance rate speed n t).wclk = t.wclk := by
  unfold advance
  split <;> rfl

theorem capOf_tick (n : Nat) (s : State) (i : Nat) : capOf (tick n s) i = capOf s i := by
  rw [capOf, tick_tim, advance_caps, capOf]

theorem captureEdge_first {s : State} {i q el : Nat} {falling : Bool} (hfifo : (capOf s i).fifo.length < 4)
    (hlast : (capOf s i).last = none) : captureEdge s i q el falling = setCap s i { capOf s i with
      edges := (capOf s i).edges + 1, last := some el
      fifo := (capOf s i).fifo ++ [(q / 4000000000, q % 4000000000, falling, (capOf s i).edges + 1)] } := by
  have : ¬ 4 ≤ (capOf s i).fifo.length := by omega
  simp only [captureEdge, hlast, Bool.false_or, decide_eq_true_eq, if_neg this]

theorem tinEdge_capture {s : State} {i phase : Nat} {falling : Bool} (hbit : regBit s (TIM_CAP_CTRL i) 31 = true)
    (hword : regBit s (TIM_CAP_CTRL i) 28 = false) (hsel : regFld s (TIM_CAP_CTRL i) 30 29 = 3) :
    capOf (tinEdge s i phase falling) i =
      capOf (captureEdge s i (rawStamp s (phase % 16)) (s.tim.elapsedQ + phase % 16) falling) i := by
  have hword' : (decide (i = 7) && regBit s (TIM_CAP_CTRL 7) 28) = false := by
    rw [Bool.and_eq_false_imp, decide_eq_true_eq]
    rintro rfl
    exact hword
  unfold tinEdge
  extract_lets q el sel wanted taken
  have hwanted : wanted = true := by
    have : sel = 3 := hsel
    unfold wanted
    rw [hbit, this]
    cases falling <;> rfl
  have htaken : taken = captureEdge s i q el falling := if_pos (by rw [hwanted, hword']; rfl)
  rw [htaken]
  generalize captureEdge s i q el falling = u
  split
  · rw [capOf, caps_of_outside (w := allBut [.stamps]) (pinEdge_outside (by simp) (by simp) _ _ _) (by simp), capOf]
  · rfl

theorem tick_reg_low {s : State} (hs : twf regReset s.regs = true) (n : Nat) {a : Nat} (ha : a < 0x341000) :
    reg (tick n s) a = reg s a :=
  tick_reg hs n (fun q _ => by unfold NQ_CNT; omega) (by unfold CCS_SRC_DROP; omega)

theorem regBit_congr {s t : State} {a : Nat} (h : reg t a = reg s a) (k : Nat) : regBit t a k = regBit s a k := by
  rw [regBit, h, regBit]

theorem regFld_congr {s t : State} {a : Nat} (h : reg t a = reg s a) (hi lo : Nat) : regFld t a hi lo = regFld s a hi lo := by
  rw [regFld, h, regFld]

/-! ### The word clock -/

theorem captureEdge_wclk (s : State) (i q el : Nat) (falling : Bool) : (captureEdge s i q el falling).tim.wclk = s.tim.wclk :=
  wclk_of_outside (w := allBut [.tim]) (captureEdge_outside (by simp) (by simp) (by simp) (by simp) _ _ _ _ _) (by simp)

theorem judgeRef_wclk (s : State) (good : Bool) : (judgeRef s good).tim.wclk = s.tim.wclk :=
  wclk_of_outside (w := allBut [.tim]) (judgeRef_outside (by simp) (by simp) _ _) (by simp)

theorem wclkActive_lastElapsed (s : State) (q el : Nat) : (wclkActive s q el).tim.wclk.lastElapsed = some el := by
  unfold wclkActive
  extract_lets w period good w' t told noted n t' w'' divided captured edged wordGood hoop ref dated
  have hnoted : noted.tim.wclk.lastElapsed = some el := iteInduction (motive := fun u : State => u.tim.wclk.lastElapsed = some el)
    (fun _ => congrArg (·.wclk.lastElapsed) (noticeBoth_tim told _ _ _)) fun _ => rfl
  have hcaptured : captured.tim.wclk.lastElapsed = some el := iteInduction (motive := fun u : State => u.tim.wclk.lastElapsed = some el)
    (fun _ => iteInduction (motive := fun u : State => u.tim.wclk.lastElapsed = some el)
      (fun _ => (congrArg WordClock.lastElapsed (captureEdge_wclk ..)).trans hnoted) fun _ => hnoted) fun _ => hnoted
  have hdated : dated.tim = captured.tim := ite_tim rfl rfl
  clear_value captured dated
  split
  · rw [judgeRef_wclk, hdated]
    exact hcaptured
  · exact hcaptured

theorem wclkEdge_lastElapsed {s : State} {phase : Nat} {rising : Bool} (hen : regBit s TIM_WCLK_CTRL 31 = true)
    (hedge : rising ≠ regBit s TIM_WCLK_CTRL 30) :
    (wclkEdge s phase rising).tim.wclk.lastElapsed = some (s.tim.elapsedQ + phase % 16) := by
  rw [wclkEdge, if_pos (by simp [hen, hedge]), wclkActive_lastElapsed]

/-! ### The loss of a reference -/

theorem setRefState_state (s : State) (r : RefState) : (setRefState s r).hoop.ref.state = r := by
  unfold setRefState
  dsimp only
  split
  next h => exact h.symm
  · exact (congrArg (·.ref.state) (noticeBoth_hoop ..)).trans rfl

theorem judgeRef_lost {s : State} (h : s.hoop.ref.state = .locked) : (judgeRef s false).hoop.ref.state = .hold := by
  simp only [judgeRef, h, setRefState_state]

theorem hoopMode_congr {s t : State} (h : reg t HOOP_MODE = reg s HOOP_MODE) : hoopMode t = hoopMode s := regFld_congr h _ _

theorem tick_hoop (n : Nat) (s : State) : (tick n s).hoop = s.hoop := by
  unfold tick
  dsimp only
  split
  · exact (congrArg State.hoop (notice_noticesOnly _ _ _ _ _ (.refl _)).fields :)
  · rfl

theorem runToCycle_hoop (cyc : Nat) (s : State) : (runToCycle cyc s).hoop = s.hoop := tick_hoop _ s

/-- The word clock is found lost. -/
def wclkLost (s : State) : State :=
  wclkNotice (setTim s { s.tim with wclk := { s.tim.wclk with present := false, good := 0, lastElapsed := none, lastPeriod := none } })

theorem wclkLost_absent (s : State) : (wclkLost s).tim.wclk.present = false :=
  congrArg (·.wclk.present) (noticeBoth_tim (setTim s _) _ _ _)

theorem wclkLost_hoop (s : State) : (wclkLost s).hoop = s.hoop := noticeBoth_hoop (setTim s _) ..

theorem wclkLost_hoopMode {s : State} (hs : twf regReset s.regs = true) : hoopMode (wclkLost s) = hoopMode s :=
  hoopMode_congr (reg_noticeBoth (s := setTim s { s.tim with wclk := { s.tim.wclk with
    present := false, good := 0, lastElapsed := none, lastPeriod := none } }) _ _ _ hs (notCounted (.inr (by decide)) (by decide)))

theorem wclkTimeout_lost {s : State} (hs : s.sound) {e p : Nat} (hp : s.tim.wclk.present = true) (he : s.tim.wclk.lastElapsed = some e)
    (hper : s.tim.wclk.lastPeriod = some p) : (wclkTimeout s).tim.wclk.present = false ∧
      (hoopMode s = 2 → s.hoop.ref.state = .locked → (wclkTimeout s).hoop.ref.state = .hold) := by
  have h : wclkTimeout s = if hoopMode (wclkLost (runToCycle ((e + 4 * p + 15) / 16) s)) = 2 then
      judgeRef (wclkLost (runToCycle ((e + 4 * p + 15) / 16) s)) false else wclkLost (runToCycle ((e + 4 * p + 15) / 16) s) := by
    simp only [wclkTimeout, he, hper, hp, if_true]
    rfl
  have htwf : twf regReset (runToCycle ((e + 4 * p + 15) / 16) s).regs = true := ((runToCycle_keeps _ s (.refl s)).sound hs).1
  have hmode : hoopMode (wclkLost (runToCycle ((e + 4 * p + 15) / 16) s)) = hoopMode s :=
    (wclkLost_hoopMode htwf).trans (hoopMode_congr (tick_reg_low hs.1 _ (by decide)))
  have hhoop : (wclkLost (runToCycle ((e + 4 * p + 15) / 16) s)).hoop = s.hoop := (wclkLost_hoop _).trans (runToCycle_hoop _ s)
  have hgone := wclkLost_absent (runToCycle ((e + 4 * p + 15) / 16) s)
  rw [h, hmode]
  generalize wclkLost (runToCycle ((e + 4 * p + 15) / 16) s) = u at *
  refine ⟨?_, fun hm hl => ?_⟩
  · split
    · rw [judgeRef_wclk]
      exact hgone
    · exact hgone
  · rw [if_pos hm]
    exact judgeRef_lost (by rw [hhoop]; exact hl)

theorem judgeRef_forgotten {s : State} (h : s.hoop.ref.state = .locked) :
    (judgeRef (setHoop s { s.hoop with ref := { s.hoop.ref with intervals := [] } }) false).hoop.ref.state = .hold :=
  judgeRef_lost h

theorem pinTimeout_lost {s : State} {e : RefEdge} (hm : hoopMode s = 3) (he : s.hoop.ref.edge = some e)
    (hl : s.hoop.ref.state = .locked) : (pinTimeout s).hoop.ref.state = .hold := by
  simp only [pinTimeout, he, hm, hl]
  rw [if_pos ⟨trivial, trivial⟩]
  generalize (e.elapsed + 3 * periodNum s / (2 * max (periodDen s) 1) + 15) / 16 = cyc
  exact judgeRef_forgotten ((congrArg (·.ref.state) (runToCycle_hoop _ s)).trans hl)

/-! ### The posting engine -/

theorem stampsOf_setStamps {s : State} (hs : s.canon) (p j : Nat) (q : StampQueue) :
    stampsOf (setStamps s p q) j = if j = p then q else stampsOf s j := tget_tput hs.tim.stamps

theorem stampsOf_congr {s t : State} (h : t.tim.stamps = s.tim.stamps) (p : Nat) : stampsOf t p = stampsOf s p := by
  rw [stampsOf, h, stampsOf]

theorem stamped_stamps (s : State) (p id st r0 r1 : Nat) : (stamped s p id st r0 r1).tim.stamps = s.tim.stamps :=
  stamps_of_outside (w := allBut [.stamps]) (stamped_outside (by simp) (by simp) (by simp) (by simp) _ _ _ _ _ _) (by simp)

theorem timPost_stamps (s : State) (ws : List Word) : (timPost s ws).2.tim.stamps = s.tim.stamps :=
  stamps_of_outside (w := allBut [.stamps]) (timPost_outside (by simp) (by simp) (by simp) _ _) (by simp)

theorem stampLostNotice_entries {s : State} (hs : s.canon) (p j : Nat) :
    (stampsOf (stampLostNotice s p) j).entries = (stampsOf s j).entries := by
  unfold stampLostNotice
  extract_lets x t ws
  have hcleared : (stampsOf (setStamps s p { x with lost := 0 }) j).entries = (stampsOf s j).entries := by
    rw [stampsOf_setStamps hs]
    split
    next h => rw [h]
    · rfl
  have hposted : (timPost t ws).2.tim.stamps = (setStamps s p { x with lost := 0 }).tim.stamps := by
    rw [timPost_stamps]
    exact congrArg Tim.stamps (notice_noticesOnly _ _ _ _ _ (.refl _)).tim_eq
  have hcanon : (timPost t ws).2.canon :=
    (timPost_keeps _ _ (notice_keeps _ _ _ _ _ _ (setStamps_keeps _ _ _ (.refl s)))).canon hs
  clear_value t ws
  split
  · dsimp only
    split
    next x hx =>
      rw [hx] at hposted
      rw [stampsOf_congr hposted, hcleared]
    next x hx =>
      rw [hx] at hposted hcanon
      rw [stampsOf_setStamps hcanon]
      split
      next h => rw [← h, stampsOf_congr hposted, hcleared]
      · rw [stampsOf_congr hposted, hcleared]
  · rfl

/-- The head of a stamp queue goes to its RAW_TX. -/
theorem postStamp_rawTx {s : State} {p id : Nat} {e : Stamp} {rest : List Stamp} (hnote : (stampsOf s p).note = none)
    (he : (stampsOf s p).entries = e :: rest) (hd : e.dest = .rawTx id) : postStamp s p =
      some (stampLostNotice (setStamps (stamped s p id 0 (e.sec % 2 ^ 32) e.nsq) p
        { stampsOf (stamped s p id 0 (e.sec % 2 ^ 32) e.nsq) p with entries := rest }) p) := by
  simp only [postStamp, hnote, he, hd]

theorem stampPost_next {s u : State} {p : Nat} (hp : p < 38) (hnext : (s.tim.lastPosted + 1) % 46 = p) (h : postStamp s p = some u) :
    stampPost s = setTim u { u.tim with lastPosted := p } := by
  have horder : (List.range 46).map (fun i => (s.tim.lastPosted + 1 + i) % 46) =
      p :: ((List.range 45).map Nat.succ).map (fun i => (s.tim.lastPosted + 1 + i) % 46) := by
    rw [List.range_succ_eq_map, List.map_cons, Nat.add_zero, hnext]
  unfold stampPost
  rw [horder]
  dsimp only
  rw [List.findSome?_cons]
  simp only [hp, if_true, h, Option.map_some, Option.getD_some]

theorem stampPost_rawTx {s : State} (hs : s.canon) {p id : Nat} (hp : p < 38) {e : Stamp} {rest : List Stamp}
    (hnext : (s.tim.lastPosted + 1) % 46 = p) (hnote : (stampsOf s p).note = none) (he : (stampsOf s p).entries = e :: rest)
    (hd : e.dest = .rawTx id) (j : Nat) : (stampPost s).tim.lastPosted = p ∧
      (stampsOf (stampPost s) j).entries = if j = p then rest else (stampsOf s j).entries := by
  have hcanon : (stamped s p id 0 (e.sec % 2 ^ 32) e.nsq).canon := (stamped_keeps _ _ _ _ _ _ (.refl s)).canon hs
  have hkept := stampsOf_congr (stamped_stamps s p id 0 (e.sec % 2 ^ 32) e.nsq) j
  rw [stampPost_next hp hnext (postStamp_rawTx hnote he hd)]
  generalize stamped s p id 0 (e.sec % 2 ^ 32) e.nsq = u at *
  refine ⟨rfl, ?_⟩
  have hlost : ∀ v : State, stampsOf (setTim v { v.tim with lastPosted := p }) j = stampsOf v j := fun _ => rfl
  rw [hlost, stampLostNotice_entries ((setStamps_keeps _ _ _ (.refl u)).canon hcanon), stampsOf_setStamps hcanon]
  split
  · rfl
  · rw [hkept]

theorem exec_tinEdge (i : Fin 8) (after : Nat) (phase : Fin 16) (falling : Bool) (s : State) :
    exec (.tinEdge i after phase falling) s = done (tinEdge (dueBoundary (tick after s)) i phase falling) := rfl

theorem exec_wclkEdge (after : Nat) (phase : Fin 16) (rising : Bool) (s : State) :
    exec (.wclkEdge after phase rising) s = done (wclkEdge (dueBoundary (tick after s)) phase rising) := rfl

/-- Settles O21: edges and references leave one mark each, and the engine posts the head of the queue whose turn it is. -/
theorem referencesAndStamps : Obligations.ReferencesAndStamps := by
  unfold Obligations.ReferencesAndStamps
  refine ⟨⟨fun i after phase falling s hs hc hdue h31 h28 hsel hfifo hlast => ?_, fun after phase rising s hs hc hdue h31 hedge => ?_⟩,
    ⟨fun e p s hs hp he hper => ?_, fun e s hs hm he hl => ?_⟩, fun p e rest id s hc hnext hnote he hd => ?_⟩
  · have hreg : reg (tick after s) (TIM_CAP_CTRL i) = reg s (TIM_CAP_CTRL i) :=
      tick_reg_low hs.1 after (by unfold TIM_CAP_CTRL; omega)
    have hcap := capOf_tick after s i
    refine ⟨_, rawStamp (tick after s) phase, exec_tinEdge i after phase falling s, rfl, ?_, onlyTime_of_outside (by simp)⟩
    rw [dueBoundary_none hdue, tinEdge_capture ((regBit_congr hreg _).trans h31) ((regBit_congr hreg _).trans h28)
      ((regFld_congr hreg _ _).trans hsel), captureEdge_first (hcap ▸ hfifo) (hcap ▸ hlast),
      capOf_setCap ((tick_keeps after s (.refl s)).canon hc), hcap, Nat.mod_eq_of_lt phase.2]
  · refine ⟨_, exec_wclkEdge after phase rising s, ?_, onlyTime_of_outside (by simp)⟩
    have hreg : reg (tick after s) TIM_WCLK_CTRL = reg s TIM_WCLK_CTRL := tick_reg_low hs.1 after (by decide)
    rw [dueBoundary_none hdue, wclkEdge_lastElapsed ((regBit_congr hreg _).trans h31) (by rwa [regBit_congr hreg]),
      Nat.mod_eq_of_lt phase.2]
  · obtain ⟨hgone, hhold⟩ := wclkTimeout_lost hs hp he hper
    exact ⟨_, rfl, hgone, hhold, onlyTime_of_outside (by simp)⟩
  · exact ⟨_, rfl, pinTimeout_lost hm he hl, onlyTime_of_outside (by simp)⟩
  · have hpost := fun j => stampPost_rawTx hc p.2 hnext hnote he hd j
    refine ⟨_, rfl, by rw [(hpost p).2, if_pos rfl], (hpost p).1, fun q hq => ?_⟩
    rw [(hpost q).2, if_neg fun h => hq (Fin.ext h)]

end Sys2Proof.Machine

/-! Starting, stopping and aborting the generator, and the numbering of boundaries (R108, R113, R116, R117, R132). -/
namespace Sys2Proof.Machine

section
variable {w : List Part} (hn : Notices w) (hhandles : .handles ∈ w) (hing : .ing ∈ w) (hsrc : .src ∈ w)
include hn hhandles hing hsrc

@[simp] theorem releaseAll_outside (s : State) : (releaseAll s).outside w = s.outside w := by
  unfold releaseAll
  simp [Ing.outside, hn, hhandles, hing, hsrc]

end

/-! ### Starting -/

theorem timSpeed_congr {s t : State} (h : reg t TIM_CTRL = reg s TIM_CTRL) : timSpeed t = timSpeed s := by
  rw [timSpeed, regFld_congr h, timSpeed]

theorem deviceAt_congr {s t : State} (htim : t.tim = s.tim) (hrate : reg t TIM_RATE = reg s TIM_RATE)
    (hctrl : reg t TIM_CTRL = reg s TIM_CTRL) (el : Nat) : deviceAt t el = deviceAt s el := by
  rw [deviceAt, htim, timRate_congr hrate, timSpeed_congr hctrl, deviceAt]

/-- The generator as a start leaves it, with its first boundary at `b`. -/
def HoopGen.started (g : HoopGen) (aligned : Bool) (b : Nat) (k : Option Nat) : HoopGen :=
  { g with running := true, raised := false, stopAtNext := false, fStarted := false, fDue := false, aborted := false,
           slewing := false, aligned := aligned, bNext := b, nextK := k }

theorem startHoops_eq (s : State) : ∃ b k, startHoops s =
    setHoop { s with egr := { s.egr with abortOf := none } } (s.hoop.started (decide (hoopMode s = 1)) b k) ∧
      (hoopMode s ≠ 1 → b = deviceAt s (s.tim.elapsedQ + 400000)) := by
  have hmode : hoopMode { s with egr := { s.egr with abortOf := none } } = hoopMode s := rfl
  have hdev : ∀ el, deviceAt { s with egr := { s.egr with abortOf := none } } el = deviceAt s el := fun _ =>
    deviceAt_congr rfl rfl rfl _
  unfold startHoops
  dsimp only
  rw [hmode, hdev]
  by_cases h : hoopMode s = 1
  · rw [if_pos h]
    exact ⟨_, _, rfl, fun hne => absurd h hne⟩
  · rw [if_neg h]
    exact ⟨_, _, rfl, fun _ => rfl⟩

theorem bitW_kick_other {v : Word} {j k : Nat} (h : k ≠ j) : bitW (v ||| w32 (2 ^ j)) k = bitW v k := by
  rw [bitW_kick]
  simp [h]

theorem bitW_kick_self (v : Word) {j : Nat} (h : j < 32) : bitW (v ||| w32 (2 ^ j)) j = true := by
  rw [bitW_kick]
  simp [h]

/-- What RUN takes up as the generator starts. -/
def runLatched (s : State) (v : Word) : State :=
  let p := plainWrite s HOOP_CTRL v
  { p with run := { p.run with rev := regFld p GLB_BEHAV 7 0 }, egr := { p.egr with slot := regFld p EGR_AUTH 5 0 } }

theorem hoopCtrlWrite_start {s : State} {v : Word} (hrun : s.hoop.running = false) (h31 : bitW v 31 = true)
    (h30 : bitW v 30 = false) : hoopCtrlWrite s v = startHoops (runLatched s v) := by
  have hp : (plainWrite s HOOP_CTRL v).hoop.running = false := by rw [plainWrite_hoop, hrun]
  unfold hoopCtrlWrite
  simp only [h31, h30, hp]
  rfl

theorem hoopCtrlWrite_stop {s : State} {v : Word} (hrun : s.hoop.running = true) (h31 : bitW v 31 = false)
    (h30 : bitW v 30 = false) : hoopCtrlWrite s v =
      setHoop (plainWrite s HOOP_CTRL v) { s.hoop with stopAtNext := true } := by
  unfold hoopCtrlWrite
  simp only [h31, h30, plainWrite_hoop, hrun]
  rfl

theorem startHoops_latched {s : State} (hs : s.canon) (v : Word) : ∃ u, startHoops (runLatched s v) = u ∧
    u.hoop.running = true ∧ u.hoop.raised = false ∧ u.hoop.fStarted = false ∧ u.hoop.number = s.hoop.number ∧
    u.run.rev = regFld s GLB_BEHAV 7 0 ∧ (hoopMode s ≠ 1 → u.hoop.bNext = deviceAt s (s.tim.elapsedQ + 400000)) ∧
    u.egr = { s.egr with slot := regFld s EGR_AUTH 5 0, abortOf := none } ∧ keepsRegs [HOOP_CTRL] s u ∧
    u = { s with regs := u.regs, hoop := u.hoop, run := u.run, egr := u.egr } := by
  have hreg : ∀ {a}, a ≠ HOOP_CTRL → reg (runLatched s v) a = reg s a := fun ha => reg_plainWrite hs.regs ha v
  have hmode : hoopMode (runLatched s v) = hoopMode s := hoopMode_congr (hreg (by decide))
  have htim : (runLatched s v).tim = s.tim := plainWrite_tim ..
  have hp := plainWrite_eq_regs s HOOP_CTRL v
  have hhoop : (runLatched s v).hoop = s.hoop := plainWrite_hoop ..
  have hrev : (runLatched s v).run.rev = regFld s GLB_BEHAV 7 0 :=
    regFld_congr (s := s) (reg_plainWrite hs.regs (by decide) v) 7 0
  have hslot : regFld (plainWrite s HOOP_CTRL v) EGR_AUTH 5 0 = regFld s EGR_AUTH 5 0 :=
    regFld_congr (s := s) (reg_plainWrite hs.regs (by decide) v) 5 0
  have hegr : (runLatched s v).egr = { s.egr with slot := regFld s EGR_AUTH 5 0 } := by
    show ({ (plainWrite s HOOP_CTRL v).egr with slot := regFld (plainWrite s HOOP_CTRL v) EGR_AUTH 5 0 } : Egr) = _
    rw [hslot, (congrArg State.egr hp :)]
  have hframe : runLatched s v = { s with regs := (runLatched s v).regs, run := (runLatched s v).run, egr := (runLatched s v).egr } := by
    unfold runLatched
    rw [hp]
  obtain ⟨b, k, hstart, hb⟩ := startHoops_eq (runLatched s v)
  rw [hmode, deviceAt_congr htim (hreg (by decide)) (hreg (by decide)), Tim.elapsedQ, htim] at hb
  rw [hhoop] at hstart
  refine ⟨_, hstart, rfl, rfl, rfl, rfl, hrev, hb, ?_, ?_, ?_⟩
  · show ({ (runLatched s v).egr with abortOf := none } : Egr) = _
    rw [hegr]
  · exact fun a ha _ => hreg (by simpa using ha)
  · rw [hframe]
    rfl

theorem exec_hoopRunStart (v : Word) (s : State) : exec (.hoopRunStart v) s = done (hoopCtrlWrite s (v ||| w32 (2 ^ 31))) := rfl
theorem exec_hoopRunStop (v : Word) (s : State) : exec (.hoopRunStop v) s = done (hoopCtrlWrite s (v &&& 0x7FFFFFFF)) := rfl
theorem exec_hoopAbortKick (v : Word) (s : State) : exec (.hoopAbortKick v) s = done (hoopCtrlWrite s (v ||| w32 (2 ^ 30))) := rfl

/-! ### Aborting -/

theorem hoop_of_outside {w : List Part} {s t : State} (h : t.outside w = s.outside w) (hh : .hoop ∉ w) (hr : .ref ∉ w)
    (hg : .hoopRegs ∉ w) (ha : .abort ∉ w) (hs : .stacks ∉ w) : t.hoop = s.hoop := by
  simpa [State.outside, hh, hr, hg, ha, hs] using congrArg State.hoop h

/-- Every part but the generator's. -/
def outsideHoop : List Part := allBut [.hoop, .ref, .hoopRegs, .abort, .stacks]

theorem hoop_of_outsideHoop {s t : State} (h : t.outside outsideHoop = s.outside outsideHoop) : t.hoop = s.hoop :=
  hoop_of_outside h (by simp [outsideHoop]) (by simp [outsideHoop]) (by simp [outsideHoop]) (by simp [outsideHoop])
    (by simp [outsideHoop])

theorem markAbort_hoop (s : State) (cause port entry : Nat) : ∃ b, (markAbort s cause port entry).hoop =
    { s.hoop with aborted := true, lastCause := cause, consecAborts := s.hoop.consecAborts + 1, stormArmed := b } := by
  have hmark : ∀ u : State, u.hoop = { s.hoop with
      aborted := true, lastCause := cause, consecAborts := s.hoop.consecAborts + 1 } → ∀ p d : Nat,
      (noticeBoth u 0x0506 p d).hoop = { s.hoop with
        aborted := true, lastCause := cause, consecAborts := s.hoop.consecAborts + 1 } :=
    fun u hu _ _ => (noticeBoth_hoop ..).trans hu
  unfold markAbort
  extract_lets h n counted told storm g
  have htold : told.hoop = { s.hoop with
      aborted := true, lastCause := cause, consecAborts := s.hoop.consecAborts + 1 } := hmark counted (latchCount_hoop ..) _ _
  clear_value told
  split
  · exact ⟨_, (noticeBoth_hoop ..).trans (by rw [setHoop_hoop]; unfold g; rw [htold])⟩
  · exact ⟨_, htold⟩

theorem abortHoop_hoop {s : State} (h : s.hoop.fStarted = true) (ha : s.hoop.aborted = false) (cause port entry : Nat) :
    ∃ b, (abortHoop s cause port entry).hoop =
      { s.hoop with aborted := true, lastCause := cause, consecAborts := s.hoop.consecAborts + 1, stormArmed := b } := by
  obtain ⟨b, hb⟩ := markAbort_hoop s cause port entry
  refine ⟨b, Eq.trans ?_ hb⟩
  unfold abortHoop
  rw [if_pos (by rw [h, ha]; rfl)]
  exact hoop_of_outsideHoop (by simp [outsideHoop])

theorem fclkBoundary_none {s : State} (h : s.hoop.fDue = false) : fclkBoundary s = s := by
  unfold fclkBoundary
  rw [h]
  rfl

theorem hoopCtrlWrite_abort {s : State} {v : Word} (hrun : s.hoop.running = true) (h31 : bitW v 31 = true)
    (h30 : bitW v 30 = true) (hdue : s.hoop.fDue = false) (hnot : reached s.tim.q s.hoop.bNext = false) :
    hoopCtrlWrite s v = abortHoop (setHoop (plainWrite s HOOP_CTRL v) { s.hoop with stopAtNext := false }) 3 0 0 := by
  have hnone : noBoundaryDue (setHoop (plainWrite s HOOP_CTRL v) { s.hoop with stopAtNext := false }) := by
    simp [noBoundaryDue, setHoop, hnot]
  have hwrite : hoopCtrlWrite s v = abortHoop (fclkBoundary (dueBoundary
      (setHoop (plainWrite s HOOP_CTRL v) { s.hoop with stopAtNext := false }))) 3 0 0 := by
    unfold hoopCtrlWrite
    simp only [h31, h30, plainWrite_hoop, hrun, if_true]
  rw [hwrite, dueBoundary_none hnone]
  exact congrArg (abortHoop · 3 0 0) (fclkBoundary_none hdue)

/-! ### Boundaries -/

theorem nextNumber_congr {s t : State} (hh : t.hoop = s.hoop) (hr : reg t HOOP_START_NUM = reg s HOOP_START_NUM) :
    nextNumber t = nextNumber s := by
  rw [nextNumber, hh, hr, nextNumber]

theorem runTo_hoop (q : Nat) (s : State) : (runTo q s).hoop = s.hoop := tick_hoop _ s

theorem stopHoops_mark (s : State) : (stopHoops s).hoop.running = false ∧ (stopHoops s).hoop.number = s.hoop.number := by
  unfold stopHoops
  exact ⟨(congrArg HoopGen.running (noticeBoth_hoop ..)).trans rfl, (congrArg HoopGen.number (noticeBoth_hoop ..)).trans rfl⟩

theorem mark_of_outsideHoop {s t : State} (h : t.outside (allBut [.hoop]) = s.outside (allBut [.hoop])) :
    t.hoop.running = s.hoop.running ∧ t.hoop.number = s.hoop.number :=
  ⟨congrArg (·.1) (mark_of_outside h), congrArg (·.2.2.2.2.1) (mark_of_outside h)⟩

/-- The boundary at which a stopping generator stops. -/
theorem hoopBoundary_stops {s : State} (hrun : s.hoop.running = true) (hearly : s.hoop.early ≠ some s.tim.cyc)
    (hdue : s.hoop.fDue = false) (hstop : s.hoop.stopAtNext = true) :
    (hoopBoundary s).hoop.running = false ∧ (hoopBoundary s).hoop.number = s.hoop.number := by
  have hstand := runTo_hoop s.hoop.bNext s
  unfold hoopBoundary
  rw [if_neg hearly, fclkBoundary_none hdue]
  dsimp only
  rw [if_pos hrun, hstand, if_pos hstop]
  generalize runTo s.hoop.bNext s = u at *
  have hended := mark_of_outsideHoop (s := u) (t := endRun u s.hoop.bNext) (by simp)
  generalize endRun u s.hoop.bNext = v at *
  have hclosed := stopHoops_mark (setHoop v { v.hoop with fStarted := false })
  generalize stopHoops (setHoop v { v.hoop with fStarted := false }) = x at *
  have hlanded := mark_of_outsideHoop (s := x) (t := landWrites (releaseAll x)) (by simp)
  rw [hlanded.1, hlanded.2, hclosed.1, hclosed.2]
  exact ⟨rfl, hended.2.trans (by rw [hstand])⟩

theorem hoopBoundary_raises {s : State} (hs : s.sound) (hrun : s.hoop.running = true) (hearly : s.hoop.early ≠ some s.tim.cyc)
    (hdue : s.hoop.fDue = false) (hgo : s.hoop.stopAtNext = false) :
    (hoopBoundary s).hoop.mark = (true, true, true, s.hoop.bNext, nextNumber s, s.hoop.fNumber) := by
  have hstand := runTo_hoop s.hoop.bNext s
  have hnumber : nextNumber (runTo s.hoop.bNext s) = nextNumber s := nextNumber_congr hstand (tick_reg_low hs.1 _ (by decide))
  unfold hoopBoundary
  rw [if_neg hearly, fclkBoundary_none hdue]
  dsimp only
  rw [if_pos hrun, hstand, if_neg (by simp [hgo]), raiseBoundary_mark, hnumber, hstand, hrun]

/-- Settles O22: the generator starts, stops and aborts by one write, and each boundary takes the next number. -/
theorem generatorControl : Obligations.GeneratorControl := by
  unfold Obligations.GeneratorControl
  refine ⟨fun v s hs => ⟨fun hrun h30 => ?_, fun hrun h30 => ?_, fun hrun h31 hf ha hdue hnot => ?_⟩,
    fun s hs hrun => ⟨fun hearly => ?_, fun hearly hdue => ⟨fun hstop => ?_, fun hgo => ?_⟩⟩⟩
  · rw [exec_hoopRunStart, hoopCtrlWrite_start hrun (bitW_kick_self v (by decide)) ((bitW_kick_other (by decide)).trans h30)]
    obtain ⟨u, hu, hspec⟩ := startHoops_latched hs (v ||| w32 (2 ^ 31))
    exact ⟨u, congrArg done hu, hspec⟩
  · have h31 : bitW (v &&& 0x7FFFFFFF) 31 = false := by
      rw [bitW_and, show bitW 0x7FFFFFFF 31 = false by decide, Bool.and_false]
    have h30' : bitW (v &&& 0x7FFFFFFF) 30 = false := by rw [bitW_and, h30, Bool.false_and]
    rw [exec_hoopRunStop, hoopCtrlWrite_stop hrun h31 h30']
    exact ⟨_, rfl, rfl, plainWrite_keepsRegs hs.regs _ _, by rw [plainWrite_eq_regs]; rfl⟩
  · rw [exec_hoopAbortKick, hoopCtrlWrite_abort hrun ((bitW_kick_other (by decide)).trans h31) (bitW_kick_self v (by decide)) hdue hnot]
    obtain ⟨b, hb⟩ := abortHoop_hoop (s := setHoop (plainWrite s HOOP_CTRL (v ||| w32 (2 ^ 30))) { s.hoop with stopAtNext := false })
      hf ha 3 0 0
    exact ⟨_, rfl, by rw [hb], by rw [hb], by rw [hb]; rfl, by rw [hb]; exact hrun, by rw [hb]; rfl⟩
  · exact congrArg done (if_pos hearly)
  · exact ⟨_, rfl, hoopBoundary_stops hrun hearly hdue hstop⟩
  · have hmark := hoopBoundary_raises hs hrun hearly hdue hgo
    have hnumber : (hoopBoundary s).hoop.number = nextNumber s := congrArg (·.2.2.2.2.1) hmark
    refine ⟨_, rfl, congrArg (·.1) hmark, congrArg (·.2.1) hmark, congrArg (·.2.2.1) hmark, congrArg (·.2.2.2.1) hmark,
      congrArg (·.2.2.2.2.2) hmark, fun hr hk => ?_, fun k hr hk => ?_, fun hr hk => ?_⟩
    · rw [hnumber, nextNumber, hr, hk]
      rfl
    · rw [hnumber, nextNumber, hr, hk]
      rfl
    · rw [hnumber, nextNumber, hr, hk]
      rfl

end Sys2Proof.Machine

/-! What the operations of the host interface leave outside their parts. -/
namespace Sys2Proof.Machine

section
variable {w : List Part} (hn : Notices w) (hrings : .rings ∈ w)
include hn hrings

@[simp] theorem ringFault_outside (s : State) (n why addr : Nat) :
    (ringFault s n why addr).outside w = s.outside w := by
  unfold ringFault
  simp [Hif.outside, hn, hrings]

@[simp] theorem takeTail_outside (s : State) (n : Nat) (v : Word) : (takeTail s n v).outside w = s.outside w := by
  unfold takeTail
  (repeat' split) <;> simp [Hif.outside, hn, hrings]

@[simp] theorem fetchFail_outside (s : State) (addr : Nat) : (fetchFail s addr).outside w = s.outside w := by
  unfold fetchFail
  (repeat' split) <;> simp [Hif.outside, hn, hrings]

end

section
variable {w : List Part} (hn : Notices w) (htrack : .track ∈ w) (hstages : .stages ∈ w) (hacks : .acks ∈ w)
include hn htrack hstages hacks

@[simp] theorem judgeLoad_outside (s : State) (t : Track) : (judgeLoad s t).outside w = s.outside w := by
  unfold judgeLoad
  simp [hn, htrack, hstages, hacks]

@[simp] theorem serveLoads_outside (n : Nat) (y1 : State) (y2 : Nat) :
    (serveLoads n y1 y2).outside w = y1.outside w := by
  induction n generalizing y1 with
  | zero => rfl
  | succ n ih =>
    unfold serveLoads
    (repeat' split) <;> simp [hn, htrack, hstages, hacks, ih]

@[simp] theorem nextLoad_outside (s : State) (p : Nat) : (nextLoad s p).outside w = s.outside w := by
  unfold nextLoad
  simp [hn, htrack, hstages, hacks]

end

section
variable {w : List Part} (hjobs : .jobs ∈ w)
include hjobs

@[simp] theorem popJob_outside (s : State) : (popJob s).outside w = s.outside w := by
  unfold popJob
  simp [Upd.outside, hjobs]

@[simp] theorem setJob_outside (s : State) (j : StoreJob) : (setJob s j).outside w = s.outside w := by
  unfold setJob
  simp [Upd.outside, hjobs]

end

section
variable {w : List Part} (hupd : .upd ∈ w)
include hupd

@[simp] theorem resumeWindow_outside (s : State) : (resumeWindow s).outside w = s.outside w := by
  unfold resumeWindow
  simp [Upd.outside, hupd]

@[simp] theorem settleAct_outside (s : State) : (settleAct s).outside w = s.outside w := by
  unfold settleAct
  (repeat' split) <;> simp [Upd.outside, hupd]

end

section
variable {w : List Part} (hn : Notices w) (hregs : .regs ∈ w) (hrings : .rings ∈ w)
include hn hregs hrings

@[simp] theorem takeRelease_outside (s : State) (m : Nat) (v : Word) :
    (takeRelease s m v).outside w = s.outside w := by
  unfold takeRelease
  (repeat' split) <;> simp [Hif.outside, hn, hregs, hrings]

@[simp] theorem pollReturn_outside (s : State) (ok : Bool) (tails releases : List Word) (addr : Nat) :
    (pollReturn s ok tails releases addr).outside w = s.outside w := by
  unfold pollReturn
  (repeat' split) <;> simp [Hif.outside, hn, hregs, hrings]

end

section
variable {w : List Part} (hwin : .win ∈ w)
include hwin

@[simp] theorem leaveWindow_outside (s : State) (id : Nat) : (leaveWindow s id).outside w = s.outside w := by
  unfold leaveWindow
  simp [Window.outside, hwin]

end

section
variable {w : List Part} (hn : Notices w) (htrack : .track ∈ w) (hwin : .win ∈ w) (hacks : .acks ∈ w)
include hn htrack hwin hacks

@[simp] theorem removeJobs_outside (s : State) (n : Nat) (ids : List Nat) (st : Nat) :
    (removeJobs s n ids st).outside w = s.outside w := by
  unfold removeJobs
  simp [hn, htrack, hwin, hacks]

@[simp] theorem disableRing_outside (s : State) (n : Nat) : (disableRing s n).outside w = s.outside w := by
  unfold disableRing
  simp [Hif.outside, hn, htrack, hwin, hacks]

@[simp] theorem runAbort_outside (s : State) (id : Nat) (d : Desc) : (runAbort s id d).outside w = s.outside w := by
  unfold runAbort
  simp [hn, htrack, hwin, hacks]

end

section
variable {w : List Part} (hboot : .boot ∈ w)
include hboot

@[simp] theorem failPush_outside (s : State) : (failPush s).outside w = s.outside w := by
  unfold failPush
  (repeat' split) <;> simp [hboot]

end

section
variable {w : List Part} (hshared : .shared ∈ w)
include hshared

@[simp] theorem sharedWrite_outside (s : State) (a : Nat) (bs : List Byte) :
    (sharedWrite s a bs).outside w = s.outside w := by
  unfold sharedWrite
  simp [Ccs.outside, hshared]

end

section
variable {w : List Part} (htrack : .track ∈ w)
include htrack

@[simp] theorem running_outside (s : State) (id : Nat) : (running s id).outside w = s.outside w := by
  unfold running
  simp [htrack]

end

section
variable {w : List Part} (hn : Notices w) (htrack : .track ∈ w) (hacks : .acks ∈ w)
include hn htrack hacks

@[simp] theorem release_outside (s : State) (id : Nat) : (release s id).outside w = s.outside w := by
  unfold release
  (repeat' split) <;> simp [hn, htrack, hacks]

@[simp] theorem judgeBlock_outside (s : State) (t : Track) : (judgeBlock s t).outside w = s.outside w := by
  unfold judgeBlock
  (repeat' split) <;> simp [hn, htrack, hacks]

@[simp] theorem serveBlocks_outside (n : Nat) (y1 : State) :
    (serveBlocks n y1).outside w = y1.outside w := by
  induction n generalizing y1 with
  | zero => rfl
  | succ n ih =>
    unfold serveBlocks
    (repeat' split) <;> simp [hn, htrack, hacks, ih]

@[simp] theorem nextBlock_outside (s : State) : (nextBlock s).outside w = s.outside w := by
  unfold nextBlock
  simp [hn, htrack, hacks]

end

section
variable {w : List Part} (hmac : .mac ∈ w)
include hmac

@[simp] theorem settleWaiting_outside (s : State) : (settleWaiting s).outside w = s.outside w := by
  unfold settleWaiting
  simp [hmac]

end

section
variable {w : List Part} (hrings : .rings ∈ w) (hout : .out ∈ w)
include hrings hout

@[simp] theorem writeHead_outside (s : State) (n : Nat) : (writeHead s n).outside w = s.outside w := by
  unfold writeHead
  (repeat' split) <;> simp [Hif.outside, hrings, hout]

end

section
variable {w : List Part} (htrack : .track ∈ w) (hjobs : .jobs ∈ w)
include htrack hjobs

@[simp] theorem startJob_outside (s : State) (j : StoreJob) : (startJob s j).outside w = s.outside w := by
  unfold startJob
  (repeat' split) <;> simp [htrack, hjobs]

end

section
variable {w : List Part} (hn : Notices w) (htim : .tim ∈ w)
include hn htim

@[simp] theorem vectorTimer_outside (s : State) (v : Nat) : (vectorTimer s v).outside w = s.outside w := by
  unfold vectorTimer
  simp [hn, htim]

end

section
variable {w : List Part} (hregs : .regs ∈ w) (hrecords : .records ∈ w) (hout : .out ∈ w)
include hregs hrecords hout

@[simp] theorem msixUnmask_outside (s : State) (v : Nat) : (msixUnmask s v).outside w = s.outside w := by
  unfold msixUnmask
  dsimp only
  split
  · have hreg : (setReg s (MSIX_CTRL v) 0).outside w = s.outside w := setReg_outside _ (mayChange_any hregs _) _
    generalize setReg s (MSIX_CTRL v) 0 = u at *
    rw [← hreg]
    simp [setVec, Hif.outside, hrecords, hout]
  · simp [hregs]

end

section
variable {w : List Part} (hn : Notices w) (hregs : .regs ∈ w) (htrack : .track ∈ w)
include hn hregs htrack

@[simp] theorem noteInFlight_outside (s : State) : (noteInFlight s).outside w = s.outside w := by
  unfold noteInFlight
  simp [Hif.outside, hn, hregs, htrack]

end

section
variable {w : List Part} (hn : Notices w) (hregs : .regs ∈ w) (htrack : .track ∈ w) (hrings : .rings ∈ w)
  (hacks : .acks ∈ w)
include hn hregs htrack hrings hacks

@[simp] theorem fetchOne_outside (n : Nat) (s : State) (d : Desc) : (fetchOne n s d).outside w = s.outside w := by
  unfold fetchOne
  simp [Hif.outside, hn, hregs, htrack, hrings, hacks]

@[simp] theorem fetchSlots_outside (s : State) (n : Nat) (slots : List Desc) :
    (fetchSlots s n slots).outside w = s.outside w := by
  unfold fetchSlots
  simp [hn, hregs, htrack, hrings, hacks]

@[simp] theorem fetch_outside (s : State) (slots : List Desc) : (fetch s slots).outside w = s.outside w := by
  unfold fetch
  (repeat' split) <;> simp [Hif.outside, hn, hregs, htrack, hrings, hacks]

end

section
variable {w : List Part} (hn : Notices w) (htrack : .track ∈ w) (hrings : .rings ∈ w)
include hn htrack hrings

@[simp] theorem completionWrite_outside (s : State) (m : Nat) : (completionWrite s m).outside w = s.outside w := by
  unfold completionWrite
  (repeat' split) <;> simp [Hif.outside, hn, htrack, hrings]

end

section
variable {w : List Part} (hn : Notices w) (hrings : .rings ∈ w) (htim : .tim ∈ w)
include hn hrings htim

@[simp] theorem pollIssue_outside (s : State) : (pollIssue s).outside w = s.outside w := by
  unfold pollIssue
  dsimp only
  split
  · refine (foldl_outside (fun t i => by simp [hn, hrings]) _ _).trans ?_
    split <;> simp [Hif.outside, Hif.outside, hn, hrings, htim]
  · rfl

end

section
variable {w : List Part} (hn : Notices w) (htrack : .track ∈ w) (hjobs : .jobs ∈ w) (hacks : .acks ∈ w)
include hn htrack hjobs hacks

@[simp] theorem storeOutcome_outside (s : State) (j : StoreJob) (st r0 : Nat) :
    (storeOutcome s j st r0).outside w = s.outside w := by
  unfold storeOutcome
  (repeat' split) <;> simp [Upd.outside, hn, htrack, hjobs, hacks]

end

section
variable {w : List Part} (hn : Notices w) (htrack : .track ∈ w) (hjobs : .jobs ∈ w) (hupd : .upd ∈ w)
  (hacks : .acks ∈ w)
include hn htrack hjobs hupd hacks

@[simp] theorem refuseSupply_outside (s : State) (j : StoreJob) (r0 : Nat) :
    (refuseSupply s j r0).outside w = s.outside w := by
  unfold refuseSupply
  (repeat' split) <;> simp [hn, htrack, hjobs, hupd, hacks]

end

section
variable {w : List Part} (hn : Notices w) (htrack : .track ∈ w) (hshared : .shared ∈ w) (hjobs : .jobs ∈ w)
  (hacks : .acks ∈ w)
include hn htrack hshared hjobs hacks

@[simp] theorem serveRead_outside (s : State) (j : StoreJob) : (serveRead s j).outside w = s.outside w := by
  unfold serveRead
  dsimp only
  (repeat' split) <;> simp [hn, htrack, hshared, hjobs, hacks]

end

section
variable {w : List Part} (hn : Notices w) (htrack : .track ∈ w) (hshared : .shared ∈ w) (hjobs : .jobs ∈ w)
  (hupd : .upd ∈ w) (hacks : .acks ∈ w)
include hn htrack hshared hjobs hupd hacks

@[simp] theorem serveJobs_outside (n : Nat) (y1 : State) :
    (serveJobs n y1).outside w = y1.outside w := by
  induction n generalizing y1 with
  | zero => rfl
  | succ n ih =>
    unfold serveJobs
    (repeat' split) <;> simp [hn, htrack, hshared, hjobs, hupd, hacks, ih]

@[simp] theorem serve_outside (s : State) : (serve s).outside w = s.outside w := by
  unfold serve
  simp [hn, htrack, hshared, hjobs, hupd, hacks]

@[simp] theorem settleJobs_outside (s : State) : (settleJobs s).outside w = s.outside w := by
  unfold settleJobs
  simp [Upd.outside, hn, htrack, hshared, hjobs, hupd, hacks]

end

section
variable {w : List Part} (hn : Notices w) (htrack : .track ∈ w) (hstages : .stages ∈ w) (hmac : .mac ∈ w)
  (hshared : .shared ∈ w) (hjobs : .jobs ∈ w) (hupd : .upd ∈ w) (hacks : .acks ∈ w)
include hn htrack hstages hmac hshared hjobs hupd hacks

@[simp] theorem settle_outside (s : State) : (settle s).outside w = s.outside w := by
  unfold settle
  simp [hn, htrack, hstages, hmac, hshared, hjobs, hupd, hacks]

end


end Sys2Proof.Machine

/-! Interrupts, lost notices and the host port's own registers (R42, R45, R61, R79, R80, R385, R394). -/
namespace Sys2Proof.Machine

/-! ### Vectors -/

theorem vecOf_setVec {s : State} (hs : s.canon) (v : Nat) (x : Vec) : vecOf (setVec s v x) v = x := by
  simp [vecOf, setVec, tget_tput hs.hif.vecs]

/-- A message that is due is sent, or kept pending where the vector is masked. -/
theorem signalVector_spec {s : State} (hs : s.canon) (v : Nat) :
    (vecOf (signalVector s v) v).count = 0 ∧ (vecOf (signalVector s v) v).timerRunning = false ∧
      (regBit s (MSIX_CTRL v) 0 = false → (signalVector s v).out = s.out ++ [.message v]) ∧
      (regBit s (MSIX_CTRL v) 0 = true → (signalVector s v).out = s.out ∧ (vecOf (signalVector s v) v).pending = true) := by
  by_cases h : regBit s (MSIX_CTRL v) 0 = true
  · have hs' : signalVector s v = setVec s v ⟨0, false, 0, true⟩ := if_pos h
    rw [hs', vecOf_setVec hs]
    exact ⟨rfl, rfl, fun hm => absurd h (by simp [hm]), fun _ => ⟨rfl, rfl⟩⟩
  · have hs' : signalVector s v = { setVec s v ⟨0, false, 0, (vecOf s v).pending⟩ with out := s.out ++ [.message v] } := if_neg h
    have hv : vecOf (signalVector s v) v = ⟨0, false, 0, (vecOf s v).pending⟩ := by
      rw [hs']
      exact vecOf_setVec hs v _
    rw [hv, hs']
    exact ⟨rfl, rfl, fun _ => rfl, fun hm => absurd hm h⟩

/-- A notice to firmware alone writes nothing to the host. -/
theorem fwNotice_out (s : State) (src : Nat) (n : Notice) : (fwNotice s src n).out = s.out := by
  have place : ∀ (o : Outbox) (p : Packet), (if o.packets.length < 4 then setOutbox s src { o with packets := o.packets ++ [p] }
      else latchCount (setOutbox s src { o with dropped := o.dropped + 1, droppedQueue := p.queue }) (CCS_SRC_DROP src) 15 0 1).out =
      s.out := fun o p => by
    split
    · rfl
    · exact latchCount_out ..
  unfold fwNotice placePacket
  split
  · exact latchCount_out ..
  · exact place _ _

theorem tick_out (n : Nat) (s : State) : (tick n s).out = s.out := by
  unfold tick
  dsimp only
  split
  · exact (fwNotice_out ..).trans rfl
  · rfl

theorem vectorTimer_eq {s : State} {v : Nat} (hrun : (vecOf s v).timerRunning = true) (ht : regFld s (HIF_VEC_MOD v) 25 16 ≠ 0) :
    vectorTimer s v = signalVector (runToCycle ((vecOf s v).timerStart + regFld s (HIF_VEC_MOD v) 25 16 * 250) s) v := by
  simp only [vectorTimer, hrun]
  exact if_pos (by simpa using ht)

theorem msixUnmask_spec {s : State} (hs : s.canon) (v : Nat) :
    regBit (msixUnmask s v) (MSIX_CTRL v) 0 = false ∧ (vecOf (msixUnmask s v) v).pending = false ∧
      (msixUnmask s v).out = s.out ++ (if (vecOf s v).pending then [.message v] else []) ∧
      keepsRegs [MSIX_CTRL v] s (msixUnmask s v) := by
  have hcanon : (setReg s (MSIX_CTRL v) 0).canon := (setReg_keeps _ _ _ (.refl s)).canon hs
  have hreg : ∀ a, reg (msixUnmask s v) a = reg (setReg s (MSIX_CTRL v) 0) a := fun a => by
    unfold msixUnmask
    dsimp only
    split <;> rfl
  have hkeep : keepsRegs [MSIX_CTRL v] s (msixUnmask s v) := fun a ha _ => by
    rw [hreg, reg_setReg_twf hs.regs, if_neg (by simpa using ha)]
  have hmask : regBit (msixUnmask s v) (MSIX_CTRL v) 0 = false := by
    rw [regBit, hreg, reg_setReg_twf hs.regs, if_pos rfl]
    rfl
  refine ⟨hmask, ?_, ?_, hkeep⟩
  · unfold msixUnmask
    dsimp only
    split
    · exact congrArg Vec.pending (vecOf_setVec hcanon v _)
    next h => simpa using h
  · have hvec : vecOf (setReg s (MSIX_CTRL v) 0) v = vecOf s v := rfl
    unfold msixUnmask
    dsimp only
    rw [hvec]
    split
    · rfl
    · simp

/-! ### Lost notices -/

theorem countRecord_out (s : State) (v : Nat) (urgent : Bool) : ∃ after, (countRecord s v urgent).out = s.out ++ after := by
  have signalled : ∃ after, (signalVector s v).out = s.out ++ after := by
    unfold signalVector
    split
    · exact ⟨[], (List.append_nil _).symm⟩
    · exact ⟨_, rfl⟩
  unfold countRecord
  dsimp only
  split
  · exact signalled
  · exact ⟨[], (List.append_nil _).symm⟩

theorem countRecord_noticesLost (s : State) (v : Nat) (urgent : Bool) : (countRecord s v urgent).hif.noticesLost = s.hif.noticesLost := by
  unfold countRecord signalVector
  dsimp only
  split
  · split <;> rfl
  · rfl

theorem flushLost_reports {s : State} {m : Nat} (hm : noticeRing s = some m) (he : engineRuns s = true) (hr : cqRoom s m = true)
    (hlost : s.hif.noticesLost ≠ 0) : ∃ after, (flushLost s).hif.noticesLost = 0 ∧
      (flushLost s).out = s.out ++ [.notice m (prodOf s m).toNat (cqAddr s m (prodOf s m))
        ((Notice.mk 0x0103 0 s.hoop.number s.hif.noticesLost).bytes (phaseBit (prodOf s m) (cqLog s m) * 128 + 64))] ++ after := by
  have h : flushLost s = writeNotice { s with hif := { s.hif with noticesLost := 0 } } m
      ⟨0x0103, 0, s.hoop.number, s.hif.noticesLost⟩ := by
    simp only [flushLost, hm]
    exact if_pos (by simp [hlost, he, hr])
  rw [h]
  unfold writeNotice
  extract_lets hif p prod u
  obtain ⟨after, hafter⟩ := countRecord_out u (cqVector u m) false
  exact ⟨after, countRecord_noticesLost .., hafter⟩

theorem flushLost_none {s : State} (h : s.hif.noticesLost = 0) : flushLost s = s := by
  unfold flushLost
  split
  · exact if_neg (by simp [h])
  · rfl

/-! ### The registers HIF_CTRL and HIF_POLL -/

/-- A field of Set bits holds what is written to it. -/
theorem regFld_plainWrite_set {s : State} (hs : twf regReset s.regs = true) {a hi lo : Nat} {r : RegRow} (hrow : regRow a = some r)
    (hl : r.latch = 0) (hc : r.counts = []) (hset : ∀ k, lo ≤ k → k ≤ hi → bitW (w32 r.set) k = true) (v : Word) :
    regFld (plainWrite s a v) a hi lo = fld v hi lo := by
  rw [regFld, plainWrite_row hrow, reg_setReg_twf hs, if_pos rfl]
  exact fld_congr fun k hlo hhi => bitW_written_set hl hc _ _ v (hset k hlo hhi)

theorem regRow_hifCtrl : regRow HIF_CTRL = some ⟨0x10000, 0, 0, 1, 0, 3, 0, [], 0⟩ := by decide +kernel
theorem regRow_hifPoll : regRow HIF_POLL = some ⟨0x10020, 0, 0, 1, 4, 0xFF, 0, [], 0⟩ := by decide +kernel

/-- Settles O9: each part of the host port acts on its own vector, register or pin. -/
theorem hostPort : Obligations.HostPort := by
  unfold Obligations.HostPort
  refine ⟨⟨fun v s hs hrun ht => ?_, fun v s hs => ?_, fun m s hm he hr hlost => ?_⟩, fun v s => ⟨fun hs hlost => ?_, fun hs => ?_,
    fun a ha => if_pos ha, fun a ha => if_neg (by omega), rfl, fun hp hr => ?_⟩⟩
  · have hcanon := (runToCycle_keeps ((vecOf s v).timerStart + regFld s (HIF_VEC_MOD v) 25 16 * 250) s (.refl s)).canon hs
    have hmask := regBit_congr (tick_reg_low hs.regs ((vecOf s v).timerStart + regFld s (HIF_VEC_MOD v) 25 16 * 250 - s.tim.cyc)
      (a := MSIX_CTRL v) (by unfold MSIX_CTRL; omega)) 0
    have hout := tick_out ((vecOf s v).timerStart + regFld s (HIF_VEC_MOD v) 25 16 * 250 - s.tim.cyc) s
    obtain ⟨hcount, htimer, hsent, hkept⟩ := signalVector_spec hcanon v
    rw [← vectorTimer_eq hrun ht] at hcount htimer hsent hkept
    refine ⟨_, rfl, hcount, htimer, fun h => ?_, fun h => ?_, onlyHost_of_outside (by simp)⟩
    · exact (hsent (hmask.trans h)).trans (congrArg (· ++ _) hout)
    · exact ⟨(hkept (hmask.trans h)).1.trans hout, (hkept (hmask.trans h)).2⟩
  · obtain ⟨hmask, hpend, hout, hkeep⟩ := msixUnmask_spec hs v
    exact ⟨_, rfl, hmask, hpend, hout, hkeep, onlyHost_of_outside (by simp)⟩
  · obtain ⟨after, hzero, hout⟩ := flushLost_reports hm he hr hlost
    exact ⟨_, after, rfl, hzero, hout, onlyHost_of_outside (by simp)⟩
  · have hwrite : writeHifCtrl s v = plainWrite s HIF_CTRL v :=
      flushLost_none ((congrArg (·.hif.noticesLost) (plainWrite_eq_regs s HIF_CTRL v)).trans hlost)
    refine ⟨_, congrArg done hwrite, ?_, plainWrite_keepsRegs hs.regs _ _, plainWrite_eq_regs ..⟩
    rw [regFld_plainWrite_set hs.regs regRow_hifCtrl rfl rfl (fun k _ hk => ?_)]
    · simp [fld, bits]
    · interval_cases k <;> decide
  · refine ⟨_, rfl, ?_, plainWrite_keepsRegs hs.regs _ _, plainWrite_eq_regs ..⟩
    rw [regFld_plainWrite_set hs.regs regRow_hifPoll rfl rfl (fun k _ hk => ?_)]
    · simp [fld, bits]
    · interval_cases k <;> decide
  · exact congrArg done (if_pos (by simp [hp, hr]))

end Sys2Proof.Machine

/-! Resets of the host interface (R78): what the reset leaves, and that what follows it moves nothing of it. -/
namespace Sys2Proof.Machine

/-! ### While no ring takes notices -/

/-- From `s` on to `t`, where no ring takes notices, the registers below `b` and the producer counts stand, and every tracker
entry is one that was there, on the same ring, discarded or not as before, and no further from its end; the next is numbered as before. -/
structure Still (b : Nat) (s t : State) : Prop where
  regs : twf regReset s.regs = true → noticeRing s = none →
    twf regReset t.regs = true ∧ (∀ a, a < b → reg t a = reg s a) ∧ t.hif.prod = s.hif.prod
  track : ∀ x, x ∈ t.hif.track → ∃ y, y ∈ s.hif.track ∧ y.ring = x.ring ∧ y.orphan = x.orphan ∧ (y.past = true → x.past = true)
  nextId : t.hif.nextId = s.hif.nextId

theorem noticeRing_congr {s t : State} (h : ∀ m, m < 64 → reg t (HIF_CQ_CTRL m) = reg s (HIF_CQ_CTRL m)) :
    noticeRing t = noticeRing s := by
  unfold noticeRing
  refine List.find?_congr fun m hm => ?_
  simp only [cqEnabled, cqNotice, regBit, h m (List.mem_range.1 hm)]

section
variable {b : Nat} {s t u : State}

theorem Still.of_eq (hr : t.regs = s.regs) (hp : t.hif.prod = s.hif.prod) (ht : t.hif.track = s.hif.track)
    (hn : t.hif.nextId = s.hif.nextId := by rfl) : Still b s t :=
  ⟨fun h _ => ⟨hr ▸ h, fun a _ => by rw [reg, hr, reg], hp⟩, fun x hx => ⟨x, ht ▸ hx, rfl, rfl, id⟩, hn⟩

theorem Still.refl : Still b s s := .of_eq rfl rfl rfl

section
variable (hb : 0x20000 ≤ b)
include hb

theorem Still.shut (h : Still b s t) (hs : twf regReset s.regs = true) (hn : noticeRing s = none) : noticeRing t = none := by
  rw [noticeRing_congr fun m hm => (h.regs hs hn).2.1 _ (by unfold HIF_CQ_CTRL; omega), hn]

theorem Still.trans (h : Still b s t) (k : Still b t u) : Still b s u where
  regs hs hn := by
    obtain ⟨ht, hregs, hprod⟩ := h.regs hs hn
    obtain ⟨hu, kregs, kprod⟩ := k.regs ht (h.shut hb hs hn)
    exact ⟨hu, fun a ha => (kregs a ha).trans (hregs a ha), kprod.trans hprod⟩
  track x hx := by
    obtain ⟨y, hy, hring, horphan, hpast⟩ := k.track x hx
    obtain ⟨z, hz, kring, korphan, kpast⟩ := h.track y hy
    exact ⟨z, hz, kring.trans hring, korphan.trans horphan, fun h => hpast (kpast h)⟩
  nextId := k.nextId.trans h.nextId

theorem Still.foldl {α : Type} {f : State → α → State} (hf : ∀ v x, Still b v (f v x)) (l : List α) : Still b s (l.foldl f s) :=
  List.foldlRecOn (motive := Still b s) l f .refl fun _ ht x _ => ht.trans hb (hf _ x)

end

theorem Still.ite {c : Prop} [Decidable c] (h : Still b s t) (k : Still b s u) : Still b s (if c then t else u) := by
  split <;> assumption

end

section
variable {b : Nat} (s : State)

/-! ### Notices and latches -/

theorem hostNotice_shut {s : State} (h : noticeRing s = none) (n : Notice) : hostNotice s n = s := by
  have hf : flushLost s = s := by simp only [flushLost, h]
  simp only [hostNotice, hf, h]

theorem noticesOnly_track {s t : State} (h : NoticesOnly s t) (x : Track) (hx : x ∈ t.hif.track) :
    ∃ y, y ∈ s.hif.track ∧ y.ring = x.ring ∧ y.orphan = x.orphan ∧ (y.past = true → x.past = true) :=
  ⟨x, (congrArg Hif.track h.hif :) ▸ hx, rfl, rfl, id⟩

theorem notice_host_still (code inst detail : Nat) : Still b s (notice s code inst detail true false) where
  regs hs hn := by
    have : notice s code inst detail true false = s := hostNotice_shut hn _
    rw [this]
    exact ⟨hs, fun _ _ => rfl, rfl⟩
  track := noticesOnly_track (notice_noticesOnly _ _ _ _ _ (.refl s))
  nextId := (congrArg Hif.nextId (notice_noticesOnly _ _ _ _ _ (.refl s)).hif :)

theorem setLatch_still {a : Nat} (ha : b ≤ a) (v g : Word) : Still b s (setLatch s a v g) where
  regs hs _ := ⟨by rw [regs_setLatch]; exact tput_twf hs, fun k hk => by rw [reg_setLatch hs, if_neg (by omega)], by rw [setLatch_hif]⟩
  track x hx := ⟨x, by rwa [setLatch_hif] at hx, rfl, rfl, id⟩
  nextId := by rw [setLatch_hif]

theorem latch_still {a : Nat} (ha : b ≤ a) (k : Nat) : Still b s (latch s a k) := setLatch_still s ha _ _

theorem latchCount_still {a : Nat} (ha : b ≤ a) (hi lo n : Nat) : Still b s (latchCount s a hi lo n) := setLatch_still s ha _ _

theorem fwNotice_still (hb : b ≤ 0x341000) (src : Nat) (n : Notice) : Still b s (fwNotice s src n) where
  regs hs hn := by
    have hplace := (placePacket_noticesOnly src ⟨sourceQueue s src, n.words⟩ (.refl s)).regs hs
    refine ⟨hplace.1, fun a ha => fwNotice_reg hs n (fun q _ => by unfold NQ_CNT; omega) (by unfold CCS_SRC_DROP; omega), ?_⟩
    have place : ∀ (o : Outbox) (p : Packet), (if o.packets.length < 4 then setOutbox s src { o with packets := o.packets ++ [p] }
        else latchCount (setOutbox s src { o with dropped := o.dropped + 1, droppedQueue := p.queue }) (CCS_SRC_DROP src) 15 0 1).hif =
        s.hif := fun o p => by
      split
      · rfl
      · exact latchCount_hif ..
    unfold fwNotice placePacket
    split
    · rw [latchCount_hif]
    · exact congrArg Hif.prod (place _ _)
  track := noticesOnly_track (placePacket_noticesOnly src ⟨sourceQueue s src, n.words⟩ (.refl s))
  nextId := (congrArg Hif.nextId (placePacket_noticesOnly src ⟨sourceQueue s src, n.words⟩ (.refl s)).hif :)

theorem notice_still (hb : 0x20000 ≤ b) (hb' : b ≤ 0x341000) (code inst detail : Nat) (host fw : Bool) :
    Still b s (notice s code inst detail host fw) := by
  have hhost : Still b s (if host then hostNotice s ⟨code, inst, s.hoop.number, detail⟩ else s) :=
    .ite (notice_host_still s code inst detail) .refl
  unfold notice
  exact .ite (hhost.trans hb (fwNotice_still _ hb' _ _)) hhost

end

/-! ### The tracker -/

theorem mem_modFirst {α : Type} {p : α → Bool} {f : α → α} {l : List α} {x : α} (h : x ∈ modFirst p f l) :
    ∃ y, y ∈ l ∧ (x = y ∨ x = f y) := by
  induction l with
  | nil => exact absurd h (by simp [modFirst])
  | cons z l ih =>
    rw [modFirst] at h
    split at h
    · rcases List.mem_cons.1 h with rfl | h
      · exact ⟨z, by simp, .inr rfl⟩
      · exact ⟨x, by simp [h], .inl rfl⟩
    · rcases List.mem_cons.1 h with rfl | h
      · exact ⟨x, by simp, .inl rfl⟩
      · obtain ⟨y, hy, hx⟩ := ih h
        exact ⟨y, by simp [hy], hx⟩

section
variable {b : Nat} (s : State)

theorem modTrack_still (id : Nat) {f : Track → Track} (hf : ∀ y, (f y).ring = y.ring ∧ (f y).orphan = y.orphan ∧
    (y.past = true → (f y).past = true)) : Still b s (modTrack s id f) where
  regs hs _ := ⟨hs, fun _ _ => rfl, rfl⟩
  track x hx := by
    obtain ⟨y, hy, rfl | rfl⟩ := mem_modFirst hx
    · exact ⟨x, hy, rfl, rfl, fun h => h⟩
    · exact ⟨y, hy, (hf y).1.symm, (hf y).2.1.symm, (hf y).2.2⟩
  nextId := rfl

theorem begin_still (id : Nat) : Still b s (begin s id) := modTrack_still s id fun _ => ⟨rfl, rfl, fun _ => rfl⟩

theorem running_still (id : Nat) : Still b s (running s id) := modTrack_still s id fun _ => ⟨rfl, rfl, fun h => h⟩

variable (hb : 0x20000 ≤ b)
include hb

theorem afterLeave_still (ring : Nat) : Still b s (afterLeave s ring) := by
  have harmed : Still b s (if inFlight s ≤ 448 then { s with hif := { s.hif with limitArmed := true } } else s) :=
    .ite (.of_eq rfl rfl rfl) .refl
  unfold afterLeave
  dsimp only
  generalize (if inFlight s ≤ 448 then { s with hif := { s.hif with limitArmed := true } } else s) = u at *
  refine .ite (Still.trans hb ?_ (notice_host_still _ _ _ _)) harmed
  exact harmed.trans hb (.of_eq rfl rfl rfl)

theorem dropTrack_still (id : Nat) : Still b s (dropTrack s id) := by
  unfold dropTrack
  split
  · exact Still.trans (t := { s with hif := { s.hif with track := s.hif.track.filter fun x => decide (x.id ≠ id) } }) hb
      ⟨fun hs _ => ⟨hs, fun _ _ => rfl, rfl⟩, fun x hx => ⟨x, (List.mem_filter.1 hx).1, rfl, rfl, fun h => h⟩, rfl⟩
      (afterLeave_still _ hb _)
  · exact .refl

theorem decideOne_still (id st r0 r1 : Nat) (hoop : Hoop) : Still b s (decideOne s id st r0 r1 hoop) := by
  have hsu : Still b s { s with hif := { s.hif with nextFin := s.hif.nextFin + 1 } } := .of_eq rfl rfl rfl
  unfold decideOne
  split
  · dsimp only
    split
    · refine Still.trans hb ?_ (dropTrack_still _ hb id)
      exact .of_eq rfl rfl rfl
    · refine hsu.trans hb ?_
      exact .ite (dropTrack_still _ hb id) (.ite (modTrack_still _ _ fun _ => ⟨rfl, rfl, fun _ => rfl⟩)
        (.ite (dropTrack_still _ hb id) (modTrack_still _ _ fun _ => ⟨rfl, rfl, fun _ => rfl⟩)))
  · exact .refl

theorem settleFences_still (ring : Nat) : Still b s (settleFences s ring) := by
  refine Still.foldl hb (fun v f => ?_) _
  split
  · exact .ite (decideOne_still _ hb _ _ _ _ _) .refl
  · exact .refl

theorem settleOne_still (id : Nat) : Still b s (settleOne s id) := by
  unfold settleOne
  split
  · split
    · exact .ite .refl (decideOne_still _ hb _ _ _ _ _)
    · exact .refl
  · exact .refl

theorem settleRing_still (ring : Nat) : Still b s (settleRing s ring) :=
  (Still.foldl hb (fun v id => settleOne_still v hb id) _).trans hb (settleFences_still _ hb ring)

theorem finish_still (id st r0 r1 : Nat) : Still b s (finish s id st r0 r1) := by
  unfold finish finishAt
  split
  · exact .ite (modTrack_still _ _ fun _ => ⟨rfl, rfl, fun _ => rfl⟩)
      ((decideOne_still s hb id _ _ _ _).trans hb (settleRing_still _ hb _))
  · exact .refl

/-! ### What follows a reset -/

theorem serveBlocks_still (n : Nat) : ∀ s, Still b s (serveBlocks n s) := by
  induction n with
  | zero => exact fun s => .refl
  | succ n ih =>
    intro s
    unfold serveBlocks
    refine .ite .refl ?_
    split
    · refine Still.trans hb ?_ (ih _)
      unfold judgeBlock
      dsimp only
      exact .ite (finish_still _ hb _ _ _ _) (running_still _ _)
    · exact .refl

theorem judgeLoad_still (t : Track) : Still b s (judgeLoad s t) := by
  unfold judgeLoad
  dsimp only
  refine .ite (finish_still _ hb _ _ _ _) (Still.trans hb ?_ (begin_still _ _))
  exact .ite (.of_eq rfl rfl rfl) .refl

theorem serveLoads_still (n p : Nat) : ∀ s, Still b s (serveLoads n s p) := by
  induction n with
  | zero => exact fun s => .refl
  | succ n ih =>
    intro s
    unfold serveLoads
    split
    · exact .ite .refl ((judgeLoad_still _ hb _).trans hb (ih _))
    · exact .refl

omit hb in
theorem settleAct_still : Still b s (settleAct s) := by
  unfold settleAct
  split
  · dsimp only
    exact .ite (.of_eq rfl rfl rfl) .refl
  · exact .refl

theorem settleWaiting_still : Still b s (settleWaiting s) := by
  refine Still.foldl hb (fun v p => ?_) _
  refine Still.foldl hb (fun u q => ?_) _
  exact .ite (.of_eq rfl rfl rfl) .refl

theorem storeOutcome_still (hb' : b ≤ 0x341000) (j : StoreJob) (st r0 : Nat) : Still b s (storeOutcome s j st r0) := by
  unfold storeOutcome
  split
  · exact finish_still _ hb _ _ _ _
  · refine Still.trans hb ?_ (notice_still _ hb hb' _ _ _ _ _)
    exact .of_eq rfl rfl rfl
  · exact .refl

theorem serveRead_still (hb' : b ≤ 0x341000) (j : StoreJob) : Still b s (serveRead s j) := by
  unfold serveRead
  dsimp only
  split
  · refine Still.trans hb ?_ (storeOutcome_still _ hb hb' _ _ _)
    exact .of_eq rfl rfl rfl
  · split
    · refine Still.trans hb ?_ (begin_still _ _)
      exact .of_eq rfl rfl rfl
    · refine Still.trans hb ?_ (storeOutcome_still _ hb hb' _ _ _)
      exact .of_eq rfl rfl rfl

theorem startJob_still (j : StoreJob) : Still b s (startJob s j) := by
  unfold startJob
  dsimp only
  split
  · refine Still.trans hb ?_ (begin_still _ _)
    exact .of_eq rfl rfl rfl
  · refine Still.trans hb ?_ (begin_still _ _)
    exact .of_eq rfl rfl rfl
  · exact .of_eq rfl rfl rfl

theorem refuseSupply_still (hb' : b ≤ 0x341000) (j : StoreJob) (r0 : Nat) : Still b s (refuseSupply s j r0) := by
  refine Still.trans hb ?_ (storeOutcome_still _ hb hb' _ _ _)
  refine Still.trans (t := if j.kind = .confirm then resumeWindow s else s) hb ?_ (.of_eq rfl rfl rfl)
  exact .ite (.of_eq rfl rfl rfl) .refl

theorem serveJobs_still (hb' : b ≤ 0x341000) (n : Nat) : ∀ s, Still b s (serveJobs n s) := by
  induction n with
  | zero => exact fun s => .refl
  | succ n ih =>
    intro s
    unfold serveJobs
    split
    · exact .ite .refl (.ite ((serveRead_still _ hb hb' _).trans hb (ih _))
        (.ite ((refuseSupply_still _ hb hb' _ _).trans hb (ih _)) (startJob_still _ hb _)))
    · exact .refl

/-- What is settled once the store's requests are. -/
theorem settled_still {s t : State} (h : Still b (settleWaiting (settleAct s)) t) :
    Still b s ((List.range 7).foldl nextLoad (nextBlock t)) :=
  (((settleAct_still s).trans hb (settleWaiting_still _ hb)).trans hb h).trans hb
    ((serveBlocks_still hb _ t).trans hb (Still.foldl hb (fun v p => serveLoads_still hb _ p v) _))

theorem settleJobs_still (hb' : b ≤ 0x341000) : Still b s (settleJobs s) := by
  refine Still.trans hb ?_ (serveJobs_still hb hb' _ _)
  exact .of_eq rfl rfl rfl

theorem settle_still (hb' : b ≤ 0x341000) : Still b s (settle s) := settled_still hb (settleJobs_still _ hb hb')

omit hb in
theorem settleAct_jobs : (settleAct s).upd.jobs = s.upd.jobs := by
  unfold settleAct
  split
  · dsimp only
    exact iteInduction (motive := fun t : State => t.upd.jobs = s.upd.jobs) (fun _ => rfl) fun _ => rfl
  · rfl

omit hb in
theorem settleWaiting_upd : (settleWaiting s).upd = s.upd := by
  refine List.foldlRecOn (motive := fun t : State => t.upd = s.upd) _ _ rfl fun t ht p _ => ?_
  refine List.foldlRecOn (motive := fun u : State => u.upd = s.upd) _ _ ht fun u hu q _ => ?_
  exact iteInduction (motive := fun v : State => v.upd = s.upd) (fun _ => hu) fun _ => hu

/-- With no request of the store at all. -/
theorem settle_idle_still (h : s.upd.jobs = []) : Still b s (settle s) := by
  refine settled_still hb ?_
  have hjobs : (settleWaiting (settleAct s)).upd.jobs = [] := by rw [settleWaiting_upd, settleAct_jobs, h]
  generalize settleWaiting (settleAct s) = u at *
  unfold settleJobs
  rw [hjobs]
  exact .of_eq rfl rfl rfl

end

/-! ### Stamps lost in the meantime -/

section
variable {b : Nat} (s : State) (hb : 0x20000 ≤ b) (hb' : b ≤ 0x341000)
include hb hb'

omit hb' in
theorem dispatch_still : Still b s (dispatch s) := by
  refine Still.foldl hb (fun v c => ?_) _
  unfold dispatchCore
  refine .ite ?_ .refl
  split
  · exact .of_eq rfl rfl rfl
  · exact .refl

theorem occur_still (code : Nat) : Still b s (occur s code) := by
  refine Still.trans hb (Still.foldl hb (fun v t => Still.foldl hb (fun u k => .ite ?_ .refl) _) _) (dispatch_still _ hb)
  unfold countSlot
  dsimp only
  exact .ite (latch_still _ (by unfold CCS_THR_STAT; omega) _) (.ite (.of_eq rfl rfl rfl) (.of_eq rfl rfl rfl))

theorem watermark_still (q : Nat) : Still b s (watermark s q) := by
  have hnq : b ≤ NQ_WM q := by unfold NQ_WM; omega
  unfold watermark
  extract_lets high low low' d x first u v
  have hu : Still b s u := Still.trans (t := setQueue s q { x with armed := false }) hb (.of_eq rfl rfl rfl) (latchCount_still _ hnq _ _ _)
  have hv : Still b s v := hu.trans hb (occur_still _ hb hb' _)
  refine .ite .refl (.ite (.ite (hv.trans hb (notice_still _ hb hb' _ _ _ _ _)) hv) (.ite ?_ .refl))
  exact Still.trans (t := setQueue s q { x with armed := true }) hb (.of_eq rfl rfl rfl) (latchCount_still _ hnq _ _ _)

theorem timPost_still (ws : List Word) : Still b s (timPost s ws).2 := by
  have hwords : ∀ q, Still b s (enqueue s q ws) := fun q => by
    refine Still.trans hb ?_ (watermark_still _ hb hb' q)
    refine Still.trans (t := setQueue s q { queueOf s q with words := (queueOf s q).words ++ packetWords ws }) hb (.of_eq rfl rfl rfl) ?_
    exact occur_still _ hb hb' _
  unfold timPost directPost
  split
  · exact latchCount_still _ (by unfold NQ_CNT; omega) _ _ _
  · split
    · exact hwords _
    · exact .refl

theorem stampLostNotice_still (p : Nat) : Still b s (stampLostNotice s p) := by
  unfold stampLostNotice
  extract_lets x u ws
  have hu : Still b s u := by
    refine Still.trans hb ?_ (notice_host_still _ _ _ _)
    exact .of_eq rfl rfl rfl
  have hposted : Still b s (timPost u ws).2 := hu.trans hb (timPost_still _ hb hb' _)
  clear_value u ws
  refine .ite ?_ .refl
  split
  next v hv => rwa [hv] at hposted
  next v hv =>
    rw [hv] at hposted
    exact hposted.trans hb (.of_eq rfl rfl rfl)

end

/-! ### The reset itself -/

theorem tget_filter_gone {α : Type} [DecidableEq α] {d : Nat → α} {p : Nat × α → Bool} {k : Nat} (hp : ∀ v, p (k, v) = false)
    (m : Table α) : tget d (m.filter p) k = d k := by
  induction m with
  | nil => rfl
  | cons x m ih =>
    obtain ⟨a, v⟩ := x
    rw [List.filter_cons]
    split
    next hav =>
      have hka : k ≠ a := fun h => by simp [← h, hp v] at hav
      rw [tget, if_neg hka]
      split
      · rfl
      · exact ih
    · exact ih

/-- A stamp queue without the stamps that RAW_TXs wait for. -/
def withoutRaw (x : StampQueue) : StampQueue :=
  { x with entries := x.entries.filter fun e => match e.dest with
      | .rawTx _ => false
      | .firmware _ => true }

theorem dropRawStamps_eq (s : State) : dropRawStamps s =
    (List.range 38).foldl (fun s p => setStamps s p (withoutRaw (stampsOf s p))) s := rfl

theorem dropRawStamps_frame (s : State) : ∃ st, dropRawStamps s = { s with tim := { s.tim with stamps := st } } := by
  rw [dropRawStamps_eq]
  refine List.foldlRecOn (motive := fun t : State => ∃ st, t = { s with tim := { s.tim with stamps := st } }) _ _ ⟨s.tim.stamps, rfl⟩
    fun t ht p _ => ?_
  obtain ⟨st, rfl⟩ := ht
  exact ⟨_, rfl⟩

theorem dropRawStamps_lost {s : State} (hs : s.canon) (p : Nat) : (stampsOf (dropRawStamps s) p).lost = (stampsOf s p).lost := by
  rw [dropRawStamps_eq]
  refine (List.foldlRecOn (motive := fun t : State => t.canon ∧ (stampsOf t p).lost = (stampsOf s p).lost) _ _ ⟨hs, rfl⟩
    fun t ht q _ => ?_).2
  refine ⟨(setStamps_keeps _ _ _ (.refl t)).canon ht.1, ?_⟩
  rw [stampsOf_setStamps ht.1]
  split
  next h => exact h ▸ ht.2
  · exact ht.2

/-- The registers of the host's side: HIF's and the MSI-X table's. -/
def hostSide (a : Nat) : Prop := 0x8000 ≤ a ∧ a < 0x20000

theorem hifReset_regs {s : State} (hs : s.canon) : twf regReset (hifReset s).regs = true ∧
    (∀ a, hostSide a → reg (hifReset s) a = regReset a) ∧ ∀ a, ¬ hostSide a → reg (hifReset s) a = reg s a := by
  obtain ⟨st, hst⟩ := dropRawStamps_frame s
  have hregs : (hifReset s).regs = s.regs.filter fun r => !(decide (0x8000 ≤ r.1 ∧ r.1 < 0x20000)) := by
    unfold hifReset
    rw [hst]
  refine ⟨by rw [hregs]; exact filter_twf hs.regs, fun a ha => ?_, fun a ha => ?_⟩
  · rw [reg, hregs]
    exact tget_filter_gone (fun _ => by simpa [hostSide] using ha) _
  · rw [reg, hregs]
    exact tget_filter (fun _ => by unfold hostSide at ha; simp; omega) hs.regs

theorem hifReset_shut {s : State} (hs : s.canon) : noticeRing (hifReset s) = none := by
  have hreset : ∀ m : Fin 64, bitW (regReset (HIF_CQ_CTRL m)) 31 = false := by decide +kernel
  refine List.find?_eq_none.2 fun m hm => ?_
  have hm' := List.mem_range.1 hm
  have hreg := (hifReset_regs hs).2.1 (HIF_CQ_CTRL m) (by unfold hostSide HIF_CQ_CTRL; omega)
  simp [cqEnabled, regBit, hreg, hreset ⟨m, hm'⟩]

/-- The tracker a reset leaves: of the host's descriptors, those past their point of no return. -/
theorem hifReset_track {s : State} {x : Track} (h : x ∈ (hifReset s).hif.track) (hr : x.ring < 64) : x.orphan = true ∧ x.past = true := by
  simp only [hifReset, List.mem_map, List.mem_filter, Bool.or_eq_true, decide_eq_true_eq, Bool.and_eq_true] at h
  obtain ⟨y, ⟨_, hy⟩, hx⟩ := h
  split at hx
  next hring => subst hx; rw [hring] at hr; exact absurd hr (by decide)
  next hring =>
    subst hx
    exact ⟨rfl, (hy.resolve_left hring).1⟩

theorem hifReset_members {s : State} {m : Member} (h : m ∈ (hifReset s).win.members) : m ∈ s.win.members ∧ m.origin ≠ .host := by
  obtain ⟨st, hst⟩ := dropRawStamps_frame s
  have : (hifReset s).win.members = s.win.members.filter fun m => decide (m.origin ≠ .host) := by
    unfold hifReset
    rw [hst]
  rw [this, List.mem_filter] at h
  simpa using h

/-- The state a reset of the host's side leaves before what follows it. -/
theorem hifReset_rest (s : State) : (hifReset s).hif.head = [] ∧ (hifReset s).hif.tail = [] ∧ (hifReset s).hif.prod = [] ∧
    (hifReset s).cfg = s.cfg ∧ (hifReset s).lay = s.lay ∧ (hifReset s).hoop = s.hoop ∧ (hifReset s).win.isOpen = s.win.isOpen ∧
    (hifReset s).upd = s.upd ∧ (hifReset s).tim.stamps = (dropRawStamps s).tim.stamps := by
  obtain ⟨st, hst⟩ := dropRawStamps_frame s
  unfold hifReset
  rw [hst]
  exact ⟨rfl, rfl, rfl, rfl, rfl, rfl, rfl, rfl, rfl⟩

/-! ### What follows the reset -/

/-- The configuration space returns to reset. -/
def pcieReset (s : State) : State := { s with pcie := { s.pcie with readRequest := Pcie.reset.readRequest } }

theorem hostReset_eq (s : State) : hostReset s = (List.range 38).foldl stampLostNotice (pcieReset (settle (hifReset s))) := rfl

theorem pcieReset_tim (s : State) : (pcieReset s).tim = s.tim := rfl

theorem pcieReset_still {b : Nat} (s : State) : Still b s (pcieReset s) := .of_eq rfl rfl rfl

theorem hostReset_still (s : State) : Still 0x20000 (hifReset s) (hostReset s) := by
  rw [hostReset_eq]
  exact ((settle_still _ (le_refl _) (by decide)).trans (le_refl _) (pcieReset_still _)).trans (le_refl _)
    (Still.foldl (le_refl _) (fun v p => stampLostNotice_still v (le_refl _) (by decide) p) _)

theorem stampLostNotice_none {s : State} {p : Nat} (h : (stampsOf s p).lost = 0) : stampLostNotice s p = s := by
  unfold stampLostNotice
  exact if_neg (by simp [h])

theorem hostReset_idle_still {b : Nat} (hb : 0x20000 ≤ b) {s : State} (hs : s.canon) (hlost : ∀ p, (stampsOf s p).lost = 0)
    (hjobs : s.upd.jobs = []) : Still b (hifReset s) (hostReset s) := by
  obtain ⟨_, _, _, _, _, _, _, hupd, hstamps⟩ := hifReset_rest s
  have hkept : (settle (hifReset s)).tim.stamps = (dropRawStamps s).tim.stamps :=
    (stamps_of_outside (w := allBut [.stamps]) (settle_outside (by simp) (by simp) (by simp) (by simp) (by simp) (by simp) (by simp)
      (by simp) _) (by simp)).trans hstamps
  have hnone : ∀ (v : State) (p : Nat), v.tim.stamps = (dropRawStamps s).tim.stamps → stampLostNotice v p = v := fun v p hv =>
    stampLostNotice_none (by rw [stampsOf_congr hv, dropRawStamps_lost hs, hlost])
  have hfold : ∀ (l : List Nat) (v : State), v.tim.stamps = (dropRawStamps s).tim.stamps → l.foldl stampLostNotice v = v := by
    intro l
    induction l with
    | nil => exact fun _ _ => rfl
    | cons p l ih => exact fun v hv => by rw [List.foldl_cons, hnone v p hv, ih v hv]
  rw [hostReset_eq, hfold _ (pcieReset (settle (hifReset s))) (by rw [pcieReset_tim, hkept])]
  exact (settle_idle_still _ hb (by rw [hupd, hjobs])).trans hb (pcieReset_still _)

/-- What follows a reset lies outside the rings, the configuration, the layers, the generator and the window. -/
theorem hostReset_outside (s : State) : (hostReset s).outside (allBut [.rings, .cfg, .lay, .handles, .pixels, .hoop, .ref, .hoopRegs,
    .abort, .stacks, .win, .closed]) = (hifReset s).outside (allBut [.rings, .cfg, .lay, .handles, .pixels, .hoop, .ref, .hoopRegs,
    .abort, .stacks, .win, .closed]) := by
  unfold hostReset
  simp

theorem win_of_outside {w : List Part} {s t : State} (h : t.outside w = s.outside w) (hw : .win ∉ w) (hc : .closed ∉ w) :
    t.win = s.win := by
  simpa [State.outside, hw, hc] using congrArg State.win h

theorem head_of_outside {w : List Part} {s t : State} (h : t.outside w = s.outside w) (hw : .rings ∉ w) : t.hif.head = s.hif.head := by
  simpa [State.outside, Hif.outside, hw] using congrArg (·.hif.head) h

theorem tail_of_outside {w : List Part} {s t : State} (h : t.outside w = s.outside w) (hw : .rings ∉ w) : t.hif.tail = s.hif.tail := by
  simpa [State.outside, Hif.outside, hw] using congrArg (·.hif.tail) h

theorem hostReset_isReset {s : State} (hs : s.canon) : hostIsReset s (hostReset s) := by
  obtain ⟨hhead, htail, hprod, hcfg, hlay, hhoop, hopen, hupd, hstamps⟩ := hifReset_rest s
  obtain ⟨htwf, hinside, houtside⟩ := hifReset_regs hs
  have hframe := hostReset_outside s
  have hstill := hostReset_still s
  have hwin := win_of_outside hframe (by simp) (by simp)
  refine ⟨fun a hlo hhi => ?_, fun hlost hjobs a ha => ?_, (head_of_outside hframe (by simp)).trans hhead,
    (tail_of_outside hframe (by simp)).trans htail, (hstill.regs htwf (hifReset_shut hs)).2.2.trans hprod, fun t ht hr => ?_,
    (cfg_of_outside hframe (by simp)).trans hcfg, (lay_of_outside hframe (by simp) (by simp) (by simp)).trans hlay,
    (hoop_of_outside hframe (by simp) (by simp) (by simp) (by simp) (by simp)).trans hhoop, by rw [hwin, hopen], fun m hm => ?_⟩
  · rw [(hstill.regs htwf (hifReset_shut hs)).2.1 a hhi, hinside a ⟨hlo, hhi⟩]
  · have hidle := hostReset_idle_still (b := max (a + 1) 0x20000) (by omega) hs hlost hjobs
    rw [(hidle.regs htwf (hifReset_shut hs)).2.1 a (by omega), houtside a (by unfold hostSide; omega)]
  · obtain ⟨y, hy, hring, horphan, hpast⟩ := hstill.track t ht
    have := hifReset_track hy (hring ▸ hr)
    exact ⟨horphan ▸ this.1, hpast this.2⟩
  · exact hifReset_members (hwin ▸ hm)

theorem hostIsReset_congr {s u v : State} (h : hostIsReset s u) (hr : v.regs = u.regs) (hh : v.hif = u.hif) (hc : v.cfg = u.cfg)
    (hl : v.lay = u.lay) (hg : v.hoop = u.hoop) (hw : v.win = u.win) : hostIsReset s v := by
  unfold hostIsReset reg at *
  rwa [hr, hh, hc, hl, hg, hw]

theorem lgwClear_isReset {s u : State} (h : hostIsReset s u) : hostIsReset s (lgwClear u) := hostIsReset_congr h rfl rfl rfl rfl rfl rfl

theorem pcie_isReset {s u : State} (h : hostIsReset s u) (p : Pcie) : hostIsReset s { u with pcie := p } :=
  hostIsReset_congr h rfl rfl rfl rfl rfl rfl

theorem failPush_isReset {s u : State} (h : hostIsReset s u) : hostIsReset s (failPush u) := by
  unfold failPush
  split
  · exact hostIsReset_congr h rfl rfl rfl rfl rfl rfl
  · exact h

theorem hostReset_linkUp (s : State) : (hostReset s).pcie.linkUp = s.pcie.linkUp := by
  have hsettle : (settle (hifReset s)).pcie = (hifReset s).pcie := by
    have h : (settle (hifReset s)).outside (allBut [.pcie]) = (hifReset s).outside (allBut [.pcie]) := by simp
    simpa [State.outside] using congrArg State.pcie h
  have hfold : ∀ (l : List Nat) (v : State), (l.foldl stampLostNotice v).pcie = v.pcie := fun l v => by
    have h : (l.foldl stampLostNotice v).outside (allBut [.pcie]) = v.outside (allBut [.pcie]) := by simp
    simpa [State.outside] using congrArg State.pcie h
  rw [hostReset_eq, hfold, pcieReset, hsettle]
  obtain ⟨st, hst⟩ := dropRawStamps_frame s
  unfold hifReset
  rw [hst]

theorem lgwClear_pcie (s : State) : (lgwClear s).pcie = s.pcie := rfl

theorem exec_pcieLinkLoss (s : State) : exec .pcieLinkLoss s =
    done { failPush (lgwClear (hostReset s)) with pcie := { s.pcie with linkUp := false } } := rfl

theorem exec_perstNAssert (s : State) : exec .perstNAssert s = done { failPush (lgwClear (hostReset s)) with pcie := Pcie.reset } := rfl

/-- Settles O10: a reset of the host's side leaves it at its reset values, and what follows it moves none of them. -/
theorem hostResets : Obligations.HostResets := by
  unfold Obligations.HostResets
  intro s hs
  have h := hostReset_isReset hs
  have hlost := failPush_isReset (lgwClear_isReset h)
  exact ⟨⟨_, rfl, lgwClear_isReset h, (congrArg Pcie.linkUp (lgwClear_pcie _)).trans (hostReset_linkUp s)⟩, ⟨_, rfl, h, hostReset_linkUp s⟩,
    ⟨_, exec_pcieLinkLoss s, pcie_isReset hlost _, rfl⟩, ⟨_, exec_perstNAssert s, pcie_isReset hlost _, rfl⟩⟩

end Sys2Proof.Machine

/-! Polling, fetching and completion records (R43, R45, R46, R49, R50, R57). -/
namespace Sys2Proof.Machine

/-! ### Issuing a poll -/

theorem fwNotice_hif (s : State) (src : Nat) (n : Notice) : (fwNotice s src n).hif = s.hif := by
  have place : ∀ (o : Outbox) (p : Packet), (if o.packets.length < 4 then setOutbox s src { o with packets := o.packets ++ [p] }
      else latchCount (setOutbox s src { o with dropped := o.dropped + 1, droppedQueue := p.queue }) (CCS_SRC_DROP src) 15 0 1).hif =
      s.hif := fun o p => by
    split
    · rfl
    · exact latchCount_hif ..
  unfold fwNotice placePacket
  split
  · exact latchCount_hif ..
  · exact place _ _

theorem tick_hif (n : Nat) (s : State) : (tick n s).hif = s.hif := by
  unfold tick
  dsimp only
  split
  · exact (fwNotice_hif ..).trans rfl
  · rfl

theorem writeHead_hif (s : State) (n : Nat) : ∃ hd, (writeHead s n).hif = { s.hif with headDirty := hd } := by
  unfold writeHead
  split
  · exact ⟨_, rfl⟩
  · exact ⟨_, rfl⟩

theorem writeHead_tim (s : State) (n : Nat) : (writeHead s n).tim = s.tim := by
  unfold writeHead
  split <;> rfl

theorem writeHeads_kept (l : List Nat) (s : State) : (∃ hd, (l.foldl writeHead s).hif = { s.hif with headDirty := hd }) ∧
    (l.foldl writeHead s).tim = s.tim := by
  induction l generalizing s with
  | nil => exact ⟨⟨_, rfl⟩, rfl⟩
  | cons n l ih =>
    obtain ⟨⟨hd, hhif⟩, htim⟩ := ih (writeHead s n)
    obtain ⟨hd', hhif'⟩ := writeHead_hif s n
    exact ⟨⟨hd, by rw [List.foldl_cons, hhif, hhif']⟩, by rw [List.foldl_cons, htim, writeHead_tim]⟩

theorem pollIssue_spec {s : State} (hen : regBit s HIF_CTRL 1 = true) (hout : s.hif.pollOut = false) :
    (pollIssue s).hif.pollOut = true ∧ (pollIssue s).hif.pollAt = some (pollIssue s).tim.cyc ∧
      (pollIssue s).hif.tail = s.hif.tail ∧ (pollIssue s).hif.head = s.hif.head := by
  unfold pollIssue
  rw [if_pos (by simp [hen, hout])]
  extract_lets t h u
  have ht : t.hif = s.hif := by
    unfold t
    split
    · exact tick_hif _ s
    · rfl
  have hu : u.hif = { t.hif with pollOut := true, pollAt := some t.tim.cyc } ∧ u.tim = t.tim := ⟨rfl, rfl⟩
  clear_value u
  clear h
  clear_value t
  obtain ⟨⟨hd, hhif⟩, htim⟩ := writeHeads_kept (List.range 64) u
  rw [hhif, htim, hu.1, hu.2, ht]
  exact ⟨rfl, rfl, rfl, rfl⟩

theorem setHif_canon {s : State} (hs : s.canon) {h : Hif} (hh : h.canon) : (setHif s h).canon :=
  (setHif_keeps s h (.refl s) fun _ _ => hh).canon hs

/-! ### A poll returns -/

/-- What polling reads of ring `n` is the same in `s` and `t`. -/
structure RingSame (n : Nat) (s t : State) : Prop where
  canonical : twf regReset s.regs = true → twf regReset t.regs = true
  ctrl : twf regReset s.regs = true → reg t (HIF_SQ_CTRL n) = reg s (HIF_SQ_CTRL n)
  head : t.hif.head = s.hif.head
  fault : tget (fun _ => false) t.hif.fault n = tget (fun _ => false) s.hif.fault n
  tail : tailOf t n = tailOf s n
  pollOut : t.hif.pollOut = s.hif.pollOut

theorem RingSame.refl (n : Nat) (s : State) : RingSame n s s := ⟨id, fun _ => rfl, rfl, rfl, rfl, rfl⟩

theorem RingSame.trans {n : Nat} {s t u : State} (a : RingSame n s t) (b : RingSame n t u) : RingSame n s u :=
  ⟨fun h => b.canonical (a.canonical h), fun h => (b.ctrl (a.canonical h)).trans (a.ctrl h), b.head.trans a.head, b.fault.trans a.fault,
    b.tail.trans a.tail, b.pollOut.trans a.pollOut⟩

theorem RingSame.ite {n : Nat} {s t u : State} {c : Prop} [Decidable c] (ht : RingSame n s t) (hu : RingSame n s u) :
    RingSame n s (if c then t else u) := by split <;> assumption

theorem RingSame.of_notices {n : Nat} {s t : State} (hn : n < 64) (h : NoticesOnly s t) : RingSame n s t where
  canonical hs := (h.regs hs).1
  ctrl hs := (h.regs hs).2 _ (by simp) (not_noticeReg_sqCtrl ⟨n, hn⟩)
  head := (congrArg Hif.head h.hif :)
  fault := congrArg (tget (fun _ => false) · n) (congrArg Hif.fault h.hif :)
  tail := congrArg (tget (fun _ => (0 : Word)) · n) (congrArg Hif.tail h.hif :)
  pollOut := (congrArg Hif.pollOut h.hif :)

theorem latch_ringSame (n : Nat) (s : State) (k : Nat) : RingSame n s (latch s HIF_ERR k) :=
  ⟨fun h => latch_twf h _ _, fun h => reg_latch_other h _ (sqCtrl_ne_hifErr n), by rw [latch_hif], by rw [latch_hif],
    by rw [tailOf, latch_hif, tailOf], by rw [latch_hif]⟩

theorem takeRelease_ringSame {n : Nat} (hn : n < 64) (s : State) (m : Nat) (v : Word) : RingSame n s (takeRelease s m v) := by
  unfold takeRelease
  refine .ite (.ite ((latch_ringSame n s 2).trans (.of_notices hn (noticeBoth_only ..))) ?_) (.refl n s)
  refine RingSame.trans (t := setHif s { s.hif with release := tput (fun _ => 0) s.hif.release m v }) ?_
    (.of_notices hn (flushLost_noticesOnly (.refl _)))
  exact ⟨id, fun _ => rfl, rfl, rfl, rfl, rfl⟩

theorem takeTail_ringSame {n k : Nat} (hn : n < 64) (hk : k ≠ n) {s : State} (hs : s.canon) (v : Word) :
    RingSame n s (takeTail s k v) := by
  unfold takeTail
  refine .ite (.ite ?_ ?_) (.refl n s)
  · refine RingSame.trans (t := setHif s { s.hif with fault := tput (fun _ => false) s.hif.fault k true }) ?_
      (.of_notices hn (noticeBoth_only ..))
    exact ⟨id, fun _ => rfl, rfl, by rw [setHif, tget_tput hs.hif.fault, if_neg (Ne.symm hk)], rfl, rfl⟩
  · exact ⟨id, fun _ => rfl, rfl, rfl, by rw [tailOf, setHif, tget_tput hs.hif.tail, if_neg (Ne.symm hk), tailOf], rfl⟩

theorem takeTails_other {n : Nat} (hn : n < 64) (f : Nat → Word) (l : List Nat) (hl : n ∉ l) {s : State} (hs : s.canon) :
    RingSame n s (l.foldl (fun s k => takeTail s k (f k)) s) := by
  induction l generalizing s with
  | nil => exact .refl n s
  | cons k l ih =>
    rw [List.mem_cons, not_or] at hl
    exact (takeTail_ringSame hn (Ne.symm hl.1) hs _).trans (ih hl.2 ((takeTail_keeps _ _ _ (.refl s)).canon hs))

/-- A tail no more than a ring ahead of HEAD is taken. -/
theorem takeTail_takes {s : State} {n : Nat} {v : Word} (hen : sqEnabled s n = true) (hf : tget (fun _ => false) s.hif.fault n = false)
    (hv : (v - headOf s n).toNat ≤ sqSize s n) : takeTail s n v = setHif s { s.hif with tail := tput (fun _ => 0) s.hif.tail n v } := by
  unfold takeTail
  rw [if_pos (by simp [hen, hf]), if_neg (by omega)]

theorem takeTails_takes {n : Nat} (hn : n < 64) (f : Nat → Word) {s : State} (hs : s.canon) (hen : sqEnabled s n = true)
    (hf : tget (fun _ => false) s.hif.fault n = false) (hv : (f n - headOf s n).toNat ≤ sqSize s n) :
    tailOf ((List.range 64).foldl (fun s k => takeTail s k (f k)) s) n = f n := by
  obtain ⟨l1, l2, hl⟩ := List.append_of_mem (List.mem_range.2 hn)
  have hnodup : (l1 ++ n :: l2).Nodup := hl ▸ List.nodup_range
  rw [List.nodup_append, List.nodup_cons] at hnodup
  obtain ⟨-, ⟨h2, -⟩, hdis⟩ := hnodup
  have h1 : n ∉ l1 := fun h => hdis n h n (by simp) rfl
  rw [hl, List.foldl_append, List.foldl_cons]
  have hsame := takeTails_other hn f l1 h1 hs
  have hc : (l1.foldl (fun s k => takeTail s k (f k)) s).canon :=
    List.foldlRecOn (motive := fun t : State => t.canon) l1 _ hs fun t ht k _ => (takeTail_keeps _ _ _ (.refl t)).canon ht
  generalize l1.foldl (fun s k => takeTail s k (f k)) s = u at *
  have hctrl := hsame.ctrl hs.regs
  have htake : takeTail u n (f n) = setHif u { u.hif with tail := tput (fun _ => 0) u.hif.tail n (f n) } :=
    takeTail_takes ((regBit_congr hctrl _).trans hen) (hsame.fault.trans hf) (by
      rw [headOf, hsame.head, sqSize, regFld_congr hctrl]
      exact hv)
  rw [(takeTails_other hn f l2 h2 ((takeTail_keeps _ _ _ (.refl u)).canon hc)).tail, htake, tailOf, setHif, tget_tput hc.hif.tail,
    if_pos rfl]


theorem takeReleases_ringSame {n : Nat} (hn : n < 64) (f : Nat → Word) (s : State) :
    RingSame n s ((List.range 64).foldl (fun s m => takeRelease s m (f m)) s) :=
  List.foldlRecOn (motive := fun t : State => RingSame n s t) _ _ (.refl n s) fun t ht m _ => ht.trans (takeRelease_ringSame hn t m _)

theorem takeTail_pollOut (s : State) (n : Nat) (v : Word) : (takeTail s n v).hif.pollOut = s.hif.pollOut := by
  have fault : (ringFault s n 1 0).hif.pollOut = s.hif.pollOut := (congrArg Hif.pollOut (noticeBoth_only ..).hif).trans rfl
  unfold takeTail
  split
  · split
    · exact fault
    · rfl
  · rfl

theorem takeTails_pollOut (f : Nat → Word) (l : List Nat) (s : State) :
    (l.foldl (fun s n => takeTail s n (f n)) s).hif.pollOut = s.hif.pollOut :=
  List.foldlRecOn (motive := fun t : State => t.hif.pollOut = s.hif.pollOut) _ _ rfl fun t ht n _ => (takeTail_pollOut t n _).trans ht

/-- The outstanding poll is over. -/
def pollOver (s : State) : State := { s with hif := { s.hif with pollOut := false } }

/-- The releases of a poll that returned are taken, and then its tails. -/
theorem pollReturn_ok {s : State} (hout : s.hif.pollOut = true) (tails releases : List Word) (addr : Nat) :
    pollReturn s true tails releases addr = (List.range 64).foldl (fun s n => takeTail s n ((tails[n]?).getD 0))
      ((List.range 64).foldl (fun s m => takeRelease s m ((releases[m]?).getD 0)) (pollOver s)) := by
  unfold pollReturn
  rw [if_pos hout]
  rfl

theorem pollReturn_pollOut {s : State} (hout : s.hif.pollOut = true) (tails releases : List Word) (addr : Nat) :
    (pollReturn s true tails releases addr).hif.pollOut = false := by
  rw [pollReturn_ok hout, takeTails_pollOut fun n => (tails[n]?).getD 0]
  exact (takeReleases_ringSame (n := 0) (by decide) (fun m => (releases[m]?).getD 0) _).pollOut

theorem pollReturn_tail {s : State} (hs : s.canon) (hout : s.hif.pollOut = true) (tails releases : List Word) (addr : Nat) {n : Nat}
    (hn : n < 64) (hen : sqEnabled s n = true) (hf : tget (fun _ => false) s.hif.fault n = false)
    (hv : ((tails[n]?).getD 0 - headOf s n).toNat ≤ sqSize s n) :
    tailOf (pollReturn s true tails releases addr) n = (tails[n]?).getD 0 := by
  have hc : (pollOver s).canon :=
    setHif_canon hs ⟨hs.hif.1, hs.hif.2, hs.hif.3, hs.hif.4, hs.hif.5, hs.hif.6, hs.hif.7, hs.hif.8⟩
  have hsame := takeReleases_ringSame hn (fun m => (releases[m]?).getD 0) (pollOver s)
  have hcanon : ((List.range 64).foldl (fun s m => takeRelease s m ((releases[m]?).getD 0)) (pollOver s)).canon :=
    List.foldlRecOn (motive := fun t : State => t.canon) _ _ hc fun t ht m _ => (takeRelease_keeps _ _ _ (.refl t)).canon ht
  rw [pollReturn_ok hout]
  generalize (List.range 64).foldl (fun s m => takeRelease s m ((releases[m]?).getD 0)) (pollOver s) = u at *
  have hctrl : reg u (HIF_SQ_CTRL n) = reg s (HIF_SQ_CTRL n) := hsame.ctrl hs.regs
  exact takeTails_takes hn (fun n => (tails[n]?).getD 0) hcanon ((regBit_congr hctrl _).trans hen) (hsame.fault.trans hf) (by
    rw [headOf, hsame.head, sqSize, regFld_congr hctrl]
    exact hv)

/-! ### A fetch -/

/-- Counting what is in flight leaves the rings and the numbering of the tracker. -/
theorem noteInFlight_rings (s : State) : (noteInFlight s).hif.head = s.hif.head ∧ (noteInFlight s).hif.tail = s.hif.tail ∧
    (noteInFlight s).hif.lastRing = s.hif.lastRing ∧ (noteInFlight s).hif.nextId = s.hif.nextId := by
  have hhif : (withMaxNoted s).hif = s.hif := (withMaxNoted_keeps_rest s).1
  rw [noteInFlight_eq]
  split
  · have k := (notice_noticesOnly 0x0102 0 (withMaxNoted s).hoop.number.toNat true false
      (.refl (setHif (withMaxNoted s) { (withMaxNoted s).hif with limitArmed := false }))).hif
    rw [k, ← hhif]
    exact ⟨rfl, rfl, rfl, rfl⟩
  · rw [hhif]
    exact ⟨rfl, rfl, rfl, rfl⟩

theorem release_still {b : Nat} (hb : 0x20000 ≤ b) (s : State) (id : Nat) : Still b s (release s id) := by
  unfold release
  split
  · refine .ite (finish_still _ hb ..) (.ite (finish_still _ hb ..) (.ite (finish_still _ hb ..) (.ite (.ite ?_ (finish_still _ hb ..)) ?_)))
    · exact (running_still _ _).trans hb (settleFences_still _ hb _)
    · exact modTrack_still _ _ fun _ => ⟨rfl, rfl, fun h => h⟩
  · exact .refl

theorem lastRing_of_outside {w : List Part} {s t : State} (h : t.outside w = s.outside w) (hw : .rings ∉ w) :
    t.hif.lastRing = s.hif.lastRing := by
  simpa [State.outside, Hif.outside, hw] using congrArg (·.hif.lastRing) h

/-- A release leaves the rings and the numbering of the tracker. -/
theorem release_rings (s : State) (id : Nat) : (release s id).hif.head = s.hif.head ∧ (release s id).hif.tail = s.hif.tail ∧
    (release s id).hif.lastRing = s.hif.lastRing ∧ (release s id).hif.nextId = s.hif.nextId := by
  have h : (release s id).outside (allBut [.rings]) = s.outside (allBut [.rings]) := by simp
  exact ⟨head_of_outside h (by simp), tail_of_outside h (by simp), lastRing_of_outside h (by simp), (release_still (Nat.le_refl _) s id).nextId⟩

theorem fetchOne_rings (n : Nat) (s : State) (d : Desc) :
    (fetchOne n s d).hif.head = tput (fun _ => 0) s.hif.head n (headOf s n + 1) ∧ (fetchOne n s d).hif.tail = s.hif.tail ∧
      (fetchOne n s d).hif.lastRing = s.hif.lastRing ∧ (fetchOne n s d).hif.nextId = s.hif.nextId + 1 := by
  have hnote := noteInFlight_rings (withEntry s n d)
  rw [fetchOne_eq]
  split
  · have hrel := release_rings (noteInFlight (withEntry s n d)) s.hif.nextId
    exact ⟨hrel.1.trans hnote.1, hrel.2.1.trans hnote.2.1, hrel.2.2.1.trans hnote.2.2.1, hrel.2.2.2.trans hnote.2.2.2⟩
  · exact hnote

theorem fetchFail_spec {s : State} (hs : s.canon) {n : Nat} (h : nextRing s = some n) (addr : Nat) :
    tget (fun _ => false) (fetchFail s addr).hif.fault n = true ∧ (fetchFail s addr).hif.lastRing = n ∧
      headOf (fetchFail s addr) n = headOf s n := by
  unfold fetchFail
  rw [h]
  dsimp only
  unfold ringFault
  have k := (noticeBoth_only (setHif (setHif s { s.hif with lastRing := n })
    { s.hif with lastRing := n, fault := tput (fun _ => false) s.hif.fault n true }) 0x0101 n (3 + addr % 2 ^ 32 * 2 ^ 32)).hif
  refine ⟨?_, (congrArg Hif.lastRing k).trans rfl, congrArg (tget (fun _ => (0 : Word)) · n) ((congrArg Hif.head k).trans rfl)⟩
  refine (congrArg (tget (fun _ => false) · n) ((congrArg Hif.fault k).trans rfl)).trans ?_
  rw [setHif, tget_tput hs.hif.fault, if_pos rfl]

/-! ### A completion record -/

theorem countRecord_prod (s : State) (v : Nat) (urgent : Bool) : (countRecord s v urgent).hif.prod = s.hif.prod := by
  unfold countRecord signalVector
  dsimp only
  split
  · split <;> rfl
  · rfl

theorem writeNotice_prod {s : State} (hs : twf (fun _ => 0) s.hif.prod = true) {m k : Nat} (hk : k ≠ m) (n : Notice) :
    prodOf (writeNotice s k n) m = prodOf s m := by
  unfold writeNotice
  rw [prodOf, countRecord_prod, tget_tput hs, if_neg (Ne.symm hk), prodOf]

theorem flushLost_regs (s : State) : (flushLost s).regs = s.regs :=
  regs_of_outside (w := [.records, .out]) (by simp) (by simp) (by simp) (by simp)

/-- A notice to the host moves no producer count but its own ring's. -/
theorem hostNotice_prod {s : State} (hs : s.canon) {m : Nat} (hm : noticeRing s ≠ some m) (n : Notice) :
    prodOf (hostNotice s n) m = prodOf s m := by
  have hflush : prodOf (flushLost s) m = prodOf s m := by
    unfold flushLost
    split
    next k hk =>
      have hne : k ≠ m := fun he => hm (he ▸ hk)
      split
      · exact writeNotice_prod (s := { s with hif := { s.hif with noticesLost := 0 } }) hs.hif.prod hne _
      · rfl
    · rfl
  have hcanon : (flushLost s).canon := (flushLost_keeps _ (.refl s)).canon hs
  have hring : noticeRing (flushLost s) = noticeRing s := noticeRing_congr fun a _ =>
    congrArg (tget regReset · _) (flushLost_regs s)
  unfold hostNotice
  dsimp only
  rw [hring]
  split
  next k hk =>
    have hne : k ≠ m := fun he => hm (he ▸ hk)
    split
    · exact (writeNotice_prod hcanon.hif.prod hne _).trans hflush
    · exact (congrArg (tget (fun _ => (0 : Word)) · m) (congrArg Hif.prod (latchCount_hif ..))).trans hflush
  · exact hflush

/-- A descriptor that left may be followed by a notice to the host, and by nothing else. -/
theorem afterLeave_track (s : State) (ring : Nat) : (afterLeave s ring).hif.track = s.hif.track := by
  unfold afterLeave
  extract_lets _ t
  have ht : t.hif.track = s.hif.track := by
    unfold t
    split <;> rfl
  clear_value t
  split
  · exact ((congrArg Hif.track (notice_noticesOnly _ _ _ _ _ (.refl _)).hif).trans rfl).trans ht
  · exact ht

theorem afterLeave_prod {s : State} (hs : s.canon) {m : Nat} (hm : noticeRing s ≠ some m) (ring : Nat) :
    prodOf (afterLeave s ring) m = prodOf s m := by
  unfold afterLeave
  extract_lets _ t
  have ht : ∃ b, t = { s with hif := { s.hif with limitArmed := b } } := by
    unfold t
    split
    · exact ⟨true, rfl⟩
    · exact ⟨s.hif.limitArmed, rfl⟩
  clear_value t
  obtain ⟨b, rfl⟩ := ht
  split
  · exact hostNotice_prod (s := setHif s { s.hif with limitArmed := b, draining := tput (fun _ => false) s.hif.draining ring false })
      (setHif_canon hs ⟨hs.hif.1, hs.hif.2, hs.hif.3, hs.hif.4, tput_twf hs.hif.5, hs.hif.6, hs.hif.7, hs.hif.8⟩) hm _
  · rfl

theorem findTrack_dropTrack (s : State) (id : Nat) : findTrack (dropTrack s id) id = none := by
  unfold dropTrack
  split
  · rw [findTrack, afterLeave_track, List.find?_eq_none]
    intro x hx
    simpa using (List.mem_filter.1 hx).2
  next h => exact h

theorem dropTrack_prod {s : State} (hs : s.canon) {m : Nat} (hm : noticeRing s ≠ some m) (id : Nat) :
    prodOf (dropTrack s id) m = prodOf s m := by
  unfold dropTrack
  split
  · exact afterLeave_prod (s := setHif s { s.hif with track := s.hif.track.filter fun x => decide (x.id ≠ id) })
      (setHif_canon hs ⟨hs.hif.1, hs.hif.2, hs.hif.3, hs.hif.4, hs.hif.5, hs.hif.6, hs.hif.7, hs.hif.8⟩) hm _
  · rfl

theorem noticeRing_not_completion {s : State} {m : Nat} (h : cqNotice s m = false) : noticeRing s ≠ some m := fun hm => by
  have hp := List.find?_some hm
  simp [h] at hp

/-- The record of `t` is written at the producer count of ring `m`, which passes it. -/
def recordWritten (s : State) (m : Nat) (t : Track) (st r0 r1 : Nat) (h : Hoop) : State :=
  setHif { s with out := s.out ++ [.completion m (prodOf s m).toNat (cqAddr s m (prodOf s m))
      (recordBytes t (phaseBit (prodOf s m) (cqLog s m)) st r0 r1 h)] }
    { s.hif with prod := tput (fun _ => 0) s.hif.prod m (prodOf s m + 1) }

theorem completionWrite_eq {s : State} {m : Nat} {t : Track} {st r0 r1 : Nat} {h : Hoop} (he : engineRuns s = true)
    (hen : cqEnabled s m = true) (hnot : cqNotice s m = false) (hroom : cqRoom s m = true) (hnext : nextRecord s m = some t)
    (hph : t.phase = .done st r0 r1 h) : completionWrite s m =
      dropTrack (countRecord (recordWritten (writeHead s t.ring) m t st r0 r1 h)
        (cqVector (recordWritten (writeHead s t.ring) m t st r0 r1 h) m) (Desc.urgent t.desc)) t.id := by
  unfold completionWrite
  rw [if_pos (by simp [he, hen, hnot, hroom]), hnext]
  dsimp only
  rw [hph]
  rfl

theorem writeHead_out (s : State) (n : Nat) : ∃ before, (writeHead s n).out = s.out ++ before := by
  unfold writeHead
  split
  · exact ⟨_, rfl⟩
  · exact ⟨[], (List.append_nil _).symm⟩

theorem writeHead_regs (s : State) (n : Nat) : (writeHead s n).regs = s.regs := by
  unfold writeHead
  split <;> rfl

theorem writeHead_canon {s : State} (hs : s.canon) (n : Nat) : (writeHead s n).canon := (writeHead_keeps _ _ (.refl s)).canon hs

theorem recordWritten_canon {s : State} (hs : s.canon) (m : Nat) (t : Track) (st r0 r1 : Nat) (h : Hoop) :
    (recordWritten s m t st r0 r1 h).canon :=
  (setHif_keeps _ { s.hif with prod := tput (fun _ => 0) s.hif.prod m (prodOf s m + 1) } (Keeps.refl s).fieldsSent fun _ h => ⟨h.1, h.2, h.3, h.4, h.5, h.6, tput_twf h.7, h.8⟩).canon hs

theorem recordWritten_prod {s : State} (hs : s.canon) (m : Nat) (t : Track) (st r0 r1 : Nat) (h : Hoop) :
    prodOf (recordWritten s m t st r0 r1 h) m = prodOf s m + 1 := by
  rw [prodOf, recordWritten, setHif, tget_tput hs.hif.prod, if_pos rfl]

theorem countRecord_regs (s : State) (v : Nat) (urgent : Bool) : (countRecord s v urgent).regs = s.regs :=
  regs_of_outside (w := [.records, .out]) (by simp) (by simp) (by simp) (by simp)

theorem completionWrite_spec {s : State} (hs : s.canon) {m : Nat} {t : Track} {st r0 r1 : Nat} {h : Hoop} (he : engineRuns s = true)
    (hen : cqEnabled s m = true) (hnot : cqNotice s m = false) (hroom : cqRoom s m = true) (hnext : nextRecord s m = some t)
    (hph : t.phase = .done st r0 r1 h) : ∃ before after, (completionWrite s m).out = s.out ++ before ++
        [.completion m (prodOf s m).toNat (cqAddr s m (prodOf s m)) (recordBytes t (phaseBit (prodOf s m) (cqLog s m)) st r0 r1 h)] ++ after ∧
      prodOf (completionWrite s m) m = prodOf s m + 1 ∧ findTrack (completionWrite s m) t.id = none := by
  rw [completionWrite_eq he hen hnot hroom hnext hph]
  obtain ⟨before, hbefore⟩ := writeHead_out s t.ring
  have hcanon := writeHead_canon hs t.ring
  have hregs := writeHead_regs s t.ring
  have hprod : prodOf (writeHead s t.ring) m = prodOf s m := by
    obtain ⟨hd, hh⟩ := writeHead_hif s t.ring
    rw [prodOf, hh, prodOf]
  generalize writeHead s t.ring = u at *
  have hcq : cqAddr u m (prodOf u m) = cqAddr s m (prodOf s m) ∧ cqLog u m = cqLog s m := by
    simp only [cqAddr, cqLog, addrPair, regFld, reg, hregs, hprod, and_self]
  have hnr : noticeRing u ≠ some m := by
    rw [noticeRing_congr (s := s) fun a _ => by rw [reg, hregs, reg]]
    exact noticeRing_not_completion hnot
  have hcw := recordWritten_canon hcanon m t st r0 r1 h
  have hpw := recordWritten_prod hcanon m t st r0 r1 h
  have hout : (recordWritten u m t st r0 r1 h).out = s.out ++ before ++ [.completion m (prodOf s m).toNat (cqAddr s m (prodOf s m))
      (recordBytes t (phaseBit (prodOf s m) (cqLog s m)) st r0 r1 h)] := by
    rw [← hbefore, ← hcq.1, ← hcq.2, ← hprod]
    rfl
  have hregs' : (recordWritten u m t st r0 r1 h).regs = u.regs := rfl
  generalize recordWritten u m t st r0 r1 h = x at *
  have hnr' : noticeRing (countRecord x (cqVector x m) (Desc.urgent t.desc)) ≠ some m := by
    rw [noticeRing_congr (s := u) fun a _ => by rw [reg, countRecord_regs, hregs', reg]]
    exact hnr
  have hcc := (countRecord_keeps x (cqVector x m) (Desc.urgent t.desc) (.refl x)).canon hcw
  obtain ⟨l, hl⟩ := countRecord_out x (cqVector x m) (Desc.urgent t.desc)
  have hpc := countRecord_prod x (cqVector x m) (Desc.urgent t.desc)
  generalize countRecord x (cqVector x m) (Desc.urgent t.desc) = y at *
  obtain ⟨after, hafter⟩ := (dropTrack_keeps y t.id (.refl y)).out
  refine ⟨before, l ++ after, ?_, ?_, findTrack_dropTrack y t.id⟩
  · rw [← hafter, hl, hout, List.append_assoc _ l after]
  · rw [dropTrack_prod hcc hnr', prodOf, hpc, ← prodOf, hpw, hprod]

/-- Settles O7: an issue, a return, a fetch and a completion record each do what R45 to R50 and R57 say. -/
theorem ringsAreServed : Obligations.RingsAreServed := by
  unfold Obligations.RingsAreServed
  refine ⟨⟨fun s hen hout => ?_, fun tails releases addr s hs hout => ?_, fun tails releases addr s hout haddr => ?_⟩,
    fun n s hs hn => ⟨fun d => ?_, fun addr => ?_⟩, fun m t st r0 r1 h s hs he hen hnot hroom hnext hph => ?_⟩
  · obtain ⟨h1, h2, h3, h4⟩ := pollIssue_spec hen hout
    exact ⟨_, rfl, h1, h2, h3, h4, onlyHost_of_outside (by simp)⟩
  · exact ⟨_, rfl, pollReturn_pollOut hout tails releases addr, fun n => pollReturn_tail hs hout tails releases addr n.isLt,
      onlyHost_of_outside (by simp)⟩
  · refine congrArg done ?_
    unfold pollReturn
    rw [if_pos hout, Nat.mod_eq_of_lt haddr]
    rfl
  · have hrings := fetchOne_rings n (slotRead s n) d
    obtain ⟨hhead, htail, hlast, hid⟩ := hrings
    refine ⟨_, congrArg done (fetch_single hn d), ?_, hid, hlast, congrArg (tget (fun _ => (0 : Word)) · n) htail⟩
    rw [headOf, hhead, tget_tput (show twf (fun _ => 0) (slotRead s n).hif.head = true from hs.hif.head), if_pos rfl]
    rfl
  · obtain ⟨h1, h2, h3⟩ := fetchFail_spec hs hn addr
    exact ⟨_, rfl, h1, h2, h3⟩
  · obtain ⟨before, after, h1, h2, h3⟩ := completionWrite_spec hs he hen hnot hroom hnext hph
    exact ⟨_, before, after, rfl, h1, h2, h3⟩

end Sys2Proof.Machine

/-! Whole frames, and the curve slots (R142, R152, R153). -/
namespace Sys2Proof.Machine

theorem regFld_setRegFld {s : State} (hs : twf regReset s.regs = true) (a : Nat) {hi lo n : Nat} (hhi : hi < 32)
    (hn : n < 2 ^ (hi + 1 - lo)) : regFld (setRegFld s a hi lo n) a hi lo = n := by
  rw [setRegFld, regFld, reg_setReg_twf hs, if_pos rfl, fld_setFld _ hhi hn]

theorem stepIndex_index {s : State} (hs : twf regReset s.regs = true) :
    regFld (stepIndex s) ING_CURVE_ADDR 10 0 = min (regFld s ING_CURVE_ADDR 10 0 + 1) 1024 :=
  regFld_setRegFld hs _ (by decide) (by norm_num)

/-! ### Curve slots -/

/-- Entry `i` of slot `k` set to `v`. -/
def setCurve (s : State) (k i v : Nat) : State :=
  setIng s { s.ing with curve := tput (fun _ => none) s.ing.curve (k * 2048 + i) (some v) }

theorem curveEntry_setCurve_self {s : State} (hs : s.canon) (k i v : Nat) : curveEntry (setCurve s k i v) k i = v := by
  simp only [curveEntry, setCurve, setIng, tget_tput hs.ing.curve, if_true]

theorem curveEntry_setCurve_other {s : State} (hs : s.canon) {k i k' i' : Nat} (v : Nat) (hi : i ≤ 1024) (hi' : i' ≤ 1024)
    (h : (k', i') ≠ (k, i)) : curveEntry (setCurve s k i v) k' i' = curveEntry s k' i' := by
  have hne : k' * 2048 + i' ≠ k * 2048 + i := fun he => h (Prod.ext (by omega) (by omega))
  simp only [curveEntry, setCurve, setIng, tget_tput hs.ing.curve, if_neg hne]

theorem curveWrite_busy {s : State} (v : Word) (hi : regFld s ING_CURVE_ADDR 10 0 ≤ 1024) (hk : regFld s ING_CURVE_ADDR 19 16 ≠ 0)
    (h : curveBusy s (regFld s ING_CURVE_ADDR 19 16) = true) : curveWrite s v = latch s ING_STATUS 31 := by
  simp only [curveWrite]
  rw [if_neg (by omega), if_pos h]

theorem curveWrite_free {s : State} (v : Word) (hi : regFld s ING_CURVE_ADDR 10 0 ≤ 1024) (hk : regFld s ING_CURVE_ADDR 19 16 ≠ 0)
    (h : curveBusy s (regFld s ING_CURVE_ADDR 19 16) = false) : curveWrite s v =
      stepIndex (setCurve s (regFld s ING_CURVE_ADDR 19 16) (regFld s ING_CURVE_ADDR 10 0) (fld v 15 0)) := by
  simp only [curveWrite]
  rw [if_neg (by omega), if_neg (by simp [h])]
  rfl

theorem curveRead_loaded {s : State} (hi : regFld s ING_CURVE_ADDR 10 0 ≤ 1024) (hk : regFld s ING_CURVE_ADDR 19 16 ≠ 0) :
    curveRead s = { stepIndex s with
      readValue := curveEntry s (regFld s ING_CURVE_ADDR 19 16) (regFld s ING_CURVE_ADDR 10 0) } := by
  simp only [curveRead]
  rw [if_neg (by omega), if_neg hk]

/-! ### Whole frames -/

theorem frameComplete_of_handle {s : State} {k : Nat} {c : Frame} {n : Nat} (hc : (sessOf s k).cur = some c) (hn : c.handle = some n) :
    frameComplete s k = if frameWhole c then
        setSess (setIng s { s.ing with order := s.ing.order + 1 }) k { sessOf s k with
          cur := some { c with complete := true, samples := [] }, complete := (sessOf s k).complete + 1
          waiting := (sessOf s k).waiting ++ [⟨c.ts, n, bits (word c.args 4) 31 16, s.ing.order + 1⟩] }
      else s := by
  simp only [frameComplete, hc, hn]
  rfl

/-- Settles O28: a whole frame waits and any other stays; a curve entry is written where its slot is free, and read. -/
theorem framesAndCurves : Obligations.FramesAndCurves := by
  unfold Obligations.FramesAndCurves
  refine ⟨fun k c n s hc hn => ⟨fun h => ?_, fun h => ?_⟩, fun v k i s hs hk hi hi' hk0 => ?_⟩
  · exact congrArg done ((frameComplete_of_handle hc hn).trans (if_pos h))
  · exact congrArg done ((frameComplete_of_handle hc hn).trans (if_neg (by simp [h])))
  · subst hk hi
    refine ⟨fun h => ⟨_, congrArg done (curveWrite_free v hi' hk0 h), ?_, fun k' i' hle hne => ?_, ?_, rfl⟩,
      fun h => congrArg done (curveWrite_busy v hi' hk0 h), _, congrArg done (curveRead_loaded hi' hk0), rfl, ?_, rfl⟩
    · exact (curveEntry_setCurve_self hs ..).trans (by simp [fld, bits])
    · exact curveEntry_setCurve_other hs _ hi' hle hne
    · exact stepIndex_index hs.regs
    · exact stepIndex_index hs.regs

end Sys2Proof.Machine

/-! The tile command window: address, data, commands and OPEN (R472, R474 to R476). -/
namespace Sys2Proof.Machine

theorem lgwPut_arg (l : Lgw) (m x : Nat) : lgwPut l (16 * m) x = { l with args := tput (fun _ => 0) l.args m (w32 x) } := by
  have hmotif : 16 * m / 16 = m := by omega
  have hindex : 16 * m % 16 = 0 := by omega
  simp only [lgwPut, hmotif, hindex]

/-- What each write does while the window is not refused (R474). -/
theorem lgwAccess_open {s : State} (h : lgwRefused s = false) (v : Byte) :
    lgwAddrHigh s v.toNat = { s with lgw := { s.lgw with addr := v.toNat * 256 + s.lgw.addr % 256, latch := [] } } ∧
    lgwAddrLow s v.toNat = { s with lgw := { s.lgw with addr := s.lgw.addr / 256 * 256 + v.toNat, latch := [] } } ∧
    (s.lgw.latch.length < 3 → lgwData s v.toNat = { s with lgw := { s.lgw with latch := s.lgw.latch ++ [v.toNat] } }) ∧
    lgwRead s = { s with
      readValue := lgwWord s s.lgw.addr / 2 ^ 24 % 256
      lgw := { s.lgw with snap := lgwWord s s.lgw.addr % 2 ^ 24, addr := (s.lgw.addr + 1) % 65536 } } ∧
    lgwOpen s = { s with lgw := if s.win.isOpen then { s.lgw with opened := true } else { s.lgw with late := true } } := by
  have hbyte : v.toNat % 256 = v.toNat := Nat.mod_eq_of_lt v.isLt
  have hneg : ¬ lgwRefused s = true := by simp [h]
  refine ⟨?_, ?_, fun hl => ?_, ?_, ?_⟩
  · rw [lgwAddrHigh, if_neg hneg, hbyte]
    rfl
  · rw [lgwAddrLow, if_neg hneg, hbyte]
    rfl
  · rw [lgwData, if_neg hneg, hbyte]
    exact if_pos (by rw [List.length_append, List.length_singleton]; omega)
  · rw [lgwRead, if_neg hneg]
    rfl
  · rw [lgwOpen, if_neg hneg]
    split <;> rfl

/-- A refused window takes no write, and LGW_DATA reads 0 (R472). -/
theorem lgwAccess_refused {s : State} (h : lgwRefused s = true) (v : Nat) :
    lgwAddrHigh s v = s ∧ lgwAddrLow s v = s ∧ lgwData s v = s ∧ lgwOpen s = s ∧ lgwRead s = { s with readValue := 0 } :=
  ⟨if_pos h, if_pos h, if_pos h, if_pos h, if_pos h⟩

/-- A staged command that may join is a member of the set, and nothing stays staged (R476). -/
theorem mem_lgwMembers {s : State} {c : Cfg} {x : Nat × Nat × Word} (ho : s.lgw.opened = true) (hr : lgwRefused s = false)
    (hx : x ∈ s.lgw.staged) (hj : lgwJoins c x = true) :
    (⟨0, 0, .lgw, twinRing, lgwDesc x.1 x.2.1 x.2.2, false⟩ : Member) ∈ (lgwMembers s c).1 ∧ (lgwMembers s c).2.lgw.staged = [] := by
  unfold lgwMembers
  rw [if_pos (by simp [ho, hr]), List.partition_eq_filter_filter]
  exact ⟨List.mem_map.2 ⟨x, List.mem_filter.2 ⟨hx, hj⟩, rfl⟩, rfl⟩

/-- Settles O58: by what each access does, open and refused, and what a word stages. -/
theorem tileWindow : Obligations.TileWindow := by
  unfold Obligations.TileWindow
  refine ⟨fun v s => ⟨fun h => ?_, fun h => ?_⟩, fun l m x hl _ => ⟨?_, fun h1 h6 => ?_, ?_, lgwPut_cmd_refuses l m⟩,
    fun s c x ho hr hx hj => mem_lgwMembers ho hr hx hj⟩
  · obtain ⟨hhigh, hlow, hdata, hread, hopen⟩ := lgwAccess_open h v
    exact ⟨congrArg done hhigh, congrArg done hlow, fun hl => congrArg done (hdata hl),
      fun a b c hl => exec_lgwDataWrite_fourth h hl v, congrArg done hread, congrArg done hopen⟩
  · obtain ⟨hhigh, hlow, hdata, hopen, hread⟩ := lgwAccess_refused h v.toNat
    exact ⟨congrArg done hhigh, congrArg done hlow, congrArg done hdata, congrArg done hopen, congrArg done hread⟩
  · rw [lgwPut_arg]
    exact tget_tput_self hl.args
  · rw [lgwPut_cmd_stages l m h1 h6]
    exact tget_tput_self hl.staged
  · rw [lgwPut_cmd_unstages]
    exact tget_tput_self hl.staged

end Sys2Proof.Machine

/-! A descriptor that awaits its start is handed to its block (R64); a unit outside a twin pair forwards nothing (R324). -/
namespace Sys2Proof.Machine

/-! ### Handed over -/

theorem startReady_of_ready {s : State} {t : Track} (hf : findTrack s t.id = some t) (hp : t.phase = .ready) :
    startReady s t.id = startEntry s t := by
  unfold startReady
  rw [hf]
  exact if_pos hp

theorem startNext_of_ready {s : State} {t : Track} (hf : findTrack s t.id = some t) (hp : t.phase = .ready) :
    startNext s t = startEntry s t := by
  unfold startNext
  rw [if_neg (by rw [hp]; exact Phase.noConfusion), startReady_of_ready hf hp]

theorem startDesc_of_awaits {s : State} {n : Nat} {d : Desc} {t : Track} (h : awaits s n d t) : startDesc s n d = startEntry s t := by
  obtain ⟨hnext, hphase, hdesc, -, hfind, -⟩ := h
  unfold startDesc
  rw [hnext]
  exact (if_pos hdesc).trans (startNext_of_ready hfind hphase)

theorem awaits.desc_eq {s : State} {n : Nat} {d : Desc} {t : Track} (h : awaits s n d t) : t.desc = d := h.2.2.1

theorem awaits.ready {s : State} {n : Nat} {d : Desc} {t : Track} (h : awaits s n d t) : t.phase = .ready := h.2.1

theorem awaits.find {s : State} {n : Nat} {d : Desc} {t : Track} (h : awaits s n d t) : findTrack s t.id = some t := h.2.2.2.2.1

theorem awaits.refuses {s : State} {n : Nat} {d : Desc} {t : Track} (h : awaits s n d t) : twinRefuses s t.desc = false :=
  h.desc_eq ▸ h.2.2.2.2.2

section
variable (op : Nat) (d : Desc)

@[simp] theorem noData_withOp : noData (withOp op d) = noData d := rfl
@[simp] theorem argsZeroFrom_withOp (n : Nat) : argsZeroFrom (withOp op d) n = argsZeroFrom d n := rfl
@[simp] theorem darg_withOp (i : Nat) : darg (withOp op d) i = darg d i := rfl
@[simp] theorem opcode_withOp : (withOp op d).opcode = op := rfl
@[simp] theorem object_withOp : (withOp op d).object = d.object := rfl
@[simp] theorem length_withOp : (withOp op d).length = d.length := rfl

end

theorem twinRefuses_handOver (s : State) (id : Nat) (d : Desc) : twinRefuses (handOver s id) d = twinRefuses s d := rfl

section
variable {s : State} {t : Track} (h : twinRefuses s t.desc = false)
include h

/-- What the twin rules let start goes to the block of its opcode (Table 2-6). -/
theorem startEntry_digestRead (hop : t.desc.opcode = 0x23) : startEntry s t = startDigestRead (handOver s t.id) t := by
  simp only [startEntry, twinRefuses_handOver, h, hop, Bool.false_eq_true, if_false]

theorem startEntry_rawTx (hop : t.desc.opcode = 0x30) : startEntry s t = startRawTx (handOver s t.id) t := by
  simp only [startEntry, twinRefuses_handOver, h, hop, Bool.false_eq_true, if_false]

theorem startEntry_rxPost (hop : t.desc.opcode = 0x31) : startEntry s t = startRxPost (handOver s t.id) t := by
  simp only [startEntry, twinRefuses_handOver, h, hop, Bool.false_eq_true, if_false]

theorem startEntry_rxFilter (hop : t.desc.opcode = 0x32) : startEntry s t = startRxFilter (handOver s t.id) t := by
  simp only [startEntry, twinRefuses_handOver, h, hop, Bool.false_eq_true, if_false]

theorem startEntry_read (hop : t.desc.opcode = 0x03) : startEntry s t = startRead (handOver s t.id) t := by
  simp only [startEntry, twinRefuses_handOver, h, hop, Bool.false_eq_true, if_false]

theorem startEntry_write (hop : t.desc.opcode = 0x02) : startEntry s t = startWrite (handOver s t.id) t := by
  simp only [startEntry, twinRefuses_handOver, h, hop, Bool.false_eq_true, if_false]

theorem startEntry_load (hop : t.desc.opcode = 0x11) : startEntry s t = startLoad (handOver s t.id) t := by
  simp only [startEntry, twinRefuses_handOver, h, hop, Bool.false_eq_true, if_false]

theorem startEntry_tableRead (hop : t.desc.opcode = 0x12) : startEntry s t = startTableRead (handOver s t.id) t := by
  simp only [startEntry, twinRefuses_handOver, h, hop, Bool.false_eq_true, if_false]

theorem startEntry_block (hop : t.desc.opcode = 0x40) : startEntry s t = startBlock (handOver s t.id) t := by
  simp only [startEntry, twinRefuses_handOver, h, hop, Bool.false_eq_true, if_false]

theorem startEntry_verify (hop : t.desc.opcode = 0x41) : startEntry s t = startVerify (handOver s t.id) t := by
  simp only [startEntry, twinRefuses_handOver, h, hop, Bool.false_eq_true, if_false]

theorem startEntry_activate (hop : t.desc.opcode = 0x42) : startEntry s t = startActivate (handOver s t.id) t := by
  simp only [startEntry, twinRefuses_handOver, h, hop, Bool.false_eq_true, if_false]

theorem startEntry_confirm (hop : t.desc.opcode = 0x43) : startEntry s t = startConfirm (handOver s t.id) t := by
  simp only [startEntry, twinRefuses_handOver, h, hop, Bool.false_eq_true, if_false]

theorem startEntry_storeWrite (hop : t.desc.opcode = 0x44) : startEntry s t = startStoreWrite (handOver s t.id) t := by
  simp only [startEntry, twinRefuses_handOver, h, hop, Bool.false_eq_true, if_false]

theorem startEntry_storeRead (hop : t.desc.opcode = 0x45) : startEntry s t = startStoreRead (handOver s t.id) t := by
  simp only [startEntry, twinRefuses_handOver, h, hop, Bool.false_eq_true, if_false]

theorem startEntry_mirror (hop : t.desc.opcode = 0x72) : startEntry s t = startTwinMirror (handOver s t.id) t := by
  simp only [startEntry, twinRefuses_handOver, h, hop, Bool.false_eq_true, if_false]

theorem startEntry_sampler (hop : t.desc.opcode = 0x73) : startEntry s t = startSampler (handOver s t.id) t := by
  simp only [startEntry, twinRefuses_handOver, h, hop, Bool.false_eq_true, if_false]

end

/-- The transfer of an entry finishes (R58). -/
theorem exec_descriptorDmaDone {s : State} {n : Fin 64} {tag : Nat} {t : Track} (h : transferOf s n tag = some t) (data : List Byte) :
    exec (.descriptorDmaDone n tag data) s = done (transferDone s t data) := by
  simp only [exec, execDescriptorDmaDone, h]

/-! ### What lies outside the parts that change -/

theorem twn_of_outside {w : List Part} {s t : State} (h : t.outside w = s.outside w) (hw : .twn ∉ w) (ha : .acks ∉ w)
    (hc : .twnClosed ∉ w) : t.twn = s.twn := by
  simpa [State.outside, hw, ha, hc] using congrArg State.twn h

/-! ### A unit outside a pair -/

section
variable {s u : State}

theorem alone.of_same (h : alone s) (hboot : u.boot = s.boot) (htwn : u.twn = s.twn)
    (htrack : ∀ x, x ∈ u.hif.track → ∃ y, y ∈ s.hif.track ∧ y.origin = x.origin) : alone u := by
  obtain ⟨htwin, hbehind, hacks, hentry, hstate, horigin⟩ := h
  unfold alone
  rw [hboot, htwn]
  refine ⟨htwin, hbehind, hacks, hentry, hstate, fun x hx q hq => ?_⟩
  obtain ⟨y, hy, he⟩ := htrack x hx
  exact horigin y hy q (he.trans hq)

theorem alone.congr (h : alone s) (hboot : u.boot = s.boot) (htwn : u.twn = s.twn) (htrack : u.hif.track = s.hif.track) : alone u :=
  h.of_same hboot htwn fun x hx => ⟨x, htrack ▸ hx, rfl⟩

theorem alone.modTrack (h : alone s) (id : Nat) {f : Track → Track} (hf : ∀ y, (f y).origin = y.origin) : alone (modTrack s id f) :=
  h.of_same rfl rfl fun x hx => by
    obtain ⟨y, hy, rfl | rfl⟩ := mem_modFirst hx
    · exact ⟨x, hy, rfl⟩
    · exact ⟨y, hy, (hf y).symm⟩

theorem alone.retryBehind (h : alone s) : retryBehind s = s := by
  obtain ⟨-, hbehind, -, -, hstate, -⟩ := h
  unfold Machine.retryBehind
  rw [hbehind]
  exact if_neg (by simp [drainBehind, hstate])

theorem alone.judgeAcks (h : alone s) : judgeAcks s = s := if_neg (by rw [h.2.2.1]; exact Bool.false_ne_true)

theorem alone.sendAcks (h : alone s) : sendAcks s = s := by
  obtain ⟨-, -, hacks, -⟩ := h
  have hsame : setTwn s { s.twn with acksDue := [] } = s := by rw [← hacks]; rfl
  unfold Machine.sendAcks
  rw [hsame, hacks, List.foldl_nil]

theorem forwards_off (h : s.boot.twinEn = false) : forwards s = false := by simp [forwards, pairJoined, h]

theorem forwardStep_off (h : s.boot.twinEn = false) (id : Nat) (data : List Byte) (f : State → State) : forwardStep s id data f = f s :=
  if_neg (by rw [forwards_off h]; exact Bool.false_ne_true)

theorem forwardData_off (h : s.boot.twinEn = false) (id : Nat) (data : List Byte) (f : State → State) : forwardData s id data f = f s :=
  if_neg (by rw [forwards_off h]; exact Bool.false_ne_true)

theorem drives_off (h : s.boot.twinEn = false) : drives s = true := by simp [drives, h]

/-! ### A descriptor finishes in it -/

theorem alone.foldl {α : Type} {f : State → α → State} (hf : ∀ v x, alone v → alone (f v x)) (l : List α) (h : alone s) :
    alone (l.foldl f s) :=
  List.foldlRecOn (motive := alone) l _ h fun v hv x _ => hf v x hv

theorem alone.afterLeave (h : alone s) (ring : Nat) : alone (afterLeave s ring) := by
  have hout : (Machine.afterLeave s ring).outside [.track, .records, .out, .counts, .fresh, .outboxes] =
      s.outside [.track, .records, .out, .counts, .fresh, .outboxes] :=
    afterLeave_outside (w := [.track, .records, .out, .counts, .fresh, .outboxes]) ⟨by simp, by simp, by simp, by simp, by simp⟩
      (by simp) s ring
  exact h.congr (boot_of_outside hout (by simp)) (twn_of_outside hout (by simp) (by simp) (by simp)) (afterLeave_track s ring)

theorem alone.dropTrack (h : alone s) (id : Nat) : alone (dropTrack s id) := by
  unfold Machine.dropTrack
  split
  · refine alone.afterLeave ?_ _
    exact h.of_same rfl rfl fun x hx => ⟨x, (List.mem_filter.1 hx).1, rfl⟩
  · exact h

theorem alone.decideOne (h : alone s) (id st r0 r1 : Nat) (hoop : Hoop) : alone (decideOne s id st r0 r1 hoop) := by
  unfold Machine.decideOne
  split
  next t ht =>
    have hnext : alone { s with hif := { s.hif with nextFin := s.hif.nextFin + 1 } } := h.congr rfl rfl rfl
    have horigin := h.2.2.2.2.2 t (List.mem_of_find?_eq_some ht)
    dsimp only
    split
    next q hq => exact absurd hq (horigin q)
    · refine iteInduction (fun _ => hnext.dropTrack id) fun _ => iteInduction (fun _ => hnext.modTrack id fun _ => rfl) fun _ =>
        iteInduction (fun _ => hnext.dropTrack id) fun _ => hnext.modTrack id fun _ => rfl
  · exact h

theorem alone.settleFences (h : alone s) (ring : Nat) : alone (settleFences s ring) := by
  refine alone.foldl (fun v f hv => ?_) _ h
  split
  · exact iteInduction (fun _ => hv.decideOne ..) fun _ => hv
  · exact hv

theorem alone.settleOne (h : alone s) (id : Nat) : alone (settleOne s id) := by
  unfold Machine.settleOne
  split
  · split
    · exact iteInduction (fun _ => h) fun _ => h.decideOne ..
    · exact h
  · exact h

theorem alone.settleRing (h : alone s) (ring : Nat) : alone (settleRing s ring) :=
  (alone.foldl (fun _ x hv => hv.settleOne x) _ h).settleFences ring

theorem alone.finish (h : alone s) (id st r0 r1 : Nat) : alone (finish s id st r0 r1) := by
  unfold Machine.finish finishAt
  split
  · exact iteInduction (fun _ => h.modTrack id fun _ => rfl) fun _ => (h.decideOne ..).settleRing _
  · exact h

end

end Sys2Proof.Machine

/-! DIGEST_READ, RX_FILTER, RX_POST and RAW_TX (R269, R299, R300, R302). -/
namespace Sys2Proof.Machine

/-! ### Posted buffers -/

theorem filter_modFirst {α : Type} {p q : α → Bool} {f : α → α} {l : List α} {x : α} (hx : l.find? q = some x) (hp : p x = false)
    (hf : p (f x) = false) : (modFirst q f l).filter p = l.filter p := by
  induction l with
  | nil => rfl
  | cons y l ih =>
    rw [modFirst]
    rw [List.find?_cons] at hx
    split at hx
    next hq =>
      obtain rfl := Option.some.inj hx
      rw [if_pos hq, List.filter_cons, if_neg (by simp [hf]), List.filter_cons, if_neg (by simp [hp])]
    next hq => rw [if_neg (by simp [hq]), List.filter_cons, List.filter_cons, ih hx]

/-- An entry on its way to its block is no posted buffer, and neither is one handed over. -/
theorem postedOn_handOver {s : State} {t : Track} (hf : findTrack s t.id = some t) (hp : t.phase = .ready) (p : Nat) :
    postedOn (handOver s t.id) p = postedOn s p := by
  unfold postedOn handOver modTrack
  exact filter_modFirst hf (by simp [hp]) (by simp)

/-! ### A frame is handed to its queue -/

/-- A unit that drives queues a frame where its port is up, its queue has room and none waits before it. -/
theorem hand_rawTx {s : State} (hd : drives s = true) {p q : Nat} {f : TxFrame} {id : Nat} {stamp : Bool}
    (hf : f.sender = .rawTx id stamp) (hup : portUp s p = true) (hroom : queueHasRoom s p q = true) (hwait : waitingAt s p q = []) :
    hand s p q f = begin (setQueueAt s p q (queueAt s p q ++ [f])) id := by
  simp only [hand, kept, hd, hup, hroom, hwait, hf, Bool.not_true, Bool.and_false, Bool.false_and, Bool.false_eq_true, if_false,
    decide_true, Bool.and_true, if_true]

theorem retryBehind_hand_rawTx {s : State} (h : alone s) {p q : Nat} {f : TxFrame} {id : Nat} {stamp : Bool}
    (hf : f.sender = .rawTx id stamp) (hup : portUp s p = true) (hroom : queueHasRoom s p q = true) (hwait : waitingAt s p q = []) :
    retryBehind (hand s p q f) = begin (setQueueAt s p q (queueAt s p q ++ [f])) id := by
  rw [hand_rawTx (drives_off h.1) hf hup hroom hwait]
  refine alone.retryBehind (alone.modTrack ?_ id fun _ => rfl)
  exact h.congr rfl rfl rfl

/-- Settles O36: by the block of each opcode, and the end of each transfer. -/
theorem portDescriptors : Obligations.PortDescriptors := by
  unfold Obligations.PortDescriptors
  refine fun n d t s => ⟨fun h hdata hargs => ?_, fun h hdata hargs h0 h1 h3 h4 => ?_, fun h hargs h0 hmin hmax hmod hlen => ?_,
    fun h hargs h0 hbits hq hmin hmax hdrive => ?_, fun tag data ha htr hop hup hroom hwait => ?_, fun tag data w ha htr hop hw => ?_⟩
  · have hstart := (startDesc_of_awaits h).trans (startEntry_digestRead h.refuses (by rw [h.desc_eq]; rfl))
    unfold startDigestRead at hstart
    rw [h.desc_eq, if_neg (by simp [hdata, hargs])]
      at hstart
    refine ⟨fun r hr => congrArg done (hstart.trans ?_), fun hr => congrArg done (hstart.trans ?_)⟩
    · rw [show ((handOver s t.id).egr.digests.find? fun r => decide (r.hoop = w32 (darg (withOp 0x23 d) 0))) = some r from hr]
      rfl
    · rw [show ((handOver s t.id).egr.digests.find? fun r => decide (r.hoop = w32 (darg (withOp 0x23 d) 0))) = none from hr]
  · have hstart := (startDesc_of_awaits h).trans (startEntry_rxFilter h.refuses (by rw [h.desc_eq]; rfl))
    unfold startRxFilter at hstart
    rw [h.desc_eq] at hstart
    refine congrArg done (hstart.trans (if_neg ?_))
    simp [hdata, hargs,
      h0, h1, h3, h4]
  · have hstart := (startDesc_of_awaits h).trans (startEntry_rxPost h.refuses (by rw [h.desc_eq]; rfl))
    unfold startRxPost at hstart
    rw [h.desc_eq] at hstart
    refine congrArg done (hstart.trans ?_)
    rw [if_neg (by simp [hargs, show ¬ 8 ≤ darg d 0 by omega])]
    refine (if_neg (by simp only [withOp]; omega)).trans (if_neg ?_)
    rw [postedOn_handOver h.find h.ready]
    exact Nat.not_le.2 hlen
  · have hstart := (startDesc_of_awaits h).trans (startEntry_rawTx h.refuses (by rw [h.desc_eq]; rfl))
    unfold startRawTx at hstart
    rw [h.desc_eq] at hstart
    have hhigh : bits (darg d 0) 31 10 = 0 := by unfold bits; omega
    refine congrArg done (hstart.trans ?_)
    dsimp only
    rw [if_neg (by simp [hargs, hhigh, hbits, hq])]
    have hlen : ¬ (d.length < 14 ∨ maxFrame s d.object - (if bitOf (darg d 0) 9 = true then 0 else 4) < d.length) := by split <;> omega
    refine (if_neg hlen).trans (if_neg ?_)
    rintro ⟨hlow, hnot⟩
    rcases hdrive with hhigh | hdrives
    · exact absurd hlow (Nat.not_lt.2 hhigh)
    · exact absurd (hnot.symm.trans hdrives) Bool.false_ne_true
  · rw [exec_descriptorDmaDone htr]
    simp only [transferDone, hop]
    exact congrArg done (retryBehind_hand_rawTx ha rfl hup hroom hwait)
  · rw [exec_descriptorDmaDone htr]
    simp only [transferDone, hop, rxPostDone, hw]
    refine congrArg done (alone.retryBehind (alone.finish ?_ ..))
    exact ha.congr rfl rfl rfl

end Sys2Proof.Machine

/-! The pipeline run of a hoop begins 2 µs after its boundary (R24), and DARK entries drive zero (R188). -/
namespace Sys2Proof.Machine

/-! ### A run stays active through the walk -/

theorem estimateMotif_run (rev : Nat) (h : Hoop) (s : State) (m : Nat) : (estimateMotif rev h s m).run = s.run := by
  unfold estimateMotif
  extract_lets ks es u
  refine Eq.trans rfl (List.foldlRecOn (motive := fun t : State => t.run = s.run) (ks.zip es) _ rfl fun t ht x _ => ?_)
  exact ht

theorem pixelEntry_run (s : State) (rev : Nat) (h : Hoop) (m i : Nat) (smp : Nat × Nat × Nat) :
    (pixelEntry s rev h m i smp).2.run = s.run := by
  refine List.foldlRecOn (motive := fun x : List Nat × State => x.2.run = s.run) _ _ rfl fun x hx k _ => ?_
  dsimp only
  split
  · exact hx
  · exact hx

theorem walkEntry_active (h : Hoop) (s : State) (n : Nat) : (walkEntry h s n).run.active = s.run.active := by
  unfold walkEntry
  dsimp only
  split
  · rfl
  · have hrun := congrArg Run.active (pixelEntry_run s s.run.rev h (prickEntry (partOf s.cfg 0) n).motif
      (prickEntry (partOf s.cfg 0) n).index (sample s (prickEntry (partOf s.cfg 0) n)))
    exact hrun
  · rfl

theorem packLocal_run (s : State) (m : Nat) : (packLocal s m).run = s.run := by
  unfold packLocal
  split <;> rfl

theorem buildPort_active (h : Hoop) (s : State) (p : Nat) : (buildPort h s p).run.active = s.run.active := by
  refine List.foldlRecOn (motive := fun t : State => t.run.active = s.run.active) _ _ rfl fun t ht k _ => ?_
  dsimp only
  split <;> exact ht

theorem foldl_active {α : Type} {f : State → α → State} (hf : ∀ t x, (f t x).run.active = t.run.active) (l : List α) (s : State) :
    (l.foldl f s).run.active = s.run.active :=
  List.foldlRecOn (motive := fun t : State => t.run.active = s.run.active) l _ rfl fun t ht x _ => (hf t x).trans ht

theorem runPipeline_active (h : Hoop) (s : State) : (runPipeline h s).run.active = s.run.active := by
  have estimated : ∀ (l : List Nat) (rev : Nat), (l.foldl (estimateMotif rev h) s).run.active = s.run.active := fun l rev =>
    foldl_active (fun t m => congrArg Run.active (estimateMotif_run rev h t m)) l s
  unfold runPipeline
  split
  · rfl
  · extract_lets motifs t bs u v
    have hu : u.run.active = t.run.active := by
      unfold u
      split
      · rfl
      · exact foldl_active (walkEntry_active h) _ t
    have hv : v.run.active = u.run.active := foldl_active (fun t m => congrArg Run.active (packLocal_run t m)) motifs u
    exact (foldl_active (buildPort_active h) _ v).trans (hv.trans (hu.trans (estimated motifs _)))

/-- A DARK entry gives its position four zero grey values (R188). -/
theorem walkEntry_dark {h : Hoop} {s : State} {n : Nat} (hs : s.run.canon) (hk : (prickEntry (partOf s.cfg 0) n).kind = 0) :
    tget (fun _ => []) (walkEntry h s n).run.grey
      ((prickEntry (partOf s.cfg 0) n).motif * 65536 + (prickEntry (partOf s.cfg 0) n).index) = [0, 0, 0, 0] := by
  simp only [walkEntry, hk]
  exact tget_tput_self hs.grey

/-- Settles O30: the start of a run, which the walk leaves active, and a DARK entry. -/
theorem runBegins : Obligations.RunBegins := by
  unfold Obligations.RunBegins
  refine ⟨fun s t hrun hstarted hdue habort hactive hheld ht => ⟨congrArg done ?_, runPipeline_active ..⟩, fun h n s hs hk => walkEntry_dark hs hk⟩
  subst ht
  exact if_pos (by simp [hrun, hstarted, hdue, habort, hactive, hheld])

end Sys2Proof.Machine

/-! LINK rises while TCLK does not run: no 10 ms pass (R293). -/
namespace Sys2Proof.Machine

/-- Port 0 in service with block lock since cycle 0, before the PLLs have locked: device time and the count of cycles stand
still, and no hypothesis of the claim asks that they run. -/
def lockedBeforeClock : State :=
  { setReg State.reset (MAC_CTRL 0) 0x80000000 with
    boot := { Boot.reset with lifted := [0] }, mac := [(0, { MacPort.reset with lock := true })] }

theorem lockedBeforeClock_canon : lockedBeforeClock.canon :=
  { reset_canon with regs := by decide +kernel, mac := by decide +kernel }

theorem linkUp_beforeClock : (linkUp lockedBeforeClock 0).tim.cyc = 0 := by decide +kernel

/-- Refutes O45: LINK rises at cycle 0 in a unit whose clock does not run yet, not 2,500,000 cycles after the change. -/
theorem not_linkAndService : ¬ Obligations.LinkAndService := by
  unfold Obligations.LinkAndService
  intro h
  obtain ⟨-, hup, -⟩ := h 0 lockedBeforeClock lockedBeforeClock_canon rfl
  obtain ⟨u, hu, -, hcyc, -⟩ := hup (by decide +kernel) (by decide +kernel) (by decide +kernel)
  obtain rfl : linkUp lockedBeforeClock 0 = u := Host.Outcome.next.inj hu
  rw [linkUp_beforeClock] at hcyc
  exact absurd hcyc (by decide +kernel)

end Sys2Proof.Machine

/-! Claims that name a time which a command lets pass, in units whose TCLK does not run: no cycle is counted there, and no
hypothesis of these claims asks that device time runs. -/
namespace Sys2Proof.Machine

/-! ### A twin unit before its PLLs have locked -/

/-- A unit strapped as a twin, in its reset sequence: TCLK does not run yet. -/
def twinBeforeClock (t : Twn) : State := { State.reset with boot := { Boot.reset with twinEn := true }, twn := t }

theorem heartbeatEdge_beforeClock : (heartbeatEdge (twinBeforeClock Twn.reset) 1).tim.cyc = 0 := by decide +kernel

/-- Refutes O47: an edge of the heartbeat that comes a cycle after now leaves the count of cycles at 0 where TCLK does not run. -/
theorem not_twinLifeAndDecision : ¬ Obligations.TwinLifeAndDecision := by
  unfold Obligations.TwinLifeAndDecision
  rintro ⟨hlife, -⟩
  obtain ⟨-, hedge, -⟩ := hlife (twinBeforeClock Twn.reset) rfl
  obtain ⟨u, hu, -, hcyc, -⟩ := hedge 1
  obtain rfl : heartbeatEdge (twinBeforeClock Twn.reset) 1 = u := Host.Outcome.next.inj hu
  rw [heartbeatEdge_beforeClock] at hcyc
  exact absurd hcyc (by decide)

/-- SYNCING since a boundary at cycle 0. -/
def syncingAtZero : Twn := { Twn.reset with state := .syncing, syncFrom := some 0 }

theorem twinBeforeClock_canon {t : Twn} (ht : t.canon) : (twinBeforeClock t).canon := { reset_canon with twn := ht }

theorem syncTimeout_beforeClock : (syncTimeout (twinBeforeClock syncingAtZero)).tim.cyc = 0 := by decide +kernel

/-- Refutes O49: SYNCING times out at cycle 0 where TCLK does not run, not 250 ms after its boundary. -/
theorem not_copyAndSynchronising : ¬ Obligations.CopyAndSynchronising := by
  unfold Obligations.CopyAndSynchronising
  rintro ⟨-, hsync⟩
  obtain ⟨-, -, htimeout, -⟩ := hsync (twinBeforeClock syncingAtZero) (twinBeforeClock_canon ⟨rfl, nofun⟩)
  obtain ⟨u, hu, -, hcyc, -⟩ := htimeout 0 rfl rfl rfl
  obtain rfl : syncTimeout (twinBeforeClock syncingAtZero) = u := Host.Outcome.next.inj hu
  rw [syncTimeout_beforeClock] at hcyc
  exact absurd hcyc (by decide)

/-- A DESC without a body, sent at cycle 0, that waits for its ACK. -/
def descSent : Awaiting := ⟨none, 0, 0, 3, []⟩

/-- A STANDBY whose link to its partner is up, with a DESC that waits for its ACK. -/
def standbyAwaiting : Twn := { Twn.reset with state := .standby, linkUp := true, awaiting := [descSent] }

theorem descRetransmit_beforeClock : (descRetransmit (twinBeforeClock standbyAwaiting)).tim.cyc = 0 := by decide +kernel

/-- Refutes O50: a DESC is sent again at cycle 0 where TCLK does not run, not 3 ms after it was sent. -/
theorem not_acksAndLiveFields : ¬ Obligations.AcksAndLiveFields := by
  unfold Obligations.AcksAndLiveFields
  rintro ⟨hacks, -⟩
  obtain ⟨-, hagain⟩ := hacks 0 [] ⟨0, false, 0, false, 0, 0, 0, 0, 0, 0, []⟩ descSent (twinBeforeClock standbyAwaiting)
    (twinBeforeClock standbyAwaiting)
  obtain ⟨u, hu, hcyc, -⟩ := hagain (by decide) (by decide)
  obtain rfl : descRetransmit (twinBeforeClock standbyAwaiting) = u := Host.Outcome.next.inj hu
  rw [descRetransmit_beforeClock] at hcyc
  exact absurd hcyc (by decide)

/-! ### Bring-up and keys -/

/-- A bring-up sequence begun at cycle 0 with one step done, in a unit whose TCLK does not run. -/
def bringUpBeforeClock : State := { State.reset with boot := { Boot.reset with seqAt := some 0, stepsDone := 1 } }

theorem bringUpStep_beforeClock : (bringUpStep bringUpBeforeClock).tim.cyc = 0 := by decide +kernel

/-- Refutes O53: the second step of the sequence is taken at cycle 0 where TCLK does not run, not 1 ms after the first. -/
theorem not_deviceResets : ¬ Obligations.DeviceResets := by
  unfold Obligations.DeviceResets
  rintro ⟨-, -, hbringUp⟩
  obtain ⟨-, hstep, -⟩ := hbringUp bringUpBeforeClock { reset_canon with }
  obtain ⟨u, hu, -, -, -, hcyc, -⟩ := hstep 0 rfl
  obtain rfl : bringUpStep bringUpBeforeClock = u := Host.Outcome.next.inj hu
  rw [bringUpStep_beforeClock] at hcyc
  exact absurd hcyc (by decide +kernel)

/-- A persisted ERASE of slot 0 that has waited for the supply since cycle 0. -/
def eraseWaiting : KeyJob := ⟨2, 0, true, 0, [], 0, [], some 0⟩

/-- It waits in a unit whose TCLK does not run. -/
def keyBeforeClock : State := { State.reset with key := { Key.reset with job := some eraseWaiting } }

theorem keySupplyTimeout_beforeClock : (keySupplyTimeout keyBeforeClock).tim.cyc = 0 := by decide +kernel

/-- Refutes O55: the wait for the supply ends at cycle 0 where TCLK does not run, not after 1 s. -/
theorem not_keyCommands : ¬ Obligations.KeyCommands := by
  unfold Obligations.KeyCommands
  rintro ⟨-, hjob, -⟩
  obtain ⟨-, htimeout⟩ := hjob eraseWaiting keyBeforeClock { reset_canon with key := ⟨rfl⟩ } rfl
  obtain ⟨u, hu, -, -, hcyc, -⟩ := htimeout 0 rfl
  obtain rfl : keySupplyTimeout keyBeforeClock = u := Host.Outcome.next.inj hu
  rw [keySupplyTimeout_beforeClock] at hcyc
  exact absurd hcyc (by decide)

end Sys2Proof.Machine

/-! The package memory's stacks, LT, and BAR2 (R42, R129, R130). -/
namespace Sys2Proof.Machine

/-! ### Registers of any table -/

/-- A count that is raised is not 0. -/
theorem raised_ne_zero (w : Word) : raised w 15 0 1 ≠ 0 := fun h => by
  have hfld : fld (raised w 15 0 1) 15 0 = min (fld w 15 0 + 1) 65535 := fld_setFld w (by decide) (by norm_num)
  rw [h] at hfld
  have : fld (0 : Word) 15 0 = 0 := rfl
  omega

theorem latchCount_regs (s : State) (a hi lo n : Nat) :
    (latchCount s a hi lo n).regs = tput regReset s.regs a (raised (reg s a) hi lo n) := by
  unfold latchCount setLatch
  dsimp only
  split <;> rfl

theorem reg_latchCount_away {s : State} {a b : Nat} (ha : regReset a = 0) (hb : b ≠ a) : reg (latchCount s a 15 0 1) b = reg s b := by
  rw [reg, latchCount_regs, tget_tput_away (ha ▸ raised_ne_zero _) hb, reg]

theorem regReset_nqCnt : ∀ q : Fin 16, regReset (NQ_CNT q) = 0 := by decide +kernel
theorem regReset_srcDrop : regReset (CCS_SRC_DROP 4) = 0 := by decide +kernel

/-- A notice of TIM to firmware raises no register but the counts of what firmware missed. -/
theorem reg_fwNotice_tim (s : State) (n : Notice) {a : Nat} (ha : a < 0x341000) : reg (fwNotice s 4 n) a = reg s a := by
  have place : ∀ (o : Outbox) (p : Packet), reg (if o.packets.length < 4 then setOutbox s 4 { o with packets := o.packets ++ [p] }
      else latchCount (setOutbox s 4 { o with dropped := o.dropped + 1, droppedQueue := p.queue }) (CCS_SRC_DROP 4) 15 0 1) a =
      reg s a := fun o p => by
    split
    · rfl
    · exact reg_latchCount_away regReset_srcDrop (by unfold CCS_SRC_DROP; omega)
  unfold fwNotice placePacket
  split
  · exact reg_latchCount_away (regReset_nqCnt ⟨_, sourceQueue_lt s 4⟩) (by unfold NQ_CNT; omega)
  · exact place _ _

theorem reg_slewDone (s : State) {a : Nat} (ha : a < 0x341000) : reg (notice s 0x0409 0 0 false true) a = reg s a := by
  have hnotice : notice s 0x0409 0 0 false true = fwNotice s 4 ⟨0x0409, 0, s.hoop.number, 0⟩ := by
    simp [notice, noticeSource]
  rw [hnotice, reg_fwNotice_tim s _ ha]

theorem reg_tick_low (n : Nat) (s : State) {a : Nat} (ha : a < 0x341000) : reg (tick n s) a = reg s a := by
  unfold tick
  dsimp only
  split
  · exact reg_slewDone _ ha
  · rfl

/-! ### The stacks -/

theorem stackOf_setStack (s : State) (i : Nat) (x : Stack) : stackOf (setStack s i x) i = x := by
  unfold stackOf setStack
  split <;> rfl

theorem setStack_setStack (s : State) (i : Nat) (x y : Stack) : setStack (setStack s i x) i y = setStack s i y := by
  unfold setStack
  split <;> rfl

theorem setStack_eq (s : State) (i : Nat) (x : Stack) : setStack s i x = { s with hoop := (setStack s i x).hoop } := by
  unfold setStack
  split <;> rfl

theorem stackWake_eq (s : State) (i : Nat) : stackWake s i = { s with hoop := (stackWake s i).hoop } := by
  unfold stackWake
  dsimp only
  split
  · rfl
  · exact setStack_eq s i _

/-- A request changes the stacks alone. -/
theorem stackRequest_eq (s : State) (i : Nat) : stackRequest s i = { s with hoop := (stackRequest s i).hoop } := by
  unfold stackRequest
  dsimp only
  split
  · exact setStack_eq s i _
  · rw [stackWake_eq, setStack_eq]

theorem stackRequest_active {s : State} {i : Nat} (h : (stackOf s i).state = .active) :
    stackRequest s i = setStack s i { stackOf s i with idleSince := s.tim.cyc } := if_pos h

/-- A request to a stack in a lower state waits, and the stack begins to return (R130). -/
theorem stackRequest_wakes {s : State} {i : Nat} (h : (stackOf s i).state ≠ .active) (hdue : (stackOf s i).exitDue = none) :
    stackRequest s i = setStack s i { stackOf s i with
      waiting := true, exitDue := some (s.tim.cyc + (stackTimes (stackOf s i).state).2.2) } := by
  have hcyc : (setStack s i { stackOf s i with waiting := true }).tim = s.tim := by rw [setStack_eq]
  unfold stackRequest
  dsimp only
  rw [if_neg h]
  unfold stackWake
  rw [stackOf_setStack]
  dsimp only
  rw [if_neg (by simp [h, hdue]), setStack_setStack, hcyc]

theorem stackDown_eq {s : State} {i : Nat} {goal : StackState} (hltr : regBit s HOOP_LTR_CFG 31 = true)
    (hheld : s.hoop.stacksHeld = false) (hdue : (stackOf s i).exitDue = none) (hwait : (stackOf s i).waiting = false)
    (hlower : (stackTimes (stackOf s i).state).1 < (stackTimes goal).1)
    (hidle : (stackOf s i).idleSince + (stackTimes goal).1 ≤ s.tim.cyc) (hlt : (stackTimes goal).2.1 + guard10 s ≤ s.hoop.lt) :
    stackDown s i goal = setStack s i { stackOf s i with state := goal } := by
  have hltOf : ltOf s = s.hoop.lt := if_pos hltr
  unfold stackDown
  dsimp only
  exact if_pos (by simp [hltr, hheld, hdue, hwait, hlower, hidle, hltOf, hlt])

theorem stackExitDone_spec {s : State} {i due : Nat} (h : (stackOf s i).exitDue = some due) :
    stackOf (stackExitDone s i) i = ⟨.active, (stackExitDone s i).tim.cyc, none, false⟩ ∧ onlyTime s (stackExitDone s i) := by
  have heq : stackExitDone s i = setStack (runToCycle due s) i ⟨.active, (runToCycle due s).tim.cyc, none, false⟩ := by
    simp only [stackExitDone, h]
  have htim : (setStack (runToCycle due s) i ⟨.active, (runToCycle due s).tim.cyc, none, false⟩).tim = (runToCycle due s).tim := by
    rw [setStack_eq]
  rw [heq, htim]
  refine ⟨stackOf_setStack .., ?_⟩
  rw [setStack_eq]
  have htick : onlyTime s (runToCycle due s) := tick_onlyTime _ s
  unfold onlyTime at htick ⊢
  rw [htick]

/-! ### LT (R129) -/

theorem noteFill_ing {s t : State} (h : t.ing = s.ing) (p used : Nat) : (noteFill t p used).ing = (noteFill s p used).ing := by
  unfold noteFill
  split
  · simp only [setIng, h]
  · exact h

theorem noteFill_eq (s : State) (p used : Nat) : noteFill s p used = { s with ing := (noteFill s p used).ing } := by
  unfold noteFill
  split <;> rfl

theorem ingOnly_trans {s t u : State} (h : t = { s with ing := t.ing }) (k : u = { t with ing := u.ing }) :
    u = { s with ing := u.ing } := by
  rw [k, h]

theorem noteFills_ing {s t : State} (h : t.ing = s.ing) (a b : Nat × Nat) : (noteFills t a b).ing = (noteFills s a b).ing :=
  noteFill_ing (noteFill_ing (noteFill_ing (noteFill_ing h ..) ..) ..) ..

theorem noteFills_eq (s : State) (a b : Nat × Nat) : noteFills s a b = { s with ing := (noteFills s a b).ing } := by
  exact ingOnly_trans (ingOnly_trans (ingOnly_trans (noteFill_eq s 32 a.1) (noteFill_eq _ 33 a.2)) (noteFill_eq _ 34 b.1)) (noteFill_eq _ 35 b.2)

theorem ltIngest_congr {s t : State} (h : t.ing = s.ing) : ltIngest t = ltIngest s := by
  simp only [ltIngest, h]

theorem ltUpdate_spec {s : State} (hrun : s.hoop.running = false) (walked slot : Nat) (a b : Nat × Nat) :
    (ltrUpdate s walked slot a b).ing = (noteFills s a b).ing ∧
    (ltrUpdate s walked slot a b).hoop.lt =
      (if regBit s HOOP_LTR_CFG 31 then min (ltIngest (ltrUpdate s walked slot a b)) (2 ^ 24 - 1) else 0) ∧
    onlyTime s { ltrUpdate s walked slot a b with ing := s.ing } := by
  have htick := tick_onlyTime ((s.tim.cyc / 25 + 1) * 25 - s.tim.cyc) s
  have hhoop := tick_hoop ((s.tim.cyc / 25 + 1) * 25 - s.tim.cyc) s
  have hreg := reg_tick_low ((s.tim.cyc / 25 + 1) * 25 - s.tim.cyc) s (a := HOOP_LTR_CFG) (by decide)
  unfold ltrUpdate runToCycle
  generalize tick ((s.tim.cyc / 25 + 1) * 25 - s.tim.cyc) s = u at *
  have hing : u.ing = s.ing := by rw [htick]
  have hfill := noteFills_ing hing a b
  have heq := noteFills_eq u a b
  generalize noteFills u a b = v at *
  have hvhoop : v.hoop = s.hoop := by rw [heq, hhoop]
  have hvreg : regBit v HOOP_LTR_CFG 31 = regBit s HOOP_LTR_CFG 31 := regBit_congr (by rw [heq, ← hreg]; rfl) _
  have hegress : (if (v.hoop.running && v.hoop.fStarted) = true then (ltEgress v walked slot).getD (ltIngest v : Int) else (ltIngest v : Int)) =
      ltIngest v := if_neg (by simp [hvhoop, hrun])
  dsimp only
  rw [hegress, min_self, Int.toNat_natCast, hvreg]
  refine ⟨hfill, ?_, ?_⟩
  · exact congrArg (if regBit s HOOP_LTR_CFG 31 = true then min · _ else 0) (ltIngest_congr rfl)
  · unfold onlyTime at htick ⊢
    rw [heq, htick]
    rfl

/-! ### BAR2 (R42, R394) -/

theorem packageByte_congr {s t : State} (hst : t.stages = s.stages) (hupd : t.upd = s.upd) (hlay : t.lay = s.lay)
    (hpack : t.package = s.package) (a : Nat) : packageByte t a = packageByte s a := by
  simp only [packageByte, packageRest, hst, hupd, hlay, hpack]

/-- A Latch bit below bit 31 that is set reads as set, whatever the table of registers. -/
theorem regBit_latch_hifErr (s : State) : regBit (latch s HIF_ERR 7) HIF_ERR 7 = true := by
  have hbit : bitW (reg s HIF_ERR ||| w32 (2 ^ 7)) 7 = true := by rw [bitW_or, bitW_bit]; simp
  have hne : reg s HIF_ERR ||| w32 (2 ^ 7) ≠ regReset HIF_ERR := fun h => by
    rw [h] at hbit
    exact absurd hbit (by decide +kernel)
  have hregs : (latch s HIF_ERR 7).regs = tput regReset s.regs HIF_ERR (reg s HIF_ERR ||| w32 (2 ^ 7)) := by
    unfold latch setLatch
    dsimp only
    split <;> rfl
  rw [regBit, reg, hregs, tget_tput_value hne, hbit]

theorem bar2Read_notReady {s : State} (h : s.boot.memReady = false) (a : Nat) (e : EccRead) : bar2Read s a e = { s with readValue := 0 } :=
  if_pos (by simp [h])

theorem bar2Read_uncorrectable {s : State} (h : s.boot.memReady = true) (a : Nat) :
    (bar2Read s a .uncorrectable).readValue = 0xFFFFFFFF ∧ regBit (bar2Read s a .uncorrectable) HIF_ERR 7 = true := by
  unfold bar2Read
  rw [if_neg (by simp [h])]
  exact ⟨rfl, regBit_latch_hifErr _⟩

theorem bar2Read_clean {s : State} (h : s.boot.memReady = true) (a : Nat) :
    (bar2Read s a .clean).readValue = leNat ((List.range 4).map fun k => packageByte s (packageAddr s (a / 4 * 4) + k)) ∧
    bar2Read s a .clean = { s with hoop := (bar2Read s a .clean).hoop, readValue := (bar2Read s a .clean).readValue } := by
  unfold bar2Read
  rw [if_neg (by simp [h])]
  dsimp only
  rw [stackRequest_eq]
  exact ⟨congrArg leNat (List.map_congr_left fun k _ => packageByte_congr rfl rfl rfl rfl _), rfl⟩

theorem exec_bar2Read {a : Nat} (ha : a < 2 ^ 32) (e : EccRead) (s : State) : exec (.bar2Read a e) s = done (bar2Read s a e) := if_pos ha

/-- Settles O26: by what each command does to its stack, and the three reads. -/
theorem packageStacks : Obligations.PackageStacks := by
  unfold Obligations.PackageStacks
  intro i s
  refine ⟨fun goal hltr hheld hdue hwait hlower hidle hlt => congrArg done (stackDown_eq hltr hheld hdue hwait hlower hidle hlt),
    fun h hdue => congrArg done (stackRequest_wakes h hdue), fun h => congrArg done (stackRequest_active h), fun due hdue => ?_,
    fun walked slot a b _ hrun => ?_, fun a ha => ⟨fun h e => ?_, fun h => ?_, fun h => ?_⟩⟩
  · obtain ⟨hstack, honly⟩ := stackExitDone_spec hdue
    exact ⟨_, rfl, hstack, honly⟩
  · obtain ⟨hing, hlt, honly⟩ := ltUpdate_spec hrun walked slot a b
    exact ⟨_, rfl, hing, hlt, honly⟩
  · rw [exec_bar2Read ha, bar2Read_notReady h]
    rfl
  · obtain ⟨hvalue, herr⟩ := bar2Read_uncorrectable h a
    exact ⟨_, exec_bar2Read ha _ s, hvalue, herr⟩
  · obtain ⟨hvalue, honly⟩ := bar2Read_clean h a
    exact ⟨_, exec_bar2Read ha _ s, hvalue, honly⟩

end Sys2Proof.Machine

/-! Descriptors that join the open window (R53, R65, R118, R121). -/
namespace Sys2Proof.Machine

theorem find?_modFirst {α : Type} {q : α → Bool} {f : α → α} {l : List α} {x : α} (hx : l.find? q = some x) (hf : q (f x) = true) :
    (modFirst q f l).find? q = some (f x) := by
  induction l with
  | nil => exact absurd hx (by simp)
  | cons y l ih =>
    rw [modFirst]
    rw [List.find?_cons] at hx
    split at hx
    next hq =>
      obtain rfl := Option.some.inj hx
      rw [if_pos hq, List.find?_cons, hf]
    next hq =>
      rw [if_neg (by simp [hq]), List.find?_cons, hq]
      exact ih hx

/-- The entry that is changed is found changed. -/
theorem findTrack_modTrack {s : State} {t : Track} (ht : findTrack s t.id = some t) {f : Track → Track} (hf : (f t).id = t.id) :
    findTrack (modTrack s t.id f) t.id = some (f t) :=
  find?_modFirst ht (by simp [hf])

theorem findTrack_handOver {s : State} {t : Track} (ht : findTrack s t.id = some t) :
    findTrack (handOver s t.id) t.id = some { t with phase := .queued, handed := s.hif.nextHanded } :=
  findTrack_modTrack (s := { s with hif := { s.hif with nextHanded := s.hif.nextHanded + 1 } }) ht rfl

/-! ### Joining -/

/-- The window open in the hoop in progress takes a member that is not for a later hoop. -/
theorem join_open {s : State} {m : Member} (hrun : s.hoop.running = true) (hstarted : s.hoop.fStarted = true)
    (hopen : s.win.isOpen = true) (htarget : Desc.atHoop m.desc = false ∨ m.desc.target = s.hoop.fNumber + 1) :
    join s m = setPhase (setWin s { s.win with members := insertMember m s.win.members }) m .inSet := by
  have hnow : joinNow s m = setPhase (setWin s { s.win with members := insertMember m s.win.members }) m .inSet := if_pos hopen
  unfold join
  dsimp only
  rw [if_neg (by simp [hrun, hstarted]), hnow]
  split
  · rfl
  next h =>
    rcases htarget with hat | htarget
    · exact absurd h (by simp [hat])
    · exact if_pos (by simp [hopen, htarget])

/-- The checks at arrival read nothing of the tracker. -/
theorem arrival_handOver (s : State) (id : Nat) (d : Desc) : arrival (handOver s id) d = arrival s d := rfl

theorem joinTrack_handOver {s : State} {t : Track} (ht : findTrack s t.id = some t) (horigin : t.origin = .host) (hjoin : mayJoin s t) :
    joinTrack (handOver s t.id) t.id = joined s t := by
  obtain ⟨-, hrun, hstarted, hopen, htarget⟩ := hjoin
  unfold joinTrack
  rw [findTrack_handOver ht]
  dsimp only
  rw [join_open (s := handOver s t.id) hrun hstarted hopen htarget, setPhase, if_pos horigin, horigin]
  rfl

/-- The opcodes of Table 2-6 that join a window. -/
def joins (op : Nat) : Bool := [0x04, 0x05, 0x10, 0x13, 0x14, 0x15, 0x16, 0x17, 0x20, 0x21, 0x22, 0x24, 0x70].contains op

theorem startEntry_joins {s : State} {t : Track} (h : twinRefuses s t.desc = false) (hop : joins t.desc.opcode = true) :
    startEntry s t = if arrival s t.desc ≠ stOk then finish (handOver s t.id) t.id (arrival s t.desc) 0 0
      else forwardJoined (joinTrack (handOver s t.id) t.id) := by
  unfold startEntry
  dsimp only
  rw [twinRefuses_handOver, h, arrival_handOver]
  simp only [joins, List.contains_iff_mem, List.mem_cons, List.not_mem_nil, or_false] at hop
  rcases hop with hop | hop | hop | hop | hop | hop | hop | hop | hop | hop | hop | hop | hop <;> rw [hop] <;> rfl

theorem startDesc_joins {s : State} {n : Nat} {d : Desc} {t : Track} (h : awaits s n d t) (hop : joins d.opcode = true) (hjoin : mayJoin s t) :
    startDesc s n d = forwardJoined (joined s t) := by
  rw [startDesc_of_awaits h, startEntry_joins h.refuses (h.desc_eq ▸ hop), if_neg (by simp [hjoin.1]),
    joinTrack_handOver h.find h.2.2.2.1 hjoin]

theorem forwardJoined_off {s : State} (h : forwards s = false) : forwardJoined s = s := if_neg (by simp [h])

/-! ### AT_HOOP (R53) -/

theorem setPhase_eq (s : State) (m : Member) (p : Phase) : setPhase s m p = { s with hif := (setPhase s m p).hif } := by
  unfold setPhase
  split <;> rfl

theorem releaseHeld_eq {s : State} {m : Member} (hopen : s.win.isOpen = true) (hheld : s.win.held = [m])
    (hrun : s.hoop.running = true) (hstarted : s.hoop.fStarted = true) (htarget : m.desc.target = s.hoop.fNumber + 1) :
    releaseHeld s = setPhase (setWin s { s.win with held := [], members := insertMember m s.win.members }) m .inSet := by
  have hdue : later s.hoop.fNumber (m.desc.target - 1) = false := by simp [htarget, later]
  have hfree : (s.win.held.filter fun m => later s.hoop.fNumber (m.desc.target - 1)) = [] := by
    rw [hheld, List.filter_cons, hdue]
    rfl
  have hnow : (s.win.held.filter fun m => !later s.hoop.fNumber (m.desc.target - 1)) = [m] := by
    rw [hheld, List.filter_cons, hdue]
    rfl
  unfold releaseHeld
  dsimp only
  rw [if_pos hopen, hfree, hnow, List.foldl_cons, List.foldl_nil]
  exact join_open (s := setWin s { s.win with held := [] }) hrun hstarted hopen (.inr htarget)

/-- Settles O25: every opcode that joins does so by one rule, and a held member by the release. -/
theorem descriptorsJoinWindow : Obligations.DescriptorsJoinWindow := by
  unfold Obligations.DescriptorsJoinWindow
  refine ⟨fun n d t s hjoin => ⟨?_, fun h => forwardJoined_off h⟩, fun m s hopen hheld hat hlate htarget hrun hstarted htwin => ?_⟩
  · have start : ∀ d' : Desc, joins d'.opcode = true → awaits s n d' t → done (startDesc s n d') = .next (forwardJoined (joined s t)) :=
      fun d' hop h => congrArg done (startDesc_joins h hop hjoin)
    exact ⟨start _ rfl, start _ rfl, start _ rfl, start _ rfl, start _ rfl, start _ rfl, start _ rfl, start _ rfl, start _ rfl,
      start _ rfl, start _ rfl, start _ rfl, start _ rfl, start _ rfl, start _ rfl, start _ rfl, start _ rfl, start _ rfl,
      start _ rfl, start _ rfl⟩
  · have hrelease := releaseHeld_eq hopen hheld hrun hstarted htarget
    have hoff : forwardJoined (releaseHeld s) = releaseHeld s := forwardJoined_off (forwards_off (by
      rw [hrelease, setPhase_eq]
      exact htwin))
    refine ⟨releaseHeld s, congrArg done hoff, ?_, ?_, ?_⟩ <;> rw [hrelease, setPhase_eq] <;> rfl

end Sys2Proof.Machine

/-! Frames of a sampler pass that ends (R336, R337). -/
namespace Sys2Proof.Machine

section
variable {w : List Part} (hn : Notices w) (htrack : .track ∈ w) (hegr : .egr ∈ w) (hacks : .acks ∈ w)
  (htwnClosed : .twnClosed ∈ w) (htwn : .twn ∈ w)
include hn htrack hegr hacks htwnClosed htwn

@[simp] theorem startSync_outside (s : State) (cause : Nat) : (startSync s cause).outside w = s.outside w := by
  unfold startSync
  simp [Twn.outside, hn, htrack, hegr, hacks, htwnClosed, htwn]

@[simp] theorem suspectClean_outside (s : State) : (suspectClean s).outside w = s.outside w := by
  unfold suspectClean
  dsimp only
  (repeat' split) <;> simp [Twn.outside, hn, htrack, hegr, hacks, htwnClosed, htwn]

end

section
variable {w : List Part} (hn : Notices w) (htrack : .track ∈ w) (hacks : .acks ∈ w) (htwn : .twn ∈ w)
include hn htrack hacks htwn

@[simp] theorem samplerJobs_outside (s : State) (part : Nat) : (samplerJobs s part).outside w = s.outside w := by
  unfold samplerJobs
  (repeat' split) <;> simp [Twn.outside, hn, htrack, hacks, htwn]

end

section
variable {w : List Part} (hn : Notices w) (htrack : .track ∈ w) (hmac : .mac ∈ w) (hacks : .acks ∈ w)
  (htwn : .twn ∈ w)
include hn htrack hmac hacks htwn

@[simp] theorem sendResign_outside (s : State) (run : Hoop) : (sendResign s run).outside w = s.outside w := by
  unfold sendResign
  simp [hn, htrack, hmac, hacks, htwn]

end

section
variable {w : List Part} (hn : Notices w) (htrack : .track ∈ w) (hegr : .egr ∈ w) (hmac : .mac ∈ w)
  (hacks : .acks ∈ w) (htwnClosed : .twnClosed ∈ w) (htwn : .twn ∈ w)
include hn htrack hegr hmac hacks htwnClosed htwn

@[simp] theorem fault_outside (s : State) : (fault s).outside w = s.outside w := by
  unfold fault
  (repeat' split) <;> simp [hn, htrack, hegr, hmac, hacks, htwnClosed, htwn]

end

section
variable {w : List Part} (hn : Notices w) (hregs : .regs ∈ w) (htrack : .track ∈ w) (hegr : .egr ∈ w)
  (hmac : .mac ∈ w) (hacks : .acks ∈ w) (htwnClosed : .twnClosed ∈ w) (htwn : .twn ∈ w)
include hn hregs htrack hegr hmac hacks htwnClosed htwn

@[simp] theorem samplerEnd_outside (s : State) (part : Nat) : (samplerEnd s part).outside w = s.outside w := by
  unfold samplerEnd
  (repeat' split) <;> simp [Twn.outside, hn, hregs, htrack, hegr, hmac, hacks, htwnClosed, htwn]

end


end Sys2Proof.Machine

/-! Mirrors and sampler passes (R336, R337, R351, R352). -/
namespace Sys2Proof.Machine

/-! ### What is kept of the role -/

/-- Outside the role and the set judged only the acknowledgements due may change. -/
theorem twn_acks_of_outside {w : List Part} {s t : State} (h : t.outside w = s.outside w) (hw : .twn ∉ w) (hc : .twnClosed ∉ w) :
    t.twn = { s.twn with acksDue := t.twn.acksDue } := by
  have htwn : t.twn.outside w = s.twn.outside w := congrArg State.twn h
  generalize t.twn = a at *
  generalize s.twn = b at *
  cases a
  cases b
  simp only [Twn.outside, hw, hc, if_false, Twn.mk.injEq] at htwn ⊢
  tauto

/-- What a command of the tracker, a frame handed over or a notice may reach. -/
def sideParts : List Part := [.counts, .fresh, .records, .outboxes, .out, .track, .acks, .mac, .egr]

theorem notices_sideParts : Notices sideParts := ⟨by decide, by decide, by decide, by decide, by decide⟩

section
variable {s : State}

theorem finish_twn (s : State) (id st r0 r1 : Nat) : (finish s id st r0 r1).twn = { s.twn with acksDue := (finish s id st r0 r1).twn.acksDue } :=
  twn_acks_of_outside (finish_outside (w := sideParts) notices_sideParts (by decide) (by decide) ..) (by decide) (by decide)

theorem handTwin_twn (s : State) (p q : Nat) (body : List Byte) :
    (handTwin s p q body).twn = { s.twn with acksDue := (handTwin s p q body).twn.acksDue } :=
  twn_acks_of_outside (handTwin_outside (w := sideParts) notices_sideParts (by decide) (by decide) (by decide) ..) (by decide) (by decide)

/-- The count of passes, the failing part, and what a SAMPLER_RUN waits for. -/
def Twn.sampler (t : Twn) : Nat × Nat × List (Nat × Nat) := (t.passes, t.failPart, t.samplerJobs)

theorem sampler_of_acks {t u : Twn} (h : t = { u with acksDue := t.acksDue }) : t.sampler = u.sampler := by
  rw [h]
  rfl

theorem foldl_sampler {α : Type} {f : State → α → State} (hf : ∀ t x, (f t x).twn.sampler = t.twn.sampler) (l : List α) (s : State) :
    (l.foldl f s).twn.sampler = s.twn.sampler :=
  List.foldlRecOn (motive := fun t : State => t.twn.sampler = s.twn.sampler) l _ rfl fun t ht x _ => (hf t x).trans ht

theorem sendPlain_sampler (s : State) (kind : Nat) (hoop : Hoop) (arg : Nat) (payload : List Byte) :
    (sendPlain s kind hoop arg payload).twn.sampler = s.twn.sampler := by
  unfold sendPlain sendTwin
  dsimp only
  split
  · refine List.foldlRecOn (motive := fun x : List (List Byte) × State => x.2.twn.sampler = s.twn.sampler) _ _ rfl fun x hx y _ => ?_
    exact ((sampler_of_acks (handTwin_twn _ 37 6 _)).trans (sampler_of_acks (handTwin_twn _ 36 6 _))).trans hx
  · rfl

theorem unjoin_sampler (s : State) : (unjoin s).twn.sampler = s.twn.sampler := by
  have hacks : ∀ t id, (settleAck t id).twn.sampler = t.twn.sampler := fun t id => sampler_of_acks
    (twn_acks_of_outside (settleAck_outside (w := sideParts) notices_sideParts (by decide) ..) (by decide) (by decide))
  unfold unjoin
  exact (foldl_sampler (fun t id => sampler_of_acks (finish_twn t id stState 0 0)) _ _).trans (foldl_sampler hacks _ _)

/-- The state, the role's bit and the sampler. -/
def Twn.role (t : Twn) : TwinState × Bool × Nat × Nat × List (Nat × Nat) := (t.state, t.driving, t.sampler)

theorem role_of_acks {t u : Twn} (h : t = { u with acksDue := t.acksDue }) : t.role = u.role := by
  rw [h]
  rfl

theorem foldl_role {α : Type} {f : State → α → State} (hf : ∀ t x, (f t x).twn.role = t.twn.role) (l : List α) (s : State) :
    (l.foldl f s).twn.role = s.twn.role :=
  List.foldlRecOn (motive := fun t : State => t.twn.role = s.twn.role) l _ rfl fun t ht x _ => (hf t x).trans ht

theorem endSyncs_role (s : State) (st : Nat) : (endSyncs s st).twn.role = s.twn.role :=
  foldl_role (fun t x => role_of_acks (finish_twn t x.id st 0 0)) _ s

theorem dropEgress_role (s : State) (p : Nat) : (dropEgress s p).twn.role = s.twn.role :=
  role_of_acks (twn_acks_of_outside (dropEgress_outside (w := sideParts) notices_sideParts (by decide) (by decide) (by decide) ..)
    (by decide) (by decide))

/-- A unit that enters a state is in it, as the role says, and its sampler is as it was. -/
theorem enterState_role (s : State) (st : TwinState) (driving : Bool) (cause : Nat) :
    (enterState s st driving cause).twn.role = (st, driving, s.twn.sampler) := by
  unfold enterState
  extract_lets old was left step s1 src s2 s3 s4 s5
  have h1 : s1.twn.sampler = s.twn.sampler := by
    unfold s1
    split
    · exact unjoin_sampler s
    · rfl
  have h2 : s2.twn.role = (st, driving, s1.twn.sampler) := rfl
  have h3 : s3.twn.role = s2.twn.role := by
    unfold s3
    split
    · exact foldl_role dropEgress_role _ s2
    · rfl
  have h4 : s4.twn.role = s3.twn.role := by
    unfold s4
    split <;> rfl
  have h5 : s5.twn.role = s4.twn.role := by
    unfold s5
    split
    · exact endSyncs_role s4 0x51
    · rfl
  have hnotice : (stateNotice s5 old cause).twn = s5.twn := noticeBoth_twn ..
  rw [hnotice, h5, h4, h3, h2, h1]

/-! ### A pass ends -/

theorem samplerJobs_spec (s : State) (part : Nat) : (samplerJobs s part).twn = { s.twn with
    samplerJobs := (s.twn.samplerJobs.filter fun j => decide (1 < j.2)).map fun j => (j.1, j.2 - 1)
    acksDue := (samplerJobs s part).twn.acksDue } := by
  have fold : ∀ (l : List (Nat × Nat)) (t : State), (l.foldl (fun s j => if part = 0 then finish s j.1 stOk 0 0 else finish s j.1 0x50 part 0) t).twn =
      { t.twn with acksDue := (l.foldl (fun s j => if part = 0 then finish s j.1 stOk 0 0 else finish s j.1 0x50 part 0) t).twn.acksDue } := by
    intro l
    induction l with
    | nil => exact fun t => rfl
    | cons j l ih =>
      intro t
      have hstep : (if part = 0 then finish t j.1 stOk 0 0 else finish t j.1 0x50 part 0).twn =
          { t.twn with acksDue := (if part = 0 then finish t j.1 stOk 0 0 else finish t j.1 0x50 part 0).twn.acksDue } := by
        split <;> exact finish_twn ..
      rw [List.foldl_cons, ih, hstep]
  exact fold _ _

theorem suspectClean_none {s : State} (h : s.twn.suspect = none) : suspectClean s = s := by
  unfold suspectClean
  rw [h]

theorem samplerEnd_clean {s : State} (hdue : passDue s = true) (hsuspect : s.twn.suspect = none) :
    (samplerEnd s 0).twn.passes = (s.twn.passes + 1) % 65536 ∧ (samplerEnd s 0).twn.state = s.twn.state ∧
      ∀ j, j ∈ s.twn.samplerJobs → 1 < j.2 → (j.1, j.2 - 1) ∈ (samplerEnd s 0).twn.samplerJobs := by
  have hjobs := samplerJobs_spec (setTwn s { s.twn with passes := (s.twn.passes + 1) % 65536, passHoops := 0 }) 0
  have heq : samplerEnd s 0 = suspectClean (samplerJobs (setTwn s { s.twn with passes := (s.twn.passes + 1) % 65536, passHoops := 0 }) 0) := by
    unfold samplerEnd
    rw [if_neg (by simp [hdue])]
    rfl
  rw [heq, suspectClean_none (by rw [hjobs]; exact hsuspect), hjobs]
  refine ⟨rfl, rfl, fun j hj h1 => ?_⟩
  exact List.mem_map.2 ⟨j, List.mem_filter.2 ⟨hj, by simpa using h1⟩, rfl⟩

theorem fault_role {s : State} (htwin : s.boot.twinEn = true) (hbooted : s.twn.booted = true) (hstate : s.twn.state ≠ .faulted) :
    (fault s).twn.role = (.faulted, false, s.twn.sampler) := by
  unfold fault
  rw [if_neg (by simp [htwin, hbooted, hstate])]
  dsimp only
  rw [enterState_role]
  split
  · exact congrArg (fun x => (TwinState.faulted, false, x)) (sendPlain_sampler ..)
  · rfl

theorem samplerEnd_fails {s : State} {part : Nat} (hdue : passDue s = true) (hpart : part ≠ 0) (hlt : part < 256) (htwin : s.boot.twinEn = true)
    (hbooted : s.twn.booted = true) (hstate : s.twn.state ≠ .faulted) :
    (samplerEnd s part).twn.state = .faulted ∧ (samplerEnd s part).twn.driving = false ∧ (samplerEnd s part).twn.failPart = part ∧
      (samplerEnd s part).twn.passes = (s.twn.passes + 1) % 65536 := by
  have hmod : part % 256 = part := Nat.mod_eq_of_lt hlt
  unfold samplerEnd
  rw [if_neg (by simp [hdue]), hmod]
  extract_lets _ t _ u v
  have htwn : v.twn = { s.twn with passes := (s.twn.passes + 1) % 65536, passHoops := 0, failPart := part } :=
    (noticeBoth_twn ..).trans (latchCount_twn ..)
  have hboot : v.boot = s.boot := (noticeBoth_boot ..).trans (latchCount_boot ..)
  clear_value v
  rw [if_neg hpart]
  have hjobs := samplerJobs_spec v part
  have hjboot : (samplerJobs v part).boot = v.boot :=
    boot_of_outside (samplerJobs_outside (w := .twn :: sideParts) ⟨by decide, by decide, by decide, by decide, by decide⟩ (by decide)
      (by decide) (by decide) v part) (by decide)
  have hrole := fault_role (s := samplerJobs v part) (by rw [hjboot, hboot, htwin]) (by rw [hjobs, htwn]; exact hbooted)
    (by rw [hjobs, htwn]; exact hstate)
  rw [hjobs, htwn] at hrole
  exact ⟨congrArg (·.1) hrole, congrArg (·.2.1) hrole, congrArg (·.2.2.2.1) hrole, congrArg (·.2.2.1) hrole⟩

end

/-- Settles O51: a mirror's pixels are queued, a pass ends with its count, and a run waits for its passes. -/
theorem mirrorAndSampler : Obligations.MirrorAndSampler := by
  unfold Obligations.MirrorAndSampler
  refine ⟨⟨fun n d t s h hdata hargs htwin hdrives hlink hpartner hfree hfilling => ?_, fun part s hdue => ?_, fun s hdue hsuspect => ?_,
    fun part s hdue hpart htwin hbooted hstate => ?_⟩, fun n d t s h hdata hargs => ?_⟩
  · refine congrArg done ((startDesc_of_awaits h).trans ((startEntry_mirror h.refuses (by rw [h.desc_eq]; rfl)).trans ?_))
    unfold startTwinMirror
    rw [h.desc_eq, if_neg (by simp [hdata, hargs]),
      if_neg (by simp [show (handOver s t.id).boot = s.boot from rfl, show (handOver s t.id).twn = s.twn from rfl, htwin, hdrives, hlink,
        show partnerStandby (handOver s t.id) = true from hpartner])]
    exact (if_neg hfree).trans (if_neg hfilling)
  · exact congrArg done (if_pos (by simp [hdue]))
  · obtain ⟨hpasses, hstate, hjobs⟩ := samplerEnd_clean hdue hsuspect
    exact ⟨_, rfl, hpasses, hstate, hjobs, cfg_of_outside (w := allBut [.cfg]) (by simp) (by simp)⟩
  · obtain ⟨hstate, hdriving, hfail, hpasses⟩ := samplerEnd_fails hdue (fun he => hpart (Fin.ext he)) part.isLt htwin hbooted hstate
    exact ⟨_, rfl, hstate, hdriving, hfail, hpasses, cfg_of_outside (w := allBut [.cfg]) (by simp) (by simp)⟩
  · refine congrArg done ((startDesc_of_awaits h).trans ((startEntry_sampler h.refuses (by rw [h.desc_eq]; rfl)).trans ?_))
    unfold startSampler
    rw [h.desc_eq]
    exact if_neg (by simp [hdata, hargs])

end Sys2Proof.Machine

/-! Runs that underrun (R132, R264). -/
namespace Sys2Proof.Machine

theorem exec_launchTime (p : Fin 32) (built : Bool) (s : State) : exec (.launchTime p built) s = done (launch s p built) := rfl
theorem exec_pipelineUncorrectableRead (store : Fin 4) (stack : Fin 2) (addr : Nat) (s : State) :
    exec (.pipelineUncorrectableRead store stack addr) s = done (pipelineUncorrectable s store stack addr) := rfl

section
variable {s : State}

theorem abortHoop_abortOf (h : s.hoop.fStarted = true) (ha : s.hoop.aborted = false) (cause port entry : Nat) :
    (abortHoop s cause port entry).egr.abortOf = some s.hoop.fNumber := by
  unfold abortHoop
  rw [if_pos (by rw [h, ha]; rfl)]
  rfl

theorem abortHoop_cfg (s : State) (cause port entry : Nat) : (abortHoop s cause port entry).cfg = s.cfg :=
  cfg_of_outside (w := allBut [.cfg]) (by simp) (by simp)

theorem abortHoop_glb (s : State) (cause port entry : Nat) : (abortHoop s cause port entry).glb = s.glb := by
  simpa [State.outside] using congrArg State.glb (abortHoop_outside (w := allBut [.glb]) (by simp) (by simp) (by simp) (by simp)
    (by simp) (by simp) (by simp) s cause port entry)

/-- What an abort may change, its registers by name. -/
def abortParts : List Part :=
  [.counts, .fresh, .records, .outboxes, .out, .track, .acks, .abort, .egr, .mac, .reg HOOP_ABORTS] ++
    (List.range 32).map fun p => .reg (EGR_TX_LATE p)

theorem notices_abortParts : Notices abortParts :=
  ⟨by simp [abortParts], by simp [abortParts], by simp [abortParts], by simp [abortParts], by simp [abortParts]⟩

theorem abortPort_parts (h : Hoop) (miss : Option Nat) (s : State) {p : Nat} (hp : p < 32) :
    (abortPort h miss s p).outside abortParts = s.outside abortParts := by
  have hn := notices_abortParts
  have hlate : mayChange abortParts (EGR_TX_LATE p) := .inr (.inl (by simp [abortParts, hp]))
  have hegr : Part.egr ∈ abortParts := by simp [abortParts]
  have hmac : Part.mac ∈ abortParts := by simp [abortParts]
  have htrack : Part.track ∈ abortParts := by simp [abortParts]
  have hacks : Part.acks ∈ abortParts := by simp [abortParts]
  unfold abortPort
  simp [hn, hlate, hegr, hmac, htrack, hacks]

theorem abortHoop_parts (s : State) (cause port entry : Nat) :
    (abortHoop s cause port entry).outside abortParts = s.outside abortParts := by
  have hn := notices_abortParts
  have hcount : mayChange abortParts HOOP_ABORTS := .inr (.inl (by simp [abortParts]))
  have hegr : Part.egr ∈ abortParts := by simp [abortParts]
  have habort : Part.abort ∈ abortParts := by simp [abortParts]
  have hmark : (markAbort s cause port entry).outside abortParts = s.outside abortParts := by
    unfold markAbort
    simp [HoopGen.outside, hn, hcount, habort]
  unfold abortHoop
  split
  · extract_lets h marked ended
    rw [setEgress_outside _ (hegr)]
    exact (List.foldlRecOn (motive := fun t : State => t.outside abortParts = marked.outside abortParts) _ _ rfl
      fun t ht p hp => (abortPort_parts h _ t (List.mem_range.1 hp)).trans ht).trans hmark
  · rfl

end

theorem glbFault_kept : ¬ mayChange abortParts GLB_FAULT := by
  rintro (h | h | ⟨-, h⟩)
  · simp [abortParts] at h
  · simp only [abortParts, List.mem_append, List.mem_map, List.mem_range] at h
    rcases h with h | ⟨p, -, h⟩
    · simp at h
    · exact absurd (Part.reg.inj h) (by unfold EGR_TX_LATE GLB_FAULT; omega)
  · exact notCounted (.inl (by decide)) (by decide) h

/-- Uncorrectable data in the run is reported, and the hoop underruns (R132). -/
theorem uncorrectable_reported {s : State} (hs : s.canon) (hact : s.run.active = true) (store : Fin 4) (stack addr : Nat) :
    ∃ u, pipelineUncorrectable s store stack addr = abortHoop u 2 0 0 ∧ u.canon ∧ u.hoop = s.hoop ∧ u.cfg = s.cfg ∧
      (store.val = 0 → u.glb.eccAddr = addr) ∧ (store.val ≠ 0 → regBit u GLB_FAULT 30 = true) := by
  unfold pipelineUncorrectable
  rw [if_pos (by simp [hact, store.isLt])]
  extract_lets u
  by_cases h : store.val = 0
  · have hu : u = memWord s stack addr .uncorrectable := if_pos h
    have huc : u.canon := hu ▸ (memWord_keeps s stack addr .uncorrectable (.refl s)).canon hs
    refine ⟨u, rfl, huc, ?_, ?_, fun _ => ?_, fun h' => absurd h h'⟩
    all_goals
      rw [hu, memWord]
      simp
  · have hu : u = noticeBoth (latch s GLB_FAULT 30) 0x0001 0 (store + s.hoop.number.toNat * 2 ^ 32) := if_neg h
    have htold : u.canon := hu ▸ (noticeBoth_keeps _ _ _ _ (latch_keeps s GLB_FAULT 30 (.refl s))).canon hs
    refine ⟨u, rfl, htold, by simp [hu], by simp [hu], fun h' => absurd h' h, fun _ => ?_⟩
    rw [regBit, hu, reg_noticeBoth _ _ _ (latch_twf hs.regs _ _) (notCounted (.inl (by decide)) (by decide))]
    exact regBit_latch_self hs.regs GLB_FAULT (by decide)

/-- The launch of an entry that must be built and is not (R132, R264). -/
theorem launch_unbuilt {p : Nat} {s : State} (hrun : s.hoop.running = true) (hst : s.hoop.fStarted = true)
    (hdue : s.hoop.fDue = false) (hab : s.hoop.aborted = false) (hk : (egrOf s p).handed < portEntries s p)
    (hkind : (portEntry s p (egrOf s p).handed).kind = 1) (hentry : s.twn.entryAt = none) (hheld : pipelineHeld s = false) :
    ∃ u, launch s p false = abortHoop u 1 p (egrOf s p).handed ∧ u.hoop = s.hoop ∧ u.cfg = s.cfg := by
  have hkeep : ∀ (q : Nat) (x : EgrPort), (setEgr (runTo q s) p x).outside (allBut [.hoop, .ref, .hoopRegs, .abort, .stacks, .cfg, .boot, .twn]) =
      s.outside (allBut [.hoop, .ref, .hoopRegs, .abort, .stacks, .cfg, .boot, .twn]) := fun q x => by simp
  unfold launch
  rw [if_pos (by simp [hrun, hst, hdue, hk])]
  extract_lets e ran x t always entering handed
  have ht := hkeep (launchAt s e) { x with handed := (egrOf s p).handed + 1 }
  change t.outside _ = _ at ht
  clear_value t
  have htwn : t.twn.entryAt = s.twn.entryAt := by simpa [State.outside, Twn.outside] using congrArg (·.twn.entryAt) ht
  have hrest : pipelineHeld t = pipelineHeld s := by
    unfold pipelineHeld
    rw [show t.boot = s.boot from boot_of_outside ht (by simp), htwn,
      show t.twn.state = s.twn.state by simpa [State.outside, Twn.outside] using congrArg (·.twn.state) ht,
      show t.twn.syncReady = s.twn.syncReady by simpa [State.outside, Twn.outside] using congrArg (·.twn.syncReady) ht]
  have hhoop : t.hoop = s.hoop := hoop_of_outside ht (by simp) (by simp) (by simp) (by simp) (by simp)
  have hentering : entering = false := by simp [entering, hrest, hheld, htwn, hentry]
  have halways : always = false := by simp [always, e, hkind]
  refine ⟨t, ?_, hhoop, cfg_of_outside ht (by simp)⟩
  rw [if_neg (by simp [hhoop, hab]), if_pos (by simp [halways]), if_neg (by simp [hentering])]

/-- Settles O31: an entry that is not built at its launch, and uncorrectable data, mark the hoop's abort by `markAbort`, of which the
frames' removal and the declarations leave all but the ports as it is. -/
theorem hoopUnderruns : Obligations.HoopUnderruns := by
  unfold Obligations.HoopUnderruns
  refine ⟨fun p s hrun hst hdue hab hk hkind hentry hheld => ?_, fun store stack addr s hs hact hst hab => ?_⟩
  · obtain ⟨u, hu, hhoop, hcfg⟩ := launch_unbuilt hrun hst hdue hab hk hkind hentry hheld
    rw [← hhoop] at hst hab
    obtain ⟨b, hb⟩ := abortHoop_hoop hst hab 1 p (egrOf s p).handed
    refine ⟨_, (exec_launchTime p false s).trans (congrArg done hu), ?_⟩
    rw [hb, abortHoop_abortOf hst hab, abortHoop_cfg, hhoop, hcfg]
    exact ⟨rfl, rfl, rfl, rfl, rfl⟩
  · obtain ⟨u, hu, huc, hhoop, hcfg, hglb, hfault⟩ := uncorrectable_reported hs hact store stack addr
    rw [← hhoop] at hst hab
    obtain ⟨b, hb⟩ := abortHoop_hoop hst hab 2 0 0
    refine ⟨_, (exec_pipelineUncorrectableRead store stack addr s).trans (congrArg done hu), ?_⟩
    rw [hb, abortHoop_cfg, abortHoop_glb, hhoop, hcfg]
    refine ⟨rfl, rfl, rfl, rfl, fun h => hglb (by rw [h]; rfl), fun h => ?_⟩
    have hreg : reg (abortHoop u 2 0 0) GLB_FAULT = reg u GLB_FAULT :=
      reg_of_outside (abortHoop_parts u 2 0 0) huc ((abortHoop_keeps u 2 0 0 (.refl u)).canon huc) glbFault_kept
    rw [regBit, hreg]
    exact hfault fun h' => h (Fin.ext h')

end Sys2Proof.Machine

/-! The ports: what a write of one port leaves of the others, and what handing a frame to a queue does (R301, R307). -/
namespace Sys2Proof.Machine

theorem mac_of_outside {w : List Part} {s t : State} (h : t.outside w = s.outside w) (hw : .mac ∉ w) : t.mac = s.mac := by
  simpa [State.outside, hw] using congrArg State.mac h

theorem egr_of_outside {w : List Part} {s t : State} (h : t.outside w = s.outside w) (hw : .egr ∉ w) : t.egr = s.egr := by
  simpa [State.outside, hw] using congrArg State.egr h

theorem run_of_outside {w : List Part} {s t : State} (h : t.outside w = s.outside w) (hw : .run ∉ w) : t.run = s.run := by
  simpa [State.outside, hw] using congrArg State.run h

theorem tim_of_outside {w : List Part} {s t : State} (h : t.outside w = s.outside w) (hw : .tim ∉ w) (hp : .pulses ∉ w)
    (hs : .stamps ∉ w) : t.tim = s.tim := by
  have htim : t.tim.outside w = s.tim.outside w := congrArg State.tim h
  generalize t.tim = a at *
  generalize s.tim = b at *
  cases a
  cases b
  simpa [Tim.outside, hw, hp, hs] using htim

section
variable {s : State} (hs : twf (fun _ => MacPort.reset) s.mac = true)
include hs

theorem portOf_setPort (p p' : Nat) (x : MacPort) : portOf (setPort s p x) p' = if p' = p then x else portOf s p' := tget_tput hs

theorem portOf_setPort_self (p : Nat) (x : MacPort) : portOf (setPort s p x) p = x := tget_tput_self hs

theorem portOf_setPort_other {p p' : Nat} (h : p' ≠ p) (x : MacPort) : portOf (setPort s p x) p' = portOf s p' := tget_tput_other hs h

omit hs in
theorem setPort_mac_twf (hs : twf (fun _ => MacPort.reset) s.mac = true) (p : Nat) (x : MacPort) :
    twf (fun _ => MacPort.reset) (setPort s p x).mac = true := tput_twf hs

theorem queueAt_setQueueAt_self (p q : Nat) {l : List TxFrame} (hl : l ≠ []) : queueAt (setQueueAt s p q l) p q = l := by
  rw [queueAt, setQueueAt, portOf_setPort_self hs]
  exact tget_tput_value hl

theorem queueAt_setQueueAt_queue {p q q' : Nat} (hq : q' ≠ q) {l : List TxFrame} (hl : l ≠ []) :
    queueAt (setQueueAt s p q l) p q' = queueAt s p q' := by
  rw [queueAt, setQueueAt, portOf_setPort_self hs]
  exact tget_tput_away hl hq

theorem waitingAt_setQueueAt (p q p' q' : Nat) (l : List TxFrame) : waitingAt (setQueueAt s p q l) p' q' = waitingAt s p' q' := by
  rw [waitingAt, setQueueAt, portOf_setPort hs]
  split
  next h => subst h; rfl
  next => rfl

end

/-- Equal ports have equal queues. -/
theorem queueAt_congr {s t : State} {p : Nat} (h : portOf t p = portOf s p) (q : Nat) : queueAt t p q = queueAt s p q := by
  rw [queueAt, h, queueAt]

theorem waitingAt_congr {s t : State} {p : Nat} (h : portOf t p = portOf s p) (q : Nat) : waitingAt t p q = waitingAt s p q := by
  rw [waitingAt, h, waitingAt]

theorem portOf_congr {s t : State} (h : t.mac = s.mac) (p : Nat) : portOf t p = portOf s p := by rw [portOf, h, portOf]

/-- A frame of the unit's own, or of firmware, that is sent in queues where its port is up, its queue has room and none waits. -/
theorem hand_queued {s : State} {p q : Nat} {f : TxFrame} (hkept : kept s p f = false) (hf : ∀ t b, f.sender ≠ .rawTx t b)
    (hup : portUp s p = true) (hroom : queueHasRoom s p q = true) (hwait : waitingAt s p q = []) :
    hand s p q f = setQueueAt s p q (queueAt s p q ++ [f]) := by
  unfold hand
  rw [if_neg (by simp [hkept]), if_neg (by simp [hup]), if_pos (by simp [hroom, hwait])]
  dsimp only
  split
  next t b h => exact absurd h (hf t b)
  · rfl

theorem kept_of_drives {s : State} (h : drives s = true) (p : Nat) (f : TxFrame) : kept s p f = false := by simp [kept, h]
theorem kept_of_ge {s : State} {p : Nat} (h : 32 ≤ p) (f : TxFrame) : kept s p f = false := by simp [kept, Nat.not_lt.2 h]

/-- Only port `p` of the ports has changed. -/
def onlyPort (p : Nat) (s t : State) : Prop :=
  twf (fun _ => MacPort.reset) s.mac = true → twf (fun _ => MacPort.reset) t.mac = true ∧ ∀ p', p' ≠ p → portOf t p' = portOf s p'

theorem onlyPort.of_mac {p : Nat} {s t : State} (h : t.mac = s.mac) : onlyPort p s t :=
  fun hs => ⟨h ▸ hs, fun p' _ => portOf_congr h p'⟩

theorem onlyPort.trans {p : Nat} {s t u : State} (h : onlyPort p s t) (h' : onlyPort p t u) : onlyPort p s u := fun hs =>
  ⟨(h' (h hs).1).1, fun p' hp => ((h' (h hs).1).2 p' hp).trans ((h hs).2 p' hp)⟩

theorem onlyPort.setPort (s : State) (p : Nat) (x : MacPort) : onlyPort p s (setPort s p x) := fun hs =>
  ⟨tput_twf hs, fun _ hp => portOf_setPort_other hs hp x⟩

theorem finish_mac (s : State) (id st r0 r1 : Nat) : (finish s id st r0 r1).mac = s.mac :=
  mac_of_outside (w := allBut [.mac]) (by simp) (by simp)

theorem count_onlyPort (s : State) (p i n : Nat) : onlyPort p s (count s p i n) := by
  unfold count
  dsimp only
  split
  · exact (onlyPort.setPort s p _).trans (.of_mac (noticeBoth_mac ..))
  · exact onlyPort.setPort s p _

theorem discardFrame_onlyPort (s : State) (p : Nat) (f : TxFrame) : onlyPort p s (discardFrame s p f) := by
  unfold discardFrame
  extract_lets counted
  have h : onlyPort p s counted := by
    unfold counted
    split
    · exact .of_mac rfl
    · exact count_onlyPort s p 38 1
  refine h.trans ?_
  split
  · exact .of_mac (mac_of_outside (w := allBut [.mac]) (by simp) (by simp))
  · exact .of_mac (finish_mac ..)
  · exact .of_mac rfl

theorem hand_onlyPort (s : State) (p q : Nat) (f : TxFrame) : onlyPort p s (hand s p q f) := by
  unfold hand
  split
  · unfold keepFrame
    split
    · exact .of_mac (finish_mac ..)
    · exact .of_mac rfl
  split
  · exact discardFrame_onlyPort s p f
  split
  · dsimp only
    split
    · exact (onlyPort.setPort s p _).trans (.of_mac rfl)
    · exact onlyPort.setPort s p _
  · exact onlyPort.setPort s p _

/-! ### What time that passes leaves -/

theorem runTo_reg {s : State} (hs : twf regReset s.regs = true) (q : Nat) {a : Nat} (ha : ¬ noticeReg a) :
    reg (runTo q s) a = reg s a := tick_keepsRegs hs _ a (by simp) ha

theorem macCtrl_notCounted {p : Nat} (hp : p < 38) : ¬ noticeReg (MAC_CTRL p) :=
  notCounted (.inr (by unfold MAC_CTRL; omega)) (by unfold MAC_CTRL; omega)

/-- The service of a port and its link. -/
theorem portUp_congr {s t : State} {p : Nat} (hb : t.boot = s.boot) (hg : t.glb = s.glb) (hr : reg t (MAC_CTRL p) = reg s (MAC_CTRL p))
    (hm : t.mac = s.mac) : portUp t p = portUp s p := by
  rw [portUp, portOn, lifted, hb, hg, regBit_congr hr, portOf_congr hm, portUp, portOn, lifted]

theorem queueHasRoom_congr {s t : State} {p : Nat} (h : portOf t p = portOf s p) (q : Nat) : queueHasRoom t p q = queueHasRoom s p q := by
  rw [queueHasRoom, queueAt_congr h, queueHasRoom]

theorem drives_congr {s t : State} (hb : t.boot = s.boot) (ht : t.twn = s.twn) : drives t = drives s := by
  rw [drives, hb, ht, drives]

theorem noLinkKey_congr {s t : State} (hr : reg t EGR_AUTH = reg s EGR_AUTH) (hk : t.key = s.key) (hh : t.hoop = s.hoop)
    (he : t.egr.slot = s.egr.slot) : noLinkKey t = noLinkKey s := by
  have hslot : linkSlot t = linkSlot s := by rw [linkSlot, hh, he, regFld_congr hr, linkSlot]
  have hkey : linkKey t = linkKey s := by rw [linkKey, hslot, engineKey, slotOf, hk, linkKey, engineKey, slotOf]
  rw [noLinkKey, authOn, regBit_congr hr, hkey, noLinkKey, authOn]

theorem egrOf_setEgr_self {s : State} (hs : s.canon) (p : Nat) (x : EgrPort) : egrOf (setEgr s p x) p = x :=
  tget_tput_self hs.egr.ports

end Sys2Proof.Machine

/-! The egress deadline (R265), on a port whose own tables are not in canonical form: `State.canon` leaves out the tables inside
table values (log 158). -/
namespace Sys2Proof.Machine

theorem exec_egressDeadline (s : State) : exec .egressDeadline s = done (runDeadline s) := rfl

/-- A frame of firmware, and one of the schedule of run 0. -/
def firmwareFrame : TxFrame := ⟨[], .firmware, 0, false, none, false⟩
def runFrame : TxFrame := ⟨[], .sched 0 0, 0, false, none, false⟩

/-- A port whose table of queues lists queue 5 twice. -/
def queueTwice : MacPort := { MacPort.reset with queues := [(5, [firmwareFrame]), (5, [runFrame])] }

/-- Hoop 0 in progress, with that port. -/
def hoopInProgress : State :=
  { State.reset with mac := [(0, queueTwice)], hoop := { HoopGen.reset with running := true, fStarted := true } }

theorem hoopInProgress_canon : hoopInProgress.canon := { reset_canon with mac := by decide +kernel }

theorem queueTwice_deadline : queueAt (runDeadline hoopInProgress) 0 5 = [runFrame] := by decide +kernel

/-- Refutes O32: the first list of queue 5 is rewritten for each of the two, and the second, which the deadline has not cleared, is
what the queue then reads as. -/
theorem not_egressOfTheRun : ¬ Obligations.EgressOfTheRun := by
  unfold Obligations.EgressOfTheRun
  rintro ⟨-, hdeadline⟩
  obtain ⟨u, hu, -, hqueue, -⟩ := hdeadline hoopInProgress hoopInProgress_canon rfl rfl rfl rfl rfl rfl
  obtain rfl : runDeadline hoopInProgress = u := Host.Outcome.next.inj hu
  exact absurd (hqueue 0 5 runFrame (by decide) (by rw [queueTwice_deadline]; exact List.mem_singleton_self _)) (by decide)

end Sys2Proof.Machine

/-! Received frames: the checks, and where a frame that passes them goes (R278, R294 to R298). -/
namespace Sys2Proof.Machine

/-! ### The checks -/

section
variable {w : List Part} (hn : Notices w) (hmac : .mac ∈ w)
include hn hmac

@[simp] theorem countFrame_outside (s : State) (p base tagIx bin : Nat) (bytes : List Byte) :
    (countFrame s p base tagIx bin bytes).outside w = s.outside w := by
  unfold countFrame
  dsimp only
  split <;> simp [hn, hmac]

theorem rxCheck_outside (s : State) (p : Nat) (bytes : List Byte) (ok : Bool) (phase : Nat) :
    (rxCheck s p bytes ok phase).2.outside w = s.outside w := by
  unfold rxCheck
  dsimp only
  (repeat' split) <;> simp [hn, hmac]

end

/-- What the receive checks may change. -/
abbrev rxParts : List Part := [.counts, .fresh, .records, .outboxes, .out, .mac]

theorem notices_rxParts : Notices rxParts := ⟨by decide, by decide, by decide, by decide, by decide⟩

theorem rxCheck_of {s t : State} {p : Nat} {bytes : List Byte} {ok : Bool} {phase : Nat} {r : RxResult}
    (h : rxCheck s p bytes ok phase = (r, t)) : t.outside rxParts = s.outside rxParts ∧ Keeps s t := by
  obtain rfl : (rxCheck s p bytes ok phase).2 = t := congrArg Prod.snd h
  exact ⟨rxCheck_outside notices_rxParts (by decide) s p bytes ok phase, rxCheck_keeps s p bytes ok phase (.refl s)⟩

theorem portUp_iff {s : State} {p : Nat} : portUp s p = true ↔
    s.boot.lifted.contains p = true ∧ s.glb.halted.isNone = true ∧ regBit s (MAC_CTRL p) 31 = true ∧ (portOf s p).link = true := by
  simp only [portUp, portOn, lifted, Bool.and_eq_true, and_assoc]

/-- What becomes of a frame of `n` bytes on port `p` after its checks. -/
def afterCheck (p used n : Nat) (full : Bool) : RxResult × State → State
  | (.dropped, s) => s
  | (.pause q obey, s) => pauseSeen s p q n obey
  | (.frame f, s) => if full then count s p 20 1 else consume s p used f

/-- A frame on a port that is up meets the checks, where it is no message of a twin. -/
theorem receive_checked {s : State} {p : Nat} (hup : portUp s p = true) {bytes : List Byte} {ok full : Bool}
    (htwin : (decide (36 ≤ p) && s.boot.twinEn && ok && !full) = false) (phase used : Nat) :
    receive s p bytes ok full phase used =
      afterCheck p used (bytes.length + 4) full (rxCheck s p bytes ok phase) := by
  obtain ⟨hl, hg, hr, hk⟩ := portUp_iff.1 hup
  unfold receive
  have hon : portOn s p = true := by rw [portOn, lifted, hl, hg, hr]; rfl
  rw [if_neg (by rw [hl]; decide), if_neg (by rw [hon]; decide), if_neg (by rw [hk]; decide), if_neg (by rw [htwin]; simp)]
  rfl

theorem twin_off {s : State} {p : Nat} (h : 36 ≤ p → s.boot.twinEn = false) (ok full : Bool) :
    (decide (36 ≤ p) && s.boot.twinEn && ok && !full) = false := by
  by_cases hp : 36 ≤ p
  · rw [h hp]
    simp
  · simp [hp]

theorem accepts.receive {s t : State} {p : Nat} {bytes : List Byte} {phase : Nat} {f : RxFrame} (h : accepts s p bytes phase f t)
    (used : Nat) : Machine.receive s p bytes true false phase used = consume t p used f := by
  obtain ⟨hup, htwin, hcheck, -⟩ := h
  rw [receive_checked hup (twin_off htwin _ _), hcheck]
  rfl

theorem accepts.outside {s t : State} {p : Nat} {bytes : List Byte} {phase : Nat} {f : RxFrame} (h : accepts s p bytes phase f t) :
    t.outside rxParts = s.outside rxParts := (rxCheck_of h.2.2.1).1

theorem accepts.canon {s t : State} {p : Nat} {bytes : List Byte} {phase : Nat} {f : RxFrame} (h : accepts s p bytes phase f t)
    (hs : s.canon) : t.canon := (rxCheck_of h.2.2.1).2.canon hs

theorem accepts.whole {s t : State} {p : Nat} {bytes : List Byte} {phase : Nat} {f : RxFrame} (h : accepts s p bytes phase f t) :
    f.trunc = false := h.2.2.2

theorem consume_thread {s : State} {p : Nat} (hp : p < 32) (used : Nat) {f : RxFrame} (hf : f.trunc = false) :
    consume s p used f = threadStage s p f := by
  rw [consume, if_neg (by simp [hf]), if_pos hp]

theorem consume_ingest {s : State} {p : Nat} (hlo : 32 ≤ p) (hp : p < 36) (used : Nat) {f : RxFrame} (hf : f.trunc = false) :
    consume s p used f = ingestStage s p used f := by
  rw [consume, if_neg (by simp [hf]), if_neg (by omega), if_pos hp]

theorem consume_twin {s : State} {p : Nat} (hp : 36 ≤ p) (used : Nat) {f : RxFrame} (hf : f.trunc = false) :
    consume s p used f = twinPortStage s p f := by
  rw [consume, if_neg (by simp [hf]), if_neg (by omega), if_neg (by omega)]

end Sys2Proof.Machine

/-! Returned Tirum frames and the token buckets (R278 to R281). -/
namespace Sys2Proof.Machine

theorem exec_returnRx (p : Fin 32) (frame : List Byte) (s : State) :
    exec (.returnRx p frame) s = done (receive s p frame true false 0 0) := rfl
theorem exec_tirumOtherRx (p : Fin 32) (frame : List Byte) (s : State) :
    exec (.tirumOtherRx p frame) s = done (receive s p frame true false 0 0) := rfl
theorem exec_returnTokenRefill (s : State) : exec .returnTokenRefill s = done (tokenRefill s) := rfl

/-! ### Refreshes -/

section
variable {s : State} (hs : s.canon)
include hs

theorem egrOf_setEgr (p p' : Nat) (x : EgrPort) : egrOf (setEgr s p x) p' = if p' = p then x else egrOf s p' := tget_tput hs.egr.ports

/-- A port's refreshes leave its bucket as it is. -/
theorem queueRefresh_tokens (r : Refresh) (p p' : Nat) : (egrOf (queueRefresh r s p) p').tokens = (egrOf s p').tokens := by
  unfold queueRefresh
  split
  · rfl
  · rw [egrOf_setEgr hs]
    split
    next h => rw [h]
    · rfl

theorem refreshMotif_tokens (m p : Nat) : (egrOf (refreshMotif s m) p).tokens = (egrOf s p).tokens := by
  unfold refreshMotif
  exact (List.foldlRecOn (motive := fun t : State => t.canon ∧ (egrOf t p).tokens = (egrOf s p).tokens) _ _ ⟨hs, rfl⟩
    fun t ⟨ht, htok⟩ p' _ => ⟨(queueRefresh_keeps _ t p' (.refl t)).canon ht, (queueRefresh_tokens ht _ p' p).trans htok⟩).2

end

theorem refreshMotif_pairs (s : State) (m : Nat) : (refreshMotif s m).egr.pairs = s.egr.pairs := by
  unfold refreshMotif
  refine List.foldlRecOn (motive := fun t : State => t.egr.pairs = s.egr.pairs) _ _ rfl fun t ht p _ => Eq.trans ?_ ht
  unfold queueRefresh
  split <;> rfl

/-! ### Live fields -/

theorem liveOf_setLive_self {s : State} (hs : s.canon) (m : Nat) (v : Live) : liveOf (setLive s m v) m = v := tget_tput_self hs.live

theorem recordForeign_report {s : State} (hs : s.canon) (p m cid epoch : Nat) :
    (liveOf (recordForeign s p m cid epoch) m).report = (liveOf s m).report := by
  unfold recordForeign
  dsimp only
  split
  · rfl
  · rw [show ∀ c i d (t : State), liveOf (noticeBoth t c i d) m = liveOf t m from fun c i d t => congrArg (tget _ · m) (noticeBoth_live ..),
      liveOf_setLive_self hs]

theorem writeEffect_report {s : State} (hs : s.canon) (p : Nat) (h : Hoop) (r : LiveRec) {v : Int} (hv : r.temp = some v) :
    (liveOf (writeEffect s p h r) r.motif).report = ⟨true, v, h⟩ := by
  unfold writeEffect
  rw [hv]
  dsimp only
  split
  · rw [recordForeign_report ((setLive_keeps s r.motif _ (.refl s)).canon hs), liveOf_setLive_self hs]
  · rw [liveOf_setLive_self hs]

/-! ### An accepted return -/

/-- Outside a pair an accepted return writes its effect (R281). -/
theorem acceptReturn_spec {s : State} (hs : s.canon) (hoff : s.boot.twinEn = false) (p : Nat) (b : List Byte) :
    (egrOf (acceptReturn s p b) p).tokens = (egrOf s p).tokens ∧
    tget (fun _ => none) (acceptReturn s p b).egr.pairs (tMotif b) = some (w32 (tHoop b), tArgB b) ∧
    (∀ r, (tirumRecords b 1).getLast? = some r → (liveOf (acceptReturn s p b) (tMotif b)).report =
      ⟨true, clampI (-65536) 65535 (sext 32 r.2.1), s.hoop.fNumber⟩) ∧
    (acceptReturn s p b).cfg = s.cfg ∧ (acceptReturn s p b).hoop = s.hoop := by
  unfold acceptReturn
  extract_lets m counted _ paired eff _ told noted
  have hpc : paired.canon := (setEgress_keeps counted paired.egr (latchCount_keeps s _ _ _ _ (.refl s)) fun _ hc =>
    { hc with pairs := tput_twf hc.pairs }).canon hs
  have hpk : paired.outside [.fresh, .reg (EGR_RX_ACCEPT p), .egr] = s.outside [.fresh, .reg (EGR_RX_ACCEPT p), .egr] := by
    simp [paired, counted]
  have hjoined : pairJoined paired = false := by
    rw [pairJoined, boot_of_outside hpk (by simp), hoff]
    rfl
  have htold : told = writeEffect paired p paired.hoop.fNumber eff := if_neg (by rw [hjoined]; decide)
  have htc : told.canon := htold ▸ (writeEffect_keeps paired p _ eff (.refl paired)).canon hpc
  have hnc : noted.canon := by
    unfold noted
    split
    · exact (latchCount_keeps told _ _ _ _ (.refl told)).canon htc
    · exact htc
  have hnote : noted.egr = told.egr ∧ noted.live = told.live ∧ noted.cfg = told.cfg ∧ noted.hoop = told.hoop := by
    unfold noted
    split <;> simp
  have hout : told.outside [.counts, .fresh, .records, .outboxes, .out, .live] = paired.outside [.counts, .fresh, .records, .outboxes, .out, .live] := by
    rw [htold]
    exact writeEffect_outside (by constructor <;> decide) (by decide) ..
  have hegr : noted.egr = paired.egr := hnote.1.trans (egr_of_outside hout (by decide))
  have hhoop : noted.hoop = s.hoop := hnote.2.2.2.trans ((hoop_of_outside hout (by decide) (by decide) (by decide) (by decide) (by decide)).trans
    (hoop_of_outside hpk (by simp) (by simp) (by simp) (by simp) (by simp)))
  have hcfg : noted.cfg = s.cfg := hnote.2.2.1.trans ((cfg_of_outside hout (by decide)).trans (cfg_of_outside hpk (by simp)))
  have hreport : ∀ r, (tirumRecords b 1).getLast? = some r → (liveOf noted m).report = ⟨true, clampI (-65536) 65535 (sext 32 r.2.1), s.hoop.fNumber⟩ :=
    fun r hr => by
      rw [liveOf, hnote.2.1, ← liveOf, htold]
      have htemp : eff.temp = some (clampI (-65536) 65535 (sext 32 r.2.1)) := by
        rw [show eff.temp = ((tirumRecords b 1).getLast?).map fun r => clampI (-65536) 65535 (sext 32 r.2.1) from rfl, hr]
        rfl
      have hfrom : paired.hoop.fNumber = s.hoop.fNumber := fNumber_of_outside hpk (by simp)
      exact (writeEffect_report hpc p _ eff htemp).trans (by rw [hfrom])
  have hpairs : tget (fun _ => none) noted.egr.pairs m = some (w32 (tHoop b), tArgB b) := by
    rw [hegr]
    exact tget_tput_self (latchCount_keeps s (EGR_RX_ACCEPT p) 31 16 1 (.refl s) |>.canon hs).egr.pairs
  have htokens : (egrOf noted p).tokens = (egrOf s p).tokens := by
    have hports : paired.egr.ports = s.egr.ports := (congrArg Egr.ports (latchCount_egr s (EGR_RX_ACCEPT p) 31 16 1) :)
    rw [egrOf, hegr, hports, ← egrOf]
  split
  · have href : (refreshMotif noted m).outside [.egr] = noted.outside [.egr] := refreshMotif_outside (by decide) ..
    refine ⟨(refreshMotif_tokens hnc m p).trans htokens, (congrArg (tget _ · m) (refreshMotif_pairs noted m)).trans hpairs,
      fun r hr => ?_, (cfg_of_outside href (by decide)).trans hcfg,
      (hoop_of_outside href (by decide) (by decide) (by decide) (by decide) (by decide)).trans hhoop⟩
    rw [liveOf, show (refreshMotif noted m).live = noted.live by simpa [State.outside] using congrArg State.live href]
    exact hreport r hr
  · exact ⟨htokens, hpairs, hreport, hcfg, hhoop⟩

/-! ### The rows of Table 10-10 -/

section
variable {t : State} {p pad : Nat} {b : List Byte}

theorem classifyTirum_malformed (h : tirumMalformed (authOn t) pad b = true) :
    classifyTirum t p pad b = latchCount t (EGR_RX_BAD p) 15 0 1 := by
  rw [classifyTirum, if_pos h]

variable (h : tirumMalformed (authOn t) pad b = false)
include h

theorem classifyTirum_otherType (h5 : tType b ≠ 5) (h3 : tType b ≠ 3) : classifyTirum t p pad b = latchCount t (EGR_RX_DROP p) 15 0 1 := by
  rw [classifyTirum, if_neg (by simp [h]), if_pos h5, if_neg (by simp [h3])]

theorem classifyTirum_limited (h5 : tType b = 5) (htok : (egrOf t p).tokens = 0) : classifyTirum t p pad b =
    setEgr (latchCount t (EGR_RX_LIMIT p) 31 16 1) p { egrOf t p with limited := (egrOf t p).limited + 1 } := by
  rw [classifyTirum, if_neg (by simp [h]), if_neg (by simp [h5])]
  exact if_pos htok

/-- A RETURN with a token, in authentication: it takes the token. -/
theorem classifyTirum_taken (h5 : tType b = 5) (htok : (egrOf t p).tokens ≠ 0) (hauth : returnAuthOk t b = true) :
    (motifThread (motifPart t.cfg) (tMotif b) = false → classifyTirum t p pad b =
      latchCount (setEgr t p { egrOf t p with tokens := (egrOf t p).tokens - 1 }) (EGR_RX_ACCEPT p) 7 0 1) ∧
    (motifThread (motifPart t.cfg) (tMotif b) = true → tget (fun _ => none) t.egr.pairs (tMotif b) = none → classifyTirum t p pad b =
      acceptReturn (setEgr t p { egrOf t p with tokens := (egrOf t p).tokens - 1 }) p b) := by
  rw [classifyTirum, if_neg (by simp [h]), if_neg (by simp [h5])]
  extract_lets x taken run
  have hok : (!returnAuthOk taken b) = false := by rw [show returnAuthOk taken b = returnAuthOk t b from rfl, hauth]; rfl
  rw [if_neg htok, if_neg (by rw [hok]; decide)]
  refine ⟨fun hm => if_pos ?_, fun hm hp => ?_⟩
  · rw [show motifThread (motifPart taken.cfg) (tMotif b) = motifThread (motifPart t.cfg) (tMotif b) from rfl, hm]
    rfl
  · rw [if_neg (by rw [show motifThread (motifPart taken.cfg) (tMotif b) = motifThread (motifPart t.cfg) (tMotif b) from rfl, hm]; decide)]
    rw [show tget (fun _ => none) taken.egr.pairs (tMotif b) = none from hp]

end

/-! ### Token buckets -/

theorem foldl_refillPort {s : State} (hs : s.canon) {l : List Nat} (hl : l.Nodup) (p : Nat) :
    egrOf (l.foldl refillPort s) p = if p ∈ l then egrOf (refillPort s p) p else egrOf s p := by
  induction l generalizing s with
  | nil => rfl
  | cons q l ih =>
    obtain ⟨hq, hl⟩ := List.nodup_cons.1 hl
    have hqs : (refillPort s q).canon := (refillPort_keeps s q (.refl s)).canon hs
    rw [List.foldl_cons, ih hqs hl]
    by_cases hp : p = q
    · subst hp
      simp [hq]
    · have hother : egrOf (refillPort s q) p = egrOf s p := (egrOf_setEgr hs q p _).trans (if_neg hp)
      have hrefill : ∀ t : State, t.canon → egrOf (refillPort t p) p = _ := fun t ht => egrOf_setEgr_self ht p _
      simp only [List.mem_cons, hp, false_or, hother]
      rw [hrefill _ hqs, hrefill _ hs, hother]
      rfl

theorem egrRetRate_notCounted {p : Nat} (hp : p < 32) : ¬ noticeReg (EGR_RET_RATE p) :=
  notCounted (.inr (by unfold EGR_RET_RATE; omega)) (by unfold EGR_RET_RATE; omega)

/-- What time that passes and the buckets reach. -/
abbrev outsideRefill : List Part := [.egr, .counts, .fresh, .records, .outboxes, .out, .tim]

/-- Settles O40: a frame that passes the checks is classified row by row, an accepted RETURN by `acceptReturn`; and each bucket is
refilled once. -/
theorem returnsAndTokens : Obligations.ReturnsAndTokens := by
  unfold Obligations.ReturnsAndTokens
  refine ⟨fun p frame b pad f s t hs hoff ha hptp hcontent => ?_, fun s hs => ?_⟩
  · have ht : t.canon := ha.canon hs
    have hout := ha.outside
    have hfNumber : t.hoop.fNumber = s.hoop.fNumber := fNumber_of_outside hout (by decide)
    have hclass : receive s p frame true false 0 0 = classifyTirum t p pad b := by
      rw [ha.receive, consume_thread p.isLt 0 ha.whole, threadStage, hptp]
      dsimp only
      rw [hcontent]
    refine ⟨(exec_returnRx p frame s).trans (congrArg done hclass), (exec_tirumOtherRx p frame s).trans (congrArg done hclass),
      classifyTirum_malformed, classifyTirum_otherType, classifyTirum_limited, fun h h5 htok hauth => ?_⟩
    obtain ⟨hnone, hsome⟩ := classifyTirum_taken (p := p) h h5 htok hauth
    refine ⟨hnone, fun hm hp u hu => ?_⟩
    have htaken : (setEgr t p { egrOf t p with tokens := (egrOf t p).tokens - 1 }).canon := (setEgr_keeps t p _ (.refl t)).canon ht
    obtain ⟨htok', hpair, hreport, hcfg, hhoop⟩ := acceptReturn_spec htaken ((boot_of_outside hout (by decide)).symm ▸ hoff) p b
    rw [hu, hsome hm hp]
    have htcfg : t.cfg = s.cfg := cfg_of_outside hout (by decide)
    have hthoop : t.hoop = s.hoop := hoop_of_outside hout (by decide) (by decide) (by decide) (by decide) (by decide)
    refine ⟨htok'.trans (by rw [egrOf_setEgr_self ht]), hpair, fun r hr => ?_, hcfg.trans htcfg, hhoop.trans hthoop⟩
    rw [hreport r hr, ← hfNumber]
    rfl
  · generalize hrun : runToCycle ((s.tim.cyc / 250 + 1) * 250) s = r
    have hr : r.canon := hrun ▸ (runToCycle_keeps _ s (.refl s)).canon hs
    have hfill : tokenRefill s = (List.range 32).foldl refillPort r := by rw [tokenRefill, hrun]
    have hout : (tokenRefill s).outside outsideRefill = s.outside outsideRefill := by
      rw [hfill]
      refine (List.foldlRecOn (motive := fun t : State => t.outside outsideRefill = r.outside outsideRefill) _ _ rfl fun t h p _ =>
        (setEgr_outside t (by decide) p _).trans h).trans ?_
      rw [← hrun]
      exact runToCycle_outside (by decide) (by constructor <;> decide) _ s
    refine ⟨_, exec_returnTokenRefill s, fun p rate depth hp hrate hdepth htok => ?_, cfg_of_outside hout (by decide),
      hoop_of_outside hout (by decide) (by decide) (by decide) (by decide) (by decide), mac_of_outside hout (by decide)⟩
    have hport : egrOf r p = egrOf s p := by
      have hegr : r.egr = s.egr := hrun ▸ egr_of_outside (w := allBut [.egr]) (by simp) (by simp)
      rw [egrOf, hegr, egrOf]
    have hrate' : ∀ hi lo, regFld r (EGR_RET_RATE p) hi lo = regFld s (EGR_RET_RATE p) hi lo :=
      regFld_congr (hrun ▸ runToCycle_reg hs.regs _ (egrRetRate_notCounted hp))
    rw [hfill, foldl_refillPort hr List.nodup_range, if_pos (List.mem_range.2 hp), refillPort, egrOf_setEgr_self hr, hport, hrate', hrate',
      ← hrate, ← hdepth, if_pos htok]
    exact ⟨rfl, rfl⟩

end Sys2Proof.Machine

/-! PROGRAM fragments (R282, R284). -/
namespace Sys2Proof.Machine

theorem exec_programFragmentQueue (p : Fin 32) (s : State) : exec (.programFragmentQueue p) s = done (programQueue s p) := rfl

/-- Where the port is up and the hoop's bytes and queue 3 have room, the fragment of what is being sent goes. -/
theorem programQueue_sends {s : State} {p : Nat} (hd : drives s = true) (hup : portUp s p = true)
    (hbytes : (egrOf s p).progBytes < max (regFld s EGR_PROG 15 0) 1 * 1024) (hroom : queueHasRoom s p 3 = true)
    (hwait : waitingAt s p 3 = []) :
    ((egrOf s p).sending = none → (egrOf s p).pending = [] → programQueue s p = s) ∧
    (∀ x, (egrOf s p).sending = some x → programQueue s p = sendFragment s p x) ∧
    (∀ x, (egrOf s p).sending = none → (egrOf (takeRefresh s p) p).sending = some x →
      programQueue s p = sendFragment (takeRefresh s p) p x) := by
  unfold programQueue
  rw [if_neg (by rw [hd]; decide), if_neg (by rw [hup]; decide), if_neg (by omega), if_neg (by simp [hroom, hwait])]
  refine ⟨fun hn hp => ?_, fun x hx => ?_, fun x hn hx => ?_⟩
  · rw [if_neg (by simp [hn]), show takeRefresh s p = s by rw [takeRefresh, hp]]
    dsimp only
    rw [hn]
  · rw [if_pos (by simp [hx])]
    dsimp only
    rw [hx]
  · rw [if_neg (by simp [hn])]
    dsimp only
    rw [hx]

/-- What a refresh that ends may change. -/
abbrev refreshParts : List Part := [.counts, .fresh, .records, .outboxes, .out, .track, .acks]

theorem refreshDone_refreshParts (s : State) (r : Refresh) : (refreshDone s r).outside refreshParts = s.outside refreshParts :=
  refreshDone_outside (by constructor <;> decide) (by decide) (by decide) s r

/-- Fragments of an image: the one numbered `i` is not its last while bytes follow it. -/
theorem fragment_not_last (s : State) {i l : Nat} (h : programFragment s * (i + 1) < l) :
    i + 1 < (l + programFragment s - 1) / programFragment s := by
  have hpos : 0 < programFragment s := by
    unfold programFragment
    split <;> decide
  rw [Nat.lt_div_iff_mul_lt hpos]
  calc (i + 1) * programFragment s = programFragment s * (i + 1) := Nat.mul_comm _ _
    _ < l + programFragment s - 1 - (programFragment s - 1) := by omega

/-- A fragment is queued, counted, and followed by the next of its image (R282, R284). -/
theorem sendFragment_spec {s : State} (hs : s.canon) {p : Nat} (hd : drives s = true) (hup : portUp s p = true)
    (hroom : queueHasRoom s p 3 = true) (hwait : waitingAt s p 3 = []) (hkey : noLinkKey s = false) (x : Sending) :
    ∃ f, (egrOf (sendFragment s p x) p).pending = (egrOf s p).pending ∧
      (egrOf (sendFragment s p x) p).seq = ((egrOf s p).seq + 1) % 2 ^ 31 ∧
      queueAt (sendFragment s p x) p 3 = queueAt s p 3 ++ [⟨f, .program, 0, false, none, false⟩] ∧
      (egrOf (sendFragment s p x) p).progBytes = (egrOf s p).progBytes + f.length + 4 ∧
      (sendFragment s p x).cfg = s.cfg ∧ (sendFragment s p x).hoop = s.hoop ∧
      (programFragment s * (x.frag + 1) < x.image.length →
        (egrOf (sendFragment s p x) p).sending = some { x with frag := x.frag + 1 }) := by
  unfold sendFragment
  extract_lets n count m motifs path part f y last t u
  have htc : t.canon := (setEgr_keeps s p _ (.refl s)).canon hs
  have hty : egrOf t p = { y with
      progBytes := y.progBytes + f.length + 4, sending := if last then none else some { x with frag := x.frag + 1 } } :=
    egrOf_setEgr_self hs p _

  have hu : u = setQueueAt (raiseSeq t p) p 3 (queueAt (raiseSeq t p) p 3 ++ [⟨f, .program, 0, false, none, false⟩]) := by
    have hk : noLinkKey t = false := hkey
    have : u = hand (raiseSeq t p) p 3 ⟨f, .program, 0, false, none, false⟩ := if_neg (by rw [hk]; decide)
    rw [this]
    exact hand_queued (kept_of_drives hd _ _) (by simp) hup hroom hwait
  have huq : queueAt u p 3 = queueAt s p 3 ++ [⟨f, .program, 0, false, none, false⟩] := by
    rw [hu]
    exact queueAt_setQueueAt_self (s := raiseSeq t p) hs.mac p 3 (by simp)
  have hup' : egrOf u p = { egrOf t p with seq := ((egrOf t p).seq + 1) % 2 ^ 31 } := by
    rw [hu]
    exact egrOf_setEgr_self htc p _
  have hcfg : u.cfg = s.cfg := by rw [hu]; rfl
  have hhoop : u.hoop = s.hoop := by rw [hu]; rfl
  have hend : ∀ v : State, v.outside refreshParts = u.outside refreshParts →
      (egrOf v p).pending = (egrOf s p).pending ∧ (egrOf v p).seq = ((egrOf s p).seq + 1) % 2 ^ 31 ∧
      queueAt v p 3 = queueAt s p 3 ++ [⟨f, .program, 0, false, none, false⟩] ∧
      (egrOf v p).progBytes = (egrOf s p).progBytes + f.length + 4 ∧ v.cfg = s.cfg ∧ v.hoop = s.hoop ∧
      (programFragment s * (x.frag + 1) < x.image.length → (egrOf v p).sending = some { x with frag := x.frag + 1 }) := by
    intro v hv
    have hegr : egrOf v p = egrOf u p := by rw [egrOf, egr_of_outside hv (by decide), egrOf]
    refine ⟨by rw [hegr, hup', hty], by rw [hegr, hup', hty],
      (queueAt_congr (portOf_congr (mac_of_outside hv (by decide)) p) 3).trans huq, by rw [hegr, hup', hty],
      (cfg_of_outside hv (by decide)).trans hcfg,
      (hoop_of_outside hv (by decide) (by decide) (by decide) (by decide) (by decide)).trans hhoop, fun hlen => ?_⟩
    have hlast : last = false := decide_eq_false (by have := fragment_not_last s hlen; unfold count n; omega)
    rw [hegr, hup', hty, hlast]
    rfl
  refine ⟨f, ?_⟩
  split
  · exact hend _ (refreshDone_refreshParts u _)
  · exact hend u rfl

/-- A pending refresh is taken: its image is what is sent next. -/
theorem takeRefresh_spec {s : State} (hs : s.canon) {p : Nat} {r : Refresh} {rest : List Refresh} (h : (egrOf s p).pending = r :: rest) :
    ∃ x, (egrOf (takeRefresh s p) p).sending = some x ∧ (egrOf (takeRefresh s p) p).pending = rest ∧
      (egrOf (takeRefresh s p) p).seq = (egrOf s p).seq ∧ (egrOf (takeRefresh s p) p).progBytes = (egrOf s p).progBytes ∧
      (takeRefresh s p).outside [.egr, .freeCount] = s.outside [.egr, .freeCount] ∧ (takeRefresh s p).egr.slot = s.egr.slot := by
  have htag : ∃ v u, programTag s r.staged = (v, u) ∧ u.outside [.egr, .freeCount] = s.outside [.egr, .freeCount] ∧ u.egr = s.egr := by
    unfold programTag
    dsimp only
    split
    · exact ⟨_, _, rfl, rfl, rfl⟩
    · exact ⟨_, _, rfl, takeFree_outside s (by decide), rfl⟩
  obtain ⟨v, u, htag, hu, hegr⟩ := htag
  have huc : u.canon := by
    have : (programTag s r.staged).2 = u := congrArg Prod.snd htag
    exact this ▸ (programTag_keeps s r.staged (.refl s)).canon hs
  have hport : egrOf u p = egrOf s p := by rw [egrOf, hegr, egrOf]
  unfold takeRefresh
  rw [h]
  dsimp only
  rw [htag]
  refine ⟨_, by rw [egrOf_setEgr_self huc], by rw [egrOf_setEgr_self huc], by rw [egrOf_setEgr_self huc, hport],
    by rw [egrOf_setEgr_self huc, hport], ?_, (congrArg Egr.slot hegr :)⟩
  exact (setEgr_outside u (by decide) p _).trans hu

/-- Settles O41: the fragment that is to be sent, of the refresh under way or of the one taken, is queued by `sendFragment`. -/
theorem programFragments : Obligations.ProgramFragments := by
  unfold Obligations.ProgramFragments
  intro p s hs hd
  refine ⟨fun hup => ?_, fun hup hkey hbytes hroom hwait => ?_⟩
  · refine (exec_programFragmentQueue p s).trans (congrArg done ?_)
    rw [programQueue, if_neg (by rw [hd]; decide), if_pos (by rw [hup]; decide)]
  · obtain ⟨hidle, hsending, hpending⟩ := programQueue_sends hd hup hbytes hroom hwait
    refine ⟨fun hn hp => (exec_programFragmentQueue p s).trans (congrArg done (hidle hn hp)),
      fun x hx => (exec_programFragmentQueue p s).trans (congrArg done (hsending x hx)), fun r rest hn hp => ?_, fun x hx hlen => ?_⟩
    · obtain ⟨x, hx, hrest, hseq, hprog, hout, hslot⟩ := takeRefresh_spec hs hp
      have htc : (takeRefresh s p).canon := (takeRefresh_keeps s p (.refl s)).canon hs
      have hhoop : (takeRefresh s p).hoop = s.hoop := hoop_of_outside hout (by decide) (by decide) (by decide) (by decide) (by decide)
      have hmac : (takeRefresh s p).mac = s.mac := mac_of_outside hout (by decide)
      have hboot : (takeRefresh s p).boot = s.boot := boot_of_outside hout (by decide)
      have hregs : ∀ a, reg (takeRefresh s p) a = reg s a := fun a => by
        rw [reg, regs_of_outside hout (by decide) (by decide) (by simp), reg]
      obtain ⟨f, hpend, hs', hq, hb, hcfg, hhoop', -⟩ := sendFragment_spec htc
        ((drives_congr hboot (twn_of_outside hout (by decide) (by decide) (by decide))).trans hd)
        ((portUp_congr hboot (by simpa [State.outside] using congrArg State.glb hout) (hregs _) hmac).trans hup)
        ((queueHasRoom_congr (portOf_congr hmac p) 3).trans hroom) ((waitingAt_congr (portOf_congr hmac p) 3).trans hwait)
        ((noLinkKey_congr (hregs _) (key_of_outside hout (by decide)) hhoop hslot).trans hkey) x
      refine ⟨_, f, (exec_programFragmentQueue p s).trans (congrArg done (hpending x hn hx)), hpend.trans hrest, by rw [hs', hseq],
        by rw [hq, queueAt_congr (portOf_congr hmac p)], by rw [hb, hprog], hcfg.trans (cfg_of_outside hout (by decide)), hhoop'.trans hhoop⟩
    · obtain ⟨f, hpend, hseq, hq, -, -, -, hnext⟩ := sendFragment_spec hs hd hup hroom hwait hkey x
      exact ⟨_, f, (exec_programFragmentQueue p s).trans (congrArg done (hsending x hx)), hnext hlen, hq, hseq, hpend⟩

end Sys2Proof.Machine

/-! Frames that the checks drop, and frames for firmware and the host (R294 to R300, R304, R396). -/
namespace Sys2Proof.Machine

theorem exec_macFrameDropped (p : Fin 38) (frame : List Byte) (ok full : Bool) (s : State) :
    exec (.macFrameDropped p frame ok full) s = done (receive s p frame ok full 0 0) := rfl
theorem exec_squelchedFrameRx (p : Fin 38) (frame : List Byte) (s : State) :
    exec (.squelchedFrameRx p frame) s = done (receive s p frame true false 0 0) := rfl
theorem exec_ptpFrameRx (p : Fin 38) (frame : List Byte) (phase : Fin 16) (s : State) :
    exec (.ptpFrameRx p frame phase) s = done (receive s p frame true false phase 0) := rfl
theorem exec_hostFrameRx (p : Fin 38) (frame : List Byte) (phase : Fin 16) (s : State) :
    exec (.hostFrameRx p frame phase) s = done (receive s p frame true false phase 0) := rfl
theorem exec_unclaimedFrameRx (p : Fin 38) (frame : List Byte) (s : State) :
    exec (.unclaimedFrameRx p frame) s = done (receive s p frame true false 0 0) := rfl

/-! ### Frames dropped -/

theorem rxCheck_short (s : State) (p : Nat) {bytes : List Byte} (h : bytes.length < 60) (ok : Bool) (phase : Nat) :
    rxCheck s p bytes ok phase = (.dropped, count s p 14 1) := by
  unfold rxCheck
  exact if_pos (by omega)

theorem rxCheck_fcs (s : State) (p : Nat) {bytes : List Byte} (h : 60 ≤ bytes.length) (phase : Nat) :
    rxCheck s p bytes false phase = (.dropped, count s p 16 1) := by
  unfold rxCheck
  exact (if_neg (by omega)).trans (if_pos rfl)

/-- A frame on a squelched port only counts (R396). -/
theorem receive_squelched {s : State} {p : Nat} (hl : s.boot.lifted.contains p = false) {bytes : List Byte} (h : 60 ≤ bytes.length)
    (hr : resetReleased s = true) (phase used : Nat) :
    receive s p bytes true false phase used = latchCount s (BOOT_SQ_DROP p) 15 0 1 := by
  unfold receive
  rw [if_pos (by rw [hl]; rfl), if_pos (by simp [hr]; omega)]

/-! ### Frames for firmware -/

theorem shared_of_outside {w : List Part} {s t : State} (h : t.outside w = s.outside w) (hw : .shared ∉ w) :
    t.ccs.shared = s.ccs.shared := by
  simpa [State.outside, Ccs.outside, hw] using congrArg (·.ccs.shared) h

/-- A frame for firmware goes to the lowest free slot (R298, R304). -/
theorem fwReceive_spec {s : State} (hs : s.canon) {p i : Nat} (hbase : reg s (MAC_FW_RX_BASE p) ≠ 0)
    (hi : ((List.range 16).find? fun i => !(portOf s p).fwSlots.contains i) = some i) (record bytes : List Byte) :
    (portOf (fwReceive s p record bytes) p).fwSlots = (portOf s p).fwSlots ++ [i] ∧
    (fwReceive s p record bytes).ccs.shared = tputList (fun _ => 0) s.ccs.shared
      ((reg s (MAC_FW_RX_BASE p)).toNat + 2048 * i - 0x20000000) (record ++ bytes.take 2032) ∧
    (fwReceive s p record bytes).cfg = s.cfg ∧ (fwReceive s p record bytes).hoop = s.hoop := by
  generalize htaken : sharedWrite (setPort s p { portOf s p with fwSlots := (portOf s p).fwSlots ++ [i] })
    ((reg s (MAC_FW_RX_BASE p)).toNat + 2048 * i) (record ++ bytes.take 2032) = taken
  have hrecv : fwReceive s p record bytes = notice taken 0x0C03 p i false true := by
    unfold fwReceive
    rw [hi, ← htaken]
    exact if_neg hbase
  rw [hrecv]
  have hout : (notice taken 0x0C03 p i false true).outside [.counts, .fresh, .records, .outboxes, .out] =
      taken.outside [.counts, .fresh, .records, .outboxes, .out] := notice_outside (by constructor <;> decide) ..
  rw [portOf_congr (mac_of_outside hout (by decide)), shared_of_outside hout (by decide), cfg_of_outside hout (by decide),
    hoop_of_outside hout (by decide) (by decide) (by decide) (by decide) (by decide), ← htaken]
  refine ⟨?_, rfl, rfl, rfl⟩
  exact congrArg MacPort.fwSlots (portOf_setPort_self hs.mac p _)

/-- A PTP frame that is no matching Announce goes to firmware (R298). -/
theorem consume_ptp {s : State} {p used o : Nat} {f : RxFrame} (hf : f.trunc = false) (hptp : ptpAt f.bytes = some o)
    (hann : p < 36 → isAnnounce s p (f.bytes.drop o) = false) :
    consume s p used f = fwReceive s p (rxRecord p 0 (min f.bytes.length 2032) (decide (2032 < f.bytes.length)) f) f.bytes := by
  have hstage : ptpStage s p o f = fwReceive s p (rxRecord p 0 (min f.bytes.length 2032) (decide (2032 < f.bytes.length)) f) f.bytes := by
    have hno : (decide (p < 36) && isAnnounce s p (f.bytes.drop o)) = false := by
      by_cases h : p < 36
      · rw [hann h, Bool.and_false]
      · simp [h]
    unfold ptpStage
    rw [if_neg (by rw [hno]; decide)]
  rcases Nat.lt_or_ge p 32 with h | h
  · rw [consume_thread h used hf, threadStage, hptp]
    exact hstage
  · rcases Nat.lt_or_ge p 36 with h' | h'
    · rw [consume_ingest h h' used hf, ingestStage, hptp]
      exact hstage
    · rw [consume_twin h' used hf, twinPortStage, hptp]
      exact hstage

/-! ### Frames for the host -/

section
variable {s : State} {p : Nat} (hp : 36 ≤ p) {f : RxFrame} (hf : f.trunc = false) (hptp : ptpAt f.bytes = none)
include hp hf hptp

/-- Of a twin port's other frames the host's filters decide (R298, R299). -/
theorem consume_hostOr (used : Nat) : consume s p used f = hostOr s p f fun s => count s p 21 1 := by
  rw [consume_twin hp used hf, twinPortStage, hptp]

theorem consume_posted {i : Nat} {x : Track} {rest : List Track} (hi : (List.range 8).find? (filterMatch s p f) = some i)
    (hx : postedTo s p i = x :: rest) (used : Nat) : consume s p used f = begin (setPort s p { portOf s p with
      rxWrites := (portOf s p).rxWrites ++ [⟨x.id,
        rxRecord p i (f.bytes.take (x.desc.length - 16)).length (decide (x.desc.length - 16 < f.bytes.length)) f ++
          f.bytes.take (x.desc.length - 16),
        16 + (f.bytes.take (x.desc.length - 16)).length,
        b2n f.trunc + 2 * b2n (decide (x.desc.length - 16 < f.bytes.length)) + 4 * b2n f.tci.isSome + 8 + i * 256⟩] }) x.id := by
  rw [consume_hostOr hp hf hptp, hostOr, hostStage, hi]
  dsimp only
  rw [hx]

theorem consume_noBuffer {i : Nat} (hi : (List.range 8).find? (filterMatch s p f) = some i) (hx : postedTo s p i = []) (used : Nat) :
    consume s p used f = noBuffer s p i := by
  rw [consume_hostOr hp hf hptp, hostOr, hostStage, hi]
  dsimp only
  rw [hx]

theorem consume_unclaimed (hi : (List.range 8).find? (filterMatch s p f) = none) (used : Nat) :
    consume s p used f = count s p 21 1 := by
  rw [consume_hostOr hp hf hptp, hostOr, hostStage, hi]
  dsimp only
  rw [if_neg (by rw [hf]; decide)]

end

/-- Settles O42: by `receive_checked` a frame that the checks drop leaves their count alone, and one that passes goes where
`consume` gives it. -/
theorem framesReceived : Obligations.FramesReceived := by
  unfold Obligations.FramesReceived
  refine ⟨fun p frame s htwin => ⟨fun hup => ⟨fun h ok full => ?_, fun h full => ?_, fun f t hcheck => ?_⟩, fun hl h hr =>
    (exec_squelchedFrameRx p frame s).trans (congrArg done (receive_squelched hl h hr 0 0))⟩, fun p frame phase f s t hs ha => ?_⟩
  · refine (exec_macFrameDropped p frame ok full s).trans (congrArg done ?_)
    rw [receive_checked hup (twin_off htwin _ _), rxCheck_short s p h]
    rfl
  · refine (exec_macFrameDropped p frame false full s).trans (congrArg done ?_)
    rw [receive_checked hup (twin_off htwin _ _), rxCheck_fcs s p h]
    rfl
  · refine (exec_macFrameDropped p frame true true s).trans (congrArg done ?_)
    rw [receive_checked hup (twin_off htwin _ _), hcheck]
    rfl
  · have hout := ha.outside
    refine ⟨fun o i hptp hann hbase hi => ?_, fun hp hptp => ⟨fun i x rest hi hx => ?_, fun i hi hx => ?_, fun hi hphase => ?_⟩⟩
    · obtain ⟨hslots, hshared, hcfg, hhoop⟩ := fwReceive_spec (ha.canon hs) hbase hi
        (rxRecord p 0 (min f.bytes.length 2032) (decide (2032 < f.bytes.length)) f) f.bytes
      refine ⟨_, (exec_ptpFrameRx p frame phase s).trans (congrArg done ((ha.receive 0).trans (consume_ptp ha.whole hptp hann))),
        hslots, hshared, hcfg.trans (cfg_of_outside hout (by decide)),
        hhoop.trans (hoop_of_outside hout (by decide) (by decide) (by decide) (by decide) (by decide))⟩
    · exact (exec_hostFrameRx p frame phase s).trans (congrArg done ((ha.receive 0).trans (consume_posted hp ha.whole hptp hi hx 0)))
    · exact (exec_hostFrameRx p frame phase s).trans (congrArg done ((ha.receive 0).trans (consume_noBuffer hp ha.whole hptp hi hx 0)))
    · rw [hphase] at ha
      exact (exec_unclaimedFrameRx p frame s).trans (congrArg done ((ha.receive 0).trans (consume_unclaimed hp ha.whole hptp hi 0)))

end Sys2Proof.Machine

/-! Pauses received and sent (R305, R306). -/
namespace Sys2Proof.Machine

theorem exec_pauseFrameRx (p : Fin 38) (frame : List Byte) (s : State) :
    exec (.pauseFrameRx p frame) s = done (receive s p frame true false 0 0) := rfl
theorem exec_pauseHoldEnd (p : Fin 38) (s : State) : exec (.pauseHoldEnd p) s = done (holdEnd s p) := rfl
theorem exec_pauseRefresh (p : Fin 38) (used : Nat) (s : State) : exec (.pauseRefresh p used) s = done (pauseRefresh s p used) := rfl
theorem exec_pauseXon (p : Fin 38) (used : Nat) (s : State) : exec (.pauseXon p used) s = done (pauseXon s p used) := rfl

/-! ### Counters -/

/-- Of port `p` only the counters have changed. -/
def countsOnly (p : Nat) (s t : State) : Prop :=
  twf (fun _ => MacPort.reset) s.mac = true →
    twf (fun _ => MacPort.reset) t.mac = true ∧ ∃ c, portOf t p = { portOf s p with counters := c }

theorem countsOnly.refl (p : Nat) (s : State) : countsOnly p s s := fun h => ⟨h, _, rfl⟩

theorem countsOnly.trans {p : Nat} {s t u : State} (h : countsOnly p s t) (h' : countsOnly p t u) : countsOnly p s u := fun hs => by
  obtain ⟨ht, c, hc⟩ := h hs
  obtain ⟨hu, d, hd⟩ := h' ht
  exact ⟨hu, d, by rw [hd, hc]⟩

theorem count_countsOnly (s : State) (p i n : Nat) : countsOnly p s (count s p i n) := fun hs => by
  have hset : ∀ c, portOf (setPort s p { portOf s p with counters := c }) p = { portOf s p with counters := c } :=
    fun c => portOf_setPort_self hs p _
  unfold count
  extract_lets x old new counted
  split
  · refine ⟨?_, _, (portOf_congr (noticeBoth_mac ..) p).trans (hset _)⟩
    rw [noticeBoth_mac]
    exact tput_twf hs
  · exact ⟨tput_twf hs, _, hset _⟩

theorem countFrame_countsOnly (s : State) (p base tagIx bin : Nat) (bytes : List Byte) :
    countsOnly p s (countFrame s p base tagIx bin bytes) := by
  unfold countFrame
  extract_lets l a b c d
  have hc : countsOnly p s c := ((count_countsOnly s p _ _).trans (count_countsOnly a p _ _)).trans (count_countsOnly b p _ _)
  have hd : countsOnly p c d := by
    unfold d
    split
    · exact count_countsOnly c p _ _
    · exact .refl p c
  exact (hc.trans hd).trans (count_countsOnly d p _ _)

theorem rxCheck_countsOnly (s : State) (p : Nat) (bytes : List Byte) (ok : Bool) (phase : Nat) :
    countsOnly p s (rxCheck s p bytes ok phase).2 := by
  unfold rxCheck
  extract_lets l m trunc b t dst strip
  have ht : countsOnly p s t := by
    unfold t
    split
    · exact count_countsOnly s p _ _
    · exact countFrame_countsOnly s p _ _ _ _
  split
  · exact count_countsOnly s p _ _
  split
  · exact count_countsOnly s p _ _
  split
  · exact ht.trans (count_countsOnly t p _ _)
  split
  · split
    · exact ht.trans (count_countsOnly t p _ _)
    · exact ht.trans (count_countsOnly t p _ _)
  · exact ht

/-! ### A received pause -/

/-- What counting a hold may change. -/
abbrev holdParts : List Part := [.counts, .fresh, .records, .outboxes, .out, .mac]

theorem accountHold_outside (s : State) (p : Nat) : (accountHold s p).outside holdParts = s.outside holdParts := by
  unfold accountHold
  dsimp only
  split
  · rfl
  · exact (setPort_outside _ (by decide) p _).trans (count_outside (by constructor <;> decide) (by decide) s p _ _)

theorem accountHold_mac {s : State} (hs : s.canon) (p : Nat) : (accountHold s p).canon := (accountHold_keeps s p (.refl s)).canon hs

theorem held_congr {s t : State} {p : Nat} (hh : (portOf t p).hold = (portOf s p).hold)
    (hf : (portOf t p).holdFrom = (portOf s p).holdFrom) (ht : t.tim = s.tim) : held t p = held s p := by
  rw [held, hh, hf, ht, held]

/-- An obeyed pause holds the transmitter from the end of its frame (R305). -/
theorem pauseSeen_spec {s : State} (hs : s.canon) (p q l : Nat) :
    (pauseSeen s p q l true).tim = s.tim ∧ (portOf (pauseSeen s p q l true) p).hold =
      (if q = 0 && !held s p then none
        else some (s.tim.elapsedQ + wireQ p l + (q * (quantum p).1 + (quantum p).2 - 1) / (quantum p).2)) ∧
      (pauseSeen s p q l true).cfg = s.cfg ∧ (pauseSeen s p q l true).hoop = s.hoop := by
  unfold pauseSeen
  rw [if_pos rfl]
  extract_lets on acc ends _ holding _
  have hacc := accountHold_outside s p
  have htim : acc.tim = s.tim := tim_of_outside hacc (by decide) (by decide) (by decide)
  have hacs : acc.canon := accountHold_mac hs p
  have hport : (portOf holding p).hold =
      (if q = 0 && !held s p then none
        else some (s.tim.elapsedQ + wireQ p l + (q * (quantum p).1 + (quantum p).2 - 1) / (quantum p).2)) := by
    rw [show portOf holding p = _ from portOf_setPort_self hacs.mac p _, ← htim]
  have hmac : twf (fun _ => MacPort.reset) holding.mac = true := tput_twf hacs.mac
  have hcfg : holding.cfg = s.cfg := cfg_of_outside hacc (by decide)
  have hhoop : holding.hoop = s.hoop := hoop_of_outside hacc (by decide) (by decide) (by decide) (by decide) (by decide)
  split
  · exact ⟨htim, hport, hcfg, hhoop⟩
  · have hout : ∀ u, (noticeBoth u 0x0C05 p q).outside [.counts, .fresh, .records, .outboxes, .out] =
        u.outside [.counts, .fresh, .records, .outboxes, .out] := fun u => noticeBoth_outside (by constructor <;> decide) ..
    rw [tim_of_outside (hout _) (by decide) (by decide) (by decide), portOf_congr (noticeBoth_mac ..), noticeBoth_cfg, noticeBoth_hoop,
      portOf_setPort_self hmac]
    exact ⟨htim, hport, hcfg, hhoop⟩

theorem holdEnd_spec {s : State} (hs : s.canon) {p e : Nat} (he : (portOf s p).hold = some e) :
    (portOf (holdEnd s p) p).hold = none ∧ (holdEnd s p).cfg = s.cfg ∧ (holdEnd s p).hoop = s.hoop := by
  have hend : holdEnd s p = setPort (accountHold (runToCycle ((e + 15) / 16) s) p) p
      { portOf (accountHold (runToCycle ((e + 15) / 16) s) p) p with hold := none } := by
    unfold holdEnd
    rw [he]
  rw [hend]
  have hrun := (runToCycle_keeps ((e + 15) / 16) s (.refl s)).canon hs
  have hacc := accountHold_outside (runToCycle ((e + 15) / 16) s) p
  refine ⟨by rw [portOf_setPort_self (accountHold_mac hrun p).mac], ?_, ?_⟩
  · exact (cfg_of_outside hacc (by decide)).trans (cfg_of_outside (w := allBut [.cfg]) (by simp) (by simp))
  · exact (hoop_of_outside hacc (by decide) (by decide) (by decide) (by decide) (by decide)).trans (runToCycle_hoop _ s)

/-! ### A pause that is sent -/

/-- The frame of a pause of time `q` on port `p`. -/
def pauseFrame (s : State) (p q : Nat) : TxFrame :=
  ⟨pad60 (controlMac ++ macAddr s p ++ beBytes 2 0x8808 ++ beBytes 2 1 ++ beBytes 2 q), .pause, 0, true, none, false⟩

theorem sendPause_up {s : State} {p : Nat} (h : portUp s p = true) (q : Nat) :
    sendPause s p q = setQueueAt s p 8 (queueAt s p 8 ++ [pauseFrame s p q]) := by
  unfold sendPause
  exact if_pos h

/-- What of a port a pause frame of its own depends on. -/
theorem pauseFrame_congr {s t : State} (h : t.regs = s.regs) (p q : Nat) : pauseFrame t p q = pauseFrame s p q := by
  simp only [pauseFrame, macAddr, regFld, reg, h]

/-- A port that is up, with its link and queues as they were, queues the pause. -/
theorem sendPause_setPort {s : State} (hs : twf (fun _ => MacPort.reset) s.mac = true) {p : Nat} (hup : portUp s p = true) {x : MacPort}
    (hx : x.link = (portOf s p).link) (hq : x.queues = (portOf s p).queues) (q : Nat) :
    queueAt (sendPause (setPort s p x) p q) p 8 = queueAt s p 8 ++ [pauseFrame s p q] ∧
      (∃ l, portOf (sendPause (setPort s p x) p q) p = { x with queues := l }) ∧
      sendPause (setPort s p x) p q = { s with mac := (sendPause (setPort s p x) p q).mac } := by
  have hxm : twf (fun _ => MacPort.reset) (setPort s p x).mac = true := tput_twf hs
  have hport : portOf (setPort s p x) p = x := portOf_setPort_self hs p x
  have hupx : portUp (setPort s p x) p = true := by
    obtain ⟨hl, hg, hr, hk⟩ := portUp_iff.1 hup
    exact portUp_iff.2 ⟨hl, hg, hr, by rw [hport, hx, hk]⟩
  have hqx : queueAt (setPort s p x) p 8 = queueAt s p 8 := by rw [queueAt, hport, hq, queueAt]
  have hframe : pauseFrame (setPort s p x) p q = pauseFrame s p q := pauseFrame_congr rfl p q
  rw [sendPause_up hupx, hqx, hframe]
  exact ⟨queueAt_setQueueAt_self hxm p 8 (by simp), ⟨_, (portOf_setPort_self hxm p _).trans (by rw [hport])⟩, rfl⟩

section
variable {s : State} {p used : Nat}

theorem noteFill_mac : (noteFill s p used).mac = s.mac := by rw [noteFill_eq]
theorem noteFill_regs : (noteFill s p used).regs = s.regs := by rw [noteFill_eq]
theorem noteFill_reg (a : Nat) : reg (noteFill s p used) a = reg s a := by rw [reg, noteFill_regs, reg]
theorem noteFill_portUp : portUp (noteFill s p used) p = portUp s p :=
  portUp_congr (by rw [noteFill_eq]) (by rw [noteFill_eq]) (noteFill_reg _) noteFill_mac
theorem noteFill_mayPause : mayPause (noteFill s p used) p = mayPause s p := by
  rw [mayPause, drives_congr (s := s) (by rw [noteFill_eq]) (by rw [noteFill_eq]), macCfg, regBit_congr (noteFill_reg _), mayPause, macCfg]
theorem noteFill_xoffBytes : xoffBytes (noteFill s p used) p = xoffBytes s p := by
  rw [xoffBytes, regFld_congr (noteFill_reg _), xoffBytes]
theorem noteFill_xonBytes : xonBytes (noteFill s p used) p = xonBytes s p := by
  rw [xonBytes, regFld_congr (noteFill_reg _), regFld_congr (noteFill_reg _), xonBytes]
theorem noteFill_portOf (p' : Nat) : portOf (noteFill s p used) p' = portOf s p' := portOf_congr noteFill_mac p'

/-- The first pause, as the free space falls below XOFF. -/
theorem pauseRefresh_first (hmay : mayPause s p = true) (hx : (portOf s p).xoff = false)
    (hfree : freeSpace (noteFill s p used) p used < xoffBytes s p) : pauseRefresh s p used = sendPause
      (setPort (noteFill s p used) p { portOf s p with xoff := true, xoffAt := (noteFill s p used).tim.elapsedQ }) p
      (regFld s (MAC_PAUSE_TX p) 15 0) := by
  unfold pauseRefresh
  extract_lets n x q
  rw [if_neg (by rw [show mayPause n p = true from noteFill_mayPause.trans hmay]; decide),
    if_pos (by rw [show x = portOf s p from noteFill_portOf p, hx]; rfl), if_pos (by rw [noteFill_xoffBytes]; exact hfree)]
  rw [show x = portOf s p from noteFill_portOf p, show q = regFld s (MAC_PAUSE_TX p) 15 0 from regFld_congr (noteFill_reg _) 15 0]

/-- Its repeat, while the free space stays below XON. -/
theorem pauseRefresh_again (hmay : mayPause s p = true) (hx : (portOf s p).xoff = true)
    (hfree : freeSpace (noteFill s p used) p used < xonBytes s p) : ∃ c q, pauseRefresh s p used = sendPause
      (setPort (runToCycle c (noteFill s p used)) p { portOf (runToCycle c (noteFill s p used)) p with
        xoffAt := (runToCycle c (noteFill s p used)).tim.elapsedQ }) p q := by
  unfold pauseRefresh
  extract_lets n x q due ran
  rw [if_neg (by rw [show mayPause n p = true from noteFill_mayPause.trans hmay]; decide),
    if_neg (by rw [show x = portOf s p from noteFill_portOf p, hx]; decide), if_pos (by rw [noteFill_xonBytes]; exact hfree)]
  exact ⟨_, _, rfl⟩

theorem pauseXon_sends (hmay : mayPause s p = true) (hx : (portOf s p).xoff = true)
    (hfree : xonBytes s p ≤ freeSpace (noteFill s p used) p used) : pauseXon s p used = sendPause
      (setPort (noteFill s p used) p { portOf s p with xoff := false }) p 0 := by
  unfold pauseXon
  extract_lets n x off
  rw [if_pos (by rw [show x = portOf s p from noteFill_portOf p, hx, noteFill_xonBytes]; simpa using hfree),
    if_pos (show mayPause off p = true from noteFill_mayPause.trans hmay)]
  unfold off
  rw [show x = portOf s p from noteFill_portOf p]

end

/-- Settles O43: an obeyed pause sets the hold (`pauseSeen_spec`), whose end clears it, and each pause that is sent is one frame
more in the port's own queue (`sendPause_setPort`). -/
theorem pausesHoldAndGo : Obligations.PausesHoldAndGo := by
  unfold Obligations.PausesHoldAndGo
  refine ⟨fun p s hs => ⟨fun frame q t hup htwin hcheck => ?_, fun e he => ?_⟩, fun p used s hs hmay hup => ?_⟩
  · have hrx := rxCheck_of hcheck
    have ht : t.canon := hrx.2.canon hs
    obtain ⟨c, hport⟩ : ∃ c, portOf t p = { portOf s p with counters := c } := by
      have h := (rxCheck_countsOnly s p frame true 0 hs.mac).2
      rwa [show (rxCheck s p frame true 0).2 = t from congrArg Prod.snd hcheck] at h
    have hexec : receive s p frame true false 0 0 = pauseSeen t p q (frame.length + 4) true := by
      rw [receive_checked hup (twin_off htwin _ _), hcheck]
      rfl
    have htim : t.tim = s.tim := tim_of_outside hrx.1 (by decide) (by decide) (by decide)
    have hheld : held t p = held s p := held_congr (by rw [hport]) (by rw [hport]) htim
    obtain ⟨hut, hhold, hcfg, hhoop⟩ := pauseSeen_spec ht p q (frame.length + 4)
    refine ⟨_, (exec_pauseFrameRx p frame s).trans (congrArg done hexec), hut.trans htim, by rw [hhold, hheld, htim],
      hcfg.trans (cfg_of_outside hrx.1 (by decide)),
      hhoop.trans (hoop_of_outside hrx.1 (by decide) (by decide) (by decide) (by decide) (by decide))⟩
  · exact ⟨_, exec_pauseHoldEnd p s, holdEnd_spec hs he⟩
  · have hnm : twf (fun _ => MacPort.reset) (noteFill s p used).mac = true := by
      rw [noteFill_mac]
      exact hs.mac
    have hnup : portUp (noteFill s p used) p = true := noteFill_portUp.trans hup
    have hframe : ∀ q, pauseFrame (noteFill s p used) p q = pauseFrame s p q := pauseFrame_congr noteFill_regs p
    have hqueue : queueAt (noteFill s p used) p 8 = queueAt s p 8 := queueAt_congr (noteFill_portOf p) 8
    refine ⟨fun hx hfree => ?_, fun hx hfree => ?_, fun hx hfree => ?_⟩
    · refine ⟨_, (exec_pauseRefresh p used s).trans (congrArg done (pauseRefresh_first hmay hx hfree)), ?_⟩
      obtain ⟨hq, ⟨l, hl⟩, heq⟩ := sendPause_setPort hnm hnup (x := { portOf s p with
        xoff := true, xoffAt := (noteFill s p used).tim.elapsedQ }) (by rw [noteFill_portOf]) (by rw [noteFill_portOf])
        (regFld s (MAC_PAUSE_TX p) 15 0)
      exact ⟨by rw [hl], hq.trans (by rw [hqueue, hframe]; rfl), heq⟩
    · obtain ⟨c, q, hsend⟩ := pauseRefresh_again hmay hx hfree
      generalize hr : runToCycle c (noteFill s p used) = r at hsend
      have hnc : (noteFill s p used).canon := (noteFill_keeps s p used (.refl s)).canon hs
      have hout : r.outside outsideRefill = (noteFill s p used).outside outsideRefill :=
        hr ▸ runToCycle_outside (by decide) (by constructor <;> decide) c _
      have hrm : r.mac = (noteFill s p used).mac := mac_of_outside hout (by decide)
      have hrup : portUp r p = true := (portUp_congr (boot_of_outside hout (by decide)) (by simpa [State.outside] using congrArg State.glb hout)
        (hr ▸ runToCycle_reg hnc.regs c (macCtrl_notCounted p.isLt)) hrm).trans hnup
      obtain ⟨hq, ⟨l, hl⟩, heq⟩ := sendPause_setPort (s := r) (by rw [hrm]; exact hnm) hrup (x := { portOf r p with xoffAt := r.tim.elapsedQ }) rfl rfl q
      refine ⟨_, (exec_pauseRefresh p used s).trans (congrArg done hsend), ?_, ?_, ?_⟩
      · rw [hl, portOf_congr hrm, noteFill_portOf]
        exact hx
      · rw [hl, heq]
      · rw [hq, queueAt_congr (portOf_congr hrm p), hqueue, List.length_append]
        rfl
    · refine ⟨_, (exec_pauseXon p used s).trans (congrArg done (pauseXon_sends hmay hx hfree)), ?_⟩
      obtain ⟨hq, ⟨l, hl⟩, heq⟩ := sendPause_setPort hnm hnup (x := { portOf s p with xoff := false }) (by rw [noteFill_portOf])
        (by rw [noteFill_portOf]) 0
      exact ⟨by rw [hl], hq.trans (by rw [hqueue, hframe]; rfl), heq⟩

end Sys2Proof.Machine

/-! Frames of the wire, of firmware's frames and of waiting frames (R301 to R304). -/
namespace Sys2Proof.Machine

section
variable {w : List Part} (hn : Notices w) (htrack : .track ∈ w) (hmac : .mac ∈ w) (hacks : .acks ∈ w)
include hn htrack hmac hacks

@[simp] theorem enterQueue_outside (s : State) (p q : Nat) : (enterQueue s p q).outside w = s.outside w := by
  unfold enterQueue
  (repeat' split) <;> simp [hn, htrack, hmac, hacks]

@[simp] theorem enterQueues_outside (s : State) (p : Nat) : (enterQueues s p).outside w = s.outside w := by
  unfold enterQueues
  simp [hn, htrack, hmac, hacks]

@[simp] theorem fwAdmit_outside (s : State) (p : Nat) : (fwAdmit s p).outside w = s.outside w := by
  unfold fwAdmit
  (repeat' split) <;> simp [hn, htrack, hmac, hacks]

end

section
variable {w : List Part} (hregs : .regs ∈ w) (hfresh : .fresh ∈ w) (hegr : .egr ∈ w)
include hregs hfresh hegr

@[simp] theorem noteLate_outside (s : State) (p : Nat) (f : TxFrame) : (noteLate s p f).outside w = s.outside w := by
  unfold noteLate
  (repeat' split) <;> simp [hregs, hfresh, hegr]

end

section
variable {w : List Part} (hn : Notices w) (hregs : .regs ∈ w) (htrack : .track ∈ w) (hstamps : .stamps ∈ w)
  (hmac : .mac ∈ w) (hacks : .acks ∈ w)
include hn hregs htrack hstamps hmac hacks

@[simp] theorem pushStamp_outside (s : State) (p q : Nat) (dest : StampDest) :
    (pushStamp s p q dest).outside w = s.outside w := by
  unfold pushStamp
  (repeat' split) <;> simp [hn, hregs, htrack, hstamps, hmac, hacks]

end

section
variable {w : List Part} (hn : Notices w) (hregs : .regs ∈ w) (htrack : .track ∈ w) (hstamps : .stamps ∈ w)
  (hegr : .egr ∈ w) (hmac : .mac ∈ w) (hacks : .acks ∈ w)
include hn hregs htrack hstamps hegr hmac hacks

@[simp] theorem txStart_outside (s : State) (p phase : Nat) : (txStart s p phase).outside w = s.outside w := by
  unfold txStart
  (repeat' split) <;> simp [hn, hregs, htrack, hstamps, hegr, hmac, hacks]

end


end Sys2Proof.Machine

/-! Frames on the wire, firmware's frames, released slots and cleared counters (R301, R303, R304, R310). -/
namespace Sys2Proof.Machine

theorem exec_frameTxStart (p : Fin 38) (phase : Fin 16) (s : State) :
    exec (.frameTxStart p phase) s = done (fwAdmit (enterQueues (txStart s p phase) p) p) := rfl
theorem exec_frameTxDone (p : Fin 38) (s : State) : exec (.frameTxDone p) s = done (txDone s p) := rfl
theorem exec_fwTxGo (p : Fin 38) (v : Word) (s : State) : exec (.fwTxGo p v) s = done (fwTxGo s p (v ||| 0x80000000)) := rfl
theorem exec_fwRxRelease (p : Fin 38) (v : Word) (s : State) : exec (.fwRxRelease p v) s = done (fwRelease s p v) := rfl
theorem exec_counterClear (p : Fin 38) (s : State) : exec (.counterClear p) s = done (clearCounters s p 0x80000000) := rfl

/-! ### The wire of a port, while frames move between its queues -/

/-- What of a port says which frame its wire carries. -/
def MacPort.onWire (x : MacPort) : Option TxFrame × Nat × Nat := (x.wire, x.wireQueue, x.wireEnd)

theorem MacPort.wire_of_onWire {x y : MacPort} (h : x.onWire = y.onWire) : x.wire = y.wire := congrArg Prod.fst h

theorem MacPort.onWire_eq {x : MacPort} {f : Option TxFrame} {q e : Nat} (h : x.onWire = (f, q, e)) :
    x.wire = f ∧ x.wireQueue = q ∧ x.wireEnd = e := by
  simpa [onWire] using h

/-- The wire of port `p` carries what it did. -/
def wireKept (p : Nat) (s t : State) : Prop :=
  twf (fun _ => MacPort.reset) s.mac = true →
    twf (fun _ => MacPort.reset) t.mac = true ∧ (portOf t p).onWire = (portOf s p).onWire

theorem wireKept.trans {p : Nat} {s t u : State} (h : wireKept p s t) (h' : wireKept p t u) : wireKept p s u := fun hs =>
  ⟨(h' (h hs).1).1, (h' (h hs).1).2.trans (h hs).2⟩

theorem wireKept.of_mac {p : Nat} {s t : State} (h : t.mac = s.mac) : wireKept p s t := fun hs =>
  ⟨h ▸ hs, by rw [portOf_congr h]⟩

theorem wireKept.setPort (s : State) (p : Nat) {x : MacPort} (hx : x.onWire = (portOf s p).onWire) : wireKept p s (setPort s p x) :=
  fun hs => ⟨tput_twf hs, by rw [portOf_setPort_self hs, hx]⟩

theorem wireKept.setQueueAt (s : State) (p q : Nat) (l : List TxFrame) : wireKept p s (setQueueAt s p q l) := setPort s p rfl
theorem wireKept.setWaitingAt (s : State) (p q : Nat) (l : List TxFrame) : wireKept p s (setWaitingAt s p q l) := setPort s p rfl

theorem wireKept.of_counts {p : Nat} {s t : State} (h : countsOnly p s t) : wireKept p s t := fun hs => by
  obtain ⟨ht, c, hc⟩ := h hs
  exact ⟨ht, by rw [hc]; rfl⟩

theorem discardFrame_wireKept (s : State) (p : Nat) (f : TxFrame) : wireKept p s (discardFrame s p f) := by
  unfold discardFrame
  extract_lets counted
  have h : wireKept p s counted := by
    unfold counted
    split
    · exact .of_mac rfl
    · exact .of_counts (count_countsOnly s p 38 1)
  refine h.trans ?_
  split
  · exact .of_mac (mac_of_outside (w := allBut [.mac]) (by simp) (by simp))
  · exact .of_mac (finish_mac ..)
  · exact .of_mac rfl

theorem hand_wireKept (s : State) (p q : Nat) (f : TxFrame) : wireKept p s (hand s p q f) := by
  unfold hand
  split
  · unfold keepFrame
    split
    · exact .of_mac (finish_mac ..)
    · exact .of_mac rfl
  split
  · exact discardFrame_wireKept s p f
  split
  · dsimp only
    split
    · exact (wireKept.setQueueAt s p q _).trans (.of_mac rfl)
    · exact wireKept.setQueueAt s p q _
  · exact wireKept.setWaitingAt s p q _

theorem enterQueue_wireKept (s : State) (p q : Nat) : wireKept p s (enterQueue s p q) := by
  unfold enterQueue
  split
  · split
    · exact ((wireKept.setWaitingAt s p q []).trans (hand_wireKept _ p q _)).trans (wireKept.setWaitingAt _ p q _)
    · exact .of_mac rfl
  · exact .of_mac rfl

theorem enterQueues_wireKept (s : State) (p : Nat) : wireKept p s (enterQueues s p) :=
  List.foldlRecOn (motive := fun t : State => wireKept p s t) _ _ (.of_mac rfl) fun t h q _ => h.trans (enterQueue_wireKept t p q)

theorem fwAdmit_wireKept (s : State) (p : Nat) : wireKept p s (fwAdmit s p) := by
  have hfree : wireKept p s (Machine.setPort s p { portOf s p with fwTx := none }) := wireKept.setPort s p rfl
  unfold fwAdmit
  split
  · split
    · exact hfree.trans (.of_mac (mac_of_outside (w := allBut [.mac]) (by simp) (by simp)))
    · split
      · exact hfree.trans (hand_wireKept _ p _ _)
      · exact .of_mac rfl
  · exact .of_mac rfl

/-- What frames that move between the queues of a port may change. -/
abbrev queueParts : List Part := [.counts, .fresh, .records, .outboxes, .out, .track, .mac, .acks]

theorem notices_queueParts : Notices queueParts := ⟨by decide, by decide, by decide, by decide, by decide⟩

theorem enter_spec (s : State) (p : Nat) : wireKept p s (fwAdmit (enterQueues s p) p) ∧
    (fwAdmit (enterQueues s p) p).outside queueParts = s.outside queueParts :=
  ⟨(enterQueues_wireKept s p).trans (fwAdmit_wireKept _ p),
    (fwAdmit_outside notices_queueParts (by decide) (by decide) (by decide) _ p).trans
      (enterQueues_outside notices_queueParts (by decide) (by decide) (by decide) s p)⟩

/-! ### The wire -/

/-- A frame starts from the queue that is served next (R301, R303). -/
theorem txStart_spec {s : State} (hs : s.canon) {p : Nat} (phase : Nat) {q : Nat} {f : TxFrame} (hwire : (portOf s p).wire = none)
    (hrs : rsSends s p = .frames) (hq : nextQueue s p = some q) (hf : headFrame s p q = some f) (hone : f.oneStep = false)
    (hstamp : f.stamp = none) :
    twf (fun _ => MacPort.reset) (txStart s p phase).mac = true ∧ (portOf (txStart s p phase) p).onWire =
      (some { f with bytes := insertTag s p q f }, q, s.tim.elapsedQ + wireQ p ((insertTag s p q f).length + 24)) := by
  generalize hlate : noteLate (setQueueAt s p q ((queueAt s p q).erase f)) p f = late
  have hstart : txStart s p phase = setPort late p { portOf late p with
      wire := some { f with bytes := insertTag s p q f }, wireQueue := q, wireResult := none
      wireEnd := late.tim.elapsedQ + wireQ p ((insertTag s p q f).length + 24) } := by
    unfold txStart
    rw [if_neg (by simp [hwire, hrs]), hq]
    dsimp only
    rw [hf]
    dsimp only
    rw [hone, hstamp, hlate]
    rfl
  have hout : late.outside [.regs, .fresh, .egr] = (setQueueAt s p q ((queueAt s p q).erase f)).outside [.regs, .fresh, .egr] :=
    hlate ▸ noteLate_outside (by decide) (by decide) (by decide) _ p f
  have hmac : twf (fun _ => MacPort.reset) late.mac = true := by
    rw [mac_of_outside hout (by decide)]
    exact tput_twf hs.mac
  have htim : late.tim = s.tim := (tim_of_outside hout (by decide) (by decide) (by decide) :)
  rw [hstart, portOf_setPort_self hmac, htim]
  exact ⟨tput_twf hmac, rfl⟩

/-- The frame on the wire has left when it ends (R303). -/
theorem txDone_spec {s : State} (hs : s.canon) {p : Nat} {f : TxFrame} (hf : (portOf s p).wire = some f) :
    (portOf (txDone s p) p).wire = none ∧ .wire p (f.bytes ++ fcsOf f.bytes) ∈ (txDone s p).out ∧
      (txDone s p).cfg = s.cfg ∧ (txDone s p).hoop = s.hoop := by
  unfold txDone
  rw [hf]
  dsimp only
  generalize hran : runToCycle (((portOf s p).wireEnd + 15) / 16) s = ran
  have hrc : ran.canon := hran ▸ (runToCycle_keeps _ s (.refl s)).canon hs
  have hrout : ran.outside outsideRefill = s.outside outsideRefill := hran ▸ runToCycle_outside (by decide) (by constructor <;> decide) _ s
  generalize hfree : setPort ran p { portOf ran p with wire := none, wireResult := none } = free
  have hfm : twf (fun _ => MacPort.reset) free.mac = true := hfree ▸ tput_twf hrc.mac
  have hwire : (portOf free p).wire = none := by rw [← hfree, portOf_setPort_self hrc.mac]
  have hfout : free.outside queueParts = ran.outside queueParts := hfree ▸ setPort_outside ran (by decide) p _
  generalize hleft : { countFrame free p 24 30 31 f.bytes with
    out := (countFrame free p 24 30 31 f.bytes).out ++ [HostWrite.wire p (f.bytes ++ fcsOf f.bytes)] } = left
  have hlk : wireKept p free left := hleft ▸ (wireKept.of_counts (countFrame_countsOnly free p 24 30 31 f.bytes)).trans (.of_mac rfl)
  have hlout : left.outside queueParts = free.outside queueParts := hleft ▸
    (withOut_outside _ (by decide) _).trans (countFrame_outside notices_queueParts (by decide) free p 24 30 31 f.bytes)
  have hmem : .wire p (f.bytes ++ fcsOf f.bytes) ∈ left.out := by rw [← hleft]; simp
  have hend : ∀ e : State, wireKept p left e → e.outside queueParts = left.outside queueParts → left.out <+: e.out →
      (portOf (fwAdmit (enterQueues e p) p) p).wire = none ∧
      .wire p (f.bytes ++ fcsOf f.bytes) ∈ (fwAdmit (enterQueues e p) p).out ∧
      (fwAdmit (enterQueues e p) p).cfg = s.cfg ∧ (fwAdmit (enterQueues e p) p).hoop = s.hoop := by
    intro e hek heout hepre
    have hall := (enter_spec e p).2.trans (heout.trans (hlout.trans hfout))
    have hkept := ((hlk.trans hek).trans (enter_spec e p).1 hfm).2
    have hpre : e.out <+: (fwAdmit (enterQueues e p) p).out := (fwAdmit_keeps _ p (enterQueues_keeps e p (.refl e))).out
    refine ⟨(MacPort.wire_of_onWire hkept).trans hwire, hpre.subset (hepre.subset hmem),
      (cfg_of_outside hall (by decide)).trans (cfg_of_outside hrout (by decide)), ?_⟩
    exact (hoop_of_outside hall (by decide) (by decide) (by decide) (by decide) (by decide)).trans
      (hoop_of_outside hrout (by decide) (by decide) (by decide) (by decide) (by decide))
  have hfinish : ∀ id st r0 r1 : Nat, wireKept p left (finish left id st r0 r1) ∧
      (finish left id st r0 r1).outside queueParts = left.outside queueParts ∧ left.out <+: (finish left id st r0 r1).out :=
    fun id st r0 r1 => ⟨.of_mac (finish_mac ..), finish_outside notices_queueParts (by decide) (by decide) ..,
      (finish_keeps left id st r0 r1 (.refl left)).out⟩
  cases f.sender with
  | pause =>
    exact hend _ (.of_counts (count_countsOnly left p 29 1)) (count_outside notices_queueParts (by decide) ..)
      (count_keeps left p 29 1 (.refl left)).out
  | firmware =>
    exact hend _ (.of_mac (mac_of_outside (w := allBut [.mac]) (by simp) (by simp))) (notice_outside notices_queueParts ..)
      (notice_keeps left 0x0C04 p 0 false true (.refl left)).out
  | rawTx id stamp =>
    dsimp only
    split
    · exact hend _ (hfinish ..).1 (hfinish ..).2.1 (hfinish ..).2.2
    · split
      · exact hend left (.of_mac rfl) rfl (List.prefix_refl _)
      · exact hend _ (hfinish ..).1 (hfinish ..).2.1 (hfinish ..).2.2
  | _ => exact hend left (.of_mac rfl) rfl (List.prefix_refl _)

/-! ### Firmware's frames -/

/-- The frame that firmware has in shared memory, by the word it kicks with. -/
def fwFrame (s : State) (a : Nat) (v : Word) : TxFrame :=
  { bytes := pad60 (sharedRead s a (fld v 10 0)), sender := .firmware, due := 0, ownTag := false
    stamp := if fld v 29 28 = 1 then some (.firmware (ptpSequence (pad60 (sharedRead s a (fld v 10 0))))) else none
    oneStep := decide (fld v 29 28 = 2) }

/-- A frame that waits in MAC_FW_TX is queued where its port is up and its queue has room. -/
theorem fwAdmit_queued {s : State} (hs : twf (fun _ => MacPort.reset) s.mac = true) {p q : Nat} {f : TxFrame}
    (hf : ∀ t b, f.sender ≠ .rawTx t b) (hd : drives s = true) (hup : portUp s p = true) (hroom : queueHasRoom s p q = true)
    (hwait : waitingAt s p q = []) :
    ∃ t : State, t = { s with mac := t.mac } ∧ twf (fun _ => MacPort.reset) t.mac = true ∧ (portOf t p).fwTx = none ∧
      queueAt t p q = queueAt s p q ∧
      fwAdmit (setPort s p { portOf s p with fwTx := some ⟨f, q⟩ }) p = setQueueAt t p q (queueAt s p q ++ [f]) := by
  generalize hw : setPort s p { portOf s p with fwTx := some ⟨f, q⟩ } = w
  have hwm : twf (fun _ => MacPort.reset) w.mac = true := hw ▸ tput_twf hs
  have hwp : portOf w p = { portOf s p with fwTx := some ⟨f, q⟩ } := hw ▸ portOf_setPort_self hs p _
  have hws : w = { s with mac := w.mac } := by rw [← hw]; rfl
  generalize ht : setPort w p { portOf w p with fwTx := none } = t
  have htm : twf (fun _ => MacPort.reset) t.mac = true := ht ▸ tput_twf hwm
  have htp : portOf t p = { portOf w p with fwTx := none } := ht ▸ portOf_setPort_self hwm p _
  have hts : t = { s with mac := t.mac } := by rw [← ht, hws]; rfl
  have htq : queueAt t p q = queueAt s p q := by rw [queueAt, htp, hwp, queueAt]
  have htup : portUp t p = true := by
    obtain ⟨hl, hg, hr, hk⟩ := portUp_iff.1 hup
    refine portUp_iff.2 ⟨by rw [hts]; exact hl, by rw [hts]; exact hg, by rw [hts]; exact hr, by rw [htp, hwp, hk]⟩
  have htd : drives t = true := by rw [hts]; exact hd
  have hgo : fwAdmit w p = hand t p q f := by
    unfold fwAdmit
    rw [show (portOf w p).fwTx = some ⟨f, q⟩ by rw [hwp]]
    dsimp only
    have hwd : drives w = true := by rw [hws]; exact hd
    have hwr : queueHasRoom w p q = true := by rw [queueHasRoom, queueAt, hwp, ← queueAt, ← queueHasRoom, hroom]
    rw [if_neg (by simp [hwd]), if_pos (by simp [hwr]), ht]
  refine ⟨t, hts, htm, by rw [htp], htq, ?_⟩
  rw [hgo, hand_queued (kept_of_drives htd p f) hf htup (by rw [queueHasRoom, htq, ← queueHasRoom, hroom])
    (by rw [waitingAt, htp, hwp, ← waitingAt, hwait]), htq]

/-- GO sends the frame that stands in shared memory (R304). -/
theorem fwTxGo_eq {s : State} {p : Nat} {v : Word} {a : Nat} (hfree : (portOf s p).fwTx = none) (hlo : 14 ≤ fld v 10 0)
    (hhi : fld v 10 0 ≤ 2044) (ha : (reg (plainWrite s (MAC_FW_TX_CTRL p) v) (MAC_FW_TX_ADDR p)).toNat = a)
    (hin : inShared a (fld v 10 0) = true) : fwTxGo s p v = fwAdmit (setPort (plainWrite s (MAC_FW_TX_CTRL p) v) p
      { portOf (plainWrite s (MAC_FW_TX_CTRL p) v) p with fwTx := some ⟨fwFrame (plainWrite s (MAC_FW_TX_CTRL p) v) a v, if bitW v 27 then 3 else 7⟩ }) p := by
  subst ha
  unfold fwTxGo
  exact if_neg (by rw [hfree, hin]; simp; omega)

/-- Its frame, with GO set in the word. -/
theorem fwFrame_go (s : State) (b a : Nat) (x v : Word) : fwFrame (plainWrite s b x) a (v ||| 0x80000000) =
    { bytes := pad60 (sharedRead s a (fld v 10 0)), sender := .firmware, due := 0, ownTag := false
      stamp := if fld v 29 28 = 1 then some (.firmware (ptpSequence (pad60 (sharedRead s a (fld v 10 0))))) else none
      oneStep := decide (fld v 29 28 = 2) } := by
  have hread : ∀ n, sharedRead (plainWrite s b x) a n = sharedRead s a n := fun n => by
    rw [sharedRead, plainWrite_ccs, sharedRead]
  rw [fwFrame, fld_enable v (by decide), fld_enable v (by decide), hread]

/-- Settles O44: the frame that starts or ends is on the wire while the queues behind it move (`wireKept`), and one that firmware
sends passes through MAC_FW_TX into its queue. -/
theorem framesLeave : Obligations.FramesLeave := by
  unfold Obligations.FramesLeave
  refine ⟨fun p s hs => ⟨fun phase q f hwire hrs hq hf hone hstamp => ?_, fun f hf => ⟨_, exec_frameTxDone p s, txDone_spec hs hf⟩⟩,
    fun p v s hs => ⟨fun q a hfree hlo hhi ha hin hup hd hq hroom hwait => ?_, exec_fwRxRelease p v s, exec_counterClear p s⟩⟩
  · obtain ⟨hmac, hon⟩ := txStart_spec hs phase hwire hrs hq hf hone hstamp
    have hon' := ((enter_spec (txStart s p phase) p).1 hmac).2.trans hon
    obtain ⟨hw, hwq, hwe⟩ := MacPort.onWire_eq hon'
    refine ⟨_, exec_frameTxStart p phase s, hw, hwq, hwe, ?_, ?_⟩
    · exact cfg_of_outside (w := allBut [.cfg]) (by simp) (by simp)
    · exact hoop_of_outsideHoop (by simp [outsideHoop])
  · have hctrl : ∀ b, b ≠ MAC_FW_TX_CTRL p → reg (plainWrite s (MAC_FW_TX_CTRL p) (v ||| 0x80000000)) b = reg s b :=
      fun b hb => reg_plainWrite_other hs.regs _ hb
    have hgo := fwTxGo_eq (p := p) (v := v ||| 0x80000000) (a := a) hfree (by rwa [fld_enable v (by decide)])
      (by rwa [fld_enable v (by decide)]) (by rw [hctrl _ (by unfold MAC_FW_TX_CTRL MAC_FW_TX_ADDR; omega), ha]) (by rwa [fld_enable v (by decide)])
    rw [fwFrame_go, bitW_enable, show (bitW v 27 || decide (27 = 31)) = bitW v 27 from Bool.or_false _, ← hq] at hgo
    generalize hw : plainWrite s (MAC_FW_TX_CTRL p) (v ||| 0x80000000) = w at hctrl hgo
    have hws : w = { s with regs := w.regs } := hw ▸ plainWrite_eq_regs s _ _
    have hmac : w.mac = s.mac := by rw [hws]
    have hport := portOf_congr hmac p
    obtain ⟨t, hts, htm, hfw, htq, hadm⟩ := fwAdmit_queued (s := w) (by rw [hmac]; exact hs.mac) (p := p) (q := q)
      (f := { bytes := pad60 (sharedRead s a (fld v 10 0)), sender := .firmware, due := 0, ownTag := false
              stamp := if fld v 29 28 = 1 then some (.firmware (ptpSequence (pad60 (sharedRead s a (fld v 10 0))))) else none
              oneStep := decide (fld v 29 28 = 2) }) (by simp) (by rw [hws]; exact hd)
      ((portUp_congr (by rw [hws]) (by rw [hws]) (hctrl _ (by unfold MAC_FW_TX_CTRL MAC_CTRL; omega)) hmac).trans hup)
      ((queueHasRoom_congr hport q).trans hroom) ((waitingAt_congr hport q).trans hwait)
    refine ⟨_, (exec_fwTxGo p v s).trans (congrArg done (hgo.trans hadm)), ?_, ?_, ?_, ?_⟩
    · rw [setQueueAt, portOf_setPort_self htm]
      exact hfw
    · rw [queueAt_setQueueAt_self htm p q (by simp), queueAt_congr hport]
    · intro b hb _
      rw [reg, setQueueAt, show (setPort t p _).regs = t.regs from rfl, hts, ← hctrl b (by simpa using hb), reg]
    · rw [hts, hws]
      rfl

end Sys2Proof.Machine

/-! Frames of the partner's messages (R320, R325, R326, R332). -/
namespace Sys2Proof.Machine

section
variable {w : List Part} (hn : Notices w) (htrack : .track ∈ w) (hegr : .egr ∈ w) (hacks : .acks ∈ w)
  (htwnClosed : .twnClosed ∈ w) (htwn : .twn ∈ w)
include hn htrack hegr hacks htwnClosed htwn

@[simp] theorem autoSync_outside (s : State) : (autoSync s).outside w = s.outside w := by
  unfold autoSync
  (repeat' split) <;> simp [hn, htrack, hegr, hacks, htwnClosed, htwn]

@[simp] theorem statusDriving_outside (s : State) (was : Nat) (m : TwinMsg) :
    (statusDriving s was m).outside w = s.outside w := by
  unfold statusDriving
  dsimp only
  (repeat' split) <;> simp [Twn.outside, hn, htrack, hegr, hacks, htwnClosed, htwn]

@[simp] theorem statusWaiting_outside (s : State) (m : TwinMsg) : (statusWaiting s m).outside w = s.outside w := by
  unfold statusWaiting
  (repeat' split) <;> simp [hn, htrack, hegr, hacks, htwnClosed, htwn]

@[simp] theorem statusMsg_outside (s : State) (m : TwinMsg) : (statusMsg s m).outside w = s.outside w := by
  unfold statusMsg
  simp [Twn.outside, hn, htrack, hegr, hacks, htwnClosed, htwn]

end

section
variable {w : List Part} (hhandles : .handles ∈ w)
include hhandles

@[simp] theorem bindHandle_outside (old c : Cfg) (h : Hoop) (s : State) (n : Nat) :
    (bindHandle old c h s n).outside w = s.outside w := by
  unfold bindHandle
  dsimp only
  (repeat' split) <;> simp [hhandles]

@[simp] theorem bindHandles_outside (s : State) (c : Cfg) (h : Hoop) :
    (bindHandles s c h).outside w = s.outside w := by
  unfold bindHandles
  simp [hhandles]

end

section
variable {w : List Part} (hn : Notices w) (hregs : .regs ∈ w) (htwn : .twn ∈ w)
include hn hregs htwn

@[simp] theorem compareRun_outside (s : State) (h : Hoop) : (compareRun s h).outside w = s.outside w := by
  unfold compareRun
  (repeat' split) <;> simp [Twn.outside, hn, hregs, htwn]

@[simp] theorem digestMsg_outside (s : State) (m : TwinMsg) : (digestMsg s m).outside w = s.outside w := by
  unfold digestMsg
  simp [Twn.outside, hn, hregs, htwn]

end

section
variable {w : List Part} (hn : Notices w) (htrack : .track ∈ w) (hmac : .mac ∈ w) (hacks : .acks ∈ w)
  (htwn : .twn ∈ w)
include hn htrack hmac hacks htwn

@[simp] theorem sendAcks_outside (s : State) : (sendAcks s).outside w = s.outside w := by
  unfold sendAcks
  simp [Twn.outside, hn, htrack, hmac, hacks, htwn]

@[simp] theorem ackNow_outside (s : State) (seq st : Nat) : (ackNow s seq st).outside w = s.outside w := by
  unfold ackNow
  simp [Twn.outside, hn, htrack, hmac, hacks, htwn]

end

section
variable {w : List Part} (htwn : .twn ∈ w)
include htwn

@[simp] theorem noteSeq_outside (s : State) (m : TwinMsg) : (noteSeq s m).outside w = s.outside w := by
  unfold noteSeq
  simp [Twn.outside, htwn]

end

section
variable {w : List Part} (hn : Notices w) (htwn : .twn ∈ w)
include hn htwn

@[simp] theorem linkSeen_outside (s : State) : (linkSeen s).outside w = s.outside w := by
  unfold linkSeen
  simp [Twn.outside, hn, htwn]

end

section
variable {w : List Part} (hhoopRegs : .hoopRegs ∈ w) (hhandles : .handles ∈ w) (hstages : .stages ∈ w)
include hhoopRegs hhandles hstages

@[simp] theorem acceptSet_outside (s : State) (e : EndState) : (acceptSet s e).outside w = s.outside w := by
  unfold acceptSet
  simp [HoopGen.outside, hhoopRegs, hhandles, hstages]

end


end Sys2Proof.Machine

/-! What the partner reports, and the sets that a standby follows (R320, R326, R327, R332, R340). -/
namespace Sys2Proof.Machine

/-! ### Messages taken -/

/-- What taking a message may change. -/
abbrev takeParts : List Part := [.counts, .fresh, .records, .outboxes, .out, .mac, .twn, .reg TWN_RX_DROP]

theorem assemble_outside {w : List Part} (h : .twn ∈ w) (s : State) (m : TwinMsg) : (assemble s m).2.outside w = s.outside w := by
  unfold assemble
  dsimp only
  (repeat' split) <;> simp [Twn.outside, h]

theorem twinTake_outside (s : State) (p : Nat) (bytes : List Byte) : (twinTake s p bytes).2.outside takeParts = s.outside takeParts := by
  have hn : Notices takeParts := ⟨by decide, by decide, by decide, by decide, by decide⟩
  have hdrop : mayChange takeParts TWN_RX_DROP := .inr (.inl (by decide))
  have hcheck := rxCheck_outside hn (by decide) s p bytes true 0
  unfold twinTake
  split
  · rfl
  · revert hcheck
    rcases rxCheck s p bytes true 0 with ⟨r, t⟩
    intro hcheck
    cases r with
    | frame f =>
      dsimp only
      split
      · split
        · exact (latchCount_outside t hdrop (by decide) _ _ _).trans hcheck
        split
        · exact (latchCount_outside t hdrop (by decide) _ _ _).trans hcheck
        · exact (assemble_outside (by decide) _ _).trans ((linkSeen_outside hn (by decide) _).trans
            ((noteSeq_outside (by decide) _ _).trans hcheck))
      · exact hcheck
    | _ => exact hcheck

section
variable {s t : State} {p kind : Nat} {frame : List Byte} {m : TwinMsg} (h : hears s p kind frame m t)
include h

theorem hears.outside : t.outside takeParts = s.outside takeParts := by
  obtain ⟨-, htake⟩ := h
  rw [← show (twinTake s p frame).2 = t from congrArg Prod.snd htake]
  exact twinTake_outside s p frame

theorem hears.acts (f : State → TwinMsg → State) : onTwin s p kind frame f = f t m := by
  obtain ⟨⟨b, hb, hkind⟩, htake⟩ := h
  unfold onTwin
  rw [hb]
  dsimp only
  rw [if_pos hkind, htake]

end

/-! ### STATUS -/

/-- What the partner is known to be. -/
def Twn.partnerView (t : Twn) : Nat × Bool × Bool := (t.partner, t.partnerDriving, t.partnerYield)

theorem view_of_acks {t u : Twn} (h : t = { u with acksDue := t.acksDue }) : t.partnerView = u.partnerView := by
  rw [h]
  rfl

theorem foldl_view {α : Type} {f : State → α → State} (hf : ∀ t x, (f t x).twn.partnerView = t.twn.partnerView) (l : List α) (s : State) :
    (l.foldl f s).twn.partnerView = s.twn.partnerView :=
  List.foldlRecOn (motive := fun t : State => t.twn.partnerView = s.twn.partnerView) l _ rfl fun t ht x _ => (hf t x).trans ht

theorem unjoin_view (s : State) : (unjoin s).twn.partnerView = s.twn.partnerView := by
  have hacks : ∀ t id, (settleAck t id).twn.partnerView = t.twn.partnerView := fun t id => view_of_acks
    (twn_acks_of_outside (settleAck_outside (w := sideParts) notices_sideParts (by decide) ..) (by decide) (by decide))
  unfold unjoin
  exact (foldl_view (fun t id => view_of_acks (finish_twn t id stState 0 0)) _ _).trans (foldl_view hacks _ _)

/-- A role that changes tells nothing of the partner. -/
theorem enterState_view (s : State) (st : TwinState) (driving : Bool) (cause : Nat) :
    (enterState s st driving cause).twn.partnerView = s.twn.partnerView := by
  unfold enterState
  extract_lets old was left step s1 src s2 s3 s4 s5
  have h1 : s1.twn.partnerView = s.twn.partnerView := by
    unfold s1
    split
    · exact unjoin_view s
    · rfl
  have h2 : s2.twn.partnerView = s1.twn.partnerView := rfl
  have h3 : s3.twn.partnerView = s2.twn.partnerView := by
    unfold s3
    split
    · exact foldl_view (fun t p => view_of_acks (twn_acks_of_outside
        (dropEgress_outside (w := sideParts) notices_sideParts (by decide) (by decide) (by decide) t p) (by decide) (by decide))) _ s2
    · rfl
  have h4 : s4.twn.partnerView = s3.twn.partnerView := by
    unfold s4
    split <;> rfl
  have h5 : s5.twn.partnerView = s4.twn.partnerView := by
    unfold s5
    split
    · exact foldl_view (fun t x => view_of_acks (finish_twn t x.id 0x51 0 0)) _ s4
    · rfl
  have hnotice : (stateNotice s5 old cause).twn = s5.twn := noticeBoth_twn ..
  rw [hnotice, h5, h4, h3, h2, h1]

theorem leaveActive_view (s : State) : (leaveActive s).twn.partnerView = s.twn.partnerView := by
  unfold leaveActive
  split
  · exact enterState_view ..
  · rfl

theorem statusDriving_view (s : State) (was : Nat) (m : TwinMsg) : (statusDriving s was m).twn.partnerView = s.twn.partnerView := by
  unfold statusDriving
  extract_lets entering joinedNow a b _ c
  have ha : a.twn.partnerView = s.twn.partnerView := by
    unfold a
    split
    · rfl
    · exact unjoin_view s
  have hb : b.twn.partnerView = a.twn.partnerView := by
    unfold b
    split
    · exact leaveActive_view a
    · rfl
  have hc : c.twn.partnerView = b.twn.partnerView := by
    unfold c
    split
    · exact enterState_view ..
    · rfl
  refine Eq.trans ?_ (hc.trans (hb.trans ha))
  (repeat' split) <;> rfl

theorem statusWaiting_view (s : State) (m : TwinMsg) : (statusWaiting s m).twn.partnerView = s.twn.partnerView := by
  unfold statusWaiting
  split
  · split
    · rfl
    · exact enterState_view ..
  · split
    · rfl
    · unfold loseStep
      split <;> rfl
  · unfold autoSync
    split
    · exact enterState_view ..
    · rfl

/-- STATUS of the roles in force gives the partner's state (R320). -/
theorem statusMsg_view {s : State} {m : TwinMsg}
    (h : ¬((s.twn.state = .active ∨ s.twn.state = .standby) ∧ later m.hoop s.twn.activeSince = true)) :
    (statusMsg s m).twn.partnerView = (m.state, m.driving, bitOf (byteAt m.payload 12) 0) := by
  unfold statusMsg
  extract_lets current _ a was changed _ b c
  have hb : b.twn.partnerView = (m.state, m.driving, bitOf (byteAt m.payload 12) 0) := rfl
  have hc : c.twn.partnerView = b.twn.partnerView := by
    unfold c
    split
    · exact congrArg Twn.partnerView (noticeBoth_twn ..)
    · rfl
  rw [if_neg (by simpa [a] using h)]
  split
  · rw [statusDriving_view, hc, hb]
  · rw [statusWaiting_view, hc, hb]

/-! ### DIGEST -/

theorem compareRun_partnerDigests (s : State) (h : Hoop) : (compareRun s h).twn.partnerDigests = s.twn.partnerDigests := by
  unfold compareRun
  dsimp only
  (repeat' split) <;> simp [setTwn]

/-! ### Forwarded messages -/

/-- What of the role says where a standby stands in the sets it follows. -/
def Twn.follow (t : Twn) : List Forwarded × List TwinMsg × TwinState × Bool × Option EndState × Option Hoop :=
  (t.received, t.behind, t.state, t.stepLost, t.closed, t.closedHoop)

theorem follow_of_acks {t u : Twn} (h : t = { u with acksDue := t.acksDue }) : t.follow = u.follow := by
  rw [h]
  rfl

theorem sendPlain_follow (s : State) (kind : Nat) (hoop : Hoop) (arg : Nat) (payload : List Byte) :
    (sendPlain s kind hoop arg payload).twn.follow = s.twn.follow := by
  unfold sendPlain sendTwin
  dsimp only
  split
  · refine List.foldlRecOn (motive := fun x : List (List Byte) × State => x.2.twn.follow = s.twn.follow) _ _ rfl fun x hx y _ => ?_
    exact ((follow_of_acks (handTwin_twn _ 37 6 _)).trans (follow_of_acks (handTwin_twn _ 36 6 _))).trans hx
  · rfl

/-- An ACK sent moves nothing that is followed. -/
theorem ackNow_follow (s : State) (seq st : Nat) : (ackNow s seq st).twn.follow = s.twn.follow := by
  unfold ackNow sendAcks
  exact List.foldlRecOn (motive := fun t : State => t.twn.follow = s.twn.follow) _ _ rfl
    fun t ht a _ => (sendPlain_follow t 8 _ _ _).trans ht

/-- A standby with nothing held back takes a message of a set at once. -/
theorem forwardedMsg_standby {s : State} (hst : s.twn.state = .standby) (hb : s.twn.behind = []) {m : TwinMsg}
    (hm : m.kind ≠ 3 ∨ m.arg ≠ noSet) (htake : (takeForwarded s m).twn.state = .standby) : forwardedMsg s m = takeForwarded s m := by
  have hself : setTwn s { s.twn with behind := [] } = s := by rw [← hb]; rfl
  unfold forwardedMsg
  rw [if_pos (.inr hst), hb]
  have hwait : mustWait (setTwn s { s.twn with behind := [m] }) m = false := by
    unfold mustWait
    rcases hm with h | h <;> simp [setTwn, hst, h]
  have hdrain : retryBehind (setTwn s { s.twn with behind := insertMsg m [] }) =
      readyCheck (takeForwarded s m) := by
    have hone : ∀ t : State, t.twn.behind = [m] → mustWait t m = false → setTwn t { t.twn with behind := [] } = s →
        retryBehind t = readyCheck (takeForwarded s m) := fun t ht hw hs => by
      unfold retryBehind
      rw [ht, List.length_singleton, drainBehind, ht]
      dsimp only
      rw [hw, hs, if_neg Bool.false_ne_true, drainBehind]
    exact hone _ rfl hwait hself
  rw [hdrain, readyCheck, if_neg (by simp [htake])]

/-- A member of a set is kept in its order. -/
theorem takeForwarded_member {s : State} {m : TwinMsg} (hk : m.kind = 3) (ha : m.arg ≠ noSet) :
    (takeForwarded s m).twn.follow = (insertForwarded ⟨m.seq, m.arg, parseDesc m.payload⟩ s.twn.received, s.twn.behind, s.twn.state,
      s.twn.stepLost, s.twn.closed, s.twn.closedHoop) := by
  unfold takeForwarded
  rw [if_neg (by rw [hk]; decide), if_neg ha, ackNow_follow]
  rfl

/-- The received members of other sets. -/
def withoutSet (s : State) (h : Hoop) : State :=
  { s with twn := { s.twn with received := s.twn.received.filter fun f => decide (f.set ≠ h.toNat) } }

section
variable {s : State} {m : TwinMsg} {mine : List Forwarded} (hmine : mine = s.twn.received.filter fun f => decide (f.set = m.hoop.toNat))
include hmine

theorem closeMsg_count (hst : s.twn.state = .standby) (hn : mine.length ≠ be m.payload 0 4) :
    closeMsg s m = { withoutSet s m.hoop with twn := { (withoutSet s m.hoop).twn with stepLost := true } } := by
  unfold closeMsg
  rw [if_pos (by rw [← hmine]; exact hn), loseStep, if_pos (by exact hst)]
  rfl

theorem closeMsg_empty (he : mine = []) (hn : be m.payload 0 4 = 0) :
    closeMsg s m = { withoutSet s m.hoop with twn := { (withoutSet s m.hoop).twn with closedHoop := some m.hoop } } := by
  unfold closeMsg
  rw [if_neg (by rw [← hmine, he, hn]; decide), if_pos (by rw [← hmine, he])]
  rfl

/-- The set of a CLOSE that agrees is judged as the partner did (R326). -/
theorem closeMsg_accepts {e : EndState} (hne : mine ≠ []) (hn : mine.length = be m.payload 0 4)
    (he : e = endStateOf (withoutSet s m.hoop) (mine.map twinMember)) (hchecks : setChecks (withoutSet s m.hoop) e = none)
    (harg : m.arg = stOk) (hlater : later m.hoop s.hoop.fNumber = false) : closeMsg s m =
      { acceptSet (withoutSet s m.hoop) e with
        twn := { (acceptSet (withoutSet s m.hoop) e).twn with closed := some e, closedHoop := some m.hoop } } := by
  subst he hmine
  unfold closeMsg
  extract_lets mine _ t passed judged e own
  have hown : own = stOk := by
    unfold own
    rw [show setChecks t e = none from hchecks]
    rfl
  rw [if_neg (not_not.2 hn), if_neg hne, if_neg (by rw [hown, harg]; exact not_not.2 rfl),
    if_neg (not_not.2 hown), if_neg (by rw [show passed = false from hlater]; decide)]
  rfl

end

/-- A standby that judges a CLOSE acknowledges it. -/
theorem forwardedMsg_close {s : State} (hst : s.twn.state = .standby) (hb : s.twn.behind = []) {m : TwinMsg} (hk : m.kind = 4)
    (hclose : (closeMsg s m).twn.state = .standby) : forwardedMsg s m = ackNow (closeMsg s m) m.seq stOk := by
  have htake : takeForwarded s m = ackNow (closeMsg s m) m.seq stOk := if_pos hk
  refine (forwardedMsg_standby hst hb (.inl (by rw [hk]; decide)) ?_).trans htake
  rw [htake]
  exact (congrArg (·.2.2.1) (ackNow_follow (closeMsg s m) m.seq stOk) :).trans hclose

/-- What of the role `Twn.follow` gives. -/
theorem follow_eq {t : Twn} {r : List Forwarded} {b : List TwinMsg} {st : TwinState} {l : Bool} {c : Option EndState} {h : Option Hoop}
    (ht : t.follow = (r, b, st, l, c, h)) :
    t.received = r ∧ t.behind = b ∧ t.state = st ∧ t.stepLost = l ∧ t.closed = c ∧ t.closedHoop = h := by
  simpa [Twn.follow] using ht

theorem ackNow_cfg (s : State) (seq st : Nat) : (ackNow s seq st).cfg = s.cfg :=
  cfg_of_outside (w := allBut [.cfg]) (by simp) (by simp)

section
variable {s t : State} {p : Fin 38} {frame : List Byte} {m : TwinMsg}

theorem hears.cfg {kind : Nat} (h : hears s p kind frame m t) : t.cfg = s.cfg := cfg_of_outside h.outside (by decide)

/-- A CLOSE judged as `u` leaves its outcome there. -/
theorem closeRx_spec {u : State} (h : hears s p 4 frame m t) (hk : m.kind = 4) (hst : t.twn.state = .standby) (hb : t.twn.behind = [])
    (hu : closeMsg t m = u) (hust : u.twn.state = .standby) (hucfg : u.cfg = t.cfg) :
    ∃ v, exec (.twinCloseRx p frame) s = .next v ∧ v.twn.stepLost = u.twn.stepLost ∧ v.twn.closed = u.twn.closed ∧
      v.twn.closedHoop = u.twn.closedHoop ∧ v.cfg = s.cfg := by
  have hmsg := forwardedMsg_close hst hb hk (hu ▸ hust)
  rw [hu] at hmsg
  obtain ⟨-, -, -, hlost, hclosed, hhoop⟩ := follow_eq (ackNow_follow u m.seq stOk)
  exact ⟨_, congrArg done ((h.acts forwardedMsg).trans hmsg), hlost, hclosed, hhoop, (ackNow_cfg ..).trans (hucfg.trans h.cfg)⟩

end

/-- Settles O48: STATUS, DIGEST and RESIGN write the partner's view and what follows of it, and a standby takes the messages of a
set as they come (`forwardedMsg_standby`). -/
theorem partnerLeads : Obligations.PartnerLeads := by
  unfold Obligations.PartnerLeads
  refine ⟨fun p frame m s t => ⟨fun h hrole => ?_, fun h => ?_, fun h hst first hfirst => ?_⟩, fun p frame m s t hst hb =>
    ⟨fun h hk ha => ?_, fun mine h hk hmine => ⟨fun hn => ?_, fun he hn => ?_, fun e hne hn he hchecks harg hlater => ?_⟩, fun h => ?_⟩⟩
  · have hview := statusMsg_view hrole
    simp only [Twn.partnerView, Prod.mk.injEq] at hview
    obtain ⟨hpartner, hdriving, hyield⟩ := hview
    exact ⟨_, congrArg done (h.acts statusMsg), hpartner, hdriving, hyield,
      (cfg_of_outside (w := allBut [.cfg]) (by simp) (by simp) : (statusMsg t m).cfg = t.cfg).trans h.cfg⟩
  · have hout : (digestMsg t m).outside (allBut [.cfg, .egr]) = t.outside (allBut [.cfg, .egr]) := by simp
    refine ⟨_, congrArg done (h.acts digestMsg), compareRun_partnerDigests .., (cfg_of_outside hout (by simp)).trans h.cfg, ?_⟩
    exact congrArg Egr.digests ((egr_of_outside hout (by simp)).trans (egr_of_outside h.outside (by decide)))
  · refine congrArg done ((h.acts resignMsg).trans ?_)
    rw [resignMsg, if_pos hst, hfirst]
    rfl
  · have hfollow := takeForwarded_member (s := t) hk ha
    have hmsg := forwardedMsg_standby hst hb (.inr ha) ((follow_eq hfollow).2.2.1.trans hst)
    rw [← hmsg] at hfollow
    obtain ⟨hrec, hbehind, hstate, -⟩ := follow_eq hfollow
    refine ⟨_, congrArg done (h.acts forwardedMsg), hrec, hbehind.trans hb, hstate.trans hst, ?_⟩
    rw [hmsg, takeForwarded, if_neg (by rw [hk]; decide), if_neg ha, ackNow_cfg]
    exact h.cfg
  · obtain ⟨v, hv, hlost, hclosed, -, hcfg⟩ := closeRx_spec h hk hst hb (closeMsg_count hmine hst hn) hst rfl
    exact ⟨v, hv, hlost, hclosed, hcfg⟩
  · obtain ⟨v, hv, hlost, -, hhoop, hcfg⟩ := closeRx_spec h hk hst hb (closeMsg_empty hmine he hn) hst rfl
    exact ⟨v, hv, hhoop, hlost, hcfg⟩
  · have hout : (acceptSet (withoutSet t m.hoop) e).outside [.hoopRegs, .handles, .stages] =
        (withoutSet t m.hoop).outside [.hoopRegs, .handles, .stages] := acceptSet_outside (by decide) (by decide) (by decide) ..
    have hstate : (acceptSet (withoutSet t m.hoop) e).twn.state = .standby := by
      rw [twn_of_outside hout (by decide) (by decide) (by decide)]
      exact hst
    obtain ⟨v, hv, -, hclosed, hhoop, hcfg⟩ := closeRx_spec h hk hst hb (closeMsg_accepts hmine hne hn he hchecks harg hlater) hstate
      (cfg_of_outside hout (by decide) :)
    exact ⟨v, hv, hclosed, hhoop, hcfg⟩
  · refine congrArg done ((h.acts liveMsg).trans ?_)
    rw [liveMsg, if_pos (.inr hst)]
    rfl

end Sys2Proof.Machine

/-! Frames of lane passes that stop, and of a store that goes on (R236, R250, R410, R417). -/
namespace Sys2Proof.Machine

section
variable {w : List Part} (hout : .out ∈ w)
include hout

@[simp] theorem emitLanes_outside (s : State) (g : Nat) (y2 : Show) (q : Seq) (t : Nat) (f : Nat → List LaneEvent) :
    (emitLanes s g y2 q t f).outside w = s.outside w := by
  unfold emitLanes
  simp [hout]

@[simp] theorem emitBack_outside (s : State) (g : Nat) (y2 : Show) (q : Seq) (t : Nat) :
    (emitBack s g y2 q t).outside w = s.outside w := by
  unfold emitBack
  (repeat' split) <;> simp [hout]

end

section
variable {w : List Part} (hsti : .sti ∈ w) (hout : .out ∈ w)
include hsti hout

@[simp] theorem emitRow_outside (s : State) (g : Nat) (q : Seq) (t : Nat) (st : LaneStep) :
    (emitRow s g q t st).outside w = s.outside w := by
  unfold emitRow
  (repeat' split) <;> simp [hsti, hout]

@[simp] theorem emitStep_outside (s : State) (g : Nat) (y2 : Show) (q : Seq) (t : Nat) (st : LaneStep) :
    (emitStep s g y2 q t st).outside w = s.outside w := by
  unfold emitStep
  (repeat' split) <;> simp [hsti, hout]

@[simp] theorem stopPass_outside (s : State) (g : Nat) : (stopPass s g).outside w = s.outside w := by
  unfold stopPass
  (repeat' split) <;> simp [hsti, hout]

end

section
variable {w : List Part} (hjobs : .jobs ∈ w)
include hjobs

@[simp] theorem repairLater_outside (s : State) : (repairLater s).outside w = s.outside w := by
  unfold repairLater
  (repeat' split) <;> simp [Upd.outside, hjobs]

end

section
variable {w : List Part} (hn : Notices w)
include hn

@[simp] theorem supplyWait_outside (s : State) (on : Bool) : (supplyWait s on).outside w = s.outside w := by
  unfold supplyWait
  simp [hn]

end

section
variable {w : List Part} (hn : Notices w) (htrack : .track ∈ w) (hshared : .shared ∈ w) (hjobs : .jobs ∈ w)
  (hupd : .upd ∈ w) (hacks : .acks ∈ w)
include hn htrack hshared hjobs hupd hacks

@[simp] theorem storeResume_outside (s : State) : (storeResume s).outside w = s.outside w := by
  unfold storeResume
  (repeat' split) <;> simp [hn, htrack, hshared, hjobs, hupd, hacks]

end


end Sys2Proof.Machine

/-! The lane groups: what a write of one group leaves of the others, and what a pass that stops leaves of its group (R236,
R250). -/
namespace Sys2Proof.Machine

theorem sti_of_outside {w : List Part} {s t : State} (h : t.outside w = s.outside w) (hw : .sti ∉ w) : t.sti = s.sti := by
  simpa [State.outside, hw] using congrArg State.sti h

theorem glb_of_outside {w : List Part} {s t : State} (h : t.outside w = s.outside w) (hw : .glb ∉ w) : t.glb = s.glb := by
  simpa [State.outside, hw] using congrArg State.glb h

theorem laneOf_congr {s t : State} (h : t.sti = s.sti) (g : Nat) : laneOf t g = laneOf s g := by rw [laneOf, laneOf, h]

section
variable {s : State} (hs : s.canon)
include hs

theorem laneOf_setLane (g k : Nat) (x : Lane) : laneOf (setLane s g x) k = if k = g then x else laneOf s k :=
  tget_tput hs.sti.lanes

theorem laneOf_setLane_self (g : Nat) (x : Lane) : laneOf (setLane s g x) g = x := by
  rw [laneOf_setLane hs, if_pos rfl]

theorem laneOf_setLane_other {g k : Nat} (h : k ≠ g) (x : Lane) : laneOf (setLane s g x) k = laneOf s k := by
  rw [laneOf_setLane hs, if_neg h]

end

/-- The address that a group's address lines show now: that of a ROW step that has run for its PRE ticks, else the last. -/
def shownAddr (s : State) (g : Nat) : Nat :=
  match (laneOf s g).cur, (laneOf s g).seq with
  | some w, some q =>
    match stepNow w q with
    | some (.row a pre _) => if q.began + pre ≤ (s.tim.elapsedQ - q.start) / tickQ then a else (laneOf s g).addr
    | _ => (laneOf s g).addr
  | _, _ => (laneOf s g).addr

theorem addressLines_of_laneEn {s : State} {g : Nat} (h : laneEn s g = true) : addressLines s g = some (shownAddr s g) := by
  unfold addressLines shownAddr
  simp only [h]
  cases (laneOf s g).cur with
  | none => rfl
  | some w =>
    cases (laneOf s g).seq with
    | none => rfl
    | some q =>
      dsimp only
      cases stepNow w q with
      | none => rfl
      | some st => cases st <;> rfl

/-- What a step in progress leaves of its group once its time up to tick `t` has passed: the address of a ROW. -/
def rowAddr (x : Lane) (q : Seq) (t : Nat) : LaneStep → Lane
  | .row a pre _ => if q.began + pre ≤ t then { x with addr := a } else x
  | _ => x

theorem laneOf_emitStep {s : State} (hs : s.canon) (g k : Nat) (w : Show) (q : Seq) (t : Nat) (st : LaneStep) :
    laneOf (emitStep s g w q t st) k = if k = g then rowAddr (laneOf s g) q t st else laneOf s k := by
  have hsame : laneOf s k = if k = g then laneOf s g else laneOf s k := by
    split
    next h => rw [h]
    next => rfl
  unfold emitStep emitRow
  cases st with
  | row a pre post =>
    dsimp only [rowAddr]
    split
    · exact laneOf_setLane hs g k _
    · exact hsame
  | _ => exact hsame

theorem emitStep_canon {s : State} (hs : s.canon) (g : Nat) (w : Show) (q : Seq) (t : Nat) (st : LaneStep) :
    (emitStep s g w q t st).canon := (emitStep_keeps s g w q t st (.refl s)).canon hs

theorem emitBack_sti (s : State) (g : Nat) (w : Show) (q : Seq) (t : Nat) : (emitBack s g w q t).sti = s.sti := by
  unfold emitBack
  split <;> rfl

/-- A pass that stops leaves its group without one, and what the address lines show; no other group changes. -/
theorem laneOf_stopPass {s : State} (hs : s.canon) (g k : Nat) :
    laneOf (stopPass s g) k = if k = g then { laneOf s g with seq := none, addr := shownAddr s g } else laneOf s k := by
  have hstop : ∀ t : State, t.canon → (∀ k, laneOf t k = if k = g then { laneOf s g with addr := shownAddr s g } else laneOf s k) →
      laneOf (setLane t g { laneOf t g with seq := none }) k =
        if k = g then { laneOf s g with seq := none, addr := shownAddr s g } else laneOf s k := by
    intro t ht hl
    rw [laneOf_setLane ht]
    split
    · rw [hl, if_pos rfl]
    next hk => rw [hl, if_neg hk]
  have hkept : ∀ {x : Lane}, laneOf s g = x → ∀ k, laneOf s k = if k = g then x else laneOf s k := by
    intro x hx k
    split
    next h => rw [h, hx]
    next => rfl
  unfold stopPass
  split
  next w q hc hq =>
    dsimp only
    have haddr : shownAddr s g = match stepNow w q with
        | some (.row a pre _) => if q.began + pre ≤ (s.tim.elapsedQ - q.start) / tickQ then a else (laneOf s g).addr
        | _ => (laneOf s g).addr := by
      unfold shownAddr
      rw [hc, hq]
    split
    next st hst =>
      refine hstop _ ((emitBack_keeps _ g w q _ (.refl _)).canon (emitStep_canon hs g w q _ st)) fun k => ?_
      rw [laneOf_congr (emitBack_sti ..), laneOf_emitStep hs, haddr, hst]
      congr 1
      cases st with
      | row a pre post =>
        dsimp only [rowAddr]
        split <;> rfl
      | _ => rfl
    next hst =>
      refine hstop _ ((emitBack_keeps _ g w q _ (.refl _)).canon hs) fun k => ?_
      rw [laneOf_congr (emitBack_sti ..), haddr, hst]
      exact hkept rfl k
  next hno =>
    refine hstop _ hs (hkept ?_)
    have haddr : shownAddr s g = (laneOf s g).addr := by
      unfold shownAddr
      split
      next w q hc hq => exact absurd hq (hno w q hc)
      next => rfl
    rw [haddr]

theorem stopPass_canon {s : State} (hs : s.canon) (g : Nat) : (stopPass s g).canon := (stopPass_keeps s g (.refl s)).canon hs

end Sys2Proof.Machine

/-! Clock halt, package memory errors, the behaviour revision and write permission (R442, R445, R447, R459, R460, R468). -/
namespace Sys2Proof.Machine

/-! ### The counts that one notice raises (R61, R372) -/

theorem writeNotice_regs (s : State) (m : Nat) (n : Notice) : (writeNotice s m n).regs = s.regs := by
  unfold writeNotice countRecord signalVector
  dsimp only
  split
  · split <;> rfl
  · rfl

theorem latchCount_twf {s : State} (h : twf regReset s.regs = true) (a hi lo n : Nat) :
    twf regReset (latchCount s a hi lo n).regs = true := by
  rw [latchCount, regs_setLatch]
  exact tput_twf h

theorem reg_latchCount_other {s : State} (h : twf regReset s.regs = true) {a b : Nat} (hb : b ≠ a) (hi lo n : Nat) :
    reg (latchCount s a hi lo n) b = reg s b := by
  rw [latchCount, reg_setLatch h, if_neg hb]

/-- A counting field has risen by `n`, up to its greatest value (R12). -/
theorem regFld_latchCount {s : State} (h : twf regReset s.regs = true) (a : Nat) {hi lo : Nat} (n : Nat) (hhi : hi < 32) :
    regFld (latchCount s a hi lo n) a hi lo = min (regFld s a hi lo + n) (2 ^ (hi + 1 - lo) - 1) := by
  have hlt : min (regFld s a hi lo + n) (2 ^ (hi + 1 - lo) - 1) < 2 ^ (hi + 1 - lo) :=
    (Nat.min_le_right _ _).trans_lt (Nat.sub_lt (Nat.two_pow_pos _) one_pos)
  rw [regFld, latchCount, reg_setLatch h, if_pos rfl]
  exact fld_setFld _ hhi hlt

theorem hostNotice_reg {s : State} (h : twf regReset s.regs = true) {a : Nat} (ha : ∀ m, a ≠ HIF_CQ_STAT m) (n : Notice) :
    twf regReset (hostNotice s n).regs = true ∧ reg (hostNotice s n) a = reg s a := by
  have hf : twf regReset (flushLost s).regs = true := by rwa [flushLost_regs]
  have hreg : reg (flushLost s) a = reg s a := congrArg (fun m => tget regReset m a) (flushLost_regs s)
  unfold hostNotice
  dsimp only
  split
  next m _ =>
    split
    · rw [writeNotice_regs]
      exact ⟨hf, (congrArg (fun m => tget regReset m a) (writeNotice_regs ..)).trans hreg⟩
    · exact ⟨latchCount_twf hf .., (reg_latchCount_other hf (ha m) ..).trans hreg⟩
  next => exact ⟨hf, hreg⟩

/-- A notice raises no register but the counts of the host's rings, of the queues, and of its own source. -/
theorem reg_noticeBoth_away {s : State} (h : twf regReset s.regs = true) {a code : Nat} (inst detail : Nat) (hcode : code / 256 ≠ 12)
    (hq : ∀ q, a ≠ NQ_CNT q) (hm : ∀ m, a ≠ HIF_CQ_STAT m) (hsrc : a ≠ CCS_SRC_DROP (code / 256)) :
    reg (noticeBoth s code inst detail) a = reg s a := by
  obtain ⟨ht, hreg⟩ := hostNotice_reg h hm ⟨code, inst, s.hoop.number, detail⟩
  have hs : noticeSource ⟨code, inst, s.hoop.number, detail⟩ = code / 256 := if_neg hcode
  refine Eq.trans ?_ hreg
  exact placePacket_reg ht (hq _) (by rwa [hs])

/-! ### Package memory (R445) -/

theorem memWord_spec {s : State} (hs : s.canon) (stack addr : Nat) :
    (memWord s stack addr .uncorrectable).glb.eccAddr = addr ∧
      regFld (memWord s stack addr .uncorrectable) MEM_ECC_COUNT 31 16 = min (regFld s MEM_ECC_COUNT 31 16 + 1) 65535 ∧
      keepsRegs [MEM_ECC_COUNT] s (memWord s stack addr .uncorrectable) ∧ (memWord s stack addr .uncorrectable).lay = s.lay := by
  let t : State := { s with glb := { s.glb with eccAddr := addr } }
  have ht : twf regReset t.regs = true := hs.regs
  have hl := latchCount_twf ht MEM_ECC_COUNT 31 16 1
  have hu : memWord s stack addr .uncorrectable =
      noticeBoth (latchCount t MEM_ECC_COUNT 31 16 1) 0x1301 (stack % 2) (addr % 2 ^ 64) := rfl
  rw [hu]
  refine ⟨?_, ?_, fun a ha hn => ?_, (noticeBoth_lay ..).trans (latchCount_lay ..)⟩
  · rw [noticeBoth_glb, latchCount_glb]
  · have haway : reg (noticeBoth (latchCount t MEM_ECC_COUNT 31 16 1) 0x1301 (stack % 2) (addr % 2 ^ 64)) MEM_ECC_COUNT =
        reg (latchCount t MEM_ECC_COUNT 31 16 1) MEM_ECC_COUNT :=
      reg_noticeBoth_away hl _ _ (by decide) (fun q => by unfold MEM_ECC_COUNT NQ_CNT; omega)
        (fun m => by unfold MEM_ECC_COUNT HIF_CQ_STAT; omega) (by decide)
    rw [regFld, haway]
    exact regFld_latchCount ht MEM_ECC_COUNT 1 (by decide)
  · rw [reg_noticeBoth _ _ _ hl hn, reg_latchCount_other ht (by simpa using ha)]
    rfl

/-! ### The behaviour revision (R447) -/

theorem regRow_glbBehav : regRow GLB_BEHAV = some ⟨0x10, 0, 0, 1, 2, 0xFF, 0, [], 0⟩ := by decide +kernel

theorem behavWrite_spec {s : State} (hs : s.canon) {v : Word} (hrun : s.hoop.running = false) (hv : fld v 7 0 = 1 ∨ fld v 7 0 = 2) :
    regFld (behavWrite s v) GLB_BEHAV 7 0 = fld v 7 0 ∧ keepsRegs [GLB_BEHAV] s (behavWrite s v) ∧
      behavWrite s v = { s with regs := (behavWrite s v).regs } := by
  have hu : behavWrite s v = plainWrite s GLB_BEHAV v := by simp [behavWrite, hrun, hv]
  rw [hu]
  exact ⟨regFld_plainWrite_set hs.regs regRow_glbBehav rfl rfl (by decide) v, plainWrite_keepsRegs hs.regs _ v, plainWrite_eq_regs s _ v⟩

/-! ### Clock halt (R442) -/

/-- What a halted clock leaves of the lane groups: none has a pass in progress. -/
theorem seq_floatLanes {s : State} (hs : s.canon) (n : Nat) :
    ((List.range n).foldl floatLane s).canon ∧ ∀ g, g < n → (laneOf ((List.range n).foldl floatLane s) g).seq = none := by
  induction n with
  | zero => exact ⟨hs, fun g hg => absurd hg (Nat.not_lt_zero g)⟩
  | succ n ih =>
    obtain ⟨hc, hl⟩ := ih
    rw [List.range_succ, List.foldl_append]
    refine ⟨stopPass_canon hc n, fun g hg => ?_⟩
    change (laneOf (stopPass _ n) g).seq = none
    rw [laneOf_stopPass hc]
    split
    · rfl
    next hne => exact hl g (by omega)

/-- The parts that a halted clock reaches. -/
abbrev haltParts : List Part := [.counts, .fresh, .records, .outboxes, .out, .sti]

theorem setTim_ite (c : Prop) [Decidable c] (s : State) (t : Tim) :
    (if c then setTim s t else s) = setTim s (if c then t else s.tim) := by split <;> rfl

theorem clockLoss_spec {s : State} (hs : s.canon) {domain : Nat} (h0 : domain ≠ 0) (h7 : domain < 7) (hrel : resetReleased s = true)
    (hno : s.glb.halted = none) : let u := clockLoss s domain
    u.glb.halted = some domain ∧ u.twn.hbOut = false ∧ u.tim.running = (if domain = 6 then false else s.tim.running) ∧
      (∀ g, (laneOf u g).seq = none ∨ 4 ≤ g) ∧ u.cfg = s.cfg := by
  let a : State := setTwn { s with glb := { s.glb with halted := some domain } } { s.twn with hbOut := false }
  let b : State := (List.range 4).foldl floatLane a
  let c : State := if domain = 6 then setTim b { b.tim with running := false } else b
  let u : State := if domain = 5 then c else notice c 0x0002 0 domain true false
  have hu : clockLoss s domain = u := by
    unfold clockLoss
    rw [if_neg (by simp [hrel, hno]; omega)]
  have ha : a.canon := by
    have hg : ({ s with glb := { s.glb with halted := some domain } } : State).canon := { hs with }
    exact { hg with twn := { hs.twn with } }
  have hb : b.outside [.out, .sti] = a.outside [.out, .sti] :=
    foldl_outside (fun t g => stopPass_outside (w := [.out, .sti]) (by simp) (by simp) t g) _ _
  have hlanes := (seq_floatLanes ha 4).2
  have hbtim : b.tim = s.tim := (tim_of_outside hb (by simp) (by simp) (by simp)).trans rfl
  have hn : NoticesOnly c u := by
    show NoticesOnly c (if domain = 5 then c else _)
    exact NoticesOnly.ite (.refl c) (notice_noticesOnly _ _ _ _ _ (.refl c))
  have hc : c = setTim b (if domain = 6 then { b.tim with running := false } else b.tim) := setTim_ite ..
  have hut : u.tim = c.tim := (congrArg State.tim hn.fields :)
  have hug : u.glb = b.glb := ((congrArg State.glb hn.fields :).trans (congrArg State.glb hc :) :)
  have hus : u.sti = b.sti := ((congrArg State.sti hn.fields :).trans (congrArg State.sti hc :) :)
  have huc : u.cfg = b.cfg := ((congrArg State.cfg hn.fields :).trans (congrArg State.cfg hc :) :)
  have huw : u.twn = b.twn := ((congrArg State.twn hn.fields :).trans (congrArg State.twn hc :) :)
  rw [hu]
  refine ⟨?_, ?_, ?_, fun g => ?_, ?_⟩
  · rw [hug, glb_of_outside hb (by simp)]
    rfl
  · rw [huw, twn_of_outside hb (by simp) (by simp) (by simp)]
    rfl
  · rw [hut, hc, setTim, hbtim]
    exact apply_ite Tim.running _ _ _
  · rw [laneOf_congr hus]
    exact (Nat.lt_or_ge g 4).imp_left (hlanes g)
  · rw [huc, cfg_of_outside hb (by simp)]
    rfl

/-! ### The supply monitor (R459, R460, R468) -/

theorem refuseWrites_spec {s : State} (hs : s.canon) {n : Nat} (hn : refuseRail n = true) : let u := refuseWrites s n
    u.psm.writeOk = false ∧ u.psm.refusing = s.psm.refusing ||| 2 ^ (n - 1) ∧
      regFld u PSM_REFUSALS 15 0 = (if s.psm.writeOk then min (regFld s PSM_REFUSALS 15 0 + 1) 65535 else regFld s PSM_REFUSALS 15 0) ∧
      keepsRegs [PSM_REFUSALS] s u ∧ u.keep = s.keep := by
  let m := s.psm.refusing ||| 2 ^ (n - 1)
  let t : State := { s with psm := { s.psm with refusing := m, writeOk := false } }
  have ht : twf regReset t.regs = true := hs.regs
  have hu : refuseWrites s n =
      if s.psm.writeOk then noticeBoth (latchCount t PSM_REFUSALS 15 0 1) 0x0301 0 (lowestRefusing m * 256) else t := by
    unfold refuseWrites
    rw [hn]
    rfl
  rw [hu]
  cases s.psm.writeOk with
  | false => exact ⟨rfl, rfl, rfl, fun _ _ _ => rfl, rfl⟩
  | true =>
    have hl := latchCount_twf ht PSM_REFUSALS 15 0 1
    refine ⟨?_, ?_, ?_, fun a ha hna => ?_, ?_⟩
    · exact congrArg Psm.writeOk ((noticeBoth_psm ..).trans (latchCount_psm ..))
    · exact congrArg Psm.refusing ((noticeBoth_psm ..).trans (latchCount_psm ..))
    · rw [if_pos rfl, if_pos rfl, regFld, reg_noticeBoth _ _ _ hl (notCounted (by decide) (by decide))]
      exact regFld_latchCount ht PSM_REFUSALS 1 (by decide)
    · rw [if_pos rfl, reg_noticeBoth _ _ _ hl hna, reg_latchCount_other ht (by simpa using ha)]
      rfl
    · exact (noticeBoth_keep ..).trans (latchCount_keep ..)

theorem psm_of_outside {w : List Part} {s t : State} (h : t.outside w = s.outside w) (hw : .psm ∉ w) : t.psm = s.psm := by
  simpa [State.outside, hw] using congrArg State.psm h

/-- The parts that a store goes on with. -/
abbrev resumeParts : List Part := [.counts, .fresh, .records, .outboxes, .out, .track, .shared, .jobs, .upd, .acks]

theorem keyResume_eq (s : State) : keyResume s = { s with key := (keyResume s).key } := by
  unfold keyResume
  split <;> rfl

theorem keyResume_job (s : State) : ∀ j, (keyResume s).key.job = some j → j.waiting = none := by
  unfold keyResume
  split
  · rintro j ⟨⟩
    rfl
  next hno => exact fun j hj => absurd hj (by simp [hno])

theorem grantWrites_spec {s : State} (hno : s.psm.writeOk = false) (hrel : resetReleased s = true) : let u := grantWrites s
    u.psm.writeOk = true ∧ u.psm.refusing = 0 ∧ (∀ j, u.key.job = some j → j.waiting = none) ∧ u.cfg = s.cfg := by
  let t : State := { s with psm := { s.psm with refusing := 0, writeOk := true } }
  let v : State := keyResume (noticeBoth t 0x0301 0 1)
  have hu : grantWrites s = storeResume v := by
    unfold grantWrites
    rw [if_neg (by simp [hno, hrel])]
  have ho : (storeResume v).outside resumeParts = v.outside resumeParts :=
    storeResume_outside (by constructor <;> decide) (by decide) (by decide) (by decide) (by decide) (by decide) v
  have hp : v.psm = t.psm := (congrArg State.psm (keyResume_eq _)).trans (noticeBoth_psm ..)
  rw [hu]
  refine ⟨?_, ?_, ?_, ?_⟩
  · rw [psm_of_outside ho (by decide), hp]
  · rw [psm_of_outside ho (by decide), hp]
  · rw [key_of_outside ho (by decide)]
    exact keyResume_job _
  · rw [cfg_of_outside ho (by decide)]
    exact (congrArg State.cfg (keyResume_eq _)).trans (noticeBoth_cfg ..)

/-- A table filled for 1 to `n` holds each of those values, whatever it held before. -/
theorem tget_fill {m : Table Nat} (hm : twf (fun _ => 0) m = true) (f : Nat → Nat) (n : Nat) :
    twf (fun _ => 0) ((List.range n).foldl (fun t i => tput (fun _ => 0) t (i + 1) (f i)) m) = true ∧
      ∀ i, i < n → tget (fun _ => 0) ((List.range n).foldl (fun t i => tput (fun _ => 0) t (i + 1) (f i)) m) (i + 1) = f i := by
  induction n with
  | zero => exact ⟨hm, fun i hi => absurd hi (Nat.not_lt_zero i)⟩
  | succ n ih =>
    obtain ⟨hc, hl⟩ := ih
    rw [List.range_succ, List.foldl_append]
    refine ⟨tput_twf hc, fun i hi => ?_⟩
    change tget _ (tput _ _ (n + 1) (f n)) (i + 1) = f i
    rw [tget_tput hc]
    split
    next h => rw [Nat.succ.inj h]
    next hne => exact hl i (by omega)

theorem sensorUpdate_spec {s : State} (hs : s.canon) (tj : Int) (hbm : List Int) (mv : List Nat) : let u := sensorUpdate s tj hbm mv
    u.psm.tj = clampI (-65536) 65535 tj ∧ u.psm.hbm = (hbm.take 2).map (clampI (-65536) 65535) ∧
      u.psm.inRange = railsInRange mv ∧ (∀ i, i < 9 → tget (fun _ => 0) u.psm.mv (i + 1) = (mv[i]?).getD 0 % 65536) ∧
      u.psm.writeOk = s.psm.writeOk ∧ onlyNotices s { u with psm := s.psm } := by
  have hpost : ∀ (t : State) (c : Prop) [Decidable c] (d : Nat), NoticesOnly t (if c then noticeBoth t 0x0302 0 d else t) :=
    fun t _ _ d => .ite (noticeBoth_only t 0x0302 0 d) (.refl t)
  have hfill := (tget_fill (m := s.psm.mv) hs.psm.mv (fun i => (mv[i]?).getD 0 % 65536) 9).2
  unfold sensorUpdate
  extract_lets c limit hot armed _ t u
  have hn : NoticesOnly t u := hpost t _ _
  have hp : u.psm = t.psm := (congrArg State.psm hn.fields :)
  rw [hp]
  refine ⟨rfl, rfl, rfl, hfill, rfl, ?_⟩
  have hf := hn.fields
  unfold onlyNotices at hf ⊢
  rw [hf]

/-- Settles O57: each event of the supply and the clocks has its own effect. -/
theorem faultsAndSupply : Obligations.FaultsAndSupply := by
  unfold Obligations.FaultsAndSupply
  refine ⟨fun s hs => ⟨fun domain h0 hrel hno => ?_, fun stack addr => ?_, fun v hrun hv => ?_, fun v hv => ?_⟩,
    fun s hs => ⟨fun rail hr => ?_, fun hno hrel => ?_, fun tj hbm mv => ?_⟩⟩
  · obtain ⟨hh, hw, ht, hl, hc⟩ := clockLoss_spec hs (fun h => h0 (Fin.ext h)) domain.isLt hrel hno
    refine ⟨_, rfl, hh, hw, ?_, fun p => ?_, hl, hc⟩
    · rw [ht]
      simp only [Fin.ext_iff]
      rfl
    · simp [lifted, hh]
  · exact ⟨rfl, rfl, _, rfl, memWord_spec hs stack addr⟩
  · exact ⟨_, rfl, behavWrite_spec hs hrun hv⟩
  · exact congrArg done (if_pos (by simpa using hv))
  · refine ⟨_, rfl, refuseWrites_spec hs (decide_eq_true ?_)⟩
    simpa [Fin.ext_iff] using hr
  · exact ⟨_, rfl, grantWrites_spec hno hrel⟩
  · exact ⟨_, rfl, sensorUpdate_spec hs tj hbm mv⟩

end Sys2Proof.Machine

/-! Frames of passes that start and of sensor reads (R244, R253 to R255). -/
namespace Sys2Proof.Machine

section
variable {w : List Part} (hsti : .sti ∈ w)
include hsti

@[simp] theorem endPass_outside (s : State) (g t : Nat) : (endPass s g t).outside w = s.outside w := by
  unfold endPass
  simp [hsti]

@[simp] theorem beginStep_outside (s : State) (g : Nat) (y2 : Show) (q : Seq) (t : Nat) :
    (beginStep s g y2 q t).outside w = s.outside w := by
  unfold beginStep
  (repeat' split) <;> simp [hsti]

end

section
variable {w : List Part} (hout : .out ∈ w)
include hout

@[simp] theorem emitRead_outside (s : State) (g n : Nat) : (emitRead s g n).outside w = s.outside w := by
  unfold emitRead
  simp [hout]

end

section
variable {w : List Part} (hn : Notices w) (hsti : .sti ∈ w)
include hn hsti

@[simp] theorem sensorState_outside (s : State) (g n cause : Nat) :
    (sensorState s g n cause).outside w = s.outside w := by
  unfold sensorState
  simp [hn, hsti]

end

section
variable {w : List Part} (hn : Notices w) (hsti : .sti ∈ w) (hout : .out ∈ w)
include hn hsti hout

@[simp] theorem pollReads_outside (g : Nat) (rs : List SensorRead) (n : Nat) (top : Option Int) (s : State) :
    (pollReads g rs n top s).2.outside w = s.outside w := by
  induction rs generalizing n top s with
  | nil => rfl
  | cons r rs ih =>
    unfold pollReads
    split
    · exact ih ..
    · cases r with
      | stuck => simp [hn, hsti, hout]
      | _ => exact (ih ..).trans (by simp [hn, hsti, hout])

end

section
variable {w : List Part} (hn : Notices w) (hsti : .sti ∈ w) (hout : .out ∈ w) (hfreeCount : .freeCount ∈ w)
include hn hsti hout hfreeCount

@[simp] theorem startPass_outside (s : State) (g : Nat) (y2 : Show) (nxt : Option Show) (e : EccRead) :
    (startPass s g y2 nxt e).outside w = s.outside w := by
  have hstop : (if (laneOf s g).seq.isSome then stopPass s g else s).outside w = s.outside w := by
    split <;> simp [hsti, hout]
  unfold startPass
  extract_lets t x y
  have hset : ∀ (u : State) (z : Lane), u.outside w = s.outside w → (setLane u g z).outside w = s.outside w :=
    fun u z hu => (setLane_outside u hsti g z).trans hu
  split
  · exact hset _ _ hstop
  · cases e <;> exact (beginStep_outside hsti ..).trans (by simp [hn, hsti, hfreeCount, t, hstop])

end

end Sys2Proof.Machine

/-! Local lane groups: passes, the sequencer, EN and the sensors (R236, R244, R250, R253 to R255). -/
namespace Sys2Proof.Machine

/-- The lane groups but `g` have kept what they hold. -/
def otherLanes (g : Nat) (s t : State) : Prop := ∀ k, k ≠ g → laneOf t k = laneOf s k

theorem otherLanes.trans {g : Nat} {s t u : State} (h : otherLanes g s t) (h' : otherLanes g t u) : otherLanes g s u :=
  fun k hk => (h' k hk).trans (h k hk)

theorem otherLanes_of_sti {g : Nat} {s t : State} (h : t.sti = s.sti) : otherLanes g s t := fun k _ => laneOf_congr h k

theorem setLane_otherLanes {s : State} (hs : s.canon) (g : Nat) (x : Lane) : otherLanes g s (setLane s g x) :=
  fun _ hk => laneOf_setLane_other hs hk x

theorem laneEn_congr {s t : State} {g : Nat} (hr : reg t (STI_LANE_CTRL g) = reg s (STI_LANE_CTRL g)) (hg : t.glb = s.glb) :
    laneEn t g = laneEn s g := by rw [laneEn, laneEn, regBit_congr hr, hg]

theorem laneCtrl_notCounted {g : Nat} (hg : g < 4) : ¬ noticeReg (STI_LANE_CTRL g) :=
  notCounted (by unfold STI_LANE_CTRL; omega) (by unfold STI_LANE_CTRL; omega)

/-! ### Steps of the sequencer (R236) -/

/-- The sequencer as step `st` starts at tick `t`. -/
def Seq.begin (q : Seq) (w : Show) (st : LaneStep) (t : Nat) : Seq :=
  { q with
    began := t, ends := some (t + showTicks w st)
    bg := match st.background (dirGdiv w.dir) with
      | some n => some (t, t + n)
      | none => q.bg.filter fun b => decide (t < b.2) }

theorem beginStep_of_step {s : State} {g : Nat} {w : Show} {q : Seq} {t : Nat} {st : LaneStep}
    (hst : (w.steps[q.pc]?).bind decodeStep = some st) (hne : st ≠ .end_)
    (hw : (st.waits && (q.bg.filter fun b => decide (t < b.2)).isSome) = false) :
    beginStep s g w q t = setLane s g { laneOf s g with seq := some (q.begin w st t) } := by
  unfold beginStep
  rw [hst]
  dsimp only
  rw [if_neg (by rw [hw]; exact Bool.false_ne_true), if_neg hne]
  rfl

theorem beginStep_of_end {s : State} {g : Nat} {w : Show} {q : Seq} {t : Nat} (hst : (w.steps[q.pc]?).bind decodeStep = some .end_)
    (hbg : q.bg = none) : beginStep s g w q t = endPass s g t := by
  unfold beginStep
  rw [hst]
  dsimp only
  rw [hbg]
  rfl

theorem beginStep_out (s : State) (g : Nat) (w : Show) (q : Seq) (t : Nat) : (beginStep s g w q t).out = s.out := by
  unfold beginStep
  split
  · rfl
  · dsimp only
    split
    · rfl
    · split <;> rfl

theorem runToTick_sti (s : State) (q : Seq) (t : Nat) : (runToTick s q t).sti = s.sti :=
  sti_of_outside (w := allBut [.sti]) (by simp [runToTick]) (by simp)

theorem runToTick_cfg (s : State) (q : Seq) (t : Nat) : (runToTick s q t).cfg = s.cfg :=
  cfg_of_outside (w := allBut [.cfg]) (by simp [runToTick]) (by simp)

theorem runToTick_canon {s : State} (hs : s.canon) (q : Seq) (t : Nat) : (runToTick s q t).canon :=
  (runToCycle_keeps _ s (.refl s)).canon hs

theorem runToTick_out (s : State) (q : Seq) (t : Nat) : (runToTick s q t).out = s.out := tick_out ..

/-- A step whose ticks have passed: what it drove, and what starts next. -/
theorem stepEnd_eq {s : State} {g : Nat} {w : Show} {q : Seq} {t : Nat} {st : LaneStep} (hc : (laneOf s g).cur = some w)
    (hq : (laneOf s g).seq = some q) (ht : q.ends = some t) (hst : (w.steps[q.pc]?).bind decodeStep = some st) :
    stepEnd s g = beginStep (emitStep (runToTick s q t) g w q t st) g w (afterStep q st) t := by
  unfold stepEnd
  rw [hc, hq]
  dsimp only
  rw [ht, hst]

/-- What a step drove is out when it ends. -/
theorem stepEnd_out {s : State} {g : Nat} {w : Show} {q : Seq} {t : Nat} {st : LaneStep} (hc : (laneOf s g).cur = some w)
    (hq : (laneOf s g).seq = some q) (ht : q.ends = some t) (hst : (w.steps[q.pc]?).bind decodeStep = some st) :
    (stepEnd s g).out = (emitStep (runToTick s q t) g w q t st).out := by
  rw [stepEnd_eq hc hq ht hst, beginStep_out]

/-- A row's step ends: its address is on the address lines, and the next step begins. -/
theorem stepEnd_row {s : State} (hs : s.canon) {g : Nat} {w : Show} {q : Seq} (hc : (laneOf s g).cur = some w)
    (hq : (laneOf s g).seq = some q) {t a pre post : Nat} {nx : LaneStep} (ht : q.ends = some t) (hpre : q.began + pre ≤ t)
    (hst : (w.steps[q.pc]?).bind decodeStep = some (.row a pre post)) (hnx : (w.steps[q.pc + 1]?).bind decodeStep = some nx)
    (hne : nx ≠ .end_) (hw : (nx.waits && (q.bg.filter fun b => decide (t < b.2)).isSome) = false) :
    (stepEnd s g).out = s.out ++ [.row g (q.start + tickQ * (q.began + pre)) a] ∧
      laneOf (stepEnd s g) g = { laneOf s g with addr := a, seq := some (Seq.begin { q with row := a, pc := q.pc + 1 } w nx t) } ∧
      otherLanes g s (stepEnd s g) := by
  have hr := runToTick_canon hs q t
  have he := emitStep_canon hr g w q t (.row a pre post)
  have hl : ∀ k, laneOf (emitStep (runToTick s q t) g w q t (.row a pre post)) k =
      if k = g then { laneOf s g with addr := a } else laneOf s k := fun k => by
    rw [laneOf_emitStep hr, laneOf_congr (runToTick_sti s q t), laneOf_congr (runToTick_sti s q t)]
    exact congrArg (fun x => if k = g then x else laneOf s k) (if_pos hpre)
  have hout : (emitStep (runToTick s q t) g w q t (.row a pre post)).out = s.out ++ [.row g (q.start + tickQ * (q.began + pre)) a] := by
    have hnone : ∀ x : Nat × Nat, (if q.began < t then stepEvents w q (t - q.began) x.2 (.row a pre post) else []) = [] :=
      fun _ => ite_self _
    have hnil : (groupLanes w g).flatMap (fun x => (if q.began < t then stepEvents w q (t - q.began) x.2 (.row a pre post)
        else []).map (HostWrite.lane x.1 (q.start + tickQ * q.began))) = [] :=
      List.flatMap_eq_nil_iff.2 fun x _ => by rw [hnone x, List.map_nil]
    simp only [emitStep, emitRow, emitLanes, if_pos hpre, setLane, hnil, List.append_nil, runToTick_out]
  rw [stepEnd_out hc hq ht hst, stepEnd_eq hc hq ht hst,
    beginStep_of_step (q := afterStep q (.row a pre post)) hnx hne hw, laneOf_setLane_self he, hl, if_pos rfl]
  exact ⟨hout, rfl, fun k hk => by rw [laneOf_setLane_other he hk, hl, if_neg hk]⟩

theorem stepEnd_shift {s : State} {g : Nat} {w : Show} {q : Seq} (hc : (laneOf s g).cur = some w) (hq : (laneOf s g).seq = some q)
    {t a b n : Nat} {d : Bool} (ht : q.ends = some t) (hb : q.began < t) (hst : (w.steps[q.pc]?).bind decodeStep = some (.shift a b d n)) :
    (stepEnd s g).out = s.out ++ (groupLanes w g).map fun x => .lane x.1 (q.start + tickQ * q.began) (.data
      ((shiftOut (passShow w q) x.2 a b d).take (edgesIn (dirDiv w.dir) (t - q.began))) (dirDiv w.dir)) := by
  have hev : ∀ c, (if q.began < t then stepEvents w q (t - q.began) c (.shift a b d n) else []) =
      [.data ((shiftOut (passShow w q) c a b d).take (edgesIn (dirDiv w.dir) (t - q.began))) (dirDiv w.dir)] := fun _ => if_pos hb
  rw [stepEnd_out hc hq ht hst]
  simp only [emitStep, emitRow, emitLanes, hev, List.map_cons, List.map_nil, runToTick_out]
  rw [List.map_eq_flatMap]

theorem stepEnd_end {s : State} (hs : s.canon) {g : Nat} {w : Show} {q : Seq} (hc : (laneOf s g).cur = some w)
    (hq : (laneOf s g).seq = some q) {t pre : Nat} (ht : q.ends = some t) (hbg : q.bg = none)
    (hst : (w.steps[q.pc]?).bind decodeStep = some (.wait pre)) (hend : (w.steps[q.pc + 1]?).bind decodeStep = some .end_) :
    laneOf (stepEnd s g) g = { laneOf s g with seq := none, passLen := t } ∧ otherLanes g s (stepEnd s g) := by
  have hr := runToTick_canon hs q t
  have he := emitStep_canon hr g w q t (.wait pre)
  have hl : ∀ k, laneOf (emitStep (runToTick s q t) g w q t (.wait pre)) k = laneOf s k := fun k =>
    (laneOf_congr rfl k).trans (laneOf_congr (runToTick_sti s q t) k)
  rw [stepEnd_eq hc hq ht hst, beginStep_of_end (q := afterStep q (.wait pre)) hend hbg, endPass, laneOf_setLane_self he, hl]
  exact ⟨rfl, fun k hk => (laneOf_setLane_other he hk _).trans (hl k)⟩

theorem backgroundEnd_running {s : State} (hs : s.canon) {g : Nat} {w : Show} {q : Seq} (hc : (laneOf s g).cur = some w)
    (hq : (laneOf s g).seq = some q) {f t e : Nat} (hbg : q.bg = some (f, t)) (he : q.ends = some e) :
    laneOf (backgroundEnd s g) g = { laneOf s g with seq := some { q with bg := none } } ∧ otherLanes g s (backgroundEnd s g) ∧
      (backgroundEnd s g).cfg = s.cfg := by
  let r := emitBack (runToTick s q t) g w q t
  have hr : r.canon := (emitBack_keeps _ g w q t (.refl _)).canon (runToTick_canon hs q t)
  have hsti : r.sti = s.sti := (emitBack_sti ..).trans (runToTick_sti ..)
  have hcfg : r.cfg = s.cfg :=
    (cfg_of_outside (emitBack_outside (w := [.out]) (by simp) _ g w q t) (by simp)).trans (runToTick_cfg ..)
  have hu : backgroundEnd s g = setLane r g { laneOf r g with seq := some { q with bg := none } } := by
    unfold backgroundEnd
    rw [hc, hq]
    dsimp only
    rw [hbg]
    exact if_neg (by simp [he])
  rw [hu, laneOf_setLane_self hr, laneOf_congr hsti]
  exact ⟨rfl, (otherLanes_of_sti hsti).trans (setLane_otherLanes hr g _), hcfg⟩

/-! ### Passes (R244, R250) -/

/-- With nothing shown, the address lines keep their address. -/
theorem shownAddr_of_nothing {s : State} {g : Nat} (hc : (laneOf s g).cur = none) : shownAddr s g = (laneOf s g).addr := by
  unfold shownAddr
  rw [hc]

/-- The group as a pass finds it: one of a run before that has not ended is stopped. -/
def stopped (s : State) (g : Nat) : State := if (laneOf s g).seq.isSome then stopPass s g else s

theorem stopped_outside (s : State) (g : Nat) : (stopped s g).outside [.sti, .out] = s.outside [.sti, .out] := by
  unfold stopped
  split <;> simp

theorem stopped_canon {s : State} (hs : s.canon) (g : Nat) : (stopped s g).canon := by
  unfold stopped
  split
  · exact stopPass_canon hs g
  · exact hs

theorem laneOf_stopped {s : State} (hs : s.canon) {g : Nat} (hc : (laneOf s g).cur = none) (k : Nat) :
    laneOf (stopped s g) k = if k = g then { laneOf s g with seq := none } else laneOf s k := by
  unfold stopped
  split
  · rw [laneOf_stopPass hs, shownAddr_of_nothing hc]
  next hno =>
    have hq : (laneOf s g).seq = none := by simpa using hno
    split
    next h => rw [h, ← hq]
    next => rfl

theorem startPass_off {s : State} (hs : s.canon) {g : Nat} (w : Show) (e : EccRead) (hc : (laneOf s g).cur = none)
    (hen : laneEn (stopped s g) g = false) :
    laneOf (startPass s g w none e) g = { laneOf s g with cur := some { w with next := w.next + 1 }, nxt := none, seq := none } ∧
      otherLanes g s (startPass s g w none e) := by
  have ht := stopped_canon hs g
  have hu : startPass s g w none e =
      setLane (stopped s g) g { laneOf (stopped s g) g with cur := some { w with next := w.next + 1 }, nxt := none, seq := none } :=
    if_pos (congrArg (! ·) hen)
  rw [hu, laneOf_setLane_self ht, laneOf_stopped hs hc, if_pos rfl]
  exact ⟨rfl, fun k hk => by rw [laneOf_setLane_other ht hk, laneOf_stopped hs hc, if_neg hk]⟩

/-- The words that ECC cannot correct read as zero: the state after the free value is taken, and the words. -/
def eccTaken (s : State) (e : EccRead) : State := if e = .uncorrectable then (takeFree s).2 else s

/-- The group as its first pass begins, before its first step. -/
def armed (s : State) (g : Nat) (w : Show) (e : EccRead) : State :=
  setLane (eccTaken (stopped s g) e) g { laneOf (eccTaken (stopped s g) e) g with
    cur := some { w with next := w.next + 1 }, nxt := none, passes := (laneOf (eccTaken (stopped s g) e) g).passes + 1 }

/-- Words that ECC cannot correct are reported. -/
def reported (s : State) (g : Nat) (w : Show) (e : EccRead) : State :=
  if e = .uncorrectable then noticeBoth (armed s g w e) 0x0A05 g w.hoop.toNat else armed s g w e

theorem startPass_eq {s : State} {g : Nat} (w : Show) (e : EccRead) (hen : laneEn (stopped s g) g = true) :
    startPass s g w none e = beginStep (reported s g w e) g { w with next := w.next + 1 }
      ⟨(reported s g w e).tim.elapsedQ, 0, 0, none, none, 0, [],
        if e = .uncorrectable then some (takeFree (stopped s g)).1 else none⟩ 0 := by
  have hno : ¬ (!laneEn (stopped s g) g) = true := by simp [hen]
  cases e <;> exact if_neg hno

theorem eccTaken_sti (s : State) (e : EccRead) : (eccTaken s e).sti = s.sti := by
  unfold eccTaken
  split <;> rfl

theorem eccTaken_canon {s : State} (hs : s.canon) (e : EccRead) : (eccTaken s e).canon := by
  unfold eccTaken
  split
  · exact (takeFree_keeps s (.refl s)).canon hs
  · exact hs

theorem reported_canon {s : State} (hs : s.canon) (g : Nat) (w : Show) (e : EccRead) : (reported s g w e).canon := by
  have ha : (armed s g w e).canon := (setLane_keeps _ g _ (.refl _)).canon (eccTaken_canon (stopped_canon hs g) e)
  unfold reported
  split
  · exact (noticeBoth_keeps _ _ _ _ (.refl _)).canon ha
  · exact ha

theorem laneOf_reported {s : State} (hs : s.canon) {g : Nat} (w : Show) (e : EccRead) (hc : (laneOf s g).cur = none) (k : Nat) :
    laneOf (reported s g w e) k = if k = g then { laneOf s g with
      cur := some { w with next := w.next + 1 }, nxt := none, seq := none, passes := (laneOf s g).passes + 1 } else laneOf s k := by
  have hsti : (reported s g w e).sti = (armed s g w e).sti := by
    unfold reported
    split
    · exact noticeBoth_sti ..
    · rfl
  have hl : ∀ k, laneOf (eccTaken (stopped s g) e) k = if k = g then { laneOf s g with seq := none } else laneOf s k := fun k =>
    (laneOf_congr (eccTaken_sti ..) k).trans (laneOf_stopped hs hc k)
  rw [laneOf_congr hsti, armed, laneOf_setLane (eccTaken_canon (stopped_canon hs g) e)]
  split
  next => rw [hl, if_pos rfl]
  next hk => rw [hl, if_neg hk]

/-- A pass that begins with its first step. -/
theorem startPass_on {s : State} (hs : s.canon) {g : Nat} (w : Show) (e : EccRead) (hc : (laneOf s g).cur = none)
    (hen : laneEn (stopped s g) g = true) {st : LaneStep} (hst : (w.steps[0]?).bind decodeStep = some st) (hne : st ≠ .end_) :
    (∃ m, laneOf (startPass s g w none e) g = { laneOf s g with
        cur := some { w with next := w.next + 1 }, nxt := none, passes := (laneOf s g).passes + 1
        seq := some ⟨(startPass s g w none e).tim.elapsedQ, 0, 0, some (showTicks w st),
          (st.background (dirGdiv w.dir)).map fun n => (0, n), 0, [], if e = .uncorrectable then some m else none⟩ }) ∧
      otherLanes g s (startPass s g w none e) := by
  have hr := reported_canon hs g w e
  have hl := laneOf_reported hs w e hc
  have hbg : ∀ b : Option Nat, (match b with | some n => some (0, 0 + n) | none => (none : Option (Nat × Nat)).filter fun b => decide (0 < b.2)) =
      b.map fun n => (0, n) := fun b => by
    cases b with
    | none => rfl
    | some n => exact congrArg (fun k => some (0, k)) (Nat.zero_add n)
  rw [startPass_eq w e hen, beginStep_of_step hst hne (by simp), laneOf_setLane_self hr, hl, if_pos rfl]
  refine ⟨⟨(takeFree (stopped s g)).1, ?_⟩, fun k hk => by rw [laneOf_setLane_other hr hk, hl, if_neg hk]⟩
  rw [Seq.begin, hbg, Nat.zero_add]
  rfl

/-- The run that follows begins at its anchor. -/
theorem passStart_next {s : State} {g : Nat} {w : Show} (e : EccRead) (hc : (laneOf s g).cur = none) (hn : (laneOf s g).nxt = some w) :
    passStart s g e = startPass (runTo (anchor s w 0) s) g w none e := by
  unfold passStart
  simp only [hc, hn]

/-- The parts that a pass that begins reaches. -/
abbrev passParts : List Part := [.counts, .fresh, .records, .outboxes, .out, .tim, .pulses, .stamps, .sti, .freeCount]

theorem startPass_frame (s : State) (q g : Nat) (w : Show) (e : EccRead) :
    (startPass (runTo q s) g w none e).outside passParts = s.outside passParts :=
  have hn : Notices passParts := by constructor <;> decide
  (startPass_outside hn (by decide) (by decide) (by decide) _ g w none e).trans (runTo_outside (by decide) hn q s)

theorem laneEn_stopped_runTo {s : State} (hs : s.canon) (q : Nat) {g : Nat} (hg : g < 4) :
    laneEn (stopped (runTo q s) g) g = laneEn s g := by
  have hreg : reg (stopped (runTo q s) g) (STI_LANE_CTRL g) = reg (runTo q s) (STI_LANE_CTRL g) :=
    congrArg (fun m => tget regReset m (STI_LANE_CTRL g))
      (regs_of_outside (stopped_outside (runTo q s) g) (by decide) (by decide) (by simp))
  refine laneEn_congr (hreg.trans (runTo_reg hs.regs q (laneCtrl_notCounted hg))) ?_
  exact (glb_of_outside (stopped_outside ..) (by decide)).trans (glb_of_outside (w := allBut [.glb]) (by simp) (by simp))

/-! ### EN of a group (R250) -/

theorem regRow_laneCtrl : ∀ g : Fin 4, regRow (STI_LANE_CTRL g) = some ⟨0x200100, 0x20, 0, 4, 0x20000000, 0xF0000000, 0, [], 0⟩ := by
  decide +kernel

theorem stopPass_regs (s : State) (g : Nat) : (stopPass s g).regs = s.regs :=
  regs_of_outside (w := [.sti, .out]) (by simp) (by simp) (by simp) (by simp)

theorem stopPass_reg (s : State) (g a : Nat) : reg (stopPass s g) a = reg s a := congrArg (fun m => tget regReset m a) (stopPass_regs s g)

theorem emitLanes_fields (s : State) (g : Nat) (w : Show) (q : Seq) (t : Nat) (f : Nat → List LaneEvent) :
    emitLanes s g w q t f = { s with out := (emitLanes s g w q t f).out } := rfl

theorem stopPass_fields (s : State) (g : Nat) : stopPass s g = { s with sti := (stopPass s g).sti, out := (stopPass s g).out } := by
  have hb : ∀ (t : State) (w : Show) (q : Seq) (k : Nat), emitBack t g w q k = { t with out := (emitBack t g w q k).out } := by
    intro t w q k
    unfold emitBack
    split <;> rfl
  have he : ∀ (w : Show) (q : Seq) (k : Nat) (st : LaneStep), emitStep s g w q k st =
      { s with sti := (emitStep s g w q k st).sti, out := (emitStep s g w q k st).out } := by
    intro w q k st
    unfold emitStep emitRow
    split
    · split <;> rfl
    · rfl
  unfold stopPass
  split
  · dsimp only
    split
    · rw [hb, he]
      rfl
    · rw [hb]
      rfl
  · rfl

theorem laneBalls_of_disabled {s : State} {g : Nat} (h : laneEn s g = false) : laneBalls s (4 * g) = none := by
  have hg : 4 * g / 4 = g := Nat.mul_div_cancel_left g (by decide)
  unfold laneBalls
  rw [hg]
  exact if_pos (congrArg (! ·) h)

theorem laneCtrlWrite_spec {s : State} (hs : s.canon) {g : Nat} (hg : g < 4) (v : Word) (hh : s.glb.halted = none) :
    let u := laneCtrlWrite s g v
    regFld u (STI_LANE_CTRL g) 31 28 = v.toNat / 2 ^ 28 ∧
      (bitW v 31 = true → laneOf u g = laneOf s g ∧ u.out = s.out) ∧
      (bitW v 31 = false → laneOf u g = { laneOf s g with seq := none, addr := (laneOf u g).addr } ∧
        laneBalls u (4 * g) = none ∧ (laneEn s g = true → addressLines s g = some (laneOf u g).addr)) ∧
      otherLanes g s u ∧ keepsRegs [STI_LANE_CTRL g] s u ∧ u = { s with regs := u.regs, sti := u.sti, out := u.out } := by
  have hrow := regRow_laneCtrl ⟨g, hg⟩
  let p := plainWrite s (STI_LANE_CTRL g) v
  have hp : p.canon := (plainWrite_keeps _ _ _ (.refl s)).canon hs
  have hfields : p = { s with regs := p.regs } := plainWrite_eq_regs ..
  have hset : ∀ hi lo, 28 ≤ lo → hi < 32 → regFld p (STI_LANE_CTRL g) hi lo = fld v hi lo := fun hi lo hlo hhi =>
    regFld_plainWrite_set hs.regs hrow rfl rfl (fun k h1 h2 => by
      have h3 : k < 32 := by omega
      have h4 : 28 ≤ k := by omega
      interval_cases k <;> decide) v
  have hfld : regFld p (STI_LANE_CTRL g) 31 28 = v.toNat / 2 ^ 28 := by
    rw [hset 31 28 (le_refl _) (by decide), fld, bits]
    have := v.isLt
    omega
  have hbit : regBit p (STI_LANE_CTRL g) 31 = bitW v 31 := by
    show bitW (reg (plainWrite s (STI_LANE_CTRL g) v) (STI_LANE_CTRL g)) 31 = _
    rw [plainWrite_row hrow, reg_setReg_twf hs.regs, if_pos rfl]
    exact bitW_written_set rfl rfl _ _ v (by decide)
  have hen : laneEn p g = bitW v 31 := by
    have hglb : p.glb = s.glb := (congrArg State.glb hfields :)
    rw [laneEn, hbit, hglb, hh]
    exact Bool.and_true _
  have hsti : p.sti = s.sti := (congrArg State.sti hfields :)
  have hout : p.out = s.out := (congrArg State.out hfields :)
  have hkeep := plainWrite_keepsRegs hs.regs (STI_LANE_CTRL g) v
  have hu : laneCtrlWrite s g v = if laneEn p g then p else stopPass p g := rfl
  rw [hu]
  cases hv : bitW v 31 with
  | true =>
    rw [if_pos (hen.trans hv)]
    exact ⟨hfld, fun _ => ⟨laneOf_congr hsti g, hout⟩, fun h => absurd h (by simp),
      otherLanes_of_sti hsti, hkeep, hfields.trans (by rw [hsti, hout])⟩
  | false =>
    have hoff : laneEn p g = false := hen.trans hv
    have haddr : shownAddr p g = shownAddr s g := by rw [hfields]; rfl
    have hlane : ∀ k, laneOf (stopPass p g) k = if k = g then { laneOf s g with seq := none, addr := shownAddr s g } else laneOf s k :=
      fun k => by rw [laneOf_stopPass hp, haddr, laneOf_congr hsti, laneOf_congr hsti]
    rw [if_neg (by simp [hoff])]
    dsimp only
    rw [hlane, if_pos rfl]
    refine ⟨?_, fun h => absurd h (by simp), fun _ => ⟨rfl, laneBalls_of_disabled ?_, addressLines_of_laneEn⟩, fun k hk => ?_,
      fun a ha hn => ?_, ?_⟩
    · rw [regFld, stopPass_reg]
      exact hfld
    · rw [laneEn_congr (stopPass_reg ..) (glb_of_outside (w := [.sti, .out]) (by simp) (by simp)), hoff]
    · rw [hlane, if_neg hk]
    · rw [stopPass_reg, hkeep a ha hn]
    · rw [stopPass_fields, hfields]

/-! ### Sensors (R253 to R255) -/

/-- FAIL of a group as sensor `n` fails or answers. -/
def failAfter (x : Lane) (n : Nat) (failed : Bool) : List Bool :=
  if (x.fail[n]?).getD false = failed then x.fail else x.fail.set n failed

theorem laneOf_sensorState {s : State} (hs : s.canon) (g n cause k : Nat) : laneOf (sensorState s g n cause) k =
    if k = g then { laneOf s g with fail := failAfter (laneOf s g) n (decide (cause ≠ 0)) } else laneOf s k := by
  unfold sensorState failAfter
  dsimp only
  split
  · split
    next h => rw [h]
    next => rfl
  · rw [laneOf_congr (noticeBoth_sti ..), laneOf_setLane hs]

theorem sensorState_answering {s : State} {g n : Nat} (h : (laneOf s g).fail[n]? = some false) : sensorState s g n 0 = s := by
  unfold sensorState
  dsimp only
  rw [h]
  rfl

theorem pollReads_word {s : State} {g : Nat} (a b : Nat) (hv : sensorValid s g 0 = true) :
    pollReads g [.word a b] 0 none s = (some (sensorResult s g a b), sensorState (emitRead s g 0) g 0 0) := by
  unfold pollReads
  rw [if_neg (by simp [hv])]
  rfl

theorem pollReads_noAck {s : State} {g : Nat} (hv : sensorValid s g 0 = true) :
    pollReads g [.noAck] 0 none s = (none, sensorState (emitRead s g 0) g 0 1) := by
  unfold pollReads
  rw [if_neg (by simp [hv])]
  rfl

/-- A motif with no other group takes that group's result (R254). -/
theorem motifTop_of_only {s : State} {g m : Nat} {v : Int} (honly : ∀ k, k < 4 → k ≠ g → groupMotif s.cfg k ≠ some m)
    (hl : (laneOf s g).last = some v) : motifTop s m v = v := by
  refine List.foldlRecOn (motive := (· = v)) _ _ rfl fun t ht k hk => ?_
  obtain ⟨h4, hm⟩ := List.mem_filter.1 hk
  have hkg : k = g := Classical.byContradiction fun hne => honly k (List.mem_range.1 h4) hne (of_decide_eq_true hm)
  subst hkg ht
  rw [hl]
  exact max_self _

theorem sensorPollEnd_word {s : State} (hs : s.canon) {g : Nat} {a b m : Nat} (hp : (laneOf s g).polling = true)
    (hv : sensorValid s g 0 = true) (hm : groupMotif s.cfg g = some m) (honly : ∀ k, k < 4 → k ≠ g → groupMotif s.cfg k ≠ some m) :
    let u := sensorPollEnd s g [.word a b]
    (laneOf u g).polling = false ∧ (laneOf u g).last = some (sensorResult s g a b) ∧
      ((laneOf s g).fail[0]? = some false → u.out = s.out ++ [.smbus g (regBit s (STI_SMB_CTRL g) 30)
        (regFld s (STI_SMB_ADDR g) 6 0) (regFld s (STI_SMB_CTRL g) 7 0)]) ∧
      (liveOf u m).report = ⟨true, sensorResult s g a b, s.hoop.fNumber⟩ ∧ u.cfg = s.cfg := by
  let v := sensorResult s g a b
  let r := sensorState (emitRead s g 0) g 0 0
  let t := setLane r g { laneOf r g with polling := false, last := some v }
  let u := setLive t m { liveOf t m with report := ⟨true, motifTop t m v, t.hoop.fNumber⟩ }
  have he : (emitRead s g 0).canon := (emitRead_keeps s g 0 (.refl s)).canon hs
  have hr : r.canon := (sensorState_keeps _ g 0 0 (.refl _)).canon he
  have ht : t.canon := (setLane_keeps r g _ (.refl r)).canon hr
  have hframe : t.outside [.counts, .fresh, .records, .outboxes, .out, .sti] = s.outside [.counts, .fresh, .records, .outboxes, .out, .sti] :=
    (setLane_outside r (by decide) g _).trans
      ((sensorState_outside (by constructor <;> decide) (by decide) _ g 0 0).trans (emitRead_outside (by decide) s g 0))
  have hcfg : t.cfg = s.cfg := cfg_of_outside hframe (by decide)
  have hfn : t.hoop.fNumber = s.hoop.fNumber := fNumber_of_outside hframe (by decide)
  have hlane : laneOf t g = { laneOf r g with polling := false, last := some v } := laneOf_setLane_self hr g _
  have hu : sensorPollEnd s g [.word a b] = u := by
    unfold sensorPollEnd
    rw [if_neg (by simp [hp]), List.take_of_length_le (by simp), pollReads_word a b hv]
    dsimp only
    rw [show groupMotif (setLane r g { laneOf r g with polling := false, last := some v }).cfg g = some m from hcfg ▸ hm]
  have htop : motifTop t m v = v := motifTop_of_only (by rwa [hcfg]) (by rw [hlane])
  have hul : laneOf u g = laneOf t g := rfl
  rw [hu]
  refine ⟨by rw [hul, hlane], by rw [hul, hlane], fun hf => ?_, ?_, hcfg⟩
  · exact congrArg State.out (sensorState_answering (s := emitRead s g 0) (n := 0) hf)
  · rw [liveOf_setLive_self ht, htop, hfn]

theorem sensorPollEnd_noAck {s : State} (hs : s.canon) {g : Nat} (hp : (laneOf s g).polling = true) (hv : sensorValid s g 0 = true)
    (hf : (laneOf s g).fail[0]? = some false) : let u := sensorPollEnd s g [.noAck]
    (laneOf u g).polling = false ∧ (laneOf u g).last = (laneOf s g).last ∧ (laneOf u g).fail[0]? = some true ∧ u.live = s.live := by
  let r := sensorState (emitRead s g 0) g 0 1
  have he : (emitRead s g 0).canon := (emitRead_keeps s g 0 (.refl s)).canon hs
  have hr : r.canon := (sensorState_keeps _ g 0 1 (.refl _)).canon he
  have hu : sensorPollEnd s g [.noAck] = setLane r g { laneOf r g with polling := false } := by
    unfold sensorPollEnd
    rw [if_neg (by simp [hp]), List.take_of_length_le (by simp), pollReads_noAck hv]
  have hrg : laneOf r g = { laneOf s g with fail := (laneOf s g).fail.set 0 true } := by
    rw [laneOf_sensorState he, if_pos rfl]
    show { laneOf s g with fail := failAfter (laneOf s g) 0 true } = _
    rw [failAfter, hf]
    rfl
  have hlive : r.live = s.live := by
    show (sensorState _ g 0 1).live = _
    unfold sensorState
    dsimp only
    split
    · rfl
    · exact noticeBoth_live ..
  have hlen : 0 < (laneOf s g).fail.length := (List.getElem?_eq_some_iff.1 hf).1
  rw [hu]
  dsimp only
  rw [laneOf_setLane_self hr, hrg]
  exact ⟨rfl, rfl, List.getElem?_set_self hlen, hlive⟩

theorem sensorPoll_spec {s : State} (hs : s.canon) {g : Nat} (hen : regBit s (STI_SMB_CTRL g) 31 = true)
    (hp : (laneOf s g).polling = false) : let u := sensorPoll s g
    (laneOf u g).polling = true ∧ (laneOf u g).pollAt = some u.tim.cyc ∧ otherLanes g s u := by
  let t := match (laneOf s g).pollAt with
    | some t => runToCycle (t + max (regFld s (STI_SMB_CTRL g) 15 8) 1 * 2500000) s
    | none => s
  have ht : t.canon ∧ t.sti = s.sti := by
    simp only [t]
    split
    · exact ⟨(runToCycle_keeps _ s (.refl s)).canon hs, sti_of_outside (w := allBut [.sti]) (by simp) (by simp)⟩
    · exact ⟨hs, rfl⟩
  obtain ⟨ht, hsti⟩ := ht
  have hu : sensorPoll s g = setLane t g { laneOf t g with polling := true, pollAt := some t.tim.cyc } :=
    if_neg (by simp [hen, hp])
  rw [hu]
  dsimp only
  rw [laneOf_setLane_self ht]
  exact ⟨rfl, rfl, (otherLanes_of_sti hsti).trans (setLane_otherLanes ht g _)⟩

/-- Settles O39: passes begin at their anchors, the sequencer goes from step to step, EN ends a pass, and sensors are read. -/
theorem lanesRun : Obligations.LanesRun := by
  unfold Obligations.LanesRun
  refine ⟨fun g e w s hs hc hn => ?_, fun g w q s hs hc hq => ⟨fun t a pre post nx ht hpre hst hnx hne hw => ?_,
      fun t a b d n ht hb hst => ?_, fun t pre ht hst hend hbg => ?_, fun f t e hbg he => ?_⟩,
    fun g v s hs hh => ⟨_, rfl, laneCtrlWrite_spec hs g.isLt v hh⟩, fun g s hs => ⟨fun hen hp => ⟨_, rfl, sensorPoll_spec hs hen hp⟩,
      fun a b m hp hv hm honly => ⟨_, rfl, sensorPollEnd_word hs hp hv hm honly⟩,
      fun hp hv hf => ⟨_, rfl, sensorPollEnd_noAck hs hp hv hf⟩⟩⟩
  · let t := runTo (anchor s w 0) s
    have ht : t.canon := (runTo_keeps _ s (.refl s)).canon hs
    have hsti : t.sti = s.sti := sti_of_outside (w := allBut [.sti]) (by simp [t]) (by simp)
    have hct : (laneOf t g).cur = none := by rw [laneOf_congr hsti, hc]
    have hen := laneEn_stopped_runTo hs (anchor s w 0) g.isLt
    have hframe := startPass_frame s (anchor s w 0) g w e
    have hu : exec (.passStart g e) s = .next (startPass t g w none e) := congrArg done (passStart_next e hc hn)
    refine ⟨fun hon st hst hne => ?_, fun hoff => ?_⟩
    · obtain ⟨⟨m, hl⟩, ho⟩ := startPass_on ht w e hct (hen.trans hon) hst hne
      rw [laneOf_congr hsti] at hl
      refine ⟨_, hu, ?_, ?_, ?_, ⟨m, ?_⟩, (otherLanes_of_sti hsti).trans ho, cfg_of_outside hframe (by decide),
        hoop_of_outside hframe (by decide) (by decide) (by decide) (by decide) (by decide)⟩
      · rw [hl]
      · rw [hl]
      · rw [hl]
      · exact congrArg Lane.seq hl
    · obtain ⟨hl, ho⟩ := startPass_off ht w e hct (hen.trans hoff)
      rw [laneOf_congr hsti] at hl
      exact ⟨_, hu, hl, (otherLanes_of_sti hsti).trans ho⟩
  · obtain ⟨hout, hl, ho⟩ := stepEnd_row hs hc hq ht hpre hst hnx hne hw
    refine ⟨_, rfl, ?_, hout, ?_, ?_, ho⟩
    · rw [hl]
    · rw [hl]
      rfl
    · rw [hl, hc]
  · exact ⟨_, rfl, stepEnd_shift hc hq ht hb hst⟩
  · obtain ⟨hl, ho⟩ := stepEnd_end hs hc hq ht hbg hst hend
    exact ⟨_, rfl, by rw [hl], by rw [hl], by rw [hl, hc], ho⟩
  · exact ⟨_, rfl, backgroundEnd_running hs hc hq hbg he⟩

end Sys2Proof.Machine

/-! What a register write stores: Set and Latch fields, widths, offsets, and a core's data memory (R12 to R14, R39, R40). -/
namespace Sys2Proof.Machine

theorem bitW_w32 (n k : Nat) : bitW (w32 n) k = (decide (k < 32) && bitOf n k) := by
  rw [bitW_getLsbD, w32, BitVec.getLsbD_ofNat, bitOf_testBit]

/-- A Set bit takes the value written, a Latch bit written 1 is cleared unless it has just been set, and any other keeps its
value (R12, R13, R14). -/
theorem bitW_written {r : RegRow} (hc : r.counts = []) (old fresh v : Word) {k : Nat} (hk : k < 32) :
    bitW (written r old fresh v) k = ((if bitOf r.set k then bitW v k else bitW old k) &&
      !(bitOf r.latch k && bitW v k && !bitW fresh k)) := by
  simp only [written, hc, List.foldl_nil, bitW_and, bitW_or, bitW_not, bitW_w32, hk, decide_true, Bool.true_and]
  cases bitOf r.set k <;> cases bitOf r.latch k <;> cases bitW v k <;> cases bitW old k <;> rfl

/-- The blocks whose registers have no behaviour of their own. -/
theorem writeBar0_plain {s : State} {a : Nat} (v : Word) (h4 : a % 4 = 0)
    (ha : (0x40000 ≤ a ∧ a < 0x80000) ∨ (0x140000 ≤ a ∧ a < 0x200000) ∨ 0x3E0000 ≤ a) :
    writeBar0 s .host a 15 v = plainWrite s a v := by
  unfold writeBar0
  rw [if_neg (by omega), if_neg (by omega)]
  unfold writeReg
  rw [if_neg (by omega), if_neg (by omega), if_neg (by omega)]
  obtain h | h | h := ha
  · rw [if_pos (by omega)]
  · iterate 4 rw [if_neg (by omega)]
    rw [if_pos (by omega)]
  · iterate 13 rw [if_neg (by omega)]

/-- Any other size or alignment sets HIF_ERR.WIDTH (R40). -/
theorem writeBar0_width {s : State} {src : Source} {a : Nat} {be : Fin 16} (v : Word) (ha : a < 0x3C0000 ∨ 0x3E0000 ≤ a)
    (h : a % 4 ≠ 0 ∨ be ≠ 15) : writeBar0 s src a be v = latch s HIF_ERR 5 := by
  unfold writeBar0
  rw [if_neg (by omega), if_pos]
  exact h.imp_right fun hb hv => hb (Fin.ext ((Nat.mod_eq_of_lt be.isLt).symm.trans hv))

/-- A word stored in a table of bytes. -/
theorem storeLanes_word (t : Table Byte) (a : Nat) (v : Word) : storeLanes t a 15 v =
    tput (fun _ => 0) (tput (fun _ => 0) (tput (fun _ => 0) (tput (fun _ => 0) t (a + 0) (byteOf v 0)) (a + 1) (byteOf v 1))
      (a + 2) (byteOf v 2)) (a + 3) (byteOf v 3) := rfl

theorem tget_storeLanes {t : Table Byte} (ht : twf (fun _ => 0) t = true) (a : Nat) (v : Word) {k : Nat} (hk : k < 4) :
    tget (fun _ => 0) (storeLanes t a 15 v) (a + k) = byteOf v k := by
  rw [storeLanes_word, tget_tput (tput_twf (tput_twf (tput_twf ht))), tget_tput (tput_twf (tput_twf ht)), tget_tput (tput_twf ht),
    tget_tput ht]
  interval_cases k <;> simp

theorem bytesOf_word (v : Word) : (List.range 4).map (byteOf v) = leBytes 4 v.toNat := by
  simp [List.range_succ, byteOf, leBytes, Nat.div_div_eq_div_mul]

theorem leNat_storeLanes {t : Table Byte} (ht : twf (fun _ => 0) t = true) (a : Nat) (v : Word) :
    leNat (tgetList (fun _ => (0 : Byte)) (storeLanes t a 15 v) a 4) = v.toNat := by
  have hl : tgetList (fun _ => (0 : Byte)) (storeLanes t a 15 v) a 4 = (List.range 4).map (byteOf v) :=
    List.map_congr_left fun k hk => tget_storeLanes ht a v (List.mem_range.1 hk)
  rw [hl, bytesOf_word, leNat_leBytes]
  exact Nat.mod_eq_of_lt v.isLt

/-- A core's word in its data memory. -/
theorem writeCore_dmem {s : State} (c : Fin 8) {a : Nat} (v : Word) (hlo : 0x10000000 ≤ a) (hhi : a + 3 < 0x10020000) :
    writeCore s c a 15 v =
      { s with ccs := { s.ccs with dmem := storeLanes s.ccs.dmem (0x20000 * c + (a - 0x10000000)) 15 v } } := by
  have harea : ∀ b, 0x10000000 ≤ b → b < 0x10020000 → areaOf b = .dmem := fun b h1 h2 => by
    unfold areaOf
    rw [if_neg (by omega), if_pos ⟨h1, h2⟩]
  have hlast : lastLane a 15 = a + 3 := rfl
  unfold writeCore
  rw [hlast, harea a hlo (by omega), harea (a + 3) (by omega) hhi]
  rfl

/-- Settles O5: each form of a write stores what the register or the memory keeps. -/
theorem writesStore : Obligations.WritesStore := by
  unfold Obligations.WritesStore
  refine ⟨fun r old fresh v k hc hk => bitW_written hc old fresh v hk, fun a v s h4 ha => ?_, fun a be v s hlt ha h => ?_,
    fun a be v s ha => if_neg (Nat.not_lt.2 ha), fun c a v s hs hlo hhi => ?_⟩
  · have hlt : a < 0x4000000 := by omega
    exact (if_pos hlt).trans (congrArg done (writeBar0_plain v h4 (by omega)))
  · exact (if_pos hlt).trans (congrArg done (writeBar0_width v ha h))
  · have hmod : a % 2 ^ 32 = a := Nat.mod_eq_of_lt (by omega)
    have hu : exec (.registerWrite (.core c) a 15 v) s = done (writeCore s c (a % 2 ^ 32) 15 v) := rfl
    rw [hmod, writeCore_dmem c v hlo hhi] at hu
    exact ⟨_, hu, leNat_storeLanes hs.ccs.dmem _ v, rfl⟩

end Sys2Proof.Machine

/-! Frames of session packets and of the ingest deadline (R136 to R144, R155). -/
namespace Sys2Proof.Machine

section
variable {w : List Part} (hsess : .sess ∈ w)
include hsess

@[simp] theorem modFrame_outside (s : State) (k : Nat) (g : Frame → Frame) :
    (modFrame s k g).outside w = s.outside w := by
  unfold modFrame
  simp [hsess]

@[simp] theorem dropOffer_outside (s : State) (k : Nat) : (dropOffer s k).outside w = s.outside w := by
  unfold dropOffer
  (repeat' split) <;> simp [hsess]

@[simp] theorem ssrcAge_outside (s : State) (k : Nat) : (ssrcAge s k).outside w = s.outside w := by
  unfold ssrcAge
  simp [hsess]

end

section
variable {w : List Part} (hregs : .regs ∈ w) (hfresh : .fresh ∈ w)
include hregs hfresh

@[simp] theorem dropPacket_outside (s : State) (k : Nat) : (dropPacket s k).outside w = s.outside w := by
  unfold dropPacket
  simp [hregs, hfresh]

@[simp] theorem skipFrames_outside (s : State) (k n : Nat) : (skipFrames s k n).outside w = s.outside w := by
  unfold skipFrames
  simp [hregs, hfresh]

end

section
variable {w : List Part} (hregs : .regs ∈ w) (hfresh : .fresh ∈ w) (hsess : .sess ∈ w)
include hregs hfresh hsess

@[simp] theorem chooseHandle_outside (s : State) (k : Nat) : (chooseHandle s k).2.outside w = s.outside w := by
  unfold chooseHandle
  dsimp only
  (repeat' split) <;> simp [hregs, hfresh, hsess]

@[simp] theorem startFrame_outside (s : State) (k ts : Nat) : (startFrame s k ts).outside w = s.outside w := by
  unfold startFrame
  simp [hregs, hfresh, hsess]

end

section
variable {w : List Part} (hing : .ing ∈ w)
include hing

@[simp] theorem judge_outside (s : State) (l n : Nat) : (judge s l n).2.outside w = s.outside w := by
  unfold judge
  dsimp only
  (repeat' split) <;> simp [Ing.outside, hing]

end

section
variable {w : List Part} (hpixels : .pixels ∈ w)
include hpixels

@[simp] theorem storeYcc_outside (k q : Nat) (s : State) : (storeYcc k q s).outside w = s.outside w := by
  unfold storeYcc
  (repeat' split) <;> simp [hpixels]

end

section
variable {w : List Part} (hsrc : .src ∈ w) (hing : .ing ∈ w)
include hsrc hing

@[simp] theorem sourceDeadline_outside (s : State) (l : Nat) : (sourceDeadline s l).outside w = s.outside w := by
  unfold sourceDeadline
  simp [hsrc, hing]

end

section
variable {w : List Part} (hsess : .sess ∈ w) (hpixels : .pixels ∈ w)
include hsess hpixels

@[simp] theorem storePgroup_outside (k : Nat) (s : State) (x : Nat × List Byte) :
    (storePgroup k s x).outside w = s.outside w := by
  unfold storePgroup
  (repeat' split) <;> simp [hsess, hpixels]

end

section
variable {w : List Part} (hn : Notices w) (hsess : .sess ∈ w)
include hn hsess

@[simp] theorem formatError_outside (s : State) (k why : Nat) : (formatError s k why).outside w = s.outside w := by
  unfold formatError
  simp [hn, hsess]

end

section
variable {w : List Part} (hn : Notices w) (hregs : .regs ∈ w) (hsess : .sess ∈ w)
include hn hregs hsess

@[simp] theorem ssrcTake_outside (s : State) (k ssrc : Nat) : (ssrcTake s k ssrc).2.outside w = s.outside w := by
  unfold ssrcTake
  dsimp only
  (repeat' split) <;> simp [hn, hregs, hsess]

@[simp] theorem badPacket_outside (s : State) (k why : Nat) : (badPacket s k why).outside w = s.outside w := by
  unfold badPacket
  simp [hn, hregs, hsess]

end

section
variable {w : List Part} (hn : Notices w) (hregs : .regs ∈ w) (hing : .ing ∈ w)
include hn hregs hing

@[simp] theorem portOverflow_outside (s : State) (p : Nat) : (portOverflow s p).outside w = s.outside w := by
  unfold portOverflow
  simp [Ing.outside, hn, hregs, hing]

end

section
variable {w : List Part} (hn : Notices w) (hregs : .regs ∈ w) (hsess : .sess ∈ w) (hing : .ing ∈ w)
  (hpixels : .pixels ∈ w)
include hn hregs hsess hing hpixels

@[simp] theorem framePacket_outside (s : State) (k q : Nat) (marker ptBad : Bool) (hs : List (Nat × Bool × Nat × Nat)) (payload : List Byte) (full : Bool) :
    (framePacket s k q marker ptBad hs payload full).outside w = s.outside w := by
  unfold framePacket
  (repeat' split) <;> simp [hn, hregs, hsess, hing, hpixels]

@[simp] theorem sessionPacket_outside (s : State) (k : Nat) (rtp : List Byte) (full : Bool) :
    (sessionPacket s k rtp full).outside w = s.outside w := by
  unfold sessionPacket
  dsimp only
  (repeat' split) <;> simp [hn, hregs, hsess, hing, hpixels]

end

section
variable {w : List Part} (hn : Notices w) (hregs : .regs ∈ w) (hsess : .sess ∈ w) (hing : .ing ∈ w)
include hn hregs hsess hing

@[simp] theorem sessionDeadline_outside (s : State) (k : Nat) : (sessionDeadline s k).outside w = s.outside w := by
  unfold sessionDeadline
  dsimp only
  (repeat' split) <;> simp [hn, hregs, hsess, hing]

end


end Sys2Proof.Machine

/-! The ingest deadline: what each session offers, its pin, and the session candidates judged (R144, R155). -/
namespace Sys2Proof.Machine

/-! ### The numbers that a table holds -/

theorem twfFrom_keys {α : Type} [DecidableEq α] {d : Nat → α} {lo : Nat} {m : Table α} (h : twfFrom d lo m = true) :
    (∀ x ∈ m, lo ≤ x.1) ∧ (m.map (·.1)).Nodup := by
  induction m generalizing lo with
  | nil => exact ⟨fun x hx => absurd hx List.not_mem_nil, List.nodup_nil⟩
  | cons y m ih =>
    obtain ⟨a, v⟩ := y
    simp only [twfFrom, Bool.and_eq_true, decide_eq_true_eq] at h
    obtain ⟨⟨hlo, -⟩, hm⟩ := h
    obtain ⟨hk, hn⟩ := ih hm
    refine ⟨fun x hx => ?_, List.nodup_cons.2 ⟨fun ha => ?_, hn⟩⟩
    · obtain rfl | hx := List.mem_cons.1 hx
      · exact hlo
      · exact (Nat.le_succ_of_le hlo).trans (hk x hx)
    · obtain ⟨x, hx, rfl⟩ := List.mem_map.1 ha
      exact absurd (hk x hx) (by simp)

theorem enabledSessions_nodup {s : State} (hs : s.canon) : (enabledSessions s.cfg).Nodup :=
  (twfFrom_keys hs.cfg.sessions).2.filter _

theorem enabledSources_nodup {s : State} (hs : s.canon) : (enabledSources s.cfg).Nodup :=
  (twfFrom_keys hs.cfg.sources).2.filter _

/-- One turn of a fold over distinct numbers: what came before and what comes after. -/
theorem foldl_at {α β : Type} {f : α → β → α} {l : List β} (hl : l.Nodup) {k : β} (hk : k ∈ l) (a : α) :
    ∃ l1 l2 : List β, k ∉ l1 ∧ k ∉ l2 ∧ l1 ⊆ l ∧ l.foldl f a = l2.foldl f (f (l1.foldl f a) k) := by
  obtain ⟨l1, l2, rfl⟩ := List.append_of_mem hk
  rw [List.nodup_append, List.nodup_cons] at hl
  obtain ⟨-, ⟨h2, -⟩, hd⟩ := hl
  refine ⟨l1, l2, fun h => hd k h k List.mem_cons_self rfl, h2, List.subset_append_left _ _, ?_⟩
  rw [List.foldl_append, List.foldl_cons]

/-! ### Sessions one by one -/

theorem sessOf_congr {s t : State} (h : t.ing.sess = s.ing.sess) (k : Nat) : sessOf t k = sessOf s k := by rw [sessOf, sessOf, h]

theorem sessOf_setSess {s : State} (hs : s.canon) (k j : Nat) (x : SessRt) :
    sessOf (setSess s k x) j = if j = k then x else sessOf s j := tget_tput hs.ing.sess

theorem sessOf_setSess_self {s : State} (hs : s.canon) (k : Nat) (x : SessRt) : sessOf (setSess s k x) k = x := by
  rw [sessOf_setSess hs, if_pos rfl]

/-- From `s` to `t` only session `k` has changed among the sessions, and no pin has gone. -/
structure sessionStep (k : Nat) (s t : State) : Prop where
  canon : t.canon
  others : ∀ j, j ≠ k → sessOf t j = sessOf s j
  pins : ∀ p ∈ s.ing.pins, p ∈ t.ing.pins

theorem sessionStep.refl {k : Nat} {s : State} (hs : s.canon) : sessionStep k s s := ⟨hs, fun _ _ => rfl, fun _ h => h⟩

theorem sessionStep.trans {k : Nat} {s t u : State} (h : sessionStep k s t) (h' : sessionStep k t u) : sessionStep k s u :=
  ⟨h'.canon, fun j hj => (h'.others j hj).trans (h.others j hj), fun p hp => h'.pins p (h.pins p hp)⟩

theorem setSess_step {s : State} (hs : s.canon) (k : Nat) (x : SessRt) : sessionStep k s (setSess s k x) :=
  ⟨(setSess_keeps s k x (.refl s)).canon hs, fun j hj => by rw [sessOf_setSess hs, if_neg hj], fun _ h => h⟩

theorem sessionStep_of_ing {k : Nat} {s t : State} (ht : t.canon) (h : t.ing = s.ing) : sessionStep k s t :=
  ⟨ht, fun j _ => sessOf_congr (congrArg Ing.sess h) j, fun p hp => by rw [h]; exact hp⟩

theorem skipFrames_ing (s : State) (k n : Nat) : (skipFrames s k n).ing = s.ing := latchCount_ing ..

theorem skipFrames_step {s : State} (hs : s.canon) (k n : Nat) : sessionStep k s (skipFrames s k n) :=
  sessionStep_of_ing ((skipFrames_keeps s k n (.refl s)).canon hs) (skipFrames_ing ..)

/-- A session that takes a state. -/
theorem setSessState_step {s : State} (hs : s.canon) (k : Nat) (st : SessState) : sessionStep k s (setSessState s k st) := by
  unfold setSessState
  dsimp only
  split
  · exact .refl hs
  · have h := setSess_step hs k { sessOf s k with state := st }
    exact h.trans (sessionStep_of_ing ((noticeBoth_keeps _ _ _ _ (.refl _)).canon h.canon) (noticeBoth_ing ..))

theorem sessOf_setSessState {s : State} (hs : s.canon) (k : Nat) (st : SessState) :
    sessOf (setSessState s k st) k = { sessOf s k with state := st } := by
  unfold setSessState
  dsimp only
  split
  next h => rw [← h]
  next => rw [sessOf_congr (congrArg Ing.sess (noticeBoth_ing ..)), sessOf_setSess_self hs]

theorem pin_step {s : State} (hs : s.canon) (k n : Nat) (b : Hoop) : sessionStep k s (pin s n b) ∧ (n, b) ∈ (pin s n b).ing.pins := by
  refine ⟨⟨(pin_keeps s n b (.refl s)).canon hs, fun _ _ => rfl, fun p hp => ?_⟩, List.mem_append_right _ List.mem_cons_self⟩
  show p ∈ s.ing.pins.filter _ ++ [(n, b)]
  by_cases h : p = (n, b)
  · exact h ▸ List.mem_append_right _ List.mem_cons_self
  · exact List.mem_append_left _ (List.mem_filter.2 ⟨hp, decide_eq_true h⟩)

theorem ssrcAge_step {s : State} (hs : s.canon) (k : Nat) : sessionStep k s (ssrcAge s k) ∧
    (sessOf (ssrcAge s k) k).waiting = (sessOf s k).waiting ∧ (sessOf (ssrcAge s k) k).offer = (sessOf s k).offer := by
  unfold ssrcAge
  dsimp only
  split
  · split
    · exact ⟨setSess_step hs k _, by rw [sessOf_setSess_self hs], by rw [sessOf_setSess_self hs]⟩
    · exact ⟨setSess_step hs k _, by rw [sessOf_setSess_self hs], by rw [sessOf_setSess_self hs]⟩
  · exact ⟨.refl hs, rfl, rfl⟩

/-! ### What a session offers (R144) -/

/-- A session as the deadline finds it, with the waiting frames older than its offer skipped. -/
def unskipped (c : Cfg) (k : Nat) (x : SessRt) : SessRt :=
  { x with waiting := x.waiting.filter fun f => !olderFrame (bitOf (sessW c k 0) 30) x.offer f }

theorem chooseOffer_congr {s t : State} {x y : SessRt} (hc : t.cfg = s.cfg) (hb : t.hoop.bNext = s.hoop.bNext)
    (hw : y.waiting = x.waiting) (ho : y.offer = x.offer) (k : Nat) : chooseOffer t k y = chooseOffer s k x := by
  unfold chooseOffer rtpTime
  rw [hc, hb, hw, ho]

/-- The session takes the frame it offers. -/
def takeOffer (s : State) (k : Nat) (x : SessRt) : State :=
  match chooseOffer s k x with
  | some f =>
    if x.offer = some f then setSess s k { x with age := min (x.age + 1) 255 }
    else setSessState (setSess s k { x with offer := some f, age := 0, waiting := x.waiting.filter fun g => decide (g ≠ f) }) k .live
  | none => setSess s k { x with age := min (x.age + 1) 255 }

theorem takeOffer_step {s : State} (hs : s.canon) (k : Nat) (x : SessRt) :
    sessionStep k s (takeOffer s k x) ∧ (sessOf (takeOffer s k x) k).offer = (chooseOffer s k x).or x.offer := by
  unfold takeOffer
  split
  next f hf =>
    rw [hf]
    split
    next ho => exact ⟨setSess_step hs k _, by rw [sessOf_setSess_self hs, ho]; rfl⟩
    next =>
      have h := setSess_step hs k { x with offer := some f, age := 0, waiting := x.waiting.filter fun g => decide (g ≠ f) }
      exact ⟨h.trans (setSessState_step h.canon k _), by rw [sessOf_setSessState h.canon, sessOf_setSess_self hs]; rfl⟩
  next hf => exact ⟨setSess_step hs k _, by rw [hf, sessOf_setSess_self hs]; rfl⟩

/-- A session whose frames have not changed for 16 deadlines is lost. -/
def loseSession (s : State) (k : Nat) : State :=
  if (sessOf s k).state = .live ∧ 16 ≤ (sessOf s k).age then setSessState s k .lost else s

theorem loseSession_step {s : State} (hs : s.canon) (k : Nat) :
    sessionStep k s (loseSession s k) ∧ (sessOf (loseSession s k) k).offer = (sessOf s k).offer := by
  unfold loseSession
  split
  · exact ⟨setSessState_step hs k _, by rw [sessOf_setSessState hs]⟩
  · exact ⟨.refl hs, rfl⟩

/-- The handle offered stays pinned until the boundary two on. -/
def pinOffer (s : State) (o : Option DoneFrame) : State :=
  match o with
  | some f => pin s f.handle (s.hoop.fNumber + 2)
  | none => s

/-- The older frames of a session are counted as skipped. -/
def skipOlder (s : State) (k : Nat) (x : SessRt) : State :=
  if x.waiting.filter (olderFrame (bitOf (sessW s.cfg k 0) 30) x.offer) = [] then s
  else skipFrames s k (x.waiting.filter (olderFrame (bitOf (sessW s.cfg k 0) 30) x.offer)).length

theorem skipOlder_step {s : State} (hs : s.canon) (k : Nat) (x : SessRt) : sessionStep k s (skipOlder s k x) := by
  unfold skipOlder
  split
  · exact .refl hs
  · exact skipFrames_step hs k _

/-- A session after its SSRC has aged, with the offer that stands. -/
def agedSession (s : State) (k : Nat) : SessRt := { sessOf (ssrcAge s k) k with offer := standingOffer (ssrcAge s k) k }

/-- A session at the deadline before its offer is pinned. -/
def offered (s : State) (k : Nat) : State :=
  takeOffer (skipOlder (ssrcAge s k) k (agedSession s k)) k (unskipped (ssrcAge s k).cfg k (agedSession s k))

theorem sessionDeadline_eq (s : State) (k : Nat) :
    sessionDeadline s k = pinOffer (loseSession (offered s k) k) (sessOf (offered s k) k).offer := rfl

theorem pinOffer_step {s : State} (hs : s.canon) (k : Nat) (o : Option DoneFrame) : sessionStep k s (pinOffer s o) ∧
    (pinOffer s o).ing.sess = s.ing.sess ∧ ∀ f, o = some f → (f.handle, s.hoop.fNumber + 2) ∈ (pinOffer s o).ing.pins := by
  unfold pinOffer
  split
  next f =>
    obtain ⟨h, hp⟩ := pin_step hs k f.handle (s.hoop.fNumber + 2)
    exact ⟨h, rfl, fun g hg => Option.some.inj hg ▸ hp⟩
  next => exact ⟨.refl hs, rfl, fun f hf => absurd hf (by simp)⟩

/-- The parts that a deadline reaches. -/
abbrev deadlineParts : List Part := [.counts, .fresh, .records, .outboxes, .out, .regs, .sess, .src, .ing]

theorem notices_deadlineParts : Notices deadlineParts := by constructor <;> decide

theorem offered_step {s : State} (hs : s.canon) (k : Nat) : sessionStep k s (offered s k) ∧
    (sessOf (offered s k) k).offer = (chooseOffer s k (unskipped s.cfg k { sessOf s k with offer := standingOffer (ssrcAge s k) k })).or
      (standingOffer (ssrcAge s k) k) := by
  obtain ⟨ha, haw, -⟩ := ssrcAge_step hs k
  have hk := skipOlder_step ha.canon k (agedSession s k)
  obtain ⟨ht, ho⟩ := takeOffer_step hk.canon k (unskipped (ssrcAge s k).cfg k (agedSession s k))
  have hframe : (skipOlder (ssrcAge s k) k (agedSession s k)).outside deadlineParts = s.outside deadlineParts := by
    unfold skipOlder
    split <;> simp
  have hcfg : (ssrcAge s k).cfg = s.cfg := cfg_of_outside (ssrcAge_outside (w := deadlineParts) (by decide) s k) (by decide)
  have hchoose : chooseOffer (skipOlder (ssrcAge s k) k (agedSession s k)) k (unskipped (ssrcAge s k).cfg k (agedSession s k)) =
      chooseOffer s k (unskipped s.cfg k { sessOf s k with offer := standingOffer (ssrcAge s k) k }) := by
    refine chooseOffer_congr ?_ ?_ ?_ ?_ k
    · exact cfg_of_outside hframe (by decide)
    · exact congrArg HoopGen.bNext (hoop_of_outside hframe (by decide) (by decide) (by decide) (by decide) (by decide))
    · show List.filter _ (sessOf (ssrcAge s k) k).waiting = _
      rw [haw, hcfg]
      rfl
    · rfl
  exact ⟨(ha.trans hk).trans ht, ho.trans (congrArg (Option.or · _) hchoose)⟩

theorem sessionDeadline_step {s : State} (hs : s.canon) (k : Nat) : sessionStep k s (sessionDeadline s k) ∧
    (sessOf (sessionDeadline s k) k).offer = (sessOf (offered s k) k).offer ∧
    ∀ f, (sessOf (sessionDeadline s k) k).offer = some f → (f.handle, s.hoop.fNumber + 2) ∈ (sessionDeadline s k).ing.pins := by
  obtain ⟨ho, -⟩ := offered_step hs k
  obtain ⟨hl, hlo⟩ := loseSession_step ho.canon k
  obtain ⟨hp, hps, hpin⟩ := pinOffer_step hl.canon k (sessOf (offered s k) k).offer
  have hfn : (loseSession (offered s k) k).hoop.fNumber = s.hoop.fNumber := by
    have hframe : (loseSession (offered s k) k).outside deadlineParts = s.outside deadlineParts := by
      have hp : ∀ (t : State) (x : SessRt), (takeOffer t k x).outside deadlineParts = t.outside deadlineParts := fun t x => by
        unfold takeOffer
        (repeat' split) <;> simp [notices_deadlineParts]
      have hq : ∀ t : State, (loseSession t k).outside deadlineParts = t.outside deadlineParts := fun t => by
        unfold loseSession
        split <;> simp [notices_deadlineParts]
      have hr : ∀ (t : State) (x : SessRt), (skipOlder t k x).outside deadlineParts = t.outside deadlineParts := fun t x => by
        unfold skipOlder
        split <;> simp
      rw [hq, offered, hp, hr]
      exact ssrcAge_outside (by decide) s k
    exact fNumber_of_outside hframe (by decide)
  rw [sessionDeadline_eq, sessOf_congr hps, hlo]
  exact ⟨(ho.trans hl).trans hp, rfl, fun f hf => hfn ▸ hpin f hf⟩

/-! ### The deadline over every session -/

/-- Sessions other than those a fold visits keep what they hold, and pins stay. -/
theorem sessionDeadlines_kept {l : List Nat} {s : State} (hs : s.canon) : (l.foldl sessionDeadline s).canon ∧
    (∀ j, j ∉ l → sessOf (l.foldl sessionDeadline s) j = sessOf s j) ∧
    (∀ p ∈ s.ing.pins, p ∈ (l.foldl sessionDeadline s).ing.pins) := by
  induction l generalizing s with
  | nil => exact ⟨hs, fun _ _ => rfl, fun _ h => h⟩
  | cons k l ih =>
    obtain ⟨h, -⟩ := sessionDeadline_step hs k
    obtain ⟨hc, ho, hp⟩ := ih h.canon
    refine ⟨hc, fun j hj => ?_, fun p hmem => hp p (h.pins p hmem)⟩
    rw [List.mem_cons, not_or] at hj
    exact (ho j hj.2).trans (h.others j hj.1)

theorem sessionDeadlines_frame (l : List Nat) (s : State) :
    (l.foldl sessionDeadline s).outside deadlineParts = s.outside deadlineParts :=
  foldl_outside (fun t k => sessionDeadline_outside notices_deadlineParts (by decide) (by decide) (by decide) t k) l s

/-- What session `k` has offered once every session has had its deadline. -/
theorem sessionDeadlines_at {l : List Nat} (hl : l.Nodup) {k : Nat} (hk : k ∈ l) {s : State} (hs : s.canon) :
    let u := l.foldl sessionDeadline s
    (∀ f, (sessOf u k).offer = some f → (f.handle, s.hoop.fNumber + 2) ∈ u.ing.pins) ∧
      ((∀ f, (sessOf s k).offer = some f → (sessHandles s.cfg k).contains f.handle = true) →
        (sessOf u k).offer = (chooseOffer s k (unskipped s.cfg k (sessOf s k))).or (sessOf s k).offer) := by
  obtain ⟨l1, l2, h1, h2, -, hfold⟩ := foldl_at (f := sessionDeadline) hl hk s
  obtain ⟨hv, hvo, -⟩ := sessionDeadlines_kept (l := l1) hs
  have hframe := sessionDeadlines_frame l1 s
  generalize l1.foldl sessionDeadline s = v at hv hvo hframe hfold
  have hkv := hvo k h1
  have hcfg : v.cfg = s.cfg := cfg_of_outside hframe (by decide)
  have hhoop : v.hoop = s.hoop := hoop_of_outside hframe (by decide) (by decide) (by decide) (by decide) (by decide)
  obtain ⟨hd, hdo, hdp⟩ := sessionDeadline_step hv k
  obtain ⟨-, hoff⟩ := offered_step hv k
  obtain ⟨-, huo, hup⟩ := sessionDeadlines_kept (l := l2) hd.canon
  dsimp only
  rw [hfold, huo k h2]
  refine ⟨fun f hf => hup _ (hhoop ▸ hdp f hf), fun hin => ?_⟩
  have hstand : standingOffer (ssrcAge v k) k = (sessOf v k).offer := by
    obtain ⟨-, -, hao⟩ := ssrcAge_step hv k
    have hac : (ssrcAge v k).cfg = s.cfg :=
      (cfg_of_outside (ssrcAge_outside (w := deadlineParts) (by decide) v k) (by decide)).trans hcfg
    unfold standingOffer
    rw [hao, hac, hkv]
    cases ho : (sessOf s k).offer with
    | none => rfl
    | some f => exact if_pos ((Bool.or_eq_true _ _).mpr (.inr (hin f ho)))
  rw [hdo, hoff, hstand, hkv, hcfg]
  exact congrArg (Option.or · _) (chooseOffer_congr hcfg (congrArg HoopGen.bNext hhoop) rfl rfl k)

/-! ### Candidates (R155) -/

theorem sourceOf_setSource {s : State} (hs : s.canon) (l j : Nat) (x : SourceRt) :
    sourceOf (setSource s l x) j = if j = l then x else sourceOf s j := tget_tput hs.ing.src

/-- From `s` to `t` sessions and sources are the same, and no pin has gone. -/
structure judgeStep (s t : State) : Prop where
  canon : t.canon
  sess : t.ing.sess = s.ing.sess
  src : t.ing.src = s.ing.src
  pins : ∀ p ∈ s.ing.pins, p ∈ t.ing.pins

theorem judge_step {s : State} (hs : s.canon) (l n : Nat) : judgeStep s (judge s l n).2 := by
  have hc : (judge s l n).2.canon := (judge_keeps s l n (.refl s)).canon hs
  refine ⟨hc, ?_, ?_, ?_⟩
  · unfold judge
    dsimp only
    (repeat' split) <;> rfl
  · unfold judge
    dsimp only
    (repeat' split) <;> rfl
  · unfold judge
    dsimp only
    split
    · exact fun _ h => h
    · split
      next h _ =>
        intro p hp
        by_cases he : p = (h, s.hoop.fNumber + 2)
        · exact he ▸ List.mem_append_right _ List.mem_cons_self
        · exact List.mem_append_left _ (List.mem_filter.2 ⟨hp, decide_eq_true he⟩)
      · exact fun _ h => h
    · exact fun _ h => h

/-- A session candidate is healthy (R155). -/
def candHealthy (s : State) (l n : Nat) : Bool :=
  sessOn s.cfg (candSession s.cfg l n) &&
    decide ((sessOf s (candSession s.cfg l n)).state = .live ∨ (sessOf s (candSession s.cfg l n)).state = .lost) &&
    decide ((sessOf s (candSession s.cfg l n)).age < bits (srcW s.cfg l 0) 23 16)

theorem judge_session {s : State} {l n : Nat} (h : candKind s.cfg l n = 1) : (judge s l n).1 = candHealthy s l n := by
  unfold judge
  rw [h]
  rfl

theorem candHealthy_congr {s t : State} (hc : t.cfg = s.cfg) (hs : t.ing.sess = s.ing.sess) (l n : Nat) :
    candHealthy t l n = candHealthy s l n := by
  unfold candHealthy
  rw [hc, sessOf_congr hs]

/-- Candidate `n` judged, and the verdict kept. -/
def judgeInto (l : Nat) (s : State) (n : Nat) : State :=
  setSource (judge s l n).2 l { sourceOf (judge s l n).2 l with
    healthy := (sourceOf (judge s l n).2 l).healthy.set n (judge s l n).1
    run := (sourceOf (judge s l n).2 l).run.set n
      (if (judge s l n).1 then min (((sourceOf (judge s l n).2 l).run[n]?).getD 0 + 1) 255 else 0) }

theorem sourceDeadline_eq (s : State) (l : Nat) : sourceDeadline s l = (List.range 4).foldl (judgeInto l) s := rfl

/-- From `s` to `t` only source set `l` has been judged. -/
structure sourceStep (l : Nat) (s t : State) : Prop where
  canon : t.canon
  sess : t.ing.sess = s.ing.sess
  cfg : t.cfg = s.cfg
  others : ∀ j, j ≠ l → sourceOf t j = sourceOf s j
  pins : ∀ p ∈ s.ing.pins, p ∈ t.ing.pins

theorem sourceStep.trans {l : Nat} {s t u : State} (h : sourceStep l s t) (h' : sourceStep l t u) : sourceStep l s u :=
  ⟨h'.canon, h'.sess.trans h.sess, h'.cfg.trans h.cfg, fun j hj => (h'.others j hj).trans (h.others j hj),
    fun p hp => h'.pins p (h.pins p hp)⟩

theorem judgeInto_step {s : State} (hs : s.canon) (l n : Nat) : sourceStep l s (judgeInto l s n) ∧
    (sourceOf (judgeInto l s n) l).healthy = (sourceOf s l).healthy.set n (judge s l n).1 := by
  have h := judge_step hs l n
  have hsrc : ∀ j, sourceOf (judge s l n).2 j = sourceOf s j := fun j => congrArg (fun m => tget _ m j) h.src
  have hcfg : (judge s l n).2.cfg = s.cfg := cfg_of_outside (judge_outside (w := [.ing]) (by simp) s l n) (by simp)
  refine ⟨⟨(setSource_keeps _ l _ (.refl _)).canon h.canon, h.sess, hcfg, fun j hj => ?_, h.pins⟩, ?_⟩
  · rw [judgeInto, sourceOf_setSource h.canon, if_neg hj, hsrc]
  · rw [judgeInto, sourceOf_setSource h.canon, if_pos rfl, hsrc]

theorem judged_range {s : State} (hs : s.canon) (l k : Nat) : let t := (List.range k).foldl (judgeInto l) s
    sourceStep l s t ∧ ∀ n b, n < k → candKind s.cfg l n = 1 → (sourceOf t l).healthy[n]? = some b → b = candHealthy s l n := by
  induction k with
  | zero => exact ⟨⟨hs, rfl, rfl, fun _ _ => rfl, fun _ h => h⟩, fun n b hn => absurd hn (Nat.not_lt_zero n)⟩
  | succ k ih =>
    obtain ⟨hst, hh⟩ := ih
    dsimp only
    rw [List.range_succ, List.foldl_append]
    generalize (List.range k).foldl (judgeInto l) s = v at hst hh
    obtain ⟨hj, hjh⟩ := judgeInto_step hst.canon l k
    refine ⟨hst.trans hj, fun n b hn hk hb => ?_⟩
    rw [List.foldl_cons, List.foldl_nil, hjh] at hb
    by_cases hnk : n = k
    · subst hnk
      have hlen : n < (sourceOf v l).healthy.length := by
        have := (List.getElem?_eq_some_iff.1 hb).1
        rwa [List.length_set] at this
      rw [List.getElem?_set_self hlen, judge_session (by rw [hst.cfg]; exact hk), candHealthy_congr hst.cfg hst.sess] at hb
      exact (Option.some.inj hb).symm
    · rw [List.getElem?_set_ne (Ne.symm hnk)] at hb
      exact hh n b (by omega) hk hb

theorem sourceDeadlines_kept {l : List Nat} {s : State} (hs : s.canon) : let t := l.foldl sourceDeadline s
    t.canon ∧ t.ing.sess = s.ing.sess ∧ t.cfg = s.cfg ∧ (∀ j, j ∉ l → sourceOf t j = sourceOf s j) ∧
      ∀ p ∈ s.ing.pins, p ∈ t.ing.pins := by
  induction l generalizing s with
  | nil => exact ⟨hs, rfl, rfl, fun _ _ => rfl, fun _ h => h⟩
  | cons k l ih =>
    obtain ⟨h, -⟩ := judged_range hs k 4
    obtain ⟨hc, hse, hcf, ho, hp⟩ := ih h.canon
    refine ⟨hc, hse.trans h.sess, hcf.trans h.cfg, fun j hj => ?_, fun p hmem => hp p (h.pins p hmem)⟩
    rw [List.mem_cons, not_or] at hj
    exact (ho j hj.2).trans (h.others j hj.1)

theorem sourceDeadlines_at {l : List Nat} (hl : l.Nodup) {k : Nat} (hk : k ∈ l) {s : State} (hs : s.canon) {n : Nat} {b : Bool}
    (hn : n < 4) (hkind : candKind s.cfg k n = 1) (hb : (sourceOf (l.foldl sourceDeadline s) k).healthy[n]? = some b) :
    b = candHealthy s k n := by
  obtain ⟨l1, l2, h1, h2, -, hfold⟩ := foldl_at (f := sourceDeadline) hl hk s
  obtain ⟨hv, hvs, hvc, -⟩ := sourceDeadlines_kept (l := l1) hs
  generalize l1.foldl sourceDeadline s = v at hv hvs hvc hfold
  obtain ⟨hd, hdh⟩ := judged_range hv k 4
  rw [← sourceDeadline_eq] at hd hdh
  obtain ⟨-, -, -, huo, -⟩ := sourceDeadlines_kept (l := l2) hd.canon
  rw [hfold, huo k h2] at hb
  rw [← candHealthy_congr hvc hvs]
  exact hdh n b hn (by rw [hvc]; exact hkind) hb

/-! ### The deadline -/

theorem dropOffer_on {s : State} {k : Nat} (h : sessOn s.cfg k = true) : dropOffer s k = s := if_pos h

theorem dropOffers_kept {l : List Nat} {s : State} (hs : s.canon) : let t := l.foldl dropOffer s
    t.canon ∧ t = { s with ing := { s.ing with sess := t.ing.sess } } ∧ ∀ k, sessOn s.cfg k = true → sessOf t k = sessOf s k := by
  induction l generalizing s with
  | nil => exact ⟨hs, rfl, fun _ _ => rfl⟩
  | cons j l ih =>
    have hd : (dropOffer s j).canon := (dropOffer_keeps s j (.refl s)).canon hs
    have hf : dropOffer s j = { s with ing := { s.ing with sess := (dropOffer s j).ing.sess } } := by
      unfold dropOffer
      split <;> rfl
    obtain ⟨hc, he, ho⟩ := ih hd
    refine ⟨hc, ?_, fun k hk => ?_⟩
    · rw [List.foldl_cons, he]
      generalize (l.foldl dropOffer (dropOffer s j)).ing.sess = m
      rw [hf]
    · have hk' : sessOn (dropOffer s j).cfg k = true := by rw [hf]; exact hk
      refine (ho k hk').trans ?_
      unfold dropOffer
      split
      · rfl
      next hj =>
        have hne : k ≠ j := by
          rintro rfl
          exact hj hk
        rw [sessOf_setSess hs, if_neg hne]

/-- What the deadline has fixed: sessions, sources, pins and the configuration. -/
def State.frozen (s : State) : Table SessRt × Table SourceRt × List (Nat × Hoop) × Cfg := (s.ing.sess, s.ing.src, s.ing.pins, s.cfg)

theorem frozen_iff {s t : State} : t.frozen = s.frozen ↔
    t.ing.sess = s.ing.sess ∧ t.ing.src = s.ing.src ∧ t.ing.pins = s.ing.pins ∧ t.cfg = s.cfg := by
  simp only [State.frozen, Prod.mk.injEq]

theorem frozen_foldl {α : Type} {f : State → α → State} (hf : ∀ t x, (f t x).frozen = t.frozen) (l : List α) (s : State) :
    (l.foldl f s).frozen = s.frozen :=
  List.foldlRecOn (motive := fun t : State => t.frozen = s.frozen) l f rfl fun t ht x _ => (hf t x).trans ht

theorem afterDeadline_frozen (before s : State) : (afterDeadline before s).frozen = s.frozen := by
  have hpub : ∀ (t : State) (l : List (Hoop × Nat)), (l.foldl (fun s x => publish s x.2) t).frozen = t.frozen := fun t l =>
    frozen_foldl (f := fun s x => publish s x.2) (fun _ _ => rfl) l t
  unfold afterDeadline
  dsimp only
  split
  · refine (frozen_foldl (fun t k => ?_) _ _).trans ((hpub _ _).trans rfl)
    split
    · exact frozen_foldl (f := fun s n => setCurrent s n true) (fun _ _ => rfl) _ t
    · rfl
  · exact (hpub _ _).trans rfl

/-- Settles O29: at the deadline each enabled session offers a frame and pins it, and its candidates are judged. -/
theorem ingestDeadlineFreezes : Obligations.IngestDeadlineFreezes := by
  unfold Obligations.IngestDeadlineFreezes
  intro s t hs hrun hstart hdue ht
  have htc : t.canon := ht ▸ (runTo_keeps _ s (.refl s)).canon hs
  have hthoop : t.hoop = s.hoop := ht ▸ runTo_hoop ..
  have htw : t.outside [.counts, .fresh, .records, .outboxes, .out, .tim] = s.outside [.counts, .fresh, .records, .outboxes, .out, .tim] :=
    ht ▸ runTo_outside (by decide) (by constructor <;> decide) _ s
  have htcfg : t.cfg = s.cfg := cfg_of_outside htw (by decide)
  have hting : t.ing.sess = s.ing.sess := by
    rw [ht, runTo, tick]
    split
    · exact (congrArg (fun u : State => u.ing.sess) (notice_noticesOnly _ _ _ _ _ (.refl _)).fields :)
    · rfl
  obtain ⟨hd, hde, hdo⟩ := dropOffers_kept (l := t.ing.sess.map (·.1)) htc
  generalize hdd : (t.ing.sess.map (·.1)).foldl dropOffer t = d at hd hde hdo
  have hdcfg : d.cfg = s.cfg := (congrArg State.cfg hde :).trans htcfg
  have hdhoop : d.hoop = s.hoop := (congrArg State.hoop hde :).trans hthoop
  have hdsess : ∀ k, k ∈ enabledSessions s.cfg → sessOf d k = sessOf s k := fun k hk =>
    (hdo k (htcfg ▸ (List.mem_filter.1 hk).2)).trans (sessOf_congr hting k)
  obtain ⟨hv, -, -⟩ := sessionDeadlines_kept (l := enabledSessions d.cfg) hd
  have hvf := sessionDeadlines_frame (enabledSessions d.cfg) d
  have hat := fun k (hk : k ∈ enabledSessions s.cfg) =>
    sessionDeadlines_at (hdcfg ▸ enabledSessions_nodup hs : (enabledSessions d.cfg).Nodup) (hdcfg ▸ hk : k ∈ enabledSessions d.cfg) hd
  generalize hvv : (enabledSessions d.cfg).foldl sessionDeadline d = v at hv hvf hat
  have hvcfg : v.cfg = s.cfg := (cfg_of_outside hvf (by decide)).trans hdcfg
  obtain ⟨-, hus, huc, -, hup⟩ := sourceDeadlines_kept (l := enabledSources v.cfg) hv
  have hu : exec .ingestDeadline s = .next (afterDeadline s ((enabledSources v.cfg).foldl sourceDeadline v)) := by
    have hcond : (s.hoop.running && s.hoop.fStarted && !s.hoop.fDue) = true := by simp [hrun, hstart, hdue]
    rw [← hvv, ← hdd, ht]
    refine congrArg done ?_
    rw [ingestClose, if_pos hcond, ingestDeadline, if_pos hcond]
  obtain ⟨has, hasrc, hap, hac⟩ := frozen_iff.1 (afterDeadline_frozen s ((enabledSources v.cfg).foldl sourceDeadline v))
  refine ⟨_, hu, fun k f hk hf => ?_, fun k hk hin => ?_, fun l n b hl hn hkind hb => ?_⟩
  · rw [sessOf_congr (has.trans hus)] at hf
    rw [hap]
    exact hup _ (hdhoop ▸ (hat k hk).1 f hf)
  · rw [sessOf_congr (has.trans hus), (hat k hk).2 (by rwa [hdsess k hk, hdcfg]), hdsess k hk, hdcfg]
    exact congrArg (Option.or · _) (chooseOffer_congr (hdcfg.trans htcfg.symm) (congrArg HoopGen.bNext (hdhoop.trans hthoop.symm)) rfl rfl k)
  · rw [sourceOf, hasrc] at hb
    have hjudged := sourceDeadlines_at (hvcfg ▸ enabledSources_nodup hs : (enabledSources v.cfg).Nodup) (hvcfg ▸ hl) hv hn
      (by rw [hvcfg]; exact hkind) hb
    rw [hjudged, ← candHealthy_congr (hac.trans huc) (has.trans hus), candHealthy, hac, huc, hvcfg]

end Sys2Proof.Machine

/-! A session packet: the session it belongs to, its sequence number and marker, and its pixels (R136, R141, R142, R151). -/
namespace Sys2Proof.Machine

/-! ### The packet reaches its session (R136, R141) -/

theorem sessionStage_fits {s : State} {p k used : Nat} {rtp frame : List Byte} (h : used + frame.length ≤ 1048576) :
    sessionStage s p k used rtp frame =
      xoffCheck (memRequest (sessionPacket (noteFill s p (used + frame.length)) k rtp false)) p (used + frame.length) := by
  have hfull : decide (1048576 < used + frame.length) = false := decide_eq_false (Nat.not_lt.2 h)
  unfold sessionStage
  rw [hfull]
  rfl

theorem ingestStage_session {s : State} {p used k : Nat} {f : RxFrame} {u : UdpFrame} (hptp : ptpAt f.bytes = none)
    (hu : parseUdp f.bytes (f.tci.map fun v => v % 4096) = some u) (hk : sessionMatch s p u = some k) :
    ingestStage s p used f = sessionStage s p k used u.payload f.bytes := by
  unfold ingestStage
  rw [hptp]
  dsimp only
  rw [hu]
  dsimp only [Option.map_some, Option.getD_some]
  rw [hk]

/-! ### Pixels (R151) -/

theorem pixelAt_putPixel {s : State} (hs : s.canon) (n q p : Nat) (v : BitVec 64) :
    pixelAt (putPixel n s (q, v)) n p = if p = q then v else pixelAt s n p := by
  have hkey : pixelKey n p = pixelKey n q ↔ p = q := Nat.add_left_cancel_iff
  rw [pixelAt, putPixel, setLay, tget_tput hs.lay.pixels]
  simp only [hkey]
  rfl

theorem putPixel_fields (n : Nat) (s : State) (x : Nat × BitVec 64) :
    putPixel n s x = { s with lay := { s.lay with pixels := (putPixel n s x).lay.pixels } } := rfl

theorem putPixel_canon {s : State} (hs : s.canon) (n : Nat) (x : Nat × BitVec 64) : (putPixel n s x).canon :=
  (putPixel_keeps n s x (.refl s)).canon hs

theorem rgbPixel_putPixel (n : Nat) (s : State) (x : Nat × BitVec 64) (a r g b : Nat) :
    rgbPixel (putPixel n s x) a r g b = rgbPixel s a r g b := rfl

/-- The pixels of a pgroup are written at their offsets, and nothing else of the state changes. -/
theorem pixelAt_putPixels {s : State} (hs : s.canon) (n q a : Nat) (r g b : Nat → Nat) (k : Nat) :
    let t := (List.range k).foldl (fun s i => putPixel n s (q + i, rgbPixel s a (r i) (g i) (b i))) s
    t.canon ∧ t = { s with lay := { s.lay with pixels := t.lay.pixels } } ∧
      ∀ i, i < k → pixelAt t n (q + i) = rgbPixel s a (r i) (g i) (b i) := by
  induction k with
  | zero => exact ⟨hs, rfl, fun i hi => absurd hi (Nat.not_lt_zero i)⟩
  | succ k ih =>
    obtain ⟨hc, he, hp⟩ := ih
    dsimp only
    rw [List.range_succ, List.foldl_append]
    generalize (List.range k).foldl (fun s i => putPixel n s (q + i, rgbPixel s a (r i) (g i) (b i))) s = t at hc he hp
    have hpix : rgbPixel t a (r k) (g k) (b k) = rgbPixel s a (r k) (g k) (b k) := by rw [he]; rfl
    refine ⟨putPixel_canon hc _ _, ?_, fun i hi => ?_⟩
    · rw [List.foldl_cons, List.foldl_nil, putPixel_fields, he]
    · rw [List.foldl_cons, List.foldl_nil, pixelAt_putPixel hc, hpix]
      by_cases hik : i = k
      · rw [if_pos (by rw [hik]), hik]
      · rw [if_neg (by omega), hp i (by omega)]

theorem storePgroup_rgb {s : State} {k n : Nat} {c : Frame} (hc : (sessOf s k).cur = some c) (hn : c.handle = some n)
    (hy : fmtYcc (word c.args 0) = false) (q : Nat) (bs : List Byte) :
    storePgroup k s (q, bs) = (List.range (pgroup (word c.args 0)).2).foldl (fun s i => putPixel n s (q + i,
      rgbPixel s (word c.args 0) (((pgroupSamples (word c.args 0) bs)[3 * i]?).getD 0)
        (((pgroupSamples (word c.args 0) bs)[3 * i + 1]?).getD 0) (((pgroupSamples (word c.args 0) bs)[3 * i + 2]?).getD 0))) s := by
  unfold storePgroup
  dsimp only
  rw [hc]
  dsimp only
  rw [if_neg (by simp [hy]), hn]

/-! ### The frame in reception (R142) -/

/-- Pixels that are stored leave the sequence numbers of the frame in reception. -/
def seqsOf (s : State) (k : Nat) : Option (List Nat) := (sessOf s k).cur.map (·.seqs)

theorem putPixel_sessOf (n : Nat) (s : State) (x : Nat × BitVec 64) (k : Nat) : sessOf (putPixel n s x) k = sessOf s k := rfl

theorem storeYcc_sessOf (k q : Nat) (s : State) (j : Nat) : sessOf (storeYcc k q s) j = sessOf s j := by
  unfold storeYcc
  split
  · split
    · dsimp only
      split <;> rfl
    · rfl
  · rfl

theorem modFrame_canon {s : State} (hs : s.canon) (k : Nat) (g : Frame → Frame) : (modFrame s k g).canon :=
  (modFrame_keeps s k g (.refl s)).canon hs

theorem sessOf_modFrame {s : State} (hs : s.canon) (k : Nat) (g : Frame → Frame) :
    sessOf (modFrame s k g) k = { sessOf s k with cur := (sessOf s k).cur.map g } := sessOf_setSess_self hs k _

theorem storePgroup_seqs {s : State} (hs : s.canon) (k : Nat) (x : Nat × List Byte) :
    (storePgroup k s x).canon ∧ seqsOf (storePgroup k s x) k = seqsOf s k := by
  refine ⟨(storePgroup_keeps k s x (.refl s)).canon hs, ?_⟩
  obtain ⟨q, bs⟩ := x
  unfold storePgroup
  dsimp only
  split
  next f hf =>
    split
    · have hmod : ∀ g : Frame → Frame, (∀ f, (g f).seqs = f.seqs) → seqsOf (modFrame s k g) k = seqsOf s k := fun g hg => by
        rw [seqsOf, sessOf_modFrame hs, seqsOf]
        cases (sessOf s k).cur with
        | none => rfl
        | some f => exact congrArg some (hg f)
      split
      · simp only [seqsOf, storeYcc_sessOf]
        exact hmod _ fun _ => rfl
      · simp only [seqsOf, storeYcc_sessOf]
        exact hmod _ fun _ => rfl
    · split
      · rw [seqsOf]
        refine congrArg (fun y : SessRt => y.cur.map (·.seqs)) ?_
        exact List.foldlRecOn (motive := fun t : State => sessOf t k = sessOf s k) _ _ rfl fun t ht i _ => ht
      · rfl
  next => rfl

theorem storePgroups_seqs {s : State} (hs : s.canon) (k : Nat) (l : List (Nat × List Byte)) :
    (l.foldl (storePgroup k) s).canon ∧ seqsOf (l.foldl (storePgroup k) s) k = seqsOf s k := by
  induction l generalizing s with
  | nil => exact ⟨hs, rfl⟩
  | cons x l ih =>
    obtain ⟨hc, hq⟩ := storePgroup_seqs hs k x
    obtain ⟨hc', hq'⟩ := ih hc
    exact ⟨hc', hq'.trans hq⟩

theorem modFrame_congr {s : State} {k : Nat} {g g' : Frame → Frame} (h : ∀ f, (sessOf s k).cur = some f → g f = g' f) :
    modFrame s k g = modFrame s k g' := by
  have hmap : (sessOf s k).cur.map g = (sessOf s k).cur.map g' := by
    cases hc : (sessOf s k).cur with
    | none => rfl
    | some f => exact congrArg some (h f hc)
  unfold modFrame
  dsimp only
  rw [hmap]

/-- A packet of one row that the frame in reception takes. -/
theorem framePacket_row {s : State} (hs : s.canon) {k n q : Nat} {c : Frame} {r : Nat × Bool × Nat × Nat} (hc : (sessOf s k).cur = some c)
    (hn : c.handle = some n) (hcomp : c.complete = false) (hseq : c.seqs = []) (marker : Bool) {bs : List Byte}
    (hbpm : bitOf (word c.args 0) 12 = false) (hlen : r.1 ≤ bs.length)
    (herr : headerError (word c.args 0) (bits (word c.args 4) 31 16) (bits (word c.args 4) 15 0) r = 0) :
    framePacket s k q marker false [r] bs false = modFrame
      ((packetGroups (word c.args 0) (bits (word c.args 4) 31 16) [r] bs).foldl (storePgroup k) s) k
      fun f => { f with
        seqs := q :: f.seqs, high := q
        pixels := f.pixels + r.1 / (pgroup (word c.args 0)).1 * (pgroup (word c.args 0)).2
        marker := if marker then some q else f.marker } := by
  have hdata : packetData (word c.args 0) bs = bs := if_neg (by rw [hbpm]; exact Bool.false_ne_true)
  have hsum : ∀ a : Nat, sumNat [a] = a := Nat.zero_add
  unfold framePacket
  rw [hc]
  dsimp only
  rw [if_neg (by simp [hn, hcomp]), if_neg (by simp [hseq])]
  simp only [List.map_cons, List.map_nil, herr, hdata, hsum]
  rw [if_neg (by simp), if_neg (by simp), if_neg (Nat.not_lt.2 hlen), if_neg (by simp)]
  obtain ⟨-, hq⟩ := storePgroups_seqs hs k (packetGroups (word c.args 0) (bits (word c.args 4) 31 16) [r] bs)
  refine modFrame_congr fun f hf => ?_
  have hfs : f.seqs = [] := by
    rw [seqsOf, seqsOf, hf, hc] at hq
    exact (Option.some.inj hq).trans hseq
  rw [if_pos (.inl hfs)]

theorem be_drop (bs : List Byte) (d off n : Nat) : be (bs.drop d) off n = be bs (d + off) n := by
  rw [be, be, slice, slice, List.drop_drop]

theorem tsEarlier_self (t : Nat) : tsEarlier t t = false := by
  unfold tsEarlier
  dsimp only
  have h : (t + 2 ^ 32 - t % 2 ^ 32) % 2 ^ 32 = 0 := by omega
  rw [h]
  rfl

/-- A packet of a session with a source address and the frame in reception's time stamp goes to that frame. -/
theorem sessionPacket_inFrame {s : State} {k : Nat} {c : Frame} {rtp : List Byte} {r : Nat × Bool × Nat × Nat}
    (hc : (sessOf s k).cur = some c) (hsrc : sessW s.cfg k 2 ≠ 0) (hts : c.ts = be rtp 4 4)
    (h0 : byteAt rtp 0 = 0x80) (hpt : bitOf (sessW s.cfg k 3) 7 = false) (hrows : rowHeaders (rtp.drop 14) 3 = [r])
    (hlen : 20 + r.1 ≤ rtp.length) :
    sessionPacket s k rtp false = framePacket s k (be rtp 12 2 * 65536 + be rtp 2 2) (bitOf (byteAt rtp 1) 7) false [r] (rtp.drop 20) false := by
  have htake : ∀ v, ssrcTake s k v = (true, s) := fun v => if_pos hsrc
  have hcsrc : 12 + 4 * (128 % 16) = 12 := rfl
  have hext : bitOf 128 4 = false := rfl
  have hpad : bitOf 128 5 = false := rfl
  unfold sessionPacket
  rw [if_neg (by omega), htake]
  dsimp only
  rw [if_neg (by simp), hc]
  dsimp only
  have hearlier : ¬ tsEarlier c.ts c.ts = true := by rw [tsEarlier_self]; exact Bool.false_ne_true
  rw [← hts, if_neg hearlier]
  simp only [if_true, h0, hext, hpad, hcsrc, Bool.false_eq_true, if_false, List.take_length, List.drop_drop, be_drop, hrows, hpt, Bool.false_and,
    List.length_cons, List.length_nil]
  rw [if_neg (by rw [List.length_drop]; omega)]

/-- Settles O27: a packet reaches its session, joins the frame in reception, and its pixels are stored. -/
theorem sessionPacketReceived : Obligations.SessionPacketReceived := by
  unfold Obligations.SessionPacketReceived
  refine ⟨fun p frame phase used k f u s t hlo hhi ha hptp hu hk hfit => ?_,
    fun k n rtp c r s hs hc hn hcomp hsrc hts h12 h0 hpt hrows hbpm hlen herr hseq => ?_,
    fun k n q i bs c s hs hc hn hy hi => ?_⟩
  · refine congrArg done ((ha.receive used).trans ?_)
    rw [consume_ingest hlo hhi used ha.whole, ingestStage_session hptp hu hk, sessionStage_fits hfit]
  · rw [sessionPacket_inFrame hc hsrc hts h0 hpt hrows hlen]
    exact framePacket_row hs hc hn hcomp hseq _ hbpm (by rw [List.length_drop]; omega) herr
  · rw [storePgroup_rgb hc hn hy]
    exact (pixelAt_putPixels hs n q (word c.args 0) (fun i => ((pgroupSamples (word c.args 0) bs)[3 * i]?).getD 0)
      (fun i => ((pgroupSamples (word c.args 0) bs)[3 * i + 1]?).getD 0)
      (fun i => ((pgroupSamples (word c.args 0) bs)[3 * i + 2]?).getD 0) _).2.2 i hi

end Sys2Proof.Machine

/-! Frames of a window's close (R121, R122). -/
namespace Sys2Proof.Machine

section
variable {w : List Part} (hn : Notices w)
include hn

@[simp] theorem postRefusal_outside (s : State) (r : Refuse) : (postRefusal s r).outside w = s.outside w := by
  unfold postRefusal
  (repeat' split) <;> simp [hn]

end

section
variable {w : List Part} (hn : Notices w) (htrack : .track ∈ w) (hacks : .acks ∈ w)
include hn htrack hacks

@[simp] theorem finishMembers_outside (s : State) (ms : List Member) (st : Nat) :
    (finishMembers s ms st).outside w = s.outside w := by
  unfold finishMembers
  simp [hn, htrack, hacks]

end

section
variable {w : List Part} (hn : Notices w) (htrack : .track ∈ w) (hmac : .mac ∈ w) (hacks : .acks ∈ w)
  (htwn : .twn ∈ w)
include hn htrack hmac hacks htwn

@[simp] theorem roleClosed_outside (s : State) (d : Desc) : (roleClosed s d).outside w = s.outside w := by
  unfold roleClosed
  (repeat' split) <;> simp [hn, htrack, hmac, hacks, htwn]

end


end Sys2Proof.Machine

/-! What members do to the end state of their set, and the close of the window (R121, R122). -/
namespace Sys2Proof.Machine

/-! ### The end state (R122) -/

/-- The end state that a set starts from. -/
def startState (s : State) (ms : List Member) : EndState := { members := ms, cfg := s.cfg, hoopRegs := [], portRegs := [], named := [] }

theorem endStateOf_one (s : State) (m : Member) : endStateOf s [m] = applyMember s (startState s [m]) m := rfl

section
variable (s : State) (e : EndState) {m : Member}

theorem applyMember_bind (h : m.desc.opcode = 0x04) : (applyMember s e m).cfg.binds =
    tput (fun _ => none) e.cfg.binds (darg m.desc 0 % 32) (some m.desc.object) := by
  unfold applyMember
  dsimp only
  rw [h]
  rfl

theorem applyMember_retire (h : m.desc.opcode = 0x05) :
    (applyMember s e m).cfg.binds = tput (fun _ => none) e.cfg.binds (darg m.desc 0 % 32) none := by
  unfold applyMember
  dsimp only
  rw [h]
  rfl

theorem applyMember_commit (h : m.desc.opcode = 0x10) : (applyMember s e m).cfg.parts =
    (namedParts m.desc).foldl (fun t p => tput (fun _ => []) t p (stageOf s p).data) e.cfg.parts := by
  unfold applyMember
  dsimp only
  rw [h]
  rfl

theorem applyMember_layer (h : m.desc.opcode = 0x13) (hc : bitOf (darg m.desc 0) 31 = false) :
    (applyMember s e m).cfg.layers = tput (fun _ => []) e.cfg.layers m.desc.object (m.desc.args.take 5) := by
  unfold applyMember
  dsimp only
  rw [h]
  exact congrArg Cfg.layers (if_neg (by simp [hc]))

theorem applyMember_session (h : m.desc.opcode = 0x14) (hc : bitOf (darg m.desc 0) 31 = true) :
    (applyMember s e m).cfg.sessions = tput (fun _ => []) e.cfg.sessions m.desc.object m.desc.args := by
  unfold applyMember
  dsimp only
  rw [h]
  exact congrArg (tput (fun _ => []) e.cfg.sessions m.desc.object) (if_pos hc)

theorem applyMember_source (h : m.desc.opcode = 0x15) :
    (applyMember s e m).cfg.sources = tput (fun _ => []) e.cfg.sources m.desc.object (m.desc.args.take 5) := by
  unfold applyMember
  dsimp only
  rw [h]
  rfl

theorem applyMember_hoop (h : m.desc.opcode = 0x16) : (applyMember s e m).hoopRegs = hoopSetRegs e.hoopRegs m.desc := by
  unfold applyMember
  dsimp only
  rw [h]
  rfl

theorem applyMember_owner (h : m.desc.opcode = 0x24) : (applyMember s e m).cfg.cid = darg m.desc 0 := by
  unfold applyMember
  dsimp only
  rw [h]
  rfl

/-- No member changes who the members are. -/
theorem applyMember_members (m : Member) : (applyMember s e m).members = e.members := by
  unfold applyMember
  dsimp only
  split
  case h_9 => split <;> rfl
  all_goals rfl

end

theorem endStateOf_members (s : State) (ms : List Member) : (endStateOf s ms).members = ms :=
  List.foldlRecOn (motive := fun e : EndState => e.members = ms) ms (applyMember s) rfl
    fun e he m _ => (applyMember_members s e m).trans he

/-- A table with values put at the numbers of a list. -/
theorem tget_foldl_tput {α : Type} [DecidableEq α] {d : Nat → α} (f : Nat → α) (l : List Nat) {t : Table α} (ht : twf d t = true) (p : Nat) :
    tget d (l.foldl (fun t p => tput d t p (f p)) t) p = if p ∈ l then f p else tget d t p := by
  induction l generalizing t with
  | nil => rfl
  | cons q l ih =>
    rw [List.foldl_cons, ih (tput_twf ht), tget_tput ht]
    by_cases hp : p = q
    · subst hp
      simp
    · simp [hp]

theorem mem_putReg_self (l : List (Nat × Word)) (a : Nat) (v : Word) : (a, v) ∈ putReg l a v :=
  List.mem_append_right _ List.mem_cons_self

theorem mem_putReg_other {l : List (Nat × Word)} {a b : Nat} {v : Word} (h : (a, v) ∈ l) (hab : a ≠ b) (x : Word) :
    (a, v) ∈ putReg l b x := List.mem_append_left _ (List.mem_filter.2 ⟨h, decide_eq_true hab⟩)

/-- HOOP_SET with its RATE bit sets the rate. -/
theorem mem_hoopSetRegs_rate (l : List (Nat × Word)) {d : Desc} (h : bitOf (darg d 0) 1 = true) :
    (HOOP_RATE, w32 (darg d 1)) ∈ hoopSetRegs l d := by
  have hput : ∀ (c : Bool) (l : List (Nat × Word)) (b : Nat) (x : Word), HOOP_RATE ≠ b → (HOOP_RATE, w32 (darg d 1)) ∈ l →
      (HOOP_RATE, w32 (darg d 1)) ∈ if c then putReg l b x else l := fun c l b x hb hm => by
    split
    · exact mem_putReg_other hm hb x
    · exact hm
  have hlead : ∀ (c : Bool) (l : List (Nat × Word)), (HOOP_RATE, w32 (darg d 1)) ∈ l → (HOOP_RATE, w32 (darg d 1)) ∈
      if c then (List.range 5).foldl (fun l i => putReg l (HOOP_LEAD i) (w32 (darg d (4 + i)))) l else l := fun c l hm => by
    split
    · exact List.foldlRecOn (motive := fun l => (HOOP_RATE, w32 (darg d 1)) ∈ l) _ _ hm fun l hl i _ =>
        mem_putReg_other hl (by unfold HOOP_RATE HOOP_LEAD; omega) _
    · exact hm
  unfold hoopSetRegs
  extract_lets a on l0 l1 l2 l3
  have h1 : (HOOP_RATE, w32 (darg d 1)) ∈ l1 := by
    show _ ∈ if on 1 then putReg l0 HOOP_RATE (a 1) else l0
    rw [show on 1 = true from h]
    exact mem_putReg_self _ _ _
  exact hlead _ _ (hput _ _ _ _ (by decide) (hput _ _ _ _ (by decide) h1))

/-! ### The close of the window (R121, R122) -/

/-- The parts that the judgement of a set reaches besides the window. -/
abbrev closeParts : List Part := [.counts, .fresh, .records, .outboxes, .out, .track, .mac, .acks, .twn, .upd, .hoopRegs, .handles,
  .stages]

theorem notices_closeParts : Notices closeParts := by constructor <;> decide

theorem judgeSet_refused {s : State} {e : EndState} {r : Refuse} (h : setChecks s e = some r) :
    (judgeSet s e).2.outside closeParts = s.outside closeParts := by
  have hu : (judgeSet s e).2 = settleAct (finishMembers (postRefusal s r) e.members r.st) := by
    unfold judgeSet
    rw [h]
  rw [hu]
  simp [notices_closeParts]

/-- A member accepted: its entry is past its point of no return. -/
def acceptMember (s : State) (m : Member) : State :=
  let s := if m.origin = .host then modTrack s m.id fun t => { t with phase := .accepted, past := true } else s
  if m.desc.opcode = 0x70 then roleClosed s m.desc else s

theorem acceptMember_outside (s : State) (m : Member) : (acceptMember s m).outside closeParts = s.outside closeParts := by
  unfold acceptMember
  simp [notices_closeParts]

theorem judgeSet_accepted {s : State} {e : EndState} (h : setChecks s e = none) :
    ∃ v : State, (judgeSet s e).2 = setWin v { v.win with closed := some e } ∧ v.outside closeParts = s.outside closeParts := by
  refine ⟨e.members.foldl acceptMember (acceptSet s e), ?_, ?_⟩
  · unfold judgeSet
    rw [h]
    rfl
  · rw [foldl_outside acceptMember_outside]
    exact acceptSet_outside (by decide) (by decide) (by decide) s e

/-- What the judgement of a set leaves: the window as it stands, and the set closed where every check passes. -/
theorem judgeSet_spec (s : State) (e : EndState) : let u := (judgeSet s e).2
    u.win = { s.win with closed := if setChecks s e = none then some e else s.win.closed } ∧ u.cfg = s.cfg ∧ u.boot = s.boot := by
  cases h : setChecks s e with
  | some r =>
    have hf := judgeSet_refused h
    exact ⟨win_of_outside hf (by decide) (by decide), cfg_of_outside hf (by decide), boot_of_outside hf (by decide)⟩
  | none =>
    obtain ⟨v, hv, hf⟩ := judgeSet_accepted h
    have hw := win_of_outside hf (by decide) (by decide)
    have hcfg : v.cfg = s.cfg := cfg_of_outside hf (by decide)
    have hboot : v.boot = s.boot := boot_of_outside hf (by decide)
    dsimp only
    rw [hv, setWin, hw]
    exact ⟨rfl, hcfg, hboot⟩

theorem releaseHeld_none {s : State} (h : s.win.held = []) : releaseHeld s = s := by
  have hw : setWin s { s.win with held := [] } = s := by
    rw [← h]
    rfl
  unfold releaseHeld
  rw [h]
  split
  · exact hw
  · rfl

theorem forwardRoles_off {s : State} (h : forwards s = false) (ms : List Member) : forwardRoles s ms = s := if_neg (by simp [h])

theorem sendClose_off {s : State} (h : forwards s = false) (st count : Nat) : sendClose s st count = s := if_neg (by simp [h])

/-- The window closes with the members it has: those of one unit, none of which names a role. -/
theorem closeWindow_alone {s t : State} (hrun : s.hoop.running = true) (hstart : s.hoop.fStarted = true) (hdue : s.hoop.fDue = false)
    (hopen : s.win.isOpen = true) (hheld : s.win.held = []) (hne : s.win.members ≠ [])
    (hrole : ∀ m, m ∈ s.win.members → m.desc.opcode ≠ 0x70) (htwin : s.boot.twinEn = false) (hlgw : s.lgw.opened = false)
    (ht : t = setWin (runTo (moveQ s.hoop.bNext (-(leadQ s 1 : Nat))) s) { s.win with isOpen := false, members := [] }) :
    closeWindow s = (judgeSet t (endStateOf t s.win.members)).2 := by
  let r := runTo (moveQ s.hoop.bNext (-(leadQ s 1 : Nat))) s
  have hframe : r.outside [.counts, .fresh, .records, .outboxes, .out, .tim] = s.outside [.counts, .fresh, .records, .outboxes, .out, .tim] :=
    runTo_outside (by decide) (by constructor <;> decide) _ s
  have hrw : r.win = s.win := win_of_outside hframe (by decide) (by decide)
  have hrb : r.boot = s.boot := boot_of_outside hframe (by decide)
  have hrl : r.lgw = s.lgw := by simpa [State.outside] using congrArg State.lgw hframe
  have hoff : forwards r = false := forwards_off (by rw [hrb, htwin])
  have hcond : (s.hoop.running && s.hoop.fStarted && !s.hoop.fDue && s.win.isOpen) = true := by simp [hrun, hstart, hdue, hopen]
  have hrefused : ∀ m ∈ s.win.members, roleRefused r m = false := fun m hm => by simp [roleRefused, hrole m hm]
  have hbad : s.win.members.filter (roleRefused r) = [] := List.filter_eq_nil_iff.2 fun m hm => by simp [hrefused m hm]
  have hall : (s.win.members.filter fun m => !roleRefused r m) = s.win.members :=
    List.filter_eq_self.2 fun m hm => by simp [hrefused m hm]
  have htr : t = setWin r { s.win with isOpen := false, members := [] } := ht
  have hnone : ∀ c, lgwMembers t c = ([], t) := fun c => by
    have hcl : t.lgw.opened = false := by rw [htr]; exact (congrArg Lgw.opened hrl).trans hlgw
    exact if_neg (by simp [hcl])
  have hmem : (endStateOf t s.win.members).members ≠ [] := by rwa [endStateOf_members]
  have hclose : forwards (judgeSet t (endStateOf t s.win.members)).2 = false := by
    refine forwards_off ?_
    rw [(judgeSet_spec t _).2.2, htr]
    exact (congrArg Boot.twinEn hrb).trans htwin
  have hreleased : forwardJoined (releaseHeld r) = r := by
    rw [releaseHeld_none (by rw [hrw, hheld]), forwardJoined_off hoff]
  unfold closeWindow
  rw [if_pos hcond]
  dsimp only
  rw [show runTo (moveQ s.hoop.bNext (-(leadQ s 1 : Nat))) s = r from rfl, hreleased, hrw, hbad, hall, forwardRoles_off hoff, hrw, ← htr]
  simp only [show finishMembers t [] stState = t from rfl, hnone, List.append_nil]
  rw [if_neg hmem]
  exact sendClose_off hclose _ _

/-- Settles O24: each member sets what it names, and a window that closes leaves its set closed or refused. -/
theorem setsAreBuilt : Obligations.SetsAreBuilt := by
  unfold Obligations.SetsAreBuilt
  refine ⟨fun s m hs => ⟨fun h => ?_, fun h => ?_, fun h p hp => ?_, fun h hc => ?_, fun h hc => ?_, fun h => ?_, fun h hc => ?_,
    fun h => applyMember_owner s _ h⟩, fun t e s hrun hstart hdue hopen hheld hne hrole htwin hlgw ht he => ?_⟩
  · rw [endStateOf_one, applyMember_bind s _ h]
    exact tget_tput_self hs.cfg.binds
  · rw [endStateOf_one, applyMember_retire s _ h]
    exact tget_tput_self hs.cfg.binds
  · rw [endStateOf_one, applyMember_commit s _ h]
    refine (tget_foldl_tput (fun p => (stageOf s p).data) _ hs.cfg.parts p).trans ?_
    simp only [namedParts, List.mem_filter, List.mem_range, hp, true_and]
  · rw [endStateOf_one, applyMember_layer s _ h hc]
    exact tget_tput_self hs.cfg.layers
  · rw [endStateOf_one, applyMember_session s _ h hc]
    exact tget_tput_self hs.cfg.sessions
  · rw [endStateOf_one, applyMember_source s _ h]
    exact tget_tput_self hs.cfg.sources
  · rw [endStateOf_one, applyMember_hoop s _ h]
    exact mem_hoopSetRegs_rate _ hc
  · obtain ⟨hw, hcfg, -⟩ := judgeSet_spec t e
    have hu : exec .commitWindowClose s = .next (judgeSet t e).2 :=
      congrArg done (he ▸ closeWindow_alone hrun hstart hdue hopen hheld hne hrole htwin hlgw ht)
    have htc : t.cfg = s.cfg := by
      rw [ht]
      exact cfg_of_outside (runTo_outside (w := allBut [.cfg]) (by simp) (by simp) _ s) (by simp)
    refine ⟨_, hu, ?_, ?_, ?_, hcfg.trans htc⟩
    · rw [hw, ht]
      rfl
    · rw [hw, ht]
      rfl
    · rw [hw, ht]
      rfl

end Sys2Proof.Machine

/-! Handles are allocated, filled, written, read and freed (R147 to R149, R161 to R163). -/
namespace Sys2Proof.Machine

/-! ### BUF_ALLOC and BUF_FREE reach their block -/

section
variable {s : State} {t : Track} (h : twinRefuses s t.desc = false) (htwin : s.boot.twinEn = false)
include h htwin

theorem startEntry_alloc (hop : t.desc.opcode = 0x01) : startEntry s t = startAlloc (handOver s t.id) t := by
  have hoff : (handOver s t.id).boot.twinEn = false := htwin
  simp only [startEntry, twinRefuses_handOver, h, hop, forwardStep_off hoff, Bool.false_eq_true, if_false]

theorem startEntry_free (hop : t.desc.opcode = 0x06) : startEntry s t = startFree (handOver s t.id) t := by
  have hoff : (handOver s t.id).boot.twinEn = false := htwin
  simp only [startEntry, twinRefuses_handOver, h, hop, forwardStep_off hoff, Bool.false_eq_true, if_false]

end

/-- The jobs of other opcodes are the same when an entry has been handed over. -/
theorem jobOn_handOver {s : State} {t : Track} (ht : findTrack s t.id = some t) {op : Nat} (hop : t.desc.opcode ≠ op) (n : Nat) :
    jobOn (handOver s t.id) op n = jobOn s op n := by
  unfold jobOn
  rw [← List.head?_filter, ← List.head?_filter]
  exact congrArg List.head? (filter_modFirst ht (by simp [hop]) (by simp))

theorem startFree_idle {s : State} {t : Track} (hdata : noData t.desc = true) (hargs : argsZeroFrom t.desc 0 = true)
    (hidle : (handleOf s t.desc.object).state = .idle) (hw : writeInFlight s t.desc.object = false)
    (hr : readInFlight s t.desc.object = false) :
    startFree s t = finish (setFreePages (setHandle (clearPixels (setIng s
        { s.ing with published := tput (fun _ => 0) s.ing.published t.desc.object 0 }) t.desc.object) t.desc.object Handle.reset)
      (s.lay.freePages + (handleOf s t.desc.object).pages)) t.id stOk 0 0 := by
  unfold startFree
  dsimp only
  rw [if_neg (by simp [hdata, hargs]), hidle]
  exact if_neg (by simp [hw, hr])

/-! ### An access of package memory leaves the pair alone -/

theorem stackRequest_hoop (s : State) (i : Nat) : stackRequest s i = { s with hoop := (stackRequest s i).hoop } := by
  unfold stackRequest stackWake setStack
  dsimp only
  split
  · split <;> rfl
  · split <;> split <;> rfl

theorem memRequest_hoop (s : State) : memRequest s = { s with hoop := (memRequest s).hoop } := by
  have h0 := stackRequest_hoop s 0
  unfold memRequest
  rw [stackRequest_hoop (stackRequest s 0) 1, h0]

theorem alone.memRequest {s : State} (h : alone s) : alone (memRequest s) := by
  rw [memRequest_hoop]
  exact h.congr rfl rfl rfl

/-! ### What a completion may change -/

/-- A completion leaves the blocks alone: the tracker, its records and the notices of freed places. -/
def finishParts : List Part := [.counts, .fresh, .records, .outboxes, .out, .track, .acks]

theorem finish_outside_finishParts (s : State) (id st r0 r1 : Nat) :
    (finish s id st r0 r1).outside finishParts = s.outside finishParts :=
  finish_outside (by constructor <;> decide) (by decide) (by decide) ..

/-! ### The zero fill (R161) -/

theorem clearPixels_canon {s : State} (hs : s.canon) (n : Nat) : (clearPixels s n).canon := (clearPixels_keeps s n (.refl s)).canon hs

theorem pixelKey_div {p : Nat} (hp : p < 2 ^ 28) (n : Nat) : pixelKey n p / 2 ^ 28 = n := by
  unfold pixelKey
  omega

theorem pixelAt_clearPixels_self (s : State) (n : Nat) {p : Nat} (hp : p < 2 ^ 28) : pixelAt (clearPixels s n) n p = 0 :=
  tget_filter_gone (fun _ => decide_eq_false fun h => h (pixelKey_div hp n)) _

theorem pixelAt_clearPixels_other {s : State} (hs : s.canon) {n m : Nat} (hm : m ≠ n) {p : Nat} (hp : p < 2 ^ 28) :
    pixelAt (clearPixels s n) m p = pixelAt s m p :=
  tget_filter (fun v => decide_eq_true (p := (pixelKey m p, v).1 / 2 ^ 28 ≠ n) fun h => hm ((pixelKey_div hp m).symm.trans h)) hs.lay.pixels

theorem handleOf_setHandle_self {s : State} (hs : s.canon) (n : Nat) (h : Handle) : handleOf (setHandle s n h) n = h :=
  tget_tput_self hs.lay.handles

theorem handleOf_setHandle_other {s : State} (hs : s.canon) {n m : Nat} (hm : m ≠ n) (h : Handle) :
    handleOf (setHandle s n h) m = handleOf s m := tget_tput_other hs.lay.handles hm

/-- The zero fill of a handle: what it leaves in LAY, and in a unit outside a pair nothing else waits on it. -/
theorem fillComplete_spec {s : State} {n : Nat} (hfill : (handleOf s n).state = .filling) :
    (fillComplete s n).lay = (setHandle (clearPixels s n) n { handleOf s n with state := .idle }).lay ∧
      (alone s → alone (fillComplete s n)) := by
  have hset (h : alone s) : alone (setHandle (clearPixels s n) n { handleOf s n with state := .idle }) := h.congr rfl rfl rfl
  unfold fillComplete
  dsimp only
  rw [if_pos hfill]
  split
  · refine ⟨?_, fun h => (hset h).finish ..⟩
    exact lay_of_outside (finish_outside_finishParts _ _ _ _ _) (by decide) (by decide) (by decide)
  · exact ⟨rfl, hset⟩

/-! ### The lines of a host image (R148, R149) -/

/-- What a host image in the WORKING format puts into its handle, pixel by pixel: offsets and values. -/
def imagePixels (w : Nat) (d : Desc) (data : List Byte) : List (Nat × BitVec 64) :=
  (List.range (rectH d)).flatMap fun y => (List.range (rectW d)).map fun x =>
    ((rectY d + y) * w + rectX d + x, BitVec.ofNat 64 (le data (y * rectStride d + 8 * x) 8))

theorem slice_eq_map (l : List Byte) (a n : Nat) : slice l a n = (List.range n).map fun i => (l[a + i]?).getD 0 := by
  have hlen : ((l.drop a).take n).length ≤ n := List.length_take_le ..
  refine List.ext_getElem (by simp [slice]) fun i hi hn => ?_
  have hin : i < n := by simpa using hn
  simp only [slice, List.getElem_map, List.getElem_range, List.getElem_append]
  split
  next hlt =>
    have hal : a + i < l.length := by
      rw [List.length_take, List.length_drop] at hlt
      omega
    rw [List.getElem_take, List.getElem_drop, List.getElem?_eq_getElem hal]
    rfl
  next hge =>
    have hal : l.length ≤ a + i := by
      rw [List.length_take, List.length_drop] at hge
      omega
    rw [List.getElem_replicate, List.getElem?_eq_none hal]
    rfl

theorem slice_slice {l : List Byte} {a n b k : Nat} (h : b + k ≤ n) : slice (slice l a n) b k = slice l (a + b) k := by
  rw [slice_eq_map, slice_eq_map l (a + b)]
  refine List.map_congr_left fun i hi => ?_
  have hlt : b + i < n := by
    have := List.mem_range.1 hi
    omega
  rw [slice_eq_map, List.getElem?_map, List.getElem?_range hlt, Option.map_some, Option.getD_some, Nat.add_assoc]

theorem putPixels_fields (n : Nat) (l : List (Nat × BitVec 64)) (s : State) :
    l.foldl (putPixel n) s = { s with lay := { s.lay with pixels := (l.foldl (putPixel n) s).lay.pixels } } := by
  induction l generalizing s with
  | nil => rfl
  | cons x l ih => exact ih (putPixel n s x)

theorem putPixels_canon {s : State} (hs : s.canon) (n : Nat) (l : List (Nat × BitVec 64)) : (l.foldl (putPixel n) s).canon :=
  List.foldlRecOn l _ hs fun _ ht x _ => putPixel_canon ht n x

/-- Pixels that a list does not name stay. -/
theorem pixelAt_putPixels_other {n m q : Nat} {l : List (Nat × BitVec 64)} (h : ∀ x, x ∈ l → pixelKey m q ≠ pixelKey n x.1)
    {s : State} (hs : s.canon) : pixelAt (l.foldl (putPixel n) s) m q = pixelAt s m q := by
  induction l generalizing s with
  | nil => rfl
  | cons x l ih =>
    rw [List.foldl_cons, ih (fun y hy => h y (List.mem_cons_of_mem x hy)) (putPixel_canon hs n x)]
    exact tget_tput_other hs.lay.pixels (h x List.mem_cons_self)

/-- Pixels that a list names, with one value for each offset, are those values. -/
theorem pixelAt_putPixels_mem {n : Nat} {l : List (Nat × BitVec 64)} (h : ∀ x, x ∈ l → ∀ y, y ∈ l → x.1 = y.1 → x = y)
    {s : State} (hs : s.canon) {x : Nat × BitVec 64} (hx : x ∈ l) : pixelAt (l.foldl (putPixel n) s) n x.1 = x.2 := by
  induction l generalizing s with
  | nil => exact absurd hx List.not_mem_nil
  | cons y l ih =>
    have hrest : ∀ a, a ∈ l → ∀ b, b ∈ l → a.1 = b.1 → a = b := fun a ha b hb =>
      h a (List.mem_cons_of_mem y ha) b (List.mem_cons_of_mem y hb)
    rw [List.foldl_cons]
    by_cases hl : x ∈ l
    · exact ih hrest (putPixel_canon hs n y) hl
    · obtain rfl : x = y := (List.mem_cons.1 hx).resolve_right hl
      rw [pixelAt_putPixels_other (fun z hz hk => hl ?_) (putPixel_canon hs n x)]
      · exact (pixelAt_putPixel hs n x.1 x.1 x.2).trans (if_pos rfl)
      · rwa [h x hx z (List.mem_cons_of_mem x hz) (Nat.add_left_cancel hk)]

/-- One line of an image in the WORKING format. -/
theorem writeLine_working {s : State} {d : Desc} {data : List Byte} (hfmt : imgFormat d = 0) (y : Nat) :
    writeLine d data s y = ((List.range (rectW d)).map fun x => ((rectY d + y) * (handleOf s d.object).w + rectX d + x,
      BitVec.ofNat 64 (le data (y * rectStride d + 8 * x) 8))).foldl (putPixel d.object) s := by
  have hline : hostLine s d (slice data (y * rectStride d) (lineBytes d)) =
      (List.range (rectW d)).map fun x => BitVec.ofNat 64 (le data (y * rectStride d + 8 * x) 8) := by
    unfold hostLine
    rw [hfmt]
    refine List.map_congr_left fun x hx => ?_
    have hx' := List.mem_range.1 hx
    rw [le, lineBytes, if_neg (by simp [hfmt]), slice_slice (by omega), le]
  have hzip := List.zip_map' (f := id) (g := fun x => BitVec.ofNat 64 (le data (y * rectStride d + 8 * x) 8)) (l := List.range (rectW d))
  rw [List.map_id] at hzip
  unfold writeLine
  dsimp only
  rw [hline, List.length_map, List.length_range, hzip, List.foldl_map, List.foldl_map]
  rfl

/-- An image in the WORKING format that came whole. -/
theorem writeLines_working {s : State} {d : Desc} {data : List Byte} (hfmt : imgFormat d = 0)
    (hlen : lengthBad d (8 * rectW d) = false) (hdata : data.length = d.length) :
    writeLines s d data = (imagePixels (handleOf s d.object).w d data).foldl (putPixel d.object) s := by
  obtain ⟨hstride, hlength⟩ : 8 * rectW d ≤ rectStride d ∧ d.length = rectStride d * (rectH d - 1) + 8 * rectW d := by
    simpa [lengthBad] using hlen
  have hall : (List.range (rectH d)).filter (fun y => decide (y * rectStride d + lineBytes d ≤ data.length)) = List.range (rectH d) := by
    refine List.filter_eq_self.2 fun y hy => decide_eq_true ?_
    have hy' : y ≤ rectH d - 1 := Nat.le_sub_one_of_lt (List.mem_range.1 hy)
    have hmul := Nat.mul_le_mul_left (rectStride d) hy'
    rw [lineBytes, if_neg (by simp [hfmt]), hdata, hlength, Nat.mul_comm]
    omega
  unfold writeLines imagePixels
  rw [hall, List.foldl_flatMap]
  generalize hw : (handleOf s d.object).w = w
  generalize List.range (rectH d) = ys
  induction ys generalizing s with
  | nil => rfl
  | cons y ys ih =>
    rw [List.foldl_cons, List.foldl_cons, ← hw, ← writeLine_working hfmt, hw]
    refine ih ?_
    rw [writeLine_working hfmt, putPixels_fields]
    exact hw

theorem mem_imagePixels {w : Nat} {d : Desc} {data : List Byte} {p : Nat × BitVec 64} :
    p ∈ imagePixels w d data ↔ ∃ y x, y < rectH d ∧ x < rectW d ∧
      p = ((rectY d + y) * w + rectX d + x, BitVec.ofNat 64 (le data (y * rectStride d + 8 * x) 8)) := by
  simp only [imagePixels, List.mem_flatMap, List.mem_map, List.mem_range]
  constructor
  · rintro ⟨y, hy, x, hx, rfl⟩
    exact ⟨y, x, hy, hx, rfl⟩
  · rintro ⟨y, x, hy, hx, rfl⟩
    exact ⟨y, hy, x, hx, rfl⟩

/-- An offset in an image `w` pixels wide gives back its place. -/
theorem offset_inj {w y y' x x' : Nat} (hx : x < w) (hx' : x' < w) (h : y * w + x = y' * w + x') : y = y' ∧ x = x' := by
  have hy : y = y' := by
    have hdiv := congrArg (· / w) h
    simpa [Nat.mul_comm _ w, Nat.mul_add_div (Nat.zero_lt_of_lt hx), Nat.div_eq_of_lt hx, Nat.div_eq_of_lt hx'] using hdiv
  subst hy
  exact ⟨rfl, Nat.add_left_cancel h⟩

theorem imagePixels_inj {w : Nat} {d : Desc} {data : List Byte} (hw : rectX d + rectW d ≤ w) :
    ∀ p, p ∈ imagePixels w d data → ∀ q, q ∈ imagePixels w d data → p.1 = q.1 → p = q := by
  intro p hp q hq h
  obtain ⟨y, x, hy, hx, rfl⟩ := mem_imagePixels.1 hp
  obtain ⟨y', x', hy', hx', rfl⟩ := mem_imagePixels.1 hq
  simp only [Nat.add_assoc ((rectY d + _) * w)] at h
  obtain ⟨hyy, hxx⟩ := offset_inj (by omega) (by omega) h
  obtain rfl := Nat.add_left_cancel hyy
  obtain rfl := Nat.add_left_cancel hxx
  rfl

/-- An offset inside a handle is one of its own pixels. -/
theorem offset_lt {w h y x : Nat} (hx : x < w) (hy : y < h) : y * w + x < w * h := by
  have hmul := Nat.mul_le_mul_left w (Nat.succ_le_of_lt hy)
  rw [Nat.mul_succ, Nat.mul_comm w y] at hmul
  omega

theorem pixelKey_inj {m n p q : Nat} (hp : p < 2 ^ 28) (hq : q < 2 ^ 28) (h : pixelKey m p = pixelKey n q) : m = n ∧ p = q := by
  unfold pixelKey at h
  omega

/-! ### A BUF_WRITE ends (R149) -/

theorem findOp_opcode {s : State} {n tag op : Nat} {t : Track} (h : findOp s n tag op = some t) : t.desc.opcode = op := by
  have hp := of_decide_eq_true (List.find?_some (p := fun x : Track => decide (x.ring = n ∧ x.desc.tag = tag ∧ x.desc.opcode = op ∧
    x.phase = .running)) h)
  exact hp.2.2.1

theorem publishIn_off {s : State} (htwin : s.boot.twinEn = false) (n : Nat) (h : Hoop) : publishIn s n h = publish s n :=
  if_neg (by simp [pairJoined, htwin])

theorem startWrite_ok {s : State} {t : Track} (hbad : writeBad t.desc = false)
    (hfmt : imgFormat t.desc = 2 → formatBad (darg t.desc 1) = false) (hlen : lengthBad t.desc (lineBytes t.desc) = false)
    (hcheck : writeCheck s t.desc = stOk) : startWrite s t = begin s t.id := by
  have hformat : (decide (imgFormat t.desc = 2) && formatBad (darg t.desc 1)) = false := by
    by_cases h : imgFormat t.desc = 2
    · rw [hfmt h, Bool.and_false]
    · rw [decide_eq_false h, Bool.false_and]
  unfold startWrite
  dsimp only
  rw [if_neg (by simp [hbad]), if_neg (by simp [hformat]), if_neg (by simp [hlen]), hcheck]
  rfl

/-- Its lines are in the handle; its other effects lie outside the pixels. -/
theorem landWrite_lay {s : State} {t : Track} {data : List Byte} (hdata : data.length = t.desc.length) (h : Hoop) :
    (landWrite s t data h).lay = (writeLines s t.desc data).lay ∧ (landWrite s t data h).cfg = s.cfg := by
  have hpad : data ++ List.replicate (t.desc.length - data.length) 0 = data := by
    rw [hdata, Nat.sub_self, List.replicate_zero, List.append_nil]
  have hcfg : (writeLines s t.desc data).cfg = s.cfg :=
    cfg_of_outside (writeLines_outside (w := [.pixels]) (by decide) s t.desc data) (by decide)
  unfold landWrite
  dsimp only
  rw [hpad, lay_of_outside (finish_outside_finishParts ..) (by decide) (by decide) (by decide),
    cfg_of_outside (finish_outside_finishParts ..) (by decide), ← hcfg]
  split
  · have hpub := publishIn_outside (w := [.ing, .twn]) (by decide) (by decide) (writeLines s t.desc data) t.desc.object h
    exact ⟨lay_of_outside hpub (by decide) (by decide) (by decide), cfg_of_outside hpub (by decide)⟩
  · exact ⟨rfl, rfl⟩

theorem alone.landWrite {s : State} (ha : alone s) (t : Track) (data : List Byte) (h : Hoop) : alone (landWrite s t data h) := by
  unfold Machine.landWrite
  refine alone.finish ?_ ..
  have hlines : alone (writeLines s t.desc (data ++ List.replicate (t.desc.length - data.length) 0)) := by
    have hout := writeLines_outside (w := [.pixels]) (by decide) s t.desc (data ++ List.replicate (t.desc.length - data.length) 0)
    exact ha.congr (boot_of_outside hout (by decide)) (twn_of_outside hout (by decide) (by decide) (by decide))
      (by simpa [State.outside] using congrArg (·.hif.track) hout)
  split
  · rw [publishIn_off hlines.1]
    exact hlines.congr rfl rfl rfl
  · exact hlines

/-- A transfer in a unit outside a pair: what it writes, then the access of package memory. -/
theorem transferDone_write {s : State} {t : Track} (htwin : s.boot.twinEn = false) (hop : t.desc.opcode = 0x02) (data : List Byte) :
    transferDone s t data = retryBehind (memRequest (writeComplete s t data)) := by
  simp only [transferDone, hop, forwardData_off htwin]
  rfl

theorem startRead_ok {s : State} {t : Track} (hzero : ¬ (darg t.desc 0 ≠ 0 ∨ darg t.desc 1 ≠ 0 ∨ rectW t.desc = 0 ∨ 16384 < rectW t.desc ∨
      rectH t.desc = 0 ∨ 16384 < rectH t.desc)) (hargs : argsZeroFrom t.desc 5 = true)
    (hlen : lengthBad t.desc (8 * rectW t.desc) = false) (hfree : (handleOf s t.desc.object).state ≠ .free)
    (hfilling : (handleOf s t.desc.object).state ≠ .filling) (hin : rectInside s t.desc = true) : startRead s t = begin s t.id := by
  unfold startRead
  dsimp only
  rw [decide_eq_false hzero, if_neg (by simp [hargs]), if_neg (by simp [hlen]), if_neg hfree, if_neg hfilling, if_neg (by simp [hin])]

/-- Settles O33: the operations of LAY on one handle, and the pixels of a line put at their offsets. -/
theorem handlesHoldPixels : Obligations.HandlesHoldPixels := by
  refine ⟨⟨fun n d t w h s ha htwin hw hh hdata hargs hw0 hw1 hh0 hh1 hwh hfree hpages => ?_, fun n s hs ha hfill => ?_,
    fun n d t s ha htwin hdata hargs hidle hwf hrf => ?_⟩, fun n d t s ha hbad hfmt hlen hcheck => ?_,
    fun n tag data t s hs ha hf hfmt hin hsize hlen hdata hpin => ?_, fun n tag data t s ha hf hpin => ?_,
    fun n d t s ha h0 h1 hw0 hw1 hh0 hh1 hargs hlen hfree hfilling hin => ?_, fun n tag data t s ha hf hop => ?_⟩
  · refine congrArg done ((startDesc_of_awaits ha).trans ?_)
    rw [startEntry_alloc ha.refuses htwin (by rw [ha.desc_eq]; rfl), startAlloc, ha.desc_eq]
    simp only [noData_withOp, argsZeroFrom_withOp, darg_withOp, object_withOp, ← hw, ← hh]
    rw [if_neg (by simp [hdata, hargs]; omega), if_neg (fun hne => hne hfree)]
    exact if_neg (Nat.not_lt.2 hpages)
  · obtain ⟨hlay, halone⟩ := fillComplete_spec hfill
    refine ⟨fillComplete s n, ?_, ?_, fun p hp => ?_, fun m hm => ⟨?_, fun p hp => ?_⟩⟩
    · refine congrArg done ?_
      rw [(halone ha).retryBehind, (halone ha).judgeAcks, (halone ha).sendAcks]
    · rw [handleOf, hlay]
      exact handleOf_setHandle_self (clearPixels_canon hs n) n _
    · rw [pixelAt, hlay]
      exact pixelAt_clearPixels_self s n hp
    · rw [handleOf, hlay]
      exact handleOf_setHandle_other (clearPixels_canon hs n) hm _
    · rw [pixelAt, hlay]
      exact pixelAt_clearPixels_other hs hm hp
  · have hdesc := ha.desc_eq
    refine congrArg done ((startDesc_of_awaits ha).trans ?_)
    have hobj : t.desc.object = d.object := by rw [hdesc]; rfl
    have hop : t.desc.opcode = 0x06 := by rw [hdesc]; rfl
    rw [startEntry_free ha.refuses htwin hop, startFree_idle (by rw [hdesc]; exact hdata) (by rw [hdesc]; exact hargs)
      (by rw [hobj]; exact hidle), hobj]
    · rfl
    · rw [writeInFlight, jobOn_handOver ha.find (by simp [hop]), hobj]
      exact hwf
    · rw [readInFlight, jobOn_handOver ha.find (by simp [hop]), hobj]
      exact hrf
  · refine congrArg done ((startDesc_of_awaits ha).trans ?_)
    have hdesc := ha.desc_eq
    rw [startEntry_write ha.refuses (by rw [hdesc]; rfl)]
    refine startWrite_ok (by rw [hdesc]; exact hbad) (fun h => ?_) (by rw [hdesc]; exact hlen) (by rw [hdesc]; exact hcheck)
    rw [hdesc]
    exact hfmt (by rw [hdesc] at h; exact h)
  · have hop := findOp_opcode hf
    have hland : writeComplete s t data = landWrite s t data s.hoop.fNumber := if_neg (by simp [hpin])
    obtain ⟨hlay, hcfg⟩ := landWrite_lay hdata s.hoop.fNumber
    have hwrite := writeLines_working (s := s) hfmt hlen hdata
    obtain ⟨hinw, hinh⟩ : rectX t.desc + rectW t.desc ≤ (handleOf s t.desc.object).w ∧
        rectY t.desc + rectH t.desc ≤ (handleOf s t.desc.object).h := of_decide_eq_true hin
    have hoff {x y : Nat} (hx : x < rectW t.desc) (hy : y < rectH t.desc) :
        (rectY t.desc + y) * (handleOf s t.desc.object).w + rectX t.desc + x < 2 ^ 28 := by
      have := offset_lt (w := (handleOf s t.desc.object).w) (h := (handleOf s t.desc.object).h) (y := rectY t.desc + y)
        (x := rectX t.desc + x) (by omega) (by omega)
      omega
    refine ⟨memRequest (landWrite s t data s.hoop.fNumber), ?_, fun x y hx hy => ?_, fun m q hq hne => ?_, ?_, ?_⟩
    · refine congrArg done ?_
      rw [hf]
      refine (transferDone_write ha.1 hop data).trans ?_
      rw [hland, (ha.landWrite ..).memRequest.retryBehind]
    · rw [memRequest_hoop, pixelAt]
      dsimp only
      rw [hlay, hwrite]
      exact pixelAt_putPixels_mem (imagePixels_inj hinw) hs (mem_imagePixels.2 ⟨y, x, hy, hx, rfl⟩)
    · rw [memRequest_hoop, pixelAt]
      dsimp only
      rw [hlay, hwrite]
      refine pixelAt_putPixels_other (fun p hp hk => ?_) hs
      obtain ⟨y, x, hy, hx, rfl⟩ := mem_imagePixels.1 hp
      obtain ⟨hm, hqe⟩ := pixelKey_inj hq (hoff hx hy) hk
      exact hne hm x y hx hy hqe
    · rw [memRequest_hoop]
      dsimp only
      rw [hlay, hwrite, putPixels_fields]
    · rw [memRequest_hoop]
      exact hcfg
  · have hop := findOp_opcode hf
    refine congrArg done ?_
    rw [hf]
    refine (transferDone_write ha.1 hop data).trans ?_
    rw [writeComplete, writeCompleteIn, if_pos hpin]
    exact alone.retryBehind (alone.memRequest (ha.congr rfl rfl rfl))
  · have hdesc := ha.desc_eq
    refine congrArg done ((startDesc_of_awaits ha).trans ?_)
    rw [startEntry_read ha.refuses (by rw [hdesc]; rfl)]
    have hzero : ¬ (darg d 0 ≠ 0 ∨ darg d 1 ≠ 0 ∨ rectW d = 0 ∨ 16384 < rectW d ∨ rectH d = 0 ∨ 16384 < rectH d) := by omega
    refine startRead_ok ?_ ?_ ?_ ?_ ?_ ?_ <;> rw [hdesc]
    · exact hzero
    · exact hargs
    · exact hlen
    · exact hfree
    · exact hfilling
    · exact hin
  · refine (exec_descriptorDmaDone hf data).trans (congrArg done ?_)
    unfold transferDone
    dsimp only
    rw [hop]
    refine alone.retryBehind (alone.memRequest (alone.finish ?_ ..))
    exact ha.congr rfl rfl rfl

end Sys2Proof.Machine

/-! The store: requests of host and firmware, and their keep steps (R410, R412 to R417). -/
namespace Sys2Proof.Machine

/-! ### A request that arrives when none is served -/

theorem submit_waits {s : State} {j : StoreJob} (hstart : j.started = false)
    (hfree : j.kind = .reserve ∨ j.kind = .confirm ∨ s.upd.storeReady = true) :
    (j.started || !(decide (j.kind = .reserve ∨ j.kind = .confirm) || s.upd.storeReady)) = false := by
  rcases hfree with h | h | h <;> simp [hstart, h]

section
variable {s : State} {j : StoreJob} (hjobs : s.upd.jobs = [])
include hjobs

theorem submit_eq : submit s j = serveJobs 1 (setUpd s { s.upd with jobs := [j] }) := by
  unfold submit serve
  rw [hjobs]
  rfl

section
variable (hstart : j.started = false) (hfree : j.kind = .reserve ∨ j.kind = .confirm ∨ s.upd.storeReady = true)
include hstart hfree

/-- A request that PSM permits begins. -/
theorem submit_starts (hkind : j.kind ≠ .read) (hw : s.psm.writeOk = true) :
    submit s j = startJob (setUpd s { s.upd with jobs := [j] }) j := by
  rw [submit_eq hjobs]
  exact (if_neg (by simpa using submit_waits hstart hfree)).trans ((if_neg hkind).trans (if_neg (by simpa [setUpd] using hw)))

/-- One that PSM refuses ends. -/
theorem submit_refused (hkind : j.kind ≠ .read) (hw : s.psm.writeOk = false) :
    submit s j = refuseSupply (setUpd s { s.upd with jobs := [j] }) j 0 := by
  rw [submit_eq hjobs]
  exact (if_neg (by simpa using submit_waits hstart hfree)).trans ((if_neg hkind).trans (if_pos (by simpa [setUpd] using hw)))

/-- A read is served at once. -/
theorem submit_read (hkind : j.kind = .read) : submit s j = serveRead (setUpd s { s.upd with jobs := [j] }) j := by
  rw [submit_eq hjobs]
  exact (if_neg (by simpa using submit_waits hstart hfree)).trans (if_pos hkind)

end

end

/-- The request at the head, begun. -/
def begun (s : State) (j : StoreJob) : State :=
  setUpd s { s.upd with jobs := [{ j with started := true, bank := writeBank s, gen := writeGen s }] }

theorem startJob_begun {s : State} {j : StoreJob} (h : j.kind = .reserve ∨ j.kind = .confirm ∨ j.user = .firmware) :
    startJob (setUpd s { s.upd with jobs := [j] }) j = begun s j := by
  unfold startJob
  dsimp only
  split
  next id hkind huser => simp [hkind, huser] at h
  next id hkind huser => simp [hkind, huser] at h
  next => rfl

theorem startJob_host {s : State} {j : StoreJob} {id : Nat} (huser : j.user = .host id) (h : j.kind = .write ∨ j.kind = .format) :
    startJob (setUpd s { s.upd with jobs := [j] }) j = begin (begun s j) id := by
  obtain ⟨kind, user, record, current, length, data, steps, started, bank, gen, waiting⟩ := j
  dsimp only at huser h
  subst huser
  rcases h with rfl | rfl <;> rfl

/-! ### Settling -/

theorem upd_of_outside {w : List Part} {s t : State} (h : t.outside w = s.outside w) (hw : .upd ∉ w) (hj : .jobs ∉ w) : t.upd = s.upd := by
  simpa [State.outside, hw, hj] using congrArg State.upd h

/-- The outcome of a request of firmware: UPD_FW_STAT, and a notice. -/
theorem storeOutcome_firmware {s : State} {j : StoreJob} (huser : j.user = .firmware) (st r0 : Nat) :
    (storeOutcome s j st r0).upd = { s.upd with fwBusy := false, fwStatus := st
                                                fwLength := if j.kind = .read then r0 else s.upd.fwLength } ∧
      (storeOutcome s j st r0).ccs.shared = s.ccs.shared := by
  unfold storeOutcome
  rw [huser]
  have hout := fun t : State => notice_outside (w := finishParts) (by constructor <;> decide) t 0x1104 0 (st + j.record * 2 ^ 16) false true
  refine ⟨upd_of_outside (w := finishParts) (hout _) (by decide) (by decide), (shared_of_outside (w := finishParts) (hout _) (by decide)).trans ?_⟩
  rfl

/-- An outcome leaves the keep, and the requests that wait. -/
theorem storeOutcome_jobs (s : State) (j : StoreJob) (st r0 : Nat) :
    (storeOutcome s j st r0).keep = s.keep ∧ (storeOutcome s j st r0).upd.jobs = s.upd.jobs := by
  unfold storeOutcome
  split
  next id _ =>
    have hout := finish_outside_finishParts s id st r0 0
    exact ⟨keep_of_outside hout (by decide), congrArg Upd.jobs (upd_of_outside hout (by decide) (by decide))⟩
  · have hout := fun t : State => notice_outside (w := finishParts) (by constructor <;> decide) t 0x1104 0 (st + j.record * 2 ^ 16) false true
    refine ⟨(keep_of_outside (w := finishParts) (hout _) (by decide)).trans ?_,
      (congrArg Upd.jobs (upd_of_outside (w := finishParts) (hout _) (by decide) (by decide))).trans ?_⟩ <;> rfl
  · exact ⟨rfl, rfl⟩

theorem serve_none {s : State} (h : s.upd.jobs = []) : serve s = s := by
  unfold serve
  rw [h]
  rfl

theorem recordNow_congr {s t : State} (h : t.keep = s.keep) (k gen r : Nat) : recordNow t k gen r = recordNow s k gen r := by
  unfold recordNow journalDue latestJournal readRecord sectorRead sectorOf journalAt
  rw [h]

theorem confirmNow_congr {s t : State} (h : t.keep = s.keep) : confirmNow t = confirmNow s := by
  unfold confirmNow confirmStanding confirmCopy sectorRead sectorOf
  rw [h]

/-! ### The words of a STORE_WRITE -/

theorem argsZeroFrom_withSub (op hi lo v : Nat) (d : Desc) (k : Nat) : argsZeroFrom (withSub op hi lo v d) (k + 1) = argsZeroFrom d (k + 1) := by
  unfold argsZeroFrom withSub
  rw [List.drop_succ_cons, List.drop_drop, Nat.add_comm]

theorem darg_withSub_zero (op hi lo v : Nat) (d : Desc) :
    darg (withSub op hi lo v d) 0 = (setFld ((d.args[0]?).getD 0) hi lo v).toNat := rfl

theorem darg_withSub_format {v : Nat} (hv : v < 2) (op : Nat) (d : Desc) :
    bits (darg (withSub op 31 31 v d) 0) 30 0 = bits (darg d 0) 30 0 ∧ bitOf (darg (withSub op 31 31 v d) 0) 31 = decide (v = 1) := by
  rw [darg_withSub_zero]
  refine ⟨fld_congr fun k _ hk => ?_, ?_⟩
  · rw [bitW_setFld _ _ (by decide) (by omega), if_neg (by omega)]
  · refine (bitW_setFld ((d.args[0]?).getD 0) v (by decide) (by decide)).trans ?_
    rw [if_pos (by decide)]
    interval_cases v <;> rfl

theorem startStoreWrite_data {s : State} {t : Track} (hargs : argsZeroFrom t.desc 1 = true) (hzero : bits (darg t.desc 0) 30 0 = 0)
    (hmode : s.boot.mode ≠ 2) (hfmt : storeFormat t.desc = false) (hlen : 0 < t.desc.length) (hmax : t.desc.length ≤ 4064) :
    startStoreWrite s t = running s t.id := by
  unfold startStoreWrite
  dsimp only
  rw [if_neg (by simp [hargs, hzero]), if_neg hmode, if_neg (by simp [hfmt]), if_neg (Nat.not_lt.2 hmax), if_neg hlen.ne']

theorem startStoreWrite_format {s : State} {t : Track} (hargs : argsZeroFrom t.desc 1 = true) (hzero : bits (darg t.desc 0) 30 0 = 0)
    (hmode : s.boot.mode = 1) (hfmt : storeFormat t.desc = true) (hobj : t.desc.object = 0) (hlen : t.desc.length = 0)
    (haddr : t.desc.hostAddr = 0) :
    startStoreWrite s t = submit (running s t.id) ⟨.format, .host t.id, 0, false, 0, [], 0, false, 0, 0, none⟩ := by
  unfold startStoreWrite
  dsimp only
  rw [if_neg (by simp [hargs, hzero]), if_neg (by simp [hmode]), if_pos hfmt, if_neg (by simp [hmode, hobj, hlen, haddr]), hobj, hlen]

theorem startStoreRead_ok {s : State} {t : Track} (hargs : argsZeroFrom t.desc 1 = true) (hcur : darg t.desc 0 < 2)
    (hlen : 4 ≤ t.desc.length) (hmax : t.desc.length ≤ 4064) :
    startStoreRead s t = submit (running s t.id)
      ⟨.read, .host t.id, t.desc.object, bitOf (darg t.desc 0) 0, t.desc.length, [], 0, false, 0, 0, none⟩ := by
  unfold startStoreRead
  dsimp only
  rw [if_neg (by simpa [hargs] using hcur), if_neg (by omega)]

/-! ### A read is served (R413) -/

section
variable {s s' : State} {j : StoreJob} {bs : List Byte} (hkeep : s'.keep = s.keep) (hcur : j.current = true)
  (hrec : recordNow s (confirmNow s).current (confirmNow s).curGen j.record = .ok bs)
include hkeep hcur hrec

theorem serveRead_host {id : Nat} (huser : j.user = .host id) :
    serveRead s' j = begin (setJob s' { j with started := true, data := bs }) id := by
  unfold serveRead
  dsimp only
  rw [if_pos hcur]
  dsimp only
  rw [recordNow_congr hkeep, confirmNow_congr hkeep, hrec, huser]

theorem serveRead_firmware (huser : j.user = .firmware) : serveRead s' j =
    storeOutcome (sharedWrite (popJob s') (reg s' UPD_FW_ADDR).toNat (bs.take (min j.length bs.length))) j stOk bs.length := by
  unfold serveRead
  dsimp only
  rw [if_pos hcur]
  dsimp only
  rw [recordNow_congr hkeep, confirmNow_congr hkeep, hrec, huser]

end

theorem transferOf_read {s : State} {n tag : Nat} {t : Track} (h : transferOf s n tag = some t) (hop : t.desc.opcode = 0x45) :
    readUnderWay s t = true := by
  have hp := List.find?_some (p := fun x : Track => decide (x.ring = n ∧ x.desc.tag = tag) && transferring s x) h
  have htr := ((Bool.and_eq_true_iff.1 hp).2)
  unfold transferring at htr
  rw [hop] at htr
  exact (Bool.and_eq_true_iff.1 htr).2

/-! ### Firmware's requests (R415) -/

theorem regRow_updFwCmd : regRow UPD_FW_CMD = some ⟨0x3A0034, 0, 0, 1, 0, 0x20FFFFFF, 0, [], 0xC0000000⟩ := by decide +kernel

/-- The fields of a request as the word holds them, whatever it kicks. -/
theorem fwCmd_written {s : State} (hs : twf regReset s.regs = true) {v x : Word} (hx : ∀ k, k < 30 → bitW x k = bitW v k) :
    regFld (plainWrite s UPD_FW_CMD x) UPD_FW_CMD 23 12 = fld v 23 12 ∧ regFld (plainWrite s UPD_FW_CMD x) UPD_FW_CMD 11 0 = fld v 11 0 ∧
      regBit (plainWrite s UPD_FW_CMD x) UPD_FW_CMD 29 = bitW v 29 := by
  have hlow : ∀ k, k < 24 → bitW (w32 0x20FFFFFF) k = true := by decide
  refine ⟨?_, ?_, ?_⟩
  · rw [regFld_plainWrite_set hs regRow_updFwCmd rfl rfl fun k _ hk => hlow k (by omega)]
    exact fld_congr fun k _ hk => hx k (by omega)
  · rw [regFld_plainWrite_set hs regRow_updFwCmd rfl rfl fun k _ hk => hlow k (by omega)]
    exact fld_congr fun k _ hk => hx k (by omega)
  · rw [regBit, reg_plainWrite_self hs regRow_updFwCmd]
    exact (bitW_written_set rfl rfl _ _ x (by decide)).trans (hx 29 (by decide))

theorem bitW_orRead (v : Word) (k : Nat) : bitW (v ||| 0x40000000) k = (bitW v k || decide (k = 30)) := by
  have h := bitW_bit 30 k
  rw [show (0x40000000 : Word) = w32 (2 ^ 30) from rfl, bitW_or, h]
  simp

/-- A request of firmware in shared memory that UPD takes. -/
def fwJob (s : State) (kind : StoreKind) (data : List Byte) : StoreJob :=
  ⟨kind, .firmware, regFld s UPD_FW_CMD 11 0, regBit s UPD_FW_CMD 29, regFld s UPD_FW_CMD 23 12, data, 0, false, 0, 0, none⟩

section
variable {s : State} (hbusy : s.upd.fwBusy = false) (hin : inShared (reg s UPD_FW_ADDR).toNat (regFld s UPD_FW_CMD 23 12) = true)
  (hmax : regFld s UPD_FW_CMD 23 12 ≤ 4064)
include hbusy hin hmax

theorem fwStore_write (hmode : s.boot.mode ≠ 2) : fwStore s true = submit (setUpd s { s.upd with fwBusy := true })
    (fwJob s .write (sharedRead s (reg s UPD_FW_ADDR).toNat (regFld s UPD_FW_CMD 23 12))) := by
  unfold fwStore
  dsimp only
  rw [if_neg (by simp [hbusy, hin]), if_neg (by simp [hmode]), if_neg (by simpa using hmax)]
  rfl

theorem fwStore_read (hmin : 4 ≤ regFld s UPD_FW_CMD 23 12) : fwStore s false = submit (setUpd s { s.upd with fwBusy := true })
    (fwJob s .read []) := by
  unfold fwStore
  dsimp only
  rw [if_neg (by simp [hbusy, hin]), if_neg (by simp), if_neg (by omega)]
  rfl

end

theorem fwCmdWrite_write {s : State} {v : Word} (hbusy : s.upd.fwBusy = false) (hr : bitW v 30 = false) :
    fwCmdWrite s (v ||| 0x80000000) = fwStore (plainWrite s UPD_FW_CMD (v ||| 0x80000000)) true := by
  unfold fwCmdWrite
  dsimp only
  have hread : bitW (v ||| 0x80000000) 30 = false := by rw [bitW_enable, hr]; rfl
  simp only [hbusy, bitW_enable_top, hread, Bool.false_eq_true, if_true, if_false]

theorem fwCmdWrite_read {s : State} {v : Word} (hbusy : s.upd.fwBusy = false) (hw : bitW v 31 = false) :
    fwCmdWrite s (v ||| 0x40000000) = fwStore (plainWrite s UPD_FW_CMD (v ||| 0x40000000)) false := by
  unfold fwCmdWrite
  dsimp only
  have hwrite : bitW (v ||| 0x40000000) 31 = false := by rw [bitW_orRead, hw]; rfl
  have hread : bitW (v ||| 0x40000000) 30 = true := by rw [bitW_orRead]; exact Bool.or_true _
  simp only [hbusy, hwrite, hread, Bool.false_eq_true, if_true, if_false]

/-! ### Keep steps (R410, R417) -/

/-- A keep step touches the keep alone. -/
theorem doStep_keep (s : State) (j : StoreJob) (i : Nat) : doStep s j i = { s with keep := (doStep s j i).keep } := by
  unfold doStep
  split
  · dsimp only
    split
    · rfl
    · rfl
    · rfl
    · rfl
    · split <;> rfl
  · split <;> rfl

/-- The last step of a write marks the journal's entry. -/
theorem doStep_last {j : StoreJob} (hkind : j.kind = .write) (s : State) : doStep s j 4 =
    match latestJournal s with
    | some (k, x) => putJournal s k (some { x with isDone := true })
    | none => s := by
  unfold doStep
  rw [if_pos hkind]
  rfl

theorem storeStep_started {s : State} {j : StoreJob} (hjobs : s.upd.jobs = [j]) (hstart : j.started = true) (hwait : j.waiting = none)
    (hkind : j.kind ≠ .read) : storeStep s =
      if jobSteps j.kind ≤ j.steps + 1 then serve (jobDone (popJob (doStep s j j.steps)) { j with steps := j.steps + 1 })
      else if (doStep s j j.steps).psm.writeOk then setJob (doStep s j j.steps) { j with steps := j.steps + 1 }
      else supplyWait (setJob (doStep s j j.steps) { j with steps := j.steps + 1, waiting := some (doStep s j j.steps).tim.cyc }) true := by
  unfold storeStep
  rw [hjobs]
  exact if_neg (by simp [hstart, hwait, hkind])

theorem exec_keepStepComplete (s : State) : exec (.keepStepComplete false) s = done (storeStep s) := rfl

/-- A request that PSM refuses is over, and nothing of the keep has changed. -/
theorem refuseSupply_spec {s : State} {j : StoreJob} (hjobs : s.upd.jobs = [j]) (r0 : Nat) :
    (refuseSupply s j r0).upd.jobs = [] ∧ (refuseSupply s j r0).keep = s.keep ∧
      (j.user = .firmware → (refuseSupply s j r0).upd.fwStatus = stSupply ∧ (refuseSupply s j r0).upd.fwBusy = false) := by
  have hbase : (if j.kind = .confirm then resumeWindow s else s).upd.jobs = [j] ∧
      (if j.kind = .confirm then resumeWindow s else s).keep = s.keep := by
    split
    · exact ⟨hjobs, rfl⟩
    · exact ⟨hjobs, rfl⟩
  unfold refuseSupply
  generalize (if j.kind = .confirm then resumeWindow s else s) = v at hbase
  obtain ⟨hkeep, hnone⟩ := storeOutcome_jobs (popJob v) j stSupply r0
  refine ⟨hnone.trans (congrArg (List.drop 1) hbase.1), hkeep.trans hbase.2, fun huser => ?_⟩
  have hupd := (storeOutcome_firmware huser stSupply r0 (s := popJob v)).1
  exact ⟨congrArg Upd.fwStatus hupd, congrArg Upd.fwBusy hupd⟩

/-- The time that passes and the notice of SUPPLY_WAIT. -/
def waitParts : List Part := allBut [.upd, .jobs, .keep]

/-- The slot and the journal once the journal's entry `x`, in sector `i`, has been carried out (R414). -/
def repaired (s : State) (i : Nat) (x : Journal) : State :=
  putJournal (programSector s (slotSector x.bank x.record) (recordBytes' x.gen x.record x.payload)) i (some { x with isDone := true })

theorem storeRepair_due {s : State} {i : Nat} {x : Journal} (hready : (!s.key.loaded || s.upd.storeReady) = false)
    (hdue : journalDue s = some (i, x)) (hw : s.psm.writeOk = true) :
    storeRepair s = serve (setUpd (noticeBoth (repaired s i x) 0x1105 0 (x.record + x.bank * 2 ^ 16))
      { (noticeBoth (repaired s i x) 0x1105 0 (x.record + x.bank * 2 ^ 16)).upd with storeReady := true }) := by
  unfold storeRepair
  rw [if_neg (by simp [hready]), hdue]
  exact if_neg (by simp [hw])

/-- Settles O38: a request begins where nothing is served; its keep steps follow one another. -/
theorem storeWorks : Obligations.StoreWorks := by
  refine ⟨⟨fun n d t s hjobs hargs => ⟨fun ha h0 hmode hlen hmax => ?_, fun ha h0 hmode hobj hlen haddr hready hw => ?_,
    fun tag data ha hf hop hready hw => ?_, fun bs ha h0 hlen hmax hready hrec => ?_⟩,
    fun n tag data t j s ha hf hop hjobs => ?_, fun v s hs hjobs hbusy hready hin hmax => ⟨fun hr hmode hw => ?_, fun hwr hlen hcur bs hrec => ?_⟩⟩,
    fun j s hs hjobs hstart hwait hkind => ⟨fun hsteps hw => ?_, fun hsteps => ?_⟩, fun j c s hjobs hwait => ?_,
    fun s hs hloaded hready hjobs => ⟨fun hdue => ?_, fun i x hdue hw => ?_⟩⟩
  · have hdesc := ha.desc_eq
    obtain ⟨hbits, hformat⟩ := darg_withSub_format (v := 0) (by decide) 0x44 d
    refine congrArg done ((startDesc_of_awaits ha).trans ?_)
    rw [startEntry_storeWrite ha.refuses (by rw [hdesc]; rfl)]
    refine startStoreWrite_data ?_ ?_ hmode ?_ ?_ ?_ <;> rw [hdesc]
    · exact (argsZeroFrom_withSub ..).trans hargs
    · exact hbits.trans h0
    · exact hformat
    · exact hlen
    · exact hmax
  · have hdesc := ha.desc_eq
    obtain ⟨hbits, hformat⟩ := darg_withSub_format (v := 1) (by decide) 0x44 d
    refine congrArg done ((startDesc_of_awaits ha).trans ?_)
    rw [startEntry_storeWrite ha.refuses (by rw [hdesc]; rfl), startStoreWrite_format (s := handOver s t.id) (by rw [hdesc]; exact (argsZeroFrom_withSub ..).trans hargs)
      (by rw [hdesc]; exact hbits.trans h0) hmode (by rw [hdesc]; exact hformat) (by rw [hdesc]; exact hobj)
      (by rw [hdesc]; exact hlen) (by rw [hdesc]; exact haddr),
      submit_starts (s := running (handOver s t.id) t.id) hjobs rfl (.inr (.inr hready)) (by simp) hw, startJob_host rfl (.inr rfl)]
    rfl
  · refine (exec_descriptorDmaDone hf data).trans (congrArg done ?_)
    unfold transferDone storeWriteRead
    dsimp only
    rw [hop, submit_starts hjobs rfl (.inr (.inr hready)) (by simp) hw, startJob_host rfl (.inl rfl)]
    exact alone.retryBehind (alone.modTrack (ha.congr rfl rfl rfl) _ fun _ => rfl)
  · have hdesc := ha.desc_eq
    refine congrArg done ((startDesc_of_awaits ha).trans ?_)
    have hread := serveRead_host (s' := setUpd (running (handOver s t.id) t.id) { s.upd with
      jobs := [⟨.read, .host t.id, d.object, true, d.length, [], 0, false, 0, 0, none⟩] }) (j := ⟨.read, .host t.id, d.object, true, d.length, [], 0, false, 0, 0, none⟩)
      rfl rfl hrec rfl
    have hcur : bitOf (darg t.desc 0) 0 = true := by
      rw [hdesc, darg_withOp, h0]
      rfl
    rw [startEntry_storeRead ha.refuses (by rw [hdesc]; rfl), startStoreRead_ok (s := handOver s t.id) (by rw [hdesc]; exact hargs)
      (by rw [hdesc, darg_withOp, h0]; decide) (by rw [hdesc]; exact hlen) (by rw [hdesc]; exact hmax), hcur, hdesc,
      submit_read (s := running (handOver s t.id) t.id) hjobs rfl (.inr (.inr hready)) rfl]
    exact hread
  · refine (exec_descriptorDmaDone hf data).trans (congrArg done ?_)
    have hunder := transferOf_read hf hop
    unfold readUnderWay at hunder
    rw [hjobs] at hunder
    obtain ⟨-, hkind, huser⟩ : j.started = true ∧ j.kind = .read ∧ j.user = .host t.id := by simpa using hunder
    unfold transferDone storeReadDone
    dsimp only
    rw [hop]
    have hpop : popJob s = setUpd s { s.upd with jobs := [] } := by
      unfold popJob
      rw [hjobs]
      rfl
    have hdone := ha.congr (u := { setUpd s { s.upd with jobs := [] } with
      out := s.out ++ [.data t.desc.hostAddr (j.data.take (min j.length j.data.length))] }) rfl rfl rfl
    have hserve (u : State) (hu : u.upd.jobs = []) : serve (finish u t.id stOk j.data.length 0) = finish u t.id stOk j.data.length 0 :=
      serve_none (by rw [upd_of_outside (finish_outside_finishParts ..) (by decide) (by decide), hu])
    simp only [hjobs, storeOutcome, huser, hpop]
    refine Eq.trans ?_ (hdone.finish t.id stOk j.data.length 0).retryBehind
    exact congrArg retryBehind (hserve _ rfl)
  · have hfld := fwCmd_written hs.regs (v := v) (x := v ||| 0x80000000) fun k hk => by
      rw [bitW_enable, decide_eq_false (by omega), Bool.or_false]
    have haddr : reg (plainWrite s UPD_FW_CMD (v ||| 0x80000000)) UPD_FW_ADDR = reg s UPD_FW_ADDR := reg_plainWrite_other hs.regs _ (by decide)
    have hkeeps := plainWrite_keepsRegs hs.regs UPD_FW_CMD (v ||| 0x80000000)
    have heq := plainWrite_eq_regs s UPD_FW_CMD (v ||| 0x80000000)
    have hcmd := fwCmdWrite_write hbusy hr
    generalize plainWrite s UPD_FW_CMD (v ||| 0x80000000) = w at hfld haddr hkeeps heq hcmd
    obtain ⟨hlen, hrec, hcur⟩ := hfld
    rw [fwStore_write (by rw [heq]; exact hbusy) (by rw [haddr, hlen]; exact hin) (by rw [hlen]; exact hmax) (by rw [heq]; exact hmode),
      submit_starts (by rw [heq]; exact hjobs) rfl (.inr (.inr (by rw [heq]; exact hready))) (by simp [fwJob]) (by rw [heq]; exact hw),
      startJob_begun (.inr (.inr rfl)), fwJob, hlen, hrec, hcur, haddr] at hcmd
    refine ⟨_, congrArg done hcmd, ?_, hkeeps⟩
    rw [heq]
    rfl
  · have hfld := fwCmd_written hs.regs (v := v) (x := v ||| 0x40000000) fun k hk => by
      rw [bitW_orRead, decide_eq_false (by omega), Bool.or_false]
    have haddr : reg (plainWrite s UPD_FW_CMD (v ||| 0x40000000)) UPD_FW_ADDR = reg s UPD_FW_ADDR := reg_plainWrite_other hs.regs _ (by decide)
    have heq := plainWrite_eq_regs s UPD_FW_CMD (v ||| 0x40000000)
    have hcmd := fwCmdWrite_read hbusy hwr
    generalize plainWrite s UPD_FW_CMD (v ||| 0x40000000) = w at hfld haddr heq hcmd
    obtain ⟨hlen', hrec', hcur'⟩ := hfld
    rw [fwStore_read (by rw [heq]; exact hbusy) (by rw [haddr, hlen']; exact hin) (by rw [hlen']; exact hmax) (by rw [hlen']; exact hlen),
      submit_read (by rw [heq]; exact hjobs) rfl (.inr (.inr (by rw [heq]; exact hready))) rfl,
      serveRead_firmware (s := s) (by rw [heq]; rfl) (hcur'.trans hcur) (by rw [fwJob, hrec']; exact hrec) rfl] at hcmd
    obtain ⟨hupd, hshared⟩ := storeOutcome_firmware (j := fwJob w .read []) rfl stOk bs.length
      (s := sharedWrite (popJob (setUpd (setUpd w { w.upd with fwBusy := true })
        { (setUpd w { w.upd with fwBusy := true }).upd with jobs := [fwJob w .read []] }))
        (reg w UPD_FW_ADDR).toNat (bs.take (min (regFld w UPD_FW_CMD 23 12) bs.length)))
    refine ⟨_, congrArg done hcmd, congrArg Upd.fwBusy hupd, congrArg Upd.fwStatus hupd, congrArg Upd.fwLength hupd, hshared.trans ?_⟩
    rw [haddr, hlen', heq]
    rfl
  · have hcont : ¬ jobSteps j.kind ≤ j.steps + 1 := by
      rw [hkind]
      exact Nat.not_le.2 (Nat.succ_lt_succ hsteps)
    refine (exec_keepStepComplete s).trans (congrArg done ?_)
    rw [storeStep_started hjobs hstart hwait (by simp [hkind]), if_neg hcont, if_pos (by rw [doStep_keep]; exact hw)]
  · have hlast : jobSteps j.kind ≤ j.steps + 1 := by
      rw [hkind, hsteps]
      exact Nat.le_refl _
    have hpop : (popJob (doStep s j j.steps)).upd.jobs = [] := by
      rw [doStep_keep]
      exact congrArg (List.drop 1) hjobs
    have hdone : jobDone (popJob (doStep s j j.steps)) { j with steps := j.steps + 1 } =
        storeOutcome (popJob (doStep s j j.steps)) { j with steps := j.steps + 1 } stOk j.length := by
      unfold jobDone
      dsimp only
      rw [hkind]
    obtain ⟨hkeep, hnone⟩ := storeOutcome_jobs (popJob (doStep s j j.steps)) { j with steps := j.steps + 1 } stOk j.length
    have hstep : (popJob (doStep s j j.steps)).keep = (doStep s j 4).keep := by rw [hsteps]; rfl
    refine ⟨_, exec_keepStepComplete s, ?_⟩
    rw [storeStep_started hjobs hstart hwait (by simp [hkind]), if_pos hlast, hdone, serve_none (hnone.trans hpop)]
    refine ⟨hnone.trans hpop, fun k x hl => ?_, ?_⟩
    · rw [journalAt, hkeep, hstep, doStep_last hkind, hl]
      exact tget_tput_self hs.keep.journal
    · rw [hkeep, hstep, doStep_last hkind]
      split <;> rfl
  · have hout : (supplyWait (runToCycle (c + secondCycles) s) false).outside waitParts = s.outside waitParts := by
      simp [waitParts]
    have hupd := upd_of_outside hout (by simp [waitParts]) (by simp [waitParts])
    obtain ⟨hnone, hkeep, hfw⟩ := refuseSupply_spec (s := supplyWait (runToCycle (c + secondCycles) s) false)
      ((congrArg Upd.jobs hupd).trans hjobs) (if j.kind = .write ∧ 2 ≤ j.steps then 1 else 0)
    refine ⟨_, rfl, ?_⟩
    have htime : storeTimeout s = refuseSupply (supplyWait (runToCycle (c + secondCycles) s) false) j
        (if j.kind = .write ∧ 2 ≤ j.steps then 1 else 0) := by
      unfold storeTimeout
      rw [hjobs]
      dsimp only
      rw [hwait]
      exact serve_none hnone
    rw [htime]
    exact ⟨hnone, hkeep.trans (keep_of_outside hout (by simp [waitParts])), hfw⟩
  · refine congrArg done ?_
    unfold storeRepair
    rw [if_neg (by simp [hloaded, hready]), hdue]
    exact serve_none hjobs
  · have hrepair := storeRepair_due (by simp [hloaded, hready]) hdue hw
    have hout := noticeBoth_outside (w := finishParts) (by constructor <;> decide) (repaired s i x) 0x1105 0 (x.record + x.bank * 2 ^ 16)
    have hkeep := keep_of_outside hout (by decide)
    have hupd := upd_of_outside hout (by decide) (by decide)
    generalize noticeBoth (repaired s i x) _ _ _ = v at hrepair hkeep hupd
    have hnone : v.upd.jobs = [] := (congrArg Upd.jobs hupd).trans hjobs
    rw [serve_none (s := setUpd v { v.upd with storeReady := true }) hnone] at hrepair
    refine ⟨_, congrArg done hrepair, rfl, ?_, ?_⟩
    · rw [journalAt, setUpd, hkeep]
      exact tget_tput_self hs.keep.journal
    · rw [setUpd, hkeep]
      exact tget_tput_self hs.keep.sectors

end Sys2Proof.Machine

/-! What the end of a descriptor does to the tracker (R56, R64), and who waits in a block (R65). -/
namespace Sys2Proof.Machine

/-! ### Entries end, and nothing else -/

/-- From `s` on to `t` entries of the tracker leave or are settled; the others are as before. -/
def onlySettles (s t : State) : Prop :=
  ∀ x, x ∈ t.hif.track → ∃ y, y ∈ s.hif.track ∧ (x = y ∨ (x.desc = y.desc ∧ x.phase.settled = true))

section
variable {s t u : State}

theorem onlySettles.of_track (h : t.hif.track = s.hif.track) : onlySettles s t := fun x hx => ⟨x, h ▸ hx, .inl rfl⟩

theorem onlySettles.refl (s : State) : onlySettles s s := .of_track rfl

theorem onlySettles.trans (h : onlySettles s t) (k : onlySettles t u) : onlySettles s u := fun x hx => by
  obtain ⟨y, hy, hxy⟩ := k x hx
  obtain ⟨z, hz, hyz⟩ := h y hy
  refine ⟨z, hz, ?_⟩
  rcases hxy with rfl | ⟨hd, hp⟩
  · exact hyz
  · rcases hyz with rfl | ⟨hd', -⟩
    · exact .inr ⟨hd, hp⟩
    · exact .inr ⟨hd.trans hd', hp⟩

theorem onlySettles.foldl {α : Type} {f : State → α → State} (hf : ∀ v x, onlySettles v (f v x)) (l : List α) (s : State) :
    onlySettles s (l.foldl f s) :=
  List.foldlRecOn (motive := onlySettles s) l f (.refl s) fun _ ht x _ => ht.trans (hf _ x)

theorem onlySettles.modTrack (s : State) (id : Nat) {f : Track → Track} (hf : ∀ y, (f y).desc = y.desc ∧ (f y).phase.settled = true) :
    onlySettles s (modTrack s id f) := fun x hx => by
  obtain ⟨y, hy, rfl | rfl⟩ := mem_modFirst hx
  · exact ⟨x, hy, .inl rfl⟩
  · exact ⟨y, hy, .inr (hf y)⟩

theorem afterLeave_settles (s : State) (ring : Nat) : onlySettles s (afterLeave s ring) := .of_track (afterLeave_track s ring)

theorem dropTrack_settles (s : State) (id : Nat) : onlySettles s (dropTrack s id) := by
  unfold dropTrack
  split
  · refine onlySettles.trans (t := { s with hif := { s.hif with track := s.hif.track.filter fun x => decide (x.id ≠ id) } }) ?_
      (afterLeave_settles _ _)
    exact fun x hx => ⟨x, (List.mem_filter.1 hx).1, .inl rfl⟩
  · exact .refl s

theorem decideOne_settles (s : State) (id st r0 r1 : Nat) (hoop : Hoop) : onlySettles s (decideOne s id st r0 r1 hoop) := by
  unfold decideOne
  split
  · dsimp only
    split
    · exact onlySettles.trans (.of_track rfl) (dropTrack_settles _ id)
    · refine onlySettles.trans (t := { s with hif := { s.hif with nextFin := s.hif.nextFin + 1 } }) (.of_track rfl) ?_
      exact iteInduction (fun _ => dropTrack_settles _ id) fun _ => iteInduction (fun _ => .modTrack _ _ fun _ => ⟨rfl, rfl⟩) fun _ =>
        iteInduction (fun _ => dropTrack_settles _ id) fun _ => .modTrack _ _ fun _ => ⟨rfl, rfl⟩
  · exact .refl s

theorem settleFences_settles (s : State) (ring : Nat) : onlySettles s (settleFences s ring) := by
  refine onlySettles.foldl (fun v f => ?_) _ s
  split
  · exact iteInduction (fun _ => decideOne_settles _ _ _ _ _ _) fun _ => .refl v
  · exact .refl v

theorem settleOne_settles (s : State) (id : Nat) : onlySettles s (settleOne s id) := by
  unfold settleOne
  split
  · split
    · exact iteInduction (fun _ => .refl s) fun _ => decideOne_settles _ _ _ _ _ _
    · exact .refl s
  · exact .refl s

theorem settleRing_settles (s : State) (ring : Nat) : onlySettles s (settleRing s ring) :=
  (onlySettles.foldl settleOne_settles _ s).trans (settleFences_settles _ ring)

theorem finish_settles (s : State) (id st r0 r1 : Nat) : onlySettles s (finish s id st r0 r1) := by
  unfold finish finishAt
  split
  · exact iteInduction (fun _ => .modTrack _ _ fun _ => ⟨rfl, rfl⟩) fun _ => (decideOne_settles _ _ _ _ _ _).trans (settleRing_settles _ _)
  · exact .refl s

/-! ### Who waits in a block -/

/-- No entry with property `p` waits in its block. -/
def noneQueued (s : State) (p : Track → Bool) : Prop := ∀ x, x ∈ s.hif.track → p x = true → x.phase ≠ .queued

theorem noneQueued.settles {p : Track → Bool} (h : noneQueued s p) (k : onlySettles s t) : noneQueued t p := fun x hx hpx => by
  obtain ⟨y, hy, rfl | ⟨hd, hs⟩⟩ := k x hx
  · exact h x hy hpx
  · intro hq
    rw [hq] at hs
    exact Bool.noConfusion hs

theorem noneQueued.next {p : Track → Bool} (h : noneQueued s p) : nextQueued s p = none := by
  have hnil : (s.hif.track.filter fun t => decide (t.phase = .queued) && p t) = [] := by
    refine List.filter_eq_nil_iff.2 fun x hx hq => ?_
    obtain ⟨hqueued, hpx⟩ := Bool.and_eq_true_iff.1 hq
    exact h x hx hpx (of_decide_eq_true hqueued)
  unfold nextQueued
  rw [hnil]
  rfl

end

/-- An entry as its block receives it. -/
def handed (s : State) (t : Track) : Track := { t with phase := .queued, handed := s.hif.nextHanded }

theorem filter_modFirst_found {α : Type} {p q : α → Bool} {f : α → α} {l : List α} {x : α} (hx : l.find? q = some x)
    (hnone : ∀ y, y ∈ l → p y = false) (hf : p (f x) = true) : (modFirst q f l).filter p = [f x] := by
  induction l with
  | nil => exact absurd hx (by simp)
  | cons y l ih =>
    have hl : ∀ z, z ∈ l → p z = false := fun z hz => hnone z (List.mem_cons_of_mem y hz)
    rw [modFirst]
    rw [List.find?_cons] at hx
    split at hx
    next hq =>
      obtain rfl := Option.some.inj hx
      rw [if_pos hq, List.filter_cons, if_pos hf, List.filter_eq_nil_iff.2 fun z hz => by simp [hl z hz]]
    next hq => rw [if_neg (by simp [hq]), List.filter_cons, if_neg (by simp [hnone y List.mem_cons_self]), ih hx hl]

/-- The one entry that waits in its block is the one just handed over. -/
theorem nextQueued_handOver {s : State} {t : Track} (ht : findTrack s t.id = some t) {p : Track → Bool}
    (hp : ∀ x y : Track, x.desc = y.desc → p x = p y) (htp : p t = true) (hnone : noneQueued s p) :
    nextQueued (handOver s t.id) p = some (handed s t) := by
  have hone := filter_modFirst_found (p := fun x : Track => decide (x.phase = .queued) && p x)
    (f := fun x : Track => { x with phase := .queued, handed := s.hif.nextHanded }) ht (fun y hy => ?_) (by rw [decide_eq_true rfl, Bool.true_and]; exact (hp (handed s t) t rfl).trans htp)
  · unfold nextQueued handOver modTrack
    dsimp only at hone ⊢
    rw [hone]
    rfl
  · by_cases hpy : p y = true
    · rw [decide_eq_false (hnone y hy hpy), Bool.false_and]
    · rw [Bool.eq_false_iff.2 hpy, Bool.and_false]

end Sys2Proof.Machine

/-! Frames of the image trial: verification, activation, the end of the trial (chapter 15). -/
namespace Sys2Proof.Machine

section
variable {w : List Part} (hshared : .shared ∈ w) (hccs : .ccs ∈ w)
include hshared hccs

@[simp] theorem clearCores_outside (s : State) : (clearCores s).outside w = s.outside w := by
  unfold clearCores
  simp [Ccs.outside, hshared, hccs]

@[simp] theorem writeTarget_outside (s : State) (t dest : Nat) (bs : List Byte) :
    (writeTarget s t dest bs).outside w = s.outside w := by
  unfold writeTarget
  (repeat' split) <;> simp [Ccs.outside, hshared, hccs]

@[simp] theorem writeSections_outside (s : State) (b : List Byte) (lo hi : Nat) :
    (writeSections s b lo hi).outside w = s.outside w := by
  unfold writeSections
  simp [hshared, hccs]

end

section
variable {w : List Part} (hcvus : .cvus ∈ w)
include hcvus

@[simp] theorem cvuFree_outside (s : State) (u : Nat) : (cvuFree s u).outside w = s.outside w := by
  unfold cvuFree
  (repeat' split) <;> simp [hcvus]

@[simp] theorem freeUnits_outside (s : State) : (freeUnits s).outside w = s.outside w := by
  unfold freeUnits
  refine foldl_outside (fun t u => ?_) _ s
  split
  · split
    · exact cvuFree_outside hcvus t u
    · rfl
  · rfl

end

section
variable {w : List Part} (hstacks : .stacks ∈ w)
include hstacks

@[simp] theorem stackRequest_outside (s : State) (i : Nat) : (stackRequest s i).outside w = s.outside w := by
  unfold stackRequest
  simp [hstacks]

@[simp] theorem memRequest_outside (s : State) : (memRequest s).outside w = s.outside w := by
  unfold memRequest
  simp [hstacks]

end

section
variable {w : List Part} (hregs : .regs ∈ w)
include hregs

@[simp] theorem withoutThreadRegs_outside (s : State) (n : Nat) :
    (withoutThreadRegs s n).outside w = s.outside w := by
  simp [withoutThreadRegs, State.outside, regsOutside, mayChange, hregs]

end

section
variable {w : List Part} (hccs : .ccs ∈ w)
include hccs

@[simp] theorem clearThreads_outside (s : State) : (clearThreads s).outside w = s.outside w := by
  unfold clearThreads
  simp [Ccs.outside, hccs]

end

section
variable {w : List Part} (hregs : .regs ∈ w) (hccs : .ccs ∈ w)
include hregs hccs

@[simp] theorem startFirmware_outside (s : State) (entry : Nat) :
    (startFirmware s entry).outside w = s.outside w := by
  unfold startFirmware
  simp [Ccs.outside, hregs, hccs]

end

section
variable {w : List Part} (hn : Notices w) (hregs : .regs ∈ w) (htrack : .track ∈ w) (hshared : .shared ∈ w)
  (hccs : .ccs ∈ w) (hcvus : .cvus ∈ w) (hupd : .upd ∈ w) (hacks : .acks ∈ w)
include hn hregs htrack hshared hccs hcvus hupd hacks

@[simp] theorem revertDone_outside (s : State) : (revertDone s).outside w = s.outside w := by
  have hregs1 : ∀ (t : State) (x : Nat × Word), (setReg t x.1 x.2).outside w = t.outside w := fun t x => setReg_outside t (.inl hregs) _
  have hregs2 : ∀ (t : State) (x : Nat × Word), (setReg t (MAC_FW_RX_BASE x.1) x.2).outside w = t.outside w := fun t x =>
    setReg_outside t (.inl hregs) _
  unfold revertDone
  split
  · simp [foldl_outside hregs1, foldl_outside hregs2, Ccs.outside, Upd.outside, hn, hregs, htrack, hshared, hccs, hcvus, hupd, hacks]
  · rfl

@[simp] theorem activationDone_outside (s : State) : (activationDone s).outside w = s.outside w := by
  unfold activationDone
  (repeat' split) <;> simp [Ccs.outside, Upd.outside, hn, hregs, htrack, hshared, hccs, hcvus, hupd, hacks]

end

section
variable {w : List Part} (hccs : .ccs ∈ w) (hupd : .upd ∈ w) (hfreeCount : .freeCount ∈ w)
include hccs hupd hfreeCount

@[simp] theorem startRevert_outside (s : State) (why : Nat) : (startRevert s why).outside w = s.outside w := by
  unfold startRevert
  (repeat' split) <;> simp [Upd.outside, hccs, hupd, hfreeCount]

end

section
variable {w : List Part} (hn : Notices w) (htim : .tim ∈ w) (hccs : .ccs ∈ w) (hupd : .upd ∈ w)
  (hfreeCount : .freeCount ∈ w)
include hn htim hccs hupd hfreeCount

@[simp] theorem confirmExpiry_outside (s : State) : (confirmExpiry s).outside w = s.outside w := by
  unfold confirmExpiry
  (repeat' split) <;> simp [hn, htim, hccs, hupd, hfreeCount]

end

section
variable {w : List Part} (hn : Notices w) (htrack : .track ∈ w) (hcvus : .cvus ∈ w) (hupd : .upd ∈ w)
  (hacks : .acks ∈ w)
include hn htrack hcvus hupd hacks

@[simp] theorem verifyComplete_outside (s : State) (e : EccRead) : (verifyComplete s e).outside w = s.outside w := by
  unfold verifyComplete
  (repeat' split) <;> simp [Upd.outside, hn, htrack, hcvus, hupd, hacks]

end


end Sys2Proof.Machine

/-! The staged image: its blocks, verification, activation, and the end of its trial (R402 to R409). -/
namespace Sys2Proof.Machine

/-! ### IMAGE_BLOCKs are served one at a time (R402) -/

/-- The entry is an IMAGE_BLOCK. -/
def isBlock (t : Track) : Bool := decide (t.desc.opcode = 0x40)

theorem isBlock_congr (x y : Track) (h : x.desc = y.desc) : isBlock x = isBlock y := by rw [isBlock, h, isBlock]

theorem noBlockWaits.queued {s : State} (h : noBlockWaits s) : noneQueued s isBlock := fun x hx hb => h x hx (of_decide_eq_true hb)

theorem blockRunning_handOver {s : State} (h : blockRunning s = false) (id : Nat) : blockRunning (handOver s id) = false := by
  unfold blockRunning at h ⊢
  rw [List.any_eq_false] at h ⊢
  intro x hx
  obtain ⟨y, hy, rfl | rfl⟩ := mem_modFirst hx
  · exact h x hy
  · simp

theorem serveBlocks_running {s : State} (h : blockRunning s = true) (n : Nat) : serveBlocks n s = s := by
  cases n with
  | zero => rfl
  | succ n => exact if_pos h

theorem nextBlock_idle {s : State} (h : noneQueued s isBlock) : nextBlock s = s := by
  unfold nextBlock
  cases s.hif.track.length with
  | zero => rfl
  | succ n =>
    rw [serveBlocks]
    split
    · rfl
    · rw [show nextQueued s (fun t => decide (t.desc.opcode = 0x40)) = none from h.next]

/-- A block that R402 takes is read where no other is under way. -/
theorem startBlock_taken {s : State} {t : Track} (ht : findTrack s t.id = some t) (hop : t.desc.opcode = 0x40)
    (hrun : blockRunning s = false) (hnone : noBlockWaits s) (hcheck : blockCheck s t.desc = (stOk, 0)) :
    startBlock (handOver s t.id) t = running (handOver s t.id) t.id := by
  have hnext : nextQueued (handOver s t.id) (fun t => decide (t.desc.opcode = 0x40)) = some (handed s t) :=
    nextQueued_handOver ht isBlock_congr (decide_eq_true hop) hnone.queued
  have hfound := findTrack_handOver ht
  have hjudge : judgeBlock (handOver s t.id) (handed s t) = running (handOver s t.id) t.id := by
    unfold judgeBlock
    rw [show blockCheck (handOver s t.id) (handed s t).desc = (stOk, 0) from hcheck]
    rfl
  have hbusy : blockRunning (running (handOver s t.id) t.id) = true := by
    have hmem := List.mem_of_find?_eq_some (findTrack_modTrack (t := handed s t) (f := fun t : Track => { t with phase := .running }) hfound rfl)
    exact List.any_eq_true.2 ⟨_, hmem, decide_eq_true ⟨hop, rfl⟩⟩
  unfold startBlock nextBlock
  cases hlen : (handOver s t.id).hif.track.length with
  | zero => exact absurd (List.length_pos_of_mem (List.mem_of_find?_eq_some hfound)) (by rw [hlen]; exact Nat.lt_irrefl 0)
  | succ n =>
    rw [serveBlocks, if_neg (by rw [blockRunning_handOver hrun]; exact Bool.false_ne_true), hnext]
    dsimp only
    rw [hjudge, serveBlocks_running hbusy]

/-! ### The data of a block (R403) -/

theorem noneQueued.begin {s : State} {p : Track → Bool} (h : noneQueued s p) (id : Nat) :
    noneQueued (begin s id) p := fun x hx hpx => by
  obtain ⟨y, hy, rfl | rfl⟩ := mem_modFirst hx
  · exact h x hy hpx
  · exact Phase.noConfusion

/-- The staging area before the data of block `d` is appended: BEGIN empties it. -/
def stagedImage (s : State) (d : Desc) : List Byte := if blockBegin d then [] else s.upd.image

/-- SIZE as block `d` leaves it. -/
def stagedSize (s : State) (d : Desc) : Nat := if blockBegin d then darg d 2 else s.upd.size

/-- What the header tells once it is whole (R403). -/
def stagedErr (s : State) (old img : List Byte) : Nat := if old.length < 320 ∧ 320 ≤ img.length then headerErr s.boot.mode img else 0

theorem blockStart_upd (s : State) (d : Desc) : blockStart s d = { s with upd := (blockStart s d).upd } ∧
    (blockStart s d).upd.image = stagedImage s d ∧ (blockStart s d).upd.size = stagedSize s d := by
  unfold blockStart stagedImage stagedSize
  split
  · exact ⟨rfl, rfl, rfl⟩
  · exact ⟨rfl, rfl, rfl⟩

/-- A block ends, and none waits behind it. -/
theorem finishBlock_idle {s : State} (h : noneQueued s isBlock) (t : Track) (st r0 r1 : Nat) :
    finishBlock s t st r0 r1 = finish s t.id st r0 r1 := nextBlock_idle (h.settles (finish_settles _ _ _ _ _))

theorem finishBlock_spec {v : State} (h : noneQueued v isBlock) (u : Upd) (t : Track) (st r0 r1 : Nat) :
    let e := finishBlock (setUpd v u) t st r0 r1
    e.upd = u ∧ e.cfg = v.cfg ∧ (alone v → alone e) := by
  have hout := finish_outside_finishParts (setUpd v u) t.id st r0 r1
  dsimp only
  rw [finishBlock_idle (s := setUpd v u) h]
  refine ⟨(upd_of_outside hout (by decide) (by decide)).trans rfl, (cfg_of_outside hout (by decide)).trans rfl, fun ha => ?_⟩
  have hset : alone (setUpd v u) := ha.congr rfl rfl rfl
  exact hset.finish t.id st r0 r1

/-- The block's data is appended, and judged. -/
theorem writeBlock_spec {s : State} (hnone : noneQueued s isBlock) (t : Track) (data : List Byte) :
    let img := stagedImage s t.desc ++ slice data 0 t.desc.length
    let err := stagedErr s (stagedImage s t.desc) img
    (writeBlock s t data).upd.image = img ∧ (writeBlock s t data).upd.size = stagedSize s t.desc ∧ (writeBlock s t data).cfg = s.cfg ∧
      (err = 0 → (writeBlock s t data).upd.istate = if img.length = stagedSize s t.desc then .loaded else .loading) ∧
      (err ≠ 0 → (writeBlock s t data).upd.istate = .failed ∧ (writeBlock s t data).upd.err = err) ∧
      (alone s → alone (writeBlock s t data)) := by
  obtain ⟨hstart, himage, hsize⟩ := blockStart_upd s t.desc
  have hqueued : noneQueued (begin (blockStart s t.desc) t.id) isBlock := by
    refine noneQueued.begin (fun x hx => hnone x ?_) t.id
    rw [hstart] at hx
    exact hx
  have hmode : (begin (blockStart s t.desc) t.id).boot.mode = s.boot.mode := by rw [hstart]; rfl
  have hcfg : (begin (blockStart s t.desc) t.id).cfg = s.cfg := by rw [hstart]; rfl
  have halone (h : alone s) : alone (begin (blockStart s t.desc) t.id) := by
    refine alone.modTrack ?_ _ fun _ => rfl
    rw [hstart]
    exact h.congr rfl rfl rfl
  replace himage : (begin (blockStart s t.desc) t.id).upd.image = stagedImage s t.desc := himage
  replace hsize : (begin (blockStart s t.desc) t.id).upd.size = stagedSize s t.desc := hsize
  dsimp only
  unfold writeBlock
  dsimp only
  generalize begin (blockStart s t.desc) t.id = v at hqueued hmode hcfg halone himage hsize
  rw [himage, hmode]
  simp only [decide_eq_true_eq]
  have herr : (if (stagedImage s t.desc).length < 320 ∧ 320 ≤ (stagedImage s t.desc ++ slice data 0 t.desc.length).length then
      headerErr s.boot.mode (stagedImage s t.desc ++ slice data 0 t.desc.length) else 0) =
    stagedErr s (stagedImage s t.desc) (stagedImage s t.desc ++ slice data 0 t.desc.length) := rfl
  rw [herr]
  by_cases hh : stagedErr s (stagedImage s t.desc) (stagedImage s t.desc ++ slice data 0 t.desc.length) = 0
  · obtain ⟨hupd, hecfg, healone⟩ := finishBlock_spec hqueued { v.upd with
      image := stagedImage s t.desc ++ slice data 0 t.desc.length
      fw := if (stagedImage s t.desc).length < 320 ∧ 320 ≤ (stagedImage s t.desc ++ slice data 0 t.desc.length).length then
        imageVersion (stagedImage s t.desc ++ slice data 0 t.desc.length) else v.upd.fw
      istate := if (stagedImage s t.desc ++ slice data 0 t.desc.length).length = v.upd.size then .loaded else .loading }
      t stOk 0 0
    rw [if_neg (not_not.2 hh)]
    exact ⟨congrArg Upd.image hupd, (congrArg Upd.size hupd).trans hsize, hecfg.trans hcfg, fun _ => hsize ▸ congrArg Upd.istate hupd,
      fun h => absurd hh h, fun h => healone (halone h)⟩
  · obtain ⟨hupd, hecfg, healone⟩ := finishBlock_spec hqueued { v.upd with
      image := stagedImage s t.desc ++ slice data 0 t.desc.length, istate := .failed
      err := stagedErr s (stagedImage s t.desc) (stagedImage s t.desc ++ slice data 0 t.desc.length) } t stImageInvalid 0
      (stagedErr s (stagedImage s t.desc) (stagedImage s t.desc ++ slice data 0 t.desc.length))
    rw [if_pos hh]
    exact ⟨congrArg Upd.image hupd, (congrArg Upd.size hupd).trans hsize, hecfg.trans hcfg, fun h => absurd h hh,
      fun _ => ⟨congrArg Upd.istate hupd, congrArg Upd.err hupd⟩, fun h => healone (halone h)⟩

/-! ### Verification (R403) -/

theorem startVerify_ok {s : State} {t : Track} (hdata : noData t.desc = true) (hargs : argsZeroFrom t.desc 0 = true)
    (hloaded : s.upd.istate = .loaded) (hnone : s.upd.verifying = none) (hfree : (cvuOf s 3).owner = none) :
    startVerify s t = setCvu (setUpd (begin s t.id) { s.upd with verifying := some t.id, verifyKey := latchKey s }) 3
      { cvuOf s 3 with owner := some 0x1FE } := by
  unfold startVerify
  dsimp only
  rw [if_neg (by simp [hdata, hargs]), if_neg (by simp [hloaded, hnone])]
  exact if_pos hfree

theorem cvus_of_outside {w : List Part} {s t : State} (h : t.outside w = s.outside w) (hw : .cvus ∉ w) : t.cvus = s.cvus := by
  simpa [State.outside, hw] using congrArg State.cvus h

/-- The state with the check unit given back. -/
def unitFreed (s : State) : State := cvuFree (setUpd s { s.upd with verifying := none }) 3

theorem unitFreed_owner {s : State} (hs : s.canon) : (cvuOf (unitFreed s) 3).owner = none := by
  exact (congrArg Cvu.owner (tget_tput_self hs.cvus)).trans rfl

theorem verifyComplete_loaded {s : State} {id : Nat} (hid : s.upd.verifying = some id) (howner : (cvuOf s 3).owner = some 0x1FE)
    (hloaded : s.upd.istate = .loaded) (e : EccRead) :
    verifyComplete s e = finish (setUpd (unitFreed s) { (unitFreed s).upd with
        istate := if (verifyImage s e).1 = stOk then .verified else .failed
        err := if (verifyImage s e).1 = stOk then s.upd.err else (verifyImage s e).2 })
      id (verifyImage s e).1 (if (verifyImage s e).1 = stOk then s.upd.fw else 0) (verifyImage s e).2 := by
  unfold verifyComplete
  rw [hid]
  dsimp only
  rw [if_neg (not_not.2 howner)]
  exact if_neg (not_not.2 hloaded)

/-! ### Arguments that are zero -/

theorem argsZeroFrom_le {d : Desc} {k j : Nat} (h : argsZeroFrom d k = true) (hkj : k ≤ j) : argsZeroFrom d j = true := by
  unfold argsZeroFrom at h ⊢
  rw [List.all_eq_true] at h ⊢
  intro w hw
  rw [← Nat.add_sub_cancel' hkj, ← List.drop_drop] at hw
  exact h w (List.mem_of_mem_drop hw)

theorem arg_zero {d : Desc} {k i : Nat} (h : argsZeroFrom d k = true) (hki : k ≤ i) : (d.args[i]?).getD 0 = 0 := by
  unfold argsZeroFrom at h
  rw [List.all_eq_true] at h
  cases hi : d.args[i]? with
  | none => rfl
  | some w =>
    refine of_decide_eq_true (h w (List.mem_of_getElem? (i := i - k) ?_))
    rw [List.getElem?_drop, Nat.add_sub_cancel' hki, hi]

theorem darg_zero {d : Desc} {k i : Nat} (h : argsZeroFrom d k = true) (hki : k ≤ i) : darg d i = 0 :=
  congrArg BitVec.toNat (arg_zero h hki)

/-! ### Activation (R404, R406) -/

theorem startActivate_ok {s : State} {t : Track} (hdata : noData t.desc = true) (hargs : argsZeroFrom t.desc 1 = true)
    (hsecs : darg t.desc 0 < 4096) (hver : s.upd.istate = .verified) (htrial : s.upd.trial = none) (hmode : s.boot.mode = 0) :
    startActivate s t = submit (running s t.id) ⟨.reserve, .host t.id, 0, false, 0, [], 0, false, 0, 0, none⟩ := by
  have hbits : bits (darg t.desc 0) 30 12 = 0 := by
    rw [bits, Nat.div_eq_of_lt (by omega), Nat.zero_mod]
  have htime : bitOf (darg t.desc 0) 31 = false := by
    rw [bitOf, Nat.div_eq_of_lt (by omega)]
    rfl
  have h3 : argsZeroFrom t.desc 3 = true := argsZeroFrom_le hargs (by decide)
  have h1 : darg t.desc 1 = 0 := darg_zero hargs (by decide)
  have h2 : darg t.desc 2 = 0 := darg_zero hargs (by decide)
  unfold startActivate
  dsimp only
  rw [if_neg (by simp [hdata, h3, hbits, htime, h1, h2]), if_neg (by simp [hver, trialOn, htrial, hmode])]

/-- What the activation and the end of a trial leave alone. -/
def trialParts : List Part := allBut [.upd, .jobs, .cfg, .hoop, .ref, .abort, .hoopRegs, .stacks, .tim, .pulses, .stamps]

theorem activationDone_upd {s : State} {a : Activation} {b : Hoop} (hact : s.upd.act = some a) (hb : a.hoop = some b) :
    (activationDone s).upd.istate = .empty ∧ (activationDone s).upd.image = [] ∧ (activationDone s).upd.act = none ∧
      (activationDone s).upd.trial = some ⟨s.tim.cyc, a.secs, false, a.fw⟩ := by
  unfold activationDone
  rw [hact]
  dsimp only
  rw [hb]
  dsimp only
  have hhead : (freeUnits (clearThreads (withoutThreadRegs { writeSections (clearCores s) s.upd.image 320 s.upd.image.length with
      ccs := { (writeSections (clearCores s) s.upd.image 320 s.upd.image.length).ccs with tcb := [] } } 16))).outside trialParts =
      s.outside trialParts := by
    simp [trialParts, Ccs.outside]
  have htail (x : State) (entry n id st r : Nat) : (finishAt (noticeBoth ((List.range 8).foldl (fun s k =>
      setCore s k { coreOf s k with wdog := s.tim.cyc }) (startFirmware x entry)) 0x1101 0 n) id st r 0 b).outside trialParts =
      x.outside trialParts := by
    simp [trialParts]
  have hupd (x : State) (entry n id st r : Nat) := upd_of_outside (htail x entry n id st r) (by simp [trialParts]) (by simp [trialParts])
  have htim := tim_of_outside hhead (by simp [trialParts]) (by simp [trialParts]) (by simp [trialParts])
  refine ⟨(congrArg Upd.istate (hupd ..)).trans rfl, (congrArg Upd.image (hupd ..)).trans rfl, (congrArg Upd.act (hupd ..)).trans rfl,
    (congrArg Upd.trial (hupd ..)).trans ?_⟩
  exact congrArg (fun c => some (Trial.mk c a.secs false a.fw)) (congrArg Tim.cyc htim)

/-! ### The trial is confirmed (R408) -/

theorem writeBank_congr {s u : State} (hkeep : u.keep = s.keep) (htrial : trialOn u = trialOn s) :
    writeBank u = writeBank s ∧ writeGen u = writeGen s := by
  unfold writeBank writeGen
  rw [htrial, confirmNow_congr hkeep]
  exact ⟨rfl, rfl⟩

/-- Any other request that PSM refuses leaves nothing. -/
theorem refuseSupply_host {s : State} (hjobs : s.upd.jobs = []) (id r0 : Nat) {j : StoreJob} (hkind : j.kind ≠ .confirm)
    (huser : j.user = .host id) :
    refuseSupply (setUpd s { s.upd with jobs := [j] }) j r0 = finish s id stSupply r0 0 := by
  have hback : setUpd s { s.upd with jobs := [] } = s := by
    rw [← hjobs]
    rfl
  unfold refuseSupply storeOutcome
  rw [if_neg hkind, huser]
  exact congrArg (fun u => finish u id stSupply r0 0) hback

/-- The trial `x` with its window stopped for the confirm of `t`. -/
def confirming (s : State) (t : Track) (x : Trial) : State := setUpd (begin s t.id) { s.upd with trial := some { x with stopped := true } }

/-- A confirm that PSM refuses leaves the trial as it was. -/
theorem refuseSupply_confirm {s : State} {x : Trial} (htrial : s.upd.trial = some x) (hstop : x.stopped = false)
    (hjobs : s.upd.jobs = []) (id r0 : Nat) {j : StoreJob} (hkind : j.kind = .confirm) (huser : j.user = .host id) :
    refuseSupply (setUpd s { s.upd with trial := some { x with stopped := true }, jobs := [j] }) j r0 = finish s id stSupply r0 0 := by
  have hx : { x with stopped := false } = x := by rw [← hstop]
  have hback : setUpd s { s.upd with trial := some { x with stopped := false }, jobs := [] } = s := by
    rw [hx, ← htrial, ← hjobs]
    rfl
  unfold refuseSupply storeOutcome
  rw [if_pos hkind, huser]
  exact congrArg (fun u => finish u id stSupply r0 0) hback

theorem darg_withSub_confirm {d : Desc} (hargs : argsZeroFrom d 0 = true) {v : Nat} (hv : v < 2) :
    darg (withSub 0x43 0 0 v d) 0 = v := by
  rw [darg_withSub_zero, arg_zero hargs (Nat.le_refl 0)]
  interval_cases v <;> rfl

theorem argsZero_confirm {d : Desc} (hargs : argsZeroFrom d 0 = true) (v : Nat) : argsZeroFrom (withSub 0x43 0 0 v d) 1 = true :=
  (argsZeroFrom_withSub ..).trans (argsZeroFrom_le hargs (Nat.zero_le 1))

section
variable {s : State} {t : Track} {x : Trial} (hdata : noData t.desc = true) (hargs : argsZeroFrom t.desc 1 = true)
  (htrial : s.upd.trial = some x) (hstop : x.stopped = false) (hrev : s.upd.reverting = none)
include hdata hargs htrial hstop hrev

theorem startConfirm_confirm (hzero : darg t.desc 0 = 0) : startConfirm s t =
    submit (confirming s t x)
      ⟨.confirm, .host t.id, 0, false, 0, [], 0, false, 0, 0, none⟩ := by
  unfold startConfirm
  dsimp only
  rw [if_neg (by simp [hdata, hargs, hzero]), if_neg (by simp [trialOn, htrial, hstop, hrev]), hzero, if_neg (by decide), htrial]
  rfl

theorem startConfirm_writes (hzero : darg t.desc 0 = 0) (hjobs : s.upd.jobs = []) (hw : s.psm.writeOk = true) : startConfirm s t =
    setUpd (begin s t.id) { s.upd with
      trial := some { x with stopped := true }
      jobs := [⟨.confirm, .host t.id, 0, false, 0, [], 0, true, writeBank s, writeGen s, none⟩] } := by
  obtain ⟨hbank, hgen⟩ := writeBank_congr (s := s) (u := confirming s t x) rfl
    (by simp [trialOn, confirming, setUpd, htrial])
  rw [startConfirm_confirm hdata hargs htrial hstop hrev hzero, submit_starts (s := confirming s t x) hjobs rfl (.inr (.inl rfl))
    (by simp) hw, startJob_begun (.inr (.inl rfl)), begun, hbank, hgen]
  rfl

theorem startConfirm_refused (hzero : darg t.desc 0 = 0) (hjobs : s.upd.jobs = []) (hw : s.psm.writeOk = false) :
    startConfirm s t = finish (begin s t.id) t.id stSupply 0 0 := by
  rw [startConfirm_confirm hdata hargs htrial hstop hrev hzero, submit_refused (s := confirming s t x) hjobs rfl (.inr (.inl rfl))
    (by simp) hw]
  exact refuseSupply_confirm (s := begin s t.id) htrial hstop hjobs t.id 0 rfl rfl

theorem startConfirm_revert (hone : darg t.desc 0 = 1) : startConfirm s t = startRevert (begin s t.id) 2 := by
  unfold startConfirm
  dsimp only
  rw [if_neg (by simp [hdata, hargs, hone]), if_neg (by simp [trialOn, htrial, hstop, hrev]), hone]
  rfl

end

theorem startRevert_trial {s : State} {x : Trial} (htrial : s.upd.trial = some x) (hrev : s.upd.reverting = none) (why : Nat) :
    startRevert s why = haltThreads (setUpd s { s.upd with reverting := some why }) :=
  if_pos (by simp [trialOn, htrial, hrev])

/-! ### Every thread is halted (R409) -/

/-- Thread `k` is not awake. -/
def atRest (s : State) (k : Nat) : Prop := (threadOf s k).state = .dormant ∨ (threadOf s k).state = .halted

/-- Where no thread is READY, HALT touches the thread alone. -/
theorem haltThread_quiet {s : State} (hs : s.canon) (hr : noneReady s) (t : Nat) :
    noneReady (haltThread s t) ∧ atRest (haltThread s t) t ∧ ∀ k, k ≠ t → threadOf (haltThread s t) k = threadOf s k := by
  have hset {v : State} (hv : v.ccs.canon) (hvr : noneReady v) (hsame : ∀ k, threadOf v k = threadOf s k) (x : Thread) (hx : x.state = .halted) :
      noneReady (setThread v t x) ∧ atRest (setThread v t x) t ∧ ∀ k, k ≠ t → threadOf (setThread v t x) k = threadOf s k := by
    refine ⟨hvr, .inr ?_, fun k hk => ?_⟩
    · rw [threadOf_setThread hv, if_pos rfl, hx]
    · rw [threadOf_setThread hv, if_neg hk, hsame]
  unfold haltThread
  dsimp only
  split
  next h => exact ⟨hr, .inl h, fun _ _ => rfl⟩
  next h => exact ⟨hr, .inr h, fun _ _ => rfl⟩
  next h =>
    have hquiet := hset (leaveCore_canon hs (threadOf s t).core) ((leaveCore_readyLists s _).trans hr) (leaveCore_keepsThreads s _)
      { threadOf s t with state := .halted } rfl
    rw [dispatch_noneReady hquiet.1]
    exact hquiet
  next h =>
    have hlist : listOf s (threadOf s t).prio = [] := by
      rw [listOf, show s.ccs.readyLists = [] from hr]
      rfl
    refine hset (v := setList s (threadOf s t).prio _) ?_ ?_ (fun _ => rfl) { threadOf s t with state := .halted } rfl
    · exact ((setList_keeps s _ _ (.refl s)).canon hs).ccs
    · rw [hlist, noneReady, setList, show s.ccs.readyLists = [] from hr]
      rfl
  next h => exact hset hs.ccs hr (fun _ => rfl) { threadOf s t with state := .halted, waitMask := 0 } rfl

theorem haltThreads_atRest {s : State} (hs : s.canon) (hr : noneReady s) : ∀ k, k < 256 → atRest (haltThreads s) k := by
  have hall (n : Nat) : ((List.range n).foldl haltThread s).canon ∧ noneReady ((List.range n).foldl haltThread s) ∧
      ∀ k, k < n → atRest ((List.range n).foldl haltThread s) k := by
    induction n with
    | zero => exact ⟨hs, hr, fun k hk => absurd hk (Nat.not_lt_zero k)⟩
    | succ n ih =>
      obtain ⟨hc, hn, hrest⟩ := ih
      rw [List.range_succ, List.foldl_append, List.foldl_cons, List.foldl_nil]
      obtain ⟨hready, hself, hother⟩ := haltThread_quiet hc hn n
      refine ⟨(haltThread_keeps _ n (.refl _)).canon hc, hready, fun k hk => ?_⟩
      by_cases hkn : k = n
      · rw [hkn]
        exact hself
      · unfold atRest
        rw [hother k hkn]
        exact hrest k (by omega)
  intro k hk
  refine List.foldlRecOn (motive := fun v : State => atRest v k) _ _ ((hall 256).2.2 k hk) fun v hv c _ => ?_
  exact hv

theorem reverting_canon {s : State} (hs : s.canon) {u : Upd} (hu : u.canon) (why : Nat) :
    (setUpd s { u with reverting := some why }).canon :=
  (setUpd_keeps s { u with reverting := some why } (.refl s) fun _ _ => hu).canon hs

theorem tick_cyc_le (n : Nat) (s : State) : s.tim.cyc ≤ (tick n s).tim.cyc := by
  rw [tick_tim, advance]
  split
  · exact Nat.le_add_right _ n
  · exact Nat.le_refl _

/-- The window's expiry: time passes, then every thread is halted. -/
theorem confirmExpiry_eq {s : State} {x : Trial} (htrial : s.upd.trial = some x) (hstop : x.stopped = false)
    (hrev : s.upd.reverting = none) :
    confirmExpiry s = haltThreads (setUpd (runToCycle (x.start + x.secs * secondCycles) s) { s.upd with reverting := some 1 }) := by
  have hupd : (runToCycle (x.start + x.secs * secondCycles) s).upd = s.upd :=
    upd_of_outside (w := allBut [.upd, .jobs]) (by simp) (by simp) (by simp)
  unfold confirmExpiry
  rw [htrial]
  dsimp only
  rw [if_neg (by simp [hstop]), startRevert_trial (by rw [hupd]; exact htrial) (by rw [hupd]; exact hrev), hupd]

theorem haltThreads_upd (s : State) : (haltThreads s).upd = s.upd ∧ (haltThreads s).tim = s.tim := by
  have hout : (haltThreads s).outside [.ccs, .freeCount] = s.outside [.ccs, .freeCount] := by simp
  exact ⟨upd_of_outside hout (by simp) (by simp), tim_of_outside hout (by simp) (by simp) (by simp)⟩

/-! ### The fallback copy is back (R409) -/

/-- The instruction memories and shared memory. -/
def coreMemory (s : State) : Table Byte × Table Byte := (s.ccs.imem, s.ccs.shared)

theorem coreMemory_of_outside {w : List Part} {s t : State} (h : t.outside w = s.outside w) (hw : .ccs ∉ w) (hs : .shared ∉ w) :
    coreMemory t = coreMemory s := by
  have himem : t.ccs.imem = s.ccs.imem := by simpa [State.outside, Ccs.outside, hw] using congrArg (·.ccs.imem) h
  rw [coreMemory, himem, shared_of_outside h hs, coreMemory]

theorem foldl_coreMemory {α : Type} {f : State → α → State} (hf : ∀ v x, coreMemory (f v x) = coreMemory v) (l : List α) (s : State) :
    coreMemory (l.foldl f s) = coreMemory s :=
  List.foldlRecOn (motive := fun v => coreMemory v = coreMemory s) l f rfl fun _ hv x _ => (hf _ x).trans hv

theorem dispatch_coreMemory (s : State) : coreMemory (dispatch s) = coreMemory s := by
  refine foldl_coreMemory (fun v c => ?_) _ s
  unfold dispatchCore
  split
  · split
    · rfl
    · rfl
  · rfl

theorem freeUnits_coreMemory (s : State) : coreMemory (freeUnits s) = coreMemory s :=
  coreMemory_of_outside (freeUnits_outside (w := [.cvus]) (by decide) s) (by decide) (by decide)

theorem setReg_coreMemory (s : State) (a : Nat) (v : Word) : coreMemory (setReg s a v) = coreMemory s := rfl

theorem setCore_coreMemory (s : State) (c : Nat) (x : CoreUnit) : coreMemory (setCore s c x) = coreMemory s := rfl

theorem setThread_coreMemory (s : State) (t : Nat) (x : Thread) : coreMemory (setThread s t x) = coreMemory s := rfl

theorem makeReady_coreMemory (s : State) (t : Nat) : coreMemory (makeReady s t false) = coreMemory s := rfl

/-- The cores as the fallback copy `f` has them. -/
def restored (s : State) (f : Fallback) : State :=
  let s := { s with ccs := { s.ccs with imem := f.imem, dmem := f.dmem, shared := f.shared, tcb := f.tcb } }
  let s := freeUnits (clearThreads (withoutThreadRegs s 8))
  let s := f.regs.foldl (fun s x => setReg s x.1 x.2) s
  let s := f.rxBase.foldl (fun s x => setReg s (MAC_FW_RX_BASE x.1) x.2) s
  let s := f.halted.foldl (fun s t => setThread s t { Thread.reset with state := .halted }) s
  let s := dispatch (f.live.foldl (fun s t => makeReady s t false) s)
  (List.range 8).foldl (fun s k => setCore s k { coreOf s k with wdog := s.tim.cyc }) s

theorem restored_coreMemory (s : State) (f : Fallback) : coreMemory (restored s f) = (f.imem, f.shared) := by
  unfold restored
  dsimp only
  rw [foldl_coreMemory fun v c => setCore_coreMemory v c _, dispatch_coreMemory, foldl_coreMemory fun v t => makeReady_coreMemory v t,
    foldl_coreMemory fun v t => setThread_coreMemory v t _, foldl_coreMemory fun v x => setReg_coreMemory v _ _, foldl_coreMemory fun v x => setReg_coreMemory v _ _,
    freeUnits_coreMemory]
  rfl

/-- The fallback copy is back, the trial over, and an IMAGE_CONFIRM that asked for it ends. -/
theorem revertDone_eq {s : State} {why : Nat} {f : Fallback} (hrev : s.upd.reverting = some why) (hf : s.upd.fallback = some f) :
    ∃ l : List Track, revertDone s = l.foldl (fun s t => finish s t.id stOk 0 0) (noticeBoth (setUpd (restored s f)
      { (restored s f).upd with trial := none, fallback := none, reverting := none }) 0x1102 0 why) := by
  unfold revertDone
  rw [hrev, hf]
  exact ⟨_, rfl⟩

theorem revertDone_spec {s : State} {why : Nat} {f : Fallback} (hrev : s.upd.reverting = some why) (hf : s.upd.fallback = some f) :
    (revertDone s).upd.trial = none ∧ (revertDone s).upd.fallback = none ∧ (revertDone s).upd.reverting = none ∧
      (revertDone s).ccs.imem = f.imem ∧ (revertDone s).ccs.shared = f.shared := by
  obtain ⟨l, heq⟩ := revertDone_eq hrev hf
  have hmem := restored_coreMemory s f
  generalize restored s f = v at heq hmem
  have hout : (revertDone s).outside finishParts =
      (setUpd v { v.upd with trial := none, fallback := none, reverting := none }).outside finishParts := by
    rw [heq]
    exact (foldl_outside (fun v t => finish_outside_finishParts v t.id stOk 0 0) l _).trans
      (noticeBoth_outside (by constructor <;> decide) _ 0x1102 0 why)
  have hupd := upd_of_outside hout (by decide) (by decide)
  have hcore := (coreMemory_of_outside hout (by decide) (by decide)).trans hmem
  exact ⟨congrArg Upd.trial hupd, congrArg Upd.fallback hupd, congrArg Upd.reverting hupd, congrArg Prod.fst hcore,
    congrArg Prod.snd hcore⟩

/-- Settles O37: one IMAGE_BLOCK is served at a time; verification, activation and the trial each hold their own state of the
image, and the requests they make are the store's. -/
theorem imagesAreTried : Obligations.ImagesAreTried := by
  refine ⟨⟨fun n d t s ha hrun hnone hcheck => ?_, fun n tag data t old img size err s ha hf hfind hop hnone hcheck hold hsize himg herr => ?_,
    fun n d t s ha hdata hargs hloaded hver hfree => ?_, fun id e s hs hid howner hloaded => ?_⟩,
    ⟨fun n d t s ha hdata hargs hsecs hver htrial hmode hjobs => ⟨fun hw => ?_, fun hw => ?_⟩, fun a b s hact hb => ?_⟩,
    fun n d t x s hdata hargs htrial hstop hrev => ⟨fun ha hjobs hw => ?_, fun ha hjobs hw => ?_, fun hs hr => ?_, fun hs hr ha => ?_⟩,
    fun why f s hrev hf => ?_⟩
  · have hdesc := ha.desc_eq
    have hcheck' : blockCheck s t.desc = (stOk, 0) := by rw [hdesc]; exact hcheck
    refine congrArg done ((startDesc_of_awaits ha).trans ?_)
    rw [startEntry_block ha.refuses (by rw [hdesc]; rfl), startBlock_taken ha.find (by rw [hdesc]; rfl) hrun hnone hcheck']
  · obtain ⟨himage, hsz, hcfg, hok, hbad, halone⟩ := writeBlock_spec hnone.queued t data
    have hold' : stagedImage s t.desc = old := hold.symm
    have hsize' : stagedSize s t.desc = size := hsize.symm
    rw [hold', ← himg] at himage hok hbad
    have herr' : stagedErr s old img = err := herr.symm
    rw [herr'] at hok hbad
    rw [hsize'] at hsz hok
    have hdone : imageBlockDone s t data = writeBlock s t data := by
      unfold imageBlockDone
      rw [hcheck]
      rfl
    have hexec : exec (.descriptorDmaDone n tag data) s = done (memRequest (writeBlock s t data)) := by
      refine (exec_descriptorDmaDone hf data).trans (congrArg done ?_)
      unfold transferDone
      dsimp only
      rw [hop]
      exact (alone.retryBehind (alone.memRequest (hdone ▸ halone ha))).trans (congrArg memRequest hdone)
    refine ⟨_, hexec, ?_⟩
    rw [memRequest_hoop]
    exact ⟨himage, hsz, hcfg, hok, hbad⟩
  · have hdesc := ha.desc_eq
    refine congrArg done ((startDesc_of_awaits ha).trans ?_)
    rw [startEntry_verify ha.refuses (by rw [hdesc]; rfl)]
    exact startVerify_ok (s := handOver s t.id) (by rw [hdesc]; exact hdata) (by rw [hdesc]; exact hargs) hloaded hver hfree
  · have hexec : exec (.imageVerifyComplete e) s = done (verifyComplete s e) := rfl
    rw [verifyComplete_loaded hid howner hloaded] at hexec
    have hout := finish_outside_finishParts (setUpd (unitFreed s) { (unitFreed s).upd with
        istate := if (verifyImage s e).1 = stOk then .verified else .failed
        err := if (verifyImage s e).1 = stOk then s.upd.err else (verifyImage s e).2 })
      id (verifyImage s e).1 (if (verifyImage s e).1 = stOk then s.upd.fw else 0) (verifyImage s e).2
    have hupd := upd_of_outside hout (by decide) (by decide)
    have hcvus := cvus_of_outside hout (by decide)
    refine ⟨_, hexec, (congrArg Upd.verifying hupd).trans rfl, ?_, (congrArg Upd.image hupd).trans rfl, congrArg Upd.istate hupd, fun hne => ?_⟩
    · rw [cvuOf, hcvus]
      exact unitFreed_owner hs
    · exact (congrArg Upd.err hupd).trans (if_neg hne)
  · have hdesc := ha.desc_eq
    refine congrArg done ((startDesc_of_awaits ha).trans ?_)
    rw [startEntry_activate ha.refuses (by rw [hdesc]; rfl), startActivate_ok (s := handOver s t.id) (by rw [hdesc]; exact hdata)
      (by rw [hdesc]; exact hargs) (by rw [hdesc]; exact hsecs) hver htrial hmode,
      submit_starts (s := running (handOver s t.id) t.id) hjobs rfl (.inl rfl) (by simp) hw, startJob_begun (.inl rfl)]
    rfl
  · have hdesc := ha.desc_eq
    refine congrArg done ((startDesc_of_awaits ha).trans ?_)
    rw [startEntry_activate ha.refuses (by rw [hdesc]; rfl), startActivate_ok (s := handOver s t.id) (by rw [hdesc]; exact hdata)
      (by rw [hdesc]; exact hargs) (by rw [hdesc]; exact hsecs) hver htrial hmode,
      submit_refused (s := running (handOver s t.id) t.id) hjobs rfl (.inl rfl) (by simp) hw]
    exact refuseSupply_host (s := running (handOver s t.id) t.id) hjobs t.id 0 (by simp) rfl
  · obtain ⟨hstate, himage, hact', htrial⟩ := activationDone_upd hact hb
    exact ⟨_, rfl, hstate, himage, hact', htrial, cfg_of_outside (w := allBut [.cfg]) (by simp) (by simp), hoop_of_outsideHoop (by simp [outsideHoop])⟩
  · have hdesc := ha.desc_eq
    refine congrArg done ((startDesc_of_awaits ha).trans ?_)
    rw [startEntry_confirm ha.refuses (by rw [hdesc]; rfl)]
    exact startConfirm_writes (s := handOver s t.id) (by rw [hdesc]; exact hdata) (by rw [hdesc]; exact argsZero_confirm hargs _) htrial hstop hrev
      (by rw [hdesc]; exact darg_withSub_confirm hargs (by decide)) hjobs hw
  · have hdesc := ha.desc_eq
    refine congrArg done ((startDesc_of_awaits ha).trans ?_)
    rw [startEntry_confirm ha.refuses (by rw [hdesc]; rfl)]
    exact startConfirm_refused (s := handOver s t.id) (by rw [hdesc]; exact hdata) (by rw [hdesc]; exact argsZero_confirm hargs _) htrial hstop hrev
      (by rw [hdesc]; exact darg_withSub_confirm hargs (by decide)) hjobs hw
  · have hexec : exec .confirmExpiry s = done (confirmExpiry s) := rfl
    rw [confirmExpiry_eq htrial hstop hrev] at hexec
    have hout : (runToCycle (x.start + x.secs * secondCycles) s).outside (allBut [.ccs]) = s.outside (allBut [.ccs]) := by simp
    have hcyc : s.tim.cyc ≤ (runToCycle (x.start + x.secs * secondCycles) s).tim.cyc := tick_cyc_le _ s
    have hcanon := (runToCycle_keeps (x.start + x.secs * secondCycles) s (.refl s)).canon hs
    generalize runToCycle (x.start + x.secs * secondCycles) s = v at hexec hout hcyc hcanon
    refine ⟨_, hexec, congrArg Upd.reverting (haltThreads_upd _).1, ?_, fun _ => ?_⟩
    · rw [(haltThreads_upd _).2]
      exact hcyc
    · exact haltThreads_atRest (reverting_canon hcanon hs.upd 1) ((readyLists_of_outside hout (by simp)).trans hr)
  · have hdesc := ha.desc_eq
    have hexec : exec (.imageConfirmRevert n d) s = done (startRevert (begin (handOver s t.id) t.id) 2) := by
      refine congrArg done ((startDesc_of_awaits ha).trans ?_)
      rw [startEntry_confirm ha.refuses (by rw [hdesc]; rfl)]
      exact startConfirm_revert (s := handOver s t.id) (by rw [hdesc]; exact hdata) (by rw [hdesc]; exact argsZero_confirm hargs _) htrial hstop hrev
        (by rw [hdesc]; exact darg_withSub_confirm hargs (by decide))
    rw [startRevert_trial (s := begin (handOver s t.id) t.id) htrial hrev] at hexec
    have hcanon := (begin_keeps (handOver s t.id) t.id (handOver_keeps s t.id (.refl s))).canon hs
    exact ⟨_, hexec, congrArg Upd.reverting (haltThreads_upd _).1, haltThreads_atRest (reverting_canon hcanon hs.upd 2) hr⟩
  · obtain ⟨ht, hfb, hr, himem, hshared⟩ := revertDone_spec hrev hf
    exact ⟨_, rfl, ht, hfb, hr, himem, hshared, cfg_of_outside (w := allBut [.cfg]) (by simp) (by simp)⟩

end Sys2Proof.Machine

/-! Table loads and reads: the staging of a part, its validation, and the copies that reads name (R63, R195 to R199). -/
namespace Sys2Proof.Machine

/-! ### TABLE_LOADs of a part are served one at a time (R195) -/

/-- The entry is a TABLE_LOAD of part `p`. -/
def isLoad (p : Nat) (t : Track) : Bool := decide (t.desc.opcode = 0x11 ∧ t.desc.object = p)

theorem isLoad_congr (p : Nat) (x y : Track) (h : x.desc = y.desc) : isLoad p x = isLoad p y := by rw [isLoad, h, isLoad]

theorem noLoadWaits.queued {s : State} {p : Nat} (h : noLoadWaits s p) : noneQueued s (isLoad p) := fun x hx hb => by
  obtain ⟨hop, hobj⟩ := of_decide_eq_true hb
  exact h x hx hop hobj

theorem nextQueued_loads {s : State} {p : Nat} : nextQueued s (fun t => decide (t.desc.opcode = 0x11 ∧ t.desc.object = p)) =
    nextQueued s (isLoad p) := rfl

theorem serveLoads_idle {s : State} {p : Nat} (h : noneQueued s (isLoad p)) (n : Nat) : serveLoads n s p = s := by
  cases n with
  | zero => rfl
  | succ n => rw [serveLoads, nextQueued_loads, h.next]

theorem nextLoad_idle {s : State} {p : Nat} (h : noneQueued s (isLoad p)) : nextLoad s p = s := serveLoads_idle h _

theorem loadRunning_handOver {s : State} {p : Nat} (h : loadRunning s p = false) (id : Nat) : loadRunning (handOver s id) p = false := by
  unfold loadRunning at h ⊢
  rw [List.any_eq_false] at h ⊢
  intro x hx
  obtain ⟨y, hy, rfl | rfl⟩ := mem_modFirst hx
  · exact h x hy
  · simp

theorem modFirst_modFirst {α : Type} {q : α → Bool} {f g : α → α} (hf : ∀ x, q (f x) = q x) (l : List α) :
    modFirst q g (modFirst q f l) = modFirst q (fun x => g (f x)) l := by
  induction l with
  | nil => rfl
  | cons x l ih =>
    by_cases hx : q x = true
    · rw [modFirst, if_pos hx, modFirst, if_pos ((hf x).trans hx), modFirst, if_pos hx]
    · rw [modFirst, if_neg hx, modFirst, if_neg hx, ih, modFirst, if_neg hx]

/-- What was handed over and has begun waits no more. -/
theorem noneQueued_begun {s : State} {p : Track → Bool} (h : noneQueued s p) (id : Nat) : noneQueued (begin (handOver s id) id) p := by
  intro x hx hpx
  have htrack : (begin (handOver s id) id).hif.track = modFirst (fun t : Track => decide (t.id = id))
      (fun t => { t with phase := .running, handed := s.hif.nextHanded, past := true }) s.hif.track :=
    modFirst_modFirst (f := fun t : Track => { t with phase := .queued, handed := s.hif.nextHanded })
      (g := fun t => { t with phase := .running, past := true }) (fun _ => rfl) _
  rw [htrack] at hx
  obtain ⟨y, hy, rfl | rfl⟩ := mem_modFirst hx
  · exact h x hy hpx
  · exact Phase.noConfusion

theorem noneQueued.of_track {s u : State} {p : Track → Bool} (h : noneQueued s p) (hu : u.hif.track = s.hif.track) : noneQueued u p :=
  fun x hx => h x (hu ▸ hx)

/-- A TABLE_LOAD handed over is no read, so that no read changes. -/
theorem readHolds_handOver {s : State} {t : Track} (ht : findTrack s t.id = some t) (hp : t.phase = .ready) (p : Nat) :
    readHolds (handOver s t.id) p = readHolds s p := by
  have hfilter := filter_modFirst (p := fun x : Track => readRuns p x && s.spareReads.contains x.id)
    (f := fun x : Track => { x with phase := .queued, handed := s.hif.nextHanded }) ht (by simp [readRuns, hp]) (by simp [readRuns])
  have hany (l : List Track) (q : Track → Bool) : l.any q = !(l.filter q).isEmpty := by
    induction l with
    | nil => rfl
    | cons x l ih =>
      rw [List.any_cons, List.filter_cons]
      cases q x with
      | true => rfl
      | false => exact ih
  unfold readHolds handOver modTrack
  dsimp only
  rw [hany, hany, hfilter]

section
variable {s : State} {t : Track} (ht : findTrack s t.id = some t) (hp : t.phase = .ready) (hop : t.desc.opcode = 0x11)
  (hnone : noLoadWaits s t.desc.object)
include ht hp hop hnone

/-- A BEGIN waits for a read that holds the copy it would overwrite. -/
theorem startLoad_waits (hbegin : loadBegin t.desc = true) (hread : readHolds s t.desc.object = true) :
    startLoad (handOver s t.id) t = handOver s t.id := by
  have hnext : nextQueued (handOver s t.id) (isLoad t.desc.object) = some (handed s t) :=
    nextQueued_handOver ht (isLoad_congr _) (decide_eq_true ⟨hop, rfl⟩) hnone.queued
  unfold startLoad nextLoad
  cases (handOver s t.id).hif.track.length with
  | zero => rfl
  | succ n =>
    rw [serveLoads, nextQueued_loads, hnext]
    exact if_pos (by rw [readHolds_handOver ht hp, hread, show loadBegin (handed s t).desc = true from hbegin, Bool.true_and, Bool.or_true])

variable (hrun : loadRunning s t.desc.object = false)
include hrun

/-- A load that Table 7-9 takes starts where none of its part is before it. -/
theorem startLoad_taken (hcheck : loadCheck s t.desc = (stOk, 0)) (hread : (loadBegin t.desc && readHolds s t.desc.object) = false) :
    startLoad (handOver s t.id) t = begin (if loadBegin t.desc then
      setStage (handOver s t.id) t.desc.object ⟨.loading, 0, loadSize t.desc, [], none⟩ else handOver s t.id) t.id := by
  have hnext : nextQueued (handOver s t.id) (isLoad t.desc.object) = some (handed s t) :=
    nextQueued_handOver ht (isLoad_congr _) (decide_eq_true ⟨hop, rfl⟩) hnone.queued
  have hjudge : judgeLoad (handOver s t.id) (handed s t) = begin (if loadBegin t.desc then
      setStage (handOver s t.id) t.desc.object ⟨.loading, 0, loadSize t.desc, [], none⟩ else handOver s t.id) t.id := by
    unfold judgeLoad
    dsimp only
    rw [show loadCheck (handOver s t.id) (handed s t).desc = (stOk, 0) from hcheck]
    rfl
  have hidle : noneQueued (judgeLoad (handOver s t.id) (handed s t)) (isLoad t.desc.object) := by
    rw [hjudge]
    refine (noneQueued_begun hnone.queued t.id).of_track ?_
    split <;> rfl
  unfold startLoad nextLoad
  cases hlen : (handOver s t.id).hif.track.length with
  | zero => exact absurd (List.length_pos_of_mem (List.mem_of_find?_eq_some (findTrack_handOver ht))) (by rw [hlen]; exact Nat.lt_irrefl 0)
  | succ n =>
    rw [serveLoads, nextQueued_loads, hnext]
    dsimp only
    have hfree : (loadRunning (handOver s t.id) t.desc.object ||
        (loadBegin (handed s t).desc && readHolds (handOver s t.id) t.desc.object)) = false := by
      rw [loadRunning_handOver hrun, readHolds_handOver ht hp]
      exact hread
    rw [if_neg (by rw [hfree]; exact Bool.false_ne_true), serveLoads_idle hidle, hjudge]

end

theorem loadCheck_continues {s : State} {d : Desc} (h : loadCheck s d = (stOk, 0)) (hbegin : loadBegin d = false) :
    (stageOf s d.object).state = .loading ∧ loadOffset d = (stageOf s d.object).data.length := by
  unfold loadCheck at h
  dsimp only at h
  rw [hbegin] at h
  split at h
  · exact absurd (congrArg Prod.fst h) (by decide)
  · split at h
    · exact absurd (congrArg Prod.fst h) (by decide)
    · rw [if_neg Bool.false_ne_true] at h
      split at h
      · exact absurd (congrArg Prod.fst h) (by decide)
      next hstate =>
        split at h
        · exact absurd (congrArg Prod.fst h) (by simp)
        next hoff => exact ⟨not_not.1 hstate, not_not.1 hoff⟩

/-! ### A block's data, and what is found of a whole image (R196, R197) -/

theorem stages_of_outside {w : List Part} {s t : State} (h : t.outside w = s.outside w) (hw : .stages ∉ w) : t.stages = s.stages := by
  simpa [State.outside, hw] using congrArg State.stages h

theorem badEntry_of_outside {w : List Part} {s t : State} (h : t.outside w = s.outside w) (hw : .badEntry ∉ w) : t.badEntry = s.badEntry := by
  simpa [State.outside, hw] using congrArg State.badEntry h

theorem track_of_outside {w : List Part} {s t : State} (h : t.outside w = s.outside w) (hw : .track ∉ w) : t.hif.track = s.hif.track := by
  simpa [State.outside, Hif.outside, hw] using congrArg (·.hif.track) h

theorem stageOf_setStage {s : State} (hs : s.canon) (p : Nat) (x : Stage) (q : Nat) :
    stageOf (setStage s p x) q = if q = p then x else stageOf s q := tget_tput hs.stages

/-- A TABLE_LOAD that ends with none waiting behind it. -/
theorem finishLoad_idle {s : State} {t : Track} (h : noneQueued s (isLoad t.desc.object)) (st r0 r1 : Nat) :
    finishLoad s t st r0 r1 = finish s t.id st r0 r1 := nextLoad_idle (h.settles (finish_settles _ _ _ _ _))

/-- What a notice changes. -/
def noteParts : List Part := [.counts, .fresh, .records, .outboxes, .out]

/-- A part's staging becomes INVALID, BAD_ENTRY keeps the entry, and a notice tells it. -/
theorem partInvalid_spec {s : State} (hs : s.canon) (p : Nat) (b : Bad) :
    stageOf (partInvalid s p b) p = { stageOf s p with state := .invalid, reason := b.reason } ∧
      tget (fun _ => 0) (partInvalid s p b).badEntry (partBlock p) = w32 b.entry ∧ (partInvalid s p b).cfg = s.cfg ∧
      (partInvalid s p b).hif.track = s.hif.track ∧ (alone s → alone (partInvalid s p b)) := by
  obtain ⟨v, hv, hstages, hbad, hcfg, htrack, halone⟩ : ∃ v, (partInvalid s p b).outside noteParts = v.outside noteParts ∧
      v.stages = (setStage s p { stageOf s p with state := .invalid, reason := b.reason }).stages ∧
      v.badEntry = tput (fun _ => 0) s.badEntry (partBlock p) (w32 b.entry) ∧ v.cfg = s.cfg ∧ v.hif.track = s.hif.track ∧
      (alone s → alone v) := by
    unfold partInvalid
    dsimp only
    refine ⟨_, noticeBoth_outside (by constructor <;> decide) _ _ _ _, ?_⟩
    split
    · exact ⟨rfl, rfl, rfl, rfl, fun h => h.congr rfl rfl rfl⟩
    · exact ⟨rfl, rfl, rfl, rfl, fun h => h.congr rfl rfl rfl⟩
  have htrack' := (track_of_outside hv (by decide)).trans htrack
  refine ⟨?_, ?_, (cfg_of_outside hv (by decide)).trans hcfg, htrack', fun h => ?_⟩
  · rw [stageOf, stages_of_outside hv (by decide), hstages]
    exact tget_tput_self hs.stages
  · rw [badEntry_of_outside hv (by decide), hbad]
    exact tget_tput_self hs.badEntry
  · exact (halone h).congr (boot_of_outside hv (by decide)) (twn_of_outside hv (by decide) (by decide) (by decide))
      (track_of_outside hv (by decide))

/-- The part's staging with a block's data appended. -/
def appended (s : State) (t : Track) (data : List Byte) : State :=
  setStage s t.desc.object { stageOf s t.desc.object with data := (stageOf s t.desc.object).data ++ slice data 0 t.desc.length }

/-- A block that is not the last ends as its data is appended. -/
theorem blockWritten_more {s : State} {t : Track} {data : List Byte} (hnone : noLoadWaits s t.desc.object)
    (hend : loadEnd t.desc = false) : blockWritten s t data = finish (appended s t data) t.id stOk 0 0 := by
  have hidle : noneQueued (appended s t data) (isLoad t.desc.object) := hnone.queued.of_track rfl
  unfold blockWritten
  dsimp only
  rw [hend]
  exact finishLoad_idle hidle _ _ _

/-- A read's range is in host memory, and its copy no longer named. -/
def readGiven (s : State) (t : Track) : State :=
  dropRead { s with out := s.out ++ [.data t.desc.hostAddr (slice (tget (fun _ => []) s.reads t.id) (darg t.desc 0) t.desc.length)] } t.id

theorem readDone_idle {s : State} {t : Track} (hnone : noLoadWaits s t.desc.object)
    (hlive : t.desc.object ≠ 1 ∨ bitOf (darg t.desc 1) 0 = true) : tableReadDone s t = finish (readGiven s t) t.id stOk 0 0 := by
  have hidle : noneQueued (readGiven s t) (isLoad t.desc.object) := hnone.queued.of_track rfl
  have hcopy : ¬ (t.desc.object = 1 ∧ bitOf (darg t.desc 1) 0 = false) := fun h =>
    hlive.elim (fun hne => hne h.1) fun hb => Bool.noConfusion (hb.symm.trans h.2)
  unfold tableReadDone
  dsimp only
  rw [if_neg hcopy]
  exact nextLoad_idle (hidle.settles (finish_settles _ _ _ _ _))

theorem validating_load {s : State} {p : Nat} {t : Track} (h : validating s p = some t) : t.desc.object = p := by
  have hp := List.find?_some (p := fun t : Track => decide (t.desc.opcode = 0x11 ∧ t.desc.object = p ∧ t.phase = .running) &&
    loadEnd t.desc && decide ((stageOf s p).state = .loading ∧ (stageOf s p).data.length = (stageOf s p).size)) h
  exact (of_decide_eq_true (Bool.and_eq_true_iff.1 (Bool.and_eq_true_iff.1 hp).1).1).2.1

section
variable {s : State} {p : Nat} {t : Track} (hv : validating s p = some t) (hnone : noLoadWaits s p)
include hv hnone

theorem validationComplete_valid (h : validate p (stageOf s p).data (stageOf s p).size = none) : validationComplete s p =
    finish (setStage s p { stageOf s p with state := .valid, reason := 0 }) t.id stOk 0 0 := by
  have hidle : noneQueued (setStage s p { stageOf s p with state := .valid, reason := 0 }) (isLoad t.desc.object) := by
    rw [validating_load hv]
    exact hnone.queued.of_track rfl
  unfold validationComplete
  rw [hv]
  dsimp only
  rw [h]
  exact finishLoad_idle hidle _ _ _

theorem validationComplete_invalid (hs : s.canon) {b : Bad} (h : validate p (stageOf s p).data (stageOf s p).size = some b) :
    validationComplete s p = finish (partInvalid s p b) t.id stInvalid b.entry b.reason := by
  obtain ⟨-, -, -, htrack, -⟩ := partInvalid_spec hs p b
  have hidle : noneQueued (partInvalid s p b) (isLoad t.desc.object) := by
    rw [validating_load hv]
    exact hnone.queued.of_track htrack
  unfold validationComplete
  rw [hv]
  dsimp only
  rw [h]
  exact finishLoad_idle hidle _ _ _

end

/-- A block's read that failed leaves the part INVALID, with reason 12. -/
theorem blockFailed_stage {s : State} (hs : s.canon) {t : Track} (hidle : noneQueued s (isLoad t.desc.object)) :
    stageOf (blockFailed s t) t.desc.object = { stageOf s t.desc.object with
      state := .invalid, reason := 12, hole := some ((stageOf s t.desc.object).data.length, t.desc.length) } := by
  have hset := (setStage_keeps s t.desc.object { stageOf s t.desc.object with
    hole := some ((stageOf s t.desc.object).data.length, t.desc.length) } (.refl s)).canon hs
  obtain ⟨hstage, -, -, htrack, -⟩ := partInvalid_spec hset t.desc.object ⟨12, noEntry, noEntry⟩
  unfold blockFailed
  dsimp only
  rw [nextLoad_idle (hidle.of_track htrack), hstage, stageOf_setStage hs, if_pos rfl]

section
variable {s : State} {t : Track} (hargs : argsZeroFrom t.desc 2 = true)
  (hlen : 8 ≤ t.desc.length ∧ t.desc.length ≤ 16777216 ∧ t.desc.length % 8 = 0)
include hargs hlen

/-- A TABLE_READ of the active copy fixes it as it is. -/
theorem startTableRead_active (hzero : darg t.desc 1 = 0) (hne : partOf s.cfg t.desc.object ≠ [])
    (hle : darg t.desc 0 + t.desc.length ≤ (partOf s.cfg t.desc.object).length) :
    startTableRead s t = begin { s with reads := tput (fun _ => []) s.reads t.id (partOf s.cfg t.desc.object) } t.id := by
  unfold startTableRead
  dsimp only
  rw [if_neg (by simp [hargs, hzero]), if_neg (by omega), hzero, if_neg (by decide), if_neg hne, if_neg (by simpa using hle), List.append_nil]

/-- One of the staged copy fixes that, and holds a BEGIN of its part. -/
theorem startTableRead_staged (hone : darg t.desc 1 = 1)
    (hstate : (stageOf s t.desc.object).state ≠ .empty ∧ (stageOf s t.desc.object).state ≠ .loading)
    (hhole : (stageOf s t.desc.object).hole = none) (hle : darg t.desc 0 + t.desc.length ≤ (stageOf s t.desc.object).size) :
    startTableRead s t = begin { s with
      reads := tput (fun _ => []) s.reads t.id (slice (stageOf s t.desc.object).data 0 (stageOf s t.desc.object).size)
      spareReads := s.spareReads ++ [t.id] } t.id := by
  have hbytes : stagedBytes s (stageOf s t.desc.object) = (slice (stageOf s t.desc.object).data 0 (stageOf s t.desc.object).size, s) := by
    unfold stagedBytes
    rw [hhole]
  have hsize : ¬ (slice (stageOf s t.desc.object).data 0 (stageOf s t.desc.object).size).length < darg t.desc 0 + t.desc.length := by
    rw [slice_eq_map, List.length_map, List.length_range]
    omega
  unfold startTableRead
  dsimp only
  rw [if_neg (by simp [hargs, hone]), if_neg (by omega), hone, if_pos (by decide), if_neg (by simp [hstate.1, hstate.2]), hbytes]
  dsimp only
  rw [if_neg (by simpa using hsize), if_neg (by simpa using hsize)]

end

theorem exec_validation {s : State} {p : Fin 7} (h : alone (validationComplete s p)) :
    exec (.tableValidationComplete p) s = done (validationComplete s p) :=
  congrArg done (by rw [h.retryBehind, h.judgeAcks, h.sendAcks])

theorem exec_tableLoad {n : Fin 64} {d : Desc} {t : Track} {s : State} (ha : awaits s n (withOp 0x11 d) t) :
    exec (.tableLoad n d) s = done (startLoad (handOver s t.id) t) :=
  congrArg done ((startDesc_of_awaits ha).trans (startEntry_load ha.refuses (by rw [ha.desc_eq]; rfl)))

/-- Settles O34: a load of its part starts where none is before it, its blocks are appended in order, and the reads hold the copy
they name. -/
theorem partsAreStaged : Obligations.PartsAreStaged := by
  refine ⟨⟨fun n d t s ha hrun hnone hcheck => ⟨fun hb hr => ?_, fun hb hr => ?_, fun hb => ⟨?_, ?_⟩⟩,
    fun n tag data t s hs ha hf hop hnone hend => ?_⟩, ⟨fun p t s hs ha hv hnone => ?_,
    fun n tag addr data t s hs hf => ⟨fun hop => ?_, fun hop hnone => ?_, fun hop => ?_, fun hop => ?_, fun hop hnone => ?_⟩⟩,
    fun n d t s ha hargs hmin hmax hmod => ⟨fun h1 hne hle => ?_, fun h1 hne hnl hhole hle => ?_⟩,
    fun n tag data t s ha hf hop hlive hnone => ?_⟩
  · rw [exec_tableLoad ha]
    have hdesc := ha.desc_eq
    rw [startLoad_taken ha.find ha.ready (by rw [hdesc]; rfl) (by rw [hdesc]; exact hnone) (by rw [hdesc]; exact hrun)
      (by rw [hdesc]; exact hcheck) (by rw [hdesc]; simp only [object_withOp, hr, Bool.and_false]), if_pos (by rw [hdesc]; exact hb), hdesc]
    rfl
  · have hdesc := ha.desc_eq
    rw [exec_tableLoad ha, startLoad_waits ha.find ha.ready (by rw [hdesc]; rfl) (by rw [hdesc]; exact hnone) (by rw [hdesc]; exact hb)
      (by rw [hdesc]; exact hr)]
    rfl
  · have hdesc := ha.desc_eq
    have hb' : loadBegin t.desc = false := by rw [hdesc]; exact hb
    rw [exec_tableLoad ha, startLoad_taken ha.find ha.ready (by rw [hdesc]; rfl) (by rw [hdesc]; exact hnone) (by rw [hdesc]; exact hrun)
      (by rw [hdesc]; exact hcheck) (by rw [hb', Bool.false_and]), if_neg (by rw [hb']; exact Bool.false_ne_true)]
    rfl
  · exact loadCheck_continues hcheck hb
  · have hblock := blockWritten_more (data := data) hnone hend
    have hset : alone (appended s t data) := ha.congr rfl rfl rfl
    have hout := finish_outside_finishParts (appended s t data) t.id stOk 0 0
    have hexec : exec (.descriptorDmaDone n tag data) s = done (memRequest (blockWritten s t data)) := by
      refine (exec_descriptorDmaDone hf data).trans (congrArg done ?_)
      unfold transferDone
      dsimp only
      rw [hop]
      simp only [forwardData_off ha.1, hblock]
      exact alone.retryBehind (alone.memRequest (hset.finish t.id stOk 0 0))
    rw [hblock] at hexec
    refine ⟨_, hexec, ?_⟩
    rw [memRequest_hoop]
    refine ⟨?_, fun p hp => ?_, (cfg_of_outside (w := finishParts) hout (by decide)).trans rfl⟩
    · exact (congrArg (fun m => tget (fun _ => Stage.reset) m t.desc.object) (stages_of_outside hout (by decide))).trans
        ((stageOf_setStage hs _ _ _).trans (if_pos rfl))
    · exact (congrArg (fun m => tget (fun _ => Stage.reset) m p) (stages_of_outside hout (by decide))).trans
        ((stageOf_setStage hs _ _ _).trans (if_neg hp))
  · cases hval : validate p (stageOf s p).data (stageOf s p).size with
    | none =>
      have hset : alone (setStage s p { stageOf s p with state := .valid, reason := 0 }) := ha.congr rfl rfl rfl
      have heq := validationComplete_valid hv hnone hval
      have hout := finish_outside_finishParts (setStage s p { stageOf s p with state := .valid, reason := 0 }) t.id stOk 0 0
      refine ⟨_, exec_validation (by rw [heq]; exact hset.finish t.id stOk 0 0), ?_⟩
      rw [heq]
      refine ⟨(cfg_of_outside (w := finishParts) hout (by decide)).trans rfl, fun _ => ⟨?_, ?_⟩, fun b hb => nomatch hb⟩
      · rw [stageOf, stages_of_outside hout (by decide)]
        exact (stageOf_setStage hs _ _ _).trans (if_pos rfl)
      · exact (badEntry_of_outside (w := finishParts) hout (by decide)).trans rfl
    | some b =>
      obtain ⟨hstage, hbad, hcfg, -, halone⟩ := partInvalid_spec hs p b
      have heq := validationComplete_invalid hv hnone hs hval
      have hout := finish_outside_finishParts (partInvalid s p b) t.id stInvalid b.entry b.reason
      refine ⟨_, exec_validation (by rw [heq]; exact (halone ha).finish t.id stInvalid b.entry b.reason), ?_⟩
      rw [heq]
      refine ⟨(cfg_of_outside hout (by decide)).trans hcfg, fun h => absurd h (Option.some_ne_none b), fun b' hb' => ?_⟩
      obtain rfl := Option.some.inj hb'
      rw [stageOf, stages_of_outside hout (by decide), badEntry_of_outside hout (by decide)]
      exact ⟨hstage, hbad⟩
  · refine congrArg done ?_
    rw [hf]
    unfold transferFailed
    dsimp only
    rcases hop with hop | hop | hop <;> rw [hop] <;> rfl
  · refine congrArg done ?_
    rw [hf]
    unfold transferFailed
    dsimp only
    rw [hop]
    have hidle : noneQueued (dropRead s t.id) (isLoad t.desc.object) := hnone.queued.of_track rfl
    exact nextLoad_idle (hidle.settles (finish_settles _ _ _ _ _))
  · refine congrArg done ?_
    rw [hf]
    unfold transferFailed
    dsimp only
    rw [hop]
    rfl
  · refine congrArg done ?_
    rw [hf]
    unfold transferFailed
    dsimp only
    rw [hop]
    rfl
  · have hexec : exec (.hostDmaError n tag addr data) s =
        done (blockFailed (finish s t.id stDma (addr % 2 ^ 32) (addr / 2 ^ 32 % 2 ^ 32)) t) := by
      refine congrArg done ?_
      rw [hf]
      unfold transferFailed
      dsimp only
      rw [hop]
      rfl
    have hstage := blockFailed_stage ((finish_keeps s t.id _ _ _ (.refl s)).canon hs)
      (hnone.queued.settles (finish_settles s t.id stDma (addr % 2 ^ 32) (addr / 2 ^ 32 % 2 ^ 32)))
    exact ⟨_, hexec, congrArg Stage.state hstage, congrArg Stage.reason hstage⟩
  · have hdesc := ha.desc_eq
    have hobj : t.desc.object = d.object := by rw [hdesc]; rfl
    refine congrArg done ((startDesc_of_awaits ha).trans ?_)
    rw [startEntry_tableRead ha.refuses (by rw [hdesc]; rfl), startTableRead_active (s := handOver s t.id) (by rw [hdesc]; exact hargs)
      (by rw [hdesc]; exact ⟨hmin, hmax, hmod⟩) (by rw [hdesc]; exact h1) (by rw [hdesc]; exact hne) (by rw [hdesc]; exact hle), hobj]
    rfl
  · have hdesc := ha.desc_eq
    have hobj : t.desc.object = d.object := by rw [hdesc]; rfl
    refine congrArg done ((startDesc_of_awaits ha).trans ?_)
    rw [startEntry_tableRead ha.refuses (by rw [hdesc]; rfl), startTableRead_staged (s := handOver s t.id) (by rw [hdesc]; exact hargs)
      (by rw [hdesc]; exact ⟨hmin, hmax, hmod⟩) (by rw [hdesc]; exact h1) (by rw [hdesc]; exact ⟨hne, hnl⟩) (by rw [hdesc]; exact hhole)
      (by rw [hdesc]; exact hle), hobj]
    rfl
  · have hexec := readDone_idle hnone hlive
    refine (exec_descriptorDmaDone hf data).trans (congrArg done ?_)
    unfold transferDone
    dsimp only
    rw [hop]
    simp only [hexec]
    have hgiven : alone (readGiven s t) := ha.congr rfl rfl rfl
    exact alone.retryBehind (alone.memRequest (hgiven.finish t.id stOk 0 0))

end Sys2Proof.Machine

/-! ABORT (R70), of a descriptor that the tracker lists twice: `distinctIds` compares entries by their values, so that it does not
exclude two copies of one entry. -/
namespace Sys2Proof.Machine

/-- An IMAGE_BLOCK of ring 0 that waits for its turn in its block, its length not yet judged. -/
def waitingBlock : Track :=
  { id := 1, ring := 0, cq := 0, handed := 0, origin := .host, desc := ⟨0x40, 0, 0, 0, 0, 0, 0, []⟩, phase := .queued, past := false
    late := false, control := false, waits := [], fwd := false, fin := 0, orphan := false }

/-- The ABORT of tag 0 on ring 0, without its opcode. -/
def abortWords : Desc := ⟨0, 0, 0, 0, 0, 0, 0, []⟩

/-- The ABORT's entry, the next of ring 0 to start. -/
def readyAbort : Track := { waitingBlock with id := 2, desc := withOp 0x60 abortWords, phase := .ready }

/-- The tracker lists the block twice, and the ABORT of it. -/
def blockTwice : State :=
  { State.reset with hif := { Hif.reset with track := [waitingBlock, waitingBlock, readyAbort] } }

theorem blockTwice_awaits : awaits blockTwice 0 (withOp 0x60 abortWords) readyAbort :=
  ⟨by decide, rfl, rfl, rfl, by decide, by decide⟩

theorem blockTwice_distinctIds : distinctIds blockTwice := by
  unfold distinctIds
  decide

/-- The ABORT settles the block's first copy; its second, whose turn comes then, ends for its length, on the first again. -/
theorem blockTwice_aborted : (findTrack (startEntry blockTwice readyAbort) waitingBlock.id).map (·.phase) =
    some (.done stLength 0 0 0) := by decide +kernel

/-- Refutes O35: the copy of the aborted block that is left in its queue is judged, and the status of the first becomes LENGTH
instead of ABORTED. -/
theorem not_trackerDescriptors : ¬ Obligations.TrackerDescriptors := by
  unfold Obligations.TrackerDescriptors
  rintro ⟨-, habort⟩
  obtain ⟨haborted, -⟩ := habort 0 abortWords readyAbort waitingBlock blockTwice blockTwice_awaits rfl rfl rfl rfl rfl (by decide)
    (by decide) (by decide) (by decide) rfl (by decide) blockTwice_distinctIds (fun j hj => absurd hj List.not_mem_nil)
  obtain ⟨u, e, a, hu, he, hphase, -⟩ := haborted rfl rfl
  obtain rfl : startDesc blockTwice 0 (withOp 0x60 abortWords) = u := Host.Outcome.next.inj hu
  rw [startDesc_of_awaits blockTwice_awaits] at he
  have hfirst := blockTwice_aborted
  rw [he, Option.map_some, hphase] at hfirst
  exact absurd hfirst (by decide)

end Sys2Proof.Machine
